-- ==== Sys2Proof/Word.lean ====
section
/-! DEFINITION. The word types of the BX-16 (spec 00 R5-R9) and the names of its agents (R8, R122, R223). -/

namespace Sys2Proof

/-- A scalar register, a CSR, an address while it is computed: 64 bits (R62). -/
abbrev W := BitVec 64

/-- One byte of a memory. -/
abbrev Byte := BitVec 8

/-- One vector register, 512 bits (R62, R63). -/
abbrev VReg := BitVec 512

/-- A buffer record, 256 bits (R200). -/
abbrev Rec := BitVec 256

/-- Who executes an instruction. `tile t a`: agent `a` of the tile with system tile address `t` (R8), 0-7 the
strands, 8 the haul hart, 9 the shape hart. `svc d c`: service core `c` of die `d`, 0 the translation service core
(agent index 10), 1 the die control core (agent index 11) (R16, R122). A die is named 16 * module + die. -/
inductive Who where
  | tile (t : Nat) (a : Fin 10)
  | svc (d : Nat) (c : Fin 2)
  deriving DecidableEq, Repr, Inhabited

/-- The core types of R20 and of CSR `CORETYPE` (R122). -/
inductive CoreKind where
  | work | haul | shape | service
  deriving DecidableEq, Repr, Inhabited

/-- The core type of an agent (R19, R122). -/
def Who.kind : Who → CoreKind
  | .tile _ a => if a.val < 8 then .work else if a.val = 8 then .haul else .shape
  | .svc _ _ => .service

/-- Bits `lo + len - 1` to `lo` of a natural number (R6, R10: `bits(v, h, l)`). -/
def fld (w lo len : Nat) : Nat := w / 2 ^ lo % 2 ^ len

/-- Bits `lo + len - 1` to `lo` of a 64-bit word, as a natural number (R10). -/
def W.fld (w : W) (lo len : Nat) : Nat := w.toNat / 2 ^ lo % 2 ^ len

/-- One bit of a natural number. -/
def bitOf (w i : Nat) : Bool := w / 2 ^ i % 2 = 1

/-- `sext(f)`: a field of `n` bits read as two's complement (R10). -/
def sextNat (n f : Nat) : Int := if 2 * f < 2 ^ n then (f : Int) else (f : Int) - 2 ^ n

/-- The natural number of little-endian bytes (R6). -/
def leNat : List Byte → Nat
  | [] => 0
  | b :: bs => b.toNat + 256 * leNat bs

/-- `n` little-endian bytes of a natural number (R6). -/
def leBytes : Nat → Nat → List Byte
  | 0, _ => []
  | n + 1, v => BitVec.ofNat 8 v :: leBytes n (v / 256)

end Sys2Proof
end

