-- ==== Sys2Proof/Config.lean ====
section
/-! DEFINITION. What the implementation fixes, and the free values: constants with no body, so that nothing can be proved
of what they are (R1, R2). -/

namespace Sys2Proof

/-- The free byte number `n` at address `a`: an unspecified value (R2). -/
opaque Config.freeByte : (n a : Nat) → Byte

/-- The free value number `n` of `w` bits: an unspecified value (R2). -/
opaque Config.freeBits : (w n : Nat) → BitVec w

/-- The serial number of a module (R427). -/
opaque Config.serial : (m : Nat) → W

/-- The private key of a module's Ed448 identity, 57 bytes, made inside the device (R427). -/
opaque Config.identitySecret : (m : Nat) → BitVec 456

/-- The die whose scale-out port carries the barrier packets and launch joins of a module, modulo 16 (R165, R437): the spec leaves
the path between module nodes and pod nodes to firmware. -/
opaque Config.podPort : (m : Nat) → Nat

/-- The top byte address of tile memory, 0x1EFFFF, plus one (R85). -/
def Config.tmSize : Nat := 0x1F0000

/-- The top byte address of a core memory plus one (R17). -/
def Config.coreMemSize : Nat := 0x80000

end Sys2Proof
end

