-- ==== Sys2Proof/Syntax.lean ====
section
/-! DEFINITION. The steps of the part: one constructor per row of spec/opcode_table.json (spec 03 R57-R78, spec 95).
The first rows are the words of the Melbeuk instruction set, with their fields as the encoding gives them, named by the
table's letters and in ascending bit position; the rows that have no word are the machine's own steps and the outside
world's (spec 95: each step whole and indivisible), with the unit they happen in as arguments: `t` a system tile address,
`d` a die (16 * module + die), `m` a module, `a` an agent, `r` a region start (its serial number in State.regions). -/

namespace Sys2Proof

/-- A port that carries Oclys (R15): the scale-out port of a die (16 * module + die), or its host port; or, where `side` names one, an end
of one of its four die-to-die links, which replay under the same rule (R353). -/
structure PortId where
  die : Nat
  host : Bool
  side : Option (Fin 4)
  deriving DecidableEq, Repr, Inhabited

/-- One constructor per row of spec/opcode_table.json. -/
inductive Instr where
  /-- ADD (R123): Writes X[a] + X[b], wrapped to 64 bits, to X[d]. -/
  | add (d : BitVec 5) (a : BitVec 5) (b : BitVec 5)
  /-- SUB (R123): Writes X[a] - X[b], wrapped to 64 bits, to X[d]. -/
  | sub (d : BitVec 5) (a : BitVec 5) (b : BitVec 5)
  /-- AND (R123): Writes the bitwise AND of X[a] and X[b] to X[d]. -/
  | and (d : BitVec 5) (a : BitVec 5) (b : BitVec 5)
  /-- OR (R123): Writes the bitwise OR of X[a] and X[b] to X[d]. -/
  | or (d : BitVec 5) (a : BitVec 5) (b : BitVec 5)
  /-- XOR (R123): Writes the bitwise XOR of X[a] and X[b] to X[d]. -/
  | xor (d : BitVec 5) (a : BitVec 5) (b : BitVec 5)
  /-- ANDN (R123): Writes X[a] AND NOT X[b] to X[d]. -/
  | andn (d : BitVec 5) (a : BitVec 5) (b : BitVec 5)
  /-- SLL (R123): Shifts X[a] left by bits [5:0] of X[b]. -/
  | sll (d : BitVec 5) (a : BitVec 5) (b : BitVec 5)
  /-- SRL (R123): Shifts X[a] right logically by bits [5:0] of X[b]. -/
  | srl (d : BitVec 5) (a : BitVec 5) (b : BitVec 5)
  /-- SRA (R123): Shifts X[a] right arithmetically by bits [5:0] of X[b]. -/
  | sra (d : BitVec 5) (a : BitVec 5) (b : BitVec 5)
  /-- ROR (R123): Rotates X[a] right by bits [5:0] of X[b]. -/
  | ror (d : BitVec 5) (a : BitVec 5) (b : BitVec 5)
  /-- MUL (R123): Writes the low 64 bits of X[a] times X[b]. -/
  | mul (d : BitVec 5) (a : BitVec 5) (b : BitVec 5)
  /-- MULH_S (R123): Writes the high 64 bits of the signed product. -/
  | mulhS (d : BitVec 5) (a : BitVec 5) (b : BitVec 5)
  /-- MULH_N (R123): Writes the high 64 bits of the unsigned product. -/
  | mulhN (d : BitVec 5) (a : BitVec 5) (b : BitVec 5)
  /-- DIV_S (R123): Signed division rounded toward zero, with fixed results for zero divisor and overflow. -/
  | divS (d : BitVec 5) (a : BitVec 5) (b : BitVec 5)
  /-- DIV_N (R123): Unsigned division; a zero divisor gives all ones. -/
  | divN (d : BitVec 5) (a : BitVec 5) (b : BitVec 5)
  /-- REM_S (R123): Signed remainder with the sign of the dividend. -/
  | remS (d : BitVec 5) (a : BitVec 5) (b : BitVec 5)
  /-- REM_N (R123): Unsigned remainder; a zero divisor gives X[a]. -/
  | remN (d : BitVec 5) (a : BitVec 5) (b : BitVec 5)
  /-- MIN_S (R123): Writes the signed minimum of X[a] and X[b]. -/
  | minS (d : BitVec 5) (a : BitVec 5) (b : BitVec 5)
  /-- MIN_N (R123): Writes the unsigned minimum of X[a] and X[b]. -/
  | minN (d : BitVec 5) (a : BitVec 5) (b : BitVec 5)
  /-- MAX_S (R123): Writes the signed maximum of X[a] and X[b]. -/
  | maxS (d : BitVec 5) (a : BitVec 5) (b : BitVec 5)
  /-- MAX_N (R123): Writes the unsigned maximum of X[a] and X[b]. -/
  | maxN (d : BitVec 5) (a : BitVec 5) (b : BitVec 5)
  /-- CLZ (R123): Counts leading zero bits of X[a]. -/
  | clz (d : BitVec 5) (a : BitVec 5)
  /-- CTZ (R123): Counts trailing zero bits of X[a]. -/
  | ctz (d : BitVec 5) (a : BitVec 5)
  /-- POPC (R123): Counts one bits of X[a]. -/
  | popc (d : BitVec 5) (a : BitVec 5)
  /-- MOD31 (R123): Writes X[a] mod 31, the bank of a bank word number. -/
  | mod31 (d : BitVec 5) (a : BitVec 5)
  /-- ADDI (R124): Adds the sign-extended 15-bit immediate to X[a]. -/
  | addi (d : BitVec 5) (a : BitVec 5) (i : BitVec 15)
  /-- ANDI (R124): ANDs X[a] with the sign-extended immediate. -/
  | andi (d : BitVec 5) (a : BitVec 5) (i : BitVec 15)
  /-- ORI (R124): ORs X[a] with the sign-extended immediate. -/
  | ori (d : BitVec 5) (a : BitVec 5) (i : BitVec 15)
  /-- XORI (R124): XORs X[a] with the sign-extended immediate. -/
  | xori (d : BitVec 5) (a : BitVec 5) (i : BitVec 15)
  /-- SLLI (R125): Shifts X[a] left by a literal amount. -/
  | slli (d : BitVec 5) (a : BitVec 5) (n : BitVec 6)
  /-- SRLI (R125): Shifts X[a] right logically by a literal amount. -/
  | srli (d : BitVec 5) (a : BitVec 5) (n : BitVec 6)
  /-- SRAI (R125): Shifts X[a] right arithmetically by a literal amount. -/
  | srai (d : BitVec 5) (a : BitVec 5) (n : BitVec 6)
  /-- RORI (R125): Rotates X[a] right by a literal amount. -/
  | rori (d : BitVec 5) (a : BitVec 5) (n : BitVec 6)
  /-- LIH (R126): Loads the sign-extended 20-bit immediate shifted left 12 into X[d]. -/
  | lih (d : BitVec 5) (i : BitVec 20)
  /-- ADDPC (R126): Writes PC plus the shifted immediate into X[d]. -/
  | addpc (d : BitVec 5) (i : BitVec 20)
  /-- PCMP (R127): Sets a predicate to a compare condition on two registers. -/
  | pcmp (p : BitVec 3) (c : BitVec 3) (a : BitVec 5) (b : BitVec 5)
  /-- PCMPI (R127): Sets a predicate to a compare condition on a register and an immediate. -/
  | pcmpi (p : BitVec 3) (c : BitVec 3) (a : BitVec 5) (i : BitVec 14)
  /-- PAND (R128): Predicate AND. -/
  | pand (d : BitVec 3) (a : BitVec 3) (b : BitVec 3)
  /-- POR (R128): Predicate OR. -/
  | por (d : BitVec 3) (a : BitVec 3) (b : BitVec 3)
  /-- PXOR (R128): Predicate XOR. -/
  | pxor (d : BitVec 3) (a : BitVec 3) (b : BitVec 3)
  /-- PANDN (R128): Predicate pa AND NOT pb. -/
  | pandn (d : BitVec 3) (a : BitVec 3) (b : BitVec 3)
  /-- PORN (R128): Predicate pa OR NOT pb. -/
  | porn (d : BitVec 3) (a : BitVec 3) (b : BitVec 3)
  /-- PXNOR (R128): Predicate XNOR. -/
  | pxnor (d : BitVec 3) (a : BitVec 3) (b : BitVec 3)
  /-- LD_S8 (R129): Loads a sign-extended byte from tile memory. -/
  | ldS8 (d : BitVec 5) (a : BitVec 5) (i : BitVec 15)
  /-- LD_N8 (R129): Loads a zero-extended byte from tile memory. -/
  | ldN8 (d : BitVec 5) (a : BitVec 5) (i : BitVec 15)
  /-- LD_S16 (R129): Loads a sign-extended halfword. -/
  | ldS16 (d : BitVec 5) (a : BitVec 5) (i : BitVec 15)
  /-- LD_N16 (R129): Loads a zero-extended halfword. -/
  | ldN16 (d : BitVec 5) (a : BitVec 5) (i : BitVec 15)
  /-- LD_S32 (R129): Loads a sign-extended word. -/
  | ldS32 (d : BitVec 5) (a : BitVec 5) (i : BitVec 15)
  /-- LD_N32 (R129): Loads a zero-extended word. -/
  | ldN32 (d : BitVec 5) (a : BitVec 5) (i : BitVec 15)
  /-- LD_64 (R129): Loads 8 bytes from tile memory. -/
  | ld64 (d : BitVec 5) (a : BitVec 5) (i : BitVec 15)
  /-- ST_8 (R129): Stores the low byte of X[s] to tile memory. -/
  | st8 (s : BitVec 5) (a : BitVec 5) (i : BitVec 15)
  /-- ST_16 (R129): Stores the low halfword of X[s]. -/
  | st16 (s : BitVec 5) (a : BitVec 5) (i : BitVec 15)
  /-- ST_32 (R129): Stores the low word of X[s]. -/
  | st32 (s : BitVec 5) (a : BitVec 5) (i : BitVec 15)
  /-- ST_64 (R129): Stores 8 bytes of X[s]. -/
  | st64 (s : BitVec 5) (a : BitVec 5) (i : BitVec 15)
  /-- LDFE (R130): Loads 8 bytes when the full-empty bit is full, optionally emptying it; waits while empty. -/
  | ldfe (d : BitVec 5) (a : BitVec 5) (c : BitVec 1) (i : BitVec 14)
  /-- LDFE_WAKE (R97): A waiting ldfe proceeds in the cycle its bank word becomes full, the lowest-index ldfe.c emptying the bit. -/
  | ldfeWake (t w : Nat)
  /-- STFE (R130): Stores 8 bytes and sets the full-empty bit full or empty atomically; a release. -/
  | stfe (s : BitVec 5) (a : BitVec 5) (e : BitVec 1) (i : BitVec 14)
  /-- GLD (R131): Loads from committed HBM by virtual address; the strand waits, or parks on a translation fault. -/
  | gld (d : BitVec 5) (a : BitVec 5) (b : BitVec 5) (t : BitVec 3)
  /-- GLD_DATA_RETURN (R131): The data of a gld is written to X[d] and the strand becomes READY. -/
  | gldDataReturn (t a : Nat)
  /-- LDB (R132): Loads through a record register with optional bounds check. -/
  | ldb (d : BitVec 5) (a : BitVec 5) (b : BitVec 5) (t : BitVec 3)
  /-- STB (R132): Stores through a record register with optional bounds check. -/
  | stb (s : BitVec 5) (a : BitVec 5) (b : BitVec 5) (t : BitVec 3)
  /-- BR (R133): Branches when the predicate differs from neg. -/
  | br (p : BitVec 3) (n : BitVec 1) (h : BitVec 1) (o : BitVec 20)
  /-- JAL (R133): Jumps PC-relative and writes the return address. -/
  | jal (d : BitVec 5) (i : BitVec 20)
  /-- JALR (R133): Jumps to X[a] plus immediate and writes the return address. -/
  | jalr (d : BitVec 5) (a : BitVec 5) (i : BitVec 15)
  /-- NOP (R134): Does nothing. -/
  | nop
  /-- YIELD (R134): Gives up the issue slot and resets the watchdog count. -/
  | yield
  /-- EXIT (R137): Returns from an inline child or ends the strand or hart, ending its stream bindings. -/
  | exit
  /-- TRAP (R134): Takes cause 0x11 with X[a] in FADDR. -/
  | trap (a : BitVec 5)
  /-- ERET (R134): Returns to EPC and clears CAUSE.INH. -/
  | eret
  /-- FENCE (R229): Full release and acquire fence; on harts waits for engine operations. -/
  | fence
  /-- FENCE_ACQ (R229): Acquire fence. -/
  | fenceAcq
  /-- FENCE_REL (R229): Release fence; on harts waits for engine operations. -/
  | fenceRel
  /-- CSRR (R135): Reads a CSR into X[d]. -/
  | csrr (d : BitVec 5) (c : BitVec 12)
  /-- CSRW (R135): Writes X[s] to a CSR, visible under R66. -/
  | csrw (s : BitVec 5) (c : BitVec 12)
  /-- SPAWN (R136): Starts a strand in the lowest free slot or runs the child inline. -/
  | spawn (d : BitVec 5) (a : BitVec 5) (n : BitVec 3) (q : BitVec 1)
  /-- SEMV (R104): Adds an amount to a semaphore count; a release; traps on overflow. -/
  | semv (a : BitVec 5) (k : BitVec 6)
  /-- SEMP (R105): Waits for and takes one semaphore unit; an acquire. -/
  | semp (k : BitVec 6)
  /-- SEMPT (R106): Timed semp writing 1 on success or 0 on expiry. -/
  | sempt (e : BitVec 5) (b : BitVec 5) (k : BitVec 6)
  /-- SEMSET (R107): Sets a semaphore count; a release. -/
  | semset (a : BitVec 5) (k : BitVec 6)
  /-- SEMGET (R108): Reads a semaphore count after grants. -/
  | semget (e : BitVec 5) (k : BitVec 6)
  /-- SEMAPHORE_GRANT (R102): In a 2 GHz cycle, units go to waiting semp and sempt in ascending agent index; granted strands become READY. -/
  | semaphoreGrant (t k : Nat)
  /-- SEMPT_EXPIRY (R106): A sempt whose limit ends without a grant fails and its strand becomes READY. -/
  | semptExpiry (t a : Nat)
  /-- BLD (R203): Loads a 32-byte record into a record register. -/
  | bld (d : BitVec 5) (a : BitVec 5) (i : BitVec 10)
  /-- BST (R203): Stores a record register to tile memory. -/
  | bst (d : BitVec 5) (a : BitVec 5) (i : BitVec 10)
  /-- SYNC (R171): Contributes the agent's vote and reduction operand to the close vote and moves it to SYNCED. -/
  | sync (d : BitVec 5) (a : BitVec 5) (b : BitVec 5) (v : BitVec 2) (o : BitVec 3)
  /-- SSQ_NUM (R174): Returns SSNUM. -/
  | ssqNum (d : BitVec 5)
  /-- SSQ_OUT (R174): Returns run kind and last abort cause and tile. -/
  | ssqOut (d : BitVec 5)
  /-- SSQ_RED (R174): Returns the last committed close-vote RESULT. -/
  | ssqRed (d : BitVec 5)
  /-- SSQ_TRY (R174): Returns the root's try count. -/
  | ssqTry (d : BitVec 5)
  /-- SSQ_REL (R174): Returns the nominal start instant of the current compute phase. -/
  | ssqRel (d : BitVec 5)
  /-- SEND (R299): Appends a 64-byte message to the outbox, or reports or traps on a full outbox. -/
  | send (p : BitVec 3) (a : BitVec 5) (b : BitVec 5) (n : BitVec 2) (t : BitVec 1)
  /-- RECV (R300): Pops a message from mailbox N into tile memory, waiting or reporting when empty. -/
  | recv (d : BitVec 5) (a : BitVec 5) (n : BitVec 2) (s : BitVec 1) (p : BitVec 3)
  /-- RECV_ANY (R300): Pops a message from the highest-priority non-empty mailbox. -/
  | recvAny (d : BitVec 5) (a : BitVec 5) (s : BitVec 1) (p : BitVec 3)
  /-- RSPAWN (R301): Appends a spawn request for a strand on another tile to the outbox. -/
  | rspawn (p : BitVec 3) (a : BitVec 5) (b : BitVec 5)
  /-- XSEND (R290): Appends a send entry to the exchange schedule. -/
  | xsend (e : BitVec 5) (a : BitVec 5) (b : BitVec 5)
  /-- XRECV (R290): Appends a receive entry to the exchange schedule. -/
  | xrecv (e : BitVec 5) (a : BitVec 5) (b : BitVec 5)
  /-- VADD_F (R144): Float lane addition, rounded under rm. -/
  | vaddF (d : BitVec 5) (a : BitVec 5) (b : BitVec 5) (t : BitVec 2) (m : BitVec 2)
  /-- VSUB_F (R144): Float lane subtraction. -/
  | vsubF (d : BitVec 5) (a : BitVec 5) (b : BitVec 5) (t : BitVec 2) (m : BitVec 2)
  /-- VMUL_F (R144): Float lane multiplication. -/
  | vmulF (d : BitVec 5) (a : BitVec 5) (b : BitVec 5) (t : BitVec 2) (m : BitVec 2)
  /-- VMIN_F (R144): Float lane minimum. -/
  | vminF (d : BitVec 5) (a : BitVec 5) (b : BitVec 5) (t : BitVec 2) (m : BitVec 2)
  /-- VMAX_F (R144): Float lane maximum. -/
  | vmaxF (d : BitVec 5) (a : BitVec 5) (b : BitVec 5) (t : BitVec 2) (m : BitVec 2)
  /-- VABS_F (R144): Clears the sign bit of each float lane. -/
  | vabsF (d : BitVec 5) (a : BitVec 5) (t : BitVec 2) (m : BitVec 2)
  /-- VNEG (R144): Inverts the sign bit of each float lane. -/
  | vneg (d : BitVec 5) (a : BitVec 5) (t : BitVec 2) (m : BitVec 2)
  /-- VCVT (R145): Converts lanes between float types. -/
  | vcvt (d : BitVec 5) (a : BitVec 5) (u : BitVec 2) (t : BitVec 2) (m : BitVec 2)
  /-- VCVTI (R145): Converts float lanes to S32 with saturation. -/
  | vcvti (d : BitVec 5) (a : BitVec 5) (t : BitVec 2) (m : BitVec 2)
  /-- VCVTF (R145): Converts S32 lanes to a float type. -/
  | vcvtf (d : BitVec 5) (a : BitVec 5) (t : BitVec 2) (m : BitVec 2)
  /-- VADD_I (R147): Integer lane addition, wrapping. -/
  | vaddI (d : BitVec 5) (a : BitVec 5) (b : BitVec 5) (w : BitVec 2)
  /-- VSUB_I (R147): Integer lane subtraction, wrapping. -/
  | vsubI (d : BitVec 5) (a : BitVec 5) (b : BitVec 5) (w : BitVec 2)
  /-- VMUL_I (R147): Integer lane multiplication, low half. -/
  | vmulI (d : BitVec 5) (a : BitVec 5) (b : BitVec 5) (w : BitVec 2)
  /-- VMIN_S (R147): Signed integer lane minimum. -/
  | vminS (d : BitVec 5) (a : BitVec 5) (b : BitVec 5) (w : BitVec 2)
  /-- VMIN_N (R147): Unsigned integer lane minimum. -/
  | vminN (d : BitVec 5) (a : BitVec 5) (b : BitVec 5) (w : BitVec 2)
  /-- VMAX_S (R147): Signed integer lane maximum. -/
  | vmaxS (d : BitVec 5) (a : BitVec 5) (b : BitVec 5) (w : BitVec 2)
  /-- VMAX_N (R147): Unsigned integer lane maximum. -/
  | vmaxN (d : BitVec 5) (a : BitVec 5) (b : BitVec 5) (w : BitVec 2)
  /-- VAND (R147): Lane AND. -/
  | vand (d : BitVec 5) (a : BitVec 5) (b : BitVec 5) (w : BitVec 2)
  /-- VOR (R147): Lane OR. -/
  | vor (d : BitVec 5) (a : BitVec 5) (b : BitVec 5) (w : BitVec 2)
  /-- VXOR (R147): Lane XOR. -/
  | vxor (d : BitVec 5) (a : BitVec 5) (b : BitVec 5) (w : BitVec 2)
  /-- VSLL (R147): Lane shift left. -/
  | vsll (d : BitVec 5) (a : BitVec 5) (b : BitVec 5) (w : BitVec 2)
  /-- VSRL (R147): Lane logical shift right. -/
  | vsrl (d : BitVec 5) (a : BitVec 5) (b : BitVec 5) (w : BitVec 2)
  /-- VSRA (R147): Lane arithmetic shift right. -/
  | vsra (d : BitVec 5) (a : BitVec 5) (b : BitVec 5) (w : BitVec 2)
  /-- VADDS_S (R147): Signed saturating lane addition. -/
  | vaddsS (d : BitVec 5) (a : BitVec 5) (b : BitVec 5) (w : BitVec 2)
  /-- VADDS_N (R147): Unsigned saturating lane addition. -/
  | vaddsN (d : BitVec 5) (a : BitVec 5) (b : BitVec 5) (w : BitVec 2)
  /-- VSUBS_S (R147): Signed saturating lane subtraction. -/
  | vsubsS (d : BitVec 5) (a : BitVec 5) (b : BitVec 5) (w : BitVec 2)
  /-- VSUBS_N (R147): Unsigned saturating lane subtraction. -/
  | vsubsN (d : BitVec 5) (a : BitVec 5) (b : BitVec 5) (w : BitVec 2)
  /-- VABS_I (R147): Signed integer lane absolute value, wrapping. -/
  | vabsI (d : BitVec 5) (a : BitVec 5) (w : BitVec 2)
  /-- VFMA (R146): Fused multiply-add per lane with one rounding. -/
  | vfma (d : BitVec 5) (a : BitVec 5) (b : BitVec 5) (c : BitVec 5) (m : BitVec 2) (t : BitVec 2)
  /-- VFNMA (R146): Negated fused multiply-add per lane. -/
  | vfnma (d : BitVec 5) (a : BitVec 5) (b : BitVec 5) (c : BitVec 5) (m : BitVec 2) (t : BitVec 2)
  /-- VCMP_I (R148): Integer lane compare writing all-ones or zero lanes. -/
  | vcmpI (d : BitVec 5) (a : BitVec 5) (b : BitVec 5) (w : BitVec 2) (c : BitVec 3)
  /-- VCMP_F (R148): Float lane compare writing all-ones or zero lanes. -/
  | vcmpF (d : BitVec 5) (a : BitVec 5) (b : BitVec 5) (t : BitVec 2) (c : BitVec 3)
  /-- VSEL (R148): Selects lanes of V[a] or V[b] by the top bit of the old V[d]. -/
  | vsel (d : BitVec 5) (a : BitVec 5) (b : BitVec 5) (w : BitVec 2)
  /-- VLD (R149): Loads 64 aligned bytes into a vector register. -/
  | vld (d : BitVec 5) (a : BitVec 5) (i : BitVec 14)
  /-- VST (R149): Stores a vector register to 64 aligned bytes. -/
  | vst (s : BitVec 5) (a : BitVec 5) (i : BitVec 14)
  /-- VLDS (R150): Strided vector load. -/
  | vlds (d : BitVec 5) (a : BitVec 5) (b : BitVec 5) (e : BitVec 2)
  /-- VSTS (R150): Strided vector store in ascending element order. -/
  | vsts (d : BitVec 5) (a : BitVec 5) (b : BitVec 5) (e : BitVec 2)
  /-- VGATH (R150): Gather load by lane offsets. -/
  | vgath (d : BitVec 5) (a : BitVec 5) (b : BitVec 5) (e : BitVec 2)
  /-- VSCAT (R150): Scatter store by lane offsets. -/
  | vscat (d : BitVec 5) (a : BitVec 5) (b : BitVec 5) (e : BitVec 2)
  /-- VRED_FADD (R153): Tree float sum of the lanes into X[d]. -/
  | vredFadd (d : BitVec 5) (a : BitVec 5) (t : BitVec 2)
  /-- VRED_FMIN (R153): Tree float minimum of the lanes. -/
  | vredFmin (d : BitVec 5) (a : BitVec 5) (t : BitVec 2)
  /-- VRED_FMAX (R153): Tree float maximum of the lanes. -/
  | vredFmax (d : BitVec 5) (a : BitVec 5) (t : BitVec 2)
  /-- VRED_ADD (R153): Exact integer sum of the lanes. -/
  | vredAdd (d : BitVec 5) (a : BitVec 5) (w : BitVec 2)
  /-- VRED_MIN_S (R153): Signed minimum of the lanes. -/
  | vredMinS (d : BitVec 5) (a : BitVec 5) (w : BitVec 2)
  /-- VRED_MAX_S (R153): Signed maximum of the lanes. -/
  | vredMaxS (d : BitVec 5) (a : BitVec 5) (w : BitVec 2)
  /-- VPERM (R154): Permutes lanes by index lanes. -/
  | vperm (d : BitVec 5) (a : BitVec 5) (b : BitVec 5) (w : BitVec 2)
  /-- VBCAST (R154): Broadcasts a scalar into every lane. -/
  | vbcast (d : BitVec 5) (a : BitVec 5) (w : BitVec 2)
  /-- VMOV (R154): Copies a vector register. -/
  | vmov (d : BitVec 5) (a : BitVec 5)
  /-- VMOV_TO_X (R154): Moves one lane to a scalar register, zero-extended. -/
  | vmovToX (d : BitVec 5) (a : BitVec 5) (l : BitVec 5) (w : BitVec 2)
  /-- VMOV_TO_LANE (R154): Writes a scalar into one lane. -/
  | vmovToLane (d : BitVec 5) (a : BitVec 5) (l : BitVec 5) (w : BitVec 2)
  /-- VEXP2 (R157): Computes 2^x per lane by the fixed algorithm. -/
  | vexp2 (d : BitVec 5) (a : BitVec 5) (t : BitVec 2)
  /-- VLOG2 (R158): Computes log2 x per lane by the fixed algorithm. -/
  | vlog2 (d : BitVec 5) (a : BitVec 5) (t : BitVec 2)
  /-- VRCP (R156): Correctly rounded reciprocal per lane. -/
  | vrcp (d : BitVec 5) (a : BitVec 5) (t : BitVec 2) (m : BitVec 2)
  /-- VRSQ (R156): Correctly rounded reciprocal square root per lane. -/
  | vrsq (d : BitVec 5) (a : BitVec 5) (t : BitVec 2) (m : BitVec 2)
  /-- VSTREAM_IN (R161): Binds a vector register to an input stream over a record. -/
  | vstreamIn (e : BitVec 5) (a : BitVec 5) (k : BitVec 6)
  /-- VSTREAM_OUT (R162): Binds a vector register to an output stream over a record. -/
  | vstreamOut (e : BitVec 5) (a : BitVec 5) (k : BitVec 6)
  /-- VSTREAM_END (R163): Ends a stream binding and gives its completion. -/
  | vstreamEnd (a : BitVec 5)
  /-- STREAM_ELEMENT_READ (R161): An input stream reads its next element from tile memory ahead of consumption, signalling at the N-th. -/
  | streamElementRead (t a v : Nat)
  /-- MCFG (R272): Swaps the strand's matrix format context. -/
  | mcfg (d : BitVec 5) (a : BitVec 5)
  /-- MWLD (R273): Checks a square image header and queues its load into a weight slot. -/
  | mwld (e : BitVec 5) (k : BitVec 4)
  /-- MMUL_R (R268): Queues a block-step reducing over K into an accumulator pair. -/
  | mmulR (e : BitVec 5) (a : BitVec 5) (k : BitVec 4)
  /-- MMUL_C (R268): Queues a block-step reducing over N with the square read across. -/
  | mmulC (e : BitVec 5) (a : BitVec 5) (k : BitVec 4)
  /-- MACC_Z (R278): Queues zeroing of an accumulator. -/
  | maccZ (a : BitVec 5)
  /-- MACC_RD (R278): Queues scaled read-out of an accumulator to tile memory. -/
  | maccRd (e : BitVec 5) (a : BitVec 5) (b : BitVec 5)
  /-- MACC_WR (R278): Queues an exact write of F32 data into an accumulator. -/
  | maccWr (e : BitVec 5) (a : BitVec 5)
  /-- MACC_PIN (R266): Pins an accumulator to the strand. -/
  | maccPin (a : BitVec 5)
  /-- MACC_UNPIN (R266): Unpins an accumulator. -/
  | maccUnpin (a : BitVec 5)
  /-- MATRIX_ENTRY_START (R270): The matrix unit starts a queue entry once its ordering, array and shaping conditions hold. -/
  | matrixEntryStart (t e : Nat)
  /-- MATRIX_ENTRY_COMPLETE (R270): A matrix queue entry completes, freeing its entry and ending matrix waits on it. -/
  | matrixEntryComplete (t e : Nat)
  /-- SQUANT (R250): Queues quantisation with block scales, optionally stochastic or saturating. -/
  | squant (e : BitVec 5) (a : BitVec 5) (b : BitVec 5) (k : BitVec 6) (r : BitVec 1) (t : BitVec 1)
  /-- SDEQ (R251): Queues dequantisation under block scales. -/
  | sdeq (e : BitVec 5) (a : BitVec 5) (b : BitVec 5) (k : BitVec 6)
  /-- SEXP (R252): Queues exact expansion of INT4, E3M2 or E2M3 to E4M3. -/
  | sexp (e : BitVec 5) (a : BitVec 5) (k : BitVec 6)
  /-- STRANS (R253): Queues a bit-copy transpose of a 128 x 128 square. -/
  | strans (e : BitVec 5) (a : BitVec 5) (b : BitVec 5) (k : BitVec 6)
  /-- STRANS_RQ (R254): Queues a transpose with requantisation and output strip scales. -/
  | stransRq (e : BitVec 5) (a : BitVec 5) (b : BitVec 5) (k : BitVec 6)
  /-- SCOMP (R255): Queues compression of a square into a dense or bitmap image. -/
  | scomp (e : BitVec 5) (a : BitVec 5) (k : BitVec 6)
  /-- SBLK_EXP (R257): Queues writing of the block exponents of F32 data. -/
  | sblkExp (e : BitVec 5) (a : BitVec 5) (b : BitVec 5) (k : BitVec 6)
  /-- SBLK_INT (R257): Queues conversion of F32 blocks to block-integer lanes. -/
  | sblkInt (e : BitVec 5) (a : BitVec 5) (b : BitVec 5) (k : BitVec 6)
  /-- SBLK_FLT (R257): Queues conversion of block-integer lanes back to F32. -/
  | sblkFlt (e : BitVec 5) (a : BitVec 5) (b : BitVec 5) (k : BitVec 6)
  /-- SCVT (R259): Queues plain element conversion between formats. -/
  | scvt (e : BitVec 5) (a : BitVec 5) (k : BitVec 6) (m : BitVec 2) (t : BitVec 1)
  /-- SHAPE_OP_START (R242): The shape core starts its next queued operation after the previous one completes. -/
  | shapeOpStart (t : Nat)
  /-- SHAPE_OP_COMPLETE (R242): A shape operation's last write lands and it signals its semaphore as a release. -/
  | shapeOpComplete (t : Nat)
  /-- STAGE (R211): Appends a page-fetch list entry for the next superstep and fetches it in this one. -/
  | stage (e : BitVec 5) (a : BitVec 5) (b : BitVec 5) (k : BitVec 6)
  /-- COPY (R208): Queues a copy within tile memory between records. -/
  | copy (e : BitVec 5) (a : BitVec 5) (k : BitVec 6)
  /-- HLD (R210): Queues an asynchronous load of committed HBM into tile memory. -/
  | hld (e : BitVec 5) (a : BitVec 5) (k : BitVec 6)
  /-- HST (R215): Queues a plain-write delta to HBM. -/
  | hst (e : BitVec 5) (a : BitVec 5) (k : BitVec 6)
  /-- HRED_ADD_S32 (R216): Queues S32 add reduction deltas. -/
  | hredAddS32 (e : BitVec 5) (a : BitVec 5) (k : BitVec 6)
  /-- HRED_ADD_S64 (R216): Queues S64 add reduction deltas. -/
  | hredAddS64 (e : BitVec 5) (a : BitVec 5) (k : BitVec 6)
  /-- HRED_MIN_S32 (R216): Queues S32 minimum reduction deltas. -/
  | hredMinS32 (e : BitVec 5) (a : BitVec 5) (k : BitVec 6)
  /-- HRED_MIN_S64 (R216): Queues S64 minimum reduction deltas. -/
  | hredMinS64 (e : BitVec 5) (a : BitVec 5) (k : BitVec 6)
  /-- HRED_MAX_S32 (R216): Queues S32 maximum reduction deltas. -/
  | hredMaxS32 (e : BitVec 5) (a : BitVec 5) (k : BitVec 6)
  /-- HRED_MAX_S64 (R216): Queues S64 maximum reduction deltas. -/
  | hredMaxS64 (e : BitVec 5) (a : BitVec 5) (k : BitVec 6)
  /-- HRED_AND (R216): Queues 64-bit AND reduction deltas. -/
  | hredAnd (e : BitVec 5) (a : BitVec 5) (k : BitVec 6)
  /-- HRED_OR (R216): Queues 64-bit OR reduction deltas. -/
  | hredOr (e : BitVec 5) (a : BitVec 5) (k : BitVec 6)
  /-- HRED_FADD_F32 (R216): Queues F32 add reduction deltas applied in writer order. -/
  | hredFaddF32 (e : BitVec 5) (a : BitVec 5) (k : BitVec 6)
  /-- HFENCE (R220): Stalls the haul hart until its earlier operations complete, then acquires. -/
  | hfence
  /-- HAUL_OP_START (R206): A queued haul operation starts in issue order subject to overlap ordering. -/
  | haulOpStart (t o : Nat)
  /-- HAUL_CHUNK (R221): One 4 KiB chunk of a haul operation is translated and its bytes moved, or the operation suspends. -/
  | haulChunk (t o : Nat)
  /-- HAUL_OP_COMPLETE (R206): A haul operation completes and adds 1 to its semaphore as a release. -/
  | haulOpComplete (t o : Nat)
  /-- HAUL_OP_REPLAY (R374): In recovery mode a resumed operation re-enters the haul queue when an entry frees and restarts at CURSOR. -/
  | haulOpReplay (t o : Nat)
  /-- QUEUE_FULL_RESUME (R206): An agent stalled on a full engine queue issues its operation when an entry frees. -/
  | queueFullResume (t a : Nat)
  /-- FFCFG_KEY (R322): Queues a command loading the Firefly context key. -/
  | ffcfgKey (e : BitVec 5) (k : BitVec 6)
  /-- FFCFG_BETA (R322): Queues a command loading beta. -/
  | ffcfgBeta (e : BitVec 5) (k : BitVec 6)
  /-- FFCFG_SIGT (R322): Queues a command loading the sigmoid table. -/
  | ffcfgSigt (e : BitVec 5) (k : BitVec 6)
  /-- FFCFG_MODE (R322): Queues a command loading ENT and CMASK. -/
  | ffcfgMode (e : BitVec 5) (k : BitVec 6)
  /-- FFLD_EDGE (R323): Queues loading of edge slots with colour checks. -/
  | ffldEdge (e : BitVec 5) (a : BitVec 5) (k : BitVec 6)
  /-- FFLD_BIAS (R323): Queues loading of cell biases. -/
  | ffldBias (e : BitVec 5) (a : BitVec 5) (k : BitVec 6)
  /-- FFLD_COL (R323): Queues loading of cell colours with checks. -/
  | ffldCol (e : BitVec 5) (a : BitVec 5) (k : BitVec 6)
  /-- FFLD_STATE (R323): Queues loading of cell or ghost states. -/
  | ffldState (e : BitVec 5) (a : BitVec 5) (k : BitVec 6)
  /-- FFOP_SWEEP (R326): Queues n Gibbs sweeps of the context. -/
  | ffopSweep (a : BitVec 5) (k : BitVec 6)
  /-- FFOP_CLAMP (R327): Queues clamping of listed cells. -/
  | ffopClamp (e : BitVec 5) (k : BitVec 6)
  /-- FFOP_UNCLAMP (R327): Queues unclamping of listed cells. -/
  | ffopUnclamp (e : BitVec 5) (k : BitVec 6)
  /-- FFOP_CRESET (R326): Queues clearing of every cell count. -/
  | ffopCreset (k : BitVec 6)
  /-- FFRD_BITS (R328): Queues reading of cell states into tile memory. -/
  | ffrdBits (e : BitVec 5) (a : BitVec 5) (k : BitVec 6)
  /-- FFRD_CNT (R328): Queues reading of cell counts into tile memory. -/
  | ffrdCnt (e : BitVec 5) (a : BitVec 5) (k : BitVec 6)
  /-- FIREFLY_COMMAND_ARRIVAL (R317): A command enters the die's Firefly queue in the cycle containing issue + 16 clk, ordered by tile. -/
  | fireflyCommandArrival (d : Nat)
  /-- FIREFLY_COMMAND_START (R318): The array starts the next queued command on the working copy of its context. -/
  | fireflyCommandStart (d : Nat)
  /-- FIREFLY_COMMAND_COMPLETE (R317): A Firefly command ends and signals its semaphore as a release. -/
  | fireflyCommandComplete (d : Nat)
  /-- CGRP (R339): Installs a group descriptor as the current group. -/
  | cgrp (d : BitVec 5) (a : BitVec 5)
  /-- CRANK (R340): Returns the least rank naming a tile address. -/
  | crank (d : BitVec 5) (a : BitVec 5)
  /-- CPART (R341): Returns the partner rank for one all-reduce step. -/
  | cpart (d : BitVec 5) (a : BitVec 5) (b : BitVec 5)
  /-- CROUTE (R350): Queues a stream route write applied at the seal commit. -/
  | croute (a : BitVec 5) (b : BitVec 5)
  /-- CMARK (R350): Emits a marker that switches the stream's current set at the seal commit. -/
  | cmark (a : BitVec 5)
  /-- CSEND (R344): Copies the source to the collective buffer and appends a send entry. -/
  | csend (e : BitVec 5) (a : BitVec 5) (b : BitVec 5) (k : BitVec 6)
  /-- CRECV (R344): Appends a plain receive entry to the collective schedule. -/
  | crecv (e : BitVec 5) (a : BitVec 5) (b : BitVec 5) (k : BitVec 6)
  /-- CRECV_ADD (R344): Appends an S32 adding receive entry. -/
  | crecvAdd (e : BitVec 5) (a : BitVec 5) (b : BitVec 5) (k : BitVec 6)
  /-- CRECV_MAX (R344): Appends an N8 maximum receive entry. -/
  | crecvMax (e : BitVec 5) (a : BitVec 5) (b : BitVec 5) (k : BitVec 6)
  /-- TLBW (R369): Checks and writes a last-level TLB entry, removing overlapping entries. -/
  | tlbw (a : BitVec 5) (b : BitVec 5)
  /-- TLBINV (R370): Removes the LLT entries of a page and waits until accesses they translated finish. -/
  | tlbinv (a : BitVec 5)
  /-- TLBINV_ALL (R370): Removes every TLB entry of the die. -/
  | tlbinvAll
  /-- FQPOP (R377): Takes the oldest untaken fault record of the core's queue. -/
  | fqpop (d : BitVec 5)
  /-- FQRES (R378): Resumes a fault record by replay, forward or cause delivery. -/
  | fqres (a : BitVec 5)
  /-- CTXSV (R408): Saves a quiescent tile's full image to HBM. -/
  | ctxsv (a : BitVec 5) (b : BitVec 5)
  /-- CTXLD (R408): Loads a tile image into a quiescent free tile. -/
  | ctxld (a : BitVec 5) (b : BitVec 5)
  /-- BRK (R139): Takes cause 0x11 with imm20 in FADDR. -/
  | brk (i : BitVec 20)
  /-- ILLEGAL_INSTRUCTION (R78): A word that is no instruction for the core raises cause 0x01, 0x12 or 0x02 in the order of R20. -/
  | illegalInstruction (w : BitVec 32)
  /-- PC_RANGE_TRAP (R61): A sequential PC above the top of memory raises cause 0x04 at the instruction boundary. -/
  | pcRangeTrap
  /-- STRAND_CHOICE (R113): In the clk after the slot is freed, the core picks the best-priority READY strand round-robin. -/
  | strandChoice (t : Nat)
  /-- WATCHDOG_EXPIRY (R116): WDOG.COUNT reaches LIMIT and the agent takes cause 0x10 at its next boundary. -/
  | watchdogExpiry
  /-- DEFERRED_CAUSE (R120): A cause from an earlier engine operation is taken at the agent's next boundary, abandoning a wait. -/
  | deferredCause (who : Who)
  /-- WINDOW_READ (R29): An on-chip window read returns the addressed tile or die state. -/
  | windowRead (m addr len : Nat)
  /-- WINDOW_WRITE (R29): An on-chip window write is applied or refused by the target region and tile state. -/
  | windowWrite (m addr : Nat) (bytes : List Byte)
  /-- WINDOW_SEMAPHORE_WRITE (R107): A window write sets a semaphore count at step 1 of the cycle, not as a release. -/
  | windowSemaphoreWrite (t k : Nat) (v : W)
  /-- FIREFLY_CONTEXT_BLOCK_WRITE (R334): A die-window write to a context block validates, initialises or frees a Firefly context. -/
  | fireflyContextBlockWrite (d off : Nat) (bytes : List Byte)
  /-- TILE_CLOSE_ARRIVAL (R172): When every arrival condition holds, the tile sends its close arrival with vote, cause and operand. -/
  | tileCloseArrival (t : Nat)
  /-- CLOSE_ARRIVAL (R170): A close-arrival up packet reaches a node, which combines it or, at the root, decides the close vote. -/
  | closeArrival (i : Nat)
  /-- SEAL_ARRIVAL (R170): A seal-arrival up packet reaches a node, which combines it or, at the root, decides commit, hold or stop. -/
  | sealArrival (i : Nat)
  /-- RESTORE_DONE (R170): A restore-done packet reaches the root, which releases a re-run or stops the region. -/
  | restoreDone (i : Nat)
  /-- LAUNCH_JOIN (R396): A launch-join packet reaches a pod node, which starts or stops a multi-module region. -/
  | launchJoin (i : Nat)
  /-- EXCHANGE_START_PACKET (R169): A down packet of kind 0 latches the window pairs and schedules the exchange at T_x. -/
  | exchangeStartPacket (t : Nat)
  /-- EXCHANGE_START (R176): At T_x the tile starts its exchange program, late starts counting in QLATE. -/
  | exchangeStart (t : Nat)
  /-- RELEASE (R177): A down packet of kind 1 runs the commit actions or, for a re-run, moves the tile to RELWAIT. -/
  | release (t : Nat)
  /-- START_INSTANT (R189): At the tile's staggered start instant every SYNCED agent completes its sync and spawn requests start strands. -/
  | startInstant (t : Nat)
  /-- ABORT (R182): A down packet of kind 2 stops the tile and runs the rollback window. -/
  | abort (t : Nat)
  /-- ROLLBACK_WINDOW_DONE (R182): The rollback window ends and the tile sends restore done. -/
  | rollbackWindowDone (t : Nat)
  /-- TARGETED_SELF_TEST_END (R185): A targeted self-test and scrub end, classing the fault transient, lasting or data lost. -/
  | targetedSelfTestEnd (t : Nat) (pass scrub : Bool)
  /-- STOP (R169): A down packet of kind 3 stops the tile in its last committed state. -/
  | stop (t : Nat)
  /-- ROOT_TIMEOUT (R187): The root's timer expires and it aborts with cause 0x15 or stops the region. -/
  | rootTimeout (r : Nat)
  /-- SHAPING_WINDOW (R194): A new 1,000 ns shaping window opens with its block-step limit A_k. -/
  | shapingWindow (t : Nat)
  /-- TREE_RECONFIGURE (R192): Firmware reconfigures a region's barrier tree, refused unless every tile is quiescent. -/
  | treeReconfigure (r : Nat)
  /-- SEAL_ARRIVAL_SEND (R169): When exchange, collectives and message offers are done, the tile sends its seal arrival. -/
  | sealArrivalSend (t : Nat)
  /-- FLIT_SEND (R292): In its scheduled cycle an out-port reads and sends one flit of an xsend entry. -/
  | flitSend (t : Nat)
  /-- FLIT_ARRIVAL (R293): A flit reaches an in-port and lands, or a collision or mismatch is recorded. -/
  | flitArrival (i : Nat)
  /-- XRECV_MISSED_FLIT (R294): An xrecv in-port cycle passes without its matching flit and the receiver records cause 0x0C. -/
  | xrecvMissedFlit (t e : Nat)
  /-- EXCHANGE_END (R295): The tile's scheduled exchange ends and it offers its outbox entries. -/
  | exchangeEnd (t : Nat)
  /-- MESSAGE_OFFER (R302): An outbox entry is offered to its destination, which acknowledges it. -/
  | messageOffer (t e : Nat)
  /-- COLLECTIVE_SEND (R347): A collective send entry leaves in schedule order from T_x by its stream route. -/
  | collectiveSend (t e : Nat)
  /-- COLLECTIVE_LANDING (R344): A collective transfer arrives, is matched and lands, adds or maxes into its receive entry. -/
  | collectiveLanding (i : Nat)
  /-- COLLECTIVE_RECEIVE_TIMEOUT (R347): A receive entry not landed by T_x + CTMO records cause 0x14 and the tile votes abort. -/
  | collectiveReceiveTimeout (t e : Nat)
  /-- DELTA_ARRIVAL (R217): A delta reaches its home and is stored and acknowledged, or refused with cause 0x0A. -/
  | deltaArrival (t e : Nat)
  /-- FAULT_RECORD_POST (R373): A fault record is written to the lowest free pool slot and queued, waiting if none is free. -/
  | faultRecordPost (d : Nat)
  /-- OCLYS_DATA_FRAME (R353): A data frame arrives and is accepted in SEQ order or dropped with a replay request. -/
  | oclysDataFrame (d : PortId) (seq ack : BitVec 32) (good : Bool) (payload : List Byte)
  /-- OCLYS_ACK_FRAME (R353): An acknowledgement frame releases the sender's replay copies. -/
  | oclysAckFrame (d : PortId) (ack : BitVec 32)
  /-- OCLYS_REPLAY_REQUEST (R353): A replay request makes the sender resend from the named frame. -/
  | oclysReplayRequest (d : PortId) (seq : BitVec 32)
  /-- OCLYS_ACK_TIMEOUT (R353): No acknowledgement within ATMO makes the sender resend. -/
  | oclysAckTimeout (d : PortId)
  /-- LINK_FAILURE (R357): A link fails by retry exhaustion or loss of signal; tiles with traffic on it record cause 0x14. -/
  | linkFailure (m : Nat) (port : Bool) (n : Nat)
  /-- LINK_TRAINED (R437): A scale-out port finishes training and OLSTAT.UP becomes 1. -/
  | linkTrained (d : PortId)
  /-- HOST_WRITE (R413): An Oclys WRITE writes HBM or the on-chip space and is answered with a COMPLETION. -/
  | hostWrite (d : Nat) (onchip : Bool) (addr tag : Nat) (bytes : List Byte)
  /-- HOST_READ (R413): An Oclys READ returns HBM or on-chip data in a COMPLETION. -/
  | hostRead (d : Nat) (onchip : Bool) (addr len tag : Nat)
  /-- HOST_LAUNCH (R414): An Oclys LAUNCH appends a leaf RCB to a launch queue. -/
  | hostLaunch (d queue addr tag : Nat)
  /-- REGION_LAUNCH (R394): The launch unit starts a startable queue head: checks, loads images, stages and starts agents. -/
  | regionLaunch (m : Nat)
  /-- LAUNCH_TILES_SET (R395): Once every tile is set, a one-module region gets its first release or a join is sent. -/
  | launchTilesSet (m r : Nat)
  /-- LAUNCH_TIMEOUT (R435): Tiles not set within TMO stop the launch with cause 0x15. -/
  | launchTimeout (m r : Nat)
  /-- RCTL_HOLD (R404): Holds a region at its next seal commit. -/
  | rctlHold (d : Nat) (region : BitVec 20)
  /-- RCTL_FREE (R405): Removes the tiles of a held or stopped region. -/
  | rctlFree (d : Nat) (region : BitVec 20)
  /-- RCTL_RESUME (R406): Checks and resumes a held or reloaded region with a release. -/
  | rctlResume (d : Nat) (region : BitVec 20)
  /-- RCTL_DISCARD (R436): Ends a freed, held or stopped region and releases its id. -/
  | rctlDiscard (d : Nat) (region : BitVec 20)
  /-- PHYSD_READ (R380): Reads 8 HBM bytes at PHYSA and advances PHYSA. -/
  | physdRead (d : Nat)
  /-- PHYSD_WRITE (R380): Writes 8 HBM bytes at PHYSA with a fresh code and advances PHYSA. -/
  | physdWrite (d : Nat) (v : W)
  /-- FQBASE_WRITE (R387): Sets the fault pool, ignored while records are outstanding. -/
  | fqbaseWrite (d : Nat) (v : W)
  /-- MIGRATION_START (R384): MIGCTL.GO starts moving a 64 KiB chunk, or sets REFUSED. -/
  | migrationStart (d : Nat) (v : W)
  /-- MIGRATION_DONE (R384): The chunk copy completes and the indirection takes full effect. -/
  | migrationDone (d : Nat)
  /-- PPR_START (R385): PPRCTL.GO starts a soft post-package repair of a row. -/
  | pprStart (d : Nat) (v : W)
  /-- PPR_DONE (R385): The repair copies the row, latches the remap and releases the bank, or sets FAIL. -/
  | pprDone (d : Nat)
  /-- HBMERR_READ (R387): A read of HBMERR removes and returns the oldest error record. -/
  | hbmerrRead (d : Nat)
  /-- QCREC_READ (R199): A read of QCREC removes and returns the oldest cause record. -/
  | qcrecRead (d : Nat)
  /-- PSLEW_WRITE (R422): Sets the slew limit and rewrites every die's QSHAPE constants. -/
  | pslewWrite (d : Nat) (v : W)
  /-- PCAP_WRITE (R420): Sets the power cap, clamped to 4,000-7,500 W. -/
  | pcapWrite (d : Nat) (v : W)
  /-- THROT_WRITE (R425): Sets the throttle temperature, clamped to 70-100 C. -/
  | throtWrite (d : Nat) (v : W)
  /-- SPARE_CONTROL_WRITE (R430): Writes a tile, row or fence spare control, refused unless affected regions are quiescent or rolling back. -/
  | spareControlWrite (d : Nat) (csr : BitVec 12) (v : W)
  /-- ATTESTATION_START (R427): ATTCTL.GO starts signing an attestation report. -/
  | attestationStart (d : Nat) (v : W)
  /-- ATTESTATION_DONE (R427): The signed report is written at the buffer and BUSY clears. -/
  | attestationDone (m : Nat)
  /-- POWER_CAP_INTERVAL (R420): At each 1 ms interval end CAPLIM and region limits are adjusted. -/
  | powerCapInterval (m : Nat) (pwr : BitVec 16) (scale : Nat × Nat × Nat) (temps : List (Nat × Nat × Nat))
  /-- THERMAL_TRIP (R425): A die or stack reaching its trip temperature halts every core of the module. -/
  | thermalTrip (m : Nat)
  /-- POWER_ON (R30): At power-on every HBM word is written zero with a valid code. -/
  | powerOn (m : Nat)
  /-- MODULE_RESET (R30): A module reset puts every tile in its reset state. -/
  | moduleReset (m : Nat)
  /-- SECURE_BOOT (R426): The boot ROM verifies and loads firmware copy A or B and sets BOOTSTAT. -/
  | secureBoot (m : Nat)
  /-- SB_READ_MSTAT (R428): Sideband command 0x01 returns MSTAT bits [15:0]. -/
  | sbReadMstat (m : Nat)
  /-- SB_READ_POWER (R428): Sideband command 0x02 returns the input power. -/
  | sbReadPower (m : Nat)
  /-- SB_READ_TEMP (R428): Sideband command 0x03 returns the hottest die and stack temperatures. -/
  | sbReadTemp (m : Nat)
  /-- SB_WRITE_PCAP (R428): Sideband command 0x04 writes PCAP. -/
  | sbWritePcap (m : Nat) (v : BitVec 16)
  /-- SB_READ_BOOTSTAT (R428): Sideband command 0x05 returns BOOTSTAT bits [7:0]. -/
  | sbReadBootstat (m : Nat)
  /-- SB_RESET (R428): Sideband command 0x10 with 0xA5 resets the module. -/
  | sbReset (m : Nat) (v : BitVec 8)
  /-- SB_READ_IDENTITY (R428): Sideband command 0x11 returns the identity public key. -/
  | sbReadIdentity (m : Nat)
  /-- SB_UNKNOWN_COMMAND (R428): Any other sideband command is NACKed. -/
  | sbUnknownCommand (m : Nat) (code : BitVec 8)
  /-- JOIN_TIMEOUT (R396): When NMOD launch joins have not reached the root within the resolved TMO of the first, the root stops the start with kind 3 and cause 0x15. -/
  | joinTimeout (r : Nat)
  /-- NOISE_SOURCE_HEALTH_TEST (R316): The noise source's start-up or continuous SP 800-90B health tests report pass or failure, setting FFNOISE.OK. -/
  | noiseSourceHealthTest (d : Nat) (ok : Bool)
  /-- IEEE_1588_SYNC (R424): An IEEE 1588 event message on a scale-out port is hardware-timestamped and disciplines PODTIME, updating PTPSTAT.OFS and LOCK. -/
  | ieee1588Sync (m : Nat) (ofs : BitVec 16) (adj : Option Int)
  /-- MALFORMED_OPERATION (R413): A host operation with an unknown OP, or one arriving on a scale-out port, is answered with STATUS 2 and has no effect. -/
  | malformedOperation (d : PortId) (op tag : Nat)
  deriving DecidableEq, Repr, Inhabited

end Sys2Proof
end

