-- ==== Sys2Proof/WellFormed.lean ====
section
/-! DEFINITION. Which field values make an instruction (R58, R60, and the encoding lines of each instruction's own
chapter): a word whose fields fail these checks is an illegal encoding and raises cause 0x01. -/

namespace Sys2Proof

/-- A field that names a record register, a weight slot or an accumulator accepts 0-15 (R58). -/
def recOk (e : BitVec 5) : Bool := decide (e.toNat < 16)

/-- An accumulator pair is named by its even member, 0-14 (R73). -/
def accPairOk (a : BitVec 5) : Bool := decide (a.toNat < 16) && decide (a.toNat % 2 = 0)

/-- Compare conditions 6 and 7 are illegal (R58). -/
def condOk (c : BitVec 3) : Bool := decide (c.toNat < 6)

/-- Float type 3 and element width code 3 are illegal (R72, R150). -/
def ftypeOk (t : BitVec 2) : Bool := decide (t.toNat < 3)

/-- A lane form has width 1-3, and its lane literal lies below 512 ÷ w (R152). -/
def laneOk (w : BitVec 2) (l : BitVec 5) : Bool := decide (0 < w.toNat) && decide (l.toNat < 64 / 2 ^ w.toNat)

/-- The field checks of one instruction. A step of the machine that has no word passes. -/
def Instr.wf (i : Instr) : Bool :=
  match i with
  | .add _ _ _ => true
  | .sub _ _ _ => true
  | .and _ _ _ => true
  | .or _ _ _ => true
  | .xor _ _ _ => true
  | .andn _ _ _ => true
  | .sll _ _ _ => true
  | .srl _ _ _ => true
  | .sra _ _ _ => true
  | .ror _ _ _ => true
  | .mul _ _ _ => true
  | .mulhS _ _ _ => true
  | .mulhN _ _ _ => true
  | .divS _ _ _ => true
  | .divN _ _ _ => true
  | .remS _ _ _ => true
  | .remN _ _ _ => true
  | .minS _ _ _ => true
  | .minN _ _ _ => true
  | .maxS _ _ _ => true
  | .maxN _ _ _ => true
  | .clz _ _ => true
  | .ctz _ _ => true
  | .popc _ _ => true
  | .mod31 _ _ => true
  | .addi _ _ _ => true
  | .andi _ _ _ => true
  | .ori _ _ _ => true
  | .xori _ _ _ => true
  | .slli _ _ _ => true
  | .srli _ _ _ => true
  | .srai _ _ _ => true
  | .rori _ _ _ => true
  | .lih _ _ => true
  | .addpc _ _ => true
  | .pcmp _ c _ _ => condOk c
  | .pcmpi _ c _ _ => condOk c
  | .pand _ _ _ => true
  | .por _ _ _ => true
  | .pxor _ _ _ => true
  | .pandn _ _ _ => true
  | .porn _ _ _ => true
  | .pxnor _ _ _ => true
  | .ldS8 _ _ _ => true
  | .ldN8 _ _ _ => true
  | .ldS16 _ _ _ => true
  | .ldN16 _ _ _ => true
  | .ldS32 _ _ _ => true
  | .ldN32 _ _ _ => true
  | .ld64 _ _ _ => true
  | .st8 _ _ _ => true
  | .st16 _ _ _ => true
  | .st32 _ _ _ => true
  | .st64 _ _ _ => true
  | .ldfe _ _ _ _ => true
  | .stfe _ _ _ _ => true
  | .gld _ _ _ t => decide (t.toNat < 7)
  | .ldb _ a _ t => recOk a && decide (t.toNat < 7)
  | .stb _ a _ t => recOk a && decide (t.toNat < 4)
  | .br _ _ _ _ => true
  | .jal _ _ => true
  | .jalr _ _ _ => true
  | .nop => true
  | .yield => true
  | .exit => true
  | .trap _ => true
  | .eret => true
  | .fence => true
  | .fenceAcq => true
  | .fenceRel => true
  | .csrr _ _ => true
  | .csrw _ _ => true
  | .spawn _ _ n q => decide (q.toNat = 1 → n.toNat = 0)
  | .semv _ _ => true
  | .semp _ => true
  | .sempt _ _ _ => true
  | .semset _ _ => true
  | .semget _ _ => true
  | .bld d _ _ => recOk d
  | .bst d _ _ => recOk d
  | .sync _ _ _ v o => decide (v.toNat < 2) && decide (o.toNat < 7)
  | .ssqNum _ => true
  | .ssqOut _ => true
  | .ssqRed _ => true
  | .ssqTry _ => true
  | .ssqRel _ => true
  | .send _ _ _ _ _ => true
  | .recv _ _ _ s p => decide (s.toNat = 0 → p.toNat = 0)
  | .recvAny _ _ s p => decide (s.toNat = 0 → p.toNat = 0)
  | .rspawn _ _ _ => true
  | .xsend e _ _ => recOk e
  | .xrecv e _ _ => recOk e
  | .vaddF _ _ _ t _ => ftypeOk t
  | .vsubF _ _ _ t _ => ftypeOk t
  | .vmulF _ _ _ t _ => ftypeOk t
  | .vminF _ _ _ t _ => ftypeOk t
  | .vmaxF _ _ _ t _ => ftypeOk t
  | .vabsF _ _ t _ => ftypeOk t
  | .vneg _ _ t _ => ftypeOk t
  | .vcvt _ _ u t _ => ftypeOk t && ftypeOk u
  | .vcvti _ _ t _ => ftypeOk t
  | .vcvtf _ _ t _ => ftypeOk t
  | .vaddI _ _ _ _ => true
  | .vsubI _ _ _ _ => true
  | .vmulI _ _ _ _ => true
  | .vminS _ _ _ _ => true
  | .vminN _ _ _ _ => true
  | .vmaxS _ _ _ _ => true
  | .vmaxN _ _ _ _ => true
  | .vand _ _ _ _ => true
  | .vor _ _ _ _ => true
  | .vxor _ _ _ _ => true
  | .vsll _ _ _ _ => true
  | .vsrl _ _ _ _ => true
  | .vsra _ _ _ _ => true
  | .vaddsS _ _ _ _ => true
  | .vaddsN _ _ _ _ => true
  | .vsubsS _ _ _ _ => true
  | .vsubsN _ _ _ _ => true
  | .vabsI _ _ _ => true
  | .vfma _ _ _ _ _ t => ftypeOk t
  | .vfnma _ _ _ _ _ t => ftypeOk t
  | .vcmpI _ _ _ _ c => condOk c
  | .vcmpF _ _ _ t c => decide (c.toNat < 4) && ftypeOk t
  | .vsel _ _ _ _ => true
  | .vld _ _ _ => true
  | .vst _ _ _ => true
  | .vlds _ _ _ e => ftypeOk e
  | .vsts _ _ _ e => ftypeOk e
  | .vgath _ _ _ e => ftypeOk e
  | .vscat _ _ _ e => ftypeOk e
  | .vredFadd _ _ t => ftypeOk t
  | .vredFmin _ _ t => ftypeOk t
  | .vredFmax _ _ t => ftypeOk t
  | .vredAdd _ _ _ => true
  | .vredMinS _ _ _ => true
  | .vredMaxS _ _ _ => true
  | .vperm _ _ _ _ => true
  | .vbcast _ _ _ => true
  | .vmov _ _ => true
  | .vmovToX _ _ l w => laneOk w l
  | .vmovToLane _ _ l w => laneOk w l
  | .vexp2 _ _ t => ftypeOk t
  | .vlog2 _ _ t => ftypeOk t
  | .vrcp _ _ t _ => ftypeOk t
  | .vrsq _ _ t _ => ftypeOk t
  | .vstreamIn e _ _ => recOk e
  | .vstreamOut e _ _ => recOk e
  | .vstreamEnd _ => true
  | .mcfg _ _ => true
  | .mwld e _ => recOk e
  | .mmulR e a _ => recOk e && accPairOk a
  | .mmulC e a _ => recOk e && accPairOk a
  | .maccZ a => recOk a
  | .maccRd e a _ => recOk e && recOk a
  | .maccWr e a => recOk e && recOk a
  | .maccPin a => recOk a
  | .maccUnpin a => recOk a
  | .squant e a _ _ _ _ => recOk e && recOk a
  | .sdeq e a _ _ => recOk e && recOk a
  | .sexp e a _ => recOk e && recOk a
  | .strans e a _ _ => recOk e && recOk a
  | .stransRq e a _ _ => recOk e && recOk a
  | .scomp e a _ => recOk e && recOk a
  | .sblkExp e a _ _ => recOk e && recOk a
  | .sblkInt e a _ _ => recOk e && recOk a
  | .sblkFlt e a _ _ => recOk e && recOk a
  | .scvt e a _ _ _ => recOk e && recOk a
  | .stage e _ _ _ => recOk e
  | .copy e a _ => recOk e && recOk a
  | .hld e _ _ => recOk e
  | .hst e _ _ => recOk e
  | .hredAddS32 e _ _ => recOk e
  | .hredAddS64 e _ _ => recOk e
  | .hredMinS32 e _ _ => recOk e
  | .hredMinS64 e _ _ => recOk e
  | .hredMaxS32 e _ _ => recOk e
  | .hredMaxS64 e _ _ => recOk e
  | .hredAnd e _ _ => recOk e
  | .hredOr e _ _ => recOk e
  | .hredFaddF32 e _ _ => recOk e
  | .hfence => true
  | .ffcfgKey e _ => recOk e
  | .ffcfgBeta e _ => recOk e
  | .ffcfgSigt e _ => recOk e
  | .ffcfgMode e _ => recOk e
  | .ffldEdge e _ _ => recOk e
  | .ffldBias e _ _ => recOk e
  | .ffldCol e _ _ => recOk e
  | .ffldState e _ _ => recOk e
  | .ffopSweep _ _ => true
  | .ffopClamp e _ => recOk e
  | .ffopUnclamp e _ => recOk e
  | .ffopCreset _ => true
  | .ffrdBits e _ _ => recOk e
  | .ffrdCnt e _ _ => recOk e
  | .cgrp _ _ => true
  | .crank _ _ => true
  | .cpart _ _ _ => true
  | .croute _ _ => true
  | .cmark _ => true
  | .csend e _ _ _ => recOk e
  | .crecv e _ _ _ => recOk e
  | .crecvAdd e _ _ _ => recOk e
  | .crecvMax e _ _ _ => recOk e
  | .tlbw _ _ => true
  | .tlbinv _ => true
  | .tlbinvAll => true
  | .fqpop _ => true
  | .fqres _ => true
  | .ctxsv _ _ => true
  | .ctxld _ _ => true
  | .brk _ => true
  | .ldfeWake _ _ => true
  | .gldDataReturn _ _ => true
  | .semaphoreGrant _ _ => true
  | .semptExpiry _ _ => true
  | .streamElementRead _ _ _ => true
  | .matrixEntryStart _ _ => true
  | .matrixEntryComplete _ _ => true
  | .shapeOpStart _ => true
  | .shapeOpComplete _ => true
  | .haulOpStart _ _ => true
  | .haulChunk _ _ => true
  | .haulOpComplete _ _ => true
  | .haulOpReplay _ _ => true
  | .queueFullResume _ _ => true
  | .fireflyCommandArrival _ => true
  | .fireflyCommandStart _ => true
  | .fireflyCommandComplete _ => true
  | .illegalInstruction _ => true
  | .pcRangeTrap => true
  | .strandChoice _ => true
  | .watchdogExpiry => true
  | .deferredCause _ => true
  | .windowRead _ _ _ => true
  | .windowWrite _ _ _ => true
  | .windowSemaphoreWrite _ _ _ => true
  | .fireflyContextBlockWrite _ _ _ => true
  | .tileCloseArrival _ => true
  | .closeArrival _ => true
  | .sealArrival _ => true
  | .restoreDone _ => true
  | .launchJoin _ => true
  | .exchangeStartPacket _ => true
  | .exchangeStart _ => true
  | .release _ => true
  | .startInstant _ => true
  | .abort _ => true
  | .rollbackWindowDone _ => true
  | .targetedSelfTestEnd _ _ _ => true
  | .stop _ => true
  | .rootTimeout _ => true
  | .shapingWindow _ => true
  | .treeReconfigure _ => true
  | .sealArrivalSend _ => true
  | .flitSend _ => true
  | .flitArrival _ => true
  | .xrecvMissedFlit _ _ => true
  | .exchangeEnd _ => true
  | .messageOffer _ _ => true
  | .collectiveSend _ _ => true
  | .collectiveLanding _ => true
  | .collectiveReceiveTimeout _ _ => true
  | .deltaArrival _ _ => true
  | .faultRecordPost _ => true
  | .oclysDataFrame _ _ _ _ _ => true
  | .oclysAckFrame _ _ => true
  | .oclysReplayRequest _ _ => true
  | .oclysAckTimeout _ => true
  | .linkFailure _ _ _ => true
  | .linkTrained _ => true
  | .hostWrite _ _ _ _ _ => true
  | .hostRead _ _ _ _ _ => true
  | .hostLaunch _ _ _ _ => true
  | .regionLaunch _ => true
  | .launchTilesSet _ _ => true
  | .launchTimeout _ _ => true
  | .rctlHold _ _ => true
  | .rctlFree _ _ => true
  | .rctlResume _ _ => true
  | .rctlDiscard _ _ => true
  | .physdRead _ => true
  | .physdWrite _ _ => true
  | .fqbaseWrite _ _ => true
  | .migrationStart _ _ => true
  | .migrationDone _ => true
  | .pprStart _ _ => true
  | .pprDone _ => true
  | .hbmerrRead _ => true
  | .qcrecRead _ => true
  | .pslewWrite _ _ => true
  | .pcapWrite _ _ => true
  | .throtWrite _ _ => true
  | .spareControlWrite _ _ _ => true
  | .attestationStart _ _ => true
  | .attestationDone _ => true
  | .powerCapInterval _ _ _ _ => true
  | .thermalTrip _ => true
  | .powerOn _ => true
  | .moduleReset _ => true
  | .secureBoot _ => true
  | .sbReadMstat _ => true
  | .sbReadPower _ => true
  | .sbReadTemp _ => true
  | .sbWritePcap _ _ => true
  | .sbReadBootstat _ => true
  | .sbReset _ _ => true
  | .sbReadIdentity _ => true
  | .sbUnknownCommand _ _ => true
  | .joinTimeout _ => true
  | .noiseSourceHealthTest _ _ => true
  | .ieee1588Sync _ _ _ => true
  | .malformedOperation _ _ _ => true

/-- An instruction is well formed when its fields pass the checks of its encoding. -/
abbrev Instr.WF (i : Instr) : Prop := i.wf = true

end Sys2Proof
end

