-- ==== Sys2Proof/Decode.lean ====
section
/-! DEFINITION. The decoder and the encoder (spec 03 R57-R78): a 32-bit word, taken as a natural number, to its
instruction, and back. Every word is either an instruction of the tables or refused (R78: cause 0x01). -/

namespace Sys2Proof

/-- The fields of a word of one major opcode, before the checks on field values: `none` is a word whose function field or
zero field matches no row of the opcode tables (R60, R69). -/
abbrev RowDecoder := Nat → Option Instr

/-- Major opcode 0x01: ADD, SUB, AND, OR, XOR, ANDN, SLL, SRL, SRA, ROR, MUL, MULH_S, MULH_N, DIV_S, DIV_N, REM_S, REM_N, MIN_S, MIN_N, MAX_S, MAX_N, CLZ, CTZ, POPC, MOD31. -/
def decodeOp01 (w : Nat) : Option Instr :=
  if fld w 22 10 = 0 then some (.add (BitVec.ofNat 5 (fld w 7 5)) (BitVec.ofNat 5 (fld w 12 5)) (BitVec.ofNat 5 (fld w 17 5)))
  else if fld w 22 10 = 1 then some (.sub (BitVec.ofNat 5 (fld w 7 5)) (BitVec.ofNat 5 (fld w 12 5)) (BitVec.ofNat 5 (fld w 17 5)))
  else if fld w 22 10 = 2 then some (.and (BitVec.ofNat 5 (fld w 7 5)) (BitVec.ofNat 5 (fld w 12 5)) (BitVec.ofNat 5 (fld w 17 5)))
  else if fld w 22 10 = 3 then some (.or (BitVec.ofNat 5 (fld w 7 5)) (BitVec.ofNat 5 (fld w 12 5)) (BitVec.ofNat 5 (fld w 17 5)))
  else if fld w 22 10 = 4 then some (.xor (BitVec.ofNat 5 (fld w 7 5)) (BitVec.ofNat 5 (fld w 12 5)) (BitVec.ofNat 5 (fld w 17 5)))
  else if fld w 22 10 = 5 then some (.andn (BitVec.ofNat 5 (fld w 7 5)) (BitVec.ofNat 5 (fld w 12 5)) (BitVec.ofNat 5 (fld w 17 5)))
  else if fld w 22 10 = 6 then some (.sll (BitVec.ofNat 5 (fld w 7 5)) (BitVec.ofNat 5 (fld w 12 5)) (BitVec.ofNat 5 (fld w 17 5)))
  else if fld w 22 10 = 7 then some (.srl (BitVec.ofNat 5 (fld w 7 5)) (BitVec.ofNat 5 (fld w 12 5)) (BitVec.ofNat 5 (fld w 17 5)))
  else if fld w 22 10 = 8 then some (.sra (BitVec.ofNat 5 (fld w 7 5)) (BitVec.ofNat 5 (fld w 12 5)) (BitVec.ofNat 5 (fld w 17 5)))
  else if fld w 22 10 = 9 then some (.ror (BitVec.ofNat 5 (fld w 7 5)) (BitVec.ofNat 5 (fld w 12 5)) (BitVec.ofNat 5 (fld w 17 5)))
  else if fld w 22 10 = 10 then some (.mul (BitVec.ofNat 5 (fld w 7 5)) (BitVec.ofNat 5 (fld w 12 5)) (BitVec.ofNat 5 (fld w 17 5)))
  else if fld w 22 10 = 11 then some (.mulhS (BitVec.ofNat 5 (fld w 7 5)) (BitVec.ofNat 5 (fld w 12 5)) (BitVec.ofNat 5 (fld w 17 5)))
  else if fld w 22 10 = 12 then some (.mulhN (BitVec.ofNat 5 (fld w 7 5)) (BitVec.ofNat 5 (fld w 12 5)) (BitVec.ofNat 5 (fld w 17 5)))
  else if fld w 22 10 = 13 then some (.divS (BitVec.ofNat 5 (fld w 7 5)) (BitVec.ofNat 5 (fld w 12 5)) (BitVec.ofNat 5 (fld w 17 5)))
  else if fld w 22 10 = 14 then some (.divN (BitVec.ofNat 5 (fld w 7 5)) (BitVec.ofNat 5 (fld w 12 5)) (BitVec.ofNat 5 (fld w 17 5)))
  else if fld w 22 10 = 15 then some (.remS (BitVec.ofNat 5 (fld w 7 5)) (BitVec.ofNat 5 (fld w 12 5)) (BitVec.ofNat 5 (fld w 17 5)))
  else if fld w 22 10 = 16 then some (.remN (BitVec.ofNat 5 (fld w 7 5)) (BitVec.ofNat 5 (fld w 12 5)) (BitVec.ofNat 5 (fld w 17 5)))
  else if fld w 22 10 = 17 then some (.minS (BitVec.ofNat 5 (fld w 7 5)) (BitVec.ofNat 5 (fld w 12 5)) (BitVec.ofNat 5 (fld w 17 5)))
  else if fld w 22 10 = 18 then some (.minN (BitVec.ofNat 5 (fld w 7 5)) (BitVec.ofNat 5 (fld w 12 5)) (BitVec.ofNat 5 (fld w 17 5)))
  else if fld w 22 10 = 19 then some (.maxS (BitVec.ofNat 5 (fld w 7 5)) (BitVec.ofNat 5 (fld w 12 5)) (BitVec.ofNat 5 (fld w 17 5)))
  else if fld w 22 10 = 20 then some (.maxN (BitVec.ofNat 5 (fld w 7 5)) (BitVec.ofNat 5 (fld w 12 5)) (BitVec.ofNat 5 (fld w 17 5)))
  else if fld w 17 15 = 672 then some (.clz (BitVec.ofNat 5 (fld w 7 5)) (BitVec.ofNat 5 (fld w 12 5)))
  else if fld w 17 15 = 704 then some (.ctz (BitVec.ofNat 5 (fld w 7 5)) (BitVec.ofNat 5 (fld w 12 5)))
  else if fld w 17 15 = 736 then some (.popc (BitVec.ofNat 5 (fld w 7 5)) (BitVec.ofNat 5 (fld w 12 5)))
  else if fld w 17 15 = 768 then some (.mod31 (BitVec.ofNat 5 (fld w 7 5)) (BitVec.ofNat 5 (fld w 12 5)))
  else none

/-- Major opcode 0x02: ADDI. -/
def decodeOp02 (w : Nat) : Option Instr :=
  some (.addi (BitVec.ofNat 5 (fld w 7 5)) (BitVec.ofNat 5 (fld w 12 5)) (BitVec.ofNat 15 (fld w 17 15)))

/-- Major opcode 0x03: ANDI. -/
def decodeOp03 (w : Nat) : Option Instr :=
  some (.andi (BitVec.ofNat 5 (fld w 7 5)) (BitVec.ofNat 5 (fld w 12 5)) (BitVec.ofNat 15 (fld w 17 15)))

/-- Major opcode 0x04: ORI. -/
def decodeOp04 (w : Nat) : Option Instr :=
  some (.ori (BitVec.ofNat 5 (fld w 7 5)) (BitVec.ofNat 5 (fld w 12 5)) (BitVec.ofNat 15 (fld w 17 15)))

/-- Major opcode 0x05: XORI. -/
def decodeOp05 (w : Nat) : Option Instr :=
  some (.xori (BitVec.ofNat 5 (fld w 7 5)) (BitVec.ofNat 5 (fld w 12 5)) (BitVec.ofNat 15 (fld w 17 15)))

/-- Major opcode 0x06: SLLI, SRLI, SRAI, RORI. -/
def decodeOp06 (w : Nat) : Option Instr :=
  if fld w 23 9 = 0 then some (.slli (BitVec.ofNat 5 (fld w 7 5)) (BitVec.ofNat 5 (fld w 12 5)) (BitVec.ofNat 6 (fld w 17 6)))
  else if fld w 23 9 = 1 then some (.srli (BitVec.ofNat 5 (fld w 7 5)) (BitVec.ofNat 5 (fld w 12 5)) (BitVec.ofNat 6 (fld w 17 6)))
  else if fld w 23 9 = 2 then some (.srai (BitVec.ofNat 5 (fld w 7 5)) (BitVec.ofNat 5 (fld w 12 5)) (BitVec.ofNat 6 (fld w 17 6)))
  else if fld w 23 9 = 3 then some (.rori (BitVec.ofNat 5 (fld w 7 5)) (BitVec.ofNat 5 (fld w 12 5)) (BitVec.ofNat 6 (fld w 17 6)))
  else none

/-- Major opcode 0x07: LIH. -/
def decodeOp07 (w : Nat) : Option Instr :=
  some (.lih (BitVec.ofNat 5 (fld w 7 5)) (BitVec.ofNat 20 (fld w 12 20)))

/-- Major opcode 0x08: ADDPC. -/
def decodeOp08 (w : Nat) : Option Instr :=
  some (.addpc (BitVec.ofNat 5 (fld w 7 5)) (BitVec.ofNat 20 (fld w 12 20)))

/-- Major opcode 0x09: PCMP. -/
def decodeOp09 (w : Nat) : Option Instr :=
  if fld w 23 9 = 0 then some (.pcmp (BitVec.ofNat 3 (fld w 7 3)) (BitVec.ofNat 3 (fld w 10 3)) (BitVec.ofNat 5 (fld w 13 5)) (BitVec.ofNat 5 (fld w 18 5)))
  else none

/-- Major opcode 0x0A: PCMPI. -/
def decodeOp0a (w : Nat) : Option Instr :=
  some (.pcmpi (BitVec.ofNat 3 (fld w 7 3)) (BitVec.ofNat 3 (fld w 10 3)) (BitVec.ofNat 5 (fld w 13 5)) (BitVec.ofNat 14 (fld w 18 14)))

/-- Major opcode 0x0B: PAND, POR, PXOR, PANDN, PORN, PXNOR. -/
def decodeOp0b (w : Nat) : Option Instr :=
  if fld w 10 8 = 0 ∧ fld w 24 8 = 0 then some (.pand (BitVec.ofNat 3 (fld w 7 3)) (BitVec.ofNat 3 (fld w 18 3)) (BitVec.ofNat 3 (fld w 21 3)))
  else if fld w 10 8 = 1 ∧ fld w 24 8 = 0 then some (.por (BitVec.ofNat 3 (fld w 7 3)) (BitVec.ofNat 3 (fld w 18 3)) (BitVec.ofNat 3 (fld w 21 3)))
  else if fld w 10 8 = 2 ∧ fld w 24 8 = 0 then some (.pxor (BitVec.ofNat 3 (fld w 7 3)) (BitVec.ofNat 3 (fld w 18 3)) (BitVec.ofNat 3 (fld w 21 3)))
  else if fld w 10 8 = 3 ∧ fld w 24 8 = 0 then some (.pandn (BitVec.ofNat 3 (fld w 7 3)) (BitVec.ofNat 3 (fld w 18 3)) (BitVec.ofNat 3 (fld w 21 3)))
  else if fld w 10 8 = 4 ∧ fld w 24 8 = 0 then some (.porn (BitVec.ofNat 3 (fld w 7 3)) (BitVec.ofNat 3 (fld w 18 3)) (BitVec.ofNat 3 (fld w 21 3)))
  else if fld w 10 8 = 5 ∧ fld w 24 8 = 0 then some (.pxnor (BitVec.ofNat 3 (fld w 7 3)) (BitVec.ofNat 3 (fld w 18 3)) (BitVec.ofNat 3 (fld w 21 3)))
  else none

/-- Major opcode 0x0C: LD_S8. -/
def decodeOp0c (w : Nat) : Option Instr :=
  some (.ldS8 (BitVec.ofNat 5 (fld w 7 5)) (BitVec.ofNat 5 (fld w 12 5)) (BitVec.ofNat 15 (fld w 17 15)))

/-- Major opcode 0x0D: LD_N8. -/
def decodeOp0d (w : Nat) : Option Instr :=
  some (.ldN8 (BitVec.ofNat 5 (fld w 7 5)) (BitVec.ofNat 5 (fld w 12 5)) (BitVec.ofNat 15 (fld w 17 15)))

/-- Major opcode 0x0E: LD_S16. -/
def decodeOp0e (w : Nat) : Option Instr :=
  some (.ldS16 (BitVec.ofNat 5 (fld w 7 5)) (BitVec.ofNat 5 (fld w 12 5)) (BitVec.ofNat 15 (fld w 17 15)))

/-- Major opcode 0x0F: LD_N16. -/
def decodeOp0f (w : Nat) : Option Instr :=
  some (.ldN16 (BitVec.ofNat 5 (fld w 7 5)) (BitVec.ofNat 5 (fld w 12 5)) (BitVec.ofNat 15 (fld w 17 15)))

/-- Major opcode 0x10: LD_S32. -/
def decodeOp10 (w : Nat) : Option Instr :=
  some (.ldS32 (BitVec.ofNat 5 (fld w 7 5)) (BitVec.ofNat 5 (fld w 12 5)) (BitVec.ofNat 15 (fld w 17 15)))

/-- Major opcode 0x11: LD_N32. -/
def decodeOp11 (w : Nat) : Option Instr :=
  some (.ldN32 (BitVec.ofNat 5 (fld w 7 5)) (BitVec.ofNat 5 (fld w 12 5)) (BitVec.ofNat 15 (fld w 17 15)))

/-- Major opcode 0x12: LD_64. -/
def decodeOp12 (w : Nat) : Option Instr :=
  some (.ld64 (BitVec.ofNat 5 (fld w 7 5)) (BitVec.ofNat 5 (fld w 12 5)) (BitVec.ofNat 15 (fld w 17 15)))

/-- Major opcode 0x13: ST_8. -/
def decodeOp13 (w : Nat) : Option Instr :=
  some (.st8 (BitVec.ofNat 5 (fld w 7 5)) (BitVec.ofNat 5 (fld w 12 5)) (BitVec.ofNat 15 (fld w 17 15)))

/-- Major opcode 0x14: ST_16. -/
def decodeOp14 (w : Nat) : Option Instr :=
  some (.st16 (BitVec.ofNat 5 (fld w 7 5)) (BitVec.ofNat 5 (fld w 12 5)) (BitVec.ofNat 15 (fld w 17 15)))

/-- Major opcode 0x15: ST_32. -/
def decodeOp15 (w : Nat) : Option Instr :=
  some (.st32 (BitVec.ofNat 5 (fld w 7 5)) (BitVec.ofNat 5 (fld w 12 5)) (BitVec.ofNat 15 (fld w 17 15)))

/-- Major opcode 0x16: ST_64. -/
def decodeOp16 (w : Nat) : Option Instr :=
  some (.st64 (BitVec.ofNat 5 (fld w 7 5)) (BitVec.ofNat 5 (fld w 12 5)) (BitVec.ofNat 15 (fld w 17 15)))

/-- Major opcode 0x17: LDFE. -/
def decodeOp17 (w : Nat) : Option Instr :=
  some (.ldfe (BitVec.ofNat 5 (fld w 7 5)) (BitVec.ofNat 5 (fld w 12 5)) (BitVec.ofNat 1 (fld w 17 1)) (BitVec.ofNat 14 (fld w 18 14)))

/-- Major opcode 0x18: STFE. -/
def decodeOp18 (w : Nat) : Option Instr :=
  some (.stfe (BitVec.ofNat 5 (fld w 7 5)) (BitVec.ofNat 5 (fld w 12 5)) (BitVec.ofNat 1 (fld w 17 1)) (BitVec.ofNat 14 (fld w 18 14)))

/-- Major opcode 0x19: GLD. -/
def decodeOp19 (w : Nat) : Option Instr :=
  if fld w 25 7 = 0 then some (.gld (BitVec.ofNat 5 (fld w 7 5)) (BitVec.ofNat 5 (fld w 12 5)) (BitVec.ofNat 5 (fld w 17 5)) (BitVec.ofNat 3 (fld w 22 3)))
  else none

/-- Major opcode 0x1A: LDB, STB. -/
def decodeOp1a (w : Nat) : Option Instr :=
  if fld w 22 1 = 0 ∧ fld w 26 6 = 0 then some (.ldb (BitVec.ofNat 5 (fld w 7 5)) (BitVec.ofNat 5 (fld w 12 5)) (BitVec.ofNat 5 (fld w 17 5)) (BitVec.ofNat 3 (fld w 23 3)))
  else if fld w 22 1 = 1 ∧ fld w 26 6 = 0 then some (.stb (BitVec.ofNat 5 (fld w 7 5)) (BitVec.ofNat 5 (fld w 12 5)) (BitVec.ofNat 5 (fld w 17 5)) (BitVec.ofNat 3 (fld w 23 3)))
  else none

/-- Major opcode 0x20: BR. -/
def decodeOp20 (w : Nat) : Option Instr :=
  some (.br (BitVec.ofNat 3 (fld w 7 3)) (BitVec.ofNat 1 (fld w 10 1)) (BitVec.ofNat 1 (fld w 11 1)) (BitVec.ofNat 20 (fld w 12 20)))

/-- Major opcode 0x21: JAL. -/
def decodeOp21 (w : Nat) : Option Instr :=
  some (.jal (BitVec.ofNat 5 (fld w 7 5)) (BitVec.ofNat 20 (fld w 12 20)))

/-- Major opcode 0x22: JALR. -/
def decodeOp22 (w : Nat) : Option Instr :=
  some (.jalr (BitVec.ofNat 5 (fld w 7 5)) (BitVec.ofNat 5 (fld w 12 5)) (BitVec.ofNat 15 (fld w 17 15)))

/-- Major opcode 0x23: NOP, YIELD, EXIT, TRAP, ERET, FENCE, FENCE_ACQ, FENCE_REL. -/
def decodeOp23 (w : Nat) : Option Instr :=
  if fld w 7 25 = 0 then some (.nop)
  else if fld w 7 25 = 32768 then some (.yield)
  else if fld w 7 25 = 65536 then some (.exit)
  else if fld w 7 5 = 0 ∧ fld w 17 15 = 96 then some (.trap (BitVec.ofNat 5 (fld w 12 5)))
  else if fld w 7 25 = 131072 then some (.eret)
  else if fld w 7 25 = 262144 then some (.fence)
  else if fld w 7 25 = 294912 then some (.fenceAcq)
  else if fld w 7 25 = 327680 then some (.fenceRel)
  else none

/-- Major opcode 0x24: CSRR. -/
def decodeOp24 (w : Nat) : Option Instr :=
  if fld w 12 5 = 0 ∧ fld w 29 3 = 0 then some (.csrr (BitVec.ofNat 5 (fld w 7 5)) (BitVec.ofNat 12 (fld w 17 12)))
  else none

/-- Major opcode 0x25: CSRW. -/
def decodeOp25 (w : Nat) : Option Instr :=
  if fld w 12 5 = 0 ∧ fld w 29 3 = 0 then some (.csrw (BitVec.ofNat 5 (fld w 7 5)) (BitVec.ofNat 12 (fld w 17 12)))
  else none

/-- Major opcode 0x26: SPAWN. -/
def decodeOp26 (w : Nat) : Option Instr :=
  if fld w 17 5 = 0 ∧ fld w 26 6 = 0 then some (.spawn (BitVec.ofNat 5 (fld w 7 5)) (BitVec.ofNat 5 (fld w 12 5)) (BitVec.ofNat 3 (fld w 22 3)) (BitVec.ofNat 1 (fld w 25 1)))
  else none

/-- Major opcode 0x27: SEMV, SEMP, SEMPT, SEMSET, SEMGET. -/
def decodeOp27 (w : Nat) : Option Instr :=
  if fld w 7 5 = 0 ∧ fld w 17 5 = 0 ∧ fld w 28 4 = 0 then some (.semv (BitVec.ofNat 5 (fld w 12 5)) (BitVec.ofNat 6 (fld w 22 6)))
  else if fld w 7 15 = 0 ∧ fld w 28 4 = 1 then some (.semp (BitVec.ofNat 6 (fld w 22 6)))
  else if fld w 12 5 = 0 ∧ fld w 28 4 = 2 then some (.sempt (BitVec.ofNat 5 (fld w 7 5)) (BitVec.ofNat 5 (fld w 17 5)) (BitVec.ofNat 6 (fld w 22 6)))
  else if fld w 7 5 = 0 ∧ fld w 17 5 = 0 ∧ fld w 28 4 = 3 then some (.semset (BitVec.ofNat 5 (fld w 12 5)) (BitVec.ofNat 6 (fld w 22 6)))
  else if fld w 12 10 = 0 ∧ fld w 28 4 = 4 then some (.semget (BitVec.ofNat 5 (fld w 7 5)) (BitVec.ofNat 6 (fld w 22 6)))
  else none

/-- Major opcode 0x28: BLD, BST. -/
def decodeOp28 (w : Nat) : Option Instr :=
  if fld w 17 5 = 0 then some (.bld (BitVec.ofNat 5 (fld w 7 5)) (BitVec.ofNat 5 (fld w 12 5)) (BitVec.ofNat 10 (fld w 22 10)))
  else if fld w 17 5 = 1 then some (.bst (BitVec.ofNat 5 (fld w 7 5)) (BitVec.ofNat 5 (fld w 12 5)) (BitVec.ofNat 10 (fld w 22 10)))
  else none

/-- Major opcode 0x30: SYNC. -/
def decodeOp30 (w : Nat) : Option Instr :=
  if fld w 27 5 = 0 then some (.sync (BitVec.ofNat 5 (fld w 7 5)) (BitVec.ofNat 5 (fld w 12 5)) (BitVec.ofNat 5 (fld w 17 5)) (BitVec.ofNat 2 (fld w 22 2)) (BitVec.ofNat 3 (fld w 24 3)))
  else none

/-- Major opcode 0x31: SSQ_NUM, SSQ_OUT, SSQ_RED, SSQ_TRY, SSQ_REL. -/
def decodeOp31 (w : Nat) : Option Instr :=
  if fld w 12 20 = 0 then some (.ssqNum (BitVec.ofNat 5 (fld w 7 5)))
  else if fld w 12 20 = 1024 then some (.ssqOut (BitVec.ofNat 5 (fld w 7 5)))
  else if fld w 12 20 = 2048 then some (.ssqRed (BitVec.ofNat 5 (fld w 7 5)))
  else if fld w 12 20 = 3072 then some (.ssqTry (BitVec.ofNat 5 (fld w 7 5)))
  else if fld w 12 20 = 4096 then some (.ssqRel (BitVec.ofNat 5 (fld w 7 5)))
  else none

/-- Major opcode 0x32: SEND. -/
def decodeOp32 (w : Nat) : Option Instr :=
  if fld w 10 2 = 0 ∧ fld w 25 7 = 0 then some (.send (BitVec.ofNat 3 (fld w 7 3)) (BitVec.ofNat 5 (fld w 12 5)) (BitVec.ofNat 5 (fld w 17 5)) (BitVec.ofNat 2 (fld w 22 2)) (BitVec.ofNat 1 (fld w 24 1)))
  else none

/-- Major opcode 0x33: RECV, RECV_ANY. -/
def decodeOp33 (w : Nat) : Option Instr :=
  if fld w 17 5 = 0 ∧ fld w 24 1 = 0 ∧ fld w 29 3 = 0 then some (.recv (BitVec.ofNat 5 (fld w 7 5)) (BitVec.ofNat 5 (fld w 12 5)) (BitVec.ofNat 2 (fld w 22 2)) (BitVec.ofNat 1 (fld w 25 1)) (BitVec.ofNat 3 (fld w 26 3)))
  else if fld w 17 8 = 128 ∧ fld w 29 3 = 0 then some (.recvAny (BitVec.ofNat 5 (fld w 7 5)) (BitVec.ofNat 5 (fld w 12 5)) (BitVec.ofNat 1 (fld w 25 1)) (BitVec.ofNat 3 (fld w 26 3)))
  else none

/-- Major opcode 0x34: RSPAWN. -/
def decodeOp34 (w : Nat) : Option Instr :=
  if fld w 10 2 = 0 ∧ fld w 22 10 = 0 then some (.rspawn (BitVec.ofNat 3 (fld w 7 3)) (BitVec.ofNat 5 (fld w 12 5)) (BitVec.ofNat 5 (fld w 17 5)))
  else none

/-- Major opcode 0x35: XSEND, XRECV. -/
def decodeOp35 (w : Nat) : Option Instr :=
  if fld w 22 10 = 0 then some (.xsend (BitVec.ofNat 5 (fld w 7 5)) (BitVec.ofNat 5 (fld w 12 5)) (BitVec.ofNat 5 (fld w 17 5)))
  else if fld w 22 10 = 64 then some (.xrecv (BitVec.ofNat 5 (fld w 7 5)) (BitVec.ofNat 5 (fld w 12 5)) (BitVec.ofNat 5 (fld w 17 5)))
  else none

/-- Major opcode 0x40: VADD_F, VSUB_F, VMUL_F, VMIN_F, VMAX_F, VABS_F, VNEG, VCVT, VCVTI, VCVTF. -/
def decodeOp40 (w : Nat) : Option Instr :=
  if fld w 22 4 = 0 ∧ fld w 30 2 = 0 then some (.vaddF (BitVec.ofNat 5 (fld w 7 5)) (BitVec.ofNat 5 (fld w 12 5)) (BitVec.ofNat 5 (fld w 17 5)) (BitVec.ofNat 2 (fld w 26 2)) (BitVec.ofNat 2 (fld w 28 2)))
  else if fld w 22 4 = 1 ∧ fld w 30 2 = 0 then some (.vsubF (BitVec.ofNat 5 (fld w 7 5)) (BitVec.ofNat 5 (fld w 12 5)) (BitVec.ofNat 5 (fld w 17 5)) (BitVec.ofNat 2 (fld w 26 2)) (BitVec.ofNat 2 (fld w 28 2)))
  else if fld w 22 4 = 2 ∧ fld w 30 2 = 0 then some (.vmulF (BitVec.ofNat 5 (fld w 7 5)) (BitVec.ofNat 5 (fld w 12 5)) (BitVec.ofNat 5 (fld w 17 5)) (BitVec.ofNat 2 (fld w 26 2)) (BitVec.ofNat 2 (fld w 28 2)))
  else if fld w 22 4 = 3 ∧ fld w 30 2 = 0 then some (.vminF (BitVec.ofNat 5 (fld w 7 5)) (BitVec.ofNat 5 (fld w 12 5)) (BitVec.ofNat 5 (fld w 17 5)) (BitVec.ofNat 2 (fld w 26 2)) (BitVec.ofNat 2 (fld w 28 2)))
  else if fld w 22 4 = 4 ∧ fld w 30 2 = 0 then some (.vmaxF (BitVec.ofNat 5 (fld w 7 5)) (BitVec.ofNat 5 (fld w 12 5)) (BitVec.ofNat 5 (fld w 17 5)) (BitVec.ofNat 2 (fld w 26 2)) (BitVec.ofNat 2 (fld w 28 2)))
  else if fld w 17 9 = 160 ∧ fld w 30 2 = 0 then some (.vabsF (BitVec.ofNat 5 (fld w 7 5)) (BitVec.ofNat 5 (fld w 12 5)) (BitVec.ofNat 2 (fld w 26 2)) (BitVec.ofNat 2 (fld w 28 2)))
  else if fld w 17 9 = 192 ∧ fld w 30 2 = 0 then some (.vneg (BitVec.ofNat 5 (fld w 7 5)) (BitVec.ofNat 5 (fld w 12 5)) (BitVec.ofNat 2 (fld w 26 2)) (BitVec.ofNat 2 (fld w 28 2)))
  else if fld w 19 7 = 56 ∧ fld w 30 2 = 0 then some (.vcvt (BitVec.ofNat 5 (fld w 7 5)) (BitVec.ofNat 5 (fld w 12 5)) (BitVec.ofNat 2 (fld w 17 2)) (BitVec.ofNat 2 (fld w 26 2)) (BitVec.ofNat 2 (fld w 28 2)))
  else if fld w 17 9 = 256 ∧ fld w 30 2 = 0 then some (.vcvti (BitVec.ofNat 5 (fld w 7 5)) (BitVec.ofNat 5 (fld w 12 5)) (BitVec.ofNat 2 (fld w 26 2)) (BitVec.ofNat 2 (fld w 28 2)))
  else if fld w 17 9 = 288 ∧ fld w 30 2 = 0 then some (.vcvtf (BitVec.ofNat 5 (fld w 7 5)) (BitVec.ofNat 5 (fld w 12 5)) (BitVec.ofNat 2 (fld w 26 2)) (BitVec.ofNat 2 (fld w 28 2)))
  else none

/-- Major opcode 0x41: VADD_I, VSUB_I, VMUL_I, VMIN_S, VMIN_N, VMAX_S, VMAX_N, VAND, VOR, VXOR, VSLL, VSRL, VSRA, VADDS_S, VADDS_N, VSUBS_S, VSUBS_N, VABS_I. -/
def decodeOp41 (w : Nat) : Option Instr :=
  if fld w 22 5 = 0 ∧ fld w 29 3 = 0 then some (.vaddI (BitVec.ofNat 5 (fld w 7 5)) (BitVec.ofNat 5 (fld w 12 5)) (BitVec.ofNat 5 (fld w 17 5)) (BitVec.ofNat 2 (fld w 27 2)))
  else if fld w 22 5 = 1 ∧ fld w 29 3 = 0 then some (.vsubI (BitVec.ofNat 5 (fld w 7 5)) (BitVec.ofNat 5 (fld w 12 5)) (BitVec.ofNat 5 (fld w 17 5)) (BitVec.ofNat 2 (fld w 27 2)))
  else if fld w 22 5 = 2 ∧ fld w 29 3 = 0 then some (.vmulI (BitVec.ofNat 5 (fld w 7 5)) (BitVec.ofNat 5 (fld w 12 5)) (BitVec.ofNat 5 (fld w 17 5)) (BitVec.ofNat 2 (fld w 27 2)))
  else if fld w 22 5 = 3 ∧ fld w 29 3 = 0 then some (.vminS (BitVec.ofNat 5 (fld w 7 5)) (BitVec.ofNat 5 (fld w 12 5)) (BitVec.ofNat 5 (fld w 17 5)) (BitVec.ofNat 2 (fld w 27 2)))
  else if fld w 22 5 = 4 ∧ fld w 29 3 = 0 then some (.vminN (BitVec.ofNat 5 (fld w 7 5)) (BitVec.ofNat 5 (fld w 12 5)) (BitVec.ofNat 5 (fld w 17 5)) (BitVec.ofNat 2 (fld w 27 2)))
  else if fld w 22 5 = 5 ∧ fld w 29 3 = 0 then some (.vmaxS (BitVec.ofNat 5 (fld w 7 5)) (BitVec.ofNat 5 (fld w 12 5)) (BitVec.ofNat 5 (fld w 17 5)) (BitVec.ofNat 2 (fld w 27 2)))
  else if fld w 22 5 = 6 ∧ fld w 29 3 = 0 then some (.vmaxN (BitVec.ofNat 5 (fld w 7 5)) (BitVec.ofNat 5 (fld w 12 5)) (BitVec.ofNat 5 (fld w 17 5)) (BitVec.ofNat 2 (fld w 27 2)))
  else if fld w 22 5 = 7 ∧ fld w 29 3 = 0 then some (.vand (BitVec.ofNat 5 (fld w 7 5)) (BitVec.ofNat 5 (fld w 12 5)) (BitVec.ofNat 5 (fld w 17 5)) (BitVec.ofNat 2 (fld w 27 2)))
  else if fld w 22 5 = 8 ∧ fld w 29 3 = 0 then some (.vor (BitVec.ofNat 5 (fld w 7 5)) (BitVec.ofNat 5 (fld w 12 5)) (BitVec.ofNat 5 (fld w 17 5)) (BitVec.ofNat 2 (fld w 27 2)))
  else if fld w 22 5 = 9 ∧ fld w 29 3 = 0 then some (.vxor (BitVec.ofNat 5 (fld w 7 5)) (BitVec.ofNat 5 (fld w 12 5)) (BitVec.ofNat 5 (fld w 17 5)) (BitVec.ofNat 2 (fld w 27 2)))
  else if fld w 22 5 = 10 ∧ fld w 29 3 = 0 then some (.vsll (BitVec.ofNat 5 (fld w 7 5)) (BitVec.ofNat 5 (fld w 12 5)) (BitVec.ofNat 5 (fld w 17 5)) (BitVec.ofNat 2 (fld w 27 2)))
  else if fld w 22 5 = 11 ∧ fld w 29 3 = 0 then some (.vsrl (BitVec.ofNat 5 (fld w 7 5)) (BitVec.ofNat 5 (fld w 12 5)) (BitVec.ofNat 5 (fld w 17 5)) (BitVec.ofNat 2 (fld w 27 2)))
  else if fld w 22 5 = 12 ∧ fld w 29 3 = 0 then some (.vsra (BitVec.ofNat 5 (fld w 7 5)) (BitVec.ofNat 5 (fld w 12 5)) (BitVec.ofNat 5 (fld w 17 5)) (BitVec.ofNat 2 (fld w 27 2)))
  else if fld w 22 5 = 13 ∧ fld w 29 3 = 0 then some (.vaddsS (BitVec.ofNat 5 (fld w 7 5)) (BitVec.ofNat 5 (fld w 12 5)) (BitVec.ofNat 5 (fld w 17 5)) (BitVec.ofNat 2 (fld w 27 2)))
  else if fld w 22 5 = 14 ∧ fld w 29 3 = 0 then some (.vaddsN (BitVec.ofNat 5 (fld w 7 5)) (BitVec.ofNat 5 (fld w 12 5)) (BitVec.ofNat 5 (fld w 17 5)) (BitVec.ofNat 2 (fld w 27 2)))
  else if fld w 22 5 = 15 ∧ fld w 29 3 = 0 then some (.vsubsS (BitVec.ofNat 5 (fld w 7 5)) (BitVec.ofNat 5 (fld w 12 5)) (BitVec.ofNat 5 (fld w 17 5)) (BitVec.ofNat 2 (fld w 27 2)))
  else if fld w 22 5 = 16 ∧ fld w 29 3 = 0 then some (.vsubsN (BitVec.ofNat 5 (fld w 7 5)) (BitVec.ofNat 5 (fld w 12 5)) (BitVec.ofNat 5 (fld w 17 5)) (BitVec.ofNat 2 (fld w 27 2)))
  else if fld w 17 10 = 544 ∧ fld w 29 3 = 0 then some (.vabsI (BitVec.ofNat 5 (fld w 7 5)) (BitVec.ofNat 5 (fld w 12 5)) (BitVec.ofNat 2 (fld w 27 2)))
  else none

/-- Major opcode 0x42: VFMA, VFNMA. -/
def decodeOp42 (w : Nat) : Option Instr :=
  if fld w 31 1 = 0 then some (.vfma (BitVec.ofNat 5 (fld w 7 5)) (BitVec.ofNat 5 (fld w 12 5)) (BitVec.ofNat 5 (fld w 17 5)) (BitVec.ofNat 5 (fld w 22 5)) (BitVec.ofNat 2 (fld w 27 2)) (BitVec.ofNat 2 (fld w 29 2)))
  else if fld w 31 1 = 1 then some (.vfnma (BitVec.ofNat 5 (fld w 7 5)) (BitVec.ofNat 5 (fld w 12 5)) (BitVec.ofNat 5 (fld w 17 5)) (BitVec.ofNat 5 (fld w 22 5)) (BitVec.ofNat 2 (fld w 27 2)) (BitVec.ofNat 2 (fld w 29 2)))
  else none

/-- Major opcode 0x43: VCMP_I, VCMP_F, VSEL. -/
def decodeOp43 (w : Nat) : Option Instr :=
  if fld w 22 3 = 0 ∧ fld w 30 2 = 0 then some (.vcmpI (BitVec.ofNat 5 (fld w 7 5)) (BitVec.ofNat 5 (fld w 12 5)) (BitVec.ofNat 5 (fld w 17 5)) (BitVec.ofNat 2 (fld w 25 2)) (BitVec.ofNat 3 (fld w 27 3)))
  else if fld w 22 3 = 0 ∧ fld w 30 2 = 1 then some (.vcmpF (BitVec.ofNat 5 (fld w 7 5)) (BitVec.ofNat 5 (fld w 12 5)) (BitVec.ofNat 5 (fld w 17 5)) (BitVec.ofNat 2 (fld w 25 2)) (BitVec.ofNat 3 (fld w 27 3)))
  else if fld w 22 3 = 0 ∧ fld w 27 5 = 16 then some (.vsel (BitVec.ofNat 5 (fld w 7 5)) (BitVec.ofNat 5 (fld w 12 5)) (BitVec.ofNat 5 (fld w 17 5)) (BitVec.ofNat 2 (fld w 25 2)))
  else none

/-- Major opcode 0x44: VLD, VST. -/
def decodeOp44 (w : Nat) : Option Instr :=
  if fld w 17 1 = 0 then some (.vld (BitVec.ofNat 5 (fld w 7 5)) (BitVec.ofNat 5 (fld w 12 5)) (BitVec.ofNat 14 (fld w 18 14)))
  else if fld w 17 1 = 1 then some (.vst (BitVec.ofNat 5 (fld w 7 5)) (BitVec.ofNat 5 (fld w 12 5)) (BitVec.ofNat 14 (fld w 18 14)))
  else none

/-- Major opcode 0x45: VLDS, VSTS, VGATH, VSCAT. -/
def decodeOp45 (w : Nat) : Option Instr :=
  if fld w 22 2 = 0 ∧ fld w 26 6 = 0 then some (.vlds (BitVec.ofNat 5 (fld w 7 5)) (BitVec.ofNat 5 (fld w 12 5)) (BitVec.ofNat 5 (fld w 17 5)) (BitVec.ofNat 2 (fld w 24 2)))
  else if fld w 22 2 = 1 ∧ fld w 26 6 = 0 then some (.vsts (BitVec.ofNat 5 (fld w 7 5)) (BitVec.ofNat 5 (fld w 12 5)) (BitVec.ofNat 5 (fld w 17 5)) (BitVec.ofNat 2 (fld w 24 2)))
  else if fld w 22 2 = 2 ∧ fld w 26 6 = 0 then some (.vgath (BitVec.ofNat 5 (fld w 7 5)) (BitVec.ofNat 5 (fld w 12 5)) (BitVec.ofNat 5 (fld w 17 5)) (BitVec.ofNat 2 (fld w 24 2)))
  else if fld w 22 2 = 3 ∧ fld w 26 6 = 0 then some (.vscat (BitVec.ofNat 5 (fld w 7 5)) (BitVec.ofNat 5 (fld w 12 5)) (BitVec.ofNat 5 (fld w 17 5)) (BitVec.ofNat 2 (fld w 24 2)))
  else none

/-- Major opcode 0x46: VRED_FADD, VRED_FMIN, VRED_FMAX, VRED_ADD, VRED_MIN_S, VRED_MAX_S, VPERM, VBCAST, VMOV, VMOV_TO_X, VMOV_TO_LANE. -/
def decodeOp46 (w : Nat) : Option Instr :=
  if fld w 17 9 = 0 ∧ fld w 28 4 = 0 then some (.vredFadd (BitVec.ofNat 5 (fld w 7 5)) (BitVec.ofNat 5 (fld w 12 5)) (BitVec.ofNat 2 (fld w 26 2)))
  else if fld w 17 9 = 32 ∧ fld w 28 4 = 0 then some (.vredFmin (BitVec.ofNat 5 (fld w 7 5)) (BitVec.ofNat 5 (fld w 12 5)) (BitVec.ofNat 2 (fld w 26 2)))
  else if fld w 17 9 = 64 ∧ fld w 28 4 = 0 then some (.vredFmax (BitVec.ofNat 5 (fld w 7 5)) (BitVec.ofNat 5 (fld w 12 5)) (BitVec.ofNat 2 (fld w 26 2)))
  else if fld w 17 9 = 96 ∧ fld w 28 4 = 0 then some (.vredAdd (BitVec.ofNat 5 (fld w 7 5)) (BitVec.ofNat 5 (fld w 12 5)) (BitVec.ofNat 2 (fld w 26 2)))
  else if fld w 17 9 = 128 ∧ fld w 28 4 = 0 then some (.vredMinS (BitVec.ofNat 5 (fld w 7 5)) (BitVec.ofNat 5 (fld w 12 5)) (BitVec.ofNat 2 (fld w 26 2)))
  else if fld w 17 9 = 160 ∧ fld w 28 4 = 0 then some (.vredMaxS (BitVec.ofNat 5 (fld w 7 5)) (BitVec.ofNat 5 (fld w 12 5)) (BitVec.ofNat 2 (fld w 26 2)))
  else if fld w 22 4 = 0 ∧ fld w 28 4 = 4 then some (.vperm (BitVec.ofNat 5 (fld w 7 5)) (BitVec.ofNat 5 (fld w 12 5)) (BitVec.ofNat 5 (fld w 17 5)) (BitVec.ofNat 2 (fld w 26 2)))
  else if fld w 17 9 = 0 ∧ fld w 28 4 = 8 then some (.vbcast (BitVec.ofNat 5 (fld w 7 5)) (BitVec.ofNat 5 (fld w 12 5)) (BitVec.ofNat 2 (fld w 26 2)))
  else if fld w 17 15 = 24576 then some (.vmov (BitVec.ofNat 5 (fld w 7 5)) (BitVec.ofNat 5 (fld w 12 5)))
  else if fld w 22 4 = 1 ∧ fld w 28 4 = 12 then some (.vmovToX (BitVec.ofNat 5 (fld w 7 5)) (BitVec.ofNat 5 (fld w 12 5)) (BitVec.ofNat 5 (fld w 17 5)) (BitVec.ofNat 2 (fld w 26 2)))
  else if fld w 22 4 = 2 ∧ fld w 28 4 = 12 then some (.vmovToLane (BitVec.ofNat 5 (fld w 7 5)) (BitVec.ofNat 5 (fld w 12 5)) (BitVec.ofNat 5 (fld w 17 5)) (BitVec.ofNat 2 (fld w 26 2)))
  else none

/-- Major opcode 0x47: VEXP2, VLOG2, VRCP, VRSQ. -/
def decodeOp47 (w : Nat) : Option Instr :=
  if fld w 17 7 = 0 ∧ fld w 26 6 = 0 then some (.vexp2 (BitVec.ofNat 5 (fld w 7 5)) (BitVec.ofNat 5 (fld w 12 5)) (BitVec.ofNat 2 (fld w 24 2)))
  else if fld w 17 7 = 32 ∧ fld w 26 6 = 0 then some (.vlog2 (BitVec.ofNat 5 (fld w 7 5)) (BitVec.ofNat 5 (fld w 12 5)) (BitVec.ofNat 2 (fld w 24 2)))
  else if fld w 17 7 = 64 ∧ fld w 28 4 = 0 then some (.vrcp (BitVec.ofNat 5 (fld w 7 5)) (BitVec.ofNat 5 (fld w 12 5)) (BitVec.ofNat 2 (fld w 24 2)) (BitVec.ofNat 2 (fld w 26 2)))
  else if fld w 17 7 = 96 ∧ fld w 28 4 = 0 then some (.vrsq (BitVec.ofNat 5 (fld w 7 5)) (BitVec.ofNat 5 (fld w 12 5)) (BitVec.ofNat 2 (fld w 24 2)) (BitVec.ofNat 2 (fld w 26 2)))
  else none

/-- Major opcode 0x48: VSTREAM_IN, VSTREAM_OUT, VSTREAM_END. -/
def decodeOp48 (w : Nat) : Option Instr :=
  if fld w 17 5 = 0 ∧ fld w 28 4 = 0 then some (.vstreamIn (BitVec.ofNat 5 (fld w 7 5)) (BitVec.ofNat 5 (fld w 12 5)) (BitVec.ofNat 6 (fld w 22 6)))
  else if fld w 17 5 = 0 ∧ fld w 28 4 = 1 then some (.vstreamOut (BitVec.ofNat 5 (fld w 7 5)) (BitVec.ofNat 5 (fld w 12 5)) (BitVec.ofNat 6 (fld w 22 6)))
  else if fld w 7 5 = 0 ∧ fld w 17 15 = 4096 then some (.vstreamEnd (BitVec.ofNat 5 (fld w 12 5)))
  else none

/-- Major opcode 0x50: MCFG. -/
def decodeOp50 (w : Nat) : Option Instr :=
  if fld w 17 15 = 0 then some (.mcfg (BitVec.ofNat 5 (fld w 7 5)) (BitVec.ofNat 5 (fld w 12 5)))
  else none

/-- Major opcode 0x51: MWLD. -/
def decodeOp51 (w : Nat) : Option Instr :=
  if fld w 12 10 = 0 ∧ fld w 26 6 = 0 then some (.mwld (BitVec.ofNat 5 (fld w 7 5)) (BitVec.ofNat 4 (fld w 22 4)))
  else none

/-- Major opcode 0x52: MMUL_R, MMUL_C. -/
def decodeOp52 (w : Nat) : Option Instr :=
  if fld w 17 5 = 0 ∧ fld w 26 6 = 0 then some (.mmulR (BitVec.ofNat 5 (fld w 7 5)) (BitVec.ofNat 5 (fld w 12 5)) (BitVec.ofNat 4 (fld w 22 4)))
  else if fld w 17 5 = 0 ∧ fld w 26 6 = 4 then some (.mmulC (BitVec.ofNat 5 (fld w 7 5)) (BitVec.ofNat 5 (fld w 12 5)) (BitVec.ofNat 4 (fld w 22 4)))
  else none

/-- Major opcode 0x53: MACC_Z, MACC_RD, MACC_WR, MACC_PIN, MACC_UNPIN. -/
def decodeOp53 (w : Nat) : Option Instr :=
  if fld w 7 5 = 0 ∧ fld w 17 15 = 0 then some (.maccZ (BitVec.ofNat 5 (fld w 12 5)))
  else if fld w 22 10 = 64 then some (.maccRd (BitVec.ofNat 5 (fld w 7 5)) (BitVec.ofNat 5 (fld w 12 5)) (BitVec.ofNat 5 (fld w 17 5)))
  else if fld w 17 15 = 4096 then some (.maccWr (BitVec.ofNat 5 (fld w 7 5)) (BitVec.ofNat 5 (fld w 12 5)))
  else if fld w 7 5 = 0 ∧ fld w 17 15 = 6144 then some (.maccPin (BitVec.ofNat 5 (fld w 12 5)))
  else if fld w 7 5 = 0 ∧ fld w 17 15 = 8192 then some (.maccUnpin (BitVec.ofNat 5 (fld w 12 5)))
  else none

/-- Major opcode 0x58: SQUANT. -/
def decodeOp58 (w : Nat) : Option Instr :=
  if fld w 30 2 = 0 then some (.squant (BitVec.ofNat 5 (fld w 7 5)) (BitVec.ofNat 5 (fld w 12 5)) (BitVec.ofNat 5 (fld w 17 5)) (BitVec.ofNat 6 (fld w 22 6)) (BitVec.ofNat 1 (fld w 28 1)) (BitVec.ofNat 1 (fld w 29 1)))
  else none

/-- Major opcode 0x59: SDEQ. -/
def decodeOp59 (w : Nat) : Option Instr :=
  if fld w 28 4 = 0 then some (.sdeq (BitVec.ofNat 5 (fld w 7 5)) (BitVec.ofNat 5 (fld w 12 5)) (BitVec.ofNat 5 (fld w 17 5)) (BitVec.ofNat 6 (fld w 22 6)))
  else none

/-- Major opcode 0x5A: SEXP. -/
def decodeOp5a (w : Nat) : Option Instr :=
  if fld w 17 5 = 0 ∧ fld w 28 4 = 0 then some (.sexp (BitVec.ofNat 5 (fld w 7 5)) (BitVec.ofNat 5 (fld w 12 5)) (BitVec.ofNat 6 (fld w 22 6)))
  else none

/-- Major opcode 0x5B: STRANS, STRANS_RQ. -/
def decodeOp5b (w : Nat) : Option Instr :=
  if fld w 28 4 = 0 then some (.strans (BitVec.ofNat 5 (fld w 7 5)) (BitVec.ofNat 5 (fld w 12 5)) (BitVec.ofNat 5 (fld w 17 5)) (BitVec.ofNat 6 (fld w 22 6)))
  else if fld w 28 4 = 1 then some (.stransRq (BitVec.ofNat 5 (fld w 7 5)) (BitVec.ofNat 5 (fld w 12 5)) (BitVec.ofNat 5 (fld w 17 5)) (BitVec.ofNat 6 (fld w 22 6)))
  else none

/-- Major opcode 0x5C: SCOMP. -/
def decodeOp5c (w : Nat) : Option Instr :=
  if fld w 17 5 = 0 ∧ fld w 28 4 = 0 then some (.scomp (BitVec.ofNat 5 (fld w 7 5)) (BitVec.ofNat 5 (fld w 12 5)) (BitVec.ofNat 6 (fld w 22 6)))
  else none

/-- Major opcode 0x5D: SBLK_EXP, SBLK_INT, SBLK_FLT. -/
def decodeOp5d (w : Nat) : Option Instr :=
  if fld w 28 4 = 0 then some (.sblkExp (BitVec.ofNat 5 (fld w 7 5)) (BitVec.ofNat 5 (fld w 12 5)) (BitVec.ofNat 5 (fld w 17 5)) (BitVec.ofNat 6 (fld w 22 6)))
  else if fld w 28 4 = 1 then some (.sblkInt (BitVec.ofNat 5 (fld w 7 5)) (BitVec.ofNat 5 (fld w 12 5)) (BitVec.ofNat 5 (fld w 17 5)) (BitVec.ofNat 6 (fld w 22 6)))
  else if fld w 28 4 = 2 then some (.sblkFlt (BitVec.ofNat 5 (fld w 7 5)) (BitVec.ofNat 5 (fld w 12 5)) (BitVec.ofNat 5 (fld w 17 5)) (BitVec.ofNat 6 (fld w 22 6)))
  else none

/-- Major opcode 0x5E: SCVT. -/
def decodeOp5e (w : Nat) : Option Instr :=
  if fld w 17 5 = 0 ∧ fld w 31 1 = 0 then some (.scvt (BitVec.ofNat 5 (fld w 7 5)) (BitVec.ofNat 5 (fld w 12 5)) (BitVec.ofNat 6 (fld w 22 6)) (BitVec.ofNat 2 (fld w 28 2)) (BitVec.ofNat 1 (fld w 30 1)))
  else none

/-- Major opcode 0x60: STAGE. -/
def decodeOp60 (w : Nat) : Option Instr :=
  if fld w 28 4 = 0 then some (.stage (BitVec.ofNat 5 (fld w 7 5)) (BitVec.ofNat 5 (fld w 12 5)) (BitVec.ofNat 5 (fld w 17 5)) (BitVec.ofNat 6 (fld w 22 6)))
  else none

/-- Major opcode 0x61: COPY. -/
def decodeOp61 (w : Nat) : Option Instr :=
  if fld w 17 5 = 0 ∧ fld w 28 4 = 0 then some (.copy (BitVec.ofNat 5 (fld w 7 5)) (BitVec.ofNat 5 (fld w 12 5)) (BitVec.ofNat 6 (fld w 22 6)))
  else none

/-- Major opcode 0x62: HLD. -/
def decodeOp62 (w : Nat) : Option Instr :=
  if fld w 17 5 = 0 ∧ fld w 28 4 = 0 then some (.hld (BitVec.ofNat 5 (fld w 7 5)) (BitVec.ofNat 5 (fld w 12 5)) (BitVec.ofNat 6 (fld w 22 6)))
  else none

/-- Major opcode 0x63: HST. -/
def decodeOp63 (w : Nat) : Option Instr :=
  if fld w 17 5 = 0 ∧ fld w 28 4 = 0 then some (.hst (BitVec.ofNat 5 (fld w 7 5)) (BitVec.ofNat 5 (fld w 12 5)) (BitVec.ofNat 6 (fld w 22 6)))
  else none

/-- Major opcode 0x64: HRED_ADD_S32, HRED_ADD_S64, HRED_MIN_S32, HRED_MIN_S64, HRED_MAX_S32, HRED_MAX_S64, HRED_AND, HRED_OR, HRED_FADD_F32. -/
def decodeOp64 (w : Nat) : Option Instr :=
  if fld w 17 5 = 0 ∧ fld w 28 4 = 0 then some (.hredAddS32 (BitVec.ofNat 5 (fld w 7 5)) (BitVec.ofNat 5 (fld w 12 5)) (BitVec.ofNat 6 (fld w 22 6)))
  else if fld w 17 5 = 0 ∧ fld w 28 4 = 1 then some (.hredAddS64 (BitVec.ofNat 5 (fld w 7 5)) (BitVec.ofNat 5 (fld w 12 5)) (BitVec.ofNat 6 (fld w 22 6)))
  else if fld w 17 5 = 0 ∧ fld w 28 4 = 2 then some (.hredMinS32 (BitVec.ofNat 5 (fld w 7 5)) (BitVec.ofNat 5 (fld w 12 5)) (BitVec.ofNat 6 (fld w 22 6)))
  else if fld w 17 5 = 0 ∧ fld w 28 4 = 3 then some (.hredMinS64 (BitVec.ofNat 5 (fld w 7 5)) (BitVec.ofNat 5 (fld w 12 5)) (BitVec.ofNat 6 (fld w 22 6)))
  else if fld w 17 5 = 0 ∧ fld w 28 4 = 4 then some (.hredMaxS32 (BitVec.ofNat 5 (fld w 7 5)) (BitVec.ofNat 5 (fld w 12 5)) (BitVec.ofNat 6 (fld w 22 6)))
  else if fld w 17 5 = 0 ∧ fld w 28 4 = 5 then some (.hredMaxS64 (BitVec.ofNat 5 (fld w 7 5)) (BitVec.ofNat 5 (fld w 12 5)) (BitVec.ofNat 6 (fld w 22 6)))
  else if fld w 17 5 = 0 ∧ fld w 28 4 = 6 then some (.hredAnd (BitVec.ofNat 5 (fld w 7 5)) (BitVec.ofNat 5 (fld w 12 5)) (BitVec.ofNat 6 (fld w 22 6)))
  else if fld w 17 5 = 0 ∧ fld w 28 4 = 7 then some (.hredOr (BitVec.ofNat 5 (fld w 7 5)) (BitVec.ofNat 5 (fld w 12 5)) (BitVec.ofNat 6 (fld w 22 6)))
  else if fld w 17 5 = 0 ∧ fld w 28 4 = 8 then some (.hredFaddF32 (BitVec.ofNat 5 (fld w 7 5)) (BitVec.ofNat 5 (fld w 12 5)) (BitVec.ofNat 6 (fld w 22 6)))
  else none

/-- Major opcode 0x65: HFENCE. -/
def decodeOp65 (w : Nat) : Option Instr :=
  if fld w 7 25 = 0 then some (.hfence)
  else none

/-- Major opcode 0x68: FFCFG_KEY, FFCFG_BETA, FFCFG_SIGT, FFCFG_MODE. -/
def decodeOp68 (w : Nat) : Option Instr :=
  if fld w 12 10 = 0 ∧ fld w 28 4 = 0 then some (.ffcfgKey (BitVec.ofNat 5 (fld w 7 5)) (BitVec.ofNat 6 (fld w 22 6)))
  else if fld w 12 10 = 0 ∧ fld w 28 4 = 1 then some (.ffcfgBeta (BitVec.ofNat 5 (fld w 7 5)) (BitVec.ofNat 6 (fld w 22 6)))
  else if fld w 12 10 = 0 ∧ fld w 28 4 = 2 then some (.ffcfgSigt (BitVec.ofNat 5 (fld w 7 5)) (BitVec.ofNat 6 (fld w 22 6)))
  else if fld w 12 10 = 0 ∧ fld w 28 4 = 3 then some (.ffcfgMode (BitVec.ofNat 5 (fld w 7 5)) (BitVec.ofNat 6 (fld w 22 6)))
  else none

/-- Major opcode 0x69: FFLD_EDGE, FFLD_BIAS, FFLD_COL, FFLD_STATE. -/
def decodeOp69 (w : Nat) : Option Instr :=
  if fld w 17 5 = 0 ∧ fld w 28 4 = 0 then some (.ffldEdge (BitVec.ofNat 5 (fld w 7 5)) (BitVec.ofNat 5 (fld w 12 5)) (BitVec.ofNat 6 (fld w 22 6)))
  else if fld w 17 5 = 0 ∧ fld w 28 4 = 1 then some (.ffldBias (BitVec.ofNat 5 (fld w 7 5)) (BitVec.ofNat 5 (fld w 12 5)) (BitVec.ofNat 6 (fld w 22 6)))
  else if fld w 17 5 = 0 ∧ fld w 28 4 = 2 then some (.ffldCol (BitVec.ofNat 5 (fld w 7 5)) (BitVec.ofNat 5 (fld w 12 5)) (BitVec.ofNat 6 (fld w 22 6)))
  else if fld w 17 5 = 0 ∧ fld w 28 4 = 3 then some (.ffldState (BitVec.ofNat 5 (fld w 7 5)) (BitVec.ofNat 5 (fld w 12 5)) (BitVec.ofNat 6 (fld w 22 6)))
  else none

/-- Major opcode 0x6A: FFOP_SWEEP, FFOP_CLAMP, FFOP_UNCLAMP, FFOP_CRESET. -/
def decodeOp6a (w : Nat) : Option Instr :=
  if fld w 7 5 = 0 ∧ fld w 17 5 = 0 ∧ fld w 28 4 = 0 then some (.ffopSweep (BitVec.ofNat 5 (fld w 12 5)) (BitVec.ofNat 6 (fld w 22 6)))
  else if fld w 12 10 = 0 ∧ fld w 28 4 = 1 then some (.ffopClamp (BitVec.ofNat 5 (fld w 7 5)) (BitVec.ofNat 6 (fld w 22 6)))
  else if fld w 12 10 = 0 ∧ fld w 28 4 = 2 then some (.ffopUnclamp (BitVec.ofNat 5 (fld w 7 5)) (BitVec.ofNat 6 (fld w 22 6)))
  else if fld w 7 15 = 0 ∧ fld w 28 4 = 3 then some (.ffopCreset (BitVec.ofNat 6 (fld w 22 6)))
  else none

/-- Major opcode 0x6B: FFRD_BITS, FFRD_CNT. -/
def decodeOp6b (w : Nat) : Option Instr :=
  if fld w 17 5 = 0 ∧ fld w 28 4 = 0 then some (.ffrdBits (BitVec.ofNat 5 (fld w 7 5)) (BitVec.ofNat 5 (fld w 12 5)) (BitVec.ofNat 6 (fld w 22 6)))
  else if fld w 17 5 = 0 ∧ fld w 28 4 = 1 then some (.ffrdCnt (BitVec.ofNat 5 (fld w 7 5)) (BitVec.ofNat 5 (fld w 12 5)) (BitVec.ofNat 6 (fld w 22 6)))
  else none

/-- Major opcode 0x6C: CGRP, CRANK, CPART. -/
def decodeOp6c (w : Nat) : Option Instr :=
  if fld w 17 15 = 0 then some (.cgrp (BitVec.ofNat 5 (fld w 7 5)) (BitVec.ofNat 5 (fld w 12 5)))
  else if fld w 17 15 = 32 then some (.crank (BitVec.ofNat 5 (fld w 7 5)) (BitVec.ofNat 5 (fld w 12 5)))
  else if fld w 22 10 = 2 then some (.cpart (BitVec.ofNat 5 (fld w 7 5)) (BitVec.ofNat 5 (fld w 12 5)) (BitVec.ofNat 5 (fld w 17 5)))
  else none

/-- Major opcode 0x6D: CROUTE, CMARK. -/
def decodeOp6d (w : Nat) : Option Instr :=
  if fld w 7 5 = 0 ∧ fld w 22 10 = 0 then some (.croute (BitVec.ofNat 5 (fld w 12 5)) (BitVec.ofNat 5 (fld w 17 5)))
  else if fld w 7 5 = 0 ∧ fld w 17 15 = 32 then some (.cmark (BitVec.ofNat 5 (fld w 12 5)))
  else none

/-- Major opcode 0x6E: CSEND, CRECV, CRECV_ADD, CRECV_MAX. -/
def decodeOp6e (w : Nat) : Option Instr :=
  if fld w 28 4 = 0 then some (.csend (BitVec.ofNat 5 (fld w 7 5)) (BitVec.ofNat 5 (fld w 12 5)) (BitVec.ofNat 5 (fld w 17 5)) (BitVec.ofNat 6 (fld w 22 6)))
  else if fld w 28 4 = 1 then some (.crecv (BitVec.ofNat 5 (fld w 7 5)) (BitVec.ofNat 5 (fld w 12 5)) (BitVec.ofNat 5 (fld w 17 5)) (BitVec.ofNat 6 (fld w 22 6)))
  else if fld w 28 4 = 2 then some (.crecvAdd (BitVec.ofNat 5 (fld w 7 5)) (BitVec.ofNat 5 (fld w 12 5)) (BitVec.ofNat 5 (fld w 17 5)) (BitVec.ofNat 6 (fld w 22 6)))
  else if fld w 28 4 = 3 then some (.crecvMax (BitVec.ofNat 5 (fld w 7 5)) (BitVec.ofNat 5 (fld w 12 5)) (BitVec.ofNat 5 (fld w 17 5)) (BitVec.ofNat 6 (fld w 22 6)))
  else none

/-- Major opcode 0x70: TLBW, TLBINV, TLBINV_ALL. -/
def decodeOp70 (w : Nat) : Option Instr :=
  if fld w 7 5 = 0 ∧ fld w 22 10 = 0 then some (.tlbw (BitVec.ofNat 5 (fld w 12 5)) (BitVec.ofNat 5 (fld w 17 5)))
  else if fld w 7 5 = 0 ∧ fld w 17 15 = 32 then some (.tlbinv (BitVec.ofNat 5 (fld w 12 5)))
  else if fld w 7 25 = 65536 then some (.tlbinvAll)
  else none

/-- Major opcode 0x71: FQPOP, FQRES. -/
def decodeOp71 (w : Nat) : Option Instr :=
  if fld w 12 20 = 0 then some (.fqpop (BitVec.ofNat 5 (fld w 7 5)))
  else if fld w 7 5 = 0 ∧ fld w 17 15 = 32 then some (.fqres (BitVec.ofNat 5 (fld w 12 5)))
  else none

/-- Major opcode 0x72: CTXSV, CTXLD. -/
def decodeOp72 (w : Nat) : Option Instr :=
  if fld w 7 5 = 0 ∧ fld w 22 10 = 0 then some (.ctxsv (BitVec.ofNat 5 (fld w 12 5)) (BitVec.ofNat 5 (fld w 17 5)))
  else if fld w 7 5 = 0 ∧ fld w 22 10 = 1 then some (.ctxld (BitVec.ofNat 5 (fld w 12 5)) (BitVec.ofNat 5 (fld w 17 5)))
  else none

/-- Major opcode 0x7F: BRK. -/
def decodeOp7f (w : Nat) : Option Instr :=
  if fld w 7 5 = 0 then some (.brk (BitVec.ofNat 20 (fld w 12 20)))
  else none

/-- The rows of a major opcode (R69-R78). -/
def decodeTable (op : Nat) : RowDecoder :=
  match op with
  | 0x01 => decodeOp01
  | 0x02 => decodeOp02
  | 0x03 => decodeOp03
  | 0x04 => decodeOp04
  | 0x05 => decodeOp05
  | 0x06 => decodeOp06
  | 0x07 => decodeOp07
  | 0x08 => decodeOp08
  | 0x09 => decodeOp09
  | 0x0a => decodeOp0a
  | 0x0b => decodeOp0b
  | 0x0c => decodeOp0c
  | 0x0d => decodeOp0d
  | 0x0e => decodeOp0e
  | 0x0f => decodeOp0f
  | 0x10 => decodeOp10
  | 0x11 => decodeOp11
  | 0x12 => decodeOp12
  | 0x13 => decodeOp13
  | 0x14 => decodeOp14
  | 0x15 => decodeOp15
  | 0x16 => decodeOp16
  | 0x17 => decodeOp17
  | 0x18 => decodeOp18
  | 0x19 => decodeOp19
  | 0x1a => decodeOp1a
  | 0x20 => decodeOp20
  | 0x21 => decodeOp21
  | 0x22 => decodeOp22
  | 0x23 => decodeOp23
  | 0x24 => decodeOp24
  | 0x25 => decodeOp25
  | 0x26 => decodeOp26
  | 0x27 => decodeOp27
  | 0x28 => decodeOp28
  | 0x30 => decodeOp30
  | 0x31 => decodeOp31
  | 0x32 => decodeOp32
  | 0x33 => decodeOp33
  | 0x34 => decodeOp34
  | 0x35 => decodeOp35
  | 0x40 => decodeOp40
  | 0x41 => decodeOp41
  | 0x42 => decodeOp42
  | 0x43 => decodeOp43
  | 0x44 => decodeOp44
  | 0x45 => decodeOp45
  | 0x46 => decodeOp46
  | 0x47 => decodeOp47
  | 0x48 => decodeOp48
  | 0x50 => decodeOp50
  | 0x51 => decodeOp51
  | 0x52 => decodeOp52
  | 0x53 => decodeOp53
  | 0x58 => decodeOp58
  | 0x59 => decodeOp59
  | 0x5a => decodeOp5a
  | 0x5b => decodeOp5b
  | 0x5c => decodeOp5c
  | 0x5d => decodeOp5d
  | 0x5e => decodeOp5e
  | 0x60 => decodeOp60
  | 0x61 => decodeOp61
  | 0x62 => decodeOp62
  | 0x63 => decodeOp63
  | 0x64 => decodeOp64
  | 0x65 => decodeOp65
  | 0x68 => decodeOp68
  | 0x69 => decodeOp69
  | 0x6a => decodeOp6a
  | 0x6b => decodeOp6b
  | 0x6c => decodeOp6c
  | 0x6d => decodeOp6d
  | 0x6e => decodeOp6e
  | 0x70 => decodeOp70
  | 0x71 => decodeOp71
  | 0x72 => decodeOp72
  | 0x7f => decodeOp7f
  | _ => fun _ => none

/-- The row of the opcode tables a word belongs to. -/
def decodeRow (w : Nat) : Option Instr := decodeTable (w % 128) w

/-- The decoder: the instruction a 32-bit word stands for, or `none` where the word is an illegal encoding (R20 step 1,
R58, R60, R69, R78). -/
def decode (w : Nat) : Option Instr :=
  match decodeRow w with
  | some i => if i.wf then some i else none
  | none => none

/-- A number from its fields, the lowest first: the width of each and its value (R57). -/
def pack (l : List (Nat × Nat)) : Nat :=
  match l with
  | [] => 0
  | (n, v) :: t => v + 2 ^ n * pack t

/-- The word of an instruction, from the encoding tables of R69-R77. A step that has no word has none. -/
def encode (i : Instr) : Option Nat :=
  match i with
  | .add d a b => some (pack [(7, 0x1), (5, d.toNat), (5, a.toNat), (5, b.toNat), (10, 0)])
  | .sub d a b => some (pack [(7, 0x1), (5, d.toNat), (5, a.toNat), (5, b.toNat), (10, 1)])
  | .and d a b => some (pack [(7, 0x1), (5, d.toNat), (5, a.toNat), (5, b.toNat), (10, 2)])
  | .or d a b => some (pack [(7, 0x1), (5, d.toNat), (5, a.toNat), (5, b.toNat), (10, 3)])
  | .xor d a b => some (pack [(7, 0x1), (5, d.toNat), (5, a.toNat), (5, b.toNat), (10, 4)])
  | .andn d a b => some (pack [(7, 0x1), (5, d.toNat), (5, a.toNat), (5, b.toNat), (10, 5)])
  | .sll d a b => some (pack [(7, 0x1), (5, d.toNat), (5, a.toNat), (5, b.toNat), (10, 6)])
  | .srl d a b => some (pack [(7, 0x1), (5, d.toNat), (5, a.toNat), (5, b.toNat), (10, 7)])
  | .sra d a b => some (pack [(7, 0x1), (5, d.toNat), (5, a.toNat), (5, b.toNat), (10, 8)])
  | .ror d a b => some (pack [(7, 0x1), (5, d.toNat), (5, a.toNat), (5, b.toNat), (10, 9)])
  | .mul d a b => some (pack [(7, 0x1), (5, d.toNat), (5, a.toNat), (5, b.toNat), (10, 10)])
  | .mulhS d a b => some (pack [(7, 0x1), (5, d.toNat), (5, a.toNat), (5, b.toNat), (10, 11)])
  | .mulhN d a b => some (pack [(7, 0x1), (5, d.toNat), (5, a.toNat), (5, b.toNat), (10, 12)])
  | .divS d a b => some (pack [(7, 0x1), (5, d.toNat), (5, a.toNat), (5, b.toNat), (10, 13)])
  | .divN d a b => some (pack [(7, 0x1), (5, d.toNat), (5, a.toNat), (5, b.toNat), (10, 14)])
  | .remS d a b => some (pack [(7, 0x1), (5, d.toNat), (5, a.toNat), (5, b.toNat), (10, 15)])
  | .remN d a b => some (pack [(7, 0x1), (5, d.toNat), (5, a.toNat), (5, b.toNat), (10, 16)])
  | .minS d a b => some (pack [(7, 0x1), (5, d.toNat), (5, a.toNat), (5, b.toNat), (10, 17)])
  | .minN d a b => some (pack [(7, 0x1), (5, d.toNat), (5, a.toNat), (5, b.toNat), (10, 18)])
  | .maxS d a b => some (pack [(7, 0x1), (5, d.toNat), (5, a.toNat), (5, b.toNat), (10, 19)])
  | .maxN d a b => some (pack [(7, 0x1), (5, d.toNat), (5, a.toNat), (5, b.toNat), (10, 20)])
  | .clz d a => some (pack [(7, 0x1), (5, d.toNat), (5, a.toNat), (15, 672)])
  | .ctz d a => some (pack [(7, 0x1), (5, d.toNat), (5, a.toNat), (15, 704)])
  | .popc d a => some (pack [(7, 0x1), (5, d.toNat), (5, a.toNat), (15, 736)])
  | .mod31 d a => some (pack [(7, 0x1), (5, d.toNat), (5, a.toNat), (15, 768)])
  | .addi d a i => some (pack [(7, 0x2), (5, d.toNat), (5, a.toNat), (15, i.toNat)])
  | .andi d a i => some (pack [(7, 0x3), (5, d.toNat), (5, a.toNat), (15, i.toNat)])
  | .ori d a i => some (pack [(7, 0x4), (5, d.toNat), (5, a.toNat), (15, i.toNat)])
  | .xori d a i => some (pack [(7, 0x5), (5, d.toNat), (5, a.toNat), (15, i.toNat)])
  | .slli d a n => some (pack [(7, 0x6), (5, d.toNat), (5, a.toNat), (6, n.toNat), (9, 0)])
  | .srli d a n => some (pack [(7, 0x6), (5, d.toNat), (5, a.toNat), (6, n.toNat), (9, 1)])
  | .srai d a n => some (pack [(7, 0x6), (5, d.toNat), (5, a.toNat), (6, n.toNat), (9, 2)])
  | .rori d a n => some (pack [(7, 0x6), (5, d.toNat), (5, a.toNat), (6, n.toNat), (9, 3)])
  | .lih d i => some (pack [(7, 0x7), (5, d.toNat), (20, i.toNat)])
  | .addpc d i => some (pack [(7, 0x8), (5, d.toNat), (20, i.toNat)])
  | .pcmp p c a b => some (pack [(7, 0x9), (3, p.toNat), (3, c.toNat), (5, a.toNat), (5, b.toNat), (9, 0)])
  | .pcmpi p c a i => some (pack [(7, 0xa), (3, p.toNat), (3, c.toNat), (5, a.toNat), (14, i.toNat)])
  | .pand d a b => some (pack [(7, 0xb), (3, d.toNat), (8, 0), (3, a.toNat), (3, b.toNat), (8, 0)])
  | .por d a b => some (pack [(7, 0xb), (3, d.toNat), (8, 1), (3, a.toNat), (3, b.toNat), (8, 0)])
  | .pxor d a b => some (pack [(7, 0xb), (3, d.toNat), (8, 2), (3, a.toNat), (3, b.toNat), (8, 0)])
  | .pandn d a b => some (pack [(7, 0xb), (3, d.toNat), (8, 3), (3, a.toNat), (3, b.toNat), (8, 0)])
  | .porn d a b => some (pack [(7, 0xb), (3, d.toNat), (8, 4), (3, a.toNat), (3, b.toNat), (8, 0)])
  | .pxnor d a b => some (pack [(7, 0xb), (3, d.toNat), (8, 5), (3, a.toNat), (3, b.toNat), (8, 0)])
  | .ldS8 d a i => some (pack [(7, 0xc), (5, d.toNat), (5, a.toNat), (15, i.toNat)])
  | .ldN8 d a i => some (pack [(7, 0xd), (5, d.toNat), (5, a.toNat), (15, i.toNat)])
  | .ldS16 d a i => some (pack [(7, 0xe), (5, d.toNat), (5, a.toNat), (15, i.toNat)])
  | .ldN16 d a i => some (pack [(7, 0xf), (5, d.toNat), (5, a.toNat), (15, i.toNat)])
  | .ldS32 d a i => some (pack [(7, 0x10), (5, d.toNat), (5, a.toNat), (15, i.toNat)])
  | .ldN32 d a i => some (pack [(7, 0x11), (5, d.toNat), (5, a.toNat), (15, i.toNat)])
  | .ld64 d a i => some (pack [(7, 0x12), (5, d.toNat), (5, a.toNat), (15, i.toNat)])
  | .st8 s a i => some (pack [(7, 0x13), (5, s.toNat), (5, a.toNat), (15, i.toNat)])
  | .st16 s a i => some (pack [(7, 0x14), (5, s.toNat), (5, a.toNat), (15, i.toNat)])
  | .st32 s a i => some (pack [(7, 0x15), (5, s.toNat), (5, a.toNat), (15, i.toNat)])
  | .st64 s a i => some (pack [(7, 0x16), (5, s.toNat), (5, a.toNat), (15, i.toNat)])
  | .ldfe d a c i => some (pack [(7, 0x17), (5, d.toNat), (5, a.toNat), (1, c.toNat), (14, i.toNat)])
  | .stfe s a e i => some (pack [(7, 0x18), (5, s.toNat), (5, a.toNat), (1, e.toNat), (14, i.toNat)])
  | .gld d a b t => some (pack [(7, 0x19), (5, d.toNat), (5, a.toNat), (5, b.toNat), (3, t.toNat), (7, 0)])
  | .ldb d a b t => some (pack [(7, 0x1a), (5, d.toNat), (5, a.toNat), (5, b.toNat), (1, 0), (3, t.toNat), (6, 0)])
  | .stb s a b t => some (pack [(7, 0x1a), (5, s.toNat), (5, a.toNat), (5, b.toNat), (1, 1), (3, t.toNat), (6, 0)])
  | .br p n h o => some (pack [(7, 0x20), (3, p.toNat), (1, n.toNat), (1, h.toNat), (20, o.toNat)])
  | .jal d i => some (pack [(7, 0x21), (5, d.toNat), (20, i.toNat)])
  | .jalr d a i => some (pack [(7, 0x22), (5, d.toNat), (5, a.toNat), (15, i.toNat)])
  | .nop => some (pack [(7, 0x23), (25, 0)])
  | .yield => some (pack [(7, 0x23), (25, 32768)])
  | .exit => some (pack [(7, 0x23), (25, 65536)])
  | .trap a => some (pack [(7, 0x23), (5, 0), (5, a.toNat), (15, 96)])
  | .eret => some (pack [(7, 0x23), (25, 131072)])
  | .fence => some (pack [(7, 0x23), (25, 262144)])
  | .fenceAcq => some (pack [(7, 0x23), (25, 294912)])
  | .fenceRel => some (pack [(7, 0x23), (25, 327680)])
  | .csrr d c => some (pack [(7, 0x24), (5, d.toNat), (5, 0), (12, c.toNat), (3, 0)])
  | .csrw s c => some (pack [(7, 0x25), (5, s.toNat), (5, 0), (12, c.toNat), (3, 0)])
  | .spawn d a n q => some (pack [(7, 0x26), (5, d.toNat), (5, a.toNat), (5, 0), (3, n.toNat), (1, q.toNat), (6, 0)])
  | .semv a k => some (pack [(7, 0x27), (5, 0), (5, a.toNat), (5, 0), (6, k.toNat), (4, 0)])
  | .semp k => some (pack [(7, 0x27), (15, 0), (6, k.toNat), (4, 1)])
  | .sempt e b k => some (pack [(7, 0x27), (5, e.toNat), (5, 0), (5, b.toNat), (6, k.toNat), (4, 2)])
  | .semset a k => some (pack [(7, 0x27), (5, 0), (5, a.toNat), (5, 0), (6, k.toNat), (4, 3)])
  | .semget e k => some (pack [(7, 0x27), (5, e.toNat), (10, 0), (6, k.toNat), (4, 4)])
  | .bld d a i => some (pack [(7, 0x28), (5, d.toNat), (5, a.toNat), (5, 0), (10, i.toNat)])
  | .bst d a i => some (pack [(7, 0x28), (5, d.toNat), (5, a.toNat), (5, 1), (10, i.toNat)])
  | .sync d a b v o => some (pack [(7, 0x30), (5, d.toNat), (5, a.toNat), (5, b.toNat), (2, v.toNat), (3, o.toNat), (5, 0)])
  | .ssqNum d => some (pack [(7, 0x31), (5, d.toNat), (20, 0)])
  | .ssqOut d => some (pack [(7, 0x31), (5, d.toNat), (20, 1024)])
  | .ssqRed d => some (pack [(7, 0x31), (5, d.toNat), (20, 2048)])
  | .ssqTry d => some (pack [(7, 0x31), (5, d.toNat), (20, 3072)])
  | .ssqRel d => some (pack [(7, 0x31), (5, d.toNat), (20, 4096)])
  | .send p a b n t => some (pack [(7, 0x32), (3, p.toNat), (2, 0), (5, a.toNat), (5, b.toNat), (2, n.toNat), (1, t.toNat), (7, 0)])
  | .recv d a n s p => some (pack [(7, 0x33), (5, d.toNat), (5, a.toNat), (5, 0), (2, n.toNat), (1, 0), (1, s.toNat), (3, p.toNat), (3, 0)])
  | .recvAny d a s p => some (pack [(7, 0x33), (5, d.toNat), (5, a.toNat), (8, 128), (1, s.toNat), (3, p.toNat), (3, 0)])
  | .rspawn p a b => some (pack [(7, 0x34), (3, p.toNat), (2, 0), (5, a.toNat), (5, b.toNat), (10, 0)])
  | .xsend e a b => some (pack [(7, 0x35), (5, e.toNat), (5, a.toNat), (5, b.toNat), (10, 0)])
  | .xrecv e a b => some (pack [(7, 0x35), (5, e.toNat), (5, a.toNat), (5, b.toNat), (10, 64)])
  | .vaddF d a b t m => some (pack [(7, 0x40), (5, d.toNat), (5, a.toNat), (5, b.toNat), (4, 0), (2, t.toNat), (2, m.toNat), (2, 0)])
  | .vsubF d a b t m => some (pack [(7, 0x40), (5, d.toNat), (5, a.toNat), (5, b.toNat), (4, 1), (2, t.toNat), (2, m.toNat), (2, 0)])
  | .vmulF d a b t m => some (pack [(7, 0x40), (5, d.toNat), (5, a.toNat), (5, b.toNat), (4, 2), (2, t.toNat), (2, m.toNat), (2, 0)])
  | .vminF d a b t m => some (pack [(7, 0x40), (5, d.toNat), (5, a.toNat), (5, b.toNat), (4, 3), (2, t.toNat), (2, m.toNat), (2, 0)])
  | .vmaxF d a b t m => some (pack [(7, 0x40), (5, d.toNat), (5, a.toNat), (5, b.toNat), (4, 4), (2, t.toNat), (2, m.toNat), (2, 0)])
  | .vabsF d a t m => some (pack [(7, 0x40), (5, d.toNat), (5, a.toNat), (9, 160), (2, t.toNat), (2, m.toNat), (2, 0)])
  | .vneg d a t m => some (pack [(7, 0x40), (5, d.toNat), (5, a.toNat), (9, 192), (2, t.toNat), (2, m.toNat), (2, 0)])
  | .vcvt d a u t m => some (pack [(7, 0x40), (5, d.toNat), (5, a.toNat), (2, u.toNat), (7, 56), (2, t.toNat), (2, m.toNat), (2, 0)])
  | .vcvti d a t m => some (pack [(7, 0x40), (5, d.toNat), (5, a.toNat), (9, 256), (2, t.toNat), (2, m.toNat), (2, 0)])
  | .vcvtf d a t m => some (pack [(7, 0x40), (5, d.toNat), (5, a.toNat), (9, 288), (2, t.toNat), (2, m.toNat), (2, 0)])
  | .vaddI d a b w => some (pack [(7, 0x41), (5, d.toNat), (5, a.toNat), (5, b.toNat), (5, 0), (2, w.toNat), (3, 0)])
  | .vsubI d a b w => some (pack [(7, 0x41), (5, d.toNat), (5, a.toNat), (5, b.toNat), (5, 1), (2, w.toNat), (3, 0)])
  | .vmulI d a b w => some (pack [(7, 0x41), (5, d.toNat), (5, a.toNat), (5, b.toNat), (5, 2), (2, w.toNat), (3, 0)])
  | .vminS d a b w => some (pack [(7, 0x41), (5, d.toNat), (5, a.toNat), (5, b.toNat), (5, 3), (2, w.toNat), (3, 0)])
  | .vminN d a b w => some (pack [(7, 0x41), (5, d.toNat), (5, a.toNat), (5, b.toNat), (5, 4), (2, w.toNat), (3, 0)])
  | .vmaxS d a b w => some (pack [(7, 0x41), (5, d.toNat), (5, a.toNat), (5, b.toNat), (5, 5), (2, w.toNat), (3, 0)])
  | .vmaxN d a b w => some (pack [(7, 0x41), (5, d.toNat), (5, a.toNat), (5, b.toNat), (5, 6), (2, w.toNat), (3, 0)])
  | .vand d a b w => some (pack [(7, 0x41), (5, d.toNat), (5, a.toNat), (5, b.toNat), (5, 7), (2, w.toNat), (3, 0)])
  | .vor d a b w => some (pack [(7, 0x41), (5, d.toNat), (5, a.toNat), (5, b.toNat), (5, 8), (2, w.toNat), (3, 0)])
  | .vxor d a b w => some (pack [(7, 0x41), (5, d.toNat), (5, a.toNat), (5, b.toNat), (5, 9), (2, w.toNat), (3, 0)])
  | .vsll d a b w => some (pack [(7, 0x41), (5, d.toNat), (5, a.toNat), (5, b.toNat), (5, 10), (2, w.toNat), (3, 0)])
  | .vsrl d a b w => some (pack [(7, 0x41), (5, d.toNat), (5, a.toNat), (5, b.toNat), (5, 11), (2, w.toNat), (3, 0)])
  | .vsra d a b w => some (pack [(7, 0x41), (5, d.toNat), (5, a.toNat), (5, b.toNat), (5, 12), (2, w.toNat), (3, 0)])
  | .vaddsS d a b w => some (pack [(7, 0x41), (5, d.toNat), (5, a.toNat), (5, b.toNat), (5, 13), (2, w.toNat), (3, 0)])
  | .vaddsN d a b w => some (pack [(7, 0x41), (5, d.toNat), (5, a.toNat), (5, b.toNat), (5, 14), (2, w.toNat), (3, 0)])
  | .vsubsS d a b w => some (pack [(7, 0x41), (5, d.toNat), (5, a.toNat), (5, b.toNat), (5, 15), (2, w.toNat), (3, 0)])
  | .vsubsN d a b w => some (pack [(7, 0x41), (5, d.toNat), (5, a.toNat), (5, b.toNat), (5, 16), (2, w.toNat), (3, 0)])
  | .vabsI d a w => some (pack [(7, 0x41), (5, d.toNat), (5, a.toNat), (10, 544), (2, w.toNat), (3, 0)])
  | .vfma d a b c m t => some (pack [(7, 0x42), (5, d.toNat), (5, a.toNat), (5, b.toNat), (5, c.toNat), (2, m.toNat), (2, t.toNat), (1, 0)])
  | .vfnma d a b c m t => some (pack [(7, 0x42), (5, d.toNat), (5, a.toNat), (5, b.toNat), (5, c.toNat), (2, m.toNat), (2, t.toNat), (1, 1)])
  | .vcmpI d a b w c => some (pack [(7, 0x43), (5, d.toNat), (5, a.toNat), (5, b.toNat), (3, 0), (2, w.toNat), (3, c.toNat), (2, 0)])
  | .vcmpF d a b t c => some (pack [(7, 0x43), (5, d.toNat), (5, a.toNat), (5, b.toNat), (3, 0), (2, t.toNat), (3, c.toNat), (2, 1)])
  | .vsel d a b w => some (pack [(7, 0x43), (5, d.toNat), (5, a.toNat), (5, b.toNat), (3, 0), (2, w.toNat), (5, 16)])
  | .vld d a i => some (pack [(7, 0x44), (5, d.toNat), (5, a.toNat), (1, 0), (14, i.toNat)])
  | .vst s a i => some (pack [(7, 0x44), (5, s.toNat), (5, a.toNat), (1, 1), (14, i.toNat)])
  | .vlds d a b e => some (pack [(7, 0x45), (5, d.toNat), (5, a.toNat), (5, b.toNat), (2, 0), (2, e.toNat), (6, 0)])
  | .vsts d a b e => some (pack [(7, 0x45), (5, d.toNat), (5, a.toNat), (5, b.toNat), (2, 1), (2, e.toNat), (6, 0)])
  | .vgath d a b e => some (pack [(7, 0x45), (5, d.toNat), (5, a.toNat), (5, b.toNat), (2, 2), (2, e.toNat), (6, 0)])
  | .vscat d a b e => some (pack [(7, 0x45), (5, d.toNat), (5, a.toNat), (5, b.toNat), (2, 3), (2, e.toNat), (6, 0)])
  | .vredFadd d a t => some (pack [(7, 0x46), (5, d.toNat), (5, a.toNat), (9, 0), (2, t.toNat), (4, 0)])
  | .vredFmin d a t => some (pack [(7, 0x46), (5, d.toNat), (5, a.toNat), (9, 32), (2, t.toNat), (4, 0)])
  | .vredFmax d a t => some (pack [(7, 0x46), (5, d.toNat), (5, a.toNat), (9, 64), (2, t.toNat), (4, 0)])
  | .vredAdd d a w => some (pack [(7, 0x46), (5, d.toNat), (5, a.toNat), (9, 96), (2, w.toNat), (4, 0)])
  | .vredMinS d a w => some (pack [(7, 0x46), (5, d.toNat), (5, a.toNat), (9, 128), (2, w.toNat), (4, 0)])
  | .vredMaxS d a w => some (pack [(7, 0x46), (5, d.toNat), (5, a.toNat), (9, 160), (2, w.toNat), (4, 0)])
  | .vperm d a b w => some (pack [(7, 0x46), (5, d.toNat), (5, a.toNat), (5, b.toNat), (4, 0), (2, w.toNat), (4, 4)])
  | .vbcast d a w => some (pack [(7, 0x46), (5, d.toNat), (5, a.toNat), (9, 0), (2, w.toNat), (4, 8)])
  | .vmov d a => some (pack [(7, 0x46), (5, d.toNat), (5, a.toNat), (15, 24576)])
  | .vmovToX d a l w => some (pack [(7, 0x46), (5, d.toNat), (5, a.toNat), (5, l.toNat), (4, 1), (2, w.toNat), (4, 12)])
  | .vmovToLane d a l w => some (pack [(7, 0x46), (5, d.toNat), (5, a.toNat), (5, l.toNat), (4, 2), (2, w.toNat), (4, 12)])
  | .vexp2 d a t => some (pack [(7, 0x47), (5, d.toNat), (5, a.toNat), (7, 0), (2, t.toNat), (6, 0)])
  | .vlog2 d a t => some (pack [(7, 0x47), (5, d.toNat), (5, a.toNat), (7, 32), (2, t.toNat), (6, 0)])
  | .vrcp d a t m => some (pack [(7, 0x47), (5, d.toNat), (5, a.toNat), (7, 64), (2, t.toNat), (2, m.toNat), (4, 0)])
  | .vrsq d a t m => some (pack [(7, 0x47), (5, d.toNat), (5, a.toNat), (7, 96), (2, t.toNat), (2, m.toNat), (4, 0)])
  | .vstreamIn e a k => some (pack [(7, 0x48), (5, e.toNat), (5, a.toNat), (5, 0), (6, k.toNat), (4, 0)])
  | .vstreamOut e a k => some (pack [(7, 0x48), (5, e.toNat), (5, a.toNat), (5, 0), (6, k.toNat), (4, 1)])
  | .vstreamEnd a => some (pack [(7, 0x48), (5, 0), (5, a.toNat), (15, 4096)])
  | .mcfg d a => some (pack [(7, 0x50), (5, d.toNat), (5, a.toNat), (15, 0)])
  | .mwld e k => some (pack [(7, 0x51), (5, e.toNat), (10, 0), (4, k.toNat), (6, 0)])
  | .mmulR e a k => some (pack [(7, 0x52), (5, e.toNat), (5, a.toNat), (5, 0), (4, k.toNat), (6, 0)])
  | .mmulC e a k => some (pack [(7, 0x52), (5, e.toNat), (5, a.toNat), (5, 0), (4, k.toNat), (6, 4)])
  | .maccZ a => some (pack [(7, 0x53), (5, 0), (5, a.toNat), (15, 0)])
  | .maccRd e a b => some (pack [(7, 0x53), (5, e.toNat), (5, a.toNat), (5, b.toNat), (10, 64)])
  | .maccWr e a => some (pack [(7, 0x53), (5, e.toNat), (5, a.toNat), (15, 4096)])
  | .maccPin a => some (pack [(7, 0x53), (5, 0), (5, a.toNat), (15, 6144)])
  | .maccUnpin a => some (pack [(7, 0x53), (5, 0), (5, a.toNat), (15, 8192)])
  | .squant e a b k r t => some (pack [(7, 0x58), (5, e.toNat), (5, a.toNat), (5, b.toNat), (6, k.toNat), (1, r.toNat), (1, t.toNat), (2, 0)])
  | .sdeq e a b k => some (pack [(7, 0x59), (5, e.toNat), (5, a.toNat), (5, b.toNat), (6, k.toNat), (4, 0)])
  | .sexp e a k => some (pack [(7, 0x5a), (5, e.toNat), (5, a.toNat), (5, 0), (6, k.toNat), (4, 0)])
  | .strans e a b k => some (pack [(7, 0x5b), (5, e.toNat), (5, a.toNat), (5, b.toNat), (6, k.toNat), (4, 0)])
  | .stransRq e a b k => some (pack [(7, 0x5b), (5, e.toNat), (5, a.toNat), (5, b.toNat), (6, k.toNat), (4, 1)])
  | .scomp e a k => some (pack [(7, 0x5c), (5, e.toNat), (5, a.toNat), (5, 0), (6, k.toNat), (4, 0)])
  | .sblkExp e a b k => some (pack [(7, 0x5d), (5, e.toNat), (5, a.toNat), (5, b.toNat), (6, k.toNat), (4, 0)])
  | .sblkInt e a b k => some (pack [(7, 0x5d), (5, e.toNat), (5, a.toNat), (5, b.toNat), (6, k.toNat), (4, 1)])
  | .sblkFlt e a b k => some (pack [(7, 0x5d), (5, e.toNat), (5, a.toNat), (5, b.toNat), (6, k.toNat), (4, 2)])
  | .scvt e a k m t => some (pack [(7, 0x5e), (5, e.toNat), (5, a.toNat), (5, 0), (6, k.toNat), (2, m.toNat), (1, t.toNat), (1, 0)])
  | .stage e a b k => some (pack [(7, 0x60), (5, e.toNat), (5, a.toNat), (5, b.toNat), (6, k.toNat), (4, 0)])
  | .copy e a k => some (pack [(7, 0x61), (5, e.toNat), (5, a.toNat), (5, 0), (6, k.toNat), (4, 0)])
  | .hld e a k => some (pack [(7, 0x62), (5, e.toNat), (5, a.toNat), (5, 0), (6, k.toNat), (4, 0)])
  | .hst e a k => some (pack [(7, 0x63), (5, e.toNat), (5, a.toNat), (5, 0), (6, k.toNat), (4, 0)])
  | .hredAddS32 e a k => some (pack [(7, 0x64), (5, e.toNat), (5, a.toNat), (5, 0), (6, k.toNat), (4, 0)])
  | .hredAddS64 e a k => some (pack [(7, 0x64), (5, e.toNat), (5, a.toNat), (5, 0), (6, k.toNat), (4, 1)])
  | .hredMinS32 e a k => some (pack [(7, 0x64), (5, e.toNat), (5, a.toNat), (5, 0), (6, k.toNat), (4, 2)])
  | .hredMinS64 e a k => some (pack [(7, 0x64), (5, e.toNat), (5, a.toNat), (5, 0), (6, k.toNat), (4, 3)])
  | .hredMaxS32 e a k => some (pack [(7, 0x64), (5, e.toNat), (5, a.toNat), (5, 0), (6, k.toNat), (4, 4)])
  | .hredMaxS64 e a k => some (pack [(7, 0x64), (5, e.toNat), (5, a.toNat), (5, 0), (6, k.toNat), (4, 5)])
  | .hredAnd e a k => some (pack [(7, 0x64), (5, e.toNat), (5, a.toNat), (5, 0), (6, k.toNat), (4, 6)])
  | .hredOr e a k => some (pack [(7, 0x64), (5, e.toNat), (5, a.toNat), (5, 0), (6, k.toNat), (4, 7)])
  | .hredFaddF32 e a k => some (pack [(7, 0x64), (5, e.toNat), (5, a.toNat), (5, 0), (6, k.toNat), (4, 8)])
  | .hfence => some (pack [(7, 0x65), (25, 0)])
  | .ffcfgKey e k => some (pack [(7, 0x68), (5, e.toNat), (10, 0), (6, k.toNat), (4, 0)])
  | .ffcfgBeta e k => some (pack [(7, 0x68), (5, e.toNat), (10, 0), (6, k.toNat), (4, 1)])
  | .ffcfgSigt e k => some (pack [(7, 0x68), (5, e.toNat), (10, 0), (6, k.toNat), (4, 2)])
  | .ffcfgMode e k => some (pack [(7, 0x68), (5, e.toNat), (10, 0), (6, k.toNat), (4, 3)])
  | .ffldEdge e a k => some (pack [(7, 0x69), (5, e.toNat), (5, a.toNat), (5, 0), (6, k.toNat), (4, 0)])
  | .ffldBias e a k => some (pack [(7, 0x69), (5, e.toNat), (5, a.toNat), (5, 0), (6, k.toNat), (4, 1)])
  | .ffldCol e a k => some (pack [(7, 0x69), (5, e.toNat), (5, a.toNat), (5, 0), (6, k.toNat), (4, 2)])
  | .ffldState e a k => some (pack [(7, 0x69), (5, e.toNat), (5, a.toNat), (5, 0), (6, k.toNat), (4, 3)])
  | .ffopSweep a k => some (pack [(7, 0x6a), (5, 0), (5, a.toNat), (5, 0), (6, k.toNat), (4, 0)])
  | .ffopClamp e k => some (pack [(7, 0x6a), (5, e.toNat), (10, 0), (6, k.toNat), (4, 1)])
  | .ffopUnclamp e k => some (pack [(7, 0x6a), (5, e.toNat), (10, 0), (6, k.toNat), (4, 2)])
  | .ffopCreset k => some (pack [(7, 0x6a), (15, 0), (6, k.toNat), (4, 3)])
  | .ffrdBits e a k => some (pack [(7, 0x6b), (5, e.toNat), (5, a.toNat), (5, 0), (6, k.toNat), (4, 0)])
  | .ffrdCnt e a k => some (pack [(7, 0x6b), (5, e.toNat), (5, a.toNat), (5, 0), (6, k.toNat), (4, 1)])
  | .cgrp d a => some (pack [(7, 0x6c), (5, d.toNat), (5, a.toNat), (15, 0)])
  | .crank d a => some (pack [(7, 0x6c), (5, d.toNat), (5, a.toNat), (15, 32)])
  | .cpart d a b => some (pack [(7, 0x6c), (5, d.toNat), (5, a.toNat), (5, b.toNat), (10, 2)])
  | .croute a b => some (pack [(7, 0x6d), (5, 0), (5, a.toNat), (5, b.toNat), (10, 0)])
  | .cmark a => some (pack [(7, 0x6d), (5, 0), (5, a.toNat), (15, 32)])
  | .csend e a b k => some (pack [(7, 0x6e), (5, e.toNat), (5, a.toNat), (5, b.toNat), (6, k.toNat), (4, 0)])
  | .crecv e a b k => some (pack [(7, 0x6e), (5, e.toNat), (5, a.toNat), (5, b.toNat), (6, k.toNat), (4, 1)])
  | .crecvAdd e a b k => some (pack [(7, 0x6e), (5, e.toNat), (5, a.toNat), (5, b.toNat), (6, k.toNat), (4, 2)])
  | .crecvMax e a b k => some (pack [(7, 0x6e), (5, e.toNat), (5, a.toNat), (5, b.toNat), (6, k.toNat), (4, 3)])
  | .tlbw a b => some (pack [(7, 0x70), (5, 0), (5, a.toNat), (5, b.toNat), (10, 0)])
  | .tlbinv a => some (pack [(7, 0x70), (5, 0), (5, a.toNat), (15, 32)])
  | .tlbinvAll => some (pack [(7, 0x70), (25, 65536)])
  | .fqpop d => some (pack [(7, 0x71), (5, d.toNat), (20, 0)])
  | .fqres a => some (pack [(7, 0x71), (5, 0), (5, a.toNat), (15, 32)])
  | .ctxsv a b => some (pack [(7, 0x72), (5, 0), (5, a.toNat), (5, b.toNat), (10, 0)])
  | .ctxld a b => some (pack [(7, 0x72), (5, 0), (5, a.toNat), (5, b.toNat), (10, 1)])
  | .brk i => some (pack [(7, 0x7f), (5, 0), (20, i.toNat)])
  | .ldfeWake _ _ => none
  | .gldDataReturn _ _ => none
  | .semaphoreGrant _ _ => none
  | .semptExpiry _ _ => none
  | .streamElementRead _ _ _ => none
  | .matrixEntryStart _ _ => none
  | .matrixEntryComplete _ _ => none
  | .shapeOpStart _ => none
  | .shapeOpComplete _ => none
  | .haulOpStart _ _ => none
  | .haulChunk _ _ => none
  | .haulOpComplete _ _ => none
  | .haulOpReplay _ _ => none
  | .queueFullResume _ _ => none
  | .fireflyCommandArrival _ => none
  | .fireflyCommandStart _ => none
  | .fireflyCommandComplete _ => none
  | .illegalInstruction _ => none
  | .pcRangeTrap => none
  | .strandChoice _ => none
  | .watchdogExpiry => none
  | .deferredCause _ => none
  | .windowRead _ _ _ => none
  | .windowWrite _ _ _ => none
  | .windowSemaphoreWrite _ _ _ => none
  | .fireflyContextBlockWrite _ _ _ => none
  | .tileCloseArrival _ => none
  | .closeArrival _ => none
  | .sealArrival _ => none
  | .restoreDone _ => none
  | .launchJoin _ => none
  | .exchangeStartPacket _ => none
  | .exchangeStart _ => none
  | .release _ => none
  | .startInstant _ => none
  | .abort _ => none
  | .rollbackWindowDone _ => none
  | .targetedSelfTestEnd _ _ _ => none
  | .stop _ => none
  | .rootTimeout _ => none
  | .shapingWindow _ => none
  | .treeReconfigure _ => none
  | .sealArrivalSend _ => none
  | .flitSend _ => none
  | .flitArrival _ => none
  | .xrecvMissedFlit _ _ => none
  | .exchangeEnd _ => none
  | .messageOffer _ _ => none
  | .collectiveSend _ _ => none
  | .collectiveLanding _ => none
  | .collectiveReceiveTimeout _ _ => none
  | .deltaArrival _ _ => none
  | .faultRecordPost _ => none
  | .oclysDataFrame _ _ _ _ _ => none
  | .oclysAckFrame _ _ => none
  | .oclysReplayRequest _ _ => none
  | .oclysAckTimeout _ => none
  | .linkFailure _ _ _ => none
  | .linkTrained _ => none
  | .hostWrite _ _ _ _ _ => none
  | .hostRead _ _ _ _ _ => none
  | .hostLaunch _ _ _ _ => none
  | .regionLaunch _ => none
  | .launchTilesSet _ _ => none
  | .launchTimeout _ _ => none
  | .rctlHold _ _ => none
  | .rctlFree _ _ => none
  | .rctlResume _ _ => none
  | .rctlDiscard _ _ => none
  | .physdRead _ => none
  | .physdWrite _ _ => none
  | .fqbaseWrite _ _ => none
  | .migrationStart _ _ => none
  | .migrationDone _ => none
  | .pprStart _ _ => none
  | .pprDone _ => none
  | .hbmerrRead _ => none
  | .qcrecRead _ => none
  | .pslewWrite _ _ => none
  | .pcapWrite _ _ => none
  | .throtWrite _ _ => none
  | .spareControlWrite _ _ _ => none
  | .attestationStart _ _ => none
  | .attestationDone _ => none
  | .powerCapInterval _ _ _ _ => none
  | .thermalTrip _ => none
  | .powerOn _ => none
  | .moduleReset _ => none
  | .secureBoot _ => none
  | .sbReadMstat _ => none
  | .sbReadPower _ => none
  | .sbReadTemp _ => none
  | .sbWritePcap _ _ => none
  | .sbReadBootstat _ => none
  | .sbReset _ _ => none
  | .sbReadIdentity _ => none
  | .sbUnknownCommand _ _ => none
  | .joinTimeout _ => none
  | .noiseSourceHealthTest _ _ => none
  | .ieee1588Sync _ _ _ => none
  | .malformedOperation _ _ _ => none

/-- The word of an instruction, 0 for a step without one: what FADDR receives with causes 0x01, 0x02 and 0x12 (R118). -/
def wordOf (i : Instr) : Nat := (encode i).getD 0

/-- The instruction this decoder reads from an instruction word of `nbits` bits laid out as the machine stores it: four
bytes, the least significant first (R6, R57). -/
def decodeTableWord (nbits w : Nat) : Option Instr :=
  if nbits ≤ 32 then decode (leNat (leBytes 4 w)) else none

end Sys2Proof
end

