-- ==== Sys2Proof/Machine/State.lean ====
section
/-! DEFINITION. The state of the part as plain data: everything the spec gives the machine (INVENTORY.md lists every
piece with its rule and its reset value). -/

namespace Sys2Proof.Machine

/-! ## One agent: a strand, a hart or a service core (R110, R122) -/

/-- What a waiting agent waits for (R112). -/
inductive WaitOn where
  /-- `semp` (R105). -/
  | semp (k : Nat)
  /-- `sempt`: the semaphore, the register, the clk at which its limit ends (R106). -/
  | sempt (k : Nat) (e : BitVec 5) (limit : Nat)
  /-- `ldfe`: the register, the address, whether it empties the bit (R97, R130). -/
  | ldfe (d : BitVec 5) (addr : Nat) (c : Bool)
  /-- `gld`: the register, the type code, the physical address its translation gave (R131, R370). -/
  | gld (d : BitVec 5) (t : Nat) (pa : Nat)
  /-- A blocking `recv` (R300). -/
  | recv
  /-- The completion of a matrix queue entry (R271). -/
  | matrix (id : Nat)
  /-- A place in an engine queue (R206, R242, R269, R317). -/
  | queue
  /-- The completion of the hart's engine operations (R134, R220, R231). -/
  | drain
  /-- A service core in `tlbinv`: the agents whose `gld` a removed entry translated (R370). -/
  | tlbinv (l : List (Nat × Nat))
  deriving DecidableEq, Repr, Inhabited

/-- The states of R112. A service core that executed `exit`, and a hart that ended, are `free` too (R137). -/
inductive AState where
  | free
  | ready
  | run
  | wait (on : WaitOn)
  | park
  | synced
  | halt
  deriving DecidableEq, Repr, Inhabited

/-- A cause waiting to be taken at an instruction boundary, with the value for `FADDR` (R120, R378). -/
structure Pending where
  code : Nat
  faddr : W
  deriving DecidableEq, Repr, Inhabited

/-- A stream binding (R160-R163): the register, its direction, the captured base, stride and count, how many elements the
program has consumed or written, the elements read ahead, the semaphore, whether its completion was given, and its number in the
tile's order of issue. -/
structure Stream where
  v : Nat
  out : Bool
  base : Nat
  stride : Nat
  n : Nat
  used : Nat
  ahead : List VReg
  sem : Nat
  done : Bool
  id : Nat
  deriving DecidableEq, Repr, Inhabited

/-- What an agent contributed at `sync` (R171). -/
structure SyncArg where
  d : BitVec 5
  abort : Bool
  op : Nat
  operand : W
  deriving DecidableEq, Repr, Inhabited

/-- The issue slot of a work core (R113): a strand holds it; it was found free at the end of a clk and is free still; or a strand was chosen
in a clk and may issue from the next one on. -/
inductive IssueSlot where
  | held
  | free (since : Nat)
  | chosen (at_ : Nat)
  deriving DecidableEq, Repr, Inhabited

/-- The context and state of one agent (R110, R122); `resuming` says that a wait of it has completed whose instruction it issues again,
before it takes a deferred cause (R120); `stalled` that its instruction stalls in RUN (R112); `group` is the haul hart's current group (R338), `grpBits` the words of its
descriptor while no group is valid (R26, R410). -/
structure Agent where
  st : AState
  pc : W
  x : Vector W 32
  p : Vector Bool 8
  v : Vector VReg 32
  mctx : BitVec 12
  causeCode : BitVec 8
  causeInh : Bool
  epc : W
  faddr : W
  tvec : W
  prio : BitVec 3
  wdogLimit : BitVec 32
  heldFrom : Nat
  scratch : W
  depth : BitVec 16
  deferred : Option Pending
  resuming : Bool
  stalled : Bool
  streams : List Stream
  sync : Option SyncArg
  escalated : Option Nat
  group : Option Rec
  grpBits : Rec
  deriving DecidableEq, Repr, Inhabited

/-- An agent before any start: no strand, every register 0, the CSRs at their reset values (R122, R261). -/
def Agent.reset : Agent where
  st := .free
  pc := 0
  x := Vector.replicate 32 0
  p := Vector.replicate 8 false
  v := Vector.replicate 32 0
  mctx := 0x777#12
  causeCode := 0
  causeInh := false
  epc := 0
  faddr := 0
  tvec := 0
  prio := 0
  wdogLimit := 0x01000000#32
  heldFrom := 0
  scratch := 0
  depth := 0
  deferred := none
  resuming := false
  stalled := false
  streams := []
  sync := none
  escalated := none
  group := none
  grpBits := 0

/-! ## Memories -/

/-- A range of addresses whose unlisted bytes are unspecified, with the number of its free values (R2). -/
structure FreeRange where
  lo : Nat
  len : Nat
  n : Nat
  deriving DecidableEq, Repr, Inhabited

/-- A byte memory: the listed cells in strictly rising order of address, none equal to what its address reads as
unlisted; and the ranges whose unlisted bytes are unspecified, the latest first (R2, R94, R180). Every other unlisted byte
reads 0. -/
structure Memory where
  cells : List Host.Cell
  free : List FreeRange
  deriving DecidableEq, Repr, Inhabited

/-- Nothing listed. -/
def Memory.empty : Memory := ⟨[], []⟩

/-! ## A tile (R19) -/

/-- The states of a tile node (R169). A tile of no region is in `stop` with no region. -/
inductive NodeState where
  | run | arrived | exch | seal | relwait | rollback | hold | stop
  deriving DecidableEq, Repr, Inhabited

/-- A line of the version store: which line it undoes, the contents of that line at the start of the superstep, which of its
code words were uncorrectable or poisoned then, and whether the copy itself is uncorrectable (R183, R431, R434). -/
structure VsLine where
  acc : Bool
  line : Nat
  old : List Byte
  bad : List Nat
  poison : List Nat
  err : Bool
  deriving DecidableEq, Repr, Inhabited

/-- A cause the tile recorded in this attempt (R168, R169, R199): the code, and for 0x13 and 0x14 the structure. -/
structure Recorded where
  code : Nat
  unit : Option (Nat × Nat × Nat)
  deriving DecidableEq, Repr, Inhabited

/-- A TLB entry: its tag word and its entry word (R364). -/
structure Tlbe where
  tag : W
  entry : W
  deriving DecidableEq, Repr, Inhabited

/-- What a haul operation does (R204, R342). -/
inductive HaulKind where
  | stage | copy | hld | hst
  | hred (f : Nat)
  | csend
  deriving DecidableEq, Repr, Inhabited

/-- How a haul operation stands (R206, R221, R374): not started, running, suspended at its cursor, suspended in the queue with
a record of the recovery mode until the store has a place, or to be replayed from its cursor. -/
inductive OpStatus where
  | queued | running | suspended | storing | replay
  deriving DecidableEq, Repr, Inhabited

/-- A haul operation in the queue or in the store of suspended operations: its number in the tile's order of issue, its slot,
the captured records, its virtual address or stream, its partner, its length, its semaphore, its status, the data bytes
already moved, the fault slot of its record, and the 16-byte atoms it has read of which a later chunk needs bytes, each with the number
of its version (R207, R224). -/
structure HaulOp where
  id : Nat
  slot : Nat
  kind : HaulKind
  dst : Rec
  src : Rec
  va : Nat
  partner : Nat
  n : Nat
  sem : Nat
  status : OpStatus
  cursor : Nat
  fslot : Option Nat
  seen : List (Nat × Nat × List Byte)
  deriving DecidableEq, Repr, Inhabited

/-- An entry of a page-fetch list (R211): the operation that fetches it, its range, its landing record, its semaphore, and
the chunks fetched, each as its first data byte, its length and the physical address it came from, for R213 and R184. -/
structure PfEntry where
  op : Nat
  va : Nat
  n : Nat
  dst : Rec
  sem : Nat
  pas : List (Nat × Nat × Nat)
  deriving DecidableEq, Repr, Inhabited

/-- A delta held for the commit (R215-R217): plain, or the reduction of function `f`; its virtual and physical address,
its home die, its bytes, the writer's sequence number, and whether the home has acknowledged it. -/
structure Delta where
  f : Option Nat
  va : Nat
  pa : Nat
  home : Nat
  bytes : List Byte
  seq : Nat
  acked : Bool
  deriving DecidableEq, Repr, Inhabited

/-- An entry of the outbox (R298): a message of a priority or a spawn request, its destination and its 64 bytes. -/
structure OutEntry where
  spawn : Bool
  dst : Nat
  prio : Nat
  data : List Byte
  deriving DecidableEq, Repr, Inhabited

/-- An entry of the exchange schedule (R290): a send or a receive, its peer, the captured record, its cycle, its length;
whether it is too late to run (R294); the flits sent or landed so far, and whether its transfer is closed. -/
structure XEntry where
  send : Bool
  peer : Nat
  ra : Bool
  daddr : Nat
  rc : Rec
  cyc : Nat
  n : Nat
  late : Bool
  moved : List Nat
  closed : Bool
  deriving DecidableEq, Repr, Inhabited

/-- How an entry of the collective schedule stands (R344, R347): `unfit` is a send whose copy did not fit the buffer. -/
inductive ColStatus where
  | waiting | sent | done | unfit
  deriving DecidableEq, Repr, Inhabited

/-- An entry of the collective schedule (R342-R345): a send with the copy its operation made, or a receive of form `f`
(1 plain, 2 `add`, 3 `max`). -/
structure ColEntry where
  send : Bool
  f : Nat
  stream : Nat
  peer : Nat
  rc : Rec
  n : Nat
  sem : Nat
  op : Nat
  data : Option (List Byte)
  status : ColStatus
  deriving DecidableEq, Repr, Inhabited

/-- A `croute`, or a `cmark` (no value), held for the commit (R350). -/
structure RouteOp where
  stream : Nat
  value : Option W
  deriving DecidableEq, Repr, Inhabited

/-- A down packet on its way to a tile node (R167): its kind, `PHASE`, `SSN`, cause, tile, result, instant in clk, and the
clk at which the root sent it. -/
structure Down where
  kind : Nat
  phase : Nat
  ssn : BitVec 48
  cause : Nat
  tile : Nat
  result : W
  instant : Nat
  sentAt : Nat
  deriving DecidableEq, Repr, Inhabited

/-- A stop that posts a fault record (R371-R373). -/
structure FaultStop where
  cause : Nat
  agent : Nat
  kind : Nat
  opslot : Nat
  tile : Nat
  va : Nat
  space : Nat
  cursor : Nat
  region : Nat
  ssn : Nat
  opId : Option Nat
  cycle : Nat
  deriving DecidableEq, Repr, Inhabited

/-- The shape operations (R241): for `squant` its stochastic and saturating forms, for `scvt` its rounding and saturation. -/
inductive ShapeKind where
  | squant (sr sat : Bool)
  | sdeq | sexp | strans | stransRq | scomp | sblkExp | sblkInt | sblkFlt
  | scvt (rm : Nat) (sat : Bool)
  deriving DecidableEq, Repr, Inhabited

/-- A shape operation in the queue: what it captured at issue, the draw count of a stochastic `squant`, and whether its
effect has been made (R242); `id` is its number in the tile's order of issue. -/
structure ShapeOp where
  kind : ShapeKind
  dst : Rec
  src : Rec
  param : W
  key : BitVec 128
  draw : Nat
  sem : Nat
  ran : Bool
  id : Nat
  deriving DecidableEq, Repr, Inhabited

/-- The matrix instructions that enter the queue (R269): a load of a slot, a block-step by rows or by columns, and the five
accumulator forms, the read-out with its tensor scale. -/
inductive MatKind where
  | mwld
  | mmul (col : Bool)
  | zero
  | rd (z : BitVec 32)
  | wr | pin | unpin
  deriving DecidableEq, Repr, Inhabited

/-- An image header as captured at issue (R255, R274). -/
structure ImageHdr where
  fmt : Nat
  mode : Nat
  slots : Nat
  bodyLen : Nat
  nnz : Nat
  deriving DecidableEq, Repr, Inhabited

/-- An entry of the matrix queue: the issuing strand, the captured context and record, the accumulator, the slot, the image
header, the ranges of tile memory it reads, whether it has started (R262, R269), whether the slew limiter has delayed it
(R423), and the number of the next operation of the tile's engines at its issue. -/
structure MatEntry where
  id : Nat
  strand : Fin 10
  kind : MatKind
  ctx : BitVec 12
  rc : Rec
  acc : Nat
  slot : Nat
  hdr : ImageHdr
  reads : List (Nat × Nat)
  started : Bool
  delayed : Bool
  pos : Nat
  deriving DecidableEq, Repr, Inhabited

/-- A weight slot's descriptor: the image it is the image slot of, whether it continues another image, the square scale and
the MXFP4 column scales (R274). -/
structure SlotDesc where
  image : Option ImageHdr
  cont : Bool
  scale : Byte
  cols : List Byte
  deriving DecidableEq, Repr, Inhabited

/-- The state of an accumulator (R266). -/
inductive AccState where
  | free
  | held (strand : Fin 10) (pinned : Bool)
  deriving DecidableEq, Repr, Inhabited

/-- The state of a tile that is shadowed with the superstep (R179). `recW` holds `b0`-`b15`, which the strands of the work core
share (R84); the haul and the shape hart have records of their own. -/
structure TileVer where
  agents : Vector Agent 10
  recW : Vector Rec 16
  recH : Vector Rec 16
  recS : Vector Rec 16
  sems : Vector (BitVec 16) 64
  fe : List Nat
  vmask : BitVec 31
  win : Vector (BitVec 17) 8
  srCount : Nat
  srkey : BitVec 128
  accSt : Vector AccState 16
  accFresh : List (Nat × Nat)
  mbHead : Vector (BitVec 6) 4
  mbCount : Vector (BitVec 7) 4
  outbox : List OutEntry
  deriving DecidableEq, Repr, Inhabited

def TileVer.reset : TileVer where
  agents := Vector.replicate 10 Agent.reset
  recW := Vector.replicate 16 0
  recH := Vector.replicate 16 0
  recS := Vector.replicate 16 0
  sems := Vector.replicate 64 0
  fe := []
  vmask := 0
  win := Vector.replicate 8 0
  srCount := 0
  srkey := 0
  accSt := Vector.replicate 16 .free
  accFresh := []
  mbHead := Vector.replicate 4 0
  mbCount := Vector.replicate 4 0
  outbox := []

/-- A 16-byte atom of tile memory as it was before a write: the number of the next operation at that time, the atom, its bytes, and where
the write was an operation's or a store that waited for one, its agent and its place in the agent's program order (R225, R227). -/
structure OldAtom where
  pos : Nat
  atom : Nat
  bytes : List Byte
  writer : Option (Fin 10 × Nat)
  deriving DecidableEq, Repr, Inhabited

/-- Who reads tile memory: an agent, the place of the access in its program order, and whether an input stream makes it. -/
structure Reader where
  agent : Fin 10
  pos : Nat
  stream : Bool
  deriving DecidableEq, Repr, Inhabited

/-- A read of some ranges, while an operation of the same agent has not read yet: which version it took of each atom that has older ones;
of the others, version 0 (R227). -/
structure AtomRead where
  reader : Reader
  runs : List (Nat × Nat)
  vers : List (Nat × Nat)
  deriving DecidableEq, Repr, Inhabited

/-- A store within one atom that has not performed, for an earlier operation of its agent is still to write the atom (R225, R227): the agent,
its place in the agent's program order, its address and bytes, and how long the page-fetch list was at its issue (R212). -/
structure HeldStore where
  agent : Fin 10
  pos : Nat
  addr : Nat
  bytes : List Byte
  pf : Nat
  deriving DecidableEq, Repr, Inhabited

/-- A tile: the shadowed state as it stands and as it was at the start of the superstep; tile memory, accumulators, version
store and weight slots with their uncorrectable words; the tile node; and what the engines hold. `rr` is the strand that last
held the issue slot, `issueSlot` how the slot stands (R113); `opSeq` numbers the operations of the tile's engines and its bindings in their order of
issue (R102, R206); `olds` holds the atoms of tile memory as they were before the writes that an operation, a command or an input stream
may see or not, the latest first, `reads` what was read of them, `held` the stores that have not performed, and `ffOpen` the strand and the
number of each Firefly command that has not read its record (R161, R207, R225-R234); `startPod` is the nominal start in pod time (R174); `cbEff` and `olcfgEff` are the
values of `CBSIZE` and `OLCFG` in force for the tile's region (R359); `slotsLoaded` are the weight
slots loaded in this superstep, `linkMods` the boundaries it recorded with the module of each, which may be a partner's (R357), `slotsSet` those whose descriptors an `mwld` of it changed at its issue (R180, R274); `activity` counts
its matrix, vector and memory instructions (R420). -/
structure Tile where
  cur : TileVer
  shadow : TileVer
  tm : Memory
  bad : List Nat
  poison : List Nat
  acc : Memory
  badAcc : List Nat
  vs : List VsLine
  node : NodeState
  vmaskEff : BitVec 31
  recorded : List Recorded
  stopping : Bool
  region : BitVec 20
  ssnum : BitVec 48
  rr : Nat
  issueSlot : IssueSlot
  retired : Vector W 3
  space : BitVec 12
  slot : BitVec 6
  l1 : List Tlbe
  haulQ : List HaulOp
  haulStore : List HaulOp
  opSeq : Nat
  olds : List OldAtom
  reads : List AtomRead
  held : List HeldStore
  ffOpen : List (Fin 10 × Nat)
  pfNext : List PfEntry
  pfServe : List PfEntry
  dirty : List (Nat × Nat × Nat)
  deltas : List Delta
  shapeQ : List ShapeOp
  matQ : List MatEntry
  matSeq : Nat
  arrayUntil : Nat
  slotMem : Memory
  slotDesc : Vector SlotDesc 16
  badSlot : List Nat
  slotsLoaded : List Nat
  slotsSet : List Nat
  mshWin : BitVec 16
  mshCnt : Nat
  startClk : Nat
  shapeEff : BitVec 48
  limit : Nat
  mbx : Memory
  mbSrc : List (Nat × Nat)
  badMb : List (Nat × Nat)
  xsched : List XEntry
  xStart : Option Nat
  winEff : Vector (BitVec 17) 8
  offered : List Nat
  col : List ColEntry
  ctmoEff : BitVec 32
  cbEff : BitVec 16
  olcfgEff : BitVec 56
  routes : List RouteOp
  spawns : List OutEntry
  down : List Down
  startAt : Option Nat
  startPod : W
  fresh : Bool
  red : W
  outKind : Nat
  outCause : Nat
  outTile : Nat
  tryN : Nat
  vsHeld : Nat
  tests : List (Nat × Nat × Nat)
  unspared : List (Nat × Nat × Nat)
  linkMods : List (Nat × Nat)
  lost : Bool
  launchPf : List PfEntry
  launching : Bool
  xEnded : Bool
  inReg : Bool
  activity : Nat × Nat × Nat
  deriving DecidableEq, Repr, Inhabited

/-- `OLCFG` at reset (R359). -/
def olcfgReset : BitVec 56 := BitVec.ofNat 56 (15 + 10000 * 2 ^ 8 + 0x88B5 * 2 ^ 40)

def Tile.reset : Tile where
  cur := TileVer.reset
  shadow := TileVer.reset
  tm := Memory.empty
  bad := []
  poison := []
  acc := Memory.empty
  badAcc := []
  vs := []
  node := .stop
  vmaskEff := 0
  recorded := []
  stopping := false
  region := 0
  ssnum := 0
  rr := 7
  issueSlot := .held
  retired := Vector.replicate 3 0
  space := 0
  slot := 0
  l1 := []
  haulQ := []
  haulStore := []
  opSeq := 0
  olds := []
  reads := []
  held := []
  ffOpen := []
  pfNext := []
  pfServe := []
  dirty := []
  deltas := []
  shapeQ := []
  matQ := []
  matSeq := 0
  arrayUntil := 0
  slotMem := Memory.empty
  slotDesc := Vector.replicate 16 ⟨none, false, 0, []⟩
  badSlot := []
  slotsLoaded := []
  slotsSet := []
  mshWin := 0
  mshCnt := 0
  startClk := 0
  shapeEff := 0
  limit := 255
  mbx := Memory.empty
  mbSrc := []
  badMb := []
  xsched := []
  xStart := none
  winEff := Vector.replicate 8 0
  offered := []
  col := []
  ctmoEff := 50000
  cbEff := 64
  olcfgEff := olcfgReset
  routes := []
  spawns := []
  down := []
  startAt := none
  startPod := 0
  fresh := false
  red := 0
  outKind := 0
  outCause := 0
  outTile := 0
  tryN := 0
  vsHeld := 0
  tests := []
  unspared := []
  linkMods := []
  lost := false
  launchPf := []
  launching := false
  xEnded := false
  inReg := false
  activity := (0, 0, 0)

/-! ## A die (R15-R17) -/

/-- The copy of a tile's image that a service core runs (R408): the tile, the region of the image, and the word of its `ctxsv` or `ctxld`. -/
structure ImageCopy where
  tile : Nat
  region : BitVec 20
  word : Nat
  deriving DecidableEq, Repr, Inhabited

/-- A service core: its agent, its core memory of 512 KiB, its bad code words, its retired count (R17, R122), and the
copy of an image that its `ctxsv` or `ctxld` runs (R408). -/
structure SvcCore where
  agent : Agent
  mem : Memory
  bad : List Nat
  retired : W
  copy : Option ImageCopy
  deriving DecidableEq, Repr, Inhabited

def SvcCore.reset : SvcCore := ⟨Agent.reset, Memory.empty, [], 0, none⟩

/-- The last-level TLB and the memory controller of a die (R363-R387): the LLT in writing order with the index each entry
has in the window; the fault mode, the fault pool with the region of the record that each slot gave out last to each core (at `2 * slot + core`), the tile whose stop each holds, those whose
record is unspecified (R1, R373), and its queues of slots; physical access; interleave; migration; repair;
and the error log. -/
structure MemCtl where
  llt : List (Nat × Tlbe)
  fmodeRec : Bool
  fqBase : BitVec 40
  fqSz : BitVec 4
  popped : List (Nat × Nat)
  busySlots : List Nat
  slotTiles : List (Nat × Nat)
  lostSlots : List Nat
  fq0 : List Nat
  fq1 : List Nat
  stops : List FaultStop
  physa : BitVec 40
  physUE : Bool
  ilmap : Vector W 3
  rsvN : BitVec 6
  migCtl : BitVec 40
  migMove : BitVec 40
  migBusy : Bool
  migRefused : Bool
  migTable : List (Nat × Nat × Nat × Nat)
  pprCtl : BitVec 30
  pprBusy : Bool
  pprFail : Bool
  pprRemaps : List (Nat × Nat × Nat)
  hbmerr : List W
  hdsize : BitVec 16
  deriving DecidableEq, Repr, Inhabited

def MemCtl.reset : MemCtl where
  llt := []
  fmodeRec := true
  fqBase := 0
  fqSz := 0
  popped := []
  busySlots := []
  slotTiles := []
  lostSlots := []
  fq0 := []
  fq1 := []
  stops := []
  physa := 0
  physUE := false
  ilmap := Vector.replicate 3 0
  rsvN := 1
  migCtl := 0
  migMove := 0
  migBusy := false
  migRefused := false
  migTable := []
  pprCtl := 0
  pprBusy := false
  pprFail := false
  pprRemaps := []
  hbmerr := []
  hdsize := 256

/-- Quadrille's counters and shaping fields of a die (R198). -/
structure QuadCtl where
  commit : W
  abort : W
  selfTests : BitVec 32
  selfFails : BitVec 32
  late : W
  qcrec : List (BitVec 64)
  shape : BitVec 48
  deriving DecidableEq, Repr, Inhabited

def QuadCtl.reset : QuadCtl where
  commit := 0
  abort := 0
  selfTests := 0
  selfFails := 0
  late := 0
  qcrec := []
  shape := BitVec.ofNat 48 (1 + 10 * 2 ^ 8 + 255 * 2 ^ 16 + 26000 * 2 ^ 24)

/-- A Firefly cell (R308): its edge slots as 32-bit edge words, those not zero. -/
structure Cell where
  b : Bool
  col : BitVec 3
  cen : Bool
  cval : Bool
  bias : BitVec 16
  edges : List (Nat × Nat)
  cnt : BitVec 16
  deriving DecidableEq, Repr, Inhabited

def Cell.reset : Cell := ⟨false, 0, false, false, 0, [], 0⟩

/-- One copy of a context's state beside its cells (R309, R311): key, β, the SIGT entries that differ from the reset table,
`ENT`, `CMASK`, the sweep index and the ghosts that are 1. -/
structure FfConfig where
  key : BitVec 128
  beta : BitVec 16
  sigt : List (Nat × Nat)
  ent : Bool
  cmask : BitVec 8
  sweep : Nat
  ghosts : List Nat
  deriving DecidableEq, Repr, Inhabited

def FfConfig.reset : FfConfig := ⟨0, 256, [], false, 0xFF, 0, []⟩

/-- A Firefly context (R309, R329, R334). -/
structure FfContext where
  valid : Bool
  region : BitVec 20
  frow : BitVec 8
  nrows : BitVec 9
  gbase : BitVec 20
  work : FfConfig
  comm : FfConfig
  deriving DecidableEq, Repr, Inhabited

def FfContext.reset : FfContext := ⟨false, 0, 0, 0, 0, FfConfig.reset, FfConfig.reset⟩

/-- The Firefly commands (R322-R328). -/
inductive FfKind where
  | key | beta | sigt | mode | edge | bias | col | state | sweep | clamp | unclamp | creset | bits | cnt
  deriving DecidableEq, Repr, Inhabited

/-- A Firefly command (R317, R318): its issuing strand, the captured record and register, its semaphore, the 2 GHz cycle in
which it arrives, whether the array has run it, and its number in its tile's order of issue. -/
structure FfCmd where
  tile : Nat
  strand : Fin 10
  kind : FfKind
  rc : Rec
  x : W
  sem : Nat
  cycle : Nat
  ran : Bool
  id : Nat
  deriving DecidableEq, Repr, Inhabited

/-- The Firefly array of a die (R308-R335): the working and the committed copy of its cells, the contexts, the commands on
their way and in the queue, the structures with an uncorrectable error (`BANK` and `ROW` of R330), the rows fenced (R418), and
the die CSRs. -/
structure Firefly where
  cells : List (Nat × Cell)
  comm : List (Nat × Cell)
  ctxs : Vector FfContext 16
  coming : List FfCmd
  queue : List FfCmd
  bad : List (Nat × Nat)
  fenced : List Nat
  ewin : BitVec 3
  sweeps : W
  noiseOk : Bool
  spares : Vector W 4
  deriving DecidableEq, Repr, Inhabited

def Firefly.reset : Firefly where
  cells := []
  comm := []
  ctxs := Vector.replicate 16 FfContext.reset
  coming := []
  queue := []
  bad := []
  fenced := []
  ewin := 0
  sweeps := 0
  noiseOk := false
  spares := Vector.replicate 4 0

/-- Exchange and message counters of a die (R306). -/
structure ExCtl where
  coll : BitVec 32
  win : BitVec 32
  held : BitVec 16
  drop : W
  deriving DecidableEq, Repr, Inhabited

/-- A frame kept for replay (R353): its number, the die of another module it is addressed to (R349), its payload, the value of
`OLCFG` it was sent under, how often it was sent again, and when it was sent last. -/
structure LinkFrame where
  seq : BitVec 32
  dst : Option Nat
  payload : List Byte
  cfg : BitVec 56
  resends : Nat
  sentAt : Nat
  deriving DecidableEq, Repr, Inhabited

/-- A port that carries Oclys (R15, R353): whether its link is up, the frames resent, the numbers of the next frame to send and of
the one expected, and the frames not acknowledged. -/
structure Port where
  up : Bool
  replay : BitVec 32
  nextSeq : BitVec 32
  expected : BitVec 32
  kept : List LinkFrame
  deriving DecidableEq, Repr, Inhabited

def Port.reset : Port := ⟨false, 0, 0, 0, []⟩

/-- The collective router and the scale-out link of a die (R348, R353, R359). -/
structure LinkCtl where
  router : List (Nat × W)
  ctmo : BitVec 32
  cbsize : BitVec 16
  olcfg : BitVec 56
  fails : W
  port : Port
  deriving DecidableEq, Repr, Inhabited

def LinkCtl.reset : LinkCtl where
  router := []
  ctmo := 50000
  cbsize := 64
  olcfg := olcfgReset
  fails := 0
  port := Port.reset

/-- The region commands and the health CSRs of a die (R403, R417, R425, R430). -/
structure DieCtl where
  rctl : BitVec 23
  rcbpa : BitVec 40
  rstatRegion : BitVec 20
  rstatRefused : Bool
  corrSram : BitVec 32
  corrHbm : BitVec 32
  tspare : Vector W 4
  rspsel : BitVec 12
  rsprow : List (Nat × W)
  tempDie : BitVec 8
  tempHbm : BitVec 8
  throt : BitVec 8
  deriving DecidableEq, Repr, Inhabited

def DieCtl.reset : DieCtl where
  rctl := 0
  rcbpa := 0
  rstatRegion := 0
  rstatRefused := false
  corrSram := 0
  corrHbm := 0
  tspare := Vector.replicate 4 0
  rspsel := 0
  rsprow := []
  tempDie := 0
  tempHbm := 0
  throt := 95

/-- A die; `hp` is its host port, which dies 0 and 15 have (R15); `links` are the ends of its die-to-die links: toward the die before it
and after it in its row, and before it and after it in its column (R14, R353). -/
structure Die where
  svc : Vector SvcCore 2
  mc : MemCtl
  qd : QuadCtl
  ff : Firefly
  ex : ExCtl
  lk : LinkCtl
  hp : Port
  links : Vector Port 4
  ctl : DieCtl
  deriving DecidableEq, Repr, Inhabited

def Die.reset : Die where
  svc := Vector.replicate 2 SvcCore.reset
  mc := MemCtl.reset
  qd := QuadCtl.reset
  ff := Firefly.reset
  ex := ⟨0, 0, 0, 0⟩
  lk := LinkCtl.reset
  hp := Port.reset
  links := Vector.replicate 4 { Port.reset with up := true }
  ctl := DieCtl.reset

/-! ## A module -/

/-- A move of a chunk that a reset took from the table of its die (R384): the die, the entry, and the bytes of the chunk, in pieces
by their physical addresses. -/
structure CutMove where
  die : Nat
  entry : Nat × Nat × Nat × Nat
  data : List (Nat × List Byte)
  deriving DecidableEq, Repr, Inhabited

/-- A launch queue (R398): the RCB addresses waiting, and the region started from it that has not ended. -/
structure LaunchQ where
  waiting : List Nat
  cur : Option Nat
  deriving DecidableEq, Repr, Inhabited

/-- A module: the clk of its last reset; its HBM of 768 GiB by physical address and the bad 8-byte code words (R24, R386);
the launch unit (R398); the power controller (R420-R423), pod time (R424), boot and attestation (R426, R427): the digest
of the signing key fused at manufacture, the two image copies in flash, the measurement; fences and dead tiles. `regLim` holds the
limits of the regions by their number in this model; `slewStarts` the clks of the latest block-step starts, for the slew limiter
(R423); `podDead` says that the pod no longer forwards to the module (R358); `unreplayed` the moves of chunks that the last reset
took from the tables of the dies, each with the bytes of its chunk by physical address (R384); `unrepaired` the remaps of rows that a
reset took from the dies and firmware has not replayed, as die, channel, bank and row (R385). -/
structure Module where
  resetClk : Nat
  tripped : Bool
  hbm : Memory
  badHbm : List Nat
  queues : Vector LaunchQ 16
  lastQ : Nat
  pcap : BitVec 13
  pslew : BitVec 7
  pwr : BitVec 16
  caplim : BitVec 8
  regLim : List (Nat × Nat)
  powerOver : Bool
  slewHold : BitVec 32
  slewStarts : List Nat
  podDead : Bool
  unreplayed : List CutMove
  unrepaired : List (Nat × Nat × Nat × Nat)
  replaceWas : Bool
  lfence : BitVec 40
  deadTiles : List Nat
  podAdj : Int
  ptpLock : Bool
  ptpOfs : BitVec 16
  podLat : BitVec 16
  attPa : BitVec 40
  attBusy : Bool
  bootOk : Bool
  bootB : Bool
  bootFail : Bool
  fuses : BitVec 8
  keyHash : List Byte
  flashA : List Byte
  flashB : List Byte
  measurement : List Byte
  deriving DecidableEq, Repr, Inhabited

def Module.reset : Module where
  resetClk := 0
  tripped := false
  hbm := Memory.empty
  badHbm := []
  queues := Vector.replicate 16 ⟨[], none⟩
  lastQ := 15
  pcap := 7500
  pslew := 10
  pwr := 0
  caplim := 255
  regLim := []
  powerOver := false
  slewHold := 0
  slewStarts := []
  podDead := false
  unreplayed := []
  unrepaired := []
  replaceWas := false
  lfence := 0
  deadTiles := []
  podAdj := 0
  ptpLock := false
  ptpOfs := 0
  podLat := 0
  attPa := 0
  attBusy := false
  bootOk := false
  bootB := false
  bootFail := false
  fuses := 0
  keyHash := []
  flashA := []
  flashB := []
  measurement := []

/-! ## Regions (R165-R193, R389-R406) -/

/-- An entry of a tile map (R392). -/
structure MapEntry where
  tile : Nat
  slot : Nat
  smask : Nat
  img : Nat
  spc : Nat
  hpc : Nat
  xpc : Nat
  imgLen : Nat
  pfl : Nat
  deriving DecidableEq, Repr, Inhabited

/-- What a module holds of a region: its tiles in map order, the queue it came from, the RCB, its `NMOD`, the RCBs of its chain, leaf
first, with their budgets of tiles, power and Firefly rows, whether its tiles are all set and its join was sent, and the clk
its launch started. -/
structure Part where
  m : Nat
  tiles : List Nat
  queue : Nat
  rcb : Nat
  nmod : Nat
  chain : List (Nat × Nat × Nat × Nat)
  joined : Bool
  launchClk : Nat
  deriving DecidableEq, Repr, Inhabited

/-- The resolved fields of a leaf RCB (R390, R391). -/
structure RcbFields where
  space : Nat
  prio : Nat
  retry : Nat
  slice : Nat
  tmo : Nat
  guard : Nat
  delta : Nat
  vmask : Nat
  ssn0 : Nat
  btiles : Nat
  bpower : Nat
  bffrows : Nat
  ffnrows : Nat
  ffgbase : Nat
  lport : Nat
  deriving DecidableEq, Repr, Inhabited

/-- What the root of a region collects, or how the region stands (R170, R398, R404, R405): it is `ending` between its final
packet of kind 3 and the return of its tiles to the reset state. -/
inductive RegionPhase where
  | launching | closing | sealing | restoring | held | stopped | freed | ending
  deriving DecidableEq, Repr, Inhabited

/-- A region: its number in this model, its id, the modules it needs, its fields, what each module holds of it; the root's collection: the superstep, `try`, the tiles that
arrived and which of them have ended, `OP`, the combined operand, the close-vote result; the abort that opened the rollback
window and the 2 GHz cycle it reached the root in; the clk the root's timer runs from; the first join and the `SSN`s of the
joins; whether a module of the region was reset, so that its tiles never answer, and the modules that were (R358); the hold request and the commits since the
last start; the sizes in MiB of the delta stores in force for it, by die (R218). -/
structure Region where
  serial : Nat
  id : BitVec 20
  nmod : Nat
  fields : RcbFields
  parts : List Part
  phase : RegionPhase
  ssn : BitVec 48
  tryN : Nat
  arrived : List Nat
  endedTiles : List Nat
  op : Option Nat
  operand : W
  result : W
  abortCause : Nat
  abortTile : Nat
  abortPhase : Nat
  abortCycle : Nat
  lost : Bool
  timer : Nat
  firstJoin : Option Nat
  joinSsn : List Nat
  gone : Bool
  resetMods : List Nat
  holdReq : Bool
  commits : Nat
  hdEff : List (Nat × Nat)
  deriving DecidableEq, Repr, Inhabited

/-- An up packet on its way to the root (R166): its kind (0 close arrival, 1 seal arrival, 2 restore done, 3 join), its
region, `SSN`, whether it votes abort, cause, `OP` (none where exempt, R173), operand (`NMOD` of a join) and reporting tile;
the module or tile that sent it; whether every agent of the tile has ended, and whether data was lost (R185). R166's layout gives a
restore done no field for the loss of data; that the packet carries a flag of its own for it is a DESIGN CHOICE
(notes/assumptions/45.md). -/
structure Up where
  kind : Nat
  region : Nat
  ssn : BitVec 48
  abort : Bool
  cause : Nat
  op : Option Nat
  operand : W
  tile : Nat
  src : Nat
  ended : Bool
  lost : Bool
  deriving DecidableEq, Repr, Inhabited

/-- A flit on its way (R286, R292, R293): its sender and receiver, the 2 GHz cycle it arrives in, the receiver-addressed flag,
the tile address of its transfer's data byte 0, the sender's entry, its number, the length of the transfer, its bytes. -/
structure Flit where
  src : Nat
  dst : Nat
  cycle : Nat
  ra : Bool
  daddr : Nat
  entry : Nat
  i : Nat
  n : Nat
  data : List Byte
  deriving DecidableEq, Repr, Inhabited

/-- A collective transfer on its way (R345): sender, receiver, stream, its place among the sender's transfers of that stream
and partner, the sender's entry, its bytes. -/
structure ColXfer where
  src : Nat
  dst : Nat
  stream : Nat
  ord : Nat
  entry : Nat
  data : List Byte
  deriving DecidableEq, Repr, Inhabited

/-- What leaves the part. -/
inductive Output where
  /-- A COMPLETION: die of the port, whether it is the host port, tag, status, data (R412, R413). `Output.opBytes` gives its
  bytes. -/
  | completion (d : Nat) (host : Bool) (tag status : Nat) (data : List Byte)
  /-- An EVENT: module, code, region, superstep, cause, tile, data (R415). `Output.opBytes` gives its bytes. -/
  | event (m code region ssn cause tile data : Nat)
  /-- A window's answer: the bytes read, or none for a write acknowledged (R28). -/
  | window (m addr : Nat) (data : List Byte)
  /-- A negative acknowledgement of a window access (R28). -/
  | nack (m addr : Nat)
  /-- The status of a refused request of firmware (R192, R430). -/
  | refused (unit : Nat)
  /-- A frame on the scale-out port of a die, or on its host port: its EtherType, the die of another module it is addressed to,
  kind, `SEQ`, `ACK`, payload (R349, R353). `Output.frameBytes` gives its bytes. -/
  | frame (d : Nat) (host : Bool) (etype : Nat) (dst : Option Nat) (kind : Nat) (seq ack : BitVec 32) (payload : List Byte)
  /-- A data frame's payload delivered to the module (R354). -/
  | delivered (d : Nat) (payload : List Byte)
  /-- An answer of the sideband; none where the command is not acknowledged (R428). -/
  | sideband (m : Nat) (data : Option (List Byte))
  deriving DecidableEq, Repr, Inhabited

/-! ## The part -/

/-- An operation on a semaphore in a 2 GHz cycle (R102): the tile, the semaphore, the step of R102 it belongs to, and its place in that
step: the agent of an instruction, or 16 and the number of an engine operation that completes. A request belongs to step 4. -/
structure SemOp where
  tile : Nat
  sem : Nat
  step : Nat
  sub : Nat
  deriving DecidableEq, Repr, Inhabited

/-- A frame on its way over a die-to-die link (R353): the die and the side it arrives at, its kind, `SEQ`, `ACK` and data. -/
structure Wire where
  die : Nat
  side : Fin 4
  kind : Nat
  seq : BitVec 32
  ack : BitVec 32
  payload : List Byte
  deriving DecidableEq, Repr, Inhabited

/-- An error of the physical part that comes about at a time of its own (R100, R183, R330, R386, R417): a single-bit error that
an access on die `d` corrects, on the die or in HBM; or a code word that becomes uncorrectable: a bank word of tile memory, a
16-byte word of the accumulators or of the weight slots, a version-store line, a mailbox slot (priority 4: an outbox entry), a
Firefly structure, an 8-byte word of HBM, a word of a core memory, an LLT entry by its index, an L1 entry by its place (R363). -/
inductive Upset where
  | corrected (d : Nat) (hbm : Bool)
  | tm (t w : Nat)
  | acc (t w : Nat)
  | slot (t w : Nat)
  | vs (t i : Nat)
  | mailbox (t q i : Nat)
  | firefly (d bank row : Nat)
  | hbm (m w : Nat)
  | core (d : Nat) (c : Fin 2) (w : Nat)
  | llt (d k : Nat)
  | l1 (t i : Nat)
  deriving DecidableEq, Repr, Inhabited

/-- One entry of the schedule: the step that comes next and how many clk pass before it. The spec fixes no single order of
the steps of different units; which one comes is plain data in the state (notes/assumptions/2.md). -/
inductive Sched where
  /-- The named agent issues its next instruction. -/
  | run (dt : Nat) (who : Who)
  /-- A step of the machine or of the outside world. -/
  | event (dt : Nat) (i : Instr)
  /-- An error of the physical part. -/
  | upset (dt : Nat) (u : Upset)
  deriving DecidableEq, Repr, Inhabited

/-- The whole part: the clock (clk of 4 GHz), the agent whose turn it is, the schedule, the counter of free values, the tiles, dies and modules that are not in their reset state, by system tile address, by 16 * module + die, and by module
number, in rising order; the regions and the number of the next one; the up packets, flits and collective transfers on their
way; the frames on their way over die-to-die links; the operations on semaphores in this 2 GHz cycle; and what has left the part, the
latest last. -/
structure State where
  clk : Nat
  turn : Who
  sched : List Sched
  free : Nat
  tiles : List (Nat × Tile)
  dies : List (Nat × Die)
  modules : List (Nat × Module)
  regions : List Region
  nextSerial : Nat
  up : List Up
  flits : List Flit
  xfers : List ColXfer
  wires : List Wire
  semSeen : List SemOp
  outs : List Output
  deriving DecidableEq, Repr, Inhabited

/-- The part right after reset. -/
def State.reset : State where
  clk := 0
  turn := .tile 0 0
  sched := []
  free := 0
  tiles := []
  dies := []
  modules := []
  regions := []
  nextSerial := 0
  up := []
  flits := []
  xfers := []
  wires := []
  semSeen := []
  outs := []

/-- Why the machine stops. -/
inductive Fault where
  /-- A step that names a unit the part does not have. No step of this model raises it: the spec gives every access outside a
  memory a cause or a negative acknowledgement of its own, and every request to a silent module no answer. Safe. -/
  | noSuchUnit
  deriving DecidableEq, Repr, Inhabited

/-- Why an instruction has no meaning. -/
inductive Refusal where
  /-- The instruction of this mnemonic is not modelled yet. No arm of Dispatch raises it: every instruction has its meaning. Safe. -/
  | notModelled (mnemonic : String)
  deriving DecidableEq, Repr, Inhabited

end Sys2Proof.Machine
end

