-- ==== Sys2Proof/Machine/Layout.lean ====
section
/-! DEFINITION. Where the bytes of buffer records, engine operations and commands lie in tile memory (R200, R201, R205, R243, R278, R318),
and their 16-byte atoms (R224). -/

namespace Sys2Proof.Machine

/-! ## Buffer records (R200, R201) -/

/-- `BASE`: tile address of data byte 0. -/
def recBase (r : Rec) : Nat := fld r.toNat 0 21

/-- `EXTENT`: number of data bytes. -/
def recExtent (r : Rec) : Nat := fld r.toNat 32 21

/-- `STRIDE0`: bytes from one record row to the next. -/
def recStride0 (r : Rec) : Nat := fld r.toNat 64 21

/-- `STRIDE1`: bytes from one plane of 128 record rows to the next. -/
def recStride1 (r : Rec) : Nat := fld r.toNat 96 21

/-- `FORMAT`. -/
def recFormat (r : Rec) : Nat := fld r.toNat 128 4

/-- RB, the bytes of a record row, by format code (R201). -/
def rowBytes (f : Nat) : Nat :=
  ([128, 256, 512, 1024, 512, 256, 256, 128, 128, 64, 128, 64, 128, 128, 512, 496] : List Nat).getD f 128

/-- `Addr(rec, j)`: the tile address of data byte `j` (R201). -/
def recAddr (r : Rec) (j : Nat) : Nat :=
  let q := j / rowBytes (recFormat r)
  recBase r + q / 128 * recStride1 r + q % 128 * recStride0 r + j % rowBytes (recFormat r)

/-- Element size in bits by format code (R201). -/
def elBits (f : Nat) : Nat :=
  ([8, 16, 32, 64, 32, 16, 16, 8, 8, 4, 8, 4, 8, 8, 32, 8] : List Nat).getD f 8

/-- Data bytes `j` to `j + n - 1` of a record as runs of consecutive tile addresses, in data order: the address and length
of each part of a record row (R201). -/
def recRuns (r : Rec) : Nat → Nat → Nat → List (Nat × Nat)
  | 0, _, _ => []
  | fuel + 1, j, n =>
    if n = 0 then []
    else
      let m := Nat.min n (rowBytes (recFormat r) - j % rowBytes (recFormat r))
      (recAddr r j, m) :: recRuns r fuel (j + m) (n - m)

/-- The runs of data bytes `j` to `j + n - 1`. -/
def runsOf (r : Rec) (j n : Nat) : List (Nat × Nat) := recRuns r (n / 64 + 2) j n

/-- A bank word holds none of some ranges of bytes. -/
def clearOf (l : List (Nat × Nat)) (w : Nat) : Bool :=
  !(l.any fun p => decide (p.1 < 16 * w + 16) && decide (16 * w < p.1 + p.2))

/-- Every byte of a bank word lies in some ranges. -/
def coversWord (l : List (Nat × Nat)) (w : Nat) : Bool :=
  (List.range 16).all fun i => l.any fun p => decide (p.1 ≤ 16 * w + i) && decide (16 * w + i < p.1 + p.2)

/-! ## Atoms (R224) -/

/-- Whether two sets of runs share a byte. -/
def runsMeet (l m : List (Nat × Nat)) : Bool :=
  l.any fun p => m.any fun q => decide (p.1 < q.1 + q.2) && decide (q.1 < p.1 + p.2)

/-- Whether two sets of runs have bytes in one atom. -/
def sharesAtom (l m : List (Nat × Nat)) : Bool := runsMeet l (m.map fun p => (16 * (p.1 / 16), 16 * ((p.1 + p.2 + 15) / 16 - p.1 / 16)))

/-- The parts of a range of `n` bytes at `a` that lie in one atom each. -/
def cutAtoms (a : Nat) (bs : List Byte) : List (Nat × List Byte) :=
  (List.range ((a + bs.length + 15) / 16 - a / 16)).map fun i =>
    let lo := Nat.max a (16 * (a / 16 + i))
    (lo, (bs.drop (lo - a)).take (16 * (a / 16 + i) + 16 - lo))

/-! ## Haul operations (R205, R206) -/

/-- The tile-memory runs an operation writes. -/
def HaulOp.writes (o : HaulOp) : List (Nat × Nat) :=
  match o.kind with
  | .stage | .copy | .hld => runsOf o.dst 0 o.n
  | _ => []

/-- The tile-memory runs an operation reads. -/
def HaulOp.reads (o : HaulOp) : List (Nat × Nat) :=
  match o.kind with
  | .copy | .hst | .hred _ | .csend => runsOf o.src 0 o.n
  | _ => []

/-- The runs that an operation still has to write, from its cursor on (R221). -/
def HaulOp.toWrite (o : HaulOp) : List (Nat × Nat) :=
  match o.kind with
  | .stage | .hld => runsOf o.dst o.cursor (o.n - o.cursor)
  | .copy => if o.cursor < o.n then o.writes else []
  | _ => []

/-- Whether an operation still reads tile memory (R207). -/
def HaulOp.stillReads (o : HaulOp) : Bool :=
  match o.kind with
  | .copy | .hst | .hred _ | .csend => decide (o.cursor < o.n)
  | _ => false

/-! ## Shape operations (R243, R248) -/

/-- The scale parameter word of `squant` and `sdeq` (R248). -/
def scAddr (p : W) : Nat := p.fld 0 21

/-- Its geometry code. -/
def scGeom (p : W) : Nat := p.fld 21 2

/-- Its `SIN`: the scales are read. -/
def scIn (p : W) : Bool := decide (p.fld 23 1 = 1)

/-- The block size of a geometry (R248). -/
def geomSize (g : Nat) : Nat := if g = 1 then 128 else if g = 2 then 16384 else if g = 3 then 32 else 1

/-- A square operation reads elements 0 to 16,383 (R253-R256). -/
def ShapeKind.square : ShapeKind → Bool
  | .strans | .stransRq | .scomp => true
  | _ => false

/-- The dense body length of a source format (R255). -/
def denseLen (f : Nat) : Nat := 16384 * elBits f / 8

/-- The element count N: all that the source holds (R243). -/
def ShapeOp.total (o : ShapeOp) : Nat := recExtent o.src * 8 / elBits (recFormat o.src)

/-- The elements that the operation reads: all of them, or the square (R243, R253-R256). -/
def ShapeOp.count (o : ShapeOp) : Nat := if o.kind.square then 16384 else o.total

/-- The bytes of `n` elements of a record's format. -/
def bytesFor (r : Rec) (n : Nat) : Nat := (n * elBits (recFormat r) + 7) / 8

/-- Destination bytes for `n` elements (R243, R255, R257). -/
def ShapeOp.dstFor (o : ShapeOp) (n : Nat) : Nat :=
  match o.kind with
  | .scomp => 64 + denseLen (recFormat o.src)
  | .sblkExp => n / 128
  | _ => bytesFor o.dst n

/-- Destination bytes of the operation. -/
def ShapeOp.dstBytes (o : ShapeOp) : Nat := o.dstFor o.count

/-- Source bytes the operation reads. -/
def ShapeOp.srcBytes (o : ShapeOp) : Nat := bytesFor o.src o.count

/-- The arrays that X[b] names: address and length of those read, and of those written (R248, R254, R257). -/
def ShapeOp.arrays (o : ShapeOp) : List (Nat × Nat) × List (Nat × Nat) :=
  match o.kind with
  | .squant _ _ =>
    let a := (scAddr o.param, o.count / geomSize (scGeom o.param))
    if scGeom o.param = 0 then ([], [])
    else if scIn o.param then ([a], [])
    else ([], [a])
  | .sdeq => if scGeom o.param = 0 then ([], []) else ([(scAddr o.param, o.count / geomSize (scGeom o.param))], [])
  | .stransRq =>
    (if o.param.fld 21 1 = 1 then [(o.param.fld 0 21, 128)] else [],
     if o.param.fld 53 1 = 1 then [(o.param.fld 32 21, 128)] else [])
  | .sblkInt | .sblkFlt => ([(o.param.fld 0 21, o.count / 128)], [])
  | _ => ([], [])

/-- What an operation reads of tile memory: its source and the arrays. -/
def ShapeOp.readRuns (o : ShapeOp) : List (Nat × Nat) := runsOf o.src 0 o.srcBytes ++ o.arrays.1

/-- What an operation may write: its destination and the arrays. -/
def ShapeOp.writeRuns (o : ShapeOp) : List (Nat × Nat) := runsOf o.dst 0 o.dstBytes ++ o.arrays.2

/-! ## Matrix entries and Firefly commands (R278, R321) -/

/-- The runs of the 2,048 elements of an accumulator in a record: 64 elements of each record row (R278). -/
def maccRuns (r : Rec) : List (Nat × Nat) :=
  (List.range 32).map fun m => (recAddr r (m * rowBytes (recFormat r)), 8 * elBits (recFormat r))

/-- What an entry writes of tile memory: a read-out its rows. -/
def MatEntry.writeRuns (e : MatEntry) : List (Nat × Nat) :=
  match e.kind with
  | .rd _ => maccRuns e.rc
  | _ => []

/-- Alignment of the elements that R320 checks, least `EXTENT`, and what `EXTENT` must be a multiple of (R320, R321). -/
def FfKind.sizes : FfKind → Nat × Nat × Nat
  | .key => (1, 16, 16)
  | .beta => (1, 8, 8)
  | .sigt => (4, 2048, 4)
  | .mode => (1, 8, 8)
  | .edge => (4, 0, 128)
  | .bias => (2, 0, 2)
  | .clamp | .unclamp => (4, 0, 4)
  | .cnt => (2, 0, 2)
  | _ => (1, 0, 1)

/-- The data bytes of a form: its `EXTENT`, but of an `ffcfg` form the needed size alone, beyond which bytes are ignored (R321). -/
def FfKind.dataLen (k : FfKind) (rc : Rec) : Nat :=
  match k with
  | .key | .beta | .sigt | .mode => k.sizes.2.1
  | _ => recExtent rc

/-- The form has a record. -/
def FfKind.hasRec : FfKind → Bool
  | .sweep | .creset => false
  | _ => true

/-- A read-out: the only forms that write tile memory (R318). -/
def FfKind.readsOut : FfKind → Bool
  | .bits | .cnt => true
  | _ => false

/-- The forms that read their record. -/
def FfKind.readsIn (k : FfKind) : Bool := k.hasRec && !k.readsOut

/-- The runs of a command's record that it reads or, a read-out, writes (R318, R321). -/
def FfCmd.runs (c : FfCmd) : List (Nat × Nat) := if c.kind.hasRec then runsOf c.rc 0 (c.kind.dataLen c.rc) else []

end Sys2Proof.Machine
end

