-- ==== Sys2Proof/Machine/Ops.lean ====
section
/-! DEFINITION. The named operations over the state: finding a tile, a die, a module and an agent; registers; memories;
the version store; taking a trap and coming back from one (spec 04 R93-R100, R431, R432; spec 05 R116-R121). -/

namespace Sys2Proof.Machine

/-- What a step answers. -/
abbrev Out := Host.Outcome State Fault Refusal

/-! ## Maps by number, in rising order of the number -/

/-- The entry of key `k`, or `d`. -/
def kvGet {α : Type} (d : α) (l : List (Nat × α)) (k : Nat) : α :=
  match l with
  | [] => d
  | (j, v) :: t => if j = k then v else kvGet d t k

/-- The entry of key `k` put in its place. -/
def kvSet {α : Type} (l : List (Nat × α)) (k : Nat) (v : α) : List (Nat × α) :=
  match l with
  | [] => [(k, v)]
  | (j, w) :: t => if j < k then (j, w) :: kvSet t k v else if j = k then (k, v) :: t else (k, v) :: (j, w) :: t

/-- A number put into a rising list of numbers. -/
def natInsert (l : List Nat) (k : Nat) : List Nat :=
  match l with
  | [] => [k]
  | j :: t => if j < k then j :: natInsert t k else if j = k then j :: t else k :: j :: t

/-- The atoms that some runs touch. -/
def atomsOf (l : List (Nat × Nat)) : List Nat :=
  (l.flatMap fun p => (List.range ((p.1 + p.2 + 15) / 16 - p.1 / 16)).map fun i => p.1 / 16 + i).foldl natInsert []

/-- A number taken out of a list of numbers. -/
def natErase (l : List Nat) (k : Nat) : List Nat := l.filter (fun j => j != k)

/-! ## Units -/

/-- Tile `t` (a system tile address, R8). -/
def State.tile (s : State) (t : Nat) : Tile := kvGet Tile.reset s.tiles t
def State.setTile (s : State) (t : Nat) (x : Tile) : State := { s with tiles := kvSet s.tiles t x }
def State.modTile (s : State) (t : Nat) (f : Tile → Tile) : State := s.setTile t (f (s.tile t))

/-- Die `d` (16 * module + die). -/
def State.die (s : State) (d : Nat) : Die := kvGet Die.reset s.dies d
def State.setDie (s : State) (d : Nat) (x : Die) : State := { s with dies := kvSet s.dies d x }
def State.modDie (s : State) (d : Nat) (f : Die → Die) : State := s.setDie d (f (s.die d))

/-- Module `m`. -/
def State.module (s : State) (m : Nat) : Module := kvGet Module.reset s.modules m
def State.setModule (s : State) (m : Nat) (x : Module) : State := { s with modules := kvSet s.modules m x }
def State.modModule (s : State) (m : Nat) (f : Module → Module) : State := s.setModule m (f (s.module m))

/-- The module runs: it has not tripped and its boot has not failed (R425, R426). -/
def Module.alive (x : Module) : Bool := !x.tripped && !x.bootFail

/-- The die a tile stands on: a system tile address is module [27:10], die [9:6], tile [5:0] (R8). -/
def dieOfTile (t : Nat) : Nat := t / 64
/-- The module of a tile. -/
def modOfTile (t : Nat) : Nat := t / 1024
/-- The module of a die. -/
def modOfDie (d : Nat) : Nat := d / 16

/-- The die an agent stands on. -/
def whoDie : Who → Nat
  | .tile t _ => dieOfTile t
  | .svc d _ => d

/-! ## Agents -/

/-- The context and state of an agent. -/
def State.agentOf (s : State) : Who → Agent
  | .tile t a => (s.tile t).cur.agents[a]
  | .svc d c => (s.die d).svc[c].agent

def Tile.setAgent (tl : Tile) (a : Fin 10) (g : Agent) : Tile :=
  { tl with cur := { tl.cur with agents := tl.cur.agents.set a g } }

def Die.setSvc (d : Die) (c : Fin 2) (x : SvcCore) : Die := { d with svc := d.svc.set c x }

/-- The copy that the core of an agent runs (R408). -/
def State.copyOf (s : State) : Who → Option ImageCopy
  | .svc d c => (s.die d).svc[c].copy
  | .tile _ _ => none

/-- Every copy that runs on the part, with the module of its core (R403, R408). -/
def State.copies (s : State) : List (Nat × ImageCopy) :=
  s.dies.flatMap fun q => (q.2.svc.toList.filterMap fun c => c.copy).map fun k => (modOfDie q.1, k)

/-- A copy of the image of tile `t` runs (R407, R408). -/
def State.copying (s : State) (t : Nat) : Bool := s.copies.any fun k => decide (k.2.tile = t)

def State.setAgentOf (s : State) (w : Who) (g : Agent) : State :=
  match w with
  | .tile t a => s.modTile t (fun tl => tl.setAgent a g)
  | .svc d c => s.modDie d (fun x => x.setSvc c { x.svc[c] with agent := g })

def State.modAgent (s : State) (w : Who) (f : Agent → Agent) : State := s.setAgentOf w (f (s.agentOf w))

/-- The agent whose turn it is. -/
def State.me (s : State) : Agent := s.agentOf s.turn
def State.setMe (s : State) (g : Agent) : State := s.setAgentOf s.turn g
def State.modMe (s : State) (f : Agent → Agent) : State := s.setMe (f s.me)

/-- The tile of the agent whose turn it is; tile 0 for a service core, which no instruction of a tile reaches (R20). -/
def State.here (s : State) : Nat :=
  match s.turn with
  | .tile t _ => t
  | .svc _ _ => 0

/-- The agent index of R122. -/
def whoIndex : Who → Nat
  | .tile _ a => a.val
  | .svc _ c => 10 + c.val

/-! ## Registers (R10, R11, R62) -/

/-- `X[r]`; `X[0]` reads 0. -/
def Agent.rx (g : Agent) (r : BitVec 5) : W := if r = 0 then 0 else g.x[r.toFin]
/-- `X[r] <- v`; a write to `X[0]` is discarded. -/
def Agent.wx (g : Agent) (r : BitVec 5) (v : W) : Agent := if r = 0 then g else { g with x := g.x.set r.toFin v }
/-- `P[r]`; `P[0]` reads 1. -/
def Agent.rp (g : Agent) (r : BitVec 3) : Bool := if r = 0 then true else g.p[r.toFin]
/-- `P[r] <- v`; a write to `P[0]` is discarded. -/
def Agent.wp (g : Agent) (r : BitVec 3) (v : Bool) : Agent := if r = 0 then g else { g with p := g.p.set r.toFin v }
/-- `V[r]`. -/
def Agent.rv (g : Agent) (r : BitVec 5) : VReg := g.v[r.toFin]
/-- `V[r] <- v`. -/
def Agent.wv (g : Agent) (r : BitVec 5) (v : VReg) : Agent := { g with v := g.v.set r.toFin v }

def State.rx (s : State) (r : BitVec 5) : W := s.me.rx r
def State.rp (s : State) (r : BitVec 3) : Bool := s.me.rp r
def State.rv (s : State) (r : BitVec 5) : VReg := s.me.rv r

/-! ## Going on -/

/-- Which of the three retired counters of a tile an agent's core has (R122). -/
def coreIx (a : Fin 10) : Fin 3 := if a.val < 8 then 0 else if a.val = 8 then 1 else 2

/-- One more instruction retired by the core of an agent (R122). -/
def State.retire (s : State) (w : Who) : State :=
  match w with
  | .tile t a => s.modTile t (fun tl => { tl with retired := tl.retired.set (coreIx a) (tl.retired[coreIx a] + 1) })
  | .svc d c => s.modDie d (fun x => x.setSvc c { x.svc[c] with retired := x.svc[c].retired + 1 })

/-- The instruction completes with the agent's new context, and the next one follows it: `PC + 4`. -/
def State.done (s : State) (g : Agent) : Out := .next ((s.setMe { g with pc := g.pc + 4 }).retire s.turn)

/-- The instruction completes and the agent goes on at `t`. -/
def State.goto (s : State) (g : Agent) (t : W) : Out := .next ((s.setMe { g with pc := t }).retire s.turn)

/-- The instruction completes with `X[d] <- v`. -/
def State.doneX (s : State) (d : BitVec 5) (v : W) : Out := s.done (s.me.wx d v)

/-- The instruction completes with `P[d] <- v`. -/
def State.doneP (s : State) (d : BitVec 3) (v : Bool) : Out := s.done (s.me.wp d v)

/-- The instruction completes with nothing but `PC + 4`. -/
def State.doneNop (s : State) : Out := s.done s.me

/-- The agent leaves its slot and waits; its PC stays at the waiting instruction. -/
def State.waitOn (s : State) (w : WaitOn) : Out := .next (s.setMe { s.me with st := .wait w })

/-- The state an agent leaves a wait into: a strand becomes READY, a hart runs (R112). -/
def wakeState (a : Fin 10) : AState := if a.val < 8 then .ready else .run

/-- Agent `a` of tile `t` leaves its wait, its instruction completed with the context `g`; a hart's watchdog count starts
again (R112, R116). -/
def State.finishWait (s : State) (t : Nat) (a : Fin 10) (g : Agent) : State :=
  (s.modTile t fun tl => tl.setAgent a { g with st := wakeState a, pc := g.pc + 4, heldFrom := s.clk }).retire (.tile t a)

/-- Whether a haul or shape hart has engine operations that have not completed (R134, R231). A strand has none that its
releases wait for (R233). -/
def State.hartBusy (s : State) : Bool :=
  match s.turn with
  | .tile t a =>
    if a.val = 8 then !(s.tile t).haulQ.isEmpty || !(s.tile t).haulStore.isEmpty
    else if a.val = 9 then !(s.tile t).shapeQ.isEmpty
    else false
  | .svc _ _ => false

/-- The last entry of the executing strand in the matrix queue that a test picks (R271). -/
def State.myEntry (s : State) (ok : MatEntry → Bool) : Option MatEntry :=
  match s.turn with
  | .tile t a => ((s.tile t).matQ.filter fun e => decide (e.strand = a) && ok e).getLast?
  | .svc _ _ => none

/-- A release of a hart takes effect only when every engine operation the hart issued has completed, its stores behind them with it, and
one of a strand only when all its matrix entries have (R229, R231, R271); until then the agent waits. A strand's Firefly commands hold back
no release (R233). -/
def State.release (s : State) (k : State → Out) : Out :=
  if s.hartBusy then s.waitOn .drain
  else
    match s.myEntry fun _ => true with
    | some e => s.waitOn (.matrix e.id)
    | none => k s

/-- Whether an entry is a read-out. -/
def MatEntry.isRd (e : MatEntry) : Bool :=
  match e.kind with
  | .rd _ => true
  | _ => false

/-- An access to tile memory waits while one of the strand's read-outs has not completed (R271). -/
def State.rdWait (s : State) (k : State → Out) : Out :=
  match s.myEntry MatEntry.isRd with
  | some e => s.waitOn (.matrix e.id)
  | none => k s

/-- The entry of the executing strand that still has to read one of `n` bytes at `a` (R232, R271). -/
def State.unread (s : State) (a n : Nat) : Option MatEntry :=
  s.myEntry fun e => !e.started && e.reads.any fun r => decide (r.1 < a + n) && decide (a < r.1 + r.2)

/-! ## Traps (R117-R121) -/

/-- The first address past the agent's memory: tile memory, or the core memory of a service core (R17, R59). -/
def whoMem : Who → Nat
  | .tile _ _ => Config.tmSize
  | .svc _ _ => Config.coreMemSize

/-- Escalation (R119): the agent stops in HALT; no CSR is written; its tile votes abort with the cause. -/
def Agent.escalate (g : Agent) (code : Nat) : Agent := { g with st := .halt, escalated := some code }

/-- Whether `TakeTrap` must escalate (R117): in a handler already, or no usable handler entry. -/
def Agent.cannotTrap (g : Agent) (size : Nat) : Bool :=
  g.causeInh || decide (g.tvec = 0) || decide (g.tvec.toNat % 4 ≠ 0) || decide (size ≤ g.tvec.toNat)

/-- `TakeTrap(cause, faddr, epc)` (R117), the watchdog count starting again (R116). -/
def Agent.takeTrap (g : Agent) (size clk code : Nat) (faddr epc : W) : Agent :=
  if g.cannotTrap size then g.escalate code
  else { g with causeCode := BitVec.ofNat 8 code, causeInh := true, epc := epc, faddr := faddr, pc := g.tvec, heldFrom := clk }

/-- `TakeTrap` for an agent of the part. -/
def State.takeTrap (s : State) (w : Who) (code : Nat) (faddr epc : W) : State :=
  s.modAgent w (fun g => g.takeTrap (whoMem w) s.clk code faddr epc)

/-- The executing instruction takes the trap `code`; it has no other effect (R11, R117). -/
def State.trap (s : State) (code : Nat) (faddr : W) : Out := .next (s.takeTrap s.turn code faddr s.me.pc)

/-- The transfer checks of R59 on a target, which `eret` and inline `exit` make too: cause 0x03 or 0x04, or go on. -/
def State.transfer (s : State) (g : Agent) (t : W) : Out :=
  if t.toNat % 4 ≠ 0 then s.trap 0x03 t
  else if whoMem s.turn ≤ t.toNat then s.trap 0x04 t
  else s.goto g t

/-- Return from a trap (R134): the transfer checks on `EPC`, then `CAUSE.INH <- 0` and `PC <- EPC`. -/
def State.returnFromTrap (s : State) : Out := s.transfer { s.me with causeInh := false } s.me.epc

/-- The checks of R20 for a group that only some core types execute; a wrong engine raises cause 0x02 with the word. -/
def State.onCores (s : State) (ok : CoreKind → Bool) (word : Nat) (k : State → Out) : Out :=
  if ok s.turn.kind then k s else s.trap 0x02 (BitVec.ofNat 64 word)

/-- Groups of the tile cores (R20). -/
def State.onTile (s : State) (word : Nat) (k : State → Out) : Out := s.onCores (fun c => decide (c ≠ .service)) word k
/-- Groups of the work core (R20). -/
def State.onWork (s : State) (word : Nat) (k : State → Out) : Out := s.onCores (fun c => decide (c = .work)) word k
/-- Groups of the haul core (R20). -/
def State.onHaul (s : State) (word : Nat) (k : State → Out) : Out := s.onCores (fun c => decide (c = .haul)) word k
/-- Groups of the shape core (R20). -/
def State.onShape (s : State) (word : Nat) (k : State → Out) : Out := s.onCores (fun c => decide (c = .shape)) word k
/-- The privileged group: cause 0x12 on a tile core (R20). -/
def State.onService (s : State) (word : Nat) (k : State → Out) : Out :=
  if s.turn.kind = .service then k s else s.trap 0x12 (BitVec.ofNat 64 word)

/-- A deferred cause reaches an agent: the lower code is kept (R120). Of two with one code the spec does not say which `FADDR` stands: the
first one's does (DESIGN CHOICE, notes/assumptions/55.md). -/
def Agent.defer (g : Agent) (code : Nat) (faddr : W) : Agent :=
  match g.deferred with
  | none => { g with deferred := some ⟨code, faddr⟩ }
  | some p => if code < p.code then { g with deferred := some ⟨code, faddr⟩ } else g

/-- Parking (R121): `CAUSE.CODE`, `EPC` and `FADDR` written, `INH` and the PC unchanged. -/
def Agent.parkOn (g : Agent) (code : Nat) (va : W) : Agent :=
  { g with st := .park, causeCode := BitVec.ofNat 8 code, epc := g.pc, faddr := va }

/-! ## Memories -/

/-- What an unlisted byte reads as: 0, or a free value where the range is unspecified (R2, R30). -/
def blankIn (l : List FreeRange) (a : Nat) : Byte :=
  match l with
  | [] => 0
  | r :: t => if r.lo ≤ a ∧ a < r.lo + r.len then Config.freeByte r.n a else blankIn t a

def Memory.blank (m : Memory) (a : Nat) : Byte := blankIn m.free a

/-- The byte listed at an address. -/
def cellGet (l : List Host.Cell) (a : Nat) : Option Byte :=
  match l with
  | [] => none
  | (j, b) :: t => if j = a then some b else cellGet t a

/-- One byte of a memory. -/
def Memory.get (m : Memory) (a : Nat) : Byte := (cellGet m.cells a).getD (m.blank a)

/-- The listed cells of `n` addresses from `a`. -/
def Memory.window (m : Memory) (a n : Nat) : Memory :=
  { m with cells := m.cells.filter (fun c => decide (a ≤ c.1) && decide (c.1 < a + n)) }

/-- The `n` bytes from address `a`. -/
def Memory.bytes (m : Memory) (a n : Nat) : List Byte :=
  let w := m.window a n
  (List.range n).map (fun i => w.get (a + i))

/-- The cells of some bytes from an address, those that differ from the blank. -/
def cellsOf (bl : Nat → Byte) : Nat → List Byte → List Host.Cell
  | _, [] => []
  | a, b :: t => if b = bl a then cellsOf bl (a + 1) t else (a, b) :: cellsOf bl (a + 1) t

/-- Bytes written from an address. -/
def Memory.write (m : Memory) (a : Nat) (bs : List Byte) : Memory :=
  { m with cells := m.cells.filter (fun c => decide (c.1 < a)) ++ cellsOf m.blank a bs ++
      m.cells.filter (fun c => decide (a + bs.length ≤ c.1)) }

/-- `n` addresses from `a` become unspecified, as free values number `k` (R2). -/
def Memory.forget (m : Memory) (a n k : Nat) : Memory :=
  ⟨m.cells.filter (fun c => decide (c.1 < a) || decide (a + n ≤ c.1)), ⟨a, n, k⟩ :: m.free⟩

/-- The form a memory keeps: addresses rising, and no listed byte equal to what its address reads as unlisted. -/
def cellsWf (bl : Nat → Byte) : Nat → List Host.Cell → Bool
  | _, [] => true
  | lo, (a, b) :: t => decide (lo ≤ a) && decide (b ≠ bl a) && cellsWf bl (a + 1) t

/-- The canonical form of a memory. -/
def Memory.wf (m : Memory) : Bool := cellsWf m.blank 0 m.cells

/-- The `n`-byte little-endian number at an address (R6). -/
def Memory.nat (m : Memory) (a n : Nat) : Nat := leNat (m.bytes a n)

/-- The bad code words of `sz` bytes that a write of `n` bytes at `a` leaves bad: a write of a whole word writes a fresh
code (R432). -/
def badAfter (sz : Nat) (bad : List Nat) (a n : Nat) : List Nat :=
  bad.filter (fun w => !(decide (a ≤ sz * w) && decide (sz * w + sz ≤ a + n)))

/-- The first bad code word that a read of `n` bytes at `a` meets (R100). -/
def badHit (sz : Nat) (bad : List Nat) (a n : Nat) : Option Nat :=
  bad.find? (fun w => decide (a < sz * w + sz) && decide (sz * w < a + n))

/-- The bad code words that a range touches. -/
def badIn (sz : Nat) (bad : List Nat) (a n : Nat) : List Nat :=
  bad.filter (fun w => decide (a < sz * w + sz) && decide (sz * w < a + n))

/-! ## Tile memory and the version store (R93-R95, R431, R432) -/

/-- The first bank word that a read of `n` bytes at `a` finds uncorrectable, by an error of its own or by the poison code
(R100, R434). -/
def Tile.badAt (tl : Tile) (a n : Nat) : Option Nat := badHit 16 (tl.bad ++ tl.poison) a n

/-- Whether writes of this phase are versioned: the compute or the exchange phase of a superstep (R94). -/
def Tile.versioned (tl : Tile) : Bool :=
  match tl.node with
  | .run | .arrived | .exch | .seal => true
  | _ => false

/-- Segment `i` is kept: its `VMASK` bit in force is 0 (R93). -/
def Tile.kept (tl : Tile) (seg : Nat) : Bool := !tl.vmaskEff.getLsbD seg

/-- The write to tile-memory line `l` is the line's first in the superstep and needs a version-store line (R94). -/
def Tile.needsLine (tl : Tile) (l : Nat) : Bool :=
  tl.versioned && tl.kept (l / 1024) && !(tl.vs.any (fun v => !v.acc && decide (v.line = l)))

/-- The version store has a line for it (R95). -/
def Tile.hasRoom (tl : Tile) (l : Nat) : Bool := !tl.needsLine l || decide (tl.vs.length < 8192)

/-- The old line is copied into the version store if it must be (R94, R431). -/
def Tile.keepLine (tl : Tile) (l : Nat) : Tile :=
  if tl.needsLine l then
    { tl with vs := tl.vs ++ [⟨false, l, tl.tm.bytes (64 * l) 64, badIn 16 tl.bad (64 * l) 64, badIn 16 tl.poison (64 * l) 64, false⟩] }
  else tl

/-! ### The versions of an atom (R161, R207, R225-R234) -/

/-- An input stream that has elements to read from tile memory (R161). -/
def Stream.stillReads (b : Stream) : Bool := !b.out && decide (b.used + b.ahead.length < b.n)

/-- A matrix entry as a reader (R232). -/
def MatEntry.reader (e : MatEntry) : Reader := ⟨e.strand, e.pos, false⟩

/-- An entry of the matrix queue has tile memory to read still (R232). -/
def MatEntry.unreadYet (e : MatEntry) : Bool := !e.started && !e.reads.isEmpty

/-- An operation, a Firefly command or a matrix entry of the agent has not read all of its bytes. -/
def Tile.openReads (tl : Tile) (a : Fin 10) : Bool :=
  if a.val < 8 then
    tl.ffOpen.any (fun c => decide (c.1 = a)) || tl.matQ.any fun e => decide (e.strand = a) && e.unreadYet
  else if a.val = 8 then (tl.haulQ ++ tl.haulStore).any HaulOp.stillReads
  else tl.shapeQ.any fun o => !o.ran

/-- An operation, a command, a matrix entry or an input stream of the tile still reads tile memory. -/
def Tile.stillRead (tl : Tile) : Bool :=
  !tl.ffOpen.isEmpty || tl.matQ.any MatEntry.unreadYet || tl.openReads 8 || tl.openReads 9 || tl.cur.agents.toList.any fun g => g.streams.any Stream.stillReads

/-- The atoms that a write of `n` bytes at `a` changes, as they stand: kept while something issued before the write still reads, for it
sees either (R161, R207, R233, R234). -/
def Tile.noteOlds (tl : Tile) (a n : Nat) : List OldAtom :=
  if tl.stillRead then
    ((List.range ((a + n + 15) / 16 - a / 16)).map fun i => ⟨tl.opSeq, a / 16 + i, tl.tm.bytes (16 * (a / 16 + i)) 16, none⟩) ++ tl.olds
  else []

/-- A reader may take the atom as it was before a write: one made after the reader's issue, and not by its own agent earlier in program
order (R161, R207, R227). -/
def Reader.mayMiss (r : Reader) (q : OldAtom) : Bool :=
  decide (r.pos < q.pos) && !(q.writer.any fun p => decide (p.1 = r.agent) && decide (p.2 ≤ r.pos))

/-- The older versions of an atom, the latest first. -/
def Tile.oldsOf (tl : Tile) (w : Nat) : List OldAtom := tl.olds.filter fun q => decide (q.atom = w)

/-- The versions of an atom that a reader may take by its issue, with their numbers, the latest first: as it stands, or as it was before
writes that the reader may miss. -/
def Tile.versions (tl : Tile) (r : Reader) (w : Nat) : List (Nat × List Byte) :=
  let es := tl.oldsOf w
  (es.length, tl.tm.bytes (16 * w) 16) :: (es.takeWhile r.mayMiss).zipIdx.map fun q => (es.length - 1 - q.2, q.1.bytes)

/-- Two reads of one atom keep their program order: those of one agent; an input stream reads in the order of its own elements alone, for
which instruction an element read ahead belongs to the spec does not say (R161, R227). -/
def Reader.ordered (r q : Reader) : Bool := decide (r.agent = q.agent) && (!(r.stream || q.stream) || decide (r = q))

/-- The version of an atom that a noted read took. -/
def AtomRead.version (n : AtomRead) (w : Nat) : Option Nat :=
  if clearOf n.runs w then none else some (((n.vers.find? fun q => decide (q.1 = w)).map fun q => q.2).getD 0)

/-- A version is none older than what the agent's earlier reads took, and none newer than what its later reads took (R227). -/
def AtomRead.permits (n : AtomRead) (r : Reader) (w v : Nat) : Bool :=
  !r.ordered n.reader || (n.version w).all fun k => if n.reader.pos ≤ r.pos then decide (k ≤ v) else decide (v ≤ k)

/-- The versions of an atom that a reader may take. A `load` that came after a write of an operation of its own agent and did not see it
(R207) may leave none: then its own order does not count. -/
def Tile.allowed (tl : Tile) (r : Reader) (w : Nat) : List (Nat × List Byte) :=
  let l := tl.versions r w
  let m := l.filter fun v => tl.reads.all fun n => n.permits r w v.1
  if m.isEmpty then l else m

/-- One of them, open which, as free values number `k`. -/
def Tile.pick (tl : Tile) (r : Reader) (k w : Nat) : Nat × List Byte :=
  let l := tl.allowed r w
  l.getD ((Config.freeByte k w).toNat % l.length) (0, [])

/-- A held store laid over a memory. -/
def HeldStore.over (m : Memory) (h : HeldStore) : Memory := m.write h.addr h.bytes

/-- The stores of the reader's agent before it in program order that have not performed: it sees them (R225). -/
def Tile.heldFor (tl : Tile) (r : Reader) : List HeldStore :=
  tl.held.filter fun h => decide (h.agent = r.agent) && decide (h.pos ≤ r.pos)

/-- Tile memory as a reader of some ranges sees it: each atom in one of the versions it may take, or as the reader took it before; with the
stores of its own agent that have not performed. -/
def Tile.view (tl : Tile) (r : Reader) (k : Nat) (l : List (Nat × Nat)) (seen : List (Nat × Nat × List Byte)) : Memory :=
  if tl.olds.isEmpty && tl.held.isEmpty && seen.isEmpty then tl.tm
  else
    let ws := ((tl.olds.map fun q => q.atom) ++ seen.map fun q => q.1).foldl natInsert []
    let m := (ws.filter fun w => !clearOf l w).foldl (fun m w =>
      m.write (16 * w) (match seen.find? fun q => decide (q.1 = w) with | some q => q.2.2 | none => (tl.pick r k w).2)) tl.tm
    (tl.heldFor r).foldl HeldStore.over m

/-- A read of some ranges noted, where an operation of its agent has not read yet; `ver` is the version it took of an atom that has older
ones (R227). -/
def Tile.noteRead (tl : Tile) (r : Reader) (l : List (Nat × Nat)) (ver : Nat → Nat) : Tile :=
  if tl.openReads r.agent || r.stream then
    { tl with reads := ⟨r, l, ((tl.olds.map fun q => q.atom).foldl natInsert []).filterMap fun w =>
      if clearOf l w then none else some (w, ver w)⟩ :: tl.reads }
  else tl

/-- A load of agent `a` from some ranges noted: it takes every atom as it stands. -/
def Tile.noteLoad (tl : Tile) (a : Fin 10) (l : List (Nat × Nat)) : Tile :=
  tl.noteRead ⟨a, tl.opSeq, false⟩ l fun w => (tl.oldsOf w).length

/-- The older versions that a fill added to the first `n` stamped with the operation that wrote. -/
def Tile.stamp (tl : Tile) (n : Nat) (p : Fin 10 × Nat) : Tile :=
  { tl with olds := (tl.olds.take (tl.olds.length - n)).map (fun q => { q with writer := some p }) ++ tl.olds.drop (tl.olds.length - n) }

/-- Bytes of one line written, the old line kept first; `none` where the version store is full (R95). A write made while a
page-fetch list is being built is noted, for R212 rule 3. -/
def Tile.put (tl : Tile) (a : Nat) (bs : List Byte) : Option Tile :=
  if tl.hasRoom (a / 64) then
    let t := tl.keepLine (a / 64)
    some { t with
      tm := t.tm.write a bs
      bad := badAfter 16 t.bad a bs.length
      poison := badAfter 16 t.poison a bs.length
      olds := t.noteOlds a bs.length
      reads := if t.stillRead then t.reads else []
      dirty := if t.pfNext.isEmpty then t.dirty else (a, bs.length, t.pfNext.length) :: t.dirty }
  else none

/-- Bytes cut at the line boundaries, with the address of each part. `fuel` bounds the number of lines. -/
def splitLines : Nat → Nat → List Byte → List (Nat × List Byte)
  | 0, _, _ => []
  | fuel + 1, a, bs =>
    if bs.isEmpty then []
    else
      let n := 64 - a % 64
      (a, bs.take n) :: splitLines fuel (a + n) (bs.drop n)

/-- Parts written in order; stops at the first line the version store has no room for, and says its first address (R95). -/
def Tile.putParts (tl : Tile) : List (Nat × List Byte) → Tile × Option Nat
  | [] => (tl, none)
  | (a, bs) :: t =>
    match tl.put a bs with
    | some tl' => tl'.putParts t
    | none => (tl, some (64 * (a / 64)))

/-- Bytes written from an address by an engine: line by line in ascending address (R95). -/
def Tile.putRange (tl : Tile) (a : Nat) (bs : List Byte) : Tile × Option Nat :=
  tl.putParts (splitLines (bs.length / 64 + 2) a bs)

/-! ### Stores behind an earlier operation (R225, R227) -/

/-- A store of hart `a` to an atom is held: the agent's earlier operations are still to write it, `l` being what they have to write, or an
earlier store to it waits. -/
def Tile.holds (tl : Tile) (a : Fin 10) (l : List (Nat × Nat)) (w : Nat) : Bool :=
  !clearOf l w || tl.held.any fun h => decide (h.agent = a) && decide (h.addr / 16 = w)

/-- Bytes of one line stored by agent `a`, whose earlier operations have `l` to write; `none` where the version store is full (R95). A
part that must wait takes its version-store line now. -/
def Tile.store (tl : Tile) (a : Fin 10) (l : List (Nat × Nat)) (addr : Nat) (bs : List Byte) : Option Tile :=
  let parts := cutAtoms addr bs
  if !(parts.any fun p => tl.holds a l (p.1 / 16)) then tl.put addr bs
  else if !tl.hasRoom (addr / 64) then none
  else
    some (parts.foldl (fun tl p =>
      if tl.holds a l (p.1 / 16) then { tl.keepLine (p.1 / 64) with held := tl.held ++ [⟨a, tl.opSeq, p.1, p.2, tl.pfNext.length⟩] }
      else (tl.put p.1 p.2).getD tl) tl)

/-- A held store performs. -/
def Tile.perform (tl : Tile) (h : HeldStore) : Tile :=
  match tl.put h.addr h.bytes with
  | none => tl
  | some t =>
    { t.stamp tl.olds.length (h.agent, h.pos) with dirty := if h.pf = 0 then tl.dirty else (h.addr, h.bytes.length, h.pf) :: tl.dirty }

/-- What the operations of agent `a` of tile `t` before place `pos` of its program order are still to write. -/
def State.openWrites (s : State) (t : Nat) (a : Fin 10) (pos : Nat) : List (Nat × Nat) :=
  let tl := s.tile t
  if a.val < 8 then
    let ff := (s.die (dieOfTile t)).ff
    (ff.coming ++ ff.queue).flatMap fun c =>
      if decide (c.tile = t) && decide (c.strand = a) && decide (c.id < pos) && c.kind.readsOut && !c.ran then c.runs else []
  else if a.val = 8 then (tl.haulQ ++ tl.haulStore).flatMap fun o => if o.id < pos then o.toWrite else []
  else tl.shapeQ.flatMap fun o => if !o.ran && decide (o.id < pos) then o.writeRuns else []

/-- The held stores of a tile that wait for nothing any more perform, in their order: in the step in which the operation wrote (DESIGN
CHOICE, notes/assumptions/7.md). -/
def State.flush (s : State) (t : Nat) : State :=
  let tl := s.tile t
  if tl.held.isEmpty then s
  else
    let r : Tile × List HeldStore := tl.held.foldl (fun q h =>
      if !clearOf (s.openWrites t h.agent h.pos) (h.addr / 16) || q.2.any fun g => decide (g.agent = h.agent) && decide (g.addr / 16 = h.addr / 16)
      then (q.1, q.2 ++ [h])
      else (q.1.perform h, q.2)) (tl, [])
    s.setTile t { r.1 with held := r.2 }

/-- The full-empty bit of bank word `w` (R96). -/
def Tile.full (tl : Tile) (w : Nat) : Bool := tl.cur.fe.contains w

def Tile.setFe (tl : Tile) (w : Nat) (full : Bool) : Tile :=
  { tl with cur := { tl.cur with fe := if full then natInsert tl.cur.fe w else natErase tl.cur.fe w } }

/-- Every bank word that a range touches becomes full (R96). -/
def Tile.fillFe (tl : Tile) (a n : Nat) : Tile :=
  if n = 0 then tl
  else (List.range ((a + n - 1) / 16 + 1 - a / 16)).foldl (fun t i => t.setFe (a / 16 + i) true) tl

/-! ## Causes recorded by a tile (R100, R168, R169, R199) -/

/-- The rank of a cause at a vote: 0x13, then 0x14, then 0x15, then the others in ascending order (R168). -/
def causeRank (c : Nat) : Nat := if c = 0x13 then 0 else if c = 0x14 then 1 else if c = 0x15 then 2 else c + 3

/-- A cause record of R199. -/
def causeRecord (code unit tile bank row region : Nat) : BitVec 64 :=
  BitVec.ofNat 64 (code + unit * 2 ^ 8 + tile * 2 ^ 12 + bank * 2 ^ 18 + row * 2 ^ 23 + region * 2 ^ 35 + 2 ^ 63)

/-- The tile records a cause in this attempt; 0x13 and 0x14 stop every agent at its next boundary and abandon the engines
(R169). A structure is recorded once. -/
def Tile.record (tl : Tile) (r : Recorded) : Tile :=
  { tl with
    recorded := if tl.recorded.contains r then tl.recorded else tl.recorded ++ [r]
    stopping := tl.stopping || decide (r.code = 0x13) || decide (r.code = 0x14) }

/-- Two places, as `UNIT`, `BANK` and `ROW`, lie in one structure of the unit table of R185: a bank of tile memory, an accumulator
or a weight slot is one structure, and so are the whole version store and the mailbox and outbox storage. That two failing rows
of one bank are one structure, with one record and one test, is how this model reads R185 with R199 (DEDUCED,
notes/assumptions/26.md). -/
def sameStructure (p q : Nat × Nat × Nat) : Bool :=
  decide (p.1 = q.1) &&
    (decide (p.1 = 1) || decide (p.1 = 7) ||
      (decide (p.2.1 = q.2.1) && (decide (p.1 = 0) || decide (p.1 = 2) || decide (p.1 = 3) || decide (p.2.2 = q.2.2))))

/-- The tile has recorded the cause against that structure in this attempt. -/
def Tile.hasRecorded (tl : Tile) (code : Nat) (q : Nat × Nat × Nat) : Bool :=
  tl.recorded.any fun r => decide (r.code = code) && r.unit.any (sameStructure q)

/-- Tile `t` records an uncorrectable error in a structure: the cause, and a cause record of its die if the queue of 64
has room, one for each structure of R185 (R100, R199). -/
def State.recordError (s : State) (t code unit bank row : Nat) : State :=
  let tl := s.tile t
  let r : Recorded := ⟨code, some (unit, bank, row)⟩
  if tl.hasRecorded code (unit, bank, row) then s
  else
    (s.setTile t (tl.record r)).modDie (dieOfTile t) (fun d =>
      if d.qd.qcrec.length < 64 then
        { d with qd := { d.qd with qcrec := d.qd.qcrec ++ [causeRecord code unit (t % 64) bank row tl.region.toNat] } }
      else d)

/-! ## Loads and stores of the executing agent (R17, R90, R129) -/

/-- The memory an agent's loads, stores and fetches reach, and its bad code words: with the agent's own stores that have not performed
(R225). -/
def State.memOf (s : State) : Who → Memory × List Nat
  | .tile t a =>
    let tl := s.tile t
    (tl.held.filter fun h => decide (h.agent = a)).foldl (fun m h => (h.over m.1, badAfter 16 m.2 h.addr h.bytes.length)) (tl.tm, tl.bad ++ tl.poison)
  | .svc d c => ((s.die d).svc[c].mem, (s.die d).svc[c].bad)

/-- A read of tile memory meets an uncorrectable bank word: the tile records cause 0x13 against the bank and row (R85,
R100); for a poisoned word it records the cause against no structure (R434). -/
def State.tmError (s : State) (t : Nat) (bankWord : Nat) : State :=
  if (s.tile t).bad.contains bankWord then s.recordError t 0x13 0 (bankWord % 31) (bankWord / 31)
  else s.modTile t fun tl => tl.record ⟨0x13, none⟩

/-- A read by the agent meets an uncorrectable word: the instruction does not complete, and its tile records cause 0x13
(R100). A service core stops. -/
def State.readError (s : State) (w : Who) (bankWord : Nat) : State :=
  match w with
  | .tile t _ => s.tmError t bankWord
  | .svc _ _ => s.modAgent w (fun g => g.escalate 0x13)

/-- The execution checks of an access of `n` bytes at `a`, in the order of R129: alignment, then range; then the matrix wait
of R271. -/
def State.checked (s : State) (a : W) (n : Nat) (k : State → Out) : Out :=
  if a.toNat % n ≠ 0 then s.trap 0x03 a
  else if whoMem s.turn < a.toNat + n then s.trap 0x04 a
  else s.rdWait k

/-- Agent `w` has loaded from some ranges: noted where an operation of its own has not read yet (R227). -/
def State.loaded (s : State) (w : Who) (l : List (Nat × Nat)) : State :=
  match w with
  | .tile t a => if (s.tile t).openReads a then s.modTile t fun tl => tl.noteLoad a l else s
  | .svc _ _ => s

/-- The bytes of a checked access, or the error of R100. -/
def State.readBytes (s : State) (a n : Nat) (k : List Byte → State → Out) : Out :=
  match badHit 16 (s.memOf s.turn).2 a n with
  | some w => .next (s.readError s.turn w)
  | none => k ((s.memOf s.turn).1.bytes a n) (s.loaded s.turn [(a, n)])

/-- The executing agent as an index; 0 for a service core, which no instruction that asks reaches. -/
def State.strand (s : State) : Fin 10 :=
  match s.turn with
  | .tile _ a => a
  | .svc _ _ => 0

/-- What the operations that the executing agent has issued are still to write. -/
def State.myWrites (s : State) : List (Nat × Nat) := s.openWrites s.here s.strand (s.tile s.here).opSeq

/-- The agent stalls in RUN: it issues its instruction again when what it stalls for may be over (R112). -/
def State.stall (s : State) : Out := .next (s.modMe fun g => { g with stalled := true })

/-- A Firefly command that the executing strand issued is still to write an atom of some ranges. A hart's stores do not stall: they are held
behind its operations. -/
def State.behindOwn (s : State) (l : List (Nat × Nat)) : Bool :=
  match s.turn with
  | .tile _ a => decide (a.val < 8) && sharesAtom s.myWrites l
  | .svc _ _ => false

/-- A store of `n` bytes at `a` waits while one of the strand's earlier matrix entries still has to read a byte it writes (R271). One to an
atom that an earlier Firefly command of the strand is still to write performs after it (R227): R112 has no wait for that, so the strand stalls
in RUN (DESIGN CHOICE, notes/assumptions/7.md). -/
def State.storeWait (s : State) (a n : Nat) (k : State → Out) : Out :=
  match s.unread a n with
  | some e => s.waitOn (.matrix e.id)
  | none => if s.behindOwn [(a, n)] then s.stall else k s

/-- Bytes of one line stored by the executing agent of a tile (R95, R227). -/
def State.storeHere (s : State) (a : Nat) (bs : List Byte) : Option Tile := (s.tile s.here).store s.strand s.myWrites a bs

/-- Bytes of one line stored by the executing agent after its checks; cause 0x0A where the version store is full (R95).
`k` goes on with the state after the store. -/
def State.storeBytes (s : State) (a : Nat) (bs : List Byte) (k : State → Out) : Out :=
  s.storeWait a bs.length fun s =>
  match s.turn with
  | .tile t _ =>
    match s.storeHere a bs with
    | some tl => k (s.setTile t tl)
    | none => s.trap 0x0A (BitVec.ofNat 64 (64 * (a / 64)))
  | .svc d c =>
    k (s.modDie d (fun x => x.setSvc c { x.svc[c] with
      mem := x.svc[c].mem.write a bs, bad := badAfter 16 x.svc[c].bad a bs.length }))

/-- A load of `n` bytes at `a` into `X[d]`, extended as signed or not (R129). -/
def State.load (s : State) (d : BitVec 5) (a : W) (n : Nat) (signed : Bool) : Out :=
  s.checked a n fun s =>
    s.readBytes a.toNat n fun bs s =>
      s.doneX d (if signed then BitVec.ofInt 64 (sextNat (8 * n) (leNat bs)) else BitVec.ofNat 64 (leNat bs))

/-- A store of the low `n` bytes of `X[r]` at `a` (R129). -/
def State.store (s : State) (r : BitVec 5) (a : W) (n : Nat) : Out :=
  s.checked a n fun s => s.storeBytes a.toNat (leBytes n (s.rx r).toNat) fun s' => s'.doneNop

end Sys2Proof.Machine
end

