-- ==== Sys2Proof/Machine/Flags.lean ====
section
/-! DEFINITION. The condition codes and the predicate functions (R58, R127, R128). The machine keeps no other flags
(R37). -/

namespace Sys2Proof.Machine

/-- The compare conditions of R58 on two 64-bit operands: EQ, NE, LT, GE as S64, LTN, GEN as N64. -/
def condHolds (c : Nat) (a b : W) : Bool :=
  if c = 0 then decide (a = b)
  else if c = 1 then decide (a ≠ b)
  else if c = 2 then decide (a.toInt < b.toInt)
  else if c = 3 then decide (b.toInt ≤ a.toInt)
  else if c = 4 then decide (a.toNat < b.toNat)
  else decide (b.toNat ≤ a.toNat)

/-- The same conditions on lanes of `w` bits (R148). -/
def condLane (c w a b : Nat) : Bool :=
  if c = 0 then decide (a = b)
  else if c = 1 then decide (a ≠ b)
  else if c = 2 then decide (sextNat w a < sextNat w b)
  else if c = 3 then decide (sextNat w b ≤ sextNat w a)
  else if c = 4 then decide (a < b)
  else decide (b ≤ a)

/-- The predicate functions 0-5 of R128. -/
def predFn (c : Nat) (a b : Bool) : Bool :=
  if c = 0 then a && b
  else if c = 1 then a || b
  else if c = 2 then a != b
  else if c = 3 then a && !b
  else if c = 4 then a || !b
  else a == b

end Sys2Proof.Machine
end

