-- ==== Sys2Proof/Machine/Operands.lean ====
section
/-! DEFINITION. The operand forms of the instruction formats (R57-R59, R129-R133, R149, R203): immediates as numbers,
effective addresses, transfer targets. -/

namespace Sys2Proof.Machine

/-- An immediate field as a 64-bit number: two's complement, sign-extended (R57). -/
def immW {n : Nat} (i : BitVec n) : W := i.signExtend 64

/-- An immediate field scaled by a power of two: `2^k * sext(i)`, wrapped to 64 bits. -/
def immShl {n : Nat} (i : BitVec n) (k : Nat) : W := immW i <<< k

/-- Address `X[a] + sext(imm15)` of the loads and stores (R129). -/
def State.eaImm (s : State) (a : BitVec 5) (i : BitVec 15) : W := s.rx a + immW i

/-- Address `X[a] + 8 * sext(imm15[14:1])` of `ldfe` and `stfe` (R130). -/
def State.eaFe (s : State) (a : BitVec 5) (i : BitVec 14) : W := s.rx a + immShl i 3

/-- Address `X[a] + 32 * sext(imm15[14:5])` of `bld` and `bst` (R203). -/
def State.eaRec (s : State) (a : BitVec 5) (i : BitVec 10) : W := s.rx a + immShl i 5

/-- Address `X[a] + 64 * sext(imm15[14:1])` of `vld` and `vst` (R149). -/
def State.eaVec (s : State) (a : BitVec 5) (i : BitVec 14) : W := s.rx a + immShl i 6

/-- Address `X[a] + X[b]` of `gld` (R131). -/
def State.eaSum (s : State) (a b : BitVec 5) : W := s.rx a + s.rx b

/-- Target `PC + 4 * sext(off20)` of `br` and `jal` (R59). -/
def State.targetRel (s : State) (o : BitVec 20) : W := s.me.pc + immShl o 2

/-- Target `X[a] + sext(imm15)` of `jalr` (R133). -/
def State.targetReg (s : State) (a : BitVec 5) (i : BitVec 15) : W := s.rx a + immW i

/-- `sext(imm20) << 12` of `lih` and `addpc` (R126). -/
def upper (i : BitVec 20) : W := immShl i 12

/-! ## Buffer records (R200, R201) -/

/-- `CHECK`: the bounds-check mode. -/
def recCheck (r : Rec) : Bool := bitOf r.toNat 136

/-- A record with its reserved bits cleared, as `bld` reads it (R200, R203). -/
def recClean (r : Nat) : Rec :=
  BitVec.ofNat 256 (fld r 0 21 + fld r 32 21 * 2 ^ 32 + fld r 64 21 * 2 ^ 64 + fld r 96 21 * 2 ^ 96 +
    fld r 128 4 * 2 ^ 128 + fld r 136 1 * 2 ^ 136)

/-- The record registers of the core an agent belongs to (R62). -/
def State.recRegs (s : State) (w : Who) : Vector Rec 16 :=
  match w with
  | .tile t a => if a.val < 8 then (s.tile t).cur.recW else if a.val = 8 then (s.tile t).cur.recH else (s.tile t).cur.recS
  | .svc _ _ => Vector.replicate 16 0

/-- `B[r]` of the executing core, for a record field 0-15 (R58). -/
def State.recReg (s : State) (r : BitVec 5) : Rec := (s.recRegs s.turn)[r.toNat % 16]'(Nat.mod_lt _ (by decide))

/-- `B[r] <- v` of the executing core. -/
def State.setRec (s : State) (r : BitVec 5) (v : Rec) : State :=
  have h : r.toNat % 16 < 16 := Nat.mod_lt _ (by decide)
  match s.turn with
  | .tile t a => s.modTile t fun tl =>
      if a.val < 8 then { tl with cur := { tl.cur with recW := tl.cur.recW.set (r.toNat % 16) v h } }
      else if a.val = 8 then { tl with cur := { tl.cur with recH := tl.cur.recH.set (r.toNat % 16) v h } }
      else { tl with cur := { tl.cur with recS := tl.cur.recS.set (r.toNat % 16) v h } }
  | .svc _ _ => s

/-- The size and signedness of the load type codes 0-6 (R131, R132). -/
def loadType (t : Nat) : Nat × Bool :=
  ([(1, true), (1, false), (2, true), (2, false), (4, true), (4, false), (8, false)] : List (Nat × Bool)).getD t (8, false)

end Sys2Proof.Machine
end

