-- ==== Sys2Proof/Machine/LoadStore.lean ====
section
/-! DEFINITION. The loads and stores of tile memory and core memory (R129), the full-empty loads and stores (R97, R130),
record-relative access (R132) and the record registers' loads and stores (R203). -/

namespace Sys2Proof.Machine

/-- ldS8 (R129): 1 byte, sign-extended. -/
def execLdS8 (d a : BitVec 5) (i : BitVec 15) (s : State) : Out := s.load d (s.eaImm a i) 1 true

/-- ldN8 (R129): 1 byte, zero-extended. -/
def execLdN8 (d a : BitVec 5) (i : BitVec 15) (s : State) : Out := s.load d (s.eaImm a i) 1 false

/-- ldS16 (R129): 2 bytes, sign-extended. -/
def execLdS16 (d a : BitVec 5) (i : BitVec 15) (s : State) : Out := s.load d (s.eaImm a i) 2 true

/-- ldN16 (R129): 2 bytes, zero-extended. -/
def execLdN16 (d a : BitVec 5) (i : BitVec 15) (s : State) : Out := s.load d (s.eaImm a i) 2 false

/-- ldS32 (R129): 4 bytes, sign-extended. -/
def execLdS32 (d a : BitVec 5) (i : BitVec 15) (s : State) : Out := s.load d (s.eaImm a i) 4 true

/-- ldN32 (R129): 4 bytes, zero-extended. -/
def execLdN32 (d a : BitVec 5) (i : BitVec 15) (s : State) : Out := s.load d (s.eaImm a i) 4 false

/-- ld64 (R129): 8 bytes, zero-extended. -/
def execLd64 (d a : BitVec 5) (i : BitVec 15) (s : State) : Out := s.load d (s.eaImm a i) 8 false

/-- st8 (R129): the low 1 byte of X[r]. -/
def execSt8 (r a : BitVec 5) (i : BitVec 15) (s : State) : Out := s.store r (s.eaImm a i) 1

/-- st16 (R129): the low 2 bytes of X[r]. -/
def execSt16 (r a : BitVec 5) (i : BitVec 15) (s : State) : Out := s.store r (s.eaImm a i) 2

/-- st32 (R129): the low 4 bytes of X[r]. -/
def execSt32 (r a : BitVec 5) (i : BitVec 15) (s : State) : Out := s.store r (s.eaImm a i) 4

/-- st64 (R129): the low 8 bytes of X[r]. -/
def execSt64 (r a : BitVec 5) (i : BitVec 15) (s : State) : Out := s.store r (s.eaImm a i) 8

/-! ## Full-empty access (R97, R130) -/

/-- An `ldfe` that finds its bank word full: the 8 bytes into `X[d]`, and the bit emptied for `.c`, in one action. -/
def State.takeFull (s : State) (t : Nat) (addr : Nat) (c : Bool) : State :=
  if c then s.modTile t fun tl => tl.setFe (addr / 16) false else s

/-- ldfe (R97, R130): waits while the bank word is empty. -/
def execLdfe (d a : BitVec 5) (c : BitVec 1) (i : BitVec 14) (s : State) : Out :=
  s.onTile (wordOf (.ldfe d a c i)) fun s =>
    let A := s.eaFe a i
    s.checked A 8 fun s =>
      if (s.tile s.here).full (A.toNat / 16) then
        s.readBytes A.toNat 8 fun bs s =>
          (s.takeFull s.here A.toNat (decide (c = 1))).doneX d (BitVec.ofNat 64 (leNat bs))
      else s.waitOn (.ldfe d A.toNat (decide (c = 1)))

/-- stfe (R130): the data and the bit in one action; `.e` leaves the bit empty. -/
def execStfe (r a : BitVec 5) (e : BitVec 1) (i : BitVec 14) (s : State) : Out :=
  s.onTile (wordOf (.stfe r a e i)) fun s =>
    let A := s.eaFe a i
    s.checked A 8 fun s => s.release fun s =>
      s.storeBytes A.toNat (leBytes 8 (s.rx r).toNat) fun s =>
        (s.modTile s.here fun tl => tl.setFe (A.toNat / 16) (decide (e = 0))).doneNop

/-- The waiting `ldfe` of agent `a` on bank word `w`, if it waits in one: its register, address and `.c`. -/
def Tile.ldfeWaiter (tl : Tile) (w : Nat) (a : Fin 10) : Option (BitVec 5 × Nat × Bool) :=
  match tl.cur.agents[a].st with
  | .wait (.ldfe d addr c) => if addr / 16 = w then some (d, addr, c) else none
  | _ => none

/-- The agent's waiting `ldfe` completes with the data, or meets the error of R100. -/
def State.wakeLdfe (s : State) (t : Nat) (a : Fin 10) (d : BitVec 5) (addr : Nat) : State :=
  let m := s.memOf (.tile t a)
  match badHit 16 m.2 addr 8 with
  | some w => s.readError (.tile t a) w
  | none => (s.loaded (.tile t a) [(addr, 8)]).finishWait t a (((s.tile t).cur.agents[a]).wx d (BitVec.ofNat 64 (m.1.nat addr 8)))

/-- LDFE_WAKE (R97): a bank word that agents wait on is full. Every waiting plain `ldfe` reads; the waiting `ldfe.c` of
lowest index reads too and empties the bit. -/
def execLdfeWake (t w : Nat) (s : State) : Out :=
  if (s.tile t).full w ∧ (s.tile t).node = .run then
    let plain := (List.finRange 10).filter fun a =>
      match (s.tile t).ldfeWaiter w a with
      | some (_, _, c) => !c
      | none => false
    let first := (List.finRange 10).find? fun a =>
      match (s.tile t).ldfeWaiter w a with
      | some (_, _, c) => c
      | none => false
    let wake (s : State) (a : Fin 10) : State :=
      match (s.tile t).ldfeWaiter w a with
      | some (d, addr, _) => s.wakeLdfe t a d addr
      | none => s
    let s1 := plain.foldl wake s
    match first with
    | some a =>
      if ((s.tile t).badAt (16 * w) 16).isSome then .next (wake s1 a)
      else .next ((wake s1 a).modTile t fun tl => tl.setFe w false)
    | none => .next s1
  else .next s

/-! ## Record-relative access (R132) -/

/-- The bounds check of R132, then the address `base + X[b]`. -/
def State.recAccess (s : State) (a b : BitVec 5) (n : Nat) (k : W → State → Out) : Out :=
  if recCheck (s.recReg a) ∧ recExtent (s.recReg a) < (s.rx b).toNat + n then s.trap 0x05 (s.rx b)
  else k (BitVec.ofNat 64 (recBase (s.recReg a)) + s.rx b) s

/-- ldb (R132). -/
def execLdb (d a b : BitVec 5) (t : BitVec 3) (s : State) : Out :=
  s.onTile (wordOf (.ldb d a b t)) fun s =>
    s.recAccess a b (loadType t.toNat).1 fun A s => s.load d A (loadType t.toNat).1 (loadType t.toNat).2

/-- stb (R132). -/
def execStb (r a b : BitVec 5) (t : BitVec 3) (s : State) : Out :=
  s.onTile (wordOf (.stb r a b t)) fun s =>
    s.recAccess a b (2 ^ t.toNat) fun A s => s.store r A (2 ^ t.toNat)

/-! ## Loading and storing records (R203) -/

/-- bld (R203): the reserved bits are cleared. -/
def execBld (d a : BitVec 5) (i : BitVec 10) (s : State) : Out :=
  s.onTile (wordOf (.bld d a i)) fun s =>
    let A := s.eaRec a i
    s.checked A 32 fun s => s.readBytes A.toNat 32 fun bs s => (s.setRec d (recClean (leNat bs))).doneNop

/-- bst (R203). -/
def execBst (d a : BitVec 5) (i : BitVec 10) (s : State) : Out :=
  s.onTile (wordOf (.bst d a i)) fun s =>
    let A := s.eaRec a i
    s.checked A 32 fun s => s.storeBytes A.toNat (leBytes 32 (s.recReg d).toNat) fun s => s.doneNop

end Sys2Proof.Machine
end

