-- ==== Sys2Proof/Machine/Num.lean ====
section
/-! DEFINITION. Number formats and arithmetic (spec 02 R34-R56): exact values, the one rounding function, conversions,
stochastic rounding, block integers, and the lanes of a vector register (R63). -/

namespace Sys2Proof.Machine

/-! ## Exact values -/

/-- What a floating-point pattern stands for (R36-R38): a NaN, an infinity, or the exact dyadic
`(-1)^neg * m * 2^e`, whose zero keeps its sign. -/
inductive FVal where
  | nan
  | inf (neg : Bool)
  | fin (neg : Bool) (m : Nat) (e : Int)
  deriving DecidableEq, Repr, Inhabited

/-- A floating-point format (R36). `w` bits, `f` fraction bits, the bias, the exponent field and fraction of the largest
finite value, whether the format has infinities, and its canonical NaN if it has one (R38). -/
structure Fmt where
  w : Nat
  f : Nat
  bias : Nat
  emax : Nat
  fmax : Nat
  inf : Bool
  nan : Option Nat
  deriving DecidableEq, Repr, Inhabited

def fF32 : Fmt := ⟨32, 23, 127, 254, 0x7FFFFF, true, some 0x7FC00000⟩
def fBF16 : Fmt := ⟨16, 7, 127, 254, 0x7F, true, some 0x7FC0⟩
def fF16 : Fmt := ⟨16, 10, 15, 30, 0x3FF, true, some 0x7E00⟩
def fE5M2 : Fmt := ⟨8, 2, 15, 30, 3, true, some 0x7E⟩
def fE4M3 : Fmt := ⟨8, 3, 7, 15, 6, false, some 0x7F⟩
def fE3M2 : Fmt := ⟨6, 2, 3, 7, 3, false, none⟩
def fE2M3 : Fmt := ⟨6, 3, 1, 3, 7, false, none⟩
def fE2M1 : Fmt := ⟨4, 1, 1, 3, 1, false, none⟩

/-- The float type codes of the vector instructions: 0 F32, 1 BF16, 2 F16 (R72). -/
def vecFmt (t : Nat) : Fmt := if t = 0 then fF32 else if t = 1 then fBF16 else fF16

/-- The value of a pattern (R36). -/
def Fmt.val (fm : Fmt) (b : Nat) : FVal :=
  let s := bitOf b (fm.w - 1)
  let e := fld b fm.f (fm.w - 1 - fm.f)
  let fr := fld b 0 fm.f
  if fm.inf ∧ e = fm.emax + 1 then (if fr = 0 then .inf s else .nan)
  else if e = fm.emax ∧ fm.fmax < fr then .nan
  else if e = 0 then .fin s fr (1 - (fm.bias : Int) - fm.f)
  else .fin s (2 ^ fm.f + fr) ((e : Int) - fm.bias - fm.f)

/-- The pattern of a sign, an exponent field and a fraction. -/
def Fmt.pack (fm : Fmt) (s : Bool) (e fr : Nat) : Nat := s.toNat * 2 ^ (fm.w - 1) + e * 2 ^ fm.f + fr

/-- Plus or minus the largest finite value. -/
def Fmt.largest (fm : Fmt) (s : Bool) : Nat := fm.pack s fm.emax fm.fmax

/-- The rounding modes of R39, by their two-bit codes. -/
inductive RM where
  | rne | rtz | rup | rdn
  deriving DecidableEq, Repr, Inhabited

def RM.ofCode (c : Nat) : RM := if c = 0 then .rne else if c = 1 then .rtz else if c = 2 then .rup else .rdn

/-- The outcome of an overflow (R40, R41). -/
def Fmt.overflow (fm : Fmt) (rm : RM) (sat s : Bool) : Nat :=
  if sat then fm.largest s
  else if fm.inf then
    match rm with
    | .rne => fm.pack s (fm.emax + 1) 0
    | .rtz => fm.largest s
    | .rup => if s then fm.largest true else fm.pack false (fm.emax + 1) 0
    | .rdn => if s then fm.pack true (fm.emax + 1) 0 else fm.largest false
  else
    match fm.nan with
    | some n => n
    | none => fm.largest s

/-- An infinite source (R40, R41, R43). -/
def Fmt.ofInf (fm : Fmt) (sat s : Bool) : Nat :=
  if sat then fm.largest s
  else if fm.inf then fm.pack s (fm.emax + 1) 0
  else
    match fm.nan with
    | some n => n
    | none => fm.largest s

/-- The neighbour a mode chooses: `lo` and the remainder `rem` of a magnitude divided by `den` (R39). -/
def roundMag (rm : RM) (s : Bool) (lo rem den : Nat) : Nat :=
  if rem = 0 then lo
  else
    match rm with
    | .rne => if den < 2 * rem ∨ (2 * rem = den ∧ lo % 2 = 1) then lo + 1 else lo
    | .rtz => lo
    | .rup => if s then lo else lo + 1
    | .rdn => if s then lo + 1 else lo

/-- The exponent of the last place of a format at the magnitude m * 2^e, m ≠ 0: subnormal results keep their fixed
absolute spacing (R39). -/
def Fmt.quantum (fm : Fmt) (m : Nat) (e : Int) : Int :=
  max ((Nat.log2 m : Int) + e - fm.f) (1 - (fm.bias : Int) - fm.f)

/-- The pattern of the magnitude `mant * 2^q`, with `q` a quantum of the format; a magnitude above the largest finite
value gives `ovf`. -/
def Fmt.encode (fm : Fmt) (s : Bool) (mant : Nat) (q : Int) (ovf : Nat) : Nat :=
  if mant < 2 ^ fm.f then fm.pack s 0 mant
  else
    let up := 2 ^ (fm.f + 1) ≤ mant
    let mt := if up then mant / 2 else mant
    let ef := ((if up then q + 1 else q) + fm.f + fm.bias).toNat
    let fr := mt - 2 ^ fm.f
    if fm.emax < ef ∨ (ef = fm.emax ∧ fm.fmax < fr) then ovf else fm.pack s ef fr

/-- `Round(v, fmt, mode)` (R39-R41), as the pattern of the destination format. -/
def Fmt.round (fm : Fmt) (rm : RM) (sat : Bool) (v : FVal) : Nat :=
  match v with
  | .nan => fm.nan.getD 0
  | .inf s => fm.ofInf sat s
  | .fin s m e =>
    if m = 0 then fm.pack s 0 0
    else
      let q := fm.quantum m e
      let mant :=
        if q ≤ e then m * 2 ^ (e - q).toNat
        else
          let den := 2 ^ (q - e).toNat
          roundMag rm s (m / den) (m % den) den
      fm.encode s mant q (fm.overflow rm sat s)

/-- Stochastic rounding with the 16-bit draw `rnd` (R44). -/
def Fmt.roundSR (fm : Fmt) (rnd : Nat) (sat : Bool) (v : FVal) : Nat :=
  match v with
  | .nan => fm.nan.getD 0
  | .inf s => fm.ofInf sat s
  | .fin s m e =>
    if m = 0 then fm.pack s 0 0
    else
      let q := fm.quantum m e
      let mant :=
        if q ≤ e then m * 2 ^ (e - q).toNat
        else
          let den := 2 ^ (q - e).toNat
          if m % den = 0 then m / den
          else if rnd < (m % den) * 65536 / den then m / den + 1 else m / den
      fm.encode s mant q (fm.overflow .rne sat s)

/-! ## Exact arithmetic -/

/-- A signed integer times 2^e, with the sign a zero takes. -/
def FVal.ofInt (z : Bool) (n e : Int) : FVal :=
  if n = 0 then .fin z 0 0 else .fin (decide (n < 0)) n.natAbs e

/-- The signed significand of a finite value. -/
def signedMag (s : Bool) (m : Nat) : Int := if s then -(m : Int) else m

/-- IEEE addition before rounding; the mode decides the sign of an exact zero sum (R42). -/
def FVal.add (rm : RM) (x y : FVal) : FVal :=
  match x, y with
  | .nan, _ => .nan
  | _, .nan => .nan
  | .inf s, .inf t => if s = t then .inf s else .nan
  | .inf s, .fin _ _ _ => .inf s
  | .fin _ _ _, .inf t => .inf t
  | .fin s m e, .fin t n f =>
    let g := min e f
    let z : Bool := if m = 0 ∧ n = 0 ∧ s = t then s else decide (rm = .rdn)
    FVal.ofInt z (signedMag s (m * 2 ^ (e - g).toNat) + signedMag t (n * 2 ^ (f - g).toNat)) g

def FVal.neg : FVal → FVal
  | .nan => .nan
  | .inf s => .inf (!s)
  | .fin s m e => .fin (!s) m e

/-- The exact product; a product of zeros, or of a zero and a finite value, takes the XOR of the signs (R144). -/
def FVal.mul (x y : FVal) : FVal :=
  match x, y with
  | .nan, _ => .nan
  | _, .nan => .nan
  | .inf s, .inf t => .inf (s != t)
  | .inf s, .fin t n _ => if n = 0 then .nan else .inf (s != t)
  | .fin s m _, .inf t => if m = 0 then .nan else .inf (s != t)
  | .fin s m e, .fin t n f => .fin (s != t) (m * n) (e + f)

/-- The value times 2^k, exactly. -/
def FVal.scale (k : Int) : FVal → FVal
  | .nan => .nan
  | .inf s => .inf s
  | .fin s m e => .fin s m (e + k)

def FVal.isNaN : FVal → Bool
  | .nan => true
  | _ => false

def FVal.isZero : FVal → Bool
  | .fin _ m _ => decide (m = 0)
  | _ => false

def FVal.isNeg : FVal → Bool
  | .nan => false
  | .inf s => s
  | .fin s _ _ => s

/-- x < y as reals with infinities; -0 and +0 are equal here, NaN compares false. -/
def FVal.lt (x y : FVal) : Bool :=
  match x, y with
  | .nan, _ => false
  | _, .nan => false
  | .inf s, .inf t => s && !t
  | .inf s, .fin _ _ _ => s
  | .fin _ _ _, .inf t => !t
  | .fin s m e, .fin t n f =>
    let g := min e f
    decide (signedMag s (m * 2 ^ (e - g).toNat) < signedMag t (n * 2 ^ (f - g).toNat))

/-- x = y as reals with infinities; NaN equals nothing. -/
def FVal.eqv (x y : FVal) : Bool := !x.isNaN && !y.isNaN && !x.lt y && !y.lt x

/-- x orders below y for a minimum or maximum: -0 below +0 (R144). -/
def FVal.below (x y : FVal) : Bool := x.lt y || (x.isZero && y.isZero && x.isNeg && !y.isNeg)

/-- Minimum of two patterns as a bit copy, the canonical NaN if either is NaN (R144). -/
def Fmt.min (fm : Fmt) (a b : Nat) : Nat :=
  if (fm.val a).isNaN || (fm.val b).isNaN then fm.nan.getD 0 else if (fm.val b).below (fm.val a) then b else a

/-- Maximum of two patterns as a bit copy, the canonical NaN if either is NaN (R144). -/
def Fmt.max (fm : Fmt) (a b : Nat) : Nat :=
  if (fm.val a).isNaN || (fm.val b).isNaN then fm.nan.getD 0 else if (fm.val a).below (fm.val b) then b else a

/-- A finite value rounded to an integer under a mode (R43). -/
def roundInt (rm : RM) (s : Bool) (m : Nat) (e : Int) : Int :=
  if 0 ≤ e then signedMag s (m * 2 ^ e.toNat)
  else
    let den := 2 ^ (-e).toNat
    signedMag s (roundMag rm s (m / den) (m % den) den)

/-- Saturation to a range (R34). -/
def satInt (lo hi n : Int) : Int := if n < lo then lo else if hi < n then hi else n

/-- Float to a signed integer of `w` bits: round, then saturate; NaN gives 0 (R43). -/
def FVal.toS (w : Nat) (rm : RM) : FVal → Int
  | .nan => 0
  | .inf s => if s then -(2 ^ (w - 1) : Int) else 2 ^ (w - 1) - 1
  | .fin s m e => satInt (-(2 ^ (w - 1) : Int)) (2 ^ (w - 1) - 1) (roundInt rm s m e)

/-- An integer as an exact value. -/
def FVal.ofS (n : Int) : FVal := FVal.ofInt false n 0

/-! ## Reciprocals, square roots, powers and logarithms -/

/-- The integer square root, one bit at a time from bit `k - 1` down. -/
def isqrtBits (n : Nat) : Nat → Nat → Nat
  | 0, r => r
  | k + 1, r => let t := r + 2 ^ k; isqrtBits n k (if t * t ≤ n then t else r)

def isqrt (n : Nat) : Nat := isqrtBits n (Nat.log2 n / 2 + 1) 0

/-- 1/x, exact to a sticky last bit, so that every later rounding to at most 60 bits is correct (R156). -/
def FVal.rcp : FVal → FVal
  | .nan => .nan
  | .inf s => .fin s 0 0
  | .fin s m e =>
    if m = 0 then .inf s
    else
      let k := Nat.log2 m + 64
      let q := 2 ^ k / m
      .fin s (2 * q + (if q * m = 2 ^ k then 0 else 1)) (-(k : Int) - e - 1)

/-- 1/√x, exact to a sticky last bit (R156). -/
def FVal.rsqrt : FVal → FVal
  | .nan => .nan
  | .inf s => if s then .nan else .fin false 0 0
  | .fin s m e =>
    if m = 0 then .inf s
    else if s then .nan
    else
      let odd := e % 2 = 1
      let m' := if odd then 2 * m else m
      let e' := if odd then e - 1 else e
      let k := Nat.log2 m' + 64
      let y := isqrt (2 ^ (2 * k) / m')
      .fin false (2 * y + (if y * y * m' = 2 ^ (2 * k) then 0 else 1)) (-(k : Int) - e' / 2 - 1)

/-- EXPT[j], the integer nearest 2^62 * 2^(j/64) (R157). -/
def expT : List Nat :=
  [4611686018427387904, 4661903986662671290, 4712668792719003884, 4763986391269842979, 4815862801830788490, 4868304109465667592, 4921316465500308116, 4974906088244084429] ++
  [5029079263719320435, 5083842346398635251, 5139201759950318048, 5195163997991819502, 5251735624851448219, 5308923276338361494, 5366733660520940721, 5425173558513642752] ++
  [5484249825272419512, 5543969390398799154, 5604339258952723100, 5665366512274234280, 5727058308814112983, 5789421884973557729, 5852464555953009676, 5916193716610220111] ++
  [5980616842327661685, 6045741489889385141, 6111575298367424380, 6178125990017853852, 6245401371186603363, 6313409333225136570, 6382157853416100552, 6451654995909055045] ++
  [6521908912666391106, 6592927844419550153, 6664720121635655541, 6737294165494670078, 6810658488877194079, 6884821697363019841, 6959792490240559659, 7035579661527265796] ++
  [7112192101001162095, 7189638795243608238, 7267928828693418961, 7347071384712461870, 7427075746662858866, 7507951298995917514, 7589707528352920109, 7672354024677899536] ++
  [7755900482342532474, 7840356701283281883, 7925732588150922155, 8012038157472581778, 8099283532826439817, 8187478948029213993, 8276634748336579668, 8366761391656660532] ++
  [8457869449776733335, 8549969609603290562, 8643072674415606502, 8737189565132953757, 8832331321595618838, 8928509103859867100, 9025734193507008925, 9124017994966720698]

/-- C1, the integer nearest 2^62 ln 2 (R157). -/
def expC1 : Nat := 3196577161300663915
/-- C2, the integer nearest 2^62 (ln 2)^2 / 2 (R157). -/
def expC2 : Nat := 1107849223398934356
/-- C3, the integer nearest 2^62 (ln 2)^3 / 6 (R157). -/
def expC3 : Nat := 255967521894832113

/-- LOGT[j], the integer nearest 2^62 * log2(1 + j/64) (R158). -/
def logT : List Nat :=
  [0, 103153330606121625, 204731739545776358, 304782595603293869, 403351162126124447, 500480719981309593, 596212681665212875, 690586697319517456] ++
  [783640753332765648, 875411264141121919, 965933157783587320, 1055239955714717668, 1143363847331251474, 1230335759627285963, 1316185422355184002, 1400941429035756762] ++
  [1484631294131014398, 1567281506665531296, 1648917580557901400, 1729564101901571123, 1809244773414275253, 1887982456257138845, 1965799209408045220, 2042716326758930046] ++
  [2118754372093087486, 2193933212086227468, 2268272047463780046, 2341789442436693607, 2414503352528620721, 2486431150898841404, 2557589653257460679, 2627995141462265872] ++
  [2697663385880076776, 2766609666589412753, 2834848793495784858, 2902395125425853134, 2969262588262028797, 3035464692174811580, 3101014548006201223, 3165924882853879154] ++
  [3230208054902495130, 3293876067545289651, 3356940582836414350, 3419412934311659540, 3481304139212842424, 3542624910148834945, 3603385666224101885, 3663596543663664096] ++
  [3723267405961586381, 3782407853578403233, 3841027233211328250, 3899134646659635119, 3956738959306241175, 4013848808235260778, 4070472610004118119, 4126618568087710828] ++
  [4182294680011091174, 4237508744186174972, 4292268366467094717, 4346580966437978175, 4400453783446152532, 4453893882393043195, 4506908159294352029, 4559503346620458693]

/-- K, the integer nearest 2^62 * log2 e (R158). -/
def logK : Nat := 6653256548922161246
/-- `vexp2` of one lane (R157). -/
def exp2Val (x : FVal) : FVal :=
  match x with
  | .nan => .nan
  | .inf s => if s then .fin false 0 0 else .inf false
  | .fin s m e =>
    let u0 : Int := if 0 ≤ e + 32 then signedMag s (m * 2 ^ (e + 32).toNat) else signedMag s m / 2 ^ (-(e + 32)).toNat
    let u := satInt (-(256 * 2 ^ 32 : Int)) (256 * 2 ^ 32) u0
    let n := u / 2 ^ 32
    let f := (u - n * 2 ^ 32).toNat
    let j := f / 2 ^ 26
    let q := f % 2 ^ 26
    let p := 2 ^ 62 + expC1 * q / 2 ^ 32 + expC2 * q * q / 2 ^ 64 + expC3 * q * q * q / 2 ^ 96
    .fin false (expT.getD j 0 * p / 2 ^ 62) (n - 62)

/-- `vlog2` of one lane (R158). -/
def log2Val (x : FVal) : FVal :=
  match x with
  | .nan => .nan
  | .inf s => if s then .nan else .inf false
  | .fin s m e =>
    if m = 0 then .inf true
    else if s then .nan
    else
      let l : Nat := Nat.log2 m
      let mant : Nat := if l ≤ 23 then m * 2 ^ (23 - l) else m / 2 ^ (l - 23)
      let ex : Int := (l : Int) + e
      let j : Nat := mant / 2 ^ 17 - 64
      let dd : Nat := mant - (64 + j) * 2 ^ 17
      let lrcp : Nat := (2 * 2 ^ 68 + (64 + j)) / (2 * (64 + j))
      let z : Nat := dd * lrcp / 2 ^ 23
      let z2 : Nat := z * z / 2 ^ 62
      let z3 : Nat := z2 * z / 2 ^ 62
      let z4 : Nat := z3 * z / 2 ^ 62
      let sm : Int := (z : Int) - (z2 / 2 : Nat) + (z3 / 3 : Nat) - (z4 / 4 : Nat)
      let y : Int := ex * 2 ^ 62 + (logT.getD j 0 : Nat) + sm * (logK : Nat) / 2 ^ 62
      FVal.ofInt false y (-62)

/-! ## Block integers (R52-R56) -/

/-- The exponent field of an F32 pattern, 0xFF for NaN and infinities (R53). -/
def f32Exp (b : Nat) : Nat := fld b 23 8

/-- The exponent of a block of F32 patterns (R53). -/
def blockExp (l : List Nat) : Nat := l.foldl (fun a b => Nat.max a (f32Exp b)) 0

/-- One F32 lane as a block integer under exponent `E` and headroom `H` (R54). -/
def biOfF32 (E H : Nat) (b : Nat) : Int :=
  let L : Int := 2 ^ (31 - H) - 1
  if E = 0xFF then 0
  else
    match fF32.val b with
    | .nan => 0
    | .inf s => if s then -L else L
    | .fin s m e => satInt (-L) L (roundInt .rne s m (e + (30 - (H : Int) - ((E : Int) - 127))))

/-- One block integer lane as F32 under exponent `E` and headroom `H` (R55). -/
def f32OfBi (E H : Nat) (n : Int) : Nat :=
  if E = 0xFF then 0x7FC00000
  else fF32.round .rne false (FVal.ofInt false n ((E : Int) - 127 - 30 + H))

/-! ## Lanes (R63) -/

/-- Signed reading of a `w`-bit lane. -/
def sx (w n : Nat) : Int := sextNat w (n % 2 ^ w)

/-- The low `w` bits of an integer. -/
def wrapNat (w : Nat) (n : Int) : Nat := (n % 2 ^ w).toNat

/-- Lane `i` of width `w`. -/
def laneOf (w : Nat) (v : VReg) (i : Nat) : Nat := fld v.toNat (w * i) w

/-- All `512 / w` lanes. -/
def lanesOf (w : Nat) (v : VReg) : List Nat := (List.range (512 / w)).map (laneOf w v)

/-- Lanes packed into a natural number, lane 0 lowest. -/
def packLanes (w : Nat) : List Nat → Nat
  | [] => 0
  | x :: xs => x % 2 ^ w + 2 ^ w * packLanes w xs

/-- A vector register of lanes; lanes not given are 0. -/
def vOfLanes (w : Nat) (l : List Nat) : VReg := BitVec.ofNat 512 (packLanes w l)

/-- One lane replaced. -/
def setLane (w : Nat) (v : VReg) (i x : Nat) : VReg := vOfLanes w ((lanesOf w v).set i x)

/-- The width of lane code 0-3: 8, 16, 32, 64 bits (R72). -/
def widthOf (c : Nat) : Nat := 8 * 2 ^ c

end Sys2Proof.Machine
end

