-- ==== Sys2Proof/Machine/Sems.lean ====
section
/-! DEFINITION. The semaphores (R101-R109): the operations on a count, completions of engine operations, deferred causes,
and the meanings of major opcode 0x27 with the grants and the expiry of a limit. -/

namespace Sys2Proof.Machine

/-- A semaphore number as an index. -/
def semIx (k : Nat) : Fin 64 := ⟨k % 64, Nat.mod_lt _ (by decide)⟩

/-- The count of semaphore `k`. -/
def Tile.sem (tl : Tile) (k : Nat) : Nat := tl.cur.sems[semIx k].toNat

/-- The count of semaphore `k` set to the low 16 bits of a value. -/
def Tile.setSem (tl : Tile) (k v : Nat) : Tile :=
  { tl with cur := { tl.cur with sems := tl.cur.sems.set (semIx k) (BitVec.ofNat 16 v) } }

/-- Whether the engines of a tile may run: its compute phase, and no cause that abandons them (R169). -/
def Tile.enginesOn (tl : Tile) : Bool := decide (tl.node = .run) && !tl.stopping

/-- A wait of agent `a` has completed whose instruction the agent issues again: before it takes any deferred cause, whose `EPC` is then
the next instruction (R120). -/
def State.reissue (s : State) (t : Nat) (a : Fin 10) : State :=
  s.modTile t fun tl => tl.setAgent a { tl.cur.agents[a] with st := wakeState a, resuming := true, heldFrom := s.clk }

/-- A stall is over: the agent issues its instruction again, before it takes any deferred cause (R112, R120). -/
def Agent.unstalled (g : Agent) : Agent := if g.stalled then { g with stalled := false, resuming := true } else g

/-- The queue that an agent waits for has a place (R206, R242, R269). -/
def Tile.placeFor (tl : Tile) (a : Fin 10) : Bool :=
  if a.val < 8 then decide (tl.matQ.length < 16) else if a.val = 8 then decide (tl.haulQ.length < 16) else decide (tl.shapeQ.length < 8)

/-- An operation or a Firefly command of agent `a` has written or is gone. The stores held behind it perform; a hart that waits for its
operations leaves the wait when they have all completed; a strand that stalls behind a command issues its store again (R134, R227, R231). -/
def State.wakeDrain (s0 : State) (t : Nat) (a : Fin 10) : State :=
  let s := s0.flush t
  match ((s.tile t).cur.agents[a]).st with
  | .run => s.modTile t fun tl => tl.setAgent a (tl.cur.agents[a]).unstalled
  | .wait .drain =>
    let idle := if a.val < 8 then (s.openWrites t a (s.tile t).opSeq).isEmpty else if a.val = 8 then (s.tile t).haulQ.isEmpty && (s.tile t).haulStore.isEmpty else (s.tile t).shapeQ.isEmpty
    if idle then s.reissue t a else s
  | _ => s

/-- A `gld` of agent `a` of tile `t` is over: a service core that waits for it in `tlbinv` waits no longer for it, and goes on
when it waits for none (R370). -/
def State.gldGone (s : State) (t : Nat) (a : Nat) : State :=
  (List.finRange 2).foldl (fun s c =>
    let w : Who := .svc (dieOfTile t) c
    let g := s.agentOf w
    match g.st with
    | .wait (.tlbinv l) =>
      let l1 := l.filter fun q => !(decide (q.1 = t) && decide (q.2 = a))
      if l1.isEmpty then
        (s.setAgentOf w { g with st := .run, pc := g.pc + 4, heldFrom := s.clk }).retire w
      else s.setAgentOf w { g with st := .wait (.tlbinv l1) }
    | _ => s) s

/-- A deferred cause reaches agent `a` of tile `t` (R120). A waiting agent leaves its wait at the end of the 2 GHz cycle, unless
the wait completes in it; a parked one keeps the cause; for one that is synced, halted or ended, the tile records it. -/
def State.deferTo (s : State) (t : Nat) (a : Fin 10) (code : Nat) (faddr : W) : State :=
  let g := (s.tile t).cur.agents[a]
  match g.st with
  | .synced | .halt | .free => s.modTile t fun tl => tl.record ⟨code, none⟩
  | _ => s.modTile t fun tl => tl.setAgent a (g.defer code faddr)

/-- An engine operation of agent `a` completes and adds 1 to semaphore `k`; at 65,535 the count stays and cause 0x17 is
deferred to the agent (R101, R104). -/
def State.complete (s : State) (t k : Nat) (a : Fin 10) : State :=
  if (s.tile t).sem k = 65535 then s.deferTo t a 0x17 (BitVec.ofNat 64 k)
  else s.modTile t fun tl => tl.setSem k (tl.sem k + 1)

/-- Whether an agent waits for a unit of semaphore `k` (R102). -/
def Agent.wantsSem (g : Agent) (k : Nat) : Bool :=
  match g.st with
  | .wait (.semp j) => decide (j = k)
  | .wait (.sempt j _ _) => decide (j = k)
  | _ => false

/-- The agents that wait for a unit of semaphore `k`, in ascending index. -/
def Tile.semWaiters (tl : Tile) (k : Nat) : List (Fin 10) :=
  (List.finRange 10).filter fun a => (tl.cur.agents[a]).wantsSem k

/-- The count left after the grants of R102 step 4, which `semget` reads (R108). -/
def Tile.semAfterGrants (tl : Tile) (k : Nat) : Nat := tl.sem k - (tl.semWaiters k).length

/-- semv (R104): adds 1, or `X[a]`; a sum above 65,535 raises cause 0x17 and changes nothing. -/
def execSemv (a : BitVec 5) (k : BitVec 6) (s : State) : Out :=
  s.onTile (wordOf (.semv a k)) fun s => s.release fun s =>
    let n := if a = 0 then 1 else (s.rx a).toNat
    if 65535 < (s.tile s.here).sem k.toNat + n then s.trap 0x17 (BitVec.ofNat 64 k.toNat)
    else (s.modTile s.here fun tl => tl.setSem k.toNat (tl.sem k.toNat + n)).doneNop

/-- semp (R105): the agent waits at issue, whatever the count, until a grant. -/
def execSemp (k : BitVec 6) (s : State) : Out :=
  s.onTile (wordOf (.semp k)) fun s => s.waitOn (.semp k.toNat)

/-- sempt (R106): as `semp`, with a limit of `X[b]` clk from issue. -/
def execSempt (e b : BitVec 5) (k : BitVec 6) (s : State) : Out :=
  s.onTile (wordOf (.sempt e b k)) fun s => s.waitOn (.sempt k.toNat e (s.clk + (s.rx b).toNat))

/-- semset (R107): the count becomes bits [15:0] of `X[a]`. -/
def execSemset (a : BitVec 5) (k : BitVec 6) (s : State) : Out :=
  s.onTile (wordOf (.semset a k)) fun s => s.release fun s =>
    (s.modTile s.here fun tl => tl.setSem k.toNat ((s.rx a).toNat % 65536)).doneNop

/-- semget (R108): the count left after the grants of its cycle. -/
def execSemget (e : BitVec 5) (k : BitVec 6) (s : State) : Out :=
  s.onTile (wordOf (.semget e k)) fun s => s.doneX e (BitVec.ofNat 64 ((s.tile s.here).semAfterGrants k.toNat))

/-- The waiting agent's context when its wait on a semaphore is granted: a `sempt` writes 1 (R105, R106). -/
def Agent.granted (g : Agent) : Agent :=
  match g.st with
  | .wait (.sempt _ e _) => g.wx e 1
  | _ => g

/-- SEMAPHORE_GRANT (R102 step 4, R105, R106): one unit goes to the waiting agent of lowest index. -/
def execSemaphoreGrant (t k : Nat) (s : State) : Out :=
  if 0 < (s.tile t).sem k ∧ (s.tile t).node = .run then
    match (s.tile t).semWaiters k with
    | [] => .next s
    | a :: _ =>
      .next ((s.modTile t fun tl => tl.setSem k (tl.sem k - 1)).finishWait t a ((s.tile t).cur.agents[a]).granted)
  else .next s

/-- A `sempt` whose limit lies in the 2 GHz cycle of `clk`, or before it (R106). -/
def Agent.limitOver (g : Agent) (clk : Nat) : Option (Nat × BitVec 5) :=
  match g.st with
  | .wait (.sempt k e limit) => if limit / 2 ≤ clk / 2 then some (k, e) else none
  | _ => none

/-- SEMPT_EXPIRY (R106): the limit ends in this cycle and the grants of the cycle left the agent nothing: `X[e] <- 0`. -/
def execSemptExpiry (t a : Nat) (s : State) : Out :=
  if h : a < 10 then
    let i : Fin 10 := ⟨a, h⟩
    let g := (s.tile t).cur.agents[i]
    match g.limitOver s.clk with
    | some (k, e) =>
      if (s.tile t).sem k = 0 ∧ (s.tile t).node = .run then .next (s.finishWait t i (g.wx e 0)) else .next s
    | none => .next s
  else .next s

end Sys2Proof.Machine
end

