-- ==== Sys2Proof/Machine/Records.lean ====
section
/-! DEFINITION. Reading and writing tile memory through a buffer record (R200, R201, R243): the data bytes by record rows,
the elements of a format, and the checks of an engine operation's ranges. -/

namespace Sys2Proof.Machine

/-- The float format of a record format code, if it is one (R201). -/
def recFmt (f : Nat) : Option Fmt :=
  if f = 4 then some fF32 else if f = 5 then some fBF16 else if f = 6 then some fF16 else if f = 7 then some fE4M3
  else if f = 8 then some fE5M2 else if f = 9 then some fE2M1 else if f = 12 then some fE3M2 else if f = 13 then some fE2M3
  else none

/-- The data bytes of some runs. -/
def Tile.readRuns (tl : Tile) (l : List (Nat × Nat)) : List Byte := l.flatMap fun p => tl.tm.bytes p.1 p.2

/-- The first uncorrectable bank word under some runs (R100). -/
def Tile.badRuns (tl : Tile) (l : List (Nat × Nat)) : Option Nat := l.findSome? fun p => tl.badAt p.1 p.2

/-- Data bytes `j` to `j + n - 1` of a record. -/
def Tile.recBytes (tl : Tile) (r : Rec) (j n : Nat) : List Byte := tl.readRuns (runsOf r j n)

/-- Bytes laid over runs, in data order. -/
def layRuns : List (Nat × Nat) → List Byte → List (Nat × List Byte)
  | [], _ => []
  | (a, m) :: t, bs => (a, bs.take m) :: layRuns t (bs.drop m)

/-- Parts of one line each written in order, up to the first line the version store has no room for (R94, R95): the tile, and
the parts that were not written. -/
def Tile.layParts (tl : Tile) : List (Nat × List Byte) → Tile × List (Nat × List Byte)
  | [] => (tl, [])
  | (a, bs) :: t =>
    match tl.put a bs with
    | some tl' => tl'.layParts t
    | none => (tl, (a, bs) :: t)

/-- The bank words under a range become full where `ok` says that no byte of theirs is still to land (R96). -/
def Tile.fillWhere (tl : Tile) (ok : Nat → Bool) (a n : Nat) : Tile :=
  (List.range ((a + n + 15) / 16 - a / 16)).foldl (fun t i => if ok (a / 16 + i) then t.setFe (a / 16 + i) true else t) tl

/-- An engine has written some runs: a bank word that they cover together is one write of the whole word, with a fresh code (R224, R432).
In the staging of a launch a word keeps the poison that another chunk of its bytes brought (R434). -/
def Tile.freshCodes (tl : Tile) (l : List (Nat × Nat)) : Tile :=
  { tl with bad := tl.bad.filter fun w => !coversWord l w, poison := tl.poison.filter fun w => tl.launching || !coversWord l w }

/-- Runs written in order by an engine that has written those of `before` and is still to write the bytes of `later`; stops at the first line the version store
has no room for, and says its first address (R95). A bank word becomes full when every byte that the engine writes to it has
landed (R96). -/
def Tile.fillRunsBut (tl : Tile) (before later : List (Nat × Nat)) (l : List (Nat × List Byte)) : Tile × Option Nat :=
  let parts := l.flatMap fun p => splitLines (p.2.length / 64 + 2) p.1 p.2
  let r := tl.layParts parts
  let left := r.2.map (fun p => (p.1, p.2.length)) ++ later
  let done := (parts.take (parts.length - r.2.length)).map fun p => (p.1, p.2.length)
  (done.foldl (fun t p => t.fillWhere (clearOf left) p.1 p.2) (r.1.freshCodes (done ++ before)),
    r.2.head?.map fun p => 64 * (p.1 / 64))

/-- Runs written in order by an engine that has no other to write. -/
def Tile.fillRuns (tl : Tile) (l : List (Nat × List Byte)) : Tile × Option Nat := tl.fillRunsBut [] [] l

/-- A part put behind those of its own line and of lower ones. -/
def intoLine (p : Nat × List Byte) : List (Nat × List Byte) → List (Nat × List Byte)
  | [] => [p]
  | q :: t => if q.1 / 64 ≤ p.1 / 64 then q :: intoLine p t else p :: q :: t

/-- Runs as parts of one line each, line by ascending line, those of one line in their order (R280). -/
def byLine (l : List (Nat × List Byte)) : List (Nat × List Byte) :=
  (l.flatMap fun p => splitLines (p.2.length / 64 + 2) p.1 p.2).foldl (fun q p => intoLine p q) []

/-- The first tile address above 0x1EFFFF among some runs, in data order (R90, R205). -/
def firstOut (l : List (Nat × Nat)) : Option Nat :=
  l.findSome? fun p => if p.1 + p.2 ≤ Config.tmSize ∨ p.2 = 0 then none else some (Nat.max p.1 Config.tmSize)

/-- The first run start that is not a multiple of the element size, in data order. -/
def firstOdd (sz : Nat) (l : List (Nat × Nat)) : Option Nat :=
  l.findSome? fun p => if p.1 % sz = 0 then none else some p.1

/-- Bytes as elements of `bits` bits: 4-bit elements low nibble first (R35). -/
def elemsOf (bits : Nat) (bs : List Byte) : List Nat :=
  if bits = 4 then bs.flatMap fun b => [b.toNat % 16, b.toNat / 16]
  else (List.range (bs.length / (bits / 8))).map fun i => leNat ((bs.drop (i * (bits / 8))).take (bits / 8))

/-- Elements of 4 bits packed two to a byte; an odd last one beside the given high nibble (R35, R243). -/
def packNibbles (hi : Nat) : List Nat → List Byte
  | [] => []
  | [x] => [BitVec.ofNat 8 (x % 16 + 16 * hi)]
  | x :: y :: t => BitVec.ofNat 8 (x % 16 + 16 * (y % 16)) :: packNibbles hi t

/-- Elements as bytes; `hi` is the nibble kept beside an odd last half-byte element. -/
def bytesOfElems (bits hi : Nat) (l : List Nat) : List Byte :=
  if bits = 4 then packNibbles hi l else l.flatMap fun x => leBytes (bits / 8) x

/-- Elements of a fixed size taken from bytes, one pass (the same as `elemsOf` for whole-byte elements). -/
def chunksNat (sz : Nat) : Nat → List Byte → List Nat
  | 0, _ => []
  | n + 1, bs => leNat (bs.take sz) :: chunksNat sz n (bs.drop sz)

/-- The elements of data bytes `0` to `n - 1` of a record, by its own format. -/
def Tile.recElems (tl : Tile) (r : Rec) (n : Nat) : List Nat :=
  let bs := tl.recBytes r 0 n
  let bits := elBits (recFormat r)
  if bits = 4 then elemsOf 4 bs else chunksNat (bits / 8) (n / (bits / 8)) bs

end Sys2Proof.Machine
end

