-- ==== Sys2Proof/Machine/Hbm.lean ====
section
/-! DEFINITION. HBM by physical address: interleave, banks and rows, uncorrectable words and their records, physical access by
firmware, page migration and repair (R380-R387, R433). -/

namespace Sys2Proof.Machine

/-- The first physical address past the module's HBM (R361). -/
def hbmTop : Nat := 0xC000000000

/-- The scheme of interleave region `g` on a die (R381, R387). -/
def MemCtl.scheme (mc : MemCtl) (g : Nat) : Nat := (mc.ilmap[g / 16 % 3]'(Nat.mod_lt _ (by decide))).fld (4 * (g % 16)) 3

/-- The first reserved interleave region (R381). -/
def MemCtl.firstReserved (mc : MemCtl) : Nat := 48 - mc.rsvN.toNat

/-- The pseudo-channel, counted over the module, of byte `o` of a region under scheme `il`, and its offset in the channel's
share (R382). -/
def placeOf (il o : Nat) : Nat × Nat :=
  let spread (s g c : Nat) : Nat × Nat :=
    let i := o % s / g
    (c * (o / s) + i % c, i / c * g + o % s % g)
  if il = 0 then spread (2 ^ 34) 256 4096
  else if il = 1 then spread (2 ^ 30) 256 256
  else if il = 2 then spread (2 ^ 30) 2048 256
  else if il = 3 then spread (2 ^ 28) 8192 64
  else if il = 4 then spread (2 ^ 26) 65536 16
  else if il = 5 then spread (2 ^ 24) 16384 4
  else (o / 2 ^ 22, o % 2 ^ 22)

/-- The home of a byte, as a die of its module (R383). -/
def homeOf (il pa : Nat) : Nat := (placeOf il (pa % 2 ^ 34)).1 / 256

/-- The bank and the row of offset `o` in the share of region `g` (R433). -/
def bankRow (il g o : Nat) : Nat × Nat :=
  let base := 512 * (g / 8)
  if il = 7 then (4 * ((2 * g + fld o 21 1) % 16) + fld o 10 2, base + fld o 12 9)
  else (4 * ((2 * g + fld o 12 1) % 16) + fld o 10 2, base + fld o 13 9)

/-- An uncorrectable word at a physical address is logged at its home (R386, R387): a record of the channel, stack, bank and
row in a queue of 16. The scheme is that of the die that read it. -/
def State.logHbm (s : State) (d pa : Nat) : State :=
  let g := pa / 2 ^ 34
  let il := (s.die d).mc.scheme g
  let p := placeOf il (pa % 2 ^ 34)
  let br := bankRow il g p.2
  let stack := p.1 / 256
  let r : W := BitVec.ofNat 64 (p.1 % 256 + stack * 2 ^ 8 + br.1 * 2 ^ 12 + br.2 * 2 ^ 18 + 2 ^ 63)
  s.modDie (16 * modOfDie d + stack) fun x =>
    if x.mc.hbmerr.length < 16 then { x with mc := { x.mc with hbmerr := x.mc.hbmerr ++ [r] } } else x

/-- Every uncorrectable word that a read of `n` bytes meets is logged (R386). -/
def State.logBad (s : State) (d m pa n : Nat) : State :=
  (badIn 8 (s.module m).badHbm pa n).foldl (fun s w => s.logHbm d (8 * w)) s

/-- Bytes of a module's HBM. -/
def State.hbm (s : State) (m pa n : Nat) : List Byte := (s.module m).hbm.bytes pa n

/-- The number in bytes of a module's HBM. -/
def State.hbmNat (s : State) (m pa n : Nat) : Nat := (s.module m).hbm.nat pa n

/-- The first uncorrectable 8-byte word a read meets (R386). -/
def State.hbmBad (s : State) (m pa n : Nat) : Option Nat := badHit 8 (s.module m).badHbm pa n

/-- Bytes of a module's HBM as a read finds them: those of an uncorrectable word are unspecified (R386). -/
def State.hbmSeen (s : State) (m pa n : Nat) : List Byte :=
  (s.hbm m pa n).zipIdx.map fun q =>
    if (s.module m).badHbm.contains ((pa + q.2) / 8) then Config.freeByte s.free (pa + q.2) else q.1

/-- The state after a read of bytes as `hbmSeen` gives them: every uncorrectable word is logged (R386). -/
def State.noteRead (s : State) (d m pa n : Nat) : State :=
  if (s.hbmBad m pa n).isNone then s else { s with free := s.free + 1 }.logBad d m pa n

/-- The state as a unit reads its tables in HBM: the bytes of uncorrectable words are unspecified (R386). -/
def State.seenHbm (s : State) (m : Nat) : State :=
  if (s.module m).badHbm.isEmpty then s
  else s.modModule m fun x => { x with hbm := x.badHbm.foldl (fun h w => h.forget (8 * w) 8 s.free) x.hbm }

/-- Bytes written to a module's HBM; a whole code word gets a fresh code (R386). -/
def State.setHbm (s : State) (m pa : Nat) (bs : List Byte) : State :=
  s.modModule m fun x => { x with hbm := x.hbm.write pa bs, badHbm := badAfter 8 x.badHbm pa bs.length }

/-! ## The fault pool (R373) -/

/-- The physical address of a slot (R373). -/
def MemCtl.slotPa (mc : MemCtl) (k : Nat) : Nat := mc.fqBase.toNat + 32 * k

/-- A pool of 64 × 2^`sz` slots at `base` lies in a reserved interleave region (R373, R381). -/
def MemCtl.poolFits (mc : MemCtl) (base sz : Nat) : Bool :=
  decide (base + 2048 * 2 ^ sz ≤ hbmTop) && decide (mc.firstReserved ≤ base / 2 ^ 34)

/-- The pool as `FQBASE` and `RSVREG` have it now keeps what R373 and R387 ask of it. -/
def MemCtl.poolOk (mc : MemCtl) : Bool := decide (mc.fqBase.toNat % 4096 = 0) && mc.poolFits mc.fqBase.toNat mc.fqSz.toNat

/-- The record in slot `k` is unspecified: it was posted in, or is in, a pool that breaks R373 (R1, R2). -/
def MemCtl.recordLost (mc : MemCtl) (k : Nat) : Bool := !mc.poolOk || mc.lostSlots.contains k

/-- A write of `RSVREG`: the records of a pool that it leaves outside the reserved regions are unspecified from then on (R1, R373). -/
def MemCtl.setReserve (mc : MemCtl) (n : BitVec 6) : MemCtl :=
  let mc1 := { mc with rsvN := n }
  { mc1 with lostSlots := if mc1.poolOk then mc1.lostSlots else mc1.busySlots }

/-! ## Physical access (R380) -/

/-- `PHYSA` after an access: 8 added, within its 40 bits. -/
def MemCtl.nextPhys (mc : MemCtl) : MemCtl := { mc with physa := mc.physa + 8 }

/-- Some of the 8 bytes at `pa` lie in a slot whose record is unspecified. -/
def MemCtl.lostAt (mc : MemCtl) (pa : Nat) : Bool :=
  mc.busySlots.any fun k => mc.recordLost k && decide (mc.slotPa k < pa + 8) && decide (pa < mc.slotPa k + 32)

/-- A read of `PHYSD`: the 8 bytes as applied; of an uncorrectable word, of an unspecified record, or of an address with no storage, a
free value. -/
def State.physdRead (s : State) (d : Nat) : W × State :=
  let m := modOfDie d
  let pa := (s.die d).mc.physa.toNat
  let setUe (s : State) (b : Bool) : State := s.modDie d fun x => { x with mc := { x.mc.nextPhys with physUE := b } }
  if hbmTop ≤ pa ∨ (s.die d).mc.lostAt pa = true then (Config.freeBits 64 s.free, setUe { s with free := s.free + 1 } false)
  else
    match s.hbmBad m pa 8 with
    | some _ => (Config.freeBits 64 s.free, setUe ({ s with free := s.free + 1 }.logHbm d pa) true)
    | none => (BitVec.ofNat 64 (s.hbmNat m pa 8), setUe s false)

/-- A write of `PHYSD`: 8 bytes at once. -/
def State.physdWrite (s : State) (d : Nat) (v : W) : State :=
  let pa := (s.die d).mc.physa.toNat
  (if hbmTop ≤ pa then s else s.setHbm (modOfDie d) pa (leBytes 8 v.toNat)).modDie d fun x => { x with mc := x.mc.nextPhys }

/-- PHYSD_READ (R380): a read of `PHYSD` that does not trap. -/
def execPhysdRead (d : Nat) (s : State) : Out :=
  if (s.die d).mc.physa.toNat % 8 ≠ 0 then .next s else .next (s.physdRead d).2

/-- PHYSD_WRITE (R380): a write of `PHYSD` that does not trap. -/
def execPhysdWrite (d : Nat) (v : W) (s : State) : Out :=
  if (s.die d).mc.physa.toNat % 8 ≠ 0 then .next s else .next (s.physdWrite d v)

/-! ## Fault pool base, migration, repair, error log (R373, R384, R385, R387) -/

/-- A write of `FQBASE`: ignored while a record is outstanding. Bits [11:0] of `BASE` must be 0, and the pool must lie in a reserved
region; a write that breaks a rule leaves `BASE` unspecified (R1, R2, R373, R387). -/
def State.fqbaseWrite (s : State) (d : Nat) (v : W) : State :=
  if (s.die d).mc.busySlots.isEmpty then
    let ok := decide (v.fld 0 12 = 0) && (s.die d).mc.poolFits (v.fld 0 40) (v.fld 40 4)
    let base := if ok then BitVec.ofNat 40 (v.fld 0 40) else Config.freeBits 40 s.free
    { s with free := s.free + 1 }.modDie d fun x => { x with mc := { x.mc with
      fqBase := base, fqSz := BitVec.ofNat 4 (v.fld 40 4), popped := [], lostSlots := [] } }
  else s

/-- A write of `ILMAPn`: the data of a region whose scheme changes is unspecified from then on (R1, R381). -/
def State.ilmapWrite (s : State) (d : Nat) (n : Fin 3) (v : W) : State :=
  let new : W := v &&& 0x7777777777777777#64
  let old := (s.die d).mc.ilmap[n]
  let changed := (List.range 16).filter fun j => decide (old.fld (4 * j) 3 ≠ new.fld (4 * j) 3)
  let s1 := s.modDie d fun x => { x with mc := { x.mc with ilmap := x.mc.ilmap.set n new } }
  if changed.isEmpty then s1
  else
    { s1 with free := s1.free + 1 }.modModule (modOfDie d) fun x => { x with
      hbm := changed.foldl (fun h j => h.forget ((16 * n.val + j) * 2 ^ 34) (2 ^ 34) s1.free) x.hbm }

/-- FQBASE_WRITE (R387). -/
def execFqbaseWrite (d : Nat) (v : W) (s : State) : Out := .next (s.fqbaseWrite d v)

/-- Whether a move of a chunk may start (R384): no move runs, the table has a free entry, and the destination is storage of a
reserved region or was vacated by an earlier move. -/
def MemCtl.moveOk (mc : MemCtl) (sc dp dc : Nat) : Bool :=
  decide (sc < 3072) && decide (dc < 3072) && !mc.migBusy && decide (mc.migTable.length < 256) &&
    (decide (mc.firstReserved ≤ dc / 64) || mc.migTable.any fun e => decide (e.1 = dp) && decide (e.2.1 = dc))

/-- The offset in its region of the byte at offset `off` of the share of pseudo-channel `p` under scheme `il`: the inverse of
`placeOf` (R382). -/
def placeBack (il p off : Nat) : Nat :=
  let spread (s g c : Nat) : Nat := s * (p / c) + (off / g * c + p % c) * g + off % g
  if il = 0 then spread (2 ^ 34) 256 4096
  else if il = 1 then spread (2 ^ 30) 256 256
  else if il = 2 then spread (2 ^ 30) 2048 256
  else if il = 3 then spread (2 ^ 28) 8192 64
  else if il = 4 then spread (2 ^ 26) 65536 16
  else if il = 5 then spread (2 ^ 24) 16384 4
  else p * 2 ^ 22 + off

/-- The physical addresses of a chunk of pseudo-channel `pc` of the stack of die `d`, in pieces of 256 bytes (R382, R384). -/
def MemCtl.chunkPas (mc : MemCtl) (d pc chunk : Nat) : List Nat :=
  let g := chunk / 64
  (List.range 256).map fun i => g * 2 ^ 34 + placeBack (mc.scheme g) (256 * (d % 16) + pc) (chunk % 64 * 65536 + 256 * i)

/-- The physical addresses of row `row` of bank `bank` of pseudo-channel `pc` of the stack of die `d`, in pieces of 256 bytes: the inverse
of `bankRow` (R382, R385, R433). -/
def MemCtl.rowPas (mc : MemCtl) (d pc bank row : Nat) : List Nat :=
  let g := 8 * (row / 512) + bank / 8
  let il := mc.scheme g
  let off := if il = 7 then bank / 4 % 2 * 2 ^ 21 + row % 512 * 2 ^ 12 + bank % 4 * 2 ^ 10
    else row % 512 * 2 ^ 13 + bank / 4 % 2 * 2 ^ 12 + bank % 4 * 2 ^ 10
  if 48 ≤ g then [] else (List.range 4).map fun i => g * 2 ^ 34 + placeBack il (256 * (d % 16) + pc) (off + 256 * i)

/-- A region launches while remaps of rows that a reset dropped are not replayed, which firmware must do before: the data of these rows is
unspecified from then on (R1, R385). -/
def State.loseRows (s : State) (m : Nat) : State :=
  let l := (s.module m).unrepaired
  if l.isEmpty then s
  else
    { s with free := s.free + 1 }.modModule m fun x => { x with
      unrepaired := []
      hbm := l.foldl (fun h (q : Nat × Nat × Nat × Nat) => ((s.die q.1).mc.rowPas q.1 q.2.1 q.2.2.1 q.2.2.2).foldl (fun h pa => h.forget pa 256 s.free) h) x.hbm }

/-- A write of `MIGCTL` (R384, R387). -/
def State.migctlWrite (s : State) (d : Nat) (v : W) : State :=
  s.modDie d fun x =>
    let mc := { x.mc with migCtl := BitVec.ofNat 40 (v.fld 0 40) }
    { x with mc :=
        if v.fld 63 1 = 0 then mc
        else if mc.moveOk (v.fld 0 12) (v.fld 32 8) (v.fld 20 12) then
          { mc with migMove := mc.migCtl, migBusy := true, migRefused := false }
        else { mc with migRefused := true } }

/-- MIGRATION_START (R384): a write of `MIGCTL` with `GO`. -/
def execMigrationStart (d : Nat) (v : W) (s : State) : Out := .next (s.migctlWrite d (v ||| 0x8000000000000000#64))

/-- The bytes of a chunk that a reset cut off from its moved storage are there again once its move is replayed (R384). -/
def State.replayMove (s : State) (d : Nat) (e : Nat × Nat × Nat × Nat) : State :=
  let m := modOfDie d
  match (s.module m).unreplayed.find? fun q => decide (q.die = d) && decide (q.entry = e) with
  | none => s
  | some q =>
    s.modModule m fun x => { x with
      hbm := q.data.foldl (fun h p => h.write p.1 p.2) x.hbm
      unreplayed := x.unreplayed.filter fun r => decide (r ≠ q) }

/-- The data of a chunk whose storage another move has taken is unspecified (R384, R2). -/
def State.forgetChunk (s : State) (d pc chunk : Nat) : State :=
  { s with free := s.free + 1 }.modModule (modOfDie d) fun x => { x with
    hbm := ((s.die d).mc.chunkPas d pc chunk).foldl (fun h pa => h.forget pa 256 s.free) x.hbm }

/-- MIGRATION_DONE (R384): the copy of the move that was started ends; the table names the new storage, or the entry of a chunk
moved back is free. A chunk that was moved to the same storage before loses its data. -/
def execMigrationDone (d : Nat) (s : State) : Out :=
  let mc := (s.die d).mc
  if !mc.migBusy then .next s
  else
    let v := mc.migMove.toNat
    let sc := fld v 0 12
    let sp := fld v 12 8
    let dc := fld v 20 12
    let dp := fld v 32 8
    let rest := mc.migTable.filter fun e => !(decide (e.1 = sp) && decide (e.2.1 = sc))
    let s1 := s.modDie d fun x => { x with mc := { x.mc with
      migBusy := false
      migTable := if sp = dp ∧ sc = dc then rest else rest ++ [(sp, sc, dp, dc)] } }
    let lost := rest.filter fun e => decide (e.2.2 = (dp, dc))
    .next ((lost.foldl (fun s e => s.forgetChunk d e.1 e.2.1) s1).replayMove d (sp, sc, dp, dc))

/-- A write of `PPRCTL` (R385, R387). A start while a repair runs is ignored. -/
def State.pprctlWrite (s : State) (d : Nat) (v : W) : State :=
  s.modDie d fun x =>
    if x.mc.pprBusy then x
    else { x with mc := { x.mc with pprCtl := BitVec.ofNat 30 (v.fld 0 30), pprBusy := decide (v.fld 63 1 = 1) } }

/-- PPR_START (R385): a write of `PPRCTL` with `GO`. -/
def execPprStart (d : Nat) (v : W) (s : State) : Out := .next (s.pprctlWrite d (v ||| 0x8000000000000000#64))

/-- HBMERR read (R387): the oldest record, removed; 0 when there is none. -/
def State.hbmerrRead (s : State) (d : Nat) : W × State :=
  match (s.die d).mc.hbmerr with
  | [] => (0, s)
  | r :: rest => (r, s.modDie d fun x => { x with mc := { x.mc with hbmerr := rest } })

/-- HBMERR_READ (R387). -/
def execHbmerrRead (d : Nat) (s : State) : Out := .next (s.hbmerrRead d).2

end Sys2Proof.Machine
end

