-- ==== Sys2Proof/Machine/Translation.lean ====
section
/-! DEFINITION. Translation and faults (R361-R379): the TLBs, `gld`, `tlbw` and `tlbinv`, fault records and their resumption. -/

namespace Sys2Proof.Machine

/-! ## TLB entries (R364) -/

/-- The number of offset bits of an entry's page: 16, 21 or 28 (R361). -/
def Tlbe.bits (e : Tlbe) : Nat := if e.entry.fld 5 2 = 0 then 16 else if e.entry.fld 5 2 = 1 then 21 else 28
/-- `SPACE`. -/
def Tlbe.space (e : Tlbe) : Nat := e.tag.fld 52 12
/-- First virtual address of the page. -/
def Tlbe.va (e : Tlbe) : Nat := e.tag.fld 16 36 * 2 ^ 16
/-- First physical address of the frame. -/
def Tlbe.pa (e : Tlbe) : Nat := e.entry.fld 16 24 * 2 ^ 16
/-- `PRES`. -/
def Tlbe.pres (e : Tlbe) : Bool := bitOf e.entry.toNat 2
/-- `R`. -/
def Tlbe.r (e : Tlbe) : Bool := bitOf e.entry.toNat 3
/-- `W`. -/
def Tlbe.w (e : Tlbe) : Bool := bitOf e.entry.toNat 4
/-- `IL`. -/
def Tlbe.il (e : Tlbe) : Nat := e.entry.fld 7 3
/-- `OWNER`. -/
def Tlbe.owner (e : Tlbe) : Nat := e.entry.fld 40 20

/-- Whether the entry translates an address of a space. -/
def Tlbe.hits (e : Tlbe) (space va : Nat) : Bool := decide (e.space = space) && decide (va / 2 ^ e.bits = e.va / 2 ^ e.bits)

/-- Whether the pages of two entries of one space overlap (R365). -/
def Tlbe.overlaps (e f : Tlbe) : Bool :=
  decide (e.space = f.space) && decide (e.va < f.va + 2 ^ f.bits) && decide (f.va < e.va + 2 ^ e.bits)

/-- The outcome of a translation (R362, R363). -/
inductive Xlat where
  | miss
  | denied
  | unmapped
  | ok (pa il : Nat)
  deriving DecidableEq, Repr, Inhabited

/-- An entry copied into an L1 of 32 entries, in the place of the one written earliest (R363). -/
def Tile.fillL1 (tl : Tile) (e : Tlbe) : Tile :=
  { tl with l1 := if 32 ≤ tl.l1.length then tl.l1.drop 1 ++ [e] else tl.l1 ++ [e] }

/-- The lookup of R363 for tile `t`: the entry, the LLT's copied into the L1. -/
def State.lookup (s : State) (t va : Nat) : Option Tlbe × State :=
  let tl := s.tile t
  match tl.l1.find? fun e => e.hits tl.space.toNat va with
  | some e => (some e, s)
  | none =>
    match (s.die (dieOfTile t)).mc.llt.find? fun q => q.2.hits tl.space.toNat va with
    | some q => (some q.2, s.modTile t fun x => x.fillL1 q.2)
    | none => (none, s)

/-- The translation of an address for a read, or for a delta (`w`), with the permissions of R362 in order. -/
def State.xlat (s : State) (t va : Nat) (w : Bool) : Xlat × State :=
  match s.lookup t va with
  | (none, s1) => (.miss, s1)
  | (some e, s1) =>
    let allowed := if w then e.w && decide (e.owner = (s.tile t).region.toNat) else e.r
    (if !allowed then .denied else if !e.pres then .unmapped else .ok (e.pa + va % 2 ^ e.bits) e.il, s1)

/-! ## Fault records (R371-R375) -/

/-- A stop noted for its fault record (R371); FAULT_RECORD_POST posts it. -/
def State.addStop (s : State) (t : Nat) (f : FaultStop) : State :=
  s.modDie (dieOfTile t) fun x => { x with mc := { x.mc with stops := x.mc.stops ++ [f] } }

/-- The stop of agent `a` of tile `t` at `va`. -/
def State.stopOf (s : State) (t cause agent kind opslot va cursor : Nat) (opId : Option Nat) : FaultStop :=
  let tl := s.tile t
  { cause := cause, agent := agent, kind := kind, opslot := opslot, tile := t,
    va := va, space := tl.space.toNat, cursor := cursor, region := tl.region.toNat, ssn := tl.ssnum.toNat, opId := opId,
    cycle := s.clk / 2 }

/-- The order of R373: the cycle, then tile, agent and slot. -/
def FaultStop.key (f : FaultStop) : Nat := ((f.cycle * 64 + f.tile % 64) * 16 + f.agent) * 16 + f.opslot

/-- The stop to post next. -/
def firstStop : List FaultStop → Option FaultStop
  | [] => none
  | f :: t =>
    match firstStop t with
    | none => some f
    | some g => if g.key < f.key then some g else some f

/-- The number of slots of the pool (R373). -/
def MemCtl.poolSize (mc : MemCtl) : Nat := 64 * 2 ^ mc.fqSz.toNat

/-- The lowest free slot (R373). -/
def MemCtl.freeSlot (mc : MemCtl) : Option Nat :=
  (List.range (mc.busySlots.length + 1)).find? fun k => decide (k < mc.poolSize) && !mc.busySlots.contains k

/-- The 32 bytes of a record (R372), posted while `FMODE.REC` is `recMode`. -/
def FaultStop.bytes (f : FaultStop) (recMode : Bool) : List Byte :=
  leBytes 8 (f.cause + f.agent * 2 ^ 8 + f.kind * 2 ^ 12 + recMode.toNat * 2 ^ 15 + f.opslot * 2 ^ 16 + f.tile * 2 ^ 20 +
      (if f.cause = 0x08 then 2 ^ 61 else 0) + 2 ^ 63) ++
    leBytes 8 (f.va % 2 ^ 52 + f.space * 2 ^ 52) ++ leBytes 8 (f.cursor % 2 ^ 32 + f.region * 2 ^ 32) ++ leBytes 8 f.ssn

/-- An operation leaves the queue (R206). -/
def Tile.dropOp (tl : Tile) (o : Nat) : Tile := { tl with haulQ := tl.haulQ.filter fun x => decide (x.id ≠ o) }

/-- An operation that waits in the queue for the store moves into a free place of it (R374). -/
def Tile.promote (tl : Tile) : Tile :=
  match tl.haulQ.find? fun x => decide (x.status = .storing) with
  | some x => if tl.haulStore.length < 16 then { tl.dropOp x.id with haulStore := tl.haulStore ++ [{ x with status := .suspended }] } else tl
  | none => tl

/-- The suspended operation is bound to slot `k` of its die; with a record of the recovery mode it leaves the queue for the
store, once that has a place (R374). -/
def Tile.bindSlot (tl : Tile) (op k : Nat) (recMode : Bool) : Tile :=
  let f (o : HaulOp) : HaulOp :=
    if o.id = op then { o with fslot := some k, status := if recMode then .storing else o.status } else o
  ({ tl with haulQ := tl.haulQ.map f } : Tile).promote

/-- A record written whole into slot `k` of die `d`. In a pool that breaks R373 it is unspecified, and no byte outside the reserved regions
changes (R1). -/
def State.postRecord (s : State) (d k : Nat) (bs : List Byte) : State :=
  let mc := (s.die d).mc
  if mc.poolOk then s.setHbm (modOfDie d) (mc.slotPa k) bs
  else if mc.poolFits (mc.slotPa k) 0 then
    { s with free := s.free + 1 }.modModule (modOfDie d) fun x => { x with hbm := x.hbm.forget (mc.slotPa k) 32 s.free }
  else s

/-- FAULT_RECORD_POST (R371-R373): the next stop of a die takes the lowest free slot, is written whole, and joins its queue. -/
def execFaultRecordPost (d : Nat) (s : State) : Out :=
  let mc := (s.die d).mc
  match firstStop (mc.stops.filter fun f => decide (f.cycle < s.clk / 2)), mc.freeSlot with
  | some f, some k =>
    let s1 := s.postRecord d k (f.bytes mc.fmodeRec)
    let s2 := s1.modDie d fun x => { x with mc := { x.mc with
      stops := x.mc.stops.erase f
      busySlots := natInsert x.mc.busySlots k
      slotTiles := kvSet x.mc.slotTiles k f.tile
      lostSlots := if mc.poolOk then x.mc.lostSlots else natInsert x.mc.lostSlots k
      fq0 := if f.cause = 0x06 then x.mc.fq0 ++ [k] else x.mc.fq0
      fq1 := if f.cause = 0x06 then x.mc.fq1 else x.mc.fq1 ++ [k] } }
    .next (match f.opId with
      | some op => s2.modTile f.tile fun tl => tl.bindSlot op k mc.fmodeRec
      | none => s2)
  | _, _ => .next s

/-- A slot's record ends: the slot is free and in no queue. -/
def MemCtl.freeRecord (mc : MemCtl) (k : Nat) : MemCtl :=
  { mc with busySlots := natErase mc.busySlots k, lostSlots := natErase mc.lostSlots k, fq0 := natErase mc.fq0 k, fq1 := natErase mc.fq1 k }

/-- A resume of slot `k` by core `c` of die `d` is one of an earlier record of another region: an `fqpop` of the core gave out the slot
while its record was that region's, and none has given out the record that stands in it now (R378). Firmware must not resume so, and what
breaks a "must" never affects another region (R1; DEDUCED, notes/assumptions/15.md). -/
def State.stale (s : State) (d c k : Nat) : Bool :=
  let mc := (s.die d).mc
  let r := (s.tile (kvGet 0 mc.slotTiles k)).region.toNat
  (if c = 0 then mc.fq0 else mc.fq1).contains k && decide (kvGet r mc.popped (2 * k + c) ≠ r)

/-- Fields of the first dword of a record rewritten: where that word is uncorrectable it stays so, for the write covers part of it
(R386); an unspecified record stays as it is. -/
def State.setRecord (s : State) (d k v : Nat) : State :=
  let m := modOfDie d
  if (s.die d).mc.recordLost k then s else
  let pa := (s.die d).mc.slotPa k
  let s1 := s.setHbm m pa (leBytes 8 v)
  match s.hbmBad m pa 8 with
  | some w => s1.modModule m fun x => { x with badHbm := natInsert x.badHbm w }
  | none => s1

/-- The records of a tile are voided and their slots freed; its stops not yet posted are dropped (R375). -/
def State.voidRecords (s : State) (t : Nat) : State :=
  let d := dieOfTile t
  let mc := (s.die d).mc
  let mine := mc.busySlots.filter fun k => decide (kvGet 0 mc.slotTiles k = t)
  let s1 := mine.foldl (fun s k =>
    let v := s.hbmNat (modOfDie d) (mc.slotPa k) 8
    (s.setRecord d k (v % 2 ^ 62 + 2 ^ 62)).modDie d fun x => { x with mc := x.mc.freeRecord k }) s
  s1.modDie d fun x => { x with mc := { x.mc with stops := x.mc.stops.filter fun f => decide (f.tile ≠ t) } }

/-! ## gld (R131, R178, R363) -/

/-- A strand parks at `va` with cause 0x06 or 0x08, and its record is to be posted (R121, R371). -/
def State.park (s : State) (code va : Nat) : Out :=
  match s.turn with
  | .tile t a =>
    .next ((s.setMe (s.me.parkOn code (BitVec.ofNat 64 va))).addStop t (s.stopOf t code a.val 0 0 va 0 none))
  | .svc _ _ => .next s

/-- gld (R131): alignment, range, translation, permission, presence, in that order; then the strand waits for the data. -/
def execGld (d a b : BitVec 5) (t : BitVec 3) (s : State) : Out :=
  s.onWork (wordOf (.gld d a b t)) fun s =>
    let va := s.eaSum a b
    if va.toNat % (loadType t.toNat).1 ≠ 0 then s.trap 0x03 va
    else if 2 ^ 52 ≤ va.toNat then s.trap 0x07 va
    else
      match s.xlat s.here va.toNat false with
      | (.miss, s1) => s1.park 0x06 va.toNat
      | (.denied, s1) => s1.trap 0x07 va
      | (.unmapped, s1) => s1.park 0x08 va.toNat
      | (.ok pa _, s1) => s1.waitOn (.gld d t.toNat pa)

/-- GLD_DATA_RETURN (R131): the committed bytes reach `X[d]` and the strand is READY; an uncorrectable word forces cause 0x13
and does not complete the load (R100, R386). Of the values that R239 allows for a page another region writes, the newest committed one is
returned (DESIGN CHOICE, notes/assumptions/7.md). -/
def execGldDataReturn (t a : Nat) (s : State) : Out :=
  if h : a < 10 then
    let i : Fin 10 := ⟨a, h⟩
    let g := (s.tile t).cur.agents[i]
    match g.st with
    | .wait (.gld d ty pa) =>
      if !((s.tile t).node = .run) || (s.tile t).stopping then .next s
      else
        let n := (loadType ty).1
        match s.hbmBad (modOfTile t) pa n with
        | some _ =>
          .next (((s.logHbm (dieOfTile t) pa).modTile t fun tl => tl.record ⟨0x13, none⟩).gldGone t a)
        | none =>
          let v := s.hbmNat (modOfTile t) pa n
          let w : W := if (loadType ty).2 then BitVec.ofInt 64 (sextNat (8 * n) v) else BitVec.ofNat 64 v
          .next ((s.finishWait t i (g.wx d w)).gldGone t a)
    | _ => .next s
  else .next s

/-! ## tlbw and tlbinv (R365-R370) -/

/-- The checks of R369, in order; all have the same cause and operand. -/
def MemCtl.tlbwOk (mc : MemCtl) (e : Tlbe) : Bool :=
  let size := 2 ^ e.bits
  e.entry.fld 0 2 == 3 && decide (e.entry.fld 5 2 ≠ 3) && decide (e.tag.fld 0 16 = 0) && decide (e.entry.fld 10 6 = 0) &&
    decide (e.entry.fld 60 4 = 0) &&
    decide (e.va % size = 0) && decide (e.pa % size = 0) &&
    decide (e.pa + size ≤ hbmTop) && decide ((e.pa + size - 1) / 2 ^ 34 < mc.firstReserved) &&
    decide (e.il = mc.scheme (e.pa / 2 ^ 34)) &&
    !(decide (5 ≤ e.il) && decide (e.entry.fld 5 2 = 2))

/-- Entries removed from the LLT of a die, and their copies from its tiles' L1 TLBs. -/
def State.removeTlb (s : State) (d : Nat) (p : Tlbe → Bool) : State :=
  let s1 := s.modDie d fun x => { x with mc := { x.mc with llt := x.mc.llt.filter fun q => !p q.2 } }
  { s1 with tiles := s1.tiles.map fun q => (q.1, if dieOfTile q.1 = d then { q.2 with l1 := q.2.l1.filter fun e => !p e } else q.2) }

/-- The index the LLT chooses for a new entry: one of the free ones, which is open (R366). -/
def lltIndex (free : List Nat) (n : Nat) : Nat := free.getD ((Config.freeBits 12 n).toNat % (free.length + 1)) (free.headD 0)

/-- tlbw (R365, R369). -/
def execTlbw (a b : BitVec 5) (s : State) : Out :=
  s.onService (wordOf (.tlbw a b)) fun s =>
    let d := whoDie s.turn
    let e : Tlbe := ⟨s.rx a, s.rx b⟩
    if !(s.die d).mc.tlbwOk e then s.trap 0x07 (s.rx b)
    else
      let s1 := s.removeTlb d fun f => f.overlaps e
      let s2 :=
        match (s1.die d).mc.llt with
        | [] => s1
        | q :: _ => if 3072 ≤ (s1.die d).mc.llt.length then s1.removeTlb d fun f => decide (f = q.2) else s1
      let free := (List.range 3072).filter fun i => !((s2.die d).mc.llt.any fun q => decide (q.1 = i))
      let s3 := s2.modDie d fun x => { x with mc := { x.mc with llt := x.mc.llt ++ [(lltIndex free s.free, e)] } }
      { s3 with free := s.free + 1 }.doneNop

/-- The agents of a die's tiles whose `gld` waits for bytes of a frame. -/
def State.gldsIn (s : State) (d : Nat) (l : List Tlbe) : List (Nat × Nat) :=
  s.tiles.flatMap fun q =>
    if dieOfTile q.1 = d then
      (List.finRange 10).filterMap fun a =>
        match (q.2.cur.agents[a]).st with
        | .wait (.gld _ _ pa) =>
          if l.any fun e => decide (e.space = q.2.space.toNat) && decide (e.pa ≤ pa) && decide (pa < e.pa + 2 ^ e.bits) then
            some (q.1, a.val)
          else none
        | _ => none
    else []

/-- The common part of `tlbinv` (R370): the entries go, and the core waits for the accesses they translated. -/
def State.invalidate (s : State) (p : Tlbe → Bool) : Out :=
  let d := whoDie s.turn
  let gone := ((s.die d).mc.llt.map fun q => q.2).filter p
  let w := s.gldsIn d gone
  let s1 := s.removeTlb d p
  if w.isEmpty then s1.doneNop else s1.waitOn (.tlbinv w)

/-- tlbinv (R370): bits [15:0] of `X[a]` are ignored. -/
def execTlbinv (a : BitVec 5) (s : State) : Out :=
  s.onService (wordOf (.tlbinv a)) fun s =>
    let va := (s.rx a).fld 0 52 / 65536 * 65536
    s.invalidate fun e => e.hits ((s.rx a).fld 52 12) va

/-- tlbinv.all (R370). -/
def execTlbinvAll (s : State) : Out := s.onService (wordOf .tlbinvAll) fun s => s.invalidate fun _ => true

/-! ## fqpop and fqres (R376-R379) -/

/-- fqpop (R377): the PA of the oldest posted record of the core's queue, or all ones. The model keeps the region of the record that
each slot gave out last (`MemCtl.popped`). -/
def execFqpop (d : BitVec 5) (s : State) : Out :=
  s.onService (wordOf (.fqpop d)) fun s =>
    match s.turn with
    | .svc dd c =>
      let mc := (s.die dd).mc
      match if c = 0 then mc.fq0 else mc.fq1 with
      | [] => s.doneX d 0xFFFFFFFFFFFFFFFF#64
      | k :: rest =>
        let popped := kvSet mc.popped (2 * k + c.val) (s.tile (kvGet 0 mc.slotTiles k)).region.toNat
        (s.modDie dd fun x => { x with mc :=
          if c = 0 then { x.mc with fq0 := rest, popped := popped } else { x.mc with fq1 := rest, popped := popped } }).doneX d
          (BitVec.ofNat 64 (mc.slotPa k))
    | .tile _ _ => s.doneNop

/-- The causes that `fqres` may deliver (R378). -/
def deliverable (c : Nat) : Bool :=
  (decide (1 ≤ c) && decide (c ≤ 5)) || decide (c = 7) || (decide (9 ≤ c) && decide (c ≤ 0x12)) || (decide (0x17 ≤ c) && decide (c ≤ 0x19))

/-- A parked strand leaves PARK (R378). -/
def State.unpark (s : State) (t agent : Nat) (f : Agent → Agent) : State :=
  if h : agent < 10 then
    s.modTile t fun tl =>
      let g := tl.cur.agents[agent]
      match g.st with
      | .park => tl.setAgent ⟨agent, h⟩ { f g with st := .ready }
      | _ => tl
  else s

/-- The data byte at which the chunk that holds data byte `c` begins (R221, R374); `c` itself where the operation has no such
byte. -/
def HaulOp.chunkOf (o : HaulOp) (c : Nat) : Nat := if o.n ≤ c then c else c - Nat.min c ((o.va + c) % 4096)

/-- A suspended operation bound to slot `k` restarts (R374): in normal service at its chunk, in recovery mode from the cursor
of the record, by way of HAUL_OP_REPLAY where it has left the queue. -/
def Tile.replay (tl : Tile) (k : Nat) (recMode : Bool) (cursor : Nat) : Tile :=
  let q (o : HaulOp) : HaulOp :=
    if o.fslot = some k then { o with status := .running, cursor := if recMode then o.chunkOf cursor else o.cursor, fslot := none } else o
  let st (o : HaulOp) : HaulOp := if o.fslot = some k then { o with status := .replay, cursor := o.chunkOf cursor, fslot := none } else o
  { tl with haulQ := tl.haulQ.map q, haulStore := tl.haulStore.map st }

/-- The operation bound to slot `k` is gone (R378 `ACT` 2). -/
def Tile.dropSuspended (tl : Tile) (k : Nat) : Tile :=
  { tl with haulQ := tl.haulQ.filter (fun o => decide (o.fslot ≠ some k)), haulStore := tl.haulStore.filter fun o => decide (o.fslot ≠ some k) }

/-- The delivery of a cause to a suspended operation's tile: deferred to the haul hart, or, in the staging of a region's first
superstep, recorded so that the launch stops (R378, R435). -/
def State.deliverHaul (s : State) (t code : Nat) (va : W) : State :=
  if (s.tile t).launching then s.modTile t fun tl => tl.record ⟨code, none⟩ else s.deferTo t 8 code va

/-- fqres (R378). An uncorrectable word of the record is logged, and its fields are unspecified (R386). A resume that would reach
another region through a slot used again has no effect (`State.stale`). The fields of a record in a
pool that breaks R373 are unspecified too, and it resumes no agent (R1; DESIGN CHOICE, notes/assumptions/56.md). -/
def execFqres (a : BitVec 5) (s : State) : Out :=
  s.onService (wordOf (.fqres a)) fun s =>
    match s.turn with
    | .tile _ _ => s.doneNop
    | .svc d c =>
      let v := s.rx a
      let mc := (s.die d).mc
      let m := modOfDie d
      let pa := v.fld 0 40
      let act := v.fld 48 2
      let dc := v.fld 40 8
      let k := (pa - mc.fqBase.toNat) / 32
      let r := if mc.recordLost k then (Config.freeBits 64 s.free).toNat else leNat (s.hbmSeen m pa 8)
      let q := fld r 61 1
      if pa % 32 ≠ 0 ∨ pa < mc.fqBase.toNat ∨ mc.fqBase.toNat + 32 * mc.poolSize ≤ pa ∨ act = 3 ∨ v.fld 50 14 ≠ 0 then s.trap 0x07 v
      else if q ≠ c.val ∨ (act = 1 ∧ q = 1) ∨ (act = 2 ∧ deliverable dc = false) then (s.noteRead d m pa 8).trap 0x07 v
      else if mc.recordLost k then { s with free := s.free + 1 }.doneNop
      else if fld r 63 1 = 0 ∨ s.stale d c.val k then ({ s with free := s.free + 1 }.logBad d m pa 24).doneNop
      else
        let t := fld r 20 28
        let agent := fld r 8 4
        let va : W := BitVec.ofNat 64 (fld (leNat (s.hbmSeen m (pa + 8) 8)) 0 52)
        let cursor := fld (leNat (s.hbmSeen m (pa + 16) 8)) 0 32
        let s : State := { s with free := s.free + 1 }.logBad d m pa 24
        let haul := decide (fld r 12 3 ≠ 0)
        if act = 1 then
          let s1 := (s.setRecord d k (r - fld r 0 8 + 0x08 + 2 ^ 61)).modDie d fun x => { x with mc :=
            { x.mc with fq0 := natErase x.mc.fq0 k, fq1 := x.mc.fq1 ++ [k] } }
          (if h : haul = false ∧ agent < 10 then
            s1.modTile t fun tl => tl.setAgent ⟨agent, h.2⟩ { tl.cur.agents[agent]'(h.2) with causeCode := 0x08 }
          else s1).doneNop
        else
          let s1 := (s.setRecord d k (r % 2 ^ 63)).modDie d fun x => { x with mc := x.mc.freeRecord k }
          if act = 0 then
            (if haul then s1.modTile t fun tl => tl.replay k (fld r 15 1 = 1) cursor
             else s1.unpark t agent fun g => g).doneNop
          else
            (if haul then ((s1.modTile t fun tl => (tl.dropSuspended k).promote).wakeDrain t 8).deliverHaul t dc va
             else s1.unpark t agent fun g => g.defer dc va).doneNop

end Sys2Proof.Machine
end

