-- ==== Sys2Proof/Machine/Haul.lean ====
section
/-! DEFINITION. The haul core (R200-R222): the checks of an operation at issue, the queue of 16, copies, the chunks of staging
fetches, HBM loads and deltas, suspension and replay. -/

namespace Sys2Proof.Machine

/-! ## Byte sets of an operation (R205, R206) -/

/-- Two operations that may not overlap: their byte sets meet where one of them writes (R206). -/
def HaulOp.conflicts (o p : HaulOp) : Bool := runsMeet o.writes (p.reads ++ p.writes) || runsMeet o.reads p.writes

/-! ## Issue (R205, R206) -/

/-- The first data byte of some runs that lies above 0x1EFFFF, with its place in data order. -/
def firstOutAt : Nat → List (Nat × Nat) → Option (Nat × Nat)
  | _, [] => none
  | j, p :: t =>
    if p.1 + p.2 ≤ Config.tmSize then firstOutAt (j + p.2) t
    else some (j + (Config.tmSize - p.1), Nat.max p.1 Config.tmSize)

/-- The range check of an operation with up to two records: the first address in data order, the source's before the
destination's. -/
def rangeFault (src dst : List (Nat × Nat)) : Option Nat :=
  match firstOutAt 0 src, firstOutAt 0 dst with
  | none, none => none
  | some p, none => some p.2
  | none, some q => some q.2
  | some p, some q => if q.1 < p.1 then some q.2 else some p.2

/-- The element size of the reductions (R216). -/
def hredSize (f : Nat) : Nat := if f = 1 ∨ f = 3 ∨ f = 5 ∨ f = 6 ∨ f = 7 then 8 else 4

/-- Whether some byte of the runs lies in a kept segment (R205, R212). -/
def Tile.keptRuns (tl : Tile) (l : List (Nat × Nat)) : Bool :=
  l.any fun p => (List.range ((p.1 + p.2 - 1) / 65536 + 1 - p.1 / 65536)).any fun i => tl.kept (p.1 / 65536 + i)

/-- The checks of R205 in order of their codes: the cause and the value for `FADDR`. `ln` is `X[b]` of a `stage`. An operation of no bytes
at virtual address 0 has no last byte, and takes no cause 0x07 (DESIGN CHOICE, notes/assumptions/18.md). -/
def Tile.haulCheck (tl : Tile) (o : HaulOp) (ln : W) : Option (Nat × W) :=
  let runs := o.reads ++ o.writes
  let odd : Option Nat :=
    match o.kind with
    | .hred f =>
      if o.va % hredSize f ≠ 0 then some o.va
      else
        match firstOdd (hredSize f) runs with
        | some a => some a
        | none => if o.n % hredSize f ≠ 0 then some (recAddr o.src (o.n / hredSize f * hredSize f)) else none
    | _ => none
  let isStage := decide (o.kind = .stage)
  let usesVa := match o.kind with | .copy | .csend => false | _ => true
  match odd with
  | some a => some (0x03, BitVec.ofNat 64 a)
  | none =>
    match rangeFault o.reads o.writes with
    | some a => some (0x04, BitVec.ofNat 64 a)
    | none =>
      if isStage && recCheck o.dst && decide (recExtent o.dst < o.n) then some (0x05, ln)
      else if isStage && decide (0 < o.n) && decide (256 ≤ tl.pfNext.length) then some (0x05, ln)
      else if usesVa && decide (2 ^ 52 ≤ o.va + (o.n - 1)) then some (0x07, BitVec.ofNat 64 o.va)
      else if isStage && tl.keptRuns o.writes then some (0x07, BitVec.ofNat 64 o.va)
      else none

/-- The lowest of the 16 operation slots that no queued operation has (R372). -/
def Tile.haulSlot (tl : Tile) : Nat :=
  ((List.range 16).find? fun k => !(tl.haulQ.any fun o => decide (o.slot = k))).getD 0

/-- An operation put into the queue; a `stage` is also the next entry of the page-fetch list (R211). -/
def Tile.enterHaul (tl : Tile) (o : HaulOp) : Tile :=
  let op := { o with id := tl.opSeq, slot := tl.haulSlot }
  { tl with
    haulQ := tl.haulQ ++ [op]
    opSeq := tl.opSeq + 1
    pfNext := if op.kind = .stage then tl.pfNext ++ [⟨op.id, op.va, op.n, op.dst, op.sem, []⟩] else tl.pfNext }

/-- An operation that finds the queue full makes the hart wait for a place; then one of no bytes touches nothing and completes, and any
other enters the queue (R206). -/
def State.haulEnter (s : State) (o : HaulOp) : Out :=
  if 16 ≤ (s.tile s.here).haulQ.length then s.waitOn .queue
  else if o.n = 0 then (s.complete s.here o.sem 8).doneNop
  else (s.modTile s.here fun tl => tl.enterHaul o).doneNop

/-- The issue of a haul operation: the checks, then the queue. -/
def State.haulIssue (s : State) (o : HaulOp) (ln : W) : Out :=
  match (s.tile s.here).haulCheck o ln with
  | some p => s.trap p.1 p.2
  | none => s.haulEnter o

/-- An operation before its place in the queue is known. -/
def newOp (kind : HaulKind) (dst src : Rec) (va n : Nat) (k : BitVec 6) : HaulOp :=
  ⟨0, 0, kind, dst, src, va, 0, n, k.toNat, .queued, 0, none, []⟩

/-- stage (R205, R211). -/
def execStage (e a b : BitVec 5) (k : BitVec 6) (s : State) : Out :=
  s.onHaul (wordOf (.stage e a b k)) fun s =>
    s.haulIssue (newOp .stage (s.recReg e) 0 (s.rx a).toNat (s.rx b).toNat k) (s.rx b)

/-- copy (R205, R208): `a` is the literal number of the source record. -/
def execCopy (e a : BitVec 5) (k : BitVec 6) (s : State) : Out :=
  s.onHaul (wordOf (.copy e a k)) fun s =>
    s.haulIssue (newOp .copy (s.recReg e) (s.recReg a) 0 (Nat.min (recExtent (s.recReg a)) (recExtent (s.recReg e))) k) 0

/-- hld (R205, R210). -/
def execHld (e a : BitVec 5) (k : BitVec 6) (s : State) : Out :=
  s.onHaul (wordOf (.hld e a k)) fun s =>
    s.haulIssue (newOp .hld (s.recReg e) 0 (s.rx a).toNat (recExtent (s.recReg e)) k) 0

/-- hst (R205, R215). -/
def execHst (e a : BitVec 5) (k : BitVec 6) (s : State) : Out :=
  s.onHaul (wordOf (.hst e a k)) fun s =>
    s.haulIssue (newOp .hst 0 (s.recReg e) (s.rx a).toNat (recExtent (s.recReg e)) k) 0

/-- The issue of a reduction of function `f` (R205, R216). -/
def State.hredIssue (s : State) (word f : Nat) (e a : BitVec 5) (k : BitVec 6) : Out :=
  s.onHaul word fun s =>
    s.haulIssue (newOp (.hred f) 0 (s.recReg e) (s.rx a).toNat (recExtent (s.recReg e)) k) 0

/-- hred.add.s32 (R216). -/
def execHredAddS32 (e a : BitVec 5) (k : BitVec 6) (s : State) : Out := s.hredIssue (wordOf (.hredAddS32 e a k)) 0 e a k
/-- hred.add.s64 (R216). -/
def execHredAddS64 (e a : BitVec 5) (k : BitVec 6) (s : State) : Out := s.hredIssue (wordOf (.hredAddS64 e a k)) 1 e a k
/-- hred.min.s32 (R216). -/
def execHredMinS32 (e a : BitVec 5) (k : BitVec 6) (s : State) : Out := s.hredIssue (wordOf (.hredMinS32 e a k)) 2 e a k
/-- hred.min.s64 (R216). -/
def execHredMinS64 (e a : BitVec 5) (k : BitVec 6) (s : State) : Out := s.hredIssue (wordOf (.hredMinS64 e a k)) 3 e a k
/-- hred.max.s32 (R216). -/
def execHredMaxS32 (e a : BitVec 5) (k : BitVec 6) (s : State) : Out := s.hredIssue (wordOf (.hredMaxS32 e a k)) 4 e a k
/-- hred.max.s64 (R216). -/
def execHredMaxS64 (e a : BitVec 5) (k : BitVec 6) (s : State) : Out := s.hredIssue (wordOf (.hredMaxS64 e a k)) 5 e a k
/-- hred.and (R216). -/
def execHredAnd (e a : BitVec 5) (k : BitVec 6) (s : State) : Out := s.hredIssue (wordOf (.hredAnd e a k)) 6 e a k
/-- hred.or (R216). -/
def execHredOr (e a : BitVec 5) (k : BitVec 6) (s : State) : Out := s.hredIssue (wordOf (.hredOr e a k)) 7 e a k
/-- hred.fadd.f32 (R216). -/
def execHredFaddF32 (e a : BitVec 5) (k : BitVec 6) (s : State) : Out := s.hredIssue (wordOf (.hredFaddF32 e a k)) 8 e a k

/-- hfence (R220): the hart waits until every operation it issued has completed or stopped. -/
def execHfence (s : State) : Out :=
  s.onHaul (wordOf .hfence) fun s => if s.hartBusy then s.waitOn .drain else s.doneNop

/-! ## Running an operation -/

/-- The haul engine runs: the compute phase, or the staging of a region's first superstep (R394, R435). -/
def Tile.haulOn (tl : Tile) : Bool := (decide (tl.node = .run) && !tl.stopping) || tl.launching

/-- The operation of a number in a list. -/
def opOf (l : List HaulOp) (o : Nat) : Option HaulOp := l.find? fun x => decide (x.id = o)

/-- An operation of the queue replaced. -/
def Tile.putOp (tl : Tile) (o : HaulOp) : Tile := { tl with haulQ := tl.haulQ.map fun x => if x.id = o.id then o else x }

/-- Operations of a launch's page-fetch list enter the queue while it has room (R394). -/
def Tile.feedLaunch (tl : Tile) : Tile :=
  match tl.launchPf with
  | [] => tl
  | e :: rest =>
    if 16 ≤ tl.haulQ.length then tl
    else { tl.enterHaul ⟨0, 0, .stage, e.dst, 0, e.va, 0, e.n, e.sem, .queued, 0, none, []⟩ with launchPf := rest }

/-- A running operation stops, unsignalled, with a deferred cause of the haul hart (R95, R222). -/
def State.stopOp (s : State) (t o code : Nat) (faddr : W) : State :=
  ((s.modTile t fun tl => tl.dropOp o).deliverHaul t code faddr).wakeDrain t 8

/-- The 64-bit address of an operation's byte `j`. -/
def HaulOp.vaAt (o : HaulOp) (j : Nat) : Nat := o.va + j

/-! ### What an operation sees of later stores (R207) -/

/-- An operation as a reader: the haul hart reads, at the operation's place (R223). -/
def HaulOp.reader (o : HaulOp) : Reader := ⟨8, o.id, false⟩

/-- The atom that an operation takes, with the number of its version: as it read it before, so that it is never torn between two chunks;
else one of its versions, open which, as free values number `k` (R207, R224). -/
def Tile.atomSeen (tl : Tile) (o : HaulOp) (k w : Nat) : Nat × List Byte :=
  match o.seen.find? fun q => decide (q.1 = w) with
  | some q => q.2
  | none => tl.pick o.reader k w

/-- The bytes that an operation reads from some runs: each atom old or new, independently, where a store came after the
operation's issue (R207). -/
def Tile.readSeen (tl : Tile) (o : HaulOp) (k : Nat) (l : List (Nat × Nat)) : List Byte :=
  let m := tl.view o.reader k l o.seen
  l.flatMap fun p => m.bytes p.1 p.2

/-- The tile after an operation has read some runs, `later` being what it is still to read: the atoms of which it needs bytes again stay as
it took them, and the read is noted (R224, R227). -/
def Tile.afterRead (tl : Tile) (o : HaulOp) (k : Nat) (l later : List (Nat × Nat)) : Tile × HaulOp :=
  let new := (atomsOf l).filter fun w => o.seen.all fun q => decide (q.1 ≠ w)
  (tl.noteRead o.reader l fun w => (tl.atomSeen o k w).1,
    { o with seen := (o.seen ++ new.map fun w => (w, tl.atomSeen o k w)).filter fun q => !clearOf later q.1 })

/-- Runs written by a haul operation that has written its data bytes before its cursor and is still to write the bytes of `later`. -/
def Tile.haulFill (tl : Tile) (o : HaulOp) (later : List (Nat × Nat)) (l : List (Nat × List Byte)) : Tile × Option Nat :=
  let r := tl.fillRunsBut (runsOf o.dst 0 o.cursor) later l
  (r.1.stamp tl.olds.length (8, o.id), r.2)

/-- The bytes of a copy (R208): a byte whose source byte the copy also writes is unspecified. -/
def Tile.copyBytes (tl : Tile) (o : HaulOp) (k : Nat) : List Byte :=
  let bs := tl.readSeen o (k + 1) o.reads
  if !runsMeet o.reads o.writes then bs
  else
    let addrs := o.reads.flatMap fun p => (List.range p.2).map fun i => p.1 + i
    ((bs.zip addrs).zipIdx).map fun q =>
      if o.writes.any fun w => decide (w.1 ≤ q.1.2) && decide (q.1.2 < w.1 + w.2) then Config.freeByte k q.2 else q.1.1

/-- Bytes of copies that the collective buffer of a die holds (R344). The spec does not say when a copy gives up its room: in the model it
keeps it until the schedule of its tile is emptied, by the next start instant or a rollback (DESIGN CHOICE, notes/assumptions/42.md). -/
def State.bufferUse (s : State) (d : Nat) : Nat :=
  (s.tiles.filter fun q => decide (dieOfTile q.1 = d)).foldl (fun n q =>
    n + q.2.col.foldl (fun k e => k + match e.data with | some b => b.length | none => 0) 0) 0

/-- A `csend` has read its source: the copy goes into the collective buffer of the die, or, where it does not fit, nothing is
sent, which is a seal-phase cause: EXCHANGE_START records it (R344, R347). -/
def State.keepCopy (s : State) (t : Nat) (o : HaulOp) (bs : List Byte) : State :=
  let fits := decide (s.bufferUse (dieOfTile t) + bs.length ≤ (s.tile t).cbEff.toNat * 2 ^ 20)
  let upd (e : ColEntry) : ColEntry :=
    if e.send && decide (e.op = o.id) then
      if fits then { e with data := some bs } else { e with status := .unfit }
    else e
  s.modTile t fun tl => { tl with col := tl.col.map upd }

/-- HAUL_OP_START (R206, R208, R344): the oldest operation that has not started starts, once no earlier one with which it
conflicts is outstanding, nor a store of the hart before it to an atom that it touches (R227). A copy and a `csend` move all their bytes; the others move by chunks. -/
def execHaulOpStart (t o : Nat) (s : State) : Out :=
  let tl := s.tile t
  match opOf tl.haulQ o with
  | none => .next s
  | some op =>
    let earlier := (tl.haulQ ++ tl.haulStore).filter fun x => decide (x.id < o)
    let behind := (tl.heldFor op.reader).any fun h => !clearOf (op.reads ++ op.writes) (h.addr / 16)
    if behind || op.status ≠ .queued || !tl.haulOn || earlier.any (fun x => decide (x.status = .queued)) || earlier.any (fun x => x.conflicts op)
    then .next s
    else
      let on := { op with status := .running }
      match op.kind with
      | .copy =>
        match tl.badRuns op.reads with
        | some w => .next (s.tmError t w)
        | none =>
          let s1 := { s with free := s.free + 2 }
          let tl1 := (tl.afterRead op (s.free + 1) op.reads []).1.putOp { on with cursor := op.n }
          match tl1.haulFill op [] (layRuns op.writes (tl.copyBytes op s.free)) with
          | (tl', none) => .next ((s1.setTile t tl').flush t)
          | (tl', some a) => .next ((s1.setTile t tl').stopOp t o 0x0A (BitVec.ofNat 64 a))
      | .csend =>
        match tl.badRuns op.reads with
        | some w => .next (s.tmError t w)
        | none =>
          .next (({ s with free := s.free + 1 }.setTile t ((tl.afterRead op s.free op.reads []).1.putOp { on with cursor := op.n })).keepCopy t op
            (tl.readSeen op s.free op.reads))
      | _ => .next (s.setTile t (tl.putOp on))

/-! ## Chunks (R221, R222) -/

/-- The length of the chunk at data byte `j` (R221). -/
def HaulOp.chunkLen (o : HaulOp) (j : Nat) : Nat := Nat.min (o.n - j) (4096 - (o.va + j) % 4096)

/-- Bytes cut at 256-byte physical boundaries, each part with its address: every part has one home (R217, R382). Each part is a delta that
its home accepts or refuses alone, also where one home has the next part too (DESIGN CHOICE, notes/assumptions/48.md). -/
def splitHomes : Nat → Nat → List Byte → List (Nat × List Byte)
  | 0, _, _ => []
  | fuel + 1, a, bs =>
    if bs.isEmpty then [] else (a, bs.take (256 - a % 256)) :: splitHomes fuel (a + (256 - a % 256)) (bs.drop (256 - a % 256))

/-- The deltas of a chunk (R215-R217). -/
def HaulOp.deltas (o : HaulOp) (va pa il : Nat) (bs : List Byte) : List Delta :=
  match o.kind with
  | .hred f =>
    (List.range (bs.length / hredSize f)).map fun i =>
      ⟨some f, va + i * hredSize f, pa + i * hredSize f, homeOf il (pa + i * hredSize f), (bs.drop (i * hredSize f)).take (hredSize f), o.id, false⟩
  | _ => (splitHomes (bs.length / 256 + 2) pa bs).map fun q => ⟨none, va + (q.1 - pa), q.1, homeOf il q.1, q.2, o.id, false⟩

/-- The operation suspends at its chunk and its record is to be posted (R221, R371). -/
def State.suspendOp (s : State) (t : Nat) (op : HaulOp) (cause : Nat) : State :=
  let kind := match op.kind with | .stage => 1 | .hld => 2 | .hst => 3 | _ => 4
  let s1 := s.modTile t fun tl => tl.putOp { op with status := .suspended }
  s1.addStop t (s1.stopOf t cause 8 kind op.slot (op.va + op.cursor) op.cursor (some op.id))

/-- The entry of the page-fetch list that an operation fetches notes where its chunk at data byte `j`, of `len` bytes, came from;
a chunk fetched again takes the place of what was noted of it (R374). -/
def Tile.notePa (tl : Tile) (o j len pa : Nat) : Tile :=
  { tl with pfNext := tl.pfNext.map fun e =>
      if e.op = o then { e with pas := (e.pas.filter fun c => decide (c.1 ≠ j)) ++ [(j, len, pa)] } else e }

/-- Bank words that bytes from bad HBM words reach get the poison code (R434): the words of the runs. -/
def Tile.poisonRuns (tl : Tile) (l : List (Nat × Nat)) : Tile :=
  l.foldl (fun tl p => (List.range ((p.1 + p.2 - 1) / 16 + 1 - p.1 / 16)).foldl (fun tl i =>
    { tl with poison := natInsert tl.poison (p.1 / 16 + i) }) tl) tl

/-- The runs of the record that receive bytes of uncorrectable HBM words, for `len` data bytes from `j` read at `pa`. -/
def poisoned (bad : List Nat) (r : Rec) (j pa len : Nat) : List (Nat × Nat) :=
  (bad.filter fun w => decide (pa < 8 * w + 8) && decide (8 * w < pa + len)).flatMap fun w =>
    let lo := Nat.max pa (8 * w)
    runsOf r (j + (lo - pa)) (Nat.min (8 * w + 8) (pa + len) - lo)

/-- HAUL_CHUNK (R221, R222): the chunk at the operation's cursor is translated and moved, or the operation suspends or
stops. All atoms of the chunk are read at one instant, where R213 and R239 leave each atom of a page that another region writes its own
(DESIGN CHOICE, notes/assumptions/7.md). -/
def execHaulChunk (t o : Nat) (s : State) : Out :=
  match opOf (s.tile t).haulQ o with
  | none => .next s
  | some op =>
    let dirOut := match op.kind with | .hst | .hred _ => true | _ => false
    let moves := match op.kind with | .copy | .csend => false | _ => true
    if op.status ≠ .running || !(s.tile t).haulOn || !moves || decide (op.n ≤ op.cursor) then .next s
    else
      let va := op.va + op.cursor
      let len := op.chunkLen op.cursor
      match s.xlat t va dirOut with
      | (.miss, s1) => .next (s1.suspendOp t op 0x06)
      | (.unmapped, s1) => .next (s1.suspendOp t op 0x08)
      | (.denied, s1) => .next (s1.stopOp t o 0x07 (BitVec.ofNat 64 va))
      | (.ok pa il, s1) =>
        let tl := s1.tile t
        let m := modOfTile t
        let on := { op with cursor := op.cursor + len }
        if dirOut then
          let runs := runsOf op.src op.cursor len
          match tl.badRuns runs with
          | some w => .next (s1.tmError t w)
          | none =>
            let later := runsOf op.src on.cursor (op.n - on.cursor)
            let r := tl.afterRead op s1.free runs later
            .next ({ s1 with free := s1.free + 1 }.setTile t
              ({ r.1 with deltas := tl.deltas ++ op.deltas va pa il (tl.readSeen op s1.free runs) }.putOp { on with seen := r.2.seen }))
        else
          let bad := s1.hbmBad m pa len
          let s2 :=
            if tl.launching then s1.logBad (dieOfTile t) m pa len
            else match bad with | some w => s1.logHbm (dieOfTile t) (8 * w) | none => s1
          if bad.isSome && !tl.launching then .next ((s2.modTile t fun tl => tl.record ⟨0x13, none⟩))
          else
            let later := runsOf op.dst (op.cursor + len) (op.n - (op.cursor + len))
            match tl.haulFill op later (layRuns (runsOf op.dst op.cursor len) (s2.hbm m pa len)) with
            | (tl', none) =>
              let tl1 := (tl'.putOp on).poisonRuns (poisoned (s2.module m).badHbm op.dst op.cursor pa len)
              .next ((s2.setTile t (if op.kind = .stage then { tl1.notePa o op.cursor len pa with dirty := tl.dirty } else tl1)).flush t)
            | (tl', some a) => .next ((s2.setTile t tl').stopOp t o 0x0A (BitVec.ofNat 64 a))

/-- HAUL_OP_COMPLETE (R206): all bytes have moved; the operation leaves the queue and signals its semaphore. -/
def execHaulOpComplete (t o : Nat) (s : State) : Out :=
  match opOf (s.tile t).haulQ o with
  | none => .next s
  | some op =>
    if op.status ≠ .running || !(s.tile t).haulOn || decide (op.cursor < op.n) then .next s
    else .next (((s.modTile t fun tl => (tl.dropOp o).feedLaunch).complete t op.sem 8).wakeDrain t 8)

/-- Operations in issue order, one more put among them. -/
def insertOp (o : HaulOp) : List HaulOp → List HaulOp
  | [] => [o]
  | x :: t => if x.id < o.id then x :: insertOp o t else o :: x :: t

/-- HAUL_OP_REPLAY (R374): a resumed operation of the store re-enters the queue, once that has a place. -/
def execHaulOpReplay (t o : Nat) (s : State) : Out :=
  let tl := s.tile t
  match opOf tl.haulStore o with
  | none => .next s
  | some op =>
    if op.status ≠ .replay || decide (16 ≤ tl.haulQ.length) || !tl.haulOn then .next s
    else
      let tl1 := { tl with
        haulStore := tl.haulStore.filter fun x => decide (x.id ≠ o)
        haulQ := insertOp { op with status := .running } tl.haulQ }
      .next (s.setTile t tl1.promote)

/-- QUEUE_FULL_RESUME (R206, R242, R269): an agent that waits for a place in its engine's queue issues its instruction
again. -/
def execQueueFullResume (t a : Nat) (s : State) : Out :=
  if h : a < 10 then
    let i : Fin 10 := ⟨a, h⟩
    let tl := s.tile t
    if (tl.cur.agents[i]).st = .wait .queue ∧ tl.placeFor i ∧ tl.node = .run ∧ tl.stopping = false then .next (s.reissue t i)
    else .next s
  else .next s

end Sys2Proof.Machine
end

