-- ==== Sys2Proof/Machine/Ports.lean ====
section
/-! DEFINITION. The ports that carry Oclys (R15, R353, R412, R415): the link header and the operations as bytes, and the frames a
port sends and keeps for replay. -/

namespace Sys2Proof.Machine

/-! ## Operations and frames as bytes (R353, R412, R415) -/

/-- An operation of a frame (R412): the header's fields, and the payload. -/
structure OclysOp where
  op : Nat
  queue : Nat
  status : Nat
  len : Nat
  tag : Nat
  addr : Nat
  onchip : Bool
  data : List Byte
  deriving DecidableEq, Repr, Inhabited

/-- How many bytes fill `n` bytes up to a multiple of 16. -/
def padTo16 (n : Nat) : Nat := (16 - n % 16) % 16

/-- An operation as bytes: the 16-byte header, then the payload padded to 16 bytes (R412). -/
def OclysOp.bytes (o : OclysOp) : List Byte :=
  leBytes 1 o.op ++ leBytes 1 (o.queue % 16 + o.status % 16 * 16) ++ leBytes 2 o.len ++ leBytes 4 o.tag ++
    leBytes 8 (o.addr % 2 ^ 40 + o.onchip.toNat * 2 ^ 63) ++ o.data ++ List.replicate (padTo16 o.data.length) 0

/-- The payload bytes that follow a header: a READ's `LEN` is the length to read, and it has none (DEDUCED,
notes/assumptions/47.md). -/
def carried (op len : Nat) : Nat := if op = 2 then 0 else len

/-- The operation at the head of some bytes. -/
def oclysOpOf (bs : List Byte) : OclysOp :=
  let w (i n : Nat) : Nat := leNat ((bs.drop i).take n)
  { op := w 0 1, queue := w 1 1 % 16, status := w 1 1 / 16, len := w 2 2, tag := w 4 4, addr := fld (w 8 8) 0 40
    onchip := bitOf (w 8 8) 63, data := (bs.drop 16).take (carried (w 0 1) (w 2 2)) }

/-- The operations that the payload of a frame carries, in order (R412). -/
def oclysOps : Nat → List Byte → List OclysOp
  | 0, _ => []
  | fuel + 1, bs =>
    if bs.length < 16 then []
    else
      let o := oclysOpOf bs
      let n := carried o.op o.len
      o :: oclysOps fuel (bs.drop (16 + n + padTo16 n))

/-- The 16-byte link header (R353). -/
def linkHeader (kind : Nat) (seq ack : BitVec 32) : List Byte :=
  leBytes 4 seq.toNat ++ leBytes 4 ack.toNat ++ leBytes 1 kind ++ List.replicate 7 0

/-- The 32-byte payload of an EVENT (R415). -/
def eventPayload (code region ssn cause tile data : Nat) : List Byte :=
  leBytes 2 code ++ List.replicate 2 0 ++ leBytes 4 (region % 2 ^ 20) ++ leBytes 8 (ssn % 2 ^ 48) ++ leBytes 1 cause ++
    List.replicate 3 0 ++ leBytes 4 (tile % 2 ^ 28) ++ leBytes 8 data

/-- The operation that a COMPLETION or an EVENT is, as bytes. -/
def Output.opBytes : Output → List Byte
  | .completion _ _ tag status data => (OclysOp.mk 5 0 status data.length tag 0 false data).bytes
  | .event _ code region ssn cause tile data =>
    (OclysOp.mk 4 0 0 32 0 0 false (eventPayload code region ssn cause tile data)).bytes
  | _ => []

/-- A frame's link header and payload, as bytes. -/
def Output.frameBytes : Output → List Byte
  | .frame _ _ _ _ kind seq ack payload => linkHeader kind seq ack ++ payload
  | _ => []

/-! ## Ports -/

/-- The scale-out port of die `d`, or its host port. -/
def State.port (s : State) (d : Nat) (host : Bool) : Port := if host then (s.die d).hp else (s.die d).lk.port

/-- A port changed. -/
def State.modPort (s : State) (d : Nat) (host : Bool) (f : Port → Port) : State :=
  s.modDie d fun x => if host then { x with hp := f x.hp } else { x with lk := { x.lk with port := f x.lk.port } }

/-- The dies with a host port (R15). -/
def isHostPort (d : Nat) : Bool := decide (d % 16 = 0) || decide (d % 16 = 15)

/-- `OLCFG` in force for a frame of no tile: that of the die's tiles in a region; where there are none, as written (R359; which
region's value holds is DEDUCED, notes/assumptions/42.md). -/
def State.linkCfg (s : State) (d : Nat) : BitVec 56 :=
  match s.tiles.find? fun q => decide (dieOfTile q.1 = d) && q.2.inReg with
  | some q => q.2.olcfgEff
  | none => (s.die d).lk.olcfg

/-- The EtherType that a value of `OLCFG` names. -/
def etypeOf (cfg : BitVec 56) : Nat := fld cfg.toNat 40 16

/-- A frame leaves a port. -/
def State.putFrame (s : State) (d : Nat) (host : Bool) (cfg : BitVec 56) (dst : Option Nat) (kind : Nat) (seq : BitVec 32)
    (payload : List Byte) : State :=
  { s with outs := s.outs ++ [.frame d host (etypeOf cfg) dst kind seq (s.port d host).expected payload] }

/-- A data frame's copy is kept until it is acknowledged, under the port's next number (R353, R355). -/
def State.keepFrame (s : State) (d : Nat) (host : Bool) (cfg : BitVec 56) (dst : Option Nat) (payload : List Byte) : State :=
  s.modPort d host fun p => { p with
    nextSeq := p.nextSeq + 1, kept := p.kept ++ [⟨p.nextSeq, dst, payload, cfg, 0, s.clk⟩] }

/-- Bytes cut into pieces of at most 8,192 (R353). -/
def cutFrames : Nat → List Byte → List (List Byte)
  | 0, _ => []
  | fuel + 1, bs => if bs.length ≤ 8192 then [bs] else bs.take 8192 :: cutFrames fuel (bs.drop 8192)

/-- Bytes for die `dst` of another module leave on the scale-out port of die `d`, in data frames whose copies are kept (R349,
R353, R355). -/
def State.sendFrame (s : State) (d : Nat) (cfg : BitVec 56) (dst : Option Nat) (payload : List Byte) : State :=
  (cutFrames (payload.length / 8192 + 1) payload).foldl (fun s b =>
    (s.putFrame d false cfg dst 0 (s.port d false).nextSeq b).keepFrame d false cfg dst b) s

/-- An operation leaves on a port: the output stands for the frame that carries it for the first time (R412, R415). -/
def State.sendOp (s : State) (d : Nat) (host : Bool) (o : Output) : State :=
  { s.keepFrame d host (s.linkCfg d) none o.opBytes with outs := s.outs ++ [o] }

/-- The host port that a module's EVENTs take: that of die 0, or of die 15 while die 0's is down (R415). -/
def State.eventPort (s : State) (m : Nat) : Nat := if (s.die (16 * m)).hp.up then 16 * m else 16 * m + 15

/-- An EVENT of module `m` leaves (R415); of one that has tripped or did not boot nothing does but on the sideband (R425, R426). -/
def State.report (s : State) (m code region ssn cause tile data : Nat) : State :=
  if (s.module m).alive then s.sendOp (s.eventPort m) true (.event m code region ssn cause tile data) else s

end Sys2Proof.Machine
end

