-- ==== Sys2Proof/Machine/Exchange.lean ====
section
/-! DEFINITION. Membership of regions, the Reel exchange and the messages (R98, R99, R285-R306): `xsend`, `xrecv`, `send`,
`recv`, `rspawn`, and the steps of the exchange phase. -/

namespace Sys2Proof.Machine

/-! ## Regions and their tiles (R389) -/

/-- The tiles of a region, on all its modules. -/
def Region.tiles (r : Region) : List Nat := r.parts.flatMap fun p => p.tiles

/-- The started, held or stopped region a tile belongs to. -/
def State.regionOf (s : State) (t : Nat) : Option Region :=
  s.regions.find? fun r => decide (r.phase ≠ .freed) && r.tiles.contains t

/-- Whether tile `u` is a tile of the leaf region of tile `t`. -/
def State.sameRegion (s : State) (t u : Nat) : Bool :=
  match s.regionOf t with
  | some r => r.tiles.contains u
  | none => false

/-- A tile of a launching region is set: every entry of its page-fetch list has completed (R395). -/
def Tile.isSet (tl : Tile) : Bool := tl.launchPf.isEmpty && tl.haulQ.isEmpty && tl.haulStore.isEmpty

/-- A tile is quiescent (R29): in no region, or with its last superstep sealed, no core running and no engine operation outstanding. That is a
tile that has stopped, one that waits for its start instant after a commit, and one that is set and waits for its first superstep
(R191, R395); not one that waits for the start of a re-run. -/
def Tile.quiescent (tl : Tile) : Bool :=
  !tl.inReg || decide (tl.node = .stop) || (decide (tl.node = .relwait) && tl.fresh) || (decide (tl.node = .seal) && tl.launching && tl.isSet)

/-! ## Paths (R14, R286) -/

/-- Row and column of a die in its module (R14). -/
def dieRow (d : Nat) : Nat := d % 16 / 4
def dieCol (d : Nat) : Nat := d % 4

/-- The distance of two numbers. -/
def absDiff (a b : Nat) : Nat := if a ≤ b then b - a else a - b

/-- L(S, T): cycles from out-port to in-port (R286). -/
def reelLatency (a b : Nat) : Nat :=
  6 + 4 * (absDiff (dieRow (dieOfTile a)) (dieRow (dieOfTile b)) + absDiff (dieCol (dieOfTile a)) (dieCol (dieOfTile b)))

/-- The first boundary of the path between two dies of a module: along the row first; 31 within one die (R14, R356). -/
def firstBoundary (a b : Nat) : Nat :=
  if dieCol a < dieCol b then 3 * dieRow a + dieCol a
  else if dieCol b < dieCol a then 3 * dieRow a + dieCol a - 1
  else if dieRow a < dieRow b then 12 + 4 * dieRow a + dieCol a
  else if dieRow b < dieRow a then 12 + 4 * (dieRow a - 1) + dieCol a
  else 31

/-- The die at the other end of the link on side `k` of a die: before it or after it in its row, before it or after it in its column. -/
def beyond (d : Nat) (k : Fin 4) : Nat := if k = 0 then d - 1 else if k = 1 then d + 1 else if k = 2 then d - 4 else d + 4

/-- The side of that die which the link is on. -/
def facing (k : Fin 4) : Fin 4 := if k = 0 then 1 else if k = 1 then 0 else if k = 2 then 3 else 2

/-- A die of a module has a link on that side (R14). -/
def hasLink (d : Nat) (k : Fin 4) : Bool :=
  if k = 0 then decide (0 < dieCol d) else if k = 1 then decide (dieCol d < 3) else if k = 2 then decide (0 < dieRow d)
  else decide (dieRow d < 3)

/-- The links on the path between two dies of a module, along the row and then the column, each as the die and the side it leaves by
(R14, R356). -/
def hopsFrom : Nat → Nat → Nat → List (Nat × Fin 4)
  | 0, _, _ => []
  | fuel + 1, a, b =>
    if a % 16 = b % 16 then []
    else
      let k : Fin 4 := if dieCol a < dieCol b then 1 else if dieCol b < dieCol a then 0 else if dieRow a < dieRow b then 3 else 2
      (a, k) :: hopsFrom fuel (beyond a k) b

/-- The boundaries on the path between two dies. -/
def pathFrom (a b : Nat) : List Nat := (hopsFrom 8 a b).map fun h => firstBoundary h.1 (beyond h.1 h.2)

/-! ## The die-to-die links (R353, R357) -/

/-- The end of a die-to-die link. -/
def State.link (s : State) (d : Nat) (k : Fin 4) : Port := (s.die d).links[k]

/-- The end of a die-to-die link changed. -/
def State.modLink (s : State) (d : Nat) (k : Fin 4) (f : Port → Port) : State :=
  s.modDie d fun x => { x with links := x.links.set k (f x.links[k]) }

/-- The links of a module on boundary `n`, each as the die and the side of one of its two ends. -/
def endsOf (m n : Nat) : List (Nat × Fin 4) :=
  (List.range 16).flatMap fun i =>
    (List.finRange 4).filterMap fun k =>
      if hasLink i k ∧ firstBoundary i (beyond i k) = n then some (16 * m + i, k) else none

/-- A frame leaves on a link: on its way to the other end. -/
def State.putWire (s : State) (d : Nat) (k : Fin 4) (kind : Nat) (seq : BitVec 32) (payload : List Byte) : State :=
  { s with wires := s.wires ++ [⟨beyond d k, facing k, kind, seq, (s.link d k).expected, payload⟩] }

/-- A flit leaves on a link under its next number, and its copy is kept until it is acknowledged. -/
def State.sendLink (s : State) (d : Nat) (k : Fin 4) (payload : List Byte) : State :=
  let n := (s.link d k).nextSeq
  (s.putWire d k 0 n payload).modLink d k fun p => { p with
    nextSeq := n + 1, kept := p.kept ++ [⟨n, none, payload, s.linkCfg d, 0, s.clk⟩] }

/-- The flits of a transfer: 64 bytes each (DEDUCED, notes/assumptions/42.md). -/
def flitCuts (bs : List Byte) : List (List Byte) := (List.range ((bs.length + 63) / 64)).map fun i => (bs.drop (64 * i)).take 64

/-- The data of a transfer crosses the die-to-die links between two dies of a module, as flits that each link numbers in its direction and
keeps for replay (R353). That each link has them at once, and that replay holds back no step of the transfer, is how this model reads
R353 with R286 (DEDUCED, notes/assumptions/42.md). -/
def State.crossLinks (s : State) (a b : Nat) (bs : List Byte) : State :=
  (hopsFrom 8 a b).foldl (fun s h => (flitCuts bs).foldl (fun s f => s.sendLink h.1 h.2 f) s) s

/-- The first boundary of the path between two dies whose link has failed and not passed its self-test, after its module (R357). -/
def State.brokenOn (s : State) (a b : Nat) : Option (Nat × Nat) :=
  ((hopsFrom 8 a b).find? fun h => !(s.link h.1 h.2).up).map fun h => (modOfDie h.1, firstBoundary h.1 (beyond h.1 h.2))

/-- Tile `t` records cause 0x14 against boundary `n` of module `m`, its own or a partner's (R356, R357). -/
def State.recordLink (s : State) (t m n : Nat) : State :=
  (s.modTile t fun tl => { tl with linkMods := if tl.linkMods.contains (n, m) then tl.linkMods else tl.linkMods ++ [(n, m)] }).recordError t 0x14 6 n 0

/-! ## The exchange schedule (R288-R291) -/

/-- F, the flits of a transfer (R290). -/
def flitsOf (n : Nat) : Nat := (n + 63) / 64

/-- The first cycle of an entry at its port: the out-port of a send, the in-port of a receive (R290). -/
def XEntry.first (e : XEntry) (t : Nat) : Nat := if e.send then e.cyc else e.cyc + reelLatency e.peer t

/-- Two entries of one port share a cycle (R291); an entry of no flits has no cycle. -/
def XEntry.collides (e f : XEntry) (t : Nat) : Bool :=
  decide (e.send = f.send) && decide (0 < flitsOf e.n) && decide (0 < flitsOf f.n) && decide (e.first t < f.first t + flitsOf f.n) && decide (f.first t < e.first t + flitsOf e.n)

/-- The checks of R291 and the entry appended. `bad` says that a bit required to be 0 is 1. -/
def State.schedule (s : State) (a b : BitVec 5) (bad : Bool) (e : XEntry) : Out :=
  let tl := s.tile s.here
  let c := (s.rx b).toNat
  match firstOut (runsOf e.rc 0 e.n) with
  | some x => s.trap 0x04 (BitVec.ofNat 64 x)
  | none =>
    if 2 ^ 20 < c + flitsOf e.n ∨ 1024 ≤ tl.xsched.length then s.trap 0x05 (s.rx b)
    else if bad ∨ s.sameRegion s.here e.peer = false ∨ modOfTile e.peer ≠ modOfTile s.here then s.trap 0x07 (s.rx a)
    else if tl.xsched.any fun f => e.collides f s.here then s.trap 0x0C (s.rx b)
    else if e.n = 0 then s.doneNop
    else (s.modTile s.here fun tl => { tl with xsched := tl.xsched ++ [e] }).doneNop

/-- xsend (R289-R291). -/
def execXsend (e a b : BitVec 5) (s : State) : Out :=
  s.onHaul (wordOf (.xsend e a b)) fun s =>
    let v := s.rx a
    let ra := decide (v.fld 63 1 = 1)
    let bad := decide (v.fld 28 4 ≠ 0) || decide (v.fld 53 10 ≠ 0) || (ra && decide (v.fld 32 21 ≠ 0))
    s.schedule a b bad ⟨true, v.fld 0 28, ra, v.fld 32 21, s.recReg e, (s.rx b).toNat, recExtent (s.recReg e), false, [], false⟩

/-- xrecv (R289-R291). -/
def execXrecv (e a b : BitVec 5) (s : State) : Out :=
  s.onHaul (wordOf (.xrecv e a b)) fun s =>
    let v := s.rx a
    s.schedule a b (decide (v.fld 28 36 ≠ 0))
      ⟨false, v.fld 0 28, true, 0, s.recReg e, (s.rx b).toNat, recExtent (s.recReg e), false, [], false⟩

/-! ## Messages: issue (R297-R301) -/

/-- send (R299): the message is read at execution and put into the outbox. -/
def execSend (p : BitVec 3) (a b : BitVec 5) (n : BitVec 2) (t : BitVec 1) (s : State) : Out :=
  s.onWork (wordOf (.send p a b n t)) fun s =>
    s.checked (s.rx b) 64 fun s =>
      let dst := s.rx a
      if 2 ^ 28 ≤ dst.toNat ∨ s.sameRegion s.here dst.toNat = false then s.trap 0x07 dst
      else if 256 ≤ (s.tile s.here).cur.outbox.length then
        if t = 1 then s.trap 0x09 dst else s.doneP p false
      else
        s.readBytes (s.rx b).toNat 64 fun bs s =>
          (s.modTile s.here fun tl => { tl with cur := { tl.cur with
            outbox := tl.cur.outbox ++ [⟨false, dst.toNat, n.toNat, bs⟩] } }).doneP p true

/-- The message at the head of mailbox `q`: its slot. -/
def Tile.mbSlot (tl : Tile) (q : Fin 4) : Nat := 64 * q.val + (tl.cur.mbHead[q]).toNat

/-- The source of the message in a slot; a free value where a context image brought the message (R409). -/
def State.mbSource (s : State) (t slot : Nat) : Nat :=
  match (s.tile t).mbSrc.find? fun q => decide (q.1 = slot) with
  | some q => q.2
  | none => (Config.freeBits 28 s.free).toNat

/-- Mailbox `q` pops its head (R297). -/
def Tile.mbPop (tl : Tile) (q : Fin 4) : Tile :=
  { tl with cur := { tl.cur with
      mbHead := tl.cur.mbHead.set q (tl.cur.mbHead[q] + 1)
      mbCount := tl.cur.mbCount.set q (tl.cur.mbCount[q] - 1) } }

/-- The receive of R300 from mailbox `q`, if one was found. -/
def State.recvFrom (s : State) (d a : BitVec 5) (st : Bool) (p : BitVec 3) (q : Option (Fin 4)) : Out :=
  match q with
  | none => if st then s.doneP p false else s.waitOn .recv
  | some q =>
    let tl := s.tile s.here
    let slot := tl.mbSlot q
    if tl.badMb.contains (q.val, slot % 64) then .next (s.recordError s.here 0x13 7 q.val (slot % 64))
    else
      s.storeBytes (s.rx a).toNat (tl.mbx.bytes (64 * slot) 64) fun s1 =>
        let g := s1.me.wx d (BitVec.ofNat 64 (s.mbSource s.here slot))
        ({ s1 with free := s1.free + 1 }.modTile s1.here fun tl => tl.mbPop q).done (if st then g.wp p true else g)

/-- recv (R300): from the mailbox of one priority. -/
def execRecv (d a : BitVec 5) (n : BitVec 2) (st : BitVec 1) (p : BitVec 3) (s : State) : Out :=
  s.onWork (wordOf (.recv d a n st p)) fun s =>
    s.checked (s.rx a) 64 fun s =>
      s.recvFrom d a (decide (st = 1)) p (if (s.tile s.here).cur.mbCount[n.toFin] = 0 then none else some n.toFin)

/-- recv.any (R300): from the mailbox of the highest priority that is not empty. -/
def execRecvAny (d a : BitVec 5) (st : BitVec 1) (p : BitVec 3) (s : State) : Out :=
  s.onWork (wordOf (.recvAny d a st p)) fun s =>
    s.checked (s.rx a) 64 fun s =>
      s.recvFrom d a (decide (st = 1)) p ((List.finRange 4).find? fun q => decide ((s.tile s.here).cur.mbCount[q] ≠ 0))

/-- rspawn (R301): the checks in the order listed; the first 8 bytes are read for them, all 64 where the request is appended. -/
def execRspawn (p : BitVec 3) (a b : BitVec 5) (s : State) : Out :=
  s.onWork (wordOf (.rspawn p a b)) fun s =>
    s.checked (s.rx b) 64 fun s =>
      s.readBytes (s.rx b).toNat 8 fun head _ =>
        let e := fld (leNat head) 0 21
        let dst := s.rx a
        if e % 4 ≠ 0 then s.trap 0x03 (BitVec.ofNat 64 e)
        else if Config.tmSize ≤ e then s.trap 0x04 (BitVec.ofNat 64 e)
        else if 2 ^ 28 ≤ dst.toNat ∨ s.sameRegion s.here dst.toNat = false then s.trap 0x07 dst
        else if 256 ≤ (s.tile s.here).cur.outbox.length then s.trap 0x09 dst
        else
          s.readBytes (s.rx b).toNat 64 fun bs s =>
            (s.modTile s.here fun tl => { tl with cur := { tl.cur with
              outbox := tl.cur.outbox ++ [⟨true, dst.toNat, 0, bs⟩] } }).doneP p true

/-! ## The exchange phase (R292-R295) -/

/-- A seal-phase cause of a tile, counted in `XERR` of its die (R294, R306). Every event of R294 counts, also one whose cause the tile has
recorded before in the attempt: R306 leaves open which is counted (DESIGN CHOICE, notes/assumptions/44.md). -/
def State.sealCause (s : State) (t code : Nat) : State :=
  (s.modTile t fun tl => tl.record ⟨code, none⟩).modDie (dieOfTile t) fun x =>
    { x with ex := { x.ex with
        coll := if code = 0x0C then x.ex.coll + 1 else x.ex.coll
        win := if code = 0x0B then x.ex.win + 1 else x.ex.win } }

/-- One more late start of a tile of the die (R198). -/
def State.countLate (s : State) (t : Nat) : State :=
  s.modDie (dieOfTile t) fun x => { x with qd := { x.qd with late := x.qd.late + 1 } }

/-- The next down packet of a tile, if it is of a kind and has travelled (R167). -/
def State.downOf (s : State) (t kind : Nat) : Option Down :=
  match (s.tile t).down with
  | p :: _ => if p.kind = kind ∧ p.sentAt / 2 < s.clk / 2 then some p else none
  | [] => none

/-- EXCHANGE_START_PACKET (R98, R169, R176): the window pairs in force are latched, and T_x is known. -/
def execExchangeStartPacket (t : Nat) (s : State) : Out :=
  match s.downOf t 0 with
  | none => .next s
  | some p =>
    let s1 := s.modTile t fun tl => { tl with down := tl.down.drop 1 }
    if (s.tile t).node ≠ .arrived then .next s1
    else
      let s2 := s1.modTile t fun tl => { tl with winEff := tl.cur.win, xStart := some p.instant, xEnded := false, offered := [] }
      .next (if p.instant < s.clk then s2.countLate t else s2)

/-- The exchange cycle of a tile at a clk (R285). -/
def Tile.xCycle (tl : Tile) (clk : Nat) : Nat := (clk - tl.xStart.getD 0) / 2

/-- EXCHANGE_START (R175, R176, R294, R347): the exchange program starts at T_x, or later; entries whose cycle is past are late.
A `csend` whose copy did not fit the collective buffer is over, and gives cause 0x0A. -/
def execExchangeStart (t : Nat) (s : State) : Out :=
  let tl := s.tile t
  match tl.node, tl.xStart with
  | .arrived, some x =>
    if s.clk < x then .next s
    else
      let now := tl.xCycle s.clk
      let sch := tl.xsched.map fun e => { e with late := decide (e.first t < now) }
      let unfit := tl.col.any fun e => decide (e.status = .unfit)
      let s1 := s.setTile t { tl with
        node := .exch, xsched := sch, col := tl.col.map fun e => if e.status = .unfit then { e with status := .done } else e }
      let s2 := if sch.any fun e => e.late then s1.sealCause t 0x0C else s1
      .next (if unfit then s2.sealCause t 0x0A else s2)
  | _, _ => .next s

/-- Whether a collective receive entry of the tile covers an address (R346). -/
def Tile.underCol (tl : Tile) (a : Nat) : Bool :=
  tl.col.any fun e => !e.send && (runsOf e.rc 0 e.n).any fun p => decide (p.1 ≤ a) && decide (a < p.1 + p.2)

/-- Bytes of some runs, those that meet a collective landing replaced by free values (R346). -/
def Tile.mixBytes (tl : Tile) (k : Nat) (runs : List (Nat × Nat)) (bs : List Byte) : List Byte :=
  if tl.col.all fun e => e.send then bs
  else
    ((bs.zip (runs.flatMap fun p => (List.range p.2).map fun i => p.1 + i)).zipIdx).map fun q =>
      if tl.underCol q.1.2 then Config.freeByte k q.2 else q.1.1

/-- The send entry with a flit due in an exchange cycle, with its place in the schedule. -/
def Tile.dueSend (tl : Tile) (now : Nat) : Option (XEntry × Nat) :=
  tl.xsched.zipIdx.find? fun q =>
    q.1.send && !q.1.late && decide (q.1.cyc ≤ now) && decide (now < q.1.cyc + flitsOf q.1.n) &&
      !q.1.moved.contains (now - q.1.cyc)

/-- An entry of the schedule replaced. -/
def Tile.setX (tl : Tile) (k : Nat) (e : XEntry) : Tile := { tl with xsched := tl.xsched.set k e }

/-- FLIT_SEND (R285, R286, R292): the flit of this cycle leaves the out-port; one whose path has a failed link meets it (R357). -/
def execFlitSend (t : Nat) (s : State) : Out :=
  let tl := s.tile t
  let now := tl.xCycle s.clk
  if tl.node ≠ .exch then .next s
  else
    match tl.dueSend now with
    | none => .next s
    | some (e, k) =>
      let i := now - e.cyc
      let len := Nat.min 64 (e.n - 64 * i)
      let runs := runsOf e.rc (64 * i) len
      let s1 := s.setTile t (tl.setX k { e with moved := i :: e.moved })
      match tl.badRuns runs with
      | some w => .next (s1.tmError t w)
      | none =>
        let f : Flit := ⟨t, e.peer, s.clk / 2 + reelLatency t e.peer, e.ra, e.daddr, k, i, e.n,
          tl.mixBytes s.free runs (tl.readRuns runs)⟩
        match s.brokenOn (dieOfTile t) (dieOfTile e.peer) with
        | some n => .next ((s.setTile t (tl.setX k { e with moved := List.range (flitsOf e.n) })).recordLink t n.1 n.2)
        | none => .next ({ s1 with flits := s1.flits ++ [f], free := s1.free + 1 }.crossLinks (dieOfTile t) (dieOfTile e.peer) f.data)

/-- Pair `n` of the latched windows admits bank word `w` (R98). -/
def Tile.admits (tl : Tile) (w : Nat) : Bool :=
  (List.range 4).any fun n => decide ((tl.winEff.toList.getD (2 * n) 0).toNat ≤ w) && decide (w < (tl.winEff.toList.getD (2 * n + 1) 0).toNat)

/-- A whole transfer may land (R99): every byte in tile memory and in an admitted bank word. -/
def Tile.admitsRuns (tl : Tile) (l : List (Nat × Nat)) : Bool :=
  l.all fun p => decide (p.1 + p.2 ≤ Config.tmSize) &&
    (List.range ((p.1 + p.2 - 1) / 16 + 1 - p.1 / 16)).all fun i => tl.admits (p.1 / 16 + i)

/-- Bytes of remote data land in runs of tile `t`; where the version store is full nothing of them lands, and the tile records
cause 0x0A (R95, R96, R294). -/
def State.landRuns (s : State) (t : Nat) (runs : List (Nat × Nat)) (bs : List Byte) : State :=
  match (s.tile t).fillRuns (layRuns runs bs) with
  | (tl', none) => s.setTile t tl'
  | (_, some _) => s.sealCause t 0x0A

/-- A refused transfer: its sender records cause 0x0B, once (R99, R294). -/
def State.refuse (s : State) (f : Flit) : State :=
  match (s.tile f.src).xsched[f.entry]? with
  | none => s
  | some e =>
    if e.closed then s
    else (s.modTile f.src fun tl => tl.setX f.entry { e with closed := true }).sealCause f.src 0x0B

/-- The receive entry a flit matches (R293). -/
def Tile.matching (tl : Tile) (t : Nat) (f : Flit) : Option (XEntry × Nat) :=
  let at_ := f.cycle - tl.xStart.getD 0 / 2
  tl.xsched.zipIdx.find? fun q =>
    !q.1.send && decide (q.1.peer = f.src) && decide (q.1.first t ≤ at_) && decide (at_ < q.1.first t + flitsOf q.1.n)

/-- A flit that meets no other lands, or is refused, or matches nothing (R293, R294). The windows are checked for a transfer of a tile to
itself too: R293 has every transfer of both kinds checked, R98 and R99 speak of transfers from other tiles (DESIGN CHOICE,
notes/assumptions/44.md). One that reaches a tile outside its exchange and seal phases does not land, and the receiver records cause 0x0C:
R294 says so before the exchange start, and of a tile that rolls back, is held or has stopped it says nothing (DESIGN CHOICE,
notes/assumptions/44.md). -/
def State.landFlit (s : State) (f : Flit) : State :=
  let t := f.dst
  let tl := s.tile t
  match tl.node with
  | .exch | .seal =>
    if !f.ra then
      if !tl.admitsRuns [(f.daddr, f.n)] then s.refuse f
      else
        let runs := [(f.daddr + 64 * f.i, f.data.length)]
        { s with free := s.free + 1 }.landRuns t runs (tl.mixBytes s.free runs f.data)
    else
      match tl.matching t f with
      | none => s.sealCause t 0x0C
      | some (e, k) =>
        if e.closed || e.late then s
        else if e.n ≠ f.n then (s.modTile t fun tl => tl.setX k { e with closed := true }).sealCause t 0x0C
        else if !tl.admitsRuns (runsOf e.rc 0 e.n) then
          (s.modTile t fun tl => tl.setX k { e with closed := true }).refuse f
        else
          let port := f.cycle - tl.xStart.getD 0 / 2 - e.first t
          let runs := runsOf e.rc (64 * f.i) f.data.length
          { (s.modTile t fun tl => tl.setX k { e with moved := port :: e.moved }) with free := s.free + 1 }.landRuns t runs
            (tl.mixBytes s.free runs f.data)
  | _ => s.sealCause t 0x0C

/-- FLIT_ARRIVAL (R286, R293, R294): the flits that reach one in-port in this cycle: one lands; two collide. -/
def execFlitArrival (i : Nat) (s : State) : Out :=
  match s.flits[i]? with
  | none => .next s
  | some f =>
    if s.clk / 2 < f.cycle then .next s
    else
      let same (g : Flit) : Bool := decide (g.dst = f.dst) && decide (g.cycle = f.cycle)
      let s1 := { s with flits := s.flits.filter fun g => !same g }
      .next (if 1 < (s.flits.filter same).length then s1.sealCause f.dst 0x0C else s1.landFlit f)

/-- XRECV_MISSED_FLIT (R294): an in-port cycle of a receive entry has passed without its flit. -/
def execXrecvMissedFlit (t e : Nat) (s : State) : Out :=
  let tl := s.tile t
  match tl.node, tl.xsched[e]? with
  | .exch, some x =>
    if x.send || x.late || x.closed then .next s
    else if (List.range (flitsOf x.n)).any fun k => decide (x.first t + k < tl.xCycle s.clk) && !x.moved.contains k then
      .next ((s.setTile t (tl.setX e { x with closed := true })).sealCause t 0x0C)
    else .next s
  | _, _ => .next s

/-- The scheduled exchange of a tile has ended (R295). -/
def Tile.exchangeOver (tl : Tile) (t clk : Nat) : Bool :=
  tl.xsched.all fun e =>
    if e.send then decide (e.cyc + flitsOf e.n - 1 + 2 * reelLatency t e.peer ≤ tl.xCycle clk)
    else decide (e.first t + flitsOf e.n - 1 ≤ tl.xCycle clk) &&
      (e.closed || e.late || (List.range (flitsOf e.n)).all fun k => e.moved.contains k)

/-- EXCHANGE_END (R295). -/
def execExchangeEnd (t : Nat) (s : State) : Out :=
  let tl := s.tile t
  if tl.node = .exch ∧ tl.xEnded = false ∧ tl.exchangeOver t s.clk then .next (s.setTile t { tl with xEnded := true }) else .next s

/-- MESSAGE_OFFER (R302, R437): an outbox entry is offered and acknowledged; one for another module over a link that is not
up meets a failed link (R357). -/
def execMessageOffer (t e : Nat) (s : State) : Out :=
  let tl := s.tile t
  match tl.cur.outbox[e]? with
  | none => .next s
  | some o =>
    if tl.node ≠ .exch ∨ tl.xEnded = false ∨ tl.offered.contains e then .next s
    else
      let s1 := s.setTile t { tl with offered := e :: tl.offered }
      if tl.badMb.contains (4, e) then .next (s1.recordError t 0x13 7 4 e)
      else if modOfTile o.dst ≠ modOfTile t ∧ (s.port (dieOfTile t) false).up = false then
        .next (s1.recordError t 0x14 5 (dieOfTile t % 16) (modOfTile o.dst % 4096))
      else if modOfTile o.dst ≠ modOfTile t then .next (s1.sendFrame (dieOfTile t) tl.olcfgEff (some (dieOfTile o.dst)) o.data)
      else
        match s.brokenOn (dieOfTile t) (dieOfTile o.dst) with
        | some n => .next (s1.recordLink t n.1 n.2)
        | none => .next (s1.crossLinks (dieOfTile t) (dieOfTile o.dst) o.data)

end Sys2Proof.Machine
end

