-- ==== Sys2Proof/Machine/Collective.lean ====
section
/-! DEFINITION. Collectives (R337-R350): groups and ranks, collective transfers and their landing, streams and the router. -/

namespace Sys2Proof.Machine

/-! ## Groups and ranks (R337-R341) -/

def grpBase (g : Rec) : Nat := fld g.toNat 0 28
def grpN0 (g : Rec) : Nat := fld g.toNat 32 20
def grpS0 (g : Rec) : Nat := fld g.toNat 64 28
def grpN1 (g : Rec) : Nat := fld g.toNat 96 20
def grpS1 (g : Rec) : Nat := fld g.toNat 128 28
def grpN2 (g : Rec) : Nat := fld g.toNat 160 20
def grpS2 (g : Rec) : Nat := fld g.toNat 192 28
/-- W: 0 means 2^18 (R337). -/
def grpWrap (g : Rec) : Nat := if fld g.toNat 224 18 = 0 then 2 ^ 18 else fld g.toNat 224 18

/-- The reserved bits of a descriptor are 0 (R337). -/
def grpReservedOk (g : Rec) : Bool :=
  decide (fld g.toNat 28 4 = 0) && decide (fld g.toNat 52 12 = 0) && decide (fld g.toNat 92 4 = 0) && decide (fld g.toNat 116 12 = 0) &&
    decide (fld g.toNat 156 4 = 0) && decide (fld g.toNat 180 12 = 0) && decide (fld g.toNat 220 4 = 0) && decide (fld g.toNat 242 14 = 0)

/-- n, the ranks of a group. -/
def grpSize (g : Rec) : Nat := grpN0 g * grpN1 g * grpN2 g

/-- The checks of `cgrp` on a descriptor (R339). -/
def grpOk (g : Rec) : Bool :=
  grpReservedOk g && decide (grpN0 g ≠ 0) && decide (grpN1 g ≠ 0) && decide (grpN2 g ≠ 0) && decide (grpSize g ≤ 2 ^ 20) &&
    decide (grpBase g < 1024 * grpWrap g)

/-- Addr(r): the tile of rank `r` (R337). -/
def grpAddr (g : Rec) (r : Nat) : Nat :=
  (grpBase g + r % grpN0 g * grpS0 g + r / grpN0 g % grpN1 g * grpS1 g + r / (grpN0 g * grpN1 g) * grpS2 g) % (1024 * grpWrap g)

/-- The least rank at an address, looking from rank `n - fuel` on (R340). -/
def rankFrom (g : Rec) (a : Nat) : Nat → Option Nat
  | 0 => none
  | fuel + 1 =>
    let r := grpSize g - (fuel + 1)
    if grpAddr g r = a then some r else rankFrom g a fuel

/-- The least rank of a tile in a group. -/
def grpRank (g : Rec) (a : Nat) : Option Nat := rankFrom g a (grpSize g)

/-- All ones. -/
def ones64 : W := 0xFFFFFFFFFFFFFFFF#64

/-- cgrp (R339). -/
def execCgrp (d a : BitVec 5) (s : State) : Out :=
  s.onHaul (wordOf (.cgrp d a)) fun s =>
    s.checked (s.rx a) 32 fun s =>
      s.readBytes (s.rx a).toNat 32 fun bs s1 =>
        let g : Rec := BitVec.ofNat 256 (leNat bs)
        if grpOk g then s1.done { (s.me.wx d (BitVec.ofNat 64 (grpSize g))) with group := some g } else s.trap 0x19 (s.rx a)

/-- crank (R340). -/
def execCrank (d a : BitVec 5) (s : State) : Out :=
  s.onHaul (wordOf (.crank d a)) fun s =>
    match s.me.group with
    | none => s.trap 0x19 (s.rx a)
    | some g =>
      s.doneX d (match grpRank g (s.rx a).toNat with
        | some r => BitVec.ofNat 64 r
        | none => ones64)

/-- The largest power of two not above `n`, for `n` from 1 to 2^20 (R341). -/
def topPow (n : Nat) : Nat := ((List.range 21).filter fun k => decide (2 ^ k ≤ n)).foldl (fun _ k => 2 ^ k) 1

/-- The partner of rank `r` of `n` for a step (R341). -/
def partner (n r k : Nat) (pre : Bool) : Option Nat :=
  let p := topPow n
  if n ≤ r then none
  else if !pre then if r < p ∧ 2 ^ k < p then some (r ^^^ 2 ^ k) else none
  else if p ≤ r then some (r - p)
  else if r < n - p then some (r + p)
  else none

/-- cpart (R341). -/
def execCpart (d a b : BitVec 5) (s : State) : Out :=
  s.onHaul (wordOf (.cpart d a b)) fun s =>
    let v := s.rx b
    match s.me.group with
    | none => s.trap 0x19 v
    | some g =>
      if v.fld 5 3 ≠ 0 ∨ v.fld 9 55 ≠ 0 then s.trap 0x19 v
      else
        s.doneX d (match partner (grpSize g) (s.rx a).toNat (v.fld 0 5) (decide (v.fld 8 1 = 1)) with
          | some r => BitVec.ofNat 64 r
          | none => ones64)

/-! ## Stream entries (R348-R350) -/

/-- The entry of stream `v` on a die. -/
def LinkCtl.entry (l : LinkCtl) (v : Nat) : W := kvGet 0 l.router v

/-- The current set of an entry: `V`, `EGR`, `RMT`. -/
def curSet (e : W) : Nat := e.fld (9 * e.fld 36 2) 9
def setValid (e : W) (k : Nat) : Bool := decide (e.fld (9 * k) 1 = 1)
def curEgr (e : W) : Nat := fld (curSet e) 1 4
def curRmt (e : W) : Nat := fld (curSet e) 5 4

/-- The entry of stream `v` belongs to the region of tile `t` (R349). -/
def State.ownsStream (s : State) (t v : Nat) : Bool :=
  let e := (s.die (dieOfTile t)).lk.entry v
  decide (v < 4096) && decide (e.fld 63 1 = 1) && decide (e.fld 40 20 = (s.tile t).region.toNat)

/-- croute (R350): the write is held for the commit. -/
def execCroute (a b : BitVec 5) (s : State) : Out :=
  s.onHaul (wordOf (.croute a b)) fun s =>
    if s.ownsStream s.here (s.rx a).toNat then
      (s.modTile s.here fun tl => { tl with routes := tl.routes ++ [⟨(s.rx a).toNat, some (s.rx b)⟩] }).doneNop
    else s.trap 0x07 (s.rx a)

/-- cmark (R350): a marker, held for the commit. -/
def execCmark (a : BitVec 5) (s : State) : Out :=
  s.onHaul (wordOf (.cmark a)) fun s =>
    if s.ownsStream s.here (s.rx a).toNat then
      (s.modTile s.here fun tl => { tl with routes := tl.routes ++ [⟨(s.rx a).toNat, none⟩] }).doneNop
    else s.trap 0x07 (s.rx a)

/-- A `croute` value written into an entry: bits [37:0], bits [39:38] reserved. -/
def routeEntry (e v : W) : W := BitVec.ofNat 64 (e.toNat / 2 ^ 40 * 2 ^ 40 + v.fld 0 38)

/-- A marker moves `CUR` to the next valid set (R350). -/
def markEntry (e : W) : W :=
  let c := e.fld 36 2
  match ([1, 2, 3] : List Nat).find? fun i => setValid e ((c + i) % 4) with
  | some i => BitVec.ofNat 64 (e.toNat - c * 2 ^ 36 + (c + i) % 4 * 2 ^ 36)
  | none => e

/-! ## Issue (R342, R343) -/

/-- The partner tile of an instruction: the ranks of the current group, none where cause 0x19 applies. -/
def State.partnerTile (s : State) (b : BitVec 5) : Option Nat :=
  match s.me.group with
  | none => none
  | some g =>
    let p := grpAddr g (s.rx b).toNat
    if (grpRank g s.here).isNone ∨ grpSize g ≤ (s.rx b).toNat ∨ p = s.here then none else some p

/-- The tile of rank `X[b]`, where there is one, for the check of cause 0x07. -/
def State.rankTile (s : State) (b : BitVec 5) : Option Nat :=
  match s.me.group with
  | none => none
  | some g => if (s.rx b).toNat < grpSize g then some (grpAddr g (s.rx b).toNat) else none

/-- The checks of R343 in the order of their codes. `P` is at fault where it is no tile of the region; else the stream is. -/
def State.colCheck (s : State) (f : Nat) (r : Rec) (a b : BitVec 5) : Option (Nat × W) :=
  let t := s.here
  let n := recExtent r
  let v := (s.rx a).toNat
  let e := (s.die (dieOfTile t)).lk.entry v
  match if f = 2 then firstOdd 4 (runsOf r 0 n) else none with
  | some x => some (0x03, BitVec.ofNat 64 x)
  | none =>
    match firstOut (runsOf r 0 n) with
    | some x => some (0x04, BitVec.ofNat 64 x)
    | none =>
      if (f = 2 ∧ n % 4 ≠ 0) ∨ 256 ≤ (s.tile t).col.length then some (0x05, BitVec.ofNat 64 n)
      else if s.ownsStream t v = false then some (0x07, s.rx a)
      else
        let bad : Option W := (s.rankTile b).bind fun p =>
          if s.sameRegion t p = false then some (BitVec.ofNat 64 p)
          else if modOfTile p ≠ modOfTile t ∧ setValid e (e.fld 36 2) = false then some (s.rx a)
          else none
        match bad with
        | some x => some (0x07, x)
        | none => if (s.partnerTile b).isNone then some (0x19, s.rx b) else none

/-- The issue of a collective instruction of form `f`: 0 `csend`, 1 plain, 2 `add`, 3 `max` (R342-R344). -/
def State.colIssue (s : State) (word f : Nat) (e a b : BitVec 5) (k : BitVec 6) : Out :=
  s.onHaul word fun s =>
    let r := s.recReg e
    match s.colCheck f r a b with
    | some p => s.trap p.1 p.2
    | none =>
      let n := recExtent r
      let ent : ColEntry := ⟨decide (f = 0), f, (s.rx a).toNat, (s.partnerTile b).getD 0, r, n, k.toNat, (s.tile s.here).opSeq, none, .waiting⟩
      if n = 0 then (s.complete s.here k.toNat 8).doneNop
      else if f = 0 then
        if 16 ≤ (s.tile s.here).haulQ.length then s.waitOn .queue
        else (s.modTile s.here fun tl => { tl.enterHaul (newOp .csend 0 r 0 n k) with col := tl.col ++ [ent] }).doneNop
      else (s.modTile s.here fun tl => { tl with col := tl.col ++ [ent], opSeq := tl.opSeq + 1 }).doneNop

/-- csend (R342-R344). -/
def execCsend (e a b : BitVec 5) (k : BitVec 6) (s : State) : Out := s.colIssue (wordOf (.csend e a b k)) 0 e a b k
/-- crecv (R342-R344). -/
def execCrecv (e a b : BitVec 5) (k : BitVec 6) (s : State) : Out := s.colIssue (wordOf (.crecv e a b k)) 1 e a b k
/-- crecv.add (R342-R344). -/
def execCrecvAdd (e a b : BitVec 5) (k : BitVec 6) (s : State) : Out := s.colIssue (wordOf (.crecvAdd e a b k)) 2 e a b k
/-- crecv.max (R342-R344). -/
def execCrecvMax (e a b : BitVec 5) (k : BitVec 6) (s : State) : Out := s.colIssue (wordOf (.crecvMax e a b k)) 3 e a b k

/-! ## The exchange phase (R344-R347, R349, R357) -/

/-- The transfers of a tile on one stream with one partner, in schedule order: the place of entry `k` among them (R345). -/
def Tile.colOrd (tl : Tile) (send : Bool) (stream peer k : Nat) : Nat :=
  ((tl.col.take k).filter fun e => decide (e.send = send) && decide (e.stream = stream) && decide (e.peer = peer)).length

/-- An entry of the collective schedule changed. -/
def Tile.setCol (tl : Tile) (k : Nat) (st : ColStatus) : Tile :=
  { tl with col := match tl.col[k]? with | some e => tl.col.set k { e with status := st } | none => tl.col }

/-- The link a transfer between a tile and a partner uses, as `UNIT`, `BANK` and `ROW` (R356, R357). `src` and `dst` are the
ends of the path. -/
def State.linkOf (s : State) (t peer stream src dst : Nat) : Nat × Nat × Nat :=
  if modOfTile peer ≠ modOfTile t then (5, curEgr ((s.die (dieOfTile t)).lk.entry stream), modOfTile peer % 4096)
  else (6, firstBoundary (dieOfTile src) (dieOfTile dst), 0)

/-- The die-by-die legs of a transfer from tile `t` to a partner, as the dies at their ends (R349): within one module, from die to
die; to another, to die `EGR` of the stream's set, and from die `RMT` of the partner's module. -/
def State.legs (s : State) (t peer stream : Nat) : List (Nat × Nat) :=
  if modOfTile peer = modOfTile t then [(dieOfTile t, dieOfTile peer)]
  else
    let e := (s.die (dieOfTile t)).lk.entry stream
    [(dieOfTile t, 16 * modOfTile t + curEgr e), (16 * modOfTile peer + curRmt e, dieOfTile peer)]

/-- A path of some legs uses boundary `n` of module `m`. -/
def legsUse (m n : Nat) (l : List (Nat × Nat)) : Bool := l.any fun q => decide (modOfDie q.1 = m) && (pathFrom q.1 q.2).contains n

/-- COLLECTIVE_SEND (R347, R349, R437): the next send entry in schedule order leaves, by way of its legs and, to another module, of
the scale-out port of die `EGR`, addressed to die `RMT`; one that needs a link that is not up meets a failed link (R357). Of a transfer to another module the
sender's port is asked whether it is up, and the partner's is not: R437 speaks of one link (DESIGN CHOICE, notes/assumptions/42.md). -/
def execCollectiveSend (t e : Nat) (s : State) : Out :=
  let tl := s.tile t
  match tl.col[e]? with
  | none => .next s
  | some x =>
    if tl.node ≠ .exch ∨ x.send = false ∨ x.status ≠ .waiting ∨ (tl.col.take e).any (fun y => y.send && decide (y.status = .waiting)) then
      .next s
    else
      match x.data with
      | none => .next s
      | some bs =>
        let l := s.linkOf t x.peer x.stream t x.peer
        match (s.legs t x.peer x.stream).findSome? fun q => s.brokenOn q.1 q.2 with
        | some n => .next ((s.setTile t (tl.setCol e .done)).recordLink t n.1 n.2)
        | none =>
        if l.1 = 5 ∧ (s.port (16 * modOfTile t + l.2.1) false).up = false then
          .next ((s.setTile t (tl.setCol e .done)).recordError t 0x14 l.1 l.2.1 l.2.2)
        else
          let f : ColXfer := ⟨t, x.peer, x.stream, tl.colOrd true x.stream x.peer e, e, bs⟩
          let rmt := 16 * modOfTile x.peer + curRmt ((s.die (dieOfTile t)).lk.entry x.stream)
          let s1 := if l.1 = 5 then s.sendFrame (16 * modOfTile t + l.2.1) tl.olcfgEff (some rmt) bs else s
          let s2 := (s.legs t x.peer x.stream).foldl (fun s q => s.crossLinks q.1 q.2 bs) s1
          .next { (s2.setTile t (tl.setCol e .sent)) with xfers := s.xfers ++ [f] }

/-- The receive entry that a transfer matches (R345). -/
def Tile.colMatch (tl : Tile) (f : ColXfer) : Option (ColEntry × Nat) :=
  tl.col.zipIdx.find? fun q =>
    !q.1.send && decide (q.1.stream = f.stream) && decide (q.1.peer = f.src) &&
      decide (tl.colOrd false f.stream f.src q.2 = f.ord)

/-- The runs of tile memory that Reel transfers touch in the exchange phase of a tile: its own schedule, and the
sender-addressed transfers of other tiles into it (R346). -/
def State.reelRuns (s : State) (t : Nat) : List (Nat × Nat) :=
  ((s.tile t).xsched.flatMap fun e => runsOf e.rc 0 e.n) ++
    s.tiles.flatMap fun q => (q.2.xsched.filter fun e => e.send && !e.ra && decide (e.peer = t)).map fun e => (e.daddr, e.n)

/-- Whether the byte at `a` of receive entry `k` has an unspecified value (R346): another receive entry covers it, but for one
of the same combining form; a Reel transfer touches it; or the entry itself, if plain, names it twice. -/
def Tile.mixed (tl : Tile) (reel : List (Nat × Nat)) (k : Nat) (e : ColEntry) (a : Nat) : Bool :=
  let covers (l : List (Nat × Nat)) : Bool := l.any fun p => decide (p.1 ≤ a) && decide (a < p.1 + p.2)
  (tl.col.zipIdx.any fun q => !q.1.send && decide (q.2 ≠ k) && !(decide (q.1.f = e.f) && decide (e.f ≠ 1)) && covers (runsOf q.1.rc 0 q.1.n)) ||
    covers reel ||
    (decide (e.f = 1) && decide (1 < ((runsOf e.rc 0 e.n).filter fun p => decide (p.1 ≤ a) && decide (a < p.1 + p.2)).length))

/-- The parts of a landing of form `f`: for `add` elements of 4 bytes, otherwise whole runs, each with its address; a plain run writes
a fresh code to every bank word it covers (R432). -/
def landParts (f : Nat) (runs : List (Nat × Nat)) (bs : List Byte) : List (Nat × List Byte) :=
  (layRuns runs bs).flatMap fun p =>
    if f = 2 then (List.range (p.2.length / 4)).map fun i => (p.1 + 4 * i, (p.2.drop (4 * i)).take 4) else [p]

/-- Bytes combined with those of tile memory (R344): 2 adds S32 elements, 3 takes the maximum, 1 replaces. -/
def combine (f : Nat) (old new : List Byte) : List Byte :=
  if f = 2 then leBytes 4 (leNat old + leNat new)
  else if f = 3 then (old.zip new).map fun q => if q.1.toNat < q.2.toNat then q.2 else q.1
  else new

/-- A part as it lands at `a`: a byte that meets another landing is a free value of number `k` (R346), and so is a byte of a sum
above one, for the carry into it is open. -/
def freeFrom (foul : Nat → Bool) (k f a : Nat) (bs : List Byte) : List Byte :=
  bs.zipIdx.map fun q =>
    if foul (a + q.2) || (decide (f = 2) && (List.range q.2).any fun j => foul (a + j)) then Config.freeByte k (a + q.2) else q.1

/-- Parts landed one after another; none where the version store is full, and then nothing lands (R95). -/
def Tile.landCol (tl : Tile) (f k : Nat) (foul : Nat → Bool) : List (Nat × List Byte) → Option Tile
  | [] => some tl
  | (a, bs) :: t =>
    match tl.fillRuns [(a, freeFrom foul k f a (combine f (tl.tm.bytes a bs.length) bs))] with
    | (tl', none) => tl'.landCol f k foul t
    | (_, some _) => none

/-- COLLECTIVE_LANDING (R344-R347): a transfer reaches its tile in that tile's exchange phase; it matches an entry and lands
whole, or is refused, or matches nothing. Its sender has its acknowledgement. -/
def execCollectiveLanding (i : Nat) (s : State) : Out :=
  match s.xfers[i]? with
  | none => .next s
  | some f =>
    let t := f.dst
    let tl := s.tile t
    if tl.node ≠ .exch then .next s
    else
      let s0 := { s with xfers := s.xfers.eraseIdx i }
      let s1 := s0.modTile f.src fun x => x.setCol f.entry .done
      match tl.colMatch f with
      | none => .next (s1.sealCause t 0x0C)
      | some (e, k) =>
        if e.n ≠ f.data.length then .next ((s1.modTile t fun x => x.setCol k .done).sealCause t 0x0C)
        else
          let runs := runsOf e.rc 0 e.n
          if !tl.admitsRuns runs then .next ((s1.modTile t fun x => x.setCol k .done).sealCause f.src 0x0B)
          else
            match if e.f = 1 then none else tl.badRuns runs with
            | some w => .next ((s1.modTile t fun x => x.setCol k .done).tmError t w)
            | none =>
              let reel := s.reelRuns t
              let parts := landParts e.f runs f.data
              let s2 := { s1 with free := s.free + 1 }.modTile t fun x => x.setCol k .done
              match (s2.tile t).landCol e.f s.free (tl.mixed reel k e) parts with
              | none => .next (s2.sealCause t 0x0A)
              | some tl' => .next ((s2.setTile t (if e.f = 1 then tl'.freshCodes runs else tl')).complete t e.sem 8)

/-- COLLECTIVE_RECEIVE_TIMEOUT (R347, R357): a receive entry has not landed at T_x + `CTMO.NS`. -/
def execCollectiveReceiveTimeout (t e : Nat) (s : State) : Out :=
  let tl := s.tile t
  match tl.node, tl.xStart, tl.col[e]? with
  | .exch, some x, some c =>
    if c.send || decide (c.status = .done) || decide (s.clk < x + 4 * tl.ctmoEff.toNat) then .next s
    else
      let l := s.linkOf t c.peer c.stream c.peer t
      let s1 := s.setTile t (tl.setCol e .done)
      .next (if l.1 = 6 then s1.recordLink t (modOfTile t) l.2.1 else s1.recordError t 0x14 l.1 l.2.1 l.2.2)
  | _, _, _ => .next s

end Sys2Proof.Machine
end

