-- ==== Sys2Proof/Machine/Prng.lean ====
section
/-! DEFINITION. The keyed generator G(key128, superstep48, sweep32, cell20) (R315), which Firefly sweeps and stochastic
`squant` draw from (R45, R314). -/

namespace Sys2Proof.Machine

/-- The four words of the generator. -/
structure GWords where
  x0 : BitVec 32
  x1 : BitVec 32
  x2 : BitVec 32
  x3 : BitVec 32
  deriving DecidableEq, Repr, Inhabited

/-- One of the four rounds (R315). -/
def GWords.round (g : GWords) (r : Nat) : GWords :=
  let x0 := g.x0 + BitVec.ofNat 32 (r * 0x9E3779B9)
  let x0 := x0 + g.x1
  let x3 := (g.x3 ^^^ x0).rotateLeft 16
  let x2 := g.x2 + x3
  let x1 := (g.x1 ^^^ x2).rotateLeft 12
  let x0 := x0 + x1
  let x3 := (x3 ^^^ x0).rotateLeft 8
  let x2 := x2 + x3
  let x1 := (x1 ^^^ x2).rotateLeft 7
  ⟨x0, x1, x2, x3⟩

/-- The generator (R315). -/
def keyedDraw (key superstep sweep cell : Nat) : Nat :=
  let g : GWords := ⟨BitVec.ofNat 32 (fld key 0 32 ^^^ fld superstep 0 32),
    BitVec.ofNat 32 (fld key 32 32 ^^^ (fld superstep 32 16 + fld cell 0 16 * 2 ^ 16)),
    BitVec.ofNat 32 (fld key 64 32 ^^^ fld sweep 0 32),
    BitVec.ofNat 32 (fld key 96 32 ^^^ fld cell 16 4)⟩
  let g := (((g.round 1).round 2).round 3).round 4
  (g.x0 ^^^ g.x1 ^^^ g.x2 ^^^ g.x3).toNat % 2 ^ 16

end Sys2Proof.Machine
end

