-- ==== Sys2Proof/Machine/Shape.lean ====
section
/-! DEFINITION. The shape core (spec 10 R241-R259): the checks of an operation at issue, the queue, and what each operation
writes when it runs. -/

namespace Sys2Proof.Machine

/-! ## Parameters and sizes -/

/-- `TSCALE`: F32 pattern, 0 meaning 1.0. -/
def scFactor (p : W) : FVal := if p.fld 32 32 = 0 then .fin false 1 0 else fF32.val (p.fld 32 32)

/-- Largest finite value of a format, as an exact value (R249). -/
def fmtMax (fm : Fmt) : FVal := fm.val (fm.largest false)

/-- The format pairs and geometries each operation accepts (R250-R259). -/
def ShapeOp.formatsOk (o : ShapeOp) : Bool :=
  let f := recFormat o.src
  let g := recFormat o.dst
  match o.kind with
  | .squant _ _ =>
    decide (4 ≤ f ∧ f ≤ 6) && decide (5 ≤ g ∧ g ≤ 9) && (decide (g ≠ 9) || decide (scGeom o.param = 3))
  | .sdeq => decide (4 ≤ f ∧ f ≤ 9) && decide (4 ≤ g ∧ g ≤ 6) && (decide (f ≠ 9) || decide (scGeom o.param = 3))
  | .sexp => decide (11 ≤ f ∧ f ≤ 13) && decide (g = 7)
  | .strans => decide (f = g) && decide (f ≤ 14)
  | .stransRq => decide (4 ≤ f ∧ f ≤ 8) && decide (4 ≤ g ∧ g ≤ 8)
  | .scomp => decide (f = 5) || decide (7 ≤ f ∧ f ≤ 9)
  | .sblkExp => decide (f = 4)
  | .sblkInt => decide (f = 4) && decide (g = 14)
  | .sblkFlt => decide (f = 14) && decide (g = 4)
  | .scvt _ _ => decide (f ≤ 9) && decide (g ≤ 9)

/-- The block size N must be a multiple of (R248, R257). -/
def ShapeOp.block (o : ShapeOp) : Nat :=
  match o.kind with
  | .squant _ _ | .sdeq => geomSize (scGeom o.param)
  | .sblkExp | .sblkInt | .sblkFlt => 128
  | _ => 1

/-- The headroom parameter H of `sblk.int` and `sblk.flt` (R257). -/
def ShapeOp.headroom (o : ShapeOp) : Nat :=
  match o.kind with
  | .sblkInt | .sblkFlt => o.param.fld 24 5
  | _ => 0

/-- Whether the destination's bytes are elements of its own format; the image of `scomp` and the exponents of `sblk.exp`
are plain bytes. -/
def ShapeKind.plainDst : ShapeKind → Bool
  | .scomp | .sblkExp => true
  | _ => false

/-- The alignment of a record's elements: their size in bytes, 1 for half-byte codes. -/
def elAlign (r : Rec) : Nat := Nat.max 1 (elBits (recFormat r) / 8)

/-- The lower of two addresses where both are there. -/
def lowerOf (a b : Option Nat) : Option Nat :=
  match a, b with
  | some x, some y => some (Nat.min x y)
  | some x, none => some x
  | none, y => y

/-- The checks of R244 over all N elements of both records: the lowest code met, with its `FADDR`. For cause 0x03 that is the lower of
the first address in each record's data order (DEDUCED, notes/assumptions/29.md). Where both rows of cause 0x0D are met, `FADDR`
names the formats and not X[b]: R244 and R68 order no two rows of one code (DESIGN CHOICE, notes/assumptions/29.md). -/
def ShapeOp.cause (o : ShapeOp) : Option (Nat × W) :=
  let n := o.total
  let rs := runsOf o.src 0 (bytesFor o.src n)
  let rd := runsOf o.dst 0 (o.dstFor n)
  match lowerOf (firstOdd (elAlign o.src) rs) (if o.kind.plainDst then none else firstOdd (elAlign o.dst) rd) with
  | some a => some (0x03, BitVec.ofNat 64 a)
  | none =>
    match firstOut (rs ++ rd ++ o.arrays.1 ++ o.arrays.2) with
    | some a => some (0x04, BitVec.ofNat 64 a)
    | none =>
      if recExtent o.src * 8 % elBits (recFormat o.src) ≠ 0 ∨ recExtent o.dst < o.dstFor n ∨ n % o.block ≠ 0 ∨
          (o.kind.square ∧ n < 16384) then
        some (0x05, BitVec.ofNat 64 (recExtent o.src))
      else if !o.formatsOk then some (0x0D, BitVec.ofNat 64 (recFormat o.src + 16 * recFormat o.dst))
      else if 24 < o.headroom then some (0x0D, o.param)
      else none

/-! ## What an operation computes -/

/-- The least integer `t` with `x ≤ M * 2^t`, for a finite `x > 0`: searched downwards from `t0` by `k` steps. -/
def leastScale (m x : FVal) : Nat → Int → Int
  | 0, t => t
  | k + 1, t => if (m.scale (t - 1)).lt x then t else leastScale m x k (t - 1)

/-- `ChooseScale` (R249). -/
def chooseScale (fm : Fmt) (u : List FVal) : Nat :=
  if u.any fun v => match v with | .fin _ _ _ => false | _ => true then 0xFF
  else
    let amax : FVal := u.foldl (fun (a v : FVal) =>
      match v with
      | .fin _ m e => if a.lt (.fin false m e) then .fin false m e else a
      | _ => a) (.fin false 0 0)
    match amax with
    | .fin _ m e =>
      if m = 0 then 127
      else
        let t0 : Int := (Nat.log2 m : Int) + 1 + e
        match fmtMax fm with
        | .fin _ mm me =>
          let t := leastScale (fmtMax fm) amax 4 (t0 - (Nat.log2 mm : Int) - me)
          (max 0 (min 254 (127 + t))).toNat
        | _ => 127
    | _ => 0xFF

/-- Runs of consecutive elements of a block size. -/
def blocksOf {α : Type} (k : Nat) : Nat → List α → List (List α)
  | 0, _ => []
  | n + 1, l => l.take k :: blocksOf k n (l.drop k)

/-- One scaled element of `squant` quantised (R250): stochastic with its keyed draw, or to nearest even. -/
def quantElem (fm : Fmt) (sr sat : Bool) (draw : Nat → Nat) (i : Nat) (v : FVal) : Nat :=
  if sr then fm.roundSR (draw i) sat v else fm.round .rne sat v

/-- A value that is not finite. -/
def FVal.special (v : FVal) : Bool :=
  match v with
  | .fin _ _ _ => false
  | _ => true

/-- The scale of a block of `squant`: read, or chosen (R250). R46 has every conversion to MXFP4 write 0xFF for a block with a NaN or an
infinite element, R250 gives a block whose scale is read no scale but that one: the model follows R250 (DEDUCED, notes/assumptions/29.md). -/
def blockScale (g : Fmt) (sin : Bool) (b : List FVal) (x : Nat) : Nat := if sin then x else chooseScale g b

/-- `squant` (R250): the quantised elements, and what it writes of its scale array, as parts from a first index. -/
def squantOut (g : Fmt) (sr sat : Bool) (draw : Nat → Nat) (p : W) (scales : List Nat) (v : List FVal) :
    List Nat × List (Nat × List Nat) :=
  let u := v.map fun x => x.mul (scFactor p)
  if scGeom p = 0 then ((u.zipIdx).map fun q => quantElem g sr sat draw q.2 q.1, [])
  else
    let sz := geomSize (scGeom p)
    let bl := blocksOf sz (u.length / sz) u
    let xs := bl.zipIdx.map fun q => blockScale g (scIn p) q.1 (scales.getD q.2 0)
    let outs := ((bl.zip xs).zipIdx).flatMap fun q =>
      if q.1.2 = 0xFF then q.1.1.map fun _ => 0
      else (q.1.1.zipIdx).map fun e => quantElem g sr sat draw (q.2 * sz + e.2) (e.1.scale (127 - (q.1.2 : Int)))
    (outs, if scIn p then [] else [(0, xs)])

/-- `sdeq` (R251). -/
def sdeqOut (g : Fmt) (p : W) (scales : List Nat) (v : List FVal) : List Nat :=
  let sz := geomSize (scGeom p)
  (v.zipIdx).map fun q =>
    let x := if scGeom p = 0 then 0x7F else scales.getD (q.2 / sz) 0x7F
    if x = 0xFF then g.nan.getD 0
    else g.round .rne false ((q.1.scale ((x : Int) - 127)).mul (scFactor p))

/-- The transposed square (R253): the bits are copied. -/
def transposed (v : Array Nat) : List Nat := (List.range 16384).map fun i => v.getD (128 * (i % 128) + i / 128) 0

/-- `strans.rq` (R254): the destination elements and the output scales. -/
def stransRqOut (f g : Fmt) (p : W) (inScales : List Nat) (v : Array Nat) : List Nat × List Nat :=
  let isin := decide (p.fld 21 1 = 1)
  let osout := decide (p.fld 53 1 = 1)
  let a (r c : Nat) : FVal :=
    let x := if isin then inScales.getD r 127 else 127
    if x = 0xFF then .nan else (f.val (v.getD (128 * r + c) 0)).scale ((x : Int) - 127)
  let cols := (List.range 128).map fun c => (List.range 128).map fun r => a r c
  let xs := cols.map fun col => if osout then chooseScale g col else 127
  let outs := (cols.zip xs).flatMap fun q =>
    if q.2 = 0xFF then q.1.map fun _ => 0 else q.1.map fun e => g.round .rne false (e.scale (127 - (q.2 : Int)))
  (outs, if osout then xs else [])

/-- An element is zero when its value is +0 or -0 (R256). -/
def zeroElem (f e : Nat) : Bool := decide (e % 2 ^ (elBits f - 1) = 0)

/-- Bits as bytes, bit `i mod 8` of byte `i div 8` (R255). -/
def packBits : Nat → List Bool → List Byte
  | 0, _ => []
  | n + 1, l =>
    BitVec.ofNat 8 (((l.take 8).zipIdx).foldl (fun a q => a + q.1.toNat * 2 ^ q.2) 0) :: packBits n (l.drop 8)

/-- The image of `scomp` (R255, R256). -/
def scompImage (f : Nat) (v : List Nat) : List Byte :=
  let nz := v.filter fun e => !zeroElem f e
  let packed := bytesOfElems (elBits f) 0 nz
  let b := 2048 + (packed.length + 63) / 64 * 64
  let d := denseLen f
  let bitmap := decide (b < d)
  let len := if bitmap then b else d
  let body :=
    if bitmap then
      packBits 2048 (v.map fun e => !zeroElem f e) ++ packed ++ List.replicate (b - 2048 - packed.length) 0
    else bytesOfElems (elBits f) 0 v
  leBytes 8 (f + bitmap.toNat * 2 ^ 8 + (len + 16383) / 16384 * 2 ^ 12 + nz.length * 2 ^ 16 + len * 2 ^ 32) ++
    List.replicate 56 0 ++ body

/-- One element of `scvt` (R259). -/
def scvtElem (f g rm : Nat) (sat : Bool) (x : Nat) : Nat :=
  if f = g then x
  else
    match recFmt f, recFmt g with
    | some a, some b => b.round (RM.ofCode rm) sat (a.val x)
    | some a, none => wrapNat (elBits g) ((a.val x).toS (elBits g) (RM.ofCode rm))
    | none, some b => b.round (RM.ofCode rm) sat (FVal.ofS (sextNat (elBits f) x))
    | none, none =>
      let n := sextNat (elBits f) x
      wrapNat (elBits g) (if sat then satInt (-(2 ^ (elBits g - 1) : Int)) (2 ^ (elBits g - 1) - 1) n else n)

/-- `sexp` of one element (R252). -/
def sexpElem (f x : Nat) : Nat :=
  if f = 11 then fE4M3.round .rne false (FVal.ofS (sextNat 4 x))
  else
    match recFmt f with
    | some a => fE4M3.round .rne false (a.val (x % 64))
    | none => 0

/-- An element as `strans` writes it: of a format that has one to a byte in bits [5:0], bits [7:6] are zero, as R35 has every output, though
R253 and R38 copy the bits (DESIGN CHOICE, notes/assumptions/29.md). -/
def cleanElem (f x : Nat) : Nat := if f = 12 ∨ f = 13 then x % 64 else x

/-- What an operation makes: the elements or bytes of the destination, the parts of the written array, and whether it is an image in
bitmap mode. -/
structure ShapeOut where
  bytes : List Byte
  parts : List (Nat × List Nat)
  bitmap : Bool
  deriving DecidableEq, Repr, Inhabited

/-- The elements of the source that an operation reads. -/
def ShapeOp.elems (o : ShapeOp) (tl : Tile) : List Nat := (tl.recElems o.src o.srcBytes).take o.count

/-- The destination bytes and the written array of an operation, from the tile as it stands at its start; the nibble beside an odd last
half-byte element is 0 here. `ssn` and `tile` enter the keyed draws of a stochastic `squant` (R45). -/
def ShapeOp.output (o : ShapeOp) (tl : Tile) (ssn tile : Nat) : ShapeOut :=
  let f := recFormat o.src
  let g := recFormat o.dst
  let v := o.elems tl
  let arr := (o.arrays.1.flatMap fun a => tl.tm.bytes a.1 a.2).map fun b => b.toNat
  let fv := match recFmt f with | some a => v.map fun x => a.val x | none => []
  let gf := (recFmt g).getD fF32
  let elems (l : List Nat) : ShapeOut := ⟨bytesOfElems (elBits g) 0 l, [], false⟩
  match o.kind with
  | .squant sr sat =>
    let draw (i : Nat) : Nat := keyedDraw o.key.toNat ssn (2 ^ 31 + tile % 1024 * 2 ^ 21 + o.draw % 2 ^ 21) i
    let r := squantOut gf sr sat draw o.param arr fv
    { elems r.1 with parts := r.2 }
  | .sdeq => elems (sdeqOut gf o.param arr fv)
  | .sexp => ⟨bytesOfElems 8 0 (v.map (sexpElem f)), [], false⟩
  | .strans => elems (transposed (v.map (cleanElem f)).toArray)
  | .stransRq =>
    let r := stransRqOut ((recFmt f).getD fF32) gf o.param arr v.toArray
    { elems r.1 with parts := if r.2.isEmpty then [] else [(0, r.2)] }
  | .scomp => let b := scompImage f v; ⟨b, [], decide ((b.getD 1 0).toNat % 2 = 1)⟩
  | .sblkExp => ⟨(blocksOf 128 (o.count / 128) v).map fun b => BitVec.ofNat 8 (blockExp b), [], false⟩
  | .sblkInt =>
    ⟨bytesOfElems 32 0 ((v.zipIdx).map fun q => wrapNat 32 (biOfF32 (arr.getD (q.2 / 128) 0) o.headroom q.1)), [], false⟩
  | .sblkFlt =>
    ⟨bytesOfElems 32 0 ((v.zipIdx).map fun q => f32OfBi (arr.getD (q.2 / 128) 0) o.headroom (sextNat 32 q.1)), [], false⟩
  | .scvt rm sat => elems (v.map (scvtElem f g rm sat))

/-- An odd last half-byte element leaves the high nibble of its byte as it is: as tile memory has it, or an earlier element of the
operation at that address (R243, R245). -/
def ShapeOp.keepNibble (o : ShapeOp) (tl : Tile) (bs : List Byte) : List Byte :=
  if elBits (recFormat o.dst) = 4 ∧ o.kind.plainDst = false ∧ o.count % 2 = 1 then
    let l := o.count / 2
    let a := recAddr o.dst l
    let old :=
      match ((List.range l).filter fun j => decide (recAddr o.dst j = a)).getLast? with
      | some j => bs.getD j 0
      | none => tl.tm.get a
    bs.set l (BitVec.ofNat 8 ((bs.getD l 0).toNat % 16 + old.toNat / 16 * 16))
  else bs

/-! ## Overlap (R245) -/

/-- The span of some runs: first address and first past the last. -/
def spanOf (l : List (Nat × Nat)) : Nat × Nat :=
  l.foldl (fun s p => (Nat.min s.1 p.1, Nat.max s.2 (p.1 + p.2))) (Config.tmSize, 0)

/-- Two spans share no byte. -/
def apart (a b : Nat × Nat) : Bool := decide (a.2 ≤ b.1) || decide (b.2 ≤ a.1)

/-- The tile addresses of data bytes, one by one. -/
def byteAddrs (r : Rec) (n : Nat) : List Nat := (List.range n).map fun j => recAddr r j

/-- The elements of `bits` bits, of `n`, that data byte `j` holds bits of (R243). -/
def elemsOfByte (bits n j : Nat) : List Nat :=
  if bits = 4 then ([2 * j, 2 * j + 1] : List Nat).filter fun e => decide (e < n) else [j * 8 / bits]

/-- What destination byte `j` holds: elements, or for plain bytes the byte itself. -/
def ShapeOp.dstUnits (o : ShapeOp) (j : Nat) : List Nat :=
  if o.kind.plainDst then [j] else elemsOfByte (elBits (recFormat o.dst)) o.count j

/-- Source element `s` is the own one of destination unit `k`, which it may overlap without harm: conversion in place (R245). -/
def ShapeOp.owns (o : ShapeOp) (bitmap : Bool) (k s : Nat) : Bool :=
  match o.kind with
  | .strans | .stransRq => decide (s = 128 * (k % 128) + k / 128)
  | .sblkExp => decide (s / 128 = k)
  | .scomp => !bitmap && decide (64 ≤ k) && (elemsOfByte (elBits (recFormat o.src)) 16384 (k - 64)).contains s
  | _ => decide (s = k)

/-- Destination unit `k` reads source element `s`: its own; for the scale of its block, the block. A byte of a bitmap body reads the
elements of its bits; a packed one all up to its own, for it stands where their number says. `nz` counts the non-zero elements before
one. The header is made of the first pass, before any byte is written (R256). -/
def ShapeOp.readsSrc (o : ShapeOp) (bitmap : Bool) (nz : Nat → Nat) (k s : Nat) : Bool :=
  match o.kind with
  | .squant _ _ =>
    if scGeom o.param = 0 ∨ scIn o.param = true then decide (s = k) else decide (s / geomSize (scGeom o.param) = k / geomSize (scGeom o.param))
  | .stransRq => if o.param.fld 53 1 = 1 then decide (s % 128 = k / 128) else o.owns bitmap k s
  | .scomp =>
    if !bitmap then o.owns bitmap k s
    else if k < 64 then false
    else if k < 2112 then decide (s / 8 = k - 64)
    else decide (nz s * elBits (recFormat o.src) / 8 ≤ k - 2112)
  | _ => o.owns bitmap k s

/-- Destination unit `k` reads byte `i` of the array that the operation reads. -/
def ShapeOp.readsArr (o : ShapeOp) (k i : Nat) : Bool :=
  match o.kind with
  | .squant _ _ | .sdeq => decide (i = k / geomSize (scGeom o.param))
  | .stransRq => decide (o.param.fld 53 1 = 1) || decide (i = k % 128)
  | .sblkInt | .sblkFlt => decide (i = k / 128)
  | _ => false

/-- Byte `i` of the written array depends on source element `s`. -/
def ShapeOp.scaleReads (o : ShapeOp) (i s : Nat) : Bool :=
  match o.kind with
  | .squant _ _ => decide (s / geomSize (scGeom o.param) = i)
  | .stransRq => decide (s % 128 = i)
  | _ => false

/-- Two elements have bits in one half of a byte they share: those of whole bytes always, half-byte ones in the same place. -/
def sameHalf (sb db s k : Nat) : Bool := decide (sb ≠ 4) || decide (db ≠ 4) || decide (s % 2 = k % 2)

/-- What R245 leaves unspecified: of each destination byte its low and its high half, and of the bytes of the written array, in the
order of their parts. A byte is that is written at an address read for another element or for an array, and every element that reads
such a byte. A written scale array over the source or the destination leaves only the bytes that overlap so. The table has no row for the
written scales of `strans.rq` over the scales that it reads: here the bytes that overlap, the elements and the scales are unspecified
(DESIGN CHOICE, notes/assumptions/29.md). -/
def ShapeOp.unspecified (o : ShapeOp) (tl : Tile) (r : ShapeOut) : List (Bool × Bool) × List Bool :=
  let src := runsOf o.src 0 o.srcBytes
  let dst := runsOf o.dst 0 r.bytes.length
  let wr := o.arrays.2.flatMap fun a => r.parts.map fun p => (a.1 + p.1, p.2.length)
  let clear (l m : List (Nat × Nat)) : Bool := l.all fun a => apart (spanOf [a]) (spanOf m)
  if apart (spanOf src) (spanOf dst) && clear o.arrays.1 dst && clear wr dst && clear wr src && clear wr o.arrays.1 then
    (r.bytes.map fun _ => (false, false), wr.flatMap fun p => List.replicate p.2 false)
  else
    let sb := elBits (recFormat o.src)
    let db := if o.kind.plainDst then 8 else elBits (recFormat o.dst)
    let v := (o.elems tl).toArray
    let nz (s : Nat) : Nat := ((List.range s).filter fun i => !zeroElem (recFormat o.src) (v.getD i 0)).length
    let sa := (byteAddrs o.src o.srcBytes).zipIdx
    let da := (byteAddrs o.dst r.bytes.length).zipIdx
    let ra := (o.arrays.1.flatMap fun a => (List.range a.2).map fun i => a.1 + i).zipIdx
    let wa := (wr.flatMap fun a => (List.range a.2).map fun i => a.1 + i).zip
      (r.parts.flatMap fun p => (List.range p.2.length).map fun i => p.1 + i)
    let has (l : List (Nat × Nat)) (a : Nat) : Bool := l.any fun q => decide (q.1 = a)
    let hit (p : Nat × Nat) : Bool :=
      has ra p.1 || sa.any fun q => decide (q.1 = p.1) &&
        (elemsOfByte sb o.count q.2).any fun s => (o.dstUnits p.2).any fun k => sameHalf sb db s k && !o.owns r.bitmap k s
    let wrong (q : Nat × Nat) : Bool := has sa q.1 || has da q.1 || has ra q.1
    let bad := (da.filter hit).map fun p => p.1
    let both := (wa.filter fun q => has ra q.1).map fun q => q.1
    let badS := (sa.filter fun q => bad.contains q.1).flatMap fun q => elemsOfByte sb o.count q.2
    let badR := (ra.filter fun q => bad.contains q.1 || both.contains q.1).map fun q => q.2
    let open' (k : Nat) : Bool := badS.any (fun s => o.readsSrc r.bitmap nz k s) || badR.any fun i => o.readsArr k i
    (da.map fun p =>
      let half (h : Nat) : Bool := hit p || has wa p.1 || (o.dstUnits p.2).any fun k => sameHalf db db k h && open' k
      (half 0, half 1),
     wa.map fun q => wrong q || badS.any (fun s => o.scaleReads q.2 s) || (decide (o.kind = .stransRq) && !badR.isEmpty))

/-- A byte some halves of which are unspecified. -/
def mixHalves (u : Bool × Bool) (free b : Byte) : Byte :=
  BitVec.ofNat 8 ((if u.1 then free else b).toNat % 16 + (if u.2 then free else b).toNat / 16 * 16)

/-! ## The queue (R242) -/

/-- The issue of an operation: its checks, a place among 8, and the count q of stochastic operations advanced (R242, R244,
R250). -/
def State.shapeIssue (s : State) (word : Nat) (kind : ShapeKind) (e a : BitVec 5) (p : W) (k : BitVec 6) : Out :=
  s.onShape word fun s =>
    let tl := s.tile s.here
    let o : ShapeOp := ⟨kind, s.recReg e, s.recReg a, p, tl.cur.srkey, tl.cur.srCount, k.toNat, false, tl.opSeq⟩
    match o.cause with
    | some (c, f) => s.trap c f
    | none =>
      if 8 ≤ tl.shapeQ.length then s.waitOn .queue
      else
        let sr := match kind with | .squant sr _ => sr | _ => false
        (s.setTile s.here { tl with
          shapeQ := tl.shapeQ ++ [o], opSeq := tl.opSeq + 1
          cur := { tl.cur with srCount := if sr then tl.cur.srCount + 1 else tl.cur.srCount } }).doneNop

/-- squant (R250). -/
def execSquant (e a b : BitVec 5) (k : BitVec 6) (r t : BitVec 1) (s : State) : Out :=
  s.shapeIssue (wordOf (.squant e a b k r t)) (.squant (decide (r = 1)) (decide (t = 1))) e a (s.rx b) k

/-- sdeq (R251). -/
def execSdeq (e a b : BitVec 5) (k : BitVec 6) (s : State) : Out :=
  s.shapeIssue (wordOf (.sdeq e a b k)) .sdeq e a (s.rx b) k

/-- sexp (R252). -/
def execSexp (e a : BitVec 5) (k : BitVec 6) (s : State) : Out := s.shapeIssue (wordOf (.sexp e a k)) .sexp e a 0 k

/-- strans (R253): X[b] has no effect. -/
def execStrans (e a b : BitVec 5) (k : BitVec 6) (s : State) : Out :=
  s.shapeIssue (wordOf (.strans e a b k)) .strans e a 0 k

/-- strans.rq (R254). -/
def execStransRq (e a b : BitVec 5) (k : BitVec 6) (s : State) : Out :=
  s.shapeIssue (wordOf (.stransRq e a b k)) .stransRq e a (s.rx b) k

/-- scomp (R255, R256). -/
def execScomp (e a : BitVec 5) (k : BitVec 6) (s : State) : Out := s.shapeIssue (wordOf (.scomp e a k)) .scomp e a 0 k

/-- sblk.exp (R257): X[b] not read. -/
def execSblkExp (e a b : BitVec 5) (k : BitVec 6) (s : State) : Out :=
  s.shapeIssue (wordOf (.sblkExp e a b k)) .sblkExp e a 0 k

/-- sblk.int (R257). -/
def execSblkInt (e a b : BitVec 5) (k : BitVec 6) (s : State) : Out :=
  s.shapeIssue (wordOf (.sblkInt e a b k)) .sblkInt e a (s.rx b) k

/-- sblk.flt (R257). -/
def execSblkFlt (e a b : BitVec 5) (k : BitVec 6) (s : State) : Out :=
  s.shapeIssue (wordOf (.sblkFlt e a b k)) .sblkFlt e a (s.rx b) k

/-- scvt (R259). -/
def execScvt (e a : BitVec 5) (k : BitVec 6) (m : BitVec 2) (t : BitVec 1) (s : State) : Out :=
  s.shapeIssue (wordOf (.scvt e a k m t)) (.scvt m.toNat (decide (t = 1))) e a 0 k

/-- The parts of the written array with their addresses, the unspecified bytes as free values number `k`. -/
def ShapeOp.arrayParts (o : ShapeOp) (k : Nat) (parts : List (Nat × List Nat)) (u : List Bool) : List (Nat × List Byte) :=
  let base := (o.arrays.2.head?.map fun a => a.1).getD 0
  (parts.foldl (fun q p =>
    (q.1 ++ [(base + p.1, (p.2.zipIdx).map fun x =>
      if u.getD (q.2 + x.2) false then Config.freeByte k (2 ^ 21 + q.2 + x.2) else BitVec.ofNat 8 x.1)], q.2 + p.2.length))
    (([], 0) : List (Nat × List Byte) × Nat)).1

/-- The oldest operation has run: it reads no more. -/
def Tile.ranHead (tl : Tile) : Tile :=
  { tl with shapeQ := match tl.shapeQ with | o :: t => { o with ran := true } :: t | [] => [] }

/-- SHAPE_OP_START (R242): the oldest operation runs. It takes each atom that was stored to after its issue old or new (R207, R231). Its
writes land in data order, then the array's; a version-store
overflow stops it with the deferred cause 0x0A, an uncorrectable word with cause 0x13 (R95, R100). -/
def execShapeOpStart (t : Nat) (s : State) : Out :=
  let tl := s.tile t
  match tl.shapeQ with
  | [] => .next s
  | o :: rest =>
    if o.ran || !tl.enginesOn then .next s
    else
      match tl.badRuns o.readRuns with
      | some w => .next (s.tmError t w)
      | none =>
        let rd : Reader := ⟨9, o.id, false⟩
        let tv := { tl with tm := tl.view rd (s.free + 1) o.readRuns [] }
        let r := o.output tv tl.ssnum.toNat t
        let u := o.unspecified tv r
        let tl1 := (tl.noteRead rd o.readRuns fun w => (tl.pick rd (s.free + 1) w).1).ranHead
        let bs := o.keepNibble tl (((r.bytes.zip u.1).zipIdx).map fun q => mixHalves q.1.2 (Config.freeByte s.free q.2) q.1.1)
        let arr := o.arrayParts s.free r.parts u.2
        let runs := runsOf o.dst 0 bs.length
        let s1 := { s with free := s.free + 2 }
        match tl1.fillRuns (layRuns runs bs ++ arr) with
        | (tl', none) => .next ((s1.setTile t (tl'.stamp tl1.olds.length (9, o.id))).flush t)
        | (tl', some a) =>
          .next (((s1.setTile t { tl' with shapeQ := rest }).deferTo t 9 0x0A (BitVec.ofNat 64 a)).wakeDrain t 9)

/-- SHAPE_OP_COMPLETE (R242): the operation has run; it leaves the queue and signals its semaphore. -/
def execShapeOpComplete (t : Nat) (s : State) : Out :=
  match (s.tile t).shapeQ with
  | [] => .next s
  | o :: rest =>
    if o.ran && (s.tile t).enginesOn then
      .next (((s.modTile t fun tl => { tl with shapeQ := rest }).complete t o.sem 9).wakeDrain t 9)
    else .next s

end Sys2Proof.Machine
end

