-- ==== Sys2Proof/Machine/Matrix.lean ====
section
/-! DEFINITION. The matrix unit (spec 11 R260-R282; spec 02 R47-R51): accumulators and their ownership, weight slots, the
queue, block-steps and read-out. -/

namespace Sys2Proof.Machine

/-! ## Accumulators (R265, R266) -/

/-- An accumulator number as an index. -/
def accIx (n : Nat) : Fin 16 := ⟨n % 16, Nat.mod_lt _ (by decide)⟩

/-- The line of version-store numbering: 128 * n + l (R431). -/
def Tile.freshTag (tl : Tile) (line : Nat) : Option Nat :=
  (tl.cur.accFresh.find? fun p => decide (p.1 = line)).map fun p => p.2

/-- The 8,192 bytes of accumulator `n` as its holder reads them: lines not written since the claim are unspecified (R266). -/
def Tile.accBytes (tl : Tile) (n : Nat) : List Byte :=
  (List.range 128).flatMap fun l =>
    match tl.freshTag (128 * n + l) with
    | some k => (List.range 64).map fun i => Config.freeByte k (2 ^ 22 + 8192 * n + 64 * l + i)
    | none => tl.acc.bytes (8192 * n + 64 * l) 64

/-- The first uncorrectable code word of accumulator `n` (R281). -/
def Tile.accBad (tl : Tile) (n : Nat) : Option Nat := badHit 16 tl.badAcc (8192 * n) 8192

/-- An accumulator line needs a version-store line before its first write of the superstep (R179, R280). -/
def Tile.accNeeds (tl : Tile) (line : Nat) : Bool :=
  tl.versioned && !(tl.vs.any fun v => v.acc && decide (v.line = line))

/-- The 128 lines of accumulator `n` written in ascending order; stops before the line the version store has no room for,
with the line's window offset (R280). -/
def Tile.accWrite (tl : Tile) (n : Nat) : List (Nat × List Byte) → Tile × Option Nat
  | [] => (tl, none)
  | (l, bs) :: t =>
    let line := 128 * n + l
    if tl.accNeeds line && decide (8192 ≤ tl.vs.length) then (tl, some (0x600000 + 64 * line))
    else
      let old := tl.acc.bytes (64 * line) 64
      let tl1 : Tile :=
        if tl.accNeeds line then { tl with vs := tl.vs ++ [⟨true, line, old, badIn 16 tl.badAcc (64 * line) 64, [], false⟩] }
        else tl
      ({ tl1 with
        acc := tl1.acc.write (64 * line) bs
        badAcc := badAfter 16 tl1.badAcc (64 * line) 64
        cur := { tl1.cur with accFresh := tl1.cur.accFresh.filter fun p => decide (p.1 ≠ line) } }).accWrite n t

/-- An accumulator's elements as lines of 64 bytes. -/
def accLines (v : List Nat) : List (Nat × List Byte) :=
  (blocksOf 16 128 v).zipIdx.map fun q => (q.2, q.1.flatMap fun x => leBytes 4 x)

/-- Whether another strand holds the accumulator (R266). -/
def Tile.heldByOther (tl : Tile) (a : Fin 10) (n : Nat) : Bool :=
  match tl.cur.accSt[accIx n] with
  | .free => false
  | .held s _ => decide (s ≠ a)

/-- A free accumulator is claimed by the issuing strand: held, its contents unspecified (R266). `k` numbers the free
values. -/
def Tile.claim (tl : Tile) (a : Fin 10) (k n : Nat) : Tile :=
  match tl.cur.accSt[accIx n] with
  | .free =>
    { tl with cur := { tl.cur with
        accSt := tl.cur.accSt.set (accIx n) (.held a false)
        accFresh := ((List.range 128).map fun l => (128 * (n % 16) + l, k)) ++ tl.cur.accFresh } }
  | .held _ _ => tl

/-- `ACCOWN` (R267). -/
def Tile.accown (tl : Tile) : Nat :=
  (List.range 16).foldl (fun v n =>
    match tl.cur.accSt[accIx n] with
    | .free => v
    | .held s _ => v + (s.val + 8) * 2 ^ (4 * n)) 0

/-- Accumulators freed: every one that `p` picks (R266). -/
def TileVer.freeAccs (v : TileVer) (p : AccState → Bool) : TileVer :=
  { v with
    accFresh := v.accFresh.filter fun q => !p (v.accSt[accIx (q.1 / 128)])
    accSt := v.accSt.map fun st => if p st then .free else st }

/-! ## Formats and operands (R260-R264) -/

/-- Context fields (R261). -/
def ctxA (c : BitVec 12) : Nat := fld c.toNat 0 4
def ctxB (c : BitVec 12) : Nat := fld c.toNat 4 4
def ctxSA (c : BitVec 12) : Bool := bitOf c.toNat 8
def ctxSB (c : BitVec 12) : Bool := bitOf c.toNat 9
def ctxAcc (c : BitVec 12) : Bool := bitOf c.toNat 10
def ctxSat (c : BitVec 12) : Bool := bitOf c.toNat 11

/-- The format pairs of R260. -/
def pairOk (a b : Nat) : Bool :=
  ((decide (a = 7) || decide (a = 8)) && (decide (b = 7) || decide (b = 8))) || (decide (a = 9) && decide (b = 9)) ||
    (decide (a = 5) && decide (b = 5))

/-- The block-step time t_b in clk (R260). -/
def blockTime (a : Nat) : Nat := if a = 9 then 128 else if a = 5 then 1024 else 256

/-- The tile-memory runs of the streamed operand: 32 record rows and the needed part of the tail (R263). -/
def streamRuns (c : BitVec 12) (r : Rec) : List (Nat × Nat) :=
  let t0 := 32 * rowBytes (recFormat r)
  runsOf r 0 t0 ++ (if ctxSA c then runsOf r t0 32 else []) ++ (if ctxA c = 9 then runsOf r (t0 + 32) 128 else [])

/-- The least `EXTENT` of the streamed operand (R263). -/
def streamExtent (c : BitVec 12) : Nat :=
  if ctxA c = 5 then (if ctxSA c then 8224 else 8192)
  else if ctxA c = 7 ∨ ctxA c = 8 then (if ctxSA c then 4128 else 4096)
  else if ctxA c = 9 then 2208
  else 0

/-- An image header from its first 8 bytes (R255). -/
def imageHdr (h : Nat) : ImageHdr := ⟨fld h 0 4, fld h 8 1, fld h 12 2, fld h 32 32, fld h 16 16⟩

/-- The header checks of R273, for slot `k`. -/
def hdrOk (h : ImageHdr) (k : Nat) : Bool :=
  let d := denseLen h.fmt
  (decide (h.fmt = 5) || decide (h.fmt = 7) || decide (h.fmt = 8) || decide (h.fmt = 9)) &&
    (if h.mode = 0 then decide (h.bodyLen = d)
     else decide (h.bodyLen % 64 = 0) && decide (2048 ≤ h.bodyLen) && decide (h.bodyLen < d)) &&
    decide (h.slots = (h.bodyLen + 16383) / 16384) && decide (k + h.slots ≤ 16)

/-- T1 and the length of the scale tail of an image (R264). -/
def tailStart (f : Nat) : Nat := 64 + denseLen f
def tailLen (f : Nat) : Nat := if f = 9 then 576 else 64

/-- The tile-memory runs of an image: header, body and tail (R264, R273). -/
def imageRuns (h : ImageHdr) (r : Rec) : List (Nat × Nat) :=
  runsOf r 0 (64 + h.bodyLen) ++ runsOf r (tailStart h.fmt) (tailLen h.fmt)

/-- A slot number as an index. -/
def slotIx (k : Nat) : Fin 16 := ⟨k % 16, Nat.mod_lt _ (by decide)⟩

/-- The slots an image at slot `k` fills (R274). -/
def imageSlots (h : ImageHdr) (k : Nat) : List Nat := if h.slots = 2 then [k, k + 1] else [k]

/-- The descriptors after an `mwld` issue (R274): images that had one of the filled slots are gone, their other slot too. -/
def setDescs (v : Vector SlotDesc 16) (h : ImageHdr) (k : Nat) : Vector SlotDesc 16 :=
  let hit (i : Nat) : Bool :=
    match (v[slotIx i]).image with
    | some g => (imageSlots g i).any fun x => (imageSlots h k).contains x
    | none => false
  let v1 := Vector.ofFn fun i : Fin 16 =>
    let gone := hit i.val || (decide (0 < i.val) && (v[i]).cont && hit (i.val - 1))
    if gone then { v[i] with image := none, cont := false } else v[i]
  let v2 := v1.set (slotIx k) { v1[slotIx k] with image := some h, cont := false }
  if h.slots = 2 then v2.set (slotIx (k + 1)) { v2[slotIx (k + 1)] with image := none, cont := true } else v2

/-- The descriptors of a tile set by the issue of an `mwld`, the slots of its image noted (R240, R274). The other slot of an image that it
displaces is loaded by no `mwld`, and stays as it is in a rollback: without an image (R180). -/
def Tile.setSlots (tl : Tile) (h : ImageHdr) (k : Nat) : Tile :=
  { tl with slotDesc := setDescs tl.slotDesc h k, slotsSet := imageSlots h k ++ tl.slotsSet }

/-! ## Issue (R269, R271-R279) -/

/-- The matrix queue has 16 places; a strand that finds it full waits (R269). -/
def State.matPlace (s : State) (k : State → Out) : Out :=
  if 16 ≤ (s.tile s.here).matQ.length then s.waitOn .queue else k s

/-- An entry put at the end of the queue, the accumulators it names claimed (R266, R269). -/
def State.matEnter (s : State) (kind : MatKind) (rc : Rec) (acc slot : Nat) (hdr : ImageHdr) (reads : List (Nat × Nat))
    (claims : List Nat) : State :=
  let tl : Tile := claims.foldl (fun tl n => tl.claim s.strand s.free n) (s.tile s.here)
  let e : MatEntry := ⟨tl.matSeq, s.strand, kind, s.me.mctx, rc, acc, slot, hdr, reads, false, false, tl.opSeq⟩
  { s with free := s.free + 1 }.setTile s.here { tl with matQ := tl.matQ ++ [e], matSeq := tl.matSeq + 1, opSeq := tl.opSeq + 1 }

/-- mcfg (R272): the old context to `X[d]`, the new one with bits [63:12] cleared. -/
def execMcfg (d a : BitVec 5) (s : State) : Out :=
  s.onWork (wordOf (.mcfg d a)) fun s =>
    s.done ({ s.me with mctx := (s.rx a).setWidth 12 }.wx d (s.me.mctx.setWidth 64))

/-- mwld (R273, R274): the header read as a load and checked at issue, the descriptors set, an entry queued. -/
def execMwld (e : BitVec 5) (k : BitVec 4) (s : State) : Out :=
  s.onWork (wordOf (.mwld e k)) fun s => s.rdWait fun s => s.matPlace fun s =>
    let r := s.recReg e
    match firstOut (runsOf r 0 64) with
    | some a => s.trap 0x04 (BitVec.ofNat 64 a)
    | none =>
      match (s.tile s.here).badRuns (runsOf r 0 64) with
      | some w => .next (s.readError s.turn w)
      | none =>
        let m := (s.memOf s.turn).1
        let h8 := leNat ((runsOf r 0 8).flatMap fun p => m.bytes p.1 p.2)
        let s := s.loaded s.turn (runsOf r 0 64)
        let h := imageHdr h8
        if !hdrOk h k.toNat then s.trap 0x0D (BitVec.ofNat 64 h8)
        else
          match firstOut (imageRuns h r) with
          | some a => s.trap 0x04 (BitVec.ofNat 64 a)
          | none =>
            if recExtent r < tailStart h.fmt + tailLen h.fmt then s.trap 0x05 (BitVec.ofNat 64 (recExtent r))
            else
              ((s.matEnter .mwld r 0 k.toNat h (imageRuns h r) []).modTile s.here fun tl =>
                tl.setSlots h k.toNat).doneNop

/-- The image `FORMAT` of slot `k` for the trap operand: 15 when the slot holds no image of its own (R276). -/
def Tile.slotFmt (tl : Tile) (k : Nat) : Nat :=
  match (tl.slotDesc[slotIx k]).image with
  | some h => h.fmt
  | none => 15

/-- The issue of `mmul.r` and `mmul.c` (R276). An `mmul`, a `macc.rd` and a `macc.wr` access tile memory from the queue and not at issue: they
do not wait for an earlier `macc.rd` of the strand, which R271 leaves open, and R270 and R232 keep their order (DESIGN CHOICE,
notes/assumptions/30.md). Cause 0x03 goes by the element size of `AFMT`: where the record has another `FORMAT`, whose
element size R243 would give, the spec does not say which is meant (DESIGN CHOICE, notes/assumptions/30.md). -/
def State.mmulIssue (s : State) (word : Nat) (col : Bool) (e a : BitVec 5) (k : BitVec 4) : Out :=
  s.onWork word fun s => s.matPlace fun s =>
    let r := s.recReg e
    let c := s.me.mctx
    let tl := s.tile s.here
    let n := a.toNat
    match if ctxA c = 5 then firstOdd 2 (runsOf r 0 (32 * rowBytes (recFormat r))) else none with
    | some x => s.trap 0x03 (BitVec.ofNat 64 x)
    | none =>
      match firstOut (streamRuns c r) with
      | some x => s.trap 0x04 (BitVec.ofNat 64 x)
      | none =>
        if recExtent r < streamExtent c then s.trap 0x05 (BitVec.ofNat 64 (recExtent r))
        else if tl.heldByOther s.strand n then s.trap 0x07 (BitVec.ofNat 64 n)
        else if tl.heldByOther s.strand (n + 1) then s.trap 0x07 (BitVec.ofNat 64 (n + 1))
        else if !pairOk (ctxA c) (ctxB c) || decide (recFormat r ≠ ctxA c) || decide (tl.slotFmt k.toNat ≠ ctxB c) then
          s.trap 0x0D (BitVec.ofNat 64 (fld c.toNat 0 8 + 256 * (recFormat r + 16 * tl.slotFmt k.toNat)))
        else
          let h := ((tl.slotDesc[slotIx k.toNat]).image).getD ⟨0, 0, 0, 0, 0⟩
          (s.matEnter (.mmul col) r n k.toNat h (streamRuns c r) [n, n + 1]).doneNop

/-- mmul.r (R268, R276). -/
def execMmulR (e a : BitVec 5) (k : BitVec 4) (s : State) : Out := s.mmulIssue (wordOf (.mmulR e a k)) false e a k

/-- mmul.c (R268, R276). -/
def execMmulC (e a : BitVec 5) (k : BitVec 4) (s : State) : Out := s.mmulIssue (wordOf (.mmulC e a k)) true e a k

/-- The issue of the accumulator forms that make only the ownership check (R279). -/
def State.maccIssue (s : State) (word : Nat) (kind : MatKind) (a : BitVec 5) (claim : Bool) : Out :=
  s.onWork word fun s => s.matPlace fun s =>
    if (s.tile s.here).heldByOther s.strand a.toNat then s.trap 0x07 (BitVec.ofNat 64 a.toNat)
    else (s.matEnter kind 0 a.toNat 0 ⟨0, 0, 0, 0, 0⟩ [] (if claim then [a.toNat] else [])).doneNop

/-- The issue of `macc.rd` and `macc.wr` (R279): the checks stand in the order of their codes, whatever the `FORMAT`; an element
of 4 bits has no alignment. -/
def State.maccRecIssue (s : State) (word : Nat) (kind : MatKind) (e a : BitVec 5) : Out :=
  s.onWork word fun s => s.matPlace fun s =>
    let r := s.recReg e
    let fm := recFormat r
    let ok := match kind with | .rd _ => decide (fm = 4) || decide (fm = 5) | _ => decide (fm = 4)
    match firstOdd (Nat.max 1 (elBits fm / 8)) (maccRuns r) with
    | some x => s.trap 0x03 (BitVec.ofNat 64 x)
    | none =>
      match firstOut (maccRuns r) with
      | some x => s.trap 0x04 (BitVec.ofNat 64 x)
      | none =>
        if recExtent r < 31 * rowBytes fm + 8 * elBits fm then s.trap 0x05 (BitVec.ofNat 64 (recExtent r))
        else if (s.tile s.here).heldByOther s.strand a.toNat then s.trap 0x07 (BitVec.ofNat 64 a.toNat)
        else if !ok then s.trap 0x0D (BitVec.ofNat 64 fm)
        else
          let reads := match kind with | .wr => maccRuns r | _ => []
          (s.matEnter kind r a.toNat 0 ⟨0, 0, 0, 0, 0⟩ reads [a.toNat]).doneNop

/-- macc.z (R278). -/
def execMaccZ (a : BitVec 5) (s : State) : Out := s.maccIssue (wordOf (.maccZ a)) .zero a true

/-- macc.rd (R278, R279). -/
def execMaccRd (e a b : BitVec 5) (s : State) : Out :=
  s.maccRecIssue (wordOf (.maccRd e a b)) (.rd ((s.rx b).setWidth 32)) e a

/-- macc.wr (R278, R279). -/
def execMaccWr (e a : BitVec 5) (s : State) : Out := s.maccRecIssue (wordOf (.maccWr e a)) .wr e a

/-- macc.pin (R266, R278). -/
def execMaccPin (a : BitVec 5) (s : State) : Out := s.maccIssue (wordOf (.maccPin a)) .pin a true

/-- macc.unpin (R266, R278): no claim. -/
def execMaccUnpin (a : BitVec 5) (s : State) : Out := s.maccIssue (wordOf (.maccUnpin a)) .unpin a false

/-! ## The block-step (R48-R51, R268) -/

/-- The exact sum of the products of one block, or its special class: NaN, or an infinity (R48, R51). -/
def blockSum (l : List FVal) : FVal := l.foldl (FVal.add .rne) (.fin false 0 0)

/-- BlockAdd: the block rounded once to F32 and added once; a block whose sum is exactly zero is skipped (R48, R50). -/
def blockAdd (acc : Nat) (s : FVal) (nanScale : Bool) (k : Int) : Nat :=
  if nanScale then fF32.nan.getD 0
  else if s.isZero then acc
  else
    let blk := fF32.round .rne false (s.scale k)
    fF32.round .rne false (FVal.add .rne (fF32.val acc) (fF32.val blk))

/-- The elements of a weight image's body (R275): dense, or packed under a bitmap; packed elements beyond the body read 0. -/
def unpackBitmap : List Bool → List Nat → List Nat
  | [], _ => []
  | true :: t, x :: xs => x :: unpackBitmap t xs
  | true :: t, [] => 0 :: unpackBitmap t []
  | false :: t, xs => 0 :: unpackBitmap t xs

/-- The 16,384 elements of the image of header `h` in slot `k` (R275). -/
def Tile.squareElems (tl : Tile) (h : ImageHdr) (k : Nat) : List Nat :=
  let bits := elBits h.fmt
  let el (bs : List Byte) : List Nat := if bits = 4 then elemsOf 4 bs else chunksNat (bits / 8) (bs.length / (bits / 8)) bs
  if h.mode = 0 then (el (tl.slotMem.bytes (16384 * k) (denseLen h.fmt))).take 16384
  else
    let bm := (tl.slotMem.bytes (16384 * k) 2048).flatMap fun b => (List.range 8).map fun i => bitOf b.toNat i
    unpackBitmap bm (el (tl.slotMem.bytes (16384 * k + 2048) (h.bodyLen - 2048)))

/-- The format of the matrix codes 5, 7, 8, 9. -/
def matFmt (f : Nat) : Fmt := (recFmt f).getD fF32

/-- The 32 rows of 128 streamed elements with their sub-block scales, as exact values, and the strip scale of each row; a
scale of 0xFF makes the row's products NaN (R263, R268). -/
def streamRows (tl : Tile) (c : BitVec 12) (r : Rec) : List (Array FVal × Nat) :=
  let fm := matFmt (ctxA c)
  let t0 := 32 * rowBytes (recFormat r)
  let els := (tl.recElems r t0).map fun x => fm.val x
  let strips := if ctxSA c then (tl.recBytes r t0 32).map fun b => b.toNat else List.replicate 32 0x7F
  let mx := if ctxA c = 9 then (tl.recBytes r (t0 + 32) 128).map fun b => b.toNat else List.replicate 128 0x7F
  ((blocksOf 128 32 els).zipIdx).map fun q =>
    (((q.1.zipIdx).map fun e =>
        let x := mx.getD (4 * q.2 + e.2 / 32) 0x7F
        if x = 0xFF then FVal.nan else e.1.scale ((x : Int) - 127)).toArray, strips.getD q.2 0x7F)

/-- The square's elements W[k][n] at index 128 * n + k, scaled by their column's sub-block scale (R264, R268). -/
def squareVals (tl : Tile) (h : ImageHdr) (k : Nat) : Array FVal :=
  let fm := matFmt h.fmt
  let cols := (tl.slotDesc[slotIx k]).cols
  ((tl.squareElems h k).zipIdx.map fun q =>
    let x := if h.fmt = 9 then ((cols.getD (4 * (q.2 / 128) + q.2 % 128 / 32) 0x7F#8)).toNat else 0x7F
    if x = 0xFF then FVal.nan else (fm.val q.1).scale ((x : Int) - 127)).toArray

/-- The new elements of accumulator number `half` (0 or 1) of the pair (R268). -/
def blockStep (col : Bool) (c : BitVec 12) (rows : List (Array FVal × Nat)) (w : Array FVal) (sb : Nat) (half : Nat)
    (old : Array Nat) : List Nat :=
  (rows.zipIdx).flatMap fun q =>
    (List.range 64).map fun cc =>
      let n := 64 * half + cc
      let acc := if ctxAcc c then old.getD (64 * q.2 + cc) 0 else 0
      let prods := (List.range 128).map fun j =>
        (q.1.1.getD j (.fin false 0 0)).mul (w.getD (if col then 128 * j + n else 128 * n + j) (.fin false 0 0))
      blockAdd acc (blockSum prods) (decide (q.1.2 = 0xFF) || decide (sb = 0xFF)) ((q.1.2 : Int) - 127 + ((sb : Int) - 127))

/-- A block-step that leaves its pair as it is: in accumulate mode, every streamed or every resident element zero, and no scale 0xFF
(R268, R284). R51 gives a block whose other operand holds a NaN or an infinity the class NaN: R268 and R284 make no exception for it, and the
model follows them (DEDUCED, notes/assumptions/30.md); MXFP4 elements are finite, so that their scales need no test here. -/
def stepIdle (c : BitVec 12) (rows : List (Array FVal × Nat)) (w : Array FVal) (sb : Nat) : Bool :=
  ctxAcc c && decide (ctxA c ≠ 9) && decide (sb ≠ 0xFF) && rows.all (fun q => decide (q.2 ≠ 0xFF)) &&
    (rows.all (fun q => q.1.all FVal.isZero) || w.all FVal.isZero)

/-- The F32 elements of 8,192 bytes. -/
def f32s (bs : List Byte) : List Nat := chunksNat 4 2048 bs

/-! ## Starting an entry (R270, R278, R280, R281) -/

/-- The accumulators an entry names. -/
def MatEntry.accs (e : MatEntry) : List Nat :=
  match e.kind with
  | .mwld => []
  | .mmul _ => [e.acc, e.acc + 1]
  | _ => [e.acc]

/-- Whether an entry is a block-step. -/
def MatEntry.isMmul (e : MatEntry) : Bool :=
  match e.kind with
  | .mmul _ => true
  | _ => false

/-- The slots an entry uses (R270). -/
def MatEntry.slots (e : MatEntry) : List Nat :=
  match e.kind with
  | .mwld | .mmul _ => imageSlots e.hdr e.slot
  | _ => []

/-- An earlier entry that has not completed holds back a later one: a shared accumulator, but for an `mmul` after a started
`mmul` on the same pair; or a shared slot that one of them writes (R270). -/
def MatEntry.blocks (e f : MatEntry) : Bool :=
  ((e.accs.any fun n => f.accs.contains n) && !(e.isMmul && f.isMmul && e.started && decide (e.acc = f.acc))) ||
    ((e.slots.any fun k => f.slots.contains k) && !(e.isMmul && f.isMmul))

/-- The shaping limit A_k of window `k` (R194). -/
def shapeLimit (q : BitVec 48) (k : Nat) : Nat :=
  Nat.min (fld q.toNat 16 8) (fld q.toNat 0 8 + k * fld q.toNat 8 8 / 16)

/-- The limit of the current window, under the limit the power controller sets (R421). -/
def Tile.mshLim (tl : Tile) : Nat := Nat.min tl.limit (shapeLimit tl.shapeEff tl.mshWin.toNat)

/-- The start conditions of an entry, given the entries before it in the queue (R194, R270). -/
def Tile.canStart (tl : Tile) (clk : Nat) (before : List MatEntry) (f : MatEntry) : Bool :=
  !f.started && (match before.getLast? with | some p => p.started | none => true) &&
    !(before.any fun e => e.blocks f) &&
    (!f.isMmul || (decide (tl.arrayUntil ≤ clk) && decide (tl.mshCnt < tl.mshLim) && decide (clk < tl.startClk + 4000 * (tl.mshWin.toNat + 1))))

/-- The entry of number `id` with those before it. -/
def findEntry : List MatEntry → List MatEntry → Nat → Option (List MatEntry × MatEntry)
  | _, [], _ => none
  | pre, e :: t, id => if e.id = id then some (pre, e) else findEntry (pre ++ [e]) t id

/-- What an entry does when it starts: the tile after it, and the stop it meets: an offset whose line the version store has
no room for, or a structure with an uncorrectable error as unit, bank and row, or a bad bank word of tile memory. -/
inductive MatStop where
  | ok
  | overflow (at_ : Nat)
  | error (unit bank row : Nat)
  | tmError (w : Nat)
  deriving DecidableEq, Repr, Inhabited

/-- The error of an accumulator's code word (R281). -/
def accError (w : Nat) : MatStop := .error 2 (w / 512) (w % 512 / 4)

/-- The error of a slot's code word (R281). -/
def slotError (w : Nat) : MatStop := .error 3 (w / 1024) (w % 1024 / 4)

/-- Lines written to accumulator `n`, as a stop. -/
def Tile.accPut (tl : Tile) (n : Nat) (v : List Nat) : Tile × MatStop :=
  match tl.accWrite n (accLines v) with
  | (tl', none) => (tl', .ok)
  | (tl', some a) => (tl', .overflow a)

/-- `mwld` runs: the body into the slots, the scales into the descriptor (R274). -/
def Tile.runMwld (tl : Tile) (e : MatEntry) : Tile × MatStop :=
  match tl.badRuns (imageRuns e.hdr e.rc) with
  | some w => (tl, .tmError w)
  | none =>
    let body := tl.recBytes e.rc 64 e.hdr.bodyLen
    let tail := tl.recBytes e.rc (tailStart e.hdr.fmt) (tailLen e.hdr.fmt)
    let d := tl.slotDesc[slotIx e.slot]
    ({ tl with
      slotMem := tl.slotMem.write (16384 * e.slot) body
      badSlot := badAfter 16 tl.badSlot (16384 * e.slot) body.length
      slotsLoaded := imageSlots e.hdr e.slot ++ tl.slotsLoaded
      slotDesc := tl.slotDesc.set (slotIx e.slot) { d with scale := tail.headD 0, cols := tail.drop 64 } }, .ok)

/-- A block-step runs (R268). Where several of its structures are uncorrectable it meets the operand first, then the slot, then the
accumulators: the spec gives no order (DESIGN CHOICE, notes/assumptions/30.md). -/
def Tile.runMmul (tl : Tile) (e : MatEntry) (col : Bool) (clk : Nat) : Tile × MatStop :=
  let len := if e.hdr.mode = 0 then denseLen e.hdr.fmt else e.hdr.bodyLen
  match tl.badRuns (streamRuns e.ctx e.rc) with
  | some w => (tl, .tmError w)
  | none =>
    match badHit 16 tl.badSlot (16384 * e.slot) len with
    | some w => (tl, slotError w)
    | none =>
      match if ctxAcc e.ctx then (match tl.accBad e.acc with | some w => some w | none => tl.accBad (e.acc + 1)) else none with
      | some w => (tl, accError w)
      | none =>
        let rows := streamRows tl e.ctx e.rc
        let w := squareVals tl e.hdr e.slot
        let sb := if ctxSB e.ctx then ((tl.slotDesc[slotIx e.slot]).scale).toNat else 0x7F
        let old0 := f32s (tl.accBytes e.acc)
        let old1 := f32s (tl.accBytes (e.acc + 1))
        let idle := stepIdle e.ctx rows w sb
        let v0 := if idle then old0 else blockStep col e.ctx rows w sb 0 old0.toArray
        let v1 := if idle then old1 else blockStep col e.ctx rows w sb 1 old1.toArray
        let tl1 := { tl with arrayUntil := clk + blockTime (ctxA e.ctx), mshCnt := tl.mshCnt + 1 }
        match tl1.accPut e.acc v0 with
        | (tl2, .ok) => tl2.accPut (e.acc + 1) v1
        | r => r

/-- The tensor scale of a read-out: the pattern 0 means 1.0 (R278). -/
def tensorScale (z : BitVec 32) : FVal := if z = 0 then .fin false 1 0 else fF32.val z.toNat

/-- A read-out runs (R49, R278), line by ascending line; where record rows overlap, a line holds what the last of them gives it
(R280). -/
def Tile.runRd (tl : Tile) (e : MatEntry) (z : BitVec 32) : Tile × MatStop :=
  match tl.accBad e.acc with
  | some w => (tl, accError w)
  | none =>
    let fm := if recFormat e.rc = 5 then fBF16 else fF32
    let out := (f32s (tl.accBytes e.acc)).map fun x => fm.round .rne (ctxSat e.ctx) ((fF32.val x).mul (tensorScale z))
    let bs := out.flatMap fun x => leBytes (fm.w / 8) x
    match tl.fillRuns (byLine (layRuns (maccRuns e.rc) bs)) with
    | (tl', none) => (tl', .ok)
    | (tl', some a) => (tl', .overflow a)

/-- A refill runs: F32 elements, any NaN canonical (R278). -/
def Tile.runWr (tl : Tile) (e : MatEntry) : Tile × MatStop :=
  match tl.badRuns (maccRuns e.rc) with
  | some w => (tl, .tmError w)
  | none =>
    tl.accPut e.acc ((f32s (tl.readRuns (maccRuns e.rc))).map fun x =>
      if (fF32.val x).isNaN then fF32.nan.getD 0 else x)

/-- The pin state of an accumulator its holder changes (R266). -/
def Tile.setPin (tl : Tile) (e : MatEntry) (p : Bool) : Tile :=
  match tl.cur.accSt[accIx e.acc] with
  | .held s _ => if s = e.strand then { tl with cur := { tl.cur with accSt := tl.cur.accSt.set (accIx e.acc) (.held s p) } } else tl
  | .free => tl

/-- What an entry does when it starts (R270, R278). -/
def Tile.runEntry (tl : Tile) (clk : Nat) (e : MatEntry) : Tile × MatStop :=
  match e.kind with
  | .mwld => tl.runMwld e
  | .mmul col => tl.runMmul e col clk
  | .zero => tl.accPut e.acc (List.replicate 2048 0)
  | .rd z => tl.runRd e z
  | .wr => tl.runWr e
  | .pin => (tl.setPin e true, .ok)
  | .unpin => (tl.setPin e false, .ok)

/-- Strands waiting for one of some entries, or for a place in the queue, become READY and issue again (R269, R271). -/
def Tile.wakeMat (tl : Tile) (ids : List Nat) : Tile :=
  { tl with cur := { tl.cur with agents := tl.cur.agents.map fun g =>
      match g.st with
      | .wait (.matrix id) => if ids.contains id then { g with st := .ready, resuming := true } else g
      | _ => g } }

/-! ## The slew limiter (R423) -/

/-- Block-step starts of a module among `l` in the 1 µs that ends `back` clk before `clk`. -/
def startsIn (l : List Nat) (clk back : Nat) : Nat :=
  (l.filter fun c => decide (c + back ≤ clk) && decide (clk < c + back + 4000)).length

/-- One more block-step start would make the input current of module `m` rise faster than `PSLEW` allows (R423): 3.255 mA for each
start, over the last 1 µs against the 1 µs before, with `S` steps of 0.5 A (R422). Which span the limiter measures the rise over is
open (DEDUCED, notes/assumptions/41.md). -/
def State.slewOver (s : State) (m : Nat) : Bool :=
  let x := s.module m
  decide (x.pslew.toNat * 500000 + startsIn x.slewStarts s.clk 4000 * 3255 < (startsIn x.slewStarts s.clk 0 + 1) * 3255)

/-- A block-step of a module has started: the limiter looks back 2 µs. -/
def State.noteStart (s : State) (m : Nat) : State :=
  s.modModule m fun x => { x with slewStarts := (x.slewStarts.filter fun c => decide (s.clk < c + 8000)) ++ [s.clk] }

/-- The limiter delays entry `f` of tile `t`, and `SLEWHOLD` counts the delay once. -/
def State.delayStart (s : State) (t : Nat) (f : MatEntry) : State :=
  if f.delayed then s
  else
    (s.modTile t fun tl => { tl with matQ := tl.matQ.map fun g => if g.id = f.id then { g with delayed := true } else g }).modModule
      (modOfTile t) fun x => { x with slewHold := x.slewHold + 1 }

/-- An earlier Firefly command of the entry's strand is still to access an atom that the entry accesses too, where one of them writes it: the
entry's accesses perform after it (R227, R232). -/
def State.behindCommand (s : State) (t : Nat) (f : MatEntry) : Bool :=
  let ff := (s.die (dieOfTile t)).ff
  (ff.coming ++ ff.queue).any fun c =>
    decide (c.tile = t) && decide (c.strand = f.strand) && decide (c.id < f.pos) && !c.ran &&
      (if c.kind.readsOut then sharesAtom c.runs (f.reads ++ f.writeRuns) else sharesAtom c.runs f.writeRuns)

/-- The tile as entry `f` reads it: each 16-byte atom of its operand that was written since its issue old or new, and none newer than what
a later load of its strand took (R227, R232, R234). `k` numbers the free values. -/
def Tile.entryView (tl : Tile) (k : Nat) (f : MatEntry) : Tile := { tl with tm := tl.view f.reader k f.reads [] }

/-- The entry has made its reads: they are noted where another of its strand is still to read. -/
def Tile.entryRead (tl : Tile) (k : Nat) (f : MatEntry) : Tile := tl.noteRead f.reader f.reads fun w => (tl.pick f.reader k w).1

/-- An entry that reads tile memory runs on what it sees of it, and writes none; another runs on the tile as it stands, and what it writes
has it as its writer (R227, R232, R278). -/
def Tile.runSeen (tl : Tile) (clk k : Nat) (f : MatEntry) : Tile × MatStop :=
  if f.reads.isEmpty then
    let r := tl.runEntry clk f
    (r.1.stamp tl.olds.length (f.strand, f.pos), r.2)
  else
    let r := ((tl.entryRead k f).entryView k f).runEntry clk f
    ({ r.1 with tm := tl.tm }, r.2)

/-- MATRIX_ENTRY_START (R270, R423): entry `e` of the queue starts. On a version-store overflow it stops, its cause is deferred to
its strand, and that strand's later entries that have not started are abandoned (R280). What an abandoned entry did at its issue, a claim
of an accumulator or the descriptor of an `mwld`, stays (DESIGN CHOICE, notes/assumptions/30.md). -/
def execMatrixEntryStart (t e : Nat) (s : State) : Out :=
  let tl := s.tile t
  match findEntry [] tl.matQ e with
  | none => .next s
  | some (before, f) =>
    if !tl.enginesOn || !tl.canStart s.clk before f || s.behindCommand t f then .next s
    else if f.isMmul && s.slewOver (modOfTile t) then .next (s.delayStart t f)
    else
      let s1 := { s with free := s.free + 1 }
      match tl.runSeen s.clk s.free f with
      | (tl', .ok) =>
        let s1 := s1.setTile t { tl' with matQ := tl'.matQ.map fun g => if g.id = e then { g with started := true } else g }
        .next (if f.isMmul then s1.noteStart (modOfTile t) else s1)
      | (tl', .overflow a) =>
        let gone (g : MatEntry) : Bool := decide (g.id = e) || (decide (g.strand = f.strand) && !g.started)
        let ids := (tl'.matQ.filter gone).map fun g => g.id
        .next ((s1.setTile t (({ tl' with matQ := tl'.matQ.filter fun g => !gone g }).wakeMat ids)).deferTo t f.strand 0x0A
          (BitVec.ofNat 64 a))
      | (_, .error u b r) => .next (s.recordError t 0x13 u b r)
      | (_, .tmError w) => .next (s.tmError t w)

/-- MATRIX_ENTRY_COMPLETE (R269-R271): a started entry leaves the queue, and the strands that waited for it go on. -/
def execMatrixEntryComplete (t e : Nat) (s : State) : Out :=
  match findEntry [] (s.tile t).matQ e with
  | none => .next s
  | some (_, f) =>
    if f.started && (s.tile t).enginesOn then
      .next (s.modTile t fun tl => ({ tl with matQ := tl.matQ.filter fun g => decide (g.id ≠ e) }).wakeMat [e])
    else .next s

end Sys2Proof.Machine
end

