-- ==== Sys2Proof/Machine/Streams.lean ====
section
/-! DEFINITION. Vector register streams (R159-R163): reading and writing a bound register, reading ahead, ending a
binding; and the vector registers' reads and writes through them. -/

namespace Sys2Proof.Machine

/-- The binding of vector register `v`, if it is bound. -/
def Agent.stream (g : Agent) (v : Nat) : Option Stream := g.streams.find? fun b => decide (b.v = v)

/-- The binding of a register replaced. -/
def Agent.putStream (g : Agent) (b : Stream) : Agent :=
  { g with streams := b :: g.streams.filter fun c => decide (c.v ≠ b.v) }

/-- The binding of a register removed. -/
def Agent.dropStream (g : Agent) (v : Nat) : Agent := { g with streams := g.streams.filter fun c => decide (c.v ≠ v) }

/-- Tile address of element `i`. -/
def Stream.addr (b : Stream) (i : Nat) : Nat := b.base + i * b.stride

/-- Elements read from tile memory so far (input). -/
def Stream.fetched (b : Stream) : Nat := b.used + b.ahead.length

/-- A strand as the index of its agent. -/
def strandIx (w : Who) : Nat × Fin 10 :=
  match w with
  | .tile t a => (t, a)
  | .svc _ _ => (0, 0)

/-- The completion of a binding, given once (R161, R162). -/
def State.streamDone (s : State) (w : Who) (b : Stream) : State :=
  if b.done then s else s.complete (strandIx w).1 b.sem (strandIx w).2

/-- A binding ends: its completion, unless given, and its removal (R163). -/
def State.endStream (s : State) (w : Who) (v : Nat) : State :=
  match (s.agentOf w).stream v with
  | none => s
  | some b => (s.modAgent w fun g => g.dropStream v).streamDone w b

/-- Every binding of an agent ends (R163). -/
def State.endStreams (s : State) (w : Who) : State :=
  (s.agentOf w).streams.foldl (fun s b => s.endStream w b.v) s

/-- Element `i` of an input stream as it is read from tile memory: each of its 16-byte atoms old or new, where a store came after the
`vstream.in` of agent `a` (R161). `k` numbers the free values. -/
def Tile.element (tl : Tile) (a : Fin 10) (b : Stream) (k i : Nat) : VReg :=
  BitVec.ofNat 512 ((tl.view ⟨a, b.id, true⟩ k [(b.addr i, 64)] []).nat (b.addr i) 64)

/-- Element `i` of an input stream has been read: where every element lies at one place, a later one is read no older (R227). -/
def State.noteElement (s : State) (w : Who) (b : Stream) (k i : Nat) : State :=
  let r : Reader := ⟨(strandIx w).2, b.id, true⟩
  if b.stride = 0 then s.modTile (strandIx w).1 fun tl => tl.noteRead r [(b.addr i, 64)] fun x => (tl.pick r k x).1 else s

/-- The next element of an input stream: read ahead already, or read now. The binding with it taken, and the completion of
the last element's read (R161). -/
def State.takeElement (s : State) (w : Who) (b : Stream) : VReg × State :=
  match b.ahead with
  | e :: rest => (e, s.modAgent w fun g => g.putStream { b with used := b.used + 1, ahead := rest })
  | [] =>
    let e := (s.tile (strandIx w).1).element (strandIx w).2 b s.free b.used
    let last := decide (b.used + 1 = b.n)
    let s1 := ({ s with free := s.free + 1 }.noteElement w b s.free b.used).modAgent w fun g => g.putStream { b with used := b.used + 1, done := b.done || last }
    (e, if last then s1.streamDone w b else s1)

/-- The first of the registers an instruction reads that is bound to an exhausted input stream (R161). Which of two goes to `FADDR` is
open; this model takes the first in the order of the list that the instruction gives: `d` before `a` and `b` for `vsel`, `d` before
`b` for `vscat`, otherwise `a`, `b`, `c` (DESIGN CHOICE, notes/assumptions/20.md). -/
def Agent.exhausted (g : Agent) (rs : List (BitVec 5)) : Option (BitVec 5) :=
  rs.find? fun r =>
    match g.stream r.toNat with
    | some b => !b.out && decide (b.n ≤ b.used)
    | none => false

/-- The bad code word that taking the next elements of the bound registers would meet (R100). -/
def State.elementError (s : State) (w : Who) (rs : List (BitVec 5)) : Option Nat :=
  rs.findSome? fun r =>
    match (s.agentOf w).stream r.toNat with
    | some b => if b.out || !b.ahead.isEmpty then none else (s.tile (strandIx w).1).badAt (b.addr b.used) 64
    | none => none

/-- Each register an instruction reads that is bound to an input stream takes its next element, once (R161): the values
become the registers' values. -/
def State.consume (s : State) (w : Who) : List (BitVec 5) → State
  | [] => s
  | r :: rs =>
    let s1 :=
      match (s.agentOf w).stream r.toNat with
      | some b =>
        if b.out then s
        else
          let p := s.takeElement w b
          p.2.modAgent w fun g => g.wv r p.1
      | none => s
    s1.consume w rs

/-- The frame of every instruction that reads vector registers `rs`: cause 0x18 first (R161), then the elements are taken
and `k` goes on with the state after; a trap of `k`'s own is taken on the state before, with no element consumed. The matrix read wait
(R271) holds for an element that was read ahead too, which the spec leaves open (DESIGN CHOICE, notes/assumptions/20.md). An uncorrectable
word of an element that is still to be read is met before the causes 0x03, 0x04, 0x05 and 0x0A of the instruction itself: the spec gives no order
(DESIGN CHOICE, notes/assumptions/19.md). -/
def State.vread (s : State) (rs : List (BitVec 5)) (k : State → State → Out) : Out :=
  match s.me.exhausted rs with
  | some r => s.trap 0x18 (BitVec.ofNat 64 r.toNat)
  | none =>
    if rs.any fun r => (s.me.stream r.toNat).any fun b => !b.out then
      s.rdWait fun s =>
        match s.elementError s.turn rs with
        | some w => .next (s.readError s.turn w)
        | none => k s (s.consume s.turn rs.dedup)
    else k s s

/-- `V[d] <- v` as the last effect of an instruction: a write to a register bound to an input stream is discarded, one to
an output stream stores the next element too (R161, R162). `s0` is the state a trap is taken on. -/
def State.vwrite (s0 s : State) (d : BitVec 5) (v : VReg) (k : State → Out) : Out :=
  match s.me.stream d.toNat with
  | none => k (s.setMe (s.me.wv d v))
  | some b =>
    if !b.out then k s
    else if b.n ≤ b.used then s0.trap 0x05 (BitVec.ofNat 64 (b.n * 64))
    else s0.rdWait fun _ => s0.storeWait (b.addr b.used) 64 fun _ =>
      match s.storeHere (b.addr b.used) (leBytes 64 v.toNat) with
      | none => s0.trap 0x0A (BitVec.ofNat 64 (64 * (b.addr b.used / 64)))
      | some tl =>
        let last := decide (b.used + 1 = b.n)
        let s1 := s.setTile s.here tl
        let s2 := s1.setMe ((s1.me.wv d v).putStream { b with used := b.used + 1, done := b.done || last })
        k (if last then s2.streamDone s2.turn b else s2)

/-- A vector instruction on work core: reads `rs`, computes a value for `V[d]`. -/
def State.vop (s : State) (word : Nat) (rs : List (BitVec 5)) (d : BitVec 5) (f : State → VReg) : Out :=
  s.onWork word fun s => s.vread rs fun s0 s => s0.vwrite s d (f s) fun s => s.doneNop

/-- The old binding of a register ended and the new one made; a stream of no elements completes at issue (R160). -/
def State.rebind (s : State) (b : Stream) : Out :=
  let s0 := (s.endStream s.turn b.v).modMe fun g => g.putStream b
  let s1 := s0.modTile s.here fun tl => { tl with opSeq := tl.opSeq + 1 }
  (if b.n = 0 then s1.complete (strandIx s1.turn).1 b.sem (strandIx s1.turn).2 else s1).doneNop

/-- vstream.in and vstream.out (R160): the checks, then the binding. An input stream reads after the strand's earlier read-outs, so its binding waits for them (R232, R271). -/
def State.bind (s : State) (word : Nat) (out : Bool) (e a : BitVec 5) (k : BitVec 6) : Out :=
  s.onWork word fun s =>
    let r := s.recReg e
    let n := recExtent r / 64
    let top := recBase r + (n - 1) * recStride0 r + 63
    if recBase r % 64 ≠ 0 ∨ recStride0 r % 64 ≠ 0 ∨ recExtent r % 64 ≠ 0 then s.trap 0x03 (BitVec.ofNat 64 (recBase r))
    else if 1 ≤ n ∧ Config.tmSize ≤ top then s.trap 0x04 (BitVec.ofNat 64 top)
    else
      let b : Stream := ⟨a.toNat, out, recBase r, recStride0 r, n, 0, [], k.toNat, decide (n = 0), (s.tile s.here).opSeq⟩
      if out then s.rebind b else s.rdWait fun s => s.rebind b

/-- vstream.in (R160, R161). -/
def execVstreamIn (e a : BitVec 5) (k : BitVec 6) (s : State) : Out := s.bind (wordOf (.vstreamIn e a k)) false e a k

/-- vstream.out (R160, R162). -/
def execVstreamOut (e a : BitVec 5) (k : BitVec 6) (s : State) : Out := s.bind (wordOf (.vstreamOut e a k)) true e a k

/-- vstream.end (R163): no effect on a register that is not bound. -/
def execVstreamEnd (a : BitVec 5) (s : State) : Out :=
  s.onWork (wordOf (.vstreamEnd a)) fun s => (s.endStream s.turn a.toNat).doneNop

/-- STREAM_ELEMENT_READ (R161): the next element of the input stream bound to register `v` of strand `a` is read from tile
memory, at most 8 ahead of consumption, and not while a read-out of the strand has not completed (R232). -/
def execStreamElementRead (t a v : Nat) (s : State) : Out :=
  if h : a < 10 then
    let w : Who := .tile t ⟨a, h⟩
    match (s.agentOf w).stream v with
    | none => .next s
    | some b =>
      if b.out || decide (b.n ≤ b.fetched) || decide (8 ≤ b.ahead.length) || decide ((s.tile t).node ≠ .run) || (s.tile t).stopping ||
          (s.tile t).matQ.any (fun e => decide (e.strand.val = a) && e.isRd)
      then .next s
      else
        match (s.tile t).badAt (b.addr b.fetched) 64 with
        | some bw => .next (s.readError w bw)
        | none =>
          let e := (s.tile t).element ⟨a, h⟩ b s.free b.fetched
          let last := decide (b.fetched + 1 = b.n)
          let s1 := ({ s with free := s.free + 1 }.noteElement w b s.free b.fetched).modAgent w fun g => g.putStream { b with ahead := b.ahead ++ [e], done := b.done || last }
          .next (if last then s1.streamDone w b else s1)
  else .next s

end Sys2Proof.Machine
end

