-- ==== Sys2Proof/Machine/Control.lean ====
section
/-! DEFINITION. Branches, system functions, spawn and exit, traps taken at an instruction boundary, and the choice of a strand
(R112-R121, R133, R134, R136-R139). -/

namespace Sys2Proof.Machine

/-! ## Branches and jumps (R133) -/

/-- br (R133): the hint has no effect; a branch not taken makes no target check. -/
def execBr (p : BitVec 3) (n h : BitVec 1) (o : BitVec 20) (s : State) : Out :=
  let _ := h
  if s.rp p ≠ decide (n = 1) then s.transfer s.me (s.targetRel o) else s.doneNop

/-- jal (R133). -/
def execJal (d : BitVec 5) (i : BitVec 20) (s : State) : Out :=
  s.transfer (s.me.wx d (s.me.pc + 4)) (s.targetRel i)

/-- jalr (R133): the target is computed before `X[d]` is written. -/
def execJalr (d a : BitVec 5) (i : BitVec 15) (s : State) : Out :=
  s.transfer (s.me.wx d (s.me.pc + 4)) (s.targetReg a i)

/-! ## System functions (R134) -/

/-- nop (R134). -/
def execNop (s : State) : Out := s.doneNop

/-- yield (R114, R116): a strand becomes READY; the watchdog count of the agent starts again. -/
def execYield (s : State) : Out :=
  s.done { s.me with
    st := if s.turn.kind = .work then .ready else s.me.st
    heldFrom := s.clk }

/-- The end of an agent (R137): FREE, its stream bindings ended (R163) and its accumulators freed (R266). A cause still pending for it,
raised as the wait of its `exit` ended, is recorded by the tile (R120; notes/assumptions/55.md). -/
def State.endAgent (s : State) : State :=
  let s1 := s.modMe fun g => { g with st := .free, deferred := none }
  match s.turn with
  | .tile t a =>
    let s2 :=
      match s.me.deferred with
      | some p => s1.modTile t fun tl => tl.record ⟨p.code, none⟩
      | none => s1
    (s2.endStreams s.turn).modTile t fun tl => { tl with cur := tl.cur.freeAccs fun st =>
      match st with
      | .held b _ => decide (b = a)
      | .free => false }
  | .svc _ _ => s1

/-- exit (R137): once its queue entries have completed (R271), the return from an inline child, or the end of the agent. -/
def execExit (s : State) : Out :=
  match s.myEntry fun _ => true with
  | some e => s.waitOn (.matrix e.id)
  | none =>
    if s.me.depth ≠ 0 then s.transfer { s.me with depth := s.me.depth - 1 } (s.rx 1)
    else .next (s.endAgent.retire s.turn)

/-- trap (R134): cause 0x11 with `X[a]`. -/
def execTrap (a : BitVec 5) (s : State) : Out := s.trap 0x11 (s.rx a)

/-- eret (R134). -/
def execEret (s : State) : Out := s.returnFromTrap

/-- brk (R139): cause 0x11 with the immediate. -/
def execBrk (i : BitVec 20) (s : State) : Out := s.trap 0x11 (i.setWidth 64)

/-- fence (R134, R229, R231, R271). -/
def execFence (s : State) : Out := s.release fun s => s.doneNop

/-- fence.acq (R134, R229): a hart does not wait for its engine operations; a strand waits for its matrix entries (R271). -/
def execFenceAcq (s : State) : Out :=
  match s.myEntry fun _ => true with
  | some e => s.waitOn (.matrix e.id)
  | none => s.doneNop

/-- fence.rel (R134, R229, R231, R271). -/
def execFenceRel (s : State) : Out := s.release fun s => s.doneNop

/-! ## Spawn (R136) -/

/-- The lowest FREE strand slot of a tile. -/
def Tile.freeSlot (tl : Tile) : Option (Fin 10) :=
  (List.finRange 10).find? fun a => decide (a.val < 8) && decide ((tl.cur.agents[a]).st = .free)

/-- The context of a strand started by `spawn` (R136): its four arguments are in `x3`-`x6` (R84). -/
def childOf (g : Agent) (t : W) (prio : BitVec 3) : Agent :=
  { Agent.reset with
    st := .ready
    pc := t
    x := (((Agent.reset.x.set 3 (g.rx 3)).set 4 (g.rx 4)).set 5 (g.rx 5)).set 6 (g.rx 6)
    prio := prio
    tvec := g.tvec
    wdogLimit := g.wdogLimit }

/-- spawn (R136): a new strand in the lowest FREE slot, or the child run inline. -/
def execSpawn (d a : BitVec 5) (n : BitVec 3) (q : BitVec 1) (s : State) : Out :=
  s.onWork (wordOf (.spawn d a n q)) fun s =>
    let t := s.rx a
    if t.toNat % 4 ≠ 0 then s.trap 0x03 t
    else if Config.tmSize ≤ t.toNat then s.trap 0x04 t
    else
      match (s.tile s.here).freeSlot with
      | some i =>
        s.release fun s =>
          let g := s.me
          (s.modTile s.here fun tl => tl.setAgent i (childOf g t (if q = 1 then g.prio else n))).doneX d (BitVec.ofNat 64 i.val)
      | none =>
        s.goto { ((s.me.wx d 8).wx 1 (s.me.pc + 4)) with depth := s.me.depth + 1 } t

/-! ## Traps taken at an instruction boundary -/

/-- ILLEGAL_INSTRUCTION (R20, R60, R69, R78): a word that is no instruction raises cause 0x01 with the word. -/
def execIllegalInstruction (w : BitVec 32) (s : State) : Out := s.trap 0x01 (w.setWidth 64)

/-- PC_RANGE_TRAP (R61): a PC above the top of the agent's memory raises cause 0x04 before any fetch. -/
def execPcRangeTrap (s : State) : Out :=
  if whoMem s.turn ≤ s.me.pc.toNat then s.trap 0x04 s.me.pc else .next s

/-- `WDOG.COUNT` (R116): the clk for which the agent has held its slot. -/
def State.wdogCount (s : State) (g : Agent) : Nat :=
  match g.st with
  | .run => (s.clk - g.heldFrom) % 2 ^ 32
  | _ => 0

/-- The watchdog of an agent has reached its limit (R116). -/
def State.wdogDue (s : State) (g : Agent) : Bool :=
  decide (g.wdogLimit ≠ 0) && decide (g.wdogLimit.toNat ≤ s.wdogCount g)

/-- WATCHDOG_EXPIRY (R116): cause 0x10 at the boundary, with the count. -/
def execWatchdogExpiry (s : State) : Out :=
  if s.wdogDue s.me then s.trap 0x10 (BitVec.ofNat 64 (s.wdogCount s.me)) else .next s

/-- A wait abandoned without effect (R120): the agent goes on at the waiting instruction. -/
def State.abandonWait (s : State) (t : Nat) (a : Fin 10) : State :=
  (s.modTile t fun tl => tl.setAgent a { tl.cur.agents[a] with st := wakeState a, heldFrom := s.clk }).gldGone t a.val

/-- DEFERRED_CAUSE (R120): the pending cause of a running agent is taken at its instruction boundary; a waiting agent leaves its
wait and takes the cause before the instruction that waited. A wait that has completed comes first: an agent that is to issue its waiting
instruction again takes the cause after it, and so does one whose queue has a place now. -/
def execDeferredCause (who : Who) (s : State) : Out :=
  let g := s.agentOf who
  match g.deferred, g.st, who with
  | some p, .run, _ =>
    if g.resuming then .next s else .next ((s.setAgentOf who { g with deferred := none }).takeTrap who p.code p.faddr g.pc)
  | some _, .wait .queue, .tile t a => .next (if (s.tile t).placeFor a then s.reissue t a else s.abandonWait t a)
  | some _, .wait _, .tile t a => .next (s.abandonWait t a)
  | _, _, _ => .next s

/-! ## Choosing a strand (R113) -/

/-- The strands of a tile in round-robin order after `rr`. -/
def rrOrder (rr : Nat) : List (Fin 10) :=
  (List.range 8).map fun i => ⟨(rr + 1 + i) % 8, Nat.lt_of_lt_of_le (Nat.mod_lt _ (by decide)) (by decide)⟩

/-- Whether a strand of the tile holds the slot. -/
def Tile.slotHeld (tl : Tile) : Bool :=
  (List.finRange 10).any fun a => decide (a.val < 8) && decide ((tl.cur.agents[a]).st = .run)

/-- The first strand of the best priority among those of a list that are READY. -/
def bestReady (tl : Tile) (l : List (Fin 10)) : Option (Fin 10) :=
  let ready := l.filter fun a => decide ((tl.cur.agents[a]).st = .ready)
  (List.range 8).findSome? fun p => ready.find? fun a => decide ((tl.cur.agents[a]).prio.toNat = p)

/-- The tile's agents issue: it is in its compute phase and no error stops it (R169). -/
def Tile.issuing (tl : Tile) : Bool := decide (tl.node = .run) && !tl.stopping

/-- A strand of the tile may issue at `clk`: the choice of the strand that holds the slot was made before it (R113). -/
def Tile.slotOpen (tl : Tile) (clk : Nat) : Bool :=
  match tl.issueSlot with
  | .chosen c => decide (c < clk)
  | .held | .free _ => true

/-- STRAND_CHOICE (R113): no strand holds the slot; the best READY strand takes it, to issue from the next clk on. Whether `WDOG.COUNT`
counts the clk of the choice as one in which the strand held its slot R116 does not say: here it does, so that the count is 1 when the first
instruction may issue (DESIGN CHOICE, notes/assumptions/28.md). -/
def execStrandChoice (t : Nat) (s : State) : Out :=
  let tl := s.tile t
  if tl.slotHeld || !tl.issuing then .next s
  else
    match bestReady tl (rrOrder tl.rr) with
    | none => .next s
    | some a =>
      .next (s.setTile t { tl.setAgent a { tl.cur.agents[a] with st := .run, heldFrom := s.clk } with
        rr := a.val, issueSlot := .chosen s.clk })

end Sys2Proof.Machine
end

