-- ==== Sys2Proof/Machine/Firefly.lean ====
section
/-! DEFINITION. The Firefly array (spec 14 R308-R335): the issue of the commands, the update of the cells, the command queue
of a die, and the part of the die window that shows the cells and contexts. -/

namespace Sys2Proof.Machine

/-! ## The reset thresholds (R313) -/

/-- Entries 1 to 256 of the reset SIGT: the integers nearest to 65536 / (1 + e^(-(j - 256)/32)). -/
def sigtHalf : List Nat :=
    ([23, 23, 24, 25, 26, 27, 27, 28, 29, 30, 31, 32, 33, 34, 35, 36] : List Nat) ++
    [37, 39, 40, 41, 42, 44, 45, 47, 48, 50, 51, 53, 54, 56, 58, 60] ++
    [62, 64, 66, 68, 70, 72, 74, 77, 79, 82, 84, 87, 90, 92, 95, 98] ++
    [101, 105, 108, 111, 115, 119, 122, 126, 130, 134, 139, 143, 148, 152, 157, 162] ++
    [167, 172, 178, 184, 189, 195, 202, 208, 215, 221, 228, 236, 243, 251, 259, 267] ++
    [275, 284, 293, 302, 312, 321, 332, 342, 353, 364, 376, 387, 400, 412, 425, 439] ++
    [452, 467, 481, 497, 512, 528, 545, 562, 580, 598, 617, 636, 656, 677, 698, 720] ++
    [743, 766, 790, 815, 840, 867, 894, 922, 951, 980, 1011, 1042, 1075, 1109, 1143, 1179] ++
    [1215, 1253, 1292, 1333, 1374, 1417, 1461, 1506, 1553, 1601, 1650, 1701, 1754, 1808, 1864, 1921] ++
    [1980, 2041, 2104, 2168, 2235, 2303, 2374, 2446, 2521, 2598, 2677, 2758, 2842, 2928, 3017, 3108] ++
    [3202, 3298, 3398, 3500, 3605, 3713, 3824, 3938, 4055, 4176, 4299, 4427, 4557, 4692, 4830, 4971] ++
    [5117, 5266, 5420, 5577, 5739, 5904, 6074, 6249, 6428, 6611, 6799, 6992, 7190, 7392, 7600, 7812] ++
    [8030, 8252, 8481, 8714, 8953, 9197, 9447, 9702, 9964, 10230, 10503, 10782, 11066, 11357, 11653, 11955] ++
    [12264, 12579, 12899, 13226, 13559, 13898, 14243, 14595, 14952, 15316, 15686, 16062, 16444, 16832, 17226, 17625] ++
    [18031, 18442, 18859, 19282, 19710, 20143, 20582, 21025, 21474, 21928, 22386, 22849, 23316, 23788, 24263, 24743] ++
    [25226, 25712, 26202, 26695, 27191, 27689, 28190, 28693, 29198, 29705, 30213, 30723, 31233, 31744, 32256, 32768]

/-- Entry `j` of the reset SIGT; 0 and 511 are fixed, and the entries above 256 mirror those below. -/
def sigtReset (j : Nat) : Nat :=
  if j = 0 then 0 else if 511 ≤ j then 65536
  else if j ≤ 256 then sigtHalf.getD (j - 1) 0 else 65536 - sigtHalf.getD (511 - j) 0

/-- SIGT entry `j` of a configuration. -/
def FfConfig.entry (c : FfConfig) (j : Nat) : Nat :=
  match c.sigt.find? fun q => decide (q.1 = j) with
  | some q => q.2
  | none => sigtReset j

/-- A threshold loaded: entries 0 and 511 never change, and no entry exceeds 65,536 (R313, R322). -/
def FfConfig.setEntry (c : FfConfig) (j v : Nat) : FfConfig :=
  if j = 0 ∨ 511 ≤ j then c
  else
    let w := Nat.min 65536 v
    { c with sigt := if w = sigtReset j then c.sigt.filter fun q => decide (q.1 ≠ j) else kvSet c.sigt j w }

/-! ## Cells of a context (R308, R309, R312) -/

/-- The number of cells of a context. -/
def FfContext.ncells (c : FfContext) : Nat := 256 * c.nrows.toNat

/-- The die cell of region-relative cell `i` (R309). -/
def FfContext.dieCell (c : FfContext) (i : Nat) : Nat := 256 * c.frow.toNat + i

/-- Whether die cell `k` is one of the context's. -/
def FfContext.owns (c : FfContext) (k : Nat) : Bool :=
  decide (256 * c.frow.toNat ≤ k) && decide (k < 256 * c.frow.toNat + c.ncells)

/-- An index that names a ghost cell. -/
def isGhost (n : Nat) : Bool := decide (65536 ≤ n) && decide (n ≤ 69631)

/-- Neighbour and weight of an edge word (R321). -/
def edgeTo (w : Nat) : Nat := fld w 0 17
def edgeWeight (w : Nat) : Int := sextNat 8 (fld w 24 8)
/-- A slot of weight 0 is empty. -/
def edgeFull (w : Nat) : Bool := decide (fld w 24 8 ≠ 0)

/-- An edge word with its reserved bits cleared (R3). -/
def edgeClean (w : Nat) : Nat := fld w 0 17 + fld w 24 8 * 2 ^ 24

/-- A cell with its state replaced. -/
def Cell.setB (c : Cell) (b : Bool) : Cell := { c with b := b }

/-- Region-relative cell `i` as a sweep sees it. An edge word that a window write gave, or that a shorter context left, may name no cell of
the context: no cell of another region is read for it (R310), and its state, which the spec does not give, is a free value of number `k`
(DESIGN CHOICE, notes/assumptions/33.md). -/
def FfContext.cellSeen (c : FfContext) (cells : List (Nat × Cell)) (k i : Nat) : Cell :=
  if i < c.ncells then kvGet Cell.reset cells (c.dieCell i) else { Cell.reset with b := decide (Config.freeBits 1 (k + i) = 1#1) }

/-- Some cell of a list has an edge that names no cell of the context and no ghost. -/
def FfContext.stray (c : FfContext) (cells : List (Nat × Cell)) (l : List Nat) : Bool :=
  l.any fun i => (kvGet Cell.reset cells (c.dieCell i)).edges.any fun e =>
    edgeFull e.2 && !isGhost (edgeTo e.2) && decide (c.ncells ≤ edgeTo e.2)

/-- The state of a neighbour (R312, R314). -/
def ghostOrCell (ghosts : List Nat) (cell : Nat → Cell) (n : Nat) : Bool :=
  if isGhost n then ghosts.contains (n - 65536) else (cell n).b

/-! ## A sweep (R314) -/

/-- The field `h` of a cell. -/
def fieldOf (ghosts : List Nat) (cell : Nat → Cell) (c : Cell) : Int :=
  c.edges.foldl (fun h e =>
    if edgeFull e.2 then h + edgeWeight e.2 * (if ghostOrCell ghosts cell (edgeTo e.2) then 1 else -1) else h) c.bias.toInt

/-- The threshold of a field: SIGT at the field times beta, scaled and clamped. -/
def FfConfig.threshold (c : FfConfig) (h : Int) : Nat :=
  c.entry ((max (-256) (min 255 (h * c.beta.toNat / 256))) + 256).toNat

/-- What a sweep works on: the cells of the die and the number of the next free value, for the noise source. -/
structure SweepState where
  cells : List (Nat × Cell)
  free : Nat
  deriving DecidableEq, Repr, Inhabited

/-- The cells a colour updates: those of the colour that are not clamped. -/
def FfContext.toUpdate (c : FfContext) (cells : List (Nat × Cell)) (col : Nat) : List Nat :=
  (List.range c.ncells).filter fun i =>
    let x := kvGet Cell.reset cells (c.dieCell i)
    decide (x.col.toNat = col) && !x.cen

/-- One colour of a sweep: every new state is computed from the cells as they stand, then written. -/
def FfContext.sweepColour (c : FfContext) (ssn col : Nat) (s : SweepState) : SweepState :=
  let cfg := c.work
  let cell (i : Nat) : Cell := c.cellSeen s.cells s.free i
  let todo := c.toUpdate s.cells col
  let new := todo.zipIdx.map fun q =>
    let draw := if cfg.ent then (Config.freeBits 16 (s.free + q.2)).toNat
      else keyedDraw cfg.key.toNat ssn cfg.sweep ((c.gbase.toNat + q.1) % 2 ^ 20)
    (q.1, decide (draw < cfg.threshold (fieldOf cfg.ghosts cell (cell q.1))))
  { cells := new.foldl (fun l q => kvSet l (c.dieCell q.1) ((cell q.1).setB q.2)) s.cells
    free := (if cfg.ent then s.free + todo.length else s.free) + if c.stray s.cells todo then 2 ^ 17 else 0 }

/-- The counting at the end of a sweep. -/
def FfContext.countStates (c : FfContext) (cells : List (Nat × Cell)) : List (Nat × Cell) :=
  cells.map fun q => (q.1, if c.owns q.1 && q.2.b && decide (q.2.cnt.toNat < 65535) then { q.2 with cnt := q.2.cnt + 1 } else q.2)

/-- One sweep: the colours of `CMASK` in turn, the counts, the sweep index. R326 lets the index reach 2³¹, which R309 gives no room as an N31:
here it is then 2³¹ in the state, so that a further sweep is refused, and its 31 bits in the context block are 0 (DESIGN CHOICE,
notes/assumptions/40.md). -/
def FfContext.sweep1 (c : FfContext) (ssn : Nat) (s : SweepState) : FfContext × SweepState :=
  let s1 := (List.range 8).foldl (fun s col => if c.work.cmask.getLsbD col then c.sweepColour ssn col s else s) s
  ({ c with work := { c.work with sweep := c.work.sweep + 1 } }, { s1 with cells := c.countStates s1.cells })

/-- `n` sweeps. -/
def FfContext.sweeps (ssn : Nat) : Nat → FfContext × SweepState → FfContext × SweepState
  | 0, q => q
  | n + 1, q => FfContext.sweeps ssn n (q.1.sweep1 ssn q.2)

/-- Whether some sweep draws: an unclamped cell of a colour that is swept (R316). -/
def FfContext.draws (c : FfContext) (cells : List (Nat × Cell)) : Bool :=
  (List.range 8).any fun col => c.work.cmask.getLsbD col && !(c.toUpdate cells col).isEmpty

/-! ## Issue (R310, R317, R320, R321) -/

/-- The context of a region on a die, with its number. R309 gives a region at most one; of two that window writes leave valid for one region the
lower is taken (DESIGN CHOICE, notes/assumptions/33.md). -/
def Firefly.ctxOf (f : Firefly) (region : BitVec 20) : Option (Fin 16) :=
  (List.finRange 16).find? fun i => (f.ctxs[i]).valid && decide ((f.ctxs[i]).region = region)

/-- The context a tile's commands act on (R310). -/
def State.ffCtx (s : State) (t : Nat) : Option (Fin 16) :=
  if (s.tile t).inReg then (s.die (dieOfTile t)).ff.ctxOf (s.tile t).region else none

/-- The number of cells or entries of a form (R321). -/
def FfKind.count (k : FfKind) (rc : Rec) : Nat :=
  match k with
  | .edge => recExtent rc / 128
  | .bias | .cnt => recExtent rc / 2
  | .col => recExtent rc
  | .state | .bits => 8 * recExtent rc
  | .clamp | .unclamp => recExtent rc / 4
  | _ => 0

/-- The register operand of a form is outside what its context allows (R320). -/
def FfKind.outOfRange (k : FfKind) (rc : Rec) (x nc : Nat) : Bool :=
  let n := k.count rc
  let cells := decide (n = 0) || decide (x + n ≤ nc)
  match k with
  | .edge | .bias | .col | .bits | .cnt => !cells
  | .state => !(cells || (decide (65536 ≤ x) && decide (x + n ≤ 69632)))
  | .sweep => decide (2 ^ 31 ≤ x)
  | _ => false

/-- The checks of R320 in order of their codes. `x` is X[a], 0 for a form without a register; `nc` the cells of the context,
none without one. -/
def FfKind.cause (k : FfKind) (rc : Rec) (x : W) (nc : Option Nat) : Option (Nat × W) :=
  let runs := if k.hasRec then runsOf rc 0 (recExtent rc) else []
  match firstOdd k.sizes.1 runs with
  | some a => some (0x03, BitVec.ofNat 64 a)
  | none =>
    match firstOut runs with
    | some a => some (0x04, BitVec.ofNat 64 a)
    | none =>
      if k.hasRec && (decide (recExtent rc < k.sizes.2.1) || decide (recExtent rc % k.sizes.2.2 ≠ 0)) then
        some (0x05, BitVec.ofNat 64 (recExtent rc))
      else
        match nc with
        | none => some (0x0F, x)
        | some n => if k.outOfRange rc x.toNat n then some (0x0F, x) else none

/-- The issue of a Firefly command (R317, R320). With 64 commands outstanding the strand stalls in RUN: nothing changes. -/
def State.ffIssue (s : State) (word : Nat) (kind : FfKind) (rc : Rec) (x : W) (k : BitVec 6) : Out :=
  s.onWork word fun s =>
    let ff := (s.die (dieOfTile s.here)).ff
    match kind.cause rc x ((s.ffCtx s.here).map fun i => (ff.ctxs[i]).ncells) with
    | some p => s.trap p.1 p.2
    | none =>
      s.rdWait fun s =>
        if 64 ≤ ff.coming.length + ff.queue.length then .next s
        else
          match s.turn with
          | .tile t a =>
            let c : FfCmd := ⟨t, a, kind, rc, x, k.toNat, (s.clk + 16) / 2, false, (s.tile t).opSeq⟩
            ((s.modDie (dieOfTile t) fun d => { d with ff := { d.ff with coming := d.ff.coming ++ [c] } }).modTile t fun tl =>
              { tl with opSeq := tl.opSeq + 1, ffOpen := if kind.readsIn then tl.ffOpen ++ [(a, tl.opSeq)] else tl.ffOpen }).doneNop
          | .svc _ _ => .next s

/-- ffcfg.key (R322). -/
def execFfcfgKey (e : BitVec 5) (k : BitVec 6) (s : State) : Out :=
  s.ffIssue (wordOf (.ffcfgKey e k)) .key (s.recReg e) 0 k
/-- ffcfg.beta (R322). -/
def execFfcfgBeta (e : BitVec 5) (k : BitVec 6) (s : State) : Out :=
  s.ffIssue (wordOf (.ffcfgBeta e k)) .beta (s.recReg e) 0 k
/-- ffcfg.sigt (R322). -/
def execFfcfgSigt (e : BitVec 5) (k : BitVec 6) (s : State) : Out :=
  s.ffIssue (wordOf (.ffcfgSigt e k)) .sigt (s.recReg e) 0 k
/-- ffcfg.mode (R322). -/
def execFfcfgMode (e : BitVec 5) (k : BitVec 6) (s : State) : Out :=
  s.ffIssue (wordOf (.ffcfgMode e k)) .mode (s.recReg e) 0 k
/-- ffld.edge (R323). -/
def execFfldEdge (e a : BitVec 5) (k : BitVec 6) (s : State) : Out :=
  s.ffIssue (wordOf (.ffldEdge e a k)) .edge (s.recReg e) (s.rx a) k
/-- ffld.bias (R323). -/
def execFfldBias (e a : BitVec 5) (k : BitVec 6) (s : State) : Out :=
  s.ffIssue (wordOf (.ffldBias e a k)) .bias (s.recReg e) (s.rx a) k
/-- ffld.col (R323). -/
def execFfldCol (e a : BitVec 5) (k : BitVec 6) (s : State) : Out :=
  s.ffIssue (wordOf (.ffldCol e a k)) .col (s.recReg e) (s.rx a) k
/-- ffld.state (R323). -/
def execFfldState (e a : BitVec 5) (k : BitVec 6) (s : State) : Out :=
  s.ffIssue (wordOf (.ffldState e a k)) .state (s.recReg e) (s.rx a) k
/-- ffop.sweep (R325, R326). -/
def execFfopSweep (a : BitVec 5) (k : BitVec 6) (s : State) : Out :=
  s.ffIssue (wordOf (.ffopSweep a k)) .sweep 0 (s.rx a) k
/-- ffop.clamp (R325, R327). -/
def execFfopClamp (e : BitVec 5) (k : BitVec 6) (s : State) : Out :=
  s.ffIssue (wordOf (.ffopClamp e k)) .clamp (s.recReg e) 0 k
/-- ffop.unclamp (R325, R327). -/
def execFfopUnclamp (e : BitVec 5) (k : BitVec 6) (s : State) : Out :=
  s.ffIssue (wordOf (.ffopUnclamp e k)) .unclamp (s.recReg e) 0 k
/-- ffop.creset (R325, R326). -/
def execFfopCreset (k : BitVec 6) (s : State) : Out :=
  s.ffIssue (wordOf (.ffopCreset k)) .creset 0 0 k
/-- ffrd.bits (R328). -/
def execFfrdBits (e a : BitVec 5) (k : BitVec 6) (s : State) : Out :=
  s.ffIssue (wordOf (.ffrdBits e a k)) .bits (s.recReg e) (s.rx a) k
/-- ffrd.cnt (R328). -/
def execFfrdCnt (e a : BitVec 5) (k : BitVec 6) (s : State) : Out :=
  s.ffIssue (wordOf (.ffrdCnt e a k)) .cnt (s.recReg e) (s.rx a) k

/-! ## The effect of a command -/

/-- The working state a command acts on: the context, the cells of the die. -/
structure FfWork where
  ctx : FfContext
  cells : List (Nat × Cell)
  deriving DecidableEq, Repr, Inhabited

def FfWork.cell (w : FfWork) (i : Nat) : Cell := kvGet Cell.reset w.cells (w.ctx.dieCell i)
def FfWork.setCell (w : FfWork) (i : Nat) (c : Cell) : FfWork := { w with cells := kvSet w.cells (w.ctx.dieCell i) c }

/-- How a command stops: with a cause and its `FADDR`, or on an uncorrectable structure, as `BANK` and `ROW` of R330. -/
inductive FfEnd where
  | cause (code faddr : Nat)
  | bad (bank row : Nat)
  deriving DecidableEq, Repr, Inhabited

/-- A command meets cell `i`: the stop, if its row is one of the `bad` structures (R330). -/
def FfWork.met (w : FfWork) (bad : List (Nat × Nat)) (i : Nat) : Option FfEnd :=
  let r := w.ctx.frow.toNat + i / 256
  if bad.contains (0, r) then some (.bad 0 r) else none

/-- A command meets every cell of the context. -/
def FfWork.metAll (w : FfWork) (bad : List (Nat × Nat)) : Option FfEnd :=
  (List.range w.ctx.nrows.toNat).findSome? fun r => w.met bad (256 * r)

/-- A command meets the ghosts and the configuration of context `i`. -/
def metConf (bad : List (Nat × Nat)) (i : Nat) : Option FfEnd := if bad.contains (2, i) then some (.bad 2 i) else none

/-- The first failing slot among a cell's edge words, in ascending order (R324): cell `c` has colour `col`. -/
def FfWork.slotEnd (w : FfWork) (bad : List (Nat × Nat)) (c : Nat) (col : BitVec 3) : List Nat → Option FfEnd
  | [] => none
  | e :: t =>
    if !edgeFull e || isGhost (edgeTo e) then w.slotEnd bad c col t
    else if w.ctx.ncells ≤ edgeTo e then some (.cause 0x0F c)
    else
      match w.met bad (edgeTo e) with
      | some x => some x
      | none => if (w.cell (edgeTo e)).col = col then some (.cause 0x0E c) else w.slotEnd bad c col t

/-- The cells joined to cell `c` by a local edge, in either direction (R324). -/
def FfWork.joined (w : FfWork) (c : Nat) : List Nat :=
  let out := ((w.cell c).edges.filter fun e => edgeFull e.2 && decide (edgeTo e.2 < w.ctx.ncells)).map fun e => edgeTo e.2
  let into := w.cells.filterMap fun q =>
    if w.ctx.owns q.1 && q.2.edges.any fun e => edgeFull e.2 && decide (edgeTo e.2 = c) then some (q.1 - 256 * w.ctx.frow.toNat)
    else none
  out ++ into

/-- Elements put into cells from `c` one after another, up to the first that stops the command: `chk` says of a cell and its element
whether it does, `put` is the new cell (R323). -/
def FfWork.eachCell {α : Type} (chk : FfWork → Nat → α → Option FfEnd) (put : Cell → α → Cell) (w : FfWork) (c : Nat) :
    List α → FfWork × Option FfEnd
  | [] => (w, none)
  | v :: t =>
    match chk w c v with
    | some x => (w, some x)
    | none => FfWork.eachCell chk put (w.setCell c (put (w.cell c) v)) (c + 1) t

/-- Edge words loaded into cells from `c` (R323, R324). -/
def FfWork.loadEdges (w : FfWork) (bad : List (Nat × Nat)) (c : Nat) (l : List (List Nat)) : FfWork × Option FfEnd :=
  FfWork.eachCell (fun w c l => (w.met bad c).or (w.slotEnd bad c (w.cell c).col l))
    (fun x l => { x with edges := (l.zipIdx.map fun q => (q.2, edgeClean q.1)).filter fun q => decide (q.2 ≠ 0) }) w c l

/-- Biases loaded into cells from `c` (R323). -/
def FfWork.loadBiases (w : FfWork) (bad : List (Nat × Nat)) (c : Nat) (l : List Nat) : FfWork × Option FfEnd :=
  FfWork.eachCell (fun w c _ => w.met bad c) (fun x v => { x with bias := BitVec.ofNat 16 v }) w c l

/-- Colours loaded into cells from `c` (R323, R324). The check of a colour looks for edges into the cell, and so meets every cell. -/
def FfWork.loadCols (w : FfWork) (bad : List (Nat × Nat)) (c : Nat) (l : List Nat) : FfWork × Option FfEnd :=
  FfWork.eachCell
    (fun w c v => (w.metAll bad).or
      (if (w.joined c).any fun n => decide ((w.cell n).col = BitVec.ofNat 3 (v % 8)) then some (.cause 0x0E c) else none))
    (fun x v => { x with col := BitVec.ofNat 3 (v % 8) }) w c l

/-- States loaded into cells from `c`; a clamped one keeps its value (R323). -/
def FfWork.loadStates (w : FfWork) (bad : List (Nat × Nat)) (c : Nat) (l : List Bool) : FfWork × Option FfEnd :=
  FfWork.eachCell (fun w c _ => w.met bad c) (fun x b => if x.cen then x else x.setB b) w c l

/-- States loaded into ghosts from `g` (R323). -/
def loadGhosts (gs : List Nat) (g : Nat) : List Bool → List Nat
  | [] => gs
  | b :: t => loadGhosts (if b then natInsert gs g else natErase gs g) (g + 1) t

/-- The entries of a clamp list in order (R327). -/
def FfWork.clampAll (w : FfWork) (bad : List (Nat × Nat)) (on : Bool) : List Nat → FfWork × Option FfEnd
  | [] => (w, none)
  | e :: t =>
    let c := fld e 0 16
    let v := bitOf e 16
    if w.ctx.ncells ≤ c then (w, some (.cause 0x0F c))
    else
      match w.met bad c with
      | some x => (w, some x)
      | none =>
        let x := w.cell c
        (w.setCell c (if on then { x with cen := true, cval := v, b := v } else { x with cen := false })).clampAll bad on t

/-- Little-endian words of 4 bytes. -/
def words4 (bs : List Byte) : List Nat := chunksNat 4 (bs.length / 4) bs

/-- A list cut in groups of 32 words, the edge words of one cell each. -/
def groups32 : Nat → List Nat → List (List Nat)
  | 0, _ => []
  | n + 1, l => l.take 32 :: groups32 n (l.drop 32)

/-- The bits of bytes, bit 0 first (R321). -/
def bitsOfBytes (bs : List Byte) : List Bool := bs.flatMap fun b => (List.range 8).map fun i => bitOf b.toNat i

/-- Bits as bytes. -/
def bytesOfBits : Nat → List Bool → List Byte
  | 0, _ => []
  | n + 1, l => BitVec.ofNat 8 ((l.take 8).zipIdx.foldl (fun v q => if q.1 then v + 2 ^ q.2 else v) 0) :: bytesOfBits n (l.drop 8)

/-- The bytes that an `ffrd` writes (R328). -/
def FfWork.readOut (w : FfWork) (kind : FfKind) (x n : Nat) : List Byte :=
  match kind with
  | .bits => bytesOfBits (n / 8) ((List.range n).map fun j => (w.cell (x + j)).b)
  | .cnt => (List.range n).flatMap fun j => leBytes 2 (w.cell (x + j)).cnt.toNat
  | _ => []

/-- A new configuration of context `i`. -/
def FfWork.conf (w : FfWork) (bad : List (Nat × Nat)) (i : Nat) (c : FfConfig) : FfWork × Option FfEnd :=
  match metConf bad i with
  | some x => (w, some x)
  | none => ({ w with ctx := { w.ctx with work := c } }, none)

/-- What the array does for a command on context `i`, sweeps and read-outs apart (R322-R327, R330): the working state, and how the
command stops if it does. A command of no cells or entries meets nothing (R321). -/
def FfWork.load (w : FfWork) (bad : List (Nat × Nat)) (i : Nat) (kind : FfKind) (x : Nat) (bs : List Byte) : FfWork × Option FfEnd :=
  let cfg := w.ctx.work
  let conf := w.conf bad i
  match kind with
  | .key => conf { cfg with key := BitVec.ofNat 128 (leNat (bs.take 16)) }
  | .beta => conf { cfg with beta := BitVec.ofNat 16 (leNat (bs.take 2)) }
  | .mode => conf { cfg with ent := bitOf (leNat (bs.take 1)) 0, cmask := BitVec.ofNat 8 (leNat ((bs.drop 1).take 1)) }
  | .sigt => conf (((words4 bs).take 512).zipIdx.foldl (fun c q => c.setEntry q.2 (fld q.1 0 17)) cfg)
  | .edge => w.loadEdges bad x (groups32 (bs.length / 128) (words4 bs))
  | .bias => w.loadBiases bad x (chunksNat 2 (bs.length / 2) bs)
  | .col => w.loadCols bad x (bs.map fun b => b.toNat)
  | .state =>
    if 65536 ≤ x ∧ bs ≠ [] then conf { cfg with ghosts := loadGhosts cfg.ghosts (x - 65536) (bitsOfBytes bs) }
    else w.loadStates bad x (bitsOfBytes bs)
  | .clamp => w.clampAll bad true (words4 bs)
  | .unclamp => w.clampAll bad false (words4 bs)
  | .creset =>
    match w.metAll bad with
    | some e => (w, some e)
    | none => ({ w with cells := w.cells.map fun q => (q.1, if w.ctx.owns q.1 then { q.2 with cnt := 0 } else q.2) }, none)
  | .sweep | .bits | .cnt => (w, none)

/-- The cells that a read-out from cell `x` reaches before one in an uncorrectable row, in whole bytes of bits, and that row (R330). -/
def FfWork.readable (w : FfWork) (bad : List (Nat × Nat)) (kind : FfKind) (x n : Nat) : Nat × Option FfEnd :=
  match (List.range n).find? fun j => (w.met bad (x + j)).isSome with
  | some j => (if kind = .bits then j / 8 * 8 else j, w.met bad (x + j))
  | none => (n, none)

/-! ## The queue (R317, R318) -/

/-- The command that arrives next among those on their way: by cycle, then logical tile number, then issue order. -/
def nextArrival : List FfCmd → Option FfCmd
  | [] => none
  | c :: t =>
    match nextArrival t with
    | none => some c
    | some e => if c.cycle * 64 + c.tile % 64 ≤ e.cycle * 64 + e.tile % 64 then some c else some e

/-- FIREFLY_COMMAND_ARRIVAL (R317): the next command enters the queue in its cycle. -/
def execFireflyCommandArrival (d : Nat) (s : State) : Out :=
  match nextArrival (s.die d).ff.coming with
  | none => .next s
  | some c =>
    if s.clk / 2 < c.cycle then .next s
    else .next (s.modDie d fun x => { x with ff := { x.ff with coming := x.ff.coming.erase c, queue := x.ff.queue ++ [c] } })

/-- The command at the head of the queue goes, without a signal. -/
def Firefly.dropHead (f : Firefly) : Firefly := { f with queue := f.queue.drop 1 }

/-- The head of the queue has run. -/
def Firefly.ranHead (f : Firefly) : Firefly :=
  { f with queue := match f.queue with | c :: t => { c with ran := true } :: t | [] => [] }

/-- The working copy of a context and the cells replaced. -/
def Firefly.putWork (f : Firefly) (i : Fin 16) (w : FfWork) : Firefly :=
  { f with ctxs := f.ctxs.set i w.ctx, cells := w.cells }

/-- The command stops with a cause deferred to its strand (R120, R317): to the slot's strand of that moment, also where the issuing strand
has ended and another was spawned into its slot, of which the spec says nothing (DESIGN CHOICE, notes/assumptions/13.md). -/
def State.ffStop (s : State) (d : Nat) (c : FfCmd) (code : Nat) (faddr : W) : State :=
  ((s.modDie d fun x => { x with ff := x.ff.dropHead }).deferTo c.tile c.strand code faddr).wakeDrain c.tile c.strand

/-- The command stops: its cause goes to its strand, or the tile records the structure (R120, R330). -/
def State.ffEnd (s : State) (d : Nat) (c : FfCmd) : FfEnd → State
  | .cause code a => s.ffStop d c code (BitVec.ofNat 64 a)
  | .bad bank row => (s.modDie d fun x => { x with ff := x.ff.dropHead }).recordError c.tile 0x13 4 bank row

/-- The sweeps of a command (R314, R316, R326, R330); one of no sweeps meets nothing. In entropy mode while the noise source fails, sweeps that
draw nothing (`CMASK` 0, or every swept cell clamped) have no first draw to stop before, and run (DESIGN CHOICE, notes/assumptions/33.md). -/
def State.ffSweep (s : State) (d : Nat) (c : FfCmd) (i : Fin 16) (w : FfWork) : State :=
  let n := c.x.toNat
  let meets := if n = 0 then none else (w.metAll (s.die d).ff.bad).or (metConf (s.die d).ff.bad i.val)
  if 2 ^ 31 < w.ctx.work.sweep + n then s.ffStop d c 0x0F c.x
  else if let some e := meets then s.ffEnd d c e
  else if w.ctx.work.ent && !(s.die d).ff.noiseOk && decide (0 < n) && w.ctx.draws w.cells then
    (s.modDie d fun x => { x with ff := x.ff.dropHead }).recordError c.tile 0x13 4 1 0
  else
    let r := FfContext.sweeps (s.tile c.tile).ssnum.toNat n (w.ctx, ⟨w.cells, s.free⟩)
    let s1 := s.modDie d fun x =>
      let f := (x.ff.putWork i ⟨r.1, r.2.cells⟩).ranHead
      { x with ff := { f with sweeps := f.sweeps + BitVec.ofNat 64 n } }
    { s1 with free := r.2.free }

/-- A matrix entry that the strand issued before the command is still to access an atom that the command accesses too (R227, R232); the
engines of its tile run. -/
def Tile.entryBefore (tl : Tile) (c : FfCmd) : Bool :=
  tl.enginesOn && tl.matQ.any fun e =>
    decide (e.strand = c.strand) && decide (e.pos ≤ c.id) && !e.started && sharesAtom c.runs (e.reads ++ e.writeRuns)

/-- A command as a reader (R223). -/
def FfCmd.reader (c : FfCmd) : Reader := ⟨c.strand, c.id, false⟩

/-- The tile when its command `c` has read its record: it reads no more (R233). -/
def Tile.commandRead (tl : Tile) (c : FfCmd) (k : Nat) : Tile :=
  let tl1 := { tl with ffOpen := tl.ffOpen.filter fun q => decide (q.2 ≠ c.id) }
  if c.kind.readsIn then tl1.noteRead c.reader c.runs fun w => (tl.pick c.reader k w).1 else tl1

/-- FIREFLY_COMMAND_START (R318, R330): the array runs the command at the head of the queue on the working copy. It takes each atom of its
record that was stored to after its issue old or new (R233). -/
def execFireflyCommandStart (d : Nat) (s0 : State) : Out :=
  let ff := (s0.die d).ff
  match ff.queue with
  | [] => .next s0
  | c :: _ =>
    let tl0 := s0.tile c.tile
    if c.ran || tl0.entryBefore c then .next s0
    else
      let s : State := if c.kind.readsIn then { s0 with free := s0.free + 1 }.setTile c.tile (tl0.commandRead c s0.free) else s0
      match s.ffCtx c.tile with
      | none => .next ((s.modDie d fun x => { x with ff := x.ff.dropHead }).wakeDrain c.tile c.strand)
      | some i =>
        let tl := s.tile c.tile
        let n := c.kind.count c.rc
        let w : FfWork := ⟨ff.ctxs[i], ff.cells⟩
        match if c.kind.readsOut then none else tl.badRuns c.runs with
        | some bw => .next ((s.modDie d fun x => { x with ff := x.ff.dropHead }).tmError c.tile bw)
        | none =>
          if c.kind = .sweep then .next (s.ffSweep d c i w)
          else if c.kind.readsOut then
            let m := w.readable ff.bad c.kind c.x.toNat n
            let bs := w.readOut c.kind c.x.toNat m.1
            match tl.fillRuns (layRuns (runsOf c.rc 0 bs.length) bs), m.2 with
            | (tl', some a), _ => .next ((s.setTile c.tile tl').ffStop d c 0x0A (BitVec.ofNat 64 a))
            | (tl', none), some e => .next ((s.setTile c.tile tl').ffEnd d c e)
            | (tl', none), none =>
              .next (((s.modDie d fun x => { x with ff := x.ff.ranHead }).setTile c.tile
                (tl'.stamp tl.olds.length (c.strand, c.id))).wakeDrain c.tile c.strand)
          else
            let m := tl0.view c.reader s0.free c.runs []
            let r := w.load ff.bad i.val c.kind c.x.toNat (c.runs.flatMap fun p => m.bytes p.1 p.2)
            let s1 := s.modDie d fun x => { x with ff := x.ff.putWork i r.1 }
            match r.2 with
            | some e => .next (s1.ffEnd d c e)
            | none => .next (s1.modDie d fun x => { x with ff := x.ff.ranHead })

/-- FIREFLY_COMMAND_COMPLETE (R317, R319): the command ends and adds 1 to its semaphore. -/
def execFireflyCommandComplete (d : Nat) (s : State) : Out :=
  match (s.die d).ff.queue with
  | [] => .next s
  | c :: _ =>
    if !c.ran then .next s
    else .next ((s.modDie d fun x => { x with ff := x.ff.dropHead }).complete c.tile c.sem c.strand)

/-- Whether a tile has Firefly commands that have not completed (R172). -/
def State.ffBusy (s : State) (t : Nat) : Bool :=
  let ff := (s.die (dieOfTile t)).ff
  (ff.coming ++ ff.queue).any fun c => decide (c.tile = t)

/-! ## Commit, abort and the start instant (R314, R329) -/

/-- The cells of a context copied from one copy to the other. -/
def FfContext.copyCells (c : FfContext) (src dst : List (Nat × Cell)) : List (Nat × Cell) :=
  (src.filter fun q => c.owns q.1).foldl (fun l q => kvSet l q.1 q.2) (dst.filter fun q => !c.owns q.1)

/-- The seal commit of a region on a die: the working copy becomes the committed copy. -/
def Firefly.commit (f : Firefly) (region : BitVec 20) : Firefly :=
  match f.ctxOf region with
  | none => f
  | some i =>
    let c := f.ctxs[i]
    { f with ctxs := f.ctxs.set i { c with comm := c.work }, comm := c.copyCells f.cells f.comm }

/-- The abort of a region on a die: its commands go and the working copy returns to the committed copy, written anew. `mine`
says which commands are the region's. -/
def Firefly.abort (f : Firefly) (region : BitVec 20) (mine : Nat → Bool) : Firefly :=
  let f1 := { f with coming := f.coming.filter fun c => !mine c.tile, queue := f.queue.filter fun c => !mine c.tile }
  match f1.ctxOf region with
  | none => f1
  | some i =>
    let c := f1.ctxs[i]
    { f1 with
      ctxs := f1.ctxs.set i { c with work := c.comm }
      cells := c.copyCells f1.comm f1.cells
      bad := f1.bad.filter fun q => !((decide (q.1 = 0) && c.owns (256 * q.2)) || (decide (q.1 = 2) && decide (q.2 = i.val))) }

/-- A start instant of the region: the sweep index is 0, in both copies. -/
def Firefly.start (f : Firefly) (region : BitVec 20) : Firefly :=
  match f.ctxOf region with
  | none => f
  | some i =>
    let c := f.ctxs[i]
    { f with ctxs := f.ctxs.set i { c with work := { c.work with sweep := 0 }, comm := { c.comm with sweep := 0 } } }

/-- A context made valid: the state of R311 in both copies. -/
def Firefly.initCtx (f : Firefly) (i : Fin 16) : Firefly :=
  let c := f.ctxs[i]
  { f with
    ctxs := f.ctxs.set i { c with valid := true, work := FfConfig.reset, comm := FfConfig.reset }
    cells := f.cells.filter fun q => !c.owns q.1
    comm := f.comm.filter fun q => !c.owns q.1 }

/-- The rows of two contexts overlap (R309); a context of no rows overlaps none. -/
def FfContext.overlaps (c e : FfContext) : Bool :=
  decide (c.nrows ≠ 0) && decide (e.nrows ≠ 0) && decide (c.frow.toNat < e.frow.toNat + e.nrows.toNat) &&
    decide (e.frow.toNat < c.frow.toNat + c.nrows.toNat)

/-- Valid contexts never overlap, and lie within the 256 rows (R309, R334). R334 names a refusal for rows that overlap; that a write which takes
the rows of a valid context past row 255 is refused too is a DESIGN CHOICE (notes/assumptions/33.md). -/
def Firefly.disjoint (f : Firefly) : Bool :=
  (List.finRange 16).all fun i =>
    let c := f.ctxs[i]
    !c.valid || (decide (c.frow.toNat + c.nrows.toNat ≤ 256) &&
      (List.finRange 16).all fun j => decide (i = j) || !(f.ctxs[j]).valid || !c.overlaps f.ctxs[j])

/-! ## The die window (R333, R334) -/

/-- Every tile of a region with tiles on a module is quiescent, on its other modules too (R29, R333). -/
def State.regionQuiet (s : State) (m : Nat) (region : BitVec 20) : Bool :=
  (s.tiles.all fun q => decide (modOfTile q.1 ≠ m) || decide (q.2.region ≠ region) || q.2.quiescent) &&
    s.regions.all fun r => decide (r.id ≠ region) || !(r.parts.any fun p => decide (p.m = m)) ||
      r.tiles.all fun t => (s.tile t).quiescent

/-- Byte `i` of a number. -/
def byteAt (v i : Nat) : Byte := BitVec.ofNat 8 (v / 2 ^ (8 * i))

/-- A number with byte `i` replaced. -/
def putByteAt (v i : Nat) (b : Byte) : Nat := v - (byteAt v i).toNat * 2 ^ (8 * i) + b.toNat * 2 ^ (8 * i)

/-- One byte of a context block: the committed configuration (R334). -/
def FfContext.blockByte (c : FfContext) (o : Nat) : Byte :=
  let g := c.comm
  if o < 0x10 then byteAt g.key.toNat o
  else if o < 0x18 then byteAt g.beta.toNat (o - 0x10)
  else if o < 0x20 then byteAt (g.ent.toNat + g.cmask.toNat * 256) (o - 0x18)
  else if o < 0x28 then byteAt (c.frow.toNat + c.nrows.toNat * 256) (o - 0x20)
  else if o < 0x30 then byteAt c.gbase.toNat (o - 0x28)
  else if o < 0x38 then byteAt (g.sweep % 2 ^ 31) (o - 0x30)
  else if o < 0x40 then 0
  else if o < 0x48 then byteAt (c.region.toNat + c.valid.toNat * 2 ^ 63) (o - 0x40)
  else if 0x200 ≤ o ∧ o < 0x400 then
    BitVec.ofNat 8 ((List.range 8).foldl (fun v i => if g.ghosts.contains (8 * (o - 0x200) + i) then v + 2 ^ i else v) 0)
  else if 0x400 ≤ o ∧ o < 0xC00 then byteAt (g.entry ((o - 0x400) / 4)) (o % 4)
  else 0

/-- A change made to both copies of a configuration. -/
def FfContext.both (c : FfContext) (f : FfConfig → FfConfig) : FfContext := { c with work := f c.work, comm := f c.comm }

/-- The ghosts of one byte set to its bits. -/
def ghostByte (g : List Nat) (o : Nat) (b : Byte) : List Nat :=
  (List.range 8).foldl (fun g i => if bitOf b.toNat i then natInsert g (8 * o + i) else natErase g (8 * o + i)) g

/-- One byte of a context block written, in both copies; reserved bits are ignored (R3, R334). -/
def FfContext.setBlockByte (c : FfContext) (o : Nat) (b : Byte) : FfContext :=
  if o < 0x10 then c.both fun g => { g with key := BitVec.ofNat 128 (putByteAt g.key.toNat o b) }
  else if o < 0x12 then c.both fun g => { g with beta := BitVec.ofNat 16 (putByteAt g.beta.toNat (o - 0x10) b) }
  else if o = 0x18 then c.both fun g => { g with ent := bitOf b.toNat 0 }
  else if o = 0x19 then c.both fun g => { g with cmask := b }
  else if o = 0x20 then { c with frow := b }
  else if o = 0x21 ∨ o = 0x22 then { c with nrows := BitVec.ofNat 9 (putByteAt c.nrows.toNat (o - 0x21) b) }
  else if 0x28 ≤ o ∧ o < 0x2B then { c with gbase := BitVec.ofNat 20 (putByteAt c.gbase.toNat (o - 0x28) b) }
  else if 0x30 ≤ o ∧ o < 0x34 then c.both fun g => { g with sweep := putByteAt g.sweep (o - 0x30) b % 2 ^ 31 }
  else if 0x40 ≤ o ∧ o < 0x43 then { c with region := BitVec.ofNat 20 (putByteAt c.region.toNat (o - 0x40) b) }
  else if o = 0x47 then { c with valid := bitOf b.toNat 7 }
  else if 0x200 ≤ o ∧ o < 0x400 then c.both fun g => { g with ghosts := ghostByte g.ghosts (o - 0x200) b }
  else if 0x400 ≤ o ∧ o < 0xC00 then
    let j := (o - 0x400) / 4
    if j = 0 ∨ 511 ≤ j then c else c.both fun g => { g with sigt := kvSet g.sigt j (putByteAt (g.entry j) (o % 4) b % 2 ^ 17) }
  else c

/-- The SIGT entries among bytes `o` to `o + n - 1` of a block, once all those bytes are written: none exceeds 65,536, and one
at its reset value is not listed. R322 gives the minimum for `ffcfg.sigt`; that a window write stores 65,536 for a greater number too is the
model's choice, for R313 allows no other (DESIGN CHOICE, notes/assumptions/33.md). -/
def FfContext.capEntries (c : FfContext) (o n : Nat) : FfContext :=
  c.both fun g => (g.sigt.filter fun q => decide (o < 0x404 + 4 * q.1) && decide (0x400 + 4 * q.1 < o + n)).foldl
    (fun h q => h.setEntry q.1 q.2) g

/-- Context blocks lie at +0x1000 × n; the bytes `o` to `o + bs.length - 1` of one written (R334): what a write that changes
`VALID` does besides. -/
def Firefly.writeBlock (f : Firefly) (i : Fin 16) (o : Nat) (bs : List Byte) : Firefly :=
  let c := f.ctxs[i]
  let put (c : FfContext) : FfContext := (bs.zipIdx.foldl (fun c q => c.setBlockByte (o + q.2) q.1) c).capEntries o bs.length
  let c1 := put c
  if c1.valid && !c.valid then
    let f1 := { f with ctxs := f.ctxs.set i c1 }.initCtx i
    { f1 with ctxs := f1.ctxs.set i (put f1.ctxs[i]) }
  else { f with ctxs := f.ctxs.set i c1 }

/-- The write of a context block: none where it is refused (R333, R334). -/
def State.ffBlockWrite (s : State) (d off : Nat) (bs : List Byte) : Option State :=
  let ff := (s.die d).ff
  let i : Fin 16 := ⟨off / 0x1000 % 16, Nat.mod_lt _ (by decide)⟩
  let c := ff.ctxs[i]
  let f1 := ff.writeBlock i (off % 0x1000) bs
  if (c.valid && !s.regionQuiet (modOfDie d) c.region) || !f1.disjoint then none
  else some (s.modDie d fun x => { x with ff := f1 })

/-- One byte of the committed cells at an offset of the die window (R333). -/
def Firefly.cellByte (f : Firefly) (o : Nat) : Byte :=
  let cell (c : Nat) : Cell := kvGet Cell.reset f.comm c
  let bits (p : Cell → Bool) (o : Nat) : Byte :=
    BitVec.ofNat 8 ((List.range 8).foldl (fun v i => if p (cell (8 * o + i)) then v + 2 ^ i else v) 0)
  if 0x100000 ≤ o ∧ o < 0x102000 then bits (fun c => c.b) (o - 0x100000)
  else if 0x102000 ≤ o ∧ o < 0x104000 then bits (fun c => c.cen) (o - 0x102000)
  else if 0x104000 ≤ o ∧ o < 0x106000 then bits (fun c => c.cval) (o - 0x104000)
  else if 0x110000 ≤ o ∧ o < 0x120000 then BitVec.ofNat 8 (cell (o - 0x110000)).col.toNat
  else if 0x120000 ≤ o ∧ o < 0x140000 then byteAt (cell ((o - 0x120000) / 2)).bias.toNat (o % 2)
  else if 0x140000 ≤ o ∧ o < 0x160000 then byteAt (cell ((o - 0x140000) / 2)).cnt.toNat (o % 2)
  else if 0x180000 ≤ o ∧ o < 0x190000 then
    (f.ctxs[(o - 0x180000) / 0x1000 % 16]'(Nat.mod_lt _ (by decide))).blockByte (o % 0x1000)
  else if 0x200000 ≤ o ∧ o < 0x300000 then
    let c := 8192 * f.ewin.toNat + (o - 0x200000) / 128
    byteAt (kvGet 0 (cell c).edges (o % 128 / 4)) (o % 4)
  else 0

/-- The cells that a byte of the window shows. -/
def Firefly.cellsAt (f : Firefly) (o : Nat) : List Nat :=
  if 0x100000 ≤ o ∧ o < 0x106000 then (List.range 8).map fun i => 8 * (o % 0x2000) + i
  else if 0x110000 ≤ o ∧ o < 0x120000 then [o - 0x110000]
  else if 0x120000 ≤ o ∧ o < 0x160000 then [o % 0x20000 / 2]
  else if 0x200000 ≤ o ∧ o < 0x300000 then [8192 * f.ewin.toNat + (o - 0x200000) / 128]
  else []

/-- One cell changed by a write of the byte at offset `o`; for a byte of bits, cell `c` takes its own bit. -/
def Cell.setByte (x : Cell) (c o : Nat) (b : Byte) : Cell :=
  let bit := bitOf b.toNat (c % 8)
  if o < 0x102000 then { x with b := bit }
  else if o < 0x104000 then { x with cen := bit }
  else if o < 0x106000 then { x with cval := bit }
  else if o < 0x120000 then { x with col := BitVec.ofNat 3 b.toNat }
  else if o < 0x140000 then { x with bias := BitVec.ofNat 16 (putByteAt x.bias.toNat (o % 2) b) }
  else if o < 0x160000 then { x with cnt := BitVec.ofNat 16 (putByteAt x.cnt.toNat (o % 2) b) }
  else
    let slot := o % 128 / 4
    let e := edgeClean (putByteAt (kvGet 0 x.edges slot) (o % 4) b)
    { x with edges := if e = 0 then x.edges.filter fun q => decide (q.1 ≠ slot) else kvSet x.edges slot e }

/-- One byte of the cells written, in both copies. -/
def Firefly.setCellByte (f : Firefly) (o : Nat) (b : Byte) : Firefly :=
  (f.cellsAt o).foldl (fun f c =>
    { f with
      cells := kvSet f.cells c ((kvGet Cell.reset f.cells c).setByte c o b)
      comm := kvSet f.comm c ((kvGet Cell.reset f.comm c).setByte c o b) }) f

/-- A window write to the Firefly part of a die: none where it is refused (R333). -/
def State.ffWindowWrite (s : State) (d o : Nat) (bs : List Byte) : Option State :=
  if 0x180000 ≤ o ∧ o < 0x190000 then s.ffBlockWrite d (o - 0x180000) bs
  else
    let ff := (s.die d).ff
    let cs := (List.range bs.length).flatMap fun i => ff.cellsAt (o + i)
    let owned := (List.finRange 16).any fun i =>
      (ff.ctxs[i]).valid && !s.regionQuiet (modOfDie d) (ff.ctxs[i]).region && cs.any fun c => (ff.ctxs[i]).owns c
    if owned then none
    else some (s.modDie d fun x => { x with ff := bs.zipIdx.foldl (fun f q => f.setCellByte (o + q.2) q.1) x.ff })

/-- The on-chip address of an offset of die `d`'s window (R26). -/
def dieAddr (d off : Nat) : Nat := 0x400000000 + d % 16 * 2 ^ 24 + off

/-- FIREFLY_CONTEXT_BLOCK_WRITE (R28, R334): an access of 8 or 64 bytes, aligned, to the context blocks of a die. -/
def execFireflyContextBlockWrite (d off : Nat) (bytes : List Byte) (s : State) : Out :=
  let m := modOfDie d
  let addr := dieAddr d (0x180000 + off)
  if !(s.module m).alive then .next s
  else if (bytes.length = 8 ∨ bytes.length = 64) ∧ off % bytes.length = 0 ∧ off + bytes.length ≤ 0x10000 then
    match s.ffBlockWrite d off bytes with
    | some s1 => .next { s1 with outs := s1.outs ++ [.window m addr []] }
    | none => .next { s with outs := s.outs ++ [.nack m addr] }
  else .next { s with outs := s.outs ++ [.nack m addr] }

end Sys2Proof.Machine
end

