-- ==== Sys2Proof/Machine/Rcb.lean ====
section
/-! DEFINITION. Region control blocks, tile maps and page-fetch lists in HBM (R214, R389-R393), the budgets and the queue heads
that may start (R399), and which waiting head asks a region to hold (R400). -/

namespace Sys2Proof.Machine

/-! ## Reading an RCB (R389-R391) -/

/-- An 8-byte word of an RCB. -/
def State.rcbWord (s : State) (m pa off : Nat) : Nat := s.hbmNat m (pa + off) 8

/-- Bit `i` of `OVR`. -/
def State.rcbOvr (s : State) (m pa i : Nat) : Bool := bitOf (s.rcbWord m pa 0) (32 + i)

/-- The words of an RCB with the bits that hold fields; every other bit is reserved (R390). -/
def rcbMasks : List (Nat × Nat) :=
  [(0x00, 2 ^ 21 - 1 + (2 ^ 18 - 1) * 2 ^ 32), (0x08, 2 ^ 40 - 1), (0x10, 2 ^ 12 - 1), (0x18, 2 ^ 40 - 1),
   (0x20, 7 + (2 ^ 16 - 1) * 2 ^ 8 + (2 ^ 32 - 1) * 2 ^ 32), (0x28, 2 ^ 56 - 1), (0x30, 2 ^ 31 - 1), (0x38, 2 ^ 48 - 1),
   (0x40, 2 ^ 57 - 1), (0x48, 2 ^ 32 - 1), (0x50, 2 ^ 9 - 1 + (2 ^ 20 - 1) * 2 ^ 32), (0x58, 2 ^ 40 - 1), (0x60, 2 ^ 40 - 1),
   (0x68, 2 ^ 32 - 1), (0x70, 2 ^ 19 - 1), (0x78, 0)]

/-- A reserved bit of an RCB is 1. -/
def State.rcbReserved (s : State) (m pa : Nat) : Bool :=
  rcbMasks.any fun q => decide (s.rcbWord m pa q.1 &&& q.2 ≠ s.rcbWord m pa q.1)

/-- The chain of an RCB, leaf first, as far as 9 RCBs (R391). -/
def State.rcbChain (s : State) (m : Nat) : Nat → Nat → List Nat
  | 0, _ => []
  | fuel + 1, pa =>
    let parent := fld (s.rcbWord m pa 0x08) 0 40
    pa :: (if parent = 0 then [] else s.rcbChain m fuel parent)

/-- The defaults of a root (R390). -/
def rcbDefaults : RcbFields where
  space := 0
  prio := 4
  retry := 2
  slice := 1000
  tmo := 1000000
  guard := 200
  delta := 0
  vmask := 0
  ssn0 := 0
  btiles := 0
  bpower := 0
  bffrows := 0
  ffnrows := 0
  ffgbase := 0
  lport := 0

/-- One RCB's own fields over the values resolved for its parent (R391). -/
def State.rcbOver (s : State) (m : Nat) (f : RcbFields) (pa : Nat) : RcbFields :=
  let w (off : Nat) : Nat := s.rcbWord m pa off
  let pick (i old new : Nat) : Nat := if s.rcbOvr m pa i then new else old
  { space := pick 0 f.space (fld (w 0x10) 0 12)
    prio := pick 2 f.prio (fld (w 0x20) 0 3)
    retry := pick 4 f.retry (fld (w 0x20) 16 8)
    slice := pick 5 f.slice (fld (w 0x20) 32 32)
    tmo := pick 6 f.tmo (fld (w 0x28) 0 32)
    guard := pick 7 f.guard (fld (w 0x28) 32 16)
    delta := pick 8 f.delta (fld (w 0x28) 48 8)
    vmask := pick 9 f.vmask (fld (w 0x30) 0 31)
    ssn0 := pick 10 f.ssn0 (fld (w 0x38) 0 48)
    btiles := pick 11 f.btiles (fld (w 0x40) 0 32)
    bpower := pick 12 f.bpower (fld (w 0x40) 32 16)
    bffrows := pick 13 f.bffrows (fld (w 0x40) 48 9)
    ffnrows := pick 15 f.ffnrows (fld (w 0x50) 0 9)
    ffgbase := pick 16 f.ffgbase (fld (w 0x50) 32 20)
    lport := pick 17 f.lport (fld (w 0x58) 0 40) }

/-- The fields resolved at each RCB of a chain given leaf first; the answer too is leaf first (R391). -/
def State.rcbFields (s : State) (m : Nat) : List Nat → List RcbFields
  | [] => []
  | pa :: t =>
    let up := s.rcbFields m t
    s.rcbOver m (up.headD rcbDefaults) pa :: up

/-- Fields of the leaf that are never inherited. -/
def State.rcbRegion (s : State) (m pa : Nat) : BitVec 20 := BitVec.ofNat 20 (fld (s.rcbWord m pa 0) 0 20)
def State.rcbLeaf (s : State) (m pa : Nat) : Bool := bitOf (s.rcbWord m pa 0) 20
def State.rcbTmap (s : State) (m pa : Nat) : Nat := fld (s.rcbWord m pa 0x60) 0 40
def State.rcbNtiles (s : State) (m pa : Nat) : Nat := fld (s.rcbWord m pa 0x68) 0 32
def State.rcbNmod (s : State) (m pa : Nat) : Nat := Nat.max 1 (fld (s.rcbWord m pa 0x70) 0 19)

/-- The budgets a chain carries: PA, tiles, power, Firefly rows, each as resolved there. -/
def chainBudgets (l : List Nat) (f : List RcbFields) : List (Nat × Nat × Nat × Nat) :=
  (l.zip f).map fun q => (q.1, q.2.btiles, q.2.bpower, q.2.bffrows)

/-! ## Tile maps and page-fetch lists (R214, R392) -/

/-- The tile map entry at a PA. -/
def State.mapEntry (s : State) (m pa : Nat) : MapEntry :=
  let a := s.hbmNat m pa 8
  let b := s.hbmNat m (pa + 8) 8
  let c := s.hbmNat m (pa + 16) 8
  let d := s.hbmNat m (pa + 24) 8
  { tile := fld a 0 28, slot := fld a 28 6, smask := fld a 34 8, img := fld b 0 40, spc := fld c 0 21, hpc := fld c 21 21,
    xpc := fld c 42 21, imgLen := fld d 0 21, pfl := fld d 24 40 }

/-- The entries of the map of an RCB, as far as 1,025: a longer map names some tile twice. -/
def State.rcbMap (s : State) (m pa : Nat) : List MapEntry :=
  (List.range (Nat.min 1025 (s.rcbNtiles m pa))).map fun k => s.mapEntry m (s.rcbTmap m pa + 32 * k)

/-- The record of a page-fetch list entry's landing area (R214). -/
def pflRec (dest : Nat) : Rec := BitVec.ofNat 256 (dest + 128 * 2 ^ 64 + 16384 * 2 ^ 96)

/-- The entries of a page-fetch list, as far as its end entry or 257 entries; with the PA of each. -/
def State.pflEntries (s : State) (m : Nat) : Nat → Nat → List (Nat × PfEntry)
  | 0, _ => []
  | fuel + 1, pa =>
    let n := s.hbmNat m (pa + 8) 4
    if n = 0 then []
    else
      let e : PfEntry := ⟨0, s.hbmNat m pa 8, n, pflRec (fld (s.hbmNat m (pa + 12) 4) 0 21), fld (s.hbmNat m (pa + 16) 8) 0 6, []⟩
      (pa, e) :: s.pflEntries m fuel (pa + 32)

/-- The page-fetch list of a map entry. -/
def State.pflOf (s : State) (m : Nat) (e : MapEntry) : List (Nat × PfEntry) :=
  if e.pfl = 0 then [] else s.pflEntries m 257 e.pfl

/-- A landing area lies partly in a kept segment under `VMASK` (R205, R393). -/
def keptUnder (vmask : Nat) (l : List (Nat × Nat)) : Bool :=
  l.any fun p => (List.range ((p.1 + p.2 - 1) / 65536 + 1 - p.1 / 65536)).any fun i => !bitOf vmask (p.1 / 65536 + i)

/-- A page-fetch list entry fails a check of R205. -/
def badPfl (vmask : Nat) (e : PfEntry) : Bool :=
  let dest := recBase e.dst
  decide (Config.tmSize < dest + e.n) || decide (2 ^ 52 ≤ e.va + (e.n - 1)) || keptUnder vmask [(dest, e.n)]

/-! ## The checks of a launch (R393) -/

/-- The PA of the first uncorrectable word in a range of HBM. -/
def State.badPa (s : State) (m pa n : Nat) : Option Nat := (s.hbmBad m pa n).map fun w => 8 * w

/-- The first failing check of one map entry: the PA that the refusal names. Its reserved bits are ignored (R3, R392). -/
def State.mapCheck (s : State) (m vmask : Nat) (all : List MapEntry) (k pa : Nat) (e : MapEntry) : Option Nat :=
  let pcBad (p : Nat) : Bool := decide (p % 4 ≠ 0) || decide (Config.tmSize ≤ p)
  if (all.take k).any fun f => decide (f.tile = e.tile) then some pa
  else if modOfTile e.tile ≠ m ∨ (s.module m).deadTiles.contains e.tile then some pa
  else if Config.tmSize < e.imgLen ∨ pcBad e.spc ∨ pcBad e.hpc ∨ pcBad e.xpc then some pa
  else if e.pfl % 32 ≠ 0 ∨ e.img % 64 ≠ 0 then some pa
  else
    let l := s.pflOf m e
    match if e.pfl = 0 then none else s.badPa m e.pfl (32 * (Nat.min 256 l.length + 1)) with
    | some w => some w
    | none =>
      if 256 < l.length then some (e.pfl + 32 * 256)
      else
        match l.find? fun q => badPfl vmask q.2 with
        | some q => some q.1
        | none => s.badPa m e.img e.imgLen

/-- The first failing check of a map, entry by entry. -/
def State.mapChecks (s : State) (m vmask pa : Nat) (all : List MapEntry) : List (MapEntry × Nat) → Option Nat
  | [] => none
  | (e, k) :: t =>
    match s.badPa m (pa + 32 * k) 32 with
    | some w => some w
    | none =>
      match s.mapCheck m vmask all k (pa + 32 * k) e with
      | some w => some w
      | none => s.mapChecks m vmask pa all t

/-- The refusal of a launch (R393): the PA it names, or none where the launch may start. -/
def State.launchCheck (s : State) (m pa : Nat) : Option Nat :=
  let chain := s.rcbChain m 9 pa
  match chain.findSome? fun p => s.badPa m p 128 with
  | some w => some w
  | none =>
    if !s.rcbLeaf m pa ∨ 8 < chain.length then some pa
    else
      match chain.find? fun p => s.rcbReserved m p with
      | some p => some p
      | none =>
        let fs := s.rcbFields m chain
        let f := fs.headD rcbDefaults
        let tmap := s.rcbTmap m pa
        let least := (fs.filter fun g => decide (g.bffrows ≠ 0)).any fun g => decide (g.bffrows < f.ffnrows)
        if s.rcbNtiles m pa = 0 ∨ tmap % 32 ≠ 0 ∨ f.lport % 256 ≠ 0 ∨ 256 < f.ffnrows ∨ least then some pa
        else if s.regions.any fun r => decide (r.id = s.rcbRegion m pa) && r.parts.any fun p => decide (p.m = m) then some pa
        else
          let all := s.rcbMap m pa
          s.mapChecks m f.vmask tmap all all.zipIdx

/-! ## Budgets and queue heads (R399, R400) -/

/-- The regions that count against budgets on a module: started or held, not freed. -/
def State.counted (s : State) (m : Nat) : List (Region × Part) :=
  s.regions.flatMap fun r => if r.phase = .freed then [] else (r.parts.filter fun p => decide (p.m = m)).map fun p => (r, p)

/-- The tiles of a part on a die. -/
def Part.onDie (p : Part) (d : Nat) : Bool := p.tiles.any fun t => decide (dieOfTile t = d)

/-- Adding a leaf of `n` tiles on dies `ds` keeps every ancestor within its budgets (R399). -/
def State.inBudget (s : State) (m n : Nat) (f : RcbFields) (ds : List Nat) (ancestors : List (Nat × Nat × Nat × Nat)) : Bool :=
  ancestors.all fun a =>
    let under := (s.counted m).filter fun q => q.2.chain.any fun c => decide (c.1 = a.1)
    let tiles := under.foldl (fun k q => k + q.2.tiles.length) n
    let power := under.foldl (fun k q => k + q.1.fields.bpower) f.bpower
    (decide (a.2.1 = 0) || decide (tiles ≤ a.2.1)) && (decide (a.2.2.1 = 0) || decide (power ≤ a.2.2.1)) &&
      (decide (a.2.2.2 = 0) || ds.all fun d =>
        decide (under.foldl (fun k q => if q.2.onDie d then k + q.1.fields.ffnrows else k) f.ffnrows ≤ a.2.2.2))

/-- The first row of a run of `n` unallocated Firefly rows of a die, none of them fenced (R309, R418). -/
def Firefly.freeRows (ff : Firefly) (n : Nat) : Option Nat :=
  (List.range (257 - n)).find? fun r =>
    (!ff.fenced.any fun k => decide (r ≤ k) && decide (k < r + n)) && (List.finRange 16).all fun i =>
      !(ff.ctxs[i]).valid || decide (r + n ≤ (ff.ctxs[i]).frow.toNat) || decide ((ff.ctxs[i]).frow.toNat + (ff.ctxs[i]).nrows.toNat ≤ r)

/-- The lowest context of a die that is not valid. -/
def Firefly.freeCtx (ff : Firefly) : Option (Fin 16) := (List.finRange 16).find? fun i => !(ff.ctxs[i]).valid

/-- The dies of some tiles, in ascending order. -/
def diesOf (l : List Nat) : List Nat := l.foldl (fun ds t => natInsert ds (dieOfTile t)) []

/-- The head of a launch queue: its tiles, their number as its RCB has it, its resolved fields, the budgets of its ancestors (R399,
R400). -/
structure Head where
  tiles : List Nat
  ntiles : Nat
  fields : RcbFields
  ancestors : List (Nat × Nat × Nat × Nat)
  deriving DecidableEq, Repr, Inhabited

/-- The head that an RCB waiting in a queue is. -/
def State.headOf (s : State) (m pa : Nat) : Head :=
  let chain := s.rcbChain m 9 pa
  let fs := s.rcbFields m chain
  ⟨(s.rcbMap m pa).map fun e => e.tile, s.rcbNtiles m pa, fs.headD rcbDefaults, (chainBudgets chain fs).drop 1⟩

/-- The head that the pending resumption of a freed region is: its `TMAP` and `NTILES` are read again, its fields are those of its
launch (R391, R400, R406). What it reads of uncorrectable words is unspecified (R386). -/
def State.headOfFreed (s : State) (r : Region) (p : Part) : Head :=
  let v := s.seenHbm p.m
  ⟨(v.rcbMap p.m p.rcb).map fun e => e.tile, v.rcbNtiles p.m p.rcb, r.fields, p.chain.drop 1⟩

/-- The unallocated Firefly rows of a die (R399), but for fenced ones (R418). -/
def Firefly.unallocated (ff : Firefly) : Nat :=
  ((List.range 256).filter fun r =>
    !ff.fenced.contains r &&
      (List.finRange 16).all fun i =>
        !(ff.ctxs[i]).valid || decide (r < (ff.ctxs[i]).frow.toNat) || decide ((ff.ctxs[i]).frow.toNat + (ff.ctxs[i]).nrows.toNat ≤ r)).length

/-- The conditions of R399 on budgets and rows. -/
def State.roomFor (s : State) (m : Nat) (h : Head) : Bool :=
  let ds := diesOf h.tiles
  s.inBudget m h.ntiles h.fields ds h.ancestors && ds.all fun d => decide (h.fields.ffnrows ≤ (s.die d).ff.unallocated)

/-- A queue head is startable (R399). A tile that a `ctxld` is loading is taken as one of the image's region already (DESIGN CHOICE,
notes/assumptions/32.md). -/
def State.startable (s : State) (m pa : Nat) : Bool :=
  (s.headOf m pa).tiles.all (fun t => !(s.tile t).inReg && !s.copying t) && s.roomFor m (s.headOf m pa)

/-- The heads of a module's launch queues that wait: the first RCB of a queue that no region blocks, where its launch would
not be refused, and the pending resumption of a freed region (R400). -/
def State.heads (s : State) (m : Nat) : List Head :=
  (s.module m).queues.toList.filterMap fun q =>
    match q.cur with
    | none => (q.waiting.head?.filter fun pa => (s.launchCheck m pa).isNone).map fun pa => s.headOf m pa
    | some k =>
      (s.regions.find? fun r => decide (r.serial = k) && decide (r.phase = .freed)).bind fun r =>
        (r.parts.find? fun p => decide (p.m = m)).map fun p => s.headOfFreed r p

/-- The parts on a module of the freed regions whose pending resumptions head its queues. -/
def State.freedHeads (s : State) (m : Nat) : List Part :=
  (s.module m).queues.toList.filterMap fun q =>
    q.cur.bind fun k =>
      (s.regions.find? fun r => decide (r.serial = k) && decide (r.phase = .freed)).bind fun r => r.parts.find? fun p => decide (p.m = m)

/-- The state after the heads of a module's queues are read for R400: each uncorrectable word of `TMAP`, `NTILES` and the map of a pending
resumption is logged (R386). That they are read whenever a seal commit of a region on the module is decided is a DESIGN CHOICE
(notes/assumptions/50.md). -/
def State.noteHeads (s : State) (m : Nat) : State :=
  (s.freedHeads m).foldl (fun (q : State) p =>
    let v := s.seenHbm m
    (q.noteRead (16 * m) m (p.rcb + 0x60) 16).noteRead (16 * m) m (v.rcbTmap m p.rcb) (32 * Nat.min 1025 (v.rcbNtiles m p.rcb))) s

/-- A region is started: it runs supersteps. -/
def Region.running (r : Region) : Bool := decide (r.phase = .closing) || decide (r.phase = .sealing) || decide (r.phase = .restoring)

/-- Head `h` of module `m` waits only because some of its tiles belong to started regions, `r` among them (R400). -/
def State.waitsFor (s : State) (m : Nat) (h : Head) (r : Region) : Bool :=
  h.tiles.any (fun t => r.tiles.contains t) &&
    h.tiles.all (fun t => !(s.tile t).inReg || s.regions.any fun g => g.running && g.tiles.contains t) && s.roomFor m h

/-- R400: the seal commit of region `r` being decided is one at which a waiting head has it held. `done` counts the commits
since its last start, this one included. -/
def State.headHolds (s : State) (r : Region) (done : Nat) : Bool :=
  r.parts.any fun p =>
    (s.heads p.m).any fun h =>
      s.waitsFor p.m h r &&
        (decide (h.fields.prio < r.fields.prio) || (decide (h.fields.prio = r.fields.prio) && decide (r.fields.slice ≤ done)))

/-- The sizes in MiB of the delta stores of some modules' dies, as written (R218). -/
def State.deltaSizes (s : State) (ms : List Nat) : List (Nat × Nat) :=
  ms.foldl (fun l m => (List.range 16).foldl (fun l i => kvSet l (16 * m + i) (s.die (16 * m + i)).mc.hdsize.toNat) l) []

/-! ## Changes of a region, and its events (R402, R415) -/

/-- The region of a serial number. -/
def State.region? (s : State) (k : Nat) : Option Region := s.regions.find? fun r => decide (r.serial = k)

/-- A region changed. -/
def State.modRegion (s : State) (k : Nat) (f : Region → Region) : State :=
  { s with regions := s.regions.map fun r => if r.serial = k then f r else r }

/-- An EVENT of one module of a region (R415). -/
def State.emit (s : State) (m code : Nat) (r : Region) (ssn cause tile data : Nat) : State :=
  s.report m code r.id.toNat ssn cause tile data

/-- An EVENT of each module of a region (R402). -/
def State.emitAll (s : State) (r : Region) (code ssn cause tile : Nat) (data : Part → Nat) : State :=
  r.parts.foldl (fun s p => s.emit p.m code r ssn cause tile (data p)) s

end Sys2Proof.Machine
end

