-- ==== Sys2Proof/Machine/Spares.lean ====
section
/-! DEFINITION. Spares and fences (R331, R418, R419, R430): which are in use, `MSTAT`, the REPLACE event, and whether a failed
structure has a remedy left. -/

namespace Sys2Proof.Machine

/-- The `EN` bit of a spare's CSR. -/
def spareOn (v : W) : Bool := bitOf v.toNat 63

/-- The dies of a module. -/
def diesOfModule (m : Nat) : List Nat := (List.range 16).map fun i => 16 * m + i

/-- A count taken over the dies of a module. -/
def State.sumDies (s : State) (m : Nat) (f : Die → Nat) : Nat := (diesOfModule m).foldl (fun n d => n + f (s.die d)) 0

/-- Spare tiles in use on a die. -/
def Die.tileSpares (x : Die) : Nat := (x.ctl.tspare.toList.filter spareOn).length
/-- Firefly spare rows in use on a die. -/
def Die.ffSpares (x : Die) : Nat := (x.ff.spares.toList.filter spareOn).length
/-- Tile-memory spare rows in use on a die. -/
def Die.rowSpares (x : Die) : Nat := (x.ctl.rsprow.filter fun q => spareOn q.2).length

/-- Fenced ports, boundaries and tiles of a module (R430). -/
def Module.fenced (x : Module) : Nat := ((List.range 40).filter fun i => bitOf x.lfence.toNat i).length + x.deadTiles.length

/-- `MSTAT.REPLACE` (R419): a spare in use, a remap latched, or a structure fenced, a Firefly row too. -/
def State.replaceNow (s : State) (m : Nat) : Bool :=
  decide (s.sumDies m (fun x => x.tileSpares + x.ffSpares + x.rowSpares + x.mc.pprRemaps.length + x.ff.fenced.length) ≠ 0) || decide ((s.module m).fenced ≠ 0)

/-- `MSTAT` (R430). -/
def State.mstat (s : State) (m : Nat) : W :=
  BitVec.ofNat 64 ((s.replaceNow m).toNat + s.sumDies m Die.tileSpares % 128 * 2 + (s.module m).fenced % 256 * 2 ^ 8 +
    s.sumDies m Die.ffSpares % 256 * 2 ^ 16 + Nat.min 255 (s.sumDies m Die.rowSpares) * 2 ^ 24)

/-- The REPLACE event on a change of `MSTAT.REPLACE` from 0 to 1 (R419). -/
def State.noteReplace (s : State) (m : Nat) : State :=
  let now := s.replaceNow m
  let s1 := s.modModule m fun x => { x with replaceWas := now }
  if now && !(s.module m).replaceWas then s1.report m 8 0 0 0 0 (s1.mstat m).toNat else s1

/-- A spare row is left for a bank of a tile of a die: two a bank. -/
def DieCtl.rowLeft (c : DieCtl) (tile bank : Nat) : Bool :=
  (List.range 2).any fun i => !spareOn (kvGet 0 c.rsprow (tile % 64 + bank % 32 * 2 ^ 6 + i * 2 ^ 11))

/-- A spare tile is left on a die. -/
def DieCtl.tileLeft (c : DieCtl) : Bool := c.tspare.toList.any fun v => !spareOn v

/-- No spare is left for a structure of a tile that failed its test, so that the tile is fenced (R418). -/
def State.noRemedy (s : State) (t : Nat) (q : Nat × Nat × Nat) : Bool :=
  let c := (s.die (dieOfTile t)).ctl
  if q.1 = 0 then !c.rowLeft t q.2.1 && !c.tileLeft
  else if q.1 = 1 ∨ q.1 = 2 ∨ q.1 = 3 ∨ q.1 = 7 then !c.tileLeft
  else if q.1 = 4 ∧ q.2.1 = 0 then (s.die (dieOfTile t)).ff.spares.toList.all spareOn
  else false

/-- A tile fenced: marked dead, its data lost (R185, R418). -/
def State.fenceTile (s : State) (t : Nat) : State :=
  let m := modOfTile t
  ((s.modTile t fun tl => { tl with lost := true }).modModule m fun x => { x with deadTiles := natInsert x.deadTiles t }).noteReplace m

/-- A structure that no spare is left for is fenced (R418): a Firefly cell row is allocated no more, and the region that has it loses
its data; of any other structure, its tile is fenced. What fencing a cell row does is DEDUCED (notes/assumptions/26.md). -/
def State.fence (s : State) (t : Nat) (q : Nat × Nat × Nat) : State :=
  if q.1 = 4 then
    ((s.modTile t fun tl => { tl with lost := true }).modDie (dieOfTile t) fun x =>
      { x with ff := { x.ff with fenced := natInsert x.ff.fenced q.2.2 } }).noteReplace (modOfTile t)
  else s.fenceTile t

/-- After a spare of a die was taken: the structures that wait for one and find none left are fenced, in ascending logical tile
(R418). -/
def State.fenceLeft (s : State) (d : Nat) : State :=
  ((List.range 64).map fun i => 64 * d + i).foldl (fun s t =>
    (s.tile t).unspared.foldl (fun s q =>
      if s.noRemedy t q then (s.modTile t fun tl => { tl with unspared := tl.unspared.filter fun x => decide (x ≠ q) }).fence t q else s) s) s

end Sys2Proof.Machine
end

