-- ==== Sys2Proof/Machine/Barrier.lean ====
section
/-! DEFINITION. Quadrille at the tile (R165-R199): `sync` and `ssq`, the close and seal arrivals, release and start, the
rollback window, the stop, the shaping windows, and the arrival of deltas at their homes (R217). -/

namespace Sys2Proof.Machine

/-! ## sync and ssq (R171, R174) -/

/-- sync (R171): once the agent's outstanding work has completed, it contributes its vote and waits for the next start. It
counts as retired from here (DEDUCED, notes/assumptions/4.md). -/
def execSync (d a b : BitVec 5) (v : BitVec 2) (o : BitVec 3) (s : State) : Out :=
  s.onTile (wordOf (.sync d a b v o)) fun s =>
    s.release fun s =>
      let wrong := decide (b ≠ 0) && decide ((s.rx b).fld 0 48 ≠ (s.tile s.here).ssnum.toNat)
      let arg : SyncArg := ⟨d, decide (v = 1) || wrong, o.toNat, s.rx a⟩
      .next (((s.endStreams s.turn).modMe fun g => { g with st := .synced, sync := some arg }).retire s.turn)

/-- How many clk pod time is ahead of the clk in module `m` (R198, R424). -/
def State.podAhead (s : State) (m : Nat) : Int := 4 * ((s.module m).podAdj - ((s.module m).resetClk / 4 : Nat))

/-- Pod time in ns at a clk, by the clock of module `m` (R198, R424). -/
def State.podTime (s : State) (m clk : Nat) : W := BitVec.ofInt 64 (((clk : Int) + s.podAhead m) / 4)

/-- ssq.num (R174). -/
def execSsqNum (d : BitVec 5) (s : State) : Out :=
  s.onTile (wordOf (.ssqNum d)) fun s => s.doneX d ((s.tile s.here).ssnum.setWidth 64)

/-- ssq.out (R174). -/
def execSsqOut (d : BitVec 5) (s : State) : Out :=
  s.onTile (wordOf (.ssqOut d)) fun s =>
    let tl := s.tile s.here
    s.doneX d (BitVec.ofNat 64 (tl.outKind + tl.outCause * 2 ^ 8 + tl.outTile * 2 ^ 16))

/-- ssq.red (R174). -/
def execSsqRed (d : BitVec 5) (s : State) : Out :=
  s.onTile (wordOf (.ssqRed d)) fun s => s.doneX d (s.tile s.here).red

/-- ssq.try (R174). -/
def execSsqTry (d : BitVec 5) (s : State) : Out :=
  s.onTile (wordOf (.ssqTry d)) fun s => s.doneX d (BitVec.ofNat 64 (s.tile s.here).tryN)

/-- ssq.rel (R174): the nominal start instant T_rel + SLOT × Δ, in pod time, as fixed at the release. -/
def execSsqRel (d : BitVec 5) (s : State) : Out :=
  s.onTile (wordOf (.ssqRel d)) fun s => s.doneX d (s.tile s.here).startPod

/-! ## Arrivals (R168, R169, R172, R173) -/

/-- The identity of a reduction operator (R173). -/
def redIdentity (op : Nat) : W :=
  if op = 1 then BitVec.ofNat 64 (2 ^ 63 - 1) else if op = 2 then BitVec.ofNat 64 (2 ^ 63)
  else if op = 4 then BitVec.allOnes 64 else 0

/-- A reduction operator (R173). -/
def redOp (op : Nat) (x y : W) : W :=
  if op = 0 then x + y
  else if op = 1 then (if y.toInt < x.toInt then y else x)
  else if op = 2 then (if x.toInt < y.toInt then y else x)
  else if op = 3 then (if x.toNat < y.toNat then y else x)
  else if op = 4 then x &&& y
  else if op = 5 then x ||| y
  else x ^^^ y

/-- What the agents of a tile contributed at `sync`. -/
def Tile.syncs (tl : Tile) : List SyncArg := tl.cur.agents.toList.filterMap fun g => if g.st = .synced then g.sync else none

/-- The causes an aborting tile votes with: those it recorded, those of halted agents, those still pending for an agent that has halted or
synced since, and 0x16 for an abort vote or different operators (R119, R120, R171, R172). -/
def Tile.causes (tl : Tile) : List Nat :=
  let ops := tl.syncs.map fun a => a.op
  (tl.recorded.map fun r => r.code) ++ (tl.cur.agents.toList.filterMap fun g => if g.st = .halt then g.escalated else none) ++
    (tl.cur.agents.toList.filterMap fun g => if g.st = .halt ∨ g.st = .synced then g.deferred.map fun p => p.code else none) ++
    (if tl.syncs.any (fun a => a.abort) || ops.any (fun o => decide (some o ≠ ops.head?)) then [0x16] else [])

/-- The cause that ranks first (R168). -/
def firstCause : List Nat → Nat
  | [] => 0
  | c :: t => if t.isEmpty || decide (causeRank c ≤ causeRank (firstCause t)) then c else firstCause t

/-- Every agent of the tile has ended. -/
def Tile.allEnded (tl : Tile) : Bool := tl.cur.agents.toList.all fun g => decide (g.st = .free)

/-- The arrival conditions of R172, but for the Firefly commands. -/
def Tile.mayArrive (tl : Tile) : Bool :=
  tl.cur.agents.toList.all (fun g => decide (g.st = .free) || decide (g.st = .synced) || decide (g.st = .halt)) &&
    tl.haulQ.isEmpty && tl.haulStore.isEmpty && tl.shapeQ.isEmpty && tl.matQ.isEmpty

/-- The close arrival of tile `t` of region `r` (R172, R173). -/
def Tile.closeUp (tl : Tile) (t serial : Nat) : Up :=
  let op := tl.syncs.head?.map fun a => a.op
  { kind := 0, region := serial, ssn := tl.ssnum, abort := !tl.causes.isEmpty, cause := firstCause tl.causes, op := op,
    operand := tl.syncs.foldl (fun x a => redOp (op.getD 0) x a.operand) (redIdentity (op.getD 0)),
    tile := t, src := t, ended := tl.allEnded, lost := false }

/-- The die of the port that carries a module's barrier packets. -/
def podPort (m : Nat) : Nat := Config.podPort m % 16

/-- The scale-out link that carries a module's barrier packets is up (R437). -/
def State.podUp (s : State) (m : Nat) : Bool := (s.port (16 * m + podPort m) false).up

/-- The module at the other end of a module's barrier packets: the first other one of the region. -/
def Region.peerOf (r : Region) (m : Nat) : Nat := ((r.parts.map fun p => p.m).filter fun k => decide (k ≠ m)).headD 0

/-- A barrier packet of region `r` that concerns tile `t` meets a failed link: the tile records cause 0x14 against the port (R437). -/
def State.podFailed (s : State) (r : Region) (t : Nat) : State :=
  s.recordError t 0x14 5 (podPort (modOfTile t)) (r.peerOf (modOfTile t) % 4096)

/-- A packet of tile `t` leaves for the root. One of a region on several modules needs the scale-out link that carries the barrier
packets of its module; where that is not up, it meets a failed link and is lost (R437). The pod does not forward to or from a
module declared dead (R358), and a module that has tripped sends nothing (R425). -/
def State.sendUp (s : State) (t : Nat) (r : Region) (u : Up) : State :=
  if (s.module (modOfTile t)).alive = false then s
  else if 1 < r.nmod ∧ (s.module (modOfTile t)).podDead = true then s
  else if 1 < r.nmod ∧ s.podUp (modOfTile t) = false then s.podFailed r t
  else { s with up := s.up ++ [u] }

/-- The Firefly commands of a tile are abandoned (R169, R182). -/
def State.dropFf (s : State) (t : Nat) : State :=
  s.modDie (dieOfTile t) fun x => { x with ff := { x.ff with
    coming := x.ff.coming.filter fun c => decide (c.tile ≠ t), queue := x.ff.queue.filter fun c => decide (c.tile ≠ t) } }

/-- TILE_CLOSE_ARRIVAL (R169, R172, R173): a tile with a recorded cause 0x13 or 0x14 stops and votes abort; another arrives
when its conditions hold. -/
def execTileCloseArrival (t : Nat) (s : State) : Out :=
  let tl := s.tile t
  match s.regionOf t with
  | none => .next s
  | some r =>
    if tl.node ≠ .run then .next s
    else if tl.stopping then
      .next (((s.setTile t { tl with node := .arrived }).dropFf t).sendUp t r (tl.closeUp t r.serial))
    else if tl.mayArrive && !s.ffBusy t then
      .next ((s.setTile t { tl with node := .arrived }).sendUp t r (tl.closeUp t r.serial))
    else .next s

/-- Remote data may still land in tile `t`: flits and transfers on their way, and sends to it that have not left. -/
def State.incoming (s : State) (t : Nat) : Bool :=
  (s.flits.any fun f => decide (f.dst = t)) || (s.xfers.any fun f => decide (f.dst = t)) ||
    s.tiles.any fun q =>
      (decide (q.2.node = .arrived) || decide (q.2.node = .exch)) &&
        ((q.2.xsched.any fun e => e.send && decide (e.peer = t) && !e.late && decide (e.moved.length < flitsOf e.n)) ||
          (q.2.col.any fun e => e.send && decide (e.peer = t) && decide (e.status ≠ .done)))

/-- The exchange phase of a tile is over: its scheduled exchange, its collective streams, its offers, and the acknowledgements
of its deltas (R169, R217, R295, R302, R347). -/
def Tile.exchangeDone (tl : Tile) : Bool :=
  tl.xEnded && (tl.col.all fun e => decide (e.status = .done)) &&
    (List.range tl.cur.outbox.length).all (fun e => tl.offered.contains e) && tl.deltas.all fun d => d.acked

/-- SEAL_ARRIVAL_SEND (R169, R347): the exchange phase is over, or the tile has recorded cause 0x14. -/
def execSealArrivalSend (t : Nat) (s : State) : Out :=
  let tl := s.tile t
  match s.regionOf t with
  | none => .next s
  | some r =>
    let codes := tl.recorded.map fun c => c.code
    if tl.node ≠ .exch || (!codes.contains 0x14 && (!tl.exchangeDone || s.incoming t)) then .next s
    else
      let u : Up := { kind := 1, region := r.serial, ssn := tl.ssnum, abort := !codes.isEmpty, cause := firstCause codes, op := none,
                      operand := 0, tile := t, src := t, ended := false, lost := false }
      .next ((s.setTile t { tl with node := .seal }).sendUp t r u)

/-! ## Deltas at their homes (R217, R218) -/

/-- The bytes of a home's delta store that a delta uses. -/
def Delta.room (d : Delta) : Nat := 128 * ((d.pa + d.bytes.length - 1) / 64 + 1 - d.pa / 64)

/-- The bytes used in the delta store of die `d`. -/
def State.deltaUse (s : State) (d : Nat) : Nat :=
  s.tiles.foldl (fun n q =>
    if modOfTile q.1 = modOfDie d then
      n + ((q.2.deltas.filter fun x => x.acked && decide (x.home = d % 16)).foldl (fun k x => k + x.room) 0)
    else n) 0

/-- The size in MiB of the delta store of die `d` in force for the region of tile `t` (R218). -/
def State.deltaSize (s : State) (t d : Nat) : Nat :=
  match s.regionOf t with
  | some r => kvGet 256 r.hdEff d
  | none => 256

/-- DELTA_ARRIVAL (R217): a delta reaches its home, which holds and acknowledges it; or refuses it, and the tile records cause
0x0A for the seal vote. When it reaches it is open; in this model it does so after the tile's close arrival (DESIGN CHOICE,
notes/assumptions/48.md). -/
def execDeltaArrival (t e : Nat) (s : State) : Out :=
  let tl := s.tile t
  match tl.deltas[e]? with
  | none => .next s
  | some x =>
    if x.acked || (decide (tl.node ≠ .arrived) && decide (tl.node ≠ .exch)) then .next s
    else
      let d := 16 * modOfTile t + x.home
      if s.deltaUse d + x.room ≤ s.deltaSize t d * 2 ^ 20 then
        .next (s.setTile t { tl with deltas := tl.deltas.set e { x with acked := true } })
      else .next (s.setTile t ({ tl with deltas := tl.deltas.eraseIdx e }.record ⟨0x0A, none⟩))

/-! ## Release and start (R177, R188-R190, R211, R212) -/

/-- Accumulators that are held and not pinned. -/
def AccState.unpinned : AccState → Bool
  | .held _ p => !p
  | .free => false

/-- The tile's part of a commit: version-store lines released, unpinned accumulators freed at the start, shadows taken (R177,
R266). The shadow holds them free already; the count of stochastic `squant`s starts at 0 in each superstep (R45). -/
def Tile.commitTile (tl : Tile) (ssn : BitVec 48) : Tile :=
  let cur := { tl.cur with srCount := 0 }
  { tl with vs := [], cur := cur, shadow := cur.freeAccs AccState.unpinned, ssnum := ssn, slotsLoaded := [], slotsSet := [] }

/-- RELEASE (R169, R177, R189, R190): after a commit the tile takes its shadows; in both cases it waits for its start
instant. -/
def execRelease (t : Nat) (s : State) : Out :=
  match s.downOf t 1, s.regionOf t with
  | some p, some r =>
    let tl := s.tile t
    let tl0 := { tl with down := tl.down.drop 1 }
    let start := p.instant + tl.slot.toNat * r.fields.delta * 4
    let pod := s.podTime (modOfTile t) start
    let late (s : State) : State := if start < s.clk then s.countLate t else s
    if p.phase = 0 ∧ (tl.node = .seal ∨ tl.node = .relwait) then
      .next (late (s.setTile t { tl0.commitTile p.ssn with
        vsHeld := tl.vs.length, node := .relwait, red := p.result, outKind := 0, tryN := 0, startAt := some start, startPod := pod, fresh := true }))
    else if p.phase = 1 ∧ tl.node = .hold then
      .next (late (s.setTile t { tl0 with node := .relwait, tryN := r.tryN, startAt := some start, startPod := pod, fresh := false }))
    else .next (s.setTile t tl0)
  | some _, none => .next (s.modTile t fun tl => { tl with down := tl.down.drop 1 })
  | _, _ => .next s

/-- An agent at a start instant: a synced one completes its `sync`, with the result; the starting state of a launch writes
nothing (R171, R395). -/
def Agent.atStart (g : Agent) (a : Fin 10) (red : W) (clk : Nat) : Agent :=
  match g.st with
  | .synced =>
    let g1 := { g with st := wakeState a, sync := none, heldFrom := clk }
    match g.sync with
    | some x => { g1.wx x.d red with pc := g.pc + 4 }
    | none => g1
  | _ => g

/-- The context of a strand started by a spawn request (R304): the fields of the request's 64 bytes, its arguments in `x3`-`x6`
(R84). -/
def childOfRequest (bs : List Byte) : Agent :=
  let w (i : Nat) : W := BitVec.ofNat 64 (leNat ((bs.drop (8 * i)).take 8))
  { Agent.reset with
    st := .ready
    pc := BitVec.ofNat 64 ((w 0).fld 0 21 / 4 * 4)
    x := (((Agent.reset.x.set 3 (w 1)).set 4 (w 2)).set 5 (w 3)).set 6 (w 4)
    prio := BitVec.ofNat 3 ((w 5).fld 0 3)
    tvec := w 6 }

/-- The spawn requests taken at the commit start their strands, each in the lowest FREE slot (R304). -/
def Tile.startSpawns (tl : Tile) (clk : Nat) : List OutEntry → Tile
  | [] => tl
  | e :: rest =>
    match tl.freeSlot with
    | some i => (tl.setAgent i { childOfRequest e.data with heldFrom := clk }).startSpawns clk rest
    | none => tl.startSpawns clk rest

/-- The overlap of two ranges. -/
def meet (p q : Nat × Nat) : Option (Nat × Nat) :=
  let lo := Nat.max p.1 q.1
  let hi := Nat.min (p.1 + p.2) (q.1 + q.2)
  if lo < hi then some (lo, hi - lo) else none

/-- The bytes that two lists of ranges share. -/
def meets (l m : List (Nat × Nat)) : List (Nat × Nat) := l.flatMap fun p => m.filterMap fun q => meet p q

/-- The bytes in the landing areas of two entries of a list, or named twice by one entry (R212 rule 4). -/
def pfTwice (l : List PfEntry) : List (Nat × Nat) :=
  let areas := l.zipIdx.map fun q => (runsOf q.1.dst 0 q.1.n, q.2)
  areas.flatMap fun q =>
    ((areas.filter fun r => decide (q.2 < r.2)).flatMap fun r => meets q.1 r.1) ++
      (q.1.zipIdx.flatMap fun p => meets [p.1] ((q.1.take p.2)))

/-- The landing bytes that are unspecified at the start (R212): written by another than their own fetch since the `stage`, or
in two landing areas, or named twice by one. -/
def Tile.spoiled (tl : Tile) : List (Nat × Nat) :=
  (tl.pfNext.zipIdx.flatMap fun q =>
    meets (runsOf q.1.dst 0 q.1.n) ((tl.dirty.filter fun d => decide (q.2 < d.2.2)).map fun d => (d.1, d.2.1))) ++ pfTwice tl.pfNext

/-- Ranges of tile memory that become unspecified, as free values number `k` (R2). -/
def Tile.forgetAll (tl : Tile) (k : Nat) (l : List (Nat × Nat)) : Tile :=
  { tl with tm := l.foldl (fun m p => m.forget p.1 p.2 k) tl.tm }

/-- What every start instant does to the tile (R169, R189, R288): agents go on, what was built for the last superstep is
empty, the tile's limits are those in force now. -/
def Tile.start (tl : Tile) (clk : Nat) (shape : BitVec 48) (limit : Nat) (lk : LinkCtl) : Tile :=
  let cur := { tl.cur with
    agents := Vector.ofFn fun a : Fin 10 => (tl.cur.agents[a]).atStart a tl.red clk }
  { { tl with cur := cur }.startSpawns clk tl.spawns with
    node := .run, issueSlot := .free 0, vmaskEff := tl.cur.vmask, recorded := [], stopping := false, deltas := [], dirty := [], pfNext := [],
    xsched := [], xStart := none, xEnded := false, offered := [], col := [], routes := [], tests := [], lost := false,
    vsHeld := 0, mshWin := 0, mshCnt := 0, startClk := clk, shapeEff := shape, limit := limit, olds := [], reads := [], held := [], ffOpen := [],
    ctmoEff := lk.ctmo, cbEff := lk.cbsize, olcfgEff := lk.olcfg, launching := false }

/-- The limit the power controller sets a tile: the smaller of the module's and its region's (R420, R421). -/
def State.powerLimit (s : State) (t : Nat) : Nat :=
  let m := s.module (modOfTile t)
  match s.regionOf t with
  | some r => Nat.min m.caplim.toNat (kvGet 255 m.regLim r.serial)
  | none => m.caplim.toNat

/-- No other tile of the region of tile `t` on its die has started in this superstep yet: the start instant of the region there
(R314). -/
def State.firstToStart (s : State) (t : Nat) : Bool :=
  match s.regionOf t with
  | none => true
  | some r => r.tiles.all fun u =>
      decide (u = t) || decide (dieOfTile u ≠ dieOfTile t) ||
        (decide ((s.tile u).node ≠ .run) && decide ((s.tile u).node ≠ .arrived))

/-- The shadow is what stands now: a window write after the release is of the superstep that starts, and a rollback restores the values in force
at the start (R93, R101, R179; DEDUCED, notes/assumptions/27.md). -/
def Tile.shadowed (tl : Tile) : Tile := { tl with shadow := tl.cur }

/-- START_INSTANT (R169, R189, R211, R212, R266, R304, R314): the tile's compute phase begins. -/
def execStartInstant (t : Nat) (s : State) : Out :=
  let tl := s.tile t
  if tl.node ≠ .relwait ∨ (tl.startAt.any fun k => decide (k ≤ s.clk)) = false then .next s
  else
    let d := s.die (dieOfTile t)
    let tl1 := (if tl.fresh then { tl.forgetAll s.free tl.spoiled with pfServe := tl.pfNext, cur := tl.cur.freeAccs AccState.unpinned }
      else tl).shadowed
    let s1 := { s with free := s.free + 1 }.setTile t (tl1.start s.clk d.qd.shape (s.powerLimit t) d.lk)
    .next (if s.firstToStart t then s1.modDie (dieOfTile t) fun x => { x with ff := x.ff.start tl.region } else s1)

/-! ## Rollback (R182-R186) -/

/-- One version-store line written back (R182): its line's code words stand as they stood. The data of an uncorrectable line is
lost, and the line it undoes unspecified, as free values number `k` (R183). -/
def Tile.undo (tl : Tile) (k : Nat) (v : VsLine) : Tile :=
  if v.err then
    if v.acc then { tl with acc := tl.acc.forget (64 * v.line) 64 (k + 2) } else { tl with tm := tl.tm.forget (64 * v.line) 64 k }
  else if v.acc then
    { tl with acc := tl.acc.write (64 * v.line) v.old,
              badAcc := v.bad.foldl natInsert (badAfter 16 tl.badAcc (64 * v.line) 64) }
  else
    { tl with tm := tl.tm.write (64 * v.line) v.old,
              bad := v.bad.foldl natInsert (badAfter 16 tl.bad (64 * v.line) 64),
              poison := v.poison.foldl natInsert (badAfter 16 tl.poison (64 * v.line) 64) }

/-- Bytes written by a patch or a refetch: not versioned, with fresh codes (R213, R432). -/
def Tile.poke (tl : Tile) (a : Nat) (bs : List Byte) : Tile :=
  { tl with tm := tl.tm.write a bs, bad := badAfter 16 tl.bad a bs.length, poison := badAfter 16 tl.poison a bs.length }

/-- Bytes laid over the runs of a record by a patch or a refetch. -/
def Tile.pokeRuns (tl : Tile) (l : List (Nat × List Byte)) : Tile := l.foldl (fun tl p => tl.poke p.1 p.2) tl

/-- `n` bytes of HBM at `pa` reach data bytes `j` on of a landing area of tile `t`, those of bad words as poison (R213, R184,
R434). -/
def State.land (s : State) (t : Nat) (dst : Rec) (j pa n : Nat) : State :=
  let m := modOfTile t
  let s1 := s.logBad (dieOfTile t) m pa n
  s1.modTile t fun tl =>
    (tl.pokeRuns (layRuns (runsOf dst j n) (s1.hbm m pa n))).poisonRuns (poisoned (s1.module m).badHbm dst j pa n)

/-- The serving list of tile `t` fetched again (R184); landing bytes that are not volatile, or that two fetches write, are
unspecified (R212), and so are those of a chunk that a changed `CURSOR` had skipped (R374, notes/assumptions/18.md). -/
def State.refetch (s : State) (t : Nat) : State :=
  let s1 := (s.tile t).pfServe.foldl (fun s e =>
    let s1 := e.pas.foldl (fun s c => s.land t e.dst c.1 c.2.2 c.2.1) s
    s1.modTile t fun tl0 =>
      let tl := { tl0 with bad := tl0.bad.filter fun w => !coversWord (runsOf e.dst 0 e.n) w }
      let kept := ((List.range 31).filter fun i => tl.kept i).map fun i => (65536 * i, 65536)
      tl.forgetAll s1.free (meets (runsOf e.dst 0 e.n) kept)) { s with free := s.free + 1 }
  s1.modTile t fun tl => tl.forgetAll s1.free (pfTwice tl.pfServe)

/-- A tile that an abort meets before the start instant of a new superstep: the list that serves it, the volatile segments and the shadow
are those of the superstep that is aborted (R93, R211). -/
def Tile.entering (tl : Tile) : Tile :=
  if tl.node = .relwait ∧ tl.fresh = true then
    { tl with pfServe := tl.pfNext, vmaskEff := tl.cur.vmask, shadow := tl.cur.freeAccs AccState.unpinned }
  else tl

/-- The structures a tile recorded cause 0x13 or 0x14 against, in the order of their tests (R182); a path within one die has
none (R356). -/
def testsOf (l : List Recorded) : List (Nat × Nat × Nat) :=
  let key (q : Nat × Nat × Nat) : Nat := (q.1 * 2 ^ 16 + q.2.1) * 2 ^ 16 + q.2.2
  let rec insert (q : Nat × Nat × Nat) : List (Nat × Nat × Nat) → List (Nat × Nat × Nat)
    | [] => [q]
    | x :: t => if key x < key q then x :: insert q t else q :: x :: t
  ((l.filterMap fun r => r.unit).filter fun q => !(decide (q.1 = 6) && decide (q.2.1 = 31))).foldl (fun l q => insert q l) []

/-- An unspecified descriptor of slot `n`, as free values number `k` (R180). -/
def SlotDesc.any (k n : Nat) : SlotDesc :=
  let b := (Config.freeBits 97 (16 * k + n)).toNat
  { image := if bitOf b 96 then some ⟨fld b 0 4, fld b 4 1, fld b 8 2, fld b 16 32, fld b 48 16⟩ else none
    cont := bitOf b 95
    scale := BitVec.ofNat 8 (fld b 64 8)
    cols := (List.range 512).map fun i => Config.freeByte k (2 ^ 23 + 512 * n + i) }

/-- The tile after steps 1 to 3 of R182: everything of the attempt is gone, the version store and the shadows are back, and
the volatile segments and the slots loaded in the attempt are unspecified, with their descriptors and those that an `mwld` changed which
did not start (R180, R184, R240; DEDUCED, notes/assumptions/27.md). `k` and the two
numbers after it number the free values. -/
def Tile.rollBack (tl : Tile) (k : Nat) : Tile :=
  let tl1 := tl.vs.foldl (fun tl v => tl.undo k v) tl
  let vol := ((List.range 31).filter fun i => !tl.kept i).map fun i => (65536 * i, 65536)
  { tl1.forgetAll k vol with
    cur := tl.shadow
    vs := [], vsHeld := 0
    lost := tl.lost || tl.vs.any fun v => v.err
    slotMem := tl.slotsLoaded.foldl (fun m i => m.forget (16384 * i) 16384 (k + 1)) tl.slotMem
    slotDesc := Vector.ofFn fun i : Fin 16 => if (tl.slotsLoaded ++ tl.slotsSet).contains i.val then SlotDesc.any k i.val else tl.slotDesc[i]
    slotsLoaded := []
    slotsSet := []
    olds := [], reads := [], held := [], ffOpen := []
    haulQ := [], haulStore := [], shapeQ := [], matQ := [], arrayUntil := 0
    deltas := [], dirty := [], pfNext := []
    xsched := [], xStart := none, xEnded := false, offered := [], col := [], routes := []
    badMb := tl.badMb.filter fun q => decide (q.1 ≠ 4)
    tests := testsOf tl.recorded, recorded := [], stopping := false }

/-- A version-store line that is uncorrectable when the rollback reads it: its data is lost, and the tile records the loss against
the version store (R183, R199). -/
def State.loseLines (s : State) (t : Nat) : State :=
  match (s.tile t).vs.zipIdx.find? fun q => q.1.err with
  | some q => s.recordError t 0x13 1 (q.2 / 256) (q.2 % 256)
  | none => s

/-- The attempt of tile `t` of region `r` is undone, by steps 1 to 4 of R182 (R329, R370): what its engines held and what was on its way to
it or from it is gone, and its landing areas are fetched again (R184). -/
def State.undoAttempt (s : State) (t : Nat) (r : Region) : State :=
  let mine (u : Nat) : Bool := r.tiles.contains u
  let s1 := (List.range 10).foldl (fun s a => s.gldGone t a) s
  let s2 := s1.modDie (dieOfTile t) fun x => { x with ff := x.ff.abort r.id mine }
  let s3 := { s2.loseLines t with
    flits := s2.flits.filter fun f => decide (f.src ≠ t) && decide (f.dst ≠ t)
    xfers := s2.xfers.filter fun f => decide (f.src ≠ t) && decide (f.dst ≠ t)
    free := s2.free + 3 }
  (s3.modTile t fun tl => tl.entering.rollBack s2.free).refetch t

/-- ABORT (R169, R182-R186, R329, R375): the tile stops and runs its rollback window; in ROLLBACK or HOLD nothing happens. -/
def execAbort (t : Nat) (s : State) : Out :=
  match s.downOf t 2 with
  | none => .next s
  | some p =>
    let s0 := s.modTile t fun tl => { tl with down := tl.down.drop 1 }
    match s.regionOf t, (s.tile t).node with
    | some r, .run | some r, .arrived | some r, .exch | some r, .seal | some r, .relwait =>
      .next (((s0.voidRecords t).undoAttempt t r).modTile t fun tl => { tl with
        node := .rollback, outKind := p.phase + 1, outCause := p.cause, outTile := p.tile })
    | _, _ => .next s0

/-- Whether the failing word of a tested structure still reads uncorrectable (R185): unit, bank, row. -/
def Tile.stillBad (tl : Tile) (q : Nat × Nat × Nat) : Bool :=
  if q.1 = 0 then tl.bad.contains (31 * q.2.2 + q.2.1)
  else if q.1 = 2 then tl.badAcc.any fun w => decide (w / 512 = q.2.1) && decide (w % 512 / 4 = q.2.2)
  else if q.1 = 3 then tl.badSlot.any fun w => decide (w / 1024 = q.2.1) && decide (w % 1024 / 4 = q.2.2)
  else if q.1 = 7 then tl.badMb.contains (q.2.1, q.2.2)
  else false

/-- The links on a boundary whose self-test passed resume: their numbers start again at 0 in both directions, and what was kept for
replay or on its way is gone (R357). -/
def State.renewLinks (s : State) (m n : Nat) : State :=
  let l := endsOf m n
  let s1 := l.foldl (fun s q => s.modLink q.1 q.2 fun p => { p with up := true, nextSeq := 0, expected := 0, kept := [] }) s
  { s1 with wires := s1.wires.filter fun w => !l.contains (w.die, w.side) }

/-- TARGETED_SELF_TEST_END (R185, R198, R357): the first test of the tile's window ends. `pass` is the test's outcome, `scrub`
that of the scrub read. A failed structure waits for its remedy, or, where none is left, its tile is fenced; a link that passes
starts its numbers again and retrains (R437); a noise source that passes is healthy (R316, R330). -/
def execTargetedSelfTestEnd (t : Nat) (pass scrub : Bool) (s : State) : Out :=
  let tl := s.tile t
  match tl.node, tl.tests with
  | .rollback, q :: rest =>
    let s1 := s.modDie (dieOfTile t) fun x => { x with qd := { x.qd with
      selfTests := x.qd.selfTests + 1, selfFails := if pass then x.qd.selfFails else x.qd.selfFails + 1 } }
    if pass then
      let s2 := s1.setTile t { tl with tests := rest, lost := tl.lost || !scrub || tl.stillBad q }
      .next (if q.1 = 4 ∧ q.2.1 = 1 then s2.modDie (dieOfTile t) fun x => { x with ff := { x.ff with noiseOk := true } }
             else if q.1 = 5 then s2.modPort (16 * modOfTile t + q.2.1) false fun p => { p with nextSeq := 0, expected := 0, kept := [] }
             else if q.1 = 6 then (tl.linkMods.filter fun l => decide (l.1 = q.2.1)).foldl (fun s l => s.renewLinks l.2 l.1) s2
             else s2)
    else if s1.noRemedy t q then .next ((s1.setTile t { tl with tests := rest }).fence t q)
    else .next (s1.setTile t { tl with tests := rest, unspared := tl.unspared ++ [q] })
  | _, _ => .next s

/-- ROLLBACK_WINDOW_DONE (R169, R182, R185): no test and no remedy is left; the tile sends restore done. -/
def execRollbackWindowDone (t : Nat) (s : State) : Out :=
  let tl := s.tile t
  match s.regionOf t with
  | none => .next s
  | some r =>
    if tl.node = .rollback ∧ tl.tests = [] ∧ tl.unspared = [] then
      let u : Up := { kind := 2, region := r.serial, ssn := tl.ssnum, abort := false, cause := 0, op := none, operand := 0,
                      tile := t, src := t, ended := false, lost := tl.lost }
      .next ((s.setTile t { tl with node := .hold, linkMods := [] }).sendUp t r u)
    else .next s

/-! ## Stop (R169, R193, R402, R404) -/

/-- A tile back in the state of R30: what it held is unspecified, as free values of four numbers from `k`. -/
def Tile.cleared (tl : Tile) (k : Nat) : Tile :=
  { Tile.reset with
    tm := ⟨[], [⟨0, Config.tmSize, k⟩]⟩, acc := ⟨[], [⟨0, 131072, k + 1⟩]⟩, slotMem := ⟨[], [⟨0, 262144, k + 2⟩]⟩
    mbx := ⟨[], [⟨0, 16384, k + 3⟩]⟩
    bad := tl.bad, badAcc := tl.badAcc, badSlot := tl.badSlot, badMb := tl.badMb, retired := tl.retired, l1 := tl.l1 }

/-- The contexts of a region on some dies are no longer valid (R402). -/
def State.dropContexts (s : State) (region : BitVec 20) (ds : List Nat) : State :=
  ds.foldl (fun s d => s.modDie d fun x =>
    match x.ff.ctxOf region with
    | some i => { x with ff := { x.ff with ctxs := x.ff.ctxs.set i { x.ff.ctxs[i] with valid := false } } }
    | none => x) s

/-- The launch queue that a region came from goes on (R398, R436). -/
def State.unblock (s : State) (m q : Nat) : State :=
  s.modModule m fun x =>
    have h : q % 16 < 16 := Nat.mod_lt _ (by decide)
    { x with queues := x.queues.set (q % 16) { x.queues[q % 16] with cur := none } h }

/-- A region's part on a module is over: its tiles are free and in the reset state, its Firefly rows unallocated, its queue
unblocked; the last part takes the region with it (R398, R402). -/
def State.endPart (s : State) (r : Region) (p : Part) : State :=
  let s1 := p.tiles.foldl (fun s t => { s with free := s.free + 4 }.setTile t ((s.tile t).cleared s.free)) s
  let s2 := (s1.dropContexts r.id (diesOf p.tiles)).unblock p.m p.queue
  let s3 := s2.modRegion r.serial fun x => { x with parts := x.parts.filter fun y => decide (y.m ≠ p.m) }
  { s3 with regions := s3.regions.filter fun x => !(decide (x.serial = r.serial) && x.parts.isEmpty) }

/-- Every tile of a part has stopped. -/
def State.allStopped (s : State) (p : Part) : Bool := p.tiles.all fun t => decide ((s.tile t).node = .stop)

/-- The end of a region on a module, once its last tile there has stopped: the tiles return to the reset state, and the module's
launch unit sends its EVENT (R193, R398, R402). It comes at the end of the 2 GHz cycle of that stop. -/
def State.partEnd (s : State) (m serial : Nat) : State :=
  match s.region? serial with
  | none => s
  | some r =>
    match r.parts.find? fun p => decide (p.m = m) with
    | none => s
    | some part =>
      if r.phase = .ending ∧ s.allStopped part then
        let s1 := s.endPart r part
        if r.abortCause = 0 then s1.report m 2 r.id.toNat (r.ssn + 1).toNat 0 0 part.rcb
        else s1.report m 3 r.id.toNat r.ssn.toNat r.abortCause r.abortTile 0
      else s

/-- The tile holds state that no seal committed: an attempt that no abort undid (R169). -/
def Tile.inAttempt (tl : Tile) : Bool :=
  match tl.node with
  | .run | .arrived | .exch | .seal => !tl.launching && tl.inReg
  | _ => false

/-- STOP (R169, R193, R375, R402, R404): the tile stops with its last committed state; an attempt that the abort packet did not reach is
undone first. A region that ends on a module is over there
after the stop of its last tile (`State.partEnd`). -/
def execStop (t : Nat) (s : State) : Out :=
  match s.downOf t 3 with
  | none => .next s
  | some p =>
    let s0 := (s.modTile t fun tl => { tl with down := tl.down.drop 1 }).voidRecords t
    match s.regionOf t with
    | none => .next s0
    | some r =>
      let halted (tl : Tile) : Tile := { tl with node := .stop, recorded := [], stopping := false, launching := false, launchPf := [] }
      if p.cause = 0 then
        .next (s0.modTile t fun tl =>
          let tl0 := tl.commitTile (p.ssn + 1)
          halted { tl0 with cur := tl0.cur.freeAccs AccState.unpinned, red := p.result })
      else if (s0.tile t).inAttempt then .next ((s0.undoAttempt t r).modTile t fun tl => halted { tl with tests := [] })
      else .next (s0.modTile t halted)

/-! ## Shaping windows, cause records, reconfiguration (R192, R194, R199) -/

/-- SHAPING_WINDOW (R194): the next window of 1,000 ns opens; `k` saturates. R194 does not say what follows window 65,535:
here further windows of 1,000 ns follow, each with a count of its own and the limit of `k` = 65,535 (DESIGN CHOICE, notes/assumptions/37.md). -/
def execShapingWindow (t : Nat) (s : State) : Out :=
  let tl := s.tile t
  if tl.node ≠ .run ∨ s.clk < tl.startClk + 4000 * (tl.mshWin.toNat + 1) then .next s
  else if tl.mshWin = 0xFFFF#16 then .next (s.setTile t { tl with startClk := tl.startClk + 4000, mshCnt := 0 })
  else .next (s.setTile t { tl with mshWin := tl.mshWin + 1, mshCnt := 0 })

/-- A read of `QCREC` (R199): the oldest cause record, removed; 0 when there is none. -/
def State.qcrecRead (s : State) (d : Nat) : W × State :=
  match (s.die d).qd.qcrec with
  | [] => (0, s)
  | r :: rest => (r, s.modDie d fun x => { x with qd := { x.qd with qcrec := rest } })

/-- QCREC_READ (R199). -/
def execQcrecRead (d : Nat) (s : State) : Out := .next (s.qcrecRead d).2

/-- TREE_RECONFIGURE (R192): refused with a status to firmware unless every tile of the region is quiescent. -/
def execTreeReconfigure (r : Nat) (s : State) : Out :=
  match s.region? r with
  | none => .next s
  | some x => if x.tiles.all fun t => (s.tile t).quiescent then .next s else .next { s with outs := s.outs ++ [.refused r] }

end Sys2Proof.Machine
end

