-- ==== Sys2Proof/Machine/Vector.lean ====
section
/-! DEFINITION. The vector instructions of major opcodes 0x40-0x47 (R143-R158): lane arithmetic, conversions, compares,
loads and stores of registers, strided and indexed access, reductions, moves and functions. Each runs on the work core
only (R20), and reads its registers through their stream bindings (R161, R162). -/

namespace Sys2Proof.Machine

/-- A function of one register, lane by lane. -/
def vmap1 (w : Nat) (f : Nat → Nat) (a : VReg) : VReg := vOfLanes w ((lanesOf w a).map f)

/-- A function of two registers, lane by lane. -/
def vmap2 (w : Nat) (f : Nat → Nat → Nat) (a b : VReg) : VReg := vOfLanes w (List.zipWith f (lanesOf w a) (lanesOf w b))

/-- A function of three registers, lane by lane. -/
def vmap3 (w : Nat) (f : Nat → Nat → Nat → Nat) (a b c : VReg) : VReg :=
  vOfLanes w (List.zipWith (fun g x => g x) (List.zipWith f (lanesOf w a) (lanesOf w b)) (lanesOf w c))

/-! ## Float lane arithmetic (R143, R144) -/

/-- An arithmetic lane operation rounded once into type `t` (R144). -/
def fArith (t m : Nat) (f : RM → FVal → FVal → FVal) (a b : VReg) : VReg :=
  let fm := vecFmt t
  let rm := RM.ofCode m
  vmap2 fm.w (fun x y => fm.round rm false (f rm (fm.val x) (fm.val y))) a b

/-- vaddF (R144): A + B. -/
def execVaddF (d a b : BitVec 5) (t m : BitVec 2) (s : State) : Out :=
  s.vop (wordOf (.vaddF d a b t m)) [a, b] d fun s => fArith t.toNat m.toNat FVal.add (s.rv a) (s.rv b)

/-- vsubF (R144): A - B. -/
def execVsubF (d a b : BitVec 5) (t m : BitVec 2) (s : State) : Out :=
  s.vop (wordOf (.vsubF d a b t m)) [a, b] d fun s => fArith t.toNat m.toNat (fun rm x y => FVal.add rm x y.neg) (s.rv a) (s.rv b)

/-- vmulF (R144): A × B. -/
def execVmulF (d a b : BitVec 5) (t m : BitVec 2) (s : State) : Out :=
  s.vop (wordOf (.vmulF d a b t m)) [a, b] d fun s => fArith t.toNat m.toNat (fun _ x y => FVal.mul x y) (s.rv a) (s.rv b)

/-- vminF (R144): the smaller as a bit copy. -/
def execVminF (d a b : BitVec 5) (t m : BitVec 2) (s : State) : Out :=
  s.vop (wordOf (.vminF d a b t m)) [a, b] d fun s => vmap2 (vecFmt t.toNat).w (vecFmt t.toNat).min (s.rv a) (s.rv b)

/-- vmaxF (R144): the larger as a bit copy. -/
def execVmaxF (d a b : BitVec 5) (t m : BitVec 2) (s : State) : Out :=
  s.vop (wordOf (.vmaxF d a b t m)) [a, b] d fun s => vmap2 (vecFmt t.toNat).w (vecFmt t.toNat).max (s.rv a) (s.rv b)

/-- vabsF (R144): the sign bit cleared. -/
def execVabsF (d a : BitVec 5) (t m : BitVec 2) (s : State) : Out :=
  s.vop (wordOf (.vabsF d a t m)) [a] d fun s => vmap1 (vecFmt t.toNat).w (fun x => x % 2 ^ ((vecFmt t.toNat).w - 1)) (s.rv a)

/-- vneg (R144): the sign bit inverted. -/
def execVneg (d a : BitVec 5) (t m : BitVec 2) (s : State) : Out :=
  s.vop (wordOf (.vneg d a t m)) [a] d fun s => vmap1 (vecFmt t.toNat).w (fun x => x ^^^ 2 ^ ((vecFmt t.toNat).w - 1)) (s.rv a)

/-! ## Conversions (R43, R145) -/

/-- `vcvt`: type `t` to type `u`, over the lanes both widths have (R145). -/
def cvtFF (t u m : Nat) (v : VReg) : VReg :=
  if t = u then v
  else
    let ft := vecFmt t
    let fu := vecFmt u
    let n := 512 / Nat.max ft.w fu.w
    vOfLanes fu.w (((lanesOf ft.w v).take n).map fun x => fu.round (RM.ofCode m) false (ft.val x))

/-- vcvt (R145). -/
def execVcvt (d a : BitVec 5) (u t m : BitVec 2) (s : State) : Out :=
  s.vop (wordOf (.vcvt d a u t m)) [a] d fun s => cvtFF t.toNat u.toNat m.toNat (s.rv a)

/-- vcvti (R145): lanes 0-15 of type `t` to S32, rounded and saturated. -/
def execVcvti (d a : BitVec 5) (t m : BitVec 2) (s : State) : Out :=
  s.vop (wordOf (.vcvti d a t m)) [a] d fun s =>
    let ft := vecFmt t.toNat
    vOfLanes 32 (((lanesOf ft.w (s.rv a)).take 16).map fun x => wrapNat 32 ((ft.val x).toS 32 (RM.ofCode m.toNat)))

/-- vcvtf (R145): S32 lanes to lanes 0-15 of type `t`. -/
def execVcvtf (d a : BitVec 5) (t m : BitVec 2) (s : State) : Out :=
  s.vop (wordOf (.vcvtf d a t m)) [a] d fun s =>
    let ft := vecFmt t.toNat
    vOfLanes ft.w ((lanesOf 32 (s.rv a)).map fun x => ft.round (RM.ofCode m.toNat) false (FVal.ofS (sextNat 32 x)))

/-! ## Fused multiply-add (R146) -/

/-- One lane of `vfma` or `vfnma`: the product exact, one rounding (R146). -/
def fmaLane (fm : Fmt) (rm : RM) (neg : Bool) (a b c : Nat) : Nat :=
  let p := (fm.val a).mul (fm.val b)
  fm.round rm false (FVal.add rm (if neg then p.neg else p) (fm.val c))

/-- vfma (R146). -/
def execVfma (d a b c : BitVec 5) (m t : BitVec 2) (s : State) : Out :=
  s.vop (wordOf (.vfma d a b c m t)) [a, b, c] d fun s =>
    vmap3 (vecFmt t.toNat).w (fmaLane (vecFmt t.toNat) (RM.ofCode m.toNat) false) (s.rv a) (s.rv b) (s.rv c)

/-- vfnma (R146). -/
def execVfnma (d a b c : BitVec 5) (m t : BitVec 2) (s : State) : Out :=
  s.vop (wordOf (.vfnma d a b c m t)) [a, b, c] d fun s =>
    vmap3 (vecFmt t.toNat).w (fmaLane (vecFmt t.toNat) (RM.ofCode m.toNat) true) (s.rv a) (s.rv b) (s.rv c)

/-! ## Integer lane arithmetic (R147) -/

/-- A lane saturated as signed (R34). -/
def satS (w : Nat) (n : Int) : Nat := wrapNat w (satInt (-(2 ^ (w - 1) : Int)) (2 ^ (w - 1) - 1) n)

/-- A lane saturated as unsigned (R34). -/
def satN (w : Nat) (n : Int) : Nat := wrapNat w (satInt 0 (2 ^ w - 1) n)

/-- An integer lane instruction of two operands: `f` is given the lane width. -/
def State.viop (s : State) (word : Nat) (d a b : BitVec 5) (w : BitVec 2) (f : Nat → Nat → Nat → Nat) : Out :=
  s.vop word [a, b] d fun s => vmap2 (widthOf w.toNat) (f (widthOf w.toNat)) (s.rv a) (s.rv b)

/-- vaddI (R147): A + B, wrapping. -/
def execVaddI (d a b : BitVec 5) (w : BitVec 2) (s : State) : Out :=
  s.viop (wordOf (.vaddI d a b w)) d a b w fun _ x y => x + y

/-- vsubI (R147): A - B, wrapping. -/
def execVsubI (d a b : BitVec 5) (w : BitVec 2) (s : State) : Out :=
  s.viop (wordOf (.vsubI d a b w)) d a b w fun w x y => x + (2 ^ w - y)

/-- vmulI (R147): the low half of A × B. -/
def execVmulI (d a b : BitVec 5) (w : BitVec 2) (s : State) : Out :=
  s.viop (wordOf (.vmulI d a b w)) d a b w fun _ x y => x * y

/-- vminS (R147): signed minimum. -/
def execVminS (d a b : BitVec 5) (w : BitVec 2) (s : State) : Out :=
  s.viop (wordOf (.vminS d a b w)) d a b w fun w x y => if sextNat w y < sextNat w x then y else x

/-- vminN (R147): unsigned minimum. -/
def execVminN (d a b : BitVec 5) (w : BitVec 2) (s : State) : Out :=
  s.viop (wordOf (.vminN d a b w)) d a b w fun _ x y => Nat.min x y

/-- vmaxS (R147): signed maximum. -/
def execVmaxS (d a b : BitVec 5) (w : BitVec 2) (s : State) : Out :=
  s.viop (wordOf (.vmaxS d a b w)) d a b w fun w x y => if sextNat w x < sextNat w y then y else x

/-- vmaxN (R147): unsigned maximum. -/
def execVmaxN (d a b : BitVec 5) (w : BitVec 2) (s : State) : Out :=
  s.viop (wordOf (.vmaxN d a b w)) d a b w fun _ x y => Nat.max x y

/-- vand (R147): AND. -/
def execVand (d a b : BitVec 5) (w : BitVec 2) (s : State) : Out :=
  s.viop (wordOf (.vand d a b w)) d a b w fun _ x y => x &&& y

/-- vor (R147): OR. -/
def execVor (d a b : BitVec 5) (w : BitVec 2) (s : State) : Out :=
  s.viop (wordOf (.vor d a b w)) d a b w fun _ x y => x ||| y

/-- vxor (R147): XOR. -/
def execVxor (d a b : BitVec 5) (w : BitVec 2) (s : State) : Out :=
  s.viop (wordOf (.vxor d a b w)) d a b w fun _ x y => x ^^^ y

/-- vsll (R147): A shifted left by the low log2 w bits of B. -/
def execVsll (d a b : BitVec 5) (w : BitVec 2) (s : State) : Out :=
  s.viop (wordOf (.vsll d a b w)) d a b w fun w x y => x * 2 ^ (y % w)

/-- vsrl (R147): A shifted right, logical. -/
def execVsrl (d a b : BitVec 5) (w : BitVec 2) (s : State) : Out :=
  s.viop (wordOf (.vsrl d a b w)) d a b w fun w x y => x / 2 ^ (y % w)

/-- vsra (R147): A shifted right, arithmetic. -/
def execVsra (d a b : BitVec 5) (w : BitVec 2) (s : State) : Out :=
  s.viop (wordOf (.vsra d a b w)) d a b w fun w x y => wrapNat w (sextNat w x / 2 ^ (y % w))

/-- vaddsS (R147): A + B saturated, signed. -/
def execVaddsS (d a b : BitVec 5) (w : BitVec 2) (s : State) : Out :=
  s.viop (wordOf (.vaddsS d a b w)) d a b w fun w x y => satS w (sextNat w x + sextNat w y)

/-- vaddsN (R147): A + B saturated, unsigned. -/
def execVaddsN (d a b : BitVec 5) (w : BitVec 2) (s : State) : Out :=
  s.viop (wordOf (.vaddsN d a b w)) d a b w fun w x y => satN w ((x : Int) + y)

/-- vsubsS (R147): A - B saturated, signed. -/
def execVsubsS (d a b : BitVec 5) (w : BitVec 2) (s : State) : Out :=
  s.viop (wordOf (.vsubsS d a b w)) d a b w fun w x y => satS w (sextNat w x - sextNat w y)

/-- vsubsN (R147): A - B saturated, unsigned. -/
def execVsubsN (d a b : BitVec 5) (w : BitVec 2) (s : State) : Out :=
  s.viop (wordOf (.vsubsN d a b w)) d a b w fun w x y => satN w ((x : Int) - y)

/-- vabsI (R147): |A| read as signed, the minimum value staying itself. -/
def execVabsI (d a : BitVec 5) (w : BitVec 2) (s : State) : Out :=
  s.vop (wordOf (.vabsI d a w)) [a] d fun s =>
    vmap1 (widthOf w.toNat) (fun x => (sextNat (widthOf w.toNat) x).natAbs) (s.rv a)

/-! ## Compare and select (R148) -/

/-- All ones or all zeros in a lane of `w` bits. -/
def maskLane (w : Nat) (b : Bool) : Nat := if b then 2 ^ w - 1 else 0

/-- vcmp of integers (R148). -/
def execVcmpI (d a b : BitVec 5) (w : BitVec 2) (c : BitVec 3) (s : State) : Out :=
  s.vop (wordOf (.vcmpI d a b w c)) [a, b] d fun s =>
    vmap2 (widthOf w.toNat) (fun x y => maskLane (widthOf w.toNat) (condLane c.toNat (widthOf w.toNat) x y)) (s.rv a) (s.rv b)

/-- A float condition 0-3: a NaN makes EQ, LT and GE false and NE true; -0 equals +0 (R148). -/
def condFloat (c : Nat) (x y : FVal) : Bool :=
  if c = 0 then x.eqv y
  else if c = 1 then !(x.eqv y)
  else if c = 2 then x.lt y
  else !x.isNaN && !y.isNaN && !(x.lt y)

/-- vcmp of floats (R148). -/
def execVcmpF (d a b : BitVec 5) (t : BitVec 2) (c : BitVec 3) (s : State) : Out :=
  s.vop (wordOf (.vcmpF d a b t c)) [a, b] d fun s =>
    let fm := vecFmt t.toNat
    vmap2 fm.w (fun x y => maskLane fm.w (condFloat c.toNat (fm.val x) (fm.val y))) (s.rv a) (s.rv b)

/-- vsel (R148): the old `V[d]` is the mask. -/
def execVsel (d a b : BitVec 5) (w : BitVec 2) (s : State) : Out :=
  s.vop (wordOf (.vsel d a b w)) [d, a, b] d fun s =>
    vmap3 (widthOf w.toNat) (fun m x y => if bitOf m (widthOf w.toNat - 1) then x else y) (s.rv d) (s.rv a) (s.rv b)

/-! ## Loads and stores (R149-R151) -/

/-- vld (R149). -/
def execVld (d a : BitVec 5) (i : BitVec 14) (s : State) : Out :=
  s.onWork (wordOf (.vld d a i)) fun s =>
    let A := s.eaVec a i
    s.checked A 64 fun s =>
      s.readBytes A.toNat 64 fun bs s1 => s.vwrite s1 d (BitVec.ofNat 512 (leNat bs)) fun s => s.doneNop

/-- vst (R149). -/
def execVst (r a : BitVec 5) (i : BitVec 14) (s : State) : Out :=
  s.onWork (wordOf (.vst r a i)) fun s =>
    let A := s.eaVec a i
    s.vread [r] fun s0 s1 =>
      s0.checked A 64 fun _ => s0.storeWait A.toNat 64 fun _ =>
        match s1.storeHere A.toNat (leBytes 64 (s1.rv r).toNat) with
        | some tl => (s1.setTile s1.here tl).doneNop
        | none => s0.trap 0x0A (BitVec.ofNat 64 (64 * (A.toNat / 64)))

/-- The element width of code 0, 1, 2: 16, 32, 64 bits (R150). -/
def elemBits (e : Nat) : Nat := 16 * 2 ^ e

/-- The element addresses of `vlds` and `vsts` (R150). -/
def strideAddrs (x y : W) (n : Nat) : List W := (List.range n).map fun i => x + BitVec.ofNat 64 i * y

/-- The element addresses of `vgath` and `vscat` (R150). -/
def indexAddrs (x : W) (w : Nat) (v : VReg) : List W := (lanesOf w v).map fun o => x + BitVec.ofNat 64 o

/-- The alignment and range checks over every element before any access: the lowest code, then the lowest-indexed address
that meets it (R151). -/
def addrCause (n : Nat) (l : List W) : Option (Nat × W) :=
  match l.find? fun a => decide (a.toNat % n ≠ 0) with
  | some a => some (0x03, a)
  | none =>
    match l.find? fun a => decide (Config.tmSize < a.toNat + n) with
    | some a => some (0x04, a)
    | none => none

/-- The elements loaded in turn (R150); `none` with the bad code word that an element meets. -/
def loadElems (m : Memory × List Nat) (n : Nat) : List W → List Nat × Option Nat
  | [] => ([], none)
  | a :: t =>
    match badHit 16 m.2 a.toNat n with
    | some w => ([], some w)
    | none =>
      let r := loadElems m n t
      (m.1.nat a.toNat n :: r.1, r.2)

/-- The elements stored in ascending order by agent `b`, whose earlier operations have `q` to write (R150, R151, R227); the first address whose line the version store has no room for. -/
def storeElems (b : Fin 10) (q : List (Nat × Nat)) (tl : Tile) (n : Nat) : List (W × Nat) → Tile × Option W
  | [] => (tl, none)
  | (a, v) :: t =>
    match tl.store b q a.toNat (leBytes n v) with
    | some tl' => storeElems b q tl' n t
    | none => (tl, some a)

/-- A strided or indexed load (R150, R151). An uncorrectable word it reads comes before cause 0x05 or 0x0A of its output-bound destination
(R162): the spec gives no order (DESIGN CHOICE, notes/assumptions/19.md). -/
def State.elemLoad (s0 s1 : State) (d : BitVec 5) (w : Nat) (l : List W) : Out :=
  match addrCause (w / 8) l with
  | some (c, a) => s0.trap c a
  | none => s0.rdWait fun _ =>
    match loadElems (s1.memOf s1.turn) (w / 8) l with
    | (_, some bw) => .next (s0.readError s0.turn bw)
    | (vs, none) => s0.vwrite (s1.loaded s1.turn (l.map fun a => (a.toNat, w / 8))) d (vOfLanes w vs) fun s => s.doneNop

/-- A strided or indexed store (R150, R151). -/
def State.elemStore (s0 s1 : State) (d : BitVec 5) (w : Nat) (l : List W) : Out :=
  match addrCause (w / 8) l with
  | some (c, a) => s0.trap c a
  | none => s0.rdWait fun _ =>
    match l.findSome? fun a => s0.unread a.toNat (w / 8) with
    | some e => s0.waitOn (.matrix e.id)
    | none =>
    if s0.behindOwn (l.map fun a => (a.toNat, w / 8)) then s0.stall else
    match storeElems s1.strand s1.myWrites (s1.tile s1.here) (w / 8) (l.zip (lanesOf w (s1.rv d))) with
    | (_, some a) => s0.trap 0x0A a
    | (tl, none) => (s1.setTile s1.here tl).doneNop

/-- vlds (R150). -/
def execVlds (d a b : BitVec 5) (e : BitVec 2) (s : State) : Out :=
  s.onWork (wordOf (.vlds d a b e)) fun s =>
    s.elemLoad s d (elemBits e.toNat) (strideAddrs (s.rx a) (s.rx b) (512 / elemBits e.toNat))

/-- vsts (R150). -/
def execVsts (d a b : BitVec 5) (e : BitVec 2) (s : State) : Out :=
  s.onWork (wordOf (.vsts d a b e)) fun s =>
    s.vread [d] fun s0 s1 =>
      s0.elemStore s1 d (elemBits e.toNat) (strideAddrs (s1.rx a) (s1.rx b) (512 / elemBits e.toNat))

/-- vgath (R150). -/
def execVgath (d a b : BitVec 5) (e : BitVec 2) (s : State) : Out :=
  s.onWork (wordOf (.vgath d a b e)) fun s =>
    s.vread [b] fun s0 s1 =>
      s0.elemLoad s1 d (elemBits e.toNat) (indexAddrs (s1.rx a) (elemBits e.toNat) (s1.rv b))

/-- vscat (R150). -/
def execVscat (d a b : BitVec 5) (e : BitVec 2) (s : State) : Out :=
  s.onWork (wordOf (.vscat d a b e)) fun s =>
    s.vread [d, b] fun s0 s1 =>
      s0.elemStore s1 d (elemBits e.toNat) (indexAddrs (s1.rx a) (elemBits e.toNat) (s1.rv b))

/-! ## Reductions (R153) -/

/-- The fixed tree of R153: the lower half combined with the upper half until one value is left. -/
def treeRed {α : Type} (op : α → α → α) : Nat → List α → List α
  | 0, l => l
  | k + 1, l => treeRed op k (List.zipWith op (l.take (l.length / 2)) (l.drop (l.length / 2)))

/-- A float reduction over lanes widened to F32 (R153). -/
def fRed (t : Nat) (op : Nat → Nat → Nat) (v : VReg) : Nat :=
  let ft := vecFmt t
  let l := (lanesOf ft.w v).map fun x => if t = 0 then x else fF32.round .rne false (ft.val x)
  (treeRed op (Nat.log2 l.length) l).headD 0

/-- F32 addition, rounded to nearest even (R153). -/
def addF32 (x y : Nat) : Nat := fF32.round .rne false (FVal.add .rne (fF32.val x) (fF32.val y))

/-- An integer reduction over signed lanes (R153). -/
def iRed (w : Nat) (op : Int → Int → Int) (v : VReg) : Int :=
  (treeRed op (Nat.log2 (512 / w)) ((lanesOf w v).map fun x => sextNat w x)).headD 0

/-- A reduction into `X[d]`. -/
def State.vredX (s : State) (word : Nat) (d a : BitVec 5) (f : VReg → W) : Out :=
  s.onWork word fun s => s.vread [a] fun _ s => s.doneX d (f (s.rv a))

/-- vred.fadd (R153). -/
def execVredFadd (d a : BitVec 5) (t : BitVec 2) (s : State) : Out :=
  s.vredX (wordOf (.vredFadd d a t)) d a fun v => BitVec.ofNat 64 (fRed t.toNat addF32 v)

/-- vred.fmin (R153). -/
def execVredFmin (d a : BitVec 5) (t : BitVec 2) (s : State) : Out :=
  s.vredX (wordOf (.vredFmin d a t)) d a fun v => BitVec.ofNat 64 (fRed t.toNat fF32.min v)

/-- vred.fmax (R153). -/
def execVredFmax (d a : BitVec 5) (t : BitVec 2) (s : State) : Out :=
  s.vredX (wordOf (.vredFmax d a t)) d a fun v => BitVec.ofNat 64 (fRed t.toNat fF32.max v)

/-- vred.add (R153): the sum exact, bits [63:0] written. -/
def execVredAdd (d a : BitVec 5) (w : BitVec 2) (s : State) : Out :=
  s.vredX (wordOf (.vredAdd d a w)) d a fun v => BitVec.ofInt 64 (iRed (widthOf w.toNat) (· + ·) v)

/-- vred.min.s (R153): the lane sign-extended. -/
def execVredMinS (d a : BitVec 5) (w : BitVec 2) (s : State) : Out :=
  s.vredX (wordOf (.vredMinS d a w)) d a fun v => BitVec.ofInt 64 (iRed (widthOf w.toNat) min v)

/-- vred.max.s (R153): the lane sign-extended. -/
def execVredMaxS (d a : BitVec 5) (w : BitVec 2) (s : State) : Out :=
  s.vredX (wordOf (.vredMaxS d a w)) d a fun v => BitVec.ofInt 64 (iRed (widthOf w.toNat) max v)

/-! ## Permutes, broadcasts and moves (R154) -/

/-- vperm (R154). -/
def execVperm (d a b : BitVec 5) (w : BitVec 2) (s : State) : Out :=
  s.vop (wordOf (.vperm d a b w)) [a, b] d fun s =>
    let wd := widthOf w.toNat
    vmap1 wd (fun i => laneOf wd (s.rv a) (i % (512 / wd))) (s.rv b)

/-- vbcast (R154). -/
def execVbcast (d a : BitVec 5) (w : BitVec 2) (s : State) : Out :=
  s.vop (wordOf (.vbcast d a w)) [] d fun s =>
    vOfLanes (widthOf w.toNat) (List.replicate (512 / widthOf w.toNat) (s.rx a).toNat)

/-- vmov (R154). -/
def execVmov (d a : BitVec 5) (s : State) : Out :=
  s.vop (wordOf (.vmov d a)) [a] d fun s => s.rv a

/-- vmov of a lane to `X[d]`, zero-extended (R154). -/
def execVmovToX (d a l : BitVec 5) (w : BitVec 2) (s : State) : Out :=
  s.vredX (wordOf (.vmovToX d a l w)) d a fun v => BitVec.ofNat 64 (laneOf (widthOf w.toNat) v l.toNat)

/-- vmov of `X[a]` to a lane, the other lanes unchanged (R154). Whether that counts as a read of a register bound to an input stream
is open; in this model it takes no element (DESIGN CHOICE, notes/assumptions/20.md). -/
def execVmovToLane (d a l : BitVec 5) (w : BitVec 2) (s : State) : Out :=
  s.vop (wordOf (.vmovToLane d a l w)) [] d fun s => setLane (widthOf w.toNat) (s.rv d) l.toNat (s.rx a).toNat

/-! ## Functions (R155-R158) -/

/-- A function of each lane as a real, rounded into type `t`. -/
def fFun (t m : Nat) (f : FVal → FVal) (v : VReg) : VReg :=
  let fm := vecFmt t
  vmap1 fm.w (fun x => fm.round (RM.ofCode m) false (f (fm.val x))) v

/-- vexp2 (R157). -/
def execVexp2 (d a : BitVec 5) (t : BitVec 2) (s : State) : Out :=
  s.vop (wordOf (.vexp2 d a t)) [a] d fun s => fFun t.toNat 0 exp2Val (s.rv a)

/-- vlog2 (R158). -/
def execVlog2 (d a : BitVec 5) (t : BitVec 2) (s : State) : Out :=
  s.vop (wordOf (.vlog2 d a t)) [a] d fun s => fFun t.toNat 0 log2Val (s.rv a)

/-- vrcp (R156). -/
def execVrcp (d a : BitVec 5) (t m : BitVec 2) (s : State) : Out :=
  s.vop (wordOf (.vrcp d a t m)) [a] d fun s => fFun t.toNat m.toNat FVal.rcp (s.rv a)

/-- vrsq (R156). -/
def execVrsq (d a : BitVec 5) (t m : BitVec 2) (s : State) : Out :=
  s.vop (wordOf (.vrsq d a t m)) [a] d fun s => fFun t.toNat m.toNat FVal.rsqrt (s.rv a)

end Sys2Proof.Machine
end

