-- ==== Sys2Proof/Machine/Root.lean ====
section
/-! DEFINITION. The root of a region (R168, R170, R173, R176, R187, R188, R193): its decisions, and the commit actions that the
tiles of a region share (R177, R213, R219, R302-R305, R329, R350, R401). -/

namespace Sys2Proof.Machine

/-! ## Packets (R166, R167) -/

/-- The module whose pod time the root of a region counts in: the first of the region's modules (DEDUCED, notes/assumptions/49.md;
modules in LOCK agree). -/
def Region.rootModule (r : Region) : Nat := (r.parts.head?.map fun p => p.m).getD 0

/-- The clk at which the clock of module `m` shows the pod time that the root's shows at `clk` (R424). -/
def State.localClk (s : State) (r : Region) (m clk : Nat) : Nat := ((clk : Int) + s.podAhead r.rootModule - s.podAhead m).toNat

/-- The pod carries the root's packets of a region to module `m`: the region is on one module, or the module is not declared dead and its
scale-out link for barrier packets is up (R358, R437). -/
def State.carries (s : State) (r : Region) (m : Nat) : Bool := r.nmod ≤ 1 || (!(s.module m).podDead && s.podUp m)

/-- A down packet to tile `t` of a region: one of a region on several modules needs the scale-out link of the tile's module, and
meets a failed link where that is not up (R437); the pod does not forward to a module declared dead (R358). -/
def State.sendTo (s : State) (r : Region) (p : Down) (t : Nat) : State :=
  if 1 < r.nmod ∧ (s.module (modOfTile t)).podDead = true then s
  else if 1 < r.nmod ∧ s.podUp (modOfTile t) = false then s.podFailed r t
  else s.modTile t fun tl => { tl with down := tl.down ++ [{ p with instant := s.localClk r (modOfTile t) p.instant }] }

/-- A down packet to every tile of a region. -/
def State.sendDown (s : State) (r : Region) (p : Down) : State := r.tiles.foldl (fun s t => s.sendTo r p t) s

/-- A down packet of the root, sent now. -/
def Region.packet (r : Region) (clk kind phase : Nat) (ssn : BitVec 48) (cause tile instant : Nat) : Down :=
  { kind := kind, phase := phase, ssn := ssn, cause := cause, tile := tile, result := r.result, instant := instant, sentAt := clk }

/-- The up packet in place `i`, taken from the list; packets of one sender are taken in the order sent. -/
def State.takeUp (s : State) (i kind : Nat) : Option (Up × Region × State) :=
  match s.up[i]? with
  | none => none
  | some u =>
    if u.kind ≠ kind ∨ (s.up.take i).any (fun v => decide (v.src = u.src) && decide (v.region = u.region)) then none
    else
      match s.region? u.region with
      | none => none
      | some r => some (u, r, { s with up := s.up.eraseIdx i })

/-- The instant of a release or an exchange start, `ns` after now: an even clk (R10, R176, R188). -/
def evenUp (clk : Nat) : Nat := (clk + 1) / 2 * 2

/-- The dies of a region. -/
def Region.dies (r : Region) : List Nat := diesOf r.tiles

/-- A change made to every die of a region. -/
def State.modDies (s : State) (l : List Nat) (f : Die → Die) : State := l.foldl (fun s d => s.modDie d f) s

/-! ## Decisions (R168, R170, R187) -/

/-- The root decides abort (R168, R170): `phase` 0 at the close vote, 1 at the seal vote. The dies that the packet reaches count it
(R198). -/
def State.decideAbort (s : State) (r : Region) (phase cause tile : Nat) : State :=
  let s1 := s.sendDown r (r.packet s.clk 2 phase r.ssn cause tile 0)
  let s2 := s1.modDies (r.dies.filter fun d => s.carries r (modOfDie d)) fun x => { x with qd := { x.qd with abort := x.qd.abort + 1 } }
  s2.modRegion r.serial fun x => { x with
    phase := .restoring, tryN := x.tryN + 1, arrived := [], lost := false, abortCause := cause, abortTile := tile,
    abortPhase := phase, abortCycle := s.clk / 2, timer := s.clk }

/-- An abort arrival in the 2 GHz cycle of the abort decision takes its place where it ranks before it (R168). -/
def State.outrank (s : State) (r : Region) (u : Up) : State :=
  let key (c t : Nat) : Nat := causeRank c * 2 ^ 28 + t
  if u.abort && decide (r.phase = .restoring) && decide (u.ssn = r.ssn) && decide (u.kind = r.abortPhase) &&
      decide (r.abortCycle = s.clk / 2) && decide (key u.cause u.tile < key r.abortCause r.abortTile) then
    let s1 := s.modRegion r.serial fun x => { x with abortCause := u.cause, abortTile := u.tile }
    r.tiles.foldl (fun s t => s.modTile t fun tl => { tl with
      down := tl.down.map fun p => if p.kind = 2 ∧ p.sentAt / 2 = s.clk / 2 then { p with cause := u.cause, tile := u.tile } else p }) s1
  else s

/-- The root stops the region: kind 3 with a fault cause, and the FAULT EVENTs (R170, R185, R187, R402). -/
def State.regionFault (s : State) (r : Region) (cause tile : Nat) : State :=
  let s1 := s.sendDown r (r.packet s.clk 3 0 r.ssn cause tile 0)
  (s1.modRegion r.serial fun x => { x with phase := .stopped, abortCause := cause, abortTile := tile }).emitAll r 3 r.ssn.toNat cause tile
    fun _ => 0

/-- The root releases an attempt (R170, R188): `phase` 0 after a commit, 1 for a re-run. -/
def State.releaseAll (s : State) (r : Region) (phase : Nat) (ssn : BitVec 48) : State :=
  let t := evenUp (s.clk + 4 * r.fields.guard)
  (s.sendDown r (r.packet s.clk 1 phase ssn 0 0 t)).modRegion r.serial fun x => { x with
    phase := .closing, ssn := ssn, arrived := [], endedTiles := [], op := none, timer := t, lost := false }

/-- The operators that some tiles of a region contributed differ (R170). -/
def State.opsDiffer (s : State) (l : List Nat) : Bool :=
  let ops := l.flatMap fun t => ((s.tile t).syncs.head?.map fun a => a.op).toList
  ops.any fun o => decide (some o ≠ ops.head?)

/-- A node below the root combines commit arrivals of different operators (R170): all the tiles of a die, or of a module,
have arrived and differ. -/
def State.nodeDiffers (s : State) (r : Region) (arrived : List Nat) (t : Nat) : Bool :=
  let die := r.tiles.filter fun u => decide (dieOfTile u = dieOfTile t)
  let mod := r.tiles.filter fun u => decide (modOfTile u = modOfTile t)
  ((die.all fun u => arrived.contains u) && s.opsDiffer die) || ((mod.all fun u => arrived.contains u) && s.opsDiffer mod)

/-- Whether every tile of a region is among some; never where tiles of the region went with the reset of their module. -/
def Region.all (r : Region) (l : List Nat) : Bool := !r.gone && r.tiles.all fun t => l.contains t

/-- CLOSE_ARRIVAL (R168, R170, R173, R176): a close arrival reaches the root. -/
def execCloseArrival (i : Nat) (s : State) : Out :=
  match s.takeUp i 0 with
  | none => .next s
  | some (u, r, s1) =>
    if r.phase ≠ .closing ∨ u.ssn ≠ r.ssn then .next (s1.outrank r u)
    else if u.abort then .next (s1.decideAbort r 0 u.cause u.tile)
    else
      let arrived := natInsert r.arrived u.src
      if s1.nodeDiffers r arrived u.src then .next (s1.decideAbort r 0 0x16 0)
      else
        let operand :=
          match r.op, u.op with
          | none, _ => u.operand
          | some _, none => r.operand
          | some o, some _ => redOp o r.operand u.operand
        let op := match r.op with | some o => some o | none => u.op
        let r1 := { r with
          arrived := arrived, op := op, operand := if r.op.isNone && u.op.isNone then 0 else operand
          endedTiles := if u.ended then natInsert r.endedTiles u.src else r.endedTiles }
        if !r.all arrived then .next (s1.modRegion r.serial fun _ => r1)
        else if s1.opsDiffer r.tiles then .next (s1.decideAbort r 0 0x16 0)
        else
          let r2 := { r1 with result := r1.operand, phase := .sealing, arrived := [] }
          let m := if r.nmod ≤ 1 then 400 else 4 * r.fields.guard
          .next ((s1.modRegion r.serial fun _ => r2).sendDown r2 (r2.packet s.clk 0 0 r.ssn 0 0 (evenUp (s.clk + m))))

/-! ## Commit: deltas and patches (R177, R213, R219) -/

/-- Deltas in ascending sequence number, those of one number in their order. -/
def insertDelta (d : Nat × Delta) : List (Nat × Delta) → List (Nat × Delta)
  | [] => [d]
  | x :: t => if x.2.seq ≤ d.2.seq then x :: insertDelta d t else d :: x :: t

/-- The deltas of a region on a module in the writer order of R219, each with its tile. -/
def State.writerOrder (s : State) (r : Region) (m : Nat) : List (Nat × Delta) :=
  ((r.tiles.filter fun t => decide (modOfTile t = m)).foldl natInsert []).flatMap fun t =>
    ((s.tile t).deltas.map fun d => (t, d)).foldl (fun l d => insertDelta d l) []

/-- The combination of a reduction (R216). -/
def redBytes (f : Nat) (old new : List Byte) : List Byte :=
  let n := old.length
  let a := leNat old
  let b := leNat new
  let sa := sextNat (8 * n) a
  let sb := sextNat (8 * n) b
  if f ≤ 1 then leBytes n (a + b)
  else if f ≤ 3 then (if sb < sa then new else old)
  else if f ≤ 5 then (if sa < sb then new else old)
  else if f = 6 then leBytes n (a &&& b)
  else if f = 7 then leBytes n (a ||| b)
  else leBytes n (addF32 a b)

/-- One reduction applied at a module; an uncorrectable element stays so, and is logged (R386). -/
def State.applyRed (s : State) (m f t : Nat) (d : Delta) : State :=
  match s.hbmBad m d.pa d.bytes.length with
  | some w => s.logHbm (dieOfTile t) (8 * w)
  | none => s.setHbm m d.pa (redBytes f (s.hbm m d.pa d.bytes.length) d.bytes)

/-- The deltas of a region applied at a module (R219): plain writes, the integer reductions by function, then `fadd`. -/
def State.applyDeltas (s : State) (r : Region) (m : Nat) : State :=
  let l := s.writerOrder r m
  let s1 := (l.filter fun q => decide (q.2.f = none)).foldl (fun s q => s.setHbm m q.2.pa q.2.bytes) s
  (List.range 9).foldl (fun s f => (l.filter fun q => decide (q.2.f = some f)).foldl (fun s q => s.applyRed m f q.1 q.2) s) s1

/-- The chunks of a range of `n` bytes at `va`, as first data byte and length (R221). -/
def chunksOf (va n : Nat) : Nat → Nat → List (Nat × Nat)
  | 0, _ => []
  | fuel + 1, j =>
    if n ≤ j then []
    else
      let len := Nat.min (n - j) (4096 - (va + j) % 4096)
      (j, len) :: chunksOf va n fuel (j + len)

/-- The parts of a staged range that a delta changed, each as data byte, physical address and length: by the physical address of a
chunk that was fetched, by the virtual address of one that a changed `CURSOR` skipped (R213, R374). -/
def PfEntry.changed (e : PfEntry) (d : Delta) : List (Nat × Nat × Nat) :=
  (e.pas.filterMap fun c => (meet (c.2.2, c.2.1) (d.pa, d.bytes.length)).map fun q => (c.1 + (q.1 - c.2.2), q.1, q.2)) ++
    (((chunksOf e.va e.n (e.n / 4096 + 2) 0).filter fun c => !(e.pas.any fun p => decide (p.1 = c.1))).filterMap fun c =>
      (meet (e.va + c.1, c.2) (d.va, d.bytes.length)).map fun q => (q.1 - e.va, d.pa + (q.1 - d.va), q.2))

/-- The staged copies of tile `t` patched with what the deltas of its region changed (R213). -/
def State.patchTile (s : State) (deltas : List (Nat × Delta)) (t : Nat) : State :=
  (s.tile t).pfNext.foldl (fun s e =>
    deltas.foldl (fun s d =>
      (e.changed d.2).foldl (fun s q =>
        (s.land t e.dst q.1 q.2.1 q.2.2).modTile t fun tl =>
          (runsOf e.dst q.1 q.2.2).foldl (fun tl p => tl.fillFe p.1 p.2) tl) s) s) s

/-- Steps 3 and 4 of R177 at every module of the region. -/
def State.commitHbm (s : State) (r : Region) : State :=
  r.parts.foldl (fun s p =>
    let l := s.writerOrder r p.m
    p.tiles.foldl (fun s t => s.patchTile l t) (s.applyDeltas r p.m)) s

/-! ## Commit: messages and spawn requests (R302-R305) -/

/-- A message put into mailbox `q` of a tile, if its count is below 64. -/
def Tile.publish (tl : Tile) (src : Nat) (q : Fin 4) (bs : List Byte) : Option Tile :=
  let n := (tl.cur.mbCount[q]).toNat
  if 64 ≤ n then none
  else
    let m := ((tl.cur.mbHead[q]).toNat + n) % 64
    let slot := 64 * q.val + m
    some { tl with
      mbx := tl.mbx.write (64 * slot) bs
      mbSrc := kvSet tl.mbSrc slot src
      badMb := tl.badMb.filter fun x => decide (x ≠ (q.val, m))
      cur := { tl.cur with mbCount := tl.cur.mbCount.set q (tl.cur.mbCount[q] + 1) } }

/-- The strand slots that spawn requests can still take. -/
def Tile.slotsLeft (tl : Tile) : Nat :=
  ((List.finRange 10).filter fun a => decide (a.val < 8) && decide ((tl.cur.agents[a]).st = .free)).length - tl.spawns.length

/-- One outbox entry at a commit: its destination takes it, or it stays held. -/
def State.offer (s : State) (src : Nat) (o : OutEntry) : Option State :=
  let dst := s.tile o.dst
  if o.spawn then
    if dst.slotsLeft = 0 then none else some (s.setTile o.dst { dst with spawns := dst.spawns ++ [o] })
  else (dst.publish src ⟨o.prio % 4, Nat.mod_lt _ (by decide)⟩ o.data).map fun tl => s.setTile o.dst tl

/-- The outbox of a tile at a commit: the entries that stay held, and the state after the others were taken. -/
def State.offers (s : State) (src : Nat) : List OutEntry → List OutEntry × State
  | [] => ([], s)
  | o :: rest =>
    match s.offer src o with
    | some s1 => s1.offers src rest
    | none => let r := s.offers src rest; (o :: r.1, r.2)

/-- Step 5 of R177: the offers of every tile, in ascending system tile address. -/
def State.commitMessages (s : State) (r : Region) : State :=
  let tiles := r.tiles.foldl natInsert []
  let s0 := tiles.foldl (fun s t => s.modTile t fun tl => { tl with spawns := [] }) s
  tiles.foldl (fun s t =>
    let q := s.offers t (s.tile t).cur.outbox
    q.2.modTile t fun tl => { tl with cur := { tl.cur with outbox := q.1 }, offered := [] }) s0

/-- The entries held in the outboxes of a die (R306). -/
def State.heldOn (s : State) (d : Nat) : Nat :=
  (s.tiles.filter fun q => decide (dieOfTile q.1 = d)).foldl (fun n q => n + q.2.cur.outbox.length) 0

/-- At the last commit of a region, what is held and the spawn requests taken are discarded and counted (R305): an entry on
the die of the tile whose outbox holds it, a taken request on the die of the tile that took it (DESIGN CHOICE, notes/assumptions/31.md). -/
def State.discardHeld (s : State) (r : Region) : State :=
  r.tiles.foldl (fun s t =>
    let tl := s.tile t
    let n := tl.cur.outbox.length + tl.spawns.length
    (s.setTile t { tl with cur := { tl.cur with outbox := [] }, spawns := [] }).modDie (dieOfTile t) fun x =>
      { x with ex := { x.ex with drop := x.ex.drop + BitVec.ofNat 64 n } }) s

/-! ## Commit: streams, Firefly, counters, the launch port (R198, R218, R329, R350, R401) -/

/-- One `croute` or `cmark` of a tile applied to its die (R350). -/
def State.applyRoute (s : State) (t : Nat) (q : RouteOp) : State :=
  s.modDie (dieOfTile t) fun x =>
    let e := x.lk.entry q.stream
    { x with lk := { x.lk with router := kvSet x.lk.router q.stream (match q.value with | some v => routeEntry e v | none => markEntry e) } }

/-- Every `croute`, then every marker, in ascending system tile address and issue order. -/
def State.commitRoutes (s : State) (r : Region) : State :=
  let tiles := r.tiles.foldl natInsert []
  let pass (s : State) (p : RouteOp → Bool) : State :=
    tiles.foldl (fun s t => ((s.tile t).routes.filter p).foldl (fun s q => s.applyRoute t q) s) s
  pass (pass s fun q => q.value.isSome) fun q => q.value.isNone

/-- The 16 atoms of a launch port of module `m` read, and those with `GO` whose queue has room appended and cleared (R401). -/
def State.scanPort (s : State) (m lport : Nat) : State :=
  if lport = 0 then s
  else
    (List.finRange 16).foldl (fun (s : State) (q : Fin 16) =>
      let pa := lport + 16 * q.val
      let v := s.hbmNat m pa 8
      match s.hbmBad m pa 16 with
      | some _ => s.logBad (16 * m) m pa 16
      | none =>
        if bitOf v 63 && decide (((s.module m).queues[q]).waiting.length < 64) then
          (s.modModule m fun x => { x with queues := x.queues.set q { x.queues[q] with waiting := x.queues[q].waiting ++ [fld v 0 40] } }).setHbm m
            pa (List.replicate 16 0)
        else s) s

/-- The commit actions that the tiles of a region share, made when the root has decided (R177, R401). -/
def State.commitShared (s : State) (r : Region) : State :=
  let s1 := ((s.commitHbm r).commitMessages r).commitRoutes r
  let s2 := r.dies.foldl (fun s d => s.modDie d fun x => { x with
    ff := x.ff.commit r.id
    qd := { x.qd with commit := x.qd.commit + 1 }
    ex := { x.ex with held := BitVec.ofNat 16 (s.heldOn d) } }) s1
  let s3 := r.tiles.foldl (fun s t => s.modTile t fun tl => { tl with deltas := [], routes := [] }) s2
  r.parts.foldl (fun s p => s.scanPort p.m r.fields.lport)
    (s3.modRegion r.serial fun x => { x with hdEff := s3.deltaSizes (r.parts.map fun p => p.m) })

/-! ## Seal arrivals and restore done (R170, R185, R188, R193, R400, R404) -/

/-- The seal commit: the commit actions, then the end of the region, a hold, or the next release. -/
def State.sealCommit (s : State) (r : Region) : State :=
  let done := r.commits + 1
  let hold := r.holdReq || s.headHolds r done
  let s1 := (r.parts.foldl (fun s p => s.noteHeads p.m) s).commitShared r
  if r.all r.endedTiles then
    let s2 := r.dies.foldl (fun s d => s.modDie d fun x => { x with ex := { x.ex with held := BitVec.ofNat 16 (s.heldOn d) } })
      (s1.discardHeld r)
    (s2.sendDown r (r.packet s.clk 3 0 r.ssn 0 0 0)).modRegion r.serial fun x => { x with phase := .ending, tryN := 0, abortCause := 0 }
  else if hold then
    ((s1.sendDown r (r.packet s.clk 3 0 r.ssn 0 0 0)).modRegion r.serial fun x => { x with
      phase := .held, ssn := x.ssn + 1, tryN := 0, holdReq := false, commits := 0, arrived := [] }).emitAll r 5 (r.ssn + 1).toNat 0 0
        fun _ => 0
  else (s1.modRegion r.serial fun x => { x with tryN := 0, commits := done }).releaseAll r 0 (r.ssn + 1)

/-- SEAL_ARRIVAL (R168, R170, R188, R193, R400, R404): a seal arrival reaches the root. -/
def execSealArrival (i : Nat) (s : State) : Out :=
  match s.takeUp i 1 with
  | none => .next s
  | some (u, r, s1) =>
    if r.phase ≠ .sealing ∨ u.ssn ≠ r.ssn then .next (s1.outrank r u)
    else if u.abort then .next (s1.decideAbort r 1 u.cause u.tile)
    else
      let arrived := natInsert r.arrived u.src
      if r.all arrived then .next (s1.sealCommit r)
      else .next (s1.modRegion r.serial fun x => { x with arrived := arrived })

/-- RESTORE_DONE (R170, R185, R188): a restore done reaches the root; the last one releases the re-run or stops the region. -/
def execRestoreDone (i : Nat) (s : State) : Out :=
  match s.takeUp i 2 with
  | none => .next s
  | some (u, r, s1) =>
    if r.phase ≠ .restoring ∨ u.ssn ≠ r.ssn then .next s1
    else
      let arrived := natInsert r.arrived u.src
      let lost := r.lost || u.lost
      if !r.all arrived then .next (s1.modRegion r.serial fun x => { x with arrived := arrived, lost := lost })
      else if lost then .next (s1.regionFault r 0x13 r.abortTile)
      else if r.tryN ≤ r.fields.retry then .next (s1.releaseAll r 1 r.ssn)
      else .next (s1.regionFault r r.abortCause r.abortTile)

/-- The module of a region on one module has tripped: its root is silent (R425). -/
def State.rootSilent (s : State) (r : Region) : Bool := r.nmod ≤ 1 && r.parts.any fun p => (s.module p.m).tripped

/-- The modules of a region from none of whose tiles a restore done came, those among them that were reset: the silent ones (R358). -/
def Region.silent (r : Region) : List Nat :=
  ((r.parts.filter fun p => !(p.tiles.any fun t => r.arrived.contains t)).map fun p => p.m) ++ r.resetMods

/-- Silent modules declared dead: the pod no longer forwards to them, and a survivor tells the host (R358, R417). Firmware makes the
declaration; this model makes it with the stop (DEDUCED, notes/assumptions/50.md). -/
def State.declareDead (s : State) (r : Region) : State :=
  let dead := if 1 < r.nmod then r.silent else []
  match (r.parts.map fun p => p.m).find? fun m => !dead.contains m with
  | none => s
  | some m => dead.foldl (fun s k => (s.modModule k fun x => { x with podDead := true }).report m 7 r.id.toNat r.ssn.toNat 0 0 k) s

/-- ROOT_TIMEOUT (R187): the region's timeout has elapsed before the seal decision, or before every restore done came. -/
def execRootTimeout (k : Nat) (s : State) : Out :=
  match s.region? k with
  | none => .next s
  | some r =>
    if s.clk < r.timer + 4 * r.fields.tmo ∨ s.rootSilent r then .next s
    else if r.phase = .closing then .next (s.decideAbort r 0 0x15 0)
    else if r.phase = .sealing then .next (s.decideAbort r 1 0x15 0)
    else if r.phase = .restoring then .next ((s.regionFault r 0x15 0).declareDead r)
    else .next s

end Sys2Proof.Machine
end

