-- ==== Sys2Proof/Machine/Csr.lean ====
section
/-! DEFINITION. The CSRs 0x000-0x2FF as an agent and the tile window read and write them (R65, R98, R122, R197, R247, R267,
R397). -/

namespace Sys2Proof.Machine

/-! ## The values -/

/-- `CYCLE` (R122): the clk since the module's reset. -/
def State.cycle (s : State) (m : Nat) : W := BitVec.ofNat 64 (s.clk - (s.module m).resetClk)

/-- The per-strand CSRs that every core type has (R122). -/
def State.csrAgent (s : State) (w : Who) (n : Nat) : Option W :=
  let g := s.agentOf w
  if n = 0x000 then some (BitVec.ofNat 64 (whoIndex w))
  else if n = 0x001 then some (BitVec.ofNat 64 (g.causeCode.toNat + g.causeInh.toNat * 256))
  else if n = 0x002 then some g.epc
  else if n = 0x003 then some g.faddr
  else if n = 0x004 then some g.tvec
  else if n = 0x007 then some (BitVec.ofNat 64 (g.wdogLimit.toNat + s.wdogCount g * 2 ^ 32))
  else if n = 0x008 then some g.scratch
  else if n = 0x100 then
    some (match w.kind with | .work => 0 | .haul => 1 | .shape => 2 | .service => 3)
  else if n = 0x101 then some (s.cycle (whoDie w / 16))
  else if n = 0x102 then
    some (match w with | .tile t a => (s.tile t).retired[coreIx a] | .svc d c => (s.die d).svc[c].retired)
  else none

/-- `LIVE` (R111, R122): the strands that are not FREE. -/
def Tile.live (tl : Tile) : Nat :=
  (List.finRange 10).foldl (fun v a => if a.val < 8 ∧ (tl.cur.agents[a]).st ≠ .free then v + 2 ^ a.val else v) 0

/-- `VSUSE` (R197): the lines taken; after a release, until the start instant, those of the superstep that sealed. -/
def Tile.vsuse (tl : Tile) : Nat := tl.vs.length + tl.vsHeld

/-- Bound `i` of the window pairs, `WLO0` first (R98). -/
def winIx (n : Nat) : Fin 8 := ⟨(n - 0x201) % 8, Nat.mod_lt _ (by decide)⟩

/-- The per-tile CSRs (R65, R397). -/
def Tile.csr (tl : Tile) (t n : Nat) : Option W :=
  if n = 0x200 then some (tl.cur.vmask.setWidth 64)
  else if 0x201 ≤ n ∧ n ≤ 0x208 then some (BitVec.ofNat 64 ((tl.cur.win[winIx n]).toNat * 16))
  else if n = 0x209 then some (tl.slot.setWidth 64)
  else if n = 0x20A then some (tl.mshWin.setWidth 64)
  else if n = 0x20B then some (BitVec.ofNat 64 tl.mshCnt)
  else if n = 0x20C then some (BitVec.ofNat 64 tl.mshLim)
  else if n = 0x20D then some (BitVec.ofNat 64 t)
  else if n = 0x20E then some (BitVec.ofNat 64 (tl.region.toNat + tl.inReg.toNat * 2 ^ 20 + tl.space.toNat * 2 ^ 32))
  else if n = 0x20F then some (BitVec.ofNat 64 tl.vsuse)
  else if n = 0x210 then some (BitVec.ofNat 64 tl.accown)
  else none

/-- The CSR of number `n` below 0x300 as agent `a` of tile `t` reads it; none where its core type has no such CSR. -/
def State.csrTile (s : State) (t : Nat) (a : Fin 10) (n : Nat) : Option W :=
  let w : Who := .tile t a
  let tl := s.tile t
  match s.csrAgent w n with
  | some v => some v
  | none =>
    if n = 0x005 then some (tl.ssnum.setWidth 64)
    else if n = 0x006 then if w.kind = .work then some ((tl.cur.agents[a]).prio.setWidth 64) else none
    else if n = 0x103 then if w.kind = .shape then some (BitVec.ofNat 64 tl.cur.srkey.toNat) else none
    else if n = 0x104 then if w.kind = .shape then some (BitVec.ofNat 64 (tl.cur.srkey.toNat / 2 ^ 64)) else none
    else if n = 0x105 then if w.kind = .work then some (BitVec.ofNat 64 tl.live) else none
    else tl.csr t n

/-- The CSR of number `n` below 0x300 as an agent reads it. -/
def State.csrOf (s : State) (w : Who) (n : Nat) : Option W :=
  match w with
  | .tile t a => s.csrTile t a n
  | .svc _ _ => s.csrAgent w n

/-! ## Writes -/

/-- A CSR below 0x300 that is read-only (R65). -/
def csrReadOnly (n : Nat) : Bool :=
  ([0x000, 0x005, 0x100, 0x101, 0x102, 0x105, 0x209, 0x20A, 0x20B, 0x20C, 0x20D, 0x20E, 0x20F, 0x210] : List Nat).contains n

/-- A write of a per-strand CSR (R122, R135). -/
def Agent.putCsr (g : Agent) (n : Nat) (v : W) : Agent :=
  if n = 0x001 then { g with causeCode := v.setWidth 8, causeInh := decide (v.fld 8 1 = 1) }
  else if n = 0x002 then { g with epc := v }
  else if n = 0x003 then { g with faddr := v }
  else if n = 0x004 then { g with tvec := v }
  else if n = 0x006 then { g with prio := v.setWidth 3 }
  else if n = 0x007 then { g with wdogLimit := v.setWidth 32 }
  else if n = 0x008 then { g with scratch := v }
  else g

/-- A write of a per-core or per-tile CSR (R65, R66, R93, R98, R247). -/
def Tile.putCsr (tl : Tile) (n : Nat) (v : W) : Tile :=
  let k := tl.cur.srkey.toNat
  { tl with cur :=
      if n = 0x103 then { tl.cur with srkey := BitVec.ofNat 128 (k / 2 ^ 64 * 2 ^ 64 + v.toNat) }
      else if n = 0x104 then { tl.cur with srkey := BitVec.ofNat 128 (k % 2 ^ 64 + v.toNat * 2 ^ 64) }
      else if n = 0x200 then { tl.cur with vmask := v.setWidth 31 }
      else if 0x201 ≤ n ∧ n ≤ 0x208 then { tl.cur with win := tl.cur.win.set (winIx n) (BitVec.ofNat 17 (v.fld 4 17)) }
      else tl.cur }

/-- A write of a CSR below 0x300 by an agent that has it and may write it. DESIGN CHOICE: where R66 lets the other agents of the tile
see a per-core or per-tile CSR at any time up to the writer's next release, they see it at once here (notes/assumptions/7.md). -/
def State.putCsr (s : State) (w : Who) (n : Nat) (v : W) : State :=
  if n < 0x100 then s.modAgent w fun g => g.putCsr n v
  else
    match w with
    | .tile t _ => s.modTile t fun tl => tl.putCsr n v
    | .svc _ _ => s

end Sys2Proof.Machine
end

