-- ==== Sys2Proof/Machine/Region.lean ====
section
/-! DEFINITION. The launch unit and the region commands (R389-R406, R435, R436): starting the head of a launch queue, the
first release, launch joins, `RCTL`. -/

namespace Sys2Proof.Machine

/-! ## Starting a region (R394, R399) -/

/-- The context an agent of a launched tile starts with (R394). -/
def launchAgent (pc k n pa : Nat) (prio : BitVec 3) : Agent :=
  { Agent.reset with
    st := .synced
    pc := BitVec.ofNat 64 (pc / 4 * 4)
    x := ((Agent.reset.x.set 3 (BitVec.ofNat 64 k)).set 4 (BitVec.ofNat 64 n)).set 5 (BitVec.ofNat 64 pa)
    prio := prio }

/-- The agents of a launched tile (R394): the strands of `SMASK` and both harts. -/
def launchAgents (e : MapEntry) (k n pa prio : Nat) : Vector Agent 10 :=
  Vector.ofFn fun a : Fin 10 =>
    if a.val = 8 then launchAgent e.hpc k n pa 0
    else if a.val = 9 then launchAgent e.xpc k n pa 0
    else if bitOf e.smask a.val then launchAgent e.spc k n pa (BitVec.ofNat 3 prio)
    else Agent.reset

/-- Entries of the tile's page-fetch list enter the queue as long as it has room. -/
def Tile.feedAll (tl : Tile) : Tile := (List.range 16).foldl (fun tl _ => tl.feedLaunch) tl

/-- Tile `k` of a map set up for its region (R394). -/
def State.launchTile (s : State) (m pa : Nat) (f : RcbFields) (q : MapEntry × Nat) : State :=
  let e := q.1
  let old := s.tile e.tile
  let cur := { TileVer.reset with
    agents := launchAgents e q.2 (s.rcbNtiles m pa) pa f.prio
    vmask := BitVec.ofNat 31 f.vmask }
  let tl := { Tile.reset with
    cur := cur, shadow := cur
    tm := Memory.empty.write 0 (s.hbm m e.img e.imgLen)
    node := .seal
    vmaskEff := BitVec.ofNat 31 f.vmask
    region := s.rcbRegion m pa, inReg := true, space := BitVec.ofNat 12 f.space
    ssnum := BitVec.ofNat 48 f.ssn0
    slot := BitVec.ofNat 6 e.slot
    l1 := old.l1, retired := old.retired
    launchPf := (s.pflOf m e).map Prod.snd
    launching := true }
  s.setTile e.tile tl.feedAll

/-- A Firefly context of `f.ffnrows` rows made on die `d`, the `j`-th of the region's dies on its module (R309, R394). Where the
unallocated rows do not lie together, or all 16 contexts are in use, the region has none there (DEDUCED, notes/assumptions/36.md):
R399 asks for the number of rows only. -/
def State.createCtx (s : State) (region : BitVec 20) (f : RcbFields) (q : Nat × Nat) : State :=
  s.modDie q.1 fun x =>
    match x.ff.freeRows f.ffnrows, x.ff.freeCtx with
    | some r, some i =>
      let c := { FfContext.reset with
        region := region, frow := BitVec.ofNat 8 r, nrows := BitVec.ofNat 9 f.ffnrows
        gbase := BitVec.ofNat 20 (f.ffgbase + 65536 * q.2) }
      { x with ff := { x.ff with ctxs := x.ff.ctxs.set i c }.initCtx i }
    | _, _ => x

/-- A region that has not started: its launch begins. -/
def newRegion (serial : Nat) (id : BitVec 20) (nmod : Nat) (f : RcbFields) (parts : List Part) (clk : Nat) (hd : List (Nat × Nat)) : Region where
  serial := serial
  id := id
  nmod := nmod
  fields := f
  parts := parts
  phase := .launching
  ssn := BitVec.ofNat 48 f.ssn0
  tryN := 0
  arrived := []
  endedTiles := []
  op := none
  operand := 0
  result := 0
  abortCause := 0
  abortTile := 0
  abortPhase := 0
  abortCycle := 0
  lost := false
  timer := clk
  firstJoin := none
  joinSsn := []
  gone := false
  resetMods := []
  holdReq := false
  commits := 0
  hdEff := hd

/-- The start of several modules that a launch of module `m` joins: a region of the id still launching, with no part on the
module (R396). -/
def State.joinable (s : State) (m : Nat) (id : BitVec 20) : Option Region :=
  s.regions.find? fun r =>
    decide (r.id = id) && decide (r.phase = .launching) && decide (1 < r.nmod) && decide (r.parts.length < r.nmod) &&
      !(r.parts.any fun p => decide (p.m = m))

/-- A launch of module `m` recorded: in the start it joins, or in a new one. The answer is the region's serial number. -/
def State.openRegion (s : State) (p : Part) (id : BitVec 20) (f : RcbFields) : Nat × State :=
  match if 1 < p.nmod then s.joinable p.m id else none with
  | some r =>
    (r.serial, s.modRegion r.serial fun x => { x with parts := x.parts ++ [p], hdEff := x.hdEff ++ s.deltaSizes [p.m] })
  | none =>
    (s.nextSerial, { s with
      nextSerial := s.nextSerial + 1
      regions := s.regions ++ [newRegion s.nextSerial id p.nmod f [p] s.clk (s.deltaSizes [p.m])] })

/-- The head of queue `q` of module `m`, an RCB at `pa`, starts (R394, R399). -/
def State.launch (s : State) (m : Nat) (q : Fin 16) (pa : Nat) : State :=
  let chain := s.rcbChain m 9 pa
  let fs := s.rcbFields m chain
  let f := fs.headD rcbDefaults
  let id := s.rcbRegion m pa
  let map := s.rcbMap m pa
  let tiles := map.map fun e => e.tile
  let part : Part := { m := m, tiles := tiles, queue := q.val, rcb := pa, nmod := s.rcbNmod m pa, chain := chainBudgets chain fs,
                       joined := false, launchClk := s.clk }
  let s1 := map.zipIdx.foldl (fun s e => s.launchTile m pa f e) s
  let s2 := if f.ffnrows = 0 then s1 else (diesOf tiles).zipIdx.foldl (fun s d => s.createCtx id f d) s1
  let o := s2.openRegion part id f
  (o.2.modModule m fun x => { x with
    queues := x.queues.set q { waiting := x.queues[q].waiting.drop 1, cur := some o.1 }
    lastQ := q.val }).report m 1 id.toNat f.ssn0 0 0 pa

/-- A join that votes abort, of a module whose launch was refused or stopped (R393, R396, R435). It is lost where the scale-out link
that carries the module's barrier packets is not up (R437), and a silent module sends none (R425). -/
def State.abortJoin (s : State) (m : Nat) (id : BitVec 20) (nmod ssn0 : Nat) (f : RcbFields) : State :=
  if nmod ≤ 1 || !s.podUp m || !(s.module m).alive then s
  else
    let o :=
      match s.joinable m id with
      | some r => (r.serial, s)
      | none =>
        (s.nextSerial, { s with
          nextSerial := s.nextSerial + 1, regions := s.regions ++ [newRegion s.nextSerial id nmod f [] s.clk []] })
    { o.2 with up := o.2.up ++ [{ kind := 3, region := o.1, ssn := BitVec.ofNat 48 ssn0, abort := true, cause := 0, op := none,
                                  operand := BitVec.ofNat 64 nmod, tile := 0, src := m, ended := false, lost := false }] }

/-- The refusal of the head of queue `q`, an RCB at `pa`, for what stands at `bad` (R393). -/
def State.refuseLaunch (s : State) (m : Nat) (q : Fin 16) (pa bad : Nat) : State :=
  let f := (s.rcbFields m (s.rcbChain m 9 pa)).headD rcbDefaults
  let s1 := s.modModule m fun x => { x with queues := x.queues.set q { x.queues[q] with waiting := x.queues[q].waiting.drop 1 } }
  let s2 := match s.hbmBad m bad 8 with | some _ => s1.logHbm (16 * m) bad | none => s1
  (s2.report m 4 (s.rcbRegion m pa).toNat f.ssn0 0 0 bad).abortJoin m (s.rcbRegion m pa) (s.rcbNmod m pa) f.ssn0 f

/-- The waiting heads of a module's queues that no region blocks, with their queues, starting after the queue that started
last (R399). -/
def State.openHeads (s : State) (m : Nat) : List (Fin 16 × Nat) :=
  let x := s.module m
  (List.range 16).filterMap fun i =>
    let q : Fin 16 := ⟨(x.lastQ + 1 + i) % 16, Nat.mod_lt _ (by decide)⟩
    match x.queues[q].cur, x.queues[q].waiting.head? with
    | none, some pa => some (q, pa)
    | _, _ => none

/-- The resolved `PRIO` of a head. -/
def State.headPrio (s : State) (m pa : Nat) : Nat := ((s.rcbFields m (s.rcbChain m 9 pa)).headD rcbDefaults).prio

/-- The first head of lowest `PRIO`. -/
def State.bestHead (s : State) (m : Nat) : List (Fin 16 × Nat) → Option (Fin 16 × Nat)
  | [] => none
  | h :: t =>
    match s.bestHead m t with
    | none => some h
    | some g => if s.headPrio m g.2 < s.headPrio m h.2 then some g else some h

/-- The head that the launch unit refuses, with what stands at its place in HBM, or none (R393). -/
def State.refused (s : State) (m : Nat) : Option ((Fin 16 × Nat) × Nat) :=
  (s.openHeads m).findSome? fun h => (s.launchCheck m h.2).map fun bad => (h, bad)

/-- The head that the launch unit starts where it refuses none (R399). -/
def State.toStart (s : State) (m : Nat) : Option (Fin 16 × Nat) := s.bestHead m ((s.openHeads m).filter fun h => s.startable m h.2)

/-- What the launch unit does with the heads of its queues (R393, R399). -/
def State.launchTurn (s : State) (m : Nat) : State :=
  match s.refused m with
  | some r => s.refuseLaunch m r.1.1 r.1.2 r.2
  | none =>
    match s.toStart m with
    | some h => s.launch m h.1 h.2
    | none => s

/-- REGION_LAUNCH (R393, R394, R398, R399, R426): the launch unit refuses a head that fails its checks, or starts a startable one;
not before the boot ROM has set `BOOTSTAT.OK`. A start while remaps are not replayed loses their rows first: what the launch unit then reads of
them is unspecified, and it makes its checks on that (R1, R385). -/
def execRegionLaunch (m : Nat) (s : State) : Out :=
  if !(s.module m).alive || !(s.module m).bootOk then .next s
  else if (s.refused m).isNone && (s.toStart m).isSome then .next ((s.loseRows m).launchTurn m)
  else .next (s.launchTurn m)

/-! ## Tiles set, stopped launches, joins (R395, R396, R435) -/

/-- The part of a region on a module. -/
def Region.partOn (r : Region) (m : Nat) : Option Part := r.parts.find? fun p => decide (p.m = m)

/-- A launch stops on one module with a cause and a tile (R435). -/
def State.stopLaunch (s : State) (r : Region) (p : Part) (cause tile : Nat) : State :=
  let s1 := p.tiles.foldl (fun s t => s.voidRecords t) s
  ((s1.endPart r p).report p.m 3 r.id.toNat r.fields.ssn0 cause tile 0).abortJoin p.m r.id p.nmod r.fields.ssn0 r.fields

/-- A module's join meets a failed link: the tiles of its map record cause 0x14, which stops the launch there (R435, R437). -/
def State.joinFailed (s : State) (r : Region) (p : Part) : State := p.tiles.foldl (fun s t => s.podFailed r t) s

/-- LAUNCH_TILES_SET (R395, R396, R435, R437): every tile of the module's map is set: the first release, or the module's join. A
cause that a chunk, an `fqres` or a failed link gave stops the launch. A module that is silent sends nothing (R425). -/
def execLaunchTilesSet (m k : Nat) (s : State) : Out :=
  match s.region? k with
  | none => .next s
  | some r =>
    match r.partOn m with
    | none => .next s
    | some p =>
      if r.phase ≠ .launching ∨ p.joined ∨ (s.module m).alive = false then .next s
      else
        match p.tiles.findSome? fun t => ((s.tile t).recorded.head?).map fun c => (t, c.code) with
        | some q => .next (s.stopLaunch r p q.2 q.1)
        | none =>
          if !(p.tiles.all fun t => (s.tile t).isSet) then .next s
          else if p.nmod ≤ 1 then .next (s.releaseAll r 0 r.ssn)
          else if !s.podUp m then .next (s.joinFailed r p)
          else
            let u : Up := { kind := 3, region := k, ssn := (s.tile (p.tiles.headD 0)).ssnum, abort := false, cause := 0, op := none,
                            operand := BitVec.ofNat 64 p.nmod, tile := 0, src := m, ended := false, lost := false }
            let s1 := s.modRegion k fun x => { x with parts := x.parts.map fun y => if y.m = m then { y with joined := true } else y }
            .next { s1 with up := s1.up ++ [u] }

/-- LAUNCH_TIMEOUT (R435): the tiles of a module's map are not all set within `TMO`. -/
def execLaunchTimeout (m k : Nat) (s : State) : Out :=
  match s.region? k with
  | none => .next s
  | some r =>
    match r.partOn m with
    | none => .next s
    | some p =>
      if r.phase ≠ .launching ∨ p.joined ∨ (s.module m).alive = false ∨ s.clk < p.launchClk + 4 * r.fields.tmo then .next s
      else
        match p.tiles.find? fun t => !(s.tile t).isSet with
        | some t => .next (s.stopLaunch r p 0x15 t)
        | none => .next s

/-- The root stops a start (R396): kind 3 with cause 0x15 to every module that joined. The modules that have not joined go on
without them. -/
def State.stopStart (s : State) (r : Region) : State :=
  let gone := r.parts.filter fun p => r.arrived.contains p.m
  let left := r.parts.filter fun p => !r.arrived.contains p.m
  let r1 := { r with serial := s.nextSerial, parts := gone, phase := .ending, abortCause := 0x15, arrived := [] }
  let rest := s.regions.flatMap fun x =>
    if x.serial ≠ r.serial then [x]
    else if left.isEmpty then []
    else [{ x with parts := left, arrived := [], firstJoin := none, joinSsn := [] }]
  let s1 := { s with
    nextSerial := s.nextSerial + 1
    regions := rest ++ (if gone.isEmpty then [] else [r1])
    up := if left.isEmpty then s.up.filter fun u => decide (u.region ≠ r.serial) else s.up }
  s1.sendDown r1 (r1.packet s.clk 3 0 (BitVec.ofNat 48 r.fields.ssn0) 0x15 0 0)

/-- LAUNCH_JOIN (R396): a join reaches the root, which starts or stops a region of several modules. -/
def execLaunchJoin (i : Nat) (s : State) : Out :=
  match s.takeUp i 3 with
  | none => .next s
  | some (u, r, s1) =>
    if r.phase ≠ .launching then .next s1
    else if u.abort then .next (s1.stopStart r)
    else
      let r1 := { r with
        arrived := natInsert r.arrived u.src
        firstJoin := some (r.firstJoin.getD s.clk)
        joinSsn := r.joinSsn ++ [u.ssn.toNat]
        operand := if r.joinSsn.isEmpty then u.operand else r.operand }
      let s2 := s1.modRegion r.serial fun _ => r1
      if r1.joinSsn.any (fun n => decide (n ≠ u.ssn.toNat)) ∨ r1.operand ≠ u.operand then .next (s2.stopStart r1)
      else if r1.arrived.length = u.operand.toNat then .next (s2.releaseAll { r1 with operand := 0 } 0 u.ssn)
      else .next s2

/-- JOIN_TIMEOUT (R396): `NMOD` joins have not reached the root within `TMO` of the first. -/
def execJoinTimeout (k : Nat) (s : State) : Out :=
  match s.region? k with
  | none => .next s
  | some r =>
    match r.phase, r.firstJoin with
    | .launching, some c => if s.clk < c + 4 * r.fields.tmo then .next s else .next (s.stopStart r)
    | _, _ => .next s

/-! ## RCTL (R403-R406, R436) -/

/-- The region that a command of die `d` names: one with tiles on the die's module, else one elsewhere (R403). -/
def State.named (s : State) (d : Nat) (id : BitVec 20) : Option Region :=
  match s.regions.find? fun r => decide (r.id = id) && (r.partOn (modOfDie d)).isSome with
  | some r => some r
  | none => s.regions.find? fun r => decide (r.id = id) && !r.parts.isEmpty

/-- Every tile of a region has stopped. -/
def State.stoppedAll (s : State) (r : Region) : Bool := r.parts.all fun p => s.allStopped p

/-- The region is held or stopped, and every tile is quiescent. -/
def State.atRest (s : State) (r : Region) : Bool := (decide (r.phase = .held) || decide (r.phase = .stopped)) && s.stoppedAll r

/-- The command recorded in `RCTL` and `RSTAT`. -/
def State.noteCmd (s : State) (d op : Nat) (id : BitVec 20) (refused : Bool) : State :=
  s.modDie d fun x => { x with ctl := { x.ctl with
    rctl := BitVec.ofNat 23 (id.toNat + op % 8 * 2 ^ 20), rstatRegion := id, rstatRefused := refused } }

/-- A `ctxsv` or `ctxld` of one of a region's tiles runs (R403): of a tile that belongs to it now, or of one that an image of it goes to. -/
def State.copiesOf (s : State) (r : Region) : Bool :=
  s.copies.any fun k => decide (k.2.region = r.id) && (r.partOn k.1).isSome

/-- HOLD (R404): refused for a region that is not started, and, as every command, while a tile of the region is copied (R403). -/
def State.hold (s : State) (d : Nat) (id : BitVec 20) : State :=
  match s.named d id with
  | some r => if r.running && !s.copiesOf r then (s.modRegion r.serial fun x => { x with holdReq := true }).noteCmd d 1 id false else s.noteCmd d 1 id true
  | none => s.noteCmd d 1 id true

/-- The tiles that belong to a region leave it, those that `ctxld` gave it among them, but none of its old map that another region has now; and its Firefly contexts on its modules are invalid (R398, R405,
R408). -/
def State.emptyRegion (s : State) (r : Region) : State :=
  let of (q : Nat × Tile) : Bool := decide (q.2.region = r.id) && (r.partOn (modOfTile q.1)).isSome
  let s1 : State := { s with tiles := s.tiles.map fun (q : Nat × Tile) => (q.1, { q.2 with inReg := q.2.inReg && !of q }) }
  s1.dropContexts r.id (r.parts.flatMap fun p => diesOfModule p.m)

/-- FREE (R405): the tiles leave the region and its Firefly contexts are invalid; no command on it is in progress. -/
def State.freeRegion (s : State) (r : Region) : State :=
  (s.emptyRegion r).modRegion r.serial fun x => { x with phase := .freed, holdReq := false }

/-- FREE (R405): refused unless the region is held or stopped. -/
def State.freeCmd (s : State) (d : Nat) (id : BitVec 20) : State :=
  match s.named d id with
  | some r => if s.atRest r && !s.copiesOf r then (s.freeRegion r).noteCmd d 2 id false else s.noteCmd d 2 id true
  | none => s.noteCmd d 2 id true

/-- DISCARD (R436): the region ends, with what `ctxld` and firmware have loaded of it; its queue goes on. -/
def State.discard (s : State) (d : Nat) (id : BitVec 20) : State :=
  match s.named d id with
  | some r =>
    if (r.phase = .freed ∨ s.atRest r = true) ∧ s.copiesOf r = false then
      let s1 := s.freeRegion r
      let s2 := r.parts.foldl (fun s p => s.unblock p.m p.queue) s1
      let s3 := { s2 with regions := s2.regions.filter fun x => decide (x.serial ≠ r.serial) }
      (s3.emitAll r 2 r.ssn.toNat 0 0 fun p => p.rcb).noteCmd d 4 id false
    else s.noteCmd d 4 id true
  | none => s.noteCmd d 4 id true

/-- The conditions of R406 on the map of the RCB at `pa`, for a part of a region; the tiles of the region on other modules must be
held by it and quiescent too. -/
def State.mayResume (s : State) (r : Region) (p : Part) (pa : Nat) : Bool :=
  let map := (s.seenHbm p.m).rcbMap p.m pa
  let tiles := map.map fun e => e.tile
  let all := tiles ++ (r.parts.filter fun q => decide (q.m ≠ p.m)).flatMap fun q => q.tiles
  decide ((s.seenHbm p.m).rcbNtiles p.m pa = p.tiles.length) && tiles.all (fun t => decide (modOfTile t = p.m)) &&
    all.all (fun t =>
      let tl := s.tile t
      tl.inReg && decide (tl.region = r.id) && decide (tl.node = .stop) && tl.cur.outbox.all fun o => all.contains o.dst) &&
    (decide (r.fields.ffnrows = 0) || (diesOf tiles).all fun d => ((s.die d).ff.ctxOf r.id).isSome)

/-- One tile of a resumed region: it takes its slot, waits for its start, and the root's packet is on its way with the
`RESULT` of its image (R406); until the packet arrives no start instant is named. A tile stopped by a fault serves its page-fetch list
again. A tile of a module that has tripped does nothing (R425). -/
def State.resumeTile (s : State) (r : Region) (instant : Nat) (ssn : BitVec 48) (slot : Option Nat) (t : Nat) : State :=
  if (s.module (modOfTile t)).alive = false then s else
  (s.modTile t fun tl => { tl with
    slot := match slot with | some k => BitVec.ofNat 6 k | none => tl.slot
    node := .relwait, startAt := none, fresh := true
    pfNext := if r.phase = .stopped then tl.pfServe else tl.pfNext }).sendTo r
      { r.packet s.clk 1 0 ssn 0 0 instant with result := (s.tile t).red } t

/-- RESUME (R406). What it reads of the RCB and of the map in uncorrectable words is logged, and unspecified (R386). -/
def State.resume (s : State) (d : Nat) (id : BitVec 20) : State :=
  let m := modOfDie d
  let pa := (s.die d).ctl.rcbpa.toNat
  match (s.named d id).bind fun r => (r.partOn m).map fun p => (r, p) with
  | some (r, p) =>
    let map := (s.seenHbm m).rcbMap m pa
    let may := decide (r.phase = .freed ∨ s.atRest r = true) && !s.copiesOf r && s.mayResume r p pa
    let s := (s.noteRead d m (pa + 0x60) 16).noteRead d m ((s.seenHbm m).rcbTmap m pa) (32 * map.length)
    if may then
      let tiles := map.map fun e => e.tile
      let first := s.tile (tiles.headD 0)
      let instant := evenUp (s.clk + 4 * r.fields.guard)
      let s1 := (p.tiles.filter fun t => !tiles.contains t).foldl (fun s t =>
        s.modTile t fun tl => if tl.region = id then { tl with inReg := false } else tl) s
      let s2 := map.foldl (fun s e => s.resumeTile r instant first.ssnum (some e.slot) e.tile) s1
      let s3 := (r.parts.filter fun q => decide (q.m ≠ m)).foldl (fun s q =>
        q.tiles.foldl (fun s t => s.resumeTile r instant first.ssnum none t) s) s2
      let r1 := { r with
        phase := .closing, ssn := first.ssnum, result := first.red, tryN := 0, arrived := [], endedTiles := [], op := none,
        timer := instant, lost := false, commits := 0, holdReq := false, abortCause := 0,
        parts := r.parts.map fun q => if q.m = m then { q with tiles := tiles, rcb := pa } else q }
      let s4 := s3.modRegion r.serial fun _ => r1
      (s4.emitAll r1 6 first.ssnum.toNat 0 0 fun _ => 0).noteCmd d 3 id false
    else s.noteCmd d 3 id true
  | none => s.noteCmd d 3 id true

/-- A write of `RCTL` with `GO` (R403): `OP` 0 and 5-7 do nothing. -/
def State.rctlGo (s : State) (d op : Nat) (id : BitVec 20) : State :=
  if op = 1 then s.hold d id
  else if op = 2 then s.freeCmd d id
  else if op = 3 then s.resume d id
  else if op = 4 then s.discard d id
  else s.modDie d fun x => { x with ctl := { x.ctl with rctl := BitVec.ofNat 23 (id.toNat + op % 8 * 2 ^ 20) } }

/-- RCTL_HOLD (R404). -/
def execRctlHold (d : Nat) (region : BitVec 20) (s : State) : Out := .next (s.hold d region)
/-- RCTL_FREE (R405). -/
def execRctlFree (d : Nat) (region : BitVec 20) (s : State) : Out := .next (s.freeCmd d region)
/-- RCTL_RESUME (R406). -/
def execRctlResume (d : Nat) (region : BitVec 20) (s : State) : Out := .next (s.resume d region)
/-- RCTL_DISCARD (R436). -/
def execRctlDiscard (d : Nat) (region : BitVec 20) (s : State) : Out := .next (s.discard d region)

/-- `RSTAT` (R403): HELD, FREED and BUSY follow from the region of the last command; a HOLD is in progress while the region runs. -/
def State.rstat (s : State) (d : Nat) : W :=
  let c := (s.die d).ctl
  let r := s.named d c.rstatRegion
  let held := r.any fun (x : Region) => decide (x.phase = .held) && s.stoppedAll x
  let freed := r.any fun (x : Region) => decide (x.phase = .freed)
  let busy := r.any fun (x : Region) => x.holdReq && x.running
  BitVec.ofNat 64 (c.rstatRegion.toNat + held.toNat * 2 ^ 20 + freed.toNat * 2 ^ 21 + c.rstatRefused.toNat * 2 ^ 22 + busy.toNat * 2 ^ 23)

end Sys2Proof.Machine
end

