-- ==== Sys2Proof/Machine/Context.lean ====
section
/-! DEFINITION. Agent contexts and tile images (R407-R410): the words of an agent's context, as the image and the tile window
hold them; `ctxsv` and `ctxld`. -/

namespace Sys2Proof.Machine

/-! ## An agent's context (R410) -/

/-- The code of a state. -/
def AState.code : AState → Nat
  | .free => 0
  | .ready => 1
  | .run => 2
  | .wait _ => 3
  | .park => 4
  | .synced => 5
  | .halt => 6

/-- The state of a code. A context does not say what a waiting agent waits for; code 7 is reserved. -/
def stateOf (n : Nat) : AState :=
  if n = 1 then .ready
  else if n = 2 then .run
  else if n = 3 then .wait .drain
  else if n = 4 then .park
  else if n = 5 then .synced
  else if n = 6 then .halt
  else .free

/-- The 8 bytes at offset `o` of the context of agent `a` of tile `t`. -/
def State.ctxWord (s : State) (t : Nat) (a : Fin 10) (o : Nat) : Nat :=
  let g := (s.tile t).cur.agents[a]
  if o = 0x000 then g.pc.toNat
  else if o = 0x008 then g.st.code + g.depth.toNat * 2 ^ 16
  else if o = 0x010 then (if a.val < 8 then g.mctx.toNat else 0)
  else if 0x040 ≤ o ∧ o < 0x060 then (if a.val = 8 then fld (g.group.getD g.grpBits).toNat (8 * (o - 0x40)) 64 else 0)
  else if o = 0x060 then (if a.val = 8 ∧ g.group.isSome = true then 1 else 0)
  else if 0x100 ≤ o ∧ o < 0x200 then (g.rx (BitVec.ofNat 5 ((o - 0x100) / 8))).toNat
  else if o = 0x200 then (List.range 8).foldl (fun v i => if g.rp (BitVec.ofNat 3 i) then v + 2 ^ i else v) 0
  else if 0x400 ≤ o ∧ o < 0xC00 then fld (g.rv (BitVec.ofNat 5 ((o - 0x400) / 64))).toNat (8 * ((o - 0x400) % 64)) 64
  else if 0xC00 ≤ o ∧ o < 0x1000 then ((s.csrTile t a ((o - 0xC00) / 8)).getD 0).toNat
  else 0

/-- Bits `lo` on of a number, `len` of them, replaced. -/
def setFld (v lo len x : Nat) : Nat := v - fld v lo len * 2 ^ lo + x % 2 ^ len * 2 ^ lo

/-- The bits of a group descriptor that hold fields; every other bit is reserved, and reads 0 (R3, R337). -/
def grpMask : Rec :=
  BitVec.ofNat 256 (0x000FFFFF0FFFFFFF + 0x000FFFFF0FFFFFFF * 2 ^ 64 + 0x000FFFFF0FFFFFFF * 2 ^ 128 + 0x0003FFFF0FFFFFFF * 2 ^ 192)

/-- The context of agent `a` with the 8 bytes at offset `o` written; read-only and reserved fields keep what they hold. -/
def Agent.setCtxWord (g : Agent) (a : Fin 10) (o v : Nat) : Agent :=
  let w : W := BitVec.ofNat 64 v
  if o = 0x000 then { g with pc := BitVec.ofNat 64 (v / 4 * 4) }
  else if o = 0x008 then
    let n := fld v 0 3
    { g with
      st := if n = g.st.code then g.st else stateOf n
      depth := BitVec.ofNat 16 (fld v 16 16) }
  else if o = 0x010 then (if a.val < 8 then { g with mctx := BitVec.ofNat 12 v } else g)
  else if 0x040 ≤ o ∧ o < 0x060 then
    (if a.val = 8 then
      let r := BitVec.ofNat 256 (setFld (g.group.getD g.grpBits).toNat (8 * (o - 0x40)) 64 v) &&& grpMask
      if g.group.isSome then { g with group := some r } else { g with grpBits := r }
    else g)
  else if o = 0x060 then
    (if a.val = 8 then
      if fld v 0 1 = 1 then { g with group := some (g.group.getD g.grpBits) } else { g with group := none, grpBits := g.group.getD g.grpBits }
    else g)
  else if 0x100 ≤ o ∧ o < 0x200 then g.wx (BitVec.ofNat 5 ((o - 0x100) / 8)) w
  else if o = 0x200 then (List.range 8).foldl (fun g i => g.wp (BitVec.ofNat 3 i) (bitOf v i)) g
  else if 0x400 ≤ o ∧ o < 0xC00 then
    let r := BitVec.ofNat 5 ((o - 0x400) / 64)
    g.wv r (BitVec.ofNat 512 (setFld (g.rv r).toNat (8 * ((o - 0x400) % 64)) 64 v))
  else if 0xC00 ≤ o ∧ o < 0x1000 then
    let n := (o - 0xC00) / 8
    if n = 0x006 ∧ 8 ≤ a.val then g else g.putCsr n w
  else g

/-! ## ctxsv (R408, R409) -/

/-- The first dwords of an image. -/
def Tile.imageHead (tl : Tile) (t : Nat) : List Byte :=
  leBytes 8 (tl.region.toNat + t * 2 ^ 20 + 2 ^ 63) ++ leBytes 8 tl.ssnum.toNat ++ leBytes 8 tl.red.toNat ++
    leBytes 8 ((List.finRange 16).foldl (fun v n =>
      match tl.cur.accSt[n] with
      | .held a p => v + (a.val % 8 + p.toNat * 8) * 2 ^ (4 * n.val)
      | .free => v) 0) ++
    (List.finRange 4).flatMap (fun q => leBytes 8 ((tl.cur.mbHead[q]).toNat + (tl.cur.mbCount[q]).toNat * 2 ^ 8)) ++
    leBytes 8 (Nat.min 256 tl.cur.outbox.length)

/-- The word of an outbox entry that says where it goes. -/
def OutEntry.word (e : OutEntry) : Nat := e.dst + e.prio % 4 * 2 ^ 28 + e.spawn.toNat * 2 ^ 30 + 2 ^ 63

/-- A slot descriptor in an image: the header, the image and continuation bits, the square scale, the column scales. -/
def SlotDesc.bytes (d : SlotDesc) : List Byte :=
  let h := d.image.getD ⟨0, 0, 0, 0, 0⟩
  leBytes 8 (h.fmt + h.mode * 2 ^ 8 + h.slots * 2 ^ 12 + h.nnz * 2 ^ 16 + h.bodyLen * 2 ^ 32) ++
    [BitVec.ofNat 8 (d.image.isSome.toNat + d.cont.toNat * 2), d.scale] ++ List.replicate 6 0 ++ d.cols.take 512

/-- The full-empty bits, 8 a byte (R26). -/
def Tile.feBytes (tl : Tile) : List Byte :=
  (List.range 15872).map fun i => BitVec.ofNat 8 ((List.range 8).foldl (fun v j => if tl.full (8 * i + j) then v + 2 ^ j else v) 0)

/-- The CSRs of an image: `CYCLE` and `RETIRED` are not saved (R408). -/
def State.imageCsr (s : State) (t n : Nat) : Nat :=
  if n = 0x101 ∨ n = 0x102 then 0 else ((s.csrTile t 9 n).getD 0).toNat

/-- The parts of an image that do not hold zero throughout, with their offsets (R409). -/
def State.imageParts (s : State) (t : Nat) : List (Nat × List Byte) :=
  let tl := s.tile t
  [(0x000000, tl.imageHead t)] ++
    (List.finRange 10).map (fun (a : Fin 10) => (0x1000 + 0x1000 * a.val, (List.range 512).flatMap fun i => leBytes 8 (s.ctxWord t a (8 * i)))) ++
    [(0x00B000, (tl.cur.recW.toList ++ tl.cur.recH.toList ++ tl.cur.recS.toList).flatMap fun r => leBytes 32 r.toNat),
     (0x00B800, (List.range 512).flatMap fun i => leBytes 8 (s.imageCsr t (0x100 + i))),
     (0x00D000, tl.cur.sems.toList.flatMap fun v => leBytes 8 v.toNat),
     (0x00E000, tl.feBytes),
     (0x012000, tl.mbx.bytes 0 16384)] ++
    (tl.cur.outbox.take 256).zipIdx.map (fun (q : OutEntry × Nat) => (0x016000 + 128 * q.2, q.1.data ++ leBytes 8 q.1.word)) ++
    ((List.finRange 16).filterMap fun n =>
      match tl.cur.accSt[n] with
      | .held _ true => some (0x020000 + 8192 * n.val, tl.accBytes n.val)
      | _ => none) ++
    [(0x040000, tl.slotMem.bytes 0 262144)] ++
    (List.finRange 16).map (fun (n : Fin 16) => (0x080000 + 1024 * n.val, (tl.slotDesc[n]).bytes)) ++
    [(0x090000, tl.tm.bytes 0 Config.tmSize)]

/-- The 8-byte words of an image that hold what the tile cannot read correctly: as offsets. -/
def Tile.imageBad (tl : Tile) : List Nat :=
  ((tl.bad ++ tl.poison).flatMap fun w => [0x090000 + 16 * w, 0x090008 + 16 * w]) ++
    (tl.badSlot.flatMap fun w => [0x040000 + 16 * w, 0x040008 + 16 * w]) ++
    (tl.badAcc.flatMap fun w =>
      match tl.cur.accSt[w / 512 % 16]'(Nat.mod_lt _ (by decide)) with
      | .held _ true => [0x020000 + 16 * w, 0x020008 + 16 * w]
      | _ => []) ++
    (tl.badMb.flatMap fun q => if q.1 < 4 then (List.range 8).map fun i => 0x012000 + 64 * (64 * q.1 + q.2) + 8 * i else [])

/-- The image of tile `t` written at `pa` of module `m` (R408, R409): gaps are zero; accumulators that are not pinned are not
written. -/
def State.saveImage (s : State) (m t pa : Nat) : State :=
  let s1 := (s.setHbm m pa (List.replicate 0x20000 0)).setHbm m (pa + 0x80000) (List.replicate 0x10000 0)
  let s2 := (s.imageParts t).foldl (fun s p => s.setHbm m (pa + p.1) p.2) s1
  s2.modModule m fun x => { x with badHbm := (s.tile t).imageBad.foldl (fun l o => natInsert l ((pa + o) / 8)) x.badHbm }

/-- The checks that `ctxsv` and `ctxld` share (R407), in order. -/
def State.imageCheck (s : State) (xa xb : W) : Option (Nat × W) :=
  if xb.toNat % 4096 ≠ 0 then some (0x03, xb)
  else if hbmTop ≤ xb.toNat + 0x27FFFF then some (0x07, xb)
  else if 2 ^ 28 ≤ xa.toNat ∨ modOfTile xa.toNat ≠ modOfDie (whoDie s.turn) then some (0x07, xa)
  else if !(s.tile xa.toNat).quiescent || s.copying xa.toNat then some (0x07, xa)
  else none

/-- The copy that the executing core runs starts or, with none, has ended. -/
def State.setCopy (s : State) (k : Option ImageCopy) : State :=
  match s.turn with
  | .svc d c => s.modDie d fun x => x.setSvc c { x.svc[c] with copy := k }
  | .tile _ _ => s

/-- ctxsv (R407-R409): its checks pass and the copy starts, and the core stalls; issued again while its copy runs, the copy has ended. That
its effect comes whole at that instant is how this model takes a copy of which nothing is seen before (DESIGN CHOICE,
notes/assumptions/32.md). -/
def execCtxsv (a b : BitVec 5) (s : State) : Out :=
  s.onService (wordOf (.ctxsv a b)) fun s =>
    let t := (s.rx a).toNat
    match s.copyOf s.turn with
    | some k => ((s.setCopy none).saveImage (modOfTile k.tile) k.tile (s.rx b).toNat).doneNop
    | none =>
      match s.imageCheck (s.rx a) (s.rx b) with
      | some c => s.trap c.1 c.2
      | none => if !(s.tile t).inReg then s.trap 0x07 (s.rx a) else .next (s.setCopy (some ⟨t, (s.tile t).region, wordOf (.ctxsv a b)⟩))

/-! ## ctxld (R408, R409) -/

/-- Bytes of an image; those of uncorrectable words are unspecified. -/
def State.imgBytes (s : State) (m pa n : Nat) : List Byte := s.hbmSeen m pa n

/-- A number of an image. -/
def State.imgNat (s : State) (m pa n : Nat) : Nat := leNat (s.imgBytes m pa n)

/-- What an agent that is SYNCED completes at its next start: the `sync` at its PC. An agent of a region that never started is
SYNCED at its entry PC instead. -/
def syncAt (w : Nat) : Option SyncArg :=
  match decode w with
  | some (.sync d _ _ v o) => some ⟨d, decide (v = 1), o.toNat, 0⟩
  | _ => none

/-- An agent of an image. -/
def State.loadAgent (s : State) (m pa : Nat) (a : Fin 10) : Agent :=
  let g := (List.range 512).foldl (fun (g : Agent) i => g.setCtxWord a (8 * i) (s.imgNat m (pa + 0x1000 + 0x1000 * a.val + 8 * i) 8))
    { Agent.reset with heldFrom := s.clk }
  match g.st with
  | .synced => { g with sync := syncAt (s.hbmNat m (pa + 0x090000 + g.pc.toNat) 4) }
  | _ => g

/-- A slot descriptor of an image. -/
def State.loadDesc (s : State) (m pa : Nat) : SlotDesc :=
  let h := s.imgNat m pa 8
  let b := s.imgNat m (pa + 8) 1
  { image := if bitOf b 0 then some ⟨fld h 0 4, fld h 8 1, fld h 12 2, fld h 32 32, fld h 16 16⟩ else none
    cont := bitOf b 1
    scale := BitVec.ofNat 8 (s.imgNat m (pa + 9) 1)
    cols := s.imgBytes m (pa + 16) 512 }

/-- The holder and the pinning of accumulator `n` of an image: one that is not pinned is free. -/
def accOf (v n : Nat) : AccState :=
  if bitOf v (4 * n + 3) then .held ⟨fld v (4 * n) 3 % 10, Nat.mod_lt _ (by decide)⟩ true else .free

/-- The outbox of an image. -/
def State.loadOutbox (s : State) (m pa : Nat) : List OutEntry :=
  (List.range (Nat.min 256 (fld (s.imgNat m (pa + 0x40) 8) 0 9))).filterMap fun e =>
    let p := pa + 0x016000 + 128 * e
    let w := s.imgNat m (p + 64) 8
    if bitOf w 63 then some ⟨bitOf w 30, fld w 0 28, fld w 28 2, s.imgBytes m p 64⟩ else none

/-- The shadowed state of a tile in an image. -/
def State.loadVer (s : State) (m pa : Nat) : TileVer :=
  let rec3 (c : Nat) : Vector Rec 16 := Vector.ofFn fun n : Fin 16 => recClean (s.imgNat m (pa + 0xB000 + 0x200 * c + 32 * n.val) 32)
  let csr (n : Nat) : Nat := s.imgNat m (pa + 0xB800 + 8 * (n - 0x100)) 8
  let own := s.imgNat m (pa + 0x18) 8
  let mb (q : Fin 4) : Nat := s.imgNat m (pa + 0x20 + 8 * q.val) 8
  { agents := Vector.ofFn fun a => s.loadAgent m pa a
    recW := rec3 0, recH := rec3 1, recS := rec3 2
    sems := Vector.ofFn fun k : Fin 64 => BitVec.ofNat 16 (s.imgNat m (pa + 0xD000 + 8 * k.val) 2)
    fe := (s.imgBytes m (pa + 0xE000) 15872).zipIdx.flatMap fun q => ((List.range 8).filter fun j => bitOf q.1.toNat j).map fun j => 8 * q.2 + j
    vmask := BitVec.ofNat 31 (csr 0x200)
    win := Vector.ofFn fun i : Fin 8 => BitVec.ofNat 17 (fld (csr (0x201 + i.val)) 4 17)
    srCount := 0
    srkey := BitVec.ofNat 128 (csr 0x103 + csr 0x104 * 2 ^ 64)
    accSt := Vector.ofFn fun n : Fin 16 => accOf own n.val
    accFresh := []
    mbHead := Vector.ofFn fun q => BitVec.ofNat 6 (mb q)
    mbCount := Vector.ofFn fun q => BitVec.ofNat 7 (fld (mb q) 8 7)
    outbox := s.loadOutbox m pa }

/-- The words of `sz` bytes that hold uncorrectable bytes of an image's area of `n` bytes at `pa`. -/
def State.imgBad (s : State) (m pa n sz : Nat) : List Nat :=
  (((s.module m).badHbm.filter fun w => decide (pa ≤ 8 * w) && decide (8 * w < pa + n)).map fun w => (8 * w - pa) / sz).foldl natInsert []

/-- The space number of the region of an image: that of the region, else the image's (R397). -/
def State.imageSpace (s : State) (m pa : Nat) (id : BitVec 20) : Nat :=
  match s.regions.find? fun r => decide (r.id = id) && (r.partOn m).isSome with
  | some r => r.fields.space
  | none => fld (s.imgNat m (pa + 0xB800 + 8 * 0x10E) 8) 32 12

/-- Tile `t` loaded from the image at `pa` of module `m` (R408, R409). -/
def State.loadImage (s : State) (m t pa : Nat) : State :=
  let old := s.tile t
  let ver := s.loadVer m pa
  let id := BitVec.ofNat 20 (s.imgNat m pa 8)
  let own := s.imgNat m (pa + 0x18) 8
  let pinned := (List.range 16).filter fun n => bitOf own (4 * n + 3)
  let tl := { Tile.reset with
    cur := ver, shadow := ver, vmaskEff := ver.vmask
    tm := Memory.empty.write 0 (s.hbm m (pa + 0x090000) Config.tmSize)
    poison := s.imgBad m (pa + 0x090000) Config.tmSize 16
    acc := pinned.foldl (fun mem n => mem.write (8192 * n) (s.hbm m (pa + 0x020000 + 8192 * n) 8192)) ⟨[], [⟨0, 131072, s.free⟩]⟩
    badAcc := (s.imgBad m (pa + 0x020000) 131072 16).filter fun w => pinned.contains (w / 512)
    slotMem := Memory.empty.write 0 (s.hbm m (pa + 0x040000) 262144)
    badSlot := s.imgBad m (pa + 0x040000) 262144 16
    slotDesc := Vector.ofFn fun n : Fin 16 => s.loadDesc m (pa + 0x080000 + 1024 * n.val)
    mbx := Memory.empty.write 0 (s.hbm m (pa + 0x012000) 16384)
    badMb := (s.imgBad m (pa + 0x012000) 16384 64).map fun w => (w / 64, w % 64)
    slot := BitVec.ofNat 6 (s.imgNat m (pa + 0xB800 + 8 * 0x109) 8)
    region := id, inReg := true, space := BitVec.ofNat 12 (s.imageSpace m pa id)
    ssnum := BitVec.ofNat 48 (s.imgNat m (pa + 8) 8)
    red := BitVec.ofNat 64 (s.imgNat m (pa + 0x10) 8)
    node := .stop
    rr := old.rr, retired := old.retired, l1 := old.l1 }
  { s with free := s.free + 1 }.setTile t tl

/-- ctxld (R407-R409): its checks pass and the copy starts, and the core stalls; issued again while its copy runs, the copy has ended. An
uncorrectable word of the image is logged, that of the header where `VALID` is read (R386). -/
def execCtxld (a b : BitVec 5) (s : State) : Out :=
  s.onService (wordOf (.ctxld a b)) fun s =>
    let t := (s.rx a).toNat
    let pa := (s.rx b).toNat
    match s.copyOf s.turn with
    | some k =>
      let m := modOfTile k.tile
      (((s.setCopy none).logBad (whoDie s.turn) m (pa + 8) 0x27FFF8).loadImage m k.tile pa).doneNop
    | none =>
      match s.imageCheck (s.rx a) (s.rx b) with
      | some c => s.trap c.1 c.2
      | none =>
        let m := modOfTile t
        let head := s.imgNat m pa 8
        if (s.tile t).inReg then s.trap 0x07 (s.rx a)
        else
          let s1 := s.noteRead (whoDie s.turn) m pa 8
          if !bitOf head 63 then s1.trap 0x07 (s.rx a) else .next (s1.setCopy (some ⟨t, BitVec.ofNat 20 head, wordOf (.ctxld a b)⟩))

end Sys2Proof.Machine
end

