-- ==== Sys2Proof/Machine/Shake.lean ====
section
/-! DEFINITION. SHAKE256 (FIPS 202), which secure boot takes the digest of the signing key and the measurement with (R426). -/

namespace Sys2Proof.Machine

/-- The 25 lanes of the Keccak state, lane (x, y) at x + 5y. -/
abbrev Lanes := List W

/-- Lane (x, y), both modulo 5. -/
def keccakLane (l : Lanes) (x y : Nat) : W := l.getD (x % 5 + 5 * (y % 5)) 0

/-- The lanes given by a function of x and y. -/
def keccakLanes (f : Nat → Nat → W) : Lanes := (List.range 25).map fun i => f (i % 5) (i / 5)

/-- The rotation of lane x + 5y in the step ρ. -/
def keccakRot : List Nat :=
  [0, 1, 62, 28, 27, 36, 44, 6, 55, 20, 3, 10, 43, 25, 39, 41, 45, 15, 21, 8, 18, 2, 61, 56, 14]

/-- The round constants of the step ι. -/
def keccakRc : List W :=
  [0x0000000000000001#64, 0x0000000000008082#64, 0x800000000000808A#64, 0x8000000080008000#64, 0x000000000000808B#64,
   0x0000000080000001#64, 0x8000000080008081#64, 0x8000000000008009#64, 0x000000000000008A#64, 0x0000000000000088#64,
   0x0000000080008009#64, 0x000000008000000A#64] ++
  [0x000000008000808B#64, 0x800000000000008B#64, 0x8000000000008089#64, 0x8000000000008003#64, 0x8000000000008002#64,
   0x8000000000000080#64, 0x000000000000800A#64, 0x800000008000000A#64, 0x8000000080008081#64, 0x8000000000008080#64,
   0x0000000080000001#64, 0x8000000080008008#64]

/-- One round: θ, ρ and π, χ, ι. -/
def keccakRound (a : Lanes) (rc : W) : Lanes :=
  let c := (List.range 5).map fun x => keccakLane a x 0 ^^^ keccakLane a x 1 ^^^ keccakLane a x 2 ^^^ keccakLane a x 3 ^^^ keccakLane a x 4
  let col (x : Nat) : W := c.getD (x % 5) 0
  let t := keccakLanes fun x y => keccakLane a x y ^^^ col (x + 4) ^^^ (col (x + 1)).rotateLeft 1
  let b := keccakLanes fun x y => (keccakLane t (x + 3 * y) x).rotateLeft (keccakRot.getD ((x + 3 * y) % 5 + 5 * x) 0)
  let r := keccakLanes fun x y => keccakLane b x y ^^^ (~~~(keccakLane b (x + 1) y) &&& keccakLane b (x + 2) y)
  (r.headD 0 ^^^ rc) :: r.drop 1

/-- Keccak-f[1600]. -/
def keccakF (a : Lanes) : Lanes := keccakRc.foldl keccakRound a

/-- The bytes of a message padded to whole blocks of 136 bytes, with the suffix of SHAKE. -/
def shakePad (bs : List Byte) : List Byte :=
  let n := 136 - bs.length % 136
  bs ++ (if n = 1 then [0x9F] else [0x1F] ++ List.replicate (n - 2) 0 ++ [0x80])

/-- A block of 136 bytes absorbed. -/
def keccakAbsorb (a : Lanes) (block : List Byte) : Lanes :=
  keccakF (keccakLanes fun x y =>
    let i := x + 5 * y
    keccakLane a x y ^^^ (if i < 17 then BitVec.ofNat 64 (leNat ((block.drop (8 * i)).take 8)) else 0))

/-- The first `n` bytes of SHAKE256 of a message, `n` at most 136. -/
def shake256 (bs : List Byte) (n : Nat) : List Byte :=
  let p := shakePad bs
  let a := (List.range (p.length / 136)).foldl (fun a i => keccakAbsorb a ((p.drop (136 * i)).take 136)) (List.replicate 25 0)
  (a.flatMap fun w => leBytes 8 w.toNat).take n

end Sys2Proof.Machine
end

