-- ==== Sys2Proof/Machine/Ed448.lean ====
section
/-! DEFINITION. Ed448 (RFC 8032, section 5.2), which secure boot verifies the signature of an image with and attestation signs a report with
(R426, R427): the plain variant, with the empty context and SHAKE256 inside. -/

namespace Sys2Proof.Machine

/-- The prime of the field. -/
def edP : Nat := 2 ^ 448 - 2 ^ 224 - 1

/-- The order of the base point. -/
def edL : Nat := 2 ^ 446 - 13818066809895115352007386748515426880336692474882178609894547503885

/-- The constant `d` of the curve `x^2 + y^2 = 1 + d x^2 y^2`, -39081. -/
def edD : Nat := edP - 39081

/-- A product in the field. -/
def edMul (a b : Nat) : Nat := a * b % edP
/-- A sum in the field. -/
def edPlus (a b : Nat) : Nat := (a + b) % edP
/-- A difference in the field, of numbers below the prime. -/
def edMinus (a b : Nat) : Nat := (a + edP - b) % edP

/-- The power of `a` whose exponent is the lowest `n` bits of `e`. -/
def edPow (n a e : Nat) : Nat :=
  match n with
  | 0 => 1
  | n + 1 =>
    let r := edPow n a (e / 2)
    if e % 2 = 1 then edMul (edMul r r) a else edMul r r

/-- A point in the projective coordinates of RFC 8032: x is X/Z and y is Y/Z. -/
structure EdPoint where
  x : Nat
  y : Nat
  z : Nat
  deriving DecidableEq, Repr, Inhabited

/-- The neutral element. -/
def edZero : EdPoint := ⟨0, 1, 1⟩

/-- The base point. -/
def edBase : EdPoint where
  x := 224580040295924300187604334099896036246789641632564134246125461686950415467406032909029192869357953282578032075146446173674602635247710
  y := 298819210078481492676017930443930673437544040154080242095928241372331506189835876003536878655418784733982303233503462500531545062832660
  z := 1

/-- The sum of two points, which is right for every pair of them. -/
def edAdd (p q : EdPoint) : EdPoint :=
  let a := edMul p.z q.z
  let b := edMul a a
  let c := edMul p.x q.x
  let d := edMul p.y q.y
  let e := edMul edD (edMul c d)
  let f := edMinus b e
  let g := edPlus b e
  let h := edMul (edPlus p.x p.y) (edPlus q.x q.y)
  ⟨edMul (edMul a f) (edMinus h (edPlus c d)), edMul (edMul a g) (edMinus d c), edMul f g⟩

/-- The multiple of a point by the lowest `n` bits of `k`. -/
def edSmul (n k : Nat) (p : EdPoint) : EdPoint :=
  match n with
  | 0 => edZero
  | n + 1 =>
    let r := edSmul n (k / 2) p
    if k % 2 = 1 then edAdd (edAdd r r) p else edAdd r r

/-- Two pairs of coordinates that name one point. -/
def edSame (p q : EdPoint) : Bool :=
  decide (edMul p.x q.z = edMul q.x p.z) && decide (edMul p.y q.z = edMul q.y p.z)

/-- The 57 bytes of a point: y, with the lowest bit of x in the highest bit. -/
def edEncode (p : EdPoint) : List Byte :=
  let i := edPow 448 p.z (edP - 2)
  leBytes 57 (edMul p.y i + edMul p.x i % 2 * 2 ^ 455)

/-- The point that 57 bytes stand for; none where y is no number of the field, no x fits, or x is 0 and its bit is set. -/
def edDecode (bs : List Byte) : Option EdPoint :=
  let n := leNat bs
  let y := n % 2 ^ 455
  let u := edMinus (edMul y y) 1
  let v := edMinus (edMul edD (edMul y y)) 1
  let uv := edMul (edMul (edMul u u) u) v
  let x := edMul uv (edPow 446 (edMul (edMul uv (edMul u u)) (edMul v v)) ((edP - 3) / 4))
  if edP ≤ y then none
  else if edMul v (edMul x x) ≠ u then none
  else if x = 0 ∧ n / 2 ^ 455 % 2 = 1 then none
  else some ⟨if x % 2 = n / 2 ^ 455 % 2 then x else edP - x, y, 1⟩

/-- The hash of RFC 8032 over a message: SHAKE256 to 114 bytes behind `dom4` of the empty context, as a number. -/
def edHash (bs : List Byte) : Nat :=
  leNat (shake256 ([0x53, 0x69, 0x67, 0x45, 0x64, 0x34, 0x34, 0x38, 0, 0] ++ bs) 114)

/-- Whether an Ed448 signature over a message verifies under a public key (R426; RFC 8032, section 5.2.7), by the equation that has the
factor 4 on each side. RFC 8032 allows the one without it too, which another point of small order can fail (DESIGN CHOICE,
notes/assumptions/10.md). -/
def ed448Verify (key message signature : List Byte) : Bool :=
  let n := leNat (signature.drop 57)
  match edDecode key, edDecode (signature.take 57) with
  | some a, some r =>
    let k := edHash (signature.take 57 ++ key ++ message) % edL
    decide (n < edL) && edSame (edSmul 448 (4 * n) edBase) (edAdd (edSmul 3 4 r) (edSmul 448 k (edSmul 3 4 a)))
  | _, _ => false

/-- The number of a private key of 57 bytes, from the first half of its digest (RFC 8032, section 5.2.5). -/
def edSecret (secret : List Byte) : Nat :=
  leNat ((shake256 secret 114).take 57) % 2 ^ 447 / 4 * 4 + 2 ^ 447

/-- The public key of a private key. -/
def ed448Public (secret : List Byte) : List Byte := edEncode (edSmul 448 (edSecret secret) edBase)

/-- The Ed448 signature of a message by a private key (RFC 8032, section 5.2.6). -/
def ed448Sign (secret message : List Byte) : List Byte :=
  let h := (shake256 secret 114).drop 57
  let r := edHash (h ++ message) % edL
  let point := edEncode (edSmul 448 r edBase)
  let k := edHash (point ++ ed448Public secret ++ message) % edL
  point ++ leBytes 57 ((r + k * edSecret secret) % edL)

end Sys2Proof.Machine
end

