-- ==== Sys2Proof/Machine/Health.lean ====
section
/-! DEFINITION. Health, power and security (R316, R330, R331, R384-R386, R416-R430): errors of the physical part, spares, repair,
the power controller, temperatures, pod time, boot, reset, attestation and the sideband. -/

namespace Sys2Proof.Machine

/-! ## Errors of the physical part (R417) -/

/-- An error comes about. One of a version-store line makes its undo copy unreadable (R183); an erroneous TLB entry is dropped (R363). -/
def State.upset (s : State) : Upset → State
  | .corrected d hbm => s.modDie d fun x => { x with ctl :=
      if hbm then { x.ctl with corrHbm := x.ctl.corrHbm + 1 } else { x.ctl with corrSram := x.ctl.corrSram + 1 } }
  | .tm t w => s.modTile t fun tl => { tl with bad := natInsert tl.bad w }
  | .acc t w => s.modTile t fun tl => { tl with badAcc := natInsert tl.badAcc w }
  | .slot t w => s.modTile t fun tl => { tl with badSlot := natInsert tl.badSlot w }
  | .vs t i => s.modTile t fun tl => { tl with vs := match tl.vs[i]? with | some v => tl.vs.set i { v with err := true } | none => tl.vs }
  | .mailbox t q i => s.modTile t fun tl => { tl with badMb := if tl.badMb.contains (q, i) then tl.badMb else tl.badMb ++ [(q, i)] }
  | .firefly d bank row => s.modDie d fun x => { x with ff := { x.ff with
      bad := if x.ff.bad.contains (bank, row) then x.ff.bad else x.ff.bad ++ [(bank, row)] } }
  | .hbm m w => s.modModule m fun x => { x with badHbm := natInsert x.badHbm w }
  | .core d c w => s.modDie d fun x => x.setSvc c { x.svc[c] with bad := natInsert x.svc[c].bad w }
  | .llt d k => s.modDie d fun x => { x with mc := { x.mc with llt := x.mc.llt.filter fun q => decide (q.1 ≠ k) } }
  | .l1 t i => s.modTile t fun tl => { tl with l1 := tl.l1.eraseIdx i }

/-- NOISE_SOURCE_HEALTH_TEST (R316). -/
def execNoiseSourceHealthTest (d : Nat) (ok : Bool) (s : State) : Out :=
  .next (s.modDie d fun x => { x with ff := { x.ff with noiseOk := ok } })

/-! ## Spares and fences (R331, R418, R430) -/

/-- The tile is in its rollback window: the abort reached it, and no release came (R169, R185). -/
def Tile.inWindow (tl : Tile) : Bool := decide (tl.node = .rollback) || decide (tl.node = .hold)

/-- Every region with tiles on a die is committed and quiescent, or in its rollback window (R430). -/
def State.dieQuiet (s : State) (d : Nat) : Bool :=
  s.regions.all fun r =>
    decide (r.phase = .freed) || !(r.tiles.any fun t => decide (dieOfTile t = d)) ||
      (decide (r.phase = .restoring) && r.tiles.all fun t => (s.tile t).inWindow) || r.tiles.all fun t => (s.tile t).quiescent

/-- The dies that bit `i` of `LFENCE` concerns: those of a boundary, or that of a port (R356, R430). -/
def fenceDies (m i : Nat) : List Nat :=
  if i < 12 then [16 * m + 4 * (i / 3) + i % 3, 16 * m + 4 * (i / 3) + i % 3 + 1]
  else if i < 24 then [16 * m + (i - 12), 16 * m + (i - 12) + 4]
  else [16 * m + (i - 24) % 16]

/-- A spare takes the place of a structure of tile `t` that failed its test: `p` picks the failures it answers. -/
def State.serve (s : State) (t : Nat) (p : Nat × Nat × Nat → Bool) : State :=
  s.modTile t fun tl => { tl with unspared := tl.unspared.filter fun q => !p q }

/-- A write of `TSPAREn` (R18, R418): the logical tile moves to the spare with its committed state. -/
def State.tspareWrite (s : State) (d : Nat) (n : Fin 4) (v : W) : State :=
  let s1 := s.modDie d fun x => { x with ctl := { x.ctl with tspare := x.ctl.tspare.set n (v &&& 0x800000000000003F#64) } }
  if spareOn v then
    s1.modTile (64 * d + v.fld 0 6) fun tl => { tl with unspared := [], bad := [], badAcc := [], badSlot := [], badMb := [] }
  else s1

/-- A write of `RSPROW` (R418): the spare that `RSPSEL` picks takes the row's committed contents. -/
def State.rsprowWrite (s : State) (d : Nat) (v : W) : State :=
  let sel := (s.die d).ctl.rspsel.toNat
  let s1 := s.modDie d fun x => { x with ctl := { x.ctl with rsprow := kvSet x.ctl.rsprow sel (v &&& 0x8000000000000FFF#64) } }
  let t := 64 * d + fld sel 0 6
  let bank := fld sel 6 5
  let row := v.fld 0 12
  if spareOn v then
    (s1.serve t fun q => decide (q = (0, bank, row))).modTile t fun tl => { tl with bad := natErase tl.bad (31 * row + bank) }
  else s1

/-- A write of `FFSPAREn` (R331): the spare takes the row's committed contents. -/
def State.ffspareWrite (s : State) (d : Nat) (n : Fin 4) (v : W) : State :=
  let s1 := s.modDie d fun x => { x with ff := { x.ff with spares := x.ff.spares.set n (v &&& 0x80000000000000FF#64) } }
  let row := v.fld 0 8
  if spareOn v then
    (((List.range 64).map fun i => 64 * d + i).foldl (fun s t =>
      if (s.tile t).unspared.isEmpty then s else s.serve t fun q => decide (q = (4, 0, row))) s1).modDie d fun x =>
        { x with ff := { x.ff with bad := x.ff.bad.filter fun q => decide (q ≠ (0, row)) } }
  else s1

/-- The ports and boundaries of module `m` that `LFENCE` value `v` fences answer the failures of tile `t` that name them (R418); a boundary's
bit answers one that the tile recorded in several modules only with the last of them. -/
def Tile.fenceServed (tl : Tile) (t m : Nat) (v : W) : Tile :=
  let left := tl.linkMods.filter fun l => !(decide (l.2 = m) && decide (l.1 < 24) && bitOf v.toNat l.1)
  { tl with
    linkMods := left
    unspared := tl.unspared.filter fun u =>
      !((decide (u.1 = 5) && decide (modOfTile t = m) && bitOf v.toNat (24 + u.2.1 % 16)) ||
        (decide (u.1 = 6) && tl.linkMods.any (fun l => decide (l.1 = u.2.1)) && !left.any fun l => decide (l.1 = u.2.1))) }

/-- A write of `LFENCE` (R418): fenced ports and boundaries answer the failures that name them. -/
def State.lfenceWrite (s : State) (m : Nat) (v : W) : State :=
  let s1 := s.modModule m fun x => { x with lfence := BitVec.ofNat 40 (v.fld 0 40) }
  { s1 with tiles := s1.tiles.map fun q => (q.1, q.2.fenceServed q.1 m v) }

/-- A write of a spare control by number (R430): none where it is refused, or the number is no spare control's. -/
def State.spareWrite (s : State) (d n : Nat) (v : W) : Option State :=
  let m := modOfDie d
  if 0x375 ≤ n ∧ n ≤ 0x378 then
    if s.dieQuiet d then some (((s.tspareWrite d ⟨(n - 0x375) % 4, Nat.mod_lt _ (by decide)⟩ v).fenceLeft d).noteReplace m) else none
  else if n = 0x37A then if s.dieQuiet d then some (((s.rsprowWrite d v).fenceLeft d).noteReplace m) else none
  else if n = 0x37B then
    let changed := (List.range 40).filter fun i => decide (bitOf v.toNat i ≠ bitOf (s.module m).lfence.toNat i)
    if (changed.flatMap fun i => fenceDies m i).all fun e => s.dieQuiet e then some ((s.lfenceWrite m v).noteReplace m) else none
  else if 0x333 ≤ n ∧ n ≤ 0x336 then some (((s.ffspareWrite d ⟨(n - 0x333) % 4, Nat.mod_lt _ (by decide)⟩ v).fenceLeft d).noteReplace m)
  else none

/-- SPARE_CONTROL_WRITE (R418, R419, R430). -/
def execSpareControlWrite (d : Nat) (csr : BitVec 12) (v : W) (s : State) : Out :=
  match s.spareWrite d csr.toNat v with
  | some s1 => .next s1
  | none => .next { s with outs := s.outs ++ [.refused csr.toNat] }

/-- A remap of a row is replayed after a reset (R385). -/
def State.repaired (s : State) (d : Nat) (q : Nat × Nat × Nat) : State :=
  s.modModule (modOfDie d) fun x => { x with unrepaired := x.unrepaired.filter fun r => decide (r ≠ (d, q)) }

/-- PPR_DONE (R385): the remap of the bank's spare is latched, or `FAIL` is set where the spare is in use, and the bank
is left as it is. -/
def execPprDone (d : Nat) (s : State) : Out :=
  let mc := (s.die d).mc
  if !mc.pprBusy then .next s
  else
    let v := mc.pprCtl.toNat
    let q := (fld v 0 8, fld v 8 6, fld v 14 16)
    let used := mc.pprRemaps.any fun r => decide (r.1 = q.1) && decide (r.2.1 = q.2.1)
    .next ((s.modDie d fun x => { x with mc := { x.mc with
      pprBusy := false, pprFail := used, pprRemaps := if used then x.mc.pprRemaps else x.mc.pprRemaps ++ [q] } }) |> fun s => (if used then s else s.repaired d q).noteReplace (modOfDie d))

/-! ## Power (R420-R422) -/

/-- The nearer bound of a range. -/
def clampTo (lo hi v : Nat) : Nat := Nat.min hi (Nat.max lo v)

/-- A write of `PCAP` (R420). -/
def State.pcapWrite (s : State) (m : Nat) (v : Nat) : State :=
  s.modModule m fun x => { x with pcap := BitVec.ofNat 13 (clampTo 4000 7500 v) }

/-- PCAP_WRITE (R420). -/
def execPcapWrite (d : Nat) (v : W) (s : State) : Out := .next (s.pcapWrite (modOfDie d) (v.fld 0 13))

/-- A write of `PSLEW` (R422): every die's `QSHAPE` takes the constants of the new limit. -/
def State.pslewWrite (s : State) (m : Nat) (v : Nat) : State :=
  let k := clampTo 1 100 v
  (s.modModule m fun x => { x with pslew := BitVec.ofNat 7 k }).modDies (diesOfModule m) fun x => { x with qd := { x.qd with
    shape := BitVec.ofNat 48 (1 + k * 2 ^ 8 + fld x.qd.shape.toNat 16 8 * 2 ^ 16 + 260000 / k * 2 ^ 24) } }

/-- PSLEW_WRITE (R422). -/
def execPslewWrite (d : Nat) (v : W) (s : State) : Out := .next (s.pslewWrite (modOfDie d) (v.fld 0 7))

/-- A write of `TEMP.THROT` (R425). -/
def State.throtWrite (s : State) (d : Nat) (v : Nat) : State :=
  s.modDie d fun x => { x with ctl := { x.ctl with throt := BitVec.ofNat 8 (clampTo 70 100 v) } }

/-- THROT_WRITE (R425). -/
def execThrotWrite (d : Nat) (v : W) (s : State) : Out := .next (s.throtWrite d (v.fld 16 8))

/-- The rule of R420: a limit lowered above its cap, or where the module is hot; raised below 15/16 of it. -/
def nextLimit (limit power cap : Nat) (hot : Bool) : Nat :=
  if cap < power ∨ hot = true then Nat.max 1 (limit - 1)
  else if 16 * power < 15 * cap then Nat.min 255 (limit + 1)
  else limit

/-- A die is at or above its throttle temperature, by its own sensor or its stack's (R425). -/
def Die.hot (x : Die) : Bool := decide (x.ctl.throt.toNat ≤ x.ctl.tempDie.toNat) || decide (x.ctl.throt.toNat ≤ x.ctl.tempHbm.toNat)

/-- The started regions on a module with a power share (R399). -/
def State.shares (s : State) (m : Nat) : List Region :=
  s.regions.filter fun r => r.running && (r.parts.any fun p => decide (p.m = m)) && decide (r.fields.bpower ≠ 0)

/-- The power in W of a region on a module in an interval: its tiles' counts of matrix, vector and memory activity, scaled by the
controller (R420). The spec leaves the scale open: here it is µW for each count of a kind (notes/assumptions/41.md). -/
def State.regionPower (s : State) (m : Nat) (scale : Nat × Nat × Nat) (r : Region) : Nat :=
  let l := (r.tiles.filter fun t => decide (modOfTile t = m)).map fun t => (s.tile t).activity
  (l.map fun a => a.1 * scale.1 + a.2.1 * scale.2.1 + a.2.2 * scale.2.2).sum / 10 ^ 6

/-- POWER_CAP_INTERVAL (R420, R421, R425): at the end of an interval the controller has measured the module's power, and the sensors
of the dies given; it sets the limits of the module and of its regions by one rule, with the scale it has for the counts of a region,
and the counts start again. -/
def execPowerCapInterval (m : Nat) (pwr : BitVec 16) (scale : Nat × Nat × Nat) (temps : List (Nat × Nat × Nat)) (s : State) : Out :=
  let s1 := temps.foldl (fun s q => s.modDie (16 * m + q.1 % 16) fun x => { x with ctl := { x.ctl with
    tempDie := BitVec.ofNat 8 q.2.1, tempHbm := BitVec.ofNat 8 q.2.2 } }) s
  let hot := (diesOfModule m).any fun d => (s1.die d).hot
  let s2 : State := { s1 with tiles := s1.tiles.map fun (q : Nat × Tile) =>
    (if modOfTile q.1 = m then (q.1, { q.2 with activity := (0, 0, 0) }) else q) }
  .next (s2.modModule m fun x => { x with
    pwr := pwr
    caplim := BitVec.ofNat 8 (nextLimit x.caplim.toNat pwr.toNat x.pcap.toNat hot)
    powerOver := decide (x.caplim = 1) && decide (x.pcap.toNat < pwr.toNat)
    regLim := (s1.shares m).foldl (fun l r => kvSet l r.serial (nextLimit (kvGet 255 l r.serial) (s1.regionPower m scale r) r.fields.bpower hot))
      (x.regLim.filter fun q => s.regions.any fun (r : Region) => decide (r.serial = q.1)) })

/-- A die of the module is at 105 °C, or a stack at 100 °C (R425). -/
def State.tripHot (s : State) (m : Nat) : Bool :=
  (diesOfModule m).any fun d => decide (105 ≤ (s.die d).ctl.tempDie.toNat) || decide (100 ≤ (s.die d).ctl.tempHbm.toNat)

/-- THERMAL_TRIP (R425): a die or a stack is at its trip temperature: every core of the module halts, and a launch stages
no more. -/
def execThermalTrip (m : Nat) (s : State) : Out :=
  if !s.tripHot m || (s.module m).tripped then .next s else
  let stop (g : Agent) : Agent := if g.st = .free then g else { g with st := .halt }
  let s1 : State := { s with
    tiles := s.tiles.map fun (q : Nat × Tile) =>
      if modOfTile q.1 = m then (q.1, { q.2 with node := NodeState.stop, launching := false, cur := { q.2.cur with agents := q.2.cur.agents.map stop } }) else q }
  let s2 : State := { s1 with
    dies := s1.dies.map fun (q : Nat × Die) =>
      if modOfDie q.1 = m then (q.1, { q.2 with svc := q.2.svc.map fun (c : SvcCore) => { c with agent := stop c.agent } }) else q }
  .next (s2.modModule m fun x => { x with tripped := true })

/-! ## Pod time (R424) -/

/-- The clk of an instant fixed in pod time, after the clock of its module was put forward by `adj` ns. -/
def earlier (clk : Nat) (adj : Int) : Nat := ((clk : Int) - 4 * adj).toNat

/-- A tile of a module whose clock was put forward by `adj` ns: the starts it waits for come at their programmed pod times (R424). -/
def Tile.retime (tl : Tile) (adj : Int) : Tile :=
  { tl with
    startAt := if tl.node = .relwait then tl.startAt.map fun k => earlier k adj else tl.startAt
    xStart := if tl.node = .arrived then tl.xStart.map fun x => earlier x adj else tl.xStart
    down := tl.down.map fun p => { p with instant := earlier p.instant adj } }

/-- IEEE_1588_SYNC (R424): an exchange with the grandmaster gives the offset and disciplines `PODTIME`; `LOCK` says that the
offset is within 4 ns. `adj` none stands for a module that runs no profile any more: its `LOCK` is 0. -/
def execIeee1588Sync (m : Nat) (ofs : BitVec 16) (adj : Option Int) (s : State) : Out :=
  match adj with
  | some adj =>
    let s1 := s.modModule m fun x => { x with
      podAdj := x.podAdj + adj, ptpOfs := ofs, ptpLock := decide (-4 ≤ ofs.toInt) && decide (ofs.toInt ≤ 4) }
    .next { s1 with tiles := s1.tiles.map fun (q : Nat × Tile) => if modOfTile q.1 = m then (q.1, q.2.retime adj) else q }
  | none => .next (s.modModule m fun x => { x with ptpLock := false })

/-! ## Reset, power and boot (R17, R30, R398, R426) -/

/-- What a reset makes of the chunks that the tables of a module's dies had moved: their data is unspecified until firmware replays
the move, which brings it back (R384). The answer is HBM, and the moves cut off, those of earlier resets among them. -/
def State.cutMoves (s : State) (m : Nat) : Memory × List CutMove :=
  let x := s.module m
  let moves := (diesOfModule m).flatMap fun d => (s.die d).mc.migTable.map fun e => (d, e)
  moves.foldl (fun q e =>
    let pas := (s.die e.1).mc.chunkPas e.1 e.2.1 e.2.2.1
    (pas.foldl (fun h pa => h.forget pa 256 (s.free + 4 * s.tiles.length)) q.1,
      q.2 ++ [⟨e.1, e.2, pas.map fun pa => (pa, x.hbm.bytes pa 256)⟩])) (x.hbm, x.unreplayed)

/-- A module reset (R30): its tiles, dies and launch queues are in their reset state, what they held unspecified; HBM, flash
and fuses keep what they hold. Its regions are over; what it sent or was to receive is gone. -/
def State.resetModule (s : State) (m : Nat) : State :=
  let mine (t : Nat) : Bool := decide (modOfTile t = m)
  let x := s.module m
  let fresh : Module := { Module.reset with
    resetClk := s.clk, hbm := (s.cutMoves m).1, badHbm := x.badHbm, unreplayed := (s.cutMoves m).2
    unrepaired := x.unrepaired ++ (diesOfModule m).flatMap fun d => (s.die d).mc.pprRemaps.map fun q => (d, q)
    fuses := x.fuses,
    keyHash := x.keyHash, flashA := x.flashA, flashB := x.flashB }
  let s1 := { s with
    free := s.free + 4 * s.tiles.length + 1
    tiles := s.tiles.zipIdx.map fun (q : (Nat × Tile) × Nat) =>
      if mine q.1.1 then (q.1.1, { (q.1.2.cleared (s.free + 4 * q.2)) with retired := Tile.reset.retired, l1 := [] }) else q.1
    dies := s.dies.filter fun q => decide (modOfDie q.1 ≠ m)
    flits := s.flits.filter fun f => !mine f.src && !mine f.dst
    xfers := s.xfers.filter fun f => !mine f.src && !mine f.dst
    wires := s.wires.filter fun w => decide (modOfDie w.die ≠ m)
    regions := (s.regions.map fun (r : Region) =>
      if (r.parts.any fun p => decide (p.m = m)) then { r with gone := true, resetMods := r.resetMods ++ [m], parts := r.parts.filter fun p => decide (p.m ≠ m) } else r).filter
        fun r => !(r.gone && r.parts.isEmpty) }
  { s1 with up := s1.up.filter fun u => s1.regions.any fun r => decide (r.serial = u.region) }.setModule m fresh

/-- MODULE_RESET (R30). -/
def execModuleReset (m : Nat) (s : State) : Out := .next (s.resetModule m)

/-- POWER_ON (R30): every word of HBM is written zero with a valid code, no move and no remap is left, and the module is reset. -/
def execPowerOn (m : Nat) (s : State) : Out :=
  let s1 := s.modModule m fun x => { x with hbm := Memory.empty, badHbm := [], unreplayed := [], unrepaired := [] }
  .next ((s1.modDies (diesOfModule m) fun x => { x with mc := { x.mc with migTable := [], pprRemaps := [] } }).resetModule m)

/-- The boot ROM accepts an image (R426). -/
def Module.accepts (x : Module) (image : List Byte) : Bool :=
  let part (a n : Nat) : List Byte := (image.drop a).take n
  let body := part 256 (leNat (part 8 8))
  decide (256 + leNat (part 8 8) ≤ image.length) && decide (shake256 (part 130 57) 32 = x.keyHash) &&
    ed448Verify (part 130 57) (part 0 16 ++ body) (part 16 114) && decide (x.fuses.toNat ≤ leNat (part 0 8))

/-- A service core after boot (R17): the body at the bottom of its memory, every other byte zero; it starts at address 0. -/
def bootCore (body : List Byte) (clk : Nat) : SvcCore where
  agent := { Agent.reset with st := .run, heldFrom := clk }
  mem := Memory.empty.write 0 (body.take Config.coreMemSize)
  bad := []
  retired := 0
  copy := none

/-- The accepted image loaded into the service cores of every die. -/
def State.bootFrom (s : State) (m : Nat) (image : List Byte) (b : Bool) : State :=
  let n := leNat ((image.drop 8).take 8)
  let core := bootCore ((image.drop 256).take n) s.clk
  (s.modDies (diesOfModule m) fun x => { x with svc := Vector.replicate 2 core }).modModule m fun x => { x with
    bootOk := true, bootB := b, bootFail := false, measurement := shake256 (image.take (256 + n)) 64 }

/-- SECURE_BOOT (R426): the ROM tries copy A, then copy B, once after a reset. -/
def execSecureBoot (m : Nat) (s : State) : Out :=
  let x := s.module m
  if x.bootOk || x.bootFail || x.tripped then .next s
  else if x.accepts x.flashA then .next (s.bootFrom m x.flashA false)
  else if x.accepts x.flashB then .next (s.bootFrom m x.flashB true)
  else .next (s.modModule m fun x => { x with bootFail := true })

/-! ## Attestation (R427) -/

/-- A write of `ATTCTL`; while a report is being signed it is ignored. -/
def State.attctlWrite (s : State) (m : Nat) (v : W) : State :=
  s.modModule m fun x =>
    if x.attBusy then x else { x with attPa := BitVec.ofNat 40 (v.fld 0 40), attBusy := decide (v.fld 63 1 = 1) }

/-- ATTESTATION_START (R427): a write of `ATTCTL` with `GO`. -/
def execAttestationStart (d : Nat) (v : W) (s : State) : Out := .next (s.attctlWrite (modOfDie d) (v ||| 0x8000000000000000#64))

/-- The private key of a module's identity, which nothing reads (R427). -/
def identitySecret (m : Nat) : List Byte := leBytes 57 (Config.identitySecret m).toNat

/-- The identity public key of a module, 57 bytes (R427, R428). -/
def identityKey (m : Nat) : List Byte := ed448Public (identitySecret m)

/-- The report after the nonce, with its signature. -/
def State.attestation (s : State) (m : Nat) (nonce : List Byte) : List Byte :=
  let x := s.module m
  let head := (x.measurement ++ List.replicate 64 0).take 64 ++ leBytes 8 (Config.serial m).toNat ++
    leBytes 8 (s.mstat m).toNat ++ leBytes 8 (s.podTime m s.clk).toNat ++ identityKey m ++ List.replicate 7 0
  head ++ ed448Sign (identitySecret m) (nonce ++ head) ++ List.replicate 38 0

/-- ATTESTATION_DONE (R427): the report stands at the buffer; uncorrectable words of the nonce are logged, and it is made with unspecified
bytes for them (R386). -/
def execAttestationDone (m : Nat) (s : State) : Out :=
  let x := s.module m
  let pa := x.attPa.toNat
  if !x.attBusy then .next s
  else
    let s1 := if hbmTop < pa + 320 then s else (s.noteRead (16 * m) m pa 16).setHbm m (pa + 16) (s.attestation m (s.hbmSeen m pa 16))
    .next (s1.modModule m fun x => { x with attBusy := false })

/-! ## Sideband (R428) -/

/-- An answer of the sideband. -/
def State.sideband (s : State) (m : Nat) (bs : List Byte) : Out := .next { s with outs := s.outs ++ [.sideband m (some bs)] }

/-- The ALERT# pin of a module's sideband is driven low: while `REPLACE` or a thermal trip stands (R428). -/
def State.alertLow (s : State) (m : Nat) : Bool := s.replaceNow m || (s.module m).tripped

/-- SB_READ_MSTAT. -/
def execSbReadMstat (m : Nat) (s : State) : Out := s.sideband m (leBytes 2 (s.mstat m).toNat)
/-- SB_READ_POWER. -/
def execSbReadPower (m : Nat) (s : State) : Out := s.sideband m (leBytes 2 (s.module m).pwr.toNat)
/-- SB_READ_TEMP: the hottest die and the hottest stack. -/
def execSbReadTemp (m : Nat) (s : State) : Out :=
  let most (f : Die → Nat) : Nat := (diesOfModule m).foldl (fun n d => Nat.max n (f (s.die d))) 0
  s.sideband m (leBytes 1 (most fun x => x.ctl.tempDie.toNat) ++ leBytes 1 (most fun x => x.ctl.tempHbm.toNat))
/-- SB_WRITE_PCAP. -/
def execSbWritePcap (m : Nat) (v : BitVec 16) (s : State) : Out := (s.pcapWrite m v.toNat).sideband m []
/-- `BOOTSTAT` (R430). -/
def Module.bootstat (x : Module) : W :=
  BitVec.ofNat 64 (x.bootOk.toNat + x.bootB.toNat * 2 + x.bootFail.toNat * 4 + x.fuses.toNat * 2 ^ 8)
/-- SB_READ_BOOTSTAT. -/
def execSbReadBootstat (m : Nat) (s : State) : Out := s.sideband m (leBytes 1 (s.module m).bootstat.toNat)
/-- SB_RESET: 0xA5 resets the module. -/
def execSbReset (m : Nat) (v : BitVec 8) (s : State) : Out := (if v = 0xA5 then s.resetModule m else s).sideband m []
/-- SB_READ_IDENTITY. -/
def execSbReadIdentity (m : Nat) (s : State) : Out := s.sideband m (identityKey m)
/-- SB_UNKNOWN_COMMAND: a command that R428 lists has its own step; any other is not acknowledged. -/
def execSbUnknownCommand (m : Nat) (code : BitVec 8) (s : State) : Out :=
  if [0x01#8, 0x02#8, 0x03#8, 0x04#8, 0x05#8, 0x10#8, 0x11#8].contains code then .next s
  else .next { s with outs := s.outs ++ [.sideband m none] }

end Sys2Proof.Machine
end

