-- ==== Sys2Proof/Machine/DieCsr.lean ====
section
/-! DEFINITION. The die CSRs 0x300-0x37F (R198, R218, R306, R335, R359, R387, R403, R430) with what their reads and writes do,
and `csrr` and `csrw` (R64-R66, R135). -/

namespace Sys2Proof.Machine

/-! ## Numbers (R64) -/

/-- A number assigned as a die CSR. -/
def isDieCsr (n : Nat) : Bool :=
  (decide (0x300 ≤ n) && decide (n ≤ 0x306)) || decide (n = 0x310) || (decide (0x320 ≤ n) && decide (n ≤ 0x322)) ||
    (decide (0x330 ≤ n) && decide (n ≤ 0x336)) || (decide (0x340 ≤ n) && decide (n ≤ 0x344)) ||
    (decide (0x350 ≤ n) && decide (n ≤ 0x35C)) || (decide (0x360 ≤ n) && decide (n ≤ 0x362)) || (decide (0x370 ≤ n) && decide (n ≤ 0x37F))

/-- A die CSR that is read-only. -/
def dieReadOnly (n : Nat) : Bool :=
  ([0x300, 0x301, 0x302, 0x303, 0x304, 0x305, 0x320, 0x321, 0x322, 0x331, 0x332, 0x343, 0x344, 0x352, 0x35A, 0x35C, 0x362, 0x372,
    0x373, 0x374, 0x37F] : List Nat).contains n

/-! ## Reads -/

/-- A die CSR whose read changes nothing. -/
def State.dieCsr (s : State) (d n : Nat) : W :=
  let x := s.die d
  let m := modOfDie d
  let y := s.module m
  let ix3 (k : Nat) : Fin 3 := ⟨k % 3, Nat.mod_lt _ (by decide)⟩
  let ix4 (k : Nat) : Fin 4 := ⟨k % 4, Nat.mod_lt _ (by decide)⟩
  if n = 0x300 then s.podTime m s.clk
  else if n = 0x301 then x.qd.commit
  else if n = 0x302 then x.qd.abort
  else if n = 0x303 then BitVec.ofNat 64 (x.qd.selfTests.toNat + x.qd.selfFails.toNat * 2 ^ 32)
  else if n = 0x304 then x.qd.late
  else if n = 0x306 then x.qd.shape.setWidth 64
  else if n = 0x310 then x.mc.hdsize.setWidth 64
  else if n = 0x320 then BitVec.ofNat 64 (x.ex.coll.toNat + x.ex.win.toNat * 2 ^ 32)
  else if n = 0x321 then x.ex.held.setWidth 64
  else if n = 0x322 then x.ex.drop
  else if n = 0x330 then x.ff.ewin.setWidth 64
  else if n = 0x331 then x.ff.sweeps
  else if n = 0x332 then BitVec.ofNat 64 x.ff.noiseOk.toNat
  else if 0x333 ≤ n ∧ n ≤ 0x336 then x.ff.spares[ix4 (n - 0x333)]
  else if n = 0x340 then x.lk.ctmo.setWidth 64
  else if n = 0x341 then x.lk.cbsize.setWidth 64
  else if n = 0x342 then x.lk.olcfg.setWidth 64
  else if n = 0x343 then BitVec.ofNat 64 (x.lk.port.up.toNat + x.lk.port.replay.toNat * 2 ^ 32)
  else if n = 0x344 then x.lk.fails
  else if n = 0x350 then BitVec.ofNat 64 x.mc.fmodeRec.toNat
  else if n = 0x351 then BitVec.ofNat 64 (x.mc.fqBase.toNat + x.mc.fqSz.toNat * 2 ^ 40)
  else if n = 0x352 then
    let waiting := if x.mc.freeSlot.isSome then 0 else x.mc.stops.length
    BitVec.ofNat 64 (x.mc.fq0.length % 2 ^ 16 + x.mc.fq1.length % 2 ^ 16 * 2 ^ 16 + x.mc.busySlots.length % 2 ^ 16 * 2 ^ 32 +
      waiting % 2 ^ 16 * 2 ^ 48)
  else if n = 0x353 then BitVec.ofNat 64 (x.mc.physa.toNat + x.mc.physUE.toNat * 2 ^ 63)
  else if 0x355 ≤ n ∧ n ≤ 0x357 then x.mc.ilmap[ix3 (n - 0x355)]
  else if n = 0x358 then x.mc.rsvN.setWidth 64
  else if n = 0x359 then x.mc.migCtl.setWidth 64
  else if n = 0x35A then BitVec.ofNat 64 (x.mc.migBusy.toNat + x.mc.migRefused.toNat * 2 + x.mc.migTable.length * 2 ^ 16)
  else if n = 0x35B then BitVec.ofNat 64 (x.mc.pprCtl.toNat + x.mc.pprBusy.toNat * 2 ^ 61 + x.mc.pprFail.toNat * 2 ^ 62)
  else if n = 0x360 then x.ctl.rctl.setWidth 64
  else if n = 0x361 then x.ctl.rcbpa.setWidth 64
  else if n = 0x362 then s.rstat d
  else if n = 0x370 then y.pcap.setWidth 64
  else if n = 0x371 then y.pslew.setWidth 64
  else if n = 0x372 then
    BitVec.ofNat 64 (y.pwr.toNat + y.caplim.toNat * 2 ^ 16 + y.powerOver.toNat * 2 ^ 24 + y.slewHold.toNat * 2 ^ 32)
  else if n = 0x373 then s.mstat m
  else if n = 0x374 then BitVec.ofNat 64 (x.ctl.corrSram.toNat + x.ctl.corrHbm.toNat * 2 ^ 32)
  else if 0x375 ≤ n ∧ n ≤ 0x378 then x.ctl.tspare[ix4 (n - 0x375)]
  else if n = 0x379 then x.ctl.rspsel.setWidth 64
  else if n = 0x37A then kvGet 0 x.ctl.rsprow x.ctl.rspsel.toNat
  else if n = 0x37B then y.lfence.setWidth 64
  else if n = 0x37C then BitVec.ofNat 64 (x.ctl.tempDie.toNat + x.ctl.tempHbm.toNat * 2 ^ 8 + x.ctl.throt.toNat * 2 ^ 16)
  else if n = 0x37D then BitVec.ofNat 64 (y.ptpLock.toNat + y.ptpOfs.toNat * 2 ^ 16 + y.podLat.toNat * 2 ^ 32)
  else if n = 0x37E then BitVec.ofNat 64 (y.attPa.toNat + y.attBusy.toNat * 2 ^ 62)
  else if n = 0x37F then y.bootstat
  else 0

/-- A read of a die CSR: its value, and the state after it. -/
def State.readDieCsr (s : State) (d n : Nat) : W × State :=
  if n = 0x305 then s.qcrecRead d
  else if n = 0x354 then s.physdRead d
  else if n = 0x35C then s.hbmerrRead d
  else (s.dieCsr d n, s)

/-! ## Writes -/

/-- A write of a die CSR that only stores: its fields take the bits written, reserved bits are ignored (R3). -/
def Die.putCsr (x : Die) (n : Nat) (v : W) : Die :=
  if n = 0x306 then { x with qd := { x.qd with shape := v.setWidth 48 } }
  else if n = 0x310 then { x with mc := { x.mc with hdsize := v.setWidth 16 } }
  else if n = 0x330 then { x with ff := { x.ff with ewin := v.setWidth 3 } }
  else if n = 0x340 then { x with lk := { x.lk with ctmo := v.setWidth 32 } }
  else if n = 0x341 then { x with lk := { x.lk with cbsize := v.setWidth 16 } }
  else if n = 0x342 then { x with lk := { x.lk with olcfg := v.setWidth 56 } }
  else if n = 0x350 then { x with mc := { x.mc with fmodeRec := decide (v.fld 0 1 = 1) } }
  else if n = 0x353 then { x with mc := { x.mc with physa := v.setWidth 40 } }
  else if n = 0x358 then { x with mc := x.mc.setReserve (v.setWidth 6) }
  else if n = 0x361 then { x with ctl := { x.ctl with rcbpa := v.setWidth 40 } }
  else if n = 0x379 then { x with ctl := { x.ctl with rspsel := v.setWidth 12 } }
  else x

/-- A write of a spare control by `csrw` or through the window; refused, it changes nothing (R430). -/
def State.spareCsr (s : State) (d n : Nat) (v : W) : State :=
  (s.spareWrite d n v).getD { s with outs := s.outs ++ [.refused n] }

/-- A write of a die CSR that may be written. -/
def State.writeDieCsr (s : State) (d n : Nat) (v : W) : State :=
  let m := modOfDie d
  if (0x333 ≤ n ∧ n ≤ 0x336) ∨ (0x375 ≤ n ∧ n ≤ 0x378) ∨ n = 0x37A ∨ n = 0x37B then s.spareCsr d n v
  else if n = 0x351 then s.fqbaseWrite d v
  else if n = 0x354 then s.physdWrite d v
  else if 0x355 ≤ n ∧ n ≤ 0x357 then s.ilmapWrite d ⟨(n - 0x355) % 3, Nat.mod_lt _ (by decide)⟩ v
  else if n = 0x359 then s.migctlWrite d v
  else if n = 0x35B then s.pprctlWrite d v
  else if n = 0x360 then
    if v.fld 63 1 = 1 then s.rctlGo d (v.fld 20 3) (BitVec.ofNat 20 (v.fld 0 20))
    else s.modDie d fun x => { x with ctl := { x.ctl with rctl := v.setWidth 23 } }
  else if n = 0x370 then s.pcapWrite m (v.fld 0 13)
  else if n = 0x371 then s.pslewWrite m (v.fld 0 7)
  else if n = 0x37C then s.throtWrite d (v.fld 16 8)
  else if n = 0x37D then s.modModule m fun x => { x with podLat := BitVec.ofNat 16 (v.fld 32 16) }
  else if n = 0x37E then s.attctlWrite m v
  else s.modDie d fun x => x.putCsr n v

/-! ## csrr and csrw (R64, R135) -/

/-- csrr. -/
def execCsrr (d : BitVec 5) (n : BitVec 12) (s : State) : Out :=
  let word : W := BitVec.ofNat 64 (wordOf (.csrr d n))
  if isDieCsr n.toNat then
    match s.turn with
    | .tile _ _ => s.trap 0x12 word
    | .svc e _ =>
      let pa := (s.die e).mc.physa
      if n.toNat = 0x354 ∧ pa.toNat % 8 ≠ 0 then s.trap 0x03 (pa.setWidth 64)
      else
        let r := s.readDieCsr e n.toNat
        r.2.doneX d r.1
  else
    match s.csrOf s.turn n.toNat with
    | some v => s.doneX d v
    | none => s.trap 0x01 word

/-- csrw. -/
def execCsrw (b : BitVec 5) (n : BitVec 12) (s : State) : Out :=
  let word : W := BitVec.ofNat 64 (wordOf (.csrw b n))
  let v := s.rx b
  if isDieCsr n.toNat then
    match s.turn with
    | .tile _ _ => s.trap 0x12 word
    | .svc e _ =>
      let pa := (s.die e).mc.physa
      if dieReadOnly n.toNat then s.trap 0x01 word
      else if n.toNat = 0x354 ∧ pa.toNat % 8 ≠ 0 then s.trap 0x03 (pa.setWidth 64)
      else (s.writeDieCsr e n.toNat v).doneNop
  else
    match s.csrOf s.turn n.toNat with
    | none => s.trap 0x01 word
    | some _ => if csrReadOnly n.toNat then s.trap 0x01 word else (s.putCsr s.turn n.toNat v).doneNop

end Sys2Proof.Machine
end

