-- ==== Sys2Proof/Machine/Window.lean ====
section
/-! DEFINITION. The on-chip space (R26-R29, R235, R333, R348, R366): what the tile windows and the die windows hold, reads and
writes of them, and the host's operations (R412-R414). -/

namespace Sys2Proof.Machine

/-! ## Tile windows (R26, R29) -/

/-- The 8 bytes at offset `o` of a memory as a window read finds them: those of an uncorrectable code word of 16 bytes are unspecified. The
spec gives such a read no value, of the accumulators, the mailboxes, the version store and the core memories as of tile memory (DESIGN
CHOICE, notes/assumptions/45.md). `k` numbers the free values. -/
def wordSeen (bad : List Nat) (m : Memory) (k o : Nat) : Nat :=
  if (badHit 16 bad o 8).isSome then (Config.freeBits 64 (k + o)).toNat else m.nat o 8

/-- The 8 bytes at offset `o` of a line of the accumulators: those not written since the claim are unspecified. -/
def Tile.accWord (tl : Tile) (k o : Nat) : Nat :=
  match tl.freshTag (o / 64) with
  | some k => leNat ((List.range 8).map fun i => Config.freeByte k (2 ^ 22 + o + i))
  | none => wordSeen tl.badAcc tl.acc k o

/-- The 8 bytes at offset `o` of the mailboxes; those of an uncorrectable slot are unspecified. -/
def Tile.mbxWord (tl : Tile) (k o : Nat) : Nat :=
  if tl.badMb.contains (o / 4096, o / 64 % 64) then (Config.freeBits 64 (k + o)).toNat else tl.mbx.nat o 8

/-- The 8 bytes at offset `o` of the version store: those of a line taken that can be read, else unspecified; 0 while the tile is quiescent. `k`
numbers the free values. -/
def Tile.vsWord (tl : Tile) (k o : Nat) : Nat :=
  if tl.quiescent then 0
  else
    match tl.vs[o / 64]? with
    | some v => if v.err then (Config.freeBits 64 (k + o)).toNat else leNat ((v.old.drop (o % 64)).take 8)
    | none => (Config.freeBits 64 (k + o)).toNat

/-- The tag of version-store line `i` (R431). A line not taken has `V` 0; its `ACC` and `LINE`, which the spec leaves open, are
unspecified while the tile is not quiescent (DESIGN CHOICE, notes/assumptions/45.md). `k` numbers the free values. -/
def Tile.vsTag (tl : Tile) (k i : Nat) : Nat :=
  if tl.quiescent then 0
  else
    match tl.vs[i]? with
    | some v => 1 + v.acc.toNat * 2 + v.line * 4
    | none => 2 * (Config.freeBits 16 (k + i)).toNat

/-- The 8 bytes at offset `o` of tile memory; those of an uncorrectable word are unspecified. -/
def Tile.tmWord (tl : Tile) (k o : Nat) : Nat :=
  if (tl.badAt o 8).isSome then (Config.freeBits 64 (k + o)).toNat else tl.tm.nat o 8

/-- The full-empty bits of 64 bank words from `w`. -/
def Tile.feWord (tl : Tile) (w : Nat) : Nat := (List.range 64).foldl (fun v i => if tl.full (w + i) then v + 2 ^ i else v) 0

/-- The 8 bytes at offset `o`, a multiple of 8, of the window of tile `t`. -/
def State.tileWord (s : State) (t o : Nat) : Nat :=
  let tl := s.tile t
  if o < 0x1F0000 then tl.tmWord s.free o
  else if 0x400000 ≤ o ∧ o < 0x480000 then tl.vsWord s.free (o - 0x400000)
  else if 0x480000 ≤ o ∧ o < 0x490000 then tl.vsTag s.free ((o - 0x480000) / 8)
  else if 0x600000 ≤ o ∧ o < 0x620000 then tl.accWord s.free (o - 0x600000)
  else if h : 0x700000 ≤ o ∧ o < 0x70A000 then
    s.ctxWord t ⟨(o - 0x700000) / 0x1000 % 10, Nat.mod_lt _ (by decide)⟩ ((o - 0x700000) % 0x1000)
  else if 0x780000 ≤ o ∧ o < 0x780200 then tl.sem ((o - 0x780000) / 8)
  else if 0x790000 ≤ o ∧ o < 0x793E00 then tl.feWord (8 * (o - 0x790000))
  else if 0x7A0000 ≤ o ∧ o < 0x7A4000 then tl.mbxWord s.free (o - 0x7A0000)
  else if 0x7C0000 ≤ o ∧ o < 0x810000 then
    ((s.csrTile t ⟨(o - 0x7C0000) / 0x8000 % 10, Nat.mod_lt _ (by decide)⟩ ((o - 0x7C0000) % 0x8000 / 8)).getD 0).toNat
  else 0

/-- Offsets that a window write may change only while the tile is quiescent (R29). -/
def guarded (o : Nat) : Bool :=
  decide (o < 0x1F0000) || (decide (0x400000 ≤ o) && decide (o < 0x490000)) || (decide (0x600000 ≤ o) && decide (o < 0x620000)) ||
    (decide (0x700000 ≤ o) && decide (o < 0x70A000)) || (decide (0x790000 ≤ o) && decide (o < 0x793E00)) ||
    (decide (0x7A0000 ≤ o) && decide (o < 0x7A4000))

/-- The full-empty bits of 64 bank words from `w` set to those of a number. -/
def Tile.setFeWord (tl : Tile) (w v : Nat) : Tile := (List.range 64).foldl (fun tl i => tl.setFe (w + i) (bitOf v i)) tl

/-- Accumulator bytes written through the window; the code words that they cover whole are good again (R432). -/
def Tile.putAccWord (tl : Tile) (o : Nat) (bs : List Byte) : Tile :=
  { tl with acc := tl.acc.write o bs, badAcc := badAfter 16 tl.badAcc o bs.length
            cur := { tl.cur with accFresh := tl.cur.accFresh.filter fun p => decide (p.1 ≠ o / 64) } }

/-- Mailbox bytes written through the window; a slot written whole is good again (R432, R434). -/
def Tile.putMbx (tl : Tile) (o : Nat) (bs : List Byte) : Tile :=
  { tl with
    mbx := tl.mbx.write o bs
    badMb := tl.badMb.filter fun q => !(decide (q.1 < 4) && decide (o ≤ 64 * (64 * q.1 + q.2)) &&
      decide (64 * (64 * q.1 + q.2) + 64 ≤ o + bs.length)) }

/-- A CSR of tile `t` written through agent `a` of its window: one that the agent's core type lacks, or that is read-only,
keeps its value (R26, R29). -/
def State.putWindowCsr (s : State) (t : Nat) (a : Fin 10) (n : Nat) (v : W) : State :=
  match s.csrTile t a n with
  | some _ => if csrReadOnly n then s else s.putCsr (.tile t a) n v
  | none => s

/-- The 8 bytes at offset `o` of the window of tile `t` written, where the write is not refused. -/
def State.putTileWord (s : State) (t o : Nat) (bs : List Byte) : State :=
  let v := leNat bs
  if 0x700000 ≤ o ∧ o < 0x70A000 then
    let a : Fin 10 := ⟨(o - 0x700000) / 0x1000 % 10, Nat.mod_lt _ (by decide)⟩
    s.modTile t fun tl => tl.setAgent a ((tl.cur.agents[a]).setCtxWord a ((o - 0x700000) % 0x1000) v)
  else if 0x780000 ≤ o ∧ o < 0x780200 then s.modTile t fun tl => tl.setSem ((o - 0x780000) / 8) v
  else if 0x790000 ≤ o ∧ o < 0x793E00 then s.modTile t fun tl => tl.setFeWord (8 * (o - 0x790000)) v
  else if 0x7C0000 ≤ o ∧ o < 0x810000 then
    s.putWindowCsr t ⟨(o - 0x7C0000) / 0x8000 % 10, Nat.mod_lt _ (by decide)⟩ ((o - 0x7C0000) % 0x8000 / 8) (BitVec.ofNat 64 v)
  else s

/-- The offsets of the 8-byte words of an access. -/
def wordsOf (o n : Nat) : List Nat := (List.range (n / 8)).map fun i => o + 8 * i

/-- The 8 or 64 bytes at offset `o` of the window of tile `t` written, where the write is not refused: a memory takes them as one
write, so that 64 bytes give every 16-byte code word a fresh code (R28, R432); a register file word by word. -/
def State.putTileBytes (s : State) (t o : Nat) (bs : List Byte) : State :=
  if o < 0x1F0000 then s.modTile t fun tl => tl.poke o bs
  else if 0x600000 ≤ o ∧ o < 0x620000 then s.modTile t fun tl => tl.putAccWord (o - 0x600000) bs
  else if 0x7A0000 ≤ o ∧ o < 0x7A4000 then s.modTile t fun tl => tl.putMbx (o - 0x7A0000) bs
  else (wordsOf o bs.length).foldl (fun s p => s.putTileWord t p ((bs.drop (p - o)).take 8)) s

/-! ## Die windows (R27) -/

/-- The word of an LLT entry: its tag, then its entry word; an empty entry reads 0 (R366). -/
def MemCtl.lltWord (mc : MemCtl) (o : Nat) : Nat :=
  match mc.llt.find? fun q => decide (q.1 = o / 16) with
  | some q => if o % 16 = 0 then q.2.tag.toNat else q.2.entry.toNat
  | none => 0

/-- The core whose memory offset `o` of a die window shows, with the offset in it (R17). -/
def coreOf (o : Nat) : Option (Fin 2 × Nat) :=
  if 0xC00000 ≤ o ∧ o < 0xC80000 then some (0, o - 0xC00000)
  else if 0xE00000 ≤ o ∧ o < 0xE80000 then some (1, o - 0xE00000)
  else none

/-- A read of the 8 bytes at offset `o`, a multiple of 8, of the window of die `d`: the value and the state after it. -/
def State.dieWord (s : State) (d o : Nat) : Nat × State :=
  let x := s.die d
  if o < 0x8000 then
    if isDieCsr (o / 8) then let r := s.readDieCsr d (o / 8); (r.1.toNat, r.2) else (0, s)
  else if 0x100000 ≤ o ∧ o < 0x400000 then (leNat ((List.range 8).map fun i => x.ff.cellByte (o + i)), s)
  else if 0x400000 ≤ o ∧ o < 0x40C000 then (x.mc.lltWord (o - 0x400000), s)
  else if 0x800000 ≤ o ∧ o < 0x808000 then ((x.lk.entry ((o - 0x800000) / 8)).toNat, s)
  else
    match coreOf o with
    | some q => (wordSeen (x.svc[q.1]).bad (x.svc[q.1]).mem s.free q.2, { s with free := s.free + 2 ^ 24 })
    | none => (0, s)

/-- A router entry that belongs to a region that is not committed and quiescent (R348). -/
def State.routerBusy (s : State) (d v : Nat) : Bool :=
  let e := (s.die d).lk.entry v
  decide (e.fld 63 1 = 1) && !s.regionQuiet (modOfDie d) (BitVec.ofNat 20 (e.fld 40 20))

/-- An access meets `PHYSD` while `PHYSA` is not aligned. -/
def State.physdOff (s : State) (d o n : Nat) : Bool :=
  decide (o ≤ 8 * 0x354) && decide (8 * 0x354 < o + n) && decide ((s.die d).mc.physa.toNat % 8 ≠ 0)

/-- The write of 8 bytes of a die window outside the Firefly part. -/
def State.putDieWord (s : State) (d o : Nat) (bs : List Byte) : State :=
  let v : W := BitVec.ofNat 64 (leNat bs)
  if o < 0x8000 then
    if isDieCsr (o / 8) && !dieReadOnly (o / 8) then s.writeDieCsr d (o / 8) v else s
  else if 0x800000 ≤ o ∧ o < 0x808000 then
    s.modDie d fun x => { x with lk := { x.lk with router := kvSet x.lk.router ((o - 0x800000) / 8) (v &&& 0x8FFFFF3FFFFFFFFF#64) } }
  else s

/-- Whether a write of `n` bytes at `o` of a die window is refused, outside the Firefly part. R366 says what +0x40C000 to +0x7FFFFF reads and
not what a write there does: it is refused, as one to the LLT. Of the other offsets that R27 gives no contents (+0x8000 to +0xFFFFF, +0x808000
to +0xBFFFFF, and those after each core memory) the spec says nothing: they read 0, and a write is acknowledged and changes nothing
(DESIGN CHOICE, notes/assumptions/45.md). -/
def State.dieRefuses (s : State) (d o n : Nat) : Bool :=
  (decide (0x400000 ≤ o) && decide (o < 0x800000)) || (coreOf o).isSome || s.physdOff d o n ||
    (decide (0x800000 ≤ o) && decide (o < 0x808000) && (List.range (n / 8)).any fun i => s.routerBusy d ((o - 0x800000) / 8 + i))

/-! ## Accesses (R28) -/

/-- Sizes and alignment of R28. -/
def accessOk (addr n : Nat) : Bool := (decide (n = 8) || decide (n = 64)) && decide (addr % n = 0)

/-- A read in the on-chip space of module `m`: the bytes and the state after it, or none where it is refused. -/
def State.onchipRead (s : State) (m addr n : Nat) : Option (List Byte × State) :=
  let o := addr % 2 ^ 24
  if !accessOk addr n then none
  else if addr < 0x400000000 then
    some ((wordsOf o n).flatMap fun p => leBytes 8 (s.tileWord (1024 * m + addr / 2 ^ 24) p), { s with free := s.free + 2 ^ 24 })
  else if addr < 0x410000000 then
    let d := 16 * m + addr / 2 ^ 24 % 16
    if s.physdOff d o n then none
    else some ((wordsOf o n).foldl (fun (q : List Byte × State) p => let r := q.2.dieWord d p; (q.1 ++ leBytes 8 r.1, r.2)) ([], s))
  else none

/-- A write in the on-chip space of module `m`: the state after it, or none where it is refused. -/
def State.onchipWrite (s : State) (m addr : Nat) (bs : List Byte) : Option State :=
  let o := addr % 2 ^ 24
  let n := bs.length
  let part (p : Nat) : List Byte := (bs.drop (p - o)).take 8
  if !accessOk addr n then none
  else if addr < 0x400000000 then
    let t := 1024 * m + addr / 2 ^ 24
    if (guarded o && !(s.tile t).quiescent) || s.copying t then none
    else some (s.putTileBytes t o bs)
  else if addr < 0x410000000 then
    let d := 16 * m + addr / 2 ^ 24 % 16
    if 0x100000 ≤ o ∧ o < 0x400000 then s.ffWindowWrite d o bs
    else if s.dieRefuses d o n then none
    else some ((wordsOf o n).foldl (fun s p => s.putDieWord d p (part p)) s)
  else none

/-- WINDOW_READ (R28, R29). A module that is silent answers nothing (R425, R426). -/
def execWindowRead (m addr len : Nat) (s : State) : Out :=
  if !(s.module m).alive then .next s
  else
    match s.onchipRead m addr len with
    | some r => .next { r.2 with outs := r.2.outs ++ [.window m addr r.1] }
    | none => .next { s with outs := s.outs ++ [.nack m addr] }

/-- WINDOW_WRITE (R28, R29). -/
def execWindowWrite (m addr : Nat) (bytes : List Byte) (s : State) : Out :=
  if !(s.module m).alive then .next s
  else
    match s.onchipWrite m addr bytes with
    | some s1 => .next { s1 with outs := s1.outs ++ [.window m addr []] }
    | none => .next { s with outs := s.outs ++ [.nack m addr] }

/-- WINDOW_SEMAPHORE_WRITE (R29, R107, R408): the count takes bits [15:0]; no agent is woken by the write itself. It is refused while the
tile's image is copied. -/
def execWindowSemaphoreWrite (t k : Nat) (v : W) (s : State) : Out :=
  let addr := t % 1024 * 2 ^ 24 + 0x780000 + 8 * k
  if 64 ≤ k ∨ (s.module (modOfTile t)).alive = false then .next s
  else if s.copying t then .next { s with outs := s.outs ++ [.nack (modOfTile t) addr] }
  else
    let s1 := s.modTile t fun tl => tl.setSem k v.toNat
    .next { s1 with outs := s1.outs ++ [.window (modOfTile t) addr []] }

/-! ## Host operations (R412-R414) -/

/-- A COMPLETION on the port of die `d` that carried the operation: its host port where it has one. -/
def State.answer (s : State) (d tag status : Nat) (data : List Byte) : Out :=
  .next (s.sendOp d (isHostPort d) (.completion d (isHostPort d) tag status data))

/-- An HBM operation of the host is well formed (R413). -/
def hostHbmOk (addr n : Nat) : Bool :=
  decide (n % 8 = 0) && decide (8 ≤ n) && decide (n ≤ 4096) && decide (addr % 8 = 0) && decide (addr + n ≤ hbmTop)

/-- HOST_WRITE (R413). An on-chip operation of a size or alignment that R28 does not have is malformed, and answered with `STATUS`
2; that it is not refused, with 1, is how this model reads R413 with R28 (DEDUCED, notes/assumptions/47.md). -/
def execHostWrite (d : Nat) (onchip : Bool) (addr tag : Nat) (bytes : List Byte) (s : State) : Out :=
  let m := modOfDie d
  if !(s.module m).alive then .next s
  else if !isHostPort d then s.answer d tag 2 []
  else if onchip then
    if !accessOk addr bytes.length then s.answer d tag 2 []
    else
      match s.onchipWrite m addr bytes with
      | some s1 => s1.answer d tag 0 []
      | none => s.answer d tag 1 []
  else if hostHbmOk addr bytes.length then (s.setHbm m addr bytes).answer d tag 0 []
  else s.answer d tag 2 []

/-- The bytes of an HBM read of the host: those of an uncorrectable word are unspecified (R413). -/
def State.hostBytes (s : State) (m addr n : Nat) : List Byte := s.hbmSeen m addr n

/-- HOST_READ (R413): every uncorrectable word of the range is logged by its home. -/
def execHostRead (d : Nat) (onchip : Bool) (addr len tag : Nat) (s : State) : Out :=
  let m := modOfDie d
  if !(s.module m).alive then .next s
  else if !isHostPort d then s.answer d tag 2 []
  else if onchip then
    if !accessOk addr len then s.answer d tag 2 []
    else
      match s.onchipRead m addr len with
      | some r => r.2.answer d tag 0 r.1
      | none => s.answer d tag 1 []
  else if hostHbmOk addr len then
    let bad := badIn 8 (s.module m).badHbm addr len
    let s1 := { s with free := s.free + 1 }.logBad d m addr len
    s1.answer d tag (if bad.isEmpty then 0 else 4) (s.hostBytes m addr len)
  else s.answer d tag 2 []

/-- HOST_LAUNCH (R414): the RCB joins a launch queue that has room. -/
def execHostLaunch (d queue addr tag : Nat) (s : State) : Out :=
  let m := modOfDie d
  if !(s.module m).alive then .next s
  else if !isHostPort d || decide (addr % 256 ≠ 0) || decide (16 ≤ queue) || decide (hbmTop ≤ addr) then s.answer d tag 2 []
  else
    let q : Fin 16 := ⟨queue % 16, Nat.mod_lt _ (by decide)⟩
    let x := (s.module m).queues[q]
    if 64 ≤ x.waiting.length then s.answer d tag 3 []
    else (s.modModule m fun y => { y with queues := y.queues.set q { x with waiting := x.waiting ++ [addr] } }).answer d tag 0 []

/-- MALFORMED_OPERATION (R413): answered with status 2 on the port that carried it, with no effect. -/
def execMalformedOperation (d : PortId) (_op tag : Nat) (s : State) : Out :=
  if (s.module (modOfDie d.die)).alive then .next (s.sendOp d.die d.host (.completion d.die d.host tag 2 [])) else .next s

end Sys2Proof.Machine
end

