-- ==== Sys2Proof/Machine/Oclys.lean ====
section
/-! DEFINITION. The ports that carry Oclys and the links of a module (R353-R357, R412, R437): frames, the host's operations in
them, acknowledgements, replay, failure and training. -/

namespace Sys2Proof.Machine

/-- How far a frame number lies after another, as a signed distance: the numbers wrap. -/
def seqDist (a b : BitVec 32) : Int := (a - b).toInt

/-- The copies of the frames before `ack` are released (R353). -/
def Port.acked (p : Port) (ack : BitVec 32) : Port := { p with kept := p.kept.filter fun f => decide (0 ≤ seqDist f.seq ack) }

/-- A port that carries Oclys: a scale-out port, or the host port of a die that has one (R15). -/
def isPort (d : Nat) (host : Bool) : Bool := !host || isHostPort d

/-- A port that works: it exists, its link is up, and its module is not silent (R425). -/
def State.portUp (s : State) (d : Nat) (host : Bool) : Bool :=
  isPort d host && (s.port d host).up && (s.module (modOfDie d)).alive

/-! ## Failure (R357) -/

/-- A collective send entry is outstanding on a failing link: the scale-out port of die `n` of module `m`, or its boundary `n`, on
any of its legs (R349). -/
def State.colOn (s : State) (m : Nat) (port : Bool) (n t : Nat) (e : ColEntry) : Bool :=
  e.send && decide (e.status ≠ .done) &&
    (if port then
      let l := s.linkOf t e.peer e.stream t e.peer
      decide (modOfTile t = m) && decide (l.1 = 5) && decide (l.2.1 = n)
     else legsUse m n (s.legs t e.peer e.stream))

/-- A send of the exchange schedule is outstanding on a boundary. -/
def xOn (m : Nat) (port : Bool) (n t : Nat) (e : XEntry) : Bool :=
  !port && e.send && !e.late && decide (e.moved.length < flitsOf e.n) && legsUse m n [(dieOfTile t, dieOfTile e.peer)]

/-- A message offer is outstanding on a failing link. -/
def Tile.offerOn (tl : Tile) (m : Nat) (port : Bool) (n t : Nat) (q : OutEntry × Nat) : Bool :=
  !tl.offered.contains q.2 &&
    (if modOfTile q.1.dst = modOfTile t then !port && legsUse m n [(dieOfTile t, dieOfTile q.1.dst)]
     else port && decide (modOfTile t = m) && decide (dieOfTile t % 16 = n))

/-- A tile in its exchange phase with something outstanding on a link that fails: it is over, and the tile records cause 0x14
against the link, for a port with the other module of the first that was outstanding (R356). -/
def State.failOn (s : State) (m : Nat) (port : Bool) (n t : Nat) : State :=
  let tl := s.tile t
  let cols := tl.col.filter fun e => s.colOn m port n t e
  let xs := tl.xsched.filter fun e => xOn m port n t e
  let offers := tl.cur.outbox.zipIdx.filter fun q => tl.offerOn m port n t q
  let peers := (cols.map fun e => modOfTile e.peer) ++ offers.map fun q => modOfTile q.1.dst
  if tl.node ≠ .exch ∨ (cols.isEmpty && xs.isEmpty && offers.isEmpty) = true then s
  else
    let tl1 := { tl with
      col := tl.col.map fun e => if s.colOn m port n t e then { e with status := .done } else e
      xsched := tl.xsched.map fun e => if xOn m port n t e then { e with moved := List.range (flitsOf e.n) } else e
      offered := (offers.map fun q => q.2) ++ tl.offered }
    if port then (s.setTile t tl1).recordError t 0x14 5 n (peers.headD 0 % 4096) else (s.setTile t tl1).recordLink t m n

/-- A link fails: `UP` becomes 0, `OLFAIL` counts one (of the dies a boundary joins, each counts it), and the tiles concerned
record it. What was on its way over it is lost; a boundary carries nothing until its self-test passes. -/
def State.failLink (s : State) (m : Nat) (port : Bool) (n : Nat) : State :=
  let count (x : Die) : Die := { x with lk := { x.lk with
    fails := x.lk.fails + 1, port := if port then { x.lk.port with up := false } else x.lk.port } }
  let s1 := (if port then [16 * m + n % 16] else fenceDies m n).foldl (fun s d => s.modDie d count) s
  let lost (f : ColXfer) : Bool :=
    match (s.tile f.src).col[f.entry]? with
    | some e => s.colOn m port n f.src e
    | none => false
  let ends := if port then [] else endsOf m n
  let s2 := { ends.foldl (fun s q => s.modLink q.1 q.2 fun p => { p with up := false }) s1 with
    xfers := s1.xfers.filter fun f => !lost f, wires := s1.wires.filter fun w => !ends.contains (w.die, w.side) }
  s.tiles.foldl (fun s q => s.failOn m port n q.1) s2

/-- The link at a port fails. That of a host port carries nothing of a tile, and `OLFAIL` does not count it (R357, R359; DEDUCED,
notes/assumptions/42.md). -/
def State.failPort (s : State) (d : Nat) (host : Bool) : State :=
  if host then s.modPort d true fun p => { p with up := false } else s.failLink (modOfDie d) true (d % 16)

/-- LINK_FAILURE (R353, R357): of the scale-out port of die `n`, for `n` from 16 of the host port of die `n - 16`, or of a boundary. -/
def execLinkFailure (m : Nat) (port : Bool) (n : Nat) (s : State) : Out :=
  if port then
    let d := 16 * m + n % 16
    if 32 ≤ n ∨ isPort d (decide (16 ≤ n)) = false ∨ (s.port d (decide (16 ≤ n))).up = false then .next s
    else .next (s.failPort d (decide (16 ≤ n)))
  else if 24 ≤ n ∨ (endsOf m n).all (fun q => !(s.link q.1 q.2).up) = true then .next s
  else .next (s.failLink m false n)

/-- LINK_TRAINED (R437): of a scale-out or a host port; a die-to-die link trains with its self-test alone (R357). -/
def execLinkTrained (d : PortId) (s : State) : Out :=
  if (s.module (modOfDie d.die)).tripped ∨ isPort d.die d.host = false ∨ d.side.isSome then .next s
  else .next (s.modPort d.die d.host fun p => { p with up := true })

/-! ## The operations of a frame (R354, R412-R414) -/

/-- An operation of the host is malformed whatever its address (R413, R414): an `OP` that no host sends, a payload cut short, a
LAUNCH with a payload or in the on-chip space. -/
def OclysOp.malformed (o : OclysOp) : Bool :=
  !(decide (o.op = 1) || decide (o.op = 2) || decide (o.op = 3)) || decide (o.data.length < carried o.op o.len) ||
    (decide (o.op = 3) && (o.onchip || decide (o.len ≠ 0)))

/-- An operation of a frame acts on a host port (R412-R414); one on a scale-out port is malformed (R413). -/
def State.applyOp (s : State) (d : Nat) (host : Bool) (o : OclysOp) : Out :=
  if !host || o.malformed then execMalformedOperation ⟨d, host, none⟩ o.op o.tag s
  else if o.op = 1 then execHostWrite d o.onchip o.addr o.tag o.data s
  else if o.op = 2 then execHostRead d o.onchip o.addr o.len o.tag s
  else execHostLaunch d o.queue o.addr o.tag s

/-- The operations of a frame act in their order (R354). -/
def State.applyOps (s : State) (d : Nat) (host : Bool) : List OclysOp → Out
  | [] => .next s
  | o :: t =>
    match s.applyOp d host o with
    | .next s' => s'.applyOps d host t
    | x => x

/-- The payload consists of operations that a host sends, each with its whole payload (R412); reserved bits and padding are ignored (R3). -/
def hostOps (payload : List Byte) : Bool :=
  let l := oclysOps (payload.length / 16 + 1) payload
  !l.isEmpty && (l.all fun o => (decide (o.op = 1) || decide (o.op = 2) || decide (o.op = 3)) && decide (o.data.length = carried o.op o.len)) &&
    decide ((l.map fun o => 16 + o.data.length + padTo16 o.data.length).sum = payload.length)

/-- The payload of an accepted frame reaches the module (R354): the operations of a host port act; operations of a host that arrive on a
scale-out port are answered with `STATUS` 2 (R413). Anything else on a scale-out port is handed to the units of the module, as the
collective transfers, offers and barrier packets that this model moves by steps of their own; that a payload there is taken for operations
where all of it has their form is a DESIGN CHOICE (notes/assumptions/42.md). -/
def State.deliver (s : State) (d : Nat) (host : Bool) (payload : List Byte) : Out :=
  if host || hostOps payload then s.applyOps d host (oclysOps (payload.length / 16 + 1) payload)
  else .next { s with outs := s.outs ++ [.delivered d payload] }

/-! ## Frames (R353) -/

/-- A frame without payload leaves on a port: 1 acknowledges, 2 asks for replay. -/
def State.signal (s : State) (d : Nat) (host : Bool) (kind : Nat) (seq : BitVec 32) : State :=
  s.putFrame d host (s.linkCfg d) none kind seq []

/-- A data frame at a port that works: the frame that is expected is accepted, delivered and acknowledged; one already accepted is
acknowledged again; a bad one, and one after a gap, is dropped, and a replay request names the number expected. -/
def State.frameIn (s : State) (d : Nat) (host : Bool) (seq ack : BitVec 32) (good : Bool) (payload : List Byte) : Out :=
  let p := s.port d host
  if !good || decide (0 < seqDist seq p.expected) then .next (s.signal d host 2 p.expected)
  else if seq = p.expected then
    match (s.modPort d host fun p => { p.acked ack with expected := p.expected + 1 }).deliver d host payload with
    | .next s1 => .next (s1.signal d host 1 (s1.port d host).nextSeq)
    | x => x
  else .next ((s.modPort d host fun p => p.acked ack).signal d host 1 p.nextSeq)

/-! ### Die-to-die links -/

/-- The frame that the end of a die-to-die link receives next, with the state after it is taken; none where the link has failed or the
module is silent. -/
def State.takeWire (s : State) (d : Nat) (k : Fin 4) : Option (Wire × State) :=
  if !(s.link d k).up || !(s.module (modOfDie d)).alive then none
  else (s.wires.find? fun w => decide (w.die = d) && decide (w.side = k)).map fun w => (w, { s with wires := s.wires.erase w })

/-- A data frame at the end of a link, as at a port. Its flit needs no delivery: the steps of the transfer bring its data. -/
def State.linkIn (s : State) (d : Nat) (k : Fin 4) (seq ack : BitVec 32) (good : Bool) : State :=
  let p := s.link d k
  if !good || decide (0 < seqDist seq p.expected) then s.putWire d k 2 p.expected []
  else if seq = p.expected then (s.modLink d k fun p => { p.acked ack with expected := p.expected + 1 }).putWire d k 1 p.nextSeq []
  else (s.modLink d k fun p => p.acked ack).putWire d k 1 p.nextSeq []

/-- The unacknowledged flits of a link sent again; after `OLCFG.RETRY` resends of one the link fails. -/
def State.linkResend (s : State) (d : Nat) (k : Fin 4) : State :=
  let p := s.link d k
  if p.kept.any fun f => decide (f.cfg.toNat % 256 ≤ f.resends) then s.failLink (modOfDie d) false (firstBoundary d (beyond d k))
  else
    let s1 := s.modLink d k fun p => { p with
      replay := p.replay + BitVec.ofNat 32 p.kept.length
      kept := p.kept.map fun f => { f with resends := f.resends + 1, sentAt := s.clk } }
    p.kept.foldl (fun s f => s.putWire d k 0 f.seq f.payload) s1

/-- The frame that arrives at the end of a link as it was sent. -/
def State.wireIn (s : State) (w : Wire) : State :=
  if w.kind = 0 then s.linkIn w.die w.side w.seq w.ack true
  else if w.kind = 1 then s.modLink w.die w.side fun p => p.acked w.ack
  else (s.modLink w.die w.side fun p => p.acked w.seq).linkResend w.die w.side

/-- Every frame on its way to one end of a die-to-die link arrives, in order. -/
def State.linkFrames (s : State) (d : Nat) (k : Fin 4) : State :=
  (s.wires.filter fun w => decide (w.die = d) && decide (w.side = k)).foldl (fun s _ =>
    match s.takeWire d k with
    | some q => q.2.wireIn q.1
    | none => s) s

/-- The next frame at the end of a link, where it is one that a step names. -/
def State.wireStep (s : State) (d : Nat) (k : Fin 4) (is : Wire → Bool) (f : Wire → State → State) : Out :=
  match s.takeWire d k with
  | some q => if is q.1 then .next (f q.1 q.2) else .next s
  | none => .next s

/-- OCLYS_DATA_FRAME (R353, R354); on a die-to-die link the frame that comes next, with a bad check sequence whatever it was. -/
def execOclysDataFrame (d : PortId) (seq ack : BitVec 32) (good : Bool) (payload : List Byte) (s : State) : Out :=
  match d.side with
  | some k =>
    s.wireStep d.die k
      (fun w => !good || (decide (w.kind = 0) && decide (w.seq = seq) && decide (w.ack = ack) && decide (w.payload = payload)))
      fun _ s => s.linkIn d.die k seq ack good
  | none => if s.portUp d.die d.host then s.frameIn d.die d.host seq ack good payload else .next s

/-- OCLYS_ACK_FRAME (R353). -/
def execOclysAckFrame (d : PortId) (ack : BitVec 32) (s : State) : Out :=
  match d.side with
  | some k => s.wireStep d.die k (fun w => decide (w.kind = 1) && decide (w.ack = ack)) fun w s => s.wireIn w
  | none => if s.portUp d.die d.host then .next (s.modPort d.die d.host fun p => p.acked ack) else .next s

/-- The unacknowledged frames of a port sent again, as they were; after `OLCFG.RETRY` resends of one frame the link fails. -/
def State.resend (s : State) (d : Nat) (host : Bool) : State :=
  let p := s.port d host
  if p.kept.any fun f => decide (f.cfg.toNat % 256 ≤ f.resends) then s.failPort d host
  else
    let s1 := s.modPort d host fun p => { p with
      replay := p.replay + BitVec.ofNat 32 p.kept.length
      kept := p.kept.map fun f => { f with resends := f.resends + 1, sentAt := s.clk } }
    p.kept.foldl (fun s f => s.putFrame d host f.cfg f.dst 0 f.seq f.payload) s1

/-- OCLYS_REPLAY_REQUEST (R353, R355): the frames from the named one are sent again, as they were; those before it have
arrived. -/
def execOclysReplayRequest (d : PortId) (seq : BitVec 32) (s : State) : Out :=
  match d.side with
  | some k => s.wireStep d.die k (fun w => decide (w.kind = 2) && decide (w.seq = seq)) fun w s => s.wireIn w
  | none => if s.portUp d.die d.host then .next ((s.modPort d.die d.host fun p => p.acked seq).resend d.die d.host) else .next s

/-- OCLYS_ACK_TIMEOUT (R353): `OLCFG.ATMO` ns have passed without an acknowledgement. -/
def execOclysAckTimeout (d : PortId) (s : State) : Out :=
  match d.side with
  | some k =>
    match (s.link d.die k).kept with
    | [] => .next s
    | f :: _ =>
      if (s.link d.die k).up = false ∨ (s.module (modOfDie d.die)).alive = false ∨ s.clk < f.sentAt + 4 * fld f.cfg.toNat 8 32 then .next s
      else .next (s.linkResend d.die k)
  | none =>
    match (s.port d.die d.host).kept with
    | [] => .next s
    | f :: _ =>
      if s.portUp d.die d.host = false ∨ s.clk < f.sentAt + 4 * fld f.cfg.toNat 8 32 then .next s else .next (s.resend d.die d.host)

end Sys2Proof.Machine
end

