-- ==== Sys2Proof/Machine/Scalar.lean ====
section
/-! DEFINITION. The scalar arithmetic of major opcodes 0x01-0x0B (R123-R128): no function traps, and each runs on every
core type (R20). -/

namespace Sys2Proof.Machine

/-- Signed division toward zero: -1 for a zero divisor; -2^63 / -1 = -2^63 (R123). -/
def divSigned (a b : W) : W := if b = 0 then BitVec.allOnes 64 else BitVec.ofInt 64 (a.toInt.tdiv b.toInt)

/-- Signed remainder with the sign of the dividend: the dividend for a zero divisor (R123). -/
def remSigned (a b : W) : W := if b = 0 then a else BitVec.ofInt 64 (a.toInt.tmod b.toInt)

/-- Count of leading zero bits, 64 for 0 (R123). -/
def clzNat (a : Nat) : Nat := if a = 0 then 64 else 63 - Nat.log2 a

/-- Count of trailing zero bits, 64 for 0 (R123). -/
def ctzNat (a : Nat) : Nat := ((List.range 64).find? (fun i => bitOf a i)).getD 64

/-- Count of one bits (R123). -/
def popcNat (a : Nat) : Nat := ((List.range 64).filter (fun i => bitOf a i)).length

/-- `X[d] <- f(X[a], X[b])`. -/
def State.alu2 (s : State) (d a b : BitVec 5) (f : W → W → W) : Out := s.doneX d (f (s.rx a) (s.rx b))

/-- `X[d] <- f(X[a])`. -/
def State.alu1 (s : State) (d a : BitVec 5) (f : W → W) : Out := s.doneX d (f (s.rx a))

/-- add (R123): a + b. -/
def execAdd (d a b : BitVec 5) (s : State) : Out := s.alu2 d a b fun a b => a + b

/-- sub (R123): a − b. -/
def execSub (d a b : BitVec 5) (s : State) : Out := s.alu2 d a b fun a b => a - b

/-- and (R123): bitwise AND. -/
def execAnd (d a b : BitVec 5) (s : State) : Out := s.alu2 d a b fun a b => a &&& b

/-- or (R123): bitwise OR. -/
def execOr (d a b : BitVec 5) (s : State) : Out := s.alu2 d a b fun a b => a ||| b

/-- xor (R123): bitwise XOR. -/
def execXor (d a b : BitVec 5) (s : State) : Out := s.alu2 d a b fun a b => a ^^^ b

/-- andn (R123): a AND NOT b. -/
def execAndn (d a b : BitVec 5) (s : State) : Out := s.alu2 d a b fun a b => a &&& ~~~b

/-- sll (R123): shift left by bits(b,5,0). -/
def execSll (d a b : BitVec 5) (s : State) : Out := s.alu2 d a b fun a b => a <<< (b.toNat % 64)

/-- srl (R123): logical shift right. -/
def execSrl (d a b : BitVec 5) (s : State) : Out := s.alu2 d a b fun a b => a >>> (b.toNat % 64)

/-- sra (R123): arithmetic shift right. -/
def execSra (d a b : BitVec 5) (s : State) : Out := s.alu2 d a b fun a b => a.sshiftRight (b.toNat % 64)

/-- ror (R123): rotate right. -/
def execRor (d a b : BitVec 5) (s : State) : Out := s.alu2 d a b fun a b => a.rotateRight (b.toNat % 64)

/-- mul (R123): the low 64 bits of the product. -/
def execMul (d a b : BitVec 5) (s : State) : Out := s.alu2 d a b fun a b => a * b

/-- mulhS (R123): the high 64 bits of the signed product. -/
def execMulhS (d a b : BitVec 5) (s : State) : Out := s.alu2 d a b fun a b => BitVec.ofInt 64 (a.toInt * b.toInt / 2 ^ 64)

/-- mulhN (R123): the high 64 bits of the unsigned product. -/
def execMulhN (d a b : BitVec 5) (s : State) : Out := s.alu2 d a b fun a b => BitVec.ofNat 64 (a.toNat * b.toNat / 2 ^ 64)

/-- divS (R123): signed quotient toward zero. -/
def execDivS (d a b : BitVec 5) (s : State) : Out := s.alu2 d a b fun a b => divSigned a b

/-- divN (R123): unsigned quotient; all ones for a zero divisor. -/
def execDivN (d a b : BitVec 5) (s : State) : Out := s.alu2 d a b fun a b => if b = 0 then BitVec.allOnes 64 else BitVec.ofNat 64 (a.toNat / b.toNat)

/-- remS (R123): signed remainder with the sign of the dividend. -/
def execRemS (d a b : BitVec 5) (s : State) : Out := s.alu2 d a b fun a b => remSigned a b

/-- remN (R123): unsigned remainder; a for a zero divisor. -/
def execRemN (d a b : BitVec 5) (s : State) : Out := s.alu2 d a b fun a b => if b = 0 then a else BitVec.ofNat 64 (a.toNat % b.toNat)

/-- minS (R123): signed minimum. -/
def execMinS (d a b : BitVec 5) (s : State) : Out := s.alu2 d a b fun a b => if b.toInt < a.toInt then b else a

/-- minN (R123): unsigned minimum. -/
def execMinN (d a b : BitVec 5) (s : State) : Out := s.alu2 d a b fun a b => if b.toNat < a.toNat then b else a

/-- maxS (R123): signed maximum. -/
def execMaxS (d a b : BitVec 5) (s : State) : Out := s.alu2 d a b fun a b => if a.toInt < b.toInt then b else a

/-- maxN (R123): unsigned maximum. -/
def execMaxN (d a b : BitVec 5) (s : State) : Out := s.alu2 d a b fun a b => if a.toNat < b.toNat then b else a

/-- clz (R123): leading zero bits. -/
def execClz (d a : BitVec 5) (s : State) : Out := s.alu1 d a fun a => BitVec.ofNat 64 (clzNat a.toNat)

/-- ctz (R123): trailing zero bits. -/
def execCtz (d a : BitVec 5) (s : State) : Out := s.alu1 d a fun a => BitVec.ofNat 64 (ctzNat a.toNat)

/-- popc (R123): one bits. -/
def execPopc (d a : BitVec 5) (s : State) : Out := s.alu1 d a fun a => BitVec.ofNat 64 (popcNat a.toNat)

/-- mod31 (R123): a mod 31. -/
def execMod31 (d a : BitVec 5) (s : State) : Out := s.alu1 d a fun a => BitVec.ofNat 64 (a.toNat % 31)

/-- addi (R124): the immediate sign-extended. -/
def execAddi (d a : BitVec 5) (i : BitVec 15) (s : State) : Out := s.alu1 d a fun a => a + immW i

/-- andi (R124): the immediate sign-extended. -/
def execAndi (d a : BitVec 5) (i : BitVec 15) (s : State) : Out := s.alu1 d a fun a => a &&& immW i

/-- ori (R124): the immediate sign-extended. -/
def execOri (d a : BitVec 5) (i : BitVec 15) (s : State) : Out := s.alu1 d a fun a => a ||| immW i

/-- xori (R124): the immediate sign-extended. -/
def execXori (d a : BitVec 5) (i : BitVec 15) (s : State) : Out := s.alu1 d a fun a => a ^^^ immW i

/-- slli (R125). -/
def execSlli (d a : BitVec 5) (n : BitVec 6) (s : State) : Out := s.alu1 d a fun a => a <<< n.toNat

/-- srli (R125). -/
def execSrli (d a : BitVec 5) (n : BitVec 6) (s : State) : Out := s.alu1 d a fun a => a >>> n.toNat

/-- srai (R125). -/
def execSrai (d a : BitVec 5) (n : BitVec 6) (s : State) : Out := s.alu1 d a fun a => a.sshiftRight n.toNat

/-- rori (R125). -/
def execRori (d a : BitVec 5) (n : BitVec 6) (s : State) : Out := s.alu1 d a fun a => a.rotateRight n.toNat

/-- lih (R126): `X[d] <- sext(imm20) << 12`. -/
def execLih (d : BitVec 5) (i : BitVec 20) (s : State) : Out := s.doneX d (upper i)

/-- addpc (R126): `X[d] <- PC + (sext(imm20) << 12)`, the PC of the `addpc` itself. -/
def execAddpc (d : BitVec 5) (i : BitVec 20) (s : State) : Out := s.doneX d (s.me.pc + upper i)

/-- pcmp (R127): `P[p]` becomes the condition on `X[a]` and `X[b]`. -/
def execPcmp (p c : BitVec 3) (a b : BitVec 5) (s : State) : Out := s.doneP p (condHolds c.toNat (s.rx a) (s.rx b))

/-- pcmpi (R127): the second operand is the sign-extended immediate. -/
def execPcmpi (p c : BitVec 3) (a : BitVec 5) (i : BitVec 14) (s : State) : Out :=
  s.doneP p (condHolds c.toNat (s.rx a) (immW i))

/-- `P[d] <- F(P[a], P[b])` (R128). -/
def State.predOp (s : State) (c : Nat) (d a b : BitVec 3) : Out := s.doneP d (predFn c (s.rp a) (s.rp b))

/-- pand (R128). -/
def execPand (d a b : BitVec 3) (s : State) : Out := s.predOp 0 d a b

/-- por (R128). -/
def execPor (d a b : BitVec 3) (s : State) : Out := s.predOp 1 d a b

/-- pxor (R128). -/
def execPxor (d a b : BitVec 3) (s : State) : Out := s.predOp 2 d a b

/-- pandn (R128). -/
def execPandn (d a b : BitVec 3) (s : State) : Out := s.predOp 3 d a b

/-- porn (R128). -/
def execPorn (d a b : BitVec 3) (s : State) : Out := s.predOp 4 d a b

/-- pxnor (R128). -/
def execPxnor (d a b : BitVec 3) (s : State) : Out := s.predOp 5 d a b

end Sys2Proof.Machine
end

