-- ==== Sys2Proof/Machine/Dispatch.lean ====
section
/-! DEFINITION. The meaning of every row of spec/opcode_table.json: one arm per constructor. -/

namespace Sys2Proof.Machine

/-- What a row does. -/
def exec (i : Instr) (s : State) : Host.Outcome State Fault Refusal :=
  match i with
  | .add d a b => Sys2Proof.Machine.execAdd d a b s
  | .sub d a b => Sys2Proof.Machine.execSub d a b s
  | .and d a b => Sys2Proof.Machine.execAnd d a b s
  | .or d a b => Sys2Proof.Machine.execOr d a b s
  | .xor d a b => Sys2Proof.Machine.execXor d a b s
  | .andn d a b => Sys2Proof.Machine.execAndn d a b s
  | .sll d a b => Sys2Proof.Machine.execSll d a b s
  | .srl d a b => Sys2Proof.Machine.execSrl d a b s
  | .sra d a b => Sys2Proof.Machine.execSra d a b s
  | .ror d a b => Sys2Proof.Machine.execRor d a b s
  | .mul d a b => Sys2Proof.Machine.execMul d a b s
  | .mulhS d a b => Sys2Proof.Machine.execMulhS d a b s
  | .mulhN d a b => Sys2Proof.Machine.execMulhN d a b s
  | .divS d a b => Sys2Proof.Machine.execDivS d a b s
  | .divN d a b => Sys2Proof.Machine.execDivN d a b s
  | .remS d a b => Sys2Proof.Machine.execRemS d a b s
  | .remN d a b => Sys2Proof.Machine.execRemN d a b s
  | .minS d a b => Sys2Proof.Machine.execMinS d a b s
  | .minN d a b => Sys2Proof.Machine.execMinN d a b s
  | .maxS d a b => Sys2Proof.Machine.execMaxS d a b s
  | .maxN d a b => Sys2Proof.Machine.execMaxN d a b s
  | .clz d a => Sys2Proof.Machine.execClz d a s
  | .ctz d a => Sys2Proof.Machine.execCtz d a s
  | .popc d a => Sys2Proof.Machine.execPopc d a s
  | .mod31 d a => Sys2Proof.Machine.execMod31 d a s
  | .addi d a imm => Sys2Proof.Machine.execAddi d a imm s
  | .andi d a imm => Sys2Proof.Machine.execAndi d a imm s
  | .ori d a imm => Sys2Proof.Machine.execOri d a imm s
  | .xori d a imm => Sys2Proof.Machine.execXori d a imm s
  | .slli d a n => Sys2Proof.Machine.execSlli d a n s
  | .srli d a n => Sys2Proof.Machine.execSrli d a n s
  | .srai d a n => Sys2Proof.Machine.execSrai d a n s
  | .rori d a n => Sys2Proof.Machine.execRori d a n s
  | .lih d imm => Sys2Proof.Machine.execLih d imm s
  | .addpc d imm => Sys2Proof.Machine.execAddpc d imm s
  | .pcmp p c a b => Sys2Proof.Machine.execPcmp p c a b s
  | .pcmpi p c a imm => Sys2Proof.Machine.execPcmpi p c a imm s
  | .pand d a b => Sys2Proof.Machine.execPand d a b s
  | .por d a b => Sys2Proof.Machine.execPor d a b s
  | .pxor d a b => Sys2Proof.Machine.execPxor d a b s
  | .pandn d a b => Sys2Proof.Machine.execPandn d a b s
  | .porn d a b => Sys2Proof.Machine.execPorn d a b s
  | .pxnor d a b => Sys2Proof.Machine.execPxnor d a b s
  | .ldS8 d a imm => Sys2Proof.Machine.execLdS8 d a imm s
  | .ldN8 d a imm => Sys2Proof.Machine.execLdN8 d a imm s
  | .ldS16 d a imm => Sys2Proof.Machine.execLdS16 d a imm s
  | .ldN16 d a imm => Sys2Proof.Machine.execLdN16 d a imm s
  | .ldS32 d a imm => Sys2Proof.Machine.execLdS32 d a imm s
  | .ldN32 d a imm => Sys2Proof.Machine.execLdN32 d a imm s
  | .ld64 d a imm => Sys2Proof.Machine.execLd64 d a imm s
  | .st8 r a imm => Sys2Proof.Machine.execSt8 r a imm s
  | .st16 r a imm => Sys2Proof.Machine.execSt16 r a imm s
  | .st32 r a imm => Sys2Proof.Machine.execSt32 r a imm s
  | .st64 r a imm => Sys2Proof.Machine.execSt64 r a imm s
  | .ldfe d a c imm => Sys2Proof.Machine.execLdfe d a c imm s
  | .ldfeWake t w => Sys2Proof.Machine.execLdfeWake t w s
  | .stfe r a e imm => Sys2Proof.Machine.execStfe r a e imm s
  | .gld d a b t => Sys2Proof.Machine.execGld d a b t s
  | .gldDataReturn t a => Sys2Proof.Machine.execGldDataReturn t a s
  | .ldb d a b t => Sys2Proof.Machine.execLdb d a b t s
  | .stb r a b t => Sys2Proof.Machine.execStb r a b t s
  | .br p n h o => Sys2Proof.Machine.execBr p n h o s
  | .jal d imm => Sys2Proof.Machine.execJal d imm s
  | .jalr d a imm => Sys2Proof.Machine.execJalr d a imm s
  | .nop => Sys2Proof.Machine.execNop s
  | .yield => Sys2Proof.Machine.execYield s
  | .exit => Sys2Proof.Machine.execExit s
  | .trap a => Sys2Proof.Machine.execTrap a s
  | .eret => Sys2Proof.Machine.execEret s
  | .fence => Sys2Proof.Machine.execFence s
  | .fenceAcq => Sys2Proof.Machine.execFenceAcq s
  | .fenceRel => Sys2Proof.Machine.execFenceRel s
  | .csrr d c => Sys2Proof.Machine.execCsrr d c s
  | .csrw r c => Sys2Proof.Machine.execCsrw r c s
  | .spawn d a n q => Sys2Proof.Machine.execSpawn d a n q s
  | .semv a k => Sys2Proof.Machine.execSemv a k s
  | .semp k => Sys2Proof.Machine.execSemp k s
  | .sempt e b k => Sys2Proof.Machine.execSempt e b k s
  | .semset a k => Sys2Proof.Machine.execSemset a k s
  | .semget e k => Sys2Proof.Machine.execSemget e k s
  | .semaphoreGrant t k => Sys2Proof.Machine.execSemaphoreGrant t k s
  | .semptExpiry t a => Sys2Proof.Machine.execSemptExpiry t a s
  | .bld d a imm => Sys2Proof.Machine.execBld d a imm s
  | .bst d a imm => Sys2Proof.Machine.execBst d a imm s
  | .sync d a b v o => Sys2Proof.Machine.execSync d a b v o s
  | .ssqNum d => Sys2Proof.Machine.execSsqNum d s
  | .ssqOut d => Sys2Proof.Machine.execSsqOut d s
  | .ssqRed d => Sys2Proof.Machine.execSsqRed d s
  | .ssqTry d => Sys2Proof.Machine.execSsqTry d s
  | .ssqRel d => Sys2Proof.Machine.execSsqRel d s
  | .send p a b n t => Sys2Proof.Machine.execSend p a b n t s
  | .recv d a n r p => Sys2Proof.Machine.execRecv d a n r p s
  | .recvAny d a r p => Sys2Proof.Machine.execRecvAny d a r p s
  | .rspawn p a b => Sys2Proof.Machine.execRspawn p a b s
  | .xsend e a b => Sys2Proof.Machine.execXsend e a b s
  | .xrecv e a b => Sys2Proof.Machine.execXrecv e a b s
  | .vaddF d a b t m => Sys2Proof.Machine.execVaddF d a b t m s
  | .vsubF d a b t m => Sys2Proof.Machine.execVsubF d a b t m s
  | .vmulF d a b t m => Sys2Proof.Machine.execVmulF d a b t m s
  | .vminF d a b t m => Sys2Proof.Machine.execVminF d a b t m s
  | .vmaxF d a b t m => Sys2Proof.Machine.execVmaxF d a b t m s
  | .vabsF d a t m => Sys2Proof.Machine.execVabsF d a t m s
  | .vneg d a t m => Sys2Proof.Machine.execVneg d a t m s
  | .vcvt d a u t m => Sys2Proof.Machine.execVcvt d a u t m s
  | .vcvti d a t m => Sys2Proof.Machine.execVcvti d a t m s
  | .vcvtf d a t m => Sys2Proof.Machine.execVcvtf d a t m s
  | .vaddI d a b w => Sys2Proof.Machine.execVaddI d a b w s
  | .vsubI d a b w => Sys2Proof.Machine.execVsubI d a b w s
  | .vmulI d a b w => Sys2Proof.Machine.execVmulI d a b w s
  | .vminS d a b w => Sys2Proof.Machine.execVminS d a b w s
  | .vminN d a b w => Sys2Proof.Machine.execVminN d a b w s
  | .vmaxS d a b w => Sys2Proof.Machine.execVmaxS d a b w s
  | .vmaxN d a b w => Sys2Proof.Machine.execVmaxN d a b w s
  | .vand d a b w => Sys2Proof.Machine.execVand d a b w s
  | .vor d a b w => Sys2Proof.Machine.execVor d a b w s
  | .vxor d a b w => Sys2Proof.Machine.execVxor d a b w s
  | .vsll d a b w => Sys2Proof.Machine.execVsll d a b w s
  | .vsrl d a b w => Sys2Proof.Machine.execVsrl d a b w s
  | .vsra d a b w => Sys2Proof.Machine.execVsra d a b w s
  | .vaddsS d a b w => Sys2Proof.Machine.execVaddsS d a b w s
  | .vaddsN d a b w => Sys2Proof.Machine.execVaddsN d a b w s
  | .vsubsS d a b w => Sys2Proof.Machine.execVsubsS d a b w s
  | .vsubsN d a b w => Sys2Proof.Machine.execVsubsN d a b w s
  | .vabsI d a w => Sys2Proof.Machine.execVabsI d a w s
  | .vfma d a b c m t => Sys2Proof.Machine.execVfma d a b c m t s
  | .vfnma d a b c m t => Sys2Proof.Machine.execVfnma d a b c m t s
  | .vcmpI d a b w c => Sys2Proof.Machine.execVcmpI d a b w c s
  | .vcmpF d a b t c => Sys2Proof.Machine.execVcmpF d a b t c s
  | .vsel d a b w => Sys2Proof.Machine.execVsel d a b w s
  | .vld d a imm => Sys2Proof.Machine.execVld d a imm s
  | .vst r a imm => Sys2Proof.Machine.execVst r a imm s
  | .vlds d a b e => Sys2Proof.Machine.execVlds d a b e s
  | .vsts d a b e => Sys2Proof.Machine.execVsts d a b e s
  | .vgath d a b e => Sys2Proof.Machine.execVgath d a b e s
  | .vscat d a b e => Sys2Proof.Machine.execVscat d a b e s
  | .vredFadd d a t => Sys2Proof.Machine.execVredFadd d a t s
  | .vredFmin d a t => Sys2Proof.Machine.execVredFmin d a t s
  | .vredFmax d a t => Sys2Proof.Machine.execVredFmax d a t s
  | .vredAdd d a w => Sys2Proof.Machine.execVredAdd d a w s
  | .vredMinS d a w => Sys2Proof.Machine.execVredMinS d a w s
  | .vredMaxS d a w => Sys2Proof.Machine.execVredMaxS d a w s
  | .vperm d a b w => Sys2Proof.Machine.execVperm d a b w s
  | .vbcast d a w => Sys2Proof.Machine.execVbcast d a w s
  | .vmov d a => Sys2Proof.Machine.execVmov d a s
  | .vmovToX d a l w => Sys2Proof.Machine.execVmovToX d a l w s
  | .vmovToLane d a l w => Sys2Proof.Machine.execVmovToLane d a l w s
  | .vexp2 d a t => Sys2Proof.Machine.execVexp2 d a t s
  | .vlog2 d a t => Sys2Proof.Machine.execVlog2 d a t s
  | .vrcp d a t m => Sys2Proof.Machine.execVrcp d a t m s
  | .vrsq d a t m => Sys2Proof.Machine.execVrsq d a t m s
  | .vstreamIn e a k => Sys2Proof.Machine.execVstreamIn e a k s
  | .vstreamOut e a k => Sys2Proof.Machine.execVstreamOut e a k s
  | .vstreamEnd a => Sys2Proof.Machine.execVstreamEnd a s
  | .streamElementRead t a v => Sys2Proof.Machine.execStreamElementRead t a v s
  | .mcfg d a => Sys2Proof.Machine.execMcfg d a s
  | .mwld e k => Sys2Proof.Machine.execMwld e k s
  | .mmulR e a k => Sys2Proof.Machine.execMmulR e a k s
  | .mmulC e a k => Sys2Proof.Machine.execMmulC e a k s
  | .maccZ a => Sys2Proof.Machine.execMaccZ a s
  | .maccRd e a b => Sys2Proof.Machine.execMaccRd e a b s
  | .maccWr e a => Sys2Proof.Machine.execMaccWr e a s
  | .maccPin a => Sys2Proof.Machine.execMaccPin a s
  | .maccUnpin a => Sys2Proof.Machine.execMaccUnpin a s
  | .matrixEntryStart t e => Sys2Proof.Machine.execMatrixEntryStart t e s
  | .matrixEntryComplete t e => Sys2Proof.Machine.execMatrixEntryComplete t e s
  | .squant e a b k r t => Sys2Proof.Machine.execSquant e a b k r t s
  | .sdeq e a b k => Sys2Proof.Machine.execSdeq e a b k s
  | .sexp e a k => Sys2Proof.Machine.execSexp e a k s
  | .strans e a b k => Sys2Proof.Machine.execStrans e a b k s
  | .stransRq e a b k => Sys2Proof.Machine.execStransRq e a b k s
  | .scomp e a k => Sys2Proof.Machine.execScomp e a k s
  | .sblkExp e a b k => Sys2Proof.Machine.execSblkExp e a b k s
  | .sblkInt e a b k => Sys2Proof.Machine.execSblkInt e a b k s
  | .sblkFlt e a b k => Sys2Proof.Machine.execSblkFlt e a b k s
  | .scvt e a k m t => Sys2Proof.Machine.execScvt e a k m t s
  | .shapeOpStart t => Sys2Proof.Machine.execShapeOpStart t s
  | .shapeOpComplete t => Sys2Proof.Machine.execShapeOpComplete t s
  | .stage e a b k => Sys2Proof.Machine.execStage e a b k s
  | .copy e a k => Sys2Proof.Machine.execCopy e a k s
  | .hld e a k => Sys2Proof.Machine.execHld e a k s
  | .hst e a k => Sys2Proof.Machine.execHst e a k s
  | .hredAddS32 e a k => Sys2Proof.Machine.execHredAddS32 e a k s
  | .hredAddS64 e a k => Sys2Proof.Machine.execHredAddS64 e a k s
  | .hredMinS32 e a k => Sys2Proof.Machine.execHredMinS32 e a k s
  | .hredMinS64 e a k => Sys2Proof.Machine.execHredMinS64 e a k s
  | .hredMaxS32 e a k => Sys2Proof.Machine.execHredMaxS32 e a k s
  | .hredMaxS64 e a k => Sys2Proof.Machine.execHredMaxS64 e a k s
  | .hredAnd e a k => Sys2Proof.Machine.execHredAnd e a k s
  | .hredOr e a k => Sys2Proof.Machine.execHredOr e a k s
  | .hredFaddF32 e a k => Sys2Proof.Machine.execHredFaddF32 e a k s
  | .hfence => Sys2Proof.Machine.execHfence s
  | .haulOpStart t o => Sys2Proof.Machine.execHaulOpStart t o s
  | .haulChunk t o => Sys2Proof.Machine.execHaulChunk t o s
  | .haulOpComplete t o => Sys2Proof.Machine.execHaulOpComplete t o s
  | .haulOpReplay t o => Sys2Proof.Machine.execHaulOpReplay t o s
  | .queueFullResume t a => Sys2Proof.Machine.execQueueFullResume t a s
  | .ffcfgKey e k => Sys2Proof.Machine.execFfcfgKey e k s
  | .ffcfgBeta e k => Sys2Proof.Machine.execFfcfgBeta e k s
  | .ffcfgSigt e k => Sys2Proof.Machine.execFfcfgSigt e k s
  | .ffcfgMode e k => Sys2Proof.Machine.execFfcfgMode e k s
  | .ffldEdge e a k => Sys2Proof.Machine.execFfldEdge e a k s
  | .ffldBias e a k => Sys2Proof.Machine.execFfldBias e a k s
  | .ffldCol e a k => Sys2Proof.Machine.execFfldCol e a k s
  | .ffldState e a k => Sys2Proof.Machine.execFfldState e a k s
  | .ffopSweep a k => Sys2Proof.Machine.execFfopSweep a k s
  | .ffopClamp e k => Sys2Proof.Machine.execFfopClamp e k s
  | .ffopUnclamp e k => Sys2Proof.Machine.execFfopUnclamp e k s
  | .ffopCreset k => Sys2Proof.Machine.execFfopCreset k s
  | .ffrdBits e a k => Sys2Proof.Machine.execFfrdBits e a k s
  | .ffrdCnt e a k => Sys2Proof.Machine.execFfrdCnt e a k s
  | .fireflyCommandArrival d => Sys2Proof.Machine.execFireflyCommandArrival d s
  | .fireflyCommandStart d => Sys2Proof.Machine.execFireflyCommandStart d s
  | .fireflyCommandComplete d => Sys2Proof.Machine.execFireflyCommandComplete d s
  | .cgrp d a => Sys2Proof.Machine.execCgrp d a s
  | .crank d a => Sys2Proof.Machine.execCrank d a s
  | .cpart d a b => Sys2Proof.Machine.execCpart d a b s
  | .croute a b => Sys2Proof.Machine.execCroute a b s
  | .cmark a => Sys2Proof.Machine.execCmark a s
  | .csend e a b k => Sys2Proof.Machine.execCsend e a b k s
  | .crecv e a b k => Sys2Proof.Machine.execCrecv e a b k s
  | .crecvAdd e a b k => Sys2Proof.Machine.execCrecvAdd e a b k s
  | .crecvMax e a b k => Sys2Proof.Machine.execCrecvMax e a b k s
  | .tlbw a b => Sys2Proof.Machine.execTlbw a b s
  | .tlbinv a => Sys2Proof.Machine.execTlbinv a s
  | .tlbinvAll => Sys2Proof.Machine.execTlbinvAll s
  | .fqpop d => Sys2Proof.Machine.execFqpop d s
  | .fqres a => Sys2Proof.Machine.execFqres a s
  | .ctxsv a b => Sys2Proof.Machine.execCtxsv a b s
  | .ctxld a b => Sys2Proof.Machine.execCtxld a b s
  | .brk imm => Sys2Proof.Machine.execBrk imm s
  | .illegalInstruction w => Sys2Proof.Machine.execIllegalInstruction w s
  | .pcRangeTrap => Sys2Proof.Machine.execPcRangeTrap s
  | .strandChoice t => Sys2Proof.Machine.execStrandChoice t s
  | .watchdogExpiry => Sys2Proof.Machine.execWatchdogExpiry s
  | .deferredCause who => Sys2Proof.Machine.execDeferredCause who s
  | .windowRead m addr len => Sys2Proof.Machine.execWindowRead m addr len s
  | .windowWrite m addr bytes => Sys2Proof.Machine.execWindowWrite m addr bytes s
  | .windowSemaphoreWrite t k v => Sys2Proof.Machine.execWindowSemaphoreWrite t k v s
  | .fireflyContextBlockWrite d off bytes => Sys2Proof.Machine.execFireflyContextBlockWrite d off bytes s
  | .tileCloseArrival t => Sys2Proof.Machine.execTileCloseArrival t s
  | .closeArrival imm => Sys2Proof.Machine.execCloseArrival imm s
  | .sealArrival imm => Sys2Proof.Machine.execSealArrival imm s
  | .restoreDone imm => Sys2Proof.Machine.execRestoreDone imm s
  | .launchJoin imm => Sys2Proof.Machine.execLaunchJoin imm s
  | .exchangeStartPacket t => Sys2Proof.Machine.execExchangeStartPacket t s
  | .exchangeStart t => Sys2Proof.Machine.execExchangeStart t s
  | .release t => Sys2Proof.Machine.execRelease t s
  | .startInstant t => Sys2Proof.Machine.execStartInstant t s
  | .abort t => Sys2Proof.Machine.execAbort t s
  | .rollbackWindowDone t => Sys2Proof.Machine.execRollbackWindowDone t s
  | .targetedSelfTestEnd t pass scrub => Sys2Proof.Machine.execTargetedSelfTestEnd t pass scrub s
  | .stop t => Sys2Proof.Machine.execStop t s
  | .rootTimeout r => Sys2Proof.Machine.execRootTimeout r s
  | .shapingWindow t => Sys2Proof.Machine.execShapingWindow t s
  | .treeReconfigure r => Sys2Proof.Machine.execTreeReconfigure r s
  | .sealArrivalSend t => Sys2Proof.Machine.execSealArrivalSend t s
  | .flitSend t => Sys2Proof.Machine.execFlitSend t s
  | .flitArrival imm => Sys2Proof.Machine.execFlitArrival imm s
  | .xrecvMissedFlit t e => Sys2Proof.Machine.execXrecvMissedFlit t e s
  | .exchangeEnd t => Sys2Proof.Machine.execExchangeEnd t s
  | .messageOffer t e => Sys2Proof.Machine.execMessageOffer t e s
  | .collectiveSend t e => Sys2Proof.Machine.execCollectiveSend t e s
  | .collectiveLanding imm => Sys2Proof.Machine.execCollectiveLanding imm s
  | .collectiveReceiveTimeout t e => Sys2Proof.Machine.execCollectiveReceiveTimeout t e s
  | .deltaArrival t e => Sys2Proof.Machine.execDeltaArrival t e s
  | .faultRecordPost d => Sys2Proof.Machine.execFaultRecordPost d s
  | .oclysDataFrame d seq ack good payload => Sys2Proof.Machine.execOclysDataFrame d seq ack good payload s
  | .oclysAckFrame d ack => Sys2Proof.Machine.execOclysAckFrame d ack s
  | .oclysReplayRequest d seq => Sys2Proof.Machine.execOclysReplayRequest d seq s
  | .oclysAckTimeout d => Sys2Proof.Machine.execOclysAckTimeout d s
  | .linkFailure m port n => Sys2Proof.Machine.execLinkFailure m port n s
  | .linkTrained d => Sys2Proof.Machine.execLinkTrained d s
  | .hostWrite d onchip addr tag bytes => Sys2Proof.Machine.execHostWrite d onchip addr tag bytes s
  | .hostRead d onchip addr len tag => Sys2Proof.Machine.execHostRead d onchip addr len tag s
  | .hostLaunch d queue addr tag => Sys2Proof.Machine.execHostLaunch d queue addr tag s
  | .regionLaunch m => Sys2Proof.Machine.execRegionLaunch m s
  | .launchTilesSet m r => Sys2Proof.Machine.execLaunchTilesSet m r s
  | .launchTimeout m r => Sys2Proof.Machine.execLaunchTimeout m r s
  | .rctlHold d region => Sys2Proof.Machine.execRctlHold d region s
  | .rctlFree d region => Sys2Proof.Machine.execRctlFree d region s
  | .rctlResume d region => Sys2Proof.Machine.execRctlResume d region s
  | .rctlDiscard d region => Sys2Proof.Machine.execRctlDiscard d region s
  | .physdRead d => Sys2Proof.Machine.execPhysdRead d s
  | .physdWrite d v => Sys2Proof.Machine.execPhysdWrite d v s
  | .fqbaseWrite d v => Sys2Proof.Machine.execFqbaseWrite d v s
  | .migrationStart d v => Sys2Proof.Machine.execMigrationStart d v s
  | .migrationDone d => Sys2Proof.Machine.execMigrationDone d s
  | .pprStart d v => Sys2Proof.Machine.execPprStart d v s
  | .pprDone d => Sys2Proof.Machine.execPprDone d s
  | .hbmerrRead d => Sys2Proof.Machine.execHbmerrRead d s
  | .qcrecRead d => Sys2Proof.Machine.execQcrecRead d s
  | .pslewWrite d v => Sys2Proof.Machine.execPslewWrite d v s
  | .pcapWrite d v => Sys2Proof.Machine.execPcapWrite d v s
  | .throtWrite d v => Sys2Proof.Machine.execThrotWrite d v s
  | .spareControlWrite d csr v => Sys2Proof.Machine.execSpareControlWrite d csr v s
  | .attestationStart d v => Sys2Proof.Machine.execAttestationStart d v s
  | .attestationDone m => Sys2Proof.Machine.execAttestationDone m s
  | .powerCapInterval m pwr scale temps => Sys2Proof.Machine.execPowerCapInterval m pwr scale temps s
  | .thermalTrip m => Sys2Proof.Machine.execThermalTrip m s
  | .powerOn m => Sys2Proof.Machine.execPowerOn m s
  | .moduleReset m => Sys2Proof.Machine.execModuleReset m s
  | .secureBoot m => Sys2Proof.Machine.execSecureBoot m s
  | .sbReadMstat m => Sys2Proof.Machine.execSbReadMstat m s
  | .sbReadPower m => Sys2Proof.Machine.execSbReadPower m s
  | .sbReadTemp m => Sys2Proof.Machine.execSbReadTemp m s
  | .sbWritePcap m v => Sys2Proof.Machine.execSbWritePcap m v s
  | .sbReadBootstat m => Sys2Proof.Machine.execSbReadBootstat m s
  | .sbReset m v => Sys2Proof.Machine.execSbReset m v s
  | .sbReadIdentity m => Sys2Proof.Machine.execSbReadIdentity m s
  | .sbUnknownCommand m code => Sys2Proof.Machine.execSbUnknownCommand m code s
  | .joinTimeout r => Sys2Proof.Machine.execJoinTimeout r s
  | .noiseSourceHealthTest d ok => Sys2Proof.Machine.execNoiseSourceHealthTest d ok s
  | .ieee1588Sync m ofs adj => Sys2Proof.Machine.execIeee1588Sync m ofs adj s
  | .malformedOperation d op tag => Sys2Proof.Machine.execMalformedOperation d op tag s

end Sys2Proof.Machine
end

