-- ==== Sys2Proof/Machine/Policy.lean ====
section
/-! DEFINITION. Which step comes next. The spec fixes the instants of some steps (R97, R102, R106, R176, R187, R189, R194,
R285, R286, R347, R396, R435): those come when they are due. It fixes no order between the agents and the engines: the
schedule in the state names that order, and where the schedule is empty a fixed policy stands in for it
(notes/assumptions/2.md). -/

namespace Sys2Proof.Machine

/-- The steps that the machine makes of its own accord, each an event row of the opcode table, but for `slotNote`, by which a
tile notes whether its issue slot is free (R113), `partEnd`, the end of a region on a module (R398, R402), and `linkFrames`, the rows of
all the frames on their way to one end of a die-to-die link; a self-test of the policy passes. -/
inductive Act where
  | slotNote (t : Nat)
  | partEnd (m serial : Nat)
  | thermalTrip (m : Nat)
  | deferredCause (t : Nat) (a : Fin 10)
  | ldfeWake (t w : Nat)
  | semaphoreGrant (t k : Nat)
  | semptExpiry (t a : Nat)
  | gldDataReturn (t a : Nat)
  | queueFullResume (t a : Nat)
  | strandChoice (t : Nat)
  | matrixEntryStart (t e : Nat)
  | matrixEntryComplete (t e : Nat)
  | shapeOpStart (t : Nat)
  | shapeOpComplete (t : Nat)
  | haulOpStart (t o : Nat)
  | haulChunk (t o : Nat)
  | haulOpComplete (t o : Nat)
  | haulOpReplay (t o : Nat)
  | fireflyCommandArrival (d : Nat)
  | fireflyCommandStart (d : Nat)
  | fireflyCommandComplete (d : Nat)
  | tileCloseArrival (t : Nat)
  | closeArrival (i : Nat)
  | sealArrival (i : Nat)
  | restoreDone (i : Nat)
  | launchJoin (i : Nat)
  | exchangeStartPacket (t : Nat)
  | exchangeStart (t : Nat)
  | release (t : Nat)
  | startInstant (t : Nat)
  | abort (t : Nat)
  | rollbackWindowDone (t : Nat)
  | targetedSelfTestPass (t : Nat)
  | stop (t : Nat)
  | rootTimeout (r : Nat)
  | shapingWindow (t : Nat)
  | sealArrivalSend (t : Nat)
  | flitSend (t : Nat)
  | flitArrival (i : Nat)
  | xrecvMissedFlit (t e : Nat)
  | exchangeEnd (t : Nat)
  | messageOffer (t e : Nat)
  | collectiveSend (t e : Nat)
  | collectiveLanding (i : Nat)
  | linkFrames (d : Nat) (k : Fin 4)
  | collectiveReceiveTimeout (t e : Nat)
  | deltaArrival (t e : Nat)
  | faultRecordPost (d : Nat)
  | regionLaunch (m : Nat)
  | launchTilesSet (m r : Nat)
  | launchTimeout (m r : Nat)
  | joinTimeout (r : Nat)
  | migrationDone (d : Nat)
  | pprDone (d : Nat)
  | attestationDone (m : Nat)
  deriving DecidableEq, Repr, Inhabited

/-- The slot of a tile noted as held, or as found free at the end of this clk (R113). -/
def State.noteSlot (s : State) (t : Nat) : State :=
  s.modTile t fun tl => { tl with issueSlot := if tl.slotHeld then .held else .free s.clk }

/-- What such a step does: the meaning of its row. -/
def Act.go (x : Act) (s : State) : Out :=
  match x with
  | .slotNote t => .next (s.noteSlot t)
  | .partEnd m r => .next (s.partEnd m r)
  | .thermalTrip m => execThermalTrip m s
  | .deferredCause t a => execDeferredCause (.tile t a) s
  | .ldfeWake t w => execLdfeWake t w s
  | .semaphoreGrant t k => execSemaphoreGrant t k s
  | .semptExpiry t a => execSemptExpiry t a s
  | .gldDataReturn t a => execGldDataReturn t a s
  | .queueFullResume t a => execQueueFullResume t a s
  | .strandChoice t => execStrandChoice t s
  | .matrixEntryStart t e => execMatrixEntryStart t e s
  | .matrixEntryComplete t e => execMatrixEntryComplete t e s
  | .shapeOpStart t => execShapeOpStart t s
  | .shapeOpComplete t => execShapeOpComplete t s
  | .haulOpStart t o => execHaulOpStart t o s
  | .haulChunk t o => execHaulChunk t o s
  | .haulOpComplete t o => execHaulOpComplete t o s
  | .haulOpReplay t o => execHaulOpReplay t o s
  | .fireflyCommandArrival d => execFireflyCommandArrival d s
  | .fireflyCommandStart d => execFireflyCommandStart d s
  | .fireflyCommandComplete d => execFireflyCommandComplete d s
  | .tileCloseArrival t => execTileCloseArrival t s
  | .closeArrival i => execCloseArrival i s
  | .sealArrival i => execSealArrival i s
  | .restoreDone i => execRestoreDone i s
  | .launchJoin i => execLaunchJoin i s
  | .exchangeStartPacket t => execExchangeStartPacket t s
  | .exchangeStart t => execExchangeStart t s
  | .release t => execRelease t s
  | .startInstant t => execStartInstant t s
  | .abort t => execAbort t s
  | .rollbackWindowDone t => execRollbackWindowDone t s
  | .targetedSelfTestPass t => execTargetedSelfTestEnd t true true s
  | .stop t => execStop t s
  | .rootTimeout r => execRootTimeout r s
  | .shapingWindow t => execShapingWindow t s
  | .sealArrivalSend t => execSealArrivalSend t s
  | .flitSend t => execFlitSend t s
  | .flitArrival i => execFlitArrival i s
  | .xrecvMissedFlit t e => execXrecvMissedFlit t e s
  | .exchangeEnd t => execExchangeEnd t s
  | .messageOffer t e => execMessageOffer t e s
  | .collectiveSend t e => execCollectiveSend t e s
  | .collectiveLanding i => execCollectiveLanding i s
  | .linkFrames d k => .next (s.linkFrames d k)
  | .collectiveReceiveTimeout t e => execCollectiveReceiveTimeout t e s
  | .deltaArrival t e => execDeltaArrival t e s
  | .faultRecordPost d => execFaultRecordPost d s
  | .regionLaunch m => execRegionLaunch m s
  | .launchTilesSet m r => execLaunchTilesSet m r s
  | .launchTimeout m r => execLaunchTimeout m r s
  | .joinTimeout r => execJoinTimeout r s
  | .migrationDone d => execMigrationDone d s
  | .pprDone d => execPprDone d s
  | .attestationDone m => execAttestationDone m s

/-- Whether a step changes the state. -/
def State.changes (s : State) (i : Act) : Bool :=
  match i.go s with
  | .next s' => decide (s' ≠ s)
  | _ => false

/-- The first of some steps that changes the state. -/
def State.firstOf (s : State) (l : List Act) : Option Act := l.find? fun i => s.changes i

/-- The agents of a tile. -/
def agentIxs : List (Fin 10) := List.finRange 10

/-! ## Steps that are due now -/

/-- A waiting `ldfe` whose bank word is full (R97). -/
def Tile.dueWakes (tl : Tile) (t : Nat) : List Act :=
  if tl.node ≠ .run then []
  else
    agentIxs.filterMap fun a =>
      match tl.cur.agents[a].st with
      | .wait (.ldfe _ addr _) => if tl.full (addr / 16) then some (.ldfeWake t (addr / 16)) else none
      | _ => none

/-- The instants of a tile that have come: its start, its exchange start, the flit of this cycle, the next shaping window, the
limit of a collective receive (R175, R189, R194, R285, R347). -/
def Tile.dueTimers (tl : Tile) (t clk : Nat) : List Act :=
  match tl.node with
  | .relwait => if tl.startAt.any fun k => decide (k ≤ clk) then [.startInstant t] else []
  | .arrived =>
    match tl.xStart with
    | some x => if x ≤ clk then [.exchangeStart t] else []
    | none => []
  | .exch =>
    (if (tl.dueSend (tl.xCycle clk)).isSome then [.flitSend t] else []) ++
      (if tl.col.isEmpty || decide (clk < tl.xStart.getD 0 + 4 * tl.ctmoEff.toNat) then []
       else (List.range tl.col.length).map fun e => .collectiveReceiveTimeout t e)
  | .run => if tl.startClk + 4000 * (tl.mshWin.toNat + 1) ≤ clk then [.shapingWindow t] else []
  | _ => []

/-- The timeouts of a region that have come (R187, R396, R435). -/
def Region.dueTimers (r : Region) (clk : Nat) : List Act :=
  match r.phase with
  | .closing | .sealing | .restoring => if r.timer + 4 * r.fields.tmo ≤ clk then [.rootTimeout r.serial] else []
  | .launching =>
    (match r.firstJoin with
     | some c => if c + 4 * r.fields.tmo ≤ clk then [.joinTimeout r.serial] else []
     | none => []) ++
      (r.parts.filter fun p => !p.joined && decide (p.launchClk + 4 * r.fields.tmo ≤ clk)).map fun p => .launchTimeout p.m r.serial
  | _ => []

/-- The flits that arrive in this cycle (R286). -/
def State.dueFlits (s : State) : List Act :=
  ((s.flits.zipIdx.filter fun q => decide (q.1.cycle ≤ s.clk / 2)).take 1).map fun q => .flitArrival q.2

/-- The receive entries of a tile of which an in-port cycle may have passed without its flit (R294). -/
def Tile.dueMissed (tl : Tile) (t clk : Nat) : List Act :=
  if tl.node ≠ .exch then []
  else
    (tl.xsched.zipIdx.filter fun q => !q.1.send && decide (q.1.first t < tl.xCycle clk)).map fun q => .xrecvMissedFlit t q.2

/-- The end of a tile's exchange (R295). -/
def Tile.dueEnd (tl : Tile) (t clk : Nat) : List Act :=
  if decide (tl.node = .exch) && !tl.xEnded && tl.exchangeOver t clk then [.exchangeEnd t] else []

/-- The modules that a sensor at its trip temperature trips (R425). -/
def State.dueTrips (s : State) : List Act :=
  (s.dies.filter fun q => decide (105 ≤ q.2.ctl.tempDie.toNat) || decide (100 ≤ q.2.ctl.tempHbm.toNat)).map fun q =>
    .thermalTrip (modOfDie q.1)

/-- The steps that are due at this clk: a flit is sent before the flits of its cycle land (R292); one that did not come is missed
before those of the next cycle land, and an exchange ends after the last has landed (R294, R295). -/
def State.due (s : State) : List Act :=
  s.dueTrips ++ (s.tiles.flatMap fun q => q.2.dueWakes q.1) ++ (s.tiles.flatMap fun q => q.2.dueTimers q.1 s.clk) ++
    (s.tiles.flatMap fun q => q.2.dueMissed q.1 s.clk) ++ s.dueFlits ++ (s.tiles.flatMap fun q => q.2.dueEnd q.1 s.clk) ++
    s.regions.flatMap fun r => r.dueTimers s.clk

/-- The step that must come now, before anything else. -/
def State.forced (s : State) : Option Act := s.firstOf s.due

/-! ## The end of a 2 GHz cycle -/

/-- The grants of a tile at the end of a cycle, then the limits that end in it, then the waits that a deferred cause ends (R102,
R106, R120). -/
def Tile.cycleEnd (tl : Tile) (t clk : Nat) : List Act :=
  if tl.node ≠ .run then []
  else
    (agentIxs.filterMap fun a =>
      match tl.cur.agents[a].st with
      | .wait (.semp k) | .wait (.sempt k _ _) => if 0 < tl.sem k then some (.semaphoreGrant t k) else none
      | _ => none) ++
      (agentIxs.filterMap fun a => if ((tl.cur.agents[a]).limitOver clk).isSome then some (.semptExpiry t a.val) else none) ++
      agentIxs.filterMap fun a =>
        match tl.cur.agents[a].deferred, tl.cur.agents[a].st with
        | some _, .wait _ => some (.deferredCause t a)
        | _, _ => none

/-- The choice of a strand at the end of a clk (R113): the slot was found free at the end of an earlier clk, and a strand is READY; a slot that
a strand gave up in this clk is noted free, so that the choice comes in the next one. Where no strand is READY, a tile whose cycle ends
with grants notes that it chose none, for a strand that is granted becomes READY in the next clk (R105). -/
def Tile.choice (tl : Tile) (t clk : Nat) (ends : Bool) : List Act :=
  if !tl.issuing then []
  else
    match tl.slotHeld, tl.issueSlot with
    | true, _ => []
    | false, .held | false, .chosen _ => [.slotNote t]
    | false, .free f =>
      if clk ≤ f then []
      else if (bestReady tl (rrOrder tl.rr)).isSome then [.strandChoice t]
      else if ends && !(tl.cycleEnd t clk).isEmpty then [.slotNote t]
      else []

/-- The ends of a region on its modules (R398, R402). -/
def Region.endings (r : Region) : List Act := if r.phase = .ending then r.parts.map fun p => .partEnd p.m r.serial else []

/-- The step that must come before the clock passes to `clk + k`: the choices of strands; then, where a 2 GHz cycle ends, its grants
and expiries, and the ends of regions. -/
def State.crossing (s : State) (k : Nat) : Option Act :=
  let ends : Bool := decide ((s.clk + k) / 2 ≠ s.clk / 2)
  s.firstOf ((s.tiles.flatMap fun q => q.2.choice q.1 s.clk ends) ++
    if ends then (s.tiles.flatMap fun q => q.2.cycleEnd q.1 s.clk) ++ s.regions.flatMap fun r => r.endings else [])

/-! ## The instants that a jump of the clock does not pass -/

/-- The instants of one entry of an exchange schedule that starts at `x`: its flits, and what ends with it (R285, R295). -/
def XEntry.instants (e : XEntry) (t x clk : Nat) : List Nat :=
  let now := (clk - x) / 2
  let f := flitsOf e.n
  [x + 2 * e.first t, x + 2 * (e.first t + f - 1), x + 2 * (e.first t + f), x + 2 * (e.cyc + f - 1 + 2 * reelLatency t e.peer)] ++
    if decide (e.first t ≤ now + 1) && decide (now + 1 < e.first t + f) then [(clk / 2 + 1) * 2] else []

/-- The clk in which the core may choose, or the chosen strand issue (R113). -/
def IssueSlot.instant : IssueSlot → List Nat
  | .held => []
  | .free c | .chosen c => [c + 1]

/-- The instants of a tile. -/
def Tile.instants (tl : Tile) (t clk : Nat) : List Nat :=
  tl.down.map (fun p => (p.sentAt / 2 + 1) * 2) ++
    match tl.node with
    | .relwait => tl.startAt.toList
    | .arrived => tl.xStart.toList
    | .exch =>
      let x := tl.xStart.getD 0
      tl.xsched.flatMap (fun e => e.instants t x clk) ++ if tl.col.isEmpty then [] else [x + 4 * tl.ctmoEff.toNat]
    | .run =>
      (tl.startClk + 4000 * (tl.mshWin.toNat + 1)) :: tl.issueSlot.instant ++
        agentIxs.filterMap fun a =>
          match tl.cur.agents[a].st with
          | .wait (.sempt _ _ limit) => some (limit / 2 * 2 + 1)
          | _ => none
    | _ => []

/-- The instants of a region. -/
def Region.instants (r : Region) : List Nat :=
  match r.phase with
  | .closing | .sealing | .restoring => [r.timer + 4 * r.fields.tmo]
  | .launching =>
    (r.firstJoin.toList.map fun c => c + 4 * r.fields.tmo) ++
      (r.parts.filter fun p => !p.joined).map fun p => p.launchClk + 4 * r.fields.tmo
  | _ => []

/-- The instants of a die: Firefly commands on their way, and fault records (R317, R371). -/
def Die.instants (d : Die) : List Nat :=
  d.ff.coming.map (fun c => 2 * c.cycle) ++ d.mc.stops.map fun f => (f.cycle + 1) * 2

/-- Every instant after now at which something is due. -/
def State.instants (s : State) : List Nat :=
  let flits : List Nat := s.flits.map fun f => 2 * f.cycle
  let tiles : List Nat := s.tiles.flatMap fun q => q.2.instants q.1 s.clk
  let dies : List Nat := s.dies.flatMap fun q => q.2.instants
  let regions : List Nat := s.regions.flatMap fun r => r.instants
  let slews : List Nat :=
    if s.tiles.any fun q => q.2.matQ.any fun e => e.delayed && !e.started then
      s.modules.flatMap fun q => q.2.slewStarts.map fun c => c + 4000
    else []
  (flits ++ tiles ++ dies ++ regions ++ slews).filter fun n => decide (s.clk < n)

/-- How far the clock may go in one step, at most `k`: not past the next instant, and at least 1. -/
def State.room (s : State) (k : Nat) : Nat := s.instants.foldl (fun k n => Nat.min k (n - s.clk)) k

/-- How far the clock goes where nothing happens: to the next instant, or 1 clk. -/
def State.leap (s : State) : Nat :=
  match s.instants with
  | [] => 1
  | n :: t => t.foldl (fun k n => Nat.min k (n - s.clk)) (n - s.clk)

/-! ## Steps that may come at any time -/

/-- The down packet at the head of a tile's list (R167). -/
def Down.step (p : Down) (t : Nat) : Act :=
  if p.kind = 0 then .exchangeStartPacket t else if p.kind = 1 then .release t else if p.kind = 2 then .abort t else .stop t

/-- The haul operations of a tile: completions, replays, chunks, starts. -/
def Tile.haulSteps (tl : Tile) (t : Nat) : List Act :=
  tl.haulQ.map (fun o => .haulOpComplete t o.id) ++ tl.haulStore.map (fun o => .haulOpReplay t o.id) ++
    tl.haulQ.map (fun o => .haulChunk t o.id) ++ tl.haulQ.map fun o => .haulOpStart t o.id

/-- The steps of a tile that may come. -/
def Tile.steps (tl : Tile) (t : Nat) : List Act :=
  let waits : List Act := agentIxs.filterMap fun a =>
    match tl.cur.agents[a].st with
    | .wait (.gld _ _ _) => some (.gldDataReturn t a.val)
    | .wait .queue => some (.queueFullResume t a.val)
    | _ => none
  let shape : List Act := if tl.shapeQ.isEmpty then [] else [.shapeOpComplete t, .shapeOpStart t]
  let tests : List Act := if tl.tests.isEmpty then [] else [.targetedSelfTestPass t]
  let parts : List (List Act) :=
    [waits, tl.matQ.map fun e => .matrixEntryComplete t e.id, tl.matQ.map fun e => .matrixEntryStart t e.id, shape, tl.haulSteps t,
      [.tileCloseArrival t], (tl.down.take 1).map fun p => p.step t,
      (List.range tl.deltas.length).map fun e => .deltaArrival t e,
      (List.range tl.col.length).map fun e => .collectiveSend t e,
      (List.range tl.cur.outbox.length).map fun e => .messageOffer t e, [.sealArrivalSend t], tests,
      [.rollbackWindowDone t]]
  parts.flatten

/-- The steps of a die that may come. -/
def Die.steps (x : Die) (d : Nat) : List Act :=
  let run : List Act := if x.ff.queue.isEmpty then [] else [.fireflyCommandComplete d, .fireflyCommandStart d]
  let come : List Act := if x.ff.coming.isEmpty then [] else [.fireflyCommandArrival d]
  let post : List Act := if x.mc.stops.isEmpty then [] else [.faultRecordPost d]
  let move : List Act := if x.mc.migBusy then [.migrationDone d] else []
  let mend : List Act := if x.mc.pprBusy then [.pprDone d] else []
  run ++ come ++ post ++ move ++ mend

/-- The up packet in place `i` (R166). -/
def Up.step (u : Up) (i : Nat) : Act :=
  if u.kind = 0 then .closeArrival i else if u.kind = 1 then .sealArrival i else if u.kind = 2 then .restoreDone i else .launchJoin i

/-- The steps of a module that may come. -/
def Module.steps (x : Module) (m : Nat) : List Act :=
  (if x.queues.toList.any fun q => !q.waiting.isEmpty then [.regionLaunch m] else []) ++
    if x.attBusy then [.attestationDone m] else []

/-- Every step of the machine itself that may come now. STREAM_ELEMENT_READ is not among them: when an input stream reads ahead is open
(R161), and this policy reads an element only where an instruction consumes it; a schedule may read it before (DESIGN CHOICE,
notes/assumptions/2.md). -/
def State.possible (s : State) : List Act :=
  let tiles : List Act := s.tiles.flatMap fun q => q.2.steps q.1
  let dies : List Act := s.dies.flatMap fun q => q.2.steps q.1
  let ups : List Act := s.up.zipIdx.map fun q => q.1.step q.2
  let lands : List Act := (List.range s.xfers.length).map fun i => .collectiveLanding i
  let launches : List Act := s.regions.flatMap fun r =>
    if r.phase = .launching then (r.parts.filter fun p => !p.joined).map fun p => .launchTilesSet p.m r.serial else []
  let modules : List Act := s.modules.flatMap fun q => q.2.steps q.1
  let links : List Act := (s.wires.map fun w => (w.die, w.side)).dedup.map fun q => .linkFrames q.1 q.2
  tiles ++ dies ++ ups ++ lands ++ launches ++ modules ++ links

/-- The machine's next step of its own. -/
def State.idle (s : State) : Option Act := s.firstOf s.possible

/-! ## Issue -/

/-- Whether an agent can issue: it runs and does not stall, its tile is in its compute phase (R169), its module is alive; a strand holds the slot since an
earlier clk (R113). -/
def State.canIssue (s : State) (w : Who) : Bool :=
  decide ((s.agentOf w).st = .run) && !(s.agentOf w).stalled && (s.module (modOfDie (whoDie w))).alive &&
    match w with
    | .tile t a => (s.tile t).issuing && (decide (8 ≤ a.val) || (s.tile t).slotOpen s.clk)
    | .svc _ _ => true

/-- The word at the agent's PC (R61). A word that a store of this compute phase wrote may be fetched old or new before the next fence;
this model always fetches the new one (DESIGN CHOICE, notes/assumptions/7.md). -/
def State.wordAt (s : State) (w : Who) : Nat := (s.memOf w).1.nat (s.agentOf w).pc.toNat 4

/-- What an instruction adds to its tile's counts of matrix, vector and memory activity, by its major opcode (R69, R72, R73, R420). What
the counts count is open (DESIGN CHOICE, notes/assumptions/41.md). -/
def activityOf (w : Nat) : Nat × Nat × Nat :=
  let op := w % 128
  if 0x50 ≤ op ∧ op ≤ 0x53 then (1, 0, 0)
  else if (0x0C ≤ op ∧ op ≤ 0x1A) ∨ op = 0x44 ∨ op = 0x45 then (0, 0, 1)
  else if 0x40 ≤ op ∧ op ≤ 0x47 then (0, 1, 0)
  else (0, 0, 0)

/-- An instruction of a tile that completed at its issue counts as activity of the tile. -/
def State.count (s : State) (w : Nat) (out : Out) : Out :=
  match s.turn, out with
  | .tile t _, .next s' =>
    let k := activityOf w
    if k = (0, 0, 0) ∨ (s'.tile t).retired = (s.tile t).retired then .next s'
    else .next (s'.modTile t fun tl => { tl with
      activity := (tl.activity.1 + k.1, tl.activity.2.1 + k.2.1, tl.activity.2.2 + k.2.2) })
  | _, o => o

/-- The agent of the turn issues the instruction that waited: it resumes no more (R120). -/
def State.resumed (s : State) : State := if s.me.resuming then s.modMe fun g => { g with resuming := false } else s

/-- The next instruction of the agent whose turn it is: a service core whose copy runs ends it (R408); else a pending cause, but where its
wait has completed and the waiting instruction is still to issue; the watchdog, the range of the PC, then the fetch and the decoder (R61, R116, R120). The spec gives no order of a
deferred cause, cause 0x10 and cause 0x04 that are due at one boundary: this one is the model's (DESIGN CHOICE, notes/assumptions/55.md). -/
def State.issue (s0 : State) : Out :=
  let g := s0.me
  let s := s0.resumed
  if let some k := s.copyOf s.turn then
    match decode k.word with
    | some i => s.count k.word (exec i s)
    | none => .next s
  else if g.deferred.isSome && !g.resuming then execDeferredCause s.turn s
  else if s.wdogDue g then execWatchdogExpiry s
  else if whoMem s.turn ≤ g.pc.toNat then execPcRangeTrap s
  else
    match badHit 16 (s.memOf s.turn).2 g.pc.toNat 4 with
    | some w => .next (s.readError s.turn w)
    | none =>
      match decode (s.wordAt s.turn) with
      | some i => s.count (s.wordAt s.turn) (exec i s)
      | none => execIllegalInstruction (BitVec.ofNat 32 (s.wordAt s.turn)) s

/-- The number an agent has in the round. -/
def whoKey : Who → Nat
  | .tile t a => 16 * t + a.val
  | .svc d c => 2 ^ 40 + 2 * d + c.val

/-- Every agent of the part that can issue. -/
def State.issuers (s : State) : List Who :=
  ((s.tiles.flatMap fun q => agentIxs.map fun a => Who.tile q.1 a) ++
    s.dies.flatMap fun q => (List.finRange 2).map fun c => Who.svc q.1 c).filter fun w => s.canIssue w

/-- The next agent of the round: each that can issue issues once in a clk, in the order of their numbers. -/
def State.roundNext (s : State) : Option Who := s.issuers.find? fun w => decide (whoKey s.turn < whoKey w)

/-! ## Time, and the order of the operations on semaphores -/

/-- `k` clk pass; a new 2 GHz cycle has seen no operation on a semaphore. -/
def State.tick (s : State) (k : Nat) : State :=
  { s with clk := s.clk + k, semSeen := if (s.clk + k) / 2 = s.clk / 2 then s.semSeen else [] }

/-- Before `k` clk pass, what must come first comes. -/
def State.passBy (s : State) (k : Nat) : Out :=
  match s.crossing k with
  | some i => i.go s
  | none => .next (s.tick k)

/-- The completion of engine operation `id` of tile `t` on a semaphore, among the operations of its cycle (R102 step 3). -/
def completionOf (t sem id : Nat) : SemOp := ⟨t, sem % 64, 3, 16 + id⟩

/-- The operation on a semaphore that an agent's instruction is (R102): a request belongs to step 4. -/
def semOf (w : Who) (i : Instr) : List SemOp :=
  match w, i with
  | .tile t a, .semset _ k => [⟨t, k.toNat, 2, a.val⟩]
  | .tile t a, .semv _ k => [⟨t, k.toNat, 3, a.val⟩]
  | .tile t _, .semp k => [⟨t, k.toNat, 4, 0⟩]
  | .tile t _, .sempt _ _ k => [⟨t, k.toNat, 4, 0⟩]
  | .tile t _, .semget _ k => [⟨t, k.toNat, 5, 0⟩]
  | _, _ => []

/-- The completions of an agent's stream bindings between two of its contexts (R161-R163): of a binding that has its completion now, or
that ended without it. -/
def streamSems (t : Nat) (old new : Agent) : List SemOp :=
  (old.streams.filterMap fun b =>
    if b.done || new.streams.any (fun c => decide (c.id = b.id) && !c.done) then none else some (completionOf t b.sem b.id)) ++
    new.streams.filterMap fun c => if c.done && !(old.streams.any fun b => decide (b.id = c.id)) then some (completionOf t c.sem c.id) else none

/-- The semaphore that a transfer instruction of no bytes signals at its issue (R206, R342). -/
def emptyOp (s : State) (i : Instr) : List Nat :=
  let va (n : Nat) (k : BitVec 6) : List Nat := if n = 0 then [k.toNat] else []
  let rc (e : BitVec 5) (k : BitVec 6) : List Nat := va (recExtent (s.recReg e)) k
  match i with
  | .stage _ _ b k => va (s.rx b).toNat k
  | .copy e a k => va (Nat.min (recExtent (s.recReg a)) (recExtent (s.recReg e))) k
  | .hld e _ k | .hst e _ k | .hredAddS32 e _ k | .hredAddS64 e _ k | .hredMinS32 e _ k | .hredMinS64 e _ k | .hredMaxS32 e _ k
  | .hredMaxS64 e _ k | .hredAnd e _ k | .hredOr e _ k | .hredFaddF32 e _ k | .csend e _ _ k | .crecv e _ _ k | .crecvAdd e _ _ k
  | .crecvMax e _ _ k => rc e k
  | _ => []

/-- The completions on semaphores that the instruction of agent `w` made between two states: of stream bindings, and of a transfer of no
bytes that completed at its issue. -/
def State.issueCompletions (s s' : State) (w : Who) (i : Option Instr) : List SemOp :=
  match w with
  | .tile t a =>
    streamSems t (s.agentOf w) (s'.agentOf w) ++
      if a = 8 ∧ (s'.agentOf w).pc = (s.agentOf w).pc + 4 ∧ (s.agentOf w).causeInh = (s'.agentOf w).causeInh then
        ((i.map (emptyOp s)).getD []).map fun k => completionOf t k (s.tile t).opSeq
      else []
  | .svc _ _ => []

/-- The writes of semaphores among the 8-byte words of a write of `n` bytes at an address of the on-chip space of a module (R102 step
1). -/
def windowSems (m addr n : Nat) : List SemOp :=
  if 0x400000000 ≤ addr then []
  else (wordsOf (addr % 2 ^ 24) n).filterMap fun o =>
    if 0x780000 ≤ o ∧ o < 0x780200 then some ⟨1024 * m + addr / 2 ^ 24, (o - 0x780000) / 8, 1, 0⟩ else none

/-- The completion that the end of a haul operation gives, of a shape operation, of a Firefly command, of a collective landing. -/
def State.haulSems (s : State) (t o : Nat) : List SemOp := ((opOf (s.tile t).haulQ o).map fun x => completionOf t x.sem x.id).toList
def State.shapeSems (s : State) (t : Nat) : List SemOp := ((s.tile t).shapeQ.head?.map fun x => completionOf t x.sem x.id).toList
def State.fireflySems (s : State) (d : Nat) : List SemOp := ((s.die d).ff.queue.head?.map fun c => completionOf c.tile c.sem c.id).toList
def State.landingSems (s : State) (k : Nat) : List SemOp :=
  ((s.xfers[k]?).bind fun f => ((s.tile f.dst).colMatch f).map fun q => completionOf f.dst q.1.sem q.1.op).toList

/-- The operations on semaphores that a step which is no instruction makes where it takes effect (R102 steps 1 and 3). -/
def State.eventSems (s : State) (i : Instr) : List SemOp :=
  match i with
  | .windowSemaphoreWrite t k _ => [⟨t, k, 1, 0⟩]
  | .windowWrite m addr bs => windowSems m addr bs.length
  | .oclysDataFrame d _ _ _ payload =>
    (oclysOps (payload.length / 16 + 1) payload).flatMap fun o =>
      if o.op = 1 ∧ o.onchip = true then windowSems (modOfDie d.die) o.addr o.data.length else []
  | .haulOpComplete t o => s.haulSems t o
  | .shapeOpComplete t => s.shapeSems t
  | .fireflyCommandComplete d => s.fireflySems d
  | .collectiveLanding k => s.landingSems k
  | .streamElementRead t a v =>
    if h : a < 10 then (((s.tile t).cur.agents[a].stream v).bind fun b =>
      if b.fetched + 1 = b.n then some (completionOf t b.sem b.id) else none).toList
    else []
  | _ => []

/-- The operations on semaphores that a step of the machine's own makes (R102). -/
def Act.sems (x : Act) (s : State) : List SemOp :=
  match x with
  | .shapeOpComplete t => s.shapeSems t
  | .haulOpComplete t o => s.haulSems t o
  | .fireflyCommandComplete d => s.fireflySems d
  | .collectiveLanding i => s.landingSems i
  | _ => []

/-- Operations on semaphores keep the order of R102 with those of the cycle so far. -/
def State.inOrder (s : State) (ops : List SemOp) : Bool :=
  ops.all fun x => s.semSeen.all fun y => !(decide (x.tile = y.tile) && decide (x.sem = y.sem) &&
    (decide (x.step < y.step) || decide (x.step = y.step) && decide (x.sub < y.sub)))

/-- A step with its operations on semaphores noted; one that would break the order of R102 comes in the next 2 GHz cycle: time
passes from `wait`, the state with the step still to come. -/
def State.paced (s wait : State) (ops : List SemOp) (out : Out) : Out :=
  match out with
  | .next s' => if s.inOrder ops then .next { s' with semSeen := s'.semSeen ++ ops } else wait.passBy 1
  | o => o

/-- The next instruction of the agent whose turn it is, where it comes to one. -/
def State.nextInstr (s : State) : Option Instr :=
  match s.copyOf s.turn with
  | some k => decode k.word
  | none => if (s.me.deferred.isSome && !s.me.resuming) || s.wdogDue s.me then none else decode (s.wordAt s.turn)

/-- The operations on semaphores that the issue of the agent whose turn it is makes, where it ends in `out`. -/
def State.issueSem (s : State) (out : Out) : List SemOp :=
  (s.nextInstr.map (semOf s.turn)).getD [] ++
    match out with
    | .next s' => s.issueCompletions s' s.turn s.nextInstr
    | _ => []

/-- The agent whose turn it is issues, in the order of R102. -/
def State.issuePaced (s wait : State) : Out := let out := s.issue; s.paced wait (s.issueSem out) out

/-- A step of the machine with the operations it makes on semaphores, in the order of R102; a step that changes nothing makes none. -/
def State.eventPaced (s wait : State) (ops : List SemOp) (out : Out) : Out :=
  match out with
  | .next s' => if s' = s then out else s.paced wait ops out
  | o => o

/-- A clk passes and agent `w` issues. -/
def State.issueNext (s : State) (w : Who) : Out :=
  match s.crossing 1 with
  | some i => i.go s
  | none => ({ s.tick 1 with turn := w } : State).issuePaced (s.tick 1)

/-! ## The schedule, and the policy where it is empty -/

/-- Whether a step is one of the machine or of the outside world: no instruction of a program, which only an agent's issue runs,
no word that an agent meets there, no operation of a host port, which comes in a frame (R354, R412), and none of the steps that come at the end of a clk or of a cycle by themselves (R102, R106, R113,
R120). -/
def ofMachine (i : Instr) : Bool :=
  match i with
  | .illegalInstruction _ | .semaphoreGrant _ _ | .semptExpiry _ _ | .strandChoice _ | .deferredCause _ => false
  | .hostWrite _ _ _ _ _ | .hostRead _ _ _ _ _ | .hostLaunch _ _ _ _ | .malformedOperation ⟨_, true, _⟩ _ _ => false
  | _ => (encode i).isNone

/-- How many clk an entry of the schedule still waits. -/
def Sched.wait : Sched → Nat
  | .run k _ => k
  | .event k _ => k
  | .upset k _ => k

/-- The entry after `k` clk have passed. -/
def Sched.after (e : Sched) (k : Nat) : Sched :=
  match e with
  | .run n w => .run (n - k) w
  | .event n i => .event (n - k) i
  | .upset n u => .upset (n - k) u

/-- The step at the head of the schedule: time passes, then the entry comes. -/
def State.scheduled (s : State) (e : Sched) (rest : List Sched) : Out :=
  if e.wait = 0 then
    let s1 : State := { s with sched := rest }
    match e with
    | .run _ w => if s.canIssue w then ({ s1 with turn := w } : State).issuePaced s else .next s1
    | .event _ i => if ofMachine i then s1.eventPaced s (s1.eventSems i) (exec i s1) else .next s1
    | .upset _ u => .next (s1.upset u)
  else
    let k := s.room e.wait
    match s.crossing k with
    | some i => i.go s
    | none => .next { s.tick k with sched := e.after k :: rest }

/-- Nothing happens but the clock. -/
def State.pass (s : State) : Out := s.passBy s.leap

/-- A new round begins in the next clk, with the first agent that can issue then; where none can, time passes. -/
def State.newRound (s : State) : Out :=
  match (s.tick 1).issuers with
  | w :: _ => s.issueNext w
  | [] => s.pass

/-- The policy of the empty schedule: the agents issue round by round, one round in a clk. Where none can, and after every 64th
round, the machine makes the steps of its own that there are. -/
def State.unscheduled (s : State) : Out :=
  match s.roundNext with
  | some w => ({ s with turn := w } : State).issuePaced s
  | none =>
    if s.clk % 64 = 63 || s.issuers.isEmpty then
      match s.idle with
      | some i => s.eventPaced s (i.sems s) (i.go s)
      | none => s.newRound
    else s.newRound

/-! ## Placing an instruction (for `withFetchWord`) -/

/-- The agent that executes a word, by its major opcode: the haul hart, the shape hart, a service core, or a strand (R20). -/
def whoFor (w : Nat) : Who :=
  let op := w % 128
  if op = 0x35 ∨ (0x60 ≤ op ∧ op ≤ 0x65) ∨ (0x6C ≤ op ∧ op ≤ 0x6E) then .tile 0 8
  else if 0x58 ≤ op ∧ op ≤ 0x5E then .tile 0 9
  else if 0x70 ≤ op ∧ op ≤ 0x72 then .svc 0 0
  else .tile 0 0

/-- The four bytes of a word written where an agent fetches next. -/
def State.placeWord (s : State) (who : Who) (w : Nat) : State :=
  let pc := (s.agentOf who).pc.toNat
  match who with
  | .tile t _ => s.modTile t fun tl => { tl with tm := tl.tm.write pc (leBytes 4 w), node := .run, stopping := false }
  | .svc d c => s.modDie d fun x => x.setSvc c { x.svc[c] with mem := x.svc[c].mem.write pc (leBytes 4 w) }

/-- The agent runs and issues next; a strand holds the issue slot of its tile, and where a hart runs the slot is known to be free (R113). -/
def State.readyAgent (s : State) (who : Who) : State :=
  let s1 := s.modAgent who fun g => { g with st := .run, deferred := none, resuming := false, stalled := false, heldFrom := s.clk }
  let s2 :=
    match who with
    | .tile t a => s1.modTile t fun tl => { tl with issueSlot := if a.val < 8 then .held else .free s.clk }
    | .svc _ _ => s1
  { s2 with turn := who, sched := [] }

end Sys2Proof.Machine
end

