-- ==== Sys2Proof/Machine/Step.lean ====
section
/-! DEFINITION. One step of the part. -/

namespace Sys2Proof.Machine

/-- One step: what is due now; else the head of the schedule; else the policy of the empty schedule. -/
def step (s : State) : Host.Outcome State Fault Refusal :=
  match s.forced with
  | some i => i.go s
  | none =>
    match s.sched with
    | e :: rest => s.scheduled e rest
    | [] => s.unscheduled

/-- The state with an instruction where the next step fetches, in the memory of the agent that executes it, which runs: what a
launch, or the boot of a service core, brings about (notes/assumptions/3.md). -/
def State.withFetchWord (s : State) (nbits w : Nat) : State :=
  if nbits ≤ 32 then (s.placeWord (whoFor (w % 2 ^ 32)) (w % 2 ^ 32)).readyAgent (whoFor (w % 2 ^ 32)) else s

end Sys2Proof.Machine
end

