-- ==== Sys2Proof/Safety.lean ====
section
/-! DEFINITION. The terms in which the statements speak: what a step leaves alone, what it is for an instruction to complete, to
wait, to trap; the form every state keeps. -/

namespace Sys2Proof

/-- A run of `k` steps that meets no fault and no refusal, with the state it ends in. -/
def runsTo : Nat → Machine.State → Machine.State → Prop
  | 0, s, t => s = t
  | k + 1, s, t => ∃ u, Machine.step s = .next u ∧ runsTo k u t

namespace Machine

/-! ## What stays -/

/-- The byte at an address of the memory that agent `w` loads from. -/
def State.byteAt (s : State) (w : Who) (a : Nat) : Byte := (s.memOf w).1.get a

/-- How many instructions the core of an agent has retired (R122). -/
def State.retiredOf (s : State) (w : Who) : W :=
  match w with
  | .tile t a => (s.tile t).retired[coreIx a]
  | .svc d c => (s.die d).svc[c].retired

/-- A tile without what is one agent's own: its context and its core's count. -/
def Tile.but (tl : Tile) (a : Fin 10) : Tile :=
  { tl.setAgent a Agent.reset with retired := tl.retired.set (coreIx a) 0 }

/-- A die without what is one service core's own. -/
def Die.but (x : Die) (c : Fin 2) : Die := x.setSvc c { x.svc[c] with agent := Agent.reset, retired := 0 }

/-- Everything that is no tile and no die is the same: the clock, the turn, the schedule, the counter of free values, the regions,
what is on its way, what has left the part, the modules with their HBM. -/
def SameRest (s t : State) : Prop :=
  t.clk = s.clk ∧ t.turn = s.turn ∧ t.sched = s.sched ∧ t.free = s.free ∧ t.regions = s.regions ∧
    t.nextSerial = s.nextSerial ∧ t.up = s.up ∧ t.flits = s.flits ∧ t.xfers = s.xfers ∧ t.wires = s.wires ∧ t.semSeen = s.semSeen ∧
    t.outs = s.outs ∧ ∀ m, t.module m = s.module m

/-- Between `s` and `t` only agent `w` changed (its context is `g` now) and, in its tile, what `f` changes: every other agent,
every byte of every memory that `f` leaves, every other unit is the same. -/
def Only (s t : State) (w : Who) (g : Agent) (f : Tile → Tile) : Prop :=
  SameRest s t ∧ t.agentOf w = g ∧
    match w with
    | .tile u a => (t.tile u).but a = (f (s.tile u)).but a ∧ (∀ k, k ≠ u → t.tile k = s.tile k) ∧ ∀ d, t.die d = s.die d
    | .svc d c => (t.die d).but c = (s.die d).but c ∧ (∀ e, e ≠ d → t.die e = s.die e) ∧ ∀ k, t.tile k = s.tile k

/-! ## What an instruction does -/

/-- The context with the PC past the instruction. -/
def Agent.past (g : Agent) : Agent := { g with pc := g.pc + 4 }

/-- Instruction `i` completes for the agent whose turn it is: the agent's context becomes `g`, its tile changes by `f`, its core
retires one instruction, and nothing else changes. -/
def CompletesIn (i : Instr) (s : State) (g : Agent) (f : Tile → Tile) : Prop :=
  ∃ t, exec i s = .next t ∧ Only s t s.turn g f ∧ t.retiredOf s.turn = s.retiredOf s.turn + 1

/-- What loads of the agent of the turn from some ranges leave in its tile: they are noted where an operation that the agent issued has not
read yet (R227). -/
def State.noted (s : State) (l : List (Nat × Nat)) : Tile → Tile :=
  match s.turn with
  | .tile _ a => fun tl => tl.noteLoad a l
  | .svc _ _ => id

/-- Instruction `i` completes and changes nothing but the agent's context. -/
def Completes (i : Instr) (s : State) (g : Agent) : Prop := CompletesIn i s g id

/-- Instruction `i` completes as a load of `n` bytes at `a`: it changes nothing but the agent's context, and the read is noted. -/
def Loads (i : Instr) (s : State) (g : Agent) (a n : Nat) : Prop := CompletesIn i s g (s.noted [(a, n)])

/-- Instruction `i` takes the trap `code` with `faddr`, and has no other effect (R11, R117). -/
def Traps (i : Instr) (s : State) (code : Nat) (faddr : W) : Prop :=
  ∃ t, exec i s = .next t ∧
    Only s t s.turn (s.me.takeTrap (whoMem s.turn) s.clk code faddr s.me.pc) id ∧ t.retiredOf s.turn = s.retiredOf s.turn

/-- Instruction `i` makes the agent wait, its PC at the instruction, and its tile change by `f` (R112). -/
def WaitsIn (i : Instr) (s : State) (on : WaitOn) (f : Tile → Tile) : Prop :=
  ∃ t, exec i s = .next t ∧ Only s t s.turn { s.me with st := .wait on } f ∧ t.retiredOf s.turn = s.retiredOf s.turn

/-- Instruction `i` makes the agent wait. -/
def Waits (i : Instr) (s : State) (on : WaitOn) : Prop := WaitsIn i s on id

/-- Instruction `i` stalls in RUN, its PC at the instruction (R112). -/
def Stalls (i : Instr) (s : State) : Prop :=
  ∃ t, exec i s = .next t ∧ Only s t s.turn { s.me with stalled := true } id ∧ t.retiredOf s.turn = s.retiredOf s.turn

/-- The agent of the turn is an agent of a tile, a strand, the haul hart, the shape hart, a service core (R20). -/
def State.byTile (s : State) : Prop := ∃ u a, s.turn = .tile u a
def State.byStrand (s : State) : Prop := ∃ u a, s.turn = .tile u a ∧ a.val < 8
def State.byHaul (s : State) : Prop := ∃ u, s.turn = .tile u 8
def State.byShape (s : State) : Prop := ∃ u, s.turn = .tile u 9
def State.byService (s : State) : Prop := ∃ d c, s.turn = .svc d c

/-! ## Access to memory -/

/-- Two agents load from one memory: the tile memory of one tile, or one core memory (R17, R90). -/
def SameMem (w v : Who) : Prop :=
  match w, v with
  | .tile t _, .tile u _ => t = u
  | .svc d c, .svc e k => d = e ∧ c = k
  | _, _ => False

/-- The little-endian number of `n` bytes at an address of an agent's memory (R6). -/
def State.numAt (s : State) (w : Who) (a n : Nat) : Nat := leNat ((List.range n).map fun i => s.byteAt w (a + i))

/-- The agent of the turn can load `n` bytes at `a`: aligned, inside its memory, no uncorrectable word there, and none of its
read-outs unfinished (R90, R100, R129, R271). -/
def State.canLoad (s : State) (a : W) (n : Nat) : Prop :=
  a.toNat % n = 0 ∧ a.toNat + n ≤ whoMem s.turn ∧ badHit 16 (s.memOf s.turn).2 a.toNat n = none ∧
    s.myEntry MatEntry.isRd = none

/-- The agent of the turn can store `n` bytes at `a`: aligned, inside its memory, no matrix entry of its own in the way and, for a strand, no
Firefly command of its own still to write an atom of them, and the version store has room for the line (R90, R95, R129, R227, R271). -/
def State.canStore (s : State) (a : W) (n : Nat) : Prop :=
  a.toNat % n = 0 ∧ a.toNat + n ≤ whoMem s.turn ∧ s.myEntry MatEntry.isRd = none ∧ s.unread a.toNat n = none ∧ s.behindOwn [(a.toNat, n)] = false ∧
    ∀ u b, s.turn = .tile u b → (s.tile u).hasRoom (a.toNat / 64) = true

/-- A store of `n` bytes at `a` by the strand of the turn would perform but for a Firefly command of its own that is still to write an atom of
them (R227). -/
def State.mustStall (s : State) (a : W) (n : Nat) : Prop :=
  a.toNat % n = 0 ∧ a.toNat + n ≤ whoMem s.turn ∧ s.myEntry MatEntry.isRd = none ∧ s.unread a.toNat n = none ∧ s.behindOwn [(a.toNat, n)] = true

/-- Between `s` and `t` the agent of the turn stored the low `n` bytes of `v` at `a` and went on: these bytes read as stored, every
other byte of every memory and every other agent is as before, and one more instruction is retired. Of a tile nothing else differs
but what goes with its tile memory (code words, version store, what is noted for R207, R212 and R227, the stores that have not performed) and
its full-empty bits; of a die,
nothing but its service cores. -/
def StoredBut (s t : State) (a n v : Nat) : Prop :=
  t.agentOf s.turn = s.me.past ∧ t.retiredOf s.turn = s.retiredOf s.turn + 1 ∧ SameRest s t ∧
    (∀ j, j < n → t.byteAt s.turn (a + j) = BitVec.ofNat 8 (v / 256 ^ j)) ∧
    (∀ w x, (¬SameMem w s.turn ∨ x < a ∨ a + n ≤ x) → t.byteAt w x = s.byteAt w x) ∧
    (∀ w, w ≠ s.turn → t.agentOf w = s.agentOf w) ∧
    (∀ k x, t.tile k = x → x = { s.tile k with
      tm := x.tm, bad := x.bad, poison := x.poison, vs := x.vs, olds := x.olds, reads := x.reads, held := x.held, dirty := x.dirty, retired := x.retired
      cur := { (s.tile k).cur with agents := x.cur.agents, fe := x.cur.fe } }) ∧
    ∀ d, t.die d = { s.die d with svc := (t.die d).svc }

/-- `StoredBut`, and no full-empty bit changes (R96). -/
def Stored (s t : State) (a n v : Nat) : Prop := StoredBut s t a n v ∧ ∀ k, (t.tile k).cur.fe = (s.tile k).cur.fe

/-- What a release of the agent of the turn waits for has come: its operations have completed (R134, R229, R231, R271). -/
def State.drained (s : State) : Prop := s.hartBusy = false ∧ s.myEntry (fun _ => true) = none

/-- The pod carries the root's packets of region `r` to tile `w`: the region is on one module, or the module of the tile is not declared
dead and its scale-out link for barrier packets is up (R358, R437). -/
def State.reaches (s : State) (r : Region) (w : Nat) : Prop :=
  1 < r.nmod → (s.module (modOfTile w)).podDead = false ∧ s.podUp (modOfTile w) = true

/-- Down packet `q` of the root of region `r` is on its way to tile `w` in `t`, its instant told by the clock of the tile's module as it
stood in `s` (R167, R424). -/
def State.hasDown (s : State) (r : Region) (t : State) (w : Nat) (q : Down) : Prop :=
  { q with instant := s.localClk r (modOfTile w) q.instant } ∈ (t.tile w).down

/-- A strand has the turn and none of its vector registers is bound to a stream. -/
def State.plainStrand (s : State) : Prop := s.byStrand ∧ s.me.streams = []

/-- Instruction `i` puts into `V[d]` a value whose lanes of `w` bits are `f`, wrapped to `w` bits, and changes nothing else. -/
def PutsLanes (i : Instr) (s : State) (d : BitVec 5) (w : Nat) (f : Nat → Nat) : Prop :=
  ∃ v, Completes i s (s.me.wv d v).past ∧ ∀ j, j < 512 / w → laneOf w v j = f j % 2 ^ w

/-- `PutsLanes` of an instruction that loads from some ranges: the read is noted. -/
def LoadsLanes (i : Instr) (s : State) (d : BitVec 5) (l : List (Nat × Nat)) (w : Nat) (f : Nat → Nat) : Prop :=
  ∃ v, CompletesIn i s (s.me.wv d v).past (s.noted l) ∧ ∀ j, j < 512 / w → laneOf w v j = f j % 2 ^ w

/-! ## The form every state keeps -/

/-- Keys in rising order. -/
def keysRise {α : Type} (l : List (Nat × α)) : Prop := l.Pairwise fun x y => x.1 < y.1

/-- Every memory of the part has its canonical form, so that equal memories are equal data. -/
def State.memoriesWf (s : State) : Prop :=
  (∀ u, (s.tile u).tm.wf = true ∧ (s.tile u).acc.wf = true ∧ (s.tile u).slotMem.wf = true ∧ (s.tile u).mbx.wf = true) ∧
    (∀ d (c : Fin 2), (s.die d).svc[c].mem.wf = true) ∧ ∀ m, (s.module m).hbm.wf = true

/-- The two low bits of every PC are 0 (R62), of those at the start of the superstep too. -/
def State.pcsAligned (s : State) : Prop :=
  (∀ u (a : Fin 10), (s.tile u).cur.agents[a].pc.toNat % 4 = 0 ∧ (s.tile u).shadow.agents[a].pc.toNat % 4 = 0) ∧
    ∀ d (c : Fin 2), (s.die d).svc[c].agent.pc.toNat % 4 = 0

/-- The lists of the part are in order: tiles, dies, modules and Firefly cells by rising number, regions by different ones below the
next; the last chosen strand is one (R113); an outbox entry has 64 bytes (R298). -/
def State.listsWf (s : State) : Prop :=
  keysRise s.tiles ∧ keysRise s.dies ∧ keysRise s.modules ∧
    (∀ u, (s.tile u).rr < 8 ∧ ∀ o ∈ (s.tile u).cur.outbox ++ (s.tile u).shadow.outbox, o.data.length = 64) ∧
    (∀ d, keysRise (s.die d).ff.cells ∧ keysRise (s.die d).ff.comm ∧
      ∀ i : Fin 16, keysRise ((s.die d).ff.ctxs[i]).work.sigt ∧ keysRise ((s.die d).ff.ctxs[i]).comm.sigt) ∧
    (∀ r ∈ s.regions, r.serial < s.nextSerial) ∧ s.regions.Pairwise fun x y => x.serial ≠ y.serial

end Machine

end Sys2Proof
end

