-- ==== Sys2Proof/Certificates/Slice0/Obligations.lean ====
section
/-! DEFINITION. The statements about the machine, from the rules of spec/, each with the rules it formalises. -/

open Sys2Proof Sys2Proof.Machine

/-! ## Registers and scalar arithmetic -/

/-- R62, R6, R90, R94: `X[0]` reads 0 and `P[0]` reads 1, writes to them are discarded; any other register reads what was written to
it last, and no other register changes. A memory reads back what was written, byte for byte and as a little-endian number; a write and
a loss of some bytes leave every other byte alone, and keep the canonical form. -/
def Obligations.RegistersAndMemoryReadBack : Prop :=
  (∀ (g : Agent) (d r : BitVec 5) (p q : BitVec 3) (v : W) (b : Bool) (u : VReg),
    g.rx 0 = 0 ∧ g.rp 0 = true ∧ g.wx 0 v = g ∧ g.wp 0 b = g ∧
    (d ≠ 0 → (g.wx d v).rx d = v) ∧ (r ≠ d → (g.wx d v).rx r = g.rx r) ∧
    (p ≠ 0 → (g.wp p b).rp p = b) ∧ (q ≠ p → (g.wp p b).rp q = g.rp q) ∧
    (g.wv d u).rv d = u ∧ (r ≠ d → (g.wv d u).rv r = g.rv r) ∧
    (g.wx d v).p = g.p ∧ (g.wx d v).v = g.v ∧ (g.wp p b).x = g.x ∧ (g.wp p b).v = g.v ∧ (g.wv d u).x = g.x ∧ (g.wv d u).p = g.p) ∧
  (∀ (m : Memory) (a n k v : Nat) (bs : List Byte), m.wf = true →
    (m.write a bs).bytes a bs.length = bs ∧ (v < 256 ^ n → (m.write a (leBytes n v)).nat a n = v) ∧
    (∀ x, x < a ∨ a + bs.length ≤ x → (m.write a bs).get x = m.get x) ∧
    (∀ x, x < a ∨ a + n ≤ x → (m.forget a n k).get x = m.get x) ∧
    (∀ x, a ≤ x → x < a + n → (m.forget a n k).get x = Config.freeByte k x) ∧
    (m.write a bs).wf = true ∧ (m.forget a n k).wf = true)

/-- R123: the functions of two operands write `f(X[a], X[b])` to `X[d]` and change nothing else, on every core type. R123:
division goes toward zero and never traps: a zero divisor gives all ones (quotient) or the dividend (remainder), and -2^63 by -1
gives -2^63 and 0. R123: the functions of one operand: leading zeros, trailing zeros, one bits, remainder by 31. R124-R126: the
immediate forms; `lih` and `addpc` take 20 bits shifted left by 12, and `addpc` the PC of its own word. -/
def Obligations.ScalarArithmetic : Prop :=
  (∀ (s : State) (d a b : BitVec 5),
    let A := s.rx a
    let B := s.rx b
    let res (v : W) : Agent := (s.me.wx d v).past
    Completes (.add d a b) s (res (A + B)) ∧ Completes (.sub d a b) s (res (A - B)) ∧
    Completes (.and d a b) s (res (A &&& B)) ∧ Completes (.or d a b) s (res (A ||| B)) ∧
    Completes (.xor d a b) s (res (A ^^^ B)) ∧ Completes (.andn d a b) s (res (A &&& ~~~B)) ∧
    Completes (.sll d a b) s (res (A <<< (B.toNat % 64))) ∧ Completes (.srl d a b) s (res (A >>> (B.toNat % 64))) ∧
    Completes (.sra d a b) s (res (A.sshiftRight (B.toNat % 64))) ∧
    Completes (.ror d a b) s (res (A >>> (B.toNat % 64) ||| A <<< ((64 - B.toNat % 64) % 64))) ∧
    Completes (.mul d a b) s (res (A * B)) ∧
    Completes (.mulhS d a b) s (res (BitVec.ofInt 64 (A.toInt * B.toInt / 2 ^ 64))) ∧
    Completes (.mulhN d a b) s (res (BitVec.ofNat 64 (A.toNat * B.toNat / 2 ^ 64))) ∧
    Completes (.minS d a b) s (res (if A.toInt ≤ B.toInt then A else B)) ∧
    Completes (.minN d a b) s (res (if A.toNat ≤ B.toNat then A else B)) ∧
    Completes (.maxS d a b) s (res (if B.toInt ≤ A.toInt then A else B)) ∧
    Completes (.maxN d a b) s (res (if B.toNat ≤ A.toNat then A else B))) ∧
  (∀ (s : State) (d a b : BitVec 5),
    let A := s.rx a
    let B := s.rx b
    let res (v : W) : Agent := (s.me.wx d v).past
    (B = 0 → Completes (.divS d a b) s (res (-1)) ∧ Completes (.divN d a b) s (res (-1)) ∧
      Completes (.remS d a b) s (res A) ∧ Completes (.remN d a b) s (res A)) ∧
    (A = BitVec.intMin 64 → B = -1 → Completes (.divS d a b) s (res (BitVec.intMin 64)) ∧ Completes (.remS d a b) s (res 0)) ∧
    (B ≠ 0 → Completes (.divS d a b) s (res (BitVec.ofInt 64 (A.toInt.tdiv B.toInt))) ∧
      Completes (.divN d a b) s (res (BitVec.ofNat 64 (A.toNat / B.toNat))) ∧
      Completes (.remS d a b) s (res (BitVec.ofInt 64 (A.toInt.tmod B.toInt))) ∧
      Completes (.remN d a b) s (res (BitVec.ofNat 64 (A.toNat % B.toNat))))) ∧
  (∀ (s : State) (d a : BitVec 5),
    let A := s.rx a
    let res (n : Nat) : Agent := (s.me.wx d (BitVec.ofNat 64 n)).past
    (∃ n, Completes (.clz d a) s (res n) ∧ n ≤ 64 ∧ (∀ i, i < n → A.getLsbD (63 - i) = false) ∧ (n < 64 → A.getLsbD (63 - n) = true)) ∧
    (∃ n, Completes (.ctz d a) s (res n) ∧ n ≤ 64 ∧ (∀ i, i < n → A.getLsbD i = false) ∧ (n < 64 → A.getLsbD n = true)) ∧
    Completes (.popc d a) s (res ((List.range 64).countP fun i => A.getLsbD i)) ∧
    Completes (.mod31 d a) s (res (A.toNat % 31))) ∧
  (∀ (s : State) (d a : BitVec 5) (i : BitVec 15) (n : BitVec 6) (k : BitVec 20),
    let A := s.rx a
    let I := i.signExtend 64
    let K := k.signExtend 64 * 4096#64
    let res (v : W) : Agent := (s.me.wx d v).past
    Completes (.addi d a i) s (res (A + I)) ∧ Completes (.andi d a i) s (res (A &&& I)) ∧
    Completes (.ori d a i) s (res (A ||| I)) ∧ Completes (.xori d a i) s (res (A ^^^ I)) ∧
    Completes (.slli d a n) s (res (A <<< n.toNat)) ∧ Completes (.srli d a n) s (res (A >>> n.toNat)) ∧
    Completes (.srai d a n) s (res (A.sshiftRight n.toNat)) ∧
    Completes (.rori d a n) s (res (A >>> n.toNat ||| A <<< ((64 - n.toNat) % 64))) ∧
    Completes (.lih d k) s (res K) ∧ Completes (.addpc d k) s (res (s.me.pc + K))) ∧
  (∀ (s : State) (d a b : BitVec 5) (i : BitVec 15) (n : BitVec 6) (k : BitVec 20) (f : Nat),
    let da := d.toNat * 2 ^ 7 + a.toNat * 2 ^ 12
    let alu (f b : Nat) : Nat := 0x01 + da + b * 2 ^ 17 + f * 2 ^ 22
    let bad (w : Nat) : Prop := decode w = none ∧ Traps (.illegalInstruction (BitVec.ofNat 32 w)) s 0x01 (BitVec.ofNat 64 w)
    (∀ x, x ∈ [(0x00, .add d a b), (0x01, .sub d a b), (0x02, .and d a b), (0x03, .or d a b), (0x04, .xor d a b), (0x05, .andn d a b),
        (0x06, .sll d a b), (0x07, .srl d a b), (0x08, .sra d a b), (0x09, .ror d a b), (0x0A, .mul d a b), (0x0B, .mulhS d a b),
        (0x0C, .mulhN d a b), (0x0D, .divS d a b), (0x0E, .divN d a b), (0x0F, .remS d a b), (0x10, .remN d a b),
        (0x11, .minS d a b), (0x12, .minN d a b), (0x13, .maxS d a b), (0x14, .maxN d a b)] →
      decode (alu x.1 b.toNat) = some x.2) ∧
    (∀ x, x ∈ [(0x15, .clz d a), (0x16, .ctz d a), (0x17, .popc d a), (0x18, .mod31 d a)] →
      decode (alu x.1 0) = some x.2 ∧ (b ≠ 0 → bad (alu x.1 b.toNat))) ∧
    (0x19 ≤ f → f < 1024 → bad (alu f b.toNat)) ∧
    (∀ x, x ∈ [(0x02, .addi d a i), (0x03, .andi d a i), (0x04, .ori d a i), (0x05, .xori d a i)] →
      decode (x.1 + da + i.toNat * 2 ^ 17) = some x.2) ∧
    (∀ x, x ∈ [(0, .slli d a n), (1, .srli d a n), (2, .srai d a n), (3, .rori d a n)] →
      decode (0x06 + da + n.toNat * 2 ^ 17 + x.1 * 2 ^ 23) = some x.2) ∧
    (1 ≤ f → f < 128 → bad (0x06 + da + i.toNat % 2 ^ 8 * 2 ^ 17 + f * 2 ^ 25)) ∧
    decode (0x07 + d.toNat * 2 ^ 7 + k.toNat * 2 ^ 12) = some (.lih d k) ∧
    decode (0x08 + d.toNat * 2 ^ 7 + k.toNat * 2 ^ 12) = some (.addpc d k))

/-- R127, R128: the compares write the condition to `P[p]`, the predicate functions combine predicates, and nothing else changes. -/
def Obligations.PredicateResults : Prop :=
  ∀ (s : State) (p c q r : BitVec 3) (a b : BitVec 5) (i : BitVec 14),
    let holds (A B : W) : Bool :=
      match c.toNat with
      | 0 => A == B
      | 1 => A != B
      | 2 => decide (A.toInt < B.toInt)
      | 3 => decide (A.toInt ≥ B.toInt)
      | 4 => decide (A.toNat < B.toNat)
      | _ => decide (A.toNat ≥ B.toNat)
    let res (v : Bool) : Agent := (s.me.wp p v).past
    (c.toNat < 6 → Completes (.pcmp p c a b) s (res (holds (s.rx a) (s.rx b))) ∧
      Completes (.pcmpi p c a i) s (res (holds (s.rx a) (i.signExtend 64)))) ∧
    Completes (.pand p q r) s (res (s.rp q && s.rp r)) ∧ Completes (.por p q r) s (res (s.rp q || s.rp r)) ∧
    Completes (.pxor p q r) s (res (s.rp q ^^ s.rp r)) ∧ Completes (.pandn p q r) s (res (s.rp q && !s.rp r)) ∧
    Completes (.porn p q r) s (res (s.rp q || !s.rp r)) ∧ Completes (.pxnor p q r) s (res (!(s.rp q ^^ s.rp r))) ∧
    (let bad (w : Nat) : Prop := decode w = none ∧ Traps (.illegalInstruction (BitVec.ofNat 32 w)) s 0x01 (BitVec.ofNat 64 w)
     let cmp (op c : Nat) : Nat := op + p.toNat * 2 ^ 7 + c * 2 ^ 10 + a.toNat * 2 ^ 13
     (c.toNat < 6 → decode (cmp 0x09 c.toNat + b.toNat * 2 ^ 18) = some (.pcmp p c a b) ∧
       decode (cmp 0x0A c.toNat + i.toNat * 2 ^ 18) = some (.pcmpi p c a i)) ∧
     (6 ≤ c.toNat → bad (cmp 0x09 c.toNat + b.toNat * 2 ^ 18) ∧ bad (cmp 0x0A c.toNat + i.toNat * 2 ^ 18)) ∧
     (∀ f, 1 ≤ f → f < 512 → bad (cmp 0x09 c.toNat + b.toNat * 2 ^ 18 + f * 2 ^ 23)) ∧
     (∀ (f x z : Nat), f < 8 → x < 32 → z < 256 →
       let w := 0x0B + p.toNat * 2 ^ 7 + f * 2 ^ 10 + x * 2 ^ 13 + q.toNat * 2 ^ 18 + r.toNat * 2 ^ 21 + z * 2 ^ 24
       (x = 0 → z = 0 → f < 6 → some (decode w) =
         ([some (.pand p q r), some (.por p q r), some (.pxor p q r), some (.pandn p q r), some (.porn p q r),
           some (.pxnor p q r)] : List (Option Instr))[f]?) ∧
       (x ≠ 0 ∨ z ≠ 0 ∨ 6 ≤ f → bad w)))

/-! ## Branches, system functions -/

/-- R59, R133: a taken branch and a jump go to the target where it is a multiple of 4 inside the agent's memory; a branch not
taken goes on, whatever its target; the link is the address after the jump, and `jalr` computes its target before it writes it.
R59, R133: a target that is not a multiple of 4 raises cause 0x03, one past the agent's memory cause 0x04, each with the target,
and the register of the link is not written. -/
def Obligations.BranchesAndJumps : Prop :=
  (∀ (s : State) (p : BitVec 3) (n h : BitVec 1) (o : BitVec 20) (d a : BitVec 5) (i : BitVec 15),
    let good (t : W) : Prop := t.toNat % 4 = 0 ∧ t.toNat < whoMem s.turn
    let rel := s.me.pc + o.signExtend 64 * 4#64
    let reg := s.rx a + i.signExtend 64
    let link := s.me.wx d (s.me.pc + 4)
    (s.rp p = decide (n = 1) → Completes (.br p n h o) s s.me.past) ∧
    (s.rp p ≠ decide (n = 1) → good rel → Completes (.br p n h o) s { s.me with pc := rel }) ∧
    (good rel → Completes (.jal d o) s { link with pc := rel }) ∧
    (good reg → Completes (.jalr d a i) s { link with pc := reg })) ∧
  (∀ (s : State) (p : BitVec 3) (n h : BitVec 1) (o : BitVec 20) (d a : BitVec 5) (i : BitVec 15),
    let rel := s.me.pc + o.signExtend 64 * 4#64
    let reg := s.rx a + i.signExtend 64
    (s.rp p ≠ decide (n = 1) → rel.toNat % 4 ≠ 0 → Traps (.br p n h o) s 0x03 rel) ∧
    (s.rp p ≠ decide (n = 1) → rel.toNat % 4 = 0 → whoMem s.turn ≤ rel.toNat → Traps (.br p n h o) s 0x04 rel) ∧
    (rel.toNat % 4 ≠ 0 → Traps (.jal d o) s 0x03 rel) ∧
    (rel.toNat % 4 = 0 → whoMem s.turn ≤ rel.toNat → Traps (.jal d o) s 0x04 rel) ∧
    (reg.toNat % 4 ≠ 0 → Traps (.jalr d a i) s 0x03 reg) ∧
    (reg.toNat % 4 = 0 → whoMem s.turn ≤ reg.toNat → Traps (.jalr d a i) s 0x04 reg))

/-- R117, R119: outside a handler with a usable `TVEC`, a trap saves the cause, `EPC` and `FADDR`, sets `CAUSE.INH` and goes to
`TVEC`; otherwise the agent stops in HALT with no CSR written. No register of the program changes either way. R20: an instruction of a
group that the core does not accept raises cause 0x02, and one of the privileged group on a tile core cause 0x12, with the word. -/
def Obligations.TrapEntry : Prop :=
  (∀ (s : State) (i : Instr) (w : Nat), encode i = some w →
    let op := w % 128
    let core := s.turn.kind
    let work : Prop := op = 0x19 ∨ op = 0x26 ∨ 0x32 ≤ op ∧ op ≤ 0x34 ∨ 0x40 ≤ op ∧ op ≤ 0x53 ∨ 0x68 ≤ op ∧ op ≤ 0x6B
    let haul : Prop := op = 0x35 ∨ 0x60 ≤ op ∧ op ≤ 0x65 ∨ 0x6C ≤ op ∧ op ≤ 0x6E
    let shape : Prop := 0x58 ≤ op ∧ op ≤ 0x5E
    let tile : Prop := op = 0x17 ∨ op = 0x18 ∨ op = 0x1A ∨ op = 0x27 ∨ op = 0x28 ∨ op = 0x30 ∨ op = 0x31
    (0x70 ≤ op → op ≤ 0x72 → core ≠ .service → Traps i s 0x12 (BitVec.ofNat 64 w)) ∧
    (work ∧ core ≠ .work ∨ haul ∧ core ≠ .haul ∨ shape ∧ core ≠ .shape ∨ tile ∧ core = .service →
      Traps i s 0x02 (BitVec.ofNat 64 w))) ∧
  ∀ (g : Agent) (size clk code : Nat) (faddr epc : W), code < 256 →
    let t := g.takeTrap size clk code faddr epc
    (g.causeInh = false → g.tvec ≠ 0 → g.tvec.toNat % 4 = 0 → g.tvec.toNat < size →
      t.causeCode.toNat = code ∧ t.causeInh = true ∧ t.epc = epc ∧ t.faddr = faddr ∧ t.pc = g.tvec ∧ t.st = g.st) ∧
    (g.causeInh = true ∨ g.tvec = 0 ∨ g.tvec.toNat % 4 ≠ 0 ∨ size ≤ g.tvec.toNat →
      t = { g with st := .halt, escalated := some code }) ∧
    t.x = g.x ∧ t.p = g.p ∧ t.v = g.v ∧ t.mctx = g.mctx ∧ t.tvec = g.tvec ∧ t.prio = g.prio ∧ t.wdogLimit = g.wdogLimit ∧
    t.scratch = g.scratch ∧ t.depth = g.depth ∧ t.streams = g.streams ∧ t.deferred = g.deferred

/-- R134, R139: `trap` and `brk` take cause 0x11, with `X[a]` and with the immediate; `eret` ends the handler and goes to `EPC`; `nop`
does nothing. -/
def Obligations.SystemComplete : Prop :=
  ∀ (s : State) (a : BitVec 5) (i : BitVec 20),
    Completes .nop s s.me.past ∧ Traps (.trap a) s 0x11 (s.rx a) ∧ Traps (.brk i) s 0x11 (i.setWidth 64) ∧
    (s.me.epc.toNat % 4 = 0 → s.me.epc.toNat < whoMem s.turn →
      Completes .eret s { s.me with causeInh := false, pc := s.me.epc }) ∧
    (s.me.epc.toNat % 4 ≠ 0 → Traps .eret s 0x03 s.me.epc) ∧
    (s.me.epc.toNat % 4 = 0 → whoMem s.turn ≤ s.me.epc.toNat → Traps .eret s 0x04 s.me.epc)

/-! ## Loads and stores -/

/-- R129: a load that its agent can make reads `n` little-endian bytes at `X[a] + sext(imm15)`, extends them as its name says,
and changes nothing but `X[d]`. R129: a store that its agent can make puts the low bytes of `X[r]` at `X[a] + sext(imm15)` and
nowhere else. -/
def Obligations.LoadsAndStores : Prop :=
  (∀ (s : State) (d a : BitVec 5) (i : BitVec 15),
    let A := s.rx a + i.signExtend 64
    let num (n : Nat) : Nat := s.numAt s.turn A.toNat n
    let res (v : W) : Agent := (s.me.wx d v).past
    (s.canLoad A 1 → Loads (.ldS8 d a i) s (res ((BitVec.ofNat 8 (num 1)).signExtend 64)) A.toNat 1 ∧
      Loads (.ldN8 d a i) s (res (BitVec.ofNat 64 (num 1))) A.toNat 1) ∧
    (s.canLoad A 2 → Loads (.ldS16 d a i) s (res ((BitVec.ofNat 16 (num 2)).signExtend 64)) A.toNat 2 ∧
      Loads (.ldN16 d a i) s (res (BitVec.ofNat 64 (num 2))) A.toNat 2) ∧
    (s.canLoad A 4 → Loads (.ldS32 d a i) s (res ((BitVec.ofNat 32 (num 4)).signExtend 64)) A.toNat 4 ∧
      Loads (.ldN32 d a i) s (res (BitVec.ofNat 64 (num 4))) A.toNat 4) ∧
    (s.canLoad A 8 → Loads (.ld64 d a i) s (res (BitVec.ofNat 64 (num 8))) A.toNat 8)) ∧
  (∀ (s : State) (r a : BitVec 5) (i : BitVec 15),
    let A := s.rx a + i.signExtend 64
    (s.canStore A 1 → ∃ t, exec (.st8 r a i) s = .next t ∧ Stored s t A.toNat 1 (s.rx r).toNat) ∧
    (s.canStore A 2 → ∃ t, exec (.st16 r a i) s = .next t ∧ Stored s t A.toNat 2 (s.rx r).toNat) ∧
    (s.canStore A 4 → ∃ t, exec (.st32 r a i) s = .next t ∧ Stored s t A.toNat 4 (s.rx r).toNat) ∧
    (s.canStore A 8 → ∃ t, exec (.st64 r a i) s = .next t ∧ Stored s t A.toNat 8 (s.rx r).toNat) ∧
    (s.mustStall A 1 → Stalls (.st8 r a i) s) ∧ (s.mustStall A 2 → Stalls (.st16 r a i) s) ∧
    (s.mustStall A 4 → Stalls (.st32 r a i) s) ∧ (s.mustStall A 8 → Stalls (.st64 r a i) s))

/-- R129, R59: an address that is not a multiple of the size raises cause 0x03, one past the agent's memory cause 0x04, in this
order, with the address; no register and no byte changes. -/
def Obligations.BadAddressesTrap : Prop :=
  ∀ (s : State) (d a : BitVec 5) (i : BitVec 15),
    let A := s.rx a + i.signExtend 64
    let all (c : Nat) (l : List Instr) : Prop := ∀ x, x ∈ l → Traps x s c A
    let of2 : List Instr := [.ldS16 d a i, .ldN16 d a i, .st16 d a i]
    let of4 : List Instr := [.ldS32 d a i, .ldN32 d a i, .st32 d a i]
    let of8 : List Instr := [.ld64 d a i, .st64 d a i]
    (A.toNat % 2 ≠ 0 → all 0x03 of2) ∧ (A.toNat % 4 ≠ 0 → all 0x03 of4) ∧ (A.toNat % 8 ≠ 0 → all 0x03 of8) ∧
    (whoMem s.turn < A.toNat + 1 → all 0x04 [.ldS8 d a i, .ldN8 d a i, .st8 d a i]) ∧
    (A.toNat % 2 = 0 → whoMem s.turn < A.toNat + 2 → all 0x04 of2) ∧
    (A.toNat % 4 = 0 → whoMem s.turn < A.toNat + 4 → all 0x04 of4) ∧
    (A.toNat % 8 = 0 → whoMem s.turn < A.toNat + 8 → all 0x04 of8)

/-- R97, R130, R96: `ldfe` of a full bank word reads it, and `.c` empties the bit in the same step; of an empty one it waits,
and reads once the word is full: of several that wait, every plain `ldfe` reads, and of the `ldfe.c` only that of lowest index,
which empties the bit, while the others wait on; `stfe` stores and sets the bit full, or empty for `.e`. No other full-empty bit
changes. R132, R200, R203: `ldb` and `stb` reach `BASE + X[b]` where the bounds check allows it, and raise cause 0x05 with the index
where it does not, in every type; `bld` loads a record with its reserved bits cleared, `bst` stores one. -/
def Obligations.FullEmptyAndRecords : Prop :=
  (∀ (s : State) (u : Nat) (b : Fin 10) (d a : BitVec 5) (c : BitVec 1) (i : BitVec 14), s.turn = .tile u b →
    let A := s.rx a + i.signExtend 64 * 8#64
    let g := (s.me.wx d (BitVec.ofNat 64 (s.numAt s.turn A.toNat 8))).past
    (s.canLoad A 8 → A.toNat / 16 ∈ (s.tile u).cur.fe →
      CompletesIn (.ldfe d a c i) s g (fun tl =>
        let x := s.noted [(A.toNat, 8)] tl
        if c = 1 then x.setFe (A.toNat / 16) false else x)) ∧
    (s.canLoad A 8 → A.toNat / 16 ∉ (s.tile u).cur.fe →
      Waits (.ldfe d a c i) s (.ldfe d A.toNat (decide (c = 1)))) ∧
    (s.mustStall A 8 → s.drained → Stalls (.stfe d a c i) s) ∧
    (s.canStore A 8 → s.drained → ∃ t, exec (.stfe d a c i) s = .next t ∧ StoredBut s t A.toNat 8 (s.rx d).toNat ∧
      (∀ k, k ≠ u → (t.tile k).cur.fe = (s.tile k).cur.fe) ∧
      ((A.toNat / 16 ∈ (t.tile u).cur.fe) = (c = 0)) ∧ ∀ w, w ≠ A.toNat / 16 → ((w ∈ (t.tile u).cur.fe) = (w ∈ (s.tile u).cur.fe))) ∧
    (∀ (e : Bool) (w n : Nat), let v := s.agentOf (.tile u b)
      v.st = .wait (.ldfe d n e) → n / 16 = w → (s.tile u).node = .run → w ∈ (s.tile u).cur.fe →
      (∀ x, x ≠ b → (s.tile u).ldfeWaiter w x = none) → (s.tile u).badAt n 8 = none → (s.tile u).badAt (16 * w) 16 = none →
      ∃ t, exec (.ldfeWake u w) s = .next t ∧
        Only s t (.tile u b) { (v.wx d (BitVec.ofNat 64 (s.numAt s.turn n 8))).past with
            st := if b.val < 8 then .ready else .run, heldFrom := s.clk }
          (fun tl =>
            let x := s.noted [(n, 8)] tl
            if e = true then x.setFe w false else x))) ∧
  (∀ (s : State) (u w : Nat),
    let waits (x : Fin 10) (d : BitVec 5) (n : Nat) (e : Bool) : Prop := (s.agentOf (.tile u x)).st = .wait (.ldfe d n e) ∧ n / 16 = w
    (s.tile u).node = .run → w ∈ (s.tile u).cur.fe → (s.tile u).badAt (16 * w) 16 = none →
    (∀ x d n e, waits x d n e → (s.tile u).badAt n 8 = none) →
    ∃ t, exec (.ldfeWake u w) s = .next t ∧
      (∀ x d n e, waits x d n e → (e = true → ∀ y d' n', y < x → ¬waits y d' n' true) →
        t.agentOf (.tile u x) = { (s.agentOf (.tile u x)).wx d (BitVec.ofNat 64 (s.numAt (.tile u x) n 8)) with
          pc := (s.agentOf (.tile u x)).pc + 4, st := if x.val < 8 then .ready else .run, heldFrom := s.clk }) ∧
      (∀ x, (∀ d n e, waits x d n e → e = true ∧ ∃ y d' n', y < x ∧ waits y d' n' true) →
        t.agentOf (.tile u x) = s.agentOf (.tile u x)) ∧
      ((w ∈ (t.tile u).cur.fe) = ∀ x d n, ¬waits x d n true) ∧
      (∀ x, x ≠ w → ((x ∈ (t.tile u).cur.fe) = (x ∈ (s.tile u).cur.fe))) ∧
      (∀ v, (∀ x, v ≠ .tile u x) → t.agentOf v = s.agentOf v) ∧ ∀ v x, t.byteAt v x = s.byteAt v x) ∧
  (∀ (s : State) (u : Nat) (k : Fin 10) (d a b : BitVec 5) (i : BitVec 10), s.turn = .tile u k →
    let R := s.recReg a
    let base : W := BitVec.ofNat 64 (R.toNat % 2 ^ 21)
    let ext := R.toNat / 2 ^ 32 % 2 ^ 21
    let A := base + s.rx b
    let inside (n : Nat) : Prop := R.toNat / 2 ^ 136 % 2 = 1 → (s.rx b).toNat + n ≤ ext
    let num (n : Nat) : Nat := s.numAt s.turn A.toNat n
    let res (v : W) : Agent := (s.me.wx d v).past
    (inside 1 → s.canLoad A 1 → Loads (.ldb d a b 0) s (res ((BitVec.ofNat 8 (num 1)).signExtend 64)) A.toNat 1 ∧
      Loads (.ldb d a b 1) s (res (BitVec.ofNat 64 (num 1))) A.toNat 1) ∧
    (inside 2 → s.canLoad A 2 → Loads (.ldb d a b 2) s (res ((BitVec.ofNat 16 (num 2)).signExtend 64)) A.toNat 2 ∧
      Loads (.ldb d a b 3) s (res (BitVec.ofNat 64 (num 2))) A.toNat 2) ∧
    (inside 4 → s.canLoad A 4 → Loads (.ldb d a b 4) s (res ((BitVec.ofNat 32 (num 4)).signExtend 64)) A.toNat 4 ∧
      Loads (.ldb d a b 5) s (res (BitVec.ofNat 64 (num 4))) A.toNat 4) ∧
    (inside 8 → s.canLoad A 8 → Loads (.ldb d a b 6) s (res (BitVec.ofNat 64 (num 8))) A.toNat 8) ∧
    (∀ z : BitVec 3, z.toNat < 4 → inside (2 ^ z.toNat) → s.canStore A (2 ^ z.toNat) →
      ∃ t, exec (.stb d a b z) s = .next t ∧ Stored s t A.toNat (2 ^ z.toNat) (s.rx d).toNat) ∧
    (∀ z : BitVec 3, z.toNat < 4 → inside (2 ^ z.toNat) → s.mustStall A (2 ^ z.toNat) → Stalls (.stb d a b z) s) ∧
    (∀ z : BitVec 3, z.toNat < 4 → ¬inside (2 ^ z.toNat) → Traps (.stb d a b z) s 0x05 (s.rx b)) ∧
    (∀ z : BitVec 3, z.toNat < 7 → ¬inside (2 ^ (z.toNat / 2)) → Traps (.ldb d a b z) s 0x05 (s.rx b)) ∧
    (let B := s.rx a + i.signExtend 64 * 32#64
     (s.canLoad B 32 → ∃ t, exec (.bld d a i) s = .next t ∧ t.agentOf s.turn = s.me.past ∧
        (∀ w x, t.byteAt w x = s.byteAt w x) ∧
        t.recReg d = BitVec.ofNat 256 (s.numAt s.turn B.toNat 32) &&&
          0x10F001FFFFF001FFFFF001FFFFF001FFFFF#256) ∧
     (s.mustStall B 32 → Stalls (.bst d a i) s) ∧
     (s.canStore B 32 → ∃ t, exec (.bst d a i) s = .next t ∧ Stored s t B.toNat 32 (s.recReg d).toNat)))

/-! ## Strands: their end, their start, their turn -/

/-- R114, R134, R136, R137, R231, R271: `yield` gives up the slot of a strand and starts the watchdog count again; the fences go
on once the operations they wait for have completed; `exit`, once the matrix entries of the agent have completed, returns from an
inline child, or ends the agent, which is FREE then, a cause still pending for it recorded by its tile (DEDUCED, notes/assumptions/55.md); that a hart or a service core is FREE too after its `exit` is this model's
choice (DEDUCED, notes/assumptions/13.md: R112 names FREE for strands). R136: `spawn`
starts a strand in the lowest FREE slot, with `X[3]` to `X[6]`, `TVEC` and `WDOG.LIMIT` of its parent and every other register
0, and writes the slot to `X[d]`; where no slot is FREE the child runs in the parent itself, which `X[d]` = 8 tells. -/
def Obligations.StrandsEndAndStart : Prop :=
  (∀ (s : State),
    (s.byStrand → Completes .yield s { s.me.past with st := .ready, heldFrom := s.clk }) ∧
    (¬s.byStrand → Completes .yield s { s.me.past with heldFrom := s.clk }) ∧
    (s.drained → Completes .fence s s.me.past ∧ Completes .fenceRel s s.me.past) ∧
    (s.myEntry (fun _ => true) = none → Completes .fenceAcq s s.me.past) ∧
    (s.me.depth ≠ 0 → s.myEntry (fun _ => true) = none → (s.rx 1).toNat % 4 = 0 → (s.rx 1).toNat < whoMem s.turn →
      Completes .exit s { s.me with depth := s.me.depth - 1, pc := s.rx 1 }) ∧
    (s.me.depth = 0 → s.myEntry (fun _ => true) = none → s.me.streams = [] →
      ∃ t, exec .exit s = .next t ∧ t.agentOf s.turn = { s.me with st := .free, deferred := none } ∧ SameRest s t ∧
        (∀ w, w ≠ s.turn → t.agentOf w = s.agentOf w) ∧ (∀ w x, t.byteAt w x = s.byteAt w x) ∧
        ∀ u a, s.turn = .tile u a → (∀ (n : Fin 16) p, (t.tile u).cur.accSt[n] ≠ .held a p) ∧
          (s.me.deferred = none → (t.tile u).recorded = (s.tile u).recorded) ∧
          ∀ p, s.me.deferred = some p → ⟨p.code, none⟩ ∈ (t.tile u).recorded)) ∧
  (∀ (s : State) (u : Nat) (me : Fin 10) (d a : BitVec 5) (n : BitVec 3) (q : BitVec 1), s.turn = .tile u me → me.val < 8 →
    let T := s.rx a
    T.toNat % 4 = 0 → T.toNat < 0x1F0000 →
    (∀ i : Fin 10, i.val < 8 → (s.agentOf (.tile u i)).st = .free → (∀ j : Fin 10, j < i → (s.agentOf (.tile u j)).st ≠ .free) →
      me ≠ i → s.drained →
      ∃ t, exec (.spawn d a n q) s = .next t ∧ t.agentOf s.turn = (s.me.wx d (BitVec.ofNat 64 i.val)).past ∧
        (∀ w, w ≠ s.turn → w ≠ .tile u i → t.agentOf w = s.agentOf w) ∧ (∀ w x, t.byteAt w x = s.byteAt w x) ∧
        (let c := t.agentOf (.tile u i)
         c.st = .ready ∧ c.pc = T ∧ c.tvec = s.me.tvec ∧ c.wdogLimit = s.me.wdogLimit ∧ c.depth = 0 ∧ c.deferred = none ∧
          c.prio = (if q = 1 then s.me.prio else n) ∧
          (∀ r : BitVec 5, c.rx r = if 3 ≤ r.toNat ∧ r.toNat ≤ 6 then s.rx r else 0) ∧
          (∀ r : BitVec 3, r ≠ 0 → c.rp r = false) ∧ (∀ r, c.rv r = 0) ∧ c.causeInh = false ∧ c.streams = [])) ∧
    ((∀ i : Fin 10, i.val < 8 → (s.agentOf (.tile u i)).st ≠ .free) →
      Completes (.spawn d a n q) s
        { (s.me.wx d 8).wx 1 (s.me.pc + 4) with depth := s.me.depth + 1, pc := T }))

/-- R20, R60, R61, R116, R117, R120: what an agent takes at an instruction boundary: cause 0x01 with a word that is no instruction,
0x04 with a PC past its memory, 0x10 with the count once its watchdog limit is reached, and a deferred cause, but not before an
instruction whose wait has completed is issued again.
R113: where no strand holds the slot, the READY strand of the least `PRIO` takes it, the first after the last chosen one among
equals; no other agent changes; it issues from the next clk on (`issueSlot` holds the clk of the
choice). -/
def Obligations.BoundariesAndTurns : Prop :=
  (∀ (s : State) (v : BitVec 32) (who : Who) (p : Pending),
    Traps (.illegalInstruction v) s 0x01 (v.setWidth 64) ∧
    (whoMem s.turn ≤ s.me.pc.toNat → Traps .pcRangeTrap s 0x04 s.me.pc) ∧
    (let count := (s.clk - s.me.heldFrom) % 2 ^ 32
     s.me.st = .run → s.me.wdogLimit ≠ 0 → s.me.wdogLimit.toNat ≤ count →
      Traps .watchdogExpiry s 0x10 (BitVec.ofNat 64 count)) ∧
    ((s.agentOf who).deferred = some p → (s.agentOf who).st = .run → (s.agentOf who).resuming = true → exec (.deferredCause who) s = .next s) ∧
    ((s.agentOf who).deferred = some p → (s.agentOf who).st = .run → (s.agentOf who).resuming = false →
      ∃ t, exec (.deferredCause who) s = .next t ∧
        Only s t who ({ s.agentOf who with deferred := none }.takeTrap (whoMem who) s.clk p.code p.faddr (s.agentOf who).pc) id)) ∧
  (∀ (s : State) (u : Nat) (a : Fin 10),
    (s.tile u).node = .run → (s.tile u).stopping = false → (s.tile u).rr < 8 →
    (∀ b : Fin 10, b.val < 8 → (s.agentOf (.tile u b)).st ≠ .run) →
    a.val < 8 → (s.agentOf (.tile u a)).st = .ready →
    (∀ b : Fin 10, b.val < 8 → (s.agentOf (.tile u b)).st = .ready →
      (s.agentOf (.tile u a)).prio < (s.agentOf (.tile u b)).prio ∨
        ((s.agentOf (.tile u a)).prio = (s.agentOf (.tile u b)).prio ∧
          (a.val + 7 - (s.tile u).rr) % 8 ≤ (b.val + 7 - (s.tile u).rr) % 8)) →
    ∃ t, exec (.strandChoice u) s = .next t ∧
      Only s t (.tile u a) { s.agentOf (.tile u a) with st := .run, heldFrom := s.clk } (fun tl => { tl with rr := a.val, issueSlot := .chosen s.clk }))

/-! ## Semaphores -/

/-- R104, R107, R108: `semv` adds 1 or `X[a]` and raises cause 0x17 where the sum would pass 65,535, with the count as it was;
as a release it waits for the engine operations of its hart and for the matrix entries of its strand (R231, R271; that a strand which waits
for its entries is in WAIT is the model's choice, DEDUCED, notes/assumptions/12.md);
`semset` sets the count; `semget` reads what the grants of the cycle leave. R101, R104: a completion adds 1 to its semaphore; at
65,535 the count stays and a running agent gets cause 0x17, which it takes at its PC with the semaphore's number. -/
def Obligations.SemaphoreCounts : Prop :=
  (∀ (s : State) (u : Nat) (b : Fin 10) (e a : BitVec 5) (k : BitVec 6), s.turn = .tile u b →
    let count := (s.tile u).sem k.toNat
    let n := if a = 0 then 1 else (s.rx a).toNat
    (s.drained → count + n ≤ 65535 →
      CompletesIn (.semv a k) s s.me.past (fun tl => tl.setSem k.toNat (count + n))) ∧
    (s.drained → 65535 < count + n → Traps (.semv a k) s 0x17 (BitVec.ofNat 64 k.toNat)) ∧
    (s.hartBusy = true → Waits (.semv a k) s .drain) ∧
    (∀ x, s.hartBusy = false → s.myEntry (fun _ => true) = some x → Waits (.semv a k) s (.matrix x.id)) ∧
    (s.drained → CompletesIn (.semset a k) s s.me.past (fun tl => tl.setSem k.toNat ((s.rx a).toNat % 65536))) ∧
    Completes (.semget e k) s (s.me.wx e (BitVec.ofNat 64 (count - ((s.tile u).semWaiters k.toNat).length))).past) ∧
  (∀ (s : State) (u k : Nat) (a : Fin 10), k < 64 →
    ((s.tile u).sem k < 65535 → (s.complete u k a) = s.modTile u fun tl => tl.setSem k ((s.tile u).sem k + 1)) ∧
    ((s.tile u).sem k = 65535 → (s.agentOf (.tile u a)).st = .run → (s.agentOf (.tile u a)).deferred = none →
      (s.agentOf (.tile u a)).resuming = false →
      let t := s.complete u k a
      (t.tile u).sem k = 65535 ∧ (t.agentOf (.tile u a)).deferred = some ⟨0x17, BitVec.ofNat 64 k⟩ ∧
      ∃ x, exec (.deferredCause (.tile u a)) t = .next x ∧ Only t x (.tile u a)
        ((s.agentOf (.tile u a)).takeTrap (whoMem (.tile u a)) s.clk 0x17 (BitVec.ofNat 64 k) (s.agentOf (.tile u a)).pc) id))

/-- R102, R105, R106: `semp` and `sempt` wait at issue; a grant takes one unit for the waiting agent of lowest index, which goes on
past its instruction, a `sempt` with 1 in its register; a `sempt` whose limit ends with no unit left goes on with 0. -/
def Obligations.SemaphoreWaitsComplete : Prop :=
  ∀ (s : State) (u : Nat) (b : Fin 10) (e a : BitVec 5) (k : BitVec 6),
    (s.turn = .tile u b → Waits (.semp k) s (.semp k.toNat) ∧
      Waits (.sempt e a k) s (.sempt k.toNat e (s.clk + (s.rx a).toNat))) ∧
    (let g := s.agentOf (.tile u b)
     let awake : AState := if b.val < 8 then .ready else .run
     let took (tl : Tile) : Tile := tl.setSem k.toNat (tl.sem k.toNat - 1)
     (s.tile u).node = .run →
     (0 < (s.tile u).sem k.toNat → (∀ c : Fin 10, c < b → (s.agentOf (.tile u c)).wantsSem k.toNat = false) →
      (g.st = .wait (.semp k.toNat) → ∃ t, exec (.semaphoreGrant u k.toNat) s = .next t ∧
        Only s t (.tile u b) { g.past with st := awake, heldFrom := s.clk } took) ∧
      (∀ limit, g.st = .wait (.sempt k.toNat e limit) → ∃ t, exec (.semaphoreGrant u k.toNat) s = .next t ∧
        Only s t (.tile u b) { (g.wx e 1).past with st := awake, heldFrom := s.clk } took)) ∧
     (∀ limit, g.st = .wait (.sempt k.toNat e limit) → limit ≤ s.clk → (s.tile u).sem k.toNat = 0 →
      ∃ t, exec (.semptExpiry u b.val) s = .next t ∧
        Only s t (.tile u b) { (g.wx e 0).past with st := awake, heldFrom := s.clk } id))

/-! ## Vector instructions -/

/-- R144, R146: float lane arithmetic rounds the exact result once; minimum and maximum, sign operations are bit copies. R145:
conversions take the lanes both types have and leave 0 in the others. -/
def Obligations.VectorFloatLanes : Prop :=
  (∀ (s : State) (d a b c : BitVec 5) (t m : BitVec 2), s.plainStrand → t.toNat < 3 →
    let fm := vecFmt t.toNat
    let w := fm.w
    let rm := RM.ofCode m.toNat
    let A (j : Nat) : Nat := laneOf w (s.rv a) j
    let B (j : Nat) : Nat := laneOf w (s.rv b) j
    let C (j : Nat) : Nat := laneOf w (s.rv c) j
    let one (v : FVal) : Nat := fm.round rm false v
    PutsLanes (.vaddF d a b t m) s d w (fun j => one (FVal.add rm (fm.val (A j)) (fm.val (B j)))) ∧
    PutsLanes (.vsubF d a b t m) s d w (fun j => one (FVal.add rm (fm.val (A j)) (fm.val (B j)).neg)) ∧
    PutsLanes (.vmulF d a b t m) s d w (fun j => one ((fm.val (A j)).mul (fm.val (B j)))) ∧
    PutsLanes (.vminF d a b t m) s d w (fun j => fm.min (A j) (B j)) ∧
    PutsLanes (.vmaxF d a b t m) s d w (fun j => fm.max (A j) (B j)) ∧
    PutsLanes (.vabsF d a t m) s d w (fun j => A j % 2 ^ (w - 1)) ∧
    PutsLanes (.vneg d a t m) s d w (fun j => A j ^^^ 2 ^ (w - 1)) ∧
    PutsLanes (.vfma d a b c m t) s d w
      (fun j => one (FVal.add rm ((fm.val (A j)).mul (fm.val (B j))) (fm.val (C j)))) ∧
    PutsLanes (.vfnma d a b c m t) s d w
      (fun j => one (FVal.add rm ((fm.val (A j)).mul (fm.val (B j))).neg (fm.val (C j)))) ∧
    PutsLanes (.vexp2 d a t) s d w (fun j => fm.round .rne false (exp2Val (fm.val (A j)))) ∧
    PutsLanes (.vlog2 d a t) s d w (fun j => fm.round .rne false (log2Val (fm.val (A j)))) ∧
    PutsLanes (.vrcp d a t m) s d w (fun j => one (fm.val (A j)).rcp) ∧
    PutsLanes (.vrsq d a t m) s d w (fun j => one (fm.val (A j)).rsqrt)) ∧
  (∀ (s : State) (d a : BitVec 5) (t u m : BitVec 2), s.plainStrand → t.toNat < 3 → u.toNat < 3 →
    let ft := vecFmt t.toNat
    let fu := vecFmt u.toNat
    let rm := RM.ofCode m.toNat
    let A (j : Nat) : FVal := ft.val (laneOf ft.w (s.rv a) j)
    (t = u → Completes (.vcvt d a u t m) s (s.me.wv d (s.rv a)).past) ∧
    (t ≠ u → PutsLanes (.vcvt d a u t m) s d fu.w
      (fun j => if j < 512 / Nat.max ft.w fu.w then fu.round rm false (A j) else 0)) ∧
    PutsLanes (.vcvti d a t m) s d 32 (fun j => wrapNat 32 ((A j).toS 32 rm)) ∧
    PutsLanes (.vcvtf d a t m) s d ft.w
      (fun j => if j < 16 then ft.round rm false (FVal.ofS (sextNat 32 (laneOf 32 (s.rv a) j))) else 0))

/-- R147: integer lane arithmetic. R148, R154: compares give lanes of all ones or all zeros, `vsel` chooses by the top bit of
the old `V[d]`'s lanes; permutes, broadcasts and moves. -/
def Obligations.VectorIntegerLanes : Prop :=
  (∀ (s : State) (d a b : BitVec 5) (z : BitVec 2), s.plainStrand →
    let w := 8 * 2 ^ z.toNat
    let A (j : Nat) : Nat := laneOf w (s.rv a) j
    let B (j : Nat) : Nat := laneOf w (s.rv b) j
    let S (x : Nat) : Int := sextNat w x
    let wrap (n : Int) : Nat := (n % 2 ^ w).toNat
    let lo : Int := -(2 ^ (w - 1))
    let hi : Int := 2 ^ (w - 1) - 1
    let top : Int := 2 ^ w - 1
    let clamp (l h n : Int) : Nat := wrap (max l (min h n))
    PutsLanes (.vaddI d a b z) s d w (fun j => wrap ((A j : Int) + B j)) ∧
    PutsLanes (.vsubI d a b z) s d w (fun j => wrap ((A j : Int) - B j)) ∧
    PutsLanes (.vmulI d a b z) s d w (fun j => wrap ((A j : Int) * B j)) ∧
    PutsLanes (.vminS d a b z) s d w (fun j => if S (A j) ≤ S (B j) then A j else B j) ∧
    PutsLanes (.vminN d a b z) s d w (fun j => if A j ≤ B j then A j else B j) ∧
    PutsLanes (.vmaxS d a b z) s d w (fun j => if S (B j) ≤ S (A j) then A j else B j) ∧
    PutsLanes (.vmaxN d a b z) s d w (fun j => if B j ≤ A j then A j else B j) ∧
    PutsLanes (.vand d a b z) s d w (fun j => A j &&& B j) ∧
    PutsLanes (.vor d a b z) s d w (fun j => A j ||| B j) ∧
    PutsLanes (.vxor d a b z) s d w (fun j => A j ^^^ B j) ∧
    PutsLanes (.vsll d a b z) s d w (fun j => A j * 2 ^ (B j % w)) ∧
    PutsLanes (.vsrl d a b z) s d w (fun j => A j / 2 ^ (B j % w)) ∧
    PutsLanes (.vsra d a b z) s d w (fun j => wrap (S (A j) / 2 ^ (B j % w))) ∧
    PutsLanes (.vaddsS d a b z) s d w (fun j => clamp lo hi (S (A j) + S (B j))) ∧
    PutsLanes (.vaddsN d a b z) s d w (fun j => clamp 0 top ((A j : Int) + B j)) ∧
    PutsLanes (.vsubsS d a b z) s d w (fun j => clamp lo hi (S (A j) - S (B j))) ∧
    PutsLanes (.vsubsN d a b z) s d w (fun j => clamp 0 top ((A j : Int) - B j)) ∧
    PutsLanes (.vabsI d a z) s d w (fun j => wrap (|S (A j)|))) ∧
  (∀ (s : State) (d a b l : BitVec 5) (z t : BitVec 2) (c : BitVec 3), s.plainStrand → t.toNat < 3 → c.toNat < 6 →
    let w := 8 * 2 ^ z.toNat
    let A (j : Nat) : Nat := laneOf w (s.rv a) j
    let B (j : Nat) : Nat := laneOf w (s.rv b) j
    let ones (n : Nat) (p : Bool) : Nat := if p then 2 ^ n - 1 else 0
    let fm := vecFmt t.toNat
    let F (r : BitVec 5) (j : Nat) : FVal := fm.val (laneOf fm.w (s.rv r) j)
    PutsLanes (.vcmpI d a b z c) s d w (fun j => ones w (condLane c.toNat w (A j) (B j))) ∧
    (c.toNat < 4 → PutsLanes (.vcmpF d a b t c) s d fm.w (fun j => ones fm.w (condFloat c.toNat (F a j) (F b j)))) ∧
    PutsLanes (.vsel d a b z) s d w (fun j => if laneOf w (s.rv d) j / 2 ^ (w - 1) % 2 = 1 then A j else B j) ∧
    PutsLanes (.vperm d a b z) s d w (fun j => A (B j % (512 / w))) ∧
    PutsLanes (.vbcast d a z) s d w (fun _ => (s.rx a).toNat) ∧
    Completes (.vmov d a) s (s.me.wv d (s.rv a)).past ∧
    (l.toNat < 512 / w → Completes (.vmovToX d a l z) s (s.me.wx d (BitVec.ofNat 64 (A l.toNat))).past ∧
      PutsLanes (.vmovToLane d a l z) s d w (fun j => if j = l.toNat then (s.rx a).toNat else laneOf w (s.rv d) j)))

/-- R153: integer reductions give the exact sum, the least, the greatest of the signed lanes; float reductions combine the halves of
the lanes, widened to F32, in a fixed tree. -/
def Obligations.VectorReduce : Prop :=
  ∀ (s : State) (d a : BitVec 5) (z t : BitVec 2), s.plainStrand → t.toNat < 3 →
    let w := 8 * 2 ^ z.toNat
    let L : List Int := (List.range (512 / w)).map fun j => sextNat w (laneOf w (s.rv a) j)
    let res (v : W) : Agent := (s.me.wx d v).past
    let ft := vecFmt t.toNat
    let wide (j : Nat) : Nat :=
      let x := laneOf ft.w (s.rv a) j
      if t = 0 then x else fF32.round .rne false (ft.val x)
    let red (op : Nat → Nat → Nat) : Nat :=
      (treeRed op (Nat.log2 (512 / ft.w)) ((List.range (512 / ft.w)).map wide)).headD 0
    Completes (.vredAdd d a z) s (res (BitVec.ofInt 64 L.sum)) ∧
    (∃ n, n ∈ L ∧ (∀ x ∈ L, n ≤ x) ∧ Completes (.vredMinS d a z) s (res (BitVec.ofInt 64 n))) ∧
    (∃ n, n ∈ L ∧ (∀ x ∈ L, x ≤ n) ∧ Completes (.vredMaxS d a z) s (res (BitVec.ofInt 64 n))) ∧
    Completes (.vredFadd d a t) s (res (BitVec.ofNat 64 (red addF32))) ∧
    Completes (.vredFmin d a t) s (res (BitVec.ofNat 64 (red fF32.min))) ∧
    Completes (.vredFmax d a t) s (res (BitVec.ofNat 64 (red fF32.max)))

/-- R149-R151: loads and stores of a vector register: 64 bytes at `X[a] + 64 * sext(imm14)`; strided and indexed elements of 16, 32 or
64 bits, lane by lane. An address that is not a multiple of the access size raises cause 0x03, then one above tile memory 0x04, then for
a store a line beyond the last of the version store 0x0A, with the address of the first element that meets it, and nothing done: the elements
of a store before it take the lines they are the first to need. A store to an atom that a Firefly command of the strand is still to write
stalls in RUN, the model's choice (DESIGN CHOICE, notes/assumptions/7.md). -/
def Obligations.VectorMemory : Prop :=
  ∀ (s : State) (d a b : BitVec 5) (i : BitVec 14) (e : BitVec 2), s.plainStrand → e.toNat < 3 →
    let A := s.rx a + i.signExtend 64 * 64#64
    let n := 2 * 2 ^ e.toNat
    let lanes := 64 / n
    let strided (j : Nat) : W := s.rx a + BitVec.ofNat 64 j * s.rx b
    let indexed (j : Nat) : W := s.rx a + BitVec.ofNat 64 (laneOf (8 * n) (s.rv b) j)
    let readable (f : Nat → W) : Prop := ∀ j, j < lanes → s.canLoad (f j) n
    let ranges (f : Nat → W) : List (Nat × Nat) := (List.range lanes).map fun j => ((f j).toNat, n)
    let needs (f : Nat → W) (j : Nat) : Bool := (s.tile s.here).needsLine ((f j).toNat / 64) &&
      (List.range j).all fun k => decide ((f k).toNat / 64 ≠ (f j).toNat / 64)
    let taken (f : Nat → W) (j : Nat) : Nat := ((List.range j).filter (needs f)).length
    let writable (f : Nat → W) : Prop :=
      (s.tile s.here).vs.length + taken f lanes ≤ 8192 ∧ ∀ j, j < lanes → s.canStore (f j) n
    let inLane (f : Nat → W) (j x : Nat) : Prop := (f j).toNat ≤ x ∧ x < (f j).toNat + n
    let scattered (f : Nat → W) (t : State) : Prop :=
      t.agentOf s.turn = s.me.past ∧ SameRest s t ∧ (∀ w, w ≠ s.turn → t.agentOf w = s.agentOf w) ∧
        (∀ w x, (¬SameMem w s.turn ∨ ∀ j, j < lanes → ¬inLane f j x) → t.byteAt w x = s.byteAt w x) ∧
        ∀ j, j < lanes → ∀ k, k < n → (∀ j', j < j' → j' < lanes → ¬inLane f j' ((f j).toNat + k)) →
          t.byteAt s.turn ((f j).toNat + k) = BitVec.ofNat 8 (laneOf (8 * n) (s.rv d) j / 256 ^ k)
    let stops (f : Nat → W) (ld st : Instr) : Prop :=
      let odd (j : Nat) : Prop := (f j).toNat % n ≠ 0
      let out (j : Nat) : Prop := whoMem s.turn < (f j).toNat + n
      let first (p : Nat → Prop) (j : Nat) : Prop := j < lanes ∧ p j ∧ ∀ k, k < j → ¬p k
      (∀ j, first odd j → Traps ld s 0x03 (f j) ∧ Traps st s 0x03 (f j)) ∧
      (∀ j, (∀ k, k < lanes → ¬odd k) → first out j → Traps ld s 0x04 (f j) ∧ Traps st s 0x04 (f j)) ∧
      ((∀ k, k < lanes → ¬odd k ∧ ¬out k ∧ s.unread (f k).toNat n = none) → s.myEntry MatEntry.isRd = none →
        (s.behindOwn (ranges f) = true → Stalls st s) ∧
        ∀ j, s.behindOwn (ranges f) = false → first (fun k => needs f k = true ∧ 8192 ≤ (s.tile s.here).vs.length + taken f k) j →
          Traps st s 0x0A (f j))
    stops strided (.vlds d a b e) (.vsts d a b e) ∧ stops indexed (.vgath d a b e) (.vscat d a b e) ∧
    (A.toNat % 64 ≠ 0 → Traps (.vld d a i) s 0x03 A ∧ Traps (.vst d a i) s 0x03 A) ∧
    (A.toNat % 64 = 0 → whoMem s.turn < A.toNat + 64 → Traps (.vld d a i) s 0x04 A ∧ Traps (.vst d a i) s 0x04 A) ∧
    (A.toNat % 64 = 0 → A.toNat + 64 ≤ whoMem s.turn → s.myEntry MatEntry.isRd = none → s.unread A.toNat 64 = none →
      s.behindOwn [(A.toNat, 64)] = false → (s.tile s.here).hasRoom (A.toNat / 64) = false → Traps (.vst d a i) s 0x0A A) ∧
    (s.canLoad A 64 → Loads (.vld d a i) s (s.me.wv d (BitVec.ofNat 512 (s.numAt s.turn A.toNat 64))).past A.toNat 64) ∧
    (s.mustStall A 64 → Stalls (.vst d a i) s) ∧
    (s.canStore A 64 → ∃ t, exec (.vst d a i) s = .next t ∧ Stored s t A.toNat 64 (s.rv d).toNat) ∧
    (readable strided → LoadsLanes (.vlds d a b e) s d (ranges strided) (8 * n) (fun j => s.numAt s.turn (strided j).toNat n)) ∧
    (readable indexed → LoadsLanes (.vgath d a b e) s d (ranges indexed) (8 * n) (fun j => s.numAt s.turn (indexed j).toNat n)) ∧
    (writable strided → ∃ t, exec (.vsts d a b e) s = .next t ∧ scattered strided t) ∧
    (writable indexed → ∃ t, exec (.vscat d a b e) s = .next t ∧ scattered indexed t)

/-- R160-R163: `vstream` binds a register to the rows of 64 bytes a record names; a read of a register bound to an input takes the next
element, a write to one bound to an output stores the next element; a read past the end raises cause 0x18, a write past it 0x05;
the last element read from tile memory or written, and otherwise the end of a binding, gives its completion. The element read is left in the
register itself (DEDUCED, notes/assumptions/20.md). Each 16-byte atom of an element is read as it stands, or as it was before a store made
after the `vstream.in`; a store of the strand before it that has not performed is seen. R232, R271: a binding to an input waits for the
strand's unfinished read-outs, and none of its elements is read ahead before they complete. R160: a misaligned record raises cause 0x03, one
past tile memory 0x04; a stream of no elements completes at once; a new binding ends the old one. -/
def Obligations.VectorStreams : Prop :=
  (∀ (tl : Tile) (me : Fin 10) (b : Stream) (k i : Nat), (b.base + i * b.stride) % 16 = 0 → (∀ q ∈ tl.olds, q.bytes.length = 16) →
    let at' := b.base + i * b.stride
    let own := tl.held.filter fun h => decide (h.agent = me) && decide (h.pos ≤ b.id)
    (own = [] → (∀ q ∈ tl.olds, q.pos ≤ b.id) → tl.element me b k i = BitVec.ofNat 512 (tl.tm.nat at' 64)) ∧
    (∀ h, own = [h] → tl.olds = [] → tl.element me b k i = BitVec.ofNat 512 ((tl.tm.write h.addr h.bytes).nat at' 64)) ∧
    (own = [] → (∀ q ∈ tl.olds, q.bytes.length = 16) → ∃ f : Nat → List Byte, tl.element me b k i = BitVec.ofNat 512 (leNat (f 0 ++ f 1 ++ f 2 ++ f 3)) ∧
      ∀ j, j < 4 → f j = tl.tm.bytes (at' + 16 * j) 16 ∨
        ∃ q ∈ tl.olds, b.id < q.pos ∧ 16 * q.atom = at' + 16 * j ∧ f j = q.bytes)) ∧
  ∀ (s : State) (u : Nat) (me : Fin 10) (e d a : BitVec 5) (k : BitVec 6), s.turn = .tile u me → me.val < 8 →
    let r := s.recReg e
    let base := r.toNat % 2 ^ 21
    let n := r.toNat / 2 ^ 32 % 2 ^ 21 / 64
    let stride := r.toNat / 2 ^ 64 % 2 ^ 21
    let bound (out : Bool) : Stream := ⟨a.toNat, out, base, stride, n, 0, [], k.toNat, false, (s.tile u).opSeq⟩
    let even : Prop := base % 64 = 0 ∧ stride % 64 = 0 ∧ r.toNat / 2 ^ 32 % 2 ^ 21 % 64 = 0
    let top := base + (n - 1) * stride + 63
    let signal (k : Nat) (tl : Tile) : Tile := tl.setSem k (tl.sem k + 1)
    let seen (b : Stream) (_ : Nat) (tl : Tile) : Tile :=
      if b.stride = 0 then tl.noteRead ⟨me, b.id, true⟩ [(b.base, 64)] fun x => (tl.pick ⟨me, b.id, true⟩ s.free x).1 else tl
    let numbered (tl : Tile) : Tile := { tl with opSeq := tl.opSeq + 1 }
    let reads (i : Instr) (g : Agent) (f : Tile → Tile) : Prop := ∃ t, exec i s = .next t ∧
      Only { s with free := s.free + 1 } t s.turn g f ∧ t.retiredOf s.turn = s.retiredOf s.turn + 1
    (¬even → Traps (.vstreamIn e a k) s 0x03 (BitVec.ofNat 64 base) ∧ Traps (.vstreamOut e a k) s 0x03 (BitVec.ofNat 64 base)) ∧
    (even → 1 ≤ n → 0x1F0000 ≤ top →
      Traps (.vstreamIn e a k) s 0x04 (BitVec.ofNat 64 top) ∧ Traps (.vstreamOut e a k) s 0x04 (BitVec.ofNat 64 top)) ∧
    (s.me.streams = [] → even → n = 0 → (s.tile u).sem k.toNat < 65535 → s.myEntry MatEntry.isRd = none →
      let whole (out : Bool) : Agent := { s.me.past with streams := [{ bound out with done := true }] }
      CompletesIn (.vstreamIn e a k) s (whole false) (fun tl => signal k.toNat (numbered tl)) ∧
      CompletesIn (.vstreamOut e a k) s (whole true) (fun tl => signal k.toNat (numbered tl))) ∧
    (∀ b : Stream, s.me.streams = [b] → b.v = a.toNat → even → 1 ≤ n → top < 0x1F0000 → s.myEntry MatEntry.isRd = none →
      let anew (f : Tile → Tile) : Prop :=
        CompletesIn (.vstreamIn e a k) s { s.me.past with streams := [bound false] } (fun tl => numbered (f tl)) ∧
        CompletesIn (.vstreamOut e a k) s { s.me.past with streams := [bound true] } (fun tl => numbered (f tl))
      (b.done = true → anew id) ∧ (b.done = false → (s.tile u).sem b.sem < 65535 → anew (signal b.sem))) ∧
    (s.me.streams = [] → even → 1 ≤ n → top < 0x1F0000 →
      (s.myEntry MatEntry.isRd = none → CompletesIn (.vstreamIn e a k) s { s.me.past with streams := [bound false] } numbered) ∧
      (∀ x, s.myEntry MatEntry.isRd = some x → Waits (.vstreamIn e a k) s (.matrix x.id)) ∧
      CompletesIn (.vstreamOut e a k) s { s.me.past with streams := [bound true] } numbered) ∧
    (s.me.streams = [] → Completes (.vstreamEnd a) s s.me.past) ∧
    (∀ b : Stream, s.me.streams = [b] → b.v = a.toNat → a ≠ d →
      (b.done = true → Completes (.vstreamEnd a) s { s.me.past with streams := [] }) ∧
      (b.done = false → (s.tile u).sem b.sem < 65535 →
        CompletesIn (.vstreamEnd a) s { s.me.past with streams := [] } (signal b.sem)) ∧
      (b.out = false → b.n ≤ b.used → Traps (.vmov d a) s 0x18 (BitVec.ofNat 64 a.toNat)) ∧
      (b.out = false → b.used + 1 < b.n → b.ahead = [] → s.myEntry MatEntry.isRd = none →
        (s.tile u).badAt (b.base + b.used * b.stride) 64 = none →
        let v : VReg := (s.tile u).element me b s.free b.used
        reads (.vmov d a) { ((s.me.wv a v).wv d v).past with streams := [{ b with used := b.used + 1 }] } (seen b b.used)) ∧
      (b.out = false → ∀ v l, b.ahead = v :: l → b.used < b.n → s.myEntry MatEntry.isRd = none →
        Completes (.vmov d a) s { ((s.me.wv a v).wv d v).past with streams := [{ b with used := b.used + 1, ahead := l }] }) ∧
      (b.out = false → b.used + 1 = b.n → b.ahead = [] → b.done = false → s.myEntry MatEntry.isRd = none →
        (s.tile u).sem b.sem < 65535 → (s.tile u).badAt (b.base + b.used * b.stride) 64 = none →
        let v : VReg := (s.tile u).element me b s.free b.used
        reads (.vmov d a) { ((s.me.wv a v).wv d v).past with streams := [{ b with used := b.n, done := true }] }
          (fun tl => signal b.sem (seen b b.used tl))) ∧
      (b.out = true → b.n ≤ b.used → Traps (.vmov a d) s 0x05 (BitVec.ofNat 64 (64 * b.n))) ∧
      (b.out = true → b.used < b.n → (b.used + 1 = b.n → b.done = false ∧ (s.tile u).sem b.sem < 65535) → (b.base + b.used * b.stride) % 64 = 0 →
        s.mustStall (BitVec.ofNat 64 (b.base + b.used * b.stride)) 64 → b.base + b.used * b.stride < 2 ^ 64 → Stalls (.vmov a d) s) ∧
      (b.out = true → b.used < b.n → (b.used + 1 = b.n → b.done = false ∧ (s.tile u).sem b.sem < 65535) → (b.base + b.used * b.stride) % 64 = 0 →
        s.canStore (BitVec.ofNat 64 (b.base + b.used * b.stride)) 64 → b.base + b.used * b.stride < 2 ^ 64 →
        ∃ t, exec (.vmov a d) s = .next t ∧
          t.agentOf s.turn = { (s.me.wv a (s.rv d)).past with
            streams := [{ b with used := b.used + 1, done := b.done || decide (b.used + 1 = b.n) }] } ∧
          (t.tile u).sem b.sem = (s.tile u).sem b.sem + (if b.used + 1 = b.n then 1 else 0) ∧
          t.numAt s.turn (b.base + b.used * b.stride) 64 = (s.rv d).toNat ∧
          ∀ w x, (¬SameMem w s.turn ∨ x < b.base + b.used * b.stride ∨ b.base + b.used * b.stride + 64 ≤ x) →
            t.byteAt w x = s.byteAt w x)) ∧
    (∀ b : Stream, s.me.streams = [b] → (∃ x ∈ (s.tile u).matQ, x.strand = me ∧ x.isRd = true) →
      exec (.streamElementRead u me.val b.v) s = .next s) ∧
    (∀ b : Stream, s.me.streams = [b] → b.out = false → b.used + b.ahead.length < b.n → b.ahead.length < 8 →
      (s.tile u).node = .run → (s.tile u).stopping = false → (∀ x ∈ (s.tile u).matQ, x.strand = me → x.isRd = false) →
      (s.tile u).badAt (b.base + (b.used + b.ahead.length) * b.stride) 64 = none →
      let v : VReg := (s.tile u).element me b s.free (b.used + b.ahead.length)
      let last := b.used + b.ahead.length + 1 = b.n
      (last → b.done = false ∧ (s.tile u).sem b.sem < 65535) →
      ∃ t, exec (.streamElementRead u me.val b.v) s = .next t ∧
        Only { s with free := s.free + 1 } t s.turn
          { s.me with streams := [{ b with ahead := b.ahead ++ [v], done := b.done || decide last }] }
          (fun tl => if last then signal b.sem (seen b (b.used + b.ahead.length) tl) else seen b (b.used + b.ahead.length) tl))

/-! ## The matrix unit -/

/-- R272: `mcfg` writes the old matrix context to `X[d]` and takes the new one from bits [11:0] of `X[a]`. R266, R276, R279: a
matrix instruction that names an accumulator of another strand raises cause 0x07 with its number: `macc.z`, `macc.pin` and `macc.unpin` as
their one check; `macc.rd` and `macc.wr` where their elements lie even, inside tile memory and inside the record, whatever its format; `mmul.r`
and `mmul.c` likewise, with the lower number of the pair that another strand holds. The other rows of the tables of R276 and R279 come in the
order of their codes. R273: an `mwld` takes cause 0x04 for a header outside tile
memory, 0x0D with bits [63:0] of a header that fails, then 0x04 for the image's bytes and 0x05 for its record's `EXTENT`. -/
def Obligations.MatrixContextAndOwners : Prop :=
  (∀ (s : State) (d a : BitVec 5), s.byStrand →
    Completes (.mcfg d a) s { (s.me.wx d (s.me.mctx.setWidth 64)).past with mctx := (s.rx a).setWidth 12 }) ∧
  (∀ (s : State) (u : Nat) (me other : Fin 10) (pin : Bool) (a : BitVec 5), s.turn = .tile u me → me.val < 8 →
    (s.tile u).matQ.length < 16 → (ha : a.toNat < 16) → (s.tile u).cur.accSt[a.toNat] = .held other pin → other ≠ me →
    Traps (.maccZ a) s 0x07 (BitVec.ofNat 64 a.toNat) ∧ Traps (.maccPin a) s 0x07 (BitVec.ofNat 64 a.toNat) ∧
      Traps (.maccUnpin a) s 0x07 (BitVec.ofNat 64 a.toNat) ∧
    ∀ (e b : BitVec 5) (k : BitVec 4), let r := s.recReg e
      let c := s.me.mctx
      (firstOdd (max 1 (elBits (recFormat r) / 8)) (maccRuns r) = none → firstOut (maccRuns r) = none →
        31 * rowBytes (recFormat r) + 8 * elBits (recFormat r) ≤ recExtent r →
        Traps (.maccRd e a b) s 0x07 (BitVec.ofNat 64 a.toNat) ∧ Traps (.maccWr e a) s 0x07 (BitVec.ofNat 64 a.toNat)) ∧
      ((ctxA c = 5 → firstOdd 2 (runsOf r 0 (32 * rowBytes (recFormat r))) = none) → firstOut (streamRuns c r) = none →
        streamExtent c ≤ recExtent r →
        (a.toNat % 2 = 0 → Traps (.mmulR e a k) s 0x07 (BitVec.ofNat 64 a.toNat) ∧ Traps (.mmulC e a k) s 0x07 (BitVec.ofNat 64 a.toNat)) ∧
        ∀ p : BitVec 5, p.toNat % 2 = 0 → a.toNat = p.toNat + 1 → (s.tile u).heldByOther me p.toNat = false →
          Traps (.mmulR e p k) s 0x07 (BitVec.ofNat 64 a.toNat) ∧ Traps (.mmulC e p k) s 0x07 (BitVec.ofNat 64 a.toNat))) ∧
  (∀ (s : State) (u : Nat) (me : Fin 10) (e a b : BitVec 5) (k : BitVec 4), s.turn = .tile u me → me.val < 8 →
    (s.tile u).matQ.length < 16 →
    let tl := s.tile u
    let r := s.recReg e
    let c := s.me.mctx
    let f := recFormat r
    let mmul (n : Nat) (x : W) : Prop := Traps (.mmulR e a k) s n x ∧ Traps (.mmulC e a k) s n x
    let macc (n : Nat) (x : W) : Prop := Traps (.maccRd e a b) s n x ∧ Traps (.maccWr e a) s n x
    let even : Prop := ctxA c = 5 → firstOdd 2 (runsOf r 0 (32 * rowBytes f)) = none
    let level : Prop := firstOdd (max 1 (elBits f / 8)) (maccRuns r) = none
    (∀ x, ctxA c = 5 → firstOdd 2 (runsOf r 0 (32 * rowBytes f)) = some x → mmul 0x03 (BitVec.ofNat 64 x)) ∧
    (∀ x, even → firstOut (streamRuns c r) = some x → mmul 0x04 (BitVec.ofNat 64 x)) ∧
    (even → firstOut (streamRuns c r) = none → recExtent r < streamExtent c → mmul 0x05 (BitVec.ofNat 64 (recExtent r))) ∧
    (even → firstOut (streamRuns c r) = none → streamExtent c ≤ recExtent r → tl.heldByOther me a.toNat = false →
      tl.heldByOther me (a.toNat + 1) = false → (pairOk (ctxA c) (ctxB c) = false ∨ f ≠ ctxA c ∨ tl.slotFmt k.toNat ≠ ctxB c) →
      mmul 0x0D (BitVec.ofNat 64 (c.toNat % 256 + 256 * (f + 16 * tl.slotFmt k.toNat)))) ∧
    (∀ x, firstOdd (max 1 (elBits f / 8)) (maccRuns r) = some x → macc 0x03 (BitVec.ofNat 64 x)) ∧
    (∀ x, level → firstOut (maccRuns r) = some x → macc 0x04 (BitVec.ofNat 64 x)) ∧
    (level → firstOut (maccRuns r) = none → recExtent r < 31 * rowBytes f + 8 * elBits f → macc 0x05 (BitVec.ofNat 64 (recExtent r))) ∧
    (level → firstOut (maccRuns r) = none → 31 * rowBytes f + 8 * elBits f ≤ recExtent r → tl.heldByOther me a.toNat = false →
      (f ≠ 4 → f ≠ 5 → Traps (.maccRd e a b) s 0x0D (BitVec.ofNat 64 f)) ∧ (f ≠ 4 → Traps (.maccWr e a) s 0x0D (BitVec.ofNat 64 f)))) ∧
  (∀ (s : State) (u : Nat) (me : Fin 10) (e : BitVec 5) (k : BitVec 4), s.turn = .tile u me → me.val < 8 →
    s.myEntry MatEntry.isRd = none → (s.tile u).matQ.length < 16 →
    let r := s.recReg e
    let h8 := leNat ((runsOf r 0 8).flatMap fun p => (s.memOf s.turn).1.bytes p.1 p.2)
    let h := imageHdr h8
    let readable : Prop := firstOut (runsOf r 0 64) = none ∧ (s.tile u).badRuns (runsOf r 0 64) = none
    (∀ x, firstOut (runsOf r 0 64) = some x → Traps (.mwld e k) s 0x04 (BitVec.ofNat 64 x)) ∧
    (readable → hdrOk h k.toNat = false → Traps (.mwld e k) s 0x0D (BitVec.ofNat 64 h8)) ∧
    (∀ x, readable → hdrOk h k.toNat = true → firstOut (imageRuns h r) = some x → Traps (.mwld e k) s 0x04 (BitVec.ofNat 64 x)) ∧
    (readable → hdrOk h k.toNat = true → firstOut (imageRuns h r) = none → recExtent r < tailStart h.fmt + tailLen h.fmt →
      Traps (.mwld e k) s 0x05 (BitVec.ofNat 64 (recExtent r))))

/-- R266, R269, R272-R279: a matrix instruction that passes its checks puts one entry at the end of the queue, with the context and
the record it captured, claims the FREE accumulators it names for its strand, and goes on at once: no byte of memory, no other
agent and no earlier entry changes. R274: an `mwld` puts the header into the descriptor of its slot at issue, makes the next slot its
continuation where the image fills two, and leaves every image that had one of these slots, with its other slot, without an image. -/
def Obligations.MatrixIssueCompletes : Prop :=
  ∀ (s : State) (u : Nat) (me : Fin 10) (e a b : BitVec 5) (k : BitVec 4), s.turn = .tile u me → me.val < 8 →
    (s.tile u).matQ.length < 16 → a.toNat < 16 →
    let tl := s.tile u
    let r := s.recReg e
    let mine (n : Nat) : Prop := tl.heldByOther me n = false
    let enters (i : Instr) (kind : MatKind) (rc : Rec) (acc slot : Nat) (claims : List Nat) : Prop :=
      ∃ t x, exec i s = .next t ∧ t.agentOf s.turn = s.me.past ∧ (t.tile u).matQ = tl.matQ ++ [x] ∧
        x.strand = me ∧ x.kind = kind ∧ x.ctx = s.me.mctx ∧ x.rc = rc ∧ x.acc = acc ∧ x.slot = slot ∧ x.started = false ∧
        (∀ w, w ≠ s.turn → t.agentOf w = s.agentOf w) ∧ (∀ w y, t.byteAt w y = s.byteAt w y) ∧
        (t.tile u).acc = tl.acc ∧ (t.tile u).slotMem = tl.slotMem ∧ (t.tile u).cur.sems = tl.cur.sems ∧
        ∀ n : Fin 16, (t.tile u).cur.accSt[n] =
          if n.val ∈ claims ∧ tl.cur.accSt[n] = .free then .held me false else tl.cur.accSt[n]
    (mine a.toNat → enters (.maccZ a) .zero 0 a.toNat 0 [a.toNat] ∧ enters (.maccPin a) .pin 0 a.toNat 0 [a.toNat] ∧
      enters (.maccUnpin a) .unpin 0 a.toNat 0 []) ∧
    (mine a.toNat → (recFormat r = 4 ∨ recFormat r = 5) → firstOdd (elBits (recFormat r) / 8) (maccRuns r) = none →
      firstOut (maccRuns r) = none → 31 * rowBytes (recFormat r) + 64 * (elBits (recFormat r) / 8) ≤ recExtent r →
      enters (.maccRd e a b) (.rd ((s.rx b).setWidth 32)) r a.toNat 0 [a.toNat] ∧
      (recFormat r = 4 → enters (.maccWr e a) .wr r a.toNat 0 [a.toNat])) ∧
    (mine a.toNat → mine (a.toNat + 1) → a.toNat % 2 = 0 →
      pairOk (ctxA s.me.mctx) (ctxB s.me.mctx) = true → recFormat r = ctxA s.me.mctx → tl.slotFmt k.toNat = ctxB s.me.mctx →
      (ctxA s.me.mctx = 5 → firstOdd 2 (runsOf r 0 (32 * rowBytes (recFormat r))) = none) →
      firstOut (streamRuns s.me.mctx r) = none → streamExtent s.me.mctx ≤ recExtent r →
      enters (.mmulR e a k) (.mmul false) r a.toNat k.toNat [a.toNat, a.toNat + 1] ∧
      enters (.mmulC e a k) (.mmul true) r a.toNat k.toNat [a.toNat, a.toNat + 1]) ∧
    (let h := imageHdr (leNat ((runsOf r 0 8).flatMap fun p => (s.memOf s.turn).1.bytes p.1 p.2))
     s.myEntry MatEntry.isRd = none → firstOut (runsOf r 0 64) = none → tl.badRuns (runsOf r 0 64) = none →
      hdrOk h k.toNat = true → firstOut (imageRuns h r) = none → tailStart h.fmt + tailLen h.fmt ≤ recExtent r →
      enters (.mwld e k) .mwld r 0 k.toNat [] ∧
      let filled (n : Nat) : Prop := n = k.toNat ∨ h.slots = 2 ∧ n = k.toNat + 1
      let hit (i : Fin 16) : Prop := ∃ g, (tl.slotDesc[i]).image = some g ∧ (filled i.val ∨ g.slots = 2 ∧ filled (i.val + 1))
      ∃ t, exec (.mwld e k) s = .next t ∧ ∀ i : Fin 16, let d := tl.slotDesc[i]
        let d' := (t.tile u).slotDesc[i]
        d'.scale = d.scale ∧ d'.cols = d.cols ∧ (i.val = k.toNat → d'.image = some h ∧ d'.cont = false) ∧
        (h.slots = 2 → i.val = k.toNat + 1 → d'.image = none ∧ d'.cont = true) ∧
        (¬filled i.val → (hit i ∨ d.cont = true ∧ ∃ j : Fin 16, j.val + 1 = i.val ∧ hit j) → d'.image = none ∧ d'.cont = false) ∧
        (¬filled i.val → ¬hit i → (d.cont = true → ∀ j : Fin 16, j.val + 1 = i.val → ¬hit j) → d' = d))

/-- R194, R270, R271, R278, R280: an entry that may start runs and is marked started; `macc.z` makes every byte of its accumulator 0;
a started entry leaves the queue, and the strands that waited for it become READY at their instruction. R423: a block-step that would
make the module's current rise too fast is delayed, and `SLEWHOLD` counts the delay once; the span the rise is taken over is
the model's reading (DEDUCED, notes/assumptions/41.md). R227, R232: an entry starts behind an earlier Firefly command of its strand that
is still to access an atom of it. R227, R232, R234: an entry that reads tile memory sees each 16-byte atom as it stands, or as it was before a
write made after its issue, and takes none older than an earlier read of its strand took, nor newer than a later one took, where it may take
such a one; what an entry writes has it as its writer. -/
def Obligations.MatrixEntriesRun : Prop :=
  (∀ (tl : Tile) (clk k w : Nat) (f : MatEntry),
    (f.reads = [] → tl.runSeen clk k f = ((tl.runEntry clk f).1.stamp tl.olds.length (f.strand, f.pos), (tl.runEntry clk f).2)) ∧
    (f.reads ≠ [] → tl.olds = [] → tl.held = [] → let x := (tl.entryRead k f).runEntry clk f
      tl.runSeen clk k f = ({ x.1 with tm := tl.tm }, x.2)) ∧
    (tl.held = [] → (∀ q ∈ tl.olds, q.bytes.length = 16) → clearOf f.reads w = false → let seen := (tl.entryView k f).tm.bytes (16 * w) 16
      seen = tl.tm.bytes (16 * w) 16 ∨
        ∃ q ∈ tl.olds, f.pos < q.pos ∧ q.atom = w ∧ (∀ p, q.writer = some p → p.1 = f.strand → f.pos < p.2) ∧ seen = q.bytes) ∧
    ((∃ v ∈ tl.versions f.reader w, ∀ n ∈ tl.reads, n.permits f.reader w v.1 = true) →
      ∀ n ∈ tl.reads, ∀ v, n.reader.agent = f.strand → n.reader.stream = false → n.version w = some v →
        if n.reader.pos ≤ f.pos then v ≤ (tl.pick f.reader k w).1 else (tl.pick f.reader k w).1 ≤ v)) ∧
  ∀ (s : State) (u : Nat) (pre post : List MatEntry) (f : MatEntry), (s.tile u).matQ = pre ++ f :: post →
    (∀ g ∈ pre ++ post, g.id ≠ f.id) → (s.tile u).node = .run → (s.tile u).stopping = false →
    let m := s.module (modOfTile u)
    let starts (back : Nat) : Nat := (m.slewStarts.filter fun c => decide (c + back ≤ s.clk) && decide (s.clk < c + back + 4000)).length
    let tooFast : Prop := m.pslew.toNat * 500000 + starts 4000 * 3255 < (starts 0 + 1) * 3255
    let isMmul : Prop := ∃ c, f.kind = .mmul c
    (s.behindCommand u f = true → exec (.matrixEntryStart u f.id) s = .next s) ∧
    (s.behindCommand u f = false →
    (∀ tl', (s.tile u).canStart s.clk pre f = true → ¬(isMmul ∧ tooFast) → (s.tile u).runSeen s.clk s.free f = (tl', .ok) →
      ∃ t, exec (.matrixEntryStart u f.id) s = .next t ∧
        t.tile u = { tl' with matQ := tl'.matQ.map fun g => if g.id = f.id then { g with started := true } else g } ∧
        (isMmul → (t.module (modOfTile u)).slewStarts = (m.slewStarts.filter fun c => decide (s.clk < c + 8000)) ++ [s.clk]) ∧
        (¬isMmul → ∀ n, t.module n = s.module n) ∧ ∀ w, w ≠ u → t.tile w = s.tile w) ∧
    ((s.tile u).canStart s.clk pre f = true → isMmul → tooFast →
      ∃ t, exec (.matrixEntryStart u f.id) s = .next t ∧
        t.tile u = { s.tile u with matQ := pre ++ { f with delayed := true } :: post } ∧
        (t.module (modOfTile u)).slewHold = m.slewHold + (if f.delayed = true then 0 else 1) ∧
        (∀ w, w ≠ u → t.tile w = s.tile w) ∧ ∀ w y, t.byteAt w y = s.byteAt w y) ∧
    (f.kind = .zero → f.acc < 16 → (s.tile u).canStart s.clk pre f = true → (s.tile u).vs.length + 128 ≤ 8192 →
      ∃ t, exec (.matrixEntryStart u f.id) s = .next t ∧ (t.tile u).accBytes f.acc = List.replicate 8192 0 ∧
        (∀ n, n < 16 → n ≠ f.acc → (t.tile u).accBytes n = (s.tile u).accBytes n) ∧
        (∀ w y, t.byteAt w y = s.byteAt w y) ∧ ∀ w, t.agentOf w = s.agentOf w)) ∧
    (f.started = true → ∃ t, exec (.matrixEntryComplete u f.id) s = .next t ∧ (t.tile u).matQ = pre ++ post ∧
      (∀ a : Fin 10, t.agentOf (.tile u a) =
        if (s.agentOf (.tile u a)).st = .wait (.matrix f.id) then { s.agentOf (.tile u a) with st := .ready, resuming := true }
        else s.agentOf (.tile u a)) ∧
      ∀ w y, t.byteAt w y = s.byteAt w y)

/-- R48-R51, R268: a block-step gives element `c` of row `m` of its accumulator the block of its 128 products added once to the old
value, or to +0 in overwrite mode; the sum of finite products is exact before its one rounding to F32, a NaN or infinities decide it
otherwise; a block whose sum is zero leaves the element as it is, a NaN scale makes it NaN. R263, R264, R268: the streamed element and
the square element carry their MXFP4 scales. R268, R278, R274, R49: `mmul` leaves the block-step in both accumulators; `macc.rd` lays
each element times the tensor scale, rounded once, over 64 elements of every record row; `macc.wr` takes F32 elements, any NaN
canonical; a block-step in accumulate mode of which one operand is all zero, with no scale 0xFF, leaves its pair (R268, R284; that it does so
beside a NaN or an infinity, which R51 classes NaN, is the model's reading: DEDUCED, notes/assumptions/30.md); `mwld` copies the body to the slots, the square scale and the column scales to the descriptor. R275: packed elements go
where the bitmap has 1. R253, R35, R201: a transposed square has element `128 c + r` where the source has `128 r + c`; half-byte
elements are taken low nibble first; data byte `j` of a record lies at `BASE` plus its plane, its row and its place in the row. -/
def Obligations.DataRules : Prop :=
  let num (n : Bool) (m : Nat) (e : Int) : ℚ := ((signedMag n m : Int) : ℚ) * (2 : ℚ) ^ e
  (∀ (acc : Nat) (k : Int) (v : FVal),
    blockAdd acc v true k = 0x7FC00000 ∧ blockAdd acc (.fin false 0 0) false k = acc ∧ blockAdd acc (.fin true 0 0) false k = acc ∧
    (v.isZero = false → blockAdd acc v false k =
      fF32.round .rne false (FVal.add .rne (fF32.val acc) (fF32.val (fF32.round .rne false (v.scale k)))))) ∧
  (∀ l : List (Bool × Nat × Int), ∃ n m e, blockSum (l.map fun x => .fin x.1 x.2.1 x.2.2) = .fin n m e ∧
    num n m e = (l.map fun x => num x.1 x.2.1 x.2.2).sum) ∧
  (∀ l : List FVal, (.nan ∈ l → blockSum l = .nan) ∧ (.inf true ∈ l → .inf false ∈ l → blockSum l = .nan) ∧
    ∀ b, .nan ∉ l → .inf b ∈ l → .inf (!b) ∉ l → blockSum l = .inf b) ∧
  (∀ (a b : Bool) (m n : Nat) (e f : Int), ∃ s k g, (FVal.fin a m e).mul (.fin b n f) = .fin s k g ∧ num s k g = num a m e * num b n f) ∧
  (∀ (col : Bool) (x : BitVec 12) (rows : List (Array FVal × Nat)) (w : Array FVal) (sb half m c : Nat) (old : Array Nat)
    (q : Array FVal × Nat), rows[m]? = some q → c < 64 →
    let n := 64 * half + c
    let prods := (List.range 128).map fun j =>
      (q.1.getD j (.fin false 0 0)).mul (w.getD (if col = true then 128 * j + n else 128 * n + j) (.fin false 0 0))
    (blockStep col x rows w sb half old)[64 * m + c]? = some (blockAdd (if ctxAcc x = true then old.getD (64 * m + c) 0 else 0)
      (blockSum prods) (decide (q.2 = 0xFF ∨ sb = 0xFF)) ((q.2 : Int) - 127 + ((sb : Int) - 127)))) ∧
  (∀ (x : BitVec 12) (rows : List (Array FVal × Nat)) (w : Array FVal) (sb : Nat), (stepIdle x rows w sb = true ↔
    ctxAcc x = true ∧ ctxA x ≠ 9 ∧ sb ≠ 0xFF ∧ (∀ q ∈ rows, q.2 ≠ 0xFF) ∧
      ((∀ q ∈ rows, ∀ v ∈ q.1.toList, v.isZero = true) ∨ ∀ v ∈ w.toList, v.isZero = true))) ∧
  (∀ (tl : Tile) (x : BitVec 12) (r : Rec) (m j y : Nat), m < 32 → j < 128 →
    (tl.recElems r (32 * rowBytes (recFormat r)))[128 * m + j]? = some y →
    let mx := if ctxA x = 9 then ((tl.recBytes r (32 * rowBytes (recFormat r) + 32) 128).getD (4 * m + j / 32) 0x7F#8).toNat else 0x7F
    ∃ q, (streamRows tl x r)[m]? = some q ∧
      q.1[j]? = some (if mx = 0xFF then .nan else ((matFmt (ctxA x)).val y).scale ((mx : Int) - 127)) ∧
      (ctxSA x = false → q.2 = 0x7F) ∧
      ∀ z, ctxSA x = true → (tl.recBytes r (32 * rowBytes (recFormat r)) 32)[m]? = some z → q.2 = z.toNat) ∧
  (∀ (tl : Tile) (h : ImageHdr) (k n j y : Nat), j < 128 → (tl.squareElems h k)[128 * n + j]? = some y →
    let mx := if h.fmt = 9 then ((tl.slotDesc[slotIx k]).cols.getD (4 * n + j / 32) 0x7F#8).toNat else 0x7F
    (squareVals tl h k)[128 * n + j]? = some (if mx = 0xFF then .nan else ((matFmt h.fmt).val y).scale ((mx : Int) - 127))) ∧
  (∀ (v : List Nat) (p : Nat → Bool), unpackBitmap (v.map p) (v.filter p) = v.map fun x => if p x = true then x else 0) ∧
  (∀ (tl : Tile) (e : MatEntry) (clk : Nat), e.acc < 16 → e.slot < 16 → tl.vs.length + 256 ≤ 8192 →
    let keeps (tl' : Tile) (l : List Nat) : Prop := tl'.tm = tl.tm ∧ ∀ n, n < 16 → n ∉ l → tl'.accBytes n = tl.accBytes n
    (∀ col, e.kind = .mmul col → e.acc + 1 < 16 → tl.badRuns (streamRuns e.ctx e.rc) = none →
      badHit 16 tl.badSlot (16384 * e.slot) (if e.hdr.mode = 0 then denseLen e.hdr.fmt else e.hdr.bodyLen) = none →
      tl.accBad e.acc = none → tl.accBad (e.acc + 1) = none →
      let sb := if ctxSB e.ctx = true then ((tl.slotDesc[slotIx e.slot]).scale).toNat else 0x7F
      ∃ tl', tl.runEntry clk e = (tl', .ok) ∧ keeps tl' [e.acc, e.acc + 1] ∧ tl'.mshCnt = tl.mshCnt + 1 ∧
        tl'.arrayUntil = clk + blockTime (ctxA e.ctx) ∧ ∀ half, half < 2 → tl'.accBytes (e.acc + half) =
          if stepIdle e.ctx (streamRows tl e.ctx e.rc) (squareVals tl e.hdr e.slot) sb = true then tl.accBytes (e.acc + half) else
          (blockStep col e.ctx (streamRows tl e.ctx e.rc) (squareVals tl e.hdr e.slot) sb half
            (f32s (tl.accBytes (e.acc + half))).toArray).flatMap fun x => leBytes 4 x) ∧
    (e.kind = .wr → tl.badRuns (maccRuns e.rc) = none → ∃ tl', tl.runEntry clk e = (tl', .ok) ∧ keeps tl' [e.acc] ∧
      tl'.accBytes e.acc = (f32s (tl.readRuns (maccRuns e.rc))).flatMap fun x =>
        leBytes 4 (if (fF32.val x).isNaN = true then 0x7FC00000 else x)) ∧
    (∀ z, e.kind = .rd z → tl.accBad e.acc = none →
      let fm := if recFormat e.rc = 5 then fBF16 else fF32
      let scale : FVal := if z = 0 then .fin false 1 0 else fF32.val z.toNat
      let bs := (f32s (tl.accBytes e.acc)).flatMap fun x =>
        leBytes (fm.w / 8) (fm.round .rne (ctxSat e.ctx) ((fF32.val x).mul scale))
      let rows := (List.range 32).map fun m => (recAddr e.rc (m * rowBytes (recFormat e.rc)), 8 * elBits (recFormat e.rc))
      (∀ tl', tl.fillRuns (byLine (layRuns rows bs)) = (tl', none) → tl.runEntry clk e = (tl', .ok)) ∧
        ∀ tl' a, tl.fillRuns (byLine (layRuns rows bs)) = (tl', some a) → tl.runEntry clk e = (tl', .overflow a)) ∧
    (e.kind = .mwld → tl.badRuns (imageRuns e.hdr e.rc) = none →
      let body := tl.recBytes e.rc 64 e.hdr.bodyLen
      let tail := tl.recBytes e.rc (64 + denseLen e.hdr.fmt) (if e.hdr.fmt = 9 then 576 else 64)
      ∃ tl', tl.runEntry clk e = (tl', .ok) ∧ keeps tl' [] ∧ tl'.slotMem.bytes (16384 * e.slot) body.length = body ∧
        (∀ x, x < 16384 * e.slot ∨ 16384 * e.slot + body.length ≤ x → tl'.slotMem.get x = tl.slotMem.get x) ∧
        ∀ k : Fin 16, tl'.slotDesc[k] = if k.val = e.slot then
          { tl.slotDesc[k] with scale := tail.headD 0, cols := tail.drop 64 } else tl.slotDesc[k])) ∧
  ((∀ (v : Array Nat) (r c : Nat), r < 128 → c < 128 → (transposed v)[128 * c + r]? = some (v.getD (128 * r + c) 0)) ∧
     (∀ (b : Byte), elemsOf 4 [b] = [b.toNat % 16, b.toNat / 16]) ∧
     ∀ (r : Rec) (row plane j : Nat), row < 128 → j < rowBytes (recFormat r) →
    recAddr r ((128 * plane + row) * rowBytes (recFormat r) + j) =
      r.toNat % 2 ^ 21 + plane * (r.toNat / 2 ^ 96 % 2 ^ 21) + row * (r.toNat / 2 ^ 64 % 2 ^ 21) + j)

/-! ## The shape core -/

/-- R242-R244, R248-R259: a shape operation makes the checks of the table of R244 over all the elements of its source and of what they need in
the destination and the arrays that X[b] names, in the order of their codes: an element at an odd address 0x03, a byte above tile memory
0x04, sizes that do not fit 0x05, formats, geometry or headroom that it does not take 0x0D; each form has the formats, sizes and arrays that
its rule gives. Where a cause is met it is taken, and nothing is queued. Where none is, the operation takes the last of the 8 places of the queue with what it captured, and the
hart goes on; a stochastic `squant` counts one draw; no byte of memory and no other agent changes. Which address of two records
is the lowest, and that the formats come before the headroom, are the model's readings (DEDUCED and DESIGN CHOICE,
notes/assumptions/29.md). -/
def Obligations.ShapeIssueCompletes : Prop :=
  ∀ (s : State) (u : Nat) (e a b : BitVec 5) (k : BitVec 6) (r z : BitVec 1) (m : BitVec 2), s.turn = .tile u 9 →
    let tl := s.tile u
    let q := tl.cur.srCount
    let src := s.recReg a
    let dst := s.recReg e
    let f := recFormat src
    let g := recFormat dst
    let bits (c : Nat) : Nat := ([8, 16, 32, 64, 32, 16, 16, 8, 8, 4, 8, 4, 8, 8, 32, 8] : List Nat).getD c 8
    let size (c : Nat) : Nat := max 1 (bits c / 8)
    let N := recExtent src * 8 / bits f
    let w := (s.rx b).toNat
    let first (p : Nat → Prop) (j : Nat) : Prop := p j ∧ ∀ i, i < j → ¬p i
    let op (kind : ShapeKind) (p : W) : ShapeOp := ⟨kind, src, dst, p, tl.cur.srkey, q, k.toNat, false, tl.opSeq⟩
    let issues (i : Instr) (kind : ShapeKind) (p : W) (n len : Nat) (plain : Bool) (block : Nat) (square : Bool) (arrays : List (Nat × Nat))
        (formats high : Prop) : Prop :=
      let oddS (j : Nat) : Prop := j < N ∧ recAddr src (size f * j) % size f ≠ 0
      let oddD (j : Nat) : Prop := plain = false ∧ size g * j < len ∧ recAddr dst (size g * j) % size g ≠ 0
      let outS (j : Nat) : Prop := j < (N * bits f + 7) / 8 ∧ 0x1F0000 ≤ recAddr src j
      let outD (j : Nat) : Prop := j < len ∧ 0x1F0000 ≤ recAddr dst j
      let outA := arrays.findSome? fun x => if x.2 = 0 ∨ x.1 + x.2 ≤ 0x1F0000 then none else some (max x.1 0x1F0000)
      let even : Prop := ∀ j, ¬oddS j ∧ ¬oddD j
      let inside : Prop := even ∧ (∀ j, ¬outS j ∧ ¬outD j) ∧ outA = none
      let fits : Prop := recExtent src * 8 % bits f = 0 ∧ len ≤ recExtent dst ∧ N % block = 0 ∧ (square = true → 16384 ≤ N)
      (∀ j, first oddS j → (∀ i, ¬oddD i) → Traps i s 0x03 (BitVec.ofNat 64 (recAddr src (size f * j)))) ∧
      (∀ j, first oddD j → (∀ i, ¬oddS i) → Traps i s 0x03 (BitVec.ofNat 64 (recAddr dst (size g * j)))) ∧
      (∀ j l, first oddS j → first oddD l →
        Traps i s 0x03 (BitVec.ofNat 64 (min (recAddr src (size f * j)) (recAddr dst (size g * l))))) ∧
      (∀ j, even → first outS j → Traps i s 0x04 (BitVec.ofNat 64 (recAddr src j))) ∧
      (∀ j, even → (∀ i, ¬outS i) → first outD j → Traps i s 0x04 (BitVec.ofNat 64 (recAddr dst j))) ∧
      (∀ x, even → (∀ j, ¬outS j ∧ ¬outD j) → outA = some x → Traps i s 0x04 (BitVec.ofNat 64 x)) ∧
      (inside → ¬fits → Traps i s 0x05 (BitVec.ofNat 64 (recExtent src))) ∧
      (inside → fits → ¬formats → Traps i s 0x0D (BitVec.ofNat 64 (f + 16 * g))) ∧
      (inside → fits → formats → high → Traps i s 0x0D p) ∧
      (inside → fits → formats → ¬high → (tl.shapeQ.length < 8 → CompletesIn i s s.me.past (fun tl =>
          { tl with shapeQ := tl.shapeQ ++ [op kind p], opSeq := tl.opSeq + 1, cur := { tl.cur with srCount := tl.cur.srCount + n } })) ∧
        (8 ≤ tl.shapeQ.length → Waits i s .queue))
    let geom := w / 2 ^ 21 % 4
    let block := ([1, 128, 16384, 32] : List Nat).getD geom 1
    let scales : List (Nat × Nat) := if geom = 0 then [] else [(w % 2 ^ 21, N / block)]
    let same : Nat := (N * bits g + 7) / 8
    issues (.squant e a b k r z) (.squant (decide (r = 1)) (decide (z = 1))) (s.rx b) r.toNat same false block false scales
      (f ∈ [4, 5, 6] ∧ g ∈ [5, 6, 7, 8, 9] ∧ (g = 9 → geom = 3)) False ∧
    issues (.sdeq e a b k) .sdeq (s.rx b) 0 same false block false scales
      (f ∈ [4, 5, 6, 7, 8, 9] ∧ g ∈ [4, 5, 6] ∧ (f = 9 → geom = 3)) False ∧
    issues (.sexp e a k) .sexp 0 0 same false 1 false [] (f ∈ [11, 12, 13] ∧ g = 7) False ∧
    issues (.strans e a b k) .strans 0 0 same false 1 true [] (f = g ∧ f ≠ 15) False ∧
    issues (.stransRq e a b k) .stransRq (s.rx b) 0 same false 1 true
      ((if w / 2 ^ 21 % 2 = 1 then [(w % 2 ^ 21, 128)] else []) ++ if w / 2 ^ 53 % 2 = 1 then [(w / 2 ^ 32 % 2 ^ 21, 128)] else [])
      (f ∈ [4, 5, 6, 7, 8] ∧ g ∈ [4, 5, 6, 7, 8]) False ∧
    issues (.scomp e a k) .scomp 0 0 (64 + 16384 * bits f / 8) true 1 true [] (f ∈ [5, 7, 8, 9]) False ∧
    issues (.sblkExp e a b k) .sblkExp 0 0 (N / 128) true 128 false [] (f = 4) False ∧
    issues (.sblkInt e a b k) .sblkInt (s.rx b) 0 same false 128 false [(w % 2 ^ 21, N / 128)] (f = 4 ∧ g = 14) (24 < w / 2 ^ 24 % 32) ∧
    issues (.sblkFlt e a b k) .sblkFlt (s.rx b) 0 same false 128 false [(w % 2 ^ 21, N / 128)] (f = 14 ∧ g = 4) (24 < w / 2 ^ 24 % 32) ∧
    issues (.scvt e a k m z) (.scvt m.toNat (decide (z = 1))) 0 0 same false 1 false [] (f ≤ 9 ∧ g ≤ 9) False

/-- R242, R243, R245: the operation at the head of the queue runs once, with its output laid over the destination's record rows in data
order, and after it the written array, where its places do not overlap those it reads; then it leaves the queue and adds 1 to its
semaphore. What it makes: `scvt` converts each element (R259); `sexp` keeps each value (R252); `sdeq` (R251) and `squant` (R250) scale
and round it once, under scales chosen by R249, read, or none (that a NaN or infinite element of an MXFP4 block leaves a scale that is read as it is, by R250
and not by R46, is the model's reading: DEDUCED, notes/assumptions/29.md); it takes each atom stored to since its issue old or
new (R207, R231); `strans` and `strans.rq` transpose (R253, R254; that bits [7:6] of codes 12 and 13 become 0 is the model's choice, notes/assumptions/29.md);
`sblk` takes the largest exponent field, and rounds to and from block integers (R53-R55, R257); `scomp` writes the image of R255, R256. -/
def Obligations.ShapeOperationsRun : Prop :=
  (∀ (s : State) (u : Nat) (o : ShapeOp) (rest : List ShapeOp), (s.tile u).shapeQ = o :: rest →
    (s.tile u).node = .run → (s.tile u).stopping = false →
    let reads := runsOf o.src 0 o.srcBytes ++ o.arrays.1
    let me : Reader := ⟨9, o.id, false⟩
    let sees := { s.tile u with tm := (s.tile u).view me (s.free + 1) reads [] }
    let noted := (s.tile u).noteRead me reads fun w => ((s.tile u).pick me (s.free + 1) w).1
    ((s.tile u).olds = [] → (s.tile u).held = [] → sees = s.tile u) ∧
    (∀ w, (s.tile u).held = [] → (∀ q ∈ (s.tile u).olds, q.bytes.length = 16) → sees.tm.bytes (16 * w) 16 = (s.tile u).tm.bytes (16 * w) 16 ∨
      ∃ q ∈ (s.tile u).olds, o.id < q.pos ∧ q.atom = w ∧ sees.tm.bytes (16 * w) 16 = q.bytes) ∧
    (∀ tl', o.ran = false → (s.tile u).held = [] → (s.tile u).badRuns reads = none →
      (let r := o.output sees (s.tile u).ssnum.toNat u
       let w := o.unspecified sees r
       let at_ := (o.arrays.2.head?.map fun a => a.1).getD 0
       (∀ x ∈ w.1, x = (false, false)) ∧ (∀ x ∈ w.2, x = false) ∧
        ({ noted with shapeQ := { o with ran := true } :: rest } : Tile).fillRuns (layRuns (runsOf o.dst 0 r.bytes.length) (o.keepNibble (s.tile u) r.bytes) ++
          r.parts.map fun p => (at_ + p.1, p.2.map fun x => BitVec.ofNat 8 x)) = (tl', none)) →
      ∃ t, exec (.shapeOpStart u) s = .next t ∧ t.tile u = tl'.stamp (s.tile u).olds.length (9, o.id) ∧
        ∀ w, w ≠ u → t.tile w = s.tile w) ∧
    (o.ran = true → (s.tile u).held = [] → (s.tile u).sem o.sem < 65535 → (s.agentOf (.tile u 9)).st ≠ .wait .drain →
      (s.agentOf (.tile u 9)).stalled = false →
      ∃ t, exec (.shapeOpComplete u) s = .next t ∧ (t.tile u).shapeQ = rest ∧ (t.tile u).sem o.sem = (s.tile u).sem o.sem + 1 ∧
        (∀ w, t.agentOf w = s.agentOf w) ∧ ∀ w y, t.byteAt w y = s.byteAt w y)) ∧
  (∀ (o : ShapeOp) (tl : Tile) (n u i x : Nat), (o.elems tl)[i]? = some x →
    let f := recFormat o.src
    let g := recFormat o.dst
    let flt (k : Nat) : Prop := 4 ≤ k ∧ k ≤ 9
    let fm (k : Nat) : Fmt := (recFmt k).getD fF32
    let v : FVal := (fm f).val x
    let p := o.param
    let byteOf (a : Nat) : Nat := (tl.tm.get a).toNat
    let sz := geomSize (scGeom p)
    let inside (k : Nat) : Prop := i / k < o.count / k ∧ i / k < (o.elems tl).length / k
    let gives (j y : Nat) : Prop := ∃ l, (o.output tl n u).bytes = bytesOfElems (elBits g) 0 l ∧
      l.length = (o.elems tl).length ∧ l[j]? = some y
    (∀ m z, o.kind = .scvt m z → f ≤ 9 → g ≤ 9 →
      (f = g → gives i x) ∧
      (f ≠ g → flt f → flt g → gives i ((fm g).round (RM.ofCode m) z v)) ∧
      (flt f → g < 4 → gives i (wrapNat (elBits g) (v.toS (elBits g) (RM.ofCode m)))) ∧
      (f < 4 → flt g → gives i ((fm g).round (RM.ofCode m) z (FVal.ofS (sextNat (elBits f) x)))) ∧
      (f < 4 → g < 4 → f ≠ g → gives i (wrapNat (elBits g) (if z = true then
        max (-(2 ^ (elBits g - 1) : Int)) (min (2 ^ (elBits g - 1) - 1) (sextNat (elBits f) x)) else sextNat (elBits f) x)))) ∧
    (o.kind = .sexp → g = 7 →
      (f = 11 → ∃ y, gives i y ∧ (fE4M3.val y).eqv (FVal.ofS (sextNat 4 x)) = true) ∧
      (f = 12 ∨ f = 13 → ∃ y, gives i y ∧ (fE4M3.val y).eqv ((fm f).val (x % 64)) = true ∧
        (fE4M3.val y).isNeg = ((fm f).val (x % 64)).isNeg)) ∧
    (o.kind = .sdeq → flt f → flt g → inside sz →
      let X := if scGeom p = 0 then 0x7F else byteOf (scAddr p + i / sz)
      gives i (if X = 0xFF then (fm g).nan.getD 0 else (fm g).round .rne false ((v.scale ((X : Int) - 127)).mul (scFactor p)))) ∧
    (∀ sr sat, o.kind = .squant sr sat → 4 ≤ f → f ≤ 6 → flt g → inside sz →
      let q (y : FVal) : Nat := if sr = true then
        (fm g).roundSR (keyedDraw o.key.toNat n (2 ^ 31 + u % 1024 * 2 ^ 21 + o.draw % 2 ^ 21) i) sat y else (fm g).round .rne sat y
      let block := (((o.elems tl).drop (sz * (i / sz))).take sz).map fun y => ((fm f).val y).mul (scFactor p)
      let X := if scIn p = false then chooseScale (fm g) block else byteOf (scAddr p + i / sz)
      (scGeom p = 0 → gives i (q (v.mul (scFactor p)))) ∧
      (scGeom p ≠ 0 → gives i (if X = 0xFF then 0 else q ((v.mul (scFactor p)).scale (127 - (X : Int)))) ∧
        (scIn p = true → (o.output tl n u).parts = []) ∧
        (scIn p = false → ∃ l, (o.output tl n u).parts = [(0, l)] ∧ l[i / sz]? = some X))) ∧
    (o.kind = .strans → f = g → (o.elems tl).length = 16384 →
      gives (128 * (i % 128) + i / 128) (if f = 12 ∨ f = 13 then x % 64 else x)) ∧
    (o.kind = .stransRq → flt f → flt g → (o.elems tl).length = 16384 →
      let a (r c : Nat) : FVal :=
        let X := if p.fld 21 1 = 1 then byteOf (p.fld 0 21 + r) else 127
        if X = 0xFF then .nan else ((fm f).val ((o.elems tl).getD (128 * r + c) 0)).scale ((X : Int) - 127)
      let Y := if p.fld 53 1 = 1 then chooseScale (fm g) ((List.range 128).map fun r => a r (i % 128)) else 127
      gives (128 * (i % 128) + i / 128) (if Y = 0xFF then 0 else (fm g).round .rne false ((a (i / 128) (i % 128)).scale (127 - (Y : Int)))) ∧
        (p.fld 53 1 = 1 → ∃ l, (o.output tl n u).parts = [(0, l)] ∧ l[i % 128]? = some Y)) ∧
    (o.kind = .sblkExp → inside 128 → ∃ E, (o.output tl n u).bytes[i / 128]? = some (BitVec.ofNat 8 E) ∧
      (∀ j, j < 128 → ∀ y, (o.elems tl)[128 * (i / 128) + j]? = some y → y / 2 ^ 23 % 256 ≤ E) ∧
      ∃ j y, j < 128 ∧ (o.elems tl)[128 * (i / 128) + j]? = some y ∧ y / 2 ^ 23 % 256 = E) ∧
    (let E := byteOf (p.fld 0 21 + i / 128)
     let H := p.fld 24 5
     inside 128 → H ≤ 24 → g = 14 ∨ g = 4 →
      (o.kind = .sblkInt → ∃ k, gives i (wrapNat 32 k) ∧
        let L : Int := 2 ^ (31 - H) - 1
        (E = 0xFF ∨ fF32.val x = .nan → k = 0) ∧
        (E ≠ 0xFF → ∀ b, fF32.val x = .inf b → k = if b = true then -L else L) ∧
        (E ≠ 0xFF → ∀ b m e, fF32.val x = .fin b m e →
          let y : ℚ := ((signedMag b m : Int) : ℚ) * (2 : ℚ) ^ (e + (30 - (H : Int) - ((E : Int) - 127)))
          ((L : ℚ) < y → k = L) ∧ (y < -(L : ℚ) → k = -L) ∧
          (-(L : ℚ) ≤ y → y ≤ L → |(k : ℚ) - y| ≤ 1 / 2 ∧ (|(k : ℚ) - y| = 1 / 2 → k % 2 = 0)))) ∧
      (o.kind = .sblkFlt → gives i (if E = 0xFF then 0x7FC00000
        else fF32.round .rne false (FVal.ofInt false (sextNat 32 x) ((E : Int) - 127 - 30 + H))))) ∧
    (o.kind = .scomp → f = 5 ∨ 7 ≤ f ∧ f ≤ 9 → (o.elems tl).length = 16384 →
      let bs := (o.output tl n u).bytes
      let nz := (o.elems tl).filter fun y => decide (y % 2 ^ (elBits f - 1) ≠ 0)
      let packed := bytesOfElems (elBits f) 0 nz
      let B := 2048 + (packed.length + 63) / 64 * 64
      let D := 16384 * elBits f / 8
      let len := if B < D then B else D
      imageHdr (leNat (bs.take 8)) = ⟨f, if B < D then 1 else 0, (len + 16383) / 16384, len, nz.length⟩ ∧
      bs.length = 64 + len ∧ (∀ j, 8 ≤ j → j < 64 → bs[j]? = some 0) ∧
      (B < D → bitOf (bs.getD (64 + i / 8) 0).toNat (i % 8) = decide (x % 2 ^ (elBits f - 1) ≠ 0) ∧
        bs.drop 2112 = packed ++ List.replicate (B - 2048 - packed.length) 0) ∧
      (D ≤ B → bs.drop 64 = bytesOfElems (elBits f) 0 (o.elems tl)))) ∧
  (∀ (g : Nat) (top : ℚ), (g, top) ∈ [(5, ((2 : ℚ) - 2 ^ (-7 : Int)) * 2 ^ 127), (6, 65504), (7, 448), (8, 57344), (9, 6)] →
    let fm : Fmt := (recFmt g).getD fF32
    (∀ l : List FVal, (∃ y ∈ l, FVal.special y = true) → chooseScale fm l = 0xFF) ∧
    ∀ l : List (Bool × Nat × Int),
      let us : List FVal := l.map fun y => .fin y.1 y.2.1 y.2.2
      let mag (y : Bool × Nat × Int) : ℚ := (y.2.1 : ℚ) * (2 : ℚ) ^ y.2.2
      ((∀ y ∈ l, y.2.1 = 0) → chooseScale fm us = 127) ∧
      ∀ t : Int, (∀ y ∈ l, mag y ≤ top * (2 : ℚ) ^ t) → (∃ y ∈ l, top * (2 : ℚ) ^ (t - 1) < mag y) →
        (chooseScale fm us : Int) = max 0 (min 254 (127 + t)))

/-! ## The haul core -/

/-- R204-R216, R220: a haul operation that passes the checks of R205 takes the last of the 16 places with what it captured, and
the hart goes on; one of no bytes completes at once, where the queue has a place; one that fails a check traps with nothing queued; any
that finds the queue full makes the hart wait. `hfence` waits until nothing the hart issued is outstanding. R206, R242, R269, R112: an agent that waits for a place
in its engine's queue issues its instruction again once there is one: a strand becomes READY, a hart runs. -/
def Obligations.HaulIssueCompletes : Prop :=
  (∀ (s : State) (u : Nat) (e a b : BitVec 5) (k : BitVec 6), s.turn = .tile u 8 →
    let r := s.recReg e
    let va := (s.rx a).toNat
    let op (kind : HaulKind) (dst src : Rec) (va n : Nat) : HaulOp := ⟨0, 0, kind, dst, src, va, 0, n, k.toNat, .queued, 0, none, []⟩
    let first (p : Nat → Prop) (j : Nat) : Prop := p j ∧ ∀ i, i < j → ¬p i
    let issues (i : Instr) (o : HaulOp) (src dst : Option Rec) (size : Nat) (stage : Bool) (ln : W) : Prop :=
      let odd (j : Nat) : Prop := 0 < size ∧ size * j < o.n ∧ ∃ x, src = some x ∧ (recAddr x (size * j) % size ≠ 0 ∨ o.n < size * j + size)
      let above (y : Option Rec) (j : Nat) : Prop := ∃ x, y = some x ∧ 0x1F0000 ≤ recAddr x j
      let out (j : Nat) : Prop := j < o.n ∧ (above src j ∨ above dst j)
      let even : Prop := (0 < size → o.va % size = 0) ∧ ∀ j, ¬odd j
      let inside : Prop := even ∧ ∀ j, ¬out j
      let full : Prop := stage = true ∧ (recCheck o.dst = true ∧ recExtent o.dst < o.n ∨ 0 < o.n ∧ 256 ≤ (s.tile u).pfNext.length)
      let far : Prop := (o.kind ≠ .copy ∧ 2 ^ 52 ≤ o.va + (o.n - 1)) ∨
        stage = true ∧ ∃ j, j < o.n ∧ (s.tile u).kept (recAddr o.dst j / 65536) = true
      (0 < size → o.va % size ≠ 0 → Traps i s 0x03 (BitVec.ofNat 64 o.va)) ∧
      (∀ j x, (0 < size → o.va % size = 0) → src = some x → first odd j → Traps i s 0x03 (BitVec.ofNat 64 (recAddr x (size * j)))) ∧
      (∀ j x, even → first out j → src = some x → 0x1F0000 ≤ recAddr x j → Traps i s 0x04 (BitVec.ofNat 64 (recAddr x j))) ∧
      (∀ j x, even → first out j → ¬above src j → dst = some x → Traps i s 0x04 (BitVec.ofNat 64 (recAddr x j))) ∧
      (inside → full → Traps i s 0x05 ln) ∧
      (inside → ¬full → far → Traps i s 0x07 (BitVec.ofNat 64 o.va)) ∧
      (inside → ¬full → ¬far →
        (o.n ≠ 0 → (s.tile u).haulQ.length < 16 → CompletesIn i s s.me.past (fun tl => tl.enterHaul o)) ∧
        (o.n = 0 → (s.tile u).haulQ.length < 16 → (s.tile u).sem o.sem < 65535 →
          CompletesIn i s s.me.past (fun tl => tl.setSem o.sem (tl.sem o.sem + 1))) ∧
        (16 ≤ (s.tile u).haulQ.length → Waits i s .queue))
    let reduces (i : Instr) (n size : Nat) : Prop := issues i (op (.hred n) 0 r va (recExtent r)) (some r) none size false 0
    let sa := s.recReg a
    issues (.stage e a b k) (op .stage r 0 va (s.rx b).toNat) none (some r) 0 true (s.rx b) ∧
    issues (.copy e a k) (op .copy r sa 0 (min (recExtent sa) (recExtent r))) (some sa) (some r) 0 false 0 ∧
    issues (.hld e a k) (op .hld r 0 va (recExtent r)) none (some r) 0 false 0 ∧
    issues (.hst e a k) (op .hst 0 r va (recExtent r)) (some r) none 0 false 0 ∧
    reduces (.hredAddS32 e a k) 0 4 ∧ reduces (.hredAddS64 e a k) 1 8 ∧ reduces (.hredMinS32 e a k) 2 4 ∧
    reduces (.hredMinS64 e a k) 3 8 ∧ reduces (.hredMaxS32 e a k) 4 4 ∧ reduces (.hredMaxS64 e a k) 5 8 ∧
    reduces (.hredAnd e a k) 6 8 ∧ reduces (.hredOr e a k) 7 8 ∧ reduces (.hredFaddF32 e a k) 8 4 ∧
    ((s.tile u).haulQ = [] → (s.tile u).haulStore = [] → Completes .hfence s s.me.past) ∧
    ((s.tile u).haulQ ≠ [] ∨ (s.tile u).haulStore ≠ [] → Waits .hfence s .drain)) ∧
  (∀ (s : State) (u : Nat) (a : Fin 10), (s.tile u).node = .run → (s.tile u).stopping = false →
    (s.agentOf (.tile u a)).st = .wait .queue →
    (a.val < 8 → (s.tile u).matQ.length < 16) → (a.val = 8 → (s.tile u).haulQ.length < 16) →
    (a.val = 9 → (s.tile u).shapeQ.length < 8) →
    ∃ t, exec (.queueFullResume u a.val) s = .next t ∧
      Only s t (.tile u a) { s.agentOf (.tile u a) with st := if a.val < 8 then .ready else .run, resuming := true, heldFrom := s.clk } id)

/-- R206-R208, R215, R216, R221, R222, R344, R374: how an operation of the queue runs: it starts once no earlier one is unstarted or in conflict;
a copy moves its bytes at once, a `csend` keeps its bytes for its send entry where the collective buffer has room for them, the others
move chunk by chunk: a load lays the bytes of HBM over its record, a store or a reduction holds deltas and changes no byte; a missing
page (0x06) or one with no frame (0x08) suspends it, a page it may not use stops it with cause 0x07; when all bytes have moved it
leaves the queue and adds 1 to its semaphore. Each 16-byte atom it reads stands as it is, or as it was before a store made after the issue,
and is one of these whole, whichever chunks read it. R223, R227: it never misses a write of an earlier operation of its hart, nor takes an
older atom than an earlier one took where it may take as new a one; it starts behind the hart's stores before it that touch its bytes, and a
store after a `copy` that wrote the store's atom performs after it. -/
def Obligations.HaulOperationsRun : Prop :=
  (∀ (tl : Tile) (op : HaulOp) (k w : Nat) (runs : List (Nat × Nat)),
    (op.seen = [] → tl.olds = [] → tl.held = [] → tl.readSeen op k runs = tl.readRuns runs) ∧
    (op.seen = [] → (tl.atomSeen op k w).2 = tl.tm.bytes (16 * w) 16 ∨
      ∃ q ∈ tl.olds, op.id < q.pos ∧ q.atom = w ∧ (∀ p, q.writer = some p → p.1 = 8 → op.id < p.2) ∧ (tl.atomSeen op k w).2 = q.bytes) ∧
    (op.seen = [] → (∃ v ∈ tl.versions ⟨8, op.id, false⟩ w, ∀ n ∈ tl.reads, n.permits ⟨8, op.id, false⟩ w v.1 = true) →
      ∀ n ∈ tl.reads, ∀ v, n.reader.agent = 8 → n.reader.stream = false → n.reader.pos ≤ op.id → n.version w = some v →
        v ≤ (tl.atomSeen op k w).1) ∧
    (∀ (tl' : Tile) (k' : Nat) (later : List (Nat × Nat)) (x y : Nat), x / 16 = w → y / 16 = w →
      (∃ p ∈ runs, p.1 ≤ x ∧ x < p.1 + p.2) → (∃ p ∈ later, p.1 ≤ y ∧ y < p.1 + p.2) →
      tl'.atomSeen (tl.afterRead op k runs later).2 k' w = tl.atomSeen op k w)) ∧
  ∀ (s : State) (u o : Nat) (op : HaulOp), (s.tile u).haulOn = true →
    let tl := s.tile u
    let others (t : State) : Prop := (∀ k, k ≠ u → t.tile k = s.tile k) ∧ ∀ m, t.module m = s.module m
    let va := op.va + op.cursor
    let len := op.chunkLen op.cursor
    let moves (out : Bool) (kind : Nat) : Prop := op.kind = .stage ∧ out = false ∧ kind = 1 ∨ op.kind = .hld ∧ out = false ∧ kind = 2 ∨
      op.kind = .hst ∧ out = true ∧ kind = 3 ∨ (∃ f, op.kind = .hred f) ∧ out = true ∧ kind = 4
    (opOf tl.haulQ o = some op → op.status = .queued →
      (∀ x ∈ tl.haulQ ++ tl.haulStore, x.id < o → x.status ≠ .queued ∧ x.conflicts op = false) →
      ((∃ h ∈ tl.held, h.agent = 8 ∧ h.pos ≤ o ∧ clearOf (op.reads ++ op.writes) (h.addr / 16) = false) →
        exec (.haulOpStart u o) s = .next s) ∧
      ((∀ h ∈ tl.held, h.agent = 8 → h.pos ≤ o → clearOf (op.reads ++ op.writes) (h.addr / 16) = true) →
      (op.kind ≠ .copy → op.kind ≠ .csend →
        ∃ t, exec (.haulOpStart u o) s = .next t ∧ t.tile u = tl.putOp { op with status := .running } ∧ others t) ∧
      (∀ tl', op.kind = .copy → tl.badRuns op.reads = none → runsMeet op.reads op.writes = false →
        ((tl.afterRead op (s.free + 1) op.reads []).1.putOp { op with status := .running, cursor := op.n }).haulFill op []
          (layRuns op.writes (tl.readSeen op (s.free + 1) op.reads)) = (tl', none) →
        ∃ t, exec (.haulOpStart u o) s = .next t ∧ others t ∧ (tl.held = [] → t.tile u = tl') ∧
          ∀ h, tl.held = [h] → h.agent = 8 → o < h.pos → h.addr % 16 + h.bytes.length ≤ 16 → tl'.hasRoom (h.addr / 64) = true →
            (∀ x ∈ tl'.haulQ ++ tl'.haulStore, x.id < h.pos → clearOf x.toWrite (h.addr / 16) = true) →
            (t.tile u).held = [] ∧ (t.tile u).tm.bytes h.addr h.bytes.length = h.bytes) ∧
      (∀ bs, op.kind = .csend → tl.badRuns op.reads = none → bs = tl.readSeen op s.free op.reads → keysRise s.tiles →
        let fits : Prop := s.bufferUse (dieOfTile u) + bs.length ≤ tl.cbEff.toNat * 2 ^ 20
        ∃ t, exec (.haulOpStart u o) s = .next t ∧ (t.tile u).haulQ = (tl.putOp { op with status := .running, cursor := op.n }).haulQ ∧
          (t.tile u).tm = tl.tm ∧ (t.tile u).col.length = tl.col.length ∧ (∀ (k : Nat) e, tl.col[k]? = some e →
            (e.send = true → e.op = o → fits → (t.tile u).col[k]? = some { e with data := some bs }) ∧
            (e.send = true → e.op = o → ¬fits → (t.tile u).col[k]? = some { e with status := .unfit }) ∧
            (e.send = false ∨ e.op ≠ o → (t.tile u).col[k]? = some e)) ∧ others t))) ∧
    (opOf tl.haulQ o = some op → op.status = .running → op.cursor < op.n →
      (∀ pa il s1 tl', op.kind = .stage ∨ op.kind = .hld → s.xlat u va false = (.ok pa il, s1) →
        s1.hbmBad (modOfTile u) pa len = none → badIn 8 (s1.module (modOfTile u)).badHbm pa len = [] →
        tl.held = [] → (s1.tile u).haulFill op (runsOf op.dst (op.cursor + len) (op.n - (op.cursor + len)))
          (layRuns (runsOf op.dst op.cursor len) (s.hbm (modOfTile u) pa len)) = (tl', none) →
        ∃ t, exec (.haulChunk u o) s = .next t ∧ (t.tile u).tm = tl'.tm ∧ (t.tile u).vs = tl'.vs ∧ (t.tile u).cur.fe = tl'.cur.fe ∧
          (t.tile u).haulQ = (tl'.putOp { op with cursor := op.cursor + len }).haulQ ∧ others t) ∧
      (∀ pa il s1 kind, moves true kind → s.xlat u va true = (.ok pa il, s1) → tl.badRuns (runsOf op.src op.cursor len) = none →
        let runs := runsOf op.src op.cursor len
        let later := runsOf op.src (op.cursor + len) (op.n - (op.cursor + len))
        ∃ t, exec (.haulChunk u o) s = .next t ∧ (t.tile u).deltas = tl.deltas ++ op.deltas va pa il (tl.readSeen op s1.free runs) ∧
          (t.tile u).haulQ = (tl.putOp { op with cursor := op.cursor + len, seen := (tl.afterRead op s1.free runs later).2.seen }).haulQ ∧
          (t.tile u).tm = tl.tm ∧ others t) ∧
      (∀ s1 out kind code, moves out kind →
        (s.xlat u va out = (.miss, s1) ∧ code = 0x06 ∨ s.xlat u va out = (.unmapped, s1) ∧ code = 0x08) →
        ∃ t, exec (.haulChunk u o) s = .next t ∧ (t.tile u).haulQ = (tl.putOp { op with status := .suspended }).haulQ ∧
          (t.tile u).tm = tl.tm ∧ (∃ f, (t.die (dieOfTile u)).mc.stops = (s.die (dieOfTile u)).mc.stops ++ [f] ∧
            f.cause = code ∧ f.agent = 8 ∧ f.kind = kind ∧ f.va = va ∧ f.cursor = op.cursor ∧ f.tile = u) ∧ others t) ∧
      (∀ s1 out kind, moves out kind → s.xlat u va out = (.denied, s1) → tl.launching = false → tl.held = [] →
        (s.agentOf (.tile u 8)).st = .run → (s.agentOf (.tile u 8)).deferred = none →
        ∃ t, exec (.haulChunk u o) s = .next t ∧ (t.tile u).haulQ = tl.haulQ.filter (fun x => decide (x.id ≠ o)) ∧
          (t.agentOf (.tile u 8)).deferred = some ⟨0x07, BitVec.ofNat 64 va⟩ ∧ (t.tile u).tm = tl.tm ∧ others t)) ∧
    (opOf tl.haulQ o = some op → op.status = .running → op.n ≤ op.cursor → tl.launchPf = [] → tl.held = [] → tl.sem op.sem < 65535 →
      (s.agentOf (.tile u 8)).st = .run → (s.agentOf (.tile u 8)).stalled = false →
      ∃ t, exec (.haulOpComplete u o) s = .next t ∧ (t.tile u).haulQ = tl.haulQ.filter (fun x => decide (x.id ≠ o)) ∧
        (t.tile u).sem op.sem = tl.sem op.sem + 1 ∧ (t.tile u).tm = tl.tm ∧ (∀ a, t.agentOf a = s.agentOf a) ∧ others t) ∧
    (opOf tl.haulStore o = some op → op.status = .replay → tl.haulQ.length < 16 → (∀ x ∈ tl.haulQ, x.status ≠ .storing) →
      ∃ t, exec (.haulOpReplay u o) s = .next t ∧
        (t.tile u).haulStore = tl.haulStore.filter (fun x => decide (x.id ≠ o)) ∧
        { op with status := .running } ∈ (t.tile u).haulQ ∧ (t.tile u).haulQ.length = tl.haulQ.length + 1 ∧ others t)

/-! ## Translation, faults, HBM -/

/-- R121, R131, R362, R363: `gld` makes its checks in order, finds its page in the L1, or in the LLT and copies it, and waits for the data;
a page it may not read raises cause 0x07; a page that is missing or has no frame parks the strand at its instruction, and a record
is to be posted; the data that returns is the committed bytes of HBM. -/
def Obligations.GldCompletes : Prop :=
  ∀ (s : State) (u : Nat) (me : Fin 10) (d a b : BitVec 5) (z : BitVec 3) (e : Tlbe), s.turn = .tile u me → me.val < 8 →
    z.toNat < 7 →
    let n := (loadType z.toNat).1
    let va := s.rx a + s.rx b
    let hit (f : Tlbe) : Bool := f.hits (s.tile u).space.toNat va.toNat
    let pa := e.pa + va.toNat % 2 ^ e.bits
    let on : WaitOn := .gld d z.toNat pa
    let parked (c : Nat) (t : State) : Prop :=
      t.agentOf s.turn = { s.me with st := .park, causeCode := BitVec.ofNat 8 c, epc := s.me.pc, faddr := va } ∧
        ∃ f, (t.die (dieOfTile u)).mc.stops = (s.die (dieOfTile u)).mc.stops ++ [f] ∧ f.cause = c ∧ f.agent = me.val ∧
          f.tile = u ∧ f.va = va.toNat ∧ f.opId = none
    (va.toNat % n ≠ 0 → Traps (.gld d a b z) s 0x03 va) ∧
    (va.toNat % n = 0 → 2 ^ 52 ≤ va.toNat → Traps (.gld d a b z) s 0x07 va) ∧
    (va.toNat % n = 0 → va.toNat < 2 ^ 52 →
      ((s.tile u).l1.find? hit = some e → e.r = true → e.pres = true → Waits (.gld d a b z) s on) ∧
      ((s.tile u).l1.find? hit = none → (∃ k, (s.die (dieOfTile u)).mc.llt.find? (fun q => hit q.2) = some (k, e)) →
        e.r = true → e.pres = true → WaitsIn (.gld d a b z) s on (fun tl => tl.fillL1 e)) ∧
      ((s.tile u).l1.find? hit = some e → e.r = false → Traps (.gld d a b z) s 0x07 va) ∧
      ((s.tile u).l1.find? hit = some e → e.r = true → e.pres = false → ∃ t, exec (.gld d a b z) s = .next t ∧ parked 0x08 t) ∧
      ((s.tile u).l1.find? hit = none → (s.die (dieOfTile u)).mc.llt.find? (fun q => hit q.2) = none →
        ∃ t, exec (.gld d a b z) s = .next t ∧ parked 0x06 t)) ∧
    (∀ p, (s.agentOf (.tile u me)).st = .wait (.gld d z.toNat p) → (s.tile u).node = .run → (s.tile u).stopping = false →
      s.hbmBad (modOfTile u) p n = none → (∀ (c : Fin 2) l, (s.agentOf (.svc (dieOfTile u) c)).st ≠ .wait (.tlbinv l)) →
      let v := s.hbmNat (modOfTile u) p n
      let x : W := if (loadType z.toNat).2 then BitVec.ofInt 64 (sextNat (8 * n) v) else BitVec.ofNat 64 v
      ∃ t, exec (.gldDataReturn u me.val) s = .next t ∧
        Only s t (.tile u me) { ((s.agentOf (.tile u me)).wx d x).past with st := .ready, heldFrom := s.clk } id)

/-- R365-R370: `tlbw` of an entry that passes the checks of R369 completes, on every LLT: it puts the entry last, in the place of every
entry it overlaps and, where 3,072 others are held, of the oldest of these (R365), and takes the copies of the entries that went out of
the tiles' L1; that it does not wait for a `gld` in flight is the model's choice (DEDUCED, notes/assumptions/14.md). An entry that fails
a check raises cause 0x07. `tlbinv` and `tlbinv.all` take entries out and complete where no `gld` waits on them; where some do, the
core waits for these. -/
def Obligations.TlbInstructionsComplete : Prop :=
  ∀ (s : State) (d : Nat) (c : Fin 2) (a b : BitVec 5), s.turn = .svc d c →
    let e : Tlbe := ⟨s.rx a, s.rx b⟩
    let llt := (s.die d).mc.llt
    let va := (s.rx a).toNat / 2 ^ 16 % 2 ^ 36 * 2 ^ 16
    let hit (f : Tlbe) : Bool := f.hits ((s.rx a).toNat / 2 ^ 52) va
    let w (lo n : Nat) : Nat := (s.rx b).toNat / 2 ^ lo % 2 ^ n
    let size := 2 ^ e.bits
    let ok : Prop := w 0 2 = 3 ∧ w 5 2 ≠ 3 ∧ (s.rx a).toNat % 2 ^ 16 = 0 ∧ w 10 6 = 0 ∧ w 60 4 = 0 ∧ e.va % size = 0 ∧ e.pa % size = 0 ∧
      e.pa + size ≤ 0xC000000000 ∧ (e.pa + size - 1) / 2 ^ 34 < 48 - (s.die d).mc.rsvN.toNat ∧
      w 7 3 = (s.die d).mc.scheme (e.pa / 2 ^ 34) ∧ ¬(5 ≤ w 7 3 ∧ w 5 2 = 2)
    let kept := llt.filter fun q => !q.2.overlaps e
    let oldest (f : Tlbe) : Bool := decide (3072 ≤ kept.length) && kept.head?.any fun q => decide (q.2 = f)
    (ok →
      ∃ t k, exec (.tlbw a b) s = .next t ∧ t.agentOf s.turn = s.me.past ∧
        (t.die d).mc.llt = (kept.filter fun q => !oldest q.2) ++ [(k, e)] ∧
        (∀ u, dieOfTile u = d → (t.tile u).l1 = (s.tile u).l1.filter fun f => !f.overlaps e && !oldest f) ∧
        (∀ u, dieOfTile u ≠ d → t.tile u = s.tile u) ∧ ∀ x y, t.byteAt x y = s.byteAt x y) ∧
    (¬ok → Traps (.tlbw a b) s 0x07 (s.rx b)) ∧
    (s.gldsIn d ((llt.map fun q => q.2).filter hit) = [] →
      ∃ t, exec (.tlbinv a) s = .next t ∧ t.agentOf s.turn = s.me.past ∧
        (t.die d).mc.llt = (llt.filter fun q => !hit q.2) ∧
        ∀ u, dieOfTile u = d → (t.tile u).l1 = (s.tile u).l1.filter fun f => !hit f) ∧
    (s.gldsIn d (llt.map fun q => q.2) = [] →
      ∃ t, exec .tlbinvAll s = .next t ∧ t.agentOf s.turn = s.me.past ∧ (t.die d).mc.llt = [] ∧
        ∀ u, dieOfTile u = d → (t.tile u).l1 = []) ∧
    (s.gldsIn d ((llt.map fun q => q.2).filter hit) ≠ [] →
      ∃ t, exec (.tlbinv a) s = .next t ∧ (t.die d).mc.llt = (llt.filter fun q => !hit q.2) ∧
        t.agentOf s.turn = { s.me with st := .wait (.tlbinv (s.gldsIn d ((llt.map fun q => q.2).filter hit))) }) ∧
    (s.gldsIn d (llt.map fun q => q.2) ≠ [] →
      ∃ t, exec .tlbinvAll s = .next t ∧ (t.die d).mc.llt = [] ∧
        t.agentOf s.turn = { s.me with st := .wait (.tlbinv (s.gldsIn d (llt.map fun q => q.2))) })

/-- R371-R374, R376-R378: the next stop of a die is posted in the lowest free slot, 32 bytes with the valid bit, in the queue of its service
core; the haul operation that stopped is bound to the slot, and in the recovery mode leaves the queue for the store. `fqpop` takes the
oldest record of its core's queue, or all ones. `fqres` raises cause 0x07 for a word with an address outside the pool or not of a slot,
`ACT` 3, a reserved bit, a record of the other core's queue, `ACT` 1 on queue 1, or a cause it may not deliver; a record that is
not valid has no effect; of a strand's record it frees the slot and lets the strand
go on (`ACT` 0), hands the record to the other core (1), or makes the strand go on with a cause (2); a haul operation restarts (0) or is
gone, with the cause deferred to its hart (2), or recorded where the region still launches. That a resume through a slot used again that would
reach another region has no effect is the model's reading of R1 (DEDUCED, notes/assumptions/15.md). R1, R373: in a pool that is no reserved
region's a record is lost, and no byte outside the reserved regions changes (the model's choice, DESIGN CHOICE, notes/assumptions/56.md). -/
def Obligations.FaultQueuesComplete : Prop :=
  ∀ (s : State) (d k : Nat) (c : Fin 2) (f : FaultStop) (x a : BitVec 5),
    let mc := (s.die d).mc
    let posts (t : State) : Prop :=
      (mc.poolOk = true → (t.module (modOfDie d)).hbm = (s.module (modOfDie d)).hbm.write (mc.slotPa k) (f.bytes mc.fmodeRec) ∧
        (t.die d).mc.lostSlots = mc.lostSlots) ∧
      (mc.poolOk = false → (t.die d).mc.recordLost k = true ∧ ∀ y, (mc.fqBase.toNat + 32 * k + 2048 > 0xC000000000 ∨
        (mc.fqBase.toNat + 32 * k) / 2 ^ 34 + mc.rsvN.toNat < 48 ∨ y < mc.fqBase.toNat + 32 * k ∨ mc.fqBase.toNat + 32 * k + 32 ≤ y) →
          (t.module (modOfDie d)).hbm.get y = (s.module (modOfDie d)).hbm.get y) ∧
      (t.die d).mc.stops = mc.stops.erase f ∧ k ∈ (t.die d).mc.busySlots ∧
      (f.cause = 0x06 → (t.die d).mc.fq0 = mc.fq0 ++ [k]) ∧ (f.cause ≠ 0x06 → (t.die d).mc.fq1 = mc.fq1 ++ [k]) ∧
      ∀ u, f.opId = none ∨ u ≠ f.tile → t.tile u = s.tile u
    (firstStop (mc.stops.filter fun g => decide (g.cycle < s.clk / 2)) = some f → mc.freeSlot = some k →
      ∃ t, exec (.faultRecordPost d) s = .next t ∧ posts t ∧
        ∀ id l o r, f.opId = some id → (s.tile f.tile).haulQ = l ++ o :: r → o.id = id → (∀ q ∈ l ++ r, q.id ≠ id ∧ q.status ≠ .storing) →
          o.status ≠ .storing → let w := t.tile f.tile
          (mc.fmodeRec = false → w.haulQ = l ++ { o with fslot := some k } :: r ∧ w.haulStore = (s.tile f.tile).haulStore) ∧
          (mc.fmodeRec = true → (s.tile f.tile).haulStore.length < 16 → w.haulQ = l ++ r ∧
            w.haulStore = (s.tile f.tile).haulStore ++ [{ o with fslot := some k, status := .suspended }]) ∧
          (mc.fmodeRec = true → 16 ≤ (s.tile f.tile).haulStore.length → w.haulQ = l ++ { o with fslot := some k, status := .storing } :: r ∧
            w.haulStore = (s.tile f.tile).haulStore)) ∧
    (s.turn = .svc d c →
      let q := if c = 0 then mc.fq0 else mc.fq1
      let regionAt (j : Nat) : Nat := (s.tile (kvGet 0 mc.slotTiles j)).region.toNat
      (q = [] → Completes (.fqpop x) s (s.me.wx x (BitVec.allOnes 64)).past) ∧
      (∀ rest, q = k :: rest → ∃ t, exec (.fqpop x) s = .next t ∧ t.agentOf s.turn = (s.me.wx x (BitVec.ofNat 64 (mc.slotPa k))).past ∧
        (if c = 0 then (t.die d).mc.fq0 else (t.die d).mc.fq1) = rest ∧ kvGet (regionAt k) (t.die d).mc.popped (2 * k + c.val) = regionAt k ∧
        ∀ u, t.tile u = s.tile u) ∧
      (let v := (s.rx a).toNat
       let pa := v % 2 ^ 40
       let act := v / 2 ^ 48 % 4
       let code := v / 2 ^ 40 % 256
       let j := (pa - mc.fqBase.toNat) / 32
       let r := s.hbmNat (modOfDie d) pa 8
       let queue := r / 2 ^ 61 % 2
       let u := r / 2 ^ 20 % 2 ^ 28
       let g := s.agentOf (.tile u (Fin.ofNat 10 (r / 2 ^ 8 % 16)))
       let va : W := BitVec.ofNat 64 (s.hbmNat (modOfDie d) (pa + 8) 8 % 2 ^ 52)
       let cursor := s.hbmNat (modOfDie d) (pa + 16) 8 % 2 ^ 32
       let may : Prop := code ∈ [0x01, 0x02, 0x03, 0x04, 0x05, 0x07, 0x09, 0x0A, 0x0B, 0x0C, 0x0D, 0x0E, 0x0F, 0x10, 0x11, 0x12, 0x17, 0x18, 0x19]
       let whole : Prop := pa % 32 = 0 ∧ mc.fqBase.toNat ≤ pa ∧ pa < mc.fqBase.toNat + 32 * mc.poolSize ∧ act ≠ 3 ∧ v < 2 ^ 50
       let right : Prop := queue = c.val ∧ ¬(act = 1 ∧ queue = 1) ∧ (act = 2 → may)
       let again : Prop := j ∈ q ∧ kvGet (regionAt j) mc.popped (2 * j + c.val) ≠ regionAt j
       (¬whole → Traps (.fqres a) s 0x07 (s.rx a)) ∧
       (whole → mc.fqBase.toNat % 4096 = 0 → s.hbmBad (modOfDie d) pa 24 = none → mc.recordLost j = false →
        (¬right → Traps (.fqres a) s 0x07 (s.rx a)) ∧
        (right → (r / 2 ^ 63 % 2 = 0 ∨ again) →
          ∃ t, exec (.fqres a) s = .next t ∧ t.agentOf s.turn = s.me.past ∧ (∀ w, w ≠ s.turn → t.agentOf w = s.agentOf w) ∧
            (∀ u, t.tile u = s.tile u) ∧ (∀ n, t.module n = s.module n) ∧ ∀ e, (t.die e).mc = (s.die e).mc) ∧
        (right → r / 2 ^ 63 % 2 = 1 → ¬again →
          let freed (t : State) : Prop := t.agentOf s.turn = s.me.past ∧ (t.die d).mc.busySlots = natErase mc.busySlots j ∧
            (t.die d).mc.fq0 = natErase mc.fq0 j ∧ (t.die d).mc.fq1 = natErase mc.fq1 j ∧ t.hbmNat (modOfDie d) pa 8 = r - 2 ^ 63 ∧
            ∀ w, w ≠ u → t.tile w = s.tile w
          let passed (t : State) : Prop := t.agentOf s.turn = s.me.past ∧ (t.die d).mc.fq1 = mc.fq1 ++ [j] ∧
            (t.die d).mc.fq0 = natErase mc.fq0 j ∧ t.hbmNat (modOfDie d) pa 8 = r - r % 256 + 0x08 + 2 ^ 61 ∧ ∀ w, w ≠ u → t.tile w = s.tile w
          (r / 2 ^ 12 % 8 = 0 → r / 2 ^ 8 % 16 < 8 →
            (act = 0 → g.st = .park → ∃ t, exec (.fqres a) s = .next t ∧ freed t ∧
              t.agentOf (.tile u (Fin.ofNat 10 (r / 2 ^ 8 % 16))) = { g with st := .ready }) ∧
            (act = 1 → ∃ t, exec (.fqres a) s = .next t ∧ passed t ∧
              t.agentOf (.tile u (Fin.ofNat 10 (r / 2 ^ 8 % 16))) = { g with causeCode := 0x08 }) ∧
            (act = 2 → g.st = .park → g.deferred = none → ∃ t, exec (.fqres a) s = .next t ∧ freed t ∧
              t.agentOf (.tile u (Fin.ofNat 10 (r / 2 ^ 8 % 16))) = { g with st := .ready, deferred := some ⟨code, va⟩ })) ∧
          (r / 2 ^ 12 % 8 ≠ 0 →
            (act = 0 → ∃ t, exec (.fqres a) s = .next t ∧ freed t ∧
              (t.tile u).haulQ = ((s.tile u).haulQ.map fun o => if o.fslot = some j then
                { o with status := .running, cursor := if r / 2 ^ 15 % 2 = 1 then o.chunkOf cursor else o.cursor, fslot := none } else o) ∧
              (t.tile u).haulStore = (s.tile u).haulStore.map fun o =>
                if o.fslot = some j then { o with status := .replay, cursor := o.chunkOf cursor, fslot := none } else o) ∧
            (act = 1 → ∃ t, exec (.fqres a) s = .next t ∧ passed t ∧ t.tile u = s.tile u) ∧
            (act = 2 →
              ∃ t, exec (.fqres a) s = .next t ∧ freed t ∧ (∀ o ∈ (t.tile u).haulQ ++ (t.tile u).haulStore, o.fslot ≠ some j) ∧
                ((∀ o ∈ (s.tile u).haulQ, o.status ≠ .storing) →
                  (t.tile u).haulQ = (s.tile u).haulQ.filter (fun o => decide (o.fslot ≠ some j)) ∧
                  (t.tile u).haulStore = (s.tile u).haulStore.filter (fun o => decide (o.fslot ≠ some j))) ∧
                ((s.tile u).launching = true → ⟨code, none⟩ ∈ (t.tile u).recorded) ∧
                ((s.tile u).launching = false → (s.agentOf (.tile u 8)).st = .run → (s.agentOf (.tile u 8)).deferred = none →
                  (t.agentOf (.tile u 8)).deferred = some ⟨code, va⟩)))))))

/-- R380, R373, R384-R387: physical access reads and writes 8 bytes of HBM at `PHYSA` and adds 8 to it: a `csrr` of `PHYSD` (0x354)
returns the little-endian number of the 8 bytes at `PHYSA`, and an unaligned one raises cause 0x03; a record is taken from the error
log by its read, and a `csrr` of `HBMERR` (0x35C) returns the oldest, or 0; the base of the fault pool, a migration and a repair start
and end as their registers say; a repair that latches the first remap of its module sends EVENT 8 (R419). A base whose bits [11:0] are not 0, or a
pool outside the reserved regions, which R387 and R373 forbid, is a free value of the model (DEDUCED from R1, notes/assumptions/15.md). Two
clauses more are the model's choice: a `csrr` of `PHYSD` gives a free value where a fault record of a pool that breaks R373 lies there
(`lostAt`, notes/assumptions/56.md), and a migration of a chunk number past 3,071 is refused (`moveOk`, notes/assumptions/17.md). -/
def Obligations.HbmFirmwareComplete : Prop :=
  ∀ (s : State) (d : Nat) (v : W) (c : Fin 2) (x : BitVec 5),
    let mc := (s.die d).mc
    let m := modOfDie d
    let pa := mc.physa.toNat
    let same (t : State) : Prop := (∀ u, t.tile u = s.tile u) ∧ ∀ e, e ≠ d → t.die e = s.die e
    (pa % 8 = 0 → pa < 0xC000000000 → s.hbmBad m pa 8 = none → mc.lostAt pa = false →
      ∃ t, exec (.physdRead d) s = .next t ∧ (t.die d).mc.physa = mc.physa + 8 ∧ (t.die d).mc.physUE = false ∧ same t ∧
        ∀ n, t.module n = s.module n) ∧
    (pa % 8 = 0 → pa < 0xC000000000 →
      ∃ t, exec (.physdWrite d v) s = .next t ∧ (t.die d).mc.physa = mc.physa + 8 ∧ t.hbmNat m pa 8 = v.toNat ∧ same t ∧
        (∀ x, x < pa ∨ pa + 8 ≤ x → (t.module m).hbm.get x = (s.module m).hbm.get x)) ∧
    (s.turn = .svc d c →
      (pa % 8 = 0 → mc.lostAt pa = true → ∃ t, exec (.csrr x 0x354) s = .next t ∧
        t.agentOf s.turn = (s.me.wx x (Config.freeBits 64 s.free)).past ∧ (t.die d).mc.physa = mc.physa + 8 ∧ same t) ∧
      (pa % 8 = 0 → pa < 0xC000000000 → s.hbmBad m pa 8 = none → mc.lostAt pa = false →
        ∃ t, exec (.csrr x 0x354) s = .next t ∧ t.agentOf s.turn = (s.me.wx x (BitVec.ofNat 64 (s.hbmNat m pa 8))).past ∧
          (t.die d).mc.physa = mc.physa + 8 ∧ (t.die d).mc.physUE = false ∧ same t) ∧
      (pa % 8 ≠ 0 → Traps (.csrr x 0x354) s 0x03 (mc.physa.setWidth 64) ∧ Traps (.csrw x 0x354) s 0x03 (mc.physa.setWidth 64)) ∧
      (∀ r rest, mc.hbmerr = r :: rest → ∃ t, exec (.csrr x 0x35C) s = .next t ∧ t.agentOf s.turn = (s.me.wx x r).past ∧
        (t.die d).mc.hbmerr = rest ∧ same t) ∧
      (mc.hbmerr = [] → Completes (.csrr x 0x35C) s (s.me.wx x 0).past)) ∧
    (mc.busySlots = [] → ∃ t, exec (.fqbaseWrite d v) s = .next t ∧
      (t.die d).mc.fqBase = (if v.toNat % 2 ^ 12 = 0 ∧ v.toNat % 2 ^ 40 + 2048 * 2 ^ (v.toNat / 2 ^ 40 % 16) ≤ 0xC000000000 ∧
        48 - mc.rsvN.toNat ≤ v.toNat % 2 ^ 40 / 2 ^ 34 then v.setWidth 40 else Config.freeBits 40 s.free) ∧
      (t.die d).mc.fqSz.toNat = v.toNat / 2 ^ 40 % 16 ∧ same t) ∧
    (mc.busySlots ≠ [] → exec (.fqbaseWrite d v) s = .next s) ∧
    (mc.moveOk (v.toNat % 2 ^ 12) (v.toNat / 2 ^ 32 % 2 ^ 8) (v.toNat / 2 ^ 20 % 2 ^ 12) = false →
      ∃ t, exec (.migrationStart d v) s = .next t ∧ (t.die d).mc.migBusy = mc.migBusy ∧ (t.die d).mc.migRefused = true ∧
        (t.die d).mc.migTable = mc.migTable ∧ same t) ∧
    (mc.moveOk (v.toNat % 2 ^ 12) (v.toNat / 2 ^ 32 % 2 ^ 8) (v.toNat / 2 ^ 20 % 2 ^ 12) = true →
      ∃ t, exec (.migrationStart d v) s = .next t ∧ (t.die d).mc.migBusy = true ∧ (t.die d).mc.migRefused = false ∧
        (t.die d).mc.migCtl.toNat = v.toNat % 2 ^ 40 ∧ (t.die d).mc.migMove.toNat = v.toNat % 2 ^ 40 ∧ same t) ∧
    (mc.migBusy = true → mc.migMove.toNat % 2 ^ 20 ≠ mc.migMove.toNat / 2 ^ 20 →
      ∃ t, exec (.migrationDone d) s = .next t ∧ (t.die d).mc.migBusy = false ∧
        (mc.migMove.toNat / 2 ^ 12 % 2 ^ 8, mc.migMove.toNat % 2 ^ 12, mc.migMove.toNat / 2 ^ 32 % 2 ^ 8, mc.migMove.toNat / 2 ^ 20 % 2 ^ 12) ∈
          (t.die d).mc.migTable ∧ same t) ∧
    (mc.pprBusy = false → ∃ t, exec (.pprStart d v) s = .next t ∧ (t.die d).mc.pprBusy = true ∧
      (t.die d).mc.pprCtl.toNat = v.toNat % 2 ^ 30 ∧ same t) ∧
    (mc.pprBusy = true → (mc.pprRemaps.all fun r => r.1 ≠ mc.pprCtl.toNat % 2 ^ 8 ∨ r.2.1 ≠ mc.pprCtl.toNat / 2 ^ 8 % 2 ^ 6) = true →
      ∃ t, exec (.pprDone d) s = .next t ∧ (t.die d).mc.pprBusy = false ∧ (t.die d).mc.pprFail = false ∧
        (t.die d).mc.pprRemaps = mc.pprRemaps ++
          [(mc.pprCtl.toNat % 2 ^ 8, mc.pprCtl.toNat / 2 ^ 8 % 2 ^ 6, mc.pprCtl.toNat / 2 ^ 14 % 2 ^ 16)] ∧
        (∀ u, t.tile u = s.tile u) ∧ (∀ e, e ≠ d → { t.die e with hp := (s.die e).hp } = s.die e) ∧
        (d, mc.pprCtl.toNat % 2 ^ 8, mc.pprCtl.toNat / 2 ^ 8 % 2 ^ 6, mc.pprCtl.toNat / 2 ^ 14 % 2 ^ 16) ∉ (t.module m).unrepaired ∧
        ((s.module m).replaceWas = false → (s.module m).alive = true → ∃ n, Output.event m 8 0 0 0 0 n ∈ t.outs)) ∧
    (mc.pprBusy = true → (∃ r ∈ mc.pprRemaps, r.1 = mc.pprCtl.toNat % 2 ^ 8 ∧ r.2.1 = mc.pprCtl.toNat / 2 ^ 8 % 2 ^ 6) →
      ∃ t, exec (.pprDone d) s = .next t ∧ (t.die d).mc.pprBusy = false ∧ (t.die d).mc.pprFail = true ∧
        (t.die d).mc.pprRemaps = mc.pprRemaps ∧ (t.module m).unrepaired = (s.module m).unrepaired) ∧
    (∀ x rest, mc.hbmerr = x :: rest → ∃ t, exec (.hbmerrRead d) s = .next t ∧ (t.die d).mc.hbmerr = rest ∧ same t)

/-! ## Exchange and messages -/

/-- R289-R291: `xsend` and `xrecv` put their entry at the end of the schedule where every check passes; an entry of no bytes passes the
checks and adds nothing. A data byte outside tile memory raises cause 0x04 with its address, a cycle past the last or a full schedule
0x05, a bit that must be 0 or a peer that is no tile of the region and module 0x07, two entries that share a cycle of one port 0x0C. -/
def Obligations.ExchangeScheduleCompletes : Prop :=
  ∀ (s : State) (u : Nat) (e a b : BitVec 5), s.turn = .tile u 8 →
    let tl := s.tile u
    let v := (s.rx a).toNat
    let c := (s.rx b).toNat
    let r := s.recReg e
    let n := recExtent r
    let ra := decide (v / 2 ^ 63 % 2 = 1)
    let send : XEntry := ⟨true, v % 2 ^ 28, ra, v / 2 ^ 32 % 2 ^ 21, r, c, n, false, [], false⟩
    let recv : XEntry := ⟨false, v % 2 ^ 28, true, 0, r, c, n, false, [], false⟩
    let both (k : Nat) (x : W) : Prop := Traps (.xsend e a b) s k x ∧ Traps (.xrecv e a b) s k x
    let late : Prop := 2 ^ 20 < c + (n + 63) / 64 ∨ 1024 ≤ tl.xsched.length
    let peer : Prop := s.sameRegion u (v % 2 ^ 28) = true ∧ modOfTile (v % 2 ^ 28) = modOfTile u
    (∀ x, firstOut (runsOf r 0 n) = some x → both 0x04 (BitVec.ofNat 64 x)) ∧
    (firstOut (runsOf r 0 n) = none → late → both 0x05 (s.rx b)) ∧
    (firstOut (runsOf r 0 n) = none → ¬late →
      (¬peer → both 0x07 (s.rx a)) ∧ (2 ^ 28 ≤ v → Traps (.xrecv e a b) s 0x07 (s.rx a)) ∧
      (v / 2 ^ 28 % 2 ^ 4 ≠ 0 ∨ v / 2 ^ 53 % 2 ^ 10 ≠ 0 ∨ ra = true ∧ v / 2 ^ 32 % 2 ^ 21 ≠ 0 → Traps (.xsend e a b) s 0x07 (s.rx a))) ∧
    (firstOut (runsOf r 0 n) = none → c + (n + 63) / 64 ≤ 2 ^ 20 → tl.xsched.length < 1024 →
    s.sameRegion u (v % 2 ^ 28) = true → modOfTile (v % 2 ^ 28) = modOfTile u →
    (v / 2 ^ 28 % 2 ^ 4 = 0 → v / 2 ^ 53 % 2 ^ 10 = 0 → (ra = true → v / 2 ^ 32 % 2 ^ 21 = 0) →
      ((∀ f ∈ tl.xsched, send.collides f u = false) → 1 ≤ n →
        CompletesIn (.xsend e a b) s s.me.past (fun tl => { tl with xsched := tl.xsched ++ [send] })) ∧
      (n = 0 → Completes (.xsend e a b) s s.me.past) ∧
      ((∃ f ∈ tl.xsched, send.collides f u = true) → Traps (.xsend e a b) s 0x0C (s.rx b))) ∧
    (v < 2 ^ 28 →
      ((∀ f ∈ tl.xsched, recv.collides f u = false) → 1 ≤ n →
        CompletesIn (.xrecv e a b) s s.me.past (fun tl => { tl with xsched := tl.xsched ++ [recv] })) ∧
      (n = 0 → Completes (.xrecv e a b) s s.me.past) ∧
      ((∃ f ∈ tl.xsched, recv.collides f u = true) → Traps (.xrecv e a b) s 0x0C (s.rx b))))

/-- R297-R301: `send` and `rspawn` put 64 bytes into the outbox, and `send` tells of a full one in its predicate or by cause 0x09; `recv`
stores the message at the head of its mailbox, writes its source, pops it; `recv.any` takes the highest priority that holds one; an
empty mailbox makes the blocking form wait and the status form answer 0. The checks come in the order of the pseudocode: the address of
the message (0x03, 0x04), the child's entry of `rspawn` (0x03, 0x04), the destination (0x07), a full outbox (0x09); the store of `recv` in
a line the version store has no room for raises cause 0x0A. -/
def Obligations.MessagesComplete : Prop :=
  ∀ (s : State) (u : Nat) (me : Fin 10) (p : BitVec 3) (d a b : BitVec 5) (n : BitVec 2) (z : BitVec 1), s.turn = .tile u me →
    me.val < 8 →
    let tl := s.tile u
    let dst := s.rx a
    let B := s.rx b
    let bytes := (List.range 64).map fun j => s.byteAt s.turn (B.toNat + j)
    let put (i : Instr) (o : OutEntry) : Prop := CompletesIn i s (s.me.wp p true).past
      (fun tl => let x := s.noted [(B.toNat, 64)] tl
        { x with cur := { tl.cur with outbox := tl.cur.outbox ++ [o] } })
    let A := s.rx a
    let sent : Prop := dst.toNat < 2 ^ 28 ∧ s.sameRegion u dst.toNat = true
    let entry := s.numAt s.turn B.toNat 8 % 2 ^ 21
    let q := n.toFin
    (B.toNat % 64 ≠ 0 → Traps (.send p a b n z) s 0x03 B ∧ Traps (.rspawn p a b) s 0x03 B) ∧
    (B.toNat % 64 = 0 → 0x1F0000 < B.toNat + 64 → Traps (.send p a b n z) s 0x04 B ∧ Traps (.rspawn p a b) s 0x04 B) ∧
    (s.canLoad B 64 → (¬sent → Traps (.send p a b n z) s 0x07 dst) ∧
      (entry % 4 ≠ 0 → Traps (.rspawn p a b) s 0x03 (BitVec.ofNat 64 entry)) ∧
      (entry % 4 = 0 → 0x1F0000 ≤ entry → Traps (.rspawn p a b) s 0x04 (BitVec.ofNat 64 entry)) ∧
      (entry % 4 = 0 → entry < 0x1F0000 → (¬sent → Traps (.rspawn p a b) s 0x07 dst) ∧
        (sent → 256 ≤ tl.cur.outbox.length → Traps (.rspawn p a b) s 0x09 dst))) ∧
    (A.toNat % 64 ≠ 0 → Traps (.recv d a n z p) s 0x03 A ∧ Traps (.recvAny d a z p) s 0x03 A) ∧
    (A.toNat % 64 = 0 → 0x1F0000 < A.toNat + 64 → Traps (.recv d a n z p) s 0x04 A ∧ Traps (.recvAny d a z p) s 0x04 A) ∧
    (A.toNat % 64 = 0 → A.toNat + 64 ≤ 0x1F0000 → s.myEntry MatEntry.isRd = none → s.unread A.toNat 64 = none →
      s.behindOwn [(A.toNat, 64)] = false → tl.hasRoom (A.toNat / 64) = false → tl.cur.mbCount[q] ≠ 0 → (q.val, (64 * q.val + (tl.cur.mbHead[q]).toNat) % 64) ∉ tl.badMb →
      Traps (.recv d a n z p) s 0x0A A ∧ ((∀ k : Fin 4, k < q → tl.cur.mbCount[k] = 0) → Traps (.recvAny d a z p) s 0x0A A)) ∧
    (s.mustStall A 64 → tl.cur.mbCount[q] ≠ 0 → (q.val, (64 * q.val + (tl.cur.mbHead[q]).toNat) % 64) ∉ tl.badMb →
      Stalls (.recv d a n z p) s ∧ ((∀ k : Fin 4, k < q → tl.cur.mbCount[k] = 0) → Stalls (.recvAny d a z p) s)) ∧
    (s.canLoad (s.rx b) 64 → dst.toNat < 2 ^ 28 → s.sameRegion u dst.toNat = true →
      (tl.cur.outbox.length < 256 → put (.send p a b n z) ⟨false, dst.toNat, n.toNat, bytes⟩) ∧
      (256 ≤ tl.cur.outbox.length → z = 0 → Completes (.send p a b n z) s (s.me.wp p false).past) ∧
      (256 ≤ tl.cur.outbox.length → z = 1 → Traps (.send p a b n z) s 0x09 dst) ∧
      (tl.cur.outbox.length < 256 → (let e := leNat (bytes.take 8) % 2 ^ 21
        e % 4 = 0 ∧ e < 0x1F0000) → put (.rspawn p a b) ⟨true, dst.toNat, 0, bytes⟩)) ∧
    (s.canStore (s.rx a) 64 →
      let got (i : Instr) (q : Fin 4) : Prop :=
        let slot := 64 * q.val + (tl.cur.mbHead[q]).toNat
        ∀ src, tl.mbSrc.find? (fun x => decide (x.1 = slot)) = some (slot, src) → (q.val, slot % 64) ∉ tl.badMb →
          ∃ t, exec i s = .next t ∧
            t.agentOf s.turn = ((if z = 1 then (s.me.wx d (BitVec.ofNat 64 src)).wp p true else s.me.wx d (BitVec.ofNat 64 src))).past ∧
            (∀ j, j < 64 → t.byteAt s.turn ((s.rx a).toNat + j) = tl.mbx.get (64 * slot + j)) ∧
            (∀ x, x < (s.rx a).toNat ∨ (s.rx a).toNat + 64 ≤ x → t.byteAt s.turn x = s.byteAt s.turn x) ∧
            (t.tile u).cur.mbHead[q] = tl.cur.mbHead[q] + 1 ∧ (t.tile u).cur.mbCount[q] = tl.cur.mbCount[q] - 1 ∧
            (∀ k, k ≠ q → (t.tile u).cur.mbCount[k] = tl.cur.mbCount[k]) ∧ ∀ w, w ≠ s.turn → t.agentOf w = s.agentOf w
      (tl.cur.mbCount[n.toFin] ≠ 0 → got (.recv d a n z p) n.toFin) ∧
      (∀ q : Fin 4, tl.cur.mbCount[q] ≠ 0 → (∀ k : Fin 4, k < q → tl.cur.mbCount[k] = 0) → got (.recvAny d a z p) q) ∧
      (tl.cur.mbCount[n.toFin] = 0 → z = 0 → Waits (.recv d a n z p) s .recv) ∧
      (tl.cur.mbCount[n.toFin] = 0 → z = 1 → Completes (.recv d a n z p) s (s.me.wp p false).past) ∧
      ((∀ k : Fin 4, tl.cur.mbCount[k] = 0) → z = 0 → Waits (.recvAny d a z p) s .recv) ∧
      ((∀ k : Fin 4, tl.cur.mbCount[k] = 0) → z = 1 → Completes (.recvAny d a z p) s (s.me.wp p false).past))

/-- R98, R99, R169, R175, R176, R285-R295: the steps of the exchange phase: the start packet latches the windows and tells the instant, at
which the phase starts; the flit of a cycle leaves with its bytes and arrives later by the latency of its path; a flit that comes
alone lands where a window of its tile admits the whole transfer, and is refused with cause 0x0B at its sender where none does; a
flit that is missed, or that its receiver addresses and no entry of it matches, gives cause 0x0C, one that matches lands in the entry's record;
a flit or a message whose path has a failed link gives cause 0x14 (R357); and the exchange of a tile ends once its entries are done: a send once its last flit left two
path latencies ago, a receive once its last port cycle has come and every flit landed or a cause closed it. R302, R437: then each
outbox entry is offered once; one to another module whose link is not up gives cause 0x14: that the link asked is that of the sender's
own die is the model's reading (DEDUCED, notes/assumptions/21.md). -/
def Obligations.ExchangePhaseRuns : Prop :=
  ∀ (s : State) (u : Nat),
    let tl := s.tile u
    (∀ p rest, tl.node = .arrived → tl.down = p :: rest → p.kind = 0 → p.sentAt / 2 < s.clk / 2 → s.clk ≤ p.instant →
      ∃ t, exec (.exchangeStartPacket u) s = .next t ∧ t.tile u = { tl with
        down := rest, winEff := tl.cur.win, xStart := some p.instant, xEnded := false, offered := [] }) ∧
    (∀ x, tl.node = .arrived → tl.xStart = some x → x ≤ s.clk → s.clk < x + 2 → (∀ c ∈ tl.col, c.status ≠ .unfit) →
      ∃ t, exec (.exchangeStart u) s = .next t ∧ (t.tile u).node = .exch ∧ (∀ e ∈ (t.tile u).xsched, e.late = false) ∧
        (t.tile u).xsched.length = tl.xsched.length ∧ (t.tile u).recorded = tl.recorded ∧ (t.tile u).tm = tl.tm) ∧
    (∀ e k, tl.node = .exch → tl.dueSend (tl.xCycle s.clk) = some (e, k) → (∀ c ∈ tl.col, c.send = true) →
      (let i := tl.xCycle s.clk - e.cyc
       let runs := runsOf e.rc (64 * i) (min 64 (e.n - 64 * i))
       tl.badRuns runs = none →
        (s.brokenOn (dieOfTile u) (dieOfTile e.peer) = none → ∃ t, exec (.flitSend u) s = .next t ∧
          t.flits = s.flits ++ [⟨u, e.peer, s.clk / 2 + reelLatency u e.peer, e.ra, e.daddr, k, i, e.n, tl.readRuns runs⟩] ∧
          (t.tile u).tm = tl.tm) ∧
        (∀ l, s.brokenOn (dieOfTile u) (dieOfTile e.peer) = some l → tl.recorded = [] → ∃ t, exec (.flitSend u) s = .next t ∧
          t.flits = s.flits ∧ (t.tile u).recorded = [⟨0x14, some (6, l.2, 0)⟩] ∧ (l.2, l.1) ∈ (t.tile u).linkMods ∧ (t.tile u).tm = tl.tm))) ∧
    (∀ (f : Flit), s.flits = [f] → f.cycle ≤ s.clk / 2 → f.dst = u → f.ra = true → (tl.node = .exch ∨ tl.node = .seal) →
      (∀ c ∈ tl.col, c.send = true) →
      let now := f.cycle - tl.xStart.getD 0 / 2
      let start (e : XEntry) : Nat := e.cyc + reelLatency f.src u
      let hit (e : XEntry) : Prop := e.send = false ∧ e.peer = f.src ∧ start e ≤ now ∧ now < start e + (e.n + 63) / 64
      ((∀ e ∈ tl.xsched, ¬hit e) → ∃ t, exec (.flitArrival 0) s = .next t ∧ t.flits = [] ∧ (t.tile u).tm = tl.tm ∧
        ⟨0x0C, none⟩ ∈ (t.tile u).recorded) ∧
      ∀ k e, tl.xsched[k]? = some e → hit e → (∀ j y, j < k → tl.xsched[j]? = some y → ¬hit y) → e.closed = false → e.late = false →
        (e.n ≠ f.n → ∃ t, exec (.flitArrival 0) s = .next t ∧ t.flits = [] ∧ (t.tile u).tm = tl.tm ∧
          ⟨0x0C, none⟩ ∈ (t.tile u).recorded) ∧
        (e.n = f.n → tl.admitsRuns (runsOf e.rc 0 e.n) = false → f.src ≠ u →
          (∀ y, (s.tile f.src).xsched[f.entry]? = some y → y.closed = false → ∃ t, exec (.flitArrival 0) s = .next t ∧ t.flits = [] ∧
            (t.tile u).tm = tl.tm ∧ ⟨0x0B, none⟩ ∈ (t.tile f.src).recorded)) ∧
        (e.n = f.n → tl.admitsRuns (runsOf e.rc 0 e.n) = true → ∀ tl',
          ({ tl with xsched := tl.xsched.set k { e with moved := (now - start e) :: e.moved } }).fillRuns
            (layRuns (runsOf e.rc (64 * f.i) f.data.length) f.data) = (tl', none) →
          ∃ t, exec (.flitArrival 0) s = .next t ∧ t.flits = [] ∧ t.tile u = tl')) ∧
    (∀ (f : Flit), s.flits = [f] → f.cycle ≤ s.clk / 2 → f.dst = u → f.ra = false → (tl.node = .exch ∨ tl.node = .seal) →
      (∀ c ∈ tl.col, c.send = true) →
      (∀ tl', tl.admitsRuns [(f.daddr, f.n)] = true →
        tl.fillRuns (layRuns [(f.daddr + 64 * f.i, f.data.length)] f.data) = (tl', none) →
        ∃ t, exec (.flitArrival 0) s = .next t ∧ t.flits = [] ∧ t.tile u = tl') ∧
      (∀ e, tl.admitsRuns [(f.daddr, f.n)] = false → f.src ≠ u → (s.tile f.src).xsched[f.entry]? = some e → e.closed = false →
        ∃ t, exec (.flitArrival 0) s = .next t ∧ t.flits = [] ∧ t.tile u = tl ∧ ⟨0x0B, none⟩ ∈ (t.tile f.src).recorded)) ∧
    (∀ (f g : Flit), s.flits = [f, g] → f.cycle ≤ s.clk / 2 → f.dst = u → g.dst = u → g.cycle = f.cycle →
      ∃ t, exec (.flitArrival 0) s = .next t ∧ t.flits = [] ∧ (t.tile u).tm = tl.tm ∧ ⟨0x0C, none⟩ ∈ (t.tile u).recorded) ∧
    (∀ e x, tl.node = .exch → tl.xsched[e]? = some x → x.send = false → x.late = false → x.closed = false →
      1 ≤ x.n → x.first u < tl.xCycle s.clk → 0 ∉ x.moved →
      ∃ t, exec (.xrecvMissedFlit u e) s = .next t ∧ ⟨0x0C, none⟩ ∈ (t.tile u).recorded ∧ (t.tile u).tm = tl.tm) ∧
    (tl.node = .exch → tl.xEnded = false → (∀ e ∈ tl.xsched, if e.send = true then
        e.cyc + (e.n + 63) / 64 - 1 + 2 * reelLatency u e.peer ≤ tl.xCycle s.clk
      else e.first u + (e.n + 63) / 64 - 1 ≤ tl.xCycle s.clk ∧
        (e.closed = true ∨ e.late = true ∨ ∀ k, k < (e.n + 63) / 64 → k ∈ e.moved)) →
      ∃ t, exec (.exchangeEnd u) s = .next t ∧ t.tile u = { tl with xEnded := true } ∧ ∀ k, k ≠ u → t.tile k = s.tile k) ∧
    (∀ e ∈ tl.xsched, e.send = false → e.closed = false → e.late = false → (∃ k, k < (e.n + 63) / 64 ∧ k ∉ e.moved) →
      exec (.exchangeEnd u) s = .next s) ∧
    (∀ k o, tl.node = .exch → tl.xEnded = true → tl.cur.outbox[k]? = some o → k ∉ tl.offered → (4, k) ∉ tl.badMb →
      (modOfTile o.dst = modOfTile u → s.brokenOn (dieOfTile u) (dieOfTile o.dst) = none →
        ∃ t, exec (.messageOffer u k) s = .next t ∧ t.tile u = { tl with offered := k :: tl.offered }) ∧
      (∀ l, modOfTile o.dst = modOfTile u → s.brokenOn (dieOfTile u) (dieOfTile o.dst) = some l → tl.recorded = [] →
        ∃ t, exec (.messageOffer u k) s = .next t ∧ (t.tile u).recorded = [⟨0x14, some (6, l.2, 0)⟩] ∧ (l.2, l.1) ∈ (t.tile u).linkMods) ∧
      (modOfTile o.dst ≠ modOfTile u → (s.die (dieOfTile u)).lk.port.up = false →
        ∃ t, exec (.messageOffer u k) s = .next t ∧ (tl.recorded = [] → ∃ x, (t.tile u).recorded = [x] ∧ x.code = 0x14)))

/-! ## Collectives -/

/-- R337-R341: `cgrp` loads a descriptor and gives the size of its group, or raises cause 0x19; `crank` gives the least rank of
a tile, all ones where it has none; `cpart` the partner of a rank for a step of an exchange: `r` with bit `k` changed, or the
rank `p` away that a pre or post step pairs it with, where `p` is the largest power of two not above the size. R342-R344, R349,
R350: a collective transfer that passes the checks of R343 joins the schedule, a `csend` the haul queue too; `croute` and
`cmark` are held for the commit where the stream is the region's, and raise cause 0x07 where it is not. -/
def Obligations.GroupsAndCollectiveIssue : Prop :=
  (∀ (s : State) (u : Nat) (d a b : BitVec 5), s.turn = .tile u 8 →
    let G : Rec := BitVec.ofNat 256 (s.numAt s.turn (s.rx a).toNat 32)
    let res (v : W) : Agent := (s.me.wx d v).past
    (s.canLoad (s.rx a) 32 → grpOk G = true →
      Loads (.cgrp d a) s { res (BitVec.ofNat 64 (grpN0 G * grpN1 G * grpN2 G)) with group := some G } (s.rx a).toNat 32) ∧
    (s.canLoad (s.rx a) 32 → grpOk G = false → Traps (.cgrp d a) s 0x19 (s.rx a)) ∧
    (s.me.group = none → Traps (.crank d a) s 0x19 (s.rx a) ∧ Traps (.cpart d a b) s 0x19 (s.rx b)) ∧
    (∀ g, s.me.group = some g → grpSize g < 2 ^ 21 →
      (∀ r, r < grpSize g → grpAddr g r = (s.rx a).toNat → (∀ q, q < r → grpAddr g q ≠ (s.rx a).toNat) →
        Completes (.crank d a) s (res (BitVec.ofNat 64 r))) ∧
      ((∀ r, r < grpSize g → grpAddr g r ≠ (s.rx a).toNat) → Completes (.crank d a) s (res (BitVec.allOnes 64))) ∧
      (∀ m k r, 2 ^ m ≤ grpSize g → grpSize g < 2 ^ (m + 1) → r = (s.rx a).toNat → k = (s.rx b).toNat % 32 →
        ((s.rx b).toNat = k → r < 2 ^ m → k < m → Completes (.cpart d a b) s (res (BitVec.ofNat 64 (r ^^^ 2 ^ k)))) ∧
        ((s.rx b).toNat = k → (2 ^ m ≤ r ∨ m ≤ k) → Completes (.cpart d a b) s (res (BitVec.allOnes 64))) ∧
        ((s.rx b).toNat = k + 256 → 2 ^ m ≤ r → r < grpSize g → Completes (.cpart d a b) s (res (BitVec.ofNat 64 (r - 2 ^ m)))) ∧
        ((s.rx b).toNat = k + 256 → r < grpSize g - 2 ^ m → Completes (.cpart d a b) s (res (BitVec.ofNat 64 (r + 2 ^ m)))) ∧
        ((s.rx b).toNat = k + 256 → grpSize g - 2 ^ m ≤ r → (r < 2 ^ m ∨ grpSize g ≤ r) →
          Completes (.cpart d a b) s (res (BitVec.allOnes 64)))) ∧
      (32 ≤ (s.rx b).toNat % 256 ∨ 512 ≤ (s.rx b).toNat → Traps (.cpart d a b) s 0x19 (s.rx b)))) ∧
  (∀ (s : State) (u : Nat) (e a b : BitVec 5) (k : BitVec 6), s.turn = .tile u 8 →
    let tl := s.tile u
    let r := s.recReg e
    let n := recExtent r
    let v := (s.rx a).toNat
    let x := (kvGet 0 (s.die (dieOfTile u)).lk.router v).toNat
    let y := (s.rx b).toNat
    let first (p : Nat → Prop) (j : Nat) : Prop := p j ∧ ∀ i, i < j → ¬p i
    let ent (f P : Nat) : ColEntry := ⟨decide (f = 0), f, v, P, r, n, k.toNat, tl.opSeq, none, .waiting⟩
    let owns : Prop := v < 4096 ∧ x / 2 ^ 63 = 1 ∧ x / 2 ^ 40 % 2 ^ 20 = tl.region.toNat
    let checks (i : Instr) (f : Nat) : Prop :=
      let odd (j : Nat) : Prop := f = 2 ∧ 4 * j < n ∧ recAddr r (4 * j) % 4 ≠ 0
      let out (j : Nat) : Prop := j < n ∧ 0x1F0000 ≤ recAddr r j
      let full : Prop := (f = 2 ∧ n % 4 ≠ 0) ∨ 256 ≤ tl.col.length
      let inside : Prop := (∀ j, ¬odd j ∧ ¬out j) ∧ ¬full
      let named (g : Rec) (P : Nat) : Prop := s.me.group = some g ∧ y < grpSize g ∧ grpAddr g y = P
      let closed (P : Nat) : Prop := modOfTile P ≠ modOfTile u ∧ x / 2 ^ (9 * (x / 2 ^ 36 % 4)) % 2 = 0
      (∀ j, first odd j → Traps i s 0x03 (BitVec.ofNat 64 (recAddr r (4 * j)))) ∧
      (∀ j, (∀ l, ¬odd l) → first out j → Traps i s 0x04 (BitVec.ofNat 64 (recAddr r j))) ∧
      ((∀ j, ¬odd j ∧ ¬out j) → full → Traps i s 0x05 (BitVec.ofNat 64 n)) ∧
      (inside → ¬owns → Traps i s 0x07 (s.rx a)) ∧
      (∀ g P, inside → owns → named g P → (s.sameRegion u P = false → Traps i s 0x07 (BitVec.ofNat 64 P)) ∧
        (s.sameRegion u P = true → closed P → Traps i s 0x07 (s.rx a)) ∧
        (s.sameRegion u P = true → ¬closed P → ((∀ q, q < grpSize g → grpAddr g q ≠ u) ∨ P = u) → Traps i s 0x19 (s.rx b)) ∧
        (s.sameRegion u P = true → ¬closed P → (∃ q, q < grpSize g ∧ grpAddr g q = u) → P ≠ u →
          (n = 0 → tl.sem k.toNat < 65535 → CompletesIn i s s.me.past (fun tl => tl.setSem k.toNat (tl.sem k.toNat + 1))) ∧
          (1 ≤ n → f ≠ 0 → CompletesIn i s s.me.past (fun tl => { tl with col := tl.col ++ [ent f P], opSeq := tl.opSeq + 1 })) ∧
          (1 ≤ n → f = 0 → tl.haulQ.length < 16 → CompletesIn i s s.me.past (fun tl =>
            { tl.enterHaul ⟨0, 0, .csend, 0, r, 0, 0, n, k.toNat, .queued, 0, none, []⟩ with col := tl.col ++ [ent 0 P] })) ∧
          (1 ≤ n → f = 0 → 16 ≤ tl.haulQ.length → Waits i s .queue))) ∧
      (inside → owns → (s.me.group = none ∨ ∃ g, s.me.group = some g ∧ grpSize g ≤ y) → Traps i s 0x19 (s.rx b))
    checks (.csend e a b k) 0 ∧ checks (.crecv e a b k) 1 ∧ checks (.crecvAdd e a b k) 2 ∧ checks (.crecvMax e a b k) 3 ∧
    (owns → CompletesIn (.croute a b) s s.me.past (fun tl => { tl with routes := tl.routes ++ [⟨v, some (s.rx b)⟩] }) ∧
      CompletesIn (.cmark a) s s.me.past (fun tl => { tl with routes := tl.routes ++ [⟨v, none⟩] })) ∧
    (¬owns → Traps (.croute a b) s 0x07 (s.rx a) ∧ Traps (.cmark a) s 0x07 (s.rx a)))

/-- R344-R347, R349, R353, R357, R437: in the exchange phase the next send entry leaves with the copy its `csend` made; one to another
module as a frame of the scale-out port of die `EGR`, addressed to die `RMT`; one whose link is not up, or whose path has a failed link
(R357), gives cause 0x14. A
transfer that matches a receive entry of its length lands over the entry's record, added as S32 elements by `add`, as the greater byte
by `max`, and gives its completion; one that matches none gives cause 0x0C; a receive entry that has not landed when the limit of
`CTMO` is over gives cause 0x14. -/
def Obligations.CollectivePhaseRuns : Prop :=
  ∀ (s : State) (u : Nat), (s.tile u).node = .exch →
    let tl := s.tile u
    (∀ k x bs, tl.col[k]? = some x → x.send = true → x.status = .waiting → (∀ y ∈ tl.col.take k, y.send = true → y.status ≠ .waiting) →
      x.data = some bs → modOfTile x.peer = modOfTile u → (∀ q ∈ s.legs u x.peer x.stream, s.brokenOn q.1 q.2 = none) →
      ∃ t f, exec (.collectiveSend u k) s = .next t ∧ t.xfers = s.xfers ++ [f] ∧ f.src = u ∧ f.dst = x.peer ∧ f.stream = x.stream ∧
        f.data = bs ∧ t.tile u = tl.setCol k .sent) ∧
    (∀ k x bs, tl.col[k]? = some x → x.send = true → x.status = .waiting → (∀ y ∈ tl.col.take k, y.send = true → y.status ≠ .waiting) →
      x.data = some bs → (∃ q ∈ s.legs u x.peer x.stream, s.brokenOn q.1 q.2 ≠ none) → tl.recorded = [] →
      ∃ t l m, exec (.collectiveSend u k) s = .next t ∧ t.xfers = s.xfers ∧ (t.tile u).recorded = [⟨0x14, some (6, l, 0)⟩] ∧ (l, m) ∈ (t.tile u).linkMods ∧
        (t.tile u).tm = tl.tm) ∧
    (∀ k x bs, tl.col[k]? = some x → x.send = true → x.status = .waiting → (∀ y ∈ tl.col.take k, y.send = true → y.status ≠ .waiting) →
      x.data = some bs → modOfTile x.peer ≠ modOfTile u →
      let set := ((s.die (dieOfTile u)).lk.entry x.stream).toNat
      let now := set / 2 ^ (9 * (set / 2 ^ 36 % 4)) % 2 ^ 9
      let egr := 16 * modOfTile u + now / 2 % 16
      let port := (s.die egr).lk.port
      (port.up = true → (∀ q ∈ s.legs u x.peer x.stream, s.brokenOn q.1 q.2 = none) → bs.length ≤ 8192 →
        ∃ t f, exec (.collectiveSend u k) s = .next t ∧ t.xfers = s.xfers ++ [f] ∧ f.data = bs ∧
        t.tile u = tl.setCol k .sent ∧
        t.outs = s.outs ++ [.frame egr false (tl.olcfgEff.toNat / 2 ^ 40 % 2 ^ 16) (some (16 * modOfTile x.peer + now / 32 % 16)) 0
          port.nextSeq port.expected bs]) ∧
      (port.up = false → tl.recorded = [] → ∃ t r, exec (.collectiveSend u k) s = .next t ∧ t.xfers = s.xfers ∧ t.outs = s.outs ∧
        (t.tile u).recorded = [r] ∧ r.code = 0x14 ∧ (t.tile u).tm = tl.tm)) ∧
    (∀ i f, s.xfers[i]? = some f → f.dst = u → f.src ≠ u →
      (tl.colMatch f = none → ∃ t, exec (.collectiveLanding i) s = .next t ∧ t.xfers = s.xfers.eraseIdx i ∧
        ⟨0x0C, none⟩ ∈ (t.tile u).recorded ∧ (t.tile u).tm = tl.tm) ∧
      (∀ e k tl', tl.colMatch f = some (e, k) → e.n = f.data.length → tl.admitsRuns (runsOf e.rc 0 e.n) = true →
        (e.f ≠ 1 → tl.badRuns (runsOf e.rc 0 e.n) = none) →
        (tl.setCol k .done).landCol e.f s.free (tl.mixed (s.reelRuns u) k e)
          (landParts e.f (runsOf e.rc 0 e.n) f.data) = some tl' →
        tl'.sem e.sem < 65535 →
        ∃ t, exec (.collectiveLanding i) s = .next t ∧ t.xfers = s.xfers.eraseIdx i ∧
          t.tile u = tl'.setSem e.sem (tl'.sem e.sem + 1))) ∧
    (∀ k c x, tl.xStart = some x → tl.col[k]? = some c → c.send = false → c.status = .waiting → x + 4 * tl.ctmoEff.toNat ≤ s.clk →
      tl.recorded = [] →
      ∃ t r, exec (.collectiveReceiveTimeout u k) s = .next t ∧ (t.tile u).recorded = [r] ∧ r.code = 0x14 ∧
        (t.tile u).stopping = true ∧ (t.tile u).tm = tl.tm) ∧
    (∀ (old new : BitVec 32) (x y : Byte), combine 2 (leBytes 4 old.toNat) (leBytes 4 new.toNat) = leBytes 4 (old + new).toNat ∧
      combine 3 [x] [y] = [if x.toNat < y.toNat then y else x] ∧ combine 1 [x] [y] = [y])

/-! ## Quadrille -/

/-- R171, R174, R231: once the operations a release waits for have completed, `sync` leaves the agent SYNCED with its vote (abort for `.a`,
or where `X[b]` is not the superstep's number), operator and operand; until then it waits. That `sync` counts as retired when it
contributes is the model's reading (notes/assumptions/4.md). `ssq` reads the superstep number, the last
outcome, the result, `try`, the start instant in pod time as the release fixed it. -/
def Obligations.SyncAndQueryComplete : Prop :=
  ∀ (s : State) (u : Nat) (me : Fin 10) (d a b : BitVec 5) (v : BitVec 2) (o : BitVec 3), s.turn = .tile u me →
    let tl := s.tile u
    let res (x : W) : Agent := (s.me.wx d x).past
    (s.drained → s.me.streams = [] → v.toNat < 2 → o.toNat < 7 →
      ∀ vote, vote = decide (v = 1 ∨ (b ≠ 0 ∧ (s.rx b).toNat % 2 ^ 48 ≠ tl.ssnum.toNat)) →
        ∃ t, exec (.sync d a b v o) s = .next t ∧
          Only s t s.turn { s.me with st := .synced, sync := some ⟨d, vote, o.toNat, s.rx a⟩ } id ∧
          t.retiredOf s.turn = s.retiredOf s.turn + 1) ∧
    (s.hartBusy = true → Waits (.sync d a b v o) s .drain) ∧
    Completes (.ssqNum d) s (res (tl.ssnum.setWidth 64)) ∧
    Completes (.ssqOut d) s (res (BitVec.ofNat 64 (tl.outKind + tl.outCause * 2 ^ 8 + tl.outTile * 2 ^ 16))) ∧
    Completes (.ssqRed d) s (res tl.red) ∧ Completes (.ssqTry d) s (res (BitVec.ofNat 64 tl.tryN)) ∧
    Completes (.ssqRel d) s (res tl.startPod)

/-- R168, R169, R172, R173: a tile of a region of one module sends its close arrival once its conditions hold, and not before; a
tile with a recorded cause 0x13 or 0x14 sends it at once, and one of a module that has tripped sends none (R425); the vote is abort where the
tile has a cause, the one that ranks first, a cause still pending for a synced or halted agent among them (R120). R173: the seven operators are commutative and associative on 64-bit patterns, and their identities change nothing: a
result does not depend on the order of arrival. -/
def Obligations.CloseArrivalReduces : Prop :=
  (∀ (s : State) (u : Nat) (r : Region), s.regionOf u = some r → (s.tile u).node = .run → r.nmod = 1 →
    let tl := s.tile u
    (tl.stopping = true ∨ (tl.mayArrive = true ∧ s.ffBusy u = false) → (s.module (modOfTile u)).alive = true →
      ∃ t p, exec (.tileCloseArrival u) s = .next t ∧ t.up = s.up ++ [p] ∧ t.tile u = { tl with node := .arrived } ∧
        (∀ w, w ≠ u → t.tile w = s.tile w) ∧ p.kind = 0 ∧ p.region = r.serial ∧ p.ssn = tl.ssnum ∧ p.src = u ∧ p.tile = u ∧
        p.ended = tl.allEnded ∧ (p.abort = true ↔ tl.causes ≠ []) ∧ (p.abort = true → p.cause ∈ tl.causes ∧
          ∀ c ∈ tl.causes, causeRank p.cause ≤ causeRank c) ∧
        (tl.syncs = [] → p.op = none ∧ p.operand = 0) ∧
        (∀ x l, tl.syncs = x :: l → p.op = some x.op ∧
          p.operand = (x :: l).foldl (fun v y => redOp x.op v y.operand) (redIdentity x.op))) ∧
    (tl.stopping = true ∨ (tl.mayArrive = true ∧ s.ffBusy u = false) → (s.module (modOfTile u)).alive = false →
      ∃ t, exec (.tileCloseArrival u) s = .next t ∧ t.up = s.up) ∧
    (∀ (a : Fin 10) (q : Pending), ((tl.cur.agents[a]).st = .synced ∨ (tl.cur.agents[a]).st = .halt) → (tl.cur.agents[a]).deferred = some q →
      q.code ∈ tl.causes) ∧
    (tl.stopping = false → (tl.mayArrive = false ∨ s.ffBusy u = true) → exec (.tileCloseArrival u) s = .next s)) ∧
  (∀ (o : Nat) (x y z : W), o < 7 →
    redOp o x y = redOp o y x ∧ redOp o (redOp o x y) z = redOp o x (redOp o y z) ∧ redOp o (redIdentity o) x = x ∧
    redOp 0 x y = x + y ∧ (redOp 1 x y).toInt = min x.toInt y.toInt ∧ (redOp 2 x y).toInt = max x.toInt y.toInt ∧
    (redOp 3 x y).toNat = max x.toNat y.toNat ∧ redOp 4 x y = x &&& y ∧ redOp 5 x y = x ||| y ∧ redOp 6 x y = x ^^^ y)

/-- R168, R170, R176: the root's close vote: an abort arrival sends abort outcomes at once, with its cause and tile, and `try` goes up by one;
the last commit arrival, with one operator, sends exchange start packets with `RESULT` and T_x, 100 ns on for a region of one module, the
guard time on for one of several; one before the last is only noted; a packet whose `SSN` the root does not collect has no effect. A
tile whose module's link is down or that was declared dead gets no packet, and its die's `QABORT` counts none (R437, R358, R198). T_x is rounded up to an even clk (DEDUCED,
notes/assumptions/37.md); each module tells the instant by its own pod time (R424), counted from the root's (DEDUCED,
notes/assumptions/49.md). -/
def Obligations.RootCloseVote : Prop :=
  ∀ (s : State) (p : Up) (r : Region), s.up = [p] → p.kind = 0 → s.region? p.region = some r → r.phase = .closing →
    let after (r' : Region) (t : State) : Prop := t.region? p.region = some r' ∧ t.up = []
    let sent (t : State) (q : Down) : Prop := ∀ w ∈ r.tiles, s.reaches r w → s.hasDown r t w q
    let heard (m : Nat) : Prop := 1 < r.nmod → (s.module m).podDead = false ∧ s.podUp m = true
    let arrived := natInsert r.arrived p.src
    (p.ssn = r.ssn → p.abort = true →
      ∃ t, exec (.closeArrival 0) s = .next t ∧ (∃ r', after r' t ∧ r'.phase = .restoring ∧ r'.tryN = r.tryN + 1 ∧ r'.ssn = r.ssn) ∧
        sent t ⟨2, 0, r.ssn, p.cause, p.tile, r.result, 0, s.clk⟩ ∧
        (∀ d, (t.die d).qd.abort = (s.die d).qd.abort + if d ∈ r.dies ∧ heard (modOfDie d) then 1 else 0)) ∧
    (p.ssn = r.ssn → p.abort = false → s.opsDiffer r.tiles = false →
      (r.all arrived = true → ∃ t x, exec (.closeArrival 0) s = .next t ∧
        (∃ r', after r' t ∧ r'.phase = .sealing ∧ r'.tryN = r.tryN ∧ r'.ssn = r.ssn ∧ r'.result = x) ∧
        (∀ o, r.op = some o → x = if p.op = none then r.operand else redOp o r.operand p.operand) ∧
        (r.op = none → p.op ≠ none → x = p.operand) ∧ (r.op = none → p.op = none → x = 0) ∧
        sent t ⟨0, 0, r.ssn, 0, 0, x, evenUp (s.clk + if r.nmod ≤ 1 then 400 else 4 * r.fields.guard), s.clk⟩) ∧
      (r.all arrived = false → ∃ t, exec (.closeArrival 0) s = .next t ∧ (∀ w, t.tile w = s.tile w) ∧
        ∃ r', after r' t ∧ r'.phase = .closing ∧ r'.arrived = arrived)) ∧
    (p.ssn = r.ssn → p.abort = false → s.opsDiffer r.tiles = true → r.all arrived = true →
      ∃ t, exec (.closeArrival 0) s = .next t ∧ (∃ r', after r' t ∧ r'.phase = .restoring) ∧
        sent t ⟨2, 0, r.ssn, 0x16, 0, r.result, 0, s.clk⟩) ∧
    (p.ssn ≠ r.ssn → exec (.closeArrival 0) s = .next { s with up := [] }) ∧
    (∀ m c, s.podAhead m = s.podAhead r.rootModule → s.localClk r m c = c)

/-- R168, R170, R185, R187, R188: the root's seal vote and what follows an abort: a seal arrival that aborts sends abort outcomes; the last commit
releases superstep n + 1 at now + G, or stops the tiles for good where every agent has ended, or holds the region; the last restore
done releases a re-run of the same superstep while `try` is not above `RETRY`, and stops the region with the abort's cause after that,
and with 0x13 where data was lost; and the timeout aborts with cause 0x15, while seal arrivals are collected too, or stops the region
where restore dones are awaited, and then the silent modules of a region of several are declared dead, with EVENT code 7 from a
survivor. R400, R404: a waiting head of lower `PRIO`, or of equal `PRIO` once the commits of `SLICE` are made, has the region held with an
EVENT. R177, R219, R302-R304, R350, R401: what the tiles share at the commit: plain deltas reach HBM in writer order, then the reductions
by function, those of one function in writer order, a message goes into its mailbox or stays held, a spawn request is taken where a slot is FREE or
stays held, `croute` and `cmark` change their stream's entry, and the atoms of the launch port with `GO` enter their queues. That all this
is done in the step of the root's decision is the model's reading (DEDUCED, notes/assumptions/24.md), as are that each module tells an
instant by its own pod time (DEDUCED, notes/assumptions/49.md), that T_rel is rounded up to an even clk (DEDUCED, notes/assumptions/37.md),
and that the declaration comes with the stop (DEDUCED, notes/assumptions/50.md). -/
def Obligations.RootSealVote : Prop :=
  (∀ (s : State) (p : Up) (r : Region), s.region? p.region = some r →
    let after (r' : Region) (t : State) : Prop := t.region? p.region = some r'
    let sent (t : State) (kind ph : Nat) (n : BitVec 48) (cause at' : Nat) : Prop :=
      ∀ w ∈ r.tiles, s.reaches r w → ∃ q ∈ (t.tile w).down, q.kind = kind ∧ q.phase = ph ∧ q.ssn = n ∧ q.cause = cause ∧
        q.instant = s.localClk r (modOfTile w) at' ∧ q.sentAt = s.clk
    let c := (r.parts.foldl (fun (s : State) p => s.noteHeads p.m) { s with up := [] }).commitShared r
    let shared (t : State) : Prop := (∀ m, (t.module m).hbm = (c.module m).hbm ∧ (t.module m).queues = (c.module m).queues) ∧
      ∀ d, (t.die d).lk.router = (c.die d).lk.router ∧ (t.die d).ff = (c.die d).ff ∧ (t.die d).qd.commit = (c.die d).qd.commit
    let taken (t : State) : Prop := ∀ w, (t.tile w).tm = (c.tile w).tm ∧ (t.tile w).cur = (c.tile w).cur ∧
      (t.tile w).mbx = (c.tile w).mbx ∧ (t.tile w).mbSrc = (c.tile w).mbSrc ∧ (t.tile w).spawns = (c.tile w).spawns ∧
      (t.tile w).deltas = (c.tile w).deltas
    let start := evenUp (s.clk + 4 * r.fields.guard)
    let last := r.all (natInsert r.arrived p.src) = true
    (s.up = [p] → p.kind = 1 → r.phase = .sealing → p.ssn = r.ssn →
      (p.abort = true → ∃ t, exec (.sealArrival 0) s = .next t ∧
        (∃ r', after r' t ∧ r'.phase = .restoring ∧ r'.tryN = r.tryN + 1 ∧ r'.ssn = r.ssn) ∧ sent t 2 1 r.ssn p.cause 0) ∧
      (p.abort = false → last → r.all r.endedTiles = true → ∃ t, exec (.sealArrival 0) s = .next t ∧
        (∃ r', after r' t ∧ r'.phase = .ending) ∧ sent t 3 0 r.ssn 0 0 ∧ shared t) ∧
      (p.abort = false → last → r.all r.endedTiles = false → r.holdReq = false →
        ({ s with up := [] } : State).headHolds r (r.commits + 1) = false → ∃ t, exec (.sealArrival 0) s = .next t ∧
        (∃ r', after r' t ∧ r'.phase = .closing ∧ r'.ssn = r.ssn + 1 ∧ r'.tryN = 0) ∧ sent t 1 0 (r.ssn + 1) 0 start ∧
        shared t ∧ taken t) ∧
      (p.abort = false → last → r.all r.endedTiles = false →
        (r.holdReq = true ∨ ({ s with up := [] } : State).headHolds r (r.commits + 1) = true) → ∃ t, exec (.sealArrival 0) s = .next t ∧
        (∃ r', after r' t ∧ r'.phase = .held ∧ r'.ssn = r.ssn + 1 ∧ r'.holdReq = false ∧ r'.commits = 0) ∧ sent t 3 0 r.ssn 0 0 ∧
        (∀ x ∈ r.parts, (s.module x.m).alive = true → Output.event x.m 5 r.id.toNat (r.ssn + 1).toNat 0 0 0 ∈ t.outs) ∧
        shared t ∧ taken t)) ∧
    (s.up = [p] → p.kind = 2 → r.phase = .restoring → p.ssn = r.ssn → last →
      (r.lost = false → p.lost = false → r.tryN ≤ r.fields.retry → ∃ t, exec (.restoreDone 0) s = .next t ∧
        (∃ r', after r' t ∧ r'.phase = .closing ∧ r'.ssn = r.ssn ∧ r'.tryN = r.tryN) ∧ sent t 1 1 r.ssn 0 start) ∧
      (r.lost = false → p.lost = false → r.fields.retry < r.tryN → ∃ t, exec (.restoreDone 0) s = .next t ∧
        (∃ r', after r' t ∧ r'.phase = .stopped) ∧ sent t 3 0 r.ssn r.abortCause 0) ∧
      (r.lost = true ∨ p.lost = true → ∃ t, exec (.restoreDone 0) s = .next t ∧
        (∃ r', after r' t ∧ r'.phase = .stopped) ∧ sent t 3 0 r.ssn 0x13 0)) ∧
    (r.timer + 4 * r.fields.tmo ≤ s.clk → s.rootSilent r = false →
      (r.phase = .closing → ∃ t, exec (.rootTimeout p.region) s = .next t ∧
        (∃ r', after r' t ∧ r'.phase = .restoring ∧ r'.tryN = r.tryN + 1) ∧ sent t 2 0 r.ssn 0x15 0) ∧
      (r.phase = .sealing → ∃ t, exec (.rootTimeout p.region) s = .next t ∧
        (∃ r', after r' t ∧ r'.phase = .restoring ∧ r'.tryN = r.tryN + 1) ∧ sent t 2 1 r.ssn 0x15 0) ∧
      (r.phase = .restoring → ∃ t, exec (.rootTimeout p.region) s = .next t ∧
        (∃ r', after r' t ∧ r'.phase = .stopped) ∧ sent t 3 0 r.ssn 0x15 0 ∧
        ∀ k ∈ r.silent, 1 < r.nmod → (∃ x ∈ r.parts, x.m ∉ r.silent) → (t.module k).podDead = true ∧
          ∃ m, m ∉ r.silent ∧ (∃ x ∈ r.parts, x.m = m) ∧
            ((s.module m).alive = true → Output.event m 7 r.id.toNat r.ssn.toNat 0 0 k ∈ t.outs))) ∧
    (r.phase = .closing ∨ r.phase = .sealing ∨ r.phase = .restoring → s.clk < r.timer + 4 * r.fields.tmo →
      exec (.rootTimeout p.region) s = .next s)) ∧
  (∀ (s : State) (r : Region), r.parts.Pairwise (fun p q => p.m ≠ q.m) →
    let c := s.commitShared r
    let l (m : Nat) : List (Nat × Delta) := s.writerOrder r m
    let covers (d : Delta) (x : Nat) : Prop := d.pa ≤ x ∧ x < d.pa + d.bytes.length
    (∀ n, s.headHolds r n = true ↔ ∃ p ∈ r.parts, ∃ h ∈ s.heads p.m, s.waitsFor p.m h r = true ∧
      (h.fields.prio < r.fields.prio ∨ h.fields.prio = r.fields.prio ∧ r.fields.slice ≤ n)) ∧
    (∀ d ∈ r.dies, (c.die d).qd.commit = (s.die d).qd.commit + 1) ∧
    (∀ m, (l m).Pairwise (fun a b => a.1 < b.1 ∨ (a.1 = b.1 ∧ a.2.seq ≤ b.2.seq)) ∧
      ∀ w d, (w, d) ∈ l m ↔ w ∈ r.tiles ∧ modOfTile w = m ∧ d ∈ (s.tile w).deltas) ∧
    (r.fields.lport = 0 → ∀ p ∈ r.parts,
      (∀ x, (∀ q ∈ l p.m, ¬covers q.2 x) → (c.module p.m).hbm.get x = (s.module p.m).hbm.get x) ∧
      (∀ x pre q post, l p.m = pre ++ q :: post → q.2.f = none → covers q.2 x → (∀ y ∈ post, y.2.f = none → ¬covers y.2 x) →
        (∀ y ∈ l p.m, y.2.f ≠ none → ¬covers y.2 x) → (c.module p.m).hbm.get x = q.2.bytes.getD (x - q.2.pa) 0) ∧
      (∀ pre q post f, l p.m = pre ++ q :: post → q.2.f = some f → f < 9 →
        (∀ y ∈ pre ++ post, ∀ x, covers q.2 x → ¬covers y.2 x) → s.hbmBad p.m q.2.pa q.2.bytes.length = none →
        c.hbm p.m q.2.pa q.2.bytes.length = redBytes f (s.hbm p.m q.2.pa q.2.bytes.length) q.2.bytes) ∧
      (∀ pre q mid y post, l p.m = pre ++ q :: mid ++ y :: post → y.2.pa = q.2.pa → y.2.bytes.length = q.2.bytes.length →
        (∀ z ∈ pre ++ mid ++ post, ∀ x, covers q.2 x → ¬covers z.2 x) → s.hbmBad p.m q.2.pa q.2.bytes.length = none →
        let old := s.hbm p.m q.2.pa q.2.bytes.length
        let new := c.hbm p.m q.2.pa q.2.bytes.length
        (∀ f, f < 9 → q.2.f = none → y.2.f = some f → new = redBytes f q.2.bytes y.2.bytes) ∧
        (∀ f, f < 9 → q.2.f = some f → y.2.f = none → new = redBytes f y.2.bytes q.2.bytes) ∧
        ∀ f g, f < 9 → g < 9 → q.2.f = some f → y.2.f = some g →
          new = if f ≤ g then redBytes g (redBytes f old q.2.bytes) y.2.bytes else redBytes f (redBytes g old y.2.bytes) q.2.bytes)) ∧
    (∀ w o, w ∈ r.tiles → (s.tile w).cur.outbox = [o] → (∀ v ∈ r.tiles, v ≠ w → (s.tile v).cur.outbox = []) →
      let q : Fin 4 := Fin.ofNat 4 o.prio
      let x := s.tile o.dst
      let y := c.tile o.dst
      let slot := 64 * q.val + ((x.cur.mbHead[q]).toNat + (x.cur.mbCount[q]).toNat) % 64
      (o.spawn = false → (x.cur.mbCount[q]).toNat < 64 → y.mbx.bytes (64 * slot) o.data.length = o.data ∧
        y.mbSrc.find? (fun z => decide (z.1 = slot)) = some (slot, w) ∧ y.cur.mbCount[q] = x.cur.mbCount[q] + 1 ∧
        (c.tile w).cur.outbox = []) ∧
      (o.spawn = false → 64 ≤ (x.cur.mbCount[q]).toNat → y.mbx = x.mbx ∧ y.cur.mbCount = x.cur.mbCount ∧ (c.tile w).cur.outbox = [o]) ∧
      (o.spawn = true → o.dst ∈ r.tiles → (∃ i : Fin 10, i.val < 8 ∧ (x.cur.agents[i]).st = .free) →
        y.spawns = [o] ∧ (c.tile w).cur.outbox = []) ∧
      (o.spawn = true → o.dst ∈ r.tiles → (∀ i : Fin 10, i.val < 8 → (x.cur.agents[i]).st ≠ .free) →
        y.spawns = [] ∧ (c.tile w).cur.outbox = [o])) ∧
    (∀ w q, w ∈ r.tiles → (s.tile w).routes = [q] → (∀ v ∈ r.tiles, v ≠ w → (s.tile v).routes = []) →
      let e := ((s.die (dieOfTile w)).lk.entry q.stream).toNat
      let e' := ((c.die (dieOfTile w)).lk.entry q.stream).toNat
      let cur := e / 2 ^ 36 % 4
      let valid (k : Nat) : Prop := e / 2 ^ (9 * (k % 4)) % 2 = 1
      (c.tile w).routes = [] ∧
      (∀ v, q.value = some v → e' = e / 2 ^ 40 * 2 ^ 40 + v.toNat % 2 ^ 38) ∧
      (q.value = none → ∀ i, 1 ≤ i → i ≤ 3 → valid (cur + i) → (∀ j, 1 ≤ j → j < i → ¬valid (cur + j)) →
        e' = e - cur * 2 ^ 36 + (cur + i) % 4 * 2 ^ 36) ∧
      (q.value = none → (∀ i, 1 ≤ i → i ≤ 3 → ¬valid (cur + i)) → e' = e) ∧
      ∀ k, k ≠ q.stream → (c.die (dieOfTile w)).lk.entry k = (s.die (dieOfTile w)).lk.entry k) ∧
    (∀ p ∈ r.parts, ∀ q : Fin 16, r.fields.lport ≠ 0 → l p.m = [] →
      let pa := r.fields.lport + 16 * q.val
      let v := s.hbmNat p.m pa 8
      let old := ((s.module p.m).queues[q]).waiting
      s.hbmBad p.m pa 16 = none →
      (v / 2 ^ 63 % 2 = 1 → old.length < 64 →
        ((c.module p.m).queues[q]).waiting = old ++ [v % 2 ^ 40] ∧ c.hbmNat p.m pa 16 = 0) ∧
      (v / 2 ^ 63 % 2 = 0 ∨ 64 ≤ old.length →
        ((c.module p.m).queues[q]).waiting = old ∧ c.hbmNat p.m pa 16 = s.hbmNat p.m pa 16)))

/-- R169, R171, R174, R177, R189, R193: a release after a commit takes the shadows, empties the version store, moves the tile to RELWAIT
with the new number and result, and fixes the start instant; at it every SYNCED agent goes on with `X[d]` the result. R211, R212, R266,
R304: at the start of a new superstep the staged list serves it, unpinned accumulators are FREE, and each spawn request taken starts a
strand in the lowest FREE slot, with the fields of its 64 bytes, its `WDOG.LIMIT` 0x01000000. R193, R402: a stop keeps the last committed
state (one that finds an attempt under way undoes it: AbortRestores); after the last stop of a region that ends on a module, its tiles
there are in the reset state, and an EVENT tells of the end. That the shadow is what stands at the start instant is notes/assumptions/27.md
(DEDUCED). R314: that the sweep index becomes 0 at the first start instant of a tile of the
region on the die is the model's reading (DEDUCED, notes/assumptions/40.md), as is that a tile tells the instant by the pod time of its own
module (DEDUCED, notes/assumptions/49.md). -/
def Obligations.TileReleases : Prop :=
  ∀ (s : State) (u : Nat) (r : Region),
    let tl := s.tile u
    (∀ p rest, tl.down = p :: rest → p.sentAt / 2 < s.clk / 2 → s.regionOf u = some r →
      let start := p.instant + tl.slot.toNat * r.fields.delta * 4
      (p.kind = 1 → p.phase = 0 → tl.node = .seal → s.clk ≤ start →
        ∃ t x, exec (.release u) s = .next t ∧ t.tile u = x ∧ x.node = .relwait ∧ x.vs = [] ∧ x.ssnum = p.ssn ∧ x.red = p.result ∧
          x.startAt = some start ∧ x.startPod = s.podTime (modOfTile u) start ∧ x.outKind = 0 ∧ x.tryN = 0 ∧ x.fresh = true ∧ x.tm = tl.tm ∧ x.acc = tl.acc ∧ x.shadow.agents = tl.cur.agents ∧
          x.shadow.sems = tl.cur.sems ∧ x.shadow.fe = tl.cur.fe ∧ x.cur.agents = tl.cur.agents ∧ ∀ w, w ≠ u → t.tile w = s.tile w) ∧
      (p.kind = 1 → p.phase = 1 → tl.node = .hold → s.clk ≤ start →
        ∃ t, exec (.release u) s = .next t ∧ t.tile u = { tl with
          down := rest, node := .relwait, tryN := r.tryN, startAt := some start, startPod := s.podTime (modOfTile u) start, fresh := false }) ∧
      (p.kind = 3 → (p.cause = 0 ∨ tl.node = .relwait ∨ tl.node = .rollback ∨ tl.node = .hold ∨ tl.node = .stop ∨ tl.launching = true) →
        ∃ t x, exec (.stop u) s = .next t ∧ t.tile u = x ∧ x.node = .stop ∧ x.tm = tl.tm ∧ x.cur.agents = tl.cur.agents ∧
          x.cur.sems = tl.cur.sems ∧ (p.cause = 0 → x.red = p.result ∧ x.ssnum = p.ssn + 1) ∧
          (p.cause ≠ 0 → x.red = tl.red ∧ x.ssnum = tl.ssnum)) ∧
      (p.kind = 3 → ∃ t, exec (.stop u) s = .next t ∧ (t.tile u).node = .stop ∧ ∀ w, w ≠ u → t.tile w = s.tile w)) ∧
    (∀ n, tl.node = .relwait → tl.startAt = some n → n ≤ s.clk →
      ∃ t x, exec (.startInstant u) s = .next t ∧ t.tile u = x ∧ x.node = .run ∧ x.recorded = [] ∧
        x.deltas = [] ∧ x.xsched = [] ∧ x.mshWin = 0 ∧ x.mshCnt = 0 ∧ x.vmaskEff = tl.cur.vmask ∧
        x.shadow = (if tl.fresh = true then tl.cur.freeAccs AccState.unpinned else tl.cur) ∧ x.cur.sems = tl.cur.sems ∧
        x.pfNext = [] ∧ x.pfServe = (if tl.fresh = true then tl.pfNext else tl.pfServe) ∧
        (tl.fresh = false ∨ tl.spoiled = [] → x.tm = tl.tm) ∧
        (∀ n : Fin 16, x.cur.accSt[n] =
          if tl.fresh = true ∧ ∃ k, tl.cur.accSt[n] = .held k false then .free else tl.cur.accSt[n]) ∧
        (s.firstToStart u = true → (t.die (dieOfTile u)).ff = (s.die (dieOfTile u)).ff.start tl.region) ∧
        (∀ (a : Fin 10) g q, tl.cur.agents[a] = g →
          (g.st ≠ .synced → (g.st = .free → tl.spawns = [] ∨ 8 ≤ a.val) → x.cur.agents[a] = g) ∧
          (g.st = .synced → g.sync = some q → ∃ h, x.cur.agents[a] = h ∧ h.st = (if a.val < 8 then .ready else .run) ∧
            h.pc = g.pc + 4 ∧ h.rx q.d = (if q.d = 0 then 0 else tl.red) ∧ ∀ k, k ≠ q.d → h.rx k = g.rx k)) ∧
        (∀ (a : Fin 10) o rest, tl.spawns = o :: rest → a.val < 8 → (tl.cur.agents[a]).st = .free →
          (∀ b : Fin 10, b < a → (tl.cur.agents[b]).st ≠ .free) →
          let w (i : Nat) : Nat := leNat ((o.data.drop (8 * i)).take 8)
          ∃ h, x.cur.agents[a] = h ∧ h.st = .ready ∧ h.pc.toNat = w 0 % 2 ^ 21 / 4 * 4 ∧ h.prio.toNat = w 5 % 2 ^ 3 ∧
            h.tvec = BitVec.ofNat 64 (w 6) ∧ h.wdogLimit = 0x01000000 ∧ h.depth = 0 ∧ h.causeInh = false ∧ h.streams = [] ∧
            (∀ k : BitVec 5, h.rx k = if 3 ≤ k.toNat ∧ k.toNat ≤ 6 then BitVec.ofNat 64 (w (k.toNat - 2)) else 0) ∧
            (∀ k : BitVec 3, k ≠ 0 → h.rp k = false) ∧ ∀ k, h.rv k = 0)) ∧
    (∀ m part, s.region? r.serial = some r → r.parts.find? (fun p => decide (p.m = m)) = some part → r.phase = .ending →
      (∀ w ∈ part.tiles, (s.tile w).node = .stop) →
      let t := s.partEnd m r.serial
      (∀ w ∈ part.tiles, (t.tile w).cur = Tile.reset.cur ∧ (t.tile w).node = Tile.reset.node ∧ (t.tile w).inReg = false ∧
        (t.tile w).ssnum = 0 ∧ (t.tile w).vs = []) ∧
      (∀ w, w ∉ part.tiles → t.tile w = s.tile w) ∧
      ((s.module m).alive = true → r.abortCause = 0 → Output.event m 2 r.id.toNat (r.ssn + 1).toNat 0 0 part.rcb ∈ t.outs) ∧
      ((s.module m).alive = true → r.abortCause ≠ 0 → Output.event m 3 r.id.toNat r.ssn.toNat r.abortCause r.abortTile 0 ∈ t.outs))

/-- R94, R169, R179, R180, R182, R184: an abort outcome returns the tile to its state at the start of the superstep: the agents, records,
semaphores and every other shadowed part, and each line of tile memory and of the accumulators that the version store holds, but for a line that
is uncorrectable there: its data is lost, the line it undoes unspecified, and the version store is tested (R183); the version store, what
the engines held and what was built for the commit are gone; the slots loaded in the attempt are unspecified, and no others; the outcome is what
`ssq.out` reads. A stop with a fault cause that finds an attempt under way restores the same. Stated for a tile with no volatile segment and
no landed fetch; for a tile that waits to start a new superstep, those that the start would take (notes/assumptions/52.md); that the
descriptors which an unstarted `mwld` changed are unspecified too is DEDUCED (notes/assumptions/27.md). -/
def Obligations.AbortRestores : Prop :=
  ∀ (s : State) (u : Nat) (r : Region) (p : Down) (rest : List Down),
    let tl := s.tile u
    let at' (v : VsLine) (a : Nat) : Prop := 64 * v.line ≤ a ∧ a < 64 * v.line + 64
    let start : TileVer := if tl.node = .relwait ∧ tl.fresh = true then tl.cur.freeAccs AccState.unpinned else tl.shadow
    let restored (x : Tile) : Prop :=
      x.cur = start ∧ x.shadow = start ∧ x.vs = [] ∧ x.haulQ = [] ∧ x.haulStore = [] ∧ x.shapeQ = [] ∧ x.matQ = [] ∧
      x.deltas = [] ∧ x.xsched = [] ∧ x.col = [] ∧ x.recorded = [] ∧ x.stopping = false ∧ x.ssnum = tl.ssnum ∧ x.red = tl.red ∧
      (∀ v ∈ tl.vs, v.err = false → ∀ j, j < 64 →
        (if v.acc = true then x.acc else x.tm).get (64 * v.line + j) = v.old.getD j 0) ∧
      (∀ v ∈ tl.vs, v.err = true → x.lost = true ∧
        ∃ n, ∀ j, j < 64 → (if v.acc = true then x.acc else x.tm).get (64 * v.line + j) = Config.freeByte n (64 * v.line + j)) ∧
      ((∀ v ∈ tl.vs, v.err = false) → x.lost = tl.lost) ∧
      (∀ a, (∀ v ∈ tl.vs, v.acc = false → ¬at' v a) → x.tm.get a = tl.tm.get a) ∧
      (∀ a, (∀ v ∈ tl.vs, v.acc = true → ¬at' v a) → x.acc.get a = tl.acc.get a) ∧
      (∀ i : Fin 16, i.val ∉ tl.slotsLoaded → i.val ∉ tl.slotsSet → x.slotDesc[i] = tl.slotDesc[i]) ∧
      ∀ a, a / 16384 ∉ tl.slotsLoaded → x.slotMem.get a = tl.slotMem.get a
    s.regionOf u = some r → tl.down = p :: rest → p.sentAt / 2 < s.clk / 2 →
    (∀ i, i < 31 → tl.entering.kept i = true) → tl.entering.pfServe = [] → (∀ v ∈ tl.vs, v.old.length = 64) →
    tl.vs.Pairwise (fun v w => v.acc ≠ w.acc ∨ v.line ≠ w.line) →
    (p.kind = 2 → (tl.node = .run ∨ tl.node = .arrived ∨ tl.node = .exch ∨ tl.node = .seal ∨ tl.node = .relwait) →
      ∃ t x, exec (.abort u) s = .next t ∧ t.tile u = x ∧ x.node = .rollback ∧ restored x ∧ x.outKind = p.phase + 1 ∧
        x.outCause = p.cause ∧ x.outTile = p.tile ∧ ((∃ v ∈ tl.vs, v.err = true) → ∃ q ∈ x.tests, q.1 = 1) ∧
        ∀ w, w ≠ u → t.tile w = s.tile w) ∧
    (p.kind = 3 → p.cause ≠ 0 → (tl.node = .run ∨ tl.node = .arrived ∨ tl.node = .exch ∨ tl.node = .seal) → tl.launching = false →
      tl.inReg = true →
      ∃ t x, exec (.stop u) s = .next t ∧ t.tile u = x ∧ x.node = .stop ∧ restored x ∧ x.outKind = tl.outKind ∧
        ∀ w, w ≠ u → t.tile w = s.tile w)

/-- R169, R182, R185, R192, R194, R199, R217, R357, R418: the tile's other steps with the barrier: a self-test that ends leaves the list of
tests and counts, a failed one as a failure too. After a pass the data is lost where the scrub, or the failing word, is uncorrectable;
the noise source is healthy, the scale-out port or the boundary starts its numbers again, a boundary that the tile recorded, of its own module or of a partner's, carries frames again. After a
failure the structure waits for its spare; where none is left a Firefly row, or the tile, is fenced and its data lost (what fencing
a cell row does is DEDUCED, notes/assumptions/26.md). With no test and no remedy left the tile sends restore done and waits in HOLD; the seal arrival is sent once the exchange phase is over;
a delta that its home has room for is acknowledged, another is refused with cause 0x0A; a shaping window opens every 1,000 ns; the
oldest cause record is taken by a read. That a delta reaches its home after the close arrival is the model's choice (DESIGN CHOICE,
notes/assumptions/48.md). R192: a reconfiguration of the tree of a region is accepted where every tile of the region is quiescent, in
no region, stopped, waiting for its start after a commit, or set for its first superstep (R29), and refused, with a status to firmware, where one is not; that an accepted one changes nothing the model holds is
the model's choice (DEDUCED, notes/assumptions/39.md). -/
def Obligations.BarrierStepsRun : Prop :=
  (∀ (s : State) (k : Nat),
    let set (w : Nat) : Prop := (s.tile w).node = .relwait ∧ (s.tile w).fresh = true ∨ (s.tile w).node = .seal ∧ (s.tile w).launching = true ∧
      (s.tile w).launchPf = [] ∧ (s.tile w).haulQ = [] ∧ (s.tile w).haulStore = []
    ((∀ r, s.region? k = some r → ∀ w ∈ r.tiles, (s.tile w).inReg = false ∨ (s.tile w).node = .stop ∨ set w) →
      exec (.treeReconfigure k) s = .next s) ∧
    (∀ r, s.region? k = some r → (∃ w ∈ r.tiles, (s.tile w).inReg = true ∧ (s.tile w).node ≠ .stop ∧ ¬set w) →
      exec (.treeReconfigure k) s = .next { s with outs := s.outs ++ [.refused k] })) ∧
  ∀ (s : State) (u : Nat) (r : Region), s.regionOf u = some r → r.nmod = 1 →
    let tl := s.tile u
    (∀ unit bank row rest pass scrub, tl.node = .rollback → tl.tests = (unit, bank, row) :: rest →
      let d := dieOfTile u
      let m := modOfTile u
      let port := 16 * m + bank
      let still : Prop := unit = 0 ∧ 31 * row + bank ∈ tl.bad ∨ unit = 2 ∧ (∃ w ∈ tl.badAcc, w / 512 = bank ∧ w % 512 / 4 = row) ∨
        unit = 3 ∧ (∃ w ∈ tl.badSlot, w / 1024 = bank ∧ w % 1024 / 4 = row) ∨ unit = 7 ∧ (bank, row) ∈ tl.badMb
      let tileSpare : Prop := ∃ n : Fin 4, spareOn (s.die d).ctl.tspare[n] = false
      let rowSpare : Prop := ∃ i, i < 2 ∧ spareOn (kvGet 0 (s.die d).ctl.rsprow (u % 64 + 64 * (bank % 32) + 2048 * i)) = false
      let spared : Prop := (unit = 0 → rowSpare ∨ tileSpare) ∧ (unit = 1 ∨ unit = 2 ∨ unit = 3 ∨ unit = 7 → tileSpare) ∧
        (unit = 4 → bank = 0 → ∃ n : Fin 4, spareOn (s.die d).ff.spares[n] = false)
      ∃ t x, exec (.targetedSelfTestEnd u pass scrub) s = .next t ∧ t.tile u = x ∧
        (t.die d).qd.selfTests = (s.die d).qd.selfTests + 1 ∧
        (t.die d).qd.selfFails = (s.die d).qd.selfFails + (if pass = true then 0 else 1) ∧ (∀ w, w ≠ u → t.tile w = s.tile w) ∧
        (pass = true → x = { tl with tests := rest, lost := x.lost } ∧ (x.lost = true ↔ tl.lost = true ∨ scrub = false ∨ still) ∧
          (t.die d).ff.noiseOk = (if unit = 4 ∧ bank = 1 then true else (s.die d).ff.noiseOk) ∧
          (t.port port false = if unit = 5 then { s.port port false with nextSeq := 0, expected := 0, kept := [] } else s.port port false) ∧
          (unit = 6 → ∀ n, (bank, n) ∈ tl.linkMods → ∀ q ∈ endsOf n bank, (t.link q.1 q.2).up = true ∧ (t.link q.1 q.2).nextSeq = 0 ∧
            (t.link q.1 q.2).expected = 0 ∧ (t.link q.1 q.2).kept = [] ∧ ∀ w ∈ t.wires, (w.die, w.side) ≠ q) ∧
          (unit = 6 → ∀ e k, (∀ n, (bank, n) ∈ tl.linkMods → (e, k) ∉ endsOf n bank) → t.link e k = s.link e k) ∧
          (unit ≠ 6 → t.wires = s.wires ∧ ∀ e k, t.link e k = s.link e k)) ∧
        (pass = false → spared → x = { tl with tests := rest, unspared := tl.unspared ++ [(unit, bank, row)] }) ∧
        (pass = false → ¬spared → x = { tl with tests := rest, lost := true } ∧
          (unit = 4 → row ∈ (t.die d).ff.fenced ∧ (t.module m).deadTiles = (s.module m).deadTiles) ∧
          (unit ≠ 4 → u ∈ (t.module m).deadTiles))) ∧
    (tl.node = .rollback → tl.tests = [] → tl.unspared = [] → (s.module (modOfTile u)).alive = true →
      ∃ t q, exec (.rollbackWindowDone u) s = .next t ∧ t.tile u = { tl with node := .hold, linkMods := [] } ∧ t.up = s.up ++ [q] ∧ q.kind = 2 ∧
        q.ssn = tl.ssnum ∧ q.src = u ∧ q.lost = tl.lost) ∧
    (tl.node = .exch → tl.recorded = [] → tl.exchangeDone = true → s.incoming u = false → (s.module (modOfTile u)).alive = true →
      ∃ t q, exec (.sealArrivalSend u) s = .next t ∧ t.tile u = { tl with node := .seal } ∧ t.up = s.up ++ [q] ∧ q.kind = 1 ∧
        q.abort = false ∧ q.ssn = tl.ssnum ∧ q.src = u) ∧
    (∀ e x, tl.deltas[e]? = some x → x.acked = false → (tl.node = .arrived ∨ tl.node = .exch) →
      let d := 16 * modOfTile u + x.home
      (s.deltaUse d + x.room ≤ kvGet 256 r.hdEff d * 2 ^ 20 → ∃ t, exec (.deltaArrival u e) s = .next t ∧
        t.tile u = { tl with deltas := tl.deltas.set e { x with acked := true } }) ∧
      (kvGet 256 r.hdEff d * 2 ^ 20 < s.deltaUse d + x.room → ∃ t, exec (.deltaArrival u e) s = .next t ∧
        ⟨0x0A, none⟩ ∈ (t.tile u).recorded ∧ (t.tile u).tm = tl.tm)) ∧
    (tl.node = .run → tl.startClk + 4000 * (tl.mshWin.toNat + 1) ≤ s.clk → tl.mshWin.toNat < 65535 →
      ∃ t, exec (.shapingWindow u) s = .next t ∧ t.tile u = { tl with mshWin := tl.mshWin + 1, mshCnt := 0 }) ∧
    (∀ d x rest, (s.die d).qd.qcrec = x :: rest → ∃ t, exec (.qcrecRead d) s = .next t ∧ (t.die d).qd.qcrec = rest ∧
      ∀ k, t.tile k = s.tile k)

/-! ## CSRs and images -/

/-- R64-R66, R98, R111, R122, R135, R197, R247, R267, R397: what `csrr` reads and `csrw` writes on a tile core: the per-strand, per-core
and per-tile numbers with their values, the live strands, the eight window bounds and the holders of the accumulators among them; a write of a read-only number, and any use of a number that the core type lacks, raises cause 0x01
with the word; a die CSR raises cause 0x12. A service core has the numbers that every core type has, with its own values, and no other
below 0x300 (R64, R65). R64-R66, R135, R198, R218, R306, R335, R359, R387, R403, R430: on a service core
`csrr` reads every die CSR of its die, and `csrw` writes those that are not read-only; a die CSR with no action of its own takes
its fields of the value written, and nothing else of the die changes; one with an action of its own does what the firmware command of the same
name does (R331, R373, R380, R384, R385, R403, R418, R420, R422, R425, R427), and `ILMAPn` takes its schemes, the data of the regions
whose scheme changes being unspecified. Two clauses are the model's: a write of `RSVREG` (0x358) under which the fault pool is no reserved
region's loses its records (`lostSlots`, DESIGN CHOICE, notes/assumptions/56.md), and a write of `PPRCTL` (0x35B) or `ATTCTL` (0x37E) while the
unit is busy is ignored whole, where the rules say so of a further `GO` (DEDUCED, notes/assumptions/15.md). -/
def Obligations.CsrsComplete : Prop :=
  (∀ (s : State) (u : Nat) (me : Fin 10) (d b : BitVec 5) (n : BitVec 12), s.turn = .tile u me →
    let tl := s.tile u
    let g := s.me
    let v := s.rx b
    let word (i : Instr) : W := BitVec.ofNat 64 (wordOf i)
    (∀ x : W, (n, x) ∈ [(0x000#12, BitVec.ofNat 64 me.val), (0x001#12, BitVec.ofNat 64 (g.causeCode.toNat + g.causeInh.toNat * 256)),
        (0x002#12, g.epc), (0x003#12, g.faddr), (0x004#12, g.tvec), (0x005#12, tl.ssnum.setWidth 64), (0x008#12, g.scratch),
        (0x007#12, BitVec.ofNat 64 (g.wdogLimit.toNat + s.wdogCount g * 2 ^ 32)),
        (0x100#12, if me.val < 8 then 0 else if me.val = 8 then 1 else 2),
        (0x101#12, BitVec.ofNat 64 (s.clk - (s.module (modOfTile u)).resetClk)), (0x102#12, s.retiredOf s.turn),
        (0x200#12, tl.cur.vmask.setWidth 64), (0x209#12, tl.slot.setWidth 64), (0x20A#12, tl.mshWin.setWidth 64),
        (0x20B#12, BitVec.ofNat 64 tl.mshCnt), (0x20C#12, BitVec.ofNat 64 tl.mshLim), (0x20D#12, BitVec.ofNat 64 u),
        (0x20E#12, BitVec.ofNat 64 (tl.region.toNat + tl.inReg.toNat * 2 ^ 20 + tl.space.toNat * 2 ^ 32)),
        (0x20F#12, BitVec.ofNat 64 tl.vsuse)] →
      Completes (.csrr d n) s (g.wx d x).past) ∧
    (∀ k : Fin 8, n.toNat = 0x201 + k.val → Completes (.csrr d n) s (g.wx d (BitVec.ofNat 64 (tl.cur.win[k].toNat * 16))).past ∧
      CompletesIn (.csrw b n) s g.past
        (fun tl => { tl with cur := { tl.cur with win := tl.cur.win.set k (BitVec.ofNat 17 (v.toNat / 16)) } })) ∧
    (me.val < 8 → ∃ y : W, Completes (.csrr d 0x105) s (g.wx d y).past ∧ y.toNat < 256 ∧
      ∀ a : Fin 10, a.val < 8 → (y.getLsbD a.val = true ↔ (tl.cur.agents[a]).st ≠ .free)) ∧
    (let none (k : BitVec 12) : Prop := Traps (.csrr d k) s 0x01 (word (.csrr d k)) ∧ Traps (.csrw b k) s 0x01 (word (.csrw b k))
     (8 ≤ me.val → none 0x105 ∧ none 0x006) ∧ (me.val ≠ 9 → none 0x103 ∧ none 0x104) ∧
     (¬(n.toNat ≤ 8 ∨ 0x100 ≤ n.toNat ∧ n.toNat ≤ 0x105 ∨ 0x200 ≤ n.toNat ∧ n.toNat ≤ 0x210) → isDieCsr n.toNat = false → none n)) ∧
    ((∀ (k : Fin 16) (h : Fin 10) p, tl.cur.accSt[k] = .held h p → h.val < 8) →
      ∃ y : W, Completes (.csrr d 0x210) s (g.wx d y).past ∧ ∀ k : Fin 16,
        (tl.cur.accSt[k] = .free → y.toNat / 2 ^ (4 * k.val) % 16 = 0) ∧
        ∀ h p, tl.cur.accSt[k] = .held h p → y.toNat / 2 ^ (4 * k.val) % 16 = h.val + 8) ∧
    (me.val < 8 → Completes (.csrr d 0x006) s (g.wx d (g.prio.setWidth 64)).past ∧
      Completes (.csrw b 0x006) s { g with prio := v.setWidth 3 }.past ∧
      Traps (.csrw b 0x105) s 0x01 (word (.csrw b 0x105))) ∧
    (me.val = 9 → Completes (.csrr d 0x103) s (g.wx d (BitVec.ofNat 64 tl.cur.srkey.toNat)).past ∧
      Completes (.csrr d 0x104) s (g.wx d (BitVec.ofNat 64 (tl.cur.srkey.toNat / 2 ^ 64))).past ∧
      CompletesIn (.csrw b 0x103) s g.past (fun tl => { tl with cur := { tl.cur with
        srkey := BitVec.ofNat 128 (tl.cur.srkey.toNat / 2 ^ 64 * 2 ^ 64 + v.toNat) } }) ∧
      CompletesIn (.csrw b 0x104) s g.past (fun tl => { tl with cur := { tl.cur with
        srkey := BitVec.ofNat 128 (tl.cur.srkey.toNat % 2 ^ 64 + v.toNat * 2 ^ 64) } })) ∧
    Completes (.csrw b 0x001) s { g with causeCode := v.setWidth 8, causeInh := decide (v.toNat / 256 % 2 = 1) }.past ∧
    Completes (.csrw b 0x002) s { g with epc := v }.past ∧ Completes (.csrw b 0x003) s { g with faddr := v }.past ∧
    Completes (.csrw b 0x004) s { g with tvec := v }.past ∧ Completes (.csrw b 0x008) s { g with scratch := v }.past ∧
    Completes (.csrw b 0x007) s { g with wdogLimit := v.setWidth 32 }.past ∧
    CompletesIn (.csrw b 0x200) s g.past (fun tl => { tl with cur := { tl.cur with vmask := v.setWidth 31 } }) ∧
    (csrReadOnly n.toNat = true → Traps (.csrw b n) s 0x01 (word (.csrw b n))) ∧
    (isDieCsr n.toNat = true → Traps (.csrr d n) s 0x12 (word (.csrr d n)) ∧ Traps (.csrw b n) s 0x12 (word (.csrw b n)))) ∧
  (∀ (s : State) (e : Nat) (c : Fin 2) (d b : BitVec 5) (n : BitVec 12), s.turn = .svc e c →
    let g := s.me
    let v := s.rx b
    let word (i : Instr) : W := BitVec.ofNat 64 (wordOf i)
    (∀ x : W, (n, x) ∈ [(0x000#12, BitVec.ofNat 64 (10 + c.val)), (0x001#12, BitVec.ofNat 64 (g.causeCode.toNat + g.causeInh.toNat * 256)),
        (0x002#12, g.epc), (0x003#12, g.faddr), (0x004#12, g.tvec), (0x008#12, g.scratch),
        (0x007#12, BitVec.ofNat 64 (g.wdogLimit.toNat + s.wdogCount g * 2 ^ 32)), (0x100#12, 3),
        (0x101#12, BitVec.ofNat 64 (s.clk - (s.module (modOfDie e)).resetClk)), (0x102#12, s.retiredOf s.turn)] →
      Completes (.csrr d n) s (g.wx d x).past) ∧
    Completes (.csrw b 0x001) s { g with causeCode := v.setWidth 8, causeInh := decide (v.toNat / 256 % 2 = 1) }.past ∧
    Completes (.csrw b 0x002) s { g with epc := v }.past ∧ Completes (.csrw b 0x003) s { g with faddr := v }.past ∧
    Completes (.csrw b 0x004) s { g with tvec := v }.past ∧ Completes (.csrw b 0x008) s { g with scratch := v }.past ∧
    Completes (.csrw b 0x007) s { g with wdogLimit := v.setWidth 32 }.past ∧
    (n ∈ [0x000#12, 0x100#12, 0x101#12, 0x102#12] → Traps (.csrw b n) s 0x01 (word (.csrw b n))) ∧
    (n ∉ [0x000#12, 0x001#12, 0x002#12, 0x003#12, 0x004#12, 0x007#12, 0x008#12, 0x100#12, 0x101#12, 0x102#12] → isDieCsr n.toNat = false →
      Traps (.csrr d n) s 0x01 (word (.csrr d n)) ∧ Traps (.csrw b n) s 0x01 (word (.csrw b n)))) ∧
  (∀ (s : State) (e : Nat) (c : Fin 2) (b : BitVec 5), s.turn = .svc e c →
    let x := s.die e
    let m := modOfDie e
    let y := s.module m
    let v := s.rx b
    let go : Prop := v.toNat / 2 ^ 63 = 1
    let does (k : Nat) (i : Instr) : Prop := ∀ y, exec i s = .next y →
      ∃ t, exec (.csrw b (BitVec.ofNat 12 k)) s = .next t ∧ Only y t s.turn s.me.past id
    let put (k : Nat) (f : Die → Die) : Prop := ∃ t, exec (.csrw b (BitVec.ofNat 12 k)) s = .next t ∧ t.agentOf s.turn = s.me.past ∧
      (t.die e).but c = (f x).but c ∧ (∀ u, t.tile u = s.tile u) ∧ (∀ k, k ≠ e → t.die k = s.die k) ∧ ∀ m, t.module m = s.module m
    let rctl (i : Instr) : Prop := ∀ y, exec i s = .next y → ∃ t, exec (.csrw b 0x360) s = .next t ∧ Only y t y.turn y.me.past id
    (∀ k : Nat, (0x333 ≤ k ∧ k ≤ 0x336) ∨ (0x375 ≤ k ∧ k ≤ 0x378) ∨ k = 0x37A ∨ k = 0x37B →
      does k (.spareControlWrite e (BitVec.ofNat 12 k) v)) ∧
    does 0x351 (.fqbaseWrite e v) ∧ does 0x370 (.pcapWrite e v) ∧ does 0x371 (.pslewWrite e v) ∧ does 0x37C (.throtWrite e v) ∧
    (x.mc.physa.toNat % 8 = 0 → does 0x354 (.physdWrite e v)) ∧
    (go → does 0x359 (.migrationStart e v) ∧ does 0x35B (.pprStart e v) ∧ does 0x37E (.attestationStart e v)) ∧
    (¬go → put 0x359 (fun x => { x with mc := { x.mc with migCtl := v.setWidth 40 } }) ∧
      put 0x35B (fun x => if x.mc.pprBusy = true then x else { x with mc := { x.mc with pprCtl := v.setWidth 30 } }) ∧
      put 0x360 (fun x => { x with ctl := { x.ctl with rctl := v.setWidth 23 } }) ∧
      ∃ t, exec (.csrw b 0x37E) s = .next t ∧ t.agentOf s.turn = s.me.past ∧
        t.module m = (if y.attBusy = true then y else { y with attPa := v.setWidth 40 }) ∧
        (∀ u, t.tile u = s.tile u) ∧ ∀ k, k ≠ m → t.module k = s.module k) ∧
    (let op := v.toNat / 2 ^ 20 % 8
     let id : BitVec 20 := v.setWidth 20
     go → (op = 1 → rctl (.rctlHold e id)) ∧ (op = 2 → rctl (.rctlFree e id)) ∧ (op = 3 → rctl (.rctlResume e id)) ∧
      (op = 4 → rctl (.rctlDiscard e id)) ∧
      (op = 0 ∨ 5 ≤ op → put 0x360 (fun x => { x with ctl := { x.ctl with rctl := v.setWidth 23 } }))) ∧
    (∃ t, exec (.csrw b 0x37D) s = .next t ∧ t.agentOf s.turn = s.me.past ∧
      t.module m = { y with podLat := BitVec.ofNat 16 (v.toNat / 2 ^ 32) } ∧ (∀ u, t.tile u = s.tile u) ∧
      ∀ k, k ≠ m → t.module k = s.module k) ∧
    ∀ k : Fin 3, ∃ t, exec (.csrw b (BitVec.ofNat 12 (0x355 + k.val))) s = .next t ∧ t.agentOf s.turn = s.me.past ∧
      (t.die e).but c = { x with mc := { x.mc with ilmap := x.mc.ilmap.set k (v &&& 0x7777777777777777#64) } }.but c ∧
      (∀ u, t.tile u = s.tile u) ∧ (∀ j, j ≠ e → t.die j = s.die j) ∧ (∀ j, j ≠ m → t.module j = s.module j) ∧
      ∀ z, let g := z / 2 ^ 34
        g / 16 ≠ k.val ∨ x.mc.ilmap[k].toNat / 2 ^ (4 * (g % 16)) % 8 = v.toNat / 2 ^ (4 * (g % 16)) % 8 →
          (t.module m).hbm.get z = y.hbm.get z) ∧
  (∀ (s : State) (e : Nat) (c : Fin 2) (d b : BitVec 5) (n : BitVec 12), s.turn = .svc e c → isDieCsr n.toNat = true →
    let x := s.die e
    let v := s.rx b
    let put (k : BitVec 12) (f : Die → Die) : Prop := ∃ t, exec (.csrw b k) s = .next t ∧ t.agentOf s.turn = s.me.past ∧
      (t.die e).but c = (f x).but c ∧ (∀ u, t.tile u = s.tile u) ∧ (∀ k, k ≠ e → t.die k = s.die k) ∧ ∀ m, t.module m = s.module m
    (n ≠ 0x305 → n ≠ 0x354 → n ≠ 0x35C → Completes (.csrr d n) s (s.me.wx d (s.dieCsr e n.toNat)).past) ∧
    (let y := s.module (modOfDie e)
     let nat (k : Nat) : W := BitVec.ofNat 64 k
     ∀ z : W, (n, z) ∈ [(0x300#12, s.podTime (modOfDie e) s.clk), (0x301#12, x.qd.commit), (0x302#12, x.qd.abort),
        (0x303#12, nat (x.qd.selfTests.toNat + x.qd.selfFails.toNat * 2 ^ 32)), (0x304#12, x.qd.late), (0x306#12, x.qd.shape.setWidth 64),
        (0x310#12, x.mc.hdsize.setWidth 64), (0x320#12, nat (x.ex.coll.toNat + x.ex.win.toNat * 2 ^ 32)),
        (0x321#12, x.ex.held.setWidth 64), (0x322#12, x.ex.drop), (0x330#12, x.ff.ewin.setWidth 64), (0x331#12, x.ff.sweeps),
        (0x332#12, nat x.ff.noiseOk.toNat), (0x333#12, x.ff.spares[0]), (0x334#12, x.ff.spares[1]), (0x335#12, x.ff.spares[2]),
        (0x336#12, x.ff.spares[3]), (0x340#12, x.lk.ctmo.setWidth 64), (0x341#12, x.lk.cbsize.setWidth 64),
        (0x342#12, x.lk.olcfg.setWidth 64), (0x343#12, nat (x.lk.port.up.toNat + x.lk.port.replay.toNat * 2 ^ 32)),
        (0x344#12, x.lk.fails)] ++
       [(0x350#12, nat x.mc.fmodeRec.toNat), (0x351#12, nat (x.mc.fqBase.toNat + x.mc.fqSz.toNat * 2 ^ 40)),
        (0x353#12, nat (x.mc.physa.toNat + x.mc.physUE.toNat * 2 ^ 63)), (0x355#12, x.mc.ilmap[0]), (0x356#12, x.mc.ilmap[1]),
        (0x357#12, x.mc.ilmap[2]), (0x358#12, x.mc.rsvN.setWidth 64), (0x359#12, x.mc.migCtl.setWidth 64),
        (0x35A#12, nat (x.mc.migBusy.toNat + x.mc.migRefused.toNat * 2 + x.mc.migTable.length * 2 ^ 16)),
        (0x35B#12, nat (x.mc.pprCtl.toNat + x.mc.pprBusy.toNat * 2 ^ 61 + x.mc.pprFail.toNat * 2 ^ 62)),
        (0x360#12, x.ctl.rctl.setWidth 64), (0x361#12, x.ctl.rcbpa.setWidth 64), (0x370#12, y.pcap.setWidth 64),
        (0x371#12, y.pslew.setWidth 64), (0x372#12, nat (y.pwr.toNat + y.caplim.toNat * 2 ^ 16 + y.powerOver.toNat * 2 ^ 24 +
          y.slewHold.toNat * 2 ^ 32)), (0x374#12, nat (x.ctl.corrSram.toNat + x.ctl.corrHbm.toNat * 2 ^ 32)),
        (0x375#12, x.ctl.tspare[0]), (0x376#12, x.ctl.tspare[1]), (0x377#12, x.ctl.tspare[2]), (0x378#12, x.ctl.tspare[3]),
        (0x379#12, x.ctl.rspsel.setWidth 64), (0x37B#12, y.lfence.setWidth 64),
        (0x37C#12, nat (x.ctl.tempDie.toNat + x.ctl.tempHbm.toNat * 2 ^ 8 + x.ctl.throt.toNat * 2 ^ 16)),
        (0x37D#12, nat (y.ptpLock.toNat + y.ptpOfs.toNat * 2 ^ 16 + y.podLat.toNat * 2 ^ 32)),
        (0x37E#12, nat (y.attPa.toNat + y.attBusy.toNat * 2 ^ 62)), (0x37F#12, y.bootstat)] →
      Completes (.csrr d n) s (s.me.wx d z).past) ∧
    (∀ r, x.qd.qcrec = r :: [] → ∃ t, exec (.csrr d 0x305) s = .next t ∧ t.agentOf s.turn = (s.me.wx d r).past ∧
      (t.die e).qd.qcrec = []) ∧
    (dieReadOnly n.toNat = true → Traps (.csrw b n) s 0x01 (BitVec.ofNat 64 (wordOf (.csrw b n)))) ∧
    (x.mc.physa.toNat % 8 ≠ 0 → Traps (.csrr d 0x354) s 0x03 (x.mc.physa.setWidth 64) ∧
      Traps (.csrw b 0x354) s 0x03 (x.mc.physa.setWidth 64)) ∧
    put 0x306 (fun x => { x with qd := { x.qd with shape := v.setWidth 48 } }) ∧
    put 0x310 (fun x => { x with mc := { x.mc with hdsize := v.setWidth 16 } }) ∧
    put 0x330 (fun x => { x with ff := { x.ff with ewin := v.setWidth 3 } }) ∧
    put 0x340 (fun x => { x with lk := { x.lk with ctmo := v.setWidth 32 } }) ∧
    put 0x341 (fun x => { x with lk := { x.lk with cbsize := v.setWidth 16 } }) ∧
    put 0x342 (fun x => { x with lk := { x.lk with olcfg := v.setWidth 56 } }) ∧
    put 0x350 (fun x => { x with mc := { x.mc with fmodeRec := decide (v.toNat % 2 = 1) } }) ∧
    put 0x353 (fun x => { x with mc := { x.mc with physa := v.setWidth 40 } }) ∧
    put 0x358 (fun x => let mc := { x.mc with rsvN := v.setWidth 6 }
      { x with mc := { mc with lostSlots := if mc.poolOk = true then mc.lostSlots else mc.busySlots } }) ∧
    put 0x361 (fun x => { x with ctl := { x.ctl with rcbpa := v.setWidth 40 } }) ∧
    put 0x379 (fun x => { x with ctl := { x.ctl with rspsel := v.setWidth 12 } }) ∧
    ∃ t, exec (.csrw b 0x370) s = .next t ∧ t.agentOf s.turn = s.me.past ∧
      (t.module (modOfDie e)).pcap.toNat = min 7500 (max 4000 (v.toNat % 2 ^ 13)) ∧ ∀ u, t.tile u = s.tile u)

/-- R407-R410: `ctxsv` and `ctxld` make their checks in order, cause 0x03 for an address that is not 4 KiB aligned, 0x07 for an image
past the HBM, a tile of another module, one that is not quiescent or is copied already, one in no region (`ctxsv`), one in a region or an
image without `VALID` (`ctxld`); then the copy runs, and the core stalls until it ends. `ctxsv` then has written the image, at the offsets
of R409 and R410, and nothing outside it; `ctxld` has made the tile what the image holds. That a copy's effect comes whole at its end is the
model's choice (DESIGN CHOICE, notes/assumptions/32.md). -/
def Obligations.ContextImages : Prop :=
  ∀ (s : State) (e : Nat) (c : Fin 2) (a b : BitVec 5), s.turn = .svc e c →
    let pa := (s.rx b).toNat
    (s.copyOf s.turn = none →
      let u := (s.rx a).toNat
      let m := modOfDie e
      let tl := s.tile u
      let both (k : Nat) (x : W) : Prop := Traps (.ctxsv a b) s k x ∧ Traps (.ctxld a b) s k x
      let busy : Prop := tl.quiescent = false ∨ ∃ k ∈ s.copies, k.2.tile = u
      let starts (i : Instr) (g : BitVec 20) : Prop := ∃ t, exec i s = .next t ∧ t.copyOf s.turn = some ⟨u, g, wordOf i⟩ ∧
        (∀ w, t.agentOf w = s.agentOf w) ∧ (∀ k, t.tile k = s.tile k) ∧ ∀ n, t.module n = s.module n
      let head := s.hbmNat m pa 8
      (pa % 4096 ≠ 0 → both 0x03 (s.rx b)) ∧
      (pa % 4096 = 0 → 0xC000000000 < pa + 0x280000 → both 0x07 (s.rx b)) ∧
      (pa % 4096 = 0 → pa + 0x280000 ≤ 0xC000000000 →
        (2 ^ 28 ≤ u ∨ modOfTile u ≠ m → both 0x07 (s.rx a)) ∧
        (u < 2 ^ 28 → modOfTile u = m → (busy → both 0x07 (s.rx a)) ∧
          (¬busy → (tl.inReg = false → Traps (.ctxsv a b) s 0x07 (s.rx a)) ∧ (tl.inReg = true → Traps (.ctxld a b) s 0x07 (s.rx a)) ∧
            (tl.inReg = true → starts (.ctxsv a b) tl.region) ∧
            (tl.inReg = false → s.hbmBad m pa 8 = none →
              (head / 2 ^ 63 = 0 → Traps (.ctxld a b) s 0x07 (s.rx a)) ∧
              (head / 2 ^ 63 = 1 → starts (.ctxld a b) (BitVec.ofNat 20 head))))))) ∧
    (∀ k, s.copyOf s.turn = some k → pa + 0x280000 ≤ 0xC000000000 →
      let u := k.tile
      let m := modOfTile u
      let tl := s.tile u
      let ended (t : State) : Prop := t.agentOf s.turn = s.me.past ∧ t.retiredOf s.turn = s.retiredOf s.turn + 1 ∧ t.copyOf s.turn = none ∧
        ∀ j, j ≠ u → t.tile j = s.tile j
      ((∀ o ∈ tl.cur.outbox, o.data.length = 64 ∧ o.dst < 2 ^ 28) → ∃ t, exec (.ctxsv a b) s = .next t ∧ ended t ∧ t.tile u = tl ∧
        (let at' (o n : Nat) : Nat := t.hbmNat m (pa + o) n
         let byte (x : Nat) : Byte := (t.module m).hbm.get (pa + x)
         at' 0 8 = tl.region.toNat + u * 2 ^ 20 + 2 ^ 63 ∧ at' 8 8 = tl.ssnum.toNat ∧ at' 0x10 8 = tl.red.toNat ∧
         (∀ n : Fin 16, (tl.cur.accSt[n] = .free → at' 0x18 8 / 2 ^ (4 * n.val) % 16 = 0) ∧
           ∀ h p, tl.cur.accSt[n] = .held h p → h.val < 8 → at' 0x18 8 / 2 ^ (4 * n.val) % 16 = h.val + p.toNat * 8) ∧
         (∀ q : Fin 4, at' (0x20 + 8 * q.val) 8 = (tl.cur.mbHead[q]).toNat + (tl.cur.mbCount[q]).toNat * 2 ^ 8) ∧
         at' 0x40 8 = min 256 tl.cur.outbox.length ∧
         (∀ j : Fin 10, let g := tl.cur.agents[j]
           let ctx (o n : Nat) : Nat := at' (0x1000 + 0x1000 * j.val + o) n
           ctx 0 8 = g.pc.toNat ∧ ctx 0x08 2 = g.st.code ∧ ctx 0x0A 2 = g.depth.toNat ∧ (j.val < 8 → ctx 0x10 8 = g.mctx.toNat) ∧
           (∀ r : BitVec 5, ctx (0x100 + 8 * r.toNat) 8 = (g.rx r).toNat ∧ ctx (0x400 + 64 * r.toNat) 64 = (g.rv r).toNat) ∧
           (∀ r : BitVec 3, ctx 0x200 8 / 2 ^ r.toNat % 2 = (g.rp r).toNat) ∧
           ctx 0xC08 8 = g.causeCode.toNat + g.causeInh.toNat * 256 ∧ ctx 0xC10 8 = g.epc.toNat ∧ ctx 0xC18 8 = g.faddr.toNat ∧
           ctx 0xC20 8 = g.tvec.toNat ∧ (j.val < 8 → ctx 0xC30 8 = g.prio.toNat) ∧ ctx 0xC38 4 = g.wdogLimit.toNat ∧
           ctx 0xC40 8 = g.scratch.toNat ∧
           (j.val = 8 → (g.group = none → ctx 0x60 8 = 0) ∧ ∀ G, g.group = some G → ctx 0x40 32 = G.toNat ∧ ctx 0x60 8 = 1)) ∧
         (∀ r : Fin 16, at' (0xB000 + 32 * r.val) 32 = tl.cur.recW[r].toNat ∧ at' (0xB200 + 32 * r.val) 32 = tl.cur.recH[r].toNat ∧
           at' (0xB400 + 32 * r.val) 32 = tl.cur.recS[r].toNat) ∧
         (let csr (n : Nat) : Nat := at' (0xB800 + 8 * (n - 0x100)) 8
          csr 0x200 = tl.cur.vmask.toNat ∧ (∀ i : Fin 8, csr (0x201 + i.val) = tl.cur.win[i].toNat * 16) ∧ csr 0x209 = tl.slot.toNat ∧
          csr 0x103 + csr 0x104 * 2 ^ 64 = tl.cur.srkey.toNat) ∧
         (∀ k : Fin 64, at' (0xD000 + 8 * k.val) 8 = tl.cur.sems[k].toNat) ∧
         (∀ w, w < 126976 → ((byte (0xE000 + w / 8)).getLsbD (w % 8) = true ↔ w ∈ tl.cur.fe)) ∧
         (∀ x, x < 0x4000 → byte (0x12000 + x) = tl.mbx.get x) ∧
         (∀ j o, tl.cur.outbox[j]? = some o → j < 256 → (∀ x, x < 64 → byte (0x16000 + 128 * j + x) = o.data.getD x 0) ∧
           at' (0x16040 + 128 * j) 8 = o.dst + o.prio % 4 * 2 ^ 28 + o.spawn.toNat * 2 ^ 30 + 2 ^ 63) ∧
         (∀ n : Fin 16, ∀ x, x < 8192 → byte (0x20000 + 8192 * n.val + x) =
           if ∃ h, tl.cur.accSt[n] = .held h true then (tl.accBytes n.val).getD x 0
           else (s.module m).hbm.get (pa + (0x20000 + 8192 * n.val + x))) ∧
         (∀ x, x < 0x40000 → byte (0x40000 + x) = tl.slotMem.get x) ∧
         (∀ n : Fin 16, let d := tl.slotDesc[n]
           let desc (o n' : Nat) : Nat := at' (0x80000 + 1024 * n.val + o) n'
           (∀ h, d.image = some h → desc 0 8 = (h.fmt + h.mode * 2 ^ 8 + h.slots * 2 ^ 12 + h.nnz * 2 ^ 16 + h.bodyLen * 2 ^ 32) % 2 ^ 64) ∧
           desc 8 1 = d.image.isSome.toNat + d.cont.toNat * 2 ∧ desc 9 1 = d.scale.toNat ∧
           ∀ j, j < 512 → byte (0x80010 + 1024 * n.val + j) = d.cols.getD j 0) ∧
         (∀ x, x < 0x1F0000 → byte (0x90000 + x) = tl.tm.get x) ∧
         ∀ x, x < pa ∨ pa + 0x280000 ≤ x → (t.module m).hbm.get x = (s.module m).hbm.get x)) ∧
      ((s.module m).badHbm = [] → ∃ t x, exec (.ctxld a b) s = .next t ∧ ended t ∧ (∀ n, t.module n = s.module n) ∧ t.tile u = x ∧
        (let at' (o n : Nat) : Nat := s.hbmNat m (pa + o) n
         let byte (x : Nat) : Byte := (s.module m).hbm.get (pa + x)
         let field (v lo n : Nat) : Nat := v / 2 ^ lo % 2 ^ n
         x.node = .stop ∧ x.inReg = true ∧ x.region.toNat = at' 0 8 % 2 ^ 20 ∧ x.ssnum.toNat = at' 8 8 % 2 ^ 48 ∧ x.red.toNat = at' 0x10 8 ∧
         x.shadow = x.cur ∧ x.vs = [] ∧
         (∀ n : Fin 16, if field (at' 0x18 8) (4 * n.val + 3) 1 = 1 then (∃ h, x.cur.accSt[n] = .held h true ∧ h.val = field (at' 0x18 8) (4 * n.val) 3) ∧
             ∀ y, y < 8192 → x.acc.get (8192 * n.val + y) = byte (0x20000 + 8192 * n.val + y)
           else x.cur.accSt[n] = .free) ∧
         (∀ q : Fin 4, (x.cur.mbHead[q]).toNat = field (at' (0x20 + 8 * q.val) 8) 0 6 ∧ (x.cur.mbCount[q]).toNat = field (at' (0x20 + 8 * q.val) 8) 8 7) ∧
         (∀ j : Fin 10, let g := x.cur.agents[j]
           let ctx (o n : Nat) : Nat := at' (0x1000 + 0x1000 * j.val + o) n
           g.pc.toNat = ctx 0 8 / 4 * 4 ∧ (ctx 0x08 1 % 8 < 7 → g.st.code = ctx 0x08 1 % 8) ∧ g.depth.toNat = ctx 0x0A 2 ∧
           (j.val < 8 → g.mctx.toNat = ctx 0x10 8 % 2 ^ 12) ∧ g.streams = [] ∧ g.deferred = none ∧
           (∀ r : BitVec 5, (r ≠ 0 → (g.rx r).toNat = ctx (0x100 + 8 * r.toNat) 8) ∧ (g.rv r).toNat = ctx (0x400 + 64 * r.toNat) 64) ∧
           (∀ r : BitVec 3, r ≠ 0 → (g.rp r).toNat = field (ctx 0x200 8) r.toNat 1) ∧
           g.causeCode.toNat = ctx 0xC08 1 ∧ g.causeInh.toNat = field (ctx 0xC08 8) 8 1 ∧ g.epc.toNat = ctx 0xC10 8 ∧
           g.faddr.toNat = ctx 0xC18 8 ∧ g.tvec.toNat = ctx 0xC20 8 ∧ (j.val < 8 → g.prio.toNat = ctx 0xC30 1 % 8) ∧
           g.wdogLimit.toNat = ctx 0xC38 4 ∧ g.scratch.toNat = ctx 0xC40 8 ∧
           (j.val = 8 → g.group = if ctx 0x60 8 % 2 = 1 then some (BitVec.ofNat 256 (ctx 0x40 32) &&& grpMask) else none)) ∧
         (∀ r : Fin 16, let rc (o : Nat) : Rec := BitVec.ofNat 256 (at' (o + 32 * r.val) 32) &&& 0x10F001FFFFF001FFFFF001FFFFF001FFFFF#256
           x.cur.recW[r] = rc 0xB000 ∧ x.cur.recH[r] = rc 0xB200 ∧ x.cur.recS[r] = rc 0xB400) ∧
         (let csr (n : Nat) : Nat := at' (0xB800 + 8 * (n - 0x100)) 8
          x.cur.vmask.toNat = csr 0x200 % 2 ^ 31 ∧ (∀ i : Fin 8, x.cur.win[i].toNat = field (csr (0x201 + i.val)) 4 17) ∧
          x.slot.toNat = csr 0x209 % 2 ^ 6 ∧ x.cur.srkey.toNat = csr 0x103 + csr 0x104 * 2 ^ 64) ∧
         (∀ k : Fin 64, x.cur.sems[k].toNat = at' (0xD000 + 8 * k.val) 2) ∧
         (∀ w, w < 126976 → (w ∈ x.cur.fe ↔ (byte (0xE000 + w / 8)).getLsbD (w % 8) = true)) ∧
         (∀ y, y < 0x4000 → x.mbx.get y = byte (0x12000 + y)) ∧
         (let n := min 256 (at' 0x40 8 % 512)
          let word (j : Nat) : Nat := at' (0x16040 + 128 * j) 8
          (∀ j, j < n → word j / 2 ^ 63 = 1) → x.cur.outbox.length = n ∧ ∀ j, j < n → ∃ o, x.cur.outbox[j]? = some o ∧
            o.dst = word j % 2 ^ 28 ∧ o.prio = field (word j) 28 2 ∧ o.spawn.toNat = field (word j) 30 1 ∧ o.data.length = 64 ∧
            ∀ y, y < 64 → o.data.getD y 0 = byte (0x16000 + 128 * j + y)) ∧
         (∀ n : Fin 16, let d := x.slotDesc[n]
           let desc (o n' : Nat) : Nat := at' (0x80000 + 1024 * n.val + o) n'
           let h := desc 0 8
           d.image = (if desc 8 1 % 2 = 1 then some ⟨field h 0 4, field h 8 1, field h 12 2, field h 32 32, field h 16 16⟩ else none) ∧
           d.cont.toNat = field (desc 8 1) 1 1 ∧ d.scale.toNat = desc 9 1 ∧ ∀ j, j < 512 → d.cols.getD j 0 = byte (0x80010 + 1024 * n.val + j)) ∧
         (∀ y, y < 0x1F0000 → x.tm.get y = byte (0x90000 + y)) ∧ ∀ y, y < 0x40000 → x.slotMem.get y = byte (0x40000 + y))))

/-! ## Regions -/

/-- R393-R395, R398, R415, R435: the launch unit takes the head of a launch queue of a module: it refuses one that fails a check, with EVENT 4 and
the address that failed; it starts a startable one: every tile of the map holds its image, zero beyond it, its strands of `SMASK` and
both harts SYNCED at their entries with `X[3]` the tile's place, `X[4]` NTILES and `X[5]` the address; once every tile is set, the first
release goes out; and tiles that are not set within `TMO` stop the launch with cause 0x15. R426: before the boot ROM has set
`BOOTSTAT.OK` nothing is launched. Stated for a module with one head, every remap replayed (R385), and a region of one module. The release instant is rounded up to
an even clk (DEDUCED, notes/assumptions/37.md) and told by the tile's module (DEDUCED, notes/assumptions/49.md); that EVENT 1 leaves as
the launch begins, and that the FAULT event of the timeout names the first tile not set, are the model's readings (DEDUCED,
notes/assumptions/36.md). -/
def Obligations.LaunchRuns : Prop :=
  ∀ (s : State) (m : Nat) (q : Fin 16) (pa : Nat), (s.module m).alive = true →
    ((s.module m).bootOk = false → exec (.regionLaunch m) s = .next s) ∧
    ((s.module m).bootOk = true →
    let f := (s.rcbFields m (s.rcbChain m 9 pa)).headD rcbDefaults
    let id := s.rcbRegion m pa
    (s.openHeads m = [(q, pa)] → s.rcbNmod m pa = 1 →
      (∀ bad, s.launchCheck m pa = some bad → s.hbmBad m bad 8 = none →
        ∃ t, exec (.regionLaunch m) s = .next t ∧ t.outs = s.outs ++ [.event m 4 id.toNat f.ssn0 0 0 bad] ∧
          t.regions = s.regions ∧ (∀ u, t.tile u = s.tile u) ∧
          (t.module m).queues[q].waiting = (s.module m).queues[q].waiting.drop 1) ∧
      (s.launchCheck m pa = none → s.startable m pa = true → f.ffnrows = 0 → (s.module m).unrepaired = [] →
        ∃ t r, exec (.regionLaunch m) s = .next t ∧ t.regions = s.regions ++ [r] ∧ r.id = id ∧ r.phase = .launching ∧ r.nmod = 1 ∧
          r.ssn.toNat = f.ssn0 % 2 ^ 48 ∧ r.tiles = (s.rcbMap m pa).map (fun e => e.tile) ∧
          t.outs = s.outs ++ [.event m 1 id.toNat f.ssn0 0 0 pa] ∧ (t.module m).queues[q].cur = some r.serial ∧
          (∀ e k, (s.rcbMap m pa)[k]? = some e → ∃ x, t.tile e.tile = x ∧ x.node = .seal ∧ x.inReg = true ∧ x.region = id ∧
            x.ssnum.toNat = f.ssn0 % 2 ^ 48 ∧ x.slot.toNat = e.slot % 64 ∧ x.vs = [] ∧ x.launching = true ∧
            (∀ y, y < e.imgLen → x.tm.get y = (s.module m).hbm.get (e.img + y)) ∧ (∀ y, e.imgLen ≤ y → x.tm.get y = 0) ∧
            ∀ a : Fin 10, let g := x.cur.agents[a]
              let pc := if a.val = 8 then e.hpc else if a.val = 9 then e.xpc else e.spc
              (8 ≤ a.val ∨ e.smask / 2 ^ a.val % 2 = 1 → g.st = .synced ∧ g.sync = none ∧ g.pc = BitVec.ofNat 64 pc ∧
                g.rx 3 = BitVec.ofNat 64 k ∧ g.rx 4 = BitVec.ofNat 64 (s.rcbNtiles m pa) ∧ g.rx 5 = BitVec.ofNat 64 pa ∧
                g.rx 1 = 0 ∧ g.tvec = 0 ∧ g.depth = 0) ∧
              (a.val < 8 → e.smask / 2 ^ a.val % 2 = 0 → g = Agent.reset)) ∧
          ∀ u, (∀ e ∈ s.rcbMap m pa, e.tile ≠ u) → t.tile u = s.tile u))) ∧
    (∀ k r p, s.region? k = some r → r.phase = .launching → r.parts = [p] → p.m = m → p.joined = false → p.nmod = 1 →
      ((∀ w ∈ p.tiles, (s.tile w).isSet = true ∧ (s.tile w).recorded = []) →
        ∃ t, exec (.launchTilesSet m k) s = .next t ∧ (∃ r', t.region? k = some r' ∧ r'.phase = .closing ∧ r'.ssn = r.ssn) ∧
          ∀ w ∈ p.tiles, s.reaches r w → ∃ z ∈ (t.tile w).down, z.kind = 1 ∧ z.phase = 0 ∧ z.ssn = r.ssn ∧
            z.instant = s.localClk r (modOfTile w) (evenUp (s.clk + 4 * r.fields.guard))) ∧
      (∀ w l, p.tiles = w :: l → (s.tile w).isSet = false → (∀ x ∈ s.regions, x.serial = k → x = r) → p.launchClk + 4 * r.fields.tmo ≤ s.clk →
        ∃ t, exec (.launchTimeout m k) s = .next t ∧ t.outs = s.outs ++ [.event m 3 r.id.toNat r.fields.ssn0 0x15 w 0] ∧
          (∀ x ∈ t.regions, x.serial ≠ k) ∧ ∀ v ∈ p.tiles, (t.tile v).inReg = false ∧ (t.tile v).node = .stop))

/-- R396: the start of a region of several modules: the last join, of the same `NMOD` and `SSN0` as the others, releases the
first superstep; a join that votes abort, or the end of `TMO` after the first join, stops the modules that joined with cause
0x15. R403-R406, R436: HOLD of a started region asks for a hold at its next commit; FREE of a region at rest takes its tiles out
of it; DISCARD of a freed region ends it with EVENT 2, with the tiles and contexts loaded for it; RESUME of a region at rest, with an RCB whose map names its tiles, sends
every tile its release, whose packet names the start instant (R425: on a module that has not tripped); HOLD of a region that does not run, FREE of one not at rest, DISCARD and RESUME of one neither freed nor at rest
are refused and change nothing else, and so is every command while a tile of the region is copied (R403). Stated for a region with tiles on one module. The release instant is rounded up to an even clk
(DEDUCED, notes/assumptions/37.md) and told by the tile's module (DEDUCED, notes/assumptions/49.md); which modules a stopped start stops
is notes/assumptions/35.md, and that FREE keeps tile memory notes/assumptions/36.md (both DEDUCED). -/
def Obligations.JoinsAndRegionCommands : Prop :=
  (∀ (s : State) (p : Up) (r : Region), s.region? p.region = some r → r.phase = .launching →
    let stopped (t : State) : Prop := ∀ w ∈ r.tiles, s.reaches r w → ∃ z ∈ (t.tile w).down, z.kind = 3 ∧ z.cause = 0x15 ∧ z.sentAt = s.clk
    (s.up = [p] → p.kind = 3 → p.abort = false → (∀ n ∈ r.joinSsn, n = p.ssn.toNat) → (r.joinSsn = [] ∨ r.operand = p.operand) →
      ((natInsert r.arrived p.src).length = p.operand.toNat →
        ∃ t, exec (.launchJoin 0) s = .next t ∧ (∃ r', t.region? p.region = some r' ∧ r'.phase = .closing ∧ r'.ssn = p.ssn) ∧
          ∀ w ∈ r.tiles, s.reaches r w → ∃ z ∈ (t.tile w).down, z.kind = 1 ∧ z.phase = 0 ∧ z.ssn = p.ssn ∧
            z.instant = s.localClk r (modOfTile w) (evenUp (s.clk + 4 * r.fields.guard))) ∧
      ((natInsert r.arrived p.src).length ≠ p.operand.toNat →
        ∃ t, exec (.launchJoin 0) s = .next t ∧ (∀ w, t.tile w = s.tile w) ∧
          ∃ r', t.region? p.region = some r' ∧ r'.phase = .launching ∧ p.src ∈ r'.arrived ∧
            r'.firstJoin = some (r.firstJoin.getD s.clk))) ∧
    ((∀ x ∈ r.parts, x.m ∈ r.arrived) →
      (s.up = [p] → p.kind = 3 → p.abort = true → ∃ t, exec (.launchJoin 0) s = .next t ∧ stopped t) ∧
      (∀ c, r.firstJoin = some c → c + 4 * r.fields.tmo ≤ s.clk → ∃ t, exec (.joinTimeout p.region) s = .next t ∧ stopped t))) ∧
  (∀ (s : State) (d : Nat) (id : BitVec 20) (r : Region) (p : Part), s.named d id = some r → r.parts = [p] → p.m = modOfDie d →
    let pa := (s.die d).ctl.rcbpa.toNat
    let status (t : State) (no : Bool) : Prop := (t.die d).ctl.rstatRefused = no ∧ (t.die d).ctl.rstatRegion = id
    let refused (i : Instr) : Prop := ∃ t, exec i s = .next t ∧ status t true ∧ t.regions = s.regions ∧ t.outs = s.outs ∧
      ∀ w, t.tile w = s.tile w
    let copied : Prop := ∃ k ∈ s.copies, k.2.region = r.id ∧ k.1 = p.m
    let leaves (t : State) : Prop := ∀ w, t.tile w =
      if (s.tile w).region = r.id ∧ modOfTile w = p.m then { s.tile w with inReg := false } else s.tile w
    (copied → refused (.rctlHold d id) ∧ refused (.rctlFree d id) ∧ refused (.rctlResume d id) ∧ refused (.rctlDiscard d id)) ∧
    (r.running = true → ¬copied → ∃ t, exec (.rctlHold d id) s = .next t ∧ status t false ∧ { r with holdReq := true } ∈ t.regions ∧
      ∀ w, t.tile w = s.tile w) ∧
    (r.running = false → refused (.rctlHold d id)) ∧
    (s.atRest r = true → ¬copied → ∃ t, exec (.rctlFree d id) s = .next t ∧ status t false ∧ { r with phase := .freed, holdReq := false } ∈ t.regions ∧
      leaves t) ∧
    (s.atRest r = false → refused (.rctlFree d id)) ∧
    (r.phase = .freed ∨ s.atRest r = true → ¬copied → ∃ t, exec (.rctlDiscard d id) s = .next t ∧ status t false ∧
      (∀ x ∈ t.regions, x.serial ≠ r.serial) ∧
      leaves t ∧
      (∀ e i, modOfDie e = p.m → (s.die e).ff.ctxOf r.id = some i → ((t.die e).ff.ctxs[i]).valid = false) ∧
      ((s.module p.m).alive = true → t.outs = s.outs ++ [.event p.m 2 r.id.toNat r.ssn.toNat 0 0 p.rcb]) ∧
      ∀ (k : Fin 16), p.queue = k.val → (t.module p.m).queues[k].cur = none) ∧
    (r.phase ≠ .freed → s.atRest r = false → refused (.rctlDiscard d id) ∧ refused (.rctlResume d id)) ∧
    (r.phase = .freed ∨ s.atRest r = true → ¬copied → s.mayResume r p pa = true → (s.module p.m).alive = true →
      ∃ t, exec (.rctlResume d id) s = .next t ∧ status t false ∧
        (∃ r' ∈ t.regions, r'.serial = r.serial ∧ r'.phase = .closing ∧ r'.tryN = 0) ∧
        ∀ e ∈ (s.seenHbm p.m).rcbMap p.m pa, ∃ x, t.tile e.tile = x ∧ x.node = .relwait ∧ x.startAt = none ∧ x.fresh = true ∧ x.tm = (s.tile e.tile).tm ∧
          (s.reaches r e.tile → ∃ z ∈ x.down, z.kind = 1 ∧ z.phase = 0 ∧ z.result = (s.tile e.tile).red ∧
            z.instant = s.localClk r (modOfTile e.tile) (evenUp (s.clk + 4 * r.fields.guard)))))

/-! ## Firefly -/

/-- R310, R317, R320, R321: each Firefly instruction of a strand that passes the checks puts its command on its way to the array of the die, to
arrive 16 clk after its issue; one that fails raises its cause; with 64 commands outstanding nothing happens yet. What passes: a record of
the form's alignment and sizes inside tile memory, its `EXTENT` a multiple of the element size, a context of the tile's region, and a range of
cells inside it. That a range of no cells passes whatever its start, and that alignment and range are checked over the whole `EXTENT`, are
the model's readings (notes/assumptions/33.md). -/
def Obligations.FireflyIssueCompletes : Prop :=
  ∀ (s : State) (u : Nat) (me : Fin 10) (e a : BitVec 5) (k : BitVec 6) (nc : Option Nat), s.turn = .tile u me → me.val < 8 →
    let ff := (s.die (dieOfTile u)).ff
    let rc := s.recReg e
    let xa := s.rx a
    nc = (s.ffCtx u).map (fun i => 256 * (ff.ctxs[i]).nrows.toNat) →
    let issues (i : Instr) (kind : FfKind) (rc : Rec) (x : W) : Prop :=
      (kind.cause rc x nc = none → s.myEntry MatEntry.isRd = none → ff.coming.length + ff.queue.length < 64 →
        ∃ t, exec i s = .next t ∧ t.agentOf s.turn = s.me.past ∧ t.retiredOf s.turn = s.retiredOf s.turn + 1 ∧
          (t.die (dieOfTile u)).ff = { ff with coming := ff.coming ++ [⟨u, me, kind, rc, x, k.toNat, (s.clk + 16) / 2, false, (s.tile u).opSeq⟩] } ∧
          (∀ w, w ≠ u → t.tile w = s.tile w) ∧ ∀ w y, t.byteAt w y = s.byteAt w y) ∧
      (∀ c y, kind.cause rc x nc = some (c, y) → Traps i s c y) ∧
      (kind.cause rc x nc = none → s.myEntry MatEntry.isRd = none → 64 ≤ ff.coming.length + ff.queue.length → exec i s = .next s)
    let fits (rc : Rec) (al : Nat) : Prop := firstOdd al (runsOf rc 0 (recExtent rc)) = none ∧ firstOut (runsOf rc 0 (recExtent rc)) = none
    (issues (.ffcfgKey e k) .key rc 0 ∧ issues (.ffcfgBeta e k) .beta rc 0 ∧ issues (.ffcfgSigt e k) .sigt rc 0 ∧
      issues (.ffcfgMode e k) .mode rc 0 ∧ issues (.ffldEdge e a k) .edge rc xa ∧ issues (.ffldBias e a k) .bias rc xa ∧
      issues (.ffldCol e a k) .col rc xa ∧ issues (.ffldState e a k) .state rc xa ∧ issues (.ffopSweep a k) .sweep 0 xa ∧
      issues (.ffopClamp e k) .clamp rc 0 ∧ issues (.ffopUnclamp e k) .unclamp rc 0 ∧ issues (.ffopCreset k) .creset 0 0 ∧
      issues (.ffrdBits e a k) .bits rc xa ∧ issues (.ffrdCnt e a k) .cnt rc xa) ∧
    (∀ n (x : W), (FfKind.sweep.cause 0 x (some n) = none ↔ x.toNat < 2 ^ 31) ∧ FfKind.sweep.cause 0 x none = some (0x0F, x) ∧
      FfKind.creset.cause 0 0 (some n) = none ∧
      (FfKind.key.cause rc 0 (some n) = none ↔ fits rc 1 ∧ 16 ≤ recExtent rc ∧ recExtent rc % 16 = 0) ∧
      (FfKind.beta.cause rc 0 (some n) = none ↔ fits rc 1 ∧ 8 ≤ recExtent rc ∧ recExtent rc % 8 = 0) ∧
      (FfKind.mode.cause rc 0 (some n) = none ↔ fits rc 1 ∧ 8 ≤ recExtent rc ∧ recExtent rc % 8 = 0) ∧
      (FfKind.sigt.cause rc 0 (some n) = none ↔ fits rc 4 ∧ 2048 ≤ recExtent rc ∧ recExtent rc % 4 = 0) ∧
      (FfKind.clamp.cause rc 0 (some n) = none ↔ fits rc 4 ∧ recExtent rc % 4 = 0) ∧
      (FfKind.unclamp.cause rc 0 (some n) = none ↔ fits rc 4 ∧ recExtent rc % 4 = 0) ∧
      (FfKind.bias.cause rc x (some n) = none ↔ fits rc 2 ∧ recExtent rc % 2 = 0 ∧
        (recExtent rc = 0 ∨ x.toNat + recExtent rc / 2 ≤ n)) ∧
      (FfKind.col.cause rc x (some n) = none ↔ fits rc 1 ∧ (recExtent rc = 0 ∨ x.toNat + recExtent rc ≤ n)) ∧
      (FfKind.state.cause rc x (some n) = none ↔ fits rc 1 ∧ (recExtent rc = 0 ∨ x.toNat + 8 * recExtent rc ≤ n ∨
        65536 ≤ x.toNat ∧ x.toNat + 8 * recExtent rc ≤ 69632)) ∧
      (FfKind.edge.cause rc x (some n) = none ↔ fits rc 4 ∧ recExtent rc % 128 = 0 ∧
        (recExtent rc = 0 ∨ x.toNat + recExtent rc / 128 ≤ n)) ∧
      (FfKind.cnt.cause rc x (some n) = none ↔ fits rc 2 ∧ recExtent rc % 2 = 0 ∧
        (recExtent rc = 0 ∨ x.toNat + recExtent rc / 2 ≤ n)) ∧
      (FfKind.bits.cause rc x (some n) = none ↔ fits rc 1 ∧ (recExtent rc = 0 ∨ x.toNat + 8 * recExtent rc ≤ n)))

/-- R317-R319, R321-R328, R333, R334, R316: the array's steps: a command enters the queue in its cycle; a configuration command changes the working
copy of its context only; a load puts edge words, biases, colours and states into the cells of its range and no other, up to what stops it
with its deferred cause, and a state leaves a clamped cell as it is; clamps act in order, the last entry of a cell counting; sweeps run one
after another, none where the index would pass 2^31; `creset` clears the counts of its context's cells and of no other; `ffrd` writes states
or counts to tile memory and leaves the array, and a strand that stalls behind it issues its store again (notes/assumptions/7.md); a completed command goes and adds 1 to its semaphore; a dword of a context block that is written
sets the fields of its row in both copies, and `VALID` from 0 to 1 the reset state besides; and the noise source's test sets `FFNOISE.OK`. A command takes each atom of its record stored to since
its issue old or new (R233), and starts behind an earlier matrix entry of its strand that is still to access an atom of it (R227, R232). That a
command reads and writes tile memory as it starts is the model's reading (notes/assumptions/33.md). -/
def Obligations.FireflyCommandsRun : Prop :=
  ∀ (s : State) (d : Nat) (c : FfCmd),
    let ff := (s.die d).ff
    let tl := s.tile c.tile
    let runs := runsOf c.rc 0 (recExtent c.rc)
    let sees (n : Nat) : Memory := tl.view ⟨c.strand, c.id, false⟩ s.free (runsOf c.rc 0 n) []
    let data (n : Nat) : List Byte := (runsOf c.rc 0 n).flatMap fun p => (sees n).bytes p.1 p.2
    let bytes := data (recExtent c.rc)
    let read (w : Nat) : Tile := if w = c.tile then tl.commandRead c s.free else s.tile w
    (∀ n w, tl.held = [] → (∀ q ∈ tl.olds, q.bytes.length = 16) → (sees n).bytes (16 * w) 16 = tl.tm.bytes (16 * w) 16 ∨
      ∃ q ∈ tl.olds, c.id < q.pos ∧ q.atom = w ∧ (sees n).bytes (16 * w) 16 = q.bytes) ∧
    (ff.queue = [c] → tl.entryBefore c = true → exec (.fireflyCommandStart d) s = .next s) ∧
    (ff.coming = [c] → c.cycle ≤ s.clk / 2 → ∃ t, exec (.fireflyCommandArrival d) s = .next t ∧
      (t.die d).ff = { ff with coming := [], queue := ff.queue ++ [c] } ∧ ∀ w, t.tile w = s.tile w) ∧
    (∀ i : Fin 16, ff.queue = [c] → c.ran = false → tl.entryBefore c = false → s.ffCtx c.tile = some i → dieOfTile c.tile = d → ff.bad = [] →
      let x := ff.ctxs[i]
      let ran := { c with ran := true }
      let ext := recExtent c.rc
      let a := c.x.toNat
      let ncells := 256 * x.nrows.toNat
      let cell (j : Nat) : Cell := kvGet Cell.reset ff.cells (256 * x.frow.toNat + j)
      let word (n j : Nat) : Nat := leNat ((bytes.drop (n * j)).take n)
      let bit (j : Nat) : Bool := decide ((bytes.getD (j / 8) 0).toNat / 2 ^ (j % 8) % 2 = 1)
      let toCells (e : Option (Nat × W)) (p : Nat → Cell) : Prop := tl.badRuns runs = none →
        (e ≠ none → (s.agentOf (.tile c.tile c.strand)).st = .run ∧ (s.agentOf (.tile c.tile c.strand)).deferred = none) →
        ∃ t, exec (.fireflyCommandStart d) s = .next t ∧ (t.die d).ff.ctxs = ff.ctxs ∧ (t.die d).ff.comm = ff.comm ∧
          (∀ j, kvGet Cell.reset (t.die d).ff.cells (256 * x.frow.toNat + j) = p j) ∧
          (∀ k, k < 256 * x.frow.toNat → kvGet Cell.reset (t.die d).ff.cells k = kvGet Cell.reset ff.cells k) ∧
          (e = none → (t.die d).ff.queue = [ran] ∧ ∀ w, t.tile w = read w) ∧
          ∀ code va, e = some (code, va) → (t.die d).ff.queue = [] ∧
            (t.agentOf (.tile c.tile c.strand)).deferred = some ⟨code, va⟩ ∧ ∀ w, w ≠ c.tile → t.tile w = s.tile w
      let works (n : Nat) (f : FfConfig → FfConfig) : Prop := tl.badRuns (runsOf c.rc 0 n) = none → ∃ t, exec (.fireflyCommandStart d) s = .next t ∧
        (t.die d).ff = { ff with ctxs := ff.ctxs.set i { x with work := f x.work }, queue := [ran] } ∧ ∀ w, t.tile w = read w
      (c.kind = .key → works 16 fun g => { g with key := BitVec.ofNat 128 (leNat (data 16)) }) ∧
      (c.kind = .beta → works 8 fun g => { g with beta := BitVec.ofNat 16 (leNat ((data 8).take 2)) }) ∧
      (c.kind = .mode → works 8 fun g => { g with
        ent := decide (leNat ((data 8).take 1) % 2 = 1), cmask := BitVec.ofNat 8 (leNat (((data 8).drop 1).take 1)) }) ∧
      (c.kind = .sigt → ∃ g : FfConfig, works 2048 (fun f => { f with sigt := g.sigt }) ∧
        ∀ j, g.entry j = if j = 0 ∨ 511 ≤ j then x.work.entry j
          else min 65536 (leNat (((data 2048).drop (4 * j)).take 4) % 2 ^ 17)) ∧
      (c.kind = .state → 65536 ≤ a → ext ≠ 0 → ∃ gs : List Nat, works ext (fun f => { f with ghosts := gs }) ∧
        ∀ n, n ∈ gs ↔ if a - 65536 ≤ n ∧ n < a - 65536 + 8 * ext then bit (n - (a - 65536)) = true else n ∈ x.work.ghosts) ∧
      (c.kind = .state → a < 65536 → toCells none fun j =>
        if a ≤ j ∧ j < a + 8 * ext ∧ (cell j).cen = false then { cell j with b := bit (j - a) } else cell j) ∧
      (c.kind = .bias → toCells none fun j =>
        if a ≤ j ∧ j < a + ext / 2 then { cell j with bias := BitVec.ofNat 16 (word 2 (j - a)) } else cell j) ∧
      (c.kind = .col → a + ext ≤ ncells → keysRise ff.cells →
        let new (k : Nat) : BitVec 3 := BitVec.ofNat 3 (word 1 k)
        let put (k j : Nat) : Cell := if a ≤ j ∧ j < a + k then { cell j with col := new (j - a) } else cell j
        let joins (p q : Nat) : Prop := ∃ e ∈ (cell p).edges, e.2 / 2 ^ 24 % 256 ≠ 0 ∧ e.2 % 2 ^ 17 = q
        let clash (k : Nat) : Prop := ∃ j, j < ncells ∧ (joins (a + k) j ∨ joins j (a + k)) ∧ (put k j).col = new k
        ∀ k, (∀ i, i < k → ¬clash i) →
          (k = ext → toCells none (put k)) ∧ (k < ext → clash k → toCells (some (0x0E, BitVec.ofNat 64 (a + k))) (put k))) ∧
      (c.kind = .edge → ∀ m, ext = 128 * m → a + m ≤ ncells →
        let w (k l : Nat) : Nat := word 4 (32 * k + l)
        let nb (k l : Nat) : Nat := w k l % 2 ^ 17
        let good (k l : Nat) : Prop := w k l / 2 ^ 24 = 0 ∨ (65536 ≤ nb k l ∧ nb k l ≤ 69631) ∨
          (nb k l < ncells ∧ (cell (nb k l)).col ≠ (cell (a + k)).col)
        ∃ es : Nat → List (Nat × Nat), (∀ k l, l < 32 → kvGet 0 (es k) l = nb k l + w k l / 2 ^ 24 * 2 ^ 24) ∧
          let put (k j : Nat) : Cell := if a ≤ j ∧ j < a + k then { cell j with edges := es (j - a) } else cell j
          ∀ k, (∀ i l, i < k → l < 32 → good i l) →
            (k = m → toCells none (put k)) ∧
            ∀ l, k < m → l < 32 → (∀ i, i < l → good k i) → ¬good k l →
              toCells (some (if ncells ≤ nb k l then 0x0F else 0x0E, BitVec.ofNat 64 (a + k))) (put k)) ∧
      (let last (m j : Nat) : Option Nat := (List.range m).reverse.find? fun l => decide (word 4 l % 2 ^ 16 = j)
       let put (j : Nat) : Option Nat → Cell
         | some l => if c.kind = .clamp then { cell j with cen := true, cval := word 4 l / 2 ^ 16 % 2 = 1, b := word 4 l / 2 ^ 16 % 2 = 1 }
           else { cell j with cen := false }
         | none => cell j
       c.kind = .clamp ∨ c.kind = .unclamp →
        ((∀ l, l < ext / 4 → word 4 l % 2 ^ 16 < ncells) → toCells none fun j => put j (last (ext / 4) j)) ∧
        ∀ l, l < ext / 4 → (∀ k, k < l → word 4 k % 2 ^ 16 < ncells) → ncells ≤ word 4 l % 2 ^ 16 →
          toCells (some (0x0F, BitVec.ofNat 64 (word 4 l % 2 ^ 16))) fun j => put j (last l j)) ∧
      (c.kind = .sweep → x.work.ent = false →
        (x.work.sweep + a ≤ 2 ^ 31 →
          let r := FfContext.sweeps tl.ssnum.toNat a (x, ⟨ff.cells, s.free⟩)
          ∃ t, exec (.fireflyCommandStart d) s = .next t ∧ (∀ w, t.tile w = s.tile w) ∧
            (t.die d).ff = { ff with ctxs := ff.ctxs.set i r.1, cells := r.2.cells, queue := [ran], sweeps := ff.sweeps + BitVec.ofNat 64 a }) ∧
        (2 ^ 31 < x.work.sweep + a → (s.agentOf (.tile c.tile c.strand)).st = .run →
          (s.agentOf (.tile c.tile c.strand)).deferred = none → ∃ t, exec (.fireflyCommandStart d) s = .next t ∧
            (t.die d).ff = { ff with queue := [] } ∧ (t.agentOf (.tile c.tile c.strand)).deferred = some ⟨0x0F, c.x⟩)) ∧
      let out (tl' : Tile) : Tile :=
        let y := tl'.stamp tl.olds.length (c.strand, c.id)
        if (s.agentOf (.tile c.tile c.strand)).st = .run ∧ (s.agentOf (.tile c.tile c.strand)).stalled = true then
          y.setAgent c.strand { y.cur.agents[c.strand] with stalled := false, resuming := true }
        else y
      let alone : Prop := tl.held = [] ∧ (s.agentOf (.tile c.tile c.strand)).st ≠ .wait .drain
      (c.kind = .bits → alone → ∀ bs tl', bs.length = ext → (∀ l k, l < ext → k < 8 → (bs.getD l 0).getLsbD k = (cell (a + (8 * l + k))).b) →
        tl.fillRuns (layRuns runs bs) = (tl', none) →
        ∃ t, exec (.fireflyCommandStart d) s = .next t ∧ (t.die d).ff = { ff with queue := [ran] } ∧ t.tile c.tile = out tl') ∧
      (c.kind = .creset → ∃ t, exec (.fireflyCommandStart d) s = .next t ∧ (t.die d).ff.queue = [ran] ∧ (t.die d).ff.ctxs = ff.ctxs ∧
        (t.die d).ff.comm = ff.comm ∧
        ∀ n, kvGet Cell.reset (t.die d).ff.cells n =
          if x.owns n = true then { kvGet Cell.reset ff.cells n with cnt := 0 } else kvGet Cell.reset ff.cells n) ∧
      (c.kind = .cnt → alone → ext % 2 = 0 → ∀ tl', tl.fillRuns (layRuns runs ((List.range (recExtent c.rc / 2)).flatMap fun j =>
          leBytes 2 (kvGet Cell.reset ff.cells (256 * x.frow.toNat + (c.x.toNat + j))).cnt.toNat)) = (tl', none) →
        ∃ t, exec (.fireflyCommandStart d) s = .next t ∧ (t.die d).ff = { ff with queue := [ran] } ∧ t.tile c.tile = out tl')) ∧
    (ff.queue = [c] → c.ran = true → tl.sem c.sem < 65535 → ∃ t, exec (.fireflyCommandComplete d) s = .next t ∧
      (t.die d).ff = { ff with queue := [] } ∧ t.tile c.tile = tl.setSem c.sem (tl.sem c.sem + 1) ∧
      ∀ w, w ≠ c.tile → t.tile w = s.tile w) ∧
    (∀ (i : Fin 16) (o : Nat) bs, bs.length = 8 → o % 8 = 0 → o < 0x1000 → (s.module (modOfDie d)).alive = true →
      let x := ff.ctxs[i]
      let v := leNat bs
      let bits (lo n : Nat) : Nat := v / 2 ^ lo % 2 ^ n
      let both (f : FfConfig → FfConfig) : FfContext := { x with work := f x.work, comm := f x.comm }
      (x.valid = true → s.regionQuiet (modOfDie d) x.region = true) → (ff.writeBlock i o bs).disjoint = true →
      keysRise x.comm.sigt → keysRise x.work.sigt →
      ∃ t y, exec (.fireflyContextBlockWrite d (0x1000 * i.val + o) bs) s = .next t ∧ (t.die d).ff.ctxs[i] = y ∧
        t.outs = s.outs ++ [.window (modOfDie d) (dieAddr d (0x180000 + (0x1000 * i.val + o))) []] ∧
        (∀ j : Fin 16, j ≠ i → (t.die d).ff.ctxs[j] = ff.ctxs[j]) ∧
        (o = 0x00 → y = both fun g => { g with key := BitVec.ofNat 128 (g.key.toNat / 2 ^ 64 * 2 ^ 64 + v) }) ∧
        (o = 0x08 → y = both fun g => { g with key := BitVec.ofNat 128 (g.key.toNat % 2 ^ 64 + v * 2 ^ 64) }) ∧
        (o = 0x10 → y = both fun g => { g with beta := BitVec.ofNat 16 (bits 0 16) }) ∧
        (o = 0x18 → y = both fun g => { g with ent := decide (bits 0 1 = 1), cmask := BitVec.ofNat 8 (bits 8 8) }) ∧
        (o = 0x20 → y = { x with frow := BitVec.ofNat 8 (bits 0 8), nrows := BitVec.ofNat 9 (bits 8 9) }) ∧
        (o = 0x28 → y = { x with gbase := BitVec.ofNat 20 (bits 0 20) }) ∧
        (o = 0x30 → y = both fun g => { g with sweep := bits 0 31 }) ∧
        (o = 0x40 → y.region = BitVec.ofNat 20 (bits 0 20) ∧ y.valid = decide (bits 63 1 = 1) ∧ y.frow = x.frow ∧ y.nrows = x.nrows ∧
          (x.valid = false → y.valid = true → y.work = FfConfig.reset ∧ y.comm = FfConfig.reset ∧ ∀ n, y.owns n = true →
            kvGet Cell.reset (t.die d).ff.cells n = Cell.reset ∧ kvGet Cell.reset (t.die d).ff.comm n = Cell.reset) ∧
          (x.valid = true ∨ y.valid = false → y.work = x.work ∧ y.comm = x.comm ∧ (t.die d).ff.cells = ff.cells)) ∧
        (0x200 ≤ o → o < 0x400 → ∀ n, n ∈ y.comm.ghosts ↔
          if n / 64 = (o - 0x200) / 8 then v / 2 ^ (n % 64) % 2 = 1 else n ∈ x.comm.ghosts) ∧
        (0x400 ≤ o → o < 0xC00 → ∀ j, y.comm.entry j = if j ≠ 0 ∧ j < 511 ∧ j / 2 = (o - 0x400) / 8
          then min 65536 (bits (32 * (j % 2)) 17) else x.comm.entry j) ∧
        (o ≠ 0x40 → (t.die d).ff.cells = ff.cells ∧ (t.die d).ff.comm = ff.comm)) ∧
    (∀ ok, ∃ t, exec (.noiseSourceHealthTest d ok) s = .next t ∧ (t.die d).ff = { ff with noiseOk := ok } ∧ ∀ w, t.tile w = s.tile w)

/-- R310, R312-R314, R326, R329: a sweep of one colour sets every unclamped cell of that colour to whether its draw lies below the threshold of its field,
all from the states before it, and changes no other cell and nothing else of a cell; the draw is that of the key, the superstep, the
sweep index and the cell. An edge that names no cell of the context reaches no cell, its state a free value (the model's choice,
notes/assumptions/33.md). A sweep runs the colours that `CMASK` names in turn, each from the cells the one before it left, then counts each cell of
the context whose state is 1, up to 65,535, and takes the index up by 1; n sweeps are n of these. A commit makes the working copy of the region's cells the committed one, and an abort brings it back. -/
def Obligations.FireflySweepRule : Prop :=
  ∀ (c : FfContext) (ssn col : Nat) (q : SweepState), c.work.ent = false →
    let cell (i : Nat) : Cell := kvGet Cell.reset q.cells (256 * c.frow.toNat + i)
    let after := c.sweepColour ssn col q
    let inside : Prop := ∀ i, i < 256 * c.nrows.toNat → ∀ e ∈ (cell i).edges,
      e.2 / 2 ^ 24 % 2 ^ 8 = 0 ∨ e.2 % 2 ^ 17 < 256 * c.nrows.toNat ∨ (65536 ≤ e.2 % 2 ^ 17 ∧ e.2 % 2 ^ 17 ≤ 69631)
    let seen (i : Nat) : Cell := c.cellSeen q.cells q.free i
    (∀ i, (i < 256 * c.nrows.toNat → seen i = cell i) ∧
      (256 * c.nrows.toNat ≤ i → ∀ l, c.cellSeen l q.free i = seen i)) ∧
    (∀ i, i < 256 * c.nrows.toNat →
      let draw := keyedDraw c.work.key.toNat ssn c.work.sweep ((c.gbase.toNat + i) % 2 ^ 20)
      kvGet Cell.reset after.cells (256 * c.frow.toNat + i) =
        if (cell i).col.toNat = col ∧ (cell i).cen = false then
          { cell i with b := decide (draw < c.work.threshold (fieldOf c.work.ghosts seen (cell i))) }
        else cell i) ∧
    (∀ k, c.owns k = false → kvGet Cell.reset after.cells k = kvGet Cell.reset q.cells k) ∧ (inside → after.free = q.free) ∧
    (let colours := (List.range 8).foldl (fun (q : SweepState) k => if c.work.cmask.getLsbD k then c.sweepColour ssn k q else q) q
     let r := c.sweep1 ssn q
     r.1 = { c with work := { c.work with sweep := c.work.sweep + 1 } } ∧ (inside → r.2.free = q.free) ∧
       (∀ k, let y := kvGet Cell.reset colours.cells k
         kvGet Cell.reset r.2.cells k = if c.owns k = true ∧ y.b = true then { y with cnt := BitVec.ofNat 16 (min 65535 (y.cnt.toNat + 1)) } else y) ∧
       (c.work.cmask = 0 → ∀ k, (kvGet Cell.reset r.2.cells k).b = (kvGet Cell.reset q.cells k).b) ∧
       ∀ n, FfContext.sweeps ssn 0 (c, q) = (c, q) ∧ FfContext.sweeps ssn (n + 1) (c, q) = FfContext.sweeps ssn n r) ∧
    (∀ (h : Int) (g : FfConfig), g.threshold h = g.entry ((max (-256) (min 255 (h * g.beta.toNat / 256))) + 256).toNat) ∧
    (∀ j, sigtReset 0 = 0 ∧ sigtReset 511 = 65536 ∧ sigtReset 256 = 32768 ∧ sigtReset 288 = 47911 ∧ sigtReset 224 = 17625 ∧
      (2 ≤ j → j ≤ 510 → sigtReset j + sigtReset (512 - j) = 65536)) ∧
    (∀ (f : Firefly) (region : BitVec 20) (i : Fin 16) (mine : Nat → Bool), f.ctxOf region = some i →
      f.cells.Pairwise (fun x y => x.1 < y.1) → f.comm.Pairwise (fun x y => x.1 < y.1) →
      let x := f.ctxs[i]
      ((f.commit region).ctxs[i]).comm = x.work ∧ ((f.commit region).ctxs[i]).work = x.work ∧ (f.commit region).cells = f.cells ∧
      ((f.abort region mine).ctxs[i]).work = x.comm ∧ ((f.abort region mine).ctxs[i]).comm = x.comm ∧ (f.abort region mine).comm = f.comm ∧
      ∀ k, (kvGet Cell.reset (f.commit region).comm k = if x.owns k = true then kvGet Cell.reset f.cells k else kvGet Cell.reset f.comm k) ∧
        (kvGet Cell.reset (f.abort region mine).cells k =
          if x.owns k = true then kvGet Cell.reset f.comm k else kvGet Cell.reset f.cells k))

/-! ## Windows, the host, links -/

/-- R26-R29, R107, R333, R348, R366, R408, R412-R414: a window read answers with the bytes of the space: of a tile's memory, accumulators, contexts, CSRs,
semaphores, full-empty bits and mailboxes, of a die's CSRs, cells, last-level TLB, router entries and core memories; an access of another
size or alignment is negatively acknowledged; a write to a quiescent tile lands where it goes and nowhere else, and one to the guarded parts of a tile that
is not quiescent, or to any part of one that is copied, is refused; a write of a semaphore takes bits [15:0]; one of a read-only CSR, or of
one that the agent lacks, changes nothing; router entries and cells of no running region take what is written, the last-level TLB and the
core memories nothing (R366 says what +0x40C000 to +0x7FFFFF reads; that a write there is refused is notes/assumptions/45.md). A host operation on a host port reads and writes HBM, or joins a launch queue, and its COMPLETION, which leaves on its port and is kept
there for replay, tells so; one that is malformed, or on another port, is answered with status 2 and has no effect. That an on-chip operation
of a size or alignment that R28 does not have is malformed, and one refused otherwise gets status 1, is the model's reading
(notes/assumptions/47.md). -/
def Obligations.WindowAndHostRun : Prop :=
  ∀ (s : State) (m u d tag addr len : Nat) (bs : List Byte), (s.module m).alive = true → modOfTile u = m → modOfDie d = m →
    let base := u % 1024 * 2 ^ 24
    let out (i : Instr) (o : Output) (f : State → Prop) : Prop := ∃ t, exec i s = .next t ∧ t.outs = s.outs ++ [o] ∧ f t
    let keeps (t : State) : Prop := (∀ w, t.tile w = s.tile w) ∧ (∀ e, t.die e = s.die e) ∧ ∀ k, t.module k = s.module k
    let host := decide (d % 16 = 0) || decide (d % 16 = 15)
    let leaves (t : State) (p : PortId) (o : Output) : Prop := (∀ e, e ≠ p.die → t.die e = s.die e) ∧
      let x := s.die p.die
      let kept (y : Port) : Port := { y with nextSeq := y.nextSeq + 1, kept := y.kept ++ [⟨y.nextSeq, none, o.opBytes, s.linkCfg p.die, 0, s.clk⟩] }
      t.die p.die = if p.host = true then { x with hp := kept x.hp } else { x with lk := { x.lk with port := kept x.lk.port } }
    let answers (i : Instr) (status : Nat) (data : List Byte) (f : State → Prop) : Prop :=
      let o : Output := .completion d host tag status data
      out i o fun t => leaves t ⟨d, host, none⟩ o ∧ f t
    let idle (t : State) : Prop := (∀ w, t.tile w = s.tile w) ∧ ∀ k, t.module k = s.module k
    let tl := s.tile u
    let still : Prop := tl.quiescent = true ∧ s.copying u = false
    let reads (b o v : Nat) : Prop := out (.windowRead m (b + o) 8) (.window m (b + o) (leBytes 8 v)) keeps
    let writes (b o : Nat) (w : W) (f : State → Prop) : Prop :=
      out (.windowWrite m (b + o) (leBytes 8 w.toNat)) (.window m (b + o) []) f
    let denied (b o : Nat) (w : W) : Prop := out (.windowWrite m (b + o) (leBytes 8 w.toNat)) (.nack m (b + o)) keeps
    let makes (o : Nat) (w : W) (x : Tile) : Prop := writes base o w fun t => t.tile u = x ∧ (∀ k, k ≠ u → t.tile k = s.tile k) ∧
      (∀ e, t.die e = s.die e) ∧ ∀ k, t.module k = s.module k
    let die := 0x400000000 + d % 16 * 2 ^ 24
    let y := s.die d
    let sets (o : Nat) (w : W) (f : Die → Prop) : Prop := writes die o w fun t => f (t.die d) ∧ (∀ e, e ≠ d → t.die e = s.die e) ∧
      (∀ k, t.tile k = s.tile k) ∧ ∀ k, t.module k = s.module k
    ((len = 8 ∨ len = 64) → addr + len ≤ 0x1F0000 → addr % len = 0 → (∀ i, 8 * i < len → tl.badAt (addr + 8 * i) 8 = none) →
      out (.windowRead m (base + addr) len) (.window m (base + addr) (tl.tm.bytes addr len)) keeps) ∧
    (∀ i, i < 16384 → tl.freshTag (i / 8) = none → badHit 16 tl.badAcc (8 * i) 8 = none →
      reads base (0x600000 + 8 * i) (tl.acc.nat (8 * i) 8)) ∧
    (∀ i, i < 2048 → tl.badMb = [] → reads base (0x7A0000 + 8 * i) (tl.mbx.nat (8 * i) 8)) ∧
    (∀ k : Fin 64, reads base (0x780000 + 8 * k.val) tl.cur.sems[k].toNat) ∧
    (∀ i, i < 1984 → ∃ v, reads base (0x790000 + 8 * i) v ∧ ∀ k, k < 64 → (v.testBit k = true ↔ 64 * i + k ∈ tl.cur.fe)) ∧
    (∀ (j : Fin 10) (r : BitVec 5), let g := tl.cur.agents[j]
      let ctx := 0x700000 + 0x1000 * j.val
      let csr := 0x7C0000 + 0x8000 * j.val
      reads base ctx g.pc.toNat ∧ reads base (ctx + 8) (g.st.code + g.depth.toNat * 2 ^ 16) ∧
      reads base (ctx + 0x10) (if j.val < 8 then g.mctx.toNat else 0) ∧ reads base (ctx + 0x100 + 8 * r.toNat) (g.rx r).toNat ∧
      (∃ v, reads base (ctx + 0x200) v ∧ v < 256 ∧ ∀ p : BitVec 3, v.testBit p.toNat = g.rp p) ∧
      (∀ q : Fin 8, reads base (ctx + 0x400 + 64 * r.toNat + 8 * q.val) ((g.rv r).toNat / 2 ^ (64 * q.val) % 2 ^ 64)) ∧
      (∀ n x, (n, x) ∈ [(1, g.causeCode.toNat + g.causeInh.toNat * 256), (2, g.epc.toNat), (3, g.faddr.toNat), (4, g.tvec.toNat),
          (8, g.scratch.toNat)] → reads base (ctx + 0xC00 + 8 * n) x ∧ reads base (csr + 8 * n) x) ∧
      reads base (csr + 8 * 6) (if j.val < 8 then g.prio.toNat else 0) ∧ reads base (csr + 8 * 0x200) tl.cur.vmask.toNat ∧
      reads base (csr + 8 * 0x103) (if j.val = 9 then tl.cur.srkey.toNat % 2 ^ 64 else 0) ∧ (u < 2 ^ 28 → reads base (csr + 8 * 0x20D) u) ∧
      (∀ n, 0x300 ≤ n → n < 0x1000 → reads base (csr + 8 * n) 0) ∧
      ∀ w : W,
        let own (o : Nat) (g' : Agent) : Prop := makes o w { tl with cur := { tl.cur with agents := tl.cur.agents.set j g' } }
        (still → own ctx { g with pc := BitVec.ofNat 64 (w.toNat / 4 * 4) } ∧ own (ctx + 0x100 + 8 * r.toNat) (g.wx r w) ∧
          own (ctx + 0xC00 + 8 * 2) { g with epc := w } ∧
          (j.val < 8 → own (ctx + 0x10) { g with mctx := w.setWidth 12 }) ∧
          ∀ q : Fin 8, ∃ g', own (ctx + 0x400 + 64 * r.toNat + 8 * q.val) g' ∧ (g'.rv r).toNat / 2 ^ (64 * q.val) % 2 ^ 64 = w.toNat ∧
            (∀ k : Fin 8, k ≠ q → (g'.rv r).toNat / 2 ^ (64 * k.val) % 2 ^ 64 = (g.rv r).toNat / 2 ^ (64 * k.val) % 2 ^ 64) ∧
            ∀ k, k ≠ r → g'.rv k = g.rv k) ∧
        (s.copying u = false → own (csr + 8 * 2) { g with epc := w } ∧
          makes (csr + 8 * 0x200) w { tl with cur := { tl.cur with vmask := w.setWidth 31 } } ∧
          makes (csr + 8 * 0x20D) w tl ∧ (j.val ≠ 9 → makes (csr + 8 * 0x103) w tl))) ∧
    (∀ o, (0x1F0000 ≤ o ∧ o < 0x400000 ∨ 0x490000 ≤ o ∧ o < 0x600000 ∨ 0x620000 ≤ o ∧ o < 0x700000 ∨ 0x810000 ≤ o ∧ o < 0x1000000) →
      o % 8 = 0 → reads base o 0 ∧ ∀ w, s.copying u = false → makes o w tl) ∧
    (∀ w : W,
      (∀ o, o % 8 = 0 → o < 0x1000000 → s.copying u = true → denied base o w) ∧
      (∀ o, o % 8 = 0 → tl.quiescent = false → (o < 0x1F0000 ∨ 0x400000 ≤ o ∧ o < 0x490000 ∨ 0x600000 ≤ o ∧ o < 0x620000 ∨
        0x700000 ≤ o ∧ o < 0x70A000 ∨ 0x790000 ≤ o ∧ o < 0x793E00 ∨ 0x7A0000 ≤ o ∧ o < 0x7A4000) → denied base o w) ∧
      (still → (∀ o, o % 8 = 0 → 0x400000 ≤ o → o < 0x490000 → reads base o 0 ∧ makes o w tl) ∧
        (∀ i, i < 16384 → ∃ x, makes (0x600000 + 8 * i) w x ∧ x.tm = tl.tm ∧ x.cur.agents = tl.cur.agents ∧
          (∀ k, k < 8 → x.acc.get (8 * i + k) = (leBytes 8 w.toNat).getD k 0) ∧
          ∀ k, k < 8 * i ∨ 8 * i + 8 ≤ k → x.acc.get k = tl.acc.get k) ∧
        (∀ i, i < 2048 → ∃ x, makes (0x7A0000 + 8 * i) w x ∧ x.tm = tl.tm ∧ x.cur = tl.cur ∧
          (∀ k, k < 8 → x.mbx.get (8 * i + k) = (leBytes 8 w.toNat).getD k 0) ∧
          ∀ k, k < 8 * i ∨ 8 * i + 8 ≤ k → x.mbx.get k = tl.mbx.get k) ∧
        ∀ i, i < 1984 → ∃ l, makes (0x790000 + 8 * i) w { tl with cur := { tl.cur with fe := l } } ∧
          ∀ k, k ∈ l ↔ if 64 * i ≤ k ∧ k < 64 * i + 64 then w.getLsbD (k - 64 * i) = true else k ∈ tl.cur.fe)) ∧
    (∀ (i : Nat) (w : W),
      (∀ n x, (n, x) ∈ [(0x306, y.qd.shape.toNat), (0x310, y.mc.hdsize.toNat), (0x340, y.lk.ctmo.toNat), (0x353, y.mc.physa.toNat),
        (0x361, y.ctl.rcbpa.toNat), (0x379, y.ctl.rspsel.toNat)] → reads die (8 * n) x) ∧
      (i < 0x1000 → isDieCsr i = false → reads die (8 * i) 0 ∧ sets (8 * i) w fun x => x = y) ∧
      sets (8 * 0x353) w (fun x => x = { y with mc := { y.mc with physa := w.setWidth 40 } }) ∧ sets (8 * 0x300) w (fun x => x = y) ∧
      (∀ c : Fin 2, i < 65536 → (y.svc[c]).bad = [] → reads die (0xC00000 + 0x200000 * c.val + 8 * i) ((y.svc[c]).mem.nat (8 * i) 8) ∧
        denied die (0xC00000 + 0x200000 * c.val + 8 * i) w) ∧
      (i < 4096 → reads die (0x800000 + 8 * i) (y.lk.entry i).toNat ∧
        ((y.lk.entry i).getLsbD 63 = false → sets (0x800000 + 8 * i) w fun x =>
          x.lk.entry i = w &&& 0x8FFFFF3FFFFFFFFF#64 ∧ (∀ k, k ≠ i → x.lk.entry k = y.lk.entry k) ∧ x.mc = y.mc ∧ x.ff = y.ff) ∧
        ((y.lk.entry i).getLsbD 63 = true → s.regionQuiet m (BitVec.ofNat 20 ((y.lk.entry i).toNat / 2 ^ 40)) = false →
          denied die (0x800000 + 8 * i) w)) ∧
      (i < 3072 → (y.mc.llt.find? (fun q => decide (q.1 = i)) = none → reads die (0x400000 + 16 * i) 0 ∧ reads die (0x400008 + 16 * i) 0) ∧
        (∀ e, y.mc.llt.find? (fun q => decide (q.1 = i)) = some e → reads die (0x400000 + 16 * i) e.2.tag.toNat ∧
          reads die (0x400008 + 16 * i) e.2.entry.toNat)) ∧
      (0x40C000 ≤ 8 * i → 8 * i < 0x800000 → reads die (8 * i) 0) ∧ (0x400000 ≤ 8 * i → 8 * i < 0x800000 → denied die (8 * i) w) ∧
      (let cell (c : Nat) : Cell := kvGet Cell.reset y.ff.comm c
       (i < 8192 → ∃ v, reads die (0x110000 + 8 * i) v ∧ ∀ k, k < 8 → v / 2 ^ (8 * k) % 256 = (cell (8 * i + k)).col.toNat) ∧
       (i < 16384 → ∃ v z, reads die (0x120000 + 8 * i) v ∧ reads die (0x140000 + 8 * i) z ∧ ∀ k, k < 4 →
         v / 2 ^ (16 * k) % 2 ^ 16 = (cell (4 * i + k)).bias.toNat ∧ z / 2 ^ (16 * k) % 2 ^ 16 = (cell (4 * i + k)).cnt.toNat) ∧
       (i < 1024 → ∃ v, reads die (0x100000 + 8 * i) v ∧ ∀ k, k < 64 → v.testBit k = (cell (64 * i + k)).b) ∧
       let own (n : Fin 16) : Prop := (y.ff.ctxs[n]).valid = true ∧ ∃ k, k < 4 ∧ (y.ff.ctxs[n]).owns (4 * i + k) = true
       (i < 16384 → ((∀ n, ¬own n) → sets (0x120000 + 8 * i) w fun x => x.ff.ctxs = y.ff.ctxs ∧ ∀ k, k < 4 →
          (kvGet Cell.reset x.ff.cells (4 * i + k)).bias.toNat = w.toNat / 2 ^ (16 * k) % 2 ^ 16 ∧
          (kvGet Cell.reset x.ff.comm (4 * i + k)).bias.toNat = w.toNat / 2 ^ (16 * k) % 2 ^ 16) ∧
        ∀ n, own n → s.regionQuiet m (y.ff.ctxs[n]).region = false → denied die (0x120000 + 8 * i) w))) ∧
    ((len ≠ 8 ∧ len ≠ 64 ∨ addr % len ≠ 0) → out (.windowRead m addr len) (.nack m addr) keeps) ∧
    ((bs.length = 8 ∨ bs.length = 64) → addr + bs.length ≤ 0x1F0000 → addr % bs.length = 0 →
      (still → out (.windowWrite m (base + addr) bs) (.window m (base + addr) [])
        fun t => (∀ j, j < bs.length → (t.tile u).tm.get (addr + j) = bs.getD j 0) ∧
          (∀ x, x < addr ∨ addr + bs.length ≤ x → (t.tile u).tm.get x = tl.tm.get x) ∧ (t.tile u).cur = tl.cur ∧
          ∀ w, w ≠ u → t.tile w = s.tile w) ∧
      (tl.quiescent = false → out (.windowWrite m (base + addr) bs) (.nack m (base + addr)) keeps)) ∧
    (s.copying u = true → ∀ (k : Fin 64) (v : W),
      out (.windowSemaphoreWrite u k.val v) (.nack m (base + 0x780000 + 8 * k.val)) keeps) ∧
    (s.copying u = false → ∀ (k : Fin 64) (v : W), out (.windowSemaphoreWrite u k.val v) (.window m (base + 0x780000 + 8 * k.val) [])
      fun t => (t.tile u).cur.sems[k] = v.setWidth 16 ∧ (t.tile u).cur.agents = (s.tile u).cur.agents ∧
        (∀ j : Fin 64, j ≠ k → (t.tile u).cur.sems[j] = (s.tile u).cur.sems[j]) ∧ ∀ w, w ≠ u → t.tile w = s.tile w) ∧
    (host = true → addr % 8 = 0 → len % 8 = 0 → 8 ≤ len → len ≤ 4096 → addr + len ≤ 0xC000000000 →
      ((∀ w ∈ (s.module m).badHbm, 8 * w + 8 ≤ addr ∨ addr + len ≤ 8 * w) →
        answers (.hostRead d false addr len tag) 0 ((s.module m).hbm.bytes addr len) idle) ∧
      (bs.length = len → answers (.hostWrite d false addr tag bs) 0 []
        fun t => (∀ j, j < len → (t.module m).hbm.get (addr + j) = bs.getD j 0) ∧
          (∀ x, x < addr ∨ addr + len ≤ x → (t.module m).hbm.get x = (s.module m).hbm.get x) ∧ ∀ w, t.tile w = s.tile w)) ∧
    (host = true →
      ((len ≠ 8 ∧ len ≠ 64 ∨ addr % len ≠ 0) → answers (.hostRead d true addr len tag) 2 [] idle) ∧
      (addr + 8 ≤ 0x1F0000 → addr % 8 = 0 → (s.tile u).badAt addr 8 = none →
        answers (.hostRead d true (base + addr) 8 tag) 0 ((s.tile u).tm.bytes addr 8) idle) ∧
      (bs.length = 8 → addr + 8 ≤ 0x1F0000 → addr % 8 = 0 → (s.tile u).quiescent = false →
        answers (.hostWrite d true (base + addr) tag bs) 1 [] idle)) ∧
    (∀ q : Fin 16, host = true → addr % 256 = 0 → addr < 0xC000000000 →
      ((s.module m).queues[q].waiting.length < 64 → answers (.hostLaunch d q.val addr tag) 0 []
        fun t => (t.module m).queues[q].waiting = (s.module m).queues[q].waiting ++ [addr] ∧ ∀ w, t.tile w = s.tile w) ∧
      (64 ≤ (s.module m).queues[q].waiting.length → answers (.hostLaunch d q.val addr tag) 3 [] idle)) ∧
    (host = false → answers (.hostRead d false addr len tag) 2 [] idle ∧ answers (.hostWrite d false addr tag bs) 2 [] idle ∧
      answers (.hostLaunch d len addr tag) 2 [] idle) ∧
    ∀ p : PortId, p.die = d → let o : Output := .completion d p.host tag 2 []
      out (.malformedOperation p len tag) o fun t => leaves t p o ∧ idle t

/-- R353-R357, R412-R414, R437: a scale-out or a host port: the frame that is expected is delivered and acknowledged, and its operation, in the
form of R412, acts on a host port as the operation of the host does, and is malformed on a scale-out port; one already accepted is acknowledged
again; a bad one, or one after a gap, asks for a replay and is not delivered; an acknowledgement releases the copies before its number; a
replay request, and the end of `ATMO`, send the copies again as they were; `RETRY` resends of one, or a loss of signal, fail the link: `UP` goes,
`OLFAIL` counts (not that of a host port), and a tile with a message offer outstanding on it records cause 0x14; training brings it back. The same holds of a
die-to-die link, whose frames arrive in the order in which they left, and whose two dies both count. An acknowledgement leaves at once,
`SEQ` the next number, where R353 gives no instant; a replay request has the number expected; the EtherType is that of `OLCFG` in force; that
a payload of host operations on a scale-out port is told by its form, and that a host port's failure is not counted, are the model's (notes/assumptions/42.md).
R428: the sideband answers each command with what its row tells, and negatively acknowledges a code it does not know. -/
def Obligations.LinksAndSidebandRun : Prop :=
  (∀ (s : State) (d : Nat) (h : Bool) (seq ack : BitVec 32) (bs : List Byte), (h = true → d % 16 = 0 ∨ d % 16 = 15) →
    let p := s.port d h
    let id : PortId := ⟨d, h, none⟩
    let frame (cfg : BitVec 56) (dst : Option Nat) (kind : Nat) (n e : BitVec 32) (p : List Byte) : Output :=
      .frame d h (cfg.toNat / 2 ^ 40 % 2 ^ 16) dst kind n e p
    let signal (kind : Nat) (n e : BitVec 32) : Output := frame (s.linkCfg d) none kind n e []
    let freed (a : BitVec 32) : List LinkFrame := p.kept.filter fun f => decide (0 ≤ (f.seq - a).toInt)
    let holds (t : State) (q : Port) : Prop := (∀ e, e ≠ d → t.die e = s.die e) ∧ (∀ w, t.tile w = s.tile w) ∧
      t.die d = let x := s.die d
        if h = true then { x with hp := q } else { x with lk := { x.lk with port := q } }
    let becomes (i : Instr) (q : Port) (os : List Output) : Prop := ∃ t, exec i s = .next t ∧ t.outs = s.outs ++ os ∧ holds t q
    let fails (i : Instr) : Prop := (∀ w, (s.tile w).node ≠ .exch) → ∃ t, exec i s = .next t ∧ t.outs = s.outs ∧ (t.port d h).up = false ∧
      (t.die d).lk.fails = (if h = true then (s.die d).lk.fails else (s.die d).lk.fails + 1) ∧ (∀ e, e ≠ d → t.die e = s.die e) ∧
      ∀ w, t.tile w = s.tile w
    let down : Instr := .linkFailure (modOfDie d) true (d % 16 + if h = true then 16 else 0)
    (p.up = true → (s.module (modOfDie d)).alive = true →
      (h = false → hostOps bs = false → seq = p.expected →
        becomes (.oclysDataFrame id seq ack true bs) { p with expected := p.expected + 1, kept := freed ack }
          [.delivered d bs, signal 1 p.nextSeq (p.expected + 1)]) ∧
      (∀ o : OclysOp, o.op < 256 → o.queue < 16 → o.status < 16 → o.len < 2 ^ 16 → o.tag < 2 ^ 32 → o.addr < 2 ^ 40 →
        o.data.length = (if o.op = 2 then 0 else o.len) → (h = true ∨ o.op ∈ [1, 2, 3]) → seq = p.expected →
        let s1 := s.modPort d h fun _ => { p with expected := p.expected + 1, kept := freed ack }
        let acts (i : Instr) : Prop := ∃ t, exec i s1 = .next t ∧ exec (.oclysDataFrame id seq ack true o.bytes) s = .next { t with
          outs := t.outs ++ [frame (t.linkCfg d) none 1 (t.port d h).nextSeq (t.port d h).expected []] }
        if h = false ∨ o.op ∉ [1, 2, 3] ∨ o.op = 3 ∧ (o.onchip = true ∨ o.len ≠ 0) then acts (.malformedOperation id o.op o.tag)
        else if o.op = 1 then acts (.hostWrite d o.onchip o.addr o.tag o.data)
        else if o.op = 2 then acts (.hostRead d o.onchip o.addr o.len o.tag)
        else acts (.hostLaunch d o.queue o.addr o.tag)) ∧
      ((seq - p.expected).toInt < 0 → becomes (.oclysDataFrame id seq ack true bs) { p with kept := freed ack } [signal 1 p.nextSeq p.expected]) ∧
      (0 < (seq - p.expected).toInt → becomes (.oclysDataFrame id seq ack true bs) p [signal 2 p.expected p.expected]) ∧
      becomes (.oclysDataFrame id seq ack false bs) p [signal 2 p.expected p.expected] ∧
      becomes (.oclysAckFrame id ack) { p with kept := freed ack } [] ∧
      (∀ f, p.kept = [f] →
        let again : Port := { p with replay := p.replay + 1, kept := [{ f with resends := f.resends + 1, sentAt := s.clk }] }
        let sent := [frame f.cfg f.dst 0 f.seq p.expected f.payload]
        let late : Prop := f.sentAt + 4 * (f.cfg.toNat / 2 ^ 8 % 2 ^ 32) ≤ s.clk
        (f.resends < f.cfg.toNat % 256 → (0 ≤ (f.seq - seq).toInt → becomes (.oclysReplayRequest id seq) again sent) ∧
          (late → becomes (.oclysAckTimeout id) again sent)) ∧
        (f.cfg.toNat % 256 ≤ f.resends → (0 ≤ (f.seq - seq).toInt → fails (.oclysReplayRequest id seq)) ∧
          (late → fails (.oclysAckTimeout id))))) ∧
    (p.up = true → fails down ∧ ∀ u o, h = false → dieOfTile u = d → (s.tile u).node = .exch → (∀ w, w ≠ u → (s.tile w).node ≠ .exch) →
      (s.tile u).col = [] → (s.tile u).xsched = [] → (s.tile u).recorded = [] → (s.tile u).offered = [] → (s.tile u).cur.outbox = [o] →
      modOfTile o.dst ≠ modOfTile u → ∃ t, exec down s = .next t ∧ (t.port d h).up = false ∧
        (t.tile u).recorded = [⟨0x14, some (5, d % 16, modOfTile o.dst % 4096)⟩] ∧ (t.tile u).offered = [0]) ∧
    ((s.module (modOfDie d)).tripped = false → becomes (.linkTrained id) { p with up := true } [])) ∧
  (∀ (s : State) (d : Nat) (k : Fin 4) (w : Wire) (seq ack : BitVec 32) (bs : List Byte), w.die = d → w.side = k →
    (s.link d k).up = true → (s.module (modOfDie d)).alive = true →
    let p := s.link d k
    let id : PortId := ⟨d, false, some k⟩
    let freed (a : BitVec 32) : List LinkFrame := p.kept.filter fun f => decide (0 ≤ (f.seq - a).toInt)
    let sent (kind : Nat) (n e : BitVec 32) (p : List Byte) : Wire := ⟨beyond d k, facing k, kind, n, e, p⟩
    let becomes (i : Instr) (q : Port) (l : List Wire) : Prop := ∃ t, exec i s = .next t ∧ t.wires = l ∧ t.outs = s.outs ∧
      t.die d = { s.die d with links := (s.die d).links.set k q } ∧ (∀ e, e ≠ d → t.die e = s.die e) ∧ ∀ u, t.tile u = s.tile u
    (s.wires = [w] →
      (w.kind = 0 → let i : Instr := .oclysDataFrame id w.seq w.ack true w.payload
        (w.seq = p.expected → becomes i { p with expected := p.expected + 1, kept := freed w.ack } [sent 1 p.nextSeq (p.expected + 1) []]) ∧
        ((w.seq - p.expected).toInt < 0 → becomes i { p with kept := freed w.ack } [sent 1 p.nextSeq p.expected []]) ∧
        (0 < (w.seq - p.expected).toInt → becomes i p [sent 2 p.expected p.expected []])) ∧
      becomes (.oclysDataFrame id seq ack false bs) p [sent 2 p.expected p.expected []] ∧
      (w.kind = 1 → becomes (.oclysAckFrame id w.ack) { p with kept := freed w.ack } [])) ∧
    (∀ f, p.kept = [f] →
      let again : Port := { p with replay := p.replay + 1, kept := [{ f with resends := f.resends + 1, sentAt := s.clk }] }
      let copy := sent 0 f.seq p.expected f.payload
      let late : Prop := f.sentAt + 4 * (f.cfg.toNat / 2 ^ 8 % 2 ^ 32) ≤ s.clk
      (f.resends < f.cfg.toNat % 256 →
        (s.wires = [w] → w.kind = 2 → 0 ≤ (f.seq - w.seq).toInt → becomes (.oclysReplayRequest id w.seq) again [copy]) ∧
        (late → becomes (.oclysAckTimeout id) again (s.wires ++ [copy]))) ∧
      (f.cfg.toNat % 256 ≤ f.resends → d % 16 / 4 ≠ 3 → k = 3 → late → (∀ u, (s.tile u).node ≠ .exch) →
        ∃ t, exec (.oclysAckTimeout id) s = .next t ∧ (t.link d 3).up = false ∧ (t.link (d + 4) 2).up = false))) ∧
  (∀ (s : State) (m row col : Nat), (∀ u, (s.tile u).node ≠ .exch) →
    let cut (n e f : Nat) (j k : Fin 4) : Prop := (s.link e j).up = true → ∃ t, exec (.linkFailure m false n) s = .next t ∧
      (t.link e j).up = false ∧ (t.link f k).up = false ∧ (∀ i, i ≠ j → t.link e i = s.link e i) ∧ (∀ i, i ≠ k → t.link f i = s.link f i) ∧
      (t.die e).lk.fails = (s.die e).lk.fails + 1 ∧ (t.die f).lk.fails = (s.die f).lk.fails + 1 ∧
      (∀ x ∈ t.wires, ¬(x.die = e ∧ x.side = j) ∧ ¬(x.die = f ∧ x.side = k)) ∧ (∀ x, x ≠ e → x ≠ f → t.die x = s.die x) ∧
      ∀ u, t.tile u = s.tile u
    (row < 4 → col < 3 → cut (3 * row + col) (16 * m + 4 * row + col) (16 * m + 4 * row + col + 1) 1 0) ∧
    (row < 3 → col < 4 → cut (12 + 4 * row + col) (16 * m + 4 * row + col) (16 * m + 4 * row + col + 4) 3 2)) ∧
  (∀ (s : State) (m : Nat) (p : BitVec 16) (x : BitVec 8),
    let y := s.module m
    let tells (i : Instr) (bs : List Byte) : Prop := exec i s = .next { s with outs := s.outs ++ [.sideband m (some bs)] }
    tells (.sbReadMstat m) (leBytes 2 (s.mstat m).toNat) ∧ tells (.sbReadPower m) (leBytes 2 y.pwr.toNat) ∧
    tells (.sbReadBootstat m) (leBytes 1 (y.bootOk.toNat + y.bootB.toNat * 2 + y.bootFail.toNat * 4)) ∧
    (∃ a b, tells (.sbReadTemp m) [BitVec.ofNat 8 a, BitVec.ofNat 8 b] ∧
      (∀ i : Fin 16, (s.die (16 * m + i.val)).ctl.tempDie.toNat ≤ a ∧ (s.die (16 * m + i.val)).ctl.tempHbm.toNat ≤ b) ∧
      (∃ i : Fin 16, (s.die (16 * m + i.val)).ctl.tempDie.toNat = a) ∧ ∃ i : Fin 16, (s.die (16 * m + i.val)).ctl.tempHbm.toNat = b) ∧
    tells (.sbReadIdentity m) (identityKey m) ∧ (identityKey m).length = 57 ∧
    (s.alertLow m = true ↔ (s.mstat m).toNat % 2 = 1 ∨ y.tripped = true) ∧
    (∃ t, exec (.sbWritePcap m p) s = .next t ∧ (t.module m).pcap.toNat = min 7500 (max 4000 p.toNat) ∧
      t.outs = s.outs ++ [.sideband m (some [])]) ∧
    (∃ t, exec (.sbReset m 0xA5) s = .next t ∧ (t.module m).resetClk = s.clk ∧ t.outs = s.outs ++ [.sideband m (some [])]) ∧
    (x ≠ 0xA5 → tells (.sbReset m x) []) ∧
    (x.toNat ∉ [0x01, 0x02, 0x03, 0x04, 0x05, 0x10, 0x11] →
      exec (.sbUnknownCommand m x) s = .next { s with outs := s.outs ++ [.sideband m none] }))

/-! ## Health, power, boot -/

/-- R17, R30, R384, R418, R420-R422, R424-R427, R430: the firmware's and the physical part's steps: a power cap and a slew limit are clamped and stored, and
every die's shaping constants follow; the throttle temperature is clamped; the end of an interval lowers the limit where the power is over
the cap and raises it where it is below 15/16 of it, and sets `OVER` where the interval began with the limit at 1 and the power is over the
cap (the interval and the halt of the agents that are not FREE are the model's readings, notes/assumptions/41.md); a die at 105 degrees or a
stack at 100 trips the module, which halts the cores; a module reset clears dies and tiles and keeps HBM but for the chunks that migration had moved,
which a power-on clears; an image is accepted that is whole, whose key is the fused one, whose signature verifies and whose version is not below
the fuses'; an accepted image starts the service cores (at address 0 of their memories, the model's choice, notes/assumptions/9.md), and two that are not accepted leave the module stopped; a spare row
is enabled on a quiet die; a report is signed and written; an exchange of time messages disciplines pod time, so that what is due at an instant of pod time comes at that
instant of the module's clock, and a module that runs no profile any more has `LOCK` 0. -/
def Obligations.HealthAndPowerRun : Prop :=
  ∀ (s : State) (d : Nat) (v : W),
    let m := modOfDie d
    let y := s.module m
    let same (t : State) : Prop := (∀ w, t.tile w = s.tile w) ∧ ∀ k, k ≠ m → t.module k = s.module k
    let k := min 100 (max 1 (v.toNat % 128))
    (∃ t, exec (.pcapWrite d v) s = .next t ∧ (t.module m).pcap.toNat = min 7500 (max 4000 (v.toNat % 8192)) ∧ same t) ∧
    (∃ t, exec (.pslewWrite d v) s = .next t ∧ (t.module m).pslew.toNat = k ∧ same t ∧
      ∀ i : Fin 16, (t.die (16 * m + i.val)).qd.shape.toNat =
        1 + k * 2 ^ 8 + (s.die (16 * m + i.val)).qd.shape.toNat / 2 ^ 16 % 256 * 2 ^ 16 + 260000 / k * 2 ^ 24) ∧
    (∃ t, exec (.throtWrite d v) s = .next t ∧ (t.die d).ctl.throt.toNat = min 100 (max 70 (v.toNat / 2 ^ 16 % 256)) ∧ same t) ∧
    (∀ (p : BitVec 16) (scale : Nat × Nat × Nat), (∀ i : Fin 16, (s.die (16 * m + i.val)).hot = false) → s.shares m = [] →
      ∃ t, exec (.powerCapInterval m p scale []) s = .next t ∧ (t.module m).pwr = p ∧ (∀ j, j ≠ m → t.module j = s.module j) ∧
        (∀ w, t.tile w = if modOfTile w = m then { s.tile w with activity := (0, 0, 0) } else s.tile w) ∧
        (y.pcap.toNat < p.toNat → 1 < y.caplim.toNat → (t.module m).caplim = y.caplim - 1) ∧
        (y.pcap.toNat < p.toNat → y.caplim = 1 → (t.module m).caplim = 1 ∧ (t.module m).powerOver = true) ∧
        (16 * p.toNat < 15 * y.pcap.toNat → y.caplim.toNat < 255 → (t.module m).caplim = y.caplim + 1) ∧
        (15 * y.pcap.toNat ≤ 16 * p.toNat → p.toNat ≤ y.pcap.toNat → 1 ≤ y.caplim.toNat → (t.module m).caplim = y.caplim)) ∧
    (let hot : Prop := ∃ i : Fin 16, 105 ≤ (s.die (16 * m + i.val)).ctl.tempDie.toNat ∨ 100 ≤ (s.die (16 * m + i.val)).ctl.tempHbm.toNat
     (hot → y.tripped = false → ∃ t, exec (.thermalTrip m) s = .next t ∧ (t.module m).tripped = true ∧ (t.module m).alive = false ∧
      ∀ w, (modOfTile w ≠ m → t.tile w = s.tile w) ∧ (modOfTile w = m → (t.tile w).launching = false ∧ ∀ a : Fin 10,
        (t.tile w).cur.agents[a].st = if (s.tile w).cur.agents[a].st = .free then .free else .halt)) ∧
     (¬hot ∨ y.tripped = true → exec (.thermalTrip m) s = .next s)) ∧
    (∃ t, exec (.moduleReset m) s = .next t ∧
      ((∀ i : Fin 16, (s.die (16 * m + i.val)).mc.migTable = []) → (t.module m).hbm = y.hbm) ∧ (t.module m).resetClk = s.clk ∧ (t.module m).tripped = false ∧
      (∀ e, modOfDie e = m → t.die e = Die.reset) ∧ (∀ e, modOfDie e ≠ m → t.die e = s.die e) ∧
      ∀ w, (modOfTile w = m → (t.tile w).inReg = false ∧ (t.tile w).cur = TileVer.reset ∧ (t.tile w).node = .stop) ∧
        (modOfTile w ≠ m → t.tile w = s.tile w)) ∧
    (∃ t, exec (.powerOn m) s = .next t ∧ (t.module m).hbm = Memory.empty ∧ (t.module m).badHbm = []) ∧
    (∀ img : List Byte, let part (a n : Nat) : List Byte := (img.drop a).take n
      y.accepts img = true ↔ 256 + leNat (part 8 8) ≤ img.length ∧ shake256 (part 130 57) 32 = y.keyHash ∧
        ed448Verify (part 130 57) (part 0 16 ++ part 256 (leNat (part 8 8))) (part 16 114) = true ∧ y.fuses.toNat ≤ leNat (part 0 8)) ∧
    (y.bootOk = false → y.bootFail = false → y.tripped = false →
      (y.accepts y.flashA = true → ∃ t, exec (.secureBoot m) s = .next t ∧ (t.module m).bootOk = true ∧ (t.module m).bootB = false ∧
        ∀ (i : Fin 16) (c : Fin 2), (t.agentOf (.svc (16 * m + i.val) c)).st = .run ∧ (t.agentOf (.svc (16 * m + i.val) c)).pc = 0) ∧
      (y.accepts y.flashA = false → y.accepts y.flashB = true → ∃ t, exec (.secureBoot m) s = .next t ∧ (t.module m).bootOk = true ∧
        (t.module m).bootB = true) ∧
      (y.accepts y.flashA = false → y.accepts y.flashB = false → ∃ t, exec (.secureBoot m) s = .next t ∧
        (t.module m).bootFail = true ∧ (t.module m).alive = false)) ∧
    (s.dieQuiet d = true → v.toNat < 2 ^ 12 → ∃ t, exec (.spareControlWrite d 0x37A (v ||| 0x8000000000000000#64)) s = .next t ∧
      kvGet 0 (t.die d).ctl.rsprow (s.die d).ctl.rspsel.toNat = v ||| 0x8000000000000000#64) ∧
    (s.dieQuiet d = false → exec (.spareControlWrite d 0x37A v) s = .next { s with outs := s.outs ++ [.refused 0x37A] }) ∧
    (y.attBusy = false → ∃ t, exec (.attestationStart d v) s = .next t ∧ (t.module m).attBusy = true ∧
      (t.module m).attPa.toNat = v.toNat % 2 ^ 40 ∧ same t) ∧
    (y.attBusy = true → y.attPa.toNat + 320 ≤ 0xC000000000 → ∃ t, exec (.attestationDone m) s = .next t ∧ (t.module m).attBusy = false ∧
      same t ∧
      t.hbmNat m (y.attPa.toNat + 80) 8 = (Config.serial m).toNat ∧ t.hbmNat m (y.attPa.toNat + 88) 8 = (s.mstat m).toNat ∧
      t.hbmNat m (y.attPa.toNat + 96) 8 = (s.podTime m s.clk).toNat ∧ t.hbmNat m (y.attPa.toNat + 104) 57 = leNat (identityKey m) ∧
      (∀ j, j < 64 → (t.module m).hbm.get (y.attPa.toNat + 16 + j) = y.measurement.getD j 0) ∧
      (s.hbmBad m y.attPa.toNat 16 = none → ∀ j, j < 114 →
        (t.module m).hbm.get (y.attPa.toNat + 168 + j) =
          (ed448Sign (identitySecret m) ((List.range 168).map fun i => (t.module m).hbm.get (y.attPa.toNat + i))).getD j 0) ∧
      ∀ x, (x < y.attPa.toNat + 16 ∨ y.attPa.toNat + 320 ≤ x) → (t.module m).hbm.get x = y.hbm.get x) ∧
    (∀ (o : BitVec 16) (j : Int), ∃ t, exec (.ieee1588Sync m o (some j)) s = .next t ∧ (t.module m).podAdj = y.podAdj + j ∧
      (t.module m).ptpOfs = o ∧ ((t.module m).ptpLock = true ↔ -4 ≤ o.toInt ∧ o.toInt ≤ 4) ∧ (∀ k, k ≠ m → t.module k = s.module k) ∧
      let sooner (n : Nat) : Nat := ((n : Int) - 4 * j).toNat
      ∀ w, (modOfTile w ≠ m → t.tile w = s.tile w) ∧ (modOfTile w = m → (t.tile w).cur = (s.tile w).cur ∧ (t.tile w).tm = (s.tile w).tm ∧
        ((s.tile w).node = .relwait → (t.tile w).startAt = (s.tile w).startAt.map sooner) ∧
        ((s.tile w).node = .arrived → (t.tile w).xStart = (s.tile w).xStart.map sooner) ∧
        (t.tile w).down = (s.tile w).down.map fun q => { q with instant := sooner q.instant })) ∧
    (∀ o : BitVec 16, ∃ t, exec (.ieee1588Sync m o none) s = .next t ∧ t.module m = { y with ptpLock := false } ∧ same t)

/-! ## The whole machine -/

/-- Whatever the state, every instruction and every step of the machine of the opcode table gives a next state, and so does the step of
the part: none ends in a fault or a refusal. -/
def Obligations.EveryInstructionRuns : Prop :=
  (∀ (i : Instr) (s : State), ∃ t, exec i s = .next t) ∧ ∀ s : State, ∃ t, step s = .next t

/-- A step whose agent issues runs the instruction that the decoder reads at its PC: the entry of the schedule names the agent, or the
policy of the empty schedule picks it (the schedule and its policy are the model's, notes/assumptions/2.md), and no cause, watchdog limit, range
error or uncorrectable word comes first (R61, R100, R116, R120); a deferred cause does not come before an instruction that is issued again
as its wait has completed. A service core whose `ctxsv` or `ctxld` runs ends it (R408). Around the instruction the step counts the tile's activity (R420) and
notes the operations on semaphores, whose order in a 2 GHz cycle R102 fixes: an instruction that would break the order comes in the next
cycle, and one that meets no operation noted in this cycle comes at once. -/
def Obligations.StepRunsDecoded : Prop :=
  ∀ (s : State) (w : Who) (i : Instr) (n : Nat), s.forced = none → s.canIssue w = true →
    (s.copyOf w = none ∧ ((s.agentOf w).deferred = none ∨ (s.agentOf w).resuming = true) ∧
      s.wdogDue (s.agentOf w) = false ∧ (s.agentOf w).pc.toNat < whoMem w ∧
      badHit 16 (s.memOf w).2 (s.agentOf w).pc.toNat 4 = none ∧ n = s.numAt w (s.agentOf w).pc.toNat 4 ∨
      ∃ k, s.copyOf w = some k ∧ n = k.word) → decode n = some i →
    let goes (s1 : State) : State := if (s.agentOf w).resuming = true then s1.setAgentOf w { s.agentOf w with resuming := false } else s1
    (∀ rest, s.sched = .run 0 w :: rest → let s1 := { s with sched := rest, turn := w }
      let out := (goes s1).count n (exec i (goes s1))
      step s = s1.paced s (s1.issueSem out) out) ∧
    (s.sched = [] → s.roundNext = some w → let s1 := { s with turn := w }
      let out := (goes s1).count n (exec i (goes s1))
      step s = s1.paced s (s1.issueSem out) out) ∧
    ∀ s1 t, s1 = { s with turn := w, sched := s1.sched } → s.semSeen = [] → exec i (goes s1) = .next t →
      (s.sched = .run 0 w :: s1.sched ∨ s1.sched = [] ∧ s.sched = [] ∧ s.roundNext = some w) →
      ∃ u, step s = .next u ∧ u = { t with tiles := u.tiles, semSeen := u.semSeen } ∧
        ∀ k, u.tile k = { t.tile k with activity := (u.tile k).activity }

/-- Every step keeps the canonical form of every memory (tile memory, accumulators, weight slots, mailboxes, core memories, HBM), so that
equal memories are equal data. -/
def Obligations.StepKeepsMemories : Prop :=
  ∀ (s t : State), s.memoriesWf → step s = .next t → t.memoriesWf

/-- R62: every step keeps the two low bits of every PC at 0: of every agent as it stands and as it was at the start of the superstep,
and of every service core. -/
def Obligations.StepKeepsPcAligned : Prop :=
  ∀ (s t : State), s.pcsAligned → step s = .next t → t.pcsAligned

/-- Every step keeps the lists of the part in order: tiles, dies, modules and Firefly cells by rising number, each region under a number
of its own, the last chosen strand one of the eight (R113), an outbox entry 64 bytes (R298). -/
def Obligations.StepKeepsLists : Prop :=
  ∀ (s t : State), s.listsWf → step s = .next t → t.listsWf

/-- R30, R45, R65, R122, R198, R218, R247, R261, R359, R387, R403, R417, R430: what reset leaves: tiles in no region with every agent FREE, the CSRs at
their reset values, HBM that reads zero; and the forms that every step keeps. The reset value of tile memory is the model's choice and is
not stated. -/
def Obligations.ResetState : Prop :=
  let s := State.reset
  s.memoriesWf ∧ s.listsWf ∧ s.pcsAligned ∧
    (∀ u, let tl := s.tile u
      tl.inReg = false ∧ tl.node = .stop ∧ tl.quiescent = true ∧ tl.ssnum = 0 ∧ tl.cur.vmask = 0 ∧ tl.cur.srkey = 0 ∧ tl.haulQ = [] ∧
      tl.shapeQ = [] ∧ tl.matQ = [] ∧ tl.l1 = [] ∧ tl.vs = [] ∧ (∀ n : Fin 16, tl.cur.accSt[n] = .free) ∧
      ∀ a : Fin 10, let g := tl.cur.agents[a]
        g.st = .free ∧ g.mctx = 0x777 ∧ g.causeCode = 0 ∧ g.causeInh = false ∧ g.epc = 0 ∧ g.faddr = 0 ∧ g.tvec = 0 ∧ g.prio = 0 ∧
        g.wdogLimit = 0x01000000 ∧ g.scratch = 0) ∧
    (∀ d, let x := s.die d
      x.qd.commit = 0 ∧ x.qd.abort = 0 ∧ x.qd.qcrec = [] ∧ x.mc.hdsize = 256 ∧ x.mc.fmodeRec = true ∧ x.mc.llt = [] ∧ x.lk.ctmo = 50000 ∧
      x.lk.cbsize = 64 ∧ x.lk.port.up = false ∧ x.hp.up = false ∧ x.ctl.throt = 95 ∧ ∀ i : Fin 16, (x.ff.ctxs[i]).valid = false) ∧
    (∀ m, let y := s.module m
      y.pcap = 7500 ∧ y.pslew = 10 ∧ y.caplim = 255 ∧ y.lfence = 0 ∧ y.badHbm = [] ∧ ∀ a, y.hbm.get a = 0)

/-- R57-R60, R69-R78: decoding and encoding agree: a word decodes to an instruction exactly where the instruction is well formed and
the word is its encoding, so that every operand at every value comes back and no bit is dropped. -/
def Obligations.DecodeAndEncodeAgree : Prop :=
  ∀ (i : Instr) (w : Nat), w < 2 ^ 32 → (decode w = some i ↔ i.wf = true ∧ encode i = some w)

/-- R69-R78: words written out from the encoding tables decode to the instructions they stand for; a word of zeros is none. -/
def Obligations.DecodeWords : Prop :=
  decode (0x01 + 1 * 2 ^ 7 + 2 * 2 ^ 12 + 3 * 2 ^ 17) = some (.add 1 2 3) ∧
  decode (0x02 + 1 * 2 ^ 7 + 2 * 2 ^ 12 + 0x7FFF * 2 ^ 17) = some (.addi 1 2 0x7FFF) ∧
  decode (0x30 + 4 * 2 ^ 7 + 5 * 2 ^ 12 + 6 * 2 ^ 17 + 1 * 2 ^ 22 + 3 * 2 ^ 24) = some (.sync 4 5 6 1 3) ∧
  decode (0x7F + 0xABCDE * 2 ^ 12) = some (.brk 0xABCDE) ∧ decode 0 = none ∧ decode (0x30 + 7 * 2 ^ 24) = none
end

