-- ==== Sys2Proof/Laws/Maps.lean ====
section
/-! SUPPORT. Looking up in the maps of the state after an update. -/

namespace Sys2Proof.Machine

@[simp] theorem kvGet_kvSet_self {α : Type} (d : α) (l : List (Nat × α)) (k : Nat) (v : α) : kvGet d (kvSet l k v) k = v := by
  induction l with
  | nil => simp [kvSet, kvGet]
  | cons p t ih =>
    obtain ⟨j, w⟩ := p
    simp only [kvSet]
    split
    · rename_i h
      simp [kvGet, Nat.ne_of_lt h, ih]
    · split <;> simp [kvGet]

@[simp] theorem kvGet_kvSet_ne {α : Type} (d : α) (l : List (Nat × α)) {k j : Nat} (v : α) (h : j ≠ k) :
    kvGet d (kvSet l k v) j = kvGet d l j := by
  induction l with
  | nil => simp [kvSet, kvGet, Ne.symm h]
  | cons p t ih =>
    obtain ⟨i, w⟩ := p
    simp only [kvSet]
    split
    · simp [kvGet, ih]
    · split
      · rename_i h2
        simp [kvGet, h2, Ne.symm h]
      · simp [kvGet, Ne.symm h]

theorem kvGet_kvSet {α : Type} (d : α) (l : List (Nat × α)) (k j : Nat) (v : α) :
    kvGet d (kvSet l k v) j = if j = k then v else kvGet d l j := by
  split
  · rename_i h
    simp [h]
  · rename_i h
    simp [h]

/-- The keys of a map rise. -/
def KeysRise {α : Type} : Nat → List (Nat × α) → Prop
  | _, [] => True
  | lo, (k, _) :: t => lo ≤ k ∧ KeysRise (k + 1) t

theorem KeysRise.mono {α : Type} {a b : Nat} (h : a ≤ b) : ∀ {l : List (Nat × α)}, KeysRise b l → KeysRise a l
  | [], _ => trivial
  | _ :: _, hl => ⟨Nat.le_trans h hl.1, hl.2⟩

theorem KeysRise.kvSet {α : Type} (k : Nat) (v : α) : ∀ {l : List (Nat × α)} {lo : Nat}, lo ≤ k → KeysRise lo l →
    KeysRise lo (kvSet l k v)
  | [], _, h, _ => ⟨h, trivial⟩
  | (j, w) :: t, lo, h, hl => by
    simp only [Machine.kvSet]
    split
    · rename_i hj
      exact ⟨hl.1, KeysRise.kvSet k v hj hl.2⟩
    · split
      · rename_i hj
        subst hj
        exact ⟨h, hl.2⟩
      · exact ⟨h, by omega, hl.2⟩

/-! ## Tiles, dies, modules -/

@[simp] theorem State.tile_setTile_self (s : State) (t : Nat) (x : Tile) : (s.setTile t x).tile t = x := kvGet_kvSet_self _ _ _ _
@[simp] theorem State.tile_setTile_ne (s : State) {t u : Nat} (x : Tile) (h : u ≠ t) : (s.setTile t x).tile u = s.tile u :=
  kvGet_kvSet_ne _ _ _ h
@[simp] theorem State.die_setDie_self (s : State) (d : Nat) (x : Die) : (s.setDie d x).die d = x := kvGet_kvSet_self _ _ _ _
@[simp] theorem State.die_setDie_ne (s : State) {d e : Nat} (x : Die) (h : e ≠ d) : (s.setDie d x).die e = s.die e :=
  kvGet_kvSet_ne _ _ _ h
@[simp] theorem State.module_setModule_self (s : State) (m : Nat) (x : Module) : (s.setModule m x).module m = x :=
  kvGet_kvSet_self _ _ _ _
@[simp] theorem State.module_setModule_ne (s : State) {m n : Nat} (x : Module) (h : n ≠ m) :
    (s.setModule m x).module n = s.module n := kvGet_kvSet_ne _ _ _ h

theorem State.tile_modTile (s : State) (t u : Nat) (f : Tile → Tile) :
    (s.modTile t f).tile u = if u = t then f (s.tile u) else s.tile u := by
  unfold State.modTile
  split
  · rename_i h
    subst h
    simp
  · rename_i h
    simp [h]

theorem State.die_modDie (s : State) (d e : Nat) (f : Die → Die) :
    (s.modDie d f).die e = if e = d then f (s.die e) else s.die e := by
  unfold State.modDie
  split
  · rename_i h
    subst h
    simp
  · rename_i h
    simp [h]

theorem State.module_modModule (s : State) (m n : Nat) (f : Module → Module) :
    (s.modModule m f).module n = if n = m then f (s.module n) else s.module n := by
  unfold State.modModule
  split
  · rename_i h
    subst h
    simp
  · rename_i h
    simp [h]

/-! ## Agents -/

@[simp] theorem State.agentOf_setAgentOf_self (s : State) (w : Who) (g : Agent) : (s.setAgentOf w g).agentOf w = g := by
  cases w <;> simp [State.setAgentOf, State.agentOf, State.tile_modTile, State.die_modDie, Tile.setAgent, Die.setSvc]

theorem State.agentOf_setAgentOf_ne (s : State) {w v : Who} (g : Agent) (h : v ≠ w) :
    (s.setAgentOf w g).agentOf v = s.agentOf v := by
  cases w <;> cases v <;> simp only [State.setAgentOf, State.agentOf, State.tile_modTile, State.die_modDie, Tile.setAgent, Die.setSvc] <;>
    first
    | rfl
    | split
      · rename_i e
        subst e
        simp_all [Fin.ext_iff, eq_comm]
      · rfl

end Sys2Proof.Machine
end

