-- ==== Sys2Proof/Laws/State.lean ====
section
/-! SUPPORT. What each named update of the state leaves alone, field by field, so that no proof unfolds a record update. -/

namespace Sys2Proof.Machine

/-! ## A tile, a die, a module put in place -/

@[simp] theorem State.setTile_clk (s : State) (t : Nat) (x : Tile) : (s.setTile t x).clk = s.clk := rfl
@[simp] theorem State.setTile_turn (s : State) (t : Nat) (x : Tile) : (s.setTile t x).turn = s.turn := rfl
@[simp] theorem State.setTile_sched (s : State) (t : Nat) (x : Tile) : (s.setTile t x).sched = s.sched := rfl
@[simp] theorem State.setTile_free (s : State) (t : Nat) (x : Tile) : (s.setTile t x).free = s.free := rfl
@[simp] theorem State.setTile_dies (s : State) (t : Nat) (x : Tile) : (s.setTile t x).dies = s.dies := rfl
@[simp] theorem State.setTile_modules (s : State) (t : Nat) (x : Tile) : (s.setTile t x).modules = s.modules := rfl
@[simp] theorem State.setTile_regions (s : State) (t : Nat) (x : Tile) : (s.setTile t x).regions = s.regions := rfl
@[simp] theorem State.setTile_nextSerial (s : State) (t : Nat) (x : Tile) : (s.setTile t x).nextSerial = s.nextSerial := rfl
@[simp] theorem State.setTile_up (s : State) (t : Nat) (x : Tile) : (s.setTile t x).up = s.up := rfl
@[simp] theorem State.setTile_flits (s : State) (t : Nat) (x : Tile) : (s.setTile t x).flits = s.flits := rfl
@[simp] theorem State.setTile_xfers (s : State) (t : Nat) (x : Tile) : (s.setTile t x).xfers = s.xfers := rfl
@[simp] theorem State.setTile_wires (s : State) (t : Nat) (x : Tile) : (s.setTile t x).wires = s.wires := rfl
@[simp] theorem State.setTile_semSeen (s : State) (t : Nat) (x : Tile) : (s.setTile t x).semSeen = s.semSeen := rfl
@[simp] theorem State.setTile_outs (s : State) (t : Nat) (x : Tile) : (s.setTile t x).outs = s.outs := rfl
@[simp] theorem State.setTile_die (s : State) (t : Nat) (x : Tile) (k : Nat) : (s.setTile t x).die k = s.die k := rfl
@[simp] theorem State.setTile_module (s : State) (t : Nat) (x : Tile) (k : Nat) : (s.setTile t x).module k = s.module k := rfl

@[simp] theorem State.setDie_clk (s : State) (d : Nat) (x : Die) : (s.setDie d x).clk = s.clk := rfl
@[simp] theorem State.setDie_turn (s : State) (d : Nat) (x : Die) : (s.setDie d x).turn = s.turn := rfl
@[simp] theorem State.setDie_sched (s : State) (d : Nat) (x : Die) : (s.setDie d x).sched = s.sched := rfl
@[simp] theorem State.setDie_free (s : State) (d : Nat) (x : Die) : (s.setDie d x).free = s.free := rfl
@[simp] theorem State.setDie_tiles (s : State) (d : Nat) (x : Die) : (s.setDie d x).tiles = s.tiles := rfl
@[simp] theorem State.setDie_modules (s : State) (d : Nat) (x : Die) : (s.setDie d x).modules = s.modules := rfl
@[simp] theorem State.setDie_regions (s : State) (d : Nat) (x : Die) : (s.setDie d x).regions = s.regions := rfl
@[simp] theorem State.setDie_nextSerial (s : State) (d : Nat) (x : Die) : (s.setDie d x).nextSerial = s.nextSerial := rfl
@[simp] theorem State.setDie_up (s : State) (d : Nat) (x : Die) : (s.setDie d x).up = s.up := rfl
@[simp] theorem State.setDie_flits (s : State) (d : Nat) (x : Die) : (s.setDie d x).flits = s.flits := rfl
@[simp] theorem State.setDie_xfers (s : State) (d : Nat) (x : Die) : (s.setDie d x).xfers = s.xfers := rfl
@[simp] theorem State.setDie_wires (s : State) (d : Nat) (x : Die) : (s.setDie d x).wires = s.wires := rfl
@[simp] theorem State.setDie_semSeen (s : State) (d : Nat) (x : Die) : (s.setDie d x).semSeen = s.semSeen := rfl
@[simp] theorem State.setDie_outs (s : State) (d : Nat) (x : Die) : (s.setDie d x).outs = s.outs := rfl
@[simp] theorem State.setDie_tile (s : State) (d : Nat) (x : Die) (k : Nat) : (s.setDie d x).tile k = s.tile k := rfl
@[simp] theorem State.setDie_module (s : State) (d : Nat) (x : Die) (k : Nat) : (s.setDie d x).module k = s.module k := rfl

@[simp] theorem State.setModule_clk (s : State) (m : Nat) (x : Module) : (s.setModule m x).clk = s.clk := rfl
@[simp] theorem State.setModule_turn (s : State) (m : Nat) (x : Module) : (s.setModule m x).turn = s.turn := rfl
@[simp] theorem State.setModule_sched (s : State) (m : Nat) (x : Module) : (s.setModule m x).sched = s.sched := rfl
@[simp] theorem State.setModule_free (s : State) (m : Nat) (x : Module) : (s.setModule m x).free = s.free := rfl
@[simp] theorem State.setModule_tiles (s : State) (m : Nat) (x : Module) : (s.setModule m x).tiles = s.tiles := rfl
@[simp] theorem State.setModule_dies (s : State) (m : Nat) (x : Module) : (s.setModule m x).dies = s.dies := rfl
@[simp] theorem State.setModule_regions (s : State) (m : Nat) (x : Module) : (s.setModule m x).regions = s.regions := rfl
@[simp] theorem State.setModule_nextSerial (s : State) (m : Nat) (x : Module) : (s.setModule m x).nextSerial = s.nextSerial := rfl
@[simp] theorem State.setModule_up (s : State) (m : Nat) (x : Module) : (s.setModule m x).up = s.up := rfl
@[simp] theorem State.setModule_flits (s : State) (m : Nat) (x : Module) : (s.setModule m x).flits = s.flits := rfl
@[simp] theorem State.setModule_xfers (s : State) (m : Nat) (x : Module) : (s.setModule m x).xfers = s.xfers := rfl
@[simp] theorem State.setModule_wires (s : State) (m : Nat) (x : Module) : (s.setModule m x).wires = s.wires := rfl
@[simp] theorem State.setModule_semSeen (s : State) (m : Nat) (x : Module) : (s.setModule m x).semSeen = s.semSeen := rfl
@[simp] theorem State.setModule_outs (s : State) (m : Nat) (x : Module) : (s.setModule m x).outs = s.outs := rfl
@[simp] theorem State.setModule_tile (s : State) (m : Nat) (x : Module) (k : Nat) : (s.setModule m x).tile k = s.tile k := rfl
@[simp] theorem State.setModule_die (s : State) (m : Nat) (x : Module) (k : Nat) : (s.setModule m x).die k = s.die k := rfl

/-! ## An agent of a tile put in place -/

@[simp] theorem Tile.setAgent_shadow (tl : Tile) (a : Fin 10) (g : Agent) : (tl.setAgent a g).shadow = tl.shadow := rfl
@[simp] theorem Tile.setAgent_tm (tl : Tile) (a : Fin 10) (g : Agent) : (tl.setAgent a g).tm = tl.tm := rfl
@[simp] theorem Tile.setAgent_bad (tl : Tile) (a : Fin 10) (g : Agent) : (tl.setAgent a g).bad = tl.bad := rfl
@[simp] theorem Tile.setAgent_poison (tl : Tile) (a : Fin 10) (g : Agent) : (tl.setAgent a g).poison = tl.poison := rfl
@[simp] theorem Tile.setAgent_acc (tl : Tile) (a : Fin 10) (g : Agent) : (tl.setAgent a g).acc = tl.acc := rfl
@[simp] theorem Tile.setAgent_badAcc (tl : Tile) (a : Fin 10) (g : Agent) : (tl.setAgent a g).badAcc = tl.badAcc := rfl
@[simp] theorem Tile.setAgent_vs (tl : Tile) (a : Fin 10) (g : Agent) : (tl.setAgent a g).vs = tl.vs := rfl
@[simp] theorem Tile.setAgent_node (tl : Tile) (a : Fin 10) (g : Agent) : (tl.setAgent a g).node = tl.node := rfl
@[simp] theorem Tile.setAgent_vmaskEff (tl : Tile) (a : Fin 10) (g : Agent) : (tl.setAgent a g).vmaskEff = tl.vmaskEff := rfl
@[simp] theorem Tile.setAgent_recorded (tl : Tile) (a : Fin 10) (g : Agent) : (tl.setAgent a g).recorded = tl.recorded := rfl
@[simp] theorem Tile.setAgent_stopping (tl : Tile) (a : Fin 10) (g : Agent) : (tl.setAgent a g).stopping = tl.stopping := rfl
@[simp] theorem Tile.setAgent_region (tl : Tile) (a : Fin 10) (g : Agent) : (tl.setAgent a g).region = tl.region := rfl
@[simp] theorem Tile.setAgent_ssnum (tl : Tile) (a : Fin 10) (g : Agent) : (tl.setAgent a g).ssnum = tl.ssnum := rfl
@[simp] theorem Tile.setAgent_rr (tl : Tile) (a : Fin 10) (g : Agent) : (tl.setAgent a g).rr = tl.rr := rfl
@[simp] theorem Tile.setAgent_issueSlot (tl : Tile) (a : Fin 10) (g : Agent) : (tl.setAgent a g).issueSlot = tl.issueSlot := rfl
@[simp] theorem Tile.setAgent_retired (tl : Tile) (a : Fin 10) (g : Agent) : (tl.setAgent a g).retired = tl.retired := rfl
@[simp] theorem Tile.setAgent_space (tl : Tile) (a : Fin 10) (g : Agent) : (tl.setAgent a g).space = tl.space := rfl
@[simp] theorem Tile.setAgent_slot (tl : Tile) (a : Fin 10) (g : Agent) : (tl.setAgent a g).slot = tl.slot := rfl
@[simp] theorem Tile.setAgent_l1 (tl : Tile) (a : Fin 10) (g : Agent) : (tl.setAgent a g).l1 = tl.l1 := rfl
@[simp] theorem Tile.setAgent_haulQ (tl : Tile) (a : Fin 10) (g : Agent) : (tl.setAgent a g).haulQ = tl.haulQ := rfl
@[simp] theorem Tile.setAgent_haulStore (tl : Tile) (a : Fin 10) (g : Agent) : (tl.setAgent a g).haulStore = tl.haulStore := rfl
@[simp] theorem Tile.setAgent_opSeq (tl : Tile) (a : Fin 10) (g : Agent) : (tl.setAgent a g).opSeq = tl.opSeq := rfl
@[simp] theorem Tile.setAgent_olds (tl : Tile) (a : Fin 10) (g : Agent) : (tl.setAgent a g).olds = tl.olds := rfl
@[simp] theorem Tile.setAgent_reads (tl : Tile) (a : Fin 10) (g : Agent) : (tl.setAgent a g).reads = tl.reads := rfl
@[simp] theorem Tile.setAgent_held (tl : Tile) (a : Fin 10) (g : Agent) : (tl.setAgent a g).held = tl.held := rfl
@[simp] theorem Tile.setAgent_ffOpen (tl : Tile) (a : Fin 10) (g : Agent) : (tl.setAgent a g).ffOpen = tl.ffOpen := rfl
@[simp] theorem Tile.setAgent_pfNext (tl : Tile) (a : Fin 10) (g : Agent) : (tl.setAgent a g).pfNext = tl.pfNext := rfl
@[simp] theorem Tile.setAgent_pfServe (tl : Tile) (a : Fin 10) (g : Agent) : (tl.setAgent a g).pfServe = tl.pfServe := rfl
@[simp] theorem Tile.setAgent_dirty (tl : Tile) (a : Fin 10) (g : Agent) : (tl.setAgent a g).dirty = tl.dirty := rfl
@[simp] theorem Tile.setAgent_deltas (tl : Tile) (a : Fin 10) (g : Agent) : (tl.setAgent a g).deltas = tl.deltas := rfl
@[simp] theorem Tile.setAgent_shapeQ (tl : Tile) (a : Fin 10) (g : Agent) : (tl.setAgent a g).shapeQ = tl.shapeQ := rfl
@[simp] theorem Tile.setAgent_matQ (tl : Tile) (a : Fin 10) (g : Agent) : (tl.setAgent a g).matQ = tl.matQ := rfl
@[simp] theorem Tile.setAgent_matSeq (tl : Tile) (a : Fin 10) (g : Agent) : (tl.setAgent a g).matSeq = tl.matSeq := rfl
@[simp] theorem Tile.setAgent_arrayUntil (tl : Tile) (a : Fin 10) (g : Agent) : (tl.setAgent a g).arrayUntil = tl.arrayUntil := rfl
@[simp] theorem Tile.setAgent_slotMem (tl : Tile) (a : Fin 10) (g : Agent) : (tl.setAgent a g).slotMem = tl.slotMem := rfl
@[simp] theorem Tile.setAgent_slotDesc (tl : Tile) (a : Fin 10) (g : Agent) : (tl.setAgent a g).slotDesc = tl.slotDesc := rfl
@[simp] theorem Tile.setAgent_badSlot (tl : Tile) (a : Fin 10) (g : Agent) : (tl.setAgent a g).badSlot = tl.badSlot := rfl
@[simp] theorem Tile.setAgent_slotsLoaded (tl : Tile) (a : Fin 10) (g : Agent) : (tl.setAgent a g).slotsLoaded = tl.slotsLoaded := rfl
@[simp] theorem Tile.setAgent_slotsSet (tl : Tile) (a : Fin 10) (g : Agent) : (tl.setAgent a g).slotsSet = tl.slotsSet := rfl
@[simp] theorem Tile.setAgent_mshWin (tl : Tile) (a : Fin 10) (g : Agent) : (tl.setAgent a g).mshWin = tl.mshWin := rfl
@[simp] theorem Tile.setAgent_mshCnt (tl : Tile) (a : Fin 10) (g : Agent) : (tl.setAgent a g).mshCnt = tl.mshCnt := rfl
@[simp] theorem Tile.setAgent_startClk (tl : Tile) (a : Fin 10) (g : Agent) : (tl.setAgent a g).startClk = tl.startClk := rfl
@[simp] theorem Tile.setAgent_shapeEff (tl : Tile) (a : Fin 10) (g : Agent) : (tl.setAgent a g).shapeEff = tl.shapeEff := rfl
@[simp] theorem Tile.setAgent_limit (tl : Tile) (a : Fin 10) (g : Agent) : (tl.setAgent a g).limit = tl.limit := rfl
@[simp] theorem Tile.setAgent_mbx (tl : Tile) (a : Fin 10) (g : Agent) : (tl.setAgent a g).mbx = tl.mbx := rfl
@[simp] theorem Tile.setAgent_mbSrc (tl : Tile) (a : Fin 10) (g : Agent) : (tl.setAgent a g).mbSrc = tl.mbSrc := rfl
@[simp] theorem Tile.setAgent_badMb (tl : Tile) (a : Fin 10) (g : Agent) : (tl.setAgent a g).badMb = tl.badMb := rfl
@[simp] theorem Tile.setAgent_xsched (tl : Tile) (a : Fin 10) (g : Agent) : (tl.setAgent a g).xsched = tl.xsched := rfl
@[simp] theorem Tile.setAgent_xStart (tl : Tile) (a : Fin 10) (g : Agent) : (tl.setAgent a g).xStart = tl.xStart := rfl
@[simp] theorem Tile.setAgent_winEff (tl : Tile) (a : Fin 10) (g : Agent) : (tl.setAgent a g).winEff = tl.winEff := rfl
@[simp] theorem Tile.setAgent_offered (tl : Tile) (a : Fin 10) (g : Agent) : (tl.setAgent a g).offered = tl.offered := rfl
@[simp] theorem Tile.setAgent_col (tl : Tile) (a : Fin 10) (g : Agent) : (tl.setAgent a g).col = tl.col := rfl
@[simp] theorem Tile.setAgent_ctmoEff (tl : Tile) (a : Fin 10) (g : Agent) : (tl.setAgent a g).ctmoEff = tl.ctmoEff := rfl
@[simp] theorem Tile.setAgent_cbEff (tl : Tile) (a : Fin 10) (g : Agent) : (tl.setAgent a g).cbEff = tl.cbEff := rfl
@[simp] theorem Tile.setAgent_olcfgEff (tl : Tile) (a : Fin 10) (g : Agent) : (tl.setAgent a g).olcfgEff = tl.olcfgEff := rfl
@[simp] theorem Tile.setAgent_routes (tl : Tile) (a : Fin 10) (g : Agent) : (tl.setAgent a g).routes = tl.routes := rfl
@[simp] theorem Tile.setAgent_spawns (tl : Tile) (a : Fin 10) (g : Agent) : (tl.setAgent a g).spawns = tl.spawns := rfl
@[simp] theorem Tile.setAgent_down (tl : Tile) (a : Fin 10) (g : Agent) : (tl.setAgent a g).down = tl.down := rfl
@[simp] theorem Tile.setAgent_startAt (tl : Tile) (a : Fin 10) (g : Agent) : (tl.setAgent a g).startAt = tl.startAt := rfl
@[simp] theorem Tile.setAgent_startPod (tl : Tile) (a : Fin 10) (g : Agent) : (tl.setAgent a g).startPod = tl.startPod := rfl
@[simp] theorem Tile.setAgent_fresh (tl : Tile) (a : Fin 10) (g : Agent) : (tl.setAgent a g).fresh = tl.fresh := rfl
@[simp] theorem Tile.setAgent_red (tl : Tile) (a : Fin 10) (g : Agent) : (tl.setAgent a g).red = tl.red := rfl
@[simp] theorem Tile.setAgent_outKind (tl : Tile) (a : Fin 10) (g : Agent) : (tl.setAgent a g).outKind = tl.outKind := rfl
@[simp] theorem Tile.setAgent_outCause (tl : Tile) (a : Fin 10) (g : Agent) : (tl.setAgent a g).outCause = tl.outCause := rfl
@[simp] theorem Tile.setAgent_outTile (tl : Tile) (a : Fin 10) (g : Agent) : (tl.setAgent a g).outTile = tl.outTile := rfl
@[simp] theorem Tile.setAgent_tryN (tl : Tile) (a : Fin 10) (g : Agent) : (tl.setAgent a g).tryN = tl.tryN := rfl
@[simp] theorem Tile.setAgent_vsHeld (tl : Tile) (a : Fin 10) (g : Agent) : (tl.setAgent a g).vsHeld = tl.vsHeld := rfl
@[simp] theorem Tile.setAgent_tests (tl : Tile) (a : Fin 10) (g : Agent) : (tl.setAgent a g).tests = tl.tests := rfl
@[simp] theorem Tile.setAgent_unspared (tl : Tile) (a : Fin 10) (g : Agent) : (tl.setAgent a g).unspared = tl.unspared := rfl
@[simp] theorem Tile.setAgent_linkMods (tl : Tile) (a : Fin 10) (g : Agent) : (tl.setAgent a g).linkMods = tl.linkMods := rfl
@[simp] theorem Tile.setAgent_lost (tl : Tile) (a : Fin 10) (g : Agent) : (tl.setAgent a g).lost = tl.lost := rfl
@[simp] theorem Tile.setAgent_launchPf (tl : Tile) (a : Fin 10) (g : Agent) : (tl.setAgent a g).launchPf = tl.launchPf := rfl
@[simp] theorem Tile.setAgent_launching (tl : Tile) (a : Fin 10) (g : Agent) : (tl.setAgent a g).launching = tl.launching := rfl
@[simp] theorem Tile.setAgent_xEnded (tl : Tile) (a : Fin 10) (g : Agent) : (tl.setAgent a g).xEnded = tl.xEnded := rfl
@[simp] theorem Tile.setAgent_inReg (tl : Tile) (a : Fin 10) (g : Agent) : (tl.setAgent a g).inReg = tl.inReg := rfl
@[simp] theorem Tile.setAgent_activity (tl : Tile) (a : Fin 10) (g : Agent) : (tl.setAgent a g).activity = tl.activity := rfl
@[simp] theorem Tile.setAgent_cur_recW (tl : Tile) (a : Fin 10) (g : Agent) : (tl.setAgent a g).cur.recW = tl.cur.recW := rfl
@[simp] theorem Tile.setAgent_cur_recH (tl : Tile) (a : Fin 10) (g : Agent) : (tl.setAgent a g).cur.recH = tl.cur.recH := rfl
@[simp] theorem Tile.setAgent_cur_recS (tl : Tile) (a : Fin 10) (g : Agent) : (tl.setAgent a g).cur.recS = tl.cur.recS := rfl
@[simp] theorem Tile.setAgent_cur_sems (tl : Tile) (a : Fin 10) (g : Agent) : (tl.setAgent a g).cur.sems = tl.cur.sems := rfl
@[simp] theorem Tile.setAgent_cur_fe (tl : Tile) (a : Fin 10) (g : Agent) : (tl.setAgent a g).cur.fe = tl.cur.fe := rfl
@[simp] theorem Tile.setAgent_cur_vmask (tl : Tile) (a : Fin 10) (g : Agent) : (tl.setAgent a g).cur.vmask = tl.cur.vmask := rfl
@[simp] theorem Tile.setAgent_cur_win (tl : Tile) (a : Fin 10) (g : Agent) : (tl.setAgent a g).cur.win = tl.cur.win := rfl
@[simp] theorem Tile.setAgent_cur_srCount (tl : Tile) (a : Fin 10) (g : Agent) : (tl.setAgent a g).cur.srCount = tl.cur.srCount := rfl
@[simp] theorem Tile.setAgent_cur_srkey (tl : Tile) (a : Fin 10) (g : Agent) : (tl.setAgent a g).cur.srkey = tl.cur.srkey := rfl
@[simp] theorem Tile.setAgent_cur_accSt (tl : Tile) (a : Fin 10) (g : Agent) : (tl.setAgent a g).cur.accSt = tl.cur.accSt := rfl
@[simp] theorem Tile.setAgent_cur_accFresh (tl : Tile) (a : Fin 10) (g : Agent) : (tl.setAgent a g).cur.accFresh = tl.cur.accFresh := rfl
@[simp] theorem Tile.setAgent_cur_mbHead (tl : Tile) (a : Fin 10) (g : Agent) : (tl.setAgent a g).cur.mbHead = tl.cur.mbHead := rfl
@[simp] theorem Tile.setAgent_cur_mbCount (tl : Tile) (a : Fin 10) (g : Agent) : (tl.setAgent a g).cur.mbCount = tl.cur.mbCount := rfl
@[simp] theorem Tile.setAgent_cur_outbox (tl : Tile) (a : Fin 10) (g : Agent) : (tl.setAgent a g).cur.outbox = tl.cur.outbox := rfl

/-! ## A semaphore, a full-empty bit put in place -/

@[simp] theorem Tile.setSem_shadow (tl : Tile) (k v : Nat) : (tl.setSem k v).shadow = tl.shadow := rfl
@[simp] theorem Tile.setSem_tm (tl : Tile) (k v : Nat) : (tl.setSem k v).tm = tl.tm := rfl
@[simp] theorem Tile.setSem_bad (tl : Tile) (k v : Nat) : (tl.setSem k v).bad = tl.bad := rfl
@[simp] theorem Tile.setSem_poison (tl : Tile) (k v : Nat) : (tl.setSem k v).poison = tl.poison := rfl
@[simp] theorem Tile.setSem_acc (tl : Tile) (k v : Nat) : (tl.setSem k v).acc = tl.acc := rfl
@[simp] theorem Tile.setSem_badAcc (tl : Tile) (k v : Nat) : (tl.setSem k v).badAcc = tl.badAcc := rfl
@[simp] theorem Tile.setSem_vs (tl : Tile) (k v : Nat) : (tl.setSem k v).vs = tl.vs := rfl
@[simp] theorem Tile.setSem_node (tl : Tile) (k v : Nat) : (tl.setSem k v).node = tl.node := rfl
@[simp] theorem Tile.setSem_vmaskEff (tl : Tile) (k v : Nat) : (tl.setSem k v).vmaskEff = tl.vmaskEff := rfl
@[simp] theorem Tile.setSem_recorded (tl : Tile) (k v : Nat) : (tl.setSem k v).recorded = tl.recorded := rfl
@[simp] theorem Tile.setSem_stopping (tl : Tile) (k v : Nat) : (tl.setSem k v).stopping = tl.stopping := rfl
@[simp] theorem Tile.setSem_region (tl : Tile) (k v : Nat) : (tl.setSem k v).region = tl.region := rfl
@[simp] theorem Tile.setSem_ssnum (tl : Tile) (k v : Nat) : (tl.setSem k v).ssnum = tl.ssnum := rfl
@[simp] theorem Tile.setSem_rr (tl : Tile) (k v : Nat) : (tl.setSem k v).rr = tl.rr := rfl
@[simp] theorem Tile.setSem_issueSlot (tl : Tile) (k v : Nat) : (tl.setSem k v).issueSlot = tl.issueSlot := rfl
@[simp] theorem Tile.setSem_retired (tl : Tile) (k v : Nat) : (tl.setSem k v).retired = tl.retired := rfl
@[simp] theorem Tile.setSem_space (tl : Tile) (k v : Nat) : (tl.setSem k v).space = tl.space := rfl
@[simp] theorem Tile.setSem_slot (tl : Tile) (k v : Nat) : (tl.setSem k v).slot = tl.slot := rfl
@[simp] theorem Tile.setSem_l1 (tl : Tile) (k v : Nat) : (tl.setSem k v).l1 = tl.l1 := rfl
@[simp] theorem Tile.setSem_haulQ (tl : Tile) (k v : Nat) : (tl.setSem k v).haulQ = tl.haulQ := rfl
@[simp] theorem Tile.setSem_haulStore (tl : Tile) (k v : Nat) : (tl.setSem k v).haulStore = tl.haulStore := rfl
@[simp] theorem Tile.setSem_opSeq (tl : Tile) (k v : Nat) : (tl.setSem k v).opSeq = tl.opSeq := rfl
@[simp] theorem Tile.setSem_olds (tl : Tile) (k v : Nat) : (tl.setSem k v).olds = tl.olds := rfl
@[simp] theorem Tile.setSem_reads (tl : Tile) (k v : Nat) : (tl.setSem k v).reads = tl.reads := rfl
@[simp] theorem Tile.setSem_held (tl : Tile) (k v : Nat) : (tl.setSem k v).held = tl.held := rfl
@[simp] theorem Tile.setSem_ffOpen (tl : Tile) (k v : Nat) : (tl.setSem k v).ffOpen = tl.ffOpen := rfl
@[simp] theorem Tile.setSem_pfNext (tl : Tile) (k v : Nat) : (tl.setSem k v).pfNext = tl.pfNext := rfl
@[simp] theorem Tile.setSem_pfServe (tl : Tile) (k v : Nat) : (tl.setSem k v).pfServe = tl.pfServe := rfl
@[simp] theorem Tile.setSem_dirty (tl : Tile) (k v : Nat) : (tl.setSem k v).dirty = tl.dirty := rfl
@[simp] theorem Tile.setSem_deltas (tl : Tile) (k v : Nat) : (tl.setSem k v).deltas = tl.deltas := rfl
@[simp] theorem Tile.setSem_shapeQ (tl : Tile) (k v : Nat) : (tl.setSem k v).shapeQ = tl.shapeQ := rfl
@[simp] theorem Tile.setSem_matQ (tl : Tile) (k v : Nat) : (tl.setSem k v).matQ = tl.matQ := rfl
@[simp] theorem Tile.setSem_matSeq (tl : Tile) (k v : Nat) : (tl.setSem k v).matSeq = tl.matSeq := rfl
@[simp] theorem Tile.setSem_arrayUntil (tl : Tile) (k v : Nat) : (tl.setSem k v).arrayUntil = tl.arrayUntil := rfl
@[simp] theorem Tile.setSem_slotMem (tl : Tile) (k v : Nat) : (tl.setSem k v).slotMem = tl.slotMem := rfl
@[simp] theorem Tile.setSem_slotDesc (tl : Tile) (k v : Nat) : (tl.setSem k v).slotDesc = tl.slotDesc := rfl
@[simp] theorem Tile.setSem_badSlot (tl : Tile) (k v : Nat) : (tl.setSem k v).badSlot = tl.badSlot := rfl
@[simp] theorem Tile.setSem_slotsLoaded (tl : Tile) (k v : Nat) : (tl.setSem k v).slotsLoaded = tl.slotsLoaded := rfl
@[simp] theorem Tile.setSem_slotsSet (tl : Tile) (k v : Nat) : (tl.setSem k v).slotsSet = tl.slotsSet := rfl
@[simp] theorem Tile.setSem_mshWin (tl : Tile) (k v : Nat) : (tl.setSem k v).mshWin = tl.mshWin := rfl
@[simp] theorem Tile.setSem_mshCnt (tl : Tile) (k v : Nat) : (tl.setSem k v).mshCnt = tl.mshCnt := rfl
@[simp] theorem Tile.setSem_startClk (tl : Tile) (k v : Nat) : (tl.setSem k v).startClk = tl.startClk := rfl
@[simp] theorem Tile.setSem_shapeEff (tl : Tile) (k v : Nat) : (tl.setSem k v).shapeEff = tl.shapeEff := rfl
@[simp] theorem Tile.setSem_limit (tl : Tile) (k v : Nat) : (tl.setSem k v).limit = tl.limit := rfl
@[simp] theorem Tile.setSem_mbx (tl : Tile) (k v : Nat) : (tl.setSem k v).mbx = tl.mbx := rfl
@[simp] theorem Tile.setSem_mbSrc (tl : Tile) (k v : Nat) : (tl.setSem k v).mbSrc = tl.mbSrc := rfl
@[simp] theorem Tile.setSem_badMb (tl : Tile) (k v : Nat) : (tl.setSem k v).badMb = tl.badMb := rfl
@[simp] theorem Tile.setSem_xsched (tl : Tile) (k v : Nat) : (tl.setSem k v).xsched = tl.xsched := rfl
@[simp] theorem Tile.setSem_xStart (tl : Tile) (k v : Nat) : (tl.setSem k v).xStart = tl.xStart := rfl
@[simp] theorem Tile.setSem_winEff (tl : Tile) (k v : Nat) : (tl.setSem k v).winEff = tl.winEff := rfl
@[simp] theorem Tile.setSem_offered (tl : Tile) (k v : Nat) : (tl.setSem k v).offered = tl.offered := rfl
@[simp] theorem Tile.setSem_col (tl : Tile) (k v : Nat) : (tl.setSem k v).col = tl.col := rfl
@[simp] theorem Tile.setSem_ctmoEff (tl : Tile) (k v : Nat) : (tl.setSem k v).ctmoEff = tl.ctmoEff := rfl
@[simp] theorem Tile.setSem_cbEff (tl : Tile) (k v : Nat) : (tl.setSem k v).cbEff = tl.cbEff := rfl
@[simp] theorem Tile.setSem_olcfgEff (tl : Tile) (k v : Nat) : (tl.setSem k v).olcfgEff = tl.olcfgEff := rfl
@[simp] theorem Tile.setSem_routes (tl : Tile) (k v : Nat) : (tl.setSem k v).routes = tl.routes := rfl
@[simp] theorem Tile.setSem_spawns (tl : Tile) (k v : Nat) : (tl.setSem k v).spawns = tl.spawns := rfl
@[simp] theorem Tile.setSem_down (tl : Tile) (k v : Nat) : (tl.setSem k v).down = tl.down := rfl
@[simp] theorem Tile.setSem_startAt (tl : Tile) (k v : Nat) : (tl.setSem k v).startAt = tl.startAt := rfl
@[simp] theorem Tile.setSem_startPod (tl : Tile) (k v : Nat) : (tl.setSem k v).startPod = tl.startPod := rfl
@[simp] theorem Tile.setSem_fresh (tl : Tile) (k v : Nat) : (tl.setSem k v).fresh = tl.fresh := rfl
@[simp] theorem Tile.setSem_red (tl : Tile) (k v : Nat) : (tl.setSem k v).red = tl.red := rfl
@[simp] theorem Tile.setSem_outKind (tl : Tile) (k v : Nat) : (tl.setSem k v).outKind = tl.outKind := rfl
@[simp] theorem Tile.setSem_outCause (tl : Tile) (k v : Nat) : (tl.setSem k v).outCause = tl.outCause := rfl
@[simp] theorem Tile.setSem_outTile (tl : Tile) (k v : Nat) : (tl.setSem k v).outTile = tl.outTile := rfl
@[simp] theorem Tile.setSem_tryN (tl : Tile) (k v : Nat) : (tl.setSem k v).tryN = tl.tryN := rfl
@[simp] theorem Tile.setSem_vsHeld (tl : Tile) (k v : Nat) : (tl.setSem k v).vsHeld = tl.vsHeld := rfl
@[simp] theorem Tile.setSem_tests (tl : Tile) (k v : Nat) : (tl.setSem k v).tests = tl.tests := rfl
@[simp] theorem Tile.setSem_unspared (tl : Tile) (k v : Nat) : (tl.setSem k v).unspared = tl.unspared := rfl
@[simp] theorem Tile.setSem_linkMods (tl : Tile) (k v : Nat) : (tl.setSem k v).linkMods = tl.linkMods := rfl
@[simp] theorem Tile.setSem_lost (tl : Tile) (k v : Nat) : (tl.setSem k v).lost = tl.lost := rfl
@[simp] theorem Tile.setSem_launchPf (tl : Tile) (k v : Nat) : (tl.setSem k v).launchPf = tl.launchPf := rfl
@[simp] theorem Tile.setSem_launching (tl : Tile) (k v : Nat) : (tl.setSem k v).launching = tl.launching := rfl
@[simp] theorem Tile.setSem_xEnded (tl : Tile) (k v : Nat) : (tl.setSem k v).xEnded = tl.xEnded := rfl
@[simp] theorem Tile.setSem_inReg (tl : Tile) (k v : Nat) : (tl.setSem k v).inReg = tl.inReg := rfl
@[simp] theorem Tile.setSem_activity (tl : Tile) (k v : Nat) : (tl.setSem k v).activity = tl.activity := rfl
@[simp] theorem Tile.setSem_cur_agents (tl : Tile) (k v : Nat) : (tl.setSem k v).cur.agents = tl.cur.agents := rfl
@[simp] theorem Tile.setSem_cur_recW (tl : Tile) (k v : Nat) : (tl.setSem k v).cur.recW = tl.cur.recW := rfl
@[simp] theorem Tile.setSem_cur_recH (tl : Tile) (k v : Nat) : (tl.setSem k v).cur.recH = tl.cur.recH := rfl
@[simp] theorem Tile.setSem_cur_recS (tl : Tile) (k v : Nat) : (tl.setSem k v).cur.recS = tl.cur.recS := rfl
@[simp] theorem Tile.setSem_cur_fe (tl : Tile) (k v : Nat) : (tl.setSem k v).cur.fe = tl.cur.fe := rfl
@[simp] theorem Tile.setSem_cur_vmask (tl : Tile) (k v : Nat) : (tl.setSem k v).cur.vmask = tl.cur.vmask := rfl
@[simp] theorem Tile.setSem_cur_win (tl : Tile) (k v : Nat) : (tl.setSem k v).cur.win = tl.cur.win := rfl
@[simp] theorem Tile.setSem_cur_srCount (tl : Tile) (k v : Nat) : (tl.setSem k v).cur.srCount = tl.cur.srCount := rfl
@[simp] theorem Tile.setSem_cur_srkey (tl : Tile) (k v : Nat) : (tl.setSem k v).cur.srkey = tl.cur.srkey := rfl
@[simp] theorem Tile.setSem_cur_accSt (tl : Tile) (k v : Nat) : (tl.setSem k v).cur.accSt = tl.cur.accSt := rfl
@[simp] theorem Tile.setSem_cur_accFresh (tl : Tile) (k v : Nat) : (tl.setSem k v).cur.accFresh = tl.cur.accFresh := rfl
@[simp] theorem Tile.setSem_cur_mbHead (tl : Tile) (k v : Nat) : (tl.setSem k v).cur.mbHead = tl.cur.mbHead := rfl
@[simp] theorem Tile.setSem_cur_mbCount (tl : Tile) (k v : Nat) : (tl.setSem k v).cur.mbCount = tl.cur.mbCount := rfl
@[simp] theorem Tile.setSem_cur_outbox (tl : Tile) (k v : Nat) : (tl.setSem k v).cur.outbox = tl.cur.outbox := rfl

@[simp] theorem Tile.setFe_shadow (tl : Tile) (w : Nat) (full : Bool) : (tl.setFe w full).shadow = tl.shadow := rfl
@[simp] theorem Tile.setFe_tm (tl : Tile) (w : Nat) (full : Bool) : (tl.setFe w full).tm = tl.tm := rfl
@[simp] theorem Tile.setFe_bad (tl : Tile) (w : Nat) (full : Bool) : (tl.setFe w full).bad = tl.bad := rfl
@[simp] theorem Tile.setFe_poison (tl : Tile) (w : Nat) (full : Bool) : (tl.setFe w full).poison = tl.poison := rfl
@[simp] theorem Tile.setFe_acc (tl : Tile) (w : Nat) (full : Bool) : (tl.setFe w full).acc = tl.acc := rfl
@[simp] theorem Tile.setFe_badAcc (tl : Tile) (w : Nat) (full : Bool) : (tl.setFe w full).badAcc = tl.badAcc := rfl
@[simp] theorem Tile.setFe_vs (tl : Tile) (w : Nat) (full : Bool) : (tl.setFe w full).vs = tl.vs := rfl
@[simp] theorem Tile.setFe_node (tl : Tile) (w : Nat) (full : Bool) : (tl.setFe w full).node = tl.node := rfl
@[simp] theorem Tile.setFe_vmaskEff (tl : Tile) (w : Nat) (full : Bool) : (tl.setFe w full).vmaskEff = tl.vmaskEff := rfl
@[simp] theorem Tile.setFe_recorded (tl : Tile) (w : Nat) (full : Bool) : (tl.setFe w full).recorded = tl.recorded := rfl
@[simp] theorem Tile.setFe_stopping (tl : Tile) (w : Nat) (full : Bool) : (tl.setFe w full).stopping = tl.stopping := rfl
@[simp] theorem Tile.setFe_region (tl : Tile) (w : Nat) (full : Bool) : (tl.setFe w full).region = tl.region := rfl
@[simp] theorem Tile.setFe_ssnum (tl : Tile) (w : Nat) (full : Bool) : (tl.setFe w full).ssnum = tl.ssnum := rfl
@[simp] theorem Tile.setFe_rr (tl : Tile) (w : Nat) (full : Bool) : (tl.setFe w full).rr = tl.rr := rfl
@[simp] theorem Tile.setFe_issueSlot (tl : Tile) (w : Nat) (full : Bool) : (tl.setFe w full).issueSlot = tl.issueSlot := rfl
@[simp] theorem Tile.setFe_retired (tl : Tile) (w : Nat) (full : Bool) : (tl.setFe w full).retired = tl.retired := rfl
@[simp] theorem Tile.setFe_space (tl : Tile) (w : Nat) (full : Bool) : (tl.setFe w full).space = tl.space := rfl
@[simp] theorem Tile.setFe_slot (tl : Tile) (w : Nat) (full : Bool) : (tl.setFe w full).slot = tl.slot := rfl
@[simp] theorem Tile.setFe_l1 (tl : Tile) (w : Nat) (full : Bool) : (tl.setFe w full).l1 = tl.l1 := rfl
@[simp] theorem Tile.setFe_haulQ (tl : Tile) (w : Nat) (full : Bool) : (tl.setFe w full).haulQ = tl.haulQ := rfl
@[simp] theorem Tile.setFe_haulStore (tl : Tile) (w : Nat) (full : Bool) : (tl.setFe w full).haulStore = tl.haulStore := rfl
@[simp] theorem Tile.setFe_opSeq (tl : Tile) (w : Nat) (full : Bool) : (tl.setFe w full).opSeq = tl.opSeq := rfl
@[simp] theorem Tile.setFe_olds (tl : Tile) (w : Nat) (full : Bool) : (tl.setFe w full).olds = tl.olds := rfl
@[simp] theorem Tile.setFe_reads (tl : Tile) (w : Nat) (full : Bool) : (tl.setFe w full).reads = tl.reads := rfl
@[simp] theorem Tile.setFe_held (tl : Tile) (w : Nat) (full : Bool) : (tl.setFe w full).held = tl.held := rfl
@[simp] theorem Tile.setFe_ffOpen (tl : Tile) (w : Nat) (full : Bool) : (tl.setFe w full).ffOpen = tl.ffOpen := rfl
@[simp] theorem Tile.setFe_pfNext (tl : Tile) (w : Nat) (full : Bool) : (tl.setFe w full).pfNext = tl.pfNext := rfl
@[simp] theorem Tile.setFe_pfServe (tl : Tile) (w : Nat) (full : Bool) : (tl.setFe w full).pfServe = tl.pfServe := rfl
@[simp] theorem Tile.setFe_dirty (tl : Tile) (w : Nat) (full : Bool) : (tl.setFe w full).dirty = tl.dirty := rfl
@[simp] theorem Tile.setFe_deltas (tl : Tile) (w : Nat) (full : Bool) : (tl.setFe w full).deltas = tl.deltas := rfl
@[simp] theorem Tile.setFe_shapeQ (tl : Tile) (w : Nat) (full : Bool) : (tl.setFe w full).shapeQ = tl.shapeQ := rfl
@[simp] theorem Tile.setFe_matQ (tl : Tile) (w : Nat) (full : Bool) : (tl.setFe w full).matQ = tl.matQ := rfl
@[simp] theorem Tile.setFe_matSeq (tl : Tile) (w : Nat) (full : Bool) : (tl.setFe w full).matSeq = tl.matSeq := rfl
@[simp] theorem Tile.setFe_arrayUntil (tl : Tile) (w : Nat) (full : Bool) : (tl.setFe w full).arrayUntil = tl.arrayUntil := rfl
@[simp] theorem Tile.setFe_slotMem (tl : Tile) (w : Nat) (full : Bool) : (tl.setFe w full).slotMem = tl.slotMem := rfl
@[simp] theorem Tile.setFe_slotDesc (tl : Tile) (w : Nat) (full : Bool) : (tl.setFe w full).slotDesc = tl.slotDesc := rfl
@[simp] theorem Tile.setFe_badSlot (tl : Tile) (w : Nat) (full : Bool) : (tl.setFe w full).badSlot = tl.badSlot := rfl
@[simp] theorem Tile.setFe_slotsLoaded (tl : Tile) (w : Nat) (full : Bool) : (tl.setFe w full).slotsLoaded = tl.slotsLoaded := rfl
@[simp] theorem Tile.setFe_slotsSet (tl : Tile) (w : Nat) (full : Bool) : (tl.setFe w full).slotsSet = tl.slotsSet := rfl
@[simp] theorem Tile.setFe_mshWin (tl : Tile) (w : Nat) (full : Bool) : (tl.setFe w full).mshWin = tl.mshWin := rfl
@[simp] theorem Tile.setFe_mshCnt (tl : Tile) (w : Nat) (full : Bool) : (tl.setFe w full).mshCnt = tl.mshCnt := rfl
@[simp] theorem Tile.setFe_startClk (tl : Tile) (w : Nat) (full : Bool) : (tl.setFe w full).startClk = tl.startClk := rfl
@[simp] theorem Tile.setFe_shapeEff (tl : Tile) (w : Nat) (full : Bool) : (tl.setFe w full).shapeEff = tl.shapeEff := rfl
@[simp] theorem Tile.setFe_limit (tl : Tile) (w : Nat) (full : Bool) : (tl.setFe w full).limit = tl.limit := rfl
@[simp] theorem Tile.setFe_mbx (tl : Tile) (w : Nat) (full : Bool) : (tl.setFe w full).mbx = tl.mbx := rfl
@[simp] theorem Tile.setFe_mbSrc (tl : Tile) (w : Nat) (full : Bool) : (tl.setFe w full).mbSrc = tl.mbSrc := rfl
@[simp] theorem Tile.setFe_badMb (tl : Tile) (w : Nat) (full : Bool) : (tl.setFe w full).badMb = tl.badMb := rfl
@[simp] theorem Tile.setFe_xsched (tl : Tile) (w : Nat) (full : Bool) : (tl.setFe w full).xsched = tl.xsched := rfl
@[simp] theorem Tile.setFe_xStart (tl : Tile) (w : Nat) (full : Bool) : (tl.setFe w full).xStart = tl.xStart := rfl
@[simp] theorem Tile.setFe_winEff (tl : Tile) (w : Nat) (full : Bool) : (tl.setFe w full).winEff = tl.winEff := rfl
@[simp] theorem Tile.setFe_offered (tl : Tile) (w : Nat) (full : Bool) : (tl.setFe w full).offered = tl.offered := rfl
@[simp] theorem Tile.setFe_col (tl : Tile) (w : Nat) (full : Bool) : (tl.setFe w full).col = tl.col := rfl
@[simp] theorem Tile.setFe_ctmoEff (tl : Tile) (w : Nat) (full : Bool) : (tl.setFe w full).ctmoEff = tl.ctmoEff := rfl
@[simp] theorem Tile.setFe_cbEff (tl : Tile) (w : Nat) (full : Bool) : (tl.setFe w full).cbEff = tl.cbEff := rfl
@[simp] theorem Tile.setFe_olcfgEff (tl : Tile) (w : Nat) (full : Bool) : (tl.setFe w full).olcfgEff = tl.olcfgEff := rfl
@[simp] theorem Tile.setFe_routes (tl : Tile) (w : Nat) (full : Bool) : (tl.setFe w full).routes = tl.routes := rfl
@[simp] theorem Tile.setFe_spawns (tl : Tile) (w : Nat) (full : Bool) : (tl.setFe w full).spawns = tl.spawns := rfl
@[simp] theorem Tile.setFe_down (tl : Tile) (w : Nat) (full : Bool) : (tl.setFe w full).down = tl.down := rfl
@[simp] theorem Tile.setFe_startAt (tl : Tile) (w : Nat) (full : Bool) : (tl.setFe w full).startAt = tl.startAt := rfl
@[simp] theorem Tile.setFe_startPod (tl : Tile) (w : Nat) (full : Bool) : (tl.setFe w full).startPod = tl.startPod := rfl
@[simp] theorem Tile.setFe_fresh (tl : Tile) (w : Nat) (full : Bool) : (tl.setFe w full).fresh = tl.fresh := rfl
@[simp] theorem Tile.setFe_red (tl : Tile) (w : Nat) (full : Bool) : (tl.setFe w full).red = tl.red := rfl
@[simp] theorem Tile.setFe_outKind (tl : Tile) (w : Nat) (full : Bool) : (tl.setFe w full).outKind = tl.outKind := rfl
@[simp] theorem Tile.setFe_outCause (tl : Tile) (w : Nat) (full : Bool) : (tl.setFe w full).outCause = tl.outCause := rfl
@[simp] theorem Tile.setFe_outTile (tl : Tile) (w : Nat) (full : Bool) : (tl.setFe w full).outTile = tl.outTile := rfl
@[simp] theorem Tile.setFe_tryN (tl : Tile) (w : Nat) (full : Bool) : (tl.setFe w full).tryN = tl.tryN := rfl
@[simp] theorem Tile.setFe_vsHeld (tl : Tile) (w : Nat) (full : Bool) : (tl.setFe w full).vsHeld = tl.vsHeld := rfl
@[simp] theorem Tile.setFe_tests (tl : Tile) (w : Nat) (full : Bool) : (tl.setFe w full).tests = tl.tests := rfl
@[simp] theorem Tile.setFe_unspared (tl : Tile) (w : Nat) (full : Bool) : (tl.setFe w full).unspared = tl.unspared := rfl
@[simp] theorem Tile.setFe_linkMods (tl : Tile) (w : Nat) (full : Bool) : (tl.setFe w full).linkMods = tl.linkMods := rfl
@[simp] theorem Tile.setFe_lost (tl : Tile) (w : Nat) (full : Bool) : (tl.setFe w full).lost = tl.lost := rfl
@[simp] theorem Tile.setFe_launchPf (tl : Tile) (w : Nat) (full : Bool) : (tl.setFe w full).launchPf = tl.launchPf := rfl
@[simp] theorem Tile.setFe_launching (tl : Tile) (w : Nat) (full : Bool) : (tl.setFe w full).launching = tl.launching := rfl
@[simp] theorem Tile.setFe_xEnded (tl : Tile) (w : Nat) (full : Bool) : (tl.setFe w full).xEnded = tl.xEnded := rfl
@[simp] theorem Tile.setFe_inReg (tl : Tile) (w : Nat) (full : Bool) : (tl.setFe w full).inReg = tl.inReg := rfl
@[simp] theorem Tile.setFe_activity (tl : Tile) (w : Nat) (full : Bool) : (tl.setFe w full).activity = tl.activity := rfl
@[simp] theorem Tile.setFe_cur_agents (tl : Tile) (w : Nat) (full : Bool) : (tl.setFe w full).cur.agents = tl.cur.agents := rfl
@[simp] theorem Tile.setFe_cur_recW (tl : Tile) (w : Nat) (full : Bool) : (tl.setFe w full).cur.recW = tl.cur.recW := rfl
@[simp] theorem Tile.setFe_cur_recH (tl : Tile) (w : Nat) (full : Bool) : (tl.setFe w full).cur.recH = tl.cur.recH := rfl
@[simp] theorem Tile.setFe_cur_recS (tl : Tile) (w : Nat) (full : Bool) : (tl.setFe w full).cur.recS = tl.cur.recS := rfl
@[simp] theorem Tile.setFe_cur_sems (tl : Tile) (w : Nat) (full : Bool) : (tl.setFe w full).cur.sems = tl.cur.sems := rfl
@[simp] theorem Tile.setFe_cur_vmask (tl : Tile) (w : Nat) (full : Bool) : (tl.setFe w full).cur.vmask = tl.cur.vmask := rfl
@[simp] theorem Tile.setFe_cur_win (tl : Tile) (w : Nat) (full : Bool) : (tl.setFe w full).cur.win = tl.cur.win := rfl
@[simp] theorem Tile.setFe_cur_srCount (tl : Tile) (w : Nat) (full : Bool) : (tl.setFe w full).cur.srCount = tl.cur.srCount := rfl
@[simp] theorem Tile.setFe_cur_srkey (tl : Tile) (w : Nat) (full : Bool) : (tl.setFe w full).cur.srkey = tl.cur.srkey := rfl
@[simp] theorem Tile.setFe_cur_accSt (tl : Tile) (w : Nat) (full : Bool) : (tl.setFe w full).cur.accSt = tl.cur.accSt := rfl
@[simp] theorem Tile.setFe_cur_accFresh (tl : Tile) (w : Nat) (full : Bool) : (tl.setFe w full).cur.accFresh = tl.cur.accFresh := rfl
@[simp] theorem Tile.setFe_cur_mbHead (tl : Tile) (w : Nat) (full : Bool) : (tl.setFe w full).cur.mbHead = tl.cur.mbHead := rfl
@[simp] theorem Tile.setFe_cur_mbCount (tl : Tile) (w : Nat) (full : Bool) : (tl.setFe w full).cur.mbCount = tl.cur.mbCount := rfl
@[simp] theorem Tile.setFe_cur_outbox (tl : Tile) (w : Nat) (full : Bool) : (tl.setFe w full).cur.outbox = tl.cur.outbox := rfl

/-! ## A cause recorded -/

@[simp] theorem Tile.record_cur (tl : Tile) (r : Recorded) : (tl.record r).cur = tl.cur := rfl
@[simp] theorem Tile.record_shadow (tl : Tile) (r : Recorded) : (tl.record r).shadow = tl.shadow := rfl
@[simp] theorem Tile.record_tm (tl : Tile) (r : Recorded) : (tl.record r).tm = tl.tm := rfl
@[simp] theorem Tile.record_bad (tl : Tile) (r : Recorded) : (tl.record r).bad = tl.bad := rfl
@[simp] theorem Tile.record_poison (tl : Tile) (r : Recorded) : (tl.record r).poison = tl.poison := rfl
@[simp] theorem Tile.record_acc (tl : Tile) (r : Recorded) : (tl.record r).acc = tl.acc := rfl
@[simp] theorem Tile.record_badAcc (tl : Tile) (r : Recorded) : (tl.record r).badAcc = tl.badAcc := rfl
@[simp] theorem Tile.record_vs (tl : Tile) (r : Recorded) : (tl.record r).vs = tl.vs := rfl
@[simp] theorem Tile.record_node (tl : Tile) (r : Recorded) : (tl.record r).node = tl.node := rfl
@[simp] theorem Tile.record_vmaskEff (tl : Tile) (r : Recorded) : (tl.record r).vmaskEff = tl.vmaskEff := rfl
@[simp] theorem Tile.record_region (tl : Tile) (r : Recorded) : (tl.record r).region = tl.region := rfl
@[simp] theorem Tile.record_ssnum (tl : Tile) (r : Recorded) : (tl.record r).ssnum = tl.ssnum := rfl
@[simp] theorem Tile.record_rr (tl : Tile) (r : Recorded) : (tl.record r).rr = tl.rr := rfl
@[simp] theorem Tile.record_issueSlot (tl : Tile) (r : Recorded) : (tl.record r).issueSlot = tl.issueSlot := rfl
@[simp] theorem Tile.record_retired (tl : Tile) (r : Recorded) : (tl.record r).retired = tl.retired := rfl
@[simp] theorem Tile.record_space (tl : Tile) (r : Recorded) : (tl.record r).space = tl.space := rfl
@[simp] theorem Tile.record_slot (tl : Tile) (r : Recorded) : (tl.record r).slot = tl.slot := rfl
@[simp] theorem Tile.record_l1 (tl : Tile) (r : Recorded) : (tl.record r).l1 = tl.l1 := rfl
@[simp] theorem Tile.record_haulQ (tl : Tile) (r : Recorded) : (tl.record r).haulQ = tl.haulQ := rfl
@[simp] theorem Tile.record_haulStore (tl : Tile) (r : Recorded) : (tl.record r).haulStore = tl.haulStore := rfl
@[simp] theorem Tile.record_opSeq (tl : Tile) (r : Recorded) : (tl.record r).opSeq = tl.opSeq := rfl
@[simp] theorem Tile.record_olds (tl : Tile) (r : Recorded) : (tl.record r).olds = tl.olds := rfl
@[simp] theorem Tile.record_reads (tl : Tile) (r : Recorded) : (tl.record r).reads = tl.reads := rfl
@[simp] theorem Tile.record_held (tl : Tile) (r : Recorded) : (tl.record r).held = tl.held := rfl
@[simp] theorem Tile.record_ffOpen (tl : Tile) (r : Recorded) : (tl.record r).ffOpen = tl.ffOpen := rfl
@[simp] theorem Tile.record_pfNext (tl : Tile) (r : Recorded) : (tl.record r).pfNext = tl.pfNext := rfl
@[simp] theorem Tile.record_pfServe (tl : Tile) (r : Recorded) : (tl.record r).pfServe = tl.pfServe := rfl
@[simp] theorem Tile.record_dirty (tl : Tile) (r : Recorded) : (tl.record r).dirty = tl.dirty := rfl
@[simp] theorem Tile.record_deltas (tl : Tile) (r : Recorded) : (tl.record r).deltas = tl.deltas := rfl
@[simp] theorem Tile.record_shapeQ (tl : Tile) (r : Recorded) : (tl.record r).shapeQ = tl.shapeQ := rfl
@[simp] theorem Tile.record_matQ (tl : Tile) (r : Recorded) : (tl.record r).matQ = tl.matQ := rfl
@[simp] theorem Tile.record_matSeq (tl : Tile) (r : Recorded) : (tl.record r).matSeq = tl.matSeq := rfl
@[simp] theorem Tile.record_arrayUntil (tl : Tile) (r : Recorded) : (tl.record r).arrayUntil = tl.arrayUntil := rfl
@[simp] theorem Tile.record_slotMem (tl : Tile) (r : Recorded) : (tl.record r).slotMem = tl.slotMem := rfl
@[simp] theorem Tile.record_slotDesc (tl : Tile) (r : Recorded) : (tl.record r).slotDesc = tl.slotDesc := rfl
@[simp] theorem Tile.record_badSlot (tl : Tile) (r : Recorded) : (tl.record r).badSlot = tl.badSlot := rfl
@[simp] theorem Tile.record_slotsLoaded (tl : Tile) (r : Recorded) : (tl.record r).slotsLoaded = tl.slotsLoaded := rfl
@[simp] theorem Tile.record_slotsSet (tl : Tile) (r : Recorded) : (tl.record r).slotsSet = tl.slotsSet := rfl
@[simp] theorem Tile.record_mshWin (tl : Tile) (r : Recorded) : (tl.record r).mshWin = tl.mshWin := rfl
@[simp] theorem Tile.record_mshCnt (tl : Tile) (r : Recorded) : (tl.record r).mshCnt = tl.mshCnt := rfl
@[simp] theorem Tile.record_startClk (tl : Tile) (r : Recorded) : (tl.record r).startClk = tl.startClk := rfl
@[simp] theorem Tile.record_shapeEff (tl : Tile) (r : Recorded) : (tl.record r).shapeEff = tl.shapeEff := rfl
@[simp] theorem Tile.record_limit (tl : Tile) (r : Recorded) : (tl.record r).limit = tl.limit := rfl
@[simp] theorem Tile.record_mbx (tl : Tile) (r : Recorded) : (tl.record r).mbx = tl.mbx := rfl
@[simp] theorem Tile.record_mbSrc (tl : Tile) (r : Recorded) : (tl.record r).mbSrc = tl.mbSrc := rfl
@[simp] theorem Tile.record_badMb (tl : Tile) (r : Recorded) : (tl.record r).badMb = tl.badMb := rfl
@[simp] theorem Tile.record_xsched (tl : Tile) (r : Recorded) : (tl.record r).xsched = tl.xsched := rfl
@[simp] theorem Tile.record_xStart (tl : Tile) (r : Recorded) : (tl.record r).xStart = tl.xStart := rfl
@[simp] theorem Tile.record_winEff (tl : Tile) (r : Recorded) : (tl.record r).winEff = tl.winEff := rfl
@[simp] theorem Tile.record_offered (tl : Tile) (r : Recorded) : (tl.record r).offered = tl.offered := rfl
@[simp] theorem Tile.record_col (tl : Tile) (r : Recorded) : (tl.record r).col = tl.col := rfl
@[simp] theorem Tile.record_ctmoEff (tl : Tile) (r : Recorded) : (tl.record r).ctmoEff = tl.ctmoEff := rfl
@[simp] theorem Tile.record_cbEff (tl : Tile) (r : Recorded) : (tl.record r).cbEff = tl.cbEff := rfl
@[simp] theorem Tile.record_olcfgEff (tl : Tile) (r : Recorded) : (tl.record r).olcfgEff = tl.olcfgEff := rfl
@[simp] theorem Tile.record_routes (tl : Tile) (r : Recorded) : (tl.record r).routes = tl.routes := rfl
@[simp] theorem Tile.record_spawns (tl : Tile) (r : Recorded) : (tl.record r).spawns = tl.spawns := rfl
@[simp] theorem Tile.record_down (tl : Tile) (r : Recorded) : (tl.record r).down = tl.down := rfl
@[simp] theorem Tile.record_startAt (tl : Tile) (r : Recorded) : (tl.record r).startAt = tl.startAt := rfl
@[simp] theorem Tile.record_startPod (tl : Tile) (r : Recorded) : (tl.record r).startPod = tl.startPod := rfl
@[simp] theorem Tile.record_fresh (tl : Tile) (r : Recorded) : (tl.record r).fresh = tl.fresh := rfl
@[simp] theorem Tile.record_red (tl : Tile) (r : Recorded) : (tl.record r).red = tl.red := rfl
@[simp] theorem Tile.record_outKind (tl : Tile) (r : Recorded) : (tl.record r).outKind = tl.outKind := rfl
@[simp] theorem Tile.record_outCause (tl : Tile) (r : Recorded) : (tl.record r).outCause = tl.outCause := rfl
@[simp] theorem Tile.record_outTile (tl : Tile) (r : Recorded) : (tl.record r).outTile = tl.outTile := rfl
@[simp] theorem Tile.record_tryN (tl : Tile) (r : Recorded) : (tl.record r).tryN = tl.tryN := rfl
@[simp] theorem Tile.record_vsHeld (tl : Tile) (r : Recorded) : (tl.record r).vsHeld = tl.vsHeld := rfl
@[simp] theorem Tile.record_tests (tl : Tile) (r : Recorded) : (tl.record r).tests = tl.tests := rfl
@[simp] theorem Tile.record_unspared (tl : Tile) (r : Recorded) : (tl.record r).unspared = tl.unspared := rfl
@[simp] theorem Tile.record_linkMods (tl : Tile) (r : Recorded) : (tl.record r).linkMods = tl.linkMods := rfl
@[simp] theorem Tile.record_lost (tl : Tile) (r : Recorded) : (tl.record r).lost = tl.lost := rfl
@[simp] theorem Tile.record_launchPf (tl : Tile) (r : Recorded) : (tl.record r).launchPf = tl.launchPf := rfl
@[simp] theorem Tile.record_launching (tl : Tile) (r : Recorded) : (tl.record r).launching = tl.launching := rfl
@[simp] theorem Tile.record_xEnded (tl : Tile) (r : Recorded) : (tl.record r).xEnded = tl.xEnded := rfl
@[simp] theorem Tile.record_inReg (tl : Tile) (r : Recorded) : (tl.record r).inReg = tl.inReg := rfl
@[simp] theorem Tile.record_activity (tl : Tile) (r : Recorded) : (tl.record r).activity = tl.activity := rfl

/-! ## A service core put in place -/

@[simp] theorem Die.setSvc_mc (d : Die) (c : Fin 2) (x : SvcCore) : (d.setSvc c x).mc = d.mc := rfl
@[simp] theorem Die.setSvc_qd (d : Die) (c : Fin 2) (x : SvcCore) : (d.setSvc c x).qd = d.qd := rfl
@[simp] theorem Die.setSvc_ff (d : Die) (c : Fin 2) (x : SvcCore) : (d.setSvc c x).ff = d.ff := rfl
@[simp] theorem Die.setSvc_ex (d : Die) (c : Fin 2) (x : SvcCore) : (d.setSvc c x).ex = d.ex := rfl
@[simp] theorem Die.setSvc_lk (d : Die) (c : Fin 2) (x : SvcCore) : (d.setSvc c x).lk = d.lk := rfl
@[simp] theorem Die.setSvc_hp (d : Die) (c : Fin 2) (x : SvcCore) : (d.setSvc c x).hp = d.hp := rfl
@[simp] theorem Die.setSvc_links (d : Die) (c : Fin 2) (x : SvcCore) : (d.setSvc c x).links = d.links := rfl
@[simp] theorem Die.setSvc_ctl (d : Die) (c : Fin 2) (x : SvcCore) : (d.setSvc c x).ctl = d.ctl := rfl

/-! ## A port changed, an operation sent on it -/

@[simp] theorem State.modPort_clk (s : State) (d : Nat) (host : Bool) (f : Port → Port) : (s.modPort d host f).clk = s.clk := rfl
@[simp] theorem State.sendOp_clk (s : State) (d : Nat) (host : Bool) (o : Output) : (s.sendOp d host o).clk = s.clk := rfl
@[simp] theorem State.report_clk (s : State) (m code region ssn cause tile data : Nat) : (s.report m code region ssn cause tile data).clk = s.clk := by unfold State.report; split <;> rfl
@[simp] theorem State.modPort_turn (s : State) (d : Nat) (host : Bool) (f : Port → Port) : (s.modPort d host f).turn = s.turn := rfl
@[simp] theorem State.sendOp_turn (s : State) (d : Nat) (host : Bool) (o : Output) : (s.sendOp d host o).turn = s.turn := rfl
@[simp] theorem State.report_turn (s : State) (m code region ssn cause tile data : Nat) : (s.report m code region ssn cause tile data).turn = s.turn := by unfold State.report; split <;> rfl
@[simp] theorem State.modPort_sched (s : State) (d : Nat) (host : Bool) (f : Port → Port) : (s.modPort d host f).sched = s.sched := rfl
@[simp] theorem State.sendOp_sched (s : State) (d : Nat) (host : Bool) (o : Output) : (s.sendOp d host o).sched = s.sched := rfl
@[simp] theorem State.report_sched (s : State) (m code region ssn cause tile data : Nat) : (s.report m code region ssn cause tile data).sched = s.sched := by unfold State.report; split <;> rfl
@[simp] theorem State.modPort_free (s : State) (d : Nat) (host : Bool) (f : Port → Port) : (s.modPort d host f).free = s.free := rfl
@[simp] theorem State.sendOp_free (s : State) (d : Nat) (host : Bool) (o : Output) : (s.sendOp d host o).free = s.free := rfl
@[simp] theorem State.report_free (s : State) (m code region ssn cause tile data : Nat) : (s.report m code region ssn cause tile data).free = s.free := by unfold State.report; split <;> rfl
@[simp] theorem State.modPort_tiles (s : State) (d : Nat) (host : Bool) (f : Port → Port) : (s.modPort d host f).tiles = s.tiles := rfl
@[simp] theorem State.sendOp_tiles (s : State) (d : Nat) (host : Bool) (o : Output) : (s.sendOp d host o).tiles = s.tiles := rfl
@[simp] theorem State.report_tiles (s : State) (m code region ssn cause tile data : Nat) : (s.report m code region ssn cause tile data).tiles = s.tiles := by unfold State.report; split <;> rfl
@[simp] theorem State.modPort_modules (s : State) (d : Nat) (host : Bool) (f : Port → Port) : (s.modPort d host f).modules = s.modules := rfl
@[simp] theorem State.sendOp_modules (s : State) (d : Nat) (host : Bool) (o : Output) : (s.sendOp d host o).modules = s.modules := rfl
@[simp] theorem State.report_modules (s : State) (m code region ssn cause tile data : Nat) : (s.report m code region ssn cause tile data).modules = s.modules := by unfold State.report; split <;> rfl
@[simp] theorem State.modPort_regions (s : State) (d : Nat) (host : Bool) (f : Port → Port) : (s.modPort d host f).regions = s.regions := rfl
@[simp] theorem State.sendOp_regions (s : State) (d : Nat) (host : Bool) (o : Output) : (s.sendOp d host o).regions = s.regions := rfl
@[simp] theorem State.report_regions (s : State) (m code region ssn cause tile data : Nat) : (s.report m code region ssn cause tile data).regions = s.regions := by unfold State.report; split <;> rfl
@[simp] theorem State.modPort_nextSerial (s : State) (d : Nat) (host : Bool) (f : Port → Port) : (s.modPort d host f).nextSerial = s.nextSerial := rfl
@[simp] theorem State.sendOp_nextSerial (s : State) (d : Nat) (host : Bool) (o : Output) : (s.sendOp d host o).nextSerial = s.nextSerial := rfl
@[simp] theorem State.report_nextSerial (s : State) (m code region ssn cause tile data : Nat) : (s.report m code region ssn cause tile data).nextSerial = s.nextSerial := by unfold State.report; split <;> rfl
@[simp] theorem State.modPort_up (s : State) (d : Nat) (host : Bool) (f : Port → Port) : (s.modPort d host f).up = s.up := rfl
@[simp] theorem State.sendOp_up (s : State) (d : Nat) (host : Bool) (o : Output) : (s.sendOp d host o).up = s.up := rfl
@[simp] theorem State.report_up (s : State) (m code region ssn cause tile data : Nat) : (s.report m code region ssn cause tile data).up = s.up := by unfold State.report; split <;> rfl
@[simp] theorem State.modPort_flits (s : State) (d : Nat) (host : Bool) (f : Port → Port) : (s.modPort d host f).flits = s.flits := rfl
@[simp] theorem State.sendOp_flits (s : State) (d : Nat) (host : Bool) (o : Output) : (s.sendOp d host o).flits = s.flits := rfl
@[simp] theorem State.report_flits (s : State) (m code region ssn cause tile data : Nat) : (s.report m code region ssn cause tile data).flits = s.flits := by unfold State.report; split <;> rfl
@[simp] theorem State.modPort_xfers (s : State) (d : Nat) (host : Bool) (f : Port → Port) : (s.modPort d host f).xfers = s.xfers := rfl
@[simp] theorem State.sendOp_xfers (s : State) (d : Nat) (host : Bool) (o : Output) : (s.sendOp d host o).xfers = s.xfers := rfl
@[simp] theorem State.report_xfers (s : State) (m code region ssn cause tile data : Nat) : (s.report m code region ssn cause tile data).xfers = s.xfers := by unfold State.report; split <;> rfl
@[simp] theorem State.modPort_wires (s : State) (d : Nat) (host : Bool) (f : Port → Port) : (s.modPort d host f).wires = s.wires := rfl
@[simp] theorem State.sendOp_wires (s : State) (d : Nat) (host : Bool) (o : Output) : (s.sendOp d host o).wires = s.wires := rfl
@[simp] theorem State.report_wires (s : State) (m code region ssn cause tile data : Nat) : (s.report m code region ssn cause tile data).wires = s.wires := by unfold State.report; split <;> rfl
@[simp] theorem State.modPort_semSeen (s : State) (d : Nat) (host : Bool) (f : Port → Port) : (s.modPort d host f).semSeen = s.semSeen := rfl
@[simp] theorem State.sendOp_semSeen (s : State) (d : Nat) (host : Bool) (o : Output) : (s.sendOp d host o).semSeen = s.semSeen := rfl
@[simp] theorem State.report_semSeen (s : State) (m code region ssn cause tile data : Nat) : (s.report m code region ssn cause tile data).semSeen = s.semSeen := by unfold State.report; split <;> rfl
@[simp] theorem State.modPort_outs (s : State) (d : Nat) (host : Bool) (f : Port → Port) : (s.modPort d host f).outs = s.outs := rfl
@[simp] theorem State.sendOp_outs (s : State) (d : Nat) (host : Bool) (o : Output) : (s.sendOp d host o).outs = s.outs ++ [o] := rfl

end Sys2Proof.Machine
end

