-- ==== Sys2Proof/Laws/Effects.lean ====
section
/-! SUPPORT. What the shared ends of an instruction do: completing, completing with a change of the tile, taking a trap, waiting. -/

namespace Sys2Proof.Machine

/-! ## The two halves of an end: the agent's context, and the count of its core -/

theorem Tile.but_setAgent (tl : Tile) (a : Fin 10) (g : Agent) : (tl.setAgent a g).but a = tl.but a := by
  simp [Tile.but, Tile.setAgent]

theorem Tile.but_retired (tl : Tile) (a : Fin 10) (v : W) :
    Tile.but { tl with retired := tl.retired.set (coreIx a) v } a = tl.but a := by
  simp [Tile.but, Tile.setAgent]

theorem Die.but_setSvc (x : Die) (c : Fin 2) (g : Agent) (v : W) :
    (x.setSvc c { x.svc[c] with agent := g, retired := v }).but c = x.but c := by
  simp [Die.but, Die.setSvc]

/-- A new context for an agent changes nothing else. -/
theorem State.setAgentOf_only (s : State) (w : Who) (g : Agent) :
    Only s (s.setAgentOf w g) w g id ∧ (s.setAgentOf w g).retiredOf w = s.retiredOf w := by
  cases w with
  | tile u a =>
    refine ⟨⟨?_, State.agentOf_setAgentOf_self _ _ _, ?_, ?_, ?_⟩, ?_⟩
    · simp [SameRest, State.setAgentOf, State.modTile]
    · simp [State.setAgentOf, State.modTile, Tile.but_setAgent]
    · intro k hk
      simp [State.setAgentOf, State.modTile, hk]
    · intro d
      simp [State.setAgentOf, State.modTile]
    · simp [State.retiredOf, State.setAgentOf, State.modTile]
  | svc d c =>
    refine ⟨⟨?_, State.agentOf_setAgentOf_self _ _ _, ?_, ?_, ?_⟩, ?_⟩
    · simp [SameRest, State.setAgentOf, State.modDie]
    · simp [State.setAgentOf, State.modDie, Die.but, Die.setSvc]
    · intro e he
      simp [State.setAgentOf, State.modDie, he]
    · intro k
      simp [State.setAgentOf, State.modDie]
    · simp [State.retiredOf, State.setAgentOf, State.modDie, Die.setSvc]

/-- Counting an instruction changes nothing but the count. -/
theorem State.retire_only (s : State) (w : Who) :
    Only s (s.retire w) w (s.agentOf w) id ∧ (s.retire w).retiredOf w = s.retiredOf w + 1 := by
  cases w with
  | tile u a =>
    refine ⟨⟨?_, ?_, ?_, ?_, ?_⟩, ?_⟩
    · simp [SameRest, State.retire, State.modTile]
    · simp [State.retire, State.agentOf, State.modTile]
    · simp [State.retire, State.modTile, Tile.but, Tile.setAgent]
    · intro k hk
      simp [State.retire, State.modTile, hk]
    · intro d
      simp [State.retire, State.modTile]
    · simp [State.retiredOf, State.retire, State.modTile]
  | svc d c =>
    refine ⟨⟨?_, ?_, ?_, ?_, ?_⟩, ?_⟩
    · simp [SameRest, State.retire, State.modDie]
    · simp [State.retire, State.agentOf, State.modDie, Die.setSvc]
    · simp [State.retire, State.modDie, Die.but, Die.setSvc]
    · intro e he
      simp [State.retire, State.modDie, he]
    · intro k
      simp [State.retire, State.modDie]
    · simp [State.retiredOf, State.retire, State.modDie, Die.setSvc]

theorem SameRest.trans {s t u : State} (h1 : SameRest s t) (h2 : SameRest t u) : SameRest s u := by
  simp only [SameRest] at *
  simp [h1, h2]

/-- Two changes of one agent, the later after the earlier. -/
theorem Only.trans {s t u : State} {w : Who} {g g' : Agent} {f : Tile → Tile} (h1 : Only s t w g f) (h2 : Only t u w g' id) :
    Only s u w g' f := by
  obtain ⟨r1, _, c1⟩ := h1
  obtain ⟨r2, a2, c2⟩ := h2
  refine ⟨r1.trans r2, a2, ?_⟩
  cases w with
  | tile k a =>
    exact ⟨(c2.1).trans c1.1, fun j hj => (c2.2.1 j hj).trans (c1.2.1 j hj), fun d => (c2.2.2 d).trans (c1.2.2 d)⟩
  | svc d c =>
    exact ⟨(c2.1).trans c1.1, fun j hj => (c2.2.1 j hj).trans (c1.2.1 j hj), fun d => (c2.2.2 d).trans (c1.2.2 d)⟩

/-- A change of the tile of agent `a` that leaves the agent's own context changes nothing else. -/
theorem State.modTile_only (s : State) (u : Nat) (a : Fin 10) (f : Tile → Tile)
    (ha : (f (s.tile u)).cur.agents[a] = (s.tile u).cur.agents[a]) :
    Only s (s.modTile u f) (.tile u a) (s.agentOf (.tile u a)) f := by
  refine ⟨?_, ?_, ?_, ?_, ?_⟩
  · simp [SameRest, State.modTile]
  · simp only [State.agentOf, State.modTile, State.tile_setTile_self]
    exact ha
  · simp [State.modTile]
  · intro k hk
    simp [State.modTile, hk]
  · intro d
    simp [State.modTile]

/-! ## The ends -/

/-- Completing with a context and a PC. -/
theorem State.finish_only (s : State) (g : Agent) :
    Only s ((s.setMe g).retire s.turn) s.turn g id ∧
      ((s.setMe g).retire s.turn).retiredOf s.turn = s.retiredOf s.turn + 1 := by
  have h1 := s.setAgentOf_only s.turn g
  have h2 := (s.setMe g).retire_only s.turn
  have e : (s.setMe g).agentOf s.turn = g := h1.1.2.1
  rw [e] at h2
  exact ⟨h1.1.trans h2.1, h2.2.trans (congrArg (· + 1) h1.2)⟩

/-- `done`: the context given, past the instruction; one more retired; nothing else. -/
theorem State.done_does (s : State) (g : Agent) :
    ∃ t, s.done g = .next t ∧ Only s t s.turn g.past id ∧ t.retiredOf s.turn = s.retiredOf s.turn + 1 :=
  ⟨_, rfl, s.finish_only g.past⟩

/-- `goto`: the context given at the target. -/
theorem State.goto_does (s : State) (g : Agent) (p : W) :
    ∃ t, s.goto g p = .next t ∧ Only s t s.turn { g with pc := p } id ∧ t.retiredOf s.turn = s.retiredOf s.turn + 1 :=
  ⟨_, rfl, s.finish_only { g with pc := p }⟩

/-- `trap`: the context of a taken trap; nothing retired; nothing else. -/
theorem State.trap_does (s : State) (code : Nat) (faddr : W) :
    ∃ t, s.trap code faddr = .next t ∧ Only s t s.turn (s.me.takeTrap (whoMem s.turn) s.clk code faddr s.me.pc) id ∧
      t.retiredOf s.turn = s.retiredOf s.turn :=
  ⟨_, rfl, s.setAgentOf_only s.turn _⟩

/-- `waitOn`: the agent waits at its instruction. -/
theorem State.waitOn_does (s : State) (on : WaitOn) :
    ∃ t, s.waitOn on = .next t ∧ Only s t s.turn { s.me with st := .wait on } id ∧ t.retiredOf s.turn = s.retiredOf s.turn :=
  ⟨_, rfl, s.setAgentOf_only s.turn _⟩

/-- Completing after a change of the tile that leaves the agents and the counts. -/
theorem State.doneIn_does (s : State) (u : Nat) (a : Fin 10) (f : Tile → Tile) (g : Agent) (hw : s.turn = .tile u a)
    (ha : (f (s.tile u)).cur.agents[a] = (s.tile u).cur.agents[a]) (hr : (f (s.tile u)).retired = (s.tile u).retired) :
    ∃ t, (s.modTile u f).done g = .next t ∧ Only s t s.turn g.past f ∧ t.retiredOf s.turn = s.retiredOf s.turn + 1 := by
  have h1 := s.modTile_only u a f ha
  have ht : (s.modTile u f).turn = .tile u a := hw
  have h2 := (s.modTile u f).finish_only g.past
  rw [ht] at h2
  refine ⟨_, rfl, ?_, ?_⟩
  · rw [hw, ht]
    exact h1.trans h2.1
  · rw [hw, ht]
    refine h2.2.trans ?_
    simp [State.retiredOf, State.modTile, hr]

/-- Waiting after a change of the tile. -/
theorem State.waitIn_does (s : State) (u : Nat) (a : Fin 10) (f : Tile → Tile) (on : WaitOn) (hw : s.turn = .tile u a)
    (ha : (f (s.tile u)).cur.agents[a] = (s.tile u).cur.agents[a]) (hr : (f (s.tile u)).retired = (s.tile u).retired) :
    ∃ t, (s.modTile u f).waitOn on = .next t ∧ Only s t s.turn { s.me with st := .wait on } f ∧
      t.retiredOf s.turn = s.retiredOf s.turn := by
  have h1 := s.modTile_only u a f ha
  have ht : (s.modTile u f).turn = .tile u a := hw
  have hm : (s.modTile u f).me = s.me := by
    show (s.modTile u f).agentOf s.turn = s.agentOf s.turn
    rw [hw]
    exact h1.2.1
  have h2 := (s.modTile u f).setAgentOf_only (.tile u a) { s.me with st := .wait on }
  refine ⟨_, rfl, ?_, ?_⟩
  · rw [hm, hw, State.setMe, ht]
    exact h1.trans h2.1
  · rw [hm, hw, State.setMe, ht, h2.2]
    simp [State.retiredOf, State.modTile, hr]

/-! ## Groups of instructions by core type (R20) -/

theorem State.onTile_eq {s : State} (h : s.byTile) (word : Nat) (k : State → Out) : s.onTile word k = k s := by
  obtain ⟨u, a, h⟩ := h
  simp only [State.onTile, State.onCores, h, Who.kind]
  split
  · rfl
  · rename_i hc
    revert hc
    split <;> simp

theorem State.onWork_eq {s : State} (h : s.byStrand) (word : Nat) (k : State → Out) : s.onWork word k = k s := by
  obtain ⟨u, a, h, ha⟩ := h
  simp [State.onWork, State.onCores, h, Who.kind, ha]

theorem State.onHaul_eq {s : State} (h : s.byHaul) (word : Nat) (k : State → Out) : s.onHaul word k = k s := by
  obtain ⟨u, h⟩ := h
  simp [State.onHaul, State.onCores, h, Who.kind]

theorem State.onShape_eq {s : State} (h : s.byShape) (word : Nat) (k : State → Out) : s.onShape word k = k s := by
  obtain ⟨u, h⟩ := h
  simp [State.onShape, State.onCores, h, Who.kind]

theorem State.onService_eq {s : State} (h : s.byService) (word : Nat) (k : State → Out) : s.onService word k = k s := by
  obtain ⟨d, c, h⟩ := h
  simp [State.onService, h, Who.kind]

end Sys2Proof.Machine
end

