-- ==== Sys2Proof/Laws/Fields.lean ====
section
/-! SUPPORT. A word packed from fields gives each field back (R57). -/

namespace Sys2Proof.Laws

/-- Every value fits its width. -/
def Fits : List (Nat × Nat) → Prop
  | [] => True
  | (n, v) :: t => v < 2 ^ n ∧ Fits t

/-- The lowest bit of field `k`. -/
def offAt : List (Nat × Nat) → Nat → Nat
  | [], _ => 0
  | _ :: _, 0 => 0
  | (n, _) :: t, k + 1 => n + offAt t k

/-- The width of field `k`. -/
def widthAt : List (Nat × Nat) → Nat → Nat
  | [], _ => 0
  | (n, _) :: _, 0 => n
  | _ :: t, k + 1 => widthAt t k

/-- The value of field `k`. -/
def valueAt : List (Nat × Nat) → Nat → Nat
  | [], _ => 0
  | (_, v) :: _, 0 => v
  | _ :: t, k + 1 => valueAt t k

theorem fld_low {v n : Nat} (r : Nat) (h : v < 2 ^ n) : fld (v + 2 ^ n * r) 0 n = v := by
  simp [fld, Nat.add_mul_mod_self_left, Nat.mod_eq_of_lt h]

theorem fld_high {v n : Nat} (r lo k : Nat) (h : v < 2 ^ n) : fld (v + 2 ^ n * r) (n + lo) k = fld r lo k := by
  have e : (v + 2 ^ n * r) / 2 ^ n = r := by
    rw [Nat.add_mul_div_left _ _ (Nat.two_pow_pos n), Nat.div_eq_of_lt h, Nat.zero_add]
  rw [fld, fld, Nat.pow_add, ← Nat.div_div_eq_div_mul, e]

theorem fld_pack : ∀ (l : List (Nat × Nat)), Fits l → ∀ k, fld (pack l) (offAt l k) (widthAt l k) = valueAt l k
  | [], _, k => by simp [fld, offAt, widthAt, valueAt, pack, Nat.mod_one]
  | (_, _) :: _, h, 0 => fld_low _ h.1
  | (_, _) :: t, h, k + 1 => (fld_high _ _ _ h.1).trans (fld_pack t h.2 k)

/-- Field `k` of a packed word. -/
theorem fld_at {word : Nat} {l : List (Nat × Nat)} (hw : word = pack l) (hl : Fits l) (k : Nat) :
    fld word (offAt l k) (widthAt l k) = valueAt l k := hw ▸ fld_pack l hl k

theorem pack_lt : ∀ (l : List (Nat × Nat)), Fits l → pack l < 2 ^ (l.map Prod.fst).sum
  | [], _ => Nat.one_pos
  | (n, v) :: t, h => by
    have ih := pack_lt t h.2
    have h1 : v < 2 ^ n := h.1
    have h2 : 2 ^ n * (pack t + 1) ≤ 2 ^ n * 2 ^ (t.map Prod.fst).sum := Nat.mul_le_mul_left _ ih
    simp only [pack, List.map_cons, List.sum_cons, Nat.pow_add]
    rw [Nat.mul_add] at h2
    omega

/-- The major opcode of a packed word. -/
theorem op_at {word op : Nat} {t : List (Nat × Nat)} (hw : word = pack ((7, op) :: t)) (hl : Fits ((7, op) :: t)) :
    word % 128 = op := by
  have := fld_at hw hl 0
  simpa [fld, offAt, widthAt, valueAt] using this

/-- A field that lies inside another one. -/
theorem fld_fld (w lo n a k : Nat) (h : a + k ≤ n) : fld (fld w lo n) a k = fld w (lo + a) k := by
  obtain ⟨j, rfl⟩ := Nat.exists_eq_add_of_le h
  simp only [fld]
  rw [Nat.pow_add 2 lo a, ← Nat.div_div_eq_div_mul, Nat.add_assoc, Nat.pow_add 2 a, Nat.mod_mul_right_div_self, Nat.pow_add 2 k,
    Nat.mod_mul_right_mod]

/-- A part of a field that is known. -/
theorem fld_in {word l k c : Nat} (hs : fld word l k = c) (a i : Nat) (ha : a + i ≤ k) : fld word (l + a) i = fld c a i := by
  rw [← hs, fld_fld _ _ _ _ _ ha]

/-- Two readings of a word that differ on bits they share are not both right. -/
theorem fld_ne {word lo n v : Nat} (l k a b i : Nat) {c : Nat} (hs : fld word l k = c) (hb : l + a = lo + b) (ha : a + i ≤ k)
    (hi : b + i ≤ n) (hd : fld c a i ≠ fld v b i) : fld word lo n ≠ v := by
  rintro rfl
  subst hs
  rw [fld_fld _ _ _ _ _ ha, fld_fld _ _ _ _ _ hi, hb] at hd
  exact hd rfl

/-- A word that is the packing of its own fields. -/
theorem pack_fields (w : Nat) : ∀ (l : List (Nat × Nat)) (lo : Nat),
    (∀ k, k < l.length → valueAt l k = fld w (lo + offAt l k) (widthAt l k)) →
      pack l = fld w lo (l.map Prod.fst).sum
  | [], _, _ => by simp [pack, fld, Nat.mod_one]
  | (n, v) :: t, lo, h => by
    have h0 : v = fld w lo n := by simpa [valueAt, offAt, widthAt] using h 0 (by simp)
    have ih := pack_fields w t (lo + n) (fun k hk => by
      have := h (k + 1) (by simpa using hk)
      simpa [valueAt, offAt, widthAt, Nat.add_assoc] using this)
    simp only [pack, List.map_cons, List.sum_cons, ih, h0]
    simp only [fld]
    rw [Nat.pow_add 2 lo n, ← Nat.div_div_eq_div_mul, Nat.pow_add 2 n, Nat.mod_mul]

end Sys2Proof.Laws
end

