-- ==== Sys2Proof/Laws/Memory.lean ====
section
/-! SUPPORT. Memories: reading what was written, leaving the rest alone, and keeping the canonical form. -/

namespace Sys2Proof.Machine

/-! ## Lists of cells -/

theorem cellGet_append (l m : List Host.Cell) (a : Nat) : cellGet (l ++ m) a = (cellGet l a).or (cellGet m a) := by
  induction l with
  | nil => simp [cellGet]
  | cons c t ih =>
    obtain ⟨j, b⟩ := c
    simp only [List.cons_append, cellGet]
    split
    · simp
    · exact ih

theorem cellGet_filter_of (p : Nat → Bool) (l : List Host.Cell) (a : Nat) (h : p a = true) :
    cellGet (l.filter fun c => p c.1) a = cellGet l a := by
  induction l with
  | nil => rfl
  | cons c t ih =>
    obtain ⟨j, b⟩ := c
    by_cases hj : j = a
    · subst hj
      simp [List.filter, h, cellGet]
    · simp only [List.filter]
      split
      · simp [cellGet, hj, ih]
      · simp [cellGet, hj, ih]

theorem cellGet_filter_not (p : Nat → Bool) (l : List Host.Cell) (a : Nat) (h : p a = false) :
    cellGet (l.filter fun c => p c.1) a = none := by
  induction l with
  | nil => rfl
  | cons c t ih =>
    obtain ⟨j, b⟩ := c
    simp only [List.filter]
    split
    · rename_i hp
      have : j ≠ a := by
        rintro rfl
        simp_all
      simp [cellGet, this, ih]
    · exact ih

theorem cellGet_cellsOf_lt (bl : Nat → Byte) (bs : List Byte) (a x : Nat) (h : x < a ∨ a + bs.length ≤ x) :
    cellGet (cellsOf bl a bs) x = none := by
  induction bs generalizing a with
  | nil => rfl
  | cons b t ih =>
    simp only [List.length_cons] at h
    simp only [cellsOf]
    split
    · exact ih (a + 1) (by omega)
    · have : a ≠ x := by omega
      simp [cellGet, this, ih (a + 1) (by omega)]

theorem cellGet_cellsOf (bl : Nat → Byte) (bs : List Byte) (a i : Nat) (h : i < bs.length) :
    (cellGet (cellsOf bl a bs) (a + i)).getD (bl (a + i)) = bs[i] := by
  induction bs generalizing a i with
  | nil => simp at h
  | cons b t ih =>
    simp only [cellsOf]
    cases i with
    | zero =>
      split
      · rename_i hb
        rw [cellGet_cellsOf_lt _ _ _ _ (by omega)]
        simp [hb]
      · simp [cellGet]
    | succ n =>
      have hn : n < t.length := by simpa using h
      have e : a + (n + 1) = a + 1 + n := by omega
      split
      · rw [e, ih (a + 1) n hn]
        simp
      · have hne : a ≠ a + 1 + n := by omega
        rw [e]
        simp only [cellGet, if_neg hne, ih (a + 1) n hn]
        simp

/-! ## Reading after a write -/

@[simp] theorem Memory.blank_write (m : Memory) (a : Nat) (bs : List Byte) : (m.write a bs).blank = m.blank := rfl
@[simp] theorem Memory.blank_window (m : Memory) (a n : Nat) : (m.window a n).blank = m.blank := rfl

theorem cellGet_write (m : Memory) (a x : Nat) (bs : List Byte) :
    cellGet (m.write a bs).cells x =
      if x < a ∨ a + bs.length ≤ x then cellGet m.cells x else cellGet (cellsOf m.blank a bs) x := by
  simp only [Memory.write, cellGet_append]
  split
  · rename_i h
    rw [cellGet_cellsOf_lt _ _ _ _ h]
    rcases h with h | h
    · rw [cellGet_filter_of (fun j => decide (j < a)) _ _ (by simpa using h),
        cellGet_filter_not (fun j => decide (a + bs.length ≤ j)) _ _ (by simp; omega)]
      simp
    · rw [cellGet_filter_not (fun j => decide (j < a)) _ _ (by simp; omega),
        cellGet_filter_of (fun j => decide (a + bs.length ≤ j)) _ _ (by simpa using h)]
      simp
  · rename_i h
    rw [cellGet_filter_not (fun j => decide (j < a)) _ _ (by simp; omega),
      cellGet_filter_not (fun j => decide (a + bs.length ≤ j)) _ _ (by simp; omega)]
    simp

/-- A write leaves every other byte as it was. -/
theorem Memory.get_write_out (m : Memory) (a x : Nat) (bs : List Byte) (h : x < a ∨ a + bs.length ≤ x) :
    (m.write a bs).get x = m.get x := by
  simp only [Memory.get, cellGet_write, if_pos h, Memory.blank_write]

/-- A write gives the bytes written. -/
theorem Memory.get_write_in (m : Memory) (a i : Nat) (bs : List Byte) (h : i < bs.length) :
    (m.write a bs).get (a + i) = bs[i] := by
  have hn : ¬(a + i < a ∨ a + bs.length ≤ a + i) := by omega
  simp only [Memory.get, cellGet_write, if_neg hn, Memory.blank_write]
  exact cellGet_cellsOf _ _ _ _ h

/-- Making addresses unspecified leaves every other byte as it was. -/
theorem Memory.get_forget_out (m : Memory) (a n k x : Nat) (h : x < a ∨ a + n ≤ x) : (m.forget a n k).get x = m.get x := by
  have hb : (m.forget a n k).blank x = m.blank x := by
    simp only [Memory.blank, Memory.forget, blankIn]
    rw [if_neg (by omega)]
  simp only [Memory.get, hb]
  congr 1
  exact cellGet_filter_of (fun j => decide (j < a) || decide (a + n ≤ j)) _ _ (by simpa using h)

theorem Memory.get_window (m : Memory) (a n i : Nat) (h : i < n) : (m.window a n).get (a + i) = m.get (a + i) := by
  simp only [Memory.get, Memory.blank_window]
  congr 1
  exact cellGet_filter_of (fun j => decide (a ≤ j) && decide (j < a + n)) _ _ (by simp; omega)

@[simp] theorem Memory.bytes_length (m : Memory) (a n : Nat) : (m.bytes a n).length = n := by simp [Memory.bytes]

/-- The bytes read from an address are the bytes of the memory, one by one. -/
theorem Memory.bytes_eq (m : Memory) (a n : Nat) : m.bytes a n = (List.range n).map fun i => m.get (a + i) := by
  simp only [Memory.bytes]
  apply List.map_congr_left
  intro i hi
  exact m.get_window a n i (List.mem_range.mp hi)

/-- Reading back what was written. -/
theorem Memory.bytes_write_self (m : Memory) (a : Nat) (bs : List Byte) : (m.write a bs).bytes a bs.length = bs := by
  rw [Memory.bytes_eq]
  apply List.ext_getElem
  · simp
  · intro i h1 h2
    simp [Memory.get_write_in m a i bs h2]

/-- Reading apart from what was written. -/
theorem Memory.bytes_write_out (m : Memory) (a b n : Nat) (bs : List Byte) (h : b + n ≤ a ∨ a + bs.length ≤ b) :
    (m.write a bs).bytes b n = m.bytes b n := by
  rw [Memory.bytes_eq, Memory.bytes_eq]
  apply List.map_congr_left
  intro i hi
  have := List.mem_range.mp hi
  exact m.get_write_out a _ bs (by omega)

/-! ## The canonical form -/

theorem cellsWf_mono (bl : Nat → Byte) {lo hi : Nat} (h : lo ≤ hi) : ∀ {l : List Host.Cell}, cellsWf bl hi l = true →
    cellsWf bl lo l = true
  | [], _ => rfl
  | (a, b) :: t, hw => by
    simp only [cellsWf, Bool.and_eq_true, decide_eq_true_eq] at hw ⊢
    exact ⟨⟨by omega, hw.1.2⟩, hw.2⟩

/-- Cells that each lie at or above `lo`, below the next, and differ from the blank. -/
theorem cellsWf_append (bl : Nat → Byte) (mid : Nat) : ∀ (l m : List Host.Cell) (lo : Nat), lo ≤ mid →
    cellsWf bl lo l = true → (∀ c ∈ l, c.1 < mid) → cellsWf bl mid m = true → cellsWf bl lo (l ++ m) = true
  | [], _, _, h, _, _, hm => cellsWf_mono bl h hm
  | (a, b) :: t, m, lo, h, hl, hc, hm => by
    simp only [cellsWf, Bool.and_eq_true, decide_eq_true_eq, List.cons_append] at hl ⊢
    have ha : a < mid := hc (a, b) (List.mem_cons_self ..)
    exact ⟨hl.1, cellsWf_append bl mid t m (a + 1) ha hl.2 (fun c h => hc c (List.mem_cons_of_mem _ h)) hm⟩

theorem cellsWf_filter (bl : Nat → Byte) (p : Host.Cell → Bool) : ∀ (l : List Host.Cell) (lo : Nat), cellsWf bl lo l = true →
    cellsWf bl lo (l.filter p) = true
  | [], _, _ => rfl
  | (a, b) :: t, lo, h => by
    simp only [cellsWf, Bool.and_eq_true, decide_eq_true_eq] at h
    simp only [List.filter]
    split
    · simp only [cellsWf, Bool.and_eq_true, decide_eq_true_eq]
      exact ⟨h.1, cellsWf_filter bl p t (a + 1) h.2⟩
    · exact cellsWf_mono bl (by omega) (cellsWf_filter bl p t (a + 1) h.2)

theorem cellsWf_ge (bl : Nat → Byte) (a : Nat) : ∀ (l : List Host.Cell) (lo : Nat), cellsWf bl lo l = true →
    cellsWf bl a (l.filter fun c => decide (a ≤ c.1)) = true
  | [], _, _ => rfl
  | (j, b) :: t, lo, h => by
    simp only [cellsWf, Bool.and_eq_true, decide_eq_true_eq] at h
    simp only [List.filter]
    split
    · rename_i hj
      simp only [decide_eq_true_eq] at hj
      simp only [cellsWf, Bool.and_eq_true, decide_eq_true_eq]
      exact ⟨⟨hj, h.1.2⟩, cellsWf_filter bl _ t (j + 1) h.2⟩
    · exact cellsWf_ge bl a t (j + 1) h.2

theorem cellsWf_cellsOf (bl : Nat → Byte) : ∀ (bs : List Byte) (a : Nat), cellsWf bl a (cellsOf bl a bs) = true
  | [], _ => rfl
  | b :: t, a => by
    simp only [cellsOf]
    split
    · exact cellsWf_mono bl (by omega) (cellsWf_cellsOf bl t (a + 1))
    · rename_i h
      simp only [cellsWf, Bool.and_eq_true, decide_eq_true_eq]
      exact ⟨⟨by omega, h⟩, cellsWf_cellsOf bl t (a + 1)⟩

theorem cellsOf_lt (bl : Nat → Byte) : ∀ (bs : List Byte) (a : Nat) (c : Host.Cell), c ∈ cellsOf bl a bs → c.1 < a + bs.length
  | [], _, _, h => by simp [cellsOf] at h
  | b :: t, a, c, h => by
    simp only [cellsOf] at h
    simp only [List.length_cons]
    split at h
    · have := cellsOf_lt bl t (a + 1) c h
      omega
    · rcases List.mem_cons.mp h with rfl | h
      · simp
      · have := cellsOf_lt bl t (a + 1) c h
        omega

/-- A write keeps the canonical form. -/
theorem Memory.write_wf (m : Memory) (a : Nat) (bs : List Byte) (h : m.wf = true) : (m.write a bs).wf = true := by
  simp only [Memory.wf] at h ⊢
  show cellsWf m.blank 0 _ = true
  simp only [Memory.write]
  apply cellsWf_append _ (a + bs.length) _ _ _ (Nat.zero_le _)
  · apply cellsWf_append _ a _ _ _ (Nat.zero_le _)
    · exact cellsWf_filter _ _ _ _ h
    · intro c hc
      simpa using (List.mem_filter.mp hc).2
    · exact cellsWf_cellsOf _ _ _
  · intro c hc
    rcases List.mem_append.mp hc with hc | hc
    · have : c.1 < a := by simpa using (List.mem_filter.mp hc).2
      omega
    · exact cellsOf_lt _ _ _ _ hc
  · exact cellsWf_ge _ _ _ _ h

theorem cellsWf_congr {b1 b2 : Nat → Byte} : ∀ (l : List Host.Cell) (lo : Nat), (∀ c ∈ l, b1 c.1 = b2 c.1) →
    cellsWf b1 lo l = true → cellsWf b2 lo l = true
  | [], _, _, _ => rfl
  | (a, b) :: t, lo, hc, h => by
    simp only [cellsWf, Bool.and_eq_true, decide_eq_true_eq] at h ⊢
    have e := hc (a, b) (List.mem_cons_self ..)
    exact ⟨⟨h.1.1, fun hb => h.1.2 (hb.trans e.symm)⟩, cellsWf_congr t _ (fun c hm => hc c (List.mem_cons_of_mem _ hm)) h.2⟩

/-- Making addresses unspecified keeps the canonical form. -/
theorem Memory.forget_wf (m : Memory) (a n k : Nat) (h : m.wf = true) : (m.forget a n k).wf = true := by
  simp only [Memory.wf] at h ⊢
  apply cellsWf_congr (b1 := m.blank)
  · intro c hc
    have hp := (List.mem_filter.mp hc).2
    simp only [Bool.or_eq_true, decide_eq_true_eq] at hp
    simp only [Memory.blank, Memory.forget, blankIn]
    rw [if_neg (by omega)]
  · exact cellsWf_filter _ _ _ _ h

theorem Memory.empty_wf : Memory.empty.wf = true := rfl

end Sys2Proof.Machine
end

