-- ==== Sys2Proof/Laws/Order.lean ====
section
/-! SUPPORT. What the operations that keep the memory order of one agent can do (R161, R207, R225-R234): which version of an atom a
reader takes, when a store performs at once, and that all of it is idle where nothing was issued before. -/

namespace Sys2Proof.Machine

/-- A write within a line that finds room changes tile memory by its bytes. -/
theorem Tile.put_tm {tl t : Tile} {a : Nat} {bs : List Byte} (h : tl.put a bs = some t) : t.tm = tl.tm.write a bs := by
  unfold Tile.put at h
  split at h
  · cases h; simp [Tile.keepLine]; split <;> rfl
  · cases h

theorem Tile.mem_versions_now (tl : Tile) (r : Reader) (w : Nat) :
    ((tl.oldsOf w).length, tl.tm.bytes (16 * w) 16) ∈ tl.versions r w := by simp [Tile.versions]

theorem Tile.allowed_sub {tl : Tile} {r : Reader} {w : Nat} {v : Nat × List Byte} (h : v ∈ tl.allowed r w) : v ∈ tl.versions r w := by
  simp only [Tile.allowed] at h
  split at h
  · exact h
  · exact (List.mem_filter.1 h).1

theorem Tile.allowed_ne_nil (tl : Tile) (r : Reader) (w : Nat) : tl.allowed r w ≠ [] := by
  simp only [Tile.allowed]
  split
  · exact List.ne_nil_of_mem (tl.mem_versions_now r w)
  · next h => exact fun e => h (List.isEmpty_iff.2 e)

/-- A reader takes an atom in one of the versions that it may take. -/
theorem Tile.pick_allowed (tl : Tile) (r : Reader) (k w : Nat) : tl.pick r k w ∈ tl.allowed r w := by
  have hp : 0 < (tl.allowed r w).length := List.length_pos_iff.2 (tl.allowed_ne_nil r w)
  simp only [Tile.pick, List.getD_eq_getElem?_getD, List.getElem?_eq_getElem (Nat.mod_lt _ hp), Option.getD_some]
  exact List.getElem_mem _

/-- Every version that a reader may take is the atom as it stands, or as it was before a write that the reader may miss. -/
theorem Tile.versions_bytes {tl : Tile} {r : Reader} {w : Nat} {v : Nat × List Byte} (h : v ∈ tl.versions r w) :
    v.2 = tl.tm.bytes (16 * w) 16 ∨ ∃ q ∈ tl.olds, q.atom = w ∧ r.mayMiss q = true ∧ v.2 = q.bytes := by
  simp only [Tile.versions, List.mem_cons, List.mem_map] at h
  rcases h with rfl | ⟨q, hq, rfl⟩
  · exact .inl rfl
  · have hm : q.1 ∈ (tl.oldsOf w).takeWhile r.mayMiss := by
      obtain ⟨x, i⟩ := q
      exact List.fst_mem_of_mem_zipIdx hq
    have ho := List.mem_filter.1 ((List.takeWhile_sublist _).subset hm)
    exact .inr ⟨q.1, ho.1, by simpa using ho.2, List.mem_takeWhile_imp hm, rfl⟩

/-- Where no write is kept and no store is held, tile memory is seen as it stands. -/
theorem Tile.view_plain {tl : Tile} (r : Reader) (k : Nat) (l : List (Nat × Nat)) (ho : tl.olds = []) (hh : tl.held = []) :
    tl.view r k l [] = tl.tm := by simp [Tile.view, ho, hh]

/-- A store that no earlier operation of its agent and no held store comes before performs at once. -/
theorem Tile.store_now {tl : Tile} (a : Fin 10) (addr : Nat) (bs : List Byte) (hh : tl.held = []) :
    tl.store a [] addr bs = tl.put addr bs := by simp [Tile.store, Tile.holds, clearOf, hh]

/-- Where no store is held a flush changes nothing. -/
@[simp] theorem State.flush_idle {s : State} {t : Nat} (h : (s.tile t).held = []) : s.flush t = s := by simp [State.flush, h]

/-- Only a store of a strand stalls: those of a hart and of a service core never do. -/
theorem State.behindOwn_hart {s : State} {t : Nat} {a : Fin 10} (h : s.turn = .tile t a) (ha : 8 ≤ a.val) (l : List (Nat × Nat)) :
    s.behindOwn l = false := by simp [State.behindOwn, h]; omega

theorem State.behindOwn_svc {s : State} {d : Nat} {c : Fin 2} (h : s.turn = .svc d c) (l : List (Nat × Nat)) : s.behindOwn l = false := by
  simp [State.behindOwn, h]

/-- A store waits for a matrix entry, stalls behind a command of its own, or goes on: nothing else comes before its effect. -/
theorem State.storeWait_cases (s : State) (a n : Nat) (k : State → Out) :
    (∃ e, s.unread a n = some e ∧ s.storeWait a n k = s.waitOn (.matrix e.id)) ∨
    (s.unread a n = none ∧ s.behindOwn [(a, n)] = true ∧ s.storeWait a n k = s.stall) ∨
    (s.unread a n = none ∧ s.behindOwn [(a, n)] = false ∧ s.storeWait a n k = k s) := by
  unfold State.storeWait
  cases hu : s.unread a n with
  | some e => exact .inl ⟨e, rfl, rfl⟩
  | none => cases hb : s.behindOwn [(a, n)] <;> simp

@[simp] theorem Agent.unstalled_stalled (g : Agent) : g.unstalled.stalled = false := by
  unfold Agent.unstalled; split <;> simp_all

theorem Agent.unstalled_idle {g : Agent} (h : g.stalled = false) : g.unstalled = g := by simp [Agent.unstalled, h]

end Sys2Proof.Machine
end

