-- ==== Sys2Proof/Laws/PerInstr.lean ====
section
/-! SUPPORT. One lemma per instruction: its word decodes to it (R57-R78). -/

namespace Sys2Proof.Laws.RoundTrip

/-- The word of a well-formed instruction has 32 bits and decodes to the instruction, with every operand (R57-R60, R69-R78). -/
def Statement (i : Instr) : Prop := i.wf = true → ∀ w, encode i = some w → w < 2 ^ 32 ∧ decode w = some i

/-- A word whose row is a well-formed instruction decodes to it. -/
theorem decode_of_row {i : Instr} {u : Nat} (h : i.wf = true) (row : decodeRow u = some i) : decode u = some i := by
  simp only [decode, row]
  exact if_pos h

theorem row01 {word : Nat} (h : word % 128 = 1) : decodeRow word = decodeOp01 word := congrArg (decodeTable · word) h

theorem row02 {word : Nat} (h : word % 128 = 2) : decodeRow word = decodeOp02 word := congrArg (decodeTable · word) h

theorem row03 {word : Nat} (h : word % 128 = 3) : decodeRow word = decodeOp03 word := congrArg (decodeTable · word) h

theorem row04 {word : Nat} (h : word % 128 = 4) : decodeRow word = decodeOp04 word := congrArg (decodeTable · word) h

theorem row05 {word : Nat} (h : word % 128 = 5) : decodeRow word = decodeOp05 word := congrArg (decodeTable · word) h

theorem row06 {word : Nat} (h : word % 128 = 6) : decodeRow word = decodeOp06 word := congrArg (decodeTable · word) h

theorem row07 {word : Nat} (h : word % 128 = 7) : decodeRow word = decodeOp07 word := congrArg (decodeTable · word) h

theorem row08 {word : Nat} (h : word % 128 = 8) : decodeRow word = decodeOp08 word := congrArg (decodeTable · word) h

theorem row09 {word : Nat} (h : word % 128 = 9) : decodeRow word = decodeOp09 word := congrArg (decodeTable · word) h

theorem row0a {word : Nat} (h : word % 128 = 10) : decodeRow word = decodeOp0a word := congrArg (decodeTable · word) h

theorem row0b {word : Nat} (h : word % 128 = 11) : decodeRow word = decodeOp0b word := congrArg (decodeTable · word) h

theorem row0c {word : Nat} (h : word % 128 = 12) : decodeRow word = decodeOp0c word := congrArg (decodeTable · word) h

theorem row0d {word : Nat} (h : word % 128 = 13) : decodeRow word = decodeOp0d word := congrArg (decodeTable · word) h

theorem row0e {word : Nat} (h : word % 128 = 14) : decodeRow word = decodeOp0e word := congrArg (decodeTable · word) h

theorem row0f {word : Nat} (h : word % 128 = 15) : decodeRow word = decodeOp0f word := congrArg (decodeTable · word) h

theorem row10 {word : Nat} (h : word % 128 = 16) : decodeRow word = decodeOp10 word := congrArg (decodeTable · word) h

theorem row11 {word : Nat} (h : word % 128 = 17) : decodeRow word = decodeOp11 word := congrArg (decodeTable · word) h

theorem row12 {word : Nat} (h : word % 128 = 18) : decodeRow word = decodeOp12 word := congrArg (decodeTable · word) h

theorem row13 {word : Nat} (h : word % 128 = 19) : decodeRow word = decodeOp13 word := congrArg (decodeTable · word) h

theorem row14 {word : Nat} (h : word % 128 = 20) : decodeRow word = decodeOp14 word := congrArg (decodeTable · word) h

theorem row15 {word : Nat} (h : word % 128 = 21) : decodeRow word = decodeOp15 word := congrArg (decodeTable · word) h

theorem row16 {word : Nat} (h : word % 128 = 22) : decodeRow word = decodeOp16 word := congrArg (decodeTable · word) h

theorem row17 {word : Nat} (h : word % 128 = 23) : decodeRow word = decodeOp17 word := congrArg (decodeTable · word) h

theorem row18 {word : Nat} (h : word % 128 = 24) : decodeRow word = decodeOp18 word := congrArg (decodeTable · word) h

theorem row19 {word : Nat} (h : word % 128 = 25) : decodeRow word = decodeOp19 word := congrArg (decodeTable · word) h

theorem row1a {word : Nat} (h : word % 128 = 26) : decodeRow word = decodeOp1a word := congrArg (decodeTable · word) h

theorem row20 {word : Nat} (h : word % 128 = 32) : decodeRow word = decodeOp20 word := congrArg (decodeTable · word) h

theorem row21 {word : Nat} (h : word % 128 = 33) : decodeRow word = decodeOp21 word := congrArg (decodeTable · word) h

theorem row22 {word : Nat} (h : word % 128 = 34) : decodeRow word = decodeOp22 word := congrArg (decodeTable · word) h

theorem row23 {word : Nat} (h : word % 128 = 35) : decodeRow word = decodeOp23 word := congrArg (decodeTable · word) h

theorem row24 {word : Nat} (h : word % 128 = 36) : decodeRow word = decodeOp24 word := congrArg (decodeTable · word) h

theorem row25 {word : Nat} (h : word % 128 = 37) : decodeRow word = decodeOp25 word := congrArg (decodeTable · word) h

theorem row26 {word : Nat} (h : word % 128 = 38) : decodeRow word = decodeOp26 word := congrArg (decodeTable · word) h

theorem row27 {word : Nat} (h : word % 128 = 39) : decodeRow word = decodeOp27 word := congrArg (decodeTable · word) h

theorem row28 {word : Nat} (h : word % 128 = 40) : decodeRow word = decodeOp28 word := congrArg (decodeTable · word) h

theorem row30 {word : Nat} (h : word % 128 = 48) : decodeRow word = decodeOp30 word := congrArg (decodeTable · word) h

theorem row31 {word : Nat} (h : word % 128 = 49) : decodeRow word = decodeOp31 word := congrArg (decodeTable · word) h

theorem row32 {word : Nat} (h : word % 128 = 50) : decodeRow word = decodeOp32 word := congrArg (decodeTable · word) h

theorem row33 {word : Nat} (h : word % 128 = 51) : decodeRow word = decodeOp33 word := congrArg (decodeTable · word) h

theorem row34 {word : Nat} (h : word % 128 = 52) : decodeRow word = decodeOp34 word := congrArg (decodeTable · word) h

theorem row35 {word : Nat} (h : word % 128 = 53) : decodeRow word = decodeOp35 word := congrArg (decodeTable · word) h

theorem row40 {word : Nat} (h : word % 128 = 64) : decodeRow word = decodeOp40 word := congrArg (decodeTable · word) h

theorem row41 {word : Nat} (h : word % 128 = 65) : decodeRow word = decodeOp41 word := congrArg (decodeTable · word) h

theorem row42 {word : Nat} (h : word % 128 = 66) : decodeRow word = decodeOp42 word := congrArg (decodeTable · word) h

theorem row43 {word : Nat} (h : word % 128 = 67) : decodeRow word = decodeOp43 word := congrArg (decodeTable · word) h

theorem row44 {word : Nat} (h : word % 128 = 68) : decodeRow word = decodeOp44 word := congrArg (decodeTable · word) h

theorem row45 {word : Nat} (h : word % 128 = 69) : decodeRow word = decodeOp45 word := congrArg (decodeTable · word) h

theorem row46 {word : Nat} (h : word % 128 = 70) : decodeRow word = decodeOp46 word := congrArg (decodeTable · word) h

theorem row47 {word : Nat} (h : word % 128 = 71) : decodeRow word = decodeOp47 word := congrArg (decodeTable · word) h

theorem row48 {word : Nat} (h : word % 128 = 72) : decodeRow word = decodeOp48 word := congrArg (decodeTable · word) h

theorem row50 {word : Nat} (h : word % 128 = 80) : decodeRow word = decodeOp50 word := congrArg (decodeTable · word) h

theorem row51 {word : Nat} (h : word % 128 = 81) : decodeRow word = decodeOp51 word := congrArg (decodeTable · word) h

theorem row52 {word : Nat} (h : word % 128 = 82) : decodeRow word = decodeOp52 word := congrArg (decodeTable · word) h

theorem row53 {word : Nat} (h : word % 128 = 83) : decodeRow word = decodeOp53 word := congrArg (decodeTable · word) h

theorem row58 {word : Nat} (h : word % 128 = 88) : decodeRow word = decodeOp58 word := congrArg (decodeTable · word) h

theorem row59 {word : Nat} (h : word % 128 = 89) : decodeRow word = decodeOp59 word := congrArg (decodeTable · word) h

theorem row5a {word : Nat} (h : word % 128 = 90) : decodeRow word = decodeOp5a word := congrArg (decodeTable · word) h

theorem row5b {word : Nat} (h : word % 128 = 91) : decodeRow word = decodeOp5b word := congrArg (decodeTable · word) h

theorem row5c {word : Nat} (h : word % 128 = 92) : decodeRow word = decodeOp5c word := congrArg (decodeTable · word) h

theorem row5d {word : Nat} (h : word % 128 = 93) : decodeRow word = decodeOp5d word := congrArg (decodeTable · word) h

theorem row5e {word : Nat} (h : word % 128 = 94) : decodeRow word = decodeOp5e word := congrArg (decodeTable · word) h

theorem row60 {word : Nat} (h : word % 128 = 96) : decodeRow word = decodeOp60 word := congrArg (decodeTable · word) h

theorem row61 {word : Nat} (h : word % 128 = 97) : decodeRow word = decodeOp61 word := congrArg (decodeTable · word) h

theorem row62 {word : Nat} (h : word % 128 = 98) : decodeRow word = decodeOp62 word := congrArg (decodeTable · word) h

theorem row63 {word : Nat} (h : word % 128 = 99) : decodeRow word = decodeOp63 word := congrArg (decodeTable · word) h

theorem row64 {word : Nat} (h : word % 128 = 100) : decodeRow word = decodeOp64 word := congrArg (decodeTable · word) h

theorem row65 {word : Nat} (h : word % 128 = 101) : decodeRow word = decodeOp65 word := congrArg (decodeTable · word) h

theorem row68 {word : Nat} (h : word % 128 = 104) : decodeRow word = decodeOp68 word := congrArg (decodeTable · word) h

theorem row69 {word : Nat} (h : word % 128 = 105) : decodeRow word = decodeOp69 word := congrArg (decodeTable · word) h

theorem row6a {word : Nat} (h : word % 128 = 106) : decodeRow word = decodeOp6a word := congrArg (decodeTable · word) h

theorem row6b {word : Nat} (h : word % 128 = 107) : decodeRow word = decodeOp6b word := congrArg (decodeTable · word) h

theorem row6c {word : Nat} (h : word % 128 = 108) : decodeRow word = decodeOp6c word := congrArg (decodeTable · word) h

theorem row6d {word : Nat} (h : word % 128 = 109) : decodeRow word = decodeOp6d word := congrArg (decodeTable · word) h

theorem row6e {word : Nat} (h : word % 128 = 110) : decodeRow word = decodeOp6e word := congrArg (decodeTable · word) h

theorem row70 {word : Nat} (h : word % 128 = 112) : decodeRow word = decodeOp70 word := congrArg (decodeTable · word) h

theorem row71 {word : Nat} (h : word % 128 = 113) : decodeRow word = decodeOp71 word := congrArg (decodeTable · word) h

theorem row72 {word : Nat} (h : word % 128 = 114) : decodeRow word = decodeOp72 word := congrArg (decodeTable · word) h

theorem row7f {word : Nat} (h : word % 128 = 127) : decodeRow word = decodeOp7f word := congrArg (decodeTable · word) h

theorem add (d : BitVec 5) (a : BitVec 5) (b : BitVec 5) : Statement (.add d a b) := by
  intro hwf word heq
  have hw : word = pack [(7, 0x1), (5, d.toNat), (5, a.toNat), (5, b.toNat), (10, 0)] := (Option.some.inj heq).symm
  have hl : Fits [(7, 0x1), (5, d.toNat), (5, a.toNat), (5, b.toNat), (10, 0)] := ⟨by decide, d.isLt, a.isLt, b.isLt, by decide, trivial⟩
  have f1 : fld word 7 5 = d.toNat := fld_at hw hl 1
  have f2 : fld word 12 5 = a.toNat := fld_at hw hl 2
  have f3 : fld word 17 5 = b.toNat := fld_at hw hl 3
  have f4 : fld word 22 10 = 0 := fld_at hw hl 4
  have row : decodeRow word = some (.add d a b) := by
    rw [row01 (op_at hw hl)]
    simp [decodeOp01, f1, f2, f3, f4]
  exact ⟨hw ▸ pack_lt _ hl, decode_of_row hwf row⟩

theorem sub (d : BitVec 5) (a : BitVec 5) (b : BitVec 5) : Statement (.sub d a b) := by
  intro hwf word heq
  have hw : word = pack [(7, 0x1), (5, d.toNat), (5, a.toNat), (5, b.toNat), (10, 1)] := (Option.some.inj heq).symm
  have hl : Fits [(7, 0x1), (5, d.toNat), (5, a.toNat), (5, b.toNat), (10, 1)] := ⟨by decide, d.isLt, a.isLt, b.isLt, by decide, trivial⟩
  have f1 : fld word 7 5 = d.toNat := fld_at hw hl 1
  have f2 : fld word 12 5 = a.toNat := fld_at hw hl 2
  have f3 : fld word 17 5 = b.toNat := fld_at hw hl 3
  have f4 : fld word 22 10 = 1 := fld_at hw hl 4
  have row : decodeRow word = some (.sub d a b) := by
    rw [row01 (op_at hw hl)]
    simp [decodeOp01, f1, f2, f3, f4]
  exact ⟨hw ▸ pack_lt _ hl, decode_of_row hwf row⟩

theorem and (d : BitVec 5) (a : BitVec 5) (b : BitVec 5) : Statement (.and d a b) := by
  intro hwf word heq
  have hw : word = pack [(7, 0x1), (5, d.toNat), (5, a.toNat), (5, b.toNat), (10, 2)] := (Option.some.inj heq).symm
  have hl : Fits [(7, 0x1), (5, d.toNat), (5, a.toNat), (5, b.toNat), (10, 2)] := ⟨by decide, d.isLt, a.isLt, b.isLt, by decide, trivial⟩
  have f1 : fld word 7 5 = d.toNat := fld_at hw hl 1
  have f2 : fld word 12 5 = a.toNat := fld_at hw hl 2
  have f3 : fld word 17 5 = b.toNat := fld_at hw hl 3
  have f4 : fld word 22 10 = 2 := fld_at hw hl 4
  have row : decodeRow word = some (.and d a b) := by
    rw [row01 (op_at hw hl)]
    simp [decodeOp01, f1, f2, f3, f4]
  exact ⟨hw ▸ pack_lt _ hl, decode_of_row hwf row⟩

theorem or (d : BitVec 5) (a : BitVec 5) (b : BitVec 5) : Statement (.or d a b) := by
  intro hwf word heq
  have hw : word = pack [(7, 0x1), (5, d.toNat), (5, a.toNat), (5, b.toNat), (10, 3)] := (Option.some.inj heq).symm
  have hl : Fits [(7, 0x1), (5, d.toNat), (5, a.toNat), (5, b.toNat), (10, 3)] := ⟨by decide, d.isLt, a.isLt, b.isLt, by decide, trivial⟩
  have f1 : fld word 7 5 = d.toNat := fld_at hw hl 1
  have f2 : fld word 12 5 = a.toNat := fld_at hw hl 2
  have f3 : fld word 17 5 = b.toNat := fld_at hw hl 3
  have f4 : fld word 22 10 = 3 := fld_at hw hl 4
  have row : decodeRow word = some (.or d a b) := by
    rw [row01 (op_at hw hl)]
    simp [decodeOp01, f1, f2, f3, f4]
  exact ⟨hw ▸ pack_lt _ hl, decode_of_row hwf row⟩

theorem xor (d : BitVec 5) (a : BitVec 5) (b : BitVec 5) : Statement (.xor d a b) := by
  intro hwf word heq
  have hw : word = pack [(7, 0x1), (5, d.toNat), (5, a.toNat), (5, b.toNat), (10, 4)] := (Option.some.inj heq).symm
  have hl : Fits [(7, 0x1), (5, d.toNat), (5, a.toNat), (5, b.toNat), (10, 4)] := ⟨by decide, d.isLt, a.isLt, b.isLt, by decide, trivial⟩
  have f1 : fld word 7 5 = d.toNat := fld_at hw hl 1
  have f2 : fld word 12 5 = a.toNat := fld_at hw hl 2
  have f3 : fld word 17 5 = b.toNat := fld_at hw hl 3
  have f4 : fld word 22 10 = 4 := fld_at hw hl 4
  have row : decodeRow word = some (.xor d a b) := by
    rw [row01 (op_at hw hl)]
    simp [decodeOp01, f1, f2, f3, f4]
  exact ⟨hw ▸ pack_lt _ hl, decode_of_row hwf row⟩

theorem andn (d : BitVec 5) (a : BitVec 5) (b : BitVec 5) : Statement (.andn d a b) := by
  intro hwf word heq
  have hw : word = pack [(7, 0x1), (5, d.toNat), (5, a.toNat), (5, b.toNat), (10, 5)] := (Option.some.inj heq).symm
  have hl : Fits [(7, 0x1), (5, d.toNat), (5, a.toNat), (5, b.toNat), (10, 5)] := ⟨by decide, d.isLt, a.isLt, b.isLt, by decide, trivial⟩
  have f1 : fld word 7 5 = d.toNat := fld_at hw hl 1
  have f2 : fld word 12 5 = a.toNat := fld_at hw hl 2
  have f3 : fld word 17 5 = b.toNat := fld_at hw hl 3
  have f4 : fld word 22 10 = 5 := fld_at hw hl 4
  have row : decodeRow word = some (.andn d a b) := by
    rw [row01 (op_at hw hl)]
    simp [decodeOp01, f1, f2, f3, f4]
  exact ⟨hw ▸ pack_lt _ hl, decode_of_row hwf row⟩

theorem sll (d : BitVec 5) (a : BitVec 5) (b : BitVec 5) : Statement (.sll d a b) := by
  intro hwf word heq
  have hw : word = pack [(7, 0x1), (5, d.toNat), (5, a.toNat), (5, b.toNat), (10, 6)] := (Option.some.inj heq).symm
  have hl : Fits [(7, 0x1), (5, d.toNat), (5, a.toNat), (5, b.toNat), (10, 6)] := ⟨by decide, d.isLt, a.isLt, b.isLt, by decide, trivial⟩
  have f1 : fld word 7 5 = d.toNat := fld_at hw hl 1
  have f2 : fld word 12 5 = a.toNat := fld_at hw hl 2
  have f3 : fld word 17 5 = b.toNat := fld_at hw hl 3
  have f4 : fld word 22 10 = 6 := fld_at hw hl 4
  have row : decodeRow word = some (.sll d a b) := by
    rw [row01 (op_at hw hl)]
    simp [decodeOp01, f1, f2, f3, f4]
  exact ⟨hw ▸ pack_lt _ hl, decode_of_row hwf row⟩

theorem srl (d : BitVec 5) (a : BitVec 5) (b : BitVec 5) : Statement (.srl d a b) := by
  intro hwf word heq
  have hw : word = pack [(7, 0x1), (5, d.toNat), (5, a.toNat), (5, b.toNat), (10, 7)] := (Option.some.inj heq).symm
  have hl : Fits [(7, 0x1), (5, d.toNat), (5, a.toNat), (5, b.toNat), (10, 7)] := ⟨by decide, d.isLt, a.isLt, b.isLt, by decide, trivial⟩
  have f1 : fld word 7 5 = d.toNat := fld_at hw hl 1
  have f2 : fld word 12 5 = a.toNat := fld_at hw hl 2
  have f3 : fld word 17 5 = b.toNat := fld_at hw hl 3
  have f4 : fld word 22 10 = 7 := fld_at hw hl 4
  have row : decodeRow word = some (.srl d a b) := by
    rw [row01 (op_at hw hl)]
    simp [decodeOp01, f1, f2, f3, f4]
  exact ⟨hw ▸ pack_lt _ hl, decode_of_row hwf row⟩

theorem sra (d : BitVec 5) (a : BitVec 5) (b : BitVec 5) : Statement (.sra d a b) := by
  intro hwf word heq
  have hw : word = pack [(7, 0x1), (5, d.toNat), (5, a.toNat), (5, b.toNat), (10, 8)] := (Option.some.inj heq).symm
  have hl : Fits [(7, 0x1), (5, d.toNat), (5, a.toNat), (5, b.toNat), (10, 8)] := ⟨by decide, d.isLt, a.isLt, b.isLt, by decide, trivial⟩
  have f1 : fld word 7 5 = d.toNat := fld_at hw hl 1
  have f2 : fld word 12 5 = a.toNat := fld_at hw hl 2
  have f3 : fld word 17 5 = b.toNat := fld_at hw hl 3
  have f4 : fld word 22 10 = 8 := fld_at hw hl 4
  have row : decodeRow word = some (.sra d a b) := by
    rw [row01 (op_at hw hl)]
    simp [decodeOp01, f1, f2, f3, f4]
  exact ⟨hw ▸ pack_lt _ hl, decode_of_row hwf row⟩

theorem ror (d : BitVec 5) (a : BitVec 5) (b : BitVec 5) : Statement (.ror d a b) := by
  intro hwf word heq
  have hw : word = pack [(7, 0x1), (5, d.toNat), (5, a.toNat), (5, b.toNat), (10, 9)] := (Option.some.inj heq).symm
  have hl : Fits [(7, 0x1), (5, d.toNat), (5, a.toNat), (5, b.toNat), (10, 9)] := ⟨by decide, d.isLt, a.isLt, b.isLt, by decide, trivial⟩
  have f1 : fld word 7 5 = d.toNat := fld_at hw hl 1
  have f2 : fld word 12 5 = a.toNat := fld_at hw hl 2
  have f3 : fld word 17 5 = b.toNat := fld_at hw hl 3
  have f4 : fld word 22 10 = 9 := fld_at hw hl 4
  have row : decodeRow word = some (.ror d a b) := by
    rw [row01 (op_at hw hl)]
    simp [decodeOp01, f1, f2, f3, f4]
  exact ⟨hw ▸ pack_lt _ hl, decode_of_row hwf row⟩

theorem mul (d : BitVec 5) (a : BitVec 5) (b : BitVec 5) : Statement (.mul d a b) := by
  intro hwf word heq
  have hw : word = pack [(7, 0x1), (5, d.toNat), (5, a.toNat), (5, b.toNat), (10, 10)] := (Option.some.inj heq).symm
  have hl : Fits [(7, 0x1), (5, d.toNat), (5, a.toNat), (5, b.toNat), (10, 10)] := ⟨by decide, d.isLt, a.isLt, b.isLt, by decide, trivial⟩
  have f1 : fld word 7 5 = d.toNat := fld_at hw hl 1
  have f2 : fld word 12 5 = a.toNat := fld_at hw hl 2
  have f3 : fld word 17 5 = b.toNat := fld_at hw hl 3
  have f4 : fld word 22 10 = 10 := fld_at hw hl 4
  have row : decodeRow word = some (.mul d a b) := by
    rw [row01 (op_at hw hl)]
    simp [decodeOp01, f1, f2, f3, f4]
  exact ⟨hw ▸ pack_lt _ hl, decode_of_row hwf row⟩

theorem mulhS (d : BitVec 5) (a : BitVec 5) (b : BitVec 5) : Statement (.mulhS d a b) := by
  intro hwf word heq
  have hw : word = pack [(7, 0x1), (5, d.toNat), (5, a.toNat), (5, b.toNat), (10, 11)] := (Option.some.inj heq).symm
  have hl : Fits [(7, 0x1), (5, d.toNat), (5, a.toNat), (5, b.toNat), (10, 11)] := ⟨by decide, d.isLt, a.isLt, b.isLt, by decide, trivial⟩
  have f1 : fld word 7 5 = d.toNat := fld_at hw hl 1
  have f2 : fld word 12 5 = a.toNat := fld_at hw hl 2
  have f3 : fld word 17 5 = b.toNat := fld_at hw hl 3
  have f4 : fld word 22 10 = 11 := fld_at hw hl 4
  have row : decodeRow word = some (.mulhS d a b) := by
    rw [row01 (op_at hw hl)]
    simp [decodeOp01, f1, f2, f3, f4]
  exact ⟨hw ▸ pack_lt _ hl, decode_of_row hwf row⟩

theorem mulhN (d : BitVec 5) (a : BitVec 5) (b : BitVec 5) : Statement (.mulhN d a b) := by
  intro hwf word heq
  have hw : word = pack [(7, 0x1), (5, d.toNat), (5, a.toNat), (5, b.toNat), (10, 12)] := (Option.some.inj heq).symm
  have hl : Fits [(7, 0x1), (5, d.toNat), (5, a.toNat), (5, b.toNat), (10, 12)] := ⟨by decide, d.isLt, a.isLt, b.isLt, by decide, trivial⟩
  have f1 : fld word 7 5 = d.toNat := fld_at hw hl 1
  have f2 : fld word 12 5 = a.toNat := fld_at hw hl 2
  have f3 : fld word 17 5 = b.toNat := fld_at hw hl 3
  have f4 : fld word 22 10 = 12 := fld_at hw hl 4
  have row : decodeRow word = some (.mulhN d a b) := by
    rw [row01 (op_at hw hl)]
    simp [decodeOp01, f1, f2, f3, f4]
  exact ⟨hw ▸ pack_lt _ hl, decode_of_row hwf row⟩

theorem divS (d : BitVec 5) (a : BitVec 5) (b : BitVec 5) : Statement (.divS d a b) := by
  intro hwf word heq
  have hw : word = pack [(7, 0x1), (5, d.toNat), (5, a.toNat), (5, b.toNat), (10, 13)] := (Option.some.inj heq).symm
  have hl : Fits [(7, 0x1), (5, d.toNat), (5, a.toNat), (5, b.toNat), (10, 13)] := ⟨by decide, d.isLt, a.isLt, b.isLt, by decide, trivial⟩
  have f1 : fld word 7 5 = d.toNat := fld_at hw hl 1
  have f2 : fld word 12 5 = a.toNat := fld_at hw hl 2
  have f3 : fld word 17 5 = b.toNat := fld_at hw hl 3
  have f4 : fld word 22 10 = 13 := fld_at hw hl 4
  have row : decodeRow word = some (.divS d a b) := by
    rw [row01 (op_at hw hl)]
    simp [decodeOp01, f1, f2, f3, f4]
  exact ⟨hw ▸ pack_lt _ hl, decode_of_row hwf row⟩

theorem divN (d : BitVec 5) (a : BitVec 5) (b : BitVec 5) : Statement (.divN d a b) := by
  intro hwf word heq
  have hw : word = pack [(7, 0x1), (5, d.toNat), (5, a.toNat), (5, b.toNat), (10, 14)] := (Option.some.inj heq).symm
  have hl : Fits [(7, 0x1), (5, d.toNat), (5, a.toNat), (5, b.toNat), (10, 14)] := ⟨by decide, d.isLt, a.isLt, b.isLt, by decide, trivial⟩
  have f1 : fld word 7 5 = d.toNat := fld_at hw hl 1
  have f2 : fld word 12 5 = a.toNat := fld_at hw hl 2
  have f3 : fld word 17 5 = b.toNat := fld_at hw hl 3
  have f4 : fld word 22 10 = 14 := fld_at hw hl 4
  have row : decodeRow word = some (.divN d a b) := by
    rw [row01 (op_at hw hl)]
    simp [decodeOp01, f1, f2, f3, f4]
  exact ⟨hw ▸ pack_lt _ hl, decode_of_row hwf row⟩

theorem remS (d : BitVec 5) (a : BitVec 5) (b : BitVec 5) : Statement (.remS d a b) := by
  intro hwf word heq
  have hw : word = pack [(7, 0x1), (5, d.toNat), (5, a.toNat), (5, b.toNat), (10, 15)] := (Option.some.inj heq).symm
  have hl : Fits [(7, 0x1), (5, d.toNat), (5, a.toNat), (5, b.toNat), (10, 15)] := ⟨by decide, d.isLt, a.isLt, b.isLt, by decide, trivial⟩
  have f1 : fld word 7 5 = d.toNat := fld_at hw hl 1
  have f2 : fld word 12 5 = a.toNat := fld_at hw hl 2
  have f3 : fld word 17 5 = b.toNat := fld_at hw hl 3
  have f4 : fld word 22 10 = 15 := fld_at hw hl 4
  have row : decodeRow word = some (.remS d a b) := by
    rw [row01 (op_at hw hl)]
    simp [decodeOp01, f1, f2, f3, f4]
  exact ⟨hw ▸ pack_lt _ hl, decode_of_row hwf row⟩

theorem remN (d : BitVec 5) (a : BitVec 5) (b : BitVec 5) : Statement (.remN d a b) := by
  intro hwf word heq
  have hw : word = pack [(7, 0x1), (5, d.toNat), (5, a.toNat), (5, b.toNat), (10, 16)] := (Option.some.inj heq).symm
  have hl : Fits [(7, 0x1), (5, d.toNat), (5, a.toNat), (5, b.toNat), (10, 16)] := ⟨by decide, d.isLt, a.isLt, b.isLt, by decide, trivial⟩
  have f1 : fld word 7 5 = d.toNat := fld_at hw hl 1
  have f2 : fld word 12 5 = a.toNat := fld_at hw hl 2
  have f3 : fld word 17 5 = b.toNat := fld_at hw hl 3
  have f4 : fld word 22 10 = 16 := fld_at hw hl 4
  have row : decodeRow word = some (.remN d a b) := by
    rw [row01 (op_at hw hl)]
    simp [decodeOp01, f1, f2, f3, f4]
  exact ⟨hw ▸ pack_lt _ hl, decode_of_row hwf row⟩

theorem minS (d : BitVec 5) (a : BitVec 5) (b : BitVec 5) : Statement (.minS d a b) := by
  intro hwf word heq
  have hw : word = pack [(7, 0x1), (5, d.toNat), (5, a.toNat), (5, b.toNat), (10, 17)] := (Option.some.inj heq).symm
  have hl : Fits [(7, 0x1), (5, d.toNat), (5, a.toNat), (5, b.toNat), (10, 17)] := ⟨by decide, d.isLt, a.isLt, b.isLt, by decide, trivial⟩
  have f1 : fld word 7 5 = d.toNat := fld_at hw hl 1
  have f2 : fld word 12 5 = a.toNat := fld_at hw hl 2
  have f3 : fld word 17 5 = b.toNat := fld_at hw hl 3
  have f4 : fld word 22 10 = 17 := fld_at hw hl 4
  have row : decodeRow word = some (.minS d a b) := by
    rw [row01 (op_at hw hl)]
    simp [decodeOp01, f1, f2, f3, f4]
  exact ⟨hw ▸ pack_lt _ hl, decode_of_row hwf row⟩

theorem minN (d : BitVec 5) (a : BitVec 5) (b : BitVec 5) : Statement (.minN d a b) := by
  intro hwf word heq
  have hw : word = pack [(7, 0x1), (5, d.toNat), (5, a.toNat), (5, b.toNat), (10, 18)] := (Option.some.inj heq).symm
  have hl : Fits [(7, 0x1), (5, d.toNat), (5, a.toNat), (5, b.toNat), (10, 18)] := ⟨by decide, d.isLt, a.isLt, b.isLt, by decide, trivial⟩
  have f1 : fld word 7 5 = d.toNat := fld_at hw hl 1
  have f2 : fld word 12 5 = a.toNat := fld_at hw hl 2
  have f3 : fld word 17 5 = b.toNat := fld_at hw hl 3
  have f4 : fld word 22 10 = 18 := fld_at hw hl 4
  have row : decodeRow word = some (.minN d a b) := by
    rw [row01 (op_at hw hl)]
    simp [decodeOp01, f1, f2, f3, f4]
  exact ⟨hw ▸ pack_lt _ hl, decode_of_row hwf row⟩

theorem maxS (d : BitVec 5) (a : BitVec 5) (b : BitVec 5) : Statement (.maxS d a b) := by
  intro hwf word heq
  have hw : word = pack [(7, 0x1), (5, d.toNat), (5, a.toNat), (5, b.toNat), (10, 19)] := (Option.some.inj heq).symm
  have hl : Fits [(7, 0x1), (5, d.toNat), (5, a.toNat), (5, b.toNat), (10, 19)] := ⟨by decide, d.isLt, a.isLt, b.isLt, by decide, trivial⟩
  have f1 : fld word 7 5 = d.toNat := fld_at hw hl 1
  have f2 : fld word 12 5 = a.toNat := fld_at hw hl 2
  have f3 : fld word 17 5 = b.toNat := fld_at hw hl 3
  have f4 : fld word 22 10 = 19 := fld_at hw hl 4
  have row : decodeRow word = some (.maxS d a b) := by
    rw [row01 (op_at hw hl)]
    simp [decodeOp01, f1, f2, f3, f4]
  exact ⟨hw ▸ pack_lt _ hl, decode_of_row hwf row⟩

theorem maxN (d : BitVec 5) (a : BitVec 5) (b : BitVec 5) : Statement (.maxN d a b) := by
  intro hwf word heq
  have hw : word = pack [(7, 0x1), (5, d.toNat), (5, a.toNat), (5, b.toNat), (10, 20)] := (Option.some.inj heq).symm
  have hl : Fits [(7, 0x1), (5, d.toNat), (5, a.toNat), (5, b.toNat), (10, 20)] := ⟨by decide, d.isLt, a.isLt, b.isLt, by decide, trivial⟩
  have f1 : fld word 7 5 = d.toNat := fld_at hw hl 1
  have f2 : fld word 12 5 = a.toNat := fld_at hw hl 2
  have f3 : fld word 17 5 = b.toNat := fld_at hw hl 3
  have f4 : fld word 22 10 = 20 := fld_at hw hl 4
  have row : decodeRow word = some (.maxN d a b) := by
    rw [row01 (op_at hw hl)]
    simp [decodeOp01, f1, f2, f3, f4]
  exact ⟨hw ▸ pack_lt _ hl, decode_of_row hwf row⟩

theorem clz (d : BitVec 5) (a : BitVec 5) : Statement (.clz d a) := by
  intro hwf word heq
  have hw : word = pack [(7, 0x1), (5, d.toNat), (5, a.toNat), (15, 672)] := (Option.some.inj heq).symm
  have hl : Fits [(7, 0x1), (5, d.toNat), (5, a.toNat), (15, 672)] := ⟨by decide, d.isLt, a.isLt, by decide, trivial⟩
  have f1 : fld word 7 5 = d.toNat := fld_at hw hl 1
  have f2 : fld word 12 5 = a.toNat := fld_at hw hl 2
  have f3 : fld word 17 15 = 672 := fld_at hw hl 3
  have e1 : fld word 22 10 = 21 := fld_in f3 5 10 (by decide)
  have row : decodeRow word = some (.clz d a) := by
    rw [row01 (op_at hw hl)]
    simp [decodeOp01, e1, f1, f2, f3]
  exact ⟨hw ▸ pack_lt _ hl, decode_of_row hwf row⟩

theorem ctz (d : BitVec 5) (a : BitVec 5) : Statement (.ctz d a) := by
  intro hwf word heq
  have hw : word = pack [(7, 0x1), (5, d.toNat), (5, a.toNat), (15, 704)] := (Option.some.inj heq).symm
  have hl : Fits [(7, 0x1), (5, d.toNat), (5, a.toNat), (15, 704)] := ⟨by decide, d.isLt, a.isLt, by decide, trivial⟩
  have f1 : fld word 7 5 = d.toNat := fld_at hw hl 1
  have f2 : fld word 12 5 = a.toNat := fld_at hw hl 2
  have f3 : fld word 17 15 = 704 := fld_at hw hl 3
  have e1 : fld word 22 10 = 22 := fld_in f3 5 10 (by decide)
  have row : decodeRow word = some (.ctz d a) := by
    rw [row01 (op_at hw hl)]
    simp [decodeOp01, e1, f1, f2, f3]
  exact ⟨hw ▸ pack_lt _ hl, decode_of_row hwf row⟩

theorem popc (d : BitVec 5) (a : BitVec 5) : Statement (.popc d a) := by
  intro hwf word heq
  have hw : word = pack [(7, 0x1), (5, d.toNat), (5, a.toNat), (15, 736)] := (Option.some.inj heq).symm
  have hl : Fits [(7, 0x1), (5, d.toNat), (5, a.toNat), (15, 736)] := ⟨by decide, d.isLt, a.isLt, by decide, trivial⟩
  have f1 : fld word 7 5 = d.toNat := fld_at hw hl 1
  have f2 : fld word 12 5 = a.toNat := fld_at hw hl 2
  have f3 : fld word 17 15 = 736 := fld_at hw hl 3
  have e1 : fld word 22 10 = 23 := fld_in f3 5 10 (by decide)
  have row : decodeRow word = some (.popc d a) := by
    rw [row01 (op_at hw hl)]
    simp [decodeOp01, e1, f1, f2, f3]
  exact ⟨hw ▸ pack_lt _ hl, decode_of_row hwf row⟩

theorem mod31 (d : BitVec 5) (a : BitVec 5) : Statement (.mod31 d a) := by
  intro hwf word heq
  have hw : word = pack [(7, 0x1), (5, d.toNat), (5, a.toNat), (15, 768)] := (Option.some.inj heq).symm
  have hl : Fits [(7, 0x1), (5, d.toNat), (5, a.toNat), (15, 768)] := ⟨by decide, d.isLt, a.isLt, by decide, trivial⟩
  have f1 : fld word 7 5 = d.toNat := fld_at hw hl 1
  have f2 : fld word 12 5 = a.toNat := fld_at hw hl 2
  have f3 : fld word 17 15 = 768 := fld_at hw hl 3
  have e1 : fld word 22 10 = 24 := fld_in f3 5 10 (by decide)
  have row : decodeRow word = some (.mod31 d a) := by
    rw [row01 (op_at hw hl)]
    simp [decodeOp01, e1, f1, f2, f3]
  exact ⟨hw ▸ pack_lt _ hl, decode_of_row hwf row⟩

theorem addi (d : BitVec 5) (a : BitVec 5) (i : BitVec 15) : Statement (.addi d a i) := by
  intro hwf word heq
  have hw : word = pack [(7, 0x2), (5, d.toNat), (5, a.toNat), (15, i.toNat)] := (Option.some.inj heq).symm
  have hl : Fits [(7, 0x2), (5, d.toNat), (5, a.toNat), (15, i.toNat)] := ⟨by decide, d.isLt, a.isLt, i.isLt, trivial⟩
  have f1 : fld word 7 5 = d.toNat := fld_at hw hl 1
  have f2 : fld word 12 5 = a.toNat := fld_at hw hl 2
  have f3 : fld word 17 15 = i.toNat := fld_at hw hl 3
  have row : decodeRow word = some (.addi d a i) := by
    rw [row02 (op_at hw hl)]
    simp [decodeOp02, f1, f2, f3]
  exact ⟨hw ▸ pack_lt _ hl, decode_of_row hwf row⟩

theorem andi (d : BitVec 5) (a : BitVec 5) (i : BitVec 15) : Statement (.andi d a i) := by
  intro hwf word heq
  have hw : word = pack [(7, 0x3), (5, d.toNat), (5, a.toNat), (15, i.toNat)] := (Option.some.inj heq).symm
  have hl : Fits [(7, 0x3), (5, d.toNat), (5, a.toNat), (15, i.toNat)] := ⟨by decide, d.isLt, a.isLt, i.isLt, trivial⟩
  have f1 : fld word 7 5 = d.toNat := fld_at hw hl 1
  have f2 : fld word 12 5 = a.toNat := fld_at hw hl 2
  have f3 : fld word 17 15 = i.toNat := fld_at hw hl 3
  have row : decodeRow word = some (.andi d a i) := by
    rw [row03 (op_at hw hl)]
    simp [decodeOp03, f1, f2, f3]
  exact ⟨hw ▸ pack_lt _ hl, decode_of_row hwf row⟩

theorem ori (d : BitVec 5) (a : BitVec 5) (i : BitVec 15) : Statement (.ori d a i) := by
  intro hwf word heq
  have hw : word = pack [(7, 0x4), (5, d.toNat), (5, a.toNat), (15, i.toNat)] := (Option.some.inj heq).symm
  have hl : Fits [(7, 0x4), (5, d.toNat), (5, a.toNat), (15, i.toNat)] := ⟨by decide, d.isLt, a.isLt, i.isLt, trivial⟩
  have f1 : fld word 7 5 = d.toNat := fld_at hw hl 1
  have f2 : fld word 12 5 = a.toNat := fld_at hw hl 2
  have f3 : fld word 17 15 = i.toNat := fld_at hw hl 3
  have row : decodeRow word = some (.ori d a i) := by
    rw [row04 (op_at hw hl)]
    simp [decodeOp04, f1, f2, f3]
  exact ⟨hw ▸ pack_lt _ hl, decode_of_row hwf row⟩

theorem xori (d : BitVec 5) (a : BitVec 5) (i : BitVec 15) : Statement (.xori d a i) := by
  intro hwf word heq
  have hw : word = pack [(7, 0x5), (5, d.toNat), (5, a.toNat), (15, i.toNat)] := (Option.some.inj heq).symm
  have hl : Fits [(7, 0x5), (5, d.toNat), (5, a.toNat), (15, i.toNat)] := ⟨by decide, d.isLt, a.isLt, i.isLt, trivial⟩
  have f1 : fld word 7 5 = d.toNat := fld_at hw hl 1
  have f2 : fld word 12 5 = a.toNat := fld_at hw hl 2
  have f3 : fld word 17 15 = i.toNat := fld_at hw hl 3
  have row : decodeRow word = some (.xori d a i) := by
    rw [row05 (op_at hw hl)]
    simp [decodeOp05, f1, f2, f3]
  exact ⟨hw ▸ pack_lt _ hl, decode_of_row hwf row⟩

theorem slli (d : BitVec 5) (a : BitVec 5) (n : BitVec 6) : Statement (.slli d a n) := by
  intro hwf word heq
  have hw : word = pack [(7, 0x6), (5, d.toNat), (5, a.toNat), (6, n.toNat), (9, 0)] := (Option.some.inj heq).symm
  have hl : Fits [(7, 0x6), (5, d.toNat), (5, a.toNat), (6, n.toNat), (9, 0)] := ⟨by decide, d.isLt, a.isLt, n.isLt, by decide, trivial⟩
  have f1 : fld word 7 5 = d.toNat := fld_at hw hl 1
  have f2 : fld word 12 5 = a.toNat := fld_at hw hl 2
  have f3 : fld word 17 6 = n.toNat := fld_at hw hl 3
  have f4 : fld word 23 9 = 0 := fld_at hw hl 4
  have row : decodeRow word = some (.slli d a n) := by
    rw [row06 (op_at hw hl)]
    simp [decodeOp06, f1, f2, f3, f4]
  exact ⟨hw ▸ pack_lt _ hl, decode_of_row hwf row⟩

theorem srli (d : BitVec 5) (a : BitVec 5) (n : BitVec 6) : Statement (.srli d a n) := by
  intro hwf word heq
  have hw : word = pack [(7, 0x6), (5, d.toNat), (5, a.toNat), (6, n.toNat), (9, 1)] := (Option.some.inj heq).symm
  have hl : Fits [(7, 0x6), (5, d.toNat), (5, a.toNat), (6, n.toNat), (9, 1)] := ⟨by decide, d.isLt, a.isLt, n.isLt, by decide, trivial⟩
  have f1 : fld word 7 5 = d.toNat := fld_at hw hl 1
  have f2 : fld word 12 5 = a.toNat := fld_at hw hl 2
  have f3 : fld word 17 6 = n.toNat := fld_at hw hl 3
  have f4 : fld word 23 9 = 1 := fld_at hw hl 4
  have row : decodeRow word = some (.srli d a n) := by
    rw [row06 (op_at hw hl)]
    simp [decodeOp06, f1, f2, f3, f4]
  exact ⟨hw ▸ pack_lt _ hl, decode_of_row hwf row⟩

theorem srai (d : BitVec 5) (a : BitVec 5) (n : BitVec 6) : Statement (.srai d a n) := by
  intro hwf word heq
  have hw : word = pack [(7, 0x6), (5, d.toNat), (5, a.toNat), (6, n.toNat), (9, 2)] := (Option.some.inj heq).symm
  have hl : Fits [(7, 0x6), (5, d.toNat), (5, a.toNat), (6, n.toNat), (9, 2)] := ⟨by decide, d.isLt, a.isLt, n.isLt, by decide, trivial⟩
  have f1 : fld word 7 5 = d.toNat := fld_at hw hl 1
  have f2 : fld word 12 5 = a.toNat := fld_at hw hl 2
  have f3 : fld word 17 6 = n.toNat := fld_at hw hl 3
  have f4 : fld word 23 9 = 2 := fld_at hw hl 4
  have row : decodeRow word = some (.srai d a n) := by
    rw [row06 (op_at hw hl)]
    simp [decodeOp06, f1, f2, f3, f4]
  exact ⟨hw ▸ pack_lt _ hl, decode_of_row hwf row⟩

theorem rori (d : BitVec 5) (a : BitVec 5) (n : BitVec 6) : Statement (.rori d a n) := by
  intro hwf word heq
  have hw : word = pack [(7, 0x6), (5, d.toNat), (5, a.toNat), (6, n.toNat), (9, 3)] := (Option.some.inj heq).symm
  have hl : Fits [(7, 0x6), (5, d.toNat), (5, a.toNat), (6, n.toNat), (9, 3)] := ⟨by decide, d.isLt, a.isLt, n.isLt, by decide, trivial⟩
  have f1 : fld word 7 5 = d.toNat := fld_at hw hl 1
  have f2 : fld word 12 5 = a.toNat := fld_at hw hl 2
  have f3 : fld word 17 6 = n.toNat := fld_at hw hl 3
  have f4 : fld word 23 9 = 3 := fld_at hw hl 4
  have row : decodeRow word = some (.rori d a n) := by
    rw [row06 (op_at hw hl)]
    simp [decodeOp06, f1, f2, f3, f4]
  exact ⟨hw ▸ pack_lt _ hl, decode_of_row hwf row⟩

theorem lih (d : BitVec 5) (i : BitVec 20) : Statement (.lih d i) := by
  intro hwf word heq
  have hw : word = pack [(7, 0x7), (5, d.toNat), (20, i.toNat)] := (Option.some.inj heq).symm
  have hl : Fits [(7, 0x7), (5, d.toNat), (20, i.toNat)] := ⟨by decide, d.isLt, i.isLt, trivial⟩
  have f1 : fld word 7 5 = d.toNat := fld_at hw hl 1
  have f2 : fld word 12 20 = i.toNat := fld_at hw hl 2
  have row : decodeRow word = some (.lih d i) := by
    rw [row07 (op_at hw hl)]
    simp [decodeOp07, f1, f2]
  exact ⟨hw ▸ pack_lt _ hl, decode_of_row hwf row⟩

theorem addpc (d : BitVec 5) (i : BitVec 20) : Statement (.addpc d i) := by
  intro hwf word heq
  have hw : word = pack [(7, 0x8), (5, d.toNat), (20, i.toNat)] := (Option.some.inj heq).symm
  have hl : Fits [(7, 0x8), (5, d.toNat), (20, i.toNat)] := ⟨by decide, d.isLt, i.isLt, trivial⟩
  have f1 : fld word 7 5 = d.toNat := fld_at hw hl 1
  have f2 : fld word 12 20 = i.toNat := fld_at hw hl 2
  have row : decodeRow word = some (.addpc d i) := by
    rw [row08 (op_at hw hl)]
    simp [decodeOp08, f1, f2]
  exact ⟨hw ▸ pack_lt _ hl, decode_of_row hwf row⟩

theorem pcmp (p : BitVec 3) (c : BitVec 3) (a : BitVec 5) (b : BitVec 5) : Statement (.pcmp p c a b) := by
  intro hwf word heq
  have hw : word = pack [(7, 0x9), (3, p.toNat), (3, c.toNat), (5, a.toNat), (5, b.toNat), (9, 0)] := (Option.some.inj heq).symm
  have hl : Fits [(7, 0x9), (3, p.toNat), (3, c.toNat), (5, a.toNat), (5, b.toNat), (9, 0)] := ⟨by decide, p.isLt, c.isLt, a.isLt, b.isLt, by decide, trivial⟩
  have f1 : fld word 7 3 = p.toNat := fld_at hw hl 1
  have f2 : fld word 10 3 = c.toNat := fld_at hw hl 2
  have f3 : fld word 13 5 = a.toNat := fld_at hw hl 3
  have f4 : fld word 18 5 = b.toNat := fld_at hw hl 4
  have f5 : fld word 23 9 = 0 := fld_at hw hl 5
  have row : decodeRow word = some (.pcmp p c a b) := by
    rw [row09 (op_at hw hl)]
    simp [decodeOp09, f1, f2, f3, f4, f5]
  exact ⟨hw ▸ pack_lt _ hl, decode_of_row hwf row⟩

theorem pcmpi (p : BitVec 3) (c : BitVec 3) (a : BitVec 5) (i : BitVec 14) : Statement (.pcmpi p c a i) := by
  intro hwf word heq
  have hw : word = pack [(7, 0xa), (3, p.toNat), (3, c.toNat), (5, a.toNat), (14, i.toNat)] := (Option.some.inj heq).symm
  have hl : Fits [(7, 0xa), (3, p.toNat), (3, c.toNat), (5, a.toNat), (14, i.toNat)] := ⟨by decide, p.isLt, c.isLt, a.isLt, i.isLt, trivial⟩
  have f1 : fld word 7 3 = p.toNat := fld_at hw hl 1
  have f2 : fld word 10 3 = c.toNat := fld_at hw hl 2
  have f3 : fld word 13 5 = a.toNat := fld_at hw hl 3
  have f4 : fld word 18 14 = i.toNat := fld_at hw hl 4
  have row : decodeRow word = some (.pcmpi p c a i) := by
    rw [row0a (op_at hw hl)]
    simp [decodeOp0a, f1, f2, f3, f4]
  exact ⟨hw ▸ pack_lt _ hl, decode_of_row hwf row⟩

theorem pand (d : BitVec 3) (a : BitVec 3) (b : BitVec 3) : Statement (.pand d a b) := by
  intro hwf word heq
  have hw : word = pack [(7, 0xb), (3, d.toNat), (8, 0), (3, a.toNat), (3, b.toNat), (8, 0)] := (Option.some.inj heq).symm
  have hl : Fits [(7, 0xb), (3, d.toNat), (8, 0), (3, a.toNat), (3, b.toNat), (8, 0)] := ⟨by decide, d.isLt, by decide, a.isLt, b.isLt, by decide, trivial⟩
  have f1 : fld word 7 3 = d.toNat := fld_at hw hl 1
  have f2 : fld word 10 8 = 0 := fld_at hw hl 2
  have f3 : fld word 18 3 = a.toNat := fld_at hw hl 3
  have f4 : fld word 21 3 = b.toNat := fld_at hw hl 4
  have f5 : fld word 24 8 = 0 := fld_at hw hl 5
  have row : decodeRow word = some (.pand d a b) := by
    rw [row0b (op_at hw hl)]
    simp [decodeOp0b, f1, f2, f3, f4, f5]
  exact ⟨hw ▸ pack_lt _ hl, decode_of_row hwf row⟩

theorem por (d : BitVec 3) (a : BitVec 3) (b : BitVec 3) : Statement (.por d a b) := by
  intro hwf word heq
  have hw : word = pack [(7, 0xb), (3, d.toNat), (8, 1), (3, a.toNat), (3, b.toNat), (8, 0)] := (Option.some.inj heq).symm
  have hl : Fits [(7, 0xb), (3, d.toNat), (8, 1), (3, a.toNat), (3, b.toNat), (8, 0)] := ⟨by decide, d.isLt, by decide, a.isLt, b.isLt, by decide, trivial⟩
  have f1 : fld word 7 3 = d.toNat := fld_at hw hl 1
  have f2 : fld word 10 8 = 1 := fld_at hw hl 2
  have f3 : fld word 18 3 = a.toNat := fld_at hw hl 3
  have f4 : fld word 21 3 = b.toNat := fld_at hw hl 4
  have f5 : fld word 24 8 = 0 := fld_at hw hl 5
  have row : decodeRow word = some (.por d a b) := by
    rw [row0b (op_at hw hl)]
    simp [decodeOp0b, f1, f2, f3, f4, f5]
  exact ⟨hw ▸ pack_lt _ hl, decode_of_row hwf row⟩

theorem pxor (d : BitVec 3) (a : BitVec 3) (b : BitVec 3) : Statement (.pxor d a b) := by
  intro hwf word heq
  have hw : word = pack [(7, 0xb), (3, d.toNat), (8, 2), (3, a.toNat), (3, b.toNat), (8, 0)] := (Option.some.inj heq).symm
  have hl : Fits [(7, 0xb), (3, d.toNat), (8, 2), (3, a.toNat), (3, b.toNat), (8, 0)] := ⟨by decide, d.isLt, by decide, a.isLt, b.isLt, by decide, trivial⟩
  have f1 : fld word 7 3 = d.toNat := fld_at hw hl 1
  have f2 : fld word 10 8 = 2 := fld_at hw hl 2
  have f3 : fld word 18 3 = a.toNat := fld_at hw hl 3
  have f4 : fld word 21 3 = b.toNat := fld_at hw hl 4
  have f5 : fld word 24 8 = 0 := fld_at hw hl 5
  have row : decodeRow word = some (.pxor d a b) := by
    rw [row0b (op_at hw hl)]
    simp [decodeOp0b, f1, f2, f3, f4, f5]
  exact ⟨hw ▸ pack_lt _ hl, decode_of_row hwf row⟩

theorem pandn (d : BitVec 3) (a : BitVec 3) (b : BitVec 3) : Statement (.pandn d a b) := by
  intro hwf word heq
  have hw : word = pack [(7, 0xb), (3, d.toNat), (8, 3), (3, a.toNat), (3, b.toNat), (8, 0)] := (Option.some.inj heq).symm
  have hl : Fits [(7, 0xb), (3, d.toNat), (8, 3), (3, a.toNat), (3, b.toNat), (8, 0)] := ⟨by decide, d.isLt, by decide, a.isLt, b.isLt, by decide, trivial⟩
  have f1 : fld word 7 3 = d.toNat := fld_at hw hl 1
  have f2 : fld word 10 8 = 3 := fld_at hw hl 2
  have f3 : fld word 18 3 = a.toNat := fld_at hw hl 3
  have f4 : fld word 21 3 = b.toNat := fld_at hw hl 4
  have f5 : fld word 24 8 = 0 := fld_at hw hl 5
  have row : decodeRow word = some (.pandn d a b) := by
    rw [row0b (op_at hw hl)]
    simp [decodeOp0b, f1, f2, f3, f4, f5]
  exact ⟨hw ▸ pack_lt _ hl, decode_of_row hwf row⟩

theorem porn (d : BitVec 3) (a : BitVec 3) (b : BitVec 3) : Statement (.porn d a b) := by
  intro hwf word heq
  have hw : word = pack [(7, 0xb), (3, d.toNat), (8, 4), (3, a.toNat), (3, b.toNat), (8, 0)] := (Option.some.inj heq).symm
  have hl : Fits [(7, 0xb), (3, d.toNat), (8, 4), (3, a.toNat), (3, b.toNat), (8, 0)] := ⟨by decide, d.isLt, by decide, a.isLt, b.isLt, by decide, trivial⟩
  have f1 : fld word 7 3 = d.toNat := fld_at hw hl 1
  have f2 : fld word 10 8 = 4 := fld_at hw hl 2
  have f3 : fld word 18 3 = a.toNat := fld_at hw hl 3
  have f4 : fld word 21 3 = b.toNat := fld_at hw hl 4
  have f5 : fld word 24 8 = 0 := fld_at hw hl 5
  have row : decodeRow word = some (.porn d a b) := by
    rw [row0b (op_at hw hl)]
    simp [decodeOp0b, f1, f2, f3, f4, f5]
  exact ⟨hw ▸ pack_lt _ hl, decode_of_row hwf row⟩

theorem pxnor (d : BitVec 3) (a : BitVec 3) (b : BitVec 3) : Statement (.pxnor d a b) := by
  intro hwf word heq
  have hw : word = pack [(7, 0xb), (3, d.toNat), (8, 5), (3, a.toNat), (3, b.toNat), (8, 0)] := (Option.some.inj heq).symm
  have hl : Fits [(7, 0xb), (3, d.toNat), (8, 5), (3, a.toNat), (3, b.toNat), (8, 0)] := ⟨by decide, d.isLt, by decide, a.isLt, b.isLt, by decide, trivial⟩
  have f1 : fld word 7 3 = d.toNat := fld_at hw hl 1
  have f2 : fld word 10 8 = 5 := fld_at hw hl 2
  have f3 : fld word 18 3 = a.toNat := fld_at hw hl 3
  have f4 : fld word 21 3 = b.toNat := fld_at hw hl 4
  have f5 : fld word 24 8 = 0 := fld_at hw hl 5
  have row : decodeRow word = some (.pxnor d a b) := by
    rw [row0b (op_at hw hl)]
    simp [decodeOp0b, f1, f2, f3, f4, f5]
  exact ⟨hw ▸ pack_lt _ hl, decode_of_row hwf row⟩

theorem ldS8 (d : BitVec 5) (a : BitVec 5) (i : BitVec 15) : Statement (.ldS8 d a i) := by
  intro hwf word heq
  have hw : word = pack [(7, 0xc), (5, d.toNat), (5, a.toNat), (15, i.toNat)] := (Option.some.inj heq).symm
  have hl : Fits [(7, 0xc), (5, d.toNat), (5, a.toNat), (15, i.toNat)] := ⟨by decide, d.isLt, a.isLt, i.isLt, trivial⟩
  have f1 : fld word 7 5 = d.toNat := fld_at hw hl 1
  have f2 : fld word 12 5 = a.toNat := fld_at hw hl 2
  have f3 : fld word 17 15 = i.toNat := fld_at hw hl 3
  have row : decodeRow word = some (.ldS8 d a i) := by
    rw [row0c (op_at hw hl)]
    simp [decodeOp0c, f1, f2, f3]
  exact ⟨hw ▸ pack_lt _ hl, decode_of_row hwf row⟩

theorem ldN8 (d : BitVec 5) (a : BitVec 5) (i : BitVec 15) : Statement (.ldN8 d a i) := by
  intro hwf word heq
  have hw : word = pack [(7, 0xd), (5, d.toNat), (5, a.toNat), (15, i.toNat)] := (Option.some.inj heq).symm
  have hl : Fits [(7, 0xd), (5, d.toNat), (5, a.toNat), (15, i.toNat)] := ⟨by decide, d.isLt, a.isLt, i.isLt, trivial⟩
  have f1 : fld word 7 5 = d.toNat := fld_at hw hl 1
  have f2 : fld word 12 5 = a.toNat := fld_at hw hl 2
  have f3 : fld word 17 15 = i.toNat := fld_at hw hl 3
  have row : decodeRow word = some (.ldN8 d a i) := by
    rw [row0d (op_at hw hl)]
    simp [decodeOp0d, f1, f2, f3]
  exact ⟨hw ▸ pack_lt _ hl, decode_of_row hwf row⟩

theorem ldS16 (d : BitVec 5) (a : BitVec 5) (i : BitVec 15) : Statement (.ldS16 d a i) := by
  intro hwf word heq
  have hw : word = pack [(7, 0xe), (5, d.toNat), (5, a.toNat), (15, i.toNat)] := (Option.some.inj heq).symm
  have hl : Fits [(7, 0xe), (5, d.toNat), (5, a.toNat), (15, i.toNat)] := ⟨by decide, d.isLt, a.isLt, i.isLt, trivial⟩
  have f1 : fld word 7 5 = d.toNat := fld_at hw hl 1
  have f2 : fld word 12 5 = a.toNat := fld_at hw hl 2
  have f3 : fld word 17 15 = i.toNat := fld_at hw hl 3
  have row : decodeRow word = some (.ldS16 d a i) := by
    rw [row0e (op_at hw hl)]
    simp [decodeOp0e, f1, f2, f3]
  exact ⟨hw ▸ pack_lt _ hl, decode_of_row hwf row⟩

theorem ldN16 (d : BitVec 5) (a : BitVec 5) (i : BitVec 15) : Statement (.ldN16 d a i) := by
  intro hwf word heq
  have hw : word = pack [(7, 0xf), (5, d.toNat), (5, a.toNat), (15, i.toNat)] := (Option.some.inj heq).symm
  have hl : Fits [(7, 0xf), (5, d.toNat), (5, a.toNat), (15, i.toNat)] := ⟨by decide, d.isLt, a.isLt, i.isLt, trivial⟩
  have f1 : fld word 7 5 = d.toNat := fld_at hw hl 1
  have f2 : fld word 12 5 = a.toNat := fld_at hw hl 2
  have f3 : fld word 17 15 = i.toNat := fld_at hw hl 3
  have row : decodeRow word = some (.ldN16 d a i) := by
    rw [row0f (op_at hw hl)]
    simp [decodeOp0f, f1, f2, f3]
  exact ⟨hw ▸ pack_lt _ hl, decode_of_row hwf row⟩

theorem ldS32 (d : BitVec 5) (a : BitVec 5) (i : BitVec 15) : Statement (.ldS32 d a i) := by
  intro hwf word heq
  have hw : word = pack [(7, 0x10), (5, d.toNat), (5, a.toNat), (15, i.toNat)] := (Option.some.inj heq).symm
  have hl : Fits [(7, 0x10), (5, d.toNat), (5, a.toNat), (15, i.toNat)] := ⟨by decide, d.isLt, a.isLt, i.isLt, trivial⟩
  have f1 : fld word 7 5 = d.toNat := fld_at hw hl 1
  have f2 : fld word 12 5 = a.toNat := fld_at hw hl 2
  have f3 : fld word 17 15 = i.toNat := fld_at hw hl 3
  have row : decodeRow word = some (.ldS32 d a i) := by
    rw [row10 (op_at hw hl)]
    simp [decodeOp10, f1, f2, f3]
  exact ⟨hw ▸ pack_lt _ hl, decode_of_row hwf row⟩

theorem ldN32 (d : BitVec 5) (a : BitVec 5) (i : BitVec 15) : Statement (.ldN32 d a i) := by
  intro hwf word heq
  have hw : word = pack [(7, 0x11), (5, d.toNat), (5, a.toNat), (15, i.toNat)] := (Option.some.inj heq).symm
  have hl : Fits [(7, 0x11), (5, d.toNat), (5, a.toNat), (15, i.toNat)] := ⟨by decide, d.isLt, a.isLt, i.isLt, trivial⟩
  have f1 : fld word 7 5 = d.toNat := fld_at hw hl 1
  have f2 : fld word 12 5 = a.toNat := fld_at hw hl 2
  have f3 : fld word 17 15 = i.toNat := fld_at hw hl 3
  have row : decodeRow word = some (.ldN32 d a i) := by
    rw [row11 (op_at hw hl)]
    simp [decodeOp11, f1, f2, f3]
  exact ⟨hw ▸ pack_lt _ hl, decode_of_row hwf row⟩

theorem ld64 (d : BitVec 5) (a : BitVec 5) (i : BitVec 15) : Statement (.ld64 d a i) := by
  intro hwf word heq
  have hw : word = pack [(7, 0x12), (5, d.toNat), (5, a.toNat), (15, i.toNat)] := (Option.some.inj heq).symm
  have hl : Fits [(7, 0x12), (5, d.toNat), (5, a.toNat), (15, i.toNat)] := ⟨by decide, d.isLt, a.isLt, i.isLt, trivial⟩
  have f1 : fld word 7 5 = d.toNat := fld_at hw hl 1
  have f2 : fld word 12 5 = a.toNat := fld_at hw hl 2
  have f3 : fld word 17 15 = i.toNat := fld_at hw hl 3
  have row : decodeRow word = some (.ld64 d a i) := by
    rw [row12 (op_at hw hl)]
    simp [decodeOp12, f1, f2, f3]
  exact ⟨hw ▸ pack_lt _ hl, decode_of_row hwf row⟩

theorem st8 (s : BitVec 5) (a : BitVec 5) (i : BitVec 15) : Statement (.st8 s a i) := by
  intro hwf word heq
  have hw : word = pack [(7, 0x13), (5, s.toNat), (5, a.toNat), (15, i.toNat)] := (Option.some.inj heq).symm
  have hl : Fits [(7, 0x13), (5, s.toNat), (5, a.toNat), (15, i.toNat)] := ⟨by decide, s.isLt, a.isLt, i.isLt, trivial⟩
  have f1 : fld word 7 5 = s.toNat := fld_at hw hl 1
  have f2 : fld word 12 5 = a.toNat := fld_at hw hl 2
  have f3 : fld word 17 15 = i.toNat := fld_at hw hl 3
  have row : decodeRow word = some (.st8 s a i) := by
    rw [row13 (op_at hw hl)]
    simp [decodeOp13, f1, f2, f3]
  exact ⟨hw ▸ pack_lt _ hl, decode_of_row hwf row⟩

theorem st16 (s : BitVec 5) (a : BitVec 5) (i : BitVec 15) : Statement (.st16 s a i) := by
  intro hwf word heq
  have hw : word = pack [(7, 0x14), (5, s.toNat), (5, a.toNat), (15, i.toNat)] := (Option.some.inj heq).symm
  have hl : Fits [(7, 0x14), (5, s.toNat), (5, a.toNat), (15, i.toNat)] := ⟨by decide, s.isLt, a.isLt, i.isLt, trivial⟩
  have f1 : fld word 7 5 = s.toNat := fld_at hw hl 1
  have f2 : fld word 12 5 = a.toNat := fld_at hw hl 2
  have f3 : fld word 17 15 = i.toNat := fld_at hw hl 3
  have row : decodeRow word = some (.st16 s a i) := by
    rw [row14 (op_at hw hl)]
    simp [decodeOp14, f1, f2, f3]
  exact ⟨hw ▸ pack_lt _ hl, decode_of_row hwf row⟩

theorem st32 (s : BitVec 5) (a : BitVec 5) (i : BitVec 15) : Statement (.st32 s a i) := by
  intro hwf word heq
  have hw : word = pack [(7, 0x15), (5, s.toNat), (5, a.toNat), (15, i.toNat)] := (Option.some.inj heq).symm
  have hl : Fits [(7, 0x15), (5, s.toNat), (5, a.toNat), (15, i.toNat)] := ⟨by decide, s.isLt, a.isLt, i.isLt, trivial⟩
  have f1 : fld word 7 5 = s.toNat := fld_at hw hl 1
  have f2 : fld word 12 5 = a.toNat := fld_at hw hl 2
  have f3 : fld word 17 15 = i.toNat := fld_at hw hl 3
  have row : decodeRow word = some (.st32 s a i) := by
    rw [row15 (op_at hw hl)]
    simp [decodeOp15, f1, f2, f3]
  exact ⟨hw ▸ pack_lt _ hl, decode_of_row hwf row⟩

theorem st64 (s : BitVec 5) (a : BitVec 5) (i : BitVec 15) : Statement (.st64 s a i) := by
  intro hwf word heq
  have hw : word = pack [(7, 0x16), (5, s.toNat), (5, a.toNat), (15, i.toNat)] := (Option.some.inj heq).symm
  have hl : Fits [(7, 0x16), (5, s.toNat), (5, a.toNat), (15, i.toNat)] := ⟨by decide, s.isLt, a.isLt, i.isLt, trivial⟩
  have f1 : fld word 7 5 = s.toNat := fld_at hw hl 1
  have f2 : fld word 12 5 = a.toNat := fld_at hw hl 2
  have f3 : fld word 17 15 = i.toNat := fld_at hw hl 3
  have row : decodeRow word = some (.st64 s a i) := by
    rw [row16 (op_at hw hl)]
    simp [decodeOp16, f1, f2, f3]
  exact ⟨hw ▸ pack_lt _ hl, decode_of_row hwf row⟩

theorem ldfe (d : BitVec 5) (a : BitVec 5) (c : BitVec 1) (i : BitVec 14) : Statement (.ldfe d a c i) := by
  intro hwf word heq
  have hw : word = pack [(7, 0x17), (5, d.toNat), (5, a.toNat), (1, c.toNat), (14, i.toNat)] := (Option.some.inj heq).symm
  have hl : Fits [(7, 0x17), (5, d.toNat), (5, a.toNat), (1, c.toNat), (14, i.toNat)] := ⟨by decide, d.isLt, a.isLt, c.isLt, i.isLt, trivial⟩
  have f1 : fld word 7 5 = d.toNat := fld_at hw hl 1
  have f2 : fld word 12 5 = a.toNat := fld_at hw hl 2
  have f3 : fld word 17 1 = c.toNat := fld_at hw hl 3
  have f4 : fld word 18 14 = i.toNat := fld_at hw hl 4
  have row : decodeRow word = some (.ldfe d a c i) := by
    rw [row17 (op_at hw hl)]
    simp [decodeOp17, f1, f2, f3, f4]
  exact ⟨hw ▸ pack_lt _ hl, decode_of_row hwf row⟩

theorem stfe (s : BitVec 5) (a : BitVec 5) (e : BitVec 1) (i : BitVec 14) : Statement (.stfe s a e i) := by
  intro hwf word heq
  have hw : word = pack [(7, 0x18), (5, s.toNat), (5, a.toNat), (1, e.toNat), (14, i.toNat)] := (Option.some.inj heq).symm
  have hl : Fits [(7, 0x18), (5, s.toNat), (5, a.toNat), (1, e.toNat), (14, i.toNat)] := ⟨by decide, s.isLt, a.isLt, e.isLt, i.isLt, trivial⟩
  have f1 : fld word 7 5 = s.toNat := fld_at hw hl 1
  have f2 : fld word 12 5 = a.toNat := fld_at hw hl 2
  have f3 : fld word 17 1 = e.toNat := fld_at hw hl 3
  have f4 : fld word 18 14 = i.toNat := fld_at hw hl 4
  have row : decodeRow word = some (.stfe s a e i) := by
    rw [row18 (op_at hw hl)]
    simp [decodeOp18, f1, f2, f3, f4]
  exact ⟨hw ▸ pack_lt _ hl, decode_of_row hwf row⟩

theorem gld (d : BitVec 5) (a : BitVec 5) (b : BitVec 5) (t : BitVec 3) : Statement (.gld d a b t) := by
  intro hwf word heq
  have hw : word = pack [(7, 0x19), (5, d.toNat), (5, a.toNat), (5, b.toNat), (3, t.toNat), (7, 0)] := (Option.some.inj heq).symm
  have hl : Fits [(7, 0x19), (5, d.toNat), (5, a.toNat), (5, b.toNat), (3, t.toNat), (7, 0)] := ⟨by decide, d.isLt, a.isLt, b.isLt, t.isLt, by decide, trivial⟩
  have f1 : fld word 7 5 = d.toNat := fld_at hw hl 1
  have f2 : fld word 12 5 = a.toNat := fld_at hw hl 2
  have f3 : fld word 17 5 = b.toNat := fld_at hw hl 3
  have f4 : fld word 22 3 = t.toNat := fld_at hw hl 4
  have f5 : fld word 25 7 = 0 := fld_at hw hl 5
  have row : decodeRow word = some (.gld d a b t) := by
    rw [row19 (op_at hw hl)]
    simp [decodeOp19, f1, f2, f3, f4, f5]
  exact ⟨hw ▸ pack_lt _ hl, decode_of_row hwf row⟩

theorem ldb (d : BitVec 5) (a : BitVec 5) (b : BitVec 5) (t : BitVec 3) : Statement (.ldb d a b t) := by
  intro hwf word heq
  have hw : word = pack [(7, 0x1a), (5, d.toNat), (5, a.toNat), (5, b.toNat), (1, 0), (3, t.toNat), (6, 0)] := (Option.some.inj heq).symm
  have hl : Fits [(7, 0x1a), (5, d.toNat), (5, a.toNat), (5, b.toNat), (1, 0), (3, t.toNat), (6, 0)] := ⟨by decide, d.isLt, a.isLt, b.isLt, by decide, t.isLt, by decide, trivial⟩
  have f1 : fld word 7 5 = d.toNat := fld_at hw hl 1
  have f2 : fld word 12 5 = a.toNat := fld_at hw hl 2
  have f3 : fld word 17 5 = b.toNat := fld_at hw hl 3
  have f4 : fld word 22 1 = 0 := fld_at hw hl 4
  have f5 : fld word 23 3 = t.toNat := fld_at hw hl 5
  have f6 : fld word 26 6 = 0 := fld_at hw hl 6
  have row : decodeRow word = some (.ldb d a b t) := by
    rw [row1a (op_at hw hl)]
    simp [decodeOp1a, f1, f2, f3, f4, f5, f6]
  exact ⟨hw ▸ pack_lt _ hl, decode_of_row hwf row⟩

theorem stb (s : BitVec 5) (a : BitVec 5) (b : BitVec 5) (t : BitVec 3) : Statement (.stb s a b t) := by
  intro hwf word heq
  have hw : word = pack [(7, 0x1a), (5, s.toNat), (5, a.toNat), (5, b.toNat), (1, 1), (3, t.toNat), (6, 0)] := (Option.some.inj heq).symm
  have hl : Fits [(7, 0x1a), (5, s.toNat), (5, a.toNat), (5, b.toNat), (1, 1), (3, t.toNat), (6, 0)] := ⟨by decide, s.isLt, a.isLt, b.isLt, by decide, t.isLt, by decide, trivial⟩
  have f1 : fld word 7 5 = s.toNat := fld_at hw hl 1
  have f2 : fld word 12 5 = a.toNat := fld_at hw hl 2
  have f3 : fld word 17 5 = b.toNat := fld_at hw hl 3
  have f4 : fld word 22 1 = 1 := fld_at hw hl 4
  have f5 : fld word 23 3 = t.toNat := fld_at hw hl 5
  have f6 : fld word 26 6 = 0 := fld_at hw hl 6
  have row : decodeRow word = some (.stb s a b t) := by
    rw [row1a (op_at hw hl)]
    simp [decodeOp1a, f1, f2, f3, f4, f5, f6]
  exact ⟨hw ▸ pack_lt _ hl, decode_of_row hwf row⟩

theorem br (p : BitVec 3) (n : BitVec 1) (h : BitVec 1) (o : BitVec 20) : Statement (.br p n h o) := by
  intro hwf word heq
  have hw : word = pack [(7, 0x20), (3, p.toNat), (1, n.toNat), (1, h.toNat), (20, o.toNat)] := (Option.some.inj heq).symm
  have hl : Fits [(7, 0x20), (3, p.toNat), (1, n.toNat), (1, h.toNat), (20, o.toNat)] := ⟨by decide, p.isLt, n.isLt, h.isLt, o.isLt, trivial⟩
  have f1 : fld word 7 3 = p.toNat := fld_at hw hl 1
  have f2 : fld word 10 1 = n.toNat := fld_at hw hl 2
  have f3 : fld word 11 1 = h.toNat := fld_at hw hl 3
  have f4 : fld word 12 20 = o.toNat := fld_at hw hl 4
  have row : decodeRow word = some (.br p n h o) := by
    rw [row20 (op_at hw hl)]
    simp [decodeOp20, f1, f2, f3, f4]
  exact ⟨hw ▸ pack_lt _ hl, decode_of_row hwf row⟩

theorem jal (d : BitVec 5) (i : BitVec 20) : Statement (.jal d i) := by
  intro hwf word heq
  have hw : word = pack [(7, 0x21), (5, d.toNat), (20, i.toNat)] := (Option.some.inj heq).symm
  have hl : Fits [(7, 0x21), (5, d.toNat), (20, i.toNat)] := ⟨by decide, d.isLt, i.isLt, trivial⟩
  have f1 : fld word 7 5 = d.toNat := fld_at hw hl 1
  have f2 : fld word 12 20 = i.toNat := fld_at hw hl 2
  have row : decodeRow word = some (.jal d i) := by
    rw [row21 (op_at hw hl)]
    simp [decodeOp21, f1, f2]
  exact ⟨hw ▸ pack_lt _ hl, decode_of_row hwf row⟩

theorem jalr (d : BitVec 5) (a : BitVec 5) (i : BitVec 15) : Statement (.jalr d a i) := by
  intro hwf word heq
  have hw : word = pack [(7, 0x22), (5, d.toNat), (5, a.toNat), (15, i.toNat)] := (Option.some.inj heq).symm
  have hl : Fits [(7, 0x22), (5, d.toNat), (5, a.toNat), (15, i.toNat)] := ⟨by decide, d.isLt, a.isLt, i.isLt, trivial⟩
  have f1 : fld word 7 5 = d.toNat := fld_at hw hl 1
  have f2 : fld word 12 5 = a.toNat := fld_at hw hl 2
  have f3 : fld word 17 15 = i.toNat := fld_at hw hl 3
  have row : decodeRow word = some (.jalr d a i) := by
    rw [row22 (op_at hw hl)]
    simp [decodeOp22, f1, f2, f3]
  exact ⟨hw ▸ pack_lt _ hl, decode_of_row hwf row⟩

theorem nop : Statement .nop := by
  intro hwf word heq
  cases heq
  decide

theorem yield : Statement .yield := by
  intro hwf word heq
  cases heq
  decide

theorem exit : Statement .exit := by
  intro hwf word heq
  cases heq
  decide

theorem trap (a : BitVec 5) : Statement (.trap a) := by
  intro hwf word heq
  have hw : word = pack [(7, 0x23), (5, 0), (5, a.toNat), (15, 96)] := (Option.some.inj heq).symm
  have hl : Fits [(7, 0x23), (5, 0), (5, a.toNat), (15, 96)] := ⟨by decide, by decide, a.isLt, by decide, trivial⟩
  have f1 : fld word 7 5 = 0 := fld_at hw hl 1
  have f2 : fld word 12 5 = a.toNat := fld_at hw hl 2
  have f3 : fld word 17 15 = 96 := fld_at hw hl 3
  have n1 : fld word 7 25 ≠ 0 := fld_ne 17 15 0 10 15 f3 rfl (by decide) (by decide) (by decide)
  have n2 : fld word 7 25 ≠ 32768 := fld_ne 17 15 0 10 15 f3 rfl (by decide) (by decide) (by decide)
  have n3 : fld word 7 25 ≠ 65536 := fld_ne 17 15 0 10 15 f3 rfl (by decide) (by decide) (by decide)
  have row : decodeRow word = some (.trap a) := by
    rw [row23 (op_at hw hl)]
    simp [decodeOp23, n1, n2, n3, f1, f2, f3]
  exact ⟨hw ▸ pack_lt _ hl, decode_of_row hwf row⟩

theorem eret : Statement .eret := by
  intro hwf word heq
  cases heq
  decide

theorem fence : Statement .fence := by
  intro hwf word heq
  cases heq
  decide

theorem fenceAcq : Statement .fenceAcq := by
  intro hwf word heq
  cases heq
  decide

theorem fenceRel : Statement .fenceRel := by
  intro hwf word heq
  cases heq
  decide

theorem csrr (d : BitVec 5) (c : BitVec 12) : Statement (.csrr d c) := by
  intro hwf word heq
  have hw : word = pack [(7, 0x24), (5, d.toNat), (5, 0), (12, c.toNat), (3, 0)] := (Option.some.inj heq).symm
  have hl : Fits [(7, 0x24), (5, d.toNat), (5, 0), (12, c.toNat), (3, 0)] := ⟨by decide, d.isLt, by decide, c.isLt, by decide, trivial⟩
  have f1 : fld word 7 5 = d.toNat := fld_at hw hl 1
  have f2 : fld word 12 5 = 0 := fld_at hw hl 2
  have f3 : fld word 17 12 = c.toNat := fld_at hw hl 3
  have f4 : fld word 29 3 = 0 := fld_at hw hl 4
  have row : decodeRow word = some (.csrr d c) := by
    rw [row24 (op_at hw hl)]
    simp [decodeOp24, f1, f2, f3, f4]
  exact ⟨hw ▸ pack_lt _ hl, decode_of_row hwf row⟩

theorem csrw (s : BitVec 5) (c : BitVec 12) : Statement (.csrw s c) := by
  intro hwf word heq
  have hw : word = pack [(7, 0x25), (5, s.toNat), (5, 0), (12, c.toNat), (3, 0)] := (Option.some.inj heq).symm
  have hl : Fits [(7, 0x25), (5, s.toNat), (5, 0), (12, c.toNat), (3, 0)] := ⟨by decide, s.isLt, by decide, c.isLt, by decide, trivial⟩
  have f1 : fld word 7 5 = s.toNat := fld_at hw hl 1
  have f2 : fld word 12 5 = 0 := fld_at hw hl 2
  have f3 : fld word 17 12 = c.toNat := fld_at hw hl 3
  have f4 : fld word 29 3 = 0 := fld_at hw hl 4
  have row : decodeRow word = some (.csrw s c) := by
    rw [row25 (op_at hw hl)]
    simp [decodeOp25, f1, f2, f3, f4]
  exact ⟨hw ▸ pack_lt _ hl, decode_of_row hwf row⟩

theorem spawn (d : BitVec 5) (a : BitVec 5) (n : BitVec 3) (q : BitVec 1) : Statement (.spawn d a n q) := by
  intro hwf word heq
  have hw : word = pack [(7, 0x26), (5, d.toNat), (5, a.toNat), (5, 0), (3, n.toNat), (1, q.toNat), (6, 0)] := (Option.some.inj heq).symm
  have hl : Fits [(7, 0x26), (5, d.toNat), (5, a.toNat), (5, 0), (3, n.toNat), (1, q.toNat), (6, 0)] := ⟨by decide, d.isLt, a.isLt, by decide, n.isLt, q.isLt, by decide, trivial⟩
  have f1 : fld word 7 5 = d.toNat := fld_at hw hl 1
  have f2 : fld word 12 5 = a.toNat := fld_at hw hl 2
  have f3 : fld word 17 5 = 0 := fld_at hw hl 3
  have f4 : fld word 22 3 = n.toNat := fld_at hw hl 4
  have f5 : fld word 25 1 = q.toNat := fld_at hw hl 5
  have f6 : fld word 26 6 = 0 := fld_at hw hl 6
  have row : decodeRow word = some (.spawn d a n q) := by
    rw [row26 (op_at hw hl)]
    simp [decodeOp26, f1, f2, f3, f4, f5, f6]
  exact ⟨hw ▸ pack_lt _ hl, decode_of_row hwf row⟩

theorem semv (a : BitVec 5) (k : BitVec 6) : Statement (.semv a k) := by
  intro hwf word heq
  have hw : word = pack [(7, 0x27), (5, 0), (5, a.toNat), (5, 0), (6, k.toNat), (4, 0)] := (Option.some.inj heq).symm
  have hl : Fits [(7, 0x27), (5, 0), (5, a.toNat), (5, 0), (6, k.toNat), (4, 0)] := ⟨by decide, by decide, a.isLt, by decide, k.isLt, by decide, trivial⟩
  have f1 : fld word 7 5 = 0 := fld_at hw hl 1
  have f2 : fld word 12 5 = a.toNat := fld_at hw hl 2
  have f3 : fld word 17 5 = 0 := fld_at hw hl 3
  have f4 : fld word 22 6 = k.toNat := fld_at hw hl 4
  have f5 : fld word 28 4 = 0 := fld_at hw hl 5
  have row : decodeRow word = some (.semv a k) := by
    rw [row27 (op_at hw hl)]
    simp [decodeOp27, f1, f2, f3, f4, f5]
  exact ⟨hw ▸ pack_lt _ hl, decode_of_row hwf row⟩

theorem semp (k : BitVec 6) : Statement (.semp k) := by
  intro hwf word heq
  have hw : word = pack [(7, 0x27), (15, 0), (6, k.toNat), (4, 1)] := (Option.some.inj heq).symm
  have hl : Fits [(7, 0x27), (15, 0), (6, k.toNat), (4, 1)] := ⟨by decide, by decide, k.isLt, by decide, trivial⟩
  have f1 : fld word 7 15 = 0 := fld_at hw hl 1
  have f2 : fld word 22 6 = k.toNat := fld_at hw hl 2
  have f3 : fld word 28 4 = 1 := fld_at hw hl 3
  have row : decodeRow word = some (.semp k) := by
    rw [row27 (op_at hw hl)]
    simp [decodeOp27, f1, f2, f3]
  exact ⟨hw ▸ pack_lt _ hl, decode_of_row hwf row⟩

theorem sempt (e : BitVec 5) (b : BitVec 5) (k : BitVec 6) : Statement (.sempt e b k) := by
  intro hwf word heq
  have hw : word = pack [(7, 0x27), (5, e.toNat), (5, 0), (5, b.toNat), (6, k.toNat), (4, 2)] := (Option.some.inj heq).symm
  have hl : Fits [(7, 0x27), (5, e.toNat), (5, 0), (5, b.toNat), (6, k.toNat), (4, 2)] := ⟨by decide, e.isLt, by decide, b.isLt, k.isLt, by decide, trivial⟩
  have f1 : fld word 7 5 = e.toNat := fld_at hw hl 1
  have f2 : fld word 12 5 = 0 := fld_at hw hl 2
  have f3 : fld word 17 5 = b.toNat := fld_at hw hl 3
  have f4 : fld word 22 6 = k.toNat := fld_at hw hl 4
  have f5 : fld word 28 4 = 2 := fld_at hw hl 5
  have row : decodeRow word = some (.sempt e b k) := by
    rw [row27 (op_at hw hl)]
    simp [decodeOp27, f1, f2, f3, f4, f5]
  exact ⟨hw ▸ pack_lt _ hl, decode_of_row hwf row⟩

theorem semset (a : BitVec 5) (k : BitVec 6) : Statement (.semset a k) := by
  intro hwf word heq
  have hw : word = pack [(7, 0x27), (5, 0), (5, a.toNat), (5, 0), (6, k.toNat), (4, 3)] := (Option.some.inj heq).symm
  have hl : Fits [(7, 0x27), (5, 0), (5, a.toNat), (5, 0), (6, k.toNat), (4, 3)] := ⟨by decide, by decide, a.isLt, by decide, k.isLt, by decide, trivial⟩
  have f1 : fld word 7 5 = 0 := fld_at hw hl 1
  have f2 : fld word 12 5 = a.toNat := fld_at hw hl 2
  have f3 : fld word 17 5 = 0 := fld_at hw hl 3
  have f4 : fld word 22 6 = k.toNat := fld_at hw hl 4
  have f5 : fld word 28 4 = 3 := fld_at hw hl 5
  have row : decodeRow word = some (.semset a k) := by
    rw [row27 (op_at hw hl)]
    simp [decodeOp27, f1, f2, f3, f4, f5]
  exact ⟨hw ▸ pack_lt _ hl, decode_of_row hwf row⟩

theorem semget (e : BitVec 5) (k : BitVec 6) : Statement (.semget e k) := by
  intro hwf word heq
  have hw : word = pack [(7, 0x27), (5, e.toNat), (10, 0), (6, k.toNat), (4, 4)] := (Option.some.inj heq).symm
  have hl : Fits [(7, 0x27), (5, e.toNat), (10, 0), (6, k.toNat), (4, 4)] := ⟨by decide, e.isLt, by decide, k.isLt, by decide, trivial⟩
  have f1 : fld word 7 5 = e.toNat := fld_at hw hl 1
  have f2 : fld word 12 10 = 0 := fld_at hw hl 2
  have f3 : fld word 22 6 = k.toNat := fld_at hw hl 3
  have f4 : fld word 28 4 = 4 := fld_at hw hl 4
  have row : decodeRow word = some (.semget e k) := by
    rw [row27 (op_at hw hl)]
    simp [decodeOp27, f1, f2, f3, f4]
  exact ⟨hw ▸ pack_lt _ hl, decode_of_row hwf row⟩

theorem bld (d : BitVec 5) (a : BitVec 5) (i : BitVec 10) : Statement (.bld d a i) := by
  intro hwf word heq
  have hw : word = pack [(7, 0x28), (5, d.toNat), (5, a.toNat), (5, 0), (10, i.toNat)] := (Option.some.inj heq).symm
  have hl : Fits [(7, 0x28), (5, d.toNat), (5, a.toNat), (5, 0), (10, i.toNat)] := ⟨by decide, d.isLt, a.isLt, by decide, i.isLt, trivial⟩
  have f1 : fld word 7 5 = d.toNat := fld_at hw hl 1
  have f2 : fld word 12 5 = a.toNat := fld_at hw hl 2
  have f3 : fld word 17 5 = 0 := fld_at hw hl 3
  have f4 : fld word 22 10 = i.toNat := fld_at hw hl 4
  have row : decodeRow word = some (.bld d a i) := by
    rw [row28 (op_at hw hl)]
    simp [decodeOp28, f1, f2, f3, f4]
  exact ⟨hw ▸ pack_lt _ hl, decode_of_row hwf row⟩

theorem bst (d : BitVec 5) (a : BitVec 5) (i : BitVec 10) : Statement (.bst d a i) := by
  intro hwf word heq
  have hw : word = pack [(7, 0x28), (5, d.toNat), (5, a.toNat), (5, 1), (10, i.toNat)] := (Option.some.inj heq).symm
  have hl : Fits [(7, 0x28), (5, d.toNat), (5, a.toNat), (5, 1), (10, i.toNat)] := ⟨by decide, d.isLt, a.isLt, by decide, i.isLt, trivial⟩
  have f1 : fld word 7 5 = d.toNat := fld_at hw hl 1
  have f2 : fld word 12 5 = a.toNat := fld_at hw hl 2
  have f3 : fld word 17 5 = 1 := fld_at hw hl 3
  have f4 : fld word 22 10 = i.toNat := fld_at hw hl 4
  have row : decodeRow word = some (.bst d a i) := by
    rw [row28 (op_at hw hl)]
    simp [decodeOp28, f1, f2, f3, f4]
  exact ⟨hw ▸ pack_lt _ hl, decode_of_row hwf row⟩

theorem sync (d : BitVec 5) (a : BitVec 5) (b : BitVec 5) (v : BitVec 2) (o : BitVec 3) : Statement (.sync d a b v o) := by
  intro hwf word heq
  have hw : word = pack [(7, 0x30), (5, d.toNat), (5, a.toNat), (5, b.toNat), (2, v.toNat), (3, o.toNat), (5, 0)] := (Option.some.inj heq).symm
  have hl : Fits [(7, 0x30), (5, d.toNat), (5, a.toNat), (5, b.toNat), (2, v.toNat), (3, o.toNat), (5, 0)] := ⟨by decide, d.isLt, a.isLt, b.isLt, v.isLt, o.isLt, by decide, trivial⟩
  have f1 : fld word 7 5 = d.toNat := fld_at hw hl 1
  have f2 : fld word 12 5 = a.toNat := fld_at hw hl 2
  have f3 : fld word 17 5 = b.toNat := fld_at hw hl 3
  have f4 : fld word 22 2 = v.toNat := fld_at hw hl 4
  have f5 : fld word 24 3 = o.toNat := fld_at hw hl 5
  have f6 : fld word 27 5 = 0 := fld_at hw hl 6
  have row : decodeRow word = some (.sync d a b v o) := by
    rw [row30 (op_at hw hl)]
    simp [decodeOp30, f1, f2, f3, f4, f5, f6]
  exact ⟨hw ▸ pack_lt _ hl, decode_of_row hwf row⟩

theorem ssqNum (d : BitVec 5) : Statement (.ssqNum d) := by
  intro hwf word heq
  have hw : word = pack [(7, 0x31), (5, d.toNat), (20, 0)] := (Option.some.inj heq).symm
  have hl : Fits [(7, 0x31), (5, d.toNat), (20, 0)] := ⟨by decide, d.isLt, by decide, trivial⟩
  have f1 : fld word 7 5 = d.toNat := fld_at hw hl 1
  have f2 : fld word 12 20 = 0 := fld_at hw hl 2
  have row : decodeRow word = some (.ssqNum d) := by
    rw [row31 (op_at hw hl)]
    simp [decodeOp31, f1, f2]
  exact ⟨hw ▸ pack_lt _ hl, decode_of_row hwf row⟩

theorem ssqOut (d : BitVec 5) : Statement (.ssqOut d) := by
  intro hwf word heq
  have hw : word = pack [(7, 0x31), (5, d.toNat), (20, 1024)] := (Option.some.inj heq).symm
  have hl : Fits [(7, 0x31), (5, d.toNat), (20, 1024)] := ⟨by decide, d.isLt, by decide, trivial⟩
  have f1 : fld word 7 5 = d.toNat := fld_at hw hl 1
  have f2 : fld word 12 20 = 1024 := fld_at hw hl 2
  have row : decodeRow word = some (.ssqOut d) := by
    rw [row31 (op_at hw hl)]
    simp [decodeOp31, f1, f2]
  exact ⟨hw ▸ pack_lt _ hl, decode_of_row hwf row⟩

theorem ssqRed (d : BitVec 5) : Statement (.ssqRed d) := by
  intro hwf word heq
  have hw : word = pack [(7, 0x31), (5, d.toNat), (20, 2048)] := (Option.some.inj heq).symm
  have hl : Fits [(7, 0x31), (5, d.toNat), (20, 2048)] := ⟨by decide, d.isLt, by decide, trivial⟩
  have f1 : fld word 7 5 = d.toNat := fld_at hw hl 1
  have f2 : fld word 12 20 = 2048 := fld_at hw hl 2
  have row : decodeRow word = some (.ssqRed d) := by
    rw [row31 (op_at hw hl)]
    simp [decodeOp31, f1, f2]
  exact ⟨hw ▸ pack_lt _ hl, decode_of_row hwf row⟩

theorem ssqTry (d : BitVec 5) : Statement (.ssqTry d) := by
  intro hwf word heq
  have hw : word = pack [(7, 0x31), (5, d.toNat), (20, 3072)] := (Option.some.inj heq).symm
  have hl : Fits [(7, 0x31), (5, d.toNat), (20, 3072)] := ⟨by decide, d.isLt, by decide, trivial⟩
  have f1 : fld word 7 5 = d.toNat := fld_at hw hl 1
  have f2 : fld word 12 20 = 3072 := fld_at hw hl 2
  have row : decodeRow word = some (.ssqTry d) := by
    rw [row31 (op_at hw hl)]
    simp [decodeOp31, f1, f2]
  exact ⟨hw ▸ pack_lt _ hl, decode_of_row hwf row⟩

theorem ssqRel (d : BitVec 5) : Statement (.ssqRel d) := by
  intro hwf word heq
  have hw : word = pack [(7, 0x31), (5, d.toNat), (20, 4096)] := (Option.some.inj heq).symm
  have hl : Fits [(7, 0x31), (5, d.toNat), (20, 4096)] := ⟨by decide, d.isLt, by decide, trivial⟩
  have f1 : fld word 7 5 = d.toNat := fld_at hw hl 1
  have f2 : fld word 12 20 = 4096 := fld_at hw hl 2
  have row : decodeRow word = some (.ssqRel d) := by
    rw [row31 (op_at hw hl)]
    simp [decodeOp31, f1, f2]
  exact ⟨hw ▸ pack_lt _ hl, decode_of_row hwf row⟩

theorem send (p : BitVec 3) (a : BitVec 5) (b : BitVec 5) (n : BitVec 2) (t : BitVec 1) : Statement (.send p a b n t) := by
  intro hwf word heq
  have hw : word = pack [(7, 0x32), (3, p.toNat), (2, 0), (5, a.toNat), (5, b.toNat), (2, n.toNat), (1, t.toNat), (7, 0)] := (Option.some.inj heq).symm
  have hl : Fits [(7, 0x32), (3, p.toNat), (2, 0), (5, a.toNat), (5, b.toNat), (2, n.toNat), (1, t.toNat), (7, 0)] := ⟨by decide, p.isLt, by decide, a.isLt, b.isLt, n.isLt, t.isLt, by decide, trivial⟩
  have f1 : fld word 7 3 = p.toNat := fld_at hw hl 1
  have f2 : fld word 10 2 = 0 := fld_at hw hl 2
  have f3 : fld word 12 5 = a.toNat := fld_at hw hl 3
  have f4 : fld word 17 5 = b.toNat := fld_at hw hl 4
  have f5 : fld word 22 2 = n.toNat := fld_at hw hl 5
  have f6 : fld word 24 1 = t.toNat := fld_at hw hl 6
  have f7 : fld word 25 7 = 0 := fld_at hw hl 7
  have row : decodeRow word = some (.send p a b n t) := by
    rw [row32 (op_at hw hl)]
    simp [decodeOp32, f1, f2, f3, f4, f5, f6, f7]
  exact ⟨hw ▸ pack_lt _ hl, decode_of_row hwf row⟩

theorem recv (d : BitVec 5) (a : BitVec 5) (n : BitVec 2) (s : BitVec 1) (p : BitVec 3) : Statement (.recv d a n s p) := by
  intro hwf word heq
  have hw : word = pack [(7, 0x33), (5, d.toNat), (5, a.toNat), (5, 0), (2, n.toNat), (1, 0), (1, s.toNat), (3, p.toNat), (3, 0)] := (Option.some.inj heq).symm
  have hl : Fits [(7, 0x33), (5, d.toNat), (5, a.toNat), (5, 0), (2, n.toNat), (1, 0), (1, s.toNat), (3, p.toNat), (3, 0)] := ⟨by decide, d.isLt, a.isLt, by decide, n.isLt, by decide, s.isLt, p.isLt, by decide, trivial⟩
  have f1 : fld word 7 5 = d.toNat := fld_at hw hl 1
  have f2 : fld word 12 5 = a.toNat := fld_at hw hl 2
  have f3 : fld word 17 5 = 0 := fld_at hw hl 3
  have f4 : fld word 22 2 = n.toNat := fld_at hw hl 4
  have f5 : fld word 24 1 = 0 := fld_at hw hl 5
  have f6 : fld word 25 1 = s.toNat := fld_at hw hl 6
  have f7 : fld word 26 3 = p.toNat := fld_at hw hl 7
  have f8 : fld word 29 3 = 0 := fld_at hw hl 8
  have row : decodeRow word = some (.recv d a n s p) := by
    rw [row33 (op_at hw hl)]
    simp [decodeOp33, f1, f2, f3, f4, f5, f6, f7, f8]
  exact ⟨hw ▸ pack_lt _ hl, decode_of_row hwf row⟩

theorem recvAny (d : BitVec 5) (a : BitVec 5) (s : BitVec 1) (p : BitVec 3) : Statement (.recvAny d a s p) := by
  intro hwf word heq
  have hw : word = pack [(7, 0x33), (5, d.toNat), (5, a.toNat), (8, 128), (1, s.toNat), (3, p.toNat), (3, 0)] := (Option.some.inj heq).symm
  have hl : Fits [(7, 0x33), (5, d.toNat), (5, a.toNat), (8, 128), (1, s.toNat), (3, p.toNat), (3, 0)] := ⟨by decide, d.isLt, a.isLt, by decide, s.isLt, p.isLt, by decide, trivial⟩
  have f1 : fld word 7 5 = d.toNat := fld_at hw hl 1
  have f2 : fld word 12 5 = a.toNat := fld_at hw hl 2
  have f3 : fld word 17 8 = 128 := fld_at hw hl 3
  have f4 : fld word 25 1 = s.toNat := fld_at hw hl 4
  have f5 : fld word 26 3 = p.toNat := fld_at hw hl 5
  have f6 : fld word 29 3 = 0 := fld_at hw hl 6
  have e1 : fld word 24 1 = 1 := fld_in f3 7 1 (by decide)
  have row : decodeRow word = some (.recvAny d a s p) := by
    rw [row33 (op_at hw hl)]
    simp [decodeOp33, e1, f1, f2, f3, f4, f5, f6]
  exact ⟨hw ▸ pack_lt _ hl, decode_of_row hwf row⟩

theorem rspawn (p : BitVec 3) (a : BitVec 5) (b : BitVec 5) : Statement (.rspawn p a b) := by
  intro hwf word heq
  have hw : word = pack [(7, 0x34), (3, p.toNat), (2, 0), (5, a.toNat), (5, b.toNat), (10, 0)] := (Option.some.inj heq).symm
  have hl : Fits [(7, 0x34), (3, p.toNat), (2, 0), (5, a.toNat), (5, b.toNat), (10, 0)] := ⟨by decide, p.isLt, by decide, a.isLt, b.isLt, by decide, trivial⟩
  have f1 : fld word 7 3 = p.toNat := fld_at hw hl 1
  have f2 : fld word 10 2 = 0 := fld_at hw hl 2
  have f3 : fld word 12 5 = a.toNat := fld_at hw hl 3
  have f4 : fld word 17 5 = b.toNat := fld_at hw hl 4
  have f5 : fld word 22 10 = 0 := fld_at hw hl 5
  have row : decodeRow word = some (.rspawn p a b) := by
    rw [row34 (op_at hw hl)]
    simp [decodeOp34, f1, f2, f3, f4, f5]
  exact ⟨hw ▸ pack_lt _ hl, decode_of_row hwf row⟩

theorem xsend (e : BitVec 5) (a : BitVec 5) (b : BitVec 5) : Statement (.xsend e a b) := by
  intro hwf word heq
  have hw : word = pack [(7, 0x35), (5, e.toNat), (5, a.toNat), (5, b.toNat), (10, 0)] := (Option.some.inj heq).symm
  have hl : Fits [(7, 0x35), (5, e.toNat), (5, a.toNat), (5, b.toNat), (10, 0)] := ⟨by decide, e.isLt, a.isLt, b.isLt, by decide, trivial⟩
  have f1 : fld word 7 5 = e.toNat := fld_at hw hl 1
  have f2 : fld word 12 5 = a.toNat := fld_at hw hl 2
  have f3 : fld word 17 5 = b.toNat := fld_at hw hl 3
  have f4 : fld word 22 10 = 0 := fld_at hw hl 4
  have row : decodeRow word = some (.xsend e a b) := by
    rw [row35 (op_at hw hl)]
    simp [decodeOp35, f1, f2, f3, f4]
  exact ⟨hw ▸ pack_lt _ hl, decode_of_row hwf row⟩

theorem xrecv (e : BitVec 5) (a : BitVec 5) (b : BitVec 5) : Statement (.xrecv e a b) := by
  intro hwf word heq
  have hw : word = pack [(7, 0x35), (5, e.toNat), (5, a.toNat), (5, b.toNat), (10, 64)] := (Option.some.inj heq).symm
  have hl : Fits [(7, 0x35), (5, e.toNat), (5, a.toNat), (5, b.toNat), (10, 64)] := ⟨by decide, e.isLt, a.isLt, b.isLt, by decide, trivial⟩
  have f1 : fld word 7 5 = e.toNat := fld_at hw hl 1
  have f2 : fld word 12 5 = a.toNat := fld_at hw hl 2
  have f3 : fld word 17 5 = b.toNat := fld_at hw hl 3
  have f4 : fld word 22 10 = 64 := fld_at hw hl 4
  have row : decodeRow word = some (.xrecv e a b) := by
    rw [row35 (op_at hw hl)]
    simp [decodeOp35, f1, f2, f3, f4]
  exact ⟨hw ▸ pack_lt _ hl, decode_of_row hwf row⟩

theorem vaddF (d : BitVec 5) (a : BitVec 5) (b : BitVec 5) (t : BitVec 2) (m : BitVec 2) : Statement (.vaddF d a b t m) := by
  intro hwf word heq
  have hw : word = pack [(7, 0x40), (5, d.toNat), (5, a.toNat), (5, b.toNat), (4, 0), (2, t.toNat), (2, m.toNat), (2, 0)] := (Option.some.inj heq).symm
  have hl : Fits [(7, 0x40), (5, d.toNat), (5, a.toNat), (5, b.toNat), (4, 0), (2, t.toNat), (2, m.toNat), (2, 0)] := ⟨by decide, d.isLt, a.isLt, b.isLt, by decide, t.isLt, m.isLt, by decide, trivial⟩
  have f1 : fld word 7 5 = d.toNat := fld_at hw hl 1
  have f2 : fld word 12 5 = a.toNat := fld_at hw hl 2
  have f3 : fld word 17 5 = b.toNat := fld_at hw hl 3
  have f4 : fld word 22 4 = 0 := fld_at hw hl 4
  have f5 : fld word 26 2 = t.toNat := fld_at hw hl 5
  have f6 : fld word 28 2 = m.toNat := fld_at hw hl 6
  have f7 : fld word 30 2 = 0 := fld_at hw hl 7
  have row : decodeRow word = some (.vaddF d a b t m) := by
    rw [row40 (op_at hw hl)]
    simp [decodeOp40, f1, f2, f3, f4, f5, f6, f7]
  exact ⟨hw ▸ pack_lt _ hl, decode_of_row hwf row⟩

theorem vsubF (d : BitVec 5) (a : BitVec 5) (b : BitVec 5) (t : BitVec 2) (m : BitVec 2) : Statement (.vsubF d a b t m) := by
  intro hwf word heq
  have hw : word = pack [(7, 0x40), (5, d.toNat), (5, a.toNat), (5, b.toNat), (4, 1), (2, t.toNat), (2, m.toNat), (2, 0)] := (Option.some.inj heq).symm
  have hl : Fits [(7, 0x40), (5, d.toNat), (5, a.toNat), (5, b.toNat), (4, 1), (2, t.toNat), (2, m.toNat), (2, 0)] := ⟨by decide, d.isLt, a.isLt, b.isLt, by decide, t.isLt, m.isLt, by decide, trivial⟩
  have f1 : fld word 7 5 = d.toNat := fld_at hw hl 1
  have f2 : fld word 12 5 = a.toNat := fld_at hw hl 2
  have f3 : fld word 17 5 = b.toNat := fld_at hw hl 3
  have f4 : fld word 22 4 = 1 := fld_at hw hl 4
  have f5 : fld word 26 2 = t.toNat := fld_at hw hl 5
  have f6 : fld word 28 2 = m.toNat := fld_at hw hl 6
  have f7 : fld word 30 2 = 0 := fld_at hw hl 7
  have row : decodeRow word = some (.vsubF d a b t m) := by
    rw [row40 (op_at hw hl)]
    simp [decodeOp40, f1, f2, f3, f4, f5, f6, f7]
  exact ⟨hw ▸ pack_lt _ hl, decode_of_row hwf row⟩

theorem vmulF (d : BitVec 5) (a : BitVec 5) (b : BitVec 5) (t : BitVec 2) (m : BitVec 2) : Statement (.vmulF d a b t m) := by
  intro hwf word heq
  have hw : word = pack [(7, 0x40), (5, d.toNat), (5, a.toNat), (5, b.toNat), (4, 2), (2, t.toNat), (2, m.toNat), (2, 0)] := (Option.some.inj heq).symm
  have hl : Fits [(7, 0x40), (5, d.toNat), (5, a.toNat), (5, b.toNat), (4, 2), (2, t.toNat), (2, m.toNat), (2, 0)] := ⟨by decide, d.isLt, a.isLt, b.isLt, by decide, t.isLt, m.isLt, by decide, trivial⟩
  have f1 : fld word 7 5 = d.toNat := fld_at hw hl 1
  have f2 : fld word 12 5 = a.toNat := fld_at hw hl 2
  have f3 : fld word 17 5 = b.toNat := fld_at hw hl 3
  have f4 : fld word 22 4 = 2 := fld_at hw hl 4
  have f5 : fld word 26 2 = t.toNat := fld_at hw hl 5
  have f6 : fld word 28 2 = m.toNat := fld_at hw hl 6
  have f7 : fld word 30 2 = 0 := fld_at hw hl 7
  have row : decodeRow word = some (.vmulF d a b t m) := by
    rw [row40 (op_at hw hl)]
    simp [decodeOp40, f1, f2, f3, f4, f5, f6, f7]
  exact ⟨hw ▸ pack_lt _ hl, decode_of_row hwf row⟩

theorem vminF (d : BitVec 5) (a : BitVec 5) (b : BitVec 5) (t : BitVec 2) (m : BitVec 2) : Statement (.vminF d a b t m) := by
  intro hwf word heq
  have hw : word = pack [(7, 0x40), (5, d.toNat), (5, a.toNat), (5, b.toNat), (4, 3), (2, t.toNat), (2, m.toNat), (2, 0)] := (Option.some.inj heq).symm
  have hl : Fits [(7, 0x40), (5, d.toNat), (5, a.toNat), (5, b.toNat), (4, 3), (2, t.toNat), (2, m.toNat), (2, 0)] := ⟨by decide, d.isLt, a.isLt, b.isLt, by decide, t.isLt, m.isLt, by decide, trivial⟩
  have f1 : fld word 7 5 = d.toNat := fld_at hw hl 1
  have f2 : fld word 12 5 = a.toNat := fld_at hw hl 2
  have f3 : fld word 17 5 = b.toNat := fld_at hw hl 3
  have f4 : fld word 22 4 = 3 := fld_at hw hl 4
  have f5 : fld word 26 2 = t.toNat := fld_at hw hl 5
  have f6 : fld word 28 2 = m.toNat := fld_at hw hl 6
  have f7 : fld word 30 2 = 0 := fld_at hw hl 7
  have row : decodeRow word = some (.vminF d a b t m) := by
    rw [row40 (op_at hw hl)]
    simp [decodeOp40, f1, f2, f3, f4, f5, f6, f7]
  exact ⟨hw ▸ pack_lt _ hl, decode_of_row hwf row⟩

theorem vmaxF (d : BitVec 5) (a : BitVec 5) (b : BitVec 5) (t : BitVec 2) (m : BitVec 2) : Statement (.vmaxF d a b t m) := by
  intro hwf word heq
  have hw : word = pack [(7, 0x40), (5, d.toNat), (5, a.toNat), (5, b.toNat), (4, 4), (2, t.toNat), (2, m.toNat), (2, 0)] := (Option.some.inj heq).symm
  have hl : Fits [(7, 0x40), (5, d.toNat), (5, a.toNat), (5, b.toNat), (4, 4), (2, t.toNat), (2, m.toNat), (2, 0)] := ⟨by decide, d.isLt, a.isLt, b.isLt, by decide, t.isLt, m.isLt, by decide, trivial⟩
  have f1 : fld word 7 5 = d.toNat := fld_at hw hl 1
  have f2 : fld word 12 5 = a.toNat := fld_at hw hl 2
  have f3 : fld word 17 5 = b.toNat := fld_at hw hl 3
  have f4 : fld word 22 4 = 4 := fld_at hw hl 4
  have f5 : fld word 26 2 = t.toNat := fld_at hw hl 5
  have f6 : fld word 28 2 = m.toNat := fld_at hw hl 6
  have f7 : fld word 30 2 = 0 := fld_at hw hl 7
  have row : decodeRow word = some (.vmaxF d a b t m) := by
    rw [row40 (op_at hw hl)]
    simp [decodeOp40, f1, f2, f3, f4, f5, f6, f7]
  exact ⟨hw ▸ pack_lt _ hl, decode_of_row hwf row⟩

theorem vabsF (d : BitVec 5) (a : BitVec 5) (t : BitVec 2) (m : BitVec 2) : Statement (.vabsF d a t m) := by
  intro hwf word heq
  have hw : word = pack [(7, 0x40), (5, d.toNat), (5, a.toNat), (9, 160), (2, t.toNat), (2, m.toNat), (2, 0)] := (Option.some.inj heq).symm
  have hl : Fits [(7, 0x40), (5, d.toNat), (5, a.toNat), (9, 160), (2, t.toNat), (2, m.toNat), (2, 0)] := ⟨by decide, d.isLt, a.isLt, by decide, t.isLt, m.isLt, by decide, trivial⟩
  have f1 : fld word 7 5 = d.toNat := fld_at hw hl 1
  have f2 : fld word 12 5 = a.toNat := fld_at hw hl 2
  have f3 : fld word 17 9 = 160 := fld_at hw hl 3
  have f4 : fld word 26 2 = t.toNat := fld_at hw hl 4
  have f5 : fld word 28 2 = m.toNat := fld_at hw hl 5
  have f6 : fld word 30 2 = 0 := fld_at hw hl 6
  have e1 : fld word 22 4 = 5 := fld_in f3 5 4 (by decide)
  have row : decodeRow word = some (.vabsF d a t m) := by
    rw [row40 (op_at hw hl)]
    simp [decodeOp40, e1, f1, f2, f3, f4, f5, f6]
  exact ⟨hw ▸ pack_lt _ hl, decode_of_row hwf row⟩

theorem vneg (d : BitVec 5) (a : BitVec 5) (t : BitVec 2) (m : BitVec 2) : Statement (.vneg d a t m) := by
  intro hwf word heq
  have hw : word = pack [(7, 0x40), (5, d.toNat), (5, a.toNat), (9, 192), (2, t.toNat), (2, m.toNat), (2, 0)] := (Option.some.inj heq).symm
  have hl : Fits [(7, 0x40), (5, d.toNat), (5, a.toNat), (9, 192), (2, t.toNat), (2, m.toNat), (2, 0)] := ⟨by decide, d.isLt, a.isLt, by decide, t.isLt, m.isLt, by decide, trivial⟩
  have f1 : fld word 7 5 = d.toNat := fld_at hw hl 1
  have f2 : fld word 12 5 = a.toNat := fld_at hw hl 2
  have f3 : fld word 17 9 = 192 := fld_at hw hl 3
  have f4 : fld word 26 2 = t.toNat := fld_at hw hl 4
  have f5 : fld word 28 2 = m.toNat := fld_at hw hl 5
  have f6 : fld word 30 2 = 0 := fld_at hw hl 6
  have e1 : fld word 22 4 = 6 := fld_in f3 5 4 (by decide)
  have row : decodeRow word = some (.vneg d a t m) := by
    rw [row40 (op_at hw hl)]
    simp [decodeOp40, e1, f1, f2, f3, f4, f5, f6]
  exact ⟨hw ▸ pack_lt _ hl, decode_of_row hwf row⟩

theorem vcvt (d : BitVec 5) (a : BitVec 5) (u : BitVec 2) (t : BitVec 2) (m : BitVec 2) : Statement (.vcvt d a u t m) := by
  intro hwf word heq
  have hw : word = pack [(7, 0x40), (5, d.toNat), (5, a.toNat), (2, u.toNat), (7, 56), (2, t.toNat), (2, m.toNat), (2, 0)] := (Option.some.inj heq).symm
  have hl : Fits [(7, 0x40), (5, d.toNat), (5, a.toNat), (2, u.toNat), (7, 56), (2, t.toNat), (2, m.toNat), (2, 0)] := ⟨by decide, d.isLt, a.isLt, u.isLt, by decide, t.isLt, m.isLt, by decide, trivial⟩
  have f1 : fld word 7 5 = d.toNat := fld_at hw hl 1
  have f2 : fld word 12 5 = a.toNat := fld_at hw hl 2
  have f3 : fld word 17 2 = u.toNat := fld_at hw hl 3
  have f4 : fld word 19 7 = 56 := fld_at hw hl 4
  have f5 : fld word 26 2 = t.toNat := fld_at hw hl 5
  have f6 : fld word 28 2 = m.toNat := fld_at hw hl 6
  have f7 : fld word 30 2 = 0 := fld_at hw hl 7
  have e1 : fld word 22 4 = 7 := fld_in f4 3 4 (by decide)
  have n2 : fld word 17 9 ≠ 160 := fld_ne 19 7 0 2 7 f4 rfl (by decide) (by decide) (by decide)
  have n3 : fld word 17 9 ≠ 192 := fld_ne 19 7 0 2 7 f4 rfl (by decide) (by decide) (by decide)
  have row : decodeRow word = some (.vcvt d a u t m) := by
    rw [row40 (op_at hw hl)]
    simp [decodeOp40, e1, n2, n3, f1, f2, f3, f4, f5, f6, f7]
  exact ⟨hw ▸ pack_lt _ hl, decode_of_row hwf row⟩

theorem vcvti (d : BitVec 5) (a : BitVec 5) (t : BitVec 2) (m : BitVec 2) : Statement (.vcvti d a t m) := by
  intro hwf word heq
  have hw : word = pack [(7, 0x40), (5, d.toNat), (5, a.toNat), (9, 256), (2, t.toNat), (2, m.toNat), (2, 0)] := (Option.some.inj heq).symm
  have hl : Fits [(7, 0x40), (5, d.toNat), (5, a.toNat), (9, 256), (2, t.toNat), (2, m.toNat), (2, 0)] := ⟨by decide, d.isLt, a.isLt, by decide, t.isLt, m.isLt, by decide, trivial⟩
  have f1 : fld word 7 5 = d.toNat := fld_at hw hl 1
  have f2 : fld word 12 5 = a.toNat := fld_at hw hl 2
  have f3 : fld word 17 9 = 256 := fld_at hw hl 3
  have f4 : fld word 26 2 = t.toNat := fld_at hw hl 4
  have f5 : fld word 28 2 = m.toNat := fld_at hw hl 5
  have f6 : fld word 30 2 = 0 := fld_at hw hl 6
  have e1 : fld word 22 4 = 8 := fld_in f3 5 4 (by decide)
  have e2 : fld word 19 7 = 64 := fld_in f3 2 7 (by decide)
  have row : decodeRow word = some (.vcvti d a t m) := by
    rw [row40 (op_at hw hl)]
    simp [decodeOp40, e1, e2, f1, f2, f3, f4, f5, f6]
  exact ⟨hw ▸ pack_lt _ hl, decode_of_row hwf row⟩

theorem vcvtf (d : BitVec 5) (a : BitVec 5) (t : BitVec 2) (m : BitVec 2) : Statement (.vcvtf d a t m) := by
  intro hwf word heq
  have hw : word = pack [(7, 0x40), (5, d.toNat), (5, a.toNat), (9, 288), (2, t.toNat), (2, m.toNat), (2, 0)] := (Option.some.inj heq).symm
  have hl : Fits [(7, 0x40), (5, d.toNat), (5, a.toNat), (9, 288), (2, t.toNat), (2, m.toNat), (2, 0)] := ⟨by decide, d.isLt, a.isLt, by decide, t.isLt, m.isLt, by decide, trivial⟩
  have f1 : fld word 7 5 = d.toNat := fld_at hw hl 1
  have f2 : fld word 12 5 = a.toNat := fld_at hw hl 2
  have f3 : fld word 17 9 = 288 := fld_at hw hl 3
  have f4 : fld word 26 2 = t.toNat := fld_at hw hl 4
  have f5 : fld word 28 2 = m.toNat := fld_at hw hl 5
  have f6 : fld word 30 2 = 0 := fld_at hw hl 6
  have e1 : fld word 22 4 = 9 := fld_in f3 5 4 (by decide)
  have e2 : fld word 19 7 = 72 := fld_in f3 2 7 (by decide)
  have row : decodeRow word = some (.vcvtf d a t m) := by
    rw [row40 (op_at hw hl)]
    simp [decodeOp40, e1, e2, f1, f2, f3, f4, f5, f6]
  exact ⟨hw ▸ pack_lt _ hl, decode_of_row hwf row⟩

theorem vaddI (d : BitVec 5) (a : BitVec 5) (b : BitVec 5) (w : BitVec 2) : Statement (.vaddI d a b w) := by
  intro hwf word heq
  have hw : word = pack [(7, 0x41), (5, d.toNat), (5, a.toNat), (5, b.toNat), (5, 0), (2, w.toNat), (3, 0)] := (Option.some.inj heq).symm
  have hl : Fits [(7, 0x41), (5, d.toNat), (5, a.toNat), (5, b.toNat), (5, 0), (2, w.toNat), (3, 0)] := ⟨by decide, d.isLt, a.isLt, b.isLt, by decide, w.isLt, by decide, trivial⟩
  have f1 : fld word 7 5 = d.toNat := fld_at hw hl 1
  have f2 : fld word 12 5 = a.toNat := fld_at hw hl 2
  have f3 : fld word 17 5 = b.toNat := fld_at hw hl 3
  have f4 : fld word 22 5 = 0 := fld_at hw hl 4
  have f5 : fld word 27 2 = w.toNat := fld_at hw hl 5
  have f6 : fld word 29 3 = 0 := fld_at hw hl 6
  have row : decodeRow word = some (.vaddI d a b w) := by
    rw [row41 (op_at hw hl)]
    simp [decodeOp41, f1, f2, f3, f4, f5, f6]
  exact ⟨hw ▸ pack_lt _ hl, decode_of_row hwf row⟩

theorem vsubI (d : BitVec 5) (a : BitVec 5) (b : BitVec 5) (w : BitVec 2) : Statement (.vsubI d a b w) := by
  intro hwf word heq
  have hw : word = pack [(7, 0x41), (5, d.toNat), (5, a.toNat), (5, b.toNat), (5, 1), (2, w.toNat), (3, 0)] := (Option.some.inj heq).symm
  have hl : Fits [(7, 0x41), (5, d.toNat), (5, a.toNat), (5, b.toNat), (5, 1), (2, w.toNat), (3, 0)] := ⟨by decide, d.isLt, a.isLt, b.isLt, by decide, w.isLt, by decide, trivial⟩
  have f1 : fld word 7 5 = d.toNat := fld_at hw hl 1
  have f2 : fld word 12 5 = a.toNat := fld_at hw hl 2
  have f3 : fld word 17 5 = b.toNat := fld_at hw hl 3
  have f4 : fld word 22 5 = 1 := fld_at hw hl 4
  have f5 : fld word 27 2 = w.toNat := fld_at hw hl 5
  have f6 : fld word 29 3 = 0 := fld_at hw hl 6
  have row : decodeRow word = some (.vsubI d a b w) := by
    rw [row41 (op_at hw hl)]
    simp [decodeOp41, f1, f2, f3, f4, f5, f6]
  exact ⟨hw ▸ pack_lt _ hl, decode_of_row hwf row⟩

theorem vmulI (d : BitVec 5) (a : BitVec 5) (b : BitVec 5) (w : BitVec 2) : Statement (.vmulI d a b w) := by
  intro hwf word heq
  have hw : word = pack [(7, 0x41), (5, d.toNat), (5, a.toNat), (5, b.toNat), (5, 2), (2, w.toNat), (3, 0)] := (Option.some.inj heq).symm
  have hl : Fits [(7, 0x41), (5, d.toNat), (5, a.toNat), (5, b.toNat), (5, 2), (2, w.toNat), (3, 0)] := ⟨by decide, d.isLt, a.isLt, b.isLt, by decide, w.isLt, by decide, trivial⟩
  have f1 : fld word 7 5 = d.toNat := fld_at hw hl 1
  have f2 : fld word 12 5 = a.toNat := fld_at hw hl 2
  have f3 : fld word 17 5 = b.toNat := fld_at hw hl 3
  have f4 : fld word 22 5 = 2 := fld_at hw hl 4
  have f5 : fld word 27 2 = w.toNat := fld_at hw hl 5
  have f6 : fld word 29 3 = 0 := fld_at hw hl 6
  have row : decodeRow word = some (.vmulI d a b w) := by
    rw [row41 (op_at hw hl)]
    simp [decodeOp41, f1, f2, f3, f4, f5, f6]
  exact ⟨hw ▸ pack_lt _ hl, decode_of_row hwf row⟩

theorem vminS (d : BitVec 5) (a : BitVec 5) (b : BitVec 5) (w : BitVec 2) : Statement (.vminS d a b w) := by
  intro hwf word heq
  have hw : word = pack [(7, 0x41), (5, d.toNat), (5, a.toNat), (5, b.toNat), (5, 3), (2, w.toNat), (3, 0)] := (Option.some.inj heq).symm
  have hl : Fits [(7, 0x41), (5, d.toNat), (5, a.toNat), (5, b.toNat), (5, 3), (2, w.toNat), (3, 0)] := ⟨by decide, d.isLt, a.isLt, b.isLt, by decide, w.isLt, by decide, trivial⟩
  have f1 : fld word 7 5 = d.toNat := fld_at hw hl 1
  have f2 : fld word 12 5 = a.toNat := fld_at hw hl 2
  have f3 : fld word 17 5 = b.toNat := fld_at hw hl 3
  have f4 : fld word 22 5 = 3 := fld_at hw hl 4
  have f5 : fld word 27 2 = w.toNat := fld_at hw hl 5
  have f6 : fld word 29 3 = 0 := fld_at hw hl 6
  have row : decodeRow word = some (.vminS d a b w) := by
    rw [row41 (op_at hw hl)]
    simp [decodeOp41, f1, f2, f3, f4, f5, f6]
  exact ⟨hw ▸ pack_lt _ hl, decode_of_row hwf row⟩

theorem vminN (d : BitVec 5) (a : BitVec 5) (b : BitVec 5) (w : BitVec 2) : Statement (.vminN d a b w) := by
  intro hwf word heq
  have hw : word = pack [(7, 0x41), (5, d.toNat), (5, a.toNat), (5, b.toNat), (5, 4), (2, w.toNat), (3, 0)] := (Option.some.inj heq).symm
  have hl : Fits [(7, 0x41), (5, d.toNat), (5, a.toNat), (5, b.toNat), (5, 4), (2, w.toNat), (3, 0)] := ⟨by decide, d.isLt, a.isLt, b.isLt, by decide, w.isLt, by decide, trivial⟩
  have f1 : fld word 7 5 = d.toNat := fld_at hw hl 1
  have f2 : fld word 12 5 = a.toNat := fld_at hw hl 2
  have f3 : fld word 17 5 = b.toNat := fld_at hw hl 3
  have f4 : fld word 22 5 = 4 := fld_at hw hl 4
  have f5 : fld word 27 2 = w.toNat := fld_at hw hl 5
  have f6 : fld word 29 3 = 0 := fld_at hw hl 6
  have row : decodeRow word = some (.vminN d a b w) := by
    rw [row41 (op_at hw hl)]
    simp [decodeOp41, f1, f2, f3, f4, f5, f6]
  exact ⟨hw ▸ pack_lt _ hl, decode_of_row hwf row⟩

theorem vmaxS (d : BitVec 5) (a : BitVec 5) (b : BitVec 5) (w : BitVec 2) : Statement (.vmaxS d a b w) := by
  intro hwf word heq
  have hw : word = pack [(7, 0x41), (5, d.toNat), (5, a.toNat), (5, b.toNat), (5, 5), (2, w.toNat), (3, 0)] := (Option.some.inj heq).symm
  have hl : Fits [(7, 0x41), (5, d.toNat), (5, a.toNat), (5, b.toNat), (5, 5), (2, w.toNat), (3, 0)] := ⟨by decide, d.isLt, a.isLt, b.isLt, by decide, w.isLt, by decide, trivial⟩
  have f1 : fld word 7 5 = d.toNat := fld_at hw hl 1
  have f2 : fld word 12 5 = a.toNat := fld_at hw hl 2
  have f3 : fld word 17 5 = b.toNat := fld_at hw hl 3
  have f4 : fld word 22 5 = 5 := fld_at hw hl 4
  have f5 : fld word 27 2 = w.toNat := fld_at hw hl 5
  have f6 : fld word 29 3 = 0 := fld_at hw hl 6
  have row : decodeRow word = some (.vmaxS d a b w) := by
    rw [row41 (op_at hw hl)]
    simp [decodeOp41, f1, f2, f3, f4, f5, f6]
  exact ⟨hw ▸ pack_lt _ hl, decode_of_row hwf row⟩

theorem vmaxN (d : BitVec 5) (a : BitVec 5) (b : BitVec 5) (w : BitVec 2) : Statement (.vmaxN d a b w) := by
  intro hwf word heq
  have hw : word = pack [(7, 0x41), (5, d.toNat), (5, a.toNat), (5, b.toNat), (5, 6), (2, w.toNat), (3, 0)] := (Option.some.inj heq).symm
  have hl : Fits [(7, 0x41), (5, d.toNat), (5, a.toNat), (5, b.toNat), (5, 6), (2, w.toNat), (3, 0)] := ⟨by decide, d.isLt, a.isLt, b.isLt, by decide, w.isLt, by decide, trivial⟩
  have f1 : fld word 7 5 = d.toNat := fld_at hw hl 1
  have f2 : fld word 12 5 = a.toNat := fld_at hw hl 2
  have f3 : fld word 17 5 = b.toNat := fld_at hw hl 3
  have f4 : fld word 22 5 = 6 := fld_at hw hl 4
  have f5 : fld word 27 2 = w.toNat := fld_at hw hl 5
  have f6 : fld word 29 3 = 0 := fld_at hw hl 6
  have row : decodeRow word = some (.vmaxN d a b w) := by
    rw [row41 (op_at hw hl)]
    simp [decodeOp41, f1, f2, f3, f4, f5, f6]
  exact ⟨hw ▸ pack_lt _ hl, decode_of_row hwf row⟩

theorem vand (d : BitVec 5) (a : BitVec 5) (b : BitVec 5) (w : BitVec 2) : Statement (.vand d a b w) := by
  intro hwf word heq
  have hw : word = pack [(7, 0x41), (5, d.toNat), (5, a.toNat), (5, b.toNat), (5, 7), (2, w.toNat), (3, 0)] := (Option.some.inj heq).symm
  have hl : Fits [(7, 0x41), (5, d.toNat), (5, a.toNat), (5, b.toNat), (5, 7), (2, w.toNat), (3, 0)] := ⟨by decide, d.isLt, a.isLt, b.isLt, by decide, w.isLt, by decide, trivial⟩
  have f1 : fld word 7 5 = d.toNat := fld_at hw hl 1
  have f2 : fld word 12 5 = a.toNat := fld_at hw hl 2
  have f3 : fld word 17 5 = b.toNat := fld_at hw hl 3
  have f4 : fld word 22 5 = 7 := fld_at hw hl 4
  have f5 : fld word 27 2 = w.toNat := fld_at hw hl 5
  have f6 : fld word 29 3 = 0 := fld_at hw hl 6
  have row : decodeRow word = some (.vand d a b w) := by
    rw [row41 (op_at hw hl)]
    simp [decodeOp41, f1, f2, f3, f4, f5, f6]
  exact ⟨hw ▸ pack_lt _ hl, decode_of_row hwf row⟩

theorem vor (d : BitVec 5) (a : BitVec 5) (b : BitVec 5) (w : BitVec 2) : Statement (.vor d a b w) := by
  intro hwf word heq
  have hw : word = pack [(7, 0x41), (5, d.toNat), (5, a.toNat), (5, b.toNat), (5, 8), (2, w.toNat), (3, 0)] := (Option.some.inj heq).symm
  have hl : Fits [(7, 0x41), (5, d.toNat), (5, a.toNat), (5, b.toNat), (5, 8), (2, w.toNat), (3, 0)] := ⟨by decide, d.isLt, a.isLt, b.isLt, by decide, w.isLt, by decide, trivial⟩
  have f1 : fld word 7 5 = d.toNat := fld_at hw hl 1
  have f2 : fld word 12 5 = a.toNat := fld_at hw hl 2
  have f3 : fld word 17 5 = b.toNat := fld_at hw hl 3
  have f4 : fld word 22 5 = 8 := fld_at hw hl 4
  have f5 : fld word 27 2 = w.toNat := fld_at hw hl 5
  have f6 : fld word 29 3 = 0 := fld_at hw hl 6
  have row : decodeRow word = some (.vor d a b w) := by
    rw [row41 (op_at hw hl)]
    simp [decodeOp41, f1, f2, f3, f4, f5, f6]
  exact ⟨hw ▸ pack_lt _ hl, decode_of_row hwf row⟩

theorem vxor (d : BitVec 5) (a : BitVec 5) (b : BitVec 5) (w : BitVec 2) : Statement (.vxor d a b w) := by
  intro hwf word heq
  have hw : word = pack [(7, 0x41), (5, d.toNat), (5, a.toNat), (5, b.toNat), (5, 9), (2, w.toNat), (3, 0)] := (Option.some.inj heq).symm
  have hl : Fits [(7, 0x41), (5, d.toNat), (5, a.toNat), (5, b.toNat), (5, 9), (2, w.toNat), (3, 0)] := ⟨by decide, d.isLt, a.isLt, b.isLt, by decide, w.isLt, by decide, trivial⟩
  have f1 : fld word 7 5 = d.toNat := fld_at hw hl 1
  have f2 : fld word 12 5 = a.toNat := fld_at hw hl 2
  have f3 : fld word 17 5 = b.toNat := fld_at hw hl 3
  have f4 : fld word 22 5 = 9 := fld_at hw hl 4
  have f5 : fld word 27 2 = w.toNat := fld_at hw hl 5
  have f6 : fld word 29 3 = 0 := fld_at hw hl 6
  have row : decodeRow word = some (.vxor d a b w) := by
    rw [row41 (op_at hw hl)]
    simp [decodeOp41, f1, f2, f3, f4, f5, f6]
  exact ⟨hw ▸ pack_lt _ hl, decode_of_row hwf row⟩

theorem vsll (d : BitVec 5) (a : BitVec 5) (b : BitVec 5) (w : BitVec 2) : Statement (.vsll d a b w) := by
  intro hwf word heq
  have hw : word = pack [(7, 0x41), (5, d.toNat), (5, a.toNat), (5, b.toNat), (5, 10), (2, w.toNat), (3, 0)] := (Option.some.inj heq).symm
  have hl : Fits [(7, 0x41), (5, d.toNat), (5, a.toNat), (5, b.toNat), (5, 10), (2, w.toNat), (3, 0)] := ⟨by decide, d.isLt, a.isLt, b.isLt, by decide, w.isLt, by decide, trivial⟩
  have f1 : fld word 7 5 = d.toNat := fld_at hw hl 1
  have f2 : fld word 12 5 = a.toNat := fld_at hw hl 2
  have f3 : fld word 17 5 = b.toNat := fld_at hw hl 3
  have f4 : fld word 22 5 = 10 := fld_at hw hl 4
  have f5 : fld word 27 2 = w.toNat := fld_at hw hl 5
  have f6 : fld word 29 3 = 0 := fld_at hw hl 6
  have row : decodeRow word = some (.vsll d a b w) := by
    rw [row41 (op_at hw hl)]
    simp [decodeOp41, f1, f2, f3, f4, f5, f6]
  exact ⟨hw ▸ pack_lt _ hl, decode_of_row hwf row⟩

theorem vsrl (d : BitVec 5) (a : BitVec 5) (b : BitVec 5) (w : BitVec 2) : Statement (.vsrl d a b w) := by
  intro hwf word heq
  have hw : word = pack [(7, 0x41), (5, d.toNat), (5, a.toNat), (5, b.toNat), (5, 11), (2, w.toNat), (3, 0)] := (Option.some.inj heq).symm
  have hl : Fits [(7, 0x41), (5, d.toNat), (5, a.toNat), (5, b.toNat), (5, 11), (2, w.toNat), (3, 0)] := ⟨by decide, d.isLt, a.isLt, b.isLt, by decide, w.isLt, by decide, trivial⟩
  have f1 : fld word 7 5 = d.toNat := fld_at hw hl 1
  have f2 : fld word 12 5 = a.toNat := fld_at hw hl 2
  have f3 : fld word 17 5 = b.toNat := fld_at hw hl 3
  have f4 : fld word 22 5 = 11 := fld_at hw hl 4
  have f5 : fld word 27 2 = w.toNat := fld_at hw hl 5
  have f6 : fld word 29 3 = 0 := fld_at hw hl 6
  have row : decodeRow word = some (.vsrl d a b w) := by
    rw [row41 (op_at hw hl)]
    simp [decodeOp41, f1, f2, f3, f4, f5, f6]
  exact ⟨hw ▸ pack_lt _ hl, decode_of_row hwf row⟩

theorem vsra (d : BitVec 5) (a : BitVec 5) (b : BitVec 5) (w : BitVec 2) : Statement (.vsra d a b w) := by
  intro hwf word heq
  have hw : word = pack [(7, 0x41), (5, d.toNat), (5, a.toNat), (5, b.toNat), (5, 12), (2, w.toNat), (3, 0)] := (Option.some.inj heq).symm
  have hl : Fits [(7, 0x41), (5, d.toNat), (5, a.toNat), (5, b.toNat), (5, 12), (2, w.toNat), (3, 0)] := ⟨by decide, d.isLt, a.isLt, b.isLt, by decide, w.isLt, by decide, trivial⟩
  have f1 : fld word 7 5 = d.toNat := fld_at hw hl 1
  have f2 : fld word 12 5 = a.toNat := fld_at hw hl 2
  have f3 : fld word 17 5 = b.toNat := fld_at hw hl 3
  have f4 : fld word 22 5 = 12 := fld_at hw hl 4
  have f5 : fld word 27 2 = w.toNat := fld_at hw hl 5
  have f6 : fld word 29 3 = 0 := fld_at hw hl 6
  have row : decodeRow word = some (.vsra d a b w) := by
    rw [row41 (op_at hw hl)]
    simp [decodeOp41, f1, f2, f3, f4, f5, f6]
  exact ⟨hw ▸ pack_lt _ hl, decode_of_row hwf row⟩

theorem vaddsS (d : BitVec 5) (a : BitVec 5) (b : BitVec 5) (w : BitVec 2) : Statement (.vaddsS d a b w) := by
  intro hwf word heq
  have hw : word = pack [(7, 0x41), (5, d.toNat), (5, a.toNat), (5, b.toNat), (5, 13), (2, w.toNat), (3, 0)] := (Option.some.inj heq).symm
  have hl : Fits [(7, 0x41), (5, d.toNat), (5, a.toNat), (5, b.toNat), (5, 13), (2, w.toNat), (3, 0)] := ⟨by decide, d.isLt, a.isLt, b.isLt, by decide, w.isLt, by decide, trivial⟩
  have f1 : fld word 7 5 = d.toNat := fld_at hw hl 1
  have f2 : fld word 12 5 = a.toNat := fld_at hw hl 2
  have f3 : fld word 17 5 = b.toNat := fld_at hw hl 3
  have f4 : fld word 22 5 = 13 := fld_at hw hl 4
  have f5 : fld word 27 2 = w.toNat := fld_at hw hl 5
  have f6 : fld word 29 3 = 0 := fld_at hw hl 6
  have row : decodeRow word = some (.vaddsS d a b w) := by
    rw [row41 (op_at hw hl)]
    simp [decodeOp41, f1, f2, f3, f4, f5, f6]
  exact ⟨hw ▸ pack_lt _ hl, decode_of_row hwf row⟩

theorem vaddsN (d : BitVec 5) (a : BitVec 5) (b : BitVec 5) (w : BitVec 2) : Statement (.vaddsN d a b w) := by
  intro hwf word heq
  have hw : word = pack [(7, 0x41), (5, d.toNat), (5, a.toNat), (5, b.toNat), (5, 14), (2, w.toNat), (3, 0)] := (Option.some.inj heq).symm
  have hl : Fits [(7, 0x41), (5, d.toNat), (5, a.toNat), (5, b.toNat), (5, 14), (2, w.toNat), (3, 0)] := ⟨by decide, d.isLt, a.isLt, b.isLt, by decide, w.isLt, by decide, trivial⟩
  have f1 : fld word 7 5 = d.toNat := fld_at hw hl 1
  have f2 : fld word 12 5 = a.toNat := fld_at hw hl 2
  have f3 : fld word 17 5 = b.toNat := fld_at hw hl 3
  have f4 : fld word 22 5 = 14 := fld_at hw hl 4
  have f5 : fld word 27 2 = w.toNat := fld_at hw hl 5
  have f6 : fld word 29 3 = 0 := fld_at hw hl 6
  have row : decodeRow word = some (.vaddsN d a b w) := by
    rw [row41 (op_at hw hl)]
    simp [decodeOp41, f1, f2, f3, f4, f5, f6]
  exact ⟨hw ▸ pack_lt _ hl, decode_of_row hwf row⟩

theorem vsubsS (d : BitVec 5) (a : BitVec 5) (b : BitVec 5) (w : BitVec 2) : Statement (.vsubsS d a b w) := by
  intro hwf word heq
  have hw : word = pack [(7, 0x41), (5, d.toNat), (5, a.toNat), (5, b.toNat), (5, 15), (2, w.toNat), (3, 0)] := (Option.some.inj heq).symm
  have hl : Fits [(7, 0x41), (5, d.toNat), (5, a.toNat), (5, b.toNat), (5, 15), (2, w.toNat), (3, 0)] := ⟨by decide, d.isLt, a.isLt, b.isLt, by decide, w.isLt, by decide, trivial⟩
  have f1 : fld word 7 5 = d.toNat := fld_at hw hl 1
  have f2 : fld word 12 5 = a.toNat := fld_at hw hl 2
  have f3 : fld word 17 5 = b.toNat := fld_at hw hl 3
  have f4 : fld word 22 5 = 15 := fld_at hw hl 4
  have f5 : fld word 27 2 = w.toNat := fld_at hw hl 5
  have f6 : fld word 29 3 = 0 := fld_at hw hl 6
  have row : decodeRow word = some (.vsubsS d a b w) := by
    rw [row41 (op_at hw hl)]
    simp [decodeOp41, f1, f2, f3, f4, f5, f6]
  exact ⟨hw ▸ pack_lt _ hl, decode_of_row hwf row⟩

theorem vsubsN (d : BitVec 5) (a : BitVec 5) (b : BitVec 5) (w : BitVec 2) : Statement (.vsubsN d a b w) := by
  intro hwf word heq
  have hw : word = pack [(7, 0x41), (5, d.toNat), (5, a.toNat), (5, b.toNat), (5, 16), (2, w.toNat), (3, 0)] := (Option.some.inj heq).symm
  have hl : Fits [(7, 0x41), (5, d.toNat), (5, a.toNat), (5, b.toNat), (5, 16), (2, w.toNat), (3, 0)] := ⟨by decide, d.isLt, a.isLt, b.isLt, by decide, w.isLt, by decide, trivial⟩
  have f1 : fld word 7 5 = d.toNat := fld_at hw hl 1
  have f2 : fld word 12 5 = a.toNat := fld_at hw hl 2
  have f3 : fld word 17 5 = b.toNat := fld_at hw hl 3
  have f4 : fld word 22 5 = 16 := fld_at hw hl 4
  have f5 : fld word 27 2 = w.toNat := fld_at hw hl 5
  have f6 : fld word 29 3 = 0 := fld_at hw hl 6
  have row : decodeRow word = some (.vsubsN d a b w) := by
    rw [row41 (op_at hw hl)]
    simp [decodeOp41, f1, f2, f3, f4, f5, f6]
  exact ⟨hw ▸ pack_lt _ hl, decode_of_row hwf row⟩

theorem vabsI (d : BitVec 5) (a : BitVec 5) (w : BitVec 2) : Statement (.vabsI d a w) := by
  intro hwf word heq
  have hw : word = pack [(7, 0x41), (5, d.toNat), (5, a.toNat), (10, 544), (2, w.toNat), (3, 0)] := (Option.some.inj heq).symm
  have hl : Fits [(7, 0x41), (5, d.toNat), (5, a.toNat), (10, 544), (2, w.toNat), (3, 0)] := ⟨by decide, d.isLt, a.isLt, by decide, w.isLt, by decide, trivial⟩
  have f1 : fld word 7 5 = d.toNat := fld_at hw hl 1
  have f2 : fld word 12 5 = a.toNat := fld_at hw hl 2
  have f3 : fld word 17 10 = 544 := fld_at hw hl 3
  have f4 : fld word 27 2 = w.toNat := fld_at hw hl 4
  have f5 : fld word 29 3 = 0 := fld_at hw hl 5
  have e1 : fld word 22 5 = 17 := fld_in f3 5 5 (by decide)
  have row : decodeRow word = some (.vabsI d a w) := by
    rw [row41 (op_at hw hl)]
    simp [decodeOp41, e1, f1, f2, f3, f4, f5]
  exact ⟨hw ▸ pack_lt _ hl, decode_of_row hwf row⟩

theorem vfma (d : BitVec 5) (a : BitVec 5) (b : BitVec 5) (c : BitVec 5) (m : BitVec 2) (t : BitVec 2) : Statement (.vfma d a b c m t) := by
  intro hwf word heq
  have hw : word = pack [(7, 0x42), (5, d.toNat), (5, a.toNat), (5, b.toNat), (5, c.toNat), (2, m.toNat), (2, t.toNat), (1, 0)] := (Option.some.inj heq).symm
  have hl : Fits [(7, 0x42), (5, d.toNat), (5, a.toNat), (5, b.toNat), (5, c.toNat), (2, m.toNat), (2, t.toNat), (1, 0)] := ⟨by decide, d.isLt, a.isLt, b.isLt, c.isLt, m.isLt, t.isLt, by decide, trivial⟩
  have f1 : fld word 7 5 = d.toNat := fld_at hw hl 1
  have f2 : fld word 12 5 = a.toNat := fld_at hw hl 2
  have f3 : fld word 17 5 = b.toNat := fld_at hw hl 3
  have f4 : fld word 22 5 = c.toNat := fld_at hw hl 4
  have f5 : fld word 27 2 = m.toNat := fld_at hw hl 5
  have f6 : fld word 29 2 = t.toNat := fld_at hw hl 6
  have f7 : fld word 31 1 = 0 := fld_at hw hl 7
  have row : decodeRow word = some (.vfma d a b c m t) := by
    rw [row42 (op_at hw hl)]
    simp [decodeOp42, f1, f2, f3, f4, f5, f6, f7]
  exact ⟨hw ▸ pack_lt _ hl, decode_of_row hwf row⟩

theorem vfnma (d : BitVec 5) (a : BitVec 5) (b : BitVec 5) (c : BitVec 5) (m : BitVec 2) (t : BitVec 2) : Statement (.vfnma d a b c m t) := by
  intro hwf word heq
  have hw : word = pack [(7, 0x42), (5, d.toNat), (5, a.toNat), (5, b.toNat), (5, c.toNat), (2, m.toNat), (2, t.toNat), (1, 1)] := (Option.some.inj heq).symm
  have hl : Fits [(7, 0x42), (5, d.toNat), (5, a.toNat), (5, b.toNat), (5, c.toNat), (2, m.toNat), (2, t.toNat), (1, 1)] := ⟨by decide, d.isLt, a.isLt, b.isLt, c.isLt, m.isLt, t.isLt, by decide, trivial⟩
  have f1 : fld word 7 5 = d.toNat := fld_at hw hl 1
  have f2 : fld word 12 5 = a.toNat := fld_at hw hl 2
  have f3 : fld word 17 5 = b.toNat := fld_at hw hl 3
  have f4 : fld word 22 5 = c.toNat := fld_at hw hl 4
  have f5 : fld word 27 2 = m.toNat := fld_at hw hl 5
  have f6 : fld word 29 2 = t.toNat := fld_at hw hl 6
  have f7 : fld word 31 1 = 1 := fld_at hw hl 7
  have row : decodeRow word = some (.vfnma d a b c m t) := by
    rw [row42 (op_at hw hl)]
    simp [decodeOp42, f1, f2, f3, f4, f5, f6, f7]
  exact ⟨hw ▸ pack_lt _ hl, decode_of_row hwf row⟩

theorem vcmpI (d : BitVec 5) (a : BitVec 5) (b : BitVec 5) (w : BitVec 2) (c : BitVec 3) : Statement (.vcmpI d a b w c) := by
  intro hwf word heq
  have hw : word = pack [(7, 0x43), (5, d.toNat), (5, a.toNat), (5, b.toNat), (3, 0), (2, w.toNat), (3, c.toNat), (2, 0)] := (Option.some.inj heq).symm
  have hl : Fits [(7, 0x43), (5, d.toNat), (5, a.toNat), (5, b.toNat), (3, 0), (2, w.toNat), (3, c.toNat), (2, 0)] := ⟨by decide, d.isLt, a.isLt, b.isLt, by decide, w.isLt, c.isLt, by decide, trivial⟩
  have f1 : fld word 7 5 = d.toNat := fld_at hw hl 1
  have f2 : fld word 12 5 = a.toNat := fld_at hw hl 2
  have f3 : fld word 17 5 = b.toNat := fld_at hw hl 3
  have f4 : fld word 22 3 = 0 := fld_at hw hl 4
  have f5 : fld word 25 2 = w.toNat := fld_at hw hl 5
  have f6 : fld word 27 3 = c.toNat := fld_at hw hl 6
  have f7 : fld word 30 2 = 0 := fld_at hw hl 7
  have row : decodeRow word = some (.vcmpI d a b w c) := by
    rw [row43 (op_at hw hl)]
    simp [decodeOp43, f1, f2, f3, f4, f5, f6, f7]
  exact ⟨hw ▸ pack_lt _ hl, decode_of_row hwf row⟩

theorem vcmpF (d : BitVec 5) (a : BitVec 5) (b : BitVec 5) (t : BitVec 2) (c : BitVec 3) : Statement (.vcmpF d a b t c) := by
  intro hwf word heq
  have hw : word = pack [(7, 0x43), (5, d.toNat), (5, a.toNat), (5, b.toNat), (3, 0), (2, t.toNat), (3, c.toNat), (2, 1)] := (Option.some.inj heq).symm
  have hl : Fits [(7, 0x43), (5, d.toNat), (5, a.toNat), (5, b.toNat), (3, 0), (2, t.toNat), (3, c.toNat), (2, 1)] := ⟨by decide, d.isLt, a.isLt, b.isLt, by decide, t.isLt, c.isLt, by decide, trivial⟩
  have f1 : fld word 7 5 = d.toNat := fld_at hw hl 1
  have f2 : fld word 12 5 = a.toNat := fld_at hw hl 2
  have f3 : fld word 17 5 = b.toNat := fld_at hw hl 3
  have f4 : fld word 22 3 = 0 := fld_at hw hl 4
  have f5 : fld word 25 2 = t.toNat := fld_at hw hl 5
  have f6 : fld word 27 3 = c.toNat := fld_at hw hl 6
  have f7 : fld word 30 2 = 1 := fld_at hw hl 7
  have row : decodeRow word = some (.vcmpF d a b t c) := by
    rw [row43 (op_at hw hl)]
    simp [decodeOp43, f1, f2, f3, f4, f5, f6, f7]
  exact ⟨hw ▸ pack_lt _ hl, decode_of_row hwf row⟩

theorem vsel (d : BitVec 5) (a : BitVec 5) (b : BitVec 5) (w : BitVec 2) : Statement (.vsel d a b w) := by
  intro hwf word heq
  have hw : word = pack [(7, 0x43), (5, d.toNat), (5, a.toNat), (5, b.toNat), (3, 0), (2, w.toNat), (5, 16)] := (Option.some.inj heq).symm
  have hl : Fits [(7, 0x43), (5, d.toNat), (5, a.toNat), (5, b.toNat), (3, 0), (2, w.toNat), (5, 16)] := ⟨by decide, d.isLt, a.isLt, b.isLt, by decide, w.isLt, by decide, trivial⟩
  have f1 : fld word 7 5 = d.toNat := fld_at hw hl 1
  have f2 : fld word 12 5 = a.toNat := fld_at hw hl 2
  have f3 : fld word 17 5 = b.toNat := fld_at hw hl 3
  have f4 : fld word 22 3 = 0 := fld_at hw hl 4
  have f5 : fld word 25 2 = w.toNat := fld_at hw hl 5
  have f6 : fld word 27 5 = 16 := fld_at hw hl 6
  have e1 : fld word 30 2 = 2 := fld_in f6 3 2 (by decide)
  have row : decodeRow word = some (.vsel d a b w) := by
    rw [row43 (op_at hw hl)]
    simp [decodeOp43, e1, f1, f2, f3, f4, f5, f6]
  exact ⟨hw ▸ pack_lt _ hl, decode_of_row hwf row⟩

theorem vld (d : BitVec 5) (a : BitVec 5) (i : BitVec 14) : Statement (.vld d a i) := by
  intro hwf word heq
  have hw : word = pack [(7, 0x44), (5, d.toNat), (5, a.toNat), (1, 0), (14, i.toNat)] := (Option.some.inj heq).symm
  have hl : Fits [(7, 0x44), (5, d.toNat), (5, a.toNat), (1, 0), (14, i.toNat)] := ⟨by decide, d.isLt, a.isLt, by decide, i.isLt, trivial⟩
  have f1 : fld word 7 5 = d.toNat := fld_at hw hl 1
  have f2 : fld word 12 5 = a.toNat := fld_at hw hl 2
  have f3 : fld word 17 1 = 0 := fld_at hw hl 3
  have f4 : fld word 18 14 = i.toNat := fld_at hw hl 4
  have row : decodeRow word = some (.vld d a i) := by
    rw [row44 (op_at hw hl)]
    simp [decodeOp44, f1, f2, f3, f4]
  exact ⟨hw ▸ pack_lt _ hl, decode_of_row hwf row⟩

theorem vst (s : BitVec 5) (a : BitVec 5) (i : BitVec 14) : Statement (.vst s a i) := by
  intro hwf word heq
  have hw : word = pack [(7, 0x44), (5, s.toNat), (5, a.toNat), (1, 1), (14, i.toNat)] := (Option.some.inj heq).symm
  have hl : Fits [(7, 0x44), (5, s.toNat), (5, a.toNat), (1, 1), (14, i.toNat)] := ⟨by decide, s.isLt, a.isLt, by decide, i.isLt, trivial⟩
  have f1 : fld word 7 5 = s.toNat := fld_at hw hl 1
  have f2 : fld word 12 5 = a.toNat := fld_at hw hl 2
  have f3 : fld word 17 1 = 1 := fld_at hw hl 3
  have f4 : fld word 18 14 = i.toNat := fld_at hw hl 4
  have row : decodeRow word = some (.vst s a i) := by
    rw [row44 (op_at hw hl)]
    simp [decodeOp44, f1, f2, f3, f4]
  exact ⟨hw ▸ pack_lt _ hl, decode_of_row hwf row⟩

theorem vlds (d : BitVec 5) (a : BitVec 5) (b : BitVec 5) (e : BitVec 2) : Statement (.vlds d a b e) := by
  intro hwf word heq
  have hw : word = pack [(7, 0x45), (5, d.toNat), (5, a.toNat), (5, b.toNat), (2, 0), (2, e.toNat), (6, 0)] := (Option.some.inj heq).symm
  have hl : Fits [(7, 0x45), (5, d.toNat), (5, a.toNat), (5, b.toNat), (2, 0), (2, e.toNat), (6, 0)] := ⟨by decide, d.isLt, a.isLt, b.isLt, by decide, e.isLt, by decide, trivial⟩
  have f1 : fld word 7 5 = d.toNat := fld_at hw hl 1
  have f2 : fld word 12 5 = a.toNat := fld_at hw hl 2
  have f3 : fld word 17 5 = b.toNat := fld_at hw hl 3
  have f4 : fld word 22 2 = 0 := fld_at hw hl 4
  have f5 : fld word 24 2 = e.toNat := fld_at hw hl 5
  have f6 : fld word 26 6 = 0 := fld_at hw hl 6
  have row : decodeRow word = some (.vlds d a b e) := by
    rw [row45 (op_at hw hl)]
    simp [decodeOp45, f1, f2, f3, f4, f5, f6]
  exact ⟨hw ▸ pack_lt _ hl, decode_of_row hwf row⟩

theorem vsts (d : BitVec 5) (a : BitVec 5) (b : BitVec 5) (e : BitVec 2) : Statement (.vsts d a b e) := by
  intro hwf word heq
  have hw : word = pack [(7, 0x45), (5, d.toNat), (5, a.toNat), (5, b.toNat), (2, 1), (2, e.toNat), (6, 0)] := (Option.some.inj heq).symm
  have hl : Fits [(7, 0x45), (5, d.toNat), (5, a.toNat), (5, b.toNat), (2, 1), (2, e.toNat), (6, 0)] := ⟨by decide, d.isLt, a.isLt, b.isLt, by decide, e.isLt, by decide, trivial⟩
  have f1 : fld word 7 5 = d.toNat := fld_at hw hl 1
  have f2 : fld word 12 5 = a.toNat := fld_at hw hl 2
  have f3 : fld word 17 5 = b.toNat := fld_at hw hl 3
  have f4 : fld word 22 2 = 1 := fld_at hw hl 4
  have f5 : fld word 24 2 = e.toNat := fld_at hw hl 5
  have f6 : fld word 26 6 = 0 := fld_at hw hl 6
  have row : decodeRow word = some (.vsts d a b e) := by
    rw [row45 (op_at hw hl)]
    simp [decodeOp45, f1, f2, f3, f4, f5, f6]
  exact ⟨hw ▸ pack_lt _ hl, decode_of_row hwf row⟩

theorem vgath (d : BitVec 5) (a : BitVec 5) (b : BitVec 5) (e : BitVec 2) : Statement (.vgath d a b e) := by
  intro hwf word heq
  have hw : word = pack [(7, 0x45), (5, d.toNat), (5, a.toNat), (5, b.toNat), (2, 2), (2, e.toNat), (6, 0)] := (Option.some.inj heq).symm
  have hl : Fits [(7, 0x45), (5, d.toNat), (5, a.toNat), (5, b.toNat), (2, 2), (2, e.toNat), (6, 0)] := ⟨by decide, d.isLt, a.isLt, b.isLt, by decide, e.isLt, by decide, trivial⟩
  have f1 : fld word 7 5 = d.toNat := fld_at hw hl 1
  have f2 : fld word 12 5 = a.toNat := fld_at hw hl 2
  have f3 : fld word 17 5 = b.toNat := fld_at hw hl 3
  have f4 : fld word 22 2 = 2 := fld_at hw hl 4
  have f5 : fld word 24 2 = e.toNat := fld_at hw hl 5
  have f6 : fld word 26 6 = 0 := fld_at hw hl 6
  have row : decodeRow word = some (.vgath d a b e) := by
    rw [row45 (op_at hw hl)]
    simp [decodeOp45, f1, f2, f3, f4, f5, f6]
  exact ⟨hw ▸ pack_lt _ hl, decode_of_row hwf row⟩

theorem vscat (d : BitVec 5) (a : BitVec 5) (b : BitVec 5) (e : BitVec 2) : Statement (.vscat d a b e) := by
  intro hwf word heq
  have hw : word = pack [(7, 0x45), (5, d.toNat), (5, a.toNat), (5, b.toNat), (2, 3), (2, e.toNat), (6, 0)] := (Option.some.inj heq).symm
  have hl : Fits [(7, 0x45), (5, d.toNat), (5, a.toNat), (5, b.toNat), (2, 3), (2, e.toNat), (6, 0)] := ⟨by decide, d.isLt, a.isLt, b.isLt, by decide, e.isLt, by decide, trivial⟩
  have f1 : fld word 7 5 = d.toNat := fld_at hw hl 1
  have f2 : fld word 12 5 = a.toNat := fld_at hw hl 2
  have f3 : fld word 17 5 = b.toNat := fld_at hw hl 3
  have f4 : fld word 22 2 = 3 := fld_at hw hl 4
  have f5 : fld word 24 2 = e.toNat := fld_at hw hl 5
  have f6 : fld word 26 6 = 0 := fld_at hw hl 6
  have row : decodeRow word = some (.vscat d a b e) := by
    rw [row45 (op_at hw hl)]
    simp [decodeOp45, f1, f2, f3, f4, f5, f6]
  exact ⟨hw ▸ pack_lt _ hl, decode_of_row hwf row⟩

theorem vredFadd (d : BitVec 5) (a : BitVec 5) (t : BitVec 2) : Statement (.vredFadd d a t) := by
  intro hwf word heq
  have hw : word = pack [(7, 0x46), (5, d.toNat), (5, a.toNat), (9, 0), (2, t.toNat), (4, 0)] := (Option.some.inj heq).symm
  have hl : Fits [(7, 0x46), (5, d.toNat), (5, a.toNat), (9, 0), (2, t.toNat), (4, 0)] := ⟨by decide, d.isLt, a.isLt, by decide, t.isLt, by decide, trivial⟩
  have f1 : fld word 7 5 = d.toNat := fld_at hw hl 1
  have f2 : fld word 12 5 = a.toNat := fld_at hw hl 2
  have f3 : fld word 17 9 = 0 := fld_at hw hl 3
  have f4 : fld word 26 2 = t.toNat := fld_at hw hl 4
  have f5 : fld word 28 4 = 0 := fld_at hw hl 5
  have row : decodeRow word = some (.vredFadd d a t) := by
    rw [row46 (op_at hw hl)]
    simp [decodeOp46, f1, f2, f3, f4, f5]
  exact ⟨hw ▸ pack_lt _ hl, decode_of_row hwf row⟩

theorem vredFmin (d : BitVec 5) (a : BitVec 5) (t : BitVec 2) : Statement (.vredFmin d a t) := by
  intro hwf word heq
  have hw : word = pack [(7, 0x46), (5, d.toNat), (5, a.toNat), (9, 32), (2, t.toNat), (4, 0)] := (Option.some.inj heq).symm
  have hl : Fits [(7, 0x46), (5, d.toNat), (5, a.toNat), (9, 32), (2, t.toNat), (4, 0)] := ⟨by decide, d.isLt, a.isLt, by decide, t.isLt, by decide, trivial⟩
  have f1 : fld word 7 5 = d.toNat := fld_at hw hl 1
  have f2 : fld word 12 5 = a.toNat := fld_at hw hl 2
  have f3 : fld word 17 9 = 32 := fld_at hw hl 3
  have f4 : fld word 26 2 = t.toNat := fld_at hw hl 4
  have f5 : fld word 28 4 = 0 := fld_at hw hl 5
  have row : decodeRow word = some (.vredFmin d a t) := by
    rw [row46 (op_at hw hl)]
    simp [decodeOp46, f1, f2, f3, f4, f5]
  exact ⟨hw ▸ pack_lt _ hl, decode_of_row hwf row⟩

theorem vredFmax (d : BitVec 5) (a : BitVec 5) (t : BitVec 2) : Statement (.vredFmax d a t) := by
  intro hwf word heq
  have hw : word = pack [(7, 0x46), (5, d.toNat), (5, a.toNat), (9, 64), (2, t.toNat), (4, 0)] := (Option.some.inj heq).symm
  have hl : Fits [(7, 0x46), (5, d.toNat), (5, a.toNat), (9, 64), (2, t.toNat), (4, 0)] := ⟨by decide, d.isLt, a.isLt, by decide, t.isLt, by decide, trivial⟩
  have f1 : fld word 7 5 = d.toNat := fld_at hw hl 1
  have f2 : fld word 12 5 = a.toNat := fld_at hw hl 2
  have f3 : fld word 17 9 = 64 := fld_at hw hl 3
  have f4 : fld word 26 2 = t.toNat := fld_at hw hl 4
  have f5 : fld word 28 4 = 0 := fld_at hw hl 5
  have row : decodeRow word = some (.vredFmax d a t) := by
    rw [row46 (op_at hw hl)]
    simp [decodeOp46, f1, f2, f3, f4, f5]
  exact ⟨hw ▸ pack_lt _ hl, decode_of_row hwf row⟩

theorem vredAdd (d : BitVec 5) (a : BitVec 5) (w : BitVec 2) : Statement (.vredAdd d a w) := by
  intro hwf word heq
  have hw : word = pack [(7, 0x46), (5, d.toNat), (5, a.toNat), (9, 96), (2, w.toNat), (4, 0)] := (Option.some.inj heq).symm
  have hl : Fits [(7, 0x46), (5, d.toNat), (5, a.toNat), (9, 96), (2, w.toNat), (4, 0)] := ⟨by decide, d.isLt, a.isLt, by decide, w.isLt, by decide, trivial⟩
  have f1 : fld word 7 5 = d.toNat := fld_at hw hl 1
  have f2 : fld word 12 5 = a.toNat := fld_at hw hl 2
  have f3 : fld word 17 9 = 96 := fld_at hw hl 3
  have f4 : fld word 26 2 = w.toNat := fld_at hw hl 4
  have f5 : fld word 28 4 = 0 := fld_at hw hl 5
  have row : decodeRow word = some (.vredAdd d a w) := by
    rw [row46 (op_at hw hl)]
    simp [decodeOp46, f1, f2, f3, f4, f5]
  exact ⟨hw ▸ pack_lt _ hl, decode_of_row hwf row⟩

theorem vredMinS (d : BitVec 5) (a : BitVec 5) (w : BitVec 2) : Statement (.vredMinS d a w) := by
  intro hwf word heq
  have hw : word = pack [(7, 0x46), (5, d.toNat), (5, a.toNat), (9, 128), (2, w.toNat), (4, 0)] := (Option.some.inj heq).symm
  have hl : Fits [(7, 0x46), (5, d.toNat), (5, a.toNat), (9, 128), (2, w.toNat), (4, 0)] := ⟨by decide, d.isLt, a.isLt, by decide, w.isLt, by decide, trivial⟩
  have f1 : fld word 7 5 = d.toNat := fld_at hw hl 1
  have f2 : fld word 12 5 = a.toNat := fld_at hw hl 2
  have f3 : fld word 17 9 = 128 := fld_at hw hl 3
  have f4 : fld word 26 2 = w.toNat := fld_at hw hl 4
  have f5 : fld word 28 4 = 0 := fld_at hw hl 5
  have row : decodeRow word = some (.vredMinS d a w) := by
    rw [row46 (op_at hw hl)]
    simp [decodeOp46, f1, f2, f3, f4, f5]
  exact ⟨hw ▸ pack_lt _ hl, decode_of_row hwf row⟩

theorem vredMaxS (d : BitVec 5) (a : BitVec 5) (w : BitVec 2) : Statement (.vredMaxS d a w) := by
  intro hwf word heq
  have hw : word = pack [(7, 0x46), (5, d.toNat), (5, a.toNat), (9, 160), (2, w.toNat), (4, 0)] := (Option.some.inj heq).symm
  have hl : Fits [(7, 0x46), (5, d.toNat), (5, a.toNat), (9, 160), (2, w.toNat), (4, 0)] := ⟨by decide, d.isLt, a.isLt, by decide, w.isLt, by decide, trivial⟩
  have f1 : fld word 7 5 = d.toNat := fld_at hw hl 1
  have f2 : fld word 12 5 = a.toNat := fld_at hw hl 2
  have f3 : fld word 17 9 = 160 := fld_at hw hl 3
  have f4 : fld word 26 2 = w.toNat := fld_at hw hl 4
  have f5 : fld word 28 4 = 0 := fld_at hw hl 5
  have row : decodeRow word = some (.vredMaxS d a w) := by
    rw [row46 (op_at hw hl)]
    simp [decodeOp46, f1, f2, f3, f4, f5]
  exact ⟨hw ▸ pack_lt _ hl, decode_of_row hwf row⟩

theorem vperm (d : BitVec 5) (a : BitVec 5) (b : BitVec 5) (w : BitVec 2) : Statement (.vperm d a b w) := by
  intro hwf word heq
  have hw : word = pack [(7, 0x46), (5, d.toNat), (5, a.toNat), (5, b.toNat), (4, 0), (2, w.toNat), (4, 4)] := (Option.some.inj heq).symm
  have hl : Fits [(7, 0x46), (5, d.toNat), (5, a.toNat), (5, b.toNat), (4, 0), (2, w.toNat), (4, 4)] := ⟨by decide, d.isLt, a.isLt, b.isLt, by decide, w.isLt, by decide, trivial⟩
  have f1 : fld word 7 5 = d.toNat := fld_at hw hl 1
  have f2 : fld word 12 5 = a.toNat := fld_at hw hl 2
  have f3 : fld word 17 5 = b.toNat := fld_at hw hl 3
  have f4 : fld word 22 4 = 0 := fld_at hw hl 4
  have f5 : fld word 26 2 = w.toNat := fld_at hw hl 5
  have f6 : fld word 28 4 = 4 := fld_at hw hl 6
  have row : decodeRow word = some (.vperm d a b w) := by
    rw [row46 (op_at hw hl)]
    simp [decodeOp46, f1, f2, f3, f4, f5, f6]
  exact ⟨hw ▸ pack_lt _ hl, decode_of_row hwf row⟩

theorem vbcast (d : BitVec 5) (a : BitVec 5) (w : BitVec 2) : Statement (.vbcast d a w) := by
  intro hwf word heq
  have hw : word = pack [(7, 0x46), (5, d.toNat), (5, a.toNat), (9, 0), (2, w.toNat), (4, 8)] := (Option.some.inj heq).symm
  have hl : Fits [(7, 0x46), (5, d.toNat), (5, a.toNat), (9, 0), (2, w.toNat), (4, 8)] := ⟨by decide, d.isLt, a.isLt, by decide, w.isLt, by decide, trivial⟩
  have f1 : fld word 7 5 = d.toNat := fld_at hw hl 1
  have f2 : fld word 12 5 = a.toNat := fld_at hw hl 2
  have f3 : fld word 17 9 = 0 := fld_at hw hl 3
  have f4 : fld word 26 2 = w.toNat := fld_at hw hl 4
  have f5 : fld word 28 4 = 8 := fld_at hw hl 5
  have row : decodeRow word = some (.vbcast d a w) := by
    rw [row46 (op_at hw hl)]
    simp [decodeOp46, f1, f2, f3, f4, f5]
  exact ⟨hw ▸ pack_lt _ hl, decode_of_row hwf row⟩

theorem vmov (d : BitVec 5) (a : BitVec 5) : Statement (.vmov d a) := by
  intro hwf word heq
  have hw : word = pack [(7, 0x46), (5, d.toNat), (5, a.toNat), (15, 24576)] := (Option.some.inj heq).symm
  have hl : Fits [(7, 0x46), (5, d.toNat), (5, a.toNat), (15, 24576)] := ⟨by decide, d.isLt, a.isLt, by decide, trivial⟩
  have f1 : fld word 7 5 = d.toNat := fld_at hw hl 1
  have f2 : fld word 12 5 = a.toNat := fld_at hw hl 2
  have f3 : fld word 17 15 = 24576 := fld_at hw hl 3
  have e1 : fld word 28 4 = 12 := fld_in f3 11 4 (by decide)
  have e2 : fld word 17 9 = 0 := fld_in f3 0 9 (by decide)
  have row : decodeRow word = some (.vmov d a) := by
    rw [row46 (op_at hw hl)]
    simp [decodeOp46, e1, e2, f1, f2, f3]
  exact ⟨hw ▸ pack_lt _ hl, decode_of_row hwf row⟩

theorem vmovToX (d : BitVec 5) (a : BitVec 5) (l : BitVec 5) (w : BitVec 2) : Statement (.vmovToX d a l w) := by
  intro hwf word heq
  have hw : word = pack [(7, 0x46), (5, d.toNat), (5, a.toNat), (5, l.toNat), (4, 1), (2, w.toNat), (4, 12)] := (Option.some.inj heq).symm
  have hl : Fits [(7, 0x46), (5, d.toNat), (5, a.toNat), (5, l.toNat), (4, 1), (2, w.toNat), (4, 12)] := ⟨by decide, d.isLt, a.isLt, l.isLt, by decide, w.isLt, by decide, trivial⟩
  have f1 : fld word 7 5 = d.toNat := fld_at hw hl 1
  have f2 : fld word 12 5 = a.toNat := fld_at hw hl 2
  have f3 : fld word 17 5 = l.toNat := fld_at hw hl 3
  have f4 : fld word 22 4 = 1 := fld_at hw hl 4
  have f5 : fld word 26 2 = w.toNat := fld_at hw hl 5
  have f6 : fld word 28 4 = 12 := fld_at hw hl 6
  have n1 : fld word 17 15 ≠ 24576 := fld_ne 22 4 0 5 4 f4 rfl (by decide) (by decide) (by decide)
  have row : decodeRow word = some (.vmovToX d a l w) := by
    rw [row46 (op_at hw hl)]
    simp [decodeOp46, n1, f1, f2, f3, f4, f5, f6]
  exact ⟨hw ▸ pack_lt _ hl, decode_of_row hwf row⟩

theorem vmovToLane (d : BitVec 5) (a : BitVec 5) (l : BitVec 5) (w : BitVec 2) : Statement (.vmovToLane d a l w) := by
  intro hwf word heq
  have hw : word = pack [(7, 0x46), (5, d.toNat), (5, a.toNat), (5, l.toNat), (4, 2), (2, w.toNat), (4, 12)] := (Option.some.inj heq).symm
  have hl : Fits [(7, 0x46), (5, d.toNat), (5, a.toNat), (5, l.toNat), (4, 2), (2, w.toNat), (4, 12)] := ⟨by decide, d.isLt, a.isLt, l.isLt, by decide, w.isLt, by decide, trivial⟩
  have f1 : fld word 7 5 = d.toNat := fld_at hw hl 1
  have f2 : fld word 12 5 = a.toNat := fld_at hw hl 2
  have f3 : fld word 17 5 = l.toNat := fld_at hw hl 3
  have f4 : fld word 22 4 = 2 := fld_at hw hl 4
  have f5 : fld word 26 2 = w.toNat := fld_at hw hl 5
  have f6 : fld word 28 4 = 12 := fld_at hw hl 6
  have n1 : fld word 17 15 ≠ 24576 := fld_ne 22 4 0 5 4 f4 rfl (by decide) (by decide) (by decide)
  have row : decodeRow word = some (.vmovToLane d a l w) := by
    rw [row46 (op_at hw hl)]
    simp [decodeOp46, n1, f1, f2, f3, f4, f5, f6]
  exact ⟨hw ▸ pack_lt _ hl, decode_of_row hwf row⟩

theorem vexp2 (d : BitVec 5) (a : BitVec 5) (t : BitVec 2) : Statement (.vexp2 d a t) := by
  intro hwf word heq
  have hw : word = pack [(7, 0x47), (5, d.toNat), (5, a.toNat), (7, 0), (2, t.toNat), (6, 0)] := (Option.some.inj heq).symm
  have hl : Fits [(7, 0x47), (5, d.toNat), (5, a.toNat), (7, 0), (2, t.toNat), (6, 0)] := ⟨by decide, d.isLt, a.isLt, by decide, t.isLt, by decide, trivial⟩
  have f1 : fld word 7 5 = d.toNat := fld_at hw hl 1
  have f2 : fld word 12 5 = a.toNat := fld_at hw hl 2
  have f3 : fld word 17 7 = 0 := fld_at hw hl 3
  have f4 : fld word 24 2 = t.toNat := fld_at hw hl 4
  have f5 : fld word 26 6 = 0 := fld_at hw hl 5
  have row : decodeRow word = some (.vexp2 d a t) := by
    rw [row47 (op_at hw hl)]
    simp [decodeOp47, f1, f2, f3, f4, f5]
  exact ⟨hw ▸ pack_lt _ hl, decode_of_row hwf row⟩

theorem vlog2 (d : BitVec 5) (a : BitVec 5) (t : BitVec 2) : Statement (.vlog2 d a t) := by
  intro hwf word heq
  have hw : word = pack [(7, 0x47), (5, d.toNat), (5, a.toNat), (7, 32), (2, t.toNat), (6, 0)] := (Option.some.inj heq).symm
  have hl : Fits [(7, 0x47), (5, d.toNat), (5, a.toNat), (7, 32), (2, t.toNat), (6, 0)] := ⟨by decide, d.isLt, a.isLt, by decide, t.isLt, by decide, trivial⟩
  have f1 : fld word 7 5 = d.toNat := fld_at hw hl 1
  have f2 : fld word 12 5 = a.toNat := fld_at hw hl 2
  have f3 : fld word 17 7 = 32 := fld_at hw hl 3
  have f4 : fld word 24 2 = t.toNat := fld_at hw hl 4
  have f5 : fld word 26 6 = 0 := fld_at hw hl 5
  have row : decodeRow word = some (.vlog2 d a t) := by
    rw [row47 (op_at hw hl)]
    simp [decodeOp47, f1, f2, f3, f4, f5]
  exact ⟨hw ▸ pack_lt _ hl, decode_of_row hwf row⟩

theorem vrcp (d : BitVec 5) (a : BitVec 5) (t : BitVec 2) (m : BitVec 2) : Statement (.vrcp d a t m) := by
  intro hwf word heq
  have hw : word = pack [(7, 0x47), (5, d.toNat), (5, a.toNat), (7, 64), (2, t.toNat), (2, m.toNat), (4, 0)] := (Option.some.inj heq).symm
  have hl : Fits [(7, 0x47), (5, d.toNat), (5, a.toNat), (7, 64), (2, t.toNat), (2, m.toNat), (4, 0)] := ⟨by decide, d.isLt, a.isLt, by decide, t.isLt, m.isLt, by decide, trivial⟩
  have f1 : fld word 7 5 = d.toNat := fld_at hw hl 1
  have f2 : fld word 12 5 = a.toNat := fld_at hw hl 2
  have f3 : fld word 17 7 = 64 := fld_at hw hl 3
  have f4 : fld word 24 2 = t.toNat := fld_at hw hl 4
  have f5 : fld word 26 2 = m.toNat := fld_at hw hl 5
  have f6 : fld word 28 4 = 0 := fld_at hw hl 6
  have row : decodeRow word = some (.vrcp d a t m) := by
    rw [row47 (op_at hw hl)]
    simp [decodeOp47, f1, f2, f3, f4, f5, f6]
  exact ⟨hw ▸ pack_lt _ hl, decode_of_row hwf row⟩

theorem vrsq (d : BitVec 5) (a : BitVec 5) (t : BitVec 2) (m : BitVec 2) : Statement (.vrsq d a t m) := by
  intro hwf word heq
  have hw : word = pack [(7, 0x47), (5, d.toNat), (5, a.toNat), (7, 96), (2, t.toNat), (2, m.toNat), (4, 0)] := (Option.some.inj heq).symm
  have hl : Fits [(7, 0x47), (5, d.toNat), (5, a.toNat), (7, 96), (2, t.toNat), (2, m.toNat), (4, 0)] := ⟨by decide, d.isLt, a.isLt, by decide, t.isLt, m.isLt, by decide, trivial⟩
  have f1 : fld word 7 5 = d.toNat := fld_at hw hl 1
  have f2 : fld word 12 5 = a.toNat := fld_at hw hl 2
  have f3 : fld word 17 7 = 96 := fld_at hw hl 3
  have f4 : fld word 24 2 = t.toNat := fld_at hw hl 4
  have f5 : fld word 26 2 = m.toNat := fld_at hw hl 5
  have f6 : fld word 28 4 = 0 := fld_at hw hl 6
  have row : decodeRow word = some (.vrsq d a t m) := by
    rw [row47 (op_at hw hl)]
    simp [decodeOp47, f1, f2, f3, f4, f5, f6]
  exact ⟨hw ▸ pack_lt _ hl, decode_of_row hwf row⟩

theorem vstreamIn (e : BitVec 5) (a : BitVec 5) (k : BitVec 6) : Statement (.vstreamIn e a k) := by
  intro hwf word heq
  have hw : word = pack [(7, 0x48), (5, e.toNat), (5, a.toNat), (5, 0), (6, k.toNat), (4, 0)] := (Option.some.inj heq).symm
  have hl : Fits [(7, 0x48), (5, e.toNat), (5, a.toNat), (5, 0), (6, k.toNat), (4, 0)] := ⟨by decide, e.isLt, a.isLt, by decide, k.isLt, by decide, trivial⟩
  have f1 : fld word 7 5 = e.toNat := fld_at hw hl 1
  have f2 : fld word 12 5 = a.toNat := fld_at hw hl 2
  have f3 : fld word 17 5 = 0 := fld_at hw hl 3
  have f4 : fld word 22 6 = k.toNat := fld_at hw hl 4
  have f5 : fld word 28 4 = 0 := fld_at hw hl 5
  have row : decodeRow word = some (.vstreamIn e a k) := by
    rw [row48 (op_at hw hl)]
    simp [decodeOp48, f1, f2, f3, f4, f5]
  exact ⟨hw ▸ pack_lt _ hl, decode_of_row hwf row⟩

theorem vstreamOut (e : BitVec 5) (a : BitVec 5) (k : BitVec 6) : Statement (.vstreamOut e a k) := by
  intro hwf word heq
  have hw : word = pack [(7, 0x48), (5, e.toNat), (5, a.toNat), (5, 0), (6, k.toNat), (4, 1)] := (Option.some.inj heq).symm
  have hl : Fits [(7, 0x48), (5, e.toNat), (5, a.toNat), (5, 0), (6, k.toNat), (4, 1)] := ⟨by decide, e.isLt, a.isLt, by decide, k.isLt, by decide, trivial⟩
  have f1 : fld word 7 5 = e.toNat := fld_at hw hl 1
  have f2 : fld word 12 5 = a.toNat := fld_at hw hl 2
  have f3 : fld word 17 5 = 0 := fld_at hw hl 3
  have f4 : fld word 22 6 = k.toNat := fld_at hw hl 4
  have f5 : fld word 28 4 = 1 := fld_at hw hl 5
  have row : decodeRow word = some (.vstreamOut e a k) := by
    rw [row48 (op_at hw hl)]
    simp [decodeOp48, f1, f2, f3, f4, f5]
  exact ⟨hw ▸ pack_lt _ hl, decode_of_row hwf row⟩

theorem vstreamEnd (a : BitVec 5) : Statement (.vstreamEnd a) := by
  intro hwf word heq
  have hw : word = pack [(7, 0x48), (5, 0), (5, a.toNat), (15, 4096)] := (Option.some.inj heq).symm
  have hl : Fits [(7, 0x48), (5, 0), (5, a.toNat), (15, 4096)] := ⟨by decide, by decide, a.isLt, by decide, trivial⟩
  have f1 : fld word 7 5 = 0 := fld_at hw hl 1
  have f2 : fld word 12 5 = a.toNat := fld_at hw hl 2
  have f3 : fld word 17 15 = 4096 := fld_at hw hl 3
  have e1 : fld word 28 4 = 2 := fld_in f3 11 4 (by decide)
  have row : decodeRow word = some (.vstreamEnd a) := by
    rw [row48 (op_at hw hl)]
    simp [decodeOp48, e1, f1, f2, f3]
  exact ⟨hw ▸ pack_lt _ hl, decode_of_row hwf row⟩

theorem mcfg (d : BitVec 5) (a : BitVec 5) : Statement (.mcfg d a) := by
  intro hwf word heq
  have hw : word = pack [(7, 0x50), (5, d.toNat), (5, a.toNat), (15, 0)] := (Option.some.inj heq).symm
  have hl : Fits [(7, 0x50), (5, d.toNat), (5, a.toNat), (15, 0)] := ⟨by decide, d.isLt, a.isLt, by decide, trivial⟩
  have f1 : fld word 7 5 = d.toNat := fld_at hw hl 1
  have f2 : fld word 12 5 = a.toNat := fld_at hw hl 2
  have f3 : fld word 17 15 = 0 := fld_at hw hl 3
  have row : decodeRow word = some (.mcfg d a) := by
    rw [row50 (op_at hw hl)]
    simp [decodeOp50, f1, f2, f3]
  exact ⟨hw ▸ pack_lt _ hl, decode_of_row hwf row⟩

theorem mwld (e : BitVec 5) (k : BitVec 4) : Statement (.mwld e k) := by
  intro hwf word heq
  have hw : word = pack [(7, 0x51), (5, e.toNat), (10, 0), (4, k.toNat), (6, 0)] := (Option.some.inj heq).symm
  have hl : Fits [(7, 0x51), (5, e.toNat), (10, 0), (4, k.toNat), (6, 0)] := ⟨by decide, e.isLt, by decide, k.isLt, by decide, trivial⟩
  have f1 : fld word 7 5 = e.toNat := fld_at hw hl 1
  have f2 : fld word 12 10 = 0 := fld_at hw hl 2
  have f3 : fld word 22 4 = k.toNat := fld_at hw hl 3
  have f4 : fld word 26 6 = 0 := fld_at hw hl 4
  have row : decodeRow word = some (.mwld e k) := by
    rw [row51 (op_at hw hl)]
    simp [decodeOp51, f1, f2, f3, f4]
  exact ⟨hw ▸ pack_lt _ hl, decode_of_row hwf row⟩

theorem mmulR (e : BitVec 5) (a : BitVec 5) (k : BitVec 4) : Statement (.mmulR e a k) := by
  intro hwf word heq
  have hw : word = pack [(7, 0x52), (5, e.toNat), (5, a.toNat), (5, 0), (4, k.toNat), (6, 0)] := (Option.some.inj heq).symm
  have hl : Fits [(7, 0x52), (5, e.toNat), (5, a.toNat), (5, 0), (4, k.toNat), (6, 0)] := ⟨by decide, e.isLt, a.isLt, by decide, k.isLt, by decide, trivial⟩
  have f1 : fld word 7 5 = e.toNat := fld_at hw hl 1
  have f2 : fld word 12 5 = a.toNat := fld_at hw hl 2
  have f3 : fld word 17 5 = 0 := fld_at hw hl 3
  have f4 : fld word 22 4 = k.toNat := fld_at hw hl 4
  have f5 : fld word 26 6 = 0 := fld_at hw hl 5
  have row : decodeRow word = some (.mmulR e a k) := by
    rw [row52 (op_at hw hl)]
    simp [decodeOp52, f1, f2, f3, f4, f5]
  exact ⟨hw ▸ pack_lt _ hl, decode_of_row hwf row⟩

theorem mmulC (e : BitVec 5) (a : BitVec 5) (k : BitVec 4) : Statement (.mmulC e a k) := by
  intro hwf word heq
  have hw : word = pack [(7, 0x52), (5, e.toNat), (5, a.toNat), (5, 0), (4, k.toNat), (6, 4)] := (Option.some.inj heq).symm
  have hl : Fits [(7, 0x52), (5, e.toNat), (5, a.toNat), (5, 0), (4, k.toNat), (6, 4)] := ⟨by decide, e.isLt, a.isLt, by decide, k.isLt, by decide, trivial⟩
  have f1 : fld word 7 5 = e.toNat := fld_at hw hl 1
  have f2 : fld word 12 5 = a.toNat := fld_at hw hl 2
  have f3 : fld word 17 5 = 0 := fld_at hw hl 3
  have f4 : fld word 22 4 = k.toNat := fld_at hw hl 4
  have f5 : fld word 26 6 = 4 := fld_at hw hl 5
  have row : decodeRow word = some (.mmulC e a k) := by
    rw [row52 (op_at hw hl)]
    simp [decodeOp52, f1, f2, f3, f4, f5]
  exact ⟨hw ▸ pack_lt _ hl, decode_of_row hwf row⟩

theorem maccZ (a : BitVec 5) : Statement (.maccZ a) := by
  intro hwf word heq
  have hw : word = pack [(7, 0x53), (5, 0), (5, a.toNat), (15, 0)] := (Option.some.inj heq).symm
  have hl : Fits [(7, 0x53), (5, 0), (5, a.toNat), (15, 0)] := ⟨by decide, by decide, a.isLt, by decide, trivial⟩
  have f1 : fld word 7 5 = 0 := fld_at hw hl 1
  have f2 : fld word 12 5 = a.toNat := fld_at hw hl 2
  have f3 : fld word 17 15 = 0 := fld_at hw hl 3
  have row : decodeRow word = some (.maccZ a) := by
    rw [row53 (op_at hw hl)]
    simp [decodeOp53, f1, f2, f3]
  exact ⟨hw ▸ pack_lt _ hl, decode_of_row hwf row⟩

theorem maccRd (e : BitVec 5) (a : BitVec 5) (b : BitVec 5) : Statement (.maccRd e a b) := by
  intro hwf word heq
  have hw : word = pack [(7, 0x53), (5, e.toNat), (5, a.toNat), (5, b.toNat), (10, 64)] := (Option.some.inj heq).symm
  have hl : Fits [(7, 0x53), (5, e.toNat), (5, a.toNat), (5, b.toNat), (10, 64)] := ⟨by decide, e.isLt, a.isLt, b.isLt, by decide, trivial⟩
  have f1 : fld word 7 5 = e.toNat := fld_at hw hl 1
  have f2 : fld word 12 5 = a.toNat := fld_at hw hl 2
  have f3 : fld word 17 5 = b.toNat := fld_at hw hl 3
  have f4 : fld word 22 10 = 64 := fld_at hw hl 4
  have n1 : fld word 17 15 ≠ 0 := fld_ne 22 10 0 5 10 f4 rfl (by decide) (by decide) (by decide)
  have row : decodeRow word = some (.maccRd e a b) := by
    rw [row53 (op_at hw hl)]
    simp [decodeOp53, n1, f1, f2, f3, f4]
  exact ⟨hw ▸ pack_lt _ hl, decode_of_row hwf row⟩

theorem maccWr (e : BitVec 5) (a : BitVec 5) : Statement (.maccWr e a) := by
  intro hwf word heq
  have hw : word = pack [(7, 0x53), (5, e.toNat), (5, a.toNat), (15, 4096)] := (Option.some.inj heq).symm
  have hl : Fits [(7, 0x53), (5, e.toNat), (5, a.toNat), (15, 4096)] := ⟨by decide, e.isLt, a.isLt, by decide, trivial⟩
  have f1 : fld word 7 5 = e.toNat := fld_at hw hl 1
  have f2 : fld word 12 5 = a.toNat := fld_at hw hl 2
  have f3 : fld word 17 15 = 4096 := fld_at hw hl 3
  have e1 : fld word 22 10 = 128 := fld_in f3 5 10 (by decide)
  have row : decodeRow word = some (.maccWr e a) := by
    rw [row53 (op_at hw hl)]
    simp [decodeOp53, e1, f1, f2, f3]
  exact ⟨hw ▸ pack_lt _ hl, decode_of_row hwf row⟩

theorem maccPin (a : BitVec 5) : Statement (.maccPin a) := by
  intro hwf word heq
  have hw : word = pack [(7, 0x53), (5, 0), (5, a.toNat), (15, 6144)] := (Option.some.inj heq).symm
  have hl : Fits [(7, 0x53), (5, 0), (5, a.toNat), (15, 6144)] := ⟨by decide, by decide, a.isLt, by decide, trivial⟩
  have f1 : fld word 7 5 = 0 := fld_at hw hl 1
  have f2 : fld word 12 5 = a.toNat := fld_at hw hl 2
  have f3 : fld word 17 15 = 6144 := fld_at hw hl 3
  have e1 : fld word 22 10 = 192 := fld_in f3 5 10 (by decide)
  have row : decodeRow word = some (.maccPin a) := by
    rw [row53 (op_at hw hl)]
    simp [decodeOp53, e1, f1, f2, f3]
  exact ⟨hw ▸ pack_lt _ hl, decode_of_row hwf row⟩

theorem maccUnpin (a : BitVec 5) : Statement (.maccUnpin a) := by
  intro hwf word heq
  have hw : word = pack [(7, 0x53), (5, 0), (5, a.toNat), (15, 8192)] := (Option.some.inj heq).symm
  have hl : Fits [(7, 0x53), (5, 0), (5, a.toNat), (15, 8192)] := ⟨by decide, by decide, a.isLt, by decide, trivial⟩
  have f1 : fld word 7 5 = 0 := fld_at hw hl 1
  have f2 : fld word 12 5 = a.toNat := fld_at hw hl 2
  have f3 : fld word 17 15 = 8192 := fld_at hw hl 3
  have e1 : fld word 22 10 = 256 := fld_in f3 5 10 (by decide)
  have row : decodeRow word = some (.maccUnpin a) := by
    rw [row53 (op_at hw hl)]
    simp [decodeOp53, e1, f1, f2, f3]
  exact ⟨hw ▸ pack_lt _ hl, decode_of_row hwf row⟩

theorem squant (e : BitVec 5) (a : BitVec 5) (b : BitVec 5) (k : BitVec 6) (r : BitVec 1) (t : BitVec 1) : Statement (.squant e a b k r t) := by
  intro hwf word heq
  have hw : word = pack [(7, 0x58), (5, e.toNat), (5, a.toNat), (5, b.toNat), (6, k.toNat), (1, r.toNat), (1, t.toNat), (2, 0)] := (Option.some.inj heq).symm
  have hl : Fits [(7, 0x58), (5, e.toNat), (5, a.toNat), (5, b.toNat), (6, k.toNat), (1, r.toNat), (1, t.toNat), (2, 0)] := ⟨by decide, e.isLt, a.isLt, b.isLt, k.isLt, r.isLt, t.isLt, by decide, trivial⟩
  have f1 : fld word 7 5 = e.toNat := fld_at hw hl 1
  have f2 : fld word 12 5 = a.toNat := fld_at hw hl 2
  have f3 : fld word 17 5 = b.toNat := fld_at hw hl 3
  have f4 : fld word 22 6 = k.toNat := fld_at hw hl 4
  have f5 : fld word 28 1 = r.toNat := fld_at hw hl 5
  have f6 : fld word 29 1 = t.toNat := fld_at hw hl 6
  have f7 : fld word 30 2 = 0 := fld_at hw hl 7
  have row : decodeRow word = some (.squant e a b k r t) := by
    rw [row58 (op_at hw hl)]
    simp [decodeOp58, f1, f2, f3, f4, f5, f6, f7]
  exact ⟨hw ▸ pack_lt _ hl, decode_of_row hwf row⟩

theorem sdeq (e : BitVec 5) (a : BitVec 5) (b : BitVec 5) (k : BitVec 6) : Statement (.sdeq e a b k) := by
  intro hwf word heq
  have hw : word = pack [(7, 0x59), (5, e.toNat), (5, a.toNat), (5, b.toNat), (6, k.toNat), (4, 0)] := (Option.some.inj heq).symm
  have hl : Fits [(7, 0x59), (5, e.toNat), (5, a.toNat), (5, b.toNat), (6, k.toNat), (4, 0)] := ⟨by decide, e.isLt, a.isLt, b.isLt, k.isLt, by decide, trivial⟩
  have f1 : fld word 7 5 = e.toNat := fld_at hw hl 1
  have f2 : fld word 12 5 = a.toNat := fld_at hw hl 2
  have f3 : fld word 17 5 = b.toNat := fld_at hw hl 3
  have f4 : fld word 22 6 = k.toNat := fld_at hw hl 4
  have f5 : fld word 28 4 = 0 := fld_at hw hl 5
  have row : decodeRow word = some (.sdeq e a b k) := by
    rw [row59 (op_at hw hl)]
    simp [decodeOp59, f1, f2, f3, f4, f5]
  exact ⟨hw ▸ pack_lt _ hl, decode_of_row hwf row⟩

theorem sexp (e : BitVec 5) (a : BitVec 5) (k : BitVec 6) : Statement (.sexp e a k) := by
  intro hwf word heq
  have hw : word = pack [(7, 0x5a), (5, e.toNat), (5, a.toNat), (5, 0), (6, k.toNat), (4, 0)] := (Option.some.inj heq).symm
  have hl : Fits [(7, 0x5a), (5, e.toNat), (5, a.toNat), (5, 0), (6, k.toNat), (4, 0)] := ⟨by decide, e.isLt, a.isLt, by decide, k.isLt, by decide, trivial⟩
  have f1 : fld word 7 5 = e.toNat := fld_at hw hl 1
  have f2 : fld word 12 5 = a.toNat := fld_at hw hl 2
  have f3 : fld word 17 5 = 0 := fld_at hw hl 3
  have f4 : fld word 22 6 = k.toNat := fld_at hw hl 4
  have f5 : fld word 28 4 = 0 := fld_at hw hl 5
  have row : decodeRow word = some (.sexp e a k) := by
    rw [row5a (op_at hw hl)]
    simp [decodeOp5a, f1, f2, f3, f4, f5]
  exact ⟨hw ▸ pack_lt _ hl, decode_of_row hwf row⟩

theorem strans (e : BitVec 5) (a : BitVec 5) (b : BitVec 5) (k : BitVec 6) : Statement (.strans e a b k) := by
  intro hwf word heq
  have hw : word = pack [(7, 0x5b), (5, e.toNat), (5, a.toNat), (5, b.toNat), (6, k.toNat), (4, 0)] := (Option.some.inj heq).symm
  have hl : Fits [(7, 0x5b), (5, e.toNat), (5, a.toNat), (5, b.toNat), (6, k.toNat), (4, 0)] := ⟨by decide, e.isLt, a.isLt, b.isLt, k.isLt, by decide, trivial⟩
  have f1 : fld word 7 5 = e.toNat := fld_at hw hl 1
  have f2 : fld word 12 5 = a.toNat := fld_at hw hl 2
  have f3 : fld word 17 5 = b.toNat := fld_at hw hl 3
  have f4 : fld word 22 6 = k.toNat := fld_at hw hl 4
  have f5 : fld word 28 4 = 0 := fld_at hw hl 5
  have row : decodeRow word = some (.strans e a b k) := by
    rw [row5b (op_at hw hl)]
    simp [decodeOp5b, f1, f2, f3, f4, f5]
  exact ⟨hw ▸ pack_lt _ hl, decode_of_row hwf row⟩

theorem stransRq (e : BitVec 5) (a : BitVec 5) (b : BitVec 5) (k : BitVec 6) : Statement (.stransRq e a b k) := by
  intro hwf word heq
  have hw : word = pack [(7, 0x5b), (5, e.toNat), (5, a.toNat), (5, b.toNat), (6, k.toNat), (4, 1)] := (Option.some.inj heq).symm
  have hl : Fits [(7, 0x5b), (5, e.toNat), (5, a.toNat), (5, b.toNat), (6, k.toNat), (4, 1)] := ⟨by decide, e.isLt, a.isLt, b.isLt, k.isLt, by decide, trivial⟩
  have f1 : fld word 7 5 = e.toNat := fld_at hw hl 1
  have f2 : fld word 12 5 = a.toNat := fld_at hw hl 2
  have f3 : fld word 17 5 = b.toNat := fld_at hw hl 3
  have f4 : fld word 22 6 = k.toNat := fld_at hw hl 4
  have f5 : fld word 28 4 = 1 := fld_at hw hl 5
  have row : decodeRow word = some (.stransRq e a b k) := by
    rw [row5b (op_at hw hl)]
    simp [decodeOp5b, f1, f2, f3, f4, f5]
  exact ⟨hw ▸ pack_lt _ hl, decode_of_row hwf row⟩

theorem scomp (e : BitVec 5) (a : BitVec 5) (k : BitVec 6) : Statement (.scomp e a k) := by
  intro hwf word heq
  have hw : word = pack [(7, 0x5c), (5, e.toNat), (5, a.toNat), (5, 0), (6, k.toNat), (4, 0)] := (Option.some.inj heq).symm
  have hl : Fits [(7, 0x5c), (5, e.toNat), (5, a.toNat), (5, 0), (6, k.toNat), (4, 0)] := ⟨by decide, e.isLt, a.isLt, by decide, k.isLt, by decide, trivial⟩
  have f1 : fld word 7 5 = e.toNat := fld_at hw hl 1
  have f2 : fld word 12 5 = a.toNat := fld_at hw hl 2
  have f3 : fld word 17 5 = 0 := fld_at hw hl 3
  have f4 : fld word 22 6 = k.toNat := fld_at hw hl 4
  have f5 : fld word 28 4 = 0 := fld_at hw hl 5
  have row : decodeRow word = some (.scomp e a k) := by
    rw [row5c (op_at hw hl)]
    simp [decodeOp5c, f1, f2, f3, f4, f5]
  exact ⟨hw ▸ pack_lt _ hl, decode_of_row hwf row⟩

theorem sblkExp (e : BitVec 5) (a : BitVec 5) (b : BitVec 5) (k : BitVec 6) : Statement (.sblkExp e a b k) := by
  intro hwf word heq
  have hw : word = pack [(7, 0x5d), (5, e.toNat), (5, a.toNat), (5, b.toNat), (6, k.toNat), (4, 0)] := (Option.some.inj heq).symm
  have hl : Fits [(7, 0x5d), (5, e.toNat), (5, a.toNat), (5, b.toNat), (6, k.toNat), (4, 0)] := ⟨by decide, e.isLt, a.isLt, b.isLt, k.isLt, by decide, trivial⟩
  have f1 : fld word 7 5 = e.toNat := fld_at hw hl 1
  have f2 : fld word 12 5 = a.toNat := fld_at hw hl 2
  have f3 : fld word 17 5 = b.toNat := fld_at hw hl 3
  have f4 : fld word 22 6 = k.toNat := fld_at hw hl 4
  have f5 : fld word 28 4 = 0 := fld_at hw hl 5
  have row : decodeRow word = some (.sblkExp e a b k) := by
    rw [row5d (op_at hw hl)]
    simp [decodeOp5d, f1, f2, f3, f4, f5]
  exact ⟨hw ▸ pack_lt _ hl, decode_of_row hwf row⟩

theorem sblkInt (e : BitVec 5) (a : BitVec 5) (b : BitVec 5) (k : BitVec 6) : Statement (.sblkInt e a b k) := by
  intro hwf word heq
  have hw : word = pack [(7, 0x5d), (5, e.toNat), (5, a.toNat), (5, b.toNat), (6, k.toNat), (4, 1)] := (Option.some.inj heq).symm
  have hl : Fits [(7, 0x5d), (5, e.toNat), (5, a.toNat), (5, b.toNat), (6, k.toNat), (4, 1)] := ⟨by decide, e.isLt, a.isLt, b.isLt, k.isLt, by decide, trivial⟩
  have f1 : fld word 7 5 = e.toNat := fld_at hw hl 1
  have f2 : fld word 12 5 = a.toNat := fld_at hw hl 2
  have f3 : fld word 17 5 = b.toNat := fld_at hw hl 3
  have f4 : fld word 22 6 = k.toNat := fld_at hw hl 4
  have f5 : fld word 28 4 = 1 := fld_at hw hl 5
  have row : decodeRow word = some (.sblkInt e a b k) := by
    rw [row5d (op_at hw hl)]
    simp [decodeOp5d, f1, f2, f3, f4, f5]
  exact ⟨hw ▸ pack_lt _ hl, decode_of_row hwf row⟩

theorem sblkFlt (e : BitVec 5) (a : BitVec 5) (b : BitVec 5) (k : BitVec 6) : Statement (.sblkFlt e a b k) := by
  intro hwf word heq
  have hw : word = pack [(7, 0x5d), (5, e.toNat), (5, a.toNat), (5, b.toNat), (6, k.toNat), (4, 2)] := (Option.some.inj heq).symm
  have hl : Fits [(7, 0x5d), (5, e.toNat), (5, a.toNat), (5, b.toNat), (6, k.toNat), (4, 2)] := ⟨by decide, e.isLt, a.isLt, b.isLt, k.isLt, by decide, trivial⟩
  have f1 : fld word 7 5 = e.toNat := fld_at hw hl 1
  have f2 : fld word 12 5 = a.toNat := fld_at hw hl 2
  have f3 : fld word 17 5 = b.toNat := fld_at hw hl 3
  have f4 : fld word 22 6 = k.toNat := fld_at hw hl 4
  have f5 : fld word 28 4 = 2 := fld_at hw hl 5
  have row : decodeRow word = some (.sblkFlt e a b k) := by
    rw [row5d (op_at hw hl)]
    simp [decodeOp5d, f1, f2, f3, f4, f5]
  exact ⟨hw ▸ pack_lt _ hl, decode_of_row hwf row⟩

theorem scvt (e : BitVec 5) (a : BitVec 5) (k : BitVec 6) (m : BitVec 2) (t : BitVec 1) : Statement (.scvt e a k m t) := by
  intro hwf word heq
  have hw : word = pack [(7, 0x5e), (5, e.toNat), (5, a.toNat), (5, 0), (6, k.toNat), (2, m.toNat), (1, t.toNat), (1, 0)] := (Option.some.inj heq).symm
  have hl : Fits [(7, 0x5e), (5, e.toNat), (5, a.toNat), (5, 0), (6, k.toNat), (2, m.toNat), (1, t.toNat), (1, 0)] := ⟨by decide, e.isLt, a.isLt, by decide, k.isLt, m.isLt, t.isLt, by decide, trivial⟩
  have f1 : fld word 7 5 = e.toNat := fld_at hw hl 1
  have f2 : fld word 12 5 = a.toNat := fld_at hw hl 2
  have f3 : fld word 17 5 = 0 := fld_at hw hl 3
  have f4 : fld word 22 6 = k.toNat := fld_at hw hl 4
  have f5 : fld word 28 2 = m.toNat := fld_at hw hl 5
  have f6 : fld word 30 1 = t.toNat := fld_at hw hl 6
  have f7 : fld word 31 1 = 0 := fld_at hw hl 7
  have row : decodeRow word = some (.scvt e a k m t) := by
    rw [row5e (op_at hw hl)]
    simp [decodeOp5e, f1, f2, f3, f4, f5, f6, f7]
  exact ⟨hw ▸ pack_lt _ hl, decode_of_row hwf row⟩

theorem stage (e : BitVec 5) (a : BitVec 5) (b : BitVec 5) (k : BitVec 6) : Statement (.stage e a b k) := by
  intro hwf word heq
  have hw : word = pack [(7, 0x60), (5, e.toNat), (5, a.toNat), (5, b.toNat), (6, k.toNat), (4, 0)] := (Option.some.inj heq).symm
  have hl : Fits [(7, 0x60), (5, e.toNat), (5, a.toNat), (5, b.toNat), (6, k.toNat), (4, 0)] := ⟨by decide, e.isLt, a.isLt, b.isLt, k.isLt, by decide, trivial⟩
  have f1 : fld word 7 5 = e.toNat := fld_at hw hl 1
  have f2 : fld word 12 5 = a.toNat := fld_at hw hl 2
  have f3 : fld word 17 5 = b.toNat := fld_at hw hl 3
  have f4 : fld word 22 6 = k.toNat := fld_at hw hl 4
  have f5 : fld word 28 4 = 0 := fld_at hw hl 5
  have row : decodeRow word = some (.stage e a b k) := by
    rw [row60 (op_at hw hl)]
    simp [decodeOp60, f1, f2, f3, f4, f5]
  exact ⟨hw ▸ pack_lt _ hl, decode_of_row hwf row⟩

theorem copy (e : BitVec 5) (a : BitVec 5) (k : BitVec 6) : Statement (.copy e a k) := by
  intro hwf word heq
  have hw : word = pack [(7, 0x61), (5, e.toNat), (5, a.toNat), (5, 0), (6, k.toNat), (4, 0)] := (Option.some.inj heq).symm
  have hl : Fits [(7, 0x61), (5, e.toNat), (5, a.toNat), (5, 0), (6, k.toNat), (4, 0)] := ⟨by decide, e.isLt, a.isLt, by decide, k.isLt, by decide, trivial⟩
  have f1 : fld word 7 5 = e.toNat := fld_at hw hl 1
  have f2 : fld word 12 5 = a.toNat := fld_at hw hl 2
  have f3 : fld word 17 5 = 0 := fld_at hw hl 3
  have f4 : fld word 22 6 = k.toNat := fld_at hw hl 4
  have f5 : fld word 28 4 = 0 := fld_at hw hl 5
  have row : decodeRow word = some (.copy e a k) := by
    rw [row61 (op_at hw hl)]
    simp [decodeOp61, f1, f2, f3, f4, f5]
  exact ⟨hw ▸ pack_lt _ hl, decode_of_row hwf row⟩

theorem hld (e : BitVec 5) (a : BitVec 5) (k : BitVec 6) : Statement (.hld e a k) := by
  intro hwf word heq
  have hw : word = pack [(7, 0x62), (5, e.toNat), (5, a.toNat), (5, 0), (6, k.toNat), (4, 0)] := (Option.some.inj heq).symm
  have hl : Fits [(7, 0x62), (5, e.toNat), (5, a.toNat), (5, 0), (6, k.toNat), (4, 0)] := ⟨by decide, e.isLt, a.isLt, by decide, k.isLt, by decide, trivial⟩
  have f1 : fld word 7 5 = e.toNat := fld_at hw hl 1
  have f2 : fld word 12 5 = a.toNat := fld_at hw hl 2
  have f3 : fld word 17 5 = 0 := fld_at hw hl 3
  have f4 : fld word 22 6 = k.toNat := fld_at hw hl 4
  have f5 : fld word 28 4 = 0 := fld_at hw hl 5
  have row : decodeRow word = some (.hld e a k) := by
    rw [row62 (op_at hw hl)]
    simp [decodeOp62, f1, f2, f3, f4, f5]
  exact ⟨hw ▸ pack_lt _ hl, decode_of_row hwf row⟩

theorem hst (e : BitVec 5) (a : BitVec 5) (k : BitVec 6) : Statement (.hst e a k) := by
  intro hwf word heq
  have hw : word = pack [(7, 0x63), (5, e.toNat), (5, a.toNat), (5, 0), (6, k.toNat), (4, 0)] := (Option.some.inj heq).symm
  have hl : Fits [(7, 0x63), (5, e.toNat), (5, a.toNat), (5, 0), (6, k.toNat), (4, 0)] := ⟨by decide, e.isLt, a.isLt, by decide, k.isLt, by decide, trivial⟩
  have f1 : fld word 7 5 = e.toNat := fld_at hw hl 1
  have f2 : fld word 12 5 = a.toNat := fld_at hw hl 2
  have f3 : fld word 17 5 = 0 := fld_at hw hl 3
  have f4 : fld word 22 6 = k.toNat := fld_at hw hl 4
  have f5 : fld word 28 4 = 0 := fld_at hw hl 5
  have row : decodeRow word = some (.hst e a k) := by
    rw [row63 (op_at hw hl)]
    simp [decodeOp63, f1, f2, f3, f4, f5]
  exact ⟨hw ▸ pack_lt _ hl, decode_of_row hwf row⟩

theorem hredAddS32 (e : BitVec 5) (a : BitVec 5) (k : BitVec 6) : Statement (.hredAddS32 e a k) := by
  intro hwf word heq
  have hw : word = pack [(7, 0x64), (5, e.toNat), (5, a.toNat), (5, 0), (6, k.toNat), (4, 0)] := (Option.some.inj heq).symm
  have hl : Fits [(7, 0x64), (5, e.toNat), (5, a.toNat), (5, 0), (6, k.toNat), (4, 0)] := ⟨by decide, e.isLt, a.isLt, by decide, k.isLt, by decide, trivial⟩
  have f1 : fld word 7 5 = e.toNat := fld_at hw hl 1
  have f2 : fld word 12 5 = a.toNat := fld_at hw hl 2
  have f3 : fld word 17 5 = 0 := fld_at hw hl 3
  have f4 : fld word 22 6 = k.toNat := fld_at hw hl 4
  have f5 : fld word 28 4 = 0 := fld_at hw hl 5
  have row : decodeRow word = some (.hredAddS32 e a k) := by
    rw [row64 (op_at hw hl)]
    simp [decodeOp64, f1, f2, f3, f4, f5]
  exact ⟨hw ▸ pack_lt _ hl, decode_of_row hwf row⟩

theorem hredAddS64 (e : BitVec 5) (a : BitVec 5) (k : BitVec 6) : Statement (.hredAddS64 e a k) := by
  intro hwf word heq
  have hw : word = pack [(7, 0x64), (5, e.toNat), (5, a.toNat), (5, 0), (6, k.toNat), (4, 1)] := (Option.some.inj heq).symm
  have hl : Fits [(7, 0x64), (5, e.toNat), (5, a.toNat), (5, 0), (6, k.toNat), (4, 1)] := ⟨by decide, e.isLt, a.isLt, by decide, k.isLt, by decide, trivial⟩
  have f1 : fld word 7 5 = e.toNat := fld_at hw hl 1
  have f2 : fld word 12 5 = a.toNat := fld_at hw hl 2
  have f3 : fld word 17 5 = 0 := fld_at hw hl 3
  have f4 : fld word 22 6 = k.toNat := fld_at hw hl 4
  have f5 : fld word 28 4 = 1 := fld_at hw hl 5
  have row : decodeRow word = some (.hredAddS64 e a k) := by
    rw [row64 (op_at hw hl)]
    simp [decodeOp64, f1, f2, f3, f4, f5]
  exact ⟨hw ▸ pack_lt _ hl, decode_of_row hwf row⟩

theorem hredMinS32 (e : BitVec 5) (a : BitVec 5) (k : BitVec 6) : Statement (.hredMinS32 e a k) := by
  intro hwf word heq
  have hw : word = pack [(7, 0x64), (5, e.toNat), (5, a.toNat), (5, 0), (6, k.toNat), (4, 2)] := (Option.some.inj heq).symm
  have hl : Fits [(7, 0x64), (5, e.toNat), (5, a.toNat), (5, 0), (6, k.toNat), (4, 2)] := ⟨by decide, e.isLt, a.isLt, by decide, k.isLt, by decide, trivial⟩
  have f1 : fld word 7 5 = e.toNat := fld_at hw hl 1
  have f2 : fld word 12 5 = a.toNat := fld_at hw hl 2
  have f3 : fld word 17 5 = 0 := fld_at hw hl 3
  have f4 : fld word 22 6 = k.toNat := fld_at hw hl 4
  have f5 : fld word 28 4 = 2 := fld_at hw hl 5
  have row : decodeRow word = some (.hredMinS32 e a k) := by
    rw [row64 (op_at hw hl)]
    simp [decodeOp64, f1, f2, f3, f4, f5]
  exact ⟨hw ▸ pack_lt _ hl, decode_of_row hwf row⟩

theorem hredMinS64 (e : BitVec 5) (a : BitVec 5) (k : BitVec 6) : Statement (.hredMinS64 e a k) := by
  intro hwf word heq
  have hw : word = pack [(7, 0x64), (5, e.toNat), (5, a.toNat), (5, 0), (6, k.toNat), (4, 3)] := (Option.some.inj heq).symm
  have hl : Fits [(7, 0x64), (5, e.toNat), (5, a.toNat), (5, 0), (6, k.toNat), (4, 3)] := ⟨by decide, e.isLt, a.isLt, by decide, k.isLt, by decide, trivial⟩
  have f1 : fld word 7 5 = e.toNat := fld_at hw hl 1
  have f2 : fld word 12 5 = a.toNat := fld_at hw hl 2
  have f3 : fld word 17 5 = 0 := fld_at hw hl 3
  have f4 : fld word 22 6 = k.toNat := fld_at hw hl 4
  have f5 : fld word 28 4 = 3 := fld_at hw hl 5
  have row : decodeRow word = some (.hredMinS64 e a k) := by
    rw [row64 (op_at hw hl)]
    simp [decodeOp64, f1, f2, f3, f4, f5]
  exact ⟨hw ▸ pack_lt _ hl, decode_of_row hwf row⟩

theorem hredMaxS32 (e : BitVec 5) (a : BitVec 5) (k : BitVec 6) : Statement (.hredMaxS32 e a k) := by
  intro hwf word heq
  have hw : word = pack [(7, 0x64), (5, e.toNat), (5, a.toNat), (5, 0), (6, k.toNat), (4, 4)] := (Option.some.inj heq).symm
  have hl : Fits [(7, 0x64), (5, e.toNat), (5, a.toNat), (5, 0), (6, k.toNat), (4, 4)] := ⟨by decide, e.isLt, a.isLt, by decide, k.isLt, by decide, trivial⟩
  have f1 : fld word 7 5 = e.toNat := fld_at hw hl 1
  have f2 : fld word 12 5 = a.toNat := fld_at hw hl 2
  have f3 : fld word 17 5 = 0 := fld_at hw hl 3
  have f4 : fld word 22 6 = k.toNat := fld_at hw hl 4
  have f5 : fld word 28 4 = 4 := fld_at hw hl 5
  have row : decodeRow word = some (.hredMaxS32 e a k) := by
    rw [row64 (op_at hw hl)]
    simp [decodeOp64, f1, f2, f3, f4, f5]
  exact ⟨hw ▸ pack_lt _ hl, decode_of_row hwf row⟩

theorem hredMaxS64 (e : BitVec 5) (a : BitVec 5) (k : BitVec 6) : Statement (.hredMaxS64 e a k) := by
  intro hwf word heq
  have hw : word = pack [(7, 0x64), (5, e.toNat), (5, a.toNat), (5, 0), (6, k.toNat), (4, 5)] := (Option.some.inj heq).symm
  have hl : Fits [(7, 0x64), (5, e.toNat), (5, a.toNat), (5, 0), (6, k.toNat), (4, 5)] := ⟨by decide, e.isLt, a.isLt, by decide, k.isLt, by decide, trivial⟩
  have f1 : fld word 7 5 = e.toNat := fld_at hw hl 1
  have f2 : fld word 12 5 = a.toNat := fld_at hw hl 2
  have f3 : fld word 17 5 = 0 := fld_at hw hl 3
  have f4 : fld word 22 6 = k.toNat := fld_at hw hl 4
  have f5 : fld word 28 4 = 5 := fld_at hw hl 5
  have row : decodeRow word = some (.hredMaxS64 e a k) := by
    rw [row64 (op_at hw hl)]
    simp [decodeOp64, f1, f2, f3, f4, f5]
  exact ⟨hw ▸ pack_lt _ hl, decode_of_row hwf row⟩

theorem hredAnd (e : BitVec 5) (a : BitVec 5) (k : BitVec 6) : Statement (.hredAnd e a k) := by
  intro hwf word heq
  have hw : word = pack [(7, 0x64), (5, e.toNat), (5, a.toNat), (5, 0), (6, k.toNat), (4, 6)] := (Option.some.inj heq).symm
  have hl : Fits [(7, 0x64), (5, e.toNat), (5, a.toNat), (5, 0), (6, k.toNat), (4, 6)] := ⟨by decide, e.isLt, a.isLt, by decide, k.isLt, by decide, trivial⟩
  have f1 : fld word 7 5 = e.toNat := fld_at hw hl 1
  have f2 : fld word 12 5 = a.toNat := fld_at hw hl 2
  have f3 : fld word 17 5 = 0 := fld_at hw hl 3
  have f4 : fld word 22 6 = k.toNat := fld_at hw hl 4
  have f5 : fld word 28 4 = 6 := fld_at hw hl 5
  have row : decodeRow word = some (.hredAnd e a k) := by
    rw [row64 (op_at hw hl)]
    simp [decodeOp64, f1, f2, f3, f4, f5]
  exact ⟨hw ▸ pack_lt _ hl, decode_of_row hwf row⟩

theorem hredOr (e : BitVec 5) (a : BitVec 5) (k : BitVec 6) : Statement (.hredOr e a k) := by
  intro hwf word heq
  have hw : word = pack [(7, 0x64), (5, e.toNat), (5, a.toNat), (5, 0), (6, k.toNat), (4, 7)] := (Option.some.inj heq).symm
  have hl : Fits [(7, 0x64), (5, e.toNat), (5, a.toNat), (5, 0), (6, k.toNat), (4, 7)] := ⟨by decide, e.isLt, a.isLt, by decide, k.isLt, by decide, trivial⟩
  have f1 : fld word 7 5 = e.toNat := fld_at hw hl 1
  have f2 : fld word 12 5 = a.toNat := fld_at hw hl 2
  have f3 : fld word 17 5 = 0 := fld_at hw hl 3
  have f4 : fld word 22 6 = k.toNat := fld_at hw hl 4
  have f5 : fld word 28 4 = 7 := fld_at hw hl 5
  have row : decodeRow word = some (.hredOr e a k) := by
    rw [row64 (op_at hw hl)]
    simp [decodeOp64, f1, f2, f3, f4, f5]
  exact ⟨hw ▸ pack_lt _ hl, decode_of_row hwf row⟩

theorem hredFaddF32 (e : BitVec 5) (a : BitVec 5) (k : BitVec 6) : Statement (.hredFaddF32 e a k) := by
  intro hwf word heq
  have hw : word = pack [(7, 0x64), (5, e.toNat), (5, a.toNat), (5, 0), (6, k.toNat), (4, 8)] := (Option.some.inj heq).symm
  have hl : Fits [(7, 0x64), (5, e.toNat), (5, a.toNat), (5, 0), (6, k.toNat), (4, 8)] := ⟨by decide, e.isLt, a.isLt, by decide, k.isLt, by decide, trivial⟩
  have f1 : fld word 7 5 = e.toNat := fld_at hw hl 1
  have f2 : fld word 12 5 = a.toNat := fld_at hw hl 2
  have f3 : fld word 17 5 = 0 := fld_at hw hl 3
  have f4 : fld word 22 6 = k.toNat := fld_at hw hl 4
  have f5 : fld word 28 4 = 8 := fld_at hw hl 5
  have row : decodeRow word = some (.hredFaddF32 e a k) := by
    rw [row64 (op_at hw hl)]
    simp [decodeOp64, f1, f2, f3, f4, f5]
  exact ⟨hw ▸ pack_lt _ hl, decode_of_row hwf row⟩

theorem hfence : Statement .hfence := by
  intro hwf word heq
  cases heq
  decide

theorem ffcfgKey (e : BitVec 5) (k : BitVec 6) : Statement (.ffcfgKey e k) := by
  intro hwf word heq
  have hw : word = pack [(7, 0x68), (5, e.toNat), (10, 0), (6, k.toNat), (4, 0)] := (Option.some.inj heq).symm
  have hl : Fits [(7, 0x68), (5, e.toNat), (10, 0), (6, k.toNat), (4, 0)] := ⟨by decide, e.isLt, by decide, k.isLt, by decide, trivial⟩
  have f1 : fld word 7 5 = e.toNat := fld_at hw hl 1
  have f2 : fld word 12 10 = 0 := fld_at hw hl 2
  have f3 : fld word 22 6 = k.toNat := fld_at hw hl 3
  have f4 : fld word 28 4 = 0 := fld_at hw hl 4
  have row : decodeRow word = some (.ffcfgKey e k) := by
    rw [row68 (op_at hw hl)]
    simp [decodeOp68, f1, f2, f3, f4]
  exact ⟨hw ▸ pack_lt _ hl, decode_of_row hwf row⟩

theorem ffcfgBeta (e : BitVec 5) (k : BitVec 6) : Statement (.ffcfgBeta e k) := by
  intro hwf word heq
  have hw : word = pack [(7, 0x68), (5, e.toNat), (10, 0), (6, k.toNat), (4, 1)] := (Option.some.inj heq).symm
  have hl : Fits [(7, 0x68), (5, e.toNat), (10, 0), (6, k.toNat), (4, 1)] := ⟨by decide, e.isLt, by decide, k.isLt, by decide, trivial⟩
  have f1 : fld word 7 5 = e.toNat := fld_at hw hl 1
  have f2 : fld word 12 10 = 0 := fld_at hw hl 2
  have f3 : fld word 22 6 = k.toNat := fld_at hw hl 3
  have f4 : fld word 28 4 = 1 := fld_at hw hl 4
  have row : decodeRow word = some (.ffcfgBeta e k) := by
    rw [row68 (op_at hw hl)]
    simp [decodeOp68, f1, f2, f3, f4]
  exact ⟨hw ▸ pack_lt _ hl, decode_of_row hwf row⟩

theorem ffcfgSigt (e : BitVec 5) (k : BitVec 6) : Statement (.ffcfgSigt e k) := by
  intro hwf word heq
  have hw : word = pack [(7, 0x68), (5, e.toNat), (10, 0), (6, k.toNat), (4, 2)] := (Option.some.inj heq).symm
  have hl : Fits [(7, 0x68), (5, e.toNat), (10, 0), (6, k.toNat), (4, 2)] := ⟨by decide, e.isLt, by decide, k.isLt, by decide, trivial⟩
  have f1 : fld word 7 5 = e.toNat := fld_at hw hl 1
  have f2 : fld word 12 10 = 0 := fld_at hw hl 2
  have f3 : fld word 22 6 = k.toNat := fld_at hw hl 3
  have f4 : fld word 28 4 = 2 := fld_at hw hl 4
  have row : decodeRow word = some (.ffcfgSigt e k) := by
    rw [row68 (op_at hw hl)]
    simp [decodeOp68, f1, f2, f3, f4]
  exact ⟨hw ▸ pack_lt _ hl, decode_of_row hwf row⟩

theorem ffcfgMode (e : BitVec 5) (k : BitVec 6) : Statement (.ffcfgMode e k) := by
  intro hwf word heq
  have hw : word = pack [(7, 0x68), (5, e.toNat), (10, 0), (6, k.toNat), (4, 3)] := (Option.some.inj heq).symm
  have hl : Fits [(7, 0x68), (5, e.toNat), (10, 0), (6, k.toNat), (4, 3)] := ⟨by decide, e.isLt, by decide, k.isLt, by decide, trivial⟩
  have f1 : fld word 7 5 = e.toNat := fld_at hw hl 1
  have f2 : fld word 12 10 = 0 := fld_at hw hl 2
  have f3 : fld word 22 6 = k.toNat := fld_at hw hl 3
  have f4 : fld word 28 4 = 3 := fld_at hw hl 4
  have row : decodeRow word = some (.ffcfgMode e k) := by
    rw [row68 (op_at hw hl)]
    simp [decodeOp68, f1, f2, f3, f4]
  exact ⟨hw ▸ pack_lt _ hl, decode_of_row hwf row⟩

theorem ffldEdge (e : BitVec 5) (a : BitVec 5) (k : BitVec 6) : Statement (.ffldEdge e a k) := by
  intro hwf word heq
  have hw : word = pack [(7, 0x69), (5, e.toNat), (5, a.toNat), (5, 0), (6, k.toNat), (4, 0)] := (Option.some.inj heq).symm
  have hl : Fits [(7, 0x69), (5, e.toNat), (5, a.toNat), (5, 0), (6, k.toNat), (4, 0)] := ⟨by decide, e.isLt, a.isLt, by decide, k.isLt, by decide, trivial⟩
  have f1 : fld word 7 5 = e.toNat := fld_at hw hl 1
  have f2 : fld word 12 5 = a.toNat := fld_at hw hl 2
  have f3 : fld word 17 5 = 0 := fld_at hw hl 3
  have f4 : fld word 22 6 = k.toNat := fld_at hw hl 4
  have f5 : fld word 28 4 = 0 := fld_at hw hl 5
  have row : decodeRow word = some (.ffldEdge e a k) := by
    rw [row69 (op_at hw hl)]
    simp [decodeOp69, f1, f2, f3, f4, f5]
  exact ⟨hw ▸ pack_lt _ hl, decode_of_row hwf row⟩

theorem ffldBias (e : BitVec 5) (a : BitVec 5) (k : BitVec 6) : Statement (.ffldBias e a k) := by
  intro hwf word heq
  have hw : word = pack [(7, 0x69), (5, e.toNat), (5, a.toNat), (5, 0), (6, k.toNat), (4, 1)] := (Option.some.inj heq).symm
  have hl : Fits [(7, 0x69), (5, e.toNat), (5, a.toNat), (5, 0), (6, k.toNat), (4, 1)] := ⟨by decide, e.isLt, a.isLt, by decide, k.isLt, by decide, trivial⟩
  have f1 : fld word 7 5 = e.toNat := fld_at hw hl 1
  have f2 : fld word 12 5 = a.toNat := fld_at hw hl 2
  have f3 : fld word 17 5 = 0 := fld_at hw hl 3
  have f4 : fld word 22 6 = k.toNat := fld_at hw hl 4
  have f5 : fld word 28 4 = 1 := fld_at hw hl 5
  have row : decodeRow word = some (.ffldBias e a k) := by
    rw [row69 (op_at hw hl)]
    simp [decodeOp69, f1, f2, f3, f4, f5]
  exact ⟨hw ▸ pack_lt _ hl, decode_of_row hwf row⟩

theorem ffldCol (e : BitVec 5) (a : BitVec 5) (k : BitVec 6) : Statement (.ffldCol e a k) := by
  intro hwf word heq
  have hw : word = pack [(7, 0x69), (5, e.toNat), (5, a.toNat), (5, 0), (6, k.toNat), (4, 2)] := (Option.some.inj heq).symm
  have hl : Fits [(7, 0x69), (5, e.toNat), (5, a.toNat), (5, 0), (6, k.toNat), (4, 2)] := ⟨by decide, e.isLt, a.isLt, by decide, k.isLt, by decide, trivial⟩
  have f1 : fld word 7 5 = e.toNat := fld_at hw hl 1
  have f2 : fld word 12 5 = a.toNat := fld_at hw hl 2
  have f3 : fld word 17 5 = 0 := fld_at hw hl 3
  have f4 : fld word 22 6 = k.toNat := fld_at hw hl 4
  have f5 : fld word 28 4 = 2 := fld_at hw hl 5
  have row : decodeRow word = some (.ffldCol e a k) := by
    rw [row69 (op_at hw hl)]
    simp [decodeOp69, f1, f2, f3, f4, f5]
  exact ⟨hw ▸ pack_lt _ hl, decode_of_row hwf row⟩

theorem ffldState (e : BitVec 5) (a : BitVec 5) (k : BitVec 6) : Statement (.ffldState e a k) := by
  intro hwf word heq
  have hw : word = pack [(7, 0x69), (5, e.toNat), (5, a.toNat), (5, 0), (6, k.toNat), (4, 3)] := (Option.some.inj heq).symm
  have hl : Fits [(7, 0x69), (5, e.toNat), (5, a.toNat), (5, 0), (6, k.toNat), (4, 3)] := ⟨by decide, e.isLt, a.isLt, by decide, k.isLt, by decide, trivial⟩
  have f1 : fld word 7 5 = e.toNat := fld_at hw hl 1
  have f2 : fld word 12 5 = a.toNat := fld_at hw hl 2
  have f3 : fld word 17 5 = 0 := fld_at hw hl 3
  have f4 : fld word 22 6 = k.toNat := fld_at hw hl 4
  have f5 : fld word 28 4 = 3 := fld_at hw hl 5
  have row : decodeRow word = some (.ffldState e a k) := by
    rw [row69 (op_at hw hl)]
    simp [decodeOp69, f1, f2, f3, f4, f5]
  exact ⟨hw ▸ pack_lt _ hl, decode_of_row hwf row⟩

theorem ffopSweep (a : BitVec 5) (k : BitVec 6) : Statement (.ffopSweep a k) := by
  intro hwf word heq
  have hw : word = pack [(7, 0x6a), (5, 0), (5, a.toNat), (5, 0), (6, k.toNat), (4, 0)] := (Option.some.inj heq).symm
  have hl : Fits [(7, 0x6a), (5, 0), (5, a.toNat), (5, 0), (6, k.toNat), (4, 0)] := ⟨by decide, by decide, a.isLt, by decide, k.isLt, by decide, trivial⟩
  have f1 : fld word 7 5 = 0 := fld_at hw hl 1
  have f2 : fld word 12 5 = a.toNat := fld_at hw hl 2
  have f3 : fld word 17 5 = 0 := fld_at hw hl 3
  have f4 : fld word 22 6 = k.toNat := fld_at hw hl 4
  have f5 : fld word 28 4 = 0 := fld_at hw hl 5
  have row : decodeRow word = some (.ffopSweep a k) := by
    rw [row6a (op_at hw hl)]
    simp [decodeOp6a, f1, f2, f3, f4, f5]
  exact ⟨hw ▸ pack_lt _ hl, decode_of_row hwf row⟩

theorem ffopClamp (e : BitVec 5) (k : BitVec 6) : Statement (.ffopClamp e k) := by
  intro hwf word heq
  have hw : word = pack [(7, 0x6a), (5, e.toNat), (10, 0), (6, k.toNat), (4, 1)] := (Option.some.inj heq).symm
  have hl : Fits [(7, 0x6a), (5, e.toNat), (10, 0), (6, k.toNat), (4, 1)] := ⟨by decide, e.isLt, by decide, k.isLt, by decide, trivial⟩
  have f1 : fld word 7 5 = e.toNat := fld_at hw hl 1
  have f2 : fld word 12 10 = 0 := fld_at hw hl 2
  have f3 : fld word 22 6 = k.toNat := fld_at hw hl 3
  have f4 : fld word 28 4 = 1 := fld_at hw hl 4
  have row : decodeRow word = some (.ffopClamp e k) := by
    rw [row6a (op_at hw hl)]
    simp [decodeOp6a, f1, f2, f3, f4]
  exact ⟨hw ▸ pack_lt _ hl, decode_of_row hwf row⟩

theorem ffopUnclamp (e : BitVec 5) (k : BitVec 6) : Statement (.ffopUnclamp e k) := by
  intro hwf word heq
  have hw : word = pack [(7, 0x6a), (5, e.toNat), (10, 0), (6, k.toNat), (4, 2)] := (Option.some.inj heq).symm
  have hl : Fits [(7, 0x6a), (5, e.toNat), (10, 0), (6, k.toNat), (4, 2)] := ⟨by decide, e.isLt, by decide, k.isLt, by decide, trivial⟩
  have f1 : fld word 7 5 = e.toNat := fld_at hw hl 1
  have f2 : fld word 12 10 = 0 := fld_at hw hl 2
  have f3 : fld word 22 6 = k.toNat := fld_at hw hl 3
  have f4 : fld word 28 4 = 2 := fld_at hw hl 4
  have row : decodeRow word = some (.ffopUnclamp e k) := by
    rw [row6a (op_at hw hl)]
    simp [decodeOp6a, f1, f2, f3, f4]
  exact ⟨hw ▸ pack_lt _ hl, decode_of_row hwf row⟩

theorem ffopCreset (k : BitVec 6) : Statement (.ffopCreset k) := by
  intro hwf word heq
  have hw : word = pack [(7, 0x6a), (15, 0), (6, k.toNat), (4, 3)] := (Option.some.inj heq).symm
  have hl : Fits [(7, 0x6a), (15, 0), (6, k.toNat), (4, 3)] := ⟨by decide, by decide, k.isLt, by decide, trivial⟩
  have f1 : fld word 7 15 = 0 := fld_at hw hl 1
  have f2 : fld word 22 6 = k.toNat := fld_at hw hl 2
  have f3 : fld word 28 4 = 3 := fld_at hw hl 3
  have row : decodeRow word = some (.ffopCreset k) := by
    rw [row6a (op_at hw hl)]
    simp [decodeOp6a, f1, f2, f3]
  exact ⟨hw ▸ pack_lt _ hl, decode_of_row hwf row⟩

theorem ffrdBits (e : BitVec 5) (a : BitVec 5) (k : BitVec 6) : Statement (.ffrdBits e a k) := by
  intro hwf word heq
  have hw : word = pack [(7, 0x6b), (5, e.toNat), (5, a.toNat), (5, 0), (6, k.toNat), (4, 0)] := (Option.some.inj heq).symm
  have hl : Fits [(7, 0x6b), (5, e.toNat), (5, a.toNat), (5, 0), (6, k.toNat), (4, 0)] := ⟨by decide, e.isLt, a.isLt, by decide, k.isLt, by decide, trivial⟩
  have f1 : fld word 7 5 = e.toNat := fld_at hw hl 1
  have f2 : fld word 12 5 = a.toNat := fld_at hw hl 2
  have f3 : fld word 17 5 = 0 := fld_at hw hl 3
  have f4 : fld word 22 6 = k.toNat := fld_at hw hl 4
  have f5 : fld word 28 4 = 0 := fld_at hw hl 5
  have row : decodeRow word = some (.ffrdBits e a k) := by
    rw [row6b (op_at hw hl)]
    simp [decodeOp6b, f1, f2, f3, f4, f5]
  exact ⟨hw ▸ pack_lt _ hl, decode_of_row hwf row⟩

theorem ffrdCnt (e : BitVec 5) (a : BitVec 5) (k : BitVec 6) : Statement (.ffrdCnt e a k) := by
  intro hwf word heq
  have hw : word = pack [(7, 0x6b), (5, e.toNat), (5, a.toNat), (5, 0), (6, k.toNat), (4, 1)] := (Option.some.inj heq).symm
  have hl : Fits [(7, 0x6b), (5, e.toNat), (5, a.toNat), (5, 0), (6, k.toNat), (4, 1)] := ⟨by decide, e.isLt, a.isLt, by decide, k.isLt, by decide, trivial⟩
  have f1 : fld word 7 5 = e.toNat := fld_at hw hl 1
  have f2 : fld word 12 5 = a.toNat := fld_at hw hl 2
  have f3 : fld word 17 5 = 0 := fld_at hw hl 3
  have f4 : fld word 22 6 = k.toNat := fld_at hw hl 4
  have f5 : fld word 28 4 = 1 := fld_at hw hl 5
  have row : decodeRow word = some (.ffrdCnt e a k) := by
    rw [row6b (op_at hw hl)]
    simp [decodeOp6b, f1, f2, f3, f4, f5]
  exact ⟨hw ▸ pack_lt _ hl, decode_of_row hwf row⟩

theorem cgrp (d : BitVec 5) (a : BitVec 5) : Statement (.cgrp d a) := by
  intro hwf word heq
  have hw : word = pack [(7, 0x6c), (5, d.toNat), (5, a.toNat), (15, 0)] := (Option.some.inj heq).symm
  have hl : Fits [(7, 0x6c), (5, d.toNat), (5, a.toNat), (15, 0)] := ⟨by decide, d.isLt, a.isLt, by decide, trivial⟩
  have f1 : fld word 7 5 = d.toNat := fld_at hw hl 1
  have f2 : fld word 12 5 = a.toNat := fld_at hw hl 2
  have f3 : fld word 17 15 = 0 := fld_at hw hl 3
  have row : decodeRow word = some (.cgrp d a) := by
    rw [row6c (op_at hw hl)]
    simp [decodeOp6c, f1, f2, f3]
  exact ⟨hw ▸ pack_lt _ hl, decode_of_row hwf row⟩

theorem crank (d : BitVec 5) (a : BitVec 5) : Statement (.crank d a) := by
  intro hwf word heq
  have hw : word = pack [(7, 0x6c), (5, d.toNat), (5, a.toNat), (15, 32)] := (Option.some.inj heq).symm
  have hl : Fits [(7, 0x6c), (5, d.toNat), (5, a.toNat), (15, 32)] := ⟨by decide, d.isLt, a.isLt, by decide, trivial⟩
  have f1 : fld word 7 5 = d.toNat := fld_at hw hl 1
  have f2 : fld word 12 5 = a.toNat := fld_at hw hl 2
  have f3 : fld word 17 15 = 32 := fld_at hw hl 3
  have row : decodeRow word = some (.crank d a) := by
    rw [row6c (op_at hw hl)]
    simp [decodeOp6c, f1, f2, f3]
  exact ⟨hw ▸ pack_lt _ hl, decode_of_row hwf row⟩

theorem cpart (d : BitVec 5) (a : BitVec 5) (b : BitVec 5) : Statement (.cpart d a b) := by
  intro hwf word heq
  have hw : word = pack [(7, 0x6c), (5, d.toNat), (5, a.toNat), (5, b.toNat), (10, 2)] := (Option.some.inj heq).symm
  have hl : Fits [(7, 0x6c), (5, d.toNat), (5, a.toNat), (5, b.toNat), (10, 2)] := ⟨by decide, d.isLt, a.isLt, b.isLt, by decide, trivial⟩
  have f1 : fld word 7 5 = d.toNat := fld_at hw hl 1
  have f2 : fld word 12 5 = a.toNat := fld_at hw hl 2
  have f3 : fld word 17 5 = b.toNat := fld_at hw hl 3
  have f4 : fld word 22 10 = 2 := fld_at hw hl 4
  have n1 : fld word 17 15 ≠ 0 := fld_ne 22 10 0 5 10 f4 rfl (by decide) (by decide) (by decide)
  have n2 : fld word 17 15 ≠ 32 := fld_ne 22 10 0 5 10 f4 rfl (by decide) (by decide) (by decide)
  have row : decodeRow word = some (.cpart d a b) := by
    rw [row6c (op_at hw hl)]
    simp [decodeOp6c, n1, n2, f1, f2, f3, f4]
  exact ⟨hw ▸ pack_lt _ hl, decode_of_row hwf row⟩

theorem croute (a : BitVec 5) (b : BitVec 5) : Statement (.croute a b) := by
  intro hwf word heq
  have hw : word = pack [(7, 0x6d), (5, 0), (5, a.toNat), (5, b.toNat), (10, 0)] := (Option.some.inj heq).symm
  have hl : Fits [(7, 0x6d), (5, 0), (5, a.toNat), (5, b.toNat), (10, 0)] := ⟨by decide, by decide, a.isLt, b.isLt, by decide, trivial⟩
  have f1 : fld word 7 5 = 0 := fld_at hw hl 1
  have f2 : fld word 12 5 = a.toNat := fld_at hw hl 2
  have f3 : fld word 17 5 = b.toNat := fld_at hw hl 3
  have f4 : fld word 22 10 = 0 := fld_at hw hl 4
  have row : decodeRow word = some (.croute a b) := by
    rw [row6d (op_at hw hl)]
    simp [decodeOp6d, f1, f2, f3, f4]
  exact ⟨hw ▸ pack_lt _ hl, decode_of_row hwf row⟩

theorem cmark (a : BitVec 5) : Statement (.cmark a) := by
  intro hwf word heq
  have hw : word = pack [(7, 0x6d), (5, 0), (5, a.toNat), (15, 32)] := (Option.some.inj heq).symm
  have hl : Fits [(7, 0x6d), (5, 0), (5, a.toNat), (15, 32)] := ⟨by decide, by decide, a.isLt, by decide, trivial⟩
  have f1 : fld word 7 5 = 0 := fld_at hw hl 1
  have f2 : fld word 12 5 = a.toNat := fld_at hw hl 2
  have f3 : fld word 17 15 = 32 := fld_at hw hl 3
  have e1 : fld word 22 10 = 1 := fld_in f3 5 10 (by decide)
  have row : decodeRow word = some (.cmark a) := by
    rw [row6d (op_at hw hl)]
    simp [decodeOp6d, e1, f1, f2, f3]
  exact ⟨hw ▸ pack_lt _ hl, decode_of_row hwf row⟩

theorem csend (e : BitVec 5) (a : BitVec 5) (b : BitVec 5) (k : BitVec 6) : Statement (.csend e a b k) := by
  intro hwf word heq
  have hw : word = pack [(7, 0x6e), (5, e.toNat), (5, a.toNat), (5, b.toNat), (6, k.toNat), (4, 0)] := (Option.some.inj heq).symm
  have hl : Fits [(7, 0x6e), (5, e.toNat), (5, a.toNat), (5, b.toNat), (6, k.toNat), (4, 0)] := ⟨by decide, e.isLt, a.isLt, b.isLt, k.isLt, by decide, trivial⟩
  have f1 : fld word 7 5 = e.toNat := fld_at hw hl 1
  have f2 : fld word 12 5 = a.toNat := fld_at hw hl 2
  have f3 : fld word 17 5 = b.toNat := fld_at hw hl 3
  have f4 : fld word 22 6 = k.toNat := fld_at hw hl 4
  have f5 : fld word 28 4 = 0 := fld_at hw hl 5
  have row : decodeRow word = some (.csend e a b k) := by
    rw [row6e (op_at hw hl)]
    simp [decodeOp6e, f1, f2, f3, f4, f5]
  exact ⟨hw ▸ pack_lt _ hl, decode_of_row hwf row⟩

theorem crecv (e : BitVec 5) (a : BitVec 5) (b : BitVec 5) (k : BitVec 6) : Statement (.crecv e a b k) := by
  intro hwf word heq
  have hw : word = pack [(7, 0x6e), (5, e.toNat), (5, a.toNat), (5, b.toNat), (6, k.toNat), (4, 1)] := (Option.some.inj heq).symm
  have hl : Fits [(7, 0x6e), (5, e.toNat), (5, a.toNat), (5, b.toNat), (6, k.toNat), (4, 1)] := ⟨by decide, e.isLt, a.isLt, b.isLt, k.isLt, by decide, trivial⟩
  have f1 : fld word 7 5 = e.toNat := fld_at hw hl 1
  have f2 : fld word 12 5 = a.toNat := fld_at hw hl 2
  have f3 : fld word 17 5 = b.toNat := fld_at hw hl 3
  have f4 : fld word 22 6 = k.toNat := fld_at hw hl 4
  have f5 : fld word 28 4 = 1 := fld_at hw hl 5
  have row : decodeRow word = some (.crecv e a b k) := by
    rw [row6e (op_at hw hl)]
    simp [decodeOp6e, f1, f2, f3, f4, f5]
  exact ⟨hw ▸ pack_lt _ hl, decode_of_row hwf row⟩

theorem crecvAdd (e : BitVec 5) (a : BitVec 5) (b : BitVec 5) (k : BitVec 6) : Statement (.crecvAdd e a b k) := by
  intro hwf word heq
  have hw : word = pack [(7, 0x6e), (5, e.toNat), (5, a.toNat), (5, b.toNat), (6, k.toNat), (4, 2)] := (Option.some.inj heq).symm
  have hl : Fits [(7, 0x6e), (5, e.toNat), (5, a.toNat), (5, b.toNat), (6, k.toNat), (4, 2)] := ⟨by decide, e.isLt, a.isLt, b.isLt, k.isLt, by decide, trivial⟩
  have f1 : fld word 7 5 = e.toNat := fld_at hw hl 1
  have f2 : fld word 12 5 = a.toNat := fld_at hw hl 2
  have f3 : fld word 17 5 = b.toNat := fld_at hw hl 3
  have f4 : fld word 22 6 = k.toNat := fld_at hw hl 4
  have f5 : fld word 28 4 = 2 := fld_at hw hl 5
  have row : decodeRow word = some (.crecvAdd e a b k) := by
    rw [row6e (op_at hw hl)]
    simp [decodeOp6e, f1, f2, f3, f4, f5]
  exact ⟨hw ▸ pack_lt _ hl, decode_of_row hwf row⟩

theorem crecvMax (e : BitVec 5) (a : BitVec 5) (b : BitVec 5) (k : BitVec 6) : Statement (.crecvMax e a b k) := by
  intro hwf word heq
  have hw : word = pack [(7, 0x6e), (5, e.toNat), (5, a.toNat), (5, b.toNat), (6, k.toNat), (4, 3)] := (Option.some.inj heq).symm
  have hl : Fits [(7, 0x6e), (5, e.toNat), (5, a.toNat), (5, b.toNat), (6, k.toNat), (4, 3)] := ⟨by decide, e.isLt, a.isLt, b.isLt, k.isLt, by decide, trivial⟩
  have f1 : fld word 7 5 = e.toNat := fld_at hw hl 1
  have f2 : fld word 12 5 = a.toNat := fld_at hw hl 2
  have f3 : fld word 17 5 = b.toNat := fld_at hw hl 3
  have f4 : fld word 22 6 = k.toNat := fld_at hw hl 4
  have f5 : fld word 28 4 = 3 := fld_at hw hl 5
  have row : decodeRow word = some (.crecvMax e a b k) := by
    rw [row6e (op_at hw hl)]
    simp [decodeOp6e, f1, f2, f3, f4, f5]
  exact ⟨hw ▸ pack_lt _ hl, decode_of_row hwf row⟩

theorem tlbw (a : BitVec 5) (b : BitVec 5) : Statement (.tlbw a b) := by
  intro hwf word heq
  have hw : word = pack [(7, 0x70), (5, 0), (5, a.toNat), (5, b.toNat), (10, 0)] := (Option.some.inj heq).symm
  have hl : Fits [(7, 0x70), (5, 0), (5, a.toNat), (5, b.toNat), (10, 0)] := ⟨by decide, by decide, a.isLt, b.isLt, by decide, trivial⟩
  have f1 : fld word 7 5 = 0 := fld_at hw hl 1
  have f2 : fld word 12 5 = a.toNat := fld_at hw hl 2
  have f3 : fld word 17 5 = b.toNat := fld_at hw hl 3
  have f4 : fld word 22 10 = 0 := fld_at hw hl 4
  have row : decodeRow word = some (.tlbw a b) := by
    rw [row70 (op_at hw hl)]
    simp [decodeOp70, f1, f2, f3, f4]
  exact ⟨hw ▸ pack_lt _ hl, decode_of_row hwf row⟩

theorem tlbinv (a : BitVec 5) : Statement (.tlbinv a) := by
  intro hwf word heq
  have hw : word = pack [(7, 0x70), (5, 0), (5, a.toNat), (15, 32)] := (Option.some.inj heq).symm
  have hl : Fits [(7, 0x70), (5, 0), (5, a.toNat), (15, 32)] := ⟨by decide, by decide, a.isLt, by decide, trivial⟩
  have f1 : fld word 7 5 = 0 := fld_at hw hl 1
  have f2 : fld word 12 5 = a.toNat := fld_at hw hl 2
  have f3 : fld word 17 15 = 32 := fld_at hw hl 3
  have e1 : fld word 22 10 = 1 := fld_in f3 5 10 (by decide)
  have row : decodeRow word = some (.tlbinv a) := by
    rw [row70 (op_at hw hl)]
    simp [decodeOp70, e1, f1, f2, f3]
  exact ⟨hw ▸ pack_lt _ hl, decode_of_row hwf row⟩

theorem tlbinvAll : Statement .tlbinvAll := by
  intro hwf word heq
  cases heq
  decide

theorem fqpop (d : BitVec 5) : Statement (.fqpop d) := by
  intro hwf word heq
  have hw : word = pack [(7, 0x71), (5, d.toNat), (20, 0)] := (Option.some.inj heq).symm
  have hl : Fits [(7, 0x71), (5, d.toNat), (20, 0)] := ⟨by decide, d.isLt, by decide, trivial⟩
  have f1 : fld word 7 5 = d.toNat := fld_at hw hl 1
  have f2 : fld word 12 20 = 0 := fld_at hw hl 2
  have row : decodeRow word = some (.fqpop d) := by
    rw [row71 (op_at hw hl)]
    simp [decodeOp71, f1, f2]
  exact ⟨hw ▸ pack_lt _ hl, decode_of_row hwf row⟩

theorem fqres (a : BitVec 5) : Statement (.fqres a) := by
  intro hwf word heq
  have hw : word = pack [(7, 0x71), (5, 0), (5, a.toNat), (15, 32)] := (Option.some.inj heq).symm
  have hl : Fits [(7, 0x71), (5, 0), (5, a.toNat), (15, 32)] := ⟨by decide, by decide, a.isLt, by decide, trivial⟩
  have f1 : fld word 7 5 = 0 := fld_at hw hl 1
  have f2 : fld word 12 5 = a.toNat := fld_at hw hl 2
  have f3 : fld word 17 15 = 32 := fld_at hw hl 3
  have n1 : fld word 12 20 ≠ 0 := fld_ne 17 15 0 5 15 f3 rfl (by decide) (by decide) (by decide)
  have row : decodeRow word = some (.fqres a) := by
    rw [row71 (op_at hw hl)]
    simp [decodeOp71, n1, f1, f2, f3]
  exact ⟨hw ▸ pack_lt _ hl, decode_of_row hwf row⟩

theorem ctxsv (a : BitVec 5) (b : BitVec 5) : Statement (.ctxsv a b) := by
  intro hwf word heq
  have hw : word = pack [(7, 0x72), (5, 0), (5, a.toNat), (5, b.toNat), (10, 0)] := (Option.some.inj heq).symm
  have hl : Fits [(7, 0x72), (5, 0), (5, a.toNat), (5, b.toNat), (10, 0)] := ⟨by decide, by decide, a.isLt, b.isLt, by decide, trivial⟩
  have f1 : fld word 7 5 = 0 := fld_at hw hl 1
  have f2 : fld word 12 5 = a.toNat := fld_at hw hl 2
  have f3 : fld word 17 5 = b.toNat := fld_at hw hl 3
  have f4 : fld word 22 10 = 0 := fld_at hw hl 4
  have row : decodeRow word = some (.ctxsv a b) := by
    rw [row72 (op_at hw hl)]
    simp [decodeOp72, f1, f2, f3, f4]
  exact ⟨hw ▸ pack_lt _ hl, decode_of_row hwf row⟩

theorem ctxld (a : BitVec 5) (b : BitVec 5) : Statement (.ctxld a b) := by
  intro hwf word heq
  have hw : word = pack [(7, 0x72), (5, 0), (5, a.toNat), (5, b.toNat), (10, 1)] := (Option.some.inj heq).symm
  have hl : Fits [(7, 0x72), (5, 0), (5, a.toNat), (5, b.toNat), (10, 1)] := ⟨by decide, by decide, a.isLt, b.isLt, by decide, trivial⟩
  have f1 : fld word 7 5 = 0 := fld_at hw hl 1
  have f2 : fld word 12 5 = a.toNat := fld_at hw hl 2
  have f3 : fld word 17 5 = b.toNat := fld_at hw hl 3
  have f4 : fld word 22 10 = 1 := fld_at hw hl 4
  have row : decodeRow word = some (.ctxld a b) := by
    rw [row72 (op_at hw hl)]
    simp [decodeOp72, f1, f2, f3, f4]
  exact ⟨hw ▸ pack_lt _ hl, decode_of_row hwf row⟩

theorem brk (i : BitVec 20) : Statement (.brk i) := by
  intro hwf word heq
  have hw : word = pack [(7, 0x7f), (5, 0), (20, i.toNat)] := (Option.some.inj heq).symm
  have hl : Fits [(7, 0x7f), (5, 0), (20, i.toNat)] := ⟨by decide, by decide, i.isLt, trivial⟩
  have f1 : fld word 7 5 = 0 := fld_at hw hl 1
  have f2 : fld word 12 20 = i.toNat := fld_at hw hl 2
  have row : decodeRow word = some (.brk i) := by
    rw [row7f (op_at hw hl)]
    simp [decodeOp7f, f1, f2]
  exact ⟨hw ▸ pack_lt _ hl, decode_of_row hwf row⟩

theorem ldfeWake (t w : Nat) : Statement (.ldfeWake t w) := fun _ _ h => nomatch h
theorem gldDataReturn (t a : Nat) : Statement (.gldDataReturn t a) := fun _ _ h => nomatch h
theorem semaphoreGrant (t k : Nat) : Statement (.semaphoreGrant t k) := fun _ _ h => nomatch h
theorem semptExpiry (t a : Nat) : Statement (.semptExpiry t a) := fun _ _ h => nomatch h
theorem streamElementRead (t a v : Nat) : Statement (.streamElementRead t a v) := fun _ _ h => nomatch h
theorem matrixEntryStart (t e : Nat) : Statement (.matrixEntryStart t e) := fun _ _ h => nomatch h
theorem matrixEntryComplete (t e : Nat) : Statement (.matrixEntryComplete t e) := fun _ _ h => nomatch h
theorem shapeOpStart (t : Nat) : Statement (.shapeOpStart t) := fun _ _ h => nomatch h
theorem shapeOpComplete (t : Nat) : Statement (.shapeOpComplete t) := fun _ _ h => nomatch h
theorem haulOpStart (t o : Nat) : Statement (.haulOpStart t o) := fun _ _ h => nomatch h
theorem haulChunk (t o : Nat) : Statement (.haulChunk t o) := fun _ _ h => nomatch h
theorem haulOpComplete (t o : Nat) : Statement (.haulOpComplete t o) := fun _ _ h => nomatch h
theorem haulOpReplay (t o : Nat) : Statement (.haulOpReplay t o) := fun _ _ h => nomatch h
theorem queueFullResume (t a : Nat) : Statement (.queueFullResume t a) := fun _ _ h => nomatch h
theorem fireflyCommandArrival (d : Nat) : Statement (.fireflyCommandArrival d) := fun _ _ h => nomatch h
theorem fireflyCommandStart (d : Nat) : Statement (.fireflyCommandStart d) := fun _ _ h => nomatch h
theorem fireflyCommandComplete (d : Nat) : Statement (.fireflyCommandComplete d) := fun _ _ h => nomatch h
theorem illegalInstruction (w : BitVec 32) : Statement (.illegalInstruction w) := fun _ _ h => nomatch h
theorem pcRangeTrap : Statement .pcRangeTrap := fun _ _ h => nomatch h
theorem strandChoice (t : Nat) : Statement (.strandChoice t) := fun _ _ h => nomatch h
theorem watchdogExpiry : Statement .watchdogExpiry := fun _ _ h => nomatch h
theorem deferredCause (who : Who) : Statement (.deferredCause who) := fun _ _ h => nomatch h
theorem windowRead (m addr len : Nat) : Statement (.windowRead m addr len) := fun _ _ h => nomatch h
theorem windowWrite (m addr : Nat) (bytes : List Byte) : Statement (.windowWrite m addr bytes) := fun _ _ h => nomatch h
theorem windowSemaphoreWrite (t k : Nat) (v : W) : Statement (.windowSemaphoreWrite t k v) := fun _ _ h => nomatch h
theorem fireflyContextBlockWrite (d off : Nat) (bytes : List Byte) : Statement (.fireflyContextBlockWrite d off bytes) := fun _ _ h => nomatch h
theorem tileCloseArrival (t : Nat) : Statement (.tileCloseArrival t) := fun _ _ h => nomatch h
theorem closeArrival (i : Nat) : Statement (.closeArrival i) := fun _ _ h => nomatch h
theorem sealArrival (i : Nat) : Statement (.sealArrival i) := fun _ _ h => nomatch h
theorem restoreDone (i : Nat) : Statement (.restoreDone i) := fun _ _ h => nomatch h
theorem launchJoin (i : Nat) : Statement (.launchJoin i) := fun _ _ h => nomatch h
theorem exchangeStartPacket (t : Nat) : Statement (.exchangeStartPacket t) := fun _ _ h => nomatch h
theorem exchangeStart (t : Nat) : Statement (.exchangeStart t) := fun _ _ h => nomatch h
theorem release (t : Nat) : Statement (.release t) := fun _ _ h => nomatch h
theorem startInstant (t : Nat) : Statement (.startInstant t) := fun _ _ h => nomatch h
theorem abort (t : Nat) : Statement (.abort t) := fun _ _ h => nomatch h
theorem rollbackWindowDone (t : Nat) : Statement (.rollbackWindowDone t) := fun _ _ h => nomatch h
theorem targetedSelfTestEnd (t : Nat) (pass scrub : Bool) : Statement (.targetedSelfTestEnd t pass scrub) := fun _ _ h => nomatch h
theorem stop (t : Nat) : Statement (.stop t) := fun _ _ h => nomatch h
theorem rootTimeout (r : Nat) : Statement (.rootTimeout r) := fun _ _ h => nomatch h
theorem shapingWindow (t : Nat) : Statement (.shapingWindow t) := fun _ _ h => nomatch h
theorem treeReconfigure (r : Nat) : Statement (.treeReconfigure r) := fun _ _ h => nomatch h
theorem sealArrivalSend (t : Nat) : Statement (.sealArrivalSend t) := fun _ _ h => nomatch h
theorem flitSend (t : Nat) : Statement (.flitSend t) := fun _ _ h => nomatch h
theorem flitArrival (i : Nat) : Statement (.flitArrival i) := fun _ _ h => nomatch h
theorem xrecvMissedFlit (t e : Nat) : Statement (.xrecvMissedFlit t e) := fun _ _ h => nomatch h
theorem exchangeEnd (t : Nat) : Statement (.exchangeEnd t) := fun _ _ h => nomatch h
theorem messageOffer (t e : Nat) : Statement (.messageOffer t e) := fun _ _ h => nomatch h
theorem collectiveSend (t e : Nat) : Statement (.collectiveSend t e) := fun _ _ h => nomatch h
theorem collectiveLanding (i : Nat) : Statement (.collectiveLanding i) := fun _ _ h => nomatch h
theorem collectiveReceiveTimeout (t e : Nat) : Statement (.collectiveReceiveTimeout t e) := fun _ _ h => nomatch h
theorem deltaArrival (t e : Nat) : Statement (.deltaArrival t e) := fun _ _ h => nomatch h
theorem faultRecordPost (d : Nat) : Statement (.faultRecordPost d) := fun _ _ h => nomatch h
theorem oclysDataFrame (d : PortId) (seq ack : BitVec 32) (good : Bool) (payload : List Byte) : Statement (.oclysDataFrame d seq ack good payload) := fun _ _ h => nomatch h
theorem oclysAckFrame (d : PortId) (ack : BitVec 32) : Statement (.oclysAckFrame d ack) := fun _ _ h => nomatch h
theorem oclysReplayRequest (d : PortId) (seq : BitVec 32) : Statement (.oclysReplayRequest d seq) := fun _ _ h => nomatch h
theorem oclysAckTimeout (d : PortId) : Statement (.oclysAckTimeout d) := fun _ _ h => nomatch h
theorem linkFailure (m : Nat) (port : Bool) (n : Nat) : Statement (.linkFailure m port n) := fun _ _ h => nomatch h
theorem linkTrained (d : PortId) : Statement (.linkTrained d) := fun _ _ h => nomatch h
theorem hostWrite (d : Nat) (onchip : Bool) (addr tag : Nat) (bytes : List Byte) : Statement (.hostWrite d onchip addr tag bytes) := fun _ _ h => nomatch h
theorem hostRead (d : Nat) (onchip : Bool) (addr len tag : Nat) : Statement (.hostRead d onchip addr len tag) := fun _ _ h => nomatch h
theorem hostLaunch (d queue addr tag : Nat) : Statement (.hostLaunch d queue addr tag) := fun _ _ h => nomatch h
theorem regionLaunch (m : Nat) : Statement (.regionLaunch m) := fun _ _ h => nomatch h
theorem launchTilesSet (m r : Nat) : Statement (.launchTilesSet m r) := fun _ _ h => nomatch h
theorem launchTimeout (m r : Nat) : Statement (.launchTimeout m r) := fun _ _ h => nomatch h
theorem rctlHold (d : Nat) (region : BitVec 20) : Statement (.rctlHold d region) := fun _ _ h => nomatch h
theorem rctlFree (d : Nat) (region : BitVec 20) : Statement (.rctlFree d region) := fun _ _ h => nomatch h
theorem rctlResume (d : Nat) (region : BitVec 20) : Statement (.rctlResume d region) := fun _ _ h => nomatch h
theorem rctlDiscard (d : Nat) (region : BitVec 20) : Statement (.rctlDiscard d region) := fun _ _ h => nomatch h
theorem physdRead (d : Nat) : Statement (.physdRead d) := fun _ _ h => nomatch h
theorem physdWrite (d : Nat) (v : W) : Statement (.physdWrite d v) := fun _ _ h => nomatch h
theorem fqbaseWrite (d : Nat) (v : W) : Statement (.fqbaseWrite d v) := fun _ _ h => nomatch h
theorem migrationStart (d : Nat) (v : W) : Statement (.migrationStart d v) := fun _ _ h => nomatch h
theorem migrationDone (d : Nat) : Statement (.migrationDone d) := fun _ _ h => nomatch h
theorem pprStart (d : Nat) (v : W) : Statement (.pprStart d v) := fun _ _ h => nomatch h
theorem pprDone (d : Nat) : Statement (.pprDone d) := fun _ _ h => nomatch h
theorem hbmerrRead (d : Nat) : Statement (.hbmerrRead d) := fun _ _ h => nomatch h
theorem qcrecRead (d : Nat) : Statement (.qcrecRead d) := fun _ _ h => nomatch h
theorem pslewWrite (d : Nat) (v : W) : Statement (.pslewWrite d v) := fun _ _ h => nomatch h
theorem pcapWrite (d : Nat) (v : W) : Statement (.pcapWrite d v) := fun _ _ h => nomatch h
theorem throtWrite (d : Nat) (v : W) : Statement (.throtWrite d v) := fun _ _ h => nomatch h
theorem spareControlWrite (d : Nat) (csr : BitVec 12) (v : W) : Statement (.spareControlWrite d csr v) := fun _ _ h => nomatch h
theorem attestationStart (d : Nat) (v : W) : Statement (.attestationStart d v) := fun _ _ h => nomatch h
theorem attestationDone (m : Nat) : Statement (.attestationDone m) := fun _ _ h => nomatch h
theorem powerCapInterval (m : Nat) (pwr : BitVec 16) (scale : Nat × Nat × Nat) (temps : List (Nat × Nat × Nat)) :
    Statement (.powerCapInterval m pwr scale temps) := fun _ _ h => nomatch h
theorem thermalTrip (m : Nat) : Statement (.thermalTrip m) := fun _ _ h => nomatch h
theorem powerOn (m : Nat) : Statement (.powerOn m) := fun _ _ h => nomatch h
theorem moduleReset (m : Nat) : Statement (.moduleReset m) := fun _ _ h => nomatch h
theorem secureBoot (m : Nat) : Statement (.secureBoot m) := fun _ _ h => nomatch h
theorem sbReadMstat (m : Nat) : Statement (.sbReadMstat m) := fun _ _ h => nomatch h
theorem sbReadPower (m : Nat) : Statement (.sbReadPower m) := fun _ _ h => nomatch h
theorem sbReadTemp (m : Nat) : Statement (.sbReadTemp m) := fun _ _ h => nomatch h
theorem sbWritePcap (m : Nat) (v : BitVec 16) : Statement (.sbWritePcap m v) := fun _ _ h => nomatch h
theorem sbReadBootstat (m : Nat) : Statement (.sbReadBootstat m) := fun _ _ h => nomatch h
theorem sbReset (m : Nat) (v : BitVec 8) : Statement (.sbReset m v) := fun _ _ h => nomatch h
theorem sbReadIdentity (m : Nat) : Statement (.sbReadIdentity m) := fun _ _ h => nomatch h
theorem sbUnknownCommand (m : Nat) (code : BitVec 8) : Statement (.sbUnknownCommand m code) := fun _ _ h => nomatch h
theorem joinTimeout (r : Nat) : Statement (.joinTimeout r) := fun _ _ h => nomatch h
theorem noiseSourceHealthTest (d : Nat) (ok : Bool) : Statement (.noiseSourceHealthTest d ok) := fun _ _ h => nomatch h
theorem ieee1588Sync (m : Nat) (ofs : BitVec 16) (adj : Option Int) : Statement (.ieee1588Sync m ofs adj) := fun _ _ h => nomatch h
theorem malformedOperation (d : PortId) (op tag : Nat) : Statement (.malformedOperation d op tag) := fun _ _ h => nomatch h
end Sys2Proof.Laws.RoundTrip
end

