-- ==== Sys2Proof/Laws/Records.lean ====
section
/-! SUPPORT. What the operations over records (R201) can do: how many bytes they read and how many elements they give. -/

namespace Sys2Proof.Machine

@[simp] theorem chunksNat_length (sz : Nat) : ∀ (n : Nat) (bs : List Byte), (chunksNat sz n bs).length = n
  | 0, _ => rfl
  | n + 1, bs => by rw [chunksNat, List.length_cons, chunksNat_length sz n]

/-- A read of some runs gives as many bytes as the runs are long. -/
theorem Tile.readRuns_length (tl : Tile) (l : List (Nat × Nat)) : (tl.readRuns l).length = (l.map Prod.snd).sum := by
  induction l with
  | nil => rfl
  | cons p t ih => rw [Tile.readRuns, List.flatMap_cons, List.length_append, Memory.bytes_length, List.map_cons, List.sum_cons, ← ih]; rfl

/-- Elements of whole bytes: as many as fit in the bytes read. -/
theorem Tile.recElems_length (tl : Tile) (r : Rec) (n : Nat) (h : elBits (recFormat r) ≠ 4) :
    (tl.recElems r n).length = n / (elBits (recFormat r) / 8) := by
  simp [Tile.recElems, h]

end Sys2Proof.Machine
end

