-- ==== Sys2Proof/Tests/Slice0.lean ====
section
/-! SUPPORT. Tests: words written out from the encoding tables, ill-formed terms that the check refuses, single steps on small
states with results from the rules, and states that meet the premises of the statements (`wit_…`). -/

namespace Sys2Proof.Tests

open Sys2Proof Sys2Proof.Machine

/-! ## Small states -/

/-- Agent `a` of tile 0 runs and has the turn; `f` sets its registers, `h` the rest of its tile. -/
def onT (a : Fin 10) (f : Agent → Agent) (h : Tile → Tile) : State :=
  { State.reset.setTile 0 (h (({ Tile.reset with node := .run } : Tile).setAgent a (f { Agent.reset with st := .run }))) with
    turn := .tile 0 a }

/-- Service core `c` of die 0 runs and has the turn. -/
def onD (c : Fin 2) (f : Agent → Agent) (h : Die → Die) : State :=
  { State.reset.setDie 0 (h (Die.reset.setSvc c { SvcCore.reset with agent := f { Agent.reset with st := .run } })) with
    turn := .svc 0 c }

/-- Strand 0 of tile 0 with registers 1, 2 and 3. -/
def regs (x1 x2 x3 : W) : State := onT 0 (fun g => ((g.wx 1 x1).wx 2 x2).wx 3 x3) id

theorem load_ok {s : State} {a : W} {n : Nat}
    (h : (decide (a.toNat % n = 0) && decide (a.toNat + n ≤ whoMem s.turn) &&
      (badHit 16 (s.memOf s.turn).2 a.toNat n).isNone && (s.myEntry MatEntry.isRd).isNone) = true) : s.canLoad a n := by
  simpa [State.canLoad, and_assoc] using h

theorem store_ok {s : State} {u : Nat} {b : Fin 10} {a : W} {n : Nat} (ht : s.turn = .tile u b)
    (h : (decide (a.toNat % n = 0) && decide (a.toNat + n ≤ whoMem s.turn) && (s.myEntry MatEntry.isRd).isNone &&
      (s.unread a.toNat n).isNone && !s.behindOwn [(a.toNat, n)] && (s.tile u).hasRoom (a.toNat / 64)) = true) : s.canStore a n := by
  simp only [Bool.and_eq_true, Bool.not_eq_true', decide_eq_true_eq, Option.isNone_iff_eq_none] at h
  obtain ⟨⟨⟨⟨⟨h1, h2⟩, h3⟩, h4⟩, h6⟩, h5⟩ := h
  refine ⟨h1, h2, h3, h4, h6, fun v c e => ?_⟩
  rw [ht] at e
  cases e
  exact h5

theorem strand_ok {s : State} {u : Nat} {b : Fin 10} (ht : s.turn = .tile u b) (hb : b.val < 8) (he : s.me.streams = []) :
    s.plainStrand := ⟨⟨u, b, ht, hb⟩, he⟩

/-! ## Decoding: words from the encoding tables and the worked examples of spec/ -/
/-- R123-R126: `mulh.s x9, x3, x4`; `srai x5, x6, 3`; `lih x5, 0x3F000`. -/
theorem test_decode_arithmetic :
    decode 0x02C83481 = some (.mulhS 9 3 4) ∧
    decode 0x01066286 = some (.srai 5 6 3) ∧
    decode 0x3F000287 = some (.lih 5 258048) := by decide

/-- R127, R128: `pcmpi.lt p2, x5, -1`; `pandn p1, p2, p3`. -/
theorem test_decode_predicates :
    decode 0xFFFCA90A = some (.pcmpi 2 2 5 16383) ∧
    decode 0x00680C8B = some (.pandn 1 2 3) := by decide

/-- R129-R132, R203: `ld.64 x8, -8(x2)`; `st.64 x8, 16(x2)`; `ldfe.c x4, 8(x10)`; `gld.64 x9, x20, x21`; `ldb.n16 x4, b3+x7`; `bld b3, 64(x5)`; `bst b3, 64(x5)`. -/
theorem test_decode_memory :
    decode 0xFFF02412 = some (.ld64 8 2 32760) ∧
    decode 0x00202416 = some (.st64 8 2 16) ∧
    decode 0x0006A217 = some (.ldfe 4 10 1 1) ∧
    decode 0x01AB4499 = some (.gld 9 20 21 6) ∧
    decode 0x018E321A = some (.ldb 4 3 7 3) ∧
    decode 0x008051A8 = some (.bld 3 5 2) ∧
    decode 0x008251A8 = some (.bst 3 5 2) := by decide

/-- R133-R135, R139: `ret`; `eret`; `trap x11`; `csrr x11, cause`; `csrw epc, x11`; `brk 5`; `br.n p3, +3`. -/
theorem test_decode_control :
    decode 0x00001022 = some (.jalr 0 1 0) ∧
    decode 0x01000023 = some .eret ∧
    decode 0x00C0B023 = some (.trap 11) ∧
    decode 0x000205A4 = some (.csrr 11 1) ∧
    decode 0x000405A5 = some (.csrw 11 2) ∧
    decode 0x0000507F = some (.brk 5) ∧
    decode 0x000035A0 = some (.br 3 1 0 3) := by decide

/-- R104: `semv sem12, x5`; `semp sem63`; `sempt x7, sem3, x9`. -/
theorem test_decode_semaphores :
    decode 0x03005027 = some (.semv 5 12) ∧
    decode 0x1FC00027 = some (.semp 63) ∧
    decode 0x20D203A7 = some (.sempt 7 9 3) := by decide

/-- R171, R174: `sync.c.add x5, x6, x7`; `sync.c.maxn x5, x10, x20`; `sync.a.or x0, x9, x0`; `ssq.num x4`; `ssq.try x8`; `ssq.rel x9`. -/
theorem test_decode_superstep :
    decode 0x000E62B0 = some (.sync 5 6 7 0 0) ∧
    decode 0x0328A2B0 = some (.sync 5 10 20 0 3) ∧
    decode 0x05409030 = some (.sync 0 9 0 1 5) ∧
    decode 0x00000231 = some (.ssqNum 4) ∧
    decode 0x00C00431 = some (.ssqTry 8) ∧
    decode 0x010004B1 = some (.ssqRel 9) := by decide

/-- R289-R301: `xsend b3, x5, x6`; `xrecv b4, x7, x8`; `send.q2 p1, x10, x11`; `send.q0.t p0, x10, x11`; `recv.any x5, x6`; `recv.q2 x7, x8`; `recv.q0.st p1, x5, x26`; `recv.q2.st p2, x5, x26`; `rspawn p1, x12, x13`. -/
theorem test_decode_exchange :
    decode 0x000C51B5 = some (.xsend 3 5 6) ∧
    decode 0x10107235 = some (.xrecv 4 7 8) ∧
    decode 0x0096A0B2 = some (.send 1 10 11 2 0) ∧
    decode 0x0116A032 = some (.send 0 10 11 0 1) ∧
    decode 0x010062B3 = some (.recvAny 5 6 0 0) ∧
    decode 0x008083B3 = some (.recv 7 8 2 0 0) ∧
    decode 0x0601A2B3 = some (.recv 5 26 0 1 1) ∧
    decode 0x0A81A2B3 = some (.recv 5 26 2 1 2) ∧
    decode 0x001AC0B4 = some (.rspawn 1 12 13) := by decide

/-- R140-R163: `vmul.bf16.rtz v5, v6, v7`; `vcvt.bf16.f32 v4, v9`; `vfma.f32 v0, v1, v2, v3`; `vfnma.bf16.rdn v8, v9, v10, v11`; `vadds.s16 v1, v2, v3`; `vcmp.lt.f32 v4, v1, v2`; `vld v2, 128(x6)`; `vst v2, -64(x2)`; `vgath.n32 v5, x10, v6`; `vred.fadd.f32 x5, v3`; `vmov.n32 x9, v4, 7`; `vrcp.f32.rtz v7, v8`; `vstream.in b2, v5, sem7`; `vstream.end v5`; `vbcast.f32 v1, x5`. -/
theorem test_decode_vectors :
    decode 0x148E62C0 = some (.vmulF 5 6 7 1 1) ∧
    decode 0x01C29240 = some (.vcvt 4 9 1 0 0) ∧
    decode 0x00C41042 = some (.vfma 0 1 2 3 0 0) ∧
    decode 0xBAD49442 = some (.vfnma 8 9 10 11 3 1) ∧
    decode 0x0B4620C1 = some (.vaddsS 1 2 3 1) ∧
    decode 0x50041243 = some (.vcmpF 4 1 2 0 2) ∧
    decode 0x00086144 = some (.vld 2 6 2) ∧
    decode 0xFFFE2144 = some (.vst 2 2 16383) ∧
    decode 0x018CA2C5 = some (.vgath 5 10 6 1) ∧
    decode 0x000032C6 = some (.vredFadd 5 3 0) ∧
    decode 0xC84E44C6 = some (.vmovToX 9 4 7 2) ∧
    decode 0x048083C7 = some (.vrcp 7 8 0 1) ∧
    decode 0x01C05148 = some (.vstreamIn 2 5 7) ∧
    decode 0x20005048 = some (.vstreamEnd 5) ∧
    decode 0x880050C6 = some (.vbcast 1 5 2) := by decide

/-- R272-R279: `mcfg x5, x6`; `mwld w3, b2`; `mmul.r acc0, b1, w3`; `mmul.c acc2, b1, w3`; `macc.z acc4`; `macc.rd b3, acc1, x9`; `macc.wr b3, acc1`; `macc.pin acc6`; `macc.unpin acc6`. -/
theorem test_decode_matrix :
    decode 0x000062D0 = some (.mcfg 5 6) ∧
    decode 0x00C00151 = some (.mwld 2 3) ∧
    decode 0x00C000D2 = some (.mmulR 1 0 3) ∧
    decode 0x10C020D2 = some (.mmulC 1 2 3) ∧
    decode 0x00004053 = some (.maccZ 4) ∧
    decode 0x101211D3 = some (.maccRd 3 1 9) ∧
    decode 0x200011D3 = some (.maccWr 3 1) ∧
    decode 0x30006053 = some (.maccPin 6) ∧
    decode 0x40006053 = some (.maccUnpin 6) := by decide

/-- R248-R259: `squant.sr b3, b2, x5, sem4`; `sdeq b2, b0, x5, sem2`; `sexp b1, b0, sem0`; `strans.rq b5, b4, x6, sem1`; `scomp b6, b5, sem3`; `sblk.int b2, b1, x7, sem0`; `scvt.rne b5, b4, sem4`; `scvt.rtz.sat b5, b4, sem4`. -/
theorem test_decode_shape :
    decode 0x110A21D8 = some (.squant 3 2 5 4 1 0) ∧
    decode 0x008A0159 = some (.sdeq 2 0 5 2) ∧
    decode 0x000000DA = some (.sexp 1 0 0) ∧
    decode 0x104C42DB = some (.stransRq 5 4 6 1) ∧
    decode 0x00C0535C = some (.scomp 6 5 3) ∧
    decode 0x100E115D = some (.sblkInt 2 1 7 0) ∧
    decode 0x010042DE = some (.scvt 5 4 4 0 0) ∧
    decode 0x510042DE = some (.scvt 5 4 4 1 1) := by decide

/-- R207-R220: `copy b4, b2, sem3`; `hld b1, x8, sem0`; `hst b6, x12, sem2`; `hred.fadd.f32 b5, x9, sem1`; `hfence`. -/
theorem test_decode_haul :
    decode 0x00C02261 = some (.copy 4 2 3) ∧
    decode 0x000080E2 = some (.hld 1 8 0) ∧
    decode 0x0080C363 = some (.hst 6 12 2) ∧
    decode 0x804092E4 = some (.hredFaddF32 5 9 1) ∧
    decode 0x00000065 = some .hfence := by decide

/-- R322-R328: `ffcfg.beta b2, sem5`; `ffld.edge b3, x10, sem1`; `ffop.sweep x6, sem2`; `ffop.unclamp b7, sem1`; `ffop.creset sem0`; `ffrd.cnt b4, x7, sem3`; `ffcfg.key b1, sem1`; `ffld.bias b5, x0, sem1`; `ffld.state b6, x0, sem1`; `ffop.clamp b7, sem1`; `ffrd.bits b8, x0, sem2`. -/
theorem test_decode_firefly :
    decode 0x11400168 = some (.ffcfgBeta 2 5) ∧
    decode 0x0040A1E9 = some (.ffldEdge 3 10 1) ∧
    decode 0x0080606A = some (.ffopSweep 6 2) ∧
    decode 0x204003EA = some (.ffopUnclamp 7 1) ∧
    decode 0x3000006A = some (.ffopCreset 0) ∧
    decode 0x10C0726B = some (.ffrdCnt 4 7 3) ∧
    decode 0x004000E8 = some (.ffcfgKey 1 1) ∧
    decode 0x104002E9 = some (.ffldBias 5 0 1) ∧
    decode 0x30400369 = some (.ffldState 6 0 1) ∧
    decode 0x104003EA = some (.ffopClamp 7 1) ∧
    decode 0x0080046B = some (.ffrdBits 8 0 2) := by decide

/-- R339-R350: `cgrp x20, x7`; `crank x21, x5`; `cpart x25, x21, x29`; `csend b1, x8, x25, sem3`; `crecv b2, x8, x25, sem4`; `crecv.add b2, x8, x25, sem4`; `crecv.max b2, x8, x25, sem4`; `croute x5, x6`; `cmark x5`. -/
theorem test_decode_collectives :
    decode 0x00007A6C = some (.cgrp 20 7) ∧
    decode 0x00405AEC = some (.crank 21 5) ∧
    decode 0x00BB5CEC = some (.cpart 25 21 29) ∧
    decode 0x00F280EE = some (.csend 1 8 25 3) ∧
    decode 0x1132816E = some (.crecv 2 8 25 4) ∧
    decode 0x2132816E = some (.crecvAdd 2 8 25 4) ∧
    decode 0x3132816E = some (.crecvMax 2 8 25 4) ∧
    decode 0x000C506D = some (.croute 5 6) ∧
    decode 0x0040506D = some (.cmark 5) := by decide

/-- R369-R378, R407: `tlbw x5, x6`; `tlbinv x5`; `tlbinv.all`; `fqpop x10`; `fqres x11`; `ctxsv x5, x6`; `ctxld x5, x6`. -/
theorem test_decode_service :
    decode 0x000C5070 = some (.tlbw 5 6) ∧
    decode 0x00405070 = some (.tlbinv 5) ∧
    decode 0x00800070 = some .tlbinvAll ∧
    decode 0x00000571 = some (.fqpop 10) ∧
    decode 0x0040B071 = some (.fqres 11) ∧
    decode 0x000C5072 = some (.ctxsv 5 6) ∧
    decode 0x004C5072 = some (.ctxld 5 6) := by decide

/-- R57-R60, R69: words written out field by field, format R, I, S, B, J, U, X. -/
theorem test_decode_fields :
    decode (0x01 + 31 * 2 ^ 7 + 30 * 2 ^ 12 + 29 * 2 ^ 17 + 0x01 * 2 ^ 22) = some (.sub 31 30 29) ∧
    decode (0x0D + 5 * 2 ^ 7 + 6 * 2 ^ 12 + 0x4001 * 2 ^ 17) = some (.ldN8 5 6 0x4001) ∧
    decode (0x21 + 1 * 2 ^ 7 + 0x80001 * 2 ^ 12) = some (.jal 1 0x80001) ∧
    decode (0x08 + 9 * 2 ^ 7 + 0xFFFFF * 2 ^ 12) = some (.addpc 9 0xFFFFF) ∧
    decode (0x23 + 8 * 2 ^ 22) = some .fence ∧ decode (0x23 + 1 * 2 ^ 22) = some .yield := by decide

/-- R60, R69, R78: a reserved function, a non-zero field marked 0, an unassigned opcode, a word of zeros are no instructions. -/
theorem test_decode_refuses :
    decode (0x01 + 0x19 * 2 ^ 22) = none ∧ decode (0x01 + 0x15 * 2 ^ 22 + 1 * 2 ^ 17) = none ∧ decode 0x3F = none ∧ decode 0 = none ∧
    decode 0xFFFFFFFF = none ∧ decode (0x53 + 16 * 2 ^ 12) = none ∧ decode (0x52 + 1 * 2 ^ 12) = none := by decide

/-- The reading of a table word lays its bytes out as the hardware stores them. -/
theorem test_decode_table_word : decodeTableWord 32 0x02C83481 = some (.mulhS 9 3 4) ∧ decodeTableWord 32 0 = none := by decide

/-! ## Well-formedness: one ill-formed term for each check -/

/-- R58, R73: a record register above 15, an odd accumulator pair, an accumulator above 15. -/
theorem test_wf_registers :
    (Instr.bld 16 0 0).wf = false ∧ (Instr.mmulR 0 1 0).wf = false ∧ (Instr.mmulR 0 16 0).wf = false ∧ (Instr.maccZ 16).wf = false ∧
    (Instr.mmulR 15 14 0).wf = true := by decide

/-- R58, R72, R148, R150, R152: conditions, float types, element widths and lane literals that do not exist. -/
theorem test_wf_codes :
    (Instr.pcmp 1 6 0 0).wf = false ∧ (Instr.vcmpF 0 0 0 0 4).wf = false ∧ (Instr.vaddF 0 0 0 3 0).wf = false ∧
    (Instr.vlds 0 0 0 3).wf = false ∧ (Instr.vmovToX 0 0 0 0).wf = false ∧ (Instr.vmovToX 0 0 16 2).wf = false ∧
    (Instr.vmovToX 0 0 15 2).wf = true ∧ (Instr.vcvt 0 0 3 0 0).wf = false := by decide

/-- R131, R132, R136, R171, R300: type codes, priorities, votes, operators and predicates that do not exist. -/
theorem test_wf_fields :
    (Instr.gld 0 0 0 7).wf = false ∧ (Instr.ldb 0 0 0 7).wf = false ∧ (Instr.stb 0 0 0 4).wf = false ∧
    (Instr.spawn 0 0 1 1).wf = false ∧ (Instr.sync 0 0 0 2 0).wf = false ∧ (Instr.sync 0 0 0 0 7).wf = false ∧
    (Instr.recv 0 0 0 0 1).wf = false ∧ (Instr.recvAny 0 0 0 1).wf = false := by decide

/-- The encoder writes the word of a worked example back. -/
theorem test_encode : encode (.mulhS 9 3 4) = some 0x02C83481 ∧ encode (.recv 5 26 2 1 2) = some 0x0A81A2B3 := by decide

/-! ## Single steps: results from the rules -/

/-- R123: `add` wraps to 64 bits; R124: the immediate is sign-extended. -/
theorem test_add_wraps : (match exec (.add 4 1 2) (regs (BitVec.allOnes 64) 2 0) with | .next t => some (t.rx 4, t.me.pc) | _ => none) = some (1, 4) := by
  decide

/-- R123: the worked product of `mulh.s` with both operands -2^32 is 1. -/
theorem test_mulh : (match exec (.mulhS 9 1 2) (regs (-0x100000000) (-0x100000000) 0) with | .next t => some (t.rx 9) | _ => none) = some 1 := by
  decide

/-- R123: -7 by 2 is -3 with remainder -1; by zero it is -1 with remainder -7. -/
theorem test_division :
    (match exec (.divS 4 1 2) (regs (-7) 2 0) with | .next t => some (t.rx 4) | _ => none) = some (-3) ∧
    (match exec (.remS 4 1 2) (regs (-7) 2 0) with | .next t => some (t.rx 4) | _ => none) = some (-1) ∧
    (match exec (.divS 4 1 3) (regs (-7) 2 0) with | .next t => some (t.rx 4) | _ => none) = some (-1) ∧
    (match exec (.remS 4 1 3) (regs (-7) 2 0) with | .next t => some (t.rx 4) | _ => none) = some (-7) := by
  decide

/-- R129, R6: a store of 8 bytes at the top of tile memory reads back little-endian, with its sign extended; one past the top raises
cause 0x04. -/
theorem test_store_load :
    (match exec (.st64 2 1 0) (regs 0x1EFFF8 0x80 0) with
     | .next t => (match exec (.ldS8 5 1 0) t with | .next v => some (v.rx 5) | _ => none)
     | _ => none) = some 0xFFFFFFFFFFFFFF80 ∧
    (match exec (.st64 2 1 0) (onT 0 (fun g => { (g.wx 1 0x1F0000) with tvec := 0x40 }) id) with
     | .next t => some (t.me.causeCode.toNat, t.me.faddr, t.me.pc)
     | _ => none) = some (4, 0x1F0000, 0x40) := by
  decide

/-- R117, R119: `trap` saves the cause, its PC and `X[a]`, and goes to `TVEC`; without a handler the agent halts. -/
theorem test_trap_entry :
    (match exec (.trap 1) (onT 0 (fun g => { (g.wx 1 7) with tvec := 0x80, pc := 0x10 }) id) with
     | .next t => some (t.me.causeCode.toNat, t.me.causeInh, t.me.epc, t.me.faddr, t.me.pc)
     | _ => none) = some (0x11, true, 0x10, 7, 0x80) ∧
    (match exec (.trap 1) (regs 7 0 0) with | .next t => some (t.me.st, t.me.escalated) | _ => none) = some (.halt, some 0x11) := by
  decide

/-- R104: `semv` past 65,535 raises cause 0x17 with the semaphore's number and leaves the count. -/
theorem test_semv_overflow :
    (match exec (.semv 0 5) (onT 0 (fun g => { g with tvec := 0x80 }) (fun tl => tl.setSem 5 65535)) with
     | .next t => some (t.me.causeCode.toNat, t.me.faddr, (t.tile 0).sem 5)
     | _ => none) = some (0x17, 5, 65535) := by decide

/-- R61: from reset with a word placed, one step fetches it, decodes it and executes it: `addi x5, x0, 7` and a word of zeros. -/
theorem test_step_runs :
    (match step (State.reset.withFetchWord 32 (0x02 + 5 * 2 ^ 7 + 7 * 2 ^ 17)) with | .next t => some (t.rx 5, t.me.pc) | _ => none) =
      some (7, 4) ∧
    (match step (State.reset.withFetchWord 32 0) with | .next t => some t.me.escalated | _ => none) = some (some 1) := by decide

/-- R61: so for a word of either hart and of a service core, on the agent that executes it: `hfence`, `squant` of empty records, `tlbinv.all`. -/
theorem test_step_runs_elsewhere :
    (match step (State.reset.withFetchWord 32 0x65) with | .next t => some (t.turn, t.me.pc) | _ => none) = some (.tile 0 8, 4) ∧
    (match step (State.reset.withFetchWord 32 0x58) with | .next t => some (t.turn, t.me.escalated) | _ => none) = some (.tile 0 9, some 0x0D) ∧
    (match step (State.reset.withFetchWord 32 0x00800070) with | .next t => some (t.turn, t.me.pc) | _ => none) = some (.svc 0 0, 4) := by decide

/-! ## Witnesses: registers, arithmetic, control -/

theorem wit_RegistersAndMemoryReadBack :
    (3 : BitVec 5) ≠ 0 ∧ (4 : BitVec 5) ≠ 3 ∧ (1 : BitVec 3) ≠ 0 ∧ (2 : BitVec 3) ≠ 1 ∧ Memory.empty.wf = true ∧ 300 < 256 ^ 2 ∧
      ((0 : Nat) < 4 ∨ 4 + 2 ≤ 0) ∧ ((4 : Nat) ≤ 5 ∧ 5 < 4 + 2) := by decide

/-- The corners of division, and the ranges of the reserved encodings, at their ends. -/
theorem wit_ScalarArithmetic :
    (let s := regs 5 0 3; s.rx 2 = 0) ∧ (let s := regs (BitVec.intMin 64) (-1) 0; s.rx 1 = BitVec.intMin 64 ∧ s.rx 2 = -1) ∧
      (let s := regs 5 3 0; s.rx 2 ≠ 0) ∧ (1 : BitVec 5) ≠ 0 ∧ (0x19 ≤ 0x19 ∧ 0x19 < 1024) ∧ (0x19 ≤ 1023 ∧ 1023 < 1024) ∧
      (1 ≤ 1 ∧ 1 < 128) ∧ (1 ≤ 127 ∧ 127 < 128) ∧ ((0 : Nat) < 64 ∧ ¬(64 < 64)) := by decide

theorem wit_PredicateResults :
    (5 : BitVec 3).toNat < 6 ∧ 6 ≤ (6 : BitVec 3).toNat ∧ 6 ≤ (7 : BitVec 3).toNat ∧ (1 ≤ 511 ∧ 511 < 512) ∧
      (7 < 8 ∧ 31 < 32 ∧ 255 < 256) ∧ ((0 : Nat) = 0 ∧ 5 < 6) ∧ ((1 : Nat) ≠ 0 ∨ (0 : Nat) ≠ 0 ∨ 6 ≤ 5) := by decide

/-- A branch taken and one not taken; targets inside the memory at its top, misaligned, past it. -/
theorem wit_BranchesAndJumps :
    (let s := regs 8 0 0
     s.rp 0 = decide ((1 : BitVec 1) = 1) ∧ s.rp 0 ≠ decide ((0 : BitVec 1) = 1) ∧
       (let t := s.me.pc + (1 : BitVec 20).signExtend 64 * 4#64; t.toNat % 4 = 0 ∧ t.toNat < whoMem s.turn) ∧
       (let t := s.rx 1 + (4 : BitVec 15).signExtend 64; t.toNat % 4 = 0 ∧ t.toNat < whoMem s.turn) ∧
       (let t := s.rx 1 + (2 : BitVec 15).signExtend 64; t.toNat % 4 ≠ 0)) ∧
    (let s := onT 0 (fun g => { (g.wx 1 0x1F0000) with pc := 0x1EFFFC }) id
     (let t := s.me.pc + (0 : BitVec 20).signExtend 64 * 4#64; t.toNat % 4 = 0 ∧ t.toNat < whoMem s.turn) ∧
       (let t := s.me.pc + (1 : BitVec 20).signExtend 64 * 4#64; t.toNat % 4 = 0 ∧ whoMem s.turn ≤ t.toNat) ∧
       (let t := s.rx 1 + (0 : BitVec 15).signExtend 64; t.toNat % 4 = 0 ∧ whoMem s.turn ≤ t.toNat)) ∧
    (let s := onT 0 (fun g => { g with pc := 2 }) id
     let t := s.me.pc + (1 : BitVec 20).signExtend 64 * 4#64; t.toNat % 4 ≠ 0) := by decide

theorem wit_TrapEntry :
    255 < 256 ∧
    (let g : Agent := { Agent.reset with tvec := 0x1EFFFC }
     g.causeInh = false ∧ g.tvec ≠ 0 ∧ g.tvec.toNat % 4 = 0 ∧ g.tvec.toNat < 0x1F0000) ∧
    (let g : Agent := { Agent.reset with tvec := 0x1F0000 }
     g.causeInh = true ∨ g.tvec = 0 ∨ g.tvec.toNat % 4 ≠ 0 ∨ 0x1F0000 ≤ g.tvec.toNat) := by decide

theorem wit_SystemComplete :
    (let s := onT 0 (fun g => { g with epc := 0x1EFFFC }) id; s.me.epc.toNat % 4 = 0 ∧ s.me.epc.toNat < whoMem s.turn) ∧
    (let s := onT 0 (fun g => { g with epc := 2 }) id; s.me.epc.toNat % 4 ≠ 0) ∧
    (let s := onD 0 (fun g => { g with epc := 0x80000 }) id; s.me.epc.toNat % 4 = 0 ∧ whoMem s.turn ≤ s.me.epc.toNat) := by decide

/-! ## Witnesses: memory -/

/-- Accesses of every size at the top of tile memory. -/
theorem wit_LoadsAndStores :
    let s := regs 0x1EFFF8 0 0
    let A : W := s.rx 1 + (0 : BitVec 15).signExtend 64
    s.canLoad A 1 ∧ s.canLoad A 2 ∧ s.canLoad A 4 ∧ s.canLoad A 8 ∧ s.canStore A 1 ∧ s.canStore A 2 ∧ s.canStore A 4 ∧ s.canStore A 8 :=
  ⟨load_ok (by decide), load_ok (by decide), load_ok (by decide), load_ok (by decide), store_ok rfl (by decide), store_ok rfl (by decide),
    store_ok rfl (by decide), store_ok rfl (by decide)⟩

theorem wit_BadAddressesTrap :
    (let A : W := (regs 1 0 0).rx 1 + (0 : BitVec 15).signExtend 64; A.toNat % 2 ≠ 0 ∧ A.toNat % 4 ≠ 0 ∧ A.toNat % 8 ≠ 0) ∧
    (let s := regs 0x1F0000 0 0
     let A : W := s.rx 1 + (0 : BitVec 15).signExtend 64
     whoMem s.turn < A.toNat + 1 ∧ A.toNat % 8 = 0 ∧ whoMem s.turn < A.toNat + 8 ∧ A.toNat % 4 = 0 ∧ whoMem s.turn < A.toNat + 4 ∧
       A.toNat % 2 = 0 ∧ whoMem s.turn < A.toNat + 2) := by decide

/-- A full and an empty bank word, a strand that waits for a word that is full. -/
theorem wit_FullEmpty :
    let s := onT 0 (fun g => g.wx 1 16) (fun tl => tl.setFe 1 true)
    let A : W := s.rx 1 + (0 : BitVec 14).signExtend 64 * 8#64
    let B : W := s.rx 1 + (2 : BitVec 14).signExtend 64 * 8#64
    (s.turn = .tile 0 0 ∧ s.canLoad A 8 ∧ A.toNat / 16 ∈ (s.tile 0).cur.fe) ∧
    (s.canLoad B 8 ∧ B.toNat / 16 ∉ (s.tile 0).cur.fe) ∧ (s.canStore A 8 ∧ s.drained) :=
  ⟨⟨rfl, load_ok (by decide), by decide⟩, ⟨load_ok (by decide), by decide⟩, store_ok rfl (by decide), by decide, by decide⟩

theorem wit_LdfeWake :
    let s := onT 1 (fun g => { g with st := .wait (.ldfe 4 16 true) }) (fun tl => tl.setFe 1 true)
    s.turn = .tile 0 1 ∧ (s.agentOf (.tile 0 1)).st = .wait (.ldfe 4 16 true) ∧ 16 / 16 = 1 ∧ (s.tile 0).node = .run ∧
      1 ∈ (s.tile 0).cur.fe ∧ (∀ x : Fin 10, x ≠ 1 → (s.tile 0).ldfeWaiter 1 x = none) ∧ (s.tile 0).badAt 16 8 = none ∧
      (s.tile 0).badAt (16 * 1) 16 = none := by decide

/-- Strands 1 and 2 wait with `ldfe.c`, strand 3 with a plain `ldfe`, on a full bank word. -/
theorem wit_LdfeWakeSeveral :
    let wait (e : Bool) : Agent := { Agent.reset with st := .wait (.ldfe 4 16 e) }
    let s := onT 1 (fun _ => wait true) fun tl => ((tl.setFe 1 true).setAgent 2 (wait true)).setAgent 3 (wait false)
    (s.tile 0).node = .run ∧ 1 ∈ (s.tile 0).cur.fe ∧ (s.tile 0).badAt (16 * 1) 16 = none ∧ (s.tile 0).badAt 16 8 = none ∧
      ((s.agentOf (.tile 0 1)).st = .wait (.ldfe 4 16 true) ∧ ∀ y : Fin 10, y < 1 → ∀ d n, (s.agentOf (.tile 0 y)).st ≠ .wait (.ldfe d n true)) ∧
      (s.agentOf (.tile 0 2)).st = .wait (.ldfe 4 16 true) ∧ (s.agentOf (.tile 0 3)).st = .wait (.ldfe 4 16 false) := by
  refine ⟨by decide, by decide, by decide, by decide, ⟨by decide, fun y hy d n => ?_⟩, by decide, by decide⟩
  have : y = 0 := by omega
  subst this
  intro h
  cases h

/-- A record with its check bit and an extent of 32 bytes from 0x40: the last access inside, the first outside. -/
theorem wit_Records :
    let R : Rec := BitVec.ofNat 256 (0x40 + 32 * 2 ^ 32 + 2 ^ 136)
    let s := onT 0 (fun g => (g.wx 1 24).wx 2 25) (fun tl => { tl with cur := { tl.cur with recW := tl.cur.recW.set 3 R } })
    let r := s.recReg 3
    let A : W := BitVec.ofNat 64 (r.toNat % 2 ^ 21) + s.rx 1
    s.turn = .tile 0 0 ∧ (r.toNat / 2 ^ 136 % 2 = 1 → (s.rx 1).toNat + 8 ≤ r.toNat / 2 ^ 32 % 2 ^ 21) ∧ s.canLoad A 1 ∧ s.canLoad A 2 ∧
      s.canLoad A 4 ∧ s.canLoad A 8 ∧ (3 : BitVec 3).toNat < 4 ∧ s.canStore A (2 ^ (3 : BitVec 3).toNat) ∧
      ¬(r.toNat / 2 ^ 136 % 2 = 1 → (s.rx 2).toNat + 8 ≤ r.toNat / 2 ^ 32 % 2 ^ 21) ∧ (6 : BitVec 3).toNat < 7 ∧ 2 ^ ((6 : BitVec 3).toNat / 2) = 8 ∧
      s.canLoad (s.rx 0 + (1 : BitVec 10).signExtend 64 * 32#64) 32 ∧ s.canStore (s.rx 0 + (1 : BitVec 10).signExtend 64 * 32#64) 32 :=
  ⟨rfl, by decide, load_ok (by decide), load_ok (by decide), load_ok (by decide), load_ok (by decide), by decide, store_ok rfl (by decide),
    by decide, by decide, by decide, load_ok (by decide), store_ok rfl (by decide)⟩

/-! ## Witnesses: strands and semaphores -/

theorem wit_StrandsEndAndStart :
    (let s := regs 8 0 0; s.byStrand ∧ s.drained ∧ s.me.depth = 0 ∧ s.myEntry (fun _ => true) = none ∧ s.me.streams = []) ∧
    (let s := onT 8 id id; ¬s.byStrand) ∧
    (let s := onT 0 (fun g => { (g.wx 1 0x1EFFFC) with depth := 1 }) id
     s.me.depth ≠ 0 ∧ s.myEntry (fun _ => true) = none ∧ (s.rx 1).toNat % 4 = 0 ∧ (s.rx 1).toNat < whoMem s.turn) :=
  ⟨⟨⟨0, 0, rfl, by decide⟩, ⟨by decide, by decide⟩, by decide, by decide, by decide⟩,
    fun ⟨u, a, e, h⟩ => by cases e; exact absurd h (by decide), by decide⟩

/-- A strand that starts strand 1, and one that finds no FREE strand. -/
theorem wit_Spawn :
    (let s := regs 0x1EFFFC 0 0
     s.turn = .tile 0 0 ∧ (s.rx 1).toNat % 4 = 0 ∧ (s.rx 1).toNat < 0x1F0000 ∧ (1 : Fin 10).val < 8 ∧ (s.agentOf (.tile 0 1)).st = .free ∧
       (∀ j : Fin 10, j < 1 → (s.agentOf (.tile 0 j)).st ≠ .free) ∧ (0 : Fin 10) ≠ 1 ∧ s.hartBusy = false ∧
       s.myEntry (fun _ => true) = none) ∧
    (let s := onT 0 id fun tl => { tl with cur := { tl.cur with agents := Vector.replicate 10 { Agent.reset with st := .ready } } }
     s.turn = .tile 0 0 ∧ ∀ i : Fin 10, i.val < 8 → (s.agentOf (.tile 0 i)).st ≠ .free) := by decide

theorem wit_Boundaries :
    (let s := onT 0 (fun g => { g with pc := 0x1F0000 }) id; whoMem s.turn ≤ s.me.pc.toNat) ∧
    (let s : State := { onT 0 (fun g => { g with wdogLimit := 4 }) id with clk := 4 }
     s.me.st = .run ∧ s.me.wdogLimit ≠ 0 ∧ s.me.wdogLimit.toNat ≤ (s.clk - s.me.heldFrom) % 2 ^ 32) ∧
    (let s := onT 0 (fun g => { g with deferred := some ⟨0x17, 5⟩ }) id
     (s.agentOf (.tile 0 0)).deferred = some ⟨0x17, 5⟩ ∧ (s.agentOf (.tile 0 0)).st = .run) := by decide

/-- Strands 0 and 3 are READY with one priority and 7 was chosen last: strand 0 is next. -/
theorem wit_Turns :
    let s := onT 3 (fun g => { g with st := .ready }) fun tl => tl.setAgent 0 { Agent.reset with st := .ready }
    (s.tile 0).node = .run ∧ (s.tile 0).stopping = false ∧ (s.tile 0).rr < 8 ∧
      (∀ b : Fin 10, b.val < 8 → (s.agentOf (.tile 0 b)).st ≠ .run) ∧ (s.agentOf (.tile 0 0)).st = .ready ∧
      (∀ b : Fin 10, b.val < 8 → (s.agentOf (.tile 0 b)).st = .ready →
        (s.agentOf (.tile 0 0)).prio < (s.agentOf (.tile 0 b)).prio ∨
          ((s.agentOf (.tile 0 0)).prio = (s.agentOf (.tile 0 b)).prio ∧
            ((0 : Fin 10).val + 7 - (s.tile 0).rr) % 8 ≤ (b.val + 7 - (s.tile 0).rr) % 8)) := by decide

/-- The count at 65,534 and at 65,535; a hart with an operation in its queue; a strand with a matrix entry. -/
theorem wit_SemaphoreCounts :
    (let s := onT 0 id fun tl => tl.setSem 5 65534
     s.turn = .tile 0 0 ∧ s.hartBusy = false ∧ s.myEntry (fun _ => true) = none ∧ (s.tile 0).sem 5 + 1 ≤ 65535 ∧ 5 < 64 ∧
       (s.tile 0).sem 5 < 65535) ∧
    (let s := onT 0 id fun tl => tl.setSem 5 65535
     s.hartBusy = false ∧ s.myEntry (fun _ => true) = none ∧ 65535 < (s.tile 0).sem 5 + 1 ∧ (s.tile 0).sem 5 = 65535 ∧
       (s.agentOf (.tile 0 0)).st = .run ∧ (s.agentOf (.tile 0 0)).deferred = none) ∧
    (let s := onT 8 id fun tl => { tl with haulQ := [⟨0, 0, .copy, 0, 0, 0, 0, 4, 0, .queued, 0, none, []⟩] }
     s.turn = .tile 0 8 ∧ s.hartBusy = true) ∧
    (let e : MatEntry := ⟨3, 0, .zero, 0, 0, 1, 0, ⟨0, 0, 0, 0, 0⟩, [], false, false, 0⟩
     let s := onT 0 id fun tl => { tl with matQ := [e] }
     s.turn = .tile 0 0 ∧ s.hartBusy = false ∧ s.myEntry (fun _ => true) = some e) := by decide

theorem wit_SemaphoreWaitsComplete :
    (let s := onT 2 (fun g => { g with st := .wait (.semp 5) }) fun tl => tl.setSem 5 1
     s.turn = .tile 0 2 ∧ (s.tile 0).node = .run ∧ 0 < (s.tile 0).sem 5 ∧
       (∀ c : Fin 10, c < 2 → (s.agentOf (.tile 0 c)).wantsSem 5 = false) ∧ (s.agentOf (.tile 0 2)).st = .wait (.semp 5)) ∧
    (let s : State := { onT 2 (fun g => { g with st := .wait (.sempt 5 7 9) }) (fun tl => tl.setSem 5 1) with clk := 9 }
     (s.tile 0).node = .run ∧ 0 < (s.tile 0).sem 5 ∧ (s.agentOf (.tile 0 2)).st = .wait (.sempt 5 7 9)) ∧
    (let s : State := { onT 2 (fun g => { g with st := .wait (.sempt 5 7 9) }) id with clk := 9 }
     (s.tile 0).node = .run ∧ (s.agentOf (.tile 0 2)).st = .wait (.sempt 5 7 9) ∧ 9 ≤ s.clk ∧ (s.tile 0).sem 5 = 0) := by decide

/-! ## Witnesses: vectors -/

theorem load_all {s : State} {n k : Nat} {f : Nat → W}
    (h : ((List.range k).all fun j => decide ((f j).toNat % n = 0) && decide ((f j).toNat + n ≤ whoMem s.turn) &&
      (badHit 16 (s.memOf s.turn).2 (f j).toNat n).isNone && (s.myEntry MatEntry.isRd).isNone) = true) : ∀ j, j < k → s.canLoad (f j) n :=
  fun j hj => load_ok (List.all_eq_true.mp h j (List.mem_range.mpr hj))

theorem store_all {s : State} {u : Nat} {b : Fin 10} {n k : Nat} {f : Nat → W} (ht : s.turn = .tile u b)
    (h : ((List.range k).all fun j => decide ((f j).toNat % n = 0) && decide ((f j).toNat + n ≤ whoMem s.turn) &&
      (s.myEntry MatEntry.isRd).isNone && (s.unread (f j).toNat n).isNone &&
      !s.behindOwn [((f j).toNat, n)] && (s.tile u).hasRoom ((f j).toNat / 64)) = true) :
    ∀ j, j < k → s.canStore (f j) n :=
  fun j hj => store_ok ht (List.all_eq_true.mp h j (List.mem_range.mpr hj))

/-- A record of rows of stride `s0`. -/
def mkRec (base ext s0 fmt : Nat) : Rec := BitVec.ofNat 256 (base + ext * 2 ^ 32 + s0 * 2 ^ 64 + 128 * s0 * 2 ^ 96 + fmt * 2 ^ 128)

/-- Agent `a` of tile 0 with `R[3] = r`, `R[4] = q`, its core's file of records. -/
def recs (a : Fin 10) (r q : Rec) (f : Agent → Agent) (h : Tile → Tile) : State :=
  let file (v : Vector Rec 16) : Vector Rec 16 := (v.set 3 r).set 4 q
  onT a f fun tl => h { tl with cur := { tl.cur with recW := file tl.cur.recW, recH := file tl.cur.recH, recS := file tl.cur.recS } }

theorem wit_VectorFloatLanes :
    (regs 0 0 0).plainStrand ∧ (2 : BitVec 2).toNat < 3 ∧ (0 : BitVec 2).toNat < 3 ∧ (0 : BitVec 2) ≠ 2 ∧
      (15 < 512 / Nat.max fF32.w fBF16.w ∧ ¬(16 < 512 / Nat.max fF32.w fBF16.w)) :=
  ⟨strand_ok rfl (by decide) rfl, by decide, by decide, by decide, by decide⟩

theorem wit_VectorIntegerLanes :
    (regs 0 0 0).plainStrand ∧ (2 : BitVec 2).toNat < 3 ∧ (5 : BitVec 3).toNat < 6 ∧ (3 : BitVec 3).toNat < 4 ∧
      (7 : BitVec 5).toNat < 512 / (8 * 2 ^ (3 : BitVec 2).toNat) ∧ (31 : BitVec 5).toNat < 512 / (8 * 2 ^ (1 : BitVec 2).toNat) :=
  ⟨strand_ok rfl (by decide) rfl, by decide⟩

theorem wit_VectorReduce : (regs 0 0 0).plainStrand ∧ (2 : BitVec 2).toNat < 3 := ⟨strand_ok rfl (by decide) rfl, by decide⟩

theorem lane_zero {p : W → Prop} {w : Nat} {a : W} (j : Nat) (h : p a) : p (a + BitVec.ofNat 64 (laneOf w (0 : VReg) j)) := by
  have e : laneOf w (0 : VReg) j = 0 := by
    simp only [laneOf, fld, BitVec.ofNat_eq_ofNat, BitVec.toNat_zero, Nat.zero_div, Nat.zero_mod]
  rw [e]
  simpa using h

/-- Rows at the top of tile memory: whole, strided down from the top, and the top element in every lane. -/
theorem wit_VectorMemory :
    (let s := regs 0x1EFFC0 0 0
     let A := s.rx 1 + (0 : BitVec 14).signExtend 64 * 64#64
     s.plainStrand ∧ s.canLoad A 64 ∧ s.canStore A 64) ∧
    (let s := regs 0x1EFFF8 (-8) 0
     let n := 2 * 2 ^ (2 : BitVec 2).toNat
     let strided (j : Nat) : W := s.rx 1 + BitVec.ofNat 64 j * s.rx 2
     let indexed (j : Nat) : W := s.rx 1 + BitVec.ofNat 64 (laneOf (8 * n) (s.rv 3) j)
     s.plainStrand ∧ (∀ j, j < 64 / n → s.canLoad (strided j) n) ∧ (∀ j, j < 64 / n → s.canLoad (indexed j) n) ∧
       (let needs (f : Nat → W) (j : Nat) : Bool := (s.tile s.here).needsLine ((f j).toNat / 64) &&
          (List.range j).all fun k => decide ((f k).toNat / 64 ≠ (f j).toNat / 64)
        let taken (f : Nat → W) (j : Nat) : Nat := ((List.range j).filter (needs f)).length
        taken strided (64 / n) = 1 ∧ (s.tile s.here).vs.length + taken strided (64 / n) ≤ 8192) ∧ (∀ j, j < 64 / n → s.canStore (strided j) n) ∧
       ∀ j, j < 64 / n → s.canStore (indexed j) n) :=
  ⟨⟨strand_ok rfl (by decide) rfl, load_ok (by decide), store_ok rfl (by decide)⟩,
    strand_ok rfl (by decide) rfl, load_all (by decide), fun j _ => lane_zero (p := fun x => (regs 0x1EFFF8 (-8) 0).canLoad x 8) j (load_ok (by decide)), by decide,
    store_all rfl (by decide), fun j _ => lane_zero (p := fun x => (regs 0x1EFFF8 (-8) 0).canStore x 8) j (store_ok rfl (by decide))⟩

/-- A record whose last row is the top of tile memory; a binding that is done and one that is not; one that is used up; and one with
an element left, in either direction. -/
theorem wit_VectorStreams :
    (let s := recs 0 (mkRec 0x1EFF00 128 0xC0 7) 0 id id
     let r := s.recReg 3
     s.turn = .tile 0 0 ∧ s.me.streams = [] ∧ s.myEntry MatEntry.isRd = none ∧ r.toNat % 2 ^ 21 % 64 = 0 ∧ r.toNat / 2 ^ 64 % 2 ^ 21 % 64 = 0 ∧
       r.toNat / 2 ^ 32 % 2 ^ 21 % 64 = 0 ∧ 1 ≤ r.toNat / 2 ^ 32 % 2 ^ 21 / 64 ∧
       r.toNat % 2 ^ 21 + (r.toNat / 2 ^ 32 % 2 ^ 21 / 64 - 1) * (r.toNat / 2 ^ 64 % 2 ^ 21) + 63 < 0x1F0000) ∧
    (let st (out done : Bool) (used : Nat) : Stream := ⟨1, out, 0x1EFF00, 64, 3, used, [], 5, done, 0⟩
     let s (b : Stream) := onT 0 (fun g => { g with streams := [b] }) id
     (1 : BitVec 5) ≠ 2 ∧ (st false false 0).v = (1 : BitVec 5).toNat ∧ (s (st false true 0)).me.streams = [st false true 0] ∧
       (st false true 0).done = true ∧ (s (st false false 0)).me.streams = [st false false 0] ∧
       ((s (st false false 0)).tile 0).sem 5 < 65535 ∧ (st false false 3).n ≤ (st false false 3).used ∧
       (st true false 3).n ≤ (st true false 3).used ∧ (st false false 1).used + 1 < (st false false 1).n ∧
       (st false false 0).used + (st false false 0).ahead.length + 1 < (st false false 0).n ∧ (st false false 2).used + 1 = (st false false 2).n ∧
       (st false false 2).done = false ∧ ((s (st false false 2)).tile 0).badAt (0x1EFF00 + 2 * 64) 64 = none ∧
       (∀ x ∈ ((s (st false false 1)).tile 0).matQ, x.strand = 0 → x.isRd = false) ∧ (st false false 1).ahead.length < 8 ∧
       (s (st false false 1)).myEntry MatEntry.isRd = none ∧ ((s (st false false 1)).tile 0).badAt (0x1EFF00 + 1 * 64) 64 = none ∧
       ((s (st false false 1)).tile 0).node = .run ∧ ((s (st false false 1)).tile 0).stopping = false ∧
       (s (st true false 1)).me.streams = [st true false 1] ∧ (0x1EFF00 + 1 * 64) % 64 = 0 ∧ 0x1EFF00 + 1 * 64 < 2 ^ 64) ∧
    (let e : MatEntry := ⟨3, 0, .rd 0, 0, 0, 1, 0, ⟨0, 0, 0, 0, 0⟩, [], true, false, 0⟩
     let s := onT 0 id fun tl => { tl with matQ := [e] }
     s.turn = .tile 0 0 ∧ s.me.streams = [] ∧ s.myEntry MatEntry.isRd = some e) ∧
    (let s := onT 0 (fun g => { g with streams := [⟨1, true, 0x1EFF00, 64, 3, 1, [], 5, false, 0⟩] }) id
     s.canStore (BitVec.ofNat 64 (0x1EFF00 + 1 * 64)) 64) :=
  ⟨by decide, by decide, by decide, store_ok rfl (by decide)⟩

/-! ## Witnesses: the matrix unit -/

theorem wit_MatrixContextAndOwners :
    (regs 0 0 0).byStrand ∧
    (let s := onT 0 id fun tl => { tl with cur := { tl.cur with accSt := tl.cur.accSt.set 15 (.held 7 true) } }
     s.turn = .tile 0 0 ∧ (s.tile 0).matQ.length < 16 ∧ (15 : BitVec 5).toNat < 16 ∧ (s.tile 0).cur.accSt[15] = .held 7 true ∧
       (7 : Fin 10) ≠ 0) :=
  ⟨⟨0, 0, rfl, by decide⟩, by decide⟩

/-- The last accumulator for the single forms, the last pair for a block-step with the reset context, the last slot for a load. -/
theorem wit_MatrixIssueCompletes :
    (let s := recs 0 (mkRec 0 32768 512 4) 0 id id
     let r := s.recReg 3
     s.turn = .tile 0 0 ∧ (s.tile 0).matQ.length < 16 ∧ (15 : BitVec 5).toNat < 16 ∧ (s.tile 0).heldByOther 0 15 = false ∧
       recFormat r = 4 ∧ firstOdd (elBits (recFormat r) / 8) (maccRuns r) = none ∧ firstOut (maccRuns r) = none ∧
       31 * rowBytes (recFormat r) + 64 * (elBits (recFormat r) / 8) ≤ recExtent r) ∧
    (let s := recs 0 (mkRec 0 4128 128 7) 0 id fun tl =>
       { tl with slotDesc := tl.slotDesc.set 15 ⟨some ⟨7, 0, 1, 16384, 0⟩, false, 0, []⟩ }
     let r := s.recReg 3
     (s.tile 0).heldByOther 0 14 = false ∧ (s.tile 0).heldByOther 0 15 = false ∧
       pairOk (ctxA s.me.mctx) (ctxB s.me.mctx) = true ∧ recFormat r = ctxA s.me.mctx ∧ (s.tile 0).slotFmt 15 = ctxB s.me.mctx ∧
       (ctxA s.me.mctx = 5 → firstOdd 2 (runsOf r 0 (32 * rowBytes (recFormat r))) = none) ∧
       firstOut (streamRuns s.me.mctx r) = none ∧ streamExtent s.me.mctx ≤ recExtent r) ∧
    (let s := recs 0 (mkRec 0 20000 128 7) 0 id fun tl => { tl with tm := tl.tm.write 0 (leBytes 8 (7 + 1 * 2 ^ 12 + 16384 * 2 ^ 32)) }
     let tl := s.tile 0
     let r := s.recReg 3
     let h := imageHdr (leNat (tl.recBytes r 0 8))
     s.myEntry MatEntry.isRd = none ∧ firstOut (runsOf r 0 64) = none ∧ tl.badRuns (runsOf r 0 64) = none ∧ hdrOk h 15 = true ∧
       firstOut (imageRuns h r) = none ∧ tailStart h.fmt + tailLen h.fmt ≤ recExtent r) := by decide

theorem wit_MatrixEntriesRun :
    let e (i acc : Nat) (k : MatKind) (st : Bool) : MatEntry := ⟨i, 0, k, 0x777, 0, acc, 0, ⟨0, 0, 0, 0, 0⟩, [], st, false, 0⟩
    let s (k : MatKind) := onT 0 id fun tl => { tl with matQ := [e 1 3 .pin true] ++ e 2 15 k false :: [e 3 15 .pin false] }
    ((s .zero).tile 0).matQ = [e 1 3 .pin true] ++ e 2 15 .zero false :: [e 3 15 .pin false] ∧ ((s .zero).tile 0).node = .run ∧
      ((s .zero).tile 0).stopping = false ∧ (∀ g ∈ [e 1 3 .pin true] ++ [e 3 15 .pin false], g.id ≠ (e 2 15 .zero false).id) ∧
      ((s .zero).tile 0).canStart (s .zero).clk [e 1 3 .pin true] (e 2 15 .zero false) = true ∧
      ((s .pin).tile 0).canStart (s .pin).clk [e 1 3 .pin true] (e 2 15 .pin false) = true ∧
      ((s .pin).tile 0).runEntry (s .pin).clk (e 2 15 .pin false) = (((s .pin).tile 0).setPin (e 2 15 .pin false) true, .ok) ∧
      (e 2 15 .zero false).acc < 16 ∧ ((s .zero).tile 0).vs.length + 128 ≤ 8192 ∧ (e 1 3 .pin true).started = true :=
  ⟨rfl, by decide, by decide, by decide, by decide, by decide, rfl, by decide, by decide, by decide⟩

set_option maxRecDepth 4000 in
/-- A block-step that may start in a module whose limit of rise is 1, with 152 block-steps of the last 1,000 ns and with 153. -/
theorem wit_MatrixSlew :
    let f : MatEntry := ⟨2, 0, .mmul false, 0x777, 0, 14, 0, ⟨0, 0, 0, 0, 0⟩, [], false, false, 0⟩
    let s (n : Nat) : State := { (onT 0 id fun tl => { tl with matQ := [] ++ f :: [], shapeEff := 8 + 8 * 2 ^ 16, limit := 8 }).modModule 0 fun y =>
      { y with pslew := 1, slewStarts := List.replicate n 100 } with clk := 200 }
    let starts (s : State) (back : Nat) : Nat :=
      ((s.module 0).slewStarts.filter fun c => decide (c + back ≤ s.clk) && decide (s.clk < c + back + 4000)).length
    let tooFast (s : State) : Prop := (s.module 0).pslew.toNat * 500000 + starts s 4000 * 3255 < (starts s 0 + 1) * 3255
    ((s 0).tile 0).matQ = [] ++ f :: [] ∧ ((s 0).tile 0).node = .run ∧ ((s 0).tile 0).stopping = false ∧ (∃ c, f.kind = .mmul c) ∧
      ((s 0).tile 0).canStart (s 0).clk [] f = true ∧ f.delayed = false ∧ tooFast (s 153) ∧ ¬tooFast (s 152) :=
  ⟨by decide, by decide, by decide, ⟨false, rfl⟩, by decide, by decide, by decide, by decide⟩

theorem wit_DataRules :
    (FVal.fin false 1 0).isZero = false ∧ 127 < 128 ∧ rowBytes (recFormat (mkRec 0 0 0 15)) - 1 < rowBytes (recFormat (mkRec 0 0 0 15)) := by
  decide

/-! ## Witnesses: shape and haul operations -/

/-- Every form of R241 with a source and a destination it takes; one that does not fit; the queue at 7 and at 8. -/
theorem wit_ShapeIssueCompletes :
    let op (k : ShapeKind) (f g : Nat) (n m : Nat) (p : W) : ShapeOp := ⟨k, mkRec 0x10000 m 64 g, mkRec 0 n 64 f, p, 0, 0, 5, false, 0⟩
    (onT 9 id id).turn = .tile 0 9 ∧ (op (.squant true true) 4 7 512 128 0).cause = none ∧ (op .sdeq 7 4 128 512 0).cause = none ∧
      (op .sexp 11 7 64 128 0).cause = none ∧ (op .scomp 5 5 0 32832 0).cause.isSome = true ∧
      (op .sblkExp 4 4 512 1 0).cause = none ∧ (op .sblkInt 4 14 512 512 (24 * 2 ^ 24)).cause = none ∧
      (op .sblkInt 4 14 512 512 (25 * 2 ^ 24)).cause = some (0x0D, 25 * 2 ^ 24) ∧
      (op .sblkFlt 14 4 512 512 0).cause = none ∧ (op (.scvt 3 true) 9 0 64 128 0).cause = none ∧
      (op (.scvt 3 true) 9 0 64 127 0).cause = some (0x05, 64) ∧
      (let q (n : Nat) := onT 9 id fun tl => { tl with shapeQ := List.replicate n (op .sexp 11 7 64 128 0) }
       ((q 7).tile 0).shapeQ.length < 8 ∧ 8 ≤ ((q 8).tile 0).shapeQ.length) := by decide

set_option maxRecDepth 4000 in
theorem wit_ShapeOperationsRun :
    let op (r : Bool) : ShapeOp := ⟨.scvt 0 false, mkRec 0x10000 128 64 0, mkRec 0 128 64 0, 0, 0, 0, 5, r, 0⟩
    let s (r : Bool) := onT 9 id fun tl => { tl with shapeQ := [op r] }
    ((s false).tile 0).shapeQ = op false :: [] ∧ ((s false).tile 0).node = .run ∧ ((s false).tile 0).stopping = false ∧
      (op false).ran = false ∧ ((s false).tile 0).badRuns (runsOf (op false).src 0 (op false).srcBytes ++ (op false).arrays.1) = none ∧
      (let r := (op false).output ((s false).tile 0) ((s false).tile 0).ssnum.toNat 0
       (∀ x ∈ ((op false).unspecified ((s false).tile 0) r).1, x = (false, false)) ∧ (∀ x ∈ ((op false).unspecified ((s false).tile 0) r).2, x = false) ∧
         (((s false).tile 0).fillRuns (layRuns (runsOf (op false).dst 0 r.bytes.length) ((op false).keepNibble ((s false).tile 0) r.bytes) ++
           r.parts.map fun p => (0 + p.1, p.2.map fun x => BitVec.ofNat 8 x))).2 = none) ∧
      ((s true).tile 0).shapeQ = op true :: [] ∧ (op true).ran = true ∧ ((s true).tile 0).sem 5 < 65535 ∧
      ((s true).agentOf (.tile 0 9)).st ≠ .wait .drain := by decide

/-- A load that passes the checks, one of no bytes, one past the memory; the queue at 15 and at 16; an agent of each kind that waits. -/
theorem wit_HaulIssueCompletes :
    (let op (k : HaulKind) (n m va : Nat) : HaulOp := ⟨0, 0, k, mkRec 0 n 64 7, mkRec 0x10000 m 64 7, va, 0, min n m, 5, .queued, 0, none, []⟩
     let tl (n : Nat) : Tile := { Tile.reset with haulQ := List.replicate n (op .copy 64 64 0) }
     (tl 15).haulCheck (op .hld 128 128 0xFFFFFFFFFFF80) 0 = none ∧ (op .hld 128 128 0xFFFFFFFFFFF80).n ≠ 0 ∧ (tl 15).haulQ.length < 16 ∧
       (tl 0).haulCheck (op .copy 0 64 0) 0 = none ∧ (op .copy 0 64 0).n = 0 ∧ (tl 0).sem 5 < 65535 ∧ 16 ≤ (tl 16).haulQ.length ∧
       (tl 0).haulCheck (op .hld 128 128 0xFFFFFFFFFFF81) 0 ≠ none ∧ (tl 0).haulQ = [] ∧ (tl 0).haulStore = [] ∧ (tl 1).haulQ ≠ []) ∧
    (let s (a : Fin 10) := onT a (fun g => { g with st := .wait .queue }) id
     (onT 8 id id).turn = .tile 0 8 ∧ ((s 0).tile 0).node = .run ∧ ((s 0).tile 0).stopping = false ∧
       ((s 0).agentOf (.tile 0 0)).st = .wait .queue ∧ ((s 8).agentOf (.tile 0 8)).st = .wait .queue ∧
       ((s 9).agentOf (.tile 0 9)).st = .wait .queue ∧ ((s 0).tile 0).matQ.length < 16 ∧ ((s 0).tile 0).haulQ.length < 16 ∧
       ((s 0).tile 0).shapeQ.length < 8) := by decide

/-- A page of 64 KiB at virtual 0x10000, physical 0x20000, with `R`, `W`, `PRES` and region 0 as it is given. -/
def page (r w p : Bool) : Tlbe := ⟨0x10000, BitVec.ofNat 64 (3 + p.toNat * 4 + r.toNat * 8 + w.toNat * 16 + 0x20000)⟩

/-- Tile 0 with one operation in its queue, and the LLT `l` in its die. -/
def haul (op : HaulOp) (l : List (Nat × Tlbe)) : State :=
  (onT 8 id fun tl => { tl with haulQ := [op] }).modDie 0 fun x => { x with mc := { x.mc with llt := l, fmodeRec := false } }

set_option maxRecDepth 4000 in
theorem wit_HaulOperationsRun :
    let op (k : HaulKind) (st : OpStatus) (c : Nat) : HaulOp := ⟨3, 0, k, mkRec 0 128 64 7, mkRec 0x10000 128 64 7, 0x1FF80, 0, 128, 5, st, c, none, []⟩
    (let o := op .copy .queued 0
     let s := haul o []
     (s.tile 0).haulOn = true ∧ opOf (s.tile 0).haulQ 3 = some o ∧ o.status = .queued ∧
       (∀ x ∈ (s.tile 0).haulQ ++ (s.tile 0).haulStore, x.id < 3 → x.status ≠ .queued ∧ x.conflicts o = false) ∧
       (s.tile 0).badRuns o.reads = none ∧ runsMeet o.reads o.writes = false ∧
       (s.tile 0).olds = [] ∧ ((((s.tile 0).afterRead o (s.free + 1) o.reads []).1.putOp { o with status := .running, cursor := o.n }).haulFill o []
         (layRuns o.writes ((s.tile 0).readSeen o (s.free + 1) o.reads))).2 = none) ∧
    (let o := op .hst .queued 0
     opOf ((haul o []).tile 0).haulQ 3 = some o ∧ o.kind ≠ .copy ∧ o.kind ≠ .csend) ∧
    (let o := op .hld .running 64
     let s := haul o [(0, page true true true)]
     let r := s.xlat 0 (o.va + o.cursor) false
     opOf (s.tile 0).haulQ 3 = some o ∧ o.cursor < o.n ∧ r.1 = .ok 0x2FFC0 0 ∧ r.2.hbmBad 0 0x2FFC0 (o.chunkLen 64) = none ∧
       badIn 8 (r.2.module 0).badHbm 0x2FFC0 (o.chunkLen 64) = [] ∧
       ((r.2.tile 0).haulFill o (runsOf o.dst (64 + o.chunkLen 64) (o.n - (64 + o.chunkLen 64)))
         (layRuns (runsOf o.dst 64 (o.chunkLen 64)) (s.hbm 0 0x2FFC0 (o.chunkLen 64)))).2 = none) ∧
    (let o := op .hst .running 64
     let s := haul o [(0, page true true true)]
     (s.xlat 0 (o.va + o.cursor) true).1 = .ok 0x2FFC0 0 ∧ (s.tile 0).badRuns (runsOf o.src 64 (o.chunkLen 64)) = none) ∧
    (let o := op .hld .running 64
     ((haul o []).xlat 0 (o.va + o.cursor) false).1 = .miss ∧
       ((haul o [(0, page false true true)]).xlat 0 (o.va + o.cursor) false).1 = .denied ∧ ((haul o []).tile 0).launching = false ∧
       ((haul o []).agentOf (.tile 0 8)).st = .run ∧ ((haul o []).agentOf (.tile 0 8)).deferred = none) ∧
    (let o := op .hld .running 128
     o.n ≤ o.cursor ∧ ((haul o []).tile 0).launchPf = [] ∧ ((haul o []).tile 0).sem 5 < 65535) ∧
    (let o := op .hld .replay 64
     let s := (haul (op .copy .queued 0) []).modTile 0 fun tl => { tl with haulStore := [o] }
     opOf (s.tile 0).haulStore 3 = some o ∧ o.status = .replay ∧ (s.tile 0).haulQ.length < 16 ∧
       (∀ x ∈ (s.tile 0).haulQ, x.status ≠ .storing)) := by decide

/-! ## Witnesses: translation, faults, HBM -/

/-- The last 8 bytes of a page in the L1, in the LLT; with no right, not present, missing; the top of the space and past it. -/
theorem wit_GldCompletes :
    let s (l1 : List Tlbe) (l : List (Nat × Tlbe)) (x1 : W) : State :=
      (onT 0 (fun g => g.wx 1 x1) fun tl => { tl with l1 := l1 }).modDie 0 fun x => { x with mc := { x.mc with llt := l } }
    let hit (f : Tlbe) : Bool := f.hits 0 0x1FFF8
    let va (s : State) : W := s.rx 1 + s.rx 0
    (6 : BitVec 3).toNat < 7 ∧ (loadType (6 : BitVec 3).toNat).1 = 8 ∧ (va (s [] [] 0x1FFF8)).toNat % 8 = 0 ∧ va (s [] [] 0x1FFF8) = 0x1FFF8 ∧
      (va (s [] [] 0x1FFFC)).toNat % 8 ≠ 0 ∧ ((va (s [] [] 0x10000000000000)).toNat % 8 = 0 ∧ 2 ^ 52 ≤ (va (s [] [] 0x10000000000000)).toNat) ∧
      (va (s [] [] 0xFFFFFFFFFFFF8)).toNat < 2 ^ 52 ∧
      ((s [page true true true] [] 0x1FFF8).tile 0).l1.find? hit = some (page true true true) ∧
      ((s [] [(4, page true true true)] 0x1FFF8).tile 0).l1.find? hit = none ∧
      ((s [] [(4, page true true true)] 0x1FFF8).die (dieOfTile 0)).mc.llt.find? (fun q => hit q.2) = some (4, page true true true) ∧
      (page true true true).r = true ∧ (page true true true).pres = true ∧
      ((s [page false true true] [] 0x1FFF8).tile 0).l1.find? hit = some (page false true true) ∧ (page false true true).r = false ∧
      ((s [page true true false] [] 0x1FFF8).tile 0).l1.find? hit = some (page true true false) ∧ (page true true false).pres = false ∧
      ((s [] [] 0x1FFF8).tile 0).l1.find? hit = none ∧ ((s [] [] 0x1FFF8).die (dieOfTile 0)).mc.llt.find? (fun q => hit q.2) = none ∧
      (let t := onT 0 (fun g => { g with st := .wait (.gld 4 6 0x2FFF8) }) id
       (t.agentOf (.tile 0 0)).st = .wait (.gld 4 (6 : BitVec 3).toNat 0x2FFF8) ∧ (t.tile 0).node = .run ∧ (t.tile 0).stopping = false ∧
         t.hbmBad (modOfTile 0) 0x2FFF8 8 = none ∧ (t.agentOf (.svc (dieOfTile 0) 0)).st = .free ∧
         (t.agentOf (.svc (dieOfTile 0) 1)).st = .free) := by decide

theorem wit_TlbInstructionsComplete :
    let s (l : List (Nat × Tlbe)) (x2 : W) : State := onD 0 (fun g => (g.wx 1 0x10000).wx 2 x2) fun x => { x with mc := { x.mc with llt := l } }
    let e := (page true true true).entry
    (s [] e).turn = .svc 0 0 ∧ ((s [] e).die 0).mc.tlbwOk ⟨(s [] e).rx 1, (s [] e).rx 2⟩ = true ∧ ((s [] e).die 0).mc.llt.length < 3072 ∧
      ((s [] 0).die 0).mc.tlbwOk ⟨(s [] 0).rx 1, (s [] 0).rx 2⟩ = false ∧
      (let w (lo n : Nat) : Nat := ((s [] e).rx 2).toNat / 2 ^ lo % 2 ^ n
       let e : Tlbe := ⟨(s [] e).rx 1, (s [] e).rx 2⟩
       w 0 2 = 3 ∧ w 5 2 ≠ 3 ∧ e.tag.toNat % 2 ^ 16 = 0 ∧ w 10 6 = 0 ∧ w 60 4 = 0 ∧ e.va % 2 ^ e.bits = 0 ∧ e.pa % 2 ^ e.bits = 0 ∧
         e.pa + 2 ^ e.bits ≤ 0xC000000000 ∧ (e.pa + 2 ^ e.bits - 1) / 2 ^ 34 < 48 - ((s [] 0).die 0).mc.rsvN.toNat ∧
         w 7 3 = ((s [] 0).die 0).mc.scheme (e.pa / 2 ^ 34) ∧ ¬(5 ≤ w 7 3 ∧ w 5 2 = 2)) ∧
      (let t := s [(4, page true true true)] e
       t.gldsIn 0 (((t.die 0).mc.llt.map fun q => q.2).filter fun f => f.hits ((t.rx 1).toNat / 2 ^ 52) 0x10000) = [] ∧
         t.gldsIn 0 ((t.die 0).mc.llt.map fun q => q.2) = []) ∧
      (let g : Agent := { Agent.reset with st := .wait (.gld 4 6 0x20000) }
       let t := (s [(4, page true true true)] e).setTile 0 { Tile.reset.setAgent 0 g with inReg := true }
       t.gldsIn 0 (((t.die 0).mc.llt.map fun q => q.2).filter fun f => f.hits ((t.rx 1).toNat / 2 ^ 52) 0x10000) ≠ [] ∧
         t.gldsIn 0 ((t.die 0).mc.llt.map fun q => q.2) ≠ []) := by decide

set_option maxRecDepth 40000 in
/-- A full LLT that overlaps nothing of the new entry: the oldest goes. -/
theorem wit_TlbwFull :
    let e : Tlbe := page true true true
    let f (n : Nat) : Tlbe := ⟨BitVec.ofNat 64 (0x10000 * (n + 2)), e.entry⟩
    let l : List (Nat × Tlbe) := List.replicate 3072 (5, f 0)
    (l.filter fun q => !q.2.overlaps e).length = l.length ∧ l.length = 3072 ∧ l.head? = some (5, f 0) := by
  refine ⟨?_, List.length_replicate, rfl⟩
  rw [List.filter_eq_self.mpr]
  intro q hq
  rw [List.eq_of_mem_replicate hq]
  decide

/-- A stop of either queue; an empty and a filled queue of either core; the last slot of the pool, with each answer. -/
theorem wit_FaultQueuesComplete :
    (let f (c : Nat) : FaultStop := ⟨c, 0, 0, 0, 0, 0x10000, 0, 0, 0, 0, none, 0⟩
     let s (c : Nat) : State := { onD 0 id (fun x => { x with mc := { x.mc with stops := [f c] } }) with clk := 2 }
     firstStop (((s 6).die 0).mc.stops.filter fun g => decide (g.cycle < (s 6).clk / 2)) = some (f 6) ∧ ((s 6).die 0).mc.freeSlot = some 0 ∧
       (f 6).opId = none ∧ (f 6).cause = 0x06 ∧ (f 8).cause ≠ 0x06 ∧
       firstStop (((s 8).die 0).mc.stops.filter fun g => decide (g.cycle < (s 8).clk / 2)) = some (f 8)) ∧
    (let s (c : Fin 2) (q0 q1 : List Nat) (v r : Nat) : State :=
       (onD c (fun g => g.wx 1 (BitVec.ofNat 64 v)) fun x => { x with mc := { x.mc with fq0 := q0, fq1 := q1, fqBase := 0x1000 } }).modModule 0
         fun y => { y with hbm := y.hbm.write 0x17E0 (leBytes 8 r) }
     let t := s 0 [] [5] 0x17E0 (2 ^ 63)
     let park : State := t.setTile 0 (Tile.reset.setAgent 0 { Agent.reset with st := .park })
     (s 0 [] [5] 0 0).turn = .svc 0 0 ∧ ((s 0 [] [5] 0 0).die 0).mc.fq0 = [] ∧ ((s 1 [] [5] 0 0).die 0).mc.fq1 = 5 :: [] ∧
       ((s 0 [7] [] 0 0).die 0).mc.fq0 = 7 :: [] ∧ ((s 1 [7] [] 0 0).die 0).mc.fq1 = [] ∧
       (t.rx 1).toNat < 2 ^ 50 ∧ (t.rx 1).toNat % 2 ^ 40 % 32 = 0 ∧ (t.die 0).mc.fqBase.toNat % 4096 = 0 ∧
       (t.die 0).mc.fqBase.toNat ≤ 0x17E0 ∧ 0x17E0 < (t.die 0).mc.fqBase.toNat + 32 * (t.die 0).mc.poolSize ∧
       t.hbmBad (modOfDie 0) 0x17E0 24 = none ∧ t.hbmNat (modOfDie 0) 0x17E0 8 = 2 ^ 63 ∧ 2 ^ 63 / 2 ^ 61 % 2 = (0 : Fin 2).val ∧ 2 ^ 63 / 2 ^ 12 % 8 = 0 ∧ 2 ^ 63 / 2 ^ 8 % 16 < 8 ∧
       ((s 0 [] [] 0x17E0 0).hbmNat (modOfDie 0) 0x17E0 8) / 2 ^ 63 % 2 = 0 ∧ ((s 0 [] [] 0x17E0 0).hbmNat (modOfDie 0) 0x17E0 8) / 2 ^ 61 % 2 = 0 ∧
       ((s 1 [] [] (0x17E0 + 2 * 2 ^ 48 + 7 * 2 ^ 40) (2 ^ 63 + 2 ^ 61)).hbmNat (modOfDie 0) 0x17E0 8) / 2 ^ 61 % 2 = (1 : Fin 2).val ∧
       deliverable 7 = true ∧ deliverable 0x19 = true ∧
       (park.agentOf (.tile 0 0)).st = .park ∧ (park.agentOf (.tile 0 0)).deferred = none ∧ park.turn = .svc 0 0) := by decide

theorem wit_HbmFirmwareComplete :
    (let s := onD 0 id fun x => { x with mc := { x.mc with physa := 0xBFFFFFFFF8, hbmerr := [9] } }
     (s.die 0).mc.physa.toNat % 8 = 0 ∧ (s.die 0).mc.physa.toNat < 0xC000000000 ∧ s.hbmBad (modOfDie 0) (s.die 0).mc.physa.toNat 8 = none ∧
       (s.die 0).mc.busySlots = [] ∧ (s.die 0).mc.pprBusy = false ∧ (s.die 0).mc.hbmerr = 9 :: [] ∧
       (s.die 0).mc.moveOk 0 0 3071 = true ∧ (s.die 0).mc.moveOk 0 0 0 = false ∧ s.turn = .svc 0 0 ∧ (0x1000 : W).toNat % 2 ^ 12 = 0 ∧
       (0x1001 : W).toNat % 2 ^ 12 ≠ 0) ∧
    (let s := onD 1 id fun x => { x with mc := { x.mc with physa := 0xBFFFFFFFF9, busySlots := [3] } }
     (s.die 0).mc.physa.toNat % 8 ≠ 0 ∧ (s.die 0).mc.hbmerr = [] ∧ (s.die 0).mc.busySlots ≠ []) ∧
    (let s := onD 0 id fun x => { x with mc := { x.mc with migBusy := true, migMove := 0x00BFF00000, pprBusy := true } }
     (s.die 0).mc.migBusy = true ∧ (s.die 0).mc.migMove.toNat % 2 ^ 20 ≠ (s.die 0).mc.migMove.toNat / 2 ^ 20 ∧ (s.die 0).mc.pprBusy = true ∧
       ((s.die 0).mc.pprRemaps.all fun r => r.1 ≠ (s.die 0).mc.pprCtl.toNat % 2 ^ 8 ∨
         r.2.1 ≠ (s.die 0).mc.pprCtl.toNat / 2 ^ 8 % 2 ^ 6) = true) := by decide

/-! ## Witnesses: exchange, messages, collectives -/

def leaf : RcbFields := ⟨0, 4, 3, 8, 100000, 1000, 0, 0, 1, 0, 0, 0, 0, 0, 0⟩

/-- Region 5 of tiles 0 and 1 of module 0, under number 7. -/
def reg (ph : RegionPhase) : Region where
  serial := 7
  id := 5
  nmod := 1
  fields := leaf
  parts := [⟨0, [0, 1], 0, 0x100, 1, [], false, 0⟩]
  phase := ph
  ssn := 1
  tryN := 0
  arrived := [1]
  endedTiles := []
  op := none
  operand := 0
  result := 0
  abortCause := 0
  abortTile := 0
  abortPhase := 0
  abortCycle := 0
  lost := false
  timer := 0
  firstJoin := none
  joinSsn := []
  gone := false
  resetMods := []
  holdReq := false
  commits := 0
  hdEff := []

/-- A state with the region. -/
def inReg (r : Region) (s : State) : State := { s with regions := [r], nextSerial := 8 }

/-- Receive and send entries up to cycle 2^20, alone and beside an entry of the same cycle; a send of no bytes. -/
theorem wit_ExchangeScheduleCompletes :
    let s (n : Nat) (x2 : W) (l : List XEntry) : State :=
      inReg (reg .closing) (recs 8 (mkRec 0 n 64 7) 0 (fun g => (g.wx 1 1).wx 2 x2) fun tl => { tl with xsched := l })
    let e (b : Bool) (n c : Nat) : XEntry := ⟨b, 1, false, 0, mkRec 0 n 64 7, c, n, false, [], false⟩
    let w := s 64 0xFFFFF []
    w.turn = .tile 0 8 ∧ firstOut (runsOf (w.recReg 3) 0 64) = none ∧ recExtent (w.recReg 3) = 64 ∧
      (w.rx 2).toNat + (64 + 63) / 64 ≤ 2 ^ 20 ∧ (w.tile 0).xsched.length < 1024 ∧ (w.rx 1).toNat = 1 ∧ w.sameRegion 0 1 = true ∧
      modOfTile 1 = modOfTile 0 ∧ (w.tile 0).xsched = [] ∧ recExtent ((s 0 0 []).recReg 3) = 0 ∧
      (e true 64 3).collides (e true 128 2) 0 = true ∧ (e true 64 4).collides (e true 128 2) 0 = false ∧
      (e false 64 3).collides (e false 128 2) 0 = true ∧ (e false 64 3).collides (e true 128 2) 0 = false := by decide

set_option maxRecDepth 4000 in
theorem wit_MessagesComplete :
    (let s (n : Nat) : State := inReg (reg .closing) (onT 0 (fun g => (g.wx 1 1).wx 2 0x1EFFC0)
       fun tl => { tl with cur := { tl.cur with outbox := List.replicate n ⟨false, 1, 0, List.replicate 64 0⟩ } })
     (s 255).turn = .tile 0 0 ∧ ((s 255).rx 1).toNat < 2 ^ 28 ∧ (s 255).sameRegion 0 ((s 255).rx 1).toNat = true ∧
       (s 255).canLoad ((s 255).rx 2) 64 ∧ ((s 255).tile 0).cur.outbox.length < 256 ∧ 256 ≤ ((s 256).tile 0).cur.outbox.length ∧
       (let e := leNat ((((s 255).tile 0).tm.bytes ((s 255).rx 2).toNat 64).take 8) % 2 ^ 21; e % 4 = 0 ∧ e < 0x1F0000)) ∧
    (let s (c : Vector (BitVec 7) 4) : State := onT 0 (fun g => g.wx 1 0x1EFFC0) fun tl =>
       { tl with mbSrc := [(64 * 3 + 63, 9)], cur := { tl.cur with mbHead := tl.cur.mbHead.set 3 63, mbCount := c } }
     let one := (Vector.replicate 4 (0 : BitVec 7)).set 3 64
     (s one).canStore ((s one).rx 1) 64 ∧ ((s one).tile 0).cur.mbCount[(3 : Fin 4)] ≠ 0 ∧
       (∀ k : Fin 4, k < 3 → ((s one).tile 0).cur.mbCount[k] = 0) ∧
       ((s one).tile 0).mbSrc.find? (fun x => decide (x.1 = 64 * 3 + 63)) = some (64 * 3 + 63, 9) ∧ (3, (64 * 3 + 63) % 64) ∉ ((s one).tile 0).badMb ∧
       ∀ k : Fin 4, ((s (Vector.replicate 4 0)).tile 0).cur.mbCount[k] = 0) :=
  ⟨⟨rfl, by decide, by decide, load_ok (by decide), by decide, by decide, by decide⟩,
    store_ok rfl (by decide), by decide, by decide, by decide, by decide, by decide⟩

/-- Tile 0 with its node in the exchange phase, which began at clk 0. -/
def exch (f : Tile → Tile) : State :=
  { onT 0 (fun g => { g with st := .synced }) fun tl => f { tl with node := .exch, xStart := some 0 } with clk := 100 }

theorem wit_ExchangePhaseRuns :
    (let p : Down := ⟨0, 0, 1, 0, 0, 0, 500, 0⟩
     let s := exch fun tl => { tl with node := .arrived, down := [p] }
     (s.tile 0).node = .arrived ∧ (s.tile 0).down = p :: [] ∧ p.kind = 0 ∧ p.sentAt / 2 < s.clk / 2 ∧ s.clk ≤ p.instant) ∧
    (let s := exch fun tl => { tl with node := .arrived, xStart := some 99 }
     (s.tile 0).node = .arrived ∧ (s.tile 0).xStart = some 99 ∧ 99 ≤ s.clk ∧ s.clk < 99 + 2 ∧ ∀ c ∈ (s.tile 0).col, c.status ≠ .unfit) ∧
    (let e : XEntry := ⟨true, 1, false, 0, mkRec 0 64 64 7, 50, 64, false, [], false⟩
     let s := exch fun tl => { tl with xsched := [e] }
     (s.tile 0).node = .exch ∧ (s.tile 0).dueSend ((s.tile 0).xCycle s.clk) = some (e, 0) ∧ (s.tile 0).col = [] ∧
       (let i := (s.tile 0).xCycle s.clk - e.cyc; (s.tile 0).badRuns (runsOf e.rc (64 * i) (min 64 (e.n - 64 * i))) = none)) ∧
    (let f (d : Nat) : Flit := ⟨1, 0, 50, false, d, 0, 0, 64, List.replicate 64 7⟩
     let snd : XEntry := ⟨true, 0, false, 0, mkRec 0 64 64 7, 44, 64, false, [0], false⟩
     let s (d : Nat) : State :=
       { (exch fun tl => { tl with winEff := tl.winEff.set 1 4 }).setTile 1 { Tile.reset with xsched := [snd] } with flits := [f d] }
     (s 0).flits = [f 0] ∧ (f 0).cycle ≤ (s 0).clk / 2 ∧ (f 0).dst = 0 ∧ (f 0).ra = false ∧ ((s 0).tile 0).node = .exch ∧ ((s 0).tile 0).admitsRuns [((f 0).daddr, (f 0).n)] = true ∧
       (((s 0).tile 0).fillRuns (layRuns [((f 0).daddr + 64 * (f 0).i, (f 0).data.length)] (f 0).data)).2 = none ∧
       ((s 0).tile 0).admitsRuns [((f 0x1EFFC0).daddr, (f 0x1EFFC0).n)] = false ∧ (f 0x1EFFC0).src ≠ 0 ∧
       ((s 0x1EFFC0).tile 1).xsched[(f 0x1EFFC0).entry]? = some snd ∧ snd.closed = false) ∧
    (let f : Flit := ⟨1, 0, 50, false, 0, 0, 0, 64, List.replicate 64 7⟩
     let s : State := { exch (fun tl => { tl with winEff := tl.winEff.set 1 4 }) with flits := [f, f] }
     s.flits = [f, f] ∧ f.cycle ≤ s.clk / 2 ∧ f.dst = 0) ∧
    (let x : XEntry := ⟨false, 1, true, 0, mkRec 0 64 64 7, 43, 64, false, [], false⟩
     let s := exch fun tl => { tl with xsched := [x] }
     (s.tile 0).xsched[0]? = some x ∧ x.send = false ∧ x.late = false ∧ x.closed = false ∧ 1 ≤ x.n ∧
       x.first 0 < (s.tile 0).xCycle s.clk ∧ 0 ∉ x.moved) ∧
    (let o (d : Nat) : OutEntry := ⟨false, d, 0, List.replicate 64 0⟩
     let s := exch fun tl => { tl with xEnded := true, cur := { tl.cur with outbox := [o 1, o (2 ^ 28 - 1)] } }
     (s.tile 0).xEnded = true ∧ (s.tile 0).cur.outbox[0]? = some (o 1) ∧ (s.tile 0).cur.outbox[1]? = some (o (2 ^ 28 - 1)) ∧
       0 ∉ (s.tile 0).offered ∧ (4, 0) ∉ (s.tile 0).badMb ∧ modOfTile 1 = modOfTile 0 ∧ modOfTile (2 ^ 28 - 1) ≠ modOfTile 0 ∧
       (s.die (dieOfTile 0)).lk.port.up = false ∧ (s.tile 0).recorded = []) := by decide

/-- A send and a receive that are over, the receive landed, closed or late; and one that still waits. -/
theorem wit_ExchangeEnds :
    let s (m : List Nat) (closed late : Bool) := exch fun tl => { tl with
       xsched := [⟨true, 1, false, 0, mkRec 0 64 64 7, 38, 64, false, [0], false⟩, ⟨false, 1, true, 0, mkRec 0 64 64 7, 44, 64, late, m, closed⟩] }
     let done (s : State) : Prop := ∀ e ∈ (s.tile 0).xsched, if e.send = true then
         e.cyc + (e.n + 63) / 64 - 1 + 2 * reelLatency 0 e.peer ≤ (s.tile 0).xCycle s.clk
       else e.first 0 + (e.n + 63) / 64 - 1 ≤ (s.tile 0).xCycle s.clk ∧ (e.closed = true ∨ e.late = true ∨ ∀ k, k < (e.n + 63) / 64 → k ∈ e.moved)
     ((s [0] false false).tile 0).xEnded = false ∧ done (s [0] false false) ∧ done (s [] true false) ∧ done (s [] false true) ∧
       (let e : XEntry := ⟨false, 1, true, 0, mkRec 0 64 64 7, 44, 64, false, [], false⟩
        e ∈ ((s [] false false).tile 0).xsched ∧ e.send = false ∧ e.closed = false ∧ e.late = false ∧ 0 < (e.n + 63) / 64 ∧ 0 ∉ e.moved) := by decide

/-- A group of three tiles 0, 1, 2: the pre and post steps pair ranks 2 and 0. -/
def grp3 : Rec := BitVec.ofNat 256 (3 * 2 ^ 32 + 1 * 2 ^ 64 + 1 * 2 ^ 96 + 1 * 2 ^ 160)

/-- Stream 4095 of region 5, in the router of die 0. -/
def routed (s : State) : State :=
  s.modDie 0 fun x => { x with lk := { x.lk with router := [(4095, BitVec.ofNat 64 (2 ^ 63 + 5 * 2 ^ 40))] } }

theorem wit_GroupsAndCollectiveIssue :
    (let s (g : Nat) : State := onT 8 (fun a => a.wx 1 0x1EFFE0) fun tl => { tl with tm := tl.tm.write 0x1EFFE0 (leBytes 32 g) }
     (s grp3.toNat).turn = .tile 0 8 ∧ (s grp3.toNat).canLoad ((s grp3.toNat).rx 1) 32 ∧ grpOk (BitVec.ofNat 256 grp3.toNat) = true ∧
       grpOk (BitVec.ofNat 256 0) = false) ∧
    (Agent.reset.group = none ∧ grpSize grp3 < 2 ^ 21 ∧ grpSize grp3 = 3 ∧ grpAddr grp3 2 = 2 ∧ (∀ q, q < 2 → grpAddr grp3 q ≠ 2) ∧
       (∀ r, r < grpSize grp3 → grpAddr grp3 r ≠ 3) ∧ 2 ^ 1 ≤ grpSize grp3 ∧ grpSize grp3 < 2 ^ (1 + 1) ∧ 1 < 2 ^ 1 ∧ 0 < 1 ∧ 2 ^ 1 ≤ 2 ∧
       2 < grpSize grp3 ∧ 0 < grpSize grp3 - 2 ^ 1 ∧ (grpSize grp3 - 2 ^ 1 ≤ 1 ∧ 1 < 2 ^ 1) ∧ grpSize grp3 ≤ 3) ∧
    (let s (c n : Nat) : State := routed (inReg (reg .closing) (recs 8 (mkRec 0 64 64 7) 0
       (fun g => { ((g.wx 1 (BitVec.ofNat 64 c)).wx 2 1) with group := some grp3 }) fun tl =>
         { tl with region := 5, inReg := true, haulQ := List.replicate n ⟨0, 0, .copy, 0, 0, 0, 0, 1, 0, .queued, 0, none, []⟩ }))
     (s 4095 15).turn = .tile 0 8 ∧ (s 4095 15).partnerTile 2 = some 1 ∧ (∀ f : Fin 4, (s 4095 15).colCheck f.val ((s 4095 15).recReg 3) 1 2 = none) ∧
       ((s 4095 15).tile 0).haulQ.length < 16 ∧ 1 ≤ recExtent ((s 4095 15).recReg 3) ∧
       (let x := (kvGet 0 ((s 4095 15).die (dieOfTile 0)).lk.router 4095).toNat
        x / 2 ^ 63 = 1 ∧ x / 2 ^ 40 % 2 ^ 20 = ((s 4095 15).tile 0).region.toNat) ∧
       (∀ f : Fin 4, (s 4096 0).colCheck f.val ((s 4096 0).recReg 3) 1 2 = some (7, 4096))) :=
  ⟨⟨rfl, load_ok (by decide), by decide, by decide⟩, by decide, by decide⟩

theorem wit_CollectivePhaseRuns :
    let r (f : Nat) (st : ColStatus) : ColEntry := ⟨decide (f = 0), f, 9, 1, mkRec 0 4 64 2, 4, 5, 0, some [1, 2, 3, 4], st⟩
    let x (o : Nat) : ColXfer := ⟨1, 0, 9, o, 0, [1, 2, 3, 4]⟩
    let s (f : Nat) (o : Nat) : State :=
      { exch (fun tl => { tl with col := [r f .waiting], winEff := tl.winEff.set 1 4, ctmoEff := 25 }) with xfers := [x o] }
    (∀ y, ((s 2 0).tile 0).mixed ((s 2 0).reelRuns 0) 0 (r 2 .waiting) y = false) ∧
      ((s 2 0).tile 0).node = .exch ∧ ((s 0 0).tile 0).col[0]? = some (r 0 .waiting) ∧ (r 0 .waiting).send = true ∧
      (r 0 .waiting).status = .waiting ∧ (r 0 .waiting).data = some [1, 2, 3, 4] ∧ modOfTile (r 0 .waiting).peer = modOfTile 0 ∧
      (s 2 0).xfers[0]? = some (x 0) ∧ (x 0).dst = 0 ∧ (x 0).src ≠ 0 ∧ ((s 2 1).tile 0).colMatch (x 1) = none ∧
      ((s 2 0).tile 0).colMatch (x 0) = some (r 2 .waiting, 0) ∧ (r 2 .waiting).n = (x 0).data.length ∧
      ((s 2 0).tile 0).admitsRuns (runsOf (r 2 .waiting).rc 0 4) = true ∧ ((s 2 0).tile 0).badRuns (runsOf (r 2 .waiting).rc 0 4) = none ∧
      (((((s 2 0).tile 0).setCol 0 .done).landCol 2 (s 2 0).free (((s 2 0).tile 0).mixed ((s 2 0).reelRuns 0) 0 (r 2 .waiting))
        (landParts 2 (runsOf (r 2 .waiting).rc 0 4) (x 0).data)).any fun tl => decide (tl.sem 5 < 65535)) = true ∧
      ((s 2 0).tile 0).xStart = some 0 ∧ ((s 2 0).tile 0).col[0]? = some (r 2 .waiting) ∧ (r 2 .waiting).send = false ∧
      0 + 4 * ((s 2 0).tile 0).ctmoEff.toNat ≤ (s 2 0).clk ∧ ((s 2 0).tile 0).recorded = [] ∧
      modOfTile ({ r 0 .waiting with peer := 1024 } : ColEntry).peer ≠ modOfTile 0 ∧ ((s 0 0).die 0).lk.port.up = false ∧
      (((s 0 0).modDie 0 fun x => { x with lk := { x.lk with port := { x.lk.port with up := true } } }).die 0).lk.port.up = true ∧
      [1, 2, 3, (4 : Byte)].length ≤ 8192 :=
  ⟨fun _ => rfl, by decide⟩

/-! ## Witnesses: the barrier -/

theorem wit_SyncAndQueryComplete :
    (let s := onT 8 (fun g => g.wx 2 1) fun tl => { tl with ssnum := 1 }
     s.turn = .tile 0 8 ∧ s.drained ∧ s.me.streams = [] ∧ (1 : BitVec 2).toNat < 2 ∧ (6 : BitVec 3).toNat < 7 ∧
       true = decide ((1 : BitVec 2) = 1 ∨ ((0 : BitVec 5) ≠ 0 ∧ (s.rx 0).toNat % 2 ^ 48 ≠ (s.tile 0).ssnum.toNat)) ∧
       false = decide ((0 : BitVec 2) = 1 ∨ ((2 : BitVec 5) ≠ 0 ∧ (s.rx 2).toNat % 2 ^ 48 ≠ (s.tile 0).ssnum.toNat))) ∧
    (onT 8 id fun tl => { tl with haulQ := [⟨0, 0, .copy, 0, 0, 0, 0, 4, 0, .queued, 0, none, []⟩] }).hartBusy = true :=
  ⟨⟨rfl, ⟨by decide, by decide⟩, by decide⟩, by decide⟩

/-- Tile 0 of the region where every agent of it has ended or synchronized, where one still runs, and where one stopped it. -/
theorem wit_CloseArrivalReduces :
    let s (st : AState) (stop : Bool) : State := inReg (reg .closing) (onT 0 (fun g => { g with st := st, sync := some ⟨1, false, 6, 3⟩ })
      fun tl => { tl with stopping := stop, recorded := if stop then [⟨0x13, none⟩] else [] })
    (s .synced false).regionOf 0 = some (reg .closing) ∧ ((s .synced false).tile 0).node = .run ∧ (reg .closing).nmod = 1 ∧
      ((s .synced false).tile 0).stopping = false ∧ ((s .synced false).tile 0).mayArrive = true ∧ (s .synced false).ffBusy 0 = false ∧
      ((s .synced false).tile 0).syncs = ⟨1, false, 6, 3⟩ :: [] ∧ ((s .synced false).tile 0).causes = [] ∧
      ((s .run false).tile 0).mayArrive = false ∧ ((s .run false).tile 0).syncs = [] ∧
      ((s .run true).tile 0).stopping = true ∧ ((s .run true).tile 0).causes ≠ [] ∧ 6 < 7 := by decide

/-- A packet of tile 0 for the region. -/
def packet (kind : Nat) (abort : Bool) : Up := ⟨kind, 7, 1, abort, if abort then 0x16 else 0, some 6, 3, 0, 0, false, false⟩

theorem wit_RootCloseVote :
    let s (a : Bool) (r : Region) : State := { inReg r (onT 0 id id) with up := [packet 0 a] }
    let o (k : Nat) : SyncArg := ⟨1, false, k, 0⟩
    let two (k : Nat) : State := inReg (reg .closing) ((onT 0 (fun g => { g with st := .synced, sync := some (o 0) }) id).setTile 1
      (Tile.reset.setAgent 0 { Agent.reset with st := .synced, sync := some (o k) }))
    (s true (reg .closing)).up = [packet 0 true] ∧ (packet 0 true).kind = 0 ∧ (s true (reg .closing)).region? 7 = some (reg .closing) ∧
      (reg .closing).phase = .closing ∧ (packet 0 true).ssn = (reg .closing).ssn ∧ (packet 0 true).abort = true ∧ (packet 0 false).abort = false ∧
      (s false (reg .closing)).opsDiffer (reg .closing).tiles = false ∧ (two 6).opsDiffer (reg .closing).tiles = true ∧
      (reg .closing).all (natInsert (reg .closing).arrived 0) = true ∧
      ({ reg .closing with arrived := [] } : Region).all (natInsert [] 0) = false ∧ (reg .closing).op = none ∧ (packet 0 false).op ≠ none ∧
      ({ reg .closing with op := some 6 } : Region).op = some 6 ∧ ({ packet 0 false with op := none } : Up).op = none ∧
      (reg .closing).nmod ≤ 1 ∧ 0 ∈ (reg .closing).tiles ∧
      ¬({ reg .closing with nmod := 2 } : Region).nmod ≤ 1 ∧
      ({ packet 0 false with ssn := 2 } : Up).ssn ≠ (reg .closing).ssn := by decide

/-- A tile of a region of two modules that the root's packets reach, and one that they do not; of a region of one they reach every tile. -/
theorem wit_reaches :
    let r : Region := { reg .closing with nmod := 2 }
    let t := State.reset.modDie (16 * 0 + podPort 0) fun x => { x with lk := { x.lk with port := { x.lk.port with up := true } } }
    t.reaches r 0 ∧ ¬State.reset.reaches r 0 ∧ State.reset.reaches (reg .closing) 0 := by
  refine ⟨fun _ => ⟨rfl, ?_⟩, fun h => ?_, fun h => absurd h (by decide)⟩
  · simp [State.podUp, State.port, State.modDie, State.setDie, State.die, modOfTile, State.reset, kvSet, kvGet]
  · exact absurd (h (by decide)).2 Bool.false_ne_true

theorem wit_RootSealVote :
    let s (k : Nat) (a : Bool) (r : Region) : State := { inReg r (onT 0 id id) with up := [packet k a] }
    let r (ph : RegionPhase) (n : Nat) : Region := { reg ph with tryN := n }
    let ended : Region := { reg .sealing with endedTiles := [0, 1] }
    let w : State := { inReg (reg .closing) (onT 0 id id) with clk := 400000 }
    (s 1 true (reg .sealing)).region? 7 = some (reg .sealing) ∧ (packet 1 true).kind = 1 ∧ (packet 1 true).abort = true ∧
      (reg .sealing).phase = .sealing ∧ (packet 1 false).abort = false ∧ (reg .sealing).all (natInsert (reg .sealing).arrived 0) = true ∧
      ended.all ended.endedTiles = true ∧ (reg .sealing).all (reg .sealing).endedTiles = false ∧ (reg .sealing).holdReq = false ∧
      ({ s 1 false (reg .sealing) with up := [] } : State).headHolds (reg .sealing) ((reg .sealing).commits + 1) = false ∧
      ({ reg .sealing with holdReq := true } : Region).holdReq = true ∧
      (packet 2 false).kind = 2 ∧ (reg .restoring).phase = .restoring ∧ (reg .restoring).lost = false ∧ (packet 2 false).lost = false ∧
      (r .restoring 3).tryN ≤ (r .restoring 3).fields.retry ∧ (r .restoring 4).fields.retry < (r .restoring 4).tryN ∧
      ({ packet 2 false with lost := true } : Up).lost = true ∧
      (reg .closing).timer + 4 * (reg .closing).fields.tmo ≤ w.clk ∧ w.rootSilent (reg .closing) = false ∧
      (reg .sealing).timer + 4 * (reg .sealing).fields.tmo ≤ w.clk ∧ w.rootSilent (reg .sealing) = false ∧
      (let two : Region := { reg .restoring with nmod := 2, arrived := [0], parts := [⟨0, [0, 1], 0, 0x100, 2, [], false, 0⟩, ⟨1, [1024], 0, 0x100, 2, [], false, 0⟩] }
       1 ∈ two.silent ∧ 1 < two.nmod ∧ (∃ x ∈ two.parts, x.m ∉ two.silent) ∧ w.rootSilent two = false ∧ two.timer + 4 * two.fields.tmo ≤ w.clk) ∧
      (onT 0 id id).clk < (reg .closing).timer + 4 * (reg .closing).fields.tmo := by decide

/-- What the two tiles of the region share at a commit: two deltas of one byte, a reduction, a message and a spawn request with room and
without, an entry replaced and one marked, the last atom of a launch port with `GO` and without. -/
theorem wit_CommitShared :
    let r : Region := reg .sealing
    let d (f : Option Nat) (pa seq : Nat) : Delta := ⟨f, 0, pa, 0, List.replicate 8 1, seq, true⟩
    let s (f : Tile → Tile) : State := inReg r (onT 0 id f)
    r.parts.Pairwise (fun p q => p.m ≠ q.m) ∧ r.fields.lport = 0 ∧
      (let t := s fun tl => { tl with deltas := [d none 0x20000 0, d none 0x20004 1] }
       t.writerOrder r 0 = [(0, d none 0x20000 0), (0, d none 0x20004 1)]) ∧
      (let t := s fun tl => { tl with deltas := [d (some 0) 0x20000 0] }
       t.writerOrder r 0 = [(0, d (some 0) 0x20000 0)] ∧ t.hbmBad 0 0x20000 8 = none) ∧
      (let o (sp : Bool) : OutEntry := ⟨sp, 1, 3, List.replicate 64 7⟩
       let full (sp : Bool) : State := (s fun tl => { tl with cur := { tl.cur with outbox := [o sp] } }).setTile 1
         { Tile.reset with cur := { Tile.reset.cur with mbCount := Vector.replicate 4 64, agents := Vector.replicate 10 { Agent.reset with st := .ready } } }
       let room (sp : Bool) : State := s fun tl => { tl with cur := { tl.cur with outbox := [o sp] } }
       0 ∈ r.tiles ∧ 1 ∈ r.tiles ∧ ((room true).tile 0).cur.outbox = [o true] ∧ (∀ v ∈ r.tiles, v ≠ 0 → ((room true).tile v).cur.outbox = []) ∧
         (((room false).tile 1).cur.mbCount[(3 : Fin 4)]).toNat < 64 ∧ 64 ≤ (((full false).tile 1).cur.mbCount[(3 : Fin 4)]).toNat ∧
         (∃ i : Fin 10, i.val < 8 ∧ (((room true).tile 1).cur.agents[i]).st = .free) ∧
         ∀ i : Fin 10, i.val < 8 → (((full true).tile 1).cur.agents[i]).st ≠ .free) ∧
      (let e (v : W) : State := (s fun tl => { tl with routes := [⟨4095, none⟩] }).modDie 0 fun x => { x with lk := { x.lk with router := [(4095, v)] } }
       let valid (v : W) (k : Nat) : Prop := (((e v).die 0).lk.entry 4095).toNat / 2 ^ (9 * (k % 4)) % 2 = 1
       ((e 1).tile 0).routes = [⟨4095, none⟩] ∧ (∀ v ∈ r.tiles, v ≠ 0 → ((e 1).tile v).routes = []) ∧
         ((((e (1 + 2 ^ 27)).die 0).lk.entry 4095).toNat / 2 ^ 36 % 4 = 0 ∧ valid (1 + 2 ^ 27) (0 + 3) ∧ ¬valid (1 + 2 ^ 27) (0 + 1) ∧ ¬valid (1 + 2 ^ 27) (0 + 2)) ∧
         (¬valid 1 (0 + 1) ∧ ¬valid 1 (0 + 2) ∧ ¬valid 1 (0 + 3))) ∧
      (let p : Region := { r with fields := { leaf with lport := 0x1000 } }
       let t (v : Nat) : State := (s id).modModule 0 fun y => { y with hbm := y.hbm.write 0x10F0 (leBytes 8 v) }
       p.fields.lport ≠ 0 ∧ (t 0).writerOrder p 0 = [] ∧ (t 0).hbmBad 0 (0x1000 + 16 * 15) 16 = none ∧
         (t (2 ^ 63 + 0x100)).hbmNat 0 (0x1000 + 16 * 15) 8 / 2 ^ 63 % 2 = 1 ∧ (t 0).hbmNat 0 (0x1000 + 16 * 15) 8 / 2 ^ 63 % 2 = 0 ∧
         (((t 0).module 0).queues[(15 : Fin 16)]).waiting.length < 64) := by decide

theorem wit_TileReleases :
    (let p (k ph c : Nat) : Down := ⟨k, ph, 2, c, 0, 9, 500, 0⟩
     let s (n : NodeState) (q : Down) : State := { inReg (reg .closing) (onT 0 id fun tl => { tl with node := n, down := [q] }) with clk := 100 }
     ((s .seal (p 1 0 0)).tile 0).down = p 1 0 0 :: [] ∧ (p 1 0 0).sentAt / 2 < (s .seal (p 1 0 0)).clk / 2 ∧
       (s .seal (p 1 0 0)).regionOf 0 = some (reg .closing) ∧ ((s .seal (p 1 0 0)).tile 0).node = .seal ∧
       (s .seal (p 1 0 0)).clk ≤ (p 1 0 0).instant + ((s .seal (p 1 0 0)).tile 0).slot.toNat * (reg .closing).fields.delta * 4 ∧
       ((s .hold (p 1 1 0)).tile 0).node = .hold ∧ (p 1 1 0).phase = 1 ∧ (p 3 0 0).kind = 3 ∧ (reg .closing).phase ≠ .ending ∧
       (p 3 0 0).cause = 0 ∧ (p 3 0 0x15).cause ≠ 0) ∧
    (let q : SyncArg := ⟨31, false, 6, 3⟩
     let s := onT 9 (fun g => { g with st := .synced, sync := some q }) fun tl => { tl with node := .relwait, startAt := some 0 }
     (s.tile 0).node = .relwait ∧ (s.tile 0).startAt = some 0 ∧ 0 ≤ s.clk ∧ (s.tile 0).fresh = false ∧ (s.tile 0).spawns = [] ∧
       (s.tile 0).cur.agents[(9 : Fin 10)].st = .synced ∧ (s.tile 0).cur.agents[(9 : Fin 10)].sync = some q ∧ q.d ≠ 0 ∧
       (s.tile 0).cur.agents[(0 : Fin 10)].st ≠ .synced ∧ s.firstToStart 0 = true) ∧
    (let o : OutEntry := ⟨true, 0, 0, List.replicate 64 4⟩
     let s := onT 9 (fun g => { g with st := .synced }) fun tl => { tl with
       node := .relwait, startAt := some 0, fresh := true, spawns := [o], cur := { tl.cur with accSt := tl.cur.accSt.set 3 (.held 1 false) } }
     (s.tile 0).node = .relwait ∧ (s.tile 0).startAt = some 0 ∧ 0 ≤ s.clk ∧ (s.tile 0).fresh = true ∧ (s.tile 0).spoiled = [] ∧ (s.tile 0).spawns = [o] ∧
       (0 : Fin 10).val < 8 ∧ ((s.tile 0).cur.agents[(0 : Fin 10)]).st = .free ∧ (∀ b : Fin 10, b < 0 → ((s.tile 0).cur.agents[b]).st ≠ .free) ∧
       (s.tile 0).cur.accSt[(3 : Fin 16)] = .held 1 false) ∧
    (let r : Region := { reg .ending with abortCause := 0x16 }
     let s := inReg r ((onT 0 id fun tl => { tl with node := .stop }).setTile 1 { Tile.reset with node := .stop })
     s.region? 7 = some r ∧ r.parts.find? (fun p => decide (p.m = 0)) = some ⟨0, [0, 1], 0, 0x100, 1, [], false, 0⟩ ∧ r.phase = .ending ∧
       (∀ w ∈ [0, 1], (s.tile w).node = .stop) ∧ r.abortCause ≠ 0 ∧ (reg .ending).abortCause = 0) := by decide

/-- The last line of tile memory to undo, in a tile without volatile segments. -/
theorem wit_AbortRestores :
    let p : Down := ⟨2, 1, 1, 0x0C, 1, 0, 0, 0⟩
    let v : VsLine := ⟨false, 31743, List.replicate 64 5, [], [], false⟩
    let s (n : NodeState) : State := { inReg (reg .restoring) (onT 0 id fun tl => { tl with node := n, down := [p], vs := [v] }) with clk := 100 }
    (s .exch).regionOf 0 = some (reg .restoring) ∧ ((s .exch).tile 0).down = p :: [] ∧ p.kind = 2 ∧ p.sentAt / 2 < (s .exch).clk / 2 ∧
      ((s .exch).tile 0).node = .exch ∧ ((s .relwait).tile 0).node = .relwait ∧ (∀ i, i < 31 → ((s .exch).tile 0).entering.kept i = true) ∧
      ((s .exch).tile 0).entering.pfServe = [] ∧ (∀ i, i < 31 → ((s .relwait).tile 0).entering.kept i = true) ∧ ((s .exch).tile 0).vs = [v] ∧ v.acc = false ∧ v.old.length = 64 ∧
      v.err = false ∧ ({ v with err := true } : VsLine).err = true := by decide

theorem wit_BarrierStepsRun :
    let s (f : Tile → Tile) : State := { inReg (reg .restoring) (onT 0 id f) with clk := 4000 }
    let d : Delta := ⟨none, 0x10000, 0x20000, 0, List.replicate 64 1, 0, false⟩
    let small (t : State) : State := t.modDie 0 fun x => { x with qd := { x.qd with qcrec := [9] } }
    (s id).regionOf 0 = some (reg .restoring) ∧ (reg .restoring).nmod = 1 ∧
      (let t := s fun tl => { tl with node := .rollback, tests := [(0, 30, 63)] }
       (t.tile 0).node = .rollback ∧ (t.tile 0).tests = (0, 30, 63) :: [] ∧ 31 * 63 + 30 ∉ (t.tile 0).bad) ∧
      (let t := s fun tl => { tl with node := .rollback }; (t.tile 0).tests = [] ∧ (t.tile 0).unspared = []) ∧
      (let t := s fun tl => { tl with node := .exch, xEnded := true }
       (t.tile 0).node = .exch ∧ (t.tile 0).recorded = [] ∧ (t.tile 0).exchangeDone = true ∧ t.incoming 0 = false) ∧
      (let t := s fun tl => { tl with node := .exch, deltas := [d] }
       (t.tile 0).deltas[0]? = some d ∧ d.acked = false ∧ (t.tile 0).node = .exch ∧
         t.deltaUse 0 + d.room ≤ kvGet 256 (reg .restoring).hdEff 0 * 2 ^ 20 ∧
         kvGet 256 [(0, 0)] 0 * 2 ^ 20 < t.deltaUse 0 + d.room ∧ ((small t).die 0).qd.qcrec = 9 :: []) ∧
      (((s id).tile 0).node = .run ∧ ((s id).tile 0).startClk + 4000 * (((s id).tile 0).mshWin.toNat + 1) ≤ (s id).clk ∧
        ((s id).tile 0).mshWin.toNat < 65535 ∧ (s id).region? 7 = some (reg .restoring)) ∧
      (∀ w ∈ (reg .restoring).tiles, ((s id).tile w).inReg = false ∨ ((s id).tile w).node = .stop) ∧ ((s id).module (modOfTile 0)).alive = true ∧
      (let t := s fun tl => { tl with inReg := true }
       0 ∈ (reg .restoring).tiles ∧ (t.tile 0).inReg = true ∧ (t.tile 0).node ≠ .stop ∧ (t.tile 0).node ≠ .relwait ∧ (t.tile 0).launching = false) := by decide

/-! ## Witnesses: CSRs, images, regions -/

theorem wit_CsrsComplete :
    (regs 0 0 0).turn = .tile 0 0 ∧ (7 : Fin 10).val < 8 ∧ (9 : Fin 10).val = 9 ∧ csrReadOnly 0x000 = true ∧ csrReadOnly 0x20F = true ∧
      isDieCsr 0x300 = true ∧ isDieCsr 0x001 = false ∧
      (let s := onD 1 id fun x => { x with qd := { x.qd with qcrec := [9] }, mc := { x.mc with physa := 1 } }
       s.turn = .svc 0 1 ∧ isDieCsr 0x353 = true ∧ (0x353 : BitVec 12) ≠ 0x305 ∧ (0x353 : BitVec 12) ≠ 0x354 ∧ (0x353 : BitVec 12) ≠ 0x35C ∧
         (s.die 0).qd.qcrec = 9 :: [] ∧ dieReadOnly 0x300 = true ∧ (s.die 0).mc.physa.toNat % 8 ≠ 0) := by decide

theorem wit_ContextImages :
    let s (u pa : W) (q : Bool) : State := (onD 0 (fun g => (g.wx 1 u).wx 2 pa) id).setTile 3 { Tile.reset with inReg := q, node := .stop }
    let busy : State := (s 3 0x1000 true).modTile 3 fun tl => { tl with node := .run }
    let image : State := (s 3 0x1000 false).modModule 0 fun y => { y with hbm := y.hbm.write 0x1000 (leBytes 8 (2 ^ 63)) }
    (s 3 0x1000 true).turn = .svc 0 0 ∧ ((s 3 0x1001 true).rx 2).toNat % 4096 ≠ 0 ∧ ((s 3 0x1000 true).rx 2).toNat % 4096 = 0 ∧
      ((s 3 0xBFFFD80000 true).rx 2).toNat % 4096 = 0 ∧ ((s 3 0xBFFFD80000 true).rx 2).toNat + 0x280000 ≤ 0xC000000000 ∧
      (busy.tile 3).quiescent = false ∧ ((s 3 0x1000 true).tile 3).quiescent = true ∧ ((s 3 0x1000 true).rx 1).toNat < 2 ^ 28 ∧
      modOfTile 3 = modOfDie 0 ∧ ((s 3 0x1000 true).tile 3).inReg = true ∧ ((s 3 0x1000 true).tile 3).cur.outbox = [] ∧
      (image.tile 3).inReg = false ∧ image.hbmNat 0 0x1000 8 / 2 ^ 63 = 1 ∧ (image.module 0).badHbm = [] := by decide

/-- An RCB of region 5 at 0x100 with a tile map of tile 0 alone at 0x200, with the strands of `SMASK` = 0x81. -/
def rcb (leafBit : Nat) : Memory :=
  (((Memory.empty.write 0x100 (leBytes 8 (5 + leafBit * 2 ^ 20))).write 0x160 (leBytes 8 0x200)).write 0x168 (leBytes 8 1)).write 0x200
    (leBytes 8 (0x81 * 2 ^ 34))

/-- Module 0 with the RCB at the head of launch queue 15. -/
def queued (leafBit : Nat) : State :=
  State.reset.modModule 0 fun y => { y with bootOk := true, hbm := rcb leafBit, queues := y.queues.set 15 ⟨[0x100], none⟩ }

set_option maxRecDepth 4000 in
theorem wit_LaunchRuns :
    ((queued 1).module 0).alive = true ∧ ((queued 1).module 0).bootOk = true ∧ (State.reset.module 0).bootOk = false ∧ (queued 1).openHeads 0 = [(15, 0x100)] ∧ (queued 1).rcbNmod 0 0x100 = 1 ∧
      (queued 0).launchCheck 0 0x100 = some 0x100 ∧ (queued 0).hbmBad 0 0x100 8 = none ∧
      (queued 1).launchCheck 0 0x100 = none ∧ (queued 1).startable 0 0x100 = true ∧
      (((queued 1).rcbFields 0 ((queued 1).rcbChain 0 9 0x100)).headD rcbDefaults).ffnrows = 0 ∧
      ((queued 1).rcbMap 0 0x100)[0]? = some ⟨0, 0, 0x81, 0, 0, 0, 0, 0, 0⟩ ∧
      (let s (f : Tile → Tile) : State := { inReg (reg .launching) (onT 0 id f) with clk := 400000 }
       (s id).region? 7 = some (reg .launching) ∧ (reg .launching).phase = .launching ∧
         (reg .launching).parts = [⟨0, [0, 1], 0, 0x100, 1, [], false, 0⟩] ∧
         (∀ w ∈ [0, 1], ((s id).tile w).isSet = true ∧ ((s id).tile w).recorded = []) ∧
         ((s fun tl => { tl with launchPf := [⟨0, 0, 64, 0, 0, []⟩] }).tile 0).isSet = false ∧ (∀ x ∈ (s id).regions, x.serial = 7 → x = reg .launching) ∧
         0 + 4 * (reg .launching).fields.tmo ≤ (s id).clk) := by decide

theorem wit_JoinsAndRegionCommands :
    (let p (a : Bool) (n : Nat) : Up := ⟨3, 7, 1, a, 0, none, BitVec.ofNat 64 n, 0, 0, false, false⟩
     let r : Region := { reg .launching with nmod := 2, arrived := [0], firstJoin := some 0, operand := 2, joinSsn := [1] }
     let s (q : Up) : State := { inReg r (onT 0 id id) with up := [q], clk := 400000 }
     (s (p false 2)).region? 7 = some r ∧ r.phase = .launching ∧ (s (p false 2)).up = [p false 2] ∧ (p false 2).abort = false ∧
       (∀ n ∈ r.joinSsn, n = (p false 2).ssn.toNat) ∧ r.operand = (p false 2).operand ∧
       (natInsert r.arrived 0).length ≠ (p false 2).operand.toNat ∧ (natInsert r.arrived 1).length = (p false 2).operand.toNat ∧
       (∀ x ∈ r.parts, x.m ∈ r.arrived) ∧ (p true 2).abort = true ∧ r.firstJoin = some 0 ∧
       0 + 4 * r.fields.tmo ≤ (s (p false 2)).clk) ∧
    (let part : Part := ⟨0, [0], 0, 0x100, 1, [], false, 0⟩
     let r (ph : RegionPhase) : Region := { reg ph with parts := [part] }
     let s (ph : RegionPhase) : State := inReg (r ph) (((queued 1).setTile 0 { Tile.reset with inReg := true, region := 5 }).modDie 0
       fun x => { x with ctl := { x.ctl with rcbpa := 0x100 } })
     (s .held).named 0 5 = some (r .held) ∧ (r .held).parts = [part] ∧ part.m = modOfDie 0 ∧ (r .closing).running = true ∧
       (r .held).running = false ∧ (s .held).atRest (r .held) = true ∧ (s .closing).atRest (r .closing) = false ∧ (r .freed).phase = .freed ∧
       (r .closing).phase ≠ .freed ∧ (s .held).mayResume (r .held) part ((s .held).die 0).ctl.rcbpa.toNat = true ∧
       ((s .held).module 0).alive = true ∧ (s .held).copies = [] ∧ ((s .held).tile 0).region = (r .held).id ∧ modOfTile 0 = part.m) := by decide

/-! ## Witnesses: Firefly, windows, links, health -/

/-- Context 15 of die 0, of region 5: row 255 alone. -/
def ctx15 : FfContext := ⟨true, 5, 255, 1, 0, FfConfig.reset, FfConfig.reset⟩

/-- Strand 0 of tile 0 of region 5 with the context, and `h` of the array. -/
def ff5 (h : Firefly → Firefly) : State :=
  (recs 0 (mkRec 0 512 64 1) 0 (fun g => g.wx 1 0) fun tl => { tl with region := 5, inReg := true }).modDie 0 fun x =>
    { x with ff := h { x.ff with ctxs := x.ff.ctxs.set 15 ctx15 } }

def cmd (k : FfKind) (rn : Bool) : FfCmd := ⟨0, 0, k, mkRec 0 512 64 1, 0, 5, 8, rn, 0⟩

set_option maxRecDepth 4000 in
theorem wit_FireflyIssueCompletes :
    let s (n : Nat) : State := ff5 fun ff => { ff with queue := List.replicate n (cmd .key false) }
    let r (n : Nat) : Rec := mkRec 0 n 64 1
    (s 63).turn = .tile 0 0 ∧ some 256 = ((s 63).ffCtx 0).map (fun i => 256 * (((s 63).die (dieOfTile 0)).ff.ctxs[i]).nrows.toNat) ∧
      (s 63).myEntry MatEntry.isRd = none ∧ ((s 63).die 0).ff.coming.length + ((s 63).die 0).ff.queue.length < 64 ∧
      64 ≤ ((s 64).die 0).ff.coming.length + ((s 64).die 0).ff.queue.length ∧
      FfKind.key.cause (r 16) 0 (some 256) = none ∧ (FfKind.key.cause (r 15) 0 (some 256)).isSome = true ∧
      (FfKind.key.cause (r 24) 0 (some 256)).isSome = true ∧ FfKind.state.cause (r 1) 65536 (some 256) = none ∧
      FfKind.beta.cause (r 8) 0 (some 256) = none ∧ FfKind.sigt.cause (r 2048) 0 (some 256) = none ∧
      FfKind.mode.cause (r 8) 0 (some 256) = none ∧ FfKind.edge.cause (r 128) 255 (some 256) = none ∧
      (FfKind.edge.cause (r 128) 256 (some 256)).isSome = true ∧ FfKind.bias.cause (r 512) 0 (some 256) = none ∧
      FfKind.col.cause (r 64) 0 (some 256) = none ∧ FfKind.state.cause (r 32) 0 (some 256) = none ∧
      FfKind.sweep.cause 0 0x7FFFFFFF (some 256) = none ∧ (FfKind.sweep.cause 0 0x80000000 (some 256)).isSome = true ∧
      FfKind.clamp.cause (r 4) 0 (some 256) = none ∧ FfKind.unclamp.cause (r 4) 0 (some 256) = none ∧
      FfKind.creset.cause 0 0 (some 256) = none ∧ FfKind.bits.cause (r 32) 0 (some 256) = none ∧
      (FfKind.bits.cause (r 32) 1 (some 256)).isSome = true ∧ FfKind.cnt.cause (r 512) 0 (some 256) = none ∧
      (FfKind.cnt.cause (r 512) 1 (some 256)).isSome = true := by decide

theorem wit_FireflyCommandsRun :
    (let s : State := { ff5 (fun ff => { ff with coming := [cmd .key false] }) with clk := 16 }
     (s.die 0).ff.coming = [cmd .key false] ∧ (cmd .key false).cycle ≤ s.clk / 2) ∧
    (let s (k : FfKind) : State := ff5 fun ff => { ff with queue := [cmd k false] }
     ((s .cnt).agentOf (.tile 0 0)).st = .run ∧ ((s .cnt).agentOf (.tile 0 0)).deferred = none ∧ ((s .cnt).die 0).ff.queue = [cmd .cnt false] ∧ (cmd .cnt false).ran = false ∧ (s .cnt).ffCtx 0 = some 15 ∧ dieOfTile 0 = 0 ∧
       ((s .cnt).die 0).ff.bad = [] ∧ ((s .key).tile 0).badRuns (runsOf (cmd .key false).rc 0 (recExtent (cmd .key false).rc)) = none ∧
       (let c : FfCmd := { cmd .cnt false with rc := mkRec 0 4 64 1 }
        (((s .cnt).tile 0).fillRuns (layRuns (runsOf c.rc 0 (recExtent c.rc)) ((List.range (recExtent c.rc / 2)).flatMap fun j =>
          leBytes 2 (kvGet Cell.reset ((s .cnt).die 0).ff.cells (256 * 255 + (c.x.toNat + j))).cnt.toNat))).2 = none)) ∧
    (let s : State := ff5 fun ff => { ff with queue := [cmd .key true] }
     (s.die 0).ff.queue = [cmd .key true] ∧ (cmd .key true).ran = true ∧ (s.tile 0).sem 5 < 65535 ∧ (s.module (modOfDie 0)).alive = true ∧
       ((s.die 0).ff.ctxs[(0 : Fin 16)]).valid = false ∧ (s.die 0).ff.disjoint = true ∧ (List.replicate 8 (0 : Byte)).length = 8) := by decide

set_option maxRecDepth 8000 in
/-- Commands on the last cells of the context: a table of 512 entries, ghosts, states, one colour that is free and one that a joined
cell has, the edges of a cell that are empty, lead out of the context and lead to a cell of its colour, entries of a clamp list inside
and outside, sweeps up to the last index and past it, and a byte of states. -/
theorem wit_FireflyLoads :
    let c (k : FfKind) (x : W) (n : Nat) : FfCmd := ⟨0, 0, k, mkRec 0 n 64 1, x, 5, 8, false, 0⟩
    let joined : List (Nat × Cell) := [(65535, { Cell.reset with edges := [(0, 254 + 2 ^ 24)] })]
    let s (q : FfCmd) (l : List (Nat × Cell)) (w0 : Nat) : State :=
      (ff5 fun ff => { ff with queue := [q], cells := l }).modTile 0 fun tl => { tl with tm := tl.tm.write 0 (leBytes 4 w0) }
    let word (q : FfCmd) (w0 j : Nat) : Nat := leNat ((((s q [] w0).tile 0).readRuns (runsOf q.rc 0 (recExtent q.rc))).drop (4 * j) |>.take 4)
    let cell (l : List (Nat × Cell)) (j : Nat) : Cell := kvGet Cell.reset l (256 * 255 + j)
    let edge := c .edge 255 128
    let good (w : Nat) : Prop := w / 2 ^ 24 = 0 ∨ (65536 ≤ w % 2 ^ 17 ∧ w % 2 ^ 17 ≤ 69631) ∨ (w % 2 ^ 17 < 256 ∧ (cell [] (w % 2 ^ 17)).col ≠ (cell [] 255).col)
    (s edge [] 0).ffCtx 0 = some 15 ∧ ((s edge [] 0).tile 0).badRuns (runsOf edge.rc 0 (recExtent edge.rc)) = none ∧
      2048 ≤ recExtent (c .sigt 0 2048).rc ∧ (65536 ≤ (c .state 65536 1).x.toNat ∧ recExtent (c .state 65536 1).rc ≠ 0) ∧
      (c .state 248 1).x.toNat < 65536 ∧ (recExtent (c .col 255 1).rc = 1 ∧ (c .col 255 1).x.toNat < 256) ∧ joined.Pairwise (fun x y => x.1 < y.1) ∧
      (254 < 256 ∧ (254 + 2 ^ 24) ∈ (cell joined 255).edges.map (fun e => e.2) ∧ (254 + 2 ^ 24) / 2 ^ 24 % 256 ≠ 0 ∧ (254 + 2 ^ 24) % 2 ^ 17 = 254 ∧
        (cell joined 254).col = 0) ∧ (cell [] 255).edges = [] ∧
      (recExtent edge.rc = 128 ∧ edge.x.toNat < 256) ∧ (∀ l, l < 32 → good (word edge 0 l)) ∧ ¬good (word edge (256 + 2 ^ 24) 0) ∧
      ¬good (word edge (254 + 2 ^ 24) 0) ∧ good (65536 + 2 ^ 24) ∧
      (∀ l, l < recExtent (c .clamp 0 4).rc / 4 → word (c .clamp 0 4) 255 l % 2 ^ 16 < 256) ∧ 256 ≤ word (c .clamp 0 4) 256 0 % 2 ^ 16 ∧
      ctx15.work.sweep + (c .sweep 0x80000000 0).x.toNat ≤ 2 ^ 31 ∧ 2 ^ 31 < ctx15.work.sweep + (c .sweep 0x80000001 0).x.toNat ∧
      (let q := c .bits 248 1
       [(0 : Byte)].length = recExtent q.rc ∧ (∀ l k, l < 1 → k < 8 → ([(0 : Byte)].getD l 0).getLsbD k = (cell [] (248 + (8 * l + k))).b) ∧
         (((s q [] 0).tile 0).fillRuns (layRuns (runsOf q.rc 0 1) [0])).2 = none) := by
  iterate 19 refine ⟨by decide, ?_⟩
  refine ⟨fun l k hl hk => ?_, by decide⟩
  interval_cases l
  interval_cases k <;> decide

/-- The first and the last cell of the context, clamped and not, and the nearest that are not its own. -/
theorem wit_FireflySweepRule :
    ctx15.work.ent = false ∧ 0 < 256 * ctx15.nrows.toNat ∧ 255 < 256 * ctx15.nrows.toNat ∧ ctx15.owns 65279 = false ∧ ctx15.owns 65280 = true ∧
      ctx15.owns 65535 = true ∧ ctx15.owns 65536 = false ∧ (Cell.reset.col.toNat = 0 ∧ Cell.reset.cen = false) ∧
      ¬(({ Cell.reset with cen := true } : Cell).col.toNat = 0 ∧ ({ Cell.reset with cen := true } : Cell).cen = false) ∧
      ({ ctx15 with work := { ctx15.work with cmask := 0 } } : FfContext).work.cmask = 0 ∧ ((ff5 id).die 0).ff.ctxOf 5 = some 15 ∧ ((ff5 id).die 0).ff.cells = [] ∧ ((ff5 id).die 0).ff.comm = [] ∧ 2 ≤ 2 ∧ 510 ≤ 510 := by decide

theorem wit_WindowAndHostRun :
    let s (b : Bool) (n : Nat) : State := (State.reset.setTile 3 { Tile.reset with inReg := b, node := .run }).modModule 0 fun y =>
      { y with queues := y.queues.set 15 ⟨List.replicate n 0x100, none⟩ }
    ((s true 63).module 0).alive = true ∧ modOfTile 3 = 0 ∧ modOfDie 0 = 0 ∧ modOfDie 15 = 0 ∧ (0x1EFFF8 + 8 ≤ 0x1F0000 ∧ 0x1EFFF8 % 8 = 0) ∧
      ((s true 63).tile 3).badAt 0x1EFFF8 8 = none ∧ ((16 ≠ 8 ∧ 16 ≠ 64) ∧ 4 % 8 ≠ 0) ∧ ((s false 63).tile 3).quiescent = true ∧ 8 % 8 = 0 ∧
      ((s true 63).tile 3).quiescent = false ∧ ((decide (15 % 16 = 0) || decide (15 % 16 = 15)) = true ∧ (decide (14 % 16 = 0) || decide (14 % 16 = 15)) = false) ∧ 0xBFFFFFF000 + 4096 ≤ 0xC000000000 ∧
      ((s true 63).module 0).badHbm = [] ∧ (0xBFFFFFFF00 % 256 = 0 ∧ 0xBFFFFFFF00 < 0xC000000000) ∧
      (((s true 63).module 0).queues[(15 : Fin 16)].waiting.length < 64) ∧ 64 ≤ ((s true 64).module 0).queues[(15 : Fin 16)].waiting.length := by
  decide

/-- The frame that is expected and one after a gap, across the end of the numbers; a kept frame sent 14 times, and 15. -/
theorem wit_LinksAndSidebandRun :
    (let f (n : Nat) : LinkFrame := ⟨0xFFFFFFFF, none, [1], olcfgReset, n, 0⟩
     let l (n : Nat) : LinkCtl := { LinkCtl.reset with port := { Port.reset with up := true, expected := 0xFFFFFFFF, kept := [f n] } }
     let s (n : Nat) : State := { State.reset.modDie 0 fun x => { x with lk := l n } with clk := 40000 }
     let p := ((s 14).die 0).lk.port
     p.up = true ∧ ((s 14).module (modOfDie 0)).alive = true ∧ (0xFFFFFFFF : BitVec 32) = p.expected ∧
       0 < ((0 : BitVec 32) - p.expected).toInt ∧ ((0xFFFFFFFE : BitVec 32) - p.expected).toInt < 0 ∧ p.kept = [f 14] ∧
       (f 14).resends < (f 14).cfg.toNat % 256 ∧ ¬((f 15).resends < (f 15).cfg.toNat % 256) ∧
       0 ≤ ((f 14).seq - 0xFFFFFFFE).toInt ∧ (f 14).sentAt + 4 * ((f 14).cfg.toNat / 2 ^ 8 % 2 ^ 32) ≤ (s 14).clk ∧
       (s 14).tiles = [] ∧ Tile.reset.node ≠ .exch ∧ ((s 14).module (modOfDie 0)).tripped = false) ∧
    ((0xA4 : BitVec 8) ≠ 0xA5 ∧ (0x06 : BitVec 8).toNat ∉ [0x01, 0x02, 0x03, 0x04, 0x05, 0x10, 0x11]) := by decide

theorem wit_HealthAndPowerRun :
    (let s (l : BitVec 8) : State := State.reset.modModule 0 fun y => { y with caplim := l }
     (∀ i : Fin 16, ((s 2).die (16 * 0 + i.val)).hot = false) ∧ (s 2).shares 0 = [] ∧ ((s 2).module 0).pcap.toNat < (7501 : BitVec 16).toNat ∧
       1 < ((s 2).module 0).caplim.toNat ∧ ((s 1).module 0).caplim = 1 ∧ 16 * (7031 : BitVec 16).toNat < 15 * ((s 1).module 0).pcap.toNat ∧
       ((s 254).module 0).caplim.toNat < 255 ∧ 15 * ((s 1).module 0).pcap.toNat ≤ 16 * (7032 : BitVec 16).toNat ∧
       (7500 : BitVec 16).toNat ≤ ((s 1).module 0).pcap.toNat ∧ 1 ≤ ((s 1).module 0).caplim.toNat ∧ modOfDie 15 = 0 ∧ modOfDie 16 ≠ 0) ∧
    (let hot := State.reset.modDie 15 fun x => { x with ctl := { x.ctl with tempHbm := 100 } }
     100 ≤ (hot.die (16 * 0 + 15)).ctl.tempHbm.toNat ∧ (hot.module 0).tripped = false ∧
       (∀ i : Fin 16, ¬(105 ≤ (State.reset.die (16 * 0 + i.val)).ctl.tempDie.toNat ∨ 100 ≤ (State.reset.die (16 * 0 + i.val)).ctl.tempHbm.toNat)) ∧
       (∀ i : Fin 16, (State.reset.die (16 * 0 + i.val)).mc.migTable = []) ∧ modOfTile 0 = 0 ∧ modOfTile 1024 ≠ 0 ∧
       ((onT 0 id fun tl => { tl with node := .relwait }).tile 0).node = .relwait ∧ ((onT 0 id fun tl => { tl with node := .arrived }).tile 0).node = .arrived) ∧
    (let y := State.reset.module 0
     y.bootOk = false ∧ y.bootFail = false ∧ y.tripped = false ∧ y.accepts y.flashA = false ∧ y.accepts y.flashB = false ∧ y.attBusy = false) ∧
    (let s := State.reset.modModule 0 fun y => { y with attBusy := true, attPa := 0xBFFFFFFEC0 }
     (s.module 0).attBusy = true ∧ (s.module 0).attPa.toNat + 320 ≤ 0xC000000000) ∧
    (State.reset.dieQuiet 0 = true ∧ (4095 : W).toNat < 2 ^ 12 ∧
      (inReg (reg .closing) (onT 0 id fun tl => { tl with inReg := true })).dieQuiet 0 = false) := by decide

/-! ## Witnesses: the whole machine -/

/-- From reset with `addi x5, x0, 7` placed, strand 0 issues it; and so where the schedule names the strand. -/
theorem wit_StepRunsDecoded :
    let s := State.reset.withFetchWord 32 (0x02 + 5 * 2 ^ 7 + 7 * 2 ^ 17)
    let w : Who := .tile 0 0
    s.forced = none ∧ s.canIssue w = true ∧ (s.agentOf w).deferred = none ∧ s.wdogDue (s.agentOf w) = false ∧
      (s.agentOf w).pc.toNat < whoMem w ∧ badHit 16 (s.memOf w).2 (s.agentOf w).pc.toNat 4 = none ∧
      decode (s.numAt w (s.agentOf w).pc.toNat 4) = some (.addi 5 0 7) ∧ s.semSeen = [] := by decide

theorem wit_StepRunsDecoded_turn :
    let s (l : List Sched) : State := { onT 8 id (fun tl => { tl with tm := tl.tm.write 0 (leBytes 4 (0x02 + 5 * 2 ^ 7 + 7 * 2 ^ 17)) }) with
      turn := .tile 0 0, sched := l }
    (s []).forced = none ∧ (s []).canIssue (.tile 0 8) = true ∧ (s []).roundNext = some (.tile 0 8) ∧
      (s [.run 0 (.tile 0 8)]).sched = .run 0 (.tile 0 8) :: [] ∧ (s [.run 0 (.tile 0 8)]).forced = none ∧
      decode ((s []).numAt (.tile 0 8) ((s []).agentOf (.tile 0 8)).pc.toNat 4) = some (.addi 5 0 7) := by decide

/-- The state after reset has the three forms that every step keeps, and its step goes on. -/
theorem wit_StepKeepsMemories : State.reset.memoriesWf :=
  ⟨fun _ => ⟨rfl, rfl, rfl, rfl⟩, fun _ c => match c with | 0 => rfl | 1 => rfl, fun _ => rfl⟩

theorem wit_StepKeepsPcAligned : State.reset.pcsAligned :=
  ⟨fun _ a => (by decide : ∀ a : Fin 10, TileVer.reset.agents[a].pc.toNat % 4 = 0 ∧ TileVer.reset.agents[a].pc.toNat % 4 = 0) a,
    fun _ c => match c with | 0 => rfl | 1 => rfl⟩

theorem wit_StepKeepsLists : State.reset.listsWf := by
  have h : ∀ i : Fin 16, Die.reset.ff.ctxs[i] = FfContext.reset := by decide
  refine ⟨.nil, .nil, .nil, fun _ => ⟨by show 7 < 8; decide, nofun⟩, fun _ => ⟨.nil, .nil, fun i => ?_⟩, nofun, .nil⟩
  show keysRise (Die.reset.ff.ctxs[i]).work.sigt ∧ keysRise (Die.reset.ff.ctxs[i]).comm.sigt
  rw [h i]
  exact ⟨.nil, .nil⟩

theorem wit_StepKeeps_next : (match step State.reset with | .next t => decide (t.regions = []) | _ => false) = true := by decide

/-- An instruction with its word, at the end of its fields. -/
theorem wit_DecodeAndEncodeAgree :
    (.sync 31 31 31 1 6 : Instr).wf = true ∧ encode (.sync 31 31 31 1 6) = some (0x30 + 31 * 2 ^ 7 + 31 * 2 ^ 12 + 31 * 2 ^ 17 + 1 * 2 ^ 22 + 6 * 2 ^ 24) ∧
      (.sync 31 31 31 1 7 : Instr).wf = false := by decide

/-- The key of zeros is a point of order 4, so that a signature of zeros verifies under it. -/
theorem zero_verifies : ed448Verify (List.replicate 57 0) (List.replicate 16 0) (List.replicate 114 0) = true := by decide +kernel

set_option maxRecDepth 8000 in
/-- An image of zeros is accepted where its key is the fused one. -/
theorem wit_secureBoot :
    let y : Module := { Module.reset with flashA := List.replicate 256 0, keyHash := shake256 (List.replicate 57 0) 32 }
    y.bootOk = false ∧ y.bootFail = false ∧ y.tripped = false ∧ y.accepts y.flashA = true := by
  generalize hk : shake256 (List.replicate 57 0) 32 = key
  refine ⟨rfl, rfl, rfl, ?_⟩
  show (decide (256 + 0 ≤ 256) && decide (shake256 (List.replicate 57 0) 32 = key) &&
    ed448Verify (List.replicate 57 0) (List.replicate 16 0) (List.replicate 114 0) && decide (0 ≤ 0)) = true
  rw [hk, zero_verifies, decide_eq_true rfl]
  rfl

/-! ## Witnesses: the clauses on traps -/

/-- Words of every group at the ends of its opcodes, and agents of each kind of core. -/
theorem wit_TrapEntry_groups :
    let op (i : Instr) : Option Nat := (encode i).map (· % 128)
    op (.tlbw 1 2) = some 0x70 ∧ op (.ctxld 1 2) = some 0x72 ∧ op (.gld 1 2 3 0) = some 0x19 ∧ op (.spawn 1 2 0 0) = some 0x26 ∧
      op (.send 0 1 2 0 0) = some 0x32 ∧ op (.rspawn 0 1 2) = some 0x34 ∧ op (.vaddF 1 2 3 0 0) = some 0x40 ∧ op (.maccZ 0) = some 0x53 ∧
      op (.ffcfgKey 1 1) = some 0x68 ∧ op (.ffrdBits 1 0 1) = some 0x6B ∧ op (.xsend 1 2 3) = some 0x35 ∧ op (.copy 1 2 3) = some 0x61 ∧
      op .hfence = some 0x65 ∧ op (.cgrp 1 2) = some 0x6C ∧ op (.crecv 1 2 3 4) = some 0x6E ∧ op (.squant 1 2 3 4 0 0) = some 0x58 ∧
      op (.scvt 1 2 3 0 0) = some 0x5E ∧ op (.ldfe 1 2 3 0) = some 0x17 ∧ op (.semp 1) = some 0x27 ∧ op (.bld 1 2 3) = some 0x28 ∧
      op (.sync 1 2 3 0 0) = some 0x30 ∧ op (.ssqNum 1) = some 0x31 ∧ (regs 0 0 0).turn.kind = .work ∧
      (onT 8 id id).turn.kind = .haul ∧ (onT 9 id id).turn.kind = .shape ∧ (onD 0 id id).turn.kind = .service := by decide

/-- A full version store has no room for a line that it does not hold. -/
theorem no_room (tl : Tile) (v : VsLine) (l n : Nat) (hn : 8192 ≤ n) (h : tl.versioned = true) (hk : tl.kept (l / 1024) = true)
    (hv : v.line ≠ l) : ({ tl with vs := List.replicate n v } : Tile).hasRoom l = false := by
  have h' : ({ tl with vs := List.replicate n v } : Tile).versioned = true := h
  have hk' : ({ tl with vs := List.replicate n v } : Tile).kept (l / 1024) = true := hk
  simp only [Tile.hasRoom, Tile.needsLine, h', hk', List.any_replicate, List.length_replicate, hv, decide_false, Bool.and_false,
    ite_self, Bool.not_false, Bool.and_true, Bool.not_true, Bool.false_or, decide_eq_false_iff_not, not_lt]
  exact hn

/-- Strand 0 beside a version store with `n` lines that hold line 0. -/
def fullVs (n : Nat) (x1 x2 : W) : State :=
  onT 0 (fun g => (g.wx 1 x1).wx 2 x2) fun tl => { tl with vs := List.replicate n ⟨false, 0, [], [], [], false⟩ }

theorem fullVs_room (n : Nat) (x1 x2 : W) (hn : 8192 ≤ n) (l : Nat) (hl : l ≠ 0) (hk : Tile.reset.kept (l / 1024) = true) :
    ((fullVs n x1 x2).tile 0).hasRoom l = false :=
  no_room (({ Tile.reset with node := .run } : Tile).setAgent 0 (({ Agent.reset with st := .run }.wx 1 x1).wx 2 x2)) _ l n hn rfl hk
    (Ne.symm hl)

/-- Odd addresses, addresses past the end, and lines without room, in the first lane and in a later one. -/
theorem wit_VectorMemory_traps (n : Nat) (hn : 8192 ≤ n) :
    (let s := regs 1 8 0; s.plainStrand ∧ (s.rx 1 + BitVec.ofNat 64 0 * s.rx 2).toNat % 8 ≠ 0 ∧
      (s.rx 1 + (0 : BitVec 14).signExtend 64 * 64#64).toNat % 64 ≠ 0) ∧
    (let s := regs 0x1EFFF8 4 0
     (s.rx 1 + BitVec.ofNat 64 0 * s.rx 2).toNat % 8 = 0 ∧ (s.rx 1 + BitVec.ofNat 64 1 * s.rx 2).toNat % 8 ≠ 0) ∧
    (let s := regs 0x1EFFF8 8 0
     (∀ k, k < 8 → (s.rx 1 + BitVec.ofNat 64 k * s.rx 2).toNat % 8 = 0) ∧ (s.rx 1 + BitVec.ofNat 64 0 * s.rx 2).toNat + 8 = whoMem s.turn ∧
       whoMem s.turn < (s.rx 1 + BitVec.ofNat 64 1 * s.rx 2).toNat + 8) ∧
    (let s := regs 0x1F0000 8 0
     let A := s.rx 1 + (0 : BitVec 14).signExtend 64 * 64#64
     A.toNat % 64 = 0 ∧ whoMem s.turn < A.toNat + 64) ∧
    (let s := fullVs n 0x1EFFC0 8
     let A := s.rx 1 + (0 : BitVec 14).signExtend 64 * 64#64
     s.plainStrand ∧ A.toNat % 64 = 0 ∧ A.toNat + 64 ≤ whoMem s.turn ∧ s.myEntry MatEntry.isRd = none ∧ s.unread A.toNat 64 = none ∧
       (s.tile s.here).hasRoom (A.toNat / 64) = false ∧ 8192 ≤ (s.tile s.here).vs.length ∧
       (∀ k, k < 8 → (s.rx 1 + BitVec.ofNat 64 k * s.rx 2).toNat % 8 = 0 ∧
         (s.rx 1 + BitVec.ofNat 64 k * s.rx 2).toNat + 8 ≤ whoMem s.turn) ∧
       (s.tile s.here).hasRoom ((s.rx 1 + BitVec.ofNat 64 0 * s.rx 2).toNat / 64) = false) := by
  have room : ((fullVs n 0x1EFFC0 8).tile 0).hasRoom (0x1EFFC0 / 64) = false := fullVs_room n _ _ hn _ (by decide) (by decide)
  refine ⟨⟨strand_ok rfl (by decide) rfl, by decide, by decide⟩, by decide, by decide, by decide, strand_ok rfl (by decide) rfl, ?_, ?_,
    rfl, rfl, room, ?_, ?_, room⟩
  · show (0x1EFFC0 + 0 : W).toNat % 64 = 0; decide
  · show (0x1EFFC0 + 0 : W).toNat + 64 ≤ 0x1F0000; decide
  · show 8192 ≤ (List.replicate n _).length; rw [List.length_replicate]; exact hn
  · show ∀ k, k < 8 → ((0x1EFFC0 : W) + BitVec.ofNat 64 k * 8).toNat % 8 = 0 ∧ ((0x1EFFC0 : W) + BitVec.ofNat 64 k * 8).toNat + 8 ≤ 0x1F0000
    decide

/-- A binding that is older and one that is newer than a store it finds, at a row's last atom; and one with an element read ahead. -/
theorem wit_VectorStreams_atoms :
    let b (id : Nat) : Stream := ⟨1, false, 0x1EFF00, 64, 3, 1, [7], 5, false, id⟩
    let tl : Tile := { Tile.reset with olds := [⟨4, (0x1EFF00 + 2 * 64 + 48) / 16, List.replicate 16 9, none⟩] }
    let s := onT 0 (fun g => { g with streams := [b 4] }) id
    ((b 4).base + 2 * (b 4).stride) % 16 = 0 ∧ (∀ q ∈ tl.olds, q.pos ≤ (b 4).id) ∧ (∃ q ∈ tl.olds, (b 3).id < q.pos) ∧ s.me.streams = [b 4] ∧
      (b 4).ahead = 7 :: [] ∧ (b 4).used < (b 4).n ∧ s.myEntry MatEntry.isRd = none :=
  ⟨by decide, by decide, by decide, rfl, rfl, by decide, by decide⟩

set_option maxRecDepth 40000 in
/-- The last streamed element of a record, its last strip scale, and the last element of a square's first column, in a tile of zeros. -/
theorem wit_DataRules_elements :
    let r := mkRec 0 4128 128 7
    let h : ImageHdr := ⟨7, 0, 1, 16384, 0⟩
    (31 < 32 ∧ 127 < 128 ∧ (Tile.reset.recElems r (32 * rowBytes (recFormat r)))[128 * 31 + 127]? = some 0) ∧
      (Tile.reset.squareElems h 15)[128 * 0 + 127]? = some 0 ∧
      (Tile.reset.recBytes r (32 * rowBytes (recFormat r)) 32)[31]? = some 0 := by decide +kernel

/-- An entry of each kind for the last accumulators and the last slot, on a tile where no word is bad. -/
theorem wit_DataRules_entries :
    let e (k : MatKind) (acc : Nat) (r : Rec) : MatEntry := ⟨1, 0, k, 0x777, r, acc, 15, ⟨7, 0, 1, 16384, 0⟩, [], false, false, 0⟩
    let tl := Tile.reset
    (e (.mmul true) 14 (mkRec 0 4128 128 7)).acc + 1 < 16 ∧ (e .mwld 0 0).slot < 16 ∧ tl.vs.length + 256 ≤ 8192 ∧
      tl.badRuns (streamRuns 0x777 (mkRec 0 4128 128 7)) = none ∧
      badHit 16 tl.badSlot (16384 * 15) (if (e .mwld 0 0).hdr.mode = 0 then denseLen (e .mwld 0 0).hdr.fmt else (e .mwld 0 0).hdr.bodyLen) = none ∧
      tl.accBad 14 = none ∧ tl.accBad 15 = none ∧ tl.badRuns (maccRuns (mkRec 0 8192 256 4)) = none ∧
      tl.badRuns (imageRuns (e .mwld 0 0).hdr (mkRec 0 20000 128 7)) = none := by decide

/-- An operation on rows of 64 bytes: its kind, the formats and sizes of source and destination, its parameters. -/
def rowsOp (k : ShapeKind) (f g n m : Nat) (p : W) : ShapeOp := ⟨k, mkRec 0x10000 m 64 g, mkRec 0 n 64 f, p, 0, 0, 5, false, 0⟩

/-- Element `i` is its last one, and 0; it stands in a whole block of `k`. -/
def lastElem (o : ShapeOp) (i k : Nat) : Bool :=
  ((o.elems Tile.reset)[i]? == some 0) && ((o.elems Tile.reset).length == i + 1) && decide (i / k < o.count / k) &&
    decide (i / k < (o.elems Tile.reset).length / k)

/-- The last element of each form of R241: an MXFP4 block whose scale is read, a block of 128, plain values. -/
theorem wit_ShapeOperationsRun_elements :
    lastElem (rowsOp (.scvt 3 true) 9 0 32 64 0) 63 1 = true ∧ lastElem (rowsOp .sexp 11 7 32 64 0) 63 1 = true ∧
      lastElem (rowsOp .sdeq 7 4 128 512 (2 ^ 21)) 127 (geomSize (scGeom (2 ^ 21))) = true ∧
      lastElem (rowsOp (.squant true true) 4 9 512 64 (3 * 2 ^ 21 + 2 ^ 23)) 127 (geomSize (scGeom (3 * 2 ^ 21 + 2 ^ 23))) = true ∧
      lastElem (rowsOp .sblkExp 4 4 512 1 0) 127 128 = true := by
  decide +kernel

/-- A square of 1-byte elements has its 16,384, the first of them 0 in a tile of zeros. -/
theorem wit_ShapeOperationsRun_square :
    let o : ShapeOp := ⟨.strans, mkRec 0x10000 16384 128 7, mkRec 0 16384 128 7, 0, 0, 0, 5, false, 0⟩
    (o.elems Tile.reset).length = 16384 ∧ (o.elems Tile.reset)[0]? = some 0 := by
  refine ⟨?_, by decide +kernel⟩
  rw [ShapeOp.elems, List.length_take, Tile.recElems_length _ _ _ (by decide +kernel)]
  decide +kernel

set_option maxRecDepth 4000 in
/-- A reduction whose page is there, and one whose page has no frame; a copy into the collective buffer that fits and one that does not;
an atom that two chunks of one operation read. -/
theorem wit_HaulOperationsRun_more :
    let op (k : HaulKind) (st : OpStatus) (c : Nat) : HaulOp := ⟨3, 0, k, mkRec 0 128 64 7, mkRec 0x10000 128 64 7, 0x1FF80, 0, 128, 5, st, c, none, []⟩
    (let o := op (.hred 2) .running 64
     ((haul o [(0, page true true true)]).xlat 0 (o.va + o.cursor) true).1 = .ok 0x2FFC0 0 ∧
       (haul o [(0, page true true true)] |>.tile 0).badRuns (runsOf o.src 64 (o.chunkLen 64)) = none ∧
       ((haul o [(0, page true true false)]).xlat 0 (o.va + o.cursor) true).1 = .unmapped ∧ o.cursor < o.n) ∧
    (let o := op .csend .queued 0
     let e (s : Bool) (n : Nat) : ColEntry := ⟨s, 0, 9, 1, mkRec 0 4 64 2, 4, 5, n, none, .waiting⟩
     let s := (haul o []).modTile 0 fun tl => { tl with col := [e true 3, e true 4, e false 3], cbEff := 1 }
     (s.tile 0).haulOn = true ∧ opOf (s.tile 0).haulQ 3 = some o ∧ o.status = .queued ∧ (s.tile 0).badRuns o.reads = none ∧ keysRise s.tiles ∧
       (s.tile 0).col[0]? = some (e true 3) ∧ (e true 3).op = 3 ∧ (e true 4).op ≠ 3 ∧ (e false 3).send = false ∧
       s.bufferUse 0 + 128 ≤ (s.tile 0).cbEff.toNat * 2 ^ 20 ∧ 0 * 2 ^ 20 < s.bufferUse 0 + 128) ∧
    (∃ p ∈ [(8, 8)], p.1 ≤ 15 ∧ 15 < p.1 + p.2) ∧ (∃ p ∈ [(0, 8)], p.1 ≤ 0 ∧ 0 < p.1 + p.2) ∧ 15 / 16 = 0 / 16 := by
  refine ⟨by decide, ⟨by decide, by decide, by decide, by decide, List.pairwise_singleton _ _, by decide⟩, by decide⟩

set_option maxRecDepth 4000 in
/-- Data above the memory; the cycle after the last; a full schedule; a peer outside the region; bits that must be 0; no bytes. -/
theorem wit_ExchangeSchedule_traps :
    let s (base n : Nat) (x1 x2 : W) (k : Nat) : State :=
      inReg (reg .closing) (recs 8 (mkRec base n 64 7) 0 (fun g => (g.wx 1 x1).wx 2 x2) fun tl =>
        { tl with xsched := List.replicate k ⟨true, 1, false, 0, mkRec 0 0 64 7, 0, 0, false, [], false⟩ })
    let out (s : State) : Option Nat := firstOut (runsOf (s.recReg 3) 0 (recExtent (s.recReg 3)))
    out (s 0x1EFFC0 128 1 0 0) = some 0x1F0000 ∧ out (s 0 64 1 0x100000 0) = none ∧
      2 ^ 20 < ((s 0 64 1 0x100000 0).rx 2).toNat + (64 + 63) / 64 ∧ ((s 0 64 1 0xFFFFF 0).rx 2).toNat + (64 + 63) / 64 ≤ 2 ^ 20 ∧
      1024 ≤ ((s 0 64 1 0 1024).tile 0).xsched.length ∧ (s 0 64 2 0 0).sameRegion 0 2 = false ∧
      2 ^ 28 ≤ ((s 0 64 0x10000001 0 0).rx 1).toNat ∧ ((s 0 64 0x10000001 0 0).rx 1).toNat / 2 ^ 28 % 2 ^ 4 ≠ 0 ∧
      (s 0 64 1 0 0).sameRegion 0 (0x10000001 % 2 ^ 28) = true ∧ (1 + 2 ^ 53) / 2 ^ 53 % 2 ^ 10 ≠ 0 ∧
      (2 ^ 63 + 2 ^ 32 : Nat) / 2 ^ 63 % 2 = 1 ∧ (2 ^ 63 + 2 ^ 32) / 2 ^ 32 % 2 ^ 21 ≠ 0 ∧ recExtent ((s 0 0 1 0 0).recReg 3) = 0 := by decide +kernel

/-- One message in mailbox 3 alone. -/
theorem oneMessage : ((Vector.replicate 4 (0 : BitVec 7)).set 3 1)[(3 : Fin 4)] ≠ 0 ∧
    ∀ k : Fin 4, k < 3 → ((Vector.replicate 4 (0 : BitVec 7)).set 3 1)[k] = 0 := by decide

/-- Addresses that are odd and past the end; a child's entry that is odd and past the end; a destination outside the region; a full
outbox; a mailbox line for which the version store has no room. -/
theorem wit_Messages_traps (n : Nat) (hn : 8192 ≤ n) :
    (let s (x1 x2 : W) (w k : Nat) : State := inReg (reg .closing) (onT 0 (fun g => (g.wx 1 x1).wx 2 x2) fun tl =>
       { tl with tm := tl.tm.write 0 (leBytes 8 w), cur := { tl.cur with outbox := List.replicate k ⟨false, 1, 0, List.replicate 64 0⟩ } })
     let entry (s : State) : Nat := leNat ((s.tile 0).tm.bytes (s.rx 2).toNat 8) % 2 ^ 21
     ((s 1 1 0 0).rx 2).toNat % 64 ≠ 0 ∧ ((s 1 0x1F0000 0 0).rx 2).toNat % 64 = 0 ∧ 0x1F0000 < ((s 1 0x1F0000 0 0).rx 2).toNat + 64 ∧
       (s 2 0 0 0).sameRegion 0 ((s 2 0 0 0).rx 1).toNat = false ∧ entry (s 1 0 2 0) % 4 ≠ 0 ∧ entry (s 1 0 0x1F0000 0) % 4 = 0 ∧
       0x1F0000 ≤ entry (s 1 0 0x1F0000 0) ∧ entry (s 1 0 0x1EFFFC 0) < 0x1F0000 ∧ entry (s 1 0 0x1EFFFC 0) % 4 = 0 ∧
       (s 1 0 0 256).sameRegion 0 ((s 1 0 0 256).rx 1).toNat = true ∧ 256 ≤ ((s 1 0 0 256).tile 0).cur.outbox.length) ∧
    (let s := (fullVs n 0x1EFFC0 0).modTile 0 fun tl => { tl with cur := { tl.cur with mbCount := tl.cur.mbCount.set 3 1 } }
     (s.rx 1).toNat % 64 = 0 ∧ (s.rx 1).toNat + 64 ≤ 0x1F0000 ∧ s.myEntry MatEntry.isRd = none ∧ s.unread (s.rx 1).toNat 64 = none ∧
       (s.tile 0).hasRoom ((s.rx 1).toNat / 64) = false ∧ (s.tile 0).cur.mbCount[(3 : Fin 4)] ≠ 0 ∧
       (∀ k : Fin 4, k < 3 → (s.tile 0).cur.mbCount[k] = 0) ∧ (s.tile 0).badMb = []) := by
  have room : ((fullVs n 0x1EFFC0 0).tile 0).hasRoom (0x1EFFC0 / 64) = false := fullVs_room n _ _ hn _ (by decide) (by decide)
  refine ⟨by decide +kernel, ?_, ?_, rfl, rfl, room, oneMessage.1, oneMessage.2, rfl⟩
  · show (0x1EFFC0 : W).toNat % 64 = 0; decide
  · show (0x1EFFC0 : W).toNat + 64 ≤ 0x1F0000; decide

/-- The end in die 0 of the link between dies 0 and 1 is down. -/
def cut (s : State) : State := s.modLink 0 1 fun p => { p with up := false }

/-- Flits that their receiver addresses: one that an entry takes, one that none does, one of another length, one that no window admits;
and paths with a failed link and without. -/
theorem wit_ExchangePhase_more :
    (let f (n : Nat) : Flit := ⟨1, 0, 50, true, 0, 0, 0, n, List.replicate 64 7⟩
     let x : XEntry := ⟨false, 1, true, 0, mkRec 0 64 64 7, 44, 64, false, [], false⟩
     let s (w : BitVec 17) (n : Nat) (l : List XEntry) : State :=
       { (exch fun tl => { tl with winEff := tl.winEff.set 1 w, xsched := l }).setTile 1
           { Tile.reset with xsched := [⟨true, 0, true, 0, mkRec 0 64 64 7, 44, 64, false, [0], false⟩] } with flits := [f n] }
     let hit (s : State) (e : XEntry) : Prop := e.send = false ∧ e.peer = 1 ∧ e.cyc + reelLatency 1 0 ≤ 50 - ((s.tile 0).xStart.getD 0) / 2 ∧
       50 - ((s.tile 0).xStart.getD 0) / 2 < e.cyc + reelLatency 1 0 + (e.n + 63) / 64
     (s 4 64 [x]).flits = [f 64] ∧ (f 64).cycle ≤ (s 4 64 [x]).clk / 2 ∧ (f 64).ra = true ∧ ((s 4 64 [x]).tile 0).node = .exch ∧
       ((s 4 64 [x]).tile 0).xsched[0]? = some x ∧ hit (s 4 64 [x]) x ∧ x.closed = false ∧ x.late = false ∧ x.n = (f 64).n ∧ x.n ≠ (f 128).n ∧
       ((s 4 64 [x]).tile 0).admitsRuns (runsOf x.rc 0 x.n) = true ∧ ((s 0 64 [x]).tile 0).admitsRuns (runsOf x.rc 0 x.n) = false ∧
       (({ (s 4 64 [x]).tile 0 with xsched := [{ x with moved := [0] }] } : Tile).fillRuns (layRuns (runsOf x.rc 0 64) (f 64).data)).2 = none ∧
       ¬hit (s 4 64 []) { x with cyc := 45 } ∧ ¬hit (s 4 64 []) { x with cyc := 43 } ∧ (f 64).src ≠ 0) ∧
    (State.reset.brokenOn 0 0 = none ∧ State.reset.brokenOn 0 1 = none ∧ (cut State.reset).brokenOn 0 1 = some (0, firstBoundary 0 1) ∧
      (cut State.reset).brokenOn 0 3 = some (0, 0) ∧ ((exch id).tile 0).recorded = []) ∧
    ((∀ q ∈ State.reset.legs 0 1 9, State.reset.brokenOn q.1 q.2 = none) ∧ ∃ q ∈ (cut State.reset).legs 0 64 9, (cut State.reset).brokenOn q.1 q.2 ≠ none) := by
  decide +kernel

/-- A line of each memory to undo, one of them uncorrectable in the version store; and a stop with a fault cause. -/
theorem wit_AbortRestores_more :
    let p : Down := ⟨3, 0, 1, 0x0C, 1, 0, 0, 0⟩
    let v (acc err : Bool) (l : Nat) : VsLine := ⟨acc, l, List.replicate 64 5, [], [], err⟩
    let vs : List VsLine := [v false true 0, v true false 0, v true false 2047]
    let s : State := { inReg (reg .restoring) (onT 0 id fun tl => { tl with node := .seal, down := [p], vs := vs, inReg := true }) with clk := 100 }
    s.regionOf 0 = some (reg .restoring) ∧ (s.tile 0).down = p :: [] ∧ p.sentAt / 2 < s.clk / 2 ∧ p.kind = 3 ∧ p.cause ≠ 0 ∧
      (s.tile 0).node = .seal ∧ (s.tile 0).launching = false ∧ (s.tile 0).inReg = true ∧ (s.tile 0).vs = vs ∧
      (∀ w ∈ vs, w.old.length = 64) ∧ vs.Pairwise (fun v w => v.acc ≠ w.acc ∨ v.line ≠ w.line) ∧ (s.tile 0).entering.pfServe = [] ∧
      ∀ i, i < 31 → (s.tile 0).entering.kept i = true := by decide +kernel

/-- Self-tests of each unit: a word that stays uncorrectable, spares that are free, spares that are used up. -/
theorem wit_BarrierSteps_more :
    let s (q : Nat × Nat × Nat) (f : Tile → Tile) (h : Die → Die) : State :=
      ((inReg (reg .restoring) (onT 0 id fun tl => f { tl with node := .rollback, tests := [q] })).modDie 0 h)
    let full : Die → Die := fun x => { x with
      ctl := { x.ctl with tspare := Vector.replicate 4 (BitVec.ofNat 64 (2 ^ 63)), rsprow := [(30, BitVec.ofNat 64 (2 ^ 63)), (2078, BitVec.ofNat 64 (2 ^ 63))] }
      ff := { x.ff with spares := Vector.replicate 4 (BitVec.ofNat 64 (2 ^ 63)) } }
    let tileSpare (s : State) : Prop := ∃ n : Fin 4, spareOn (s.die 0).ctl.tspare[n] = false
    let ffSpare (s : State) : Prop := ∃ n : Fin 4, spareOn (s.die 0).ff.spares[n] = false
    let rowSpare (s : State) (bank : Nat) : Prop := ∃ i, i < 2 ∧ spareOn (kvGet 0 (s.die 0).ctl.rsprow (0 % 64 + 64 * (bank % 32) + 2048 * i)) = false
    let bad : Tile → Tile := fun tl => { tl with bad := [31 * 63 + 30], badAcc := [512 * 15 + 4 * 127], badSlot := [1024 * 15 + 4 * 255], badMb := [(3, 63)] }
    (31 * 63 + 30 ∈ ((s (0, 30, 63) bad id).tile 0).bad ∧ (∃ w ∈ ((s (2, 15, 127) bad id).tile 0).badAcc, w / 512 = 15 ∧ w % 512 / 4 = 127) ∧
      (∃ w ∈ ((s (3, 15, 255) bad id).tile 0).badSlot, w / 1024 = 15 ∧ w % 1024 / 4 = 255) ∧ (3, 63) ∈ ((s (7, 3, 63) bad id).tile 0).badMb) ∧
      ((s (4, 0, 9) id id).tile 0).tests = (4, 0, 9) :: [] ∧ tileSpare (s (1, 0, 0) id id) ∧ ffSpare (s (4, 0, 9) id id) ∧
      ¬tileSpare (s (1, 0, 0) id full) ∧ ¬ffSpare (s (4, 0, 9) id full) ∧
      (spareOn (kvGet 0 ((s (0, 30, 63) id full).die 0).ctl.rsprow 30) = true) ∧ rowSpare (s (0, 30, 63) id id) 30 ∧ endsOf 0 0 ≠ [] := by
  refine ⟨by decide +kernel, by decide +kernel, by decide +kernel, by decide +kernel, by decide +kernel, by decide +kernel, by decide +kernel,
    ⟨0, by decide, by decide +kernel⟩, by decide +kernel⟩

/-- Numbers that a core type lacks; values with `GO` and each operation of `RCTL`. -/
theorem wit_CsrsComplete_more :
    (onT 8 id id).turn = .tile 0 8 ∧ (8 : Fin 10).val ≠ 9 ∧ (onT 9 id id).turn = .tile 0 9 ∧
      (let n : BitVec 12 := 0x009; ¬(n.toNat ≤ 8 ∨ 0x100 ≤ n.toNat ∧ n.toNat ≤ 0x105 ∨ 0x200 ≤ n.toNat ∧ n.toNat ≤ 0x210) ∧ isDieCsr n.toNat = false) ∧
      (let n : BitVec 12 := 0x211; ¬(n.toNat ≤ 8 ∨ 0x100 ≤ n.toNat ∧ n.toNat ≤ 0x105 ∨ 0x200 ≤ n.toNat ∧ n.toNat ≤ 0x210) ∧ isDieCsr n.toNat = false) ∧
      (∀ (k : Fin 16) (h : Fin 10) p, Tile.reset.cur.accSt[k] = .held h p → h.val < 8) ∧
      isDieCsr (0x200 : BitVec 12).toNat = false ∧ (onD 1 id id).turn = .svc 0 1 ∧
      (let v (op : Nat) : Nat := (BitVec.ofNat 64 (2 ^ 63 + op * 2 ^ 20)).toNat
       v 0 / 2 ^ 63 = 1 ∧ v 1 / 2 ^ 20 % 8 = 1 ∧ v 4 / 2 ^ 20 % 8 = 4 ∧ 5 ≤ v 7 / 2 ^ 20 % 8 ∧ (0 : W).toNat / 2 ^ 63 ≠ 1) ∧
      ((onD 0 id id).die 0).mc.physa.toNat % 8 = 0 ∧
      (let z := 47 * 2 ^ 34; (2 : Fin 3).val = z / 2 ^ 34 / 16 ∧ (0 : W).toNat / 2 ^ (4 * (z / 2 ^ 34 % 16)) % 8 = 0) := by
  refine ⟨rfl, by decide, rfl, by decide, by decide, ?_, by decide⟩
  intro k h p e
  rw [(by decide : ∀ k : Fin 16, Tile.reset.cur.accSt[k] = .free) k] at e
  cases e

/-- Stops of a tile with an attempt under way and without; a die of the region and one that is not. -/
theorem wit_Stops :
    let p (c : Nat) : Down := ⟨3, 0, 1, c, 1, 0, 0, 0⟩
    let s (n : NodeState) (c : Nat) : State := { inReg (reg .ending) (onT 0 id fun tl => { tl with node := n, down := [p c] }) with clk := 100 }
    ((s .run 0).tile 0).down = p 0 :: [] ∧ (p 0).cause = 0 ∧ ((s .hold 0x15).tile 0).node = .hold ∧ ((s .run 0x15).tile 0).node = .run ∧
      (s .run 0x15).regionOf 0 = some (reg .ending) ∧ ¬1 < (reg .closing).nmod ∧ 0 ∈ (reg .closing).dies ∧ 1 ∉ (reg .closing).dies ∧
      (State.reset.module 0).podDead = false ∧
      (State.reset.module 0).unrepaired = [] := by decide +kernel

/-- A base of the pool at the top of HBM in the last of the reserved regions, with its bits and its place as R387 and R373 ask, and one in
a region that is not reserved. -/
theorem wit_HbmFirmware_pool :
    let ok (v rsv : Nat) : Prop := v % 2 ^ 12 = 0 ∧ v % 2 ^ 40 + 2048 * 2 ^ (v / 2 ^ 40 % 16) ≤ 0xC000000000 ∧ 48 - rsv ≤ v % 2 ^ 40 / 2 ^ 34
    ok 0xBFFFFFF000 1 ∧ ¬ok 0xBFFFFFF000 0 ∧ ¬ok (0xBFFFFFF000 + 2 ^ 41) 1 ∧ ¬ok 0xBFFFFFF800 1 ∧ (State.reset.module 0).replaceWas = false ∧
      (State.reset.module 0).alive = true ∧ ((onD 0 id id).die 0).mc.busySlots = [] := by decide +kernel

set_option maxRecDepth 8000 in
/-- Colours of the last two cells, the first of which takes the colour of a joined cell and stops; the edges of the last two cells, the
last of which lead out of the context; and the dwords of a context block at the ends of its rows. -/
theorem wit_FireflyCommands_more :
    let c (k : FfKind) (x : W) (n : Nat) : FfCmd := ⟨0, 0, k, mkRec 0 n 64 1, x, 5, 8, false, 0⟩
    let joined : List (Nat × Cell) := [(65535, { Cell.reset with edges := [(0, 253 + 2 ^ 24)], col := 1 })]
    let s (q : FfCmd) (w : Nat) : State := (ff5 fun ff => { ff with queue := [q], cells := joined }).modTile 0 fun tl =>
      { tl with tm := tl.tm.write 128 (leBytes 4 w) }
    let word (q : FfCmd) (w j : Nat) : Nat := leNat ((((s q w).tile 0).readRuns (runsOf q.rc 0 (recExtent q.rc))).drop (4 * j) |>.take 4)
    let cell (j : Nat) : Cell := kvGet Cell.reset joined (256 * 255 + j)
    let good (w : Nat) : Prop := w / 2 ^ 24 = 0 ∨ (65536 ≤ w % 2 ^ 17 ∧ w % 2 ^ 17 ≤ 69631) ∨ (w % 2 ^ 17 < 256 ∧ (cell (w % 2 ^ 17)).col ≠ (cell 255).col)
    ((c .col 254 2).x.toNat + recExtent (c .col 254 2).rc ≤ 256 ∧ joined.Pairwise (fun x y => x.1 < y.1) ∧
      (∃ e ∈ (cell 255).edges, e.2 / 2 ^ 24 % 256 ≠ 0 ∧ e.2 % 2 ^ 17 = 253) ∧ (cell 253).col = 0) ∧
      (recExtent (c .edge 254 256).rc = 128 * 2 ∧ (c .edge 254 256).x.toNat + 2 ≤ 256) ∧
      (∀ l, l < 32 → good (word (c .edge 254 256) (256 + 2 ^ 24) l)) ∧ ¬good (word (c .edge 254 256) (256 + 2 ^ 24) (32 * 1 + 0)) ∧
      (0x1000 - 8) % 8 = 0 ∧ 0x1000 - 8 < 0x1000 ∧ 0x200 ≤ 0x3F8 ∧ 0x3F8 < 0x400 ∧ 0xBF8 < 0xC00 ∧
      (let f : Firefly := ((ff5 id).die 0).ff
       (f.ctxs[(15 : Fin 16)]).valid = true ∧ (State.reset.regionQuiet 0 5) = true ∧ (f.ctxs[(0 : Fin 16)]).valid = false ∧
         (f.writeBlock 0 0x40 (leBytes 8 (2 ^ 63 + 6))).disjoint = true ∧ ((f.writeBlock 0 0x40 (leBytes 8 (2 ^ 63 + 6))).ctxs[(0 : Fin 16)]).valid = true ∧
         keysRise (f.ctxs[(15 : Fin 16)]).comm.sigt) := by
  refine ⟨by decide +kernel, by decide +kernel, by decide +kernel, by decide +kernel, by decide, by decide, by decide, by decide, by decide,
    by decide +kernel, by decide +kernel, by decide +kernel, by decide +kernel, by decide +kernel, ?_⟩
  have h : ((((ff5 id).die 0).ff).ctxs[(15 : Fin 16)]).comm.sigt = [] := by decide +kernel
  show keysRise ((((ff5 id).die 0).ff).ctxs[(15 : Fin 16)]).comm.sigt
  rw [h]
  exact .nil

/-- An edge that stays in the context, one to a ghost, an empty one, and one that names no cell of the context. -/
theorem wit_FireflySweep_edges :
    let c := ctx15
    let inside (w : Nat) : Prop := w / 2 ^ 24 % 2 ^ 8 = 0 ∨ w % 2 ^ 17 < 256 * c.nrows.toNat ∨ (65536 ≤ w % 2 ^ 17 ∧ w % 2 ^ 17 ≤ 69631)
    inside (255 + 2 ^ 24) ∧ inside (69631 + 2 ^ 24) ∧ inside 256 ∧ ¬inside (256 + 2 ^ 24) ∧ ¬inside (69632 + 2 ^ 24) ∧ 256 * c.nrows.toNat ≤ 256 := by
  decide

/-! ## Witnesses: the order of an agent's accesses, copies of images, links -/

/-- A binding of no elements, one that is bound anew, one whose last element is due, either way; a store of its own that waits; and a
read-out of its strand. -/
theorem wit_VectorStreams_more :
    let b (out done : Bool) (used : Nat) (ahead : List VReg) : Stream := ⟨1, out, 0x1EFF00, 64, 3, used, ahead, 5, done, 4⟩
    let s (q : Stream) : State := recs 0 (mkRec 0 0 64 7) (mkRec 0x1EFFC0 128 64 7) (fun g => { g with streams := [q] }) id
    let none' : State := recs 0 (mkRec 0 0 64 7) 0 id id
    let r := none'.recReg 3
    let e : MatEntry := ⟨3, 0, .rd 0, 0, 0, 1, 0, ⟨0, 0, 0, 0, 0⟩, [], true, false, 0⟩
    let h : HeldStore := ⟨0, 3, 0x1EFFF8, List.replicate 8 7, 0⟩
    (none'.me.streams = [] ∧ r.toNat / 2 ^ 32 % 2 ^ 21 / 64 = 0 ∧ r.toNat % 2 ^ 21 % 64 = 0 ∧ r.toNat / 2 ^ 64 % 2 ^ 21 % 64 = 0 ∧
      r.toNat / 2 ^ 32 % 2 ^ 21 % 64 = 0 ∧ (none'.tile 0).sem 5 < 65535 ∧ none'.myEntry MatEntry.isRd = none) ∧
      ((s (b false true 0 [])).me.streams = [b false true 0 []] ∧ (b false true 0 []).v = (1 : BitVec 5).toNat ∧ (b false true 0 []).done = true ∧
        (b false false 0 []).done = false) ∧
      (let q := (s (b false false 0 [])).recReg 4
       1 ≤ q.toNat / 2 ^ 32 % 2 ^ 21 / 64 ∧ 0x1F0000 ≤ q.toNat % 2 ^ 21 + (q.toNat / 2 ^ 32 % 2 ^ 21 / 64 - 1) * (q.toNat / 2 ^ 64 % 2 ^ 21) + 63) ∧
      ((b true false 2 []).used < (b true false 2 []).n ∧ (b true false 2 []).used + 1 = (b true false 2 []).n ∧ (0x1EFF00 + 2 * 64) % 64 = 0) ∧
      ((b false false 0 [1, 2]).used + (b false false 0 [1, 2]).ahead.length + 1 = (b false false 0 [1, 2]).n ∧
        ((s (b false false 0 [1, 2])).tile 0).badAt (0x1EFF00 + 2 * 64) 64 = none ∧ ((s (b false false 0 [1, 2])).tile 0).matQ = []) ∧
      (let t := onT 0 (fun g => { g with streams := [b false false 0 []] }) fun tl => { tl with matQ := [e] }
       t.me.streams = [b false false 0 []] ∧ ∃ x ∈ (t.tile 0).matQ, x.strand = 0 ∧ x.isRd = true) ∧
      (let tl : Tile := { Tile.reset with held := [h] }
       (tl.held.filter fun h => decide (h.agent = 0) && decide (h.pos ≤ (b false false 0 []).id)) = [h] ∧ tl.olds = [] ∧
         (0x1EFF00 + 3 * 64) % 16 = 0) := by decide

/-- An entry behind a command of its strand that has not started and one that is not, and a command behind such an entry and one that
is not. -/
theorem wit_Order :
    let c (id : Nat) : FfCmd := ⟨0, 0, .bits, mkRec 0 64 64 1, 0, 5, 8, false, id⟩
    let f : MatEntry := ⟨2, 0, .wr, 0x777, mkRec 0 64 64 4, 14, 0, ⟨0, 0, 0, 0, 0⟩, [(0, 64)], false, false, 1⟩
    let s (l : List MatEntry) (q : List FfCmd) : State := (onT 0 id fun tl => { tl with matQ := l }).modDie 0 fun x => { x with ff := { x.ff with queue := q } }
    ((s [f] [c 0]).behindCommand 0 f = true ∧ (s [f] [c 1]).behindCommand 0 f = false ∧ ((s [f] [c 0]).tile 0).matQ = [] ++ f :: []) ∧
      (((s [f] [c 1]).die 0).ff.queue = [c 1] ∧ ((s [f] [c 1]).tile 0).entryBefore (c 1) = true ∧ ((s [f] [c 0]).tile 0).entryBefore (c 0) = false ∧
        ((s [] [c 0]).tile 0).held = [] ∧ ((s [] [c 0]).agentOf (.tile 0 0)).st ≠ .wait .drain) := by decide

set_option maxRecDepth 4000 in
/-- A shape operation and a command that may see an atom as it was before a store made after their issue. -/
theorem wit_OldAtoms :
    let o : ShapeOp := ⟨.scvt 0 false, mkRec 0x10000 128 64 0, mkRec 0 128 64 0, 0, 0, 0, 5, false, 3⟩
    let q : OldAtom := ⟨4, 7, List.replicate 16 9, none⟩
    let s := onT 9 id fun tl => { tl with shapeQ := [o], olds := [q] }
    let reads := runsOf o.src 0 o.srcBytes ++ o.arrays.1
    let noted := (s.tile 0).noteRead ⟨9, o.id, false⟩ reads fun w => ((s.tile 0).pick ⟨9, o.id, false⟩ (s.free + 1) w).1
    (s.tile 0).held = [] ∧ (∀ q ∈ (s.tile 0).olds, q.bytes.length = 16) ∧ q ∈ (s.tile 0).olds ∧ o.id < q.pos ∧ q.atom = 7 ∧
      (s.tile 0).badRuns reads = none ∧ clearOf reads 7 = false ∧
      ({ noted with shapeQ := [{ o with ran := true }] } : Tile).hasRoom (0x10000 / 64) = true := by decide +kernel

/-- A store that a `copy` must not pass, in front of it and behind it; a load that an earlier access bounds; an atom read in two chunks. -/
theorem wit_HaulOperations_order :
    let o : HaulOp := ⟨3, 0, .copy, mkRec 0x10000 128 64 7, mkRec 0 128 64 7, 0, 0, 128, 5, .queued, 0, none, []⟩
    let h (pos a : Nat) : HeldStore := ⟨8, pos, a, List.replicate 8 7, 0⟩
    let s (l : List HeldStore) : State := onT 8 id fun tl => { tl with haulQ := [o], held := l }
    let done := (((s [h 4 0x10008]).tile 0).afterRead o 1 o.reads []).1.putOp { o with status := .running, cursor := o.n }
    ((s [h 2 0]).tile 0).haulOn = true ∧ opOf ((s [h 2 0]).tile 0).haulQ 3 = some o ∧
      (∃ x ∈ ((s [h 2 0]).tile 0).held, x.agent = 8 ∧ x.pos ≤ 3 ∧ clearOf (o.reads ++ o.writes) (x.addr / 16) = false) ∧
      (∀ x ∈ ((s [h 4 0x10008]).tile 0).held, x.agent = 8 → x.pos ≤ 3 → clearOf (o.reads ++ o.writes) (x.addr / 16) = true) ∧
      ((s [h 4 0x10008]).tile 0).held = [h 4 0x10008] ∧ 3 < (h 4 0x10008).pos ∧ (h 4 0x10008).addr % 16 + (h 4 0x10008).bytes.length ≤ 16 ∧
      (done.haulFill o [] (layRuns o.writes (((s [h 4 0x10008]).tile 0).readSeen o 1 o.reads))).2 = none ∧
      (∀ x ∈ done.haulQ ++ done.haulStore, x.id < 4 → clearOf x.toWrite (0x10008 / 16) = true) ∧
      (let n : AtomRead := ⟨⟨8, 1, false⟩, [(0, 16)], [(0, 0)]⟩
       let tl : Tile := { Tile.reset with reads := [n], olds := [⟨4, 0, List.replicate 16 9, none⟩] }
       o.seen = [] ∧ (∃ v ∈ tl.versions ⟨8, 3, false⟩ 0, ∀ n ∈ tl.reads, n.permits ⟨8, 3, false⟩ 0 v.1 = true) ∧ n ∈ tl.reads ∧
         n.reader.agent = 8 ∧ n.reader.stream = false ∧ n.reader.pos ≤ o.id ∧ n.version 0 = some 0) ∧
      (8 / 16 = 0 ∧ 15 / 16 = 0 ∧ (∃ p ∈ [(8, 8)], p.1 ≤ 8 ∧ 8 < p.1 + p.2) ∧ ∃ p ∈ [(0, 16)], p.1 ≤ 15 ∧ 15 < p.1 + p.2) := by decide +kernel

/-- A deferred cause of an agent that is to issue its instruction again, and of one that is not. -/
theorem wit_Boundaries_more :
    let s (b : Bool) := onT 0 (fun g => { g with deferred := some ⟨0x17, 5⟩, resuming := b }) id
    ((s true).agentOf (.tile 0 0)).deferred = some ⟨0x17, 5⟩ ∧ ((s true).agentOf (.tile 0 0)).st = .run ∧
      ((s true).agentOf (.tile 0 0)).resuming = true ∧ ((s false).agentOf (.tile 0 0)).resuming = false := by decide

/-- A pool that is reserved and one that is not; a slot of the second; and repairs of a bank that has one and that has none. -/
theorem wit_FaultPool :
    let s (rsv : BitVec 6) (l : List Nat) : State := onD 0 id fun x => { x with mc := { x.mc with fqBase := 0x1000, rsvN := rsv, busySlots := l, physa := 0x1000 } }
    ((s 48 []).die 0).mc.poolOk = true ∧ ((s 47 []).die 0).mc.poolOk = false ∧ ((s 48 []).die 0).mc.recordLost 63 = false ∧
      (s 48 []).stale 0 0 63 = false ∧ (0x17E0 - 0x1000) / 32 = 63 ∧ 0x1000 + 32 * ((s 48 []).die 0).mc.poolSize = 0x1800 ∧
      ((s 47 [0]).die 0).mc.physa.toNat % 8 = 0 ∧ ((s 47 [0]).die 0).mc.lostAt ((s 47 [0]).die 0).mc.physa.toNat = true ∧
      ((s 48 [0]).die 0).mc.lostAt 0x1000 = false ∧
      (let t (l : List (Nat × Nat × Nat)) := onD 0 id fun x => { x with mc := { x.mc with pprBusy := true, pprRemaps := l } }
       ((t []).die 0).mc.pprBusy = true ∧ ∃ r ∈ ((t [(0, 0, 5)]).die 0).mc.pprRemaps,
         r.1 = ((t []).die 0).mc.pprCtl.toNat % 2 ^ 8 ∧ r.2.1 = ((t []).die 0).mc.pprCtl.toNat / 2 ^ 8 % 2 ^ 6) := by decide

/-- A plain delta and a reduction of one element, and two reductions, in either order; a head of a queue that has the region held, and none. -/
theorem wit_CommitOverlap :
    let r : Region := reg .sealing
    let d (f : Option Nat) (seq : Nat) : Delta := ⟨f, 0, 0x20000, 0, List.replicate 8 1, seq, true⟩
    let s (f g : Option Nat) : State := inReg r (onT 0 id fun tl => { tl with deltas := [d f 0, d g 1] })
    (∀ f ∈ [none, some 0, some 8], ∀ g ∈ [none, some 0, some 8],
      (s f g).writerOrder r 0 = [] ++ (0, d f 0) :: [] ++ (0, d g 1) :: []) ∧
      (s none (some 8)).hbmBad 0 0x20000 8 = none ∧ ⟨0, [0, 1], 0, 0x100, 1, [], false, 0⟩ ∈ r.parts := by decide +kernel

/-- A boundary that a tile recorded of its own module and of another; tiles set for the first superstep and not. -/
theorem wit_BarrierSteps_links :
    let s (f : Tile → Tile) : State := inReg (reg .restoring) (onT 0 id fun tl => f { tl with node := .rollback, tests := [(6, 0, 0)], inReg := true })
    let t := s fun tl => { tl with linkMods := [(0, 0), (0, 5)] }
    (t.tile 0).tests = (6, 0, 0) :: [] ∧ (0, 5) ∈ (t.tile 0).linkMods ∧ (16 * 5, 1) ∈ endsOf 5 0 ∧
      (∀ n, (0, n) ∈ (t.tile 0).linkMods → (16, 1) ∉ endsOf n 0) ∧
      (let u := (s fun tl => { tl with launching := true }).tile 0
       u.launching = true ∧ u.launchPf = [] ∧ u.haulQ = [] ∧ u.haulStore = []) ∧ ((s id).tile 0).launching = false ∧
      ((s id).tile 0).node ≠ .stop := by
  refine ⟨by decide, by decide, by decide, fun n hn => ?_, by decide⟩
  have h : n = 0 ∨ n = 5 := by
    have : (0, n) ∈ [(0, 0), (0, 5)] := hn
    simpa using this
  rcases h with rfl | rfl <;> decide

/-- The core that copies the last tile of the first die, and the other core of its die; a region whose tile is copied. -/
theorem wit_Copies :
    let k : ImageCopy := ⟨63, 5, wordOf (.ctxsv 1 2)⟩
    let o : OutEntry := ⟨true, 2 ^ 28 - 1, 3, List.replicate 64 7⟩
    let s (c : Fin 2) : State := ((onD c (fun g => (g.wx 1 63).wx 2 0xBFFFD80000) fun x => x.setSvc 1 { x.svc[1] with copy := some k }).setTile 63
      { Tile.reset with inReg := true, node := .stop, cur := { Tile.reset.cur with outbox := [o] } })
    (s 0).copyOf (.svc 0 0) = none ∧ (s 1).copyOf (s 1).turn = some k ∧ ((s 1).rx 2).toNat + 0x280000 ≤ 0xC000000000 ∧
      (∀ o ∈ ((s 1).tile k.tile).cur.outbox, o.data.length = 64 ∧ o.dst < 2 ^ 28) ∧ ((s 1).module (modOfTile k.tile)).badHbm = [] ∧
      (∃ q ∈ (s 0).copies, q.2.tile = 63) ∧ ((s 0).tile 63).quiescent = true ∧ (¬∃ q ∈ State.reset.copies, q.2.tile = 63) ∧
      (s 1).copying 63 = true ∧ (s 1).copying 62 = false ∧ decode k.word = some (.ctxsv 1 2) ∧ (s 1).canIssue (.svc 0 1) = true ∧
      (let part : Part := ⟨0, [63], 0, 0x100, 1, [], false, 0⟩
       let r : Region := { reg .held with parts := [part] }
       let t := inReg r (s 1)
       t.named 0 5 = some r ∧ ∃ q ∈ t.copies, q.2.tile ∈ r.tiles ∨ q.2.region = r.id ∧ q.1 = part.m) := by decide +kernel

/-- The last word of each part of a tile window and of a die window; a tile that is copied, an entry that is owned, one that is listed, a
cell of a running region. -/
theorem wit_WindowSpaces :
    (Tile.reset.freshTag (16383 / 8) = none ∧ badHit 16 Tile.reset.badAcc (8 * 16383) 8 = none ∧ Tile.reset.badMb = [] ∧
      Tile.reset.quiescent = true ∧ State.reset.copying 3 = false ∧ modOfTile 3 = 0) ∧
      (0x900000 % 8 = 0 ∧ 0x793DF8 < 0x793E00 ∧ 0x7A3FF8 % 8 = 0 ∧ 64 * 1983 + 63 < 126976) ∧
      (let x (v : Nat) : State := State.reset.modDie 15 fun x => { x with
         lk := { x.lk with router := [(4095, BitVec.ofNat 64 v)] }, mc := { x.mc with llt := [(3071, ⟨0x10000, 7⟩)] } }
       (((x (2 ^ 62)).die 15).lk.entry 4095).getLsbD 63 = false ∧ (((x (2 ^ 63 + 5 * 2 ^ 40)).die 15).lk.entry 4095).getLsbD 63 = true ∧
         ((x 0).die 15).mc.llt.find? (fun q => decide (q.1 = 3071)) = some (3071, ⟨0x10000, 7⟩) ∧
         ((x 0).die 15).mc.llt.find? (fun q => decide (q.1 = 0)) = none ∧ isDieCsr 0xFFF = false ∧ (((x 0).die 15).svc[(1 : Fin 2)]).bad = []) ∧
      (let t := (inReg (reg .closing) (onT 0 id fun tl => { tl with inReg := true, region := 5 }))
       t.regionQuiet 0 (BitVec.ofNat 20 ((2 ^ 63 + 5 * 2 ^ 40) / 2 ^ 40)) = false ∧ ((((ff5 id).die 0).ff.ctxs[(15 : Fin 16)]).valid = true ∧
         ctx15.owns (4 * 16383 + 3) = true ∧ ctx15.owns (4 * 0 + 3) = false)) := by decide +kernel

/-- A host port that has replayed a frame as often as it may; an operation of each kind; the ends of the first boundary of a row and the last of
a column; a frame of each kind on its way to an end; and a message offered on a port. -/
theorem wit_Links_more :
    (let f (n : Nat) : LinkFrame := ⟨0xFFFFFFFF, none, [1], olcfgReset, n, 0⟩
     let s (n : Nat) : State := { State.reset.modDie 15 fun x => { x with hp := ⟨true, 0, 0, 5, [f n]⟩ } with clk := 40000 }
     (15 % 16 = 0 ∨ 15 % 16 = 15) ∧ ((s 15).port 15 true).up = true ∧ ((s 15).port 15 true).kept = [f 15] ∧ (f 15).cfg.toNat % 256 ≤ (f 15).resends ∧
       0 ≤ ((f 15).seq - 0xFFFFFFFF).toInt ∧ (f 15).sentAt + 4 * ((f 15).cfg.toNat / 2 ^ 8 % 2 ^ 32) ≤ (s 15).clk ∧ hostOps [1] = false) ∧
    (let o (op len : Nat) (b : Bool) : OclysOp := ⟨op, 15, 0, len, 2 ^ 32 - 1, 2 ^ 40 - 8, b, List.replicate (if op = 2 then 0 else len) 7⟩
     (∀ k ∈ [(1, 8), (2, 4096), (3, 0), (3, 8), (4, 32)], (o k.1 k.2 false).op < 256 ∧ (o k.1 k.2 false).len < 2 ^ 16 ∧
       (o k.1 k.2 false).data.length = if (o k.1 k.2 false).op = 2 then 0 else (o k.1 k.2 false).len) ∧ hostOps (o 1 8 true).bytes = true ∧
       oclysOps ((o 1 8 true).bytes.length / 16 + 1) (o 1 8 true).bytes = [o 1 8 true]) ∧
    (let w (k : Nat) (n : BitVec 32) : Wire := ⟨0, 1, k, n, 3, [7]⟩
     let s (k : Nat) (n : BitVec 32) : State := { State.reset.modLink 0 1 (fun p => { p with expected := 9 }) with wires := [w k n] }
     ((s 0 9).link 0 1).up = true ∧ (s 0 9).wires = [w 0 9] ∧ (w 0 9).die = 0 ∧ (w 0 9).side = 1 ∧ (w 0 9).seq = ((s 0 9).link 0 1).expected ∧
       ((w 0 8).seq - ((s 0 8).link 0 1).expected).toInt < 0 ∧ 0 < ((w 0 10).seq - ((s 0 10).link 0 1).expected).toInt) ∧
    ((State.reset.link 0 1).up = true ∧ (State.reset.link 11 3).up = true ∧ 11 % 16 / 4 ≠ 3 ∧ endsOf 0 0 = [(0, 1), (1, 0)] ∧
      endsOf 0 23 = [(11, 3), (15, 2)] ∧ fenceDies 0 23 = [11, 15]) ∧
    (let o : OutEntry := ⟨false, 1024, 0, List.replicate 64 0⟩
     let s : State := (exch fun tl => { tl with cur := { tl.cur with outbox := [o] } }).modDie 0 fun x => { x with lk := { x.lk with port := { x.lk.port with up := true } } }
     (s.port 0 false).up = true ∧ dieOfTile 0 = 0 ∧ (s.tile 0).node = .exch ∧ (s.tile 0).col = [] ∧ (s.tile 0).xsched = [] ∧ (s.tile 0).recorded = [] ∧
       (s.tile 0).offered = [] ∧ (s.tile 0).cur.outbox = [o] ∧ modOfTile o.dst ≠ modOfTile 0) := by decide +kernel

/-! ## Witnesses: stalls, version-store room, checks form by form -/

/-- Strand 0 with its next number 1 and an `ffrd` of it, number 0, that is still to write the last 64 bytes of tile memory. -/
def behind (f : Agent → Agent) : State :=
  (onT 0 f fun tl => { tl with opSeq := 1 }).modDie 0 fun x =>
    { x with ff := { x.ff with coming := [⟨0, 0, .bits, mkRec 0x1EFFC0 64 64 1, 0, 5, 8, false, 0⟩] } }

theorem stall_ok {s : State} {a : W} {n : Nat}
    (h : (decide (a.toNat % n = 0) && decide (a.toNat + n ≤ whoMem s.turn) && (s.myEntry MatEntry.isRd).isNone &&
      (s.unread a.toNat n).isNone && s.behindOwn [(a.toNat, n)]) = true) : s.mustStall a n := by
  simpa [State.mustStall, and_assoc] using h

/-- Stores of every size, rows of elements, and an element of an output stream behind the strand's own `ffrd`. -/
theorem wit_Stalls :
    (let s := behind fun g => (g.wx 1 0x1EFFC0).wx 2 8
     let A : W := s.rx 1 + (0 : BitVec 15).signExtend 64
     let strided (j : Nat) : W := s.rx 1 + BitVec.ofNat 64 j * s.rx 2
     (s.mustStall A 1 ∧ s.mustStall A 2 ∧ s.mustStall A 4 ∧ s.mustStall A 8 ∧ s.mustStall A 32 ∧ s.mustStall A 64) ∧ s.drained ∧ s.plainStrand ∧
       s.behindOwn ((List.range 8).map fun j => ((strided j).toNat, 8)) = true ∧
       (∀ k, k < 8 → (strided k).toNat % 8 = 0 ∧ (strided k).toNat + 8 ≤ whoMem s.turn ∧ s.unread (strided k).toNat 8 = none)) ∧
    (let b : Stream := ⟨1, true, 0x1EFF00, 64, 4, 3, [], 5, false, 0⟩
     let s := behind fun g => { g with streams := [b] }
     s.me.streams = [b] ∧ b.out = true ∧ b.used < b.n ∧ b.used + 1 = b.n ∧ b.done = false ∧ (s.tile 0).sem b.sem < 65535 ∧
       (b.base + b.used * b.stride) % 64 = 0 ∧ s.mustStall (BitVec.ofNat 64 (b.base + b.used * b.stride)) 64 ∧ b.base + b.used * b.stride < 2 ^ 64) :=
  ⟨⟨⟨stall_ok (by decide), stall_ok (by decide), stall_ok (by decide), stall_ok (by decide), stall_ok (by decide), stall_ok (by decide)⟩,
      ⟨by decide, by decide⟩, strand_ok rfl (by decide) rfl, by decide, by decide⟩,
    by decide, by decide, by decide, by decide, by decide, by decide, by decide, stall_ok (by decide), by decide⟩

theorem fullVs_needs (n : Nat) (x1 x2 : W) (l : Nat) (hl : l ≠ 0) (hk : Tile.reset.kept (l / 1024) = true) :
    ((fullVs n x1 x2).tile 0).needsLine l = true := by
  have h : ((fullVs n x1 x2).tile 0).needsLine l =
      (true && Tile.reset.kept (l / 1024) && !((List.replicate n (⟨false, 0, [], [], [], false⟩ : VsLine)).any fun v => !v.acc && decide (v.line = l))) := rfl
  rw [h, hk, List.any_replicate]
  simp [Ne.symm hl]

/-- Eight elements on lines that the version store does not hold, with room for two of them and for none: the third element, and the first,
is without a line. -/
theorem wit_VectorMemory_full (n : Nat) (hn : n = 8190 ∨ n = 8192) :
    let s := fullVs n 0x1EFE00 64
    let f (j : Nat) : W := s.rx 1 + BitVec.ofNat 64 j * s.rx 2
    let needs (j : Nat) : Bool := (s.tile s.here).needsLine ((f j).toNat / 64) &&
      (List.range j).all fun k => decide ((f k).toNat / 64 ≠ (f j).toNat / 64)
    let taken (j : Nat) : Nat := ((List.range j).filter needs).length
    s.plainStrand ∧ (∀ k, k < 8 → (f k).toNat % 8 = 0 ∧ (f k).toNat + 8 ≤ whoMem s.turn ∧ s.unread (f k).toNat 8 = none) ∧
      s.myEntry MatEntry.isRd = none ∧ s.behindOwn ((List.range 8).map fun j => ((f j).toNat, 8)) = false ∧
      ∃ j, j < 8 ∧ (needs j = true ∧ 8192 ≤ (s.tile s.here).vs.length + taken j) ∧
        ∀ k, k < j → ¬(needs k = true ∧ 8192 ≤ (s.tile s.here).vs.length + taken k) := by
  intro s f needs taken
  have hf : ∀ k, k < 8 → (f k).toNat = 0x1EFE00 + 64 * k := by
    show ∀ k, k < 8 → ((0x1EFE00 : W) + BitVec.ofNat 64 k * 64).toNat = 0x1EFE00 + 64 * k
    decide
  have hneeds : ∀ k, k < 8 → needs k = true := by
    intro k hk
    refine Bool.and_eq_true_iff.mpr ⟨?_, List.all_eq_true.mpr fun i hi => ?_⟩
    · rw [hf k hk]
      exact fullVs_needs n _ _ _ (by omega) (by interval_cases k <;> decide)
    · have := List.mem_range.mp hi
      rw [hf i (by omega), hf k hk]
      exact decide_eq_true (by omega)
  have htaken : ∀ k, k ≤ 8 → taken k = k := by
    intro k hk
    show ((List.range k).filter needs).length = k
    rw [List.filter_eq_self.mpr fun i hi => hneeds i (Nat.lt_of_lt_of_le (List.mem_range.mp hi) hk), List.length_range]
  have hlen : (s.tile s.here).vs.length = n := List.length_replicate
  refine ⟨strand_ok rfl (by decide) rfl, fun k hk => ?_, rfl, rfl, ?_⟩
  · refine ⟨by rw [hf k hk]; omega, ?_, rfl⟩
    rw [hf k hk]
    show 0x1EFE00 + 64 * k + 8 ≤ 0x1F0000
    omega
  · rw [hlen]
    rcases hn with h | h
    · refine ⟨2, by decide, ⟨hneeds 2 (by decide), by rw [htaken 2 (by decide)]; omega⟩, fun k hk => ?_⟩
      rw [htaken k (by omega)]
      omega
    · exact ⟨0, by decide, ⟨hneeds 0 (by decide), by omega⟩, fun k hk => absurd hk (Nat.not_lt_zero k)⟩

set_option maxRecDepth 4000 in
/-- Each row of the tables of R276, R279 and R273, in its place after the rows before it. -/
theorem wit_Matrix_traps :
    let held (n : Fin 16) (tl : Tile) : Tile := { tl with cur := { tl.cur with accSt := tl.cur.accSt.set n (.held 7 true) } }
    let ctx (x : BitVec 12) (g : Agent) : Agent := { g with mctx := x }
    let odd (r : Rec) : Option Nat := firstOdd (max 1 (elBits (recFormat r) / 8)) (maccRuns r)
    (let s := recs 0 (mkRec 0 32768 512 4) 0 id (held 15)
     let r := s.recReg 3
     (s.tile 0).matQ.length < 16 ∧ (s.tile 0).cur.accSt[15] = .held 7 true ∧ odd r = none ∧ firstOut (maccRuns r) = none ∧
       31 * rowBytes (recFormat r) + 8 * elBits (recFormat r) ≤ recExtent r) ∧
    (let s := recs 0 (mkRec 0 4128 128 7) 0 id (held 15)
     let r := s.recReg 3
     let c := s.me.mctx
     (ctxA c = 5 → firstOdd 2 (runsOf r 0 (32 * rowBytes (recFormat r))) = none) ∧ firstOut (streamRuns c r) = none ∧ streamExtent c ≤ recExtent r ∧
       (s.tile 0).heldByOther 0 14 = false ∧ (14 : BitVec 5).toNat % 2 = 0 ∧ (15 : BitVec 5).toNat = (14 : BitVec 5).toNat + 1) ∧
    (let s (r : Rec) (c : BitVec 12) := recs 0 r 0 (ctx c) id
     let r1 := (s (mkRec 1 8256 256 5) 0x755).recReg 3
     let r2 := (s (mkRec 0x1EFFC0 4128 128 7) 0x777).recReg 3
     let r3 := (s (mkRec 0 4127 128 7) 0x777).recReg 3
     let r4 := (s (mkRec 0 4128 128 7) 0x777).recReg 3
     (ctxA 0x755 = 5 ∧ (firstOdd 2 (runsOf r1 0 (32 * rowBytes (recFormat r1)))).isSome = true) ∧
       (ctxA 0x777 ≠ 5 ∧ (firstOut (streamRuns 0x777 r2)).isSome = true) ∧
       (firstOut (streamRuns 0x777 r3) = none ∧ recExtent r3 < streamExtent 0x777) ∧
       (firstOut (streamRuns 0x777 r4) = none ∧ streamExtent 0x777 ≤ recExtent r4 ∧ ((s r4 0x777).tile 0).heldByOther 0 14 = false ∧
         ((s r4 0x777).tile 0).slotFmt 15 ≠ ctxB 0x777)) ∧
    (let s (r : Rec) := (recs 0 r 0 id id).recReg 3
     (odd (s (mkRec 2 32768 512 4))).isSome = true ∧
       (odd (s (mkRec 0x1EFE00 32768 512 4)) = none ∧ (firstOut (maccRuns (s (mkRec 0x1EFE00 32768 512 4)))).isSome = true) ∧
       (let r := s (mkRec 0 100 512 4)
        odd r = none ∧ firstOut (maccRuns r) = none ∧ recExtent r < 31 * rowBytes (recFormat r) + 8 * elBits (recFormat r)) ∧
       (let r := s (mkRec 0 32768 512 6)
        odd r = none ∧ firstOut (maccRuns r) = none ∧ 31 * rowBytes (recFormat r) + 8 * elBits (recFormat r) ≤ recExtent r ∧ recFormat r ≠ 4 ∧
          recFormat r ≠ 5)) ∧
    (let s (base ext h : Nat) := recs 0 (mkRec base ext 128 7) 0 id fun tl => { tl with tm := tl.tm.write base (leBytes 8 h) }
     let h8 (s : State) : Nat := leNat ((runsOf (s.recReg 3) 0 8).flatMap fun p => (s.memOf s.turn).1.bytes p.1 p.2)
     let good := 7 + 1 * 2 ^ 12 + 16384 * 2 ^ 32
     let readable (s : State) : Prop := firstOut (runsOf (s.recReg 3) 0 64) = none ∧ (s.tile 0).badRuns (runsOf (s.recReg 3) 0 64) = none
     (firstOut (runsOf ((s 0x1EFFE0 20000 good).recReg 3) 0 64)).isSome = true ∧
       (readable (s 0 20000 0) ∧ hdrOk (imageHdr (h8 (s 0 20000 0))) 15 = false) ∧
       (readable (s 0x1EFF80 20000 good) ∧ hdrOk (imageHdr (h8 (s 0x1EFF80 20000 good))) 15 = true ∧
         (firstOut (imageRuns (imageHdr (h8 (s 0x1EFF80 20000 good))) ((s 0x1EFF80 20000 good).recReg 3))).isSome = true) ∧
       (let t := s 0 64 good
        let h := imageHdr (h8 t)
        readable t ∧ hdrOk h 15 = true ∧ firstOut (imageRuns h (t.recReg 3)) = none ∧ recExtent (t.recReg 3) < tailStart h.fmt + tailLen h.fmt)) := by
  decide +kernel

/-- Descriptors that an image of two slots at slot 4 meets: one that filled slots 3 and 4, one that filled 5 and 6, one that it leaves. -/
theorem wit_Mwld_descriptors :
    let im (n : Nat) : ImageHdr := ⟨5, 0, n, 32768, 0⟩
    let d : Vector SlotDesc 16 := ((((((Vector.replicate 16 ⟨none, false, 0, []⟩).set 3 ⟨some (im 2), false, 0, []⟩).set 4 ⟨none, true, 0, []⟩).set 5
      ⟨some (im 2), false, 0, []⟩).set 6 ⟨none, true, 0, []⟩).set 15 ⟨some (im 1), false, 0, []⟩)
    let filled (n : Nat) : Prop := n = 4 ∨ (im 2).slots = 2 ∧ n = 4 + 1
    let hit (i : Fin 16) : Prop := ∃ g, (d[i]).image = some g ∧ (filled i.val ∨ g.slots = 2 ∧ filled (i.val + 1))
    (¬filled 3 ∧ hit 3) ∧ (¬filled 6 ∧ (d[(6 : Fin 16)]).cont = true ∧ ∃ j : Fin 16, j.val + 1 = 6 ∧ hit j) ∧
      (¬filled 15 ∧ ¬hit 15 ∧ (d[(15 : Fin 16)]).cont = false) ∧ (im 2).slots = 2 := by
  refine ⟨⟨by decide, ⟨⟨5, 0, 2, 32768, 0⟩, rfl, Or.inr ⟨rfl, Or.inl rfl⟩⟩⟩,
    ⟨by decide, rfl, 5, rfl, ⟨⟨5, 0, 2, 32768, 0⟩, rfl, Or.inl (Or.inr ⟨rfl, rfl⟩)⟩⟩, ⟨by decide, ?_, rfl⟩, rfl⟩
  rintro ⟨g, e, h⟩
  cases e
  simp at h

/-- Entries that read nothing, and one atom old or new; versions that an earlier read and a later one bound. -/
theorem wit_RunSeen :
    let e (l : List (Nat × Nat)) : MatEntry := ⟨2, 0, .wr, 0x777, mkRec 0 64 64 4, 14, 0, ⟨0, 0, 0, 0, 0⟩, l, false, false, 3⟩
    let q : OldAtom := ⟨4, 0, List.replicate 16 9, none⟩
    let n (pos : Nat) (l : List (Nat × Nat)) : AtomRead := ⟨⟨0, pos, false⟩, [(0, 16)], l⟩
    let tl (l : List AtomRead) : Tile := { Tile.reset with olds := [q], reads := l }
    (e []).reads = [] ∧ (e [(0, 64)]).reads ≠ [] ∧ Tile.reset.olds = [] ∧ Tile.reset.held = [] ∧ (tl []).held = [] ∧
      (∀ q ∈ (tl []).olds, q.bytes.length = 16) ∧ clearOf (e [(0, 64)]).reads 0 = false ∧
      (∀ l ∈ [[n 2 [(0, 0)]], [n 5 [(0, 0)]]], (∃ v ∈ (tl l).versions (e [(0, 64)]).reader 0, ∀ m ∈ (tl l).reads, m.permits (e [(0, 64)]).reader 0 v.1 = true) ∧
        ∃ m ∈ (tl l).reads, m.reader.agent = (e [(0, 64)]).strand ∧ m.reader.stream = false ∧ m.version 0 = some 0) ∧
      (n 2 []).reader.pos ≤ (e []).pos ∧ ¬(n 5 []).reader.pos ≤ (e []).pos := by decide

/-- A step of which the streamed rows are zero beside a NaN in the square leaves its pair in accumulate mode; not in overwrite mode, and not
with a scale 0xFF. -/
theorem test_step_idle :
    let z : List (Array FVal × Nat) := [(#[.fin true 0 0], 0x7F)]
    stepIdle 0x477 z #[.nan] 0x7F = true ∧ stepIdle 0x377 z #[.nan] 0x7F = false ∧ stepIdle 0x477 z #[.nan] 0xFF = false := by decide +kernel

/-! ## Witnesses: the checks of shape, haul and collective operations -/

/-- A record whose bounds check is on. -/
def checked (base ext s0 fmt : Nat) : Rec := mkRec base ext s0 fmt ||| BitVec.ofNat 256 (2 ^ 136)

/-- Each cause of the table of R244 for a source, a destination or an array that meets it, in its place; and none of them. -/
theorem wit_Shape_traps :
    let bits (c : Nat) : Nat := ([8, 16, 32, 64, 32, 16, 16, 8, 8, 4, 8, 4, 8, 8, 32, 8] : List Nat).getD c 8
    let size (c : Nat) : Nat := max 1 (bits c / 8)
    let N (src : Rec) : Nat := recExtent src * 8 / bits (recFormat src)
    let oddS (src : Rec) (j : Nat) : Prop := j < N src ∧ recAddr src (size (recFormat src) * j) % size (recFormat src) ≠ 0
    let oddD (plain : Bool) (dst : Rec) (len j : Nat) : Prop :=
      plain = false ∧ size (recFormat dst) * j < len ∧ recAddr dst (size (recFormat dst) * j) % size (recFormat dst) ≠ 0
    let outS (src : Rec) (j : Nat) : Prop := j < (N src * bits (recFormat src) + 7) / 8 ∧ 0x1F0000 ≤ recAddr src j
    let outD (dst : Rec) (len j : Nat) : Prop := j < len ∧ 0x1F0000 ≤ recAddr dst j
    let same (src dst : Rec) : Nat := (N src * bits (recFormat dst) + 7) / 8
    let outA (l : List (Nat × Nat)) : Option Nat := l.findSome? fun x => if x.2 = 0 ∨ x.1 + x.2 ≤ 0x1F0000 then none else some (max x.1 0x1F0000)
    (oddS (mkRec 1 512 512 4) 0 ∧ ∀ i, ¬oddD true (mkRec 0x10000 1 64 4) 1 i) ∧
    (oddD false (mkRec 1 16 64 4) (same (mkRec 0 4 64 0) (mkRec 1 16 64 4)) 0 ∧ ∀ i, ¬oddS (mkRec 0 4 64 0) i) ∧
    (oddS (mkRec 2 16 64 4) 0 ∧ oddD false (mkRec 1 16 64 4) (same (mkRec 2 16 64 4) (mkRec 1 16 64 4)) 0) ∧
    ((∀ j, ¬oddS (mkRec 0x1EFFFE 4 64 0) j ∧ ¬oddD false (mkRec 0 4 64 0) 4 j) ∧ outS (mkRec 0x1EFFFE 4 64 0) 2 ∧
      ∀ i, i < 2 → ¬outS (mkRec 0x1EFFFE 4 64 0) i) ∧
    ((∀ j, ¬oddS (mkRec 0 4 64 0) j ∧ ¬oddD false (mkRec 0x1EFFFE 4 64 0) 4 j) ∧ (∀ i, ¬outS (mkRec 0 4 64 0) i) ∧
      outD (mkRec 0x1EFFFE 4 64 0) 4 2 ∧ ∀ i, i < 2 → ¬outD (mkRec 0x1EFFFE 4 64 0) 4 i) ∧
    (outA [(0x1EFFFF, 1)] = none ∧ outA [(0x1EFFFF, 2)] = some 0x1F0000 ∧ outA [(0x1F0001, 0), (0x1F0003, 1)] = some 0x1F0003) ∧
    (let src := mkRec 0 0 64 4
     (∀ j, ¬oddS src j ∧ ¬oddD false (mkRec 0 0 64 14) 0 j ∧ ¬outS src j ∧ ¬outD (mkRec 0 0 64 14) 0 j) ∧ outA [(0, N src / 128)] = none ∧
       recExtent src * 8 % bits 4 = 0 ∧ N src % 128 = 0 ∧ (25 * 2 ^ 24) / 2 ^ 24 % 32 > 24 ∧ ¬(24 < (24 * 2 ^ 24) / 2 ^ 24 % 32)) ∧
    (recExtent (mkRec 0 3 64 4) * 8 % bits 4 ≠ 0 ∧ N (mkRec 0 512 64 4) % 128 = 0 ∧ N (mkRec 0 16383 64 7) < 16384) := by
  intro bits size N oddS oddD outS outD same outA
  have plain : ∀ r len i, ¬oddD true r len i := fun r len i h => Bool.noConfusion h.1
  have one : ∀ k, k % 1 = 0 := Nat.mod_one
  have bS : ∀ b e s j, size (recFormat (mkRec b e s 0)) = 1 → ¬oddS (mkRec b e s 0) j := fun b e s j h hj => by
    have := hj.2
    rw [h, one] at this
    exact this rfl
  have bD : ∀ b e s len j, size (recFormat (mkRec b e s 0)) = 1 → ¬oddD false (mkRec b e s 0) len j := fun b e s len j h hj => by
    have := hj.2.2
    rw [h, one] at this
    exact this rfl
  refine ⟨⟨by decide, plain _ _⟩, ⟨by decide, fun i => bS _ _ _ i (by decide)⟩, by decide,
    ⟨fun j => ⟨bS _ _ _ j (by decide), bD _ _ _ _ j (by decide)⟩, by decide, by decide⟩,
    ⟨fun j => ⟨bS _ _ _ j (by decide), bD _ _ _ _ j (by decide)⟩, fun i h => ?_, by decide, by decide⟩, by decide,
    ⟨fun j => ⟨?_, ?_, ?_, ?_⟩, by decide, by decide, by decide, by decide, by decide⟩, by decide⟩
  · exact absurd h.2 ((show ∀ i, i < 4 → ¬0x1F0000 ≤ recAddr (mkRec 0 4 64 0) i by decide) i (Nat.lt_of_lt_of_eq h.1 (by decide)))
  all_goals
    intro h
    first
    | exact Nat.not_lt_zero _ (Nat.lt_of_lt_of_eq h.1 (by decide))
    | exact Nat.not_lt_zero _ h.2.1

set_option maxRecDepth 4000 in
/-- Each cause of the table of R205: an odd address of the transfer and of a record; a size that is no multiple; bytes outside either record;
a fetch without room in its record or the list; an address beyond the space, a segment that is kept; and none of them. -/
theorem wit_Haul_traps :
    let odd (src : Rec) (n size j : Nat) : Prop := 0 < size ∧ size * j < n ∧ (recAddr src (size * j) % size ≠ 0 ∨ n < size * j + size)
    let out (r : Rec) (n j : Nat) : Prop := j < n ∧ 0x1F0000 ≤ recAddr r j
    let tl (n : Nat) : Tile := { Tile.reset with pfNext := List.replicate n ⟨0, 0, 64, 0, 0, []⟩ }
    (2 % 4 ≠ 0 ∧ 4 % 4 = 0) ∧ odd (mkRec 2 8 64 2) 8 4 0 ∧ (odd (mkRec 0 6 64 2) 6 4 1 ∧ ¬odd (mkRec 0 6 64 2) 6 4 0) ∧
      ((∀ j, ¬odd (mkRec 0x1EFFFE 4 64 0) 4 0 j) ∧ out (mkRec 0x1EFFFE 4 64 0) 4 2 ∧ ∀ i, i < 2 → ¬out (mkRec 0x1EFFFE 4 64 0) 4 i) ∧
      (∀ j, ¬out (mkRec 0 4 64 0) 4 j) ∧
      (recCheck (checked 0 64 64 0) = true ∧ recExtent (checked 0 64 64 0) < 128 ∧ recCheck (mkRec 0 64 64 0) = false) ∧
      (256 ≤ (tl 256).pfNext.length ∧ (tl 255).pfNext.length < 256) ∧ (2 ^ 52 ≤ 0xFFFFFFFFFFFFF + (2 - 1) ∧ ¬2 ^ 52 ≤ 0xFFFFFFFFFFFFF + (1 - 1)) ∧
      ((tl 0).kept (recAddr (mkRec 0x1EFFFF 1 64 0) 0 / 65536) = true) ∧
      ({ tl 0 with vmaskEff := 2 ^ 30 } : Tile).kept (recAddr (mkRec 0x1EFFFF 1 64 0) 0 / 65536) = false := by
  refine ⟨by decide, by decide, by decide, ⟨fun j h => absurd h.1 (Nat.lt_irrefl 0), by decide, by decide⟩, fun j h => ?_, by decide, by decide,
    by decide, by decide, by decide⟩
  exact absurd h.2 ((show ∀ i, i < 4 → ¬0x1F0000 ≤ recAddr (mkRec 0 4 64 0) i by decide) j h.1)

/-- Each cause of the table of R343: words at odd addresses, bytes outside tile memory, sizes and a schedule that do not fit, a stream that
is not the region's, a partner outside the region, outside the group and the tile itself, a stream with no entry for another module. -/
theorem wit_Collective_traps :
    let odd (f : Nat) (r : Rec) (n j : Nat) : Prop := f = 2 ∧ 4 * j < n ∧ recAddr r (4 * j) % 4 ≠ 0
    let out (r : Rec) (n j : Nat) : Prop := j < n ∧ 0x1F0000 ≤ recAddr r j
    let s (g : Option Rec) (n : Nat) : State := routed (inReg (reg .closing) (recs 8 (mkRec 0 64 64 7) 0
      (fun a => { ((a.wx 1 4095).wx 2 1) with group := g }) fun tl =>
        { tl with region := 5, inReg := true, haulQ := List.replicate n ⟨0, 0, .copy, 0, 0, 0, 0, 1, 0, .queued, 0, none, []⟩ }))
    let x := (kvGet 0 ((s none 0).die (dieOfTile 0)).lk.router 4095).toNat
    odd 2 (mkRec 1 8 64 2) 8 0 ∧ (∀ j, ¬odd 1 (mkRec 1 8 64 2) 8 j) ∧ (out (mkRec 0x1EFFFE 4 64 0) 4 2 ∧ ∀ i, i < 2 → ¬out (mkRec 0x1EFFFE 4 64 0) 4 i) ∧
      (∀ j, ¬out (mkRec 0 4 64 0) 4 j) ∧ 6 % 4 ≠ 0 ∧ (4095 < 4096 ∧ x / 2 ^ 63 = 1 ∧ x / 2 ^ 40 % 2 ^ 20 = ((s none 0).tile 0).region.toNat) ∧
      (grpAddr grp3 1 = 1 ∧ 1 < grpSize grp3 ∧ (s none 0).sameRegion 0 1 = true ∧ (s none 0).sameRegion 0 2 = false ∧ grpAddr grp3 2 = 2 ∧
        grpSize grp3 ≤ 3 ∧ modOfTile 1024 ≠ modOfTile 0 ∧ x / 2 ^ (9 * (x / 2 ^ 36 % 4)) % 2 = 0 ∧ (∃ q, q < grpSize grp3 ∧ grpAddr grp3 q = 0) ∧
        ∀ q, q < grpSize grp3 → grpAddr grp3 q ≠ 3) ∧
      ((s none 15).tile 0).haulQ.length < 16 ∧ 16 ≤ ((s none 16).tile 0).haulQ.length ∧ (32 ≤ 0x20 % 256 ∨ 512 ≤ 0x20) ∧ (32 ≤ 512 % 256 ∨ 512 ≤ 512) := by
  refine ⟨by decide, fun j h => absurd (show 1 = 2 from h.1) (by decide), by decide, fun j h => ?_, by decide⟩
  exact absurd h.2 ((show ∀ i, i < 4 → ¬0x1F0000 ≤ recAddr (mkRec 0 4 64 0) i by decide) j h.1)

/-! ## Witnesses: fault records of haul operations -/

set_option maxRecDepth 4000 in
/-- A resume by core 0 of the last record of the pool: with bits that must be 0, for the other queue, with a cause that is not delivered; of
a record that is not valid, of one whose slot has gone to another region; of a strand's and of a haul operation's, suspended in its place and in the
store. And the posting of a haul operation's record, with room in the store and without. -/
theorem wit_FaultQueues_haul :
    let o (id : Nat) (st : OpStatus) (f : Option Nat) : HaulOp := ⟨id, 0, .hld, mkRec 0 128 64 7, 0, 0x10000, 0, 128, 5, st, 0, f, []⟩
    let s (v r : Nat) (q0 : List Nat) (p : List (Nat × Nat)) : State :=
      (((onD 0 (fun g => g.wx 1 (BitVec.ofNat 64 v)) fun x => { x with mc := { x.mc with fq0 := q0, fqBase := 0x1000, rsvN := 48, popped := p } }).modModule 0
        fun y => { y with hbm := y.hbm.write 0x17E0 (leBytes 8 r) })).setTile 0
          { Tile.reset with haulQ := [o 3 .suspended (some 63)], haulStore := [o 4 .suspended (some 63)], region := 5 }
    let haulRec := 2 ^ 63 + 2 * 2 ^ 12 + 8 * 2 ^ 8
    (s (0x17E0 + 2 ^ 50) haulRec [] []).turn = .svc 0 0 ∧ ¬(0x17E0 + 2 ^ 50 < 2 ^ 50) ∧ 0x17E0 % 2 ^ 40 % 32 = 0 ∧
      ((s 0x17E0 haulRec [] []).die 0).mc.fqBase.toNat + 32 * ((s 0x17E0 haulRec [] []).die 0).mc.poolSize = 0x1800 ∧
      ((s 0x17E0 haulRec [] []).die 0).mc.recordLost 63 = false ∧ (s 0x17E0 haulRec [] []).hbmBad 0 0x17E0 24 = none ∧
      (s 0x17E0 haulRec [] []).hbmNat 0 0x17E0 8 = haulRec ∧ haulRec / 2 ^ 61 % 2 = (0 : Fin 2).val ∧ haulRec / 2 ^ 63 % 2 = 1 ∧ haulRec / 2 ^ 12 % 8 ≠ 0 ∧
      (haulRec + 2 ^ 61) / 2 ^ 61 % 2 ≠ (0 : Fin 2).val ∧ (0x06 : Nat) ∉ [0x01, 0x02, 0x03, 0x04, 0x05, 0x07, 0x09] ∧ (haulRec - 2 ^ 63) / 2 ^ 63 % 2 = 0 ∧
      (let t := s 0x17E0 haulRec [63] [(126, 6)]
       let at' (j : Nat) : Nat := (t.tile (kvGet 0 (t.die 0).mc.slotTiles j)).region.toNat
       63 ∈ (t.die 0).mc.fq0 ∧ at' 63 = 5 ∧ kvGet (at' 63) (t.die 0).mc.popped (2 * 63 + 0) ≠ at' 63) ∧
      63 ∉ ((s 0x17E0 haulRec [] [(126, 6)]).die 0).mc.fq0 ∧ kvGet 5 ((s 0x17E0 haulRec [63] []).die 0).mc.popped 126 = 5 ∧
      (∀ x ∈ ((s 0x17E0 haulRec [] []).tile 0).haulQ, x.status ≠ .storing) ∧ ((s 0x17E0 haulRec [] []).tile 0).launching = false ∧
      (let f : FaultStop := ⟨6, 0, 8, 2, 0, 0x10000, 0, 0, 0, 0, some 3, 0⟩
       let w (n : Nat) : State := { (onD 0 id fun x => { x with mc := { x.mc with stops := [f] } }).setTile 0
         { Tile.reset with haulQ := [] ++ o 3 .suspended none :: [o 5 .queued none], haulStore := List.replicate n (o 1 .suspended (some 1)) } with clk := 2 }
       firstStop (((w 15).die 0).mc.stops.filter fun g => decide (g.cycle < (w 15).clk / 2)) = some f ∧ ((w 15).die 0).mc.freeSlot = some 0 ∧
         f.opId = some 3 ∧ f.tile = 0 ∧ ((w 15).tile 0).haulQ = [] ++ o 3 .suspended none :: [o 5 .queued none] ∧
         (∀ q ∈ [] ++ [o 5 .queued none], q.id ≠ 3 ∧ q.status ≠ .storing) ∧ (o 3 .suspended none).status ≠ .storing ∧
         ((w 15).tile 0).haulStore.length < 16 ∧ 16 ≤ ((w 16).tile 0).haulStore.length) := by decide

/-! ## Witnesses: what the last changes of the statements need -/

/-- The end of an agent with a cause pending; a tile of a module that has tripped; a shape hart and a haul hart that do not stall; an abort that
meets a tile before its start; a strand that stalls behind an `ffrd`. -/
theorem wit_Pending :
    (let s := onT 0 (fun g => { g with deferred := some ⟨0x0A, 64⟩ }) id
     s.me.depth = 0 ∧ s.myEntry (fun _ => true) = none ∧ s.me.streams = [] ∧ s.me.deferred = some ⟨0x0A, 64⟩) ∧
    (let s (t : Bool) : State := (inReg (reg .closing) (onT 0 (fun g => { g with st := .synced, deferred := some ⟨0x0A, 64⟩ }) id)).modModule 0 fun y =>
       { y with tripped := t }
     ((s true).tile 0).node = .run ∧ ((s true).tile 0).stopping = false ∧ ((s true).tile 0).mayArrive = true ∧ (s true).ffBusy 0 = false ∧
       ((s true).module (modOfTile 0)).alive = false ∧ ((s false).module (modOfTile 0)).alive = true ∧
       (((s false).tile 0).cur.agents[(0 : Fin 10)]).st = .synced ∧ (((s false).tile 0).cur.agents[(0 : Fin 10)]).deferred = some ⟨0x0A, 64⟩) ∧
    (((onT 9 id id).agentOf (.tile 0 9)).stalled = false ∧ ((onT 8 id id).agentOf (.tile 0 8)).stalled = false) ∧
    (let s := onT 0 id fun tl => { tl with node := .relwait, fresh := true }
     (s.tile 0).node = .relwait ∧ (s.tile 0).fresh = true ∧ (s.tile 0).inReg = false) ∧
    (let s := behind fun g => { g with stalled := true }
     (s.agentOf (.tile 0 0)).st = .run ∧ (s.agentOf (.tile 0 0)).stalled = true) := by decide

set_option maxRecDepth 4000 in
/-- RFC 8032, section 7.4, "1 octet": the key of the secret, and the signature, of which one changed byte does not verify. -/
theorem test_ed448 :
    let key := leBytes 57 0x80943a4c7b626051239c1682cba48e43b802287400eb01ea6a86c098676c0cfa2b37c058935da534c80acd7e5f5431e56a45ffcd30f428ba43
    let sig := leBytes 114 0x3ac007f81c4434d2d1afada41ab28a34f30f2a3d95f199e7052947a6e0f70a9fc1364315bfecdc04bc36df27e0b2afe1cecbe1aac0bc0d5e8079d77cab37f01bfc33f6cd8cde628fe1b781b9c443b1412535f4107808d00bcb35238fd410c6b9ef77c343eb415ef17a8962bd2717f9b826
    ed448Verify key [3] sig = true ∧ ed448Verify key [2] sig = false := by decide +kernel

end Sys2Proof.Tests
end

/-! Reading back registers and memories (R6, R62, R90, R94). -/
section
namespace Sys2Proof.Machine

/-! ## Registers -/

@[simp] theorem Agent.rx_zero (g : Agent) : g.rx 0 = 0 := by simp [Agent.rx]
@[simp] theorem Agent.rp_zero (g : Agent) : g.rp 0 = true := by simp [Agent.rp]
@[simp] theorem Agent.wx_zero (g : Agent) (v : W) : g.wx 0 v = g := by simp [Agent.wx]
@[simp] theorem Agent.wp_zero (g : Agent) (b : Bool) : g.wp 0 b = g := by simp [Agent.wp]

theorem Agent.rx_wx_self (g : Agent) {d : BitVec 5} (v : W) (h : d ≠ 0) : (g.wx d v).rx d = v := by
  simp only [Agent.rx, Agent.wx, if_neg h]
  exact Vector.getElem_set_self ..

theorem Agent.rx_wx_ne (g : Agent) {d r : BitVec 5} (v : W) (h : r ≠ d) : (g.wx d v).rx r = g.rx r := by
  unfold Agent.wx
  split
  · rfl
  · simp [Agent.rx, BitVec.toNat_inj, h.symm]

theorem Agent.rp_wp_self (g : Agent) {p : BitVec 3} (b : Bool) (h : p ≠ 0) : (g.wp p b).rp p = b := by
  simp only [Agent.rp, Agent.wp, if_neg h]
  exact Vector.getElem_set_self ..

theorem Agent.rp_wp_ne (g : Agent) {p q : BitVec 3} (b : Bool) (h : q ≠ p) : (g.wp p b).rp q = g.rp q := by
  unfold Agent.wp
  split
  · rfl
  · simp [Agent.rp, BitVec.toNat_inj, h.symm]

@[simp] theorem Agent.rv_wv_self (g : Agent) (d : BitVec 5) (u : VReg) : (g.wv d u).rv d = u := by
  simp [Agent.rv, Agent.wv]

theorem Agent.rv_wv_ne (g : Agent) {d r : BitVec 5} (u : VReg) (h : r ≠ d) : (g.wv d u).rv r = g.rv r := by
  simp [Agent.rv, Agent.wv, BitVec.toNat_inj, h.symm]

@[simp] theorem Agent.wx_p (g : Agent) (d : BitVec 5) (v : W) : (g.wx d v).p = g.p := by
  unfold Agent.wx; split <;> rfl
@[simp] theorem Agent.wx_v (g : Agent) (d : BitVec 5) (v : W) : (g.wx d v).v = g.v := by
  unfold Agent.wx; split <;> rfl
@[simp] theorem Agent.wp_x (g : Agent) (p : BitVec 3) (b : Bool) : (g.wp p b).x = g.x := by
  unfold Agent.wp; split <;> rfl
@[simp] theorem Agent.wp_v (g : Agent) (p : BitVec 3) (b : Bool) : (g.wp p b).v = g.v := by
  unfold Agent.wp; split <;> rfl

/-! ## Little-endian numbers -/

@[simp] theorem leBytes_length (n v : Nat) : (leBytes n v).length = n := by
  induction n generalizing v with
  | zero => rfl
  | succ n ih => simp [leBytes, ih]

theorem leNat_leBytes {n v : Nat} (h : v < 256 ^ n) : leNat (leBytes n v) = v := by
  induction n generalizing v with
  | zero => simp_all [leBytes, leNat]
  | succ n ih =>
    have hq : v / 256 < 256 ^ n := by rw [Nat.div_lt_iff_lt_mul (by decide), ← Nat.pow_succ]; exact h
    simp only [leBytes, leNat, ih hq, BitVec.toNat_ofNat]
    exact Nat.mod_add_div v 256

/-! ## Memories -/

/-- A number written reads back as the same little-endian number (R6). -/
theorem Memory.nat_write_leBytes (m : Memory) (a : Nat) {n v : Nat} (h : v < 256 ^ n) :
    (m.write a (leBytes n v)).nat a n = v := by
  have hb := m.bytes_write_self a (leBytes n v)
  rw [leBytes_length] at hb
  rw [Memory.nat, hb, leNat_leBytes h]

/-- A byte made unspecified reads as the free value of its number (R2). -/
theorem Memory.get_forget_in (m : Memory) {a n x : Nat} (k : Nat) (h1 : a ≤ x) (h2 : x < a + n) :
    (m.forget a n k).get x = Config.freeByte k x := by
  have hc : cellGet (m.forget a n k).cells x = none :=
    cellGet_filter_not (fun j => decide (j < a) || decide (a + n ≤ j)) _ _ (by simp; omega)
  rw [Memory.get, hc, Option.getD_none]
  exact if_pos ⟨h1, h2⟩

/-- Settles O1: the registers and the memory, each by its read-after-write lemmas. -/
theorem registersAndMemoryReadBack : Obligations.RegistersAndMemoryReadBack := by
  refine ⟨fun g d r p q v b u => ?_, fun m a n k v bs hm => ?_⟩
  · exact ⟨g.rx_zero, g.rp_zero, g.wx_zero v, g.wp_zero b, g.rx_wx_self v, g.rx_wx_ne v, g.rp_wp_self b, g.rp_wp_ne b,
      g.rv_wv_self d u, g.rv_wv_ne u, g.wx_p d v, g.wx_v d v, g.wp_x p b, g.wp_v p b, rfl, rfl⟩
  · exact ⟨m.bytes_write_self a bs, m.nat_write_leBytes a, fun x => m.get_write_out a x bs, fun x => m.get_forget_out a n k x,
      fun x => m.get_forget_in k, m.write_wf a bs hm, m.forget_wf a n k hm⟩

end Sys2Proof.Machine
end

/-! Every instruction and every step gives a next state (R1, R11): no path of the model ends in a fault or a refusal. -/
section
namespace Sys2Proof.Machine

/-- A step answers with a next state. -/
def Goes (o : Out) : Prop := ∃ t, o = .next t

theorem goes_next (s : State) : Goes (.next s) := ⟨s, rfl⟩

theorem goes_ite {c : Prop} [Decidable c] {a b : Out} (ha : Goes a) (hb : Goes b) : Goes (if c then a else b) := by
  split
  · exact ha
  · exact hb

/-! ## The shared shapes of an instruction go on where what follows goes on -/

section shapes
variable {s : State} {k : State → Out}

theorem State.transfer_goes (g : Agent) (t : W) : Goes (s.transfer g t) :=
  goes_ite (goes_next _) (goes_ite (goes_next _) (goes_next _))

theorem State.onCores_goes {ok : CoreKind → Bool} {word : Nat} (hk : ∀ s, Goes (k s)) : Goes (s.onCores ok word k) :=
  goes_ite (hk s) (goes_next _)

theorem State.onTile_goes {word : Nat} (hk : ∀ s, Goes (k s)) : Goes (s.onTile word k) := State.onCores_goes hk
theorem State.onWork_goes {word : Nat} (hk : ∀ s, Goes (k s)) : Goes (s.onWork word k) := State.onCores_goes hk
theorem State.onHaul_goes {word : Nat} (hk : ∀ s, Goes (k s)) : Goes (s.onHaul word k) := State.onCores_goes hk
theorem State.onShape_goes {word : Nat} (hk : ∀ s, Goes (k s)) : Goes (s.onShape word k) := State.onCores_goes hk

theorem State.onService_goes {word : Nat} (hk : ∀ s, Goes (k s)) : Goes (s.onService word k) :=
  goes_ite (hk s) (goes_next _)

theorem State.rdWait_goes (hk : ∀ s, Goes (k s)) : Goes (s.rdWait k) := by
  unfold State.rdWait
  split
  · exact goes_next _
  · exact hk s

theorem State.release_goes (hk : ∀ s, Goes (k s)) : Goes (s.release k) := by
  unfold State.release
  refine goes_ite (goes_next _) ?_
  split
  · exact goes_next _
  · exact hk s

theorem State.checked_goes {a : W} {n : Nat} (hk : ∀ s, Goes (k s)) : Goes (s.checked a n k) :=
  goes_ite (goes_next _) (goes_ite (goes_next _) (State.rdWait_goes hk))

theorem State.readBytes_goes {a n : Nat} {k : List Byte → State → Out} (hk : ∀ bs s, Goes (k bs s)) : Goes (s.readBytes a n k) := by
  unfold State.readBytes
  split
  · exact goes_next _
  · exact hk _ _

theorem State.storeWait_goes {a n : Nat} (hk : ∀ s, Goes (k s)) : Goes (s.storeWait a n k) := by
  unfold State.storeWait
  split
  · exact goes_next _
  · exact goes_ite (goes_next _) (hk s)

theorem State.storeBytes_goes {a : Nat} {bs : List Byte} (hk : ∀ s, Goes (k s)) : Goes (s.storeBytes a bs k) :=
  State.storeWait_goes fun s => by
    dsimp only
    split
    · split
      · exact hk _
      · exact goes_next _
    · exact hk _

theorem State.recAccess_goes {a b : BitVec 5} {n : Nat} {k : W → State → Out} (hk : ∀ w s, Goes (k w s)) :
    Goes (s.recAccess a b n k) := goes_ite (goes_next _) (hk _ _)

theorem State.matPlace_goes (hk : ∀ s, Goes (k s)) : Goes (s.matPlace k) := goes_ite (goes_next _) (hk s)

theorem State.vread_goes {rs : List (BitVec 5)} {k : State → State → Out} (hk : ∀ s0 s, Goes (k s0 s)) : Goes (s.vread rs k) := by
  unfold State.vread
  split
  · exact goes_next _
  · refine goes_ite (State.rdWait_goes fun s => ?_) (hk _ _)
    split
    · exact goes_next _
    · exact hk _ _

theorem State.vwrite_goes {s0 : State} {d : BitVec 5} {v : VReg} (hk : ∀ s, Goes (k s)) : Goes (s0.vwrite s d v k) := by
  unfold State.vwrite
  split
  · exact hk _
  · refine goes_ite (hk _) (goes_ite (goes_next _) (State.rdWait_goes fun _ => State.storeWait_goes fun _ => ?_))
    split
    · exact goes_next _
    · exact hk _

end shapes

/-! ## The shared bodies of the instruction groups -/

section bodies
variable {s : State}

theorem State.load_goes {d : BitVec 5} {a : W} {n : Nat} {signed : Bool} : Goes (s.load d a n signed) :=
  State.checked_goes fun _ => State.readBytes_goes fun _ _ => goes_next _

theorem State.store_goes {r : BitVec 5} {a : W} {n : Nat} : Goes (s.store r a n) :=
  State.checked_goes fun _ => State.storeBytes_goes fun _ => goes_next _

theorem State.haulIssue_goes {o : HaulOp} {ln : W} : Goes (s.haulIssue o ln) := by
  unfold State.haulIssue
  split
  · exact goes_next _
  · exact goes_ite (goes_next _) (goes_ite (goes_next _) (goes_next _))

theorem State.hredIssue_goes {word f : Nat} {e a : BitVec 5} {k : BitVec 6} : Goes (s.hredIssue word f e a k) :=
  State.onHaul_goes fun _ => State.haulIssue_goes

theorem State.schedule_goes {a b : BitVec 5} {bad : Bool} {e : XEntry} : Goes (s.schedule a b bad e) := by
  unfold State.schedule
  dsimp only
  repeat' split
  all_goals exact goes_next _

theorem State.recvFrom_goes {d a : BitVec 5} {st : Bool} {p : BitVec 3} {q : Option (Fin 4)} : Goes (s.recvFrom d a st p q) := by
  unfold State.recvFrom
  split
  · exact goes_ite (goes_next _) (goes_next _)
  · exact goes_ite (goes_next _) (State.storeBytes_goes fun _ => goes_next _)

theorem State.colIssue_goes {word f : Nat} {e a b : BitVec 5} {k : BitVec 6} : Goes (s.colIssue word f e a b k) :=
  State.onHaul_goes fun s => by
    dsimp only
    split
    · exact goes_next _
    · exact goes_ite (goes_next _) (goes_ite (goes_ite (goes_next _) (goes_next _)) (goes_next _))

theorem State.shapeIssue_goes {word : Nat} {kind : ShapeKind} {e a : BitVec 5} {p : W} {k : BitVec 6} :
    Goes (s.shapeIssue word kind e a p k) :=
  State.onShape_goes fun s => by
    dsimp only
    split
    · exact goes_next _
    · exact goes_ite (goes_next _) (goes_next _)

theorem State.mmulIssue_goes {word : Nat} {col : Bool} {e a : BitVec 5} {k : BitVec 4} : Goes (s.mmulIssue word col e a k) :=
  State.onWork_goes fun _ => State.matPlace_goes fun s => by
    dsimp only
    repeat' split
    all_goals exact goes_next _

theorem State.maccIssue_goes {word : Nat} {kind : MatKind} {a : BitVec 5} {claim : Bool} : Goes (s.maccIssue word kind a claim) :=
  State.onWork_goes fun _ => State.matPlace_goes fun _ => goes_ite (goes_next _) (goes_next _)

theorem State.maccRecIssue_goes {word : Nat} {kind : MatKind} {e a : BitVec 5} : Goes (s.maccRecIssue word kind e a) :=
  State.onWork_goes fun _ => State.matPlace_goes fun s => by
    dsimp only
    repeat' split
    all_goals exact goes_next _

theorem State.vop_goes {word : Nat} {rs : List (BitVec 5)} {d : BitVec 5} {f : State → VReg} : Goes (s.vop word rs d f) :=
  State.onWork_goes fun _ => State.vread_goes fun _ _ => State.vwrite_goes fun _ => goes_next _

theorem State.vredX_goes {word : Nat} {d a : BitVec 5} {f : VReg → W} : Goes (s.vredX word d a f) :=
  State.onWork_goes fun _ => State.vread_goes fun _ _ => goes_next _

theorem State.elemLoad_goes {s0 : State} {d : BitVec 5} {w : Nat} {l : List W} : Goes (s0.elemLoad s d w l) := by
  unfold State.elemLoad
  split
  · exact goes_next _
  · refine State.rdWait_goes fun _ => ?_
    split
    · exact goes_next _
    · exact State.vwrite_goes fun _ => goes_next _

theorem State.elemStore_goes {s0 : State} {d : BitVec 5} {w : Nat} {l : List W} : Goes (s0.elemStore s d w l) := by
  unfold State.elemStore
  split
  · exact goes_next _
  · refine State.rdWait_goes fun _ => ?_
    repeat' split
    all_goals exact goes_next _

theorem State.bind_goes {word : Nat} {out : Bool} {e a : BitVec 5} {k : BitVec 6} : Goes (s.bind word out e a k) :=
  State.onWork_goes fun _ =>
    goes_ite (goes_next _) (goes_ite (goes_next _) (goes_ite (goes_next _) (State.rdWait_goes fun _ => goes_next _)))

theorem State.ffIssue_goes {word : Nat} {kind : FfKind} {rc : Rec} {x : W} {k : BitVec 6} : Goes (s.ffIssue word kind rc x k) :=
  State.onWork_goes fun s => by
    dsimp only
    split
    · exact goes_next _
    · refine State.rdWait_goes fun s => goes_ite (goes_next _) ?_
      split
      · exact goes_next _
      · exact goes_next _

end bodies

/-! ## Instructions with a shape of their own -/

theorem execLdb_goes (d a b : BitVec 5) (t : BitVec 3) (s : State) : Goes (execLdb d a b t s) :=
  State.onTile_goes fun _ => State.recAccess_goes fun _ _ => State.load_goes

theorem execStb_goes (r a b : BitVec 5) (t : BitVec 3) (s : State) : Goes (execStb r a b t s) :=
  State.onTile_goes fun _ => State.recAccess_goes fun _ _ => State.store_goes

theorem execBld_goes (d a : BitVec 5) (i : BitVec 10) (s : State) : Goes (execBld d a i s) :=
  State.onTile_goes fun _ => State.checked_goes fun _ => State.readBytes_goes fun _ _ => goes_next _

theorem execBst_goes (d a : BitVec 5) (i : BitVec 10) (s : State) : Goes (execBst d a i s) :=
  State.onTile_goes fun _ => State.checked_goes fun _ => State.storeBytes_goes fun _ => goes_next _

theorem execLdfe_goes (d a : BitVec 5) (c : BitVec 1) (i : BitVec 14) (s : State) : Goes (execLdfe d a c i s) :=
  State.onTile_goes fun _ => State.checked_goes fun _ =>
    goes_ite (State.readBytes_goes fun _ _ => goes_next _) (goes_next _)

theorem execStfe_goes (r a : BitVec 5) (e : BitVec 1) (i : BitVec 14) (s : State) : Goes (execStfe r a e i s) :=
  State.onTile_goes fun _ => State.checked_goes fun _ => State.release_goes fun _ => State.storeBytes_goes fun _ => goes_next _

theorem execSemv_goes (a : BitVec 5) (k : BitVec 6) (s : State) : Goes (execSemv a k s) :=
  State.onTile_goes fun _ => State.release_goes fun _ => goes_ite (goes_next _) (goes_next _)

theorem execSpawn_goes (d a : BitVec 5) (n : BitVec 3) (q : BitVec 1) (s : State) : Goes (execSpawn d a n q s) :=
  State.onWork_goes fun s => goes_ite (goes_next _) (goes_ite (goes_next _) (by
    split
    · exact State.release_goes fun _ => goes_next _
    · exact goes_next _))

theorem execVld_goes (d a : BitVec 5) (i : BitVec 14) (s : State) : Goes (execVld d a i s) :=
  State.onWork_goes fun _ => State.checked_goes fun _ => State.readBytes_goes fun _ _ => State.vwrite_goes fun _ => goes_next _

theorem execVst_goes (r a : BitVec 5) (i : BitVec 14) (s : State) : Goes (execVst r a i s) :=
  State.onWork_goes fun _ => State.vread_goes fun _ _ => State.checked_goes fun _ => State.storeWait_goes fun _ => by
    split
    · exact goes_next _
    · exact goes_next _

theorem execVgath_goes (d a b : BitVec 5) (e : BitVec 2) (s : State) : Goes (execVgath d a b e s) :=
  State.onWork_goes fun _ => State.vread_goes fun _ _ => State.elemLoad_goes

theorem execVsts_goes (d a b : BitVec 5) (e : BitVec 2) (s : State) : Goes (execVsts d a b e s) :=
  State.onWork_goes fun _ => State.vread_goes fun _ _ => State.elemStore_goes

theorem execVscat_goes (d a b : BitVec 5) (e : BitVec 2) (s : State) : Goes (execVscat d a b e s) :=
  State.onWork_goes fun _ => State.vread_goes fun _ _ => State.elemStore_goes

theorem execMwld_goes (e : BitVec 5) (k : BitVec 4) (s : State) : Goes (execMwld e k s) :=
  State.onWork_goes fun _ => State.rdWait_goes fun _ => State.matPlace_goes fun s => by
    dsimp only
    repeat' split
    all_goals exact goes_next _

theorem execSend_goes (p : BitVec 3) (a b : BitVec 5) (n : BitVec 2) (t : BitVec 1) (s : State) : Goes (execSend p a b n t s) :=
  State.onWork_goes fun _ => State.checked_goes fun _ => goes_ite (goes_next _)
    (goes_ite (goes_ite (goes_next _) (goes_next _)) (State.readBytes_goes fun _ _ => goes_next _))

theorem execRecv_goes (d a : BitVec 5) (n : BitVec 2) (st : BitVec 1) (p : BitVec 3) (s : State) : Goes (execRecv d a n st p s) :=
  State.onWork_goes fun _ => State.checked_goes fun _ => State.recvFrom_goes

theorem execRecvAny_goes (d a : BitVec 5) (st : BitVec 1) (p : BitVec 3) (s : State) : Goes (execRecvAny d a st p s) :=
  State.onWork_goes fun _ => State.checked_goes fun _ => State.recvFrom_goes

theorem execRspawn_goes (p : BitVec 3) (a b : BitVec 5) (s : State) : Goes (execRspawn p a b s) :=
  State.onWork_goes fun _ => State.checked_goes fun _ => State.readBytes_goes fun _ _ => goes_ite (goes_next _) (goes_ite (goes_next _)
    (goes_ite (goes_next _) (goes_ite (goes_next _) (State.readBytes_goes fun _ _ => goes_next _))))

theorem execCgrp_goes (d a : BitVec 5) (s : State) : Goes (execCgrp d a s) :=
  State.onHaul_goes fun _ => State.checked_goes fun _ => State.readBytes_goes fun _ _ => goes_ite (goes_next _) (goes_next _)

theorem execCrank_goes (d a : BitVec 5) (s : State) : Goes (execCrank d a s) :=
  State.onHaul_goes fun s => by
    split
    · exact goes_next _
    · exact goes_next _

theorem execCpart_goes (d a b : BitVec 5) (s : State) : Goes (execCpart d a b s) :=
  State.onHaul_goes fun s => by
    dsimp only
    split
    · exact goes_next _
    · exact goes_ite (goes_next _) (goes_next _)

theorem State.park_goes (s : State) (code va : Nat) : Goes (s.park code va) := by
  unfold State.park
  split
  · exact goes_next _
  · exact goes_next _

theorem execGld_goes (d a b : BitVec 5) (t : BitVec 3) (s : State) : Goes (execGld d a b t s) :=
  State.onWork_goes fun s => goes_ite (goes_next _) (goes_ite (goes_next _) (by
    split
    · exact State.park_goes ..
    · exact goes_next _
    · exact State.park_goes ..
    · exact goes_next _))

theorem execTlbinv_goes (a : BitVec 5) (s : State) : Goes (execTlbinv a s) :=
  State.onService_goes fun _ => goes_ite (goes_next _) (goes_next _)

theorem execTlbinvAll_goes (s : State) : Goes (execTlbinvAll s) :=
  State.onService_goes fun _ => goes_ite (goes_next _) (goes_next _)

theorem execTlbw_goes (a b : BitVec 5) (s : State) : Goes (execTlbw a b s) :=
  State.onService_goes fun _ => goes_ite (goes_next _) (goes_next _)

theorem execFqpop_goes (d : BitVec 5) (s : State) : Goes (execFqpop d s) :=
  State.onService_goes fun s => by
    split
    · dsimp only
      split
      · exact goes_next _
      · exact goes_next _
    · exact goes_next _

theorem execFqres_goes (a : BitVec 5) (s : State) : Goes (execFqres a s) :=
  State.onService_goes fun s => by
    split
    · exact goes_next _
    · exact goes_ite (goes_next _) (goes_ite (goes_next _) (goes_ite (goes_next _) (goes_ite (goes_next _)
        (goes_ite (goes_next _) (goes_ite (goes_next _) (goes_next _))))))

theorem execCtxsv_goes (a b : BitVec 5) (s : State) : Goes (execCtxsv a b s) :=
  State.onService_goes fun s => by
    dsimp only
    repeat' split
    all_goals exact goes_next _

theorem execCtxld_goes (a b : BitVec 5) (s : State) : Goes (execCtxld a b s) :=
  State.onService_goes fun s => by
    dsimp only
    repeat' split
    all_goals exact goes_next _

theorem execCsrr_goes (d : BitVec 5) (n : BitVec 12) (s : State) : Goes (execCsrr d n s) := by
  unfold execCsrr; dsimp only; repeat' split
  all_goals exact goes_next _

theorem execCsrw_goes (b : BitVec 5) (n : BitVec 12) (s : State) : Goes (execCsrw b n s) := by
  unfold execCsrw; dsimp only; repeat' split
  all_goals exact goes_next _

/-! ## The operations of a frame -/

theorem execHostWrite_goes (d : Nat) (onchip : Bool) (addr tag : Nat) (bytes : List Byte) (s : State) :
    Goes (execHostWrite d onchip addr tag bytes s) := by
  unfold execHostWrite
  dsimp only
  repeat' split
  all_goals exact goes_next _

theorem execHostRead_goes (d : Nat) (onchip : Bool) (addr len tag : Nat) (s : State) :
    Goes (execHostRead d onchip addr len tag s) := by
  unfold execHostRead
  dsimp only
  repeat' split
  all_goals exact goes_next _

theorem execHostLaunch_goes (d queue addr tag : Nat) (s : State) : Goes (execHostLaunch d queue addr tag s) :=
  goes_ite (goes_next _) (goes_ite (goes_next _) (goes_ite (goes_next _) (goes_next _)))

theorem execMalformedOperation_goes (d : PortId) (op tag : Nat) (s : State) : Goes (execMalformedOperation d op tag s) :=
  goes_ite (goes_next _) (goes_next _)

theorem State.applyOp_goes (s : State) (d : Nat) (host : Bool) (o : OclysOp) : Goes (s.applyOp d host o) :=
  goes_ite (execMalformedOperation_goes ..)
    (goes_ite (execHostWrite_goes ..) (goes_ite (execHostRead_goes ..) (execHostLaunch_goes ..)))

/-- Each operation of a frame goes on from the state the one before it left. -/
theorem State.applyOps_goes (s : State) (d : Nat) (host : Bool) (l : List OclysOp) : Goes (s.applyOps d host l) := by
  induction l generalizing s with
  | nil => exact goes_next s
  | cons o l ih =>
    obtain ⟨t, ht⟩ := s.applyOp_goes d host o
    simp only [State.applyOps, ht]
    exact ih t

theorem State.deliver_goes (s : State) (d : Nat) (host : Bool) (payload : List Byte) : Goes (s.deliver d host payload) :=
  goes_ite (s.applyOps_goes ..) (goes_next _)

theorem State.frameIn_goes (s : State) (d : Nat) (host : Bool) (seq ack : BitVec 32) (good : Bool) (payload : List Byte) :
    Goes (s.frameIn d host seq ack good payload) := by
  unfold State.frameIn
  dsimp only
  refine goes_ite (goes_next _) (goes_ite ?_ (goes_next _))
  obtain ⟨t, ht⟩ := (s.modPort d host fun p => { p.acked ack with expected := p.expected + 1 }).deliver_goes d host payload
  rw [ht]
  exact goes_next _

theorem State.wireStep_goes {s : State} {d : Nat} {k : Fin 4} {is : Wire → Bool} {f : Wire → State → State} :
    Goes (s.wireStep d k is f) := by
  unfold State.wireStep
  split
  · exact goes_ite (goes_next _) (goes_next _)
  · exact goes_next _

theorem execOclysDataFrame_goes (d : PortId) (seq ack : BitVec 32) (good : Bool) (payload : List Byte) (s : State) :
    Goes (execOclysDataFrame d seq ack good payload s) := by
  unfold execOclysDataFrame
  split
  · exact State.wireStep_goes
  · exact goes_ite (State.frameIn_goes ..) (goes_next _)

theorem execOclysAckFrame_goes (d : PortId) (ack : BitVec 32) (s : State) : Goes (execOclysAckFrame d ack s) := by
  unfold execOclysAckFrame
  split
  · exact State.wireStep_goes
  · exact goes_ite (goes_next _) (goes_next _)

theorem execOclysReplayRequest_goes (d : PortId) (seq : BitVec 32) (s : State) : Goes (execOclysReplayRequest d seq s) := by
  unfold execOclysReplayRequest
  split
  · exact State.wireStep_goes
  · exact goes_ite (goes_next _) (goes_next _)

/-! ## The other rows: each of their branches is a next state -/

theorem execLdfeWake_goes (t w : Nat) (s : State) : Goes (execLdfeWake t w s) := by
  unfold execLdfeWake; dsimp only; repeat' split
  all_goals exact goes_next _

theorem execSemaphoreGrant_goes (t k : Nat) (s : State) : Goes (execSemaphoreGrant t k s) := by
  unfold execSemaphoreGrant; repeat' split
  all_goals exact goes_next _

theorem execSemptExpiry_goes (t a : Nat) (s : State) : Goes (execSemptExpiry t a s) := by
  unfold execSemptExpiry; dsimp only; repeat' split
  all_goals exact goes_next _

theorem execPhysdRead_goes (d : Nat) (s : State) : Goes (execPhysdRead d s) := by
  unfold execPhysdRead; repeat' split
  all_goals exact goes_next _

theorem execPhysdWrite_goes (d : Nat) (v : W) (s : State) : Goes (execPhysdWrite d v s) := by
  unfold execPhysdWrite; repeat' split
  all_goals exact goes_next _

theorem execMigrationDone_goes (d : Nat) (s : State) : Goes (execMigrationDone d s) := by
  unfold execMigrationDone; dsimp only; repeat' split
  all_goals exact goes_next _

theorem execFaultRecordPost_goes (d : Nat) (s : State) : Goes (execFaultRecordPost d s) := by
  unfold execFaultRecordPost; dsimp only; repeat' split
  all_goals exact goes_next _

theorem execGldDataReturn_goes (t a : Nat) (s : State) : Goes (execGldDataReturn t a s) := by
  unfold execGldDataReturn; dsimp only; repeat' split
  all_goals exact goes_next _

theorem execHaulOpStart_goes (t o : Nat) (s : State) : Goes (execHaulOpStart t o s) := by
  unfold execHaulOpStart; dsimp only; repeat' split
  all_goals exact goes_next _

theorem execHaulChunk_goes (t o : Nat) (s : State) : Goes (execHaulChunk t o s) := by
  unfold execHaulChunk; dsimp only; repeat' split
  all_goals exact goes_next _

theorem execHaulOpComplete_goes (t o : Nat) (s : State) : Goes (execHaulOpComplete t o s) := by
  unfold execHaulOpComplete; repeat' split
  all_goals exact goes_next _

theorem execHaulOpReplay_goes (t o : Nat) (s : State) : Goes (execHaulOpReplay t o s) := by
  unfold execHaulOpReplay; dsimp only; repeat' split
  all_goals exact goes_next _

theorem execQueueFullResume_goes (t a : Nat) (s : State) : Goes (execQueueFullResume t a s) := by
  unfold execQueueFullResume; dsimp only; repeat' split
  all_goals exact goes_next _

theorem execExchangeStartPacket_goes (t : Nat) (s : State) : Goes (execExchangeStartPacket t s) := by
  unfold execExchangeStartPacket; dsimp only; repeat' split
  all_goals exact goes_next _

theorem execExchangeStart_goes (t : Nat) (s : State) : Goes (execExchangeStart t s) := by
  unfold execExchangeStart; dsimp only; repeat' split
  all_goals exact goes_next _

theorem execFlitSend_goes (t : Nat) (s : State) : Goes (execFlitSend t s) := by
  unfold execFlitSend; dsimp only; repeat' split
  all_goals exact goes_next _

theorem execFlitArrival_goes (i : Nat) (s : State) : Goes (execFlitArrival i s) := by
  unfold execFlitArrival; dsimp only; repeat' split
  all_goals exact goes_next _

theorem execXrecvMissedFlit_goes (t e : Nat) (s : State) : Goes (execXrecvMissedFlit t e s) := by
  unfold execXrecvMissedFlit; dsimp only; repeat' split
  all_goals exact goes_next _

theorem execExchangeEnd_goes (t : Nat) (s : State) : Goes (execExchangeEnd t s) := by
  unfold execExchangeEnd; dsimp only; repeat' split
  all_goals exact goes_next _

theorem execMessageOffer_goes (t e : Nat) (s : State) : Goes (execMessageOffer t e s) := by
  unfold execMessageOffer; dsimp only; repeat' split
  all_goals exact goes_next _

theorem execCollectiveSend_goes (t e : Nat) (s : State) : Goes (execCollectiveSend t e s) := by
  unfold execCollectiveSend; dsimp only; repeat' split
  all_goals exact goes_next _

theorem execCollectiveLanding_goes (i : Nat) (s : State) : Goes (execCollectiveLanding i s) := by
  unfold execCollectiveLanding; dsimp only; repeat' split
  all_goals exact goes_next _

theorem execCollectiveReceiveTimeout_goes (t e : Nat) (s : State) : Goes (execCollectiveReceiveTimeout t e s) := by
  unfold execCollectiveReceiveTimeout; dsimp only; repeat' split
  all_goals exact goes_next _

theorem execShapeOpStart_goes (t : Nat) (s : State) : Goes (execShapeOpStart t s) := by
  unfold execShapeOpStart; dsimp only; repeat' split
  all_goals exact goes_next _

theorem execShapeOpComplete_goes (t : Nat) (s : State) : Goes (execShapeOpComplete t s) := by
  unfold execShapeOpComplete; repeat' split
  all_goals exact goes_next _

theorem execMatrixEntryStart_goes (t e : Nat) (s : State) : Goes (execMatrixEntryStart t e s) := by
  unfold execMatrixEntryStart; dsimp only; repeat' split
  all_goals exact goes_next _

theorem execMatrixEntryComplete_goes (t e : Nat) (s : State) : Goes (execMatrixEntryComplete t e s) := by
  unfold execMatrixEntryComplete; repeat' split
  all_goals exact goes_next _

theorem execStreamElementRead_goes (t a v : Nat) (s : State) : Goes (execStreamElementRead t a v s) := by
  unfold execStreamElementRead; dsimp only; repeat' split
  all_goals exact goes_next _

theorem execDeferredCause_goes (who : Who) (s : State) : Goes (execDeferredCause who s) := by
  unfold execDeferredCause; dsimp only; repeat' split
  all_goals exact goes_next _

theorem execStrandChoice_goes (t : Nat) (s : State) : Goes (execStrandChoice t s) := by
  unfold execStrandChoice; dsimp only; repeat' split
  all_goals exact goes_next _

theorem execFireflyCommandArrival_goes (d : Nat) (s : State) : Goes (execFireflyCommandArrival d s) := by
  unfold execFireflyCommandArrival; dsimp only; repeat' split
  all_goals exact goes_next _

theorem execFireflyCommandStart_goes (d : Nat) (s : State) : Goes (execFireflyCommandStart d s) := by
  unfold execFireflyCommandStart; dsimp only; repeat' split
  all_goals exact goes_next _

theorem execFireflyCommandComplete_goes (d : Nat) (s : State) : Goes (execFireflyCommandComplete d s) := by
  unfold execFireflyCommandComplete; repeat' split
  all_goals exact goes_next _

theorem execFireflyContextBlockWrite_goes (d off : Nat) (bytes : List Byte) (s : State) : Goes (execFireflyContextBlockWrite d off bytes s) := by
  unfold execFireflyContextBlockWrite; dsimp only; repeat' split
  all_goals exact goes_next _

theorem execTileCloseArrival_goes (t : Nat) (s : State) : Goes (execTileCloseArrival t s) := by
  unfold execTileCloseArrival; dsimp only; repeat' split
  all_goals exact goes_next _

theorem execSealArrivalSend_goes (t : Nat) (s : State) : Goes (execSealArrivalSend t s) := by
  unfold execSealArrivalSend; dsimp only; repeat' split
  all_goals exact goes_next _

theorem execDeltaArrival_goes (t e : Nat) (s : State) : Goes (execDeltaArrival t e s) := by
  unfold execDeltaArrival; dsimp only; repeat' split
  all_goals exact goes_next _

theorem execRelease_goes (t : Nat) (s : State) : Goes (execRelease t s) := by
  unfold execRelease; dsimp only; repeat' split
  all_goals exact goes_next _

theorem execStartInstant_goes (t : Nat) (s : State) : Goes (execStartInstant t s) := by
  unfold execStartInstant; dsimp only; repeat' split
  all_goals exact goes_next _

theorem execAbort_goes (t : Nat) (s : State) : Goes (execAbort t s) := by
  unfold execAbort; dsimp only; repeat' split
  all_goals exact goes_next _

theorem execTargetedSelfTestEnd_goes (t : Nat) (pass scrub : Bool) (s : State) : Goes (execTargetedSelfTestEnd t pass scrub s) := by
  unfold execTargetedSelfTestEnd; dsimp only; repeat' split
  all_goals exact goes_next _

theorem execRollbackWindowDone_goes (t : Nat) (s : State) : Goes (execRollbackWindowDone t s) := by
  unfold execRollbackWindowDone; dsimp only; repeat' split
  all_goals exact goes_next _

theorem execStop_goes (t : Nat) (s : State) : Goes (execStop t s) := by
  unfold execStop; dsimp only; repeat' split
  all_goals exact goes_next _

theorem execShapingWindow_goes (t : Nat) (s : State) : Goes (execShapingWindow t s) := by
  unfold execShapingWindow; dsimp only; repeat' split
  all_goals exact goes_next _

theorem execTreeReconfigure_goes (r : Nat) (s : State) : Goes (execTreeReconfigure r s) := by
  unfold execTreeReconfigure; repeat' split
  all_goals exact goes_next _

theorem execCloseArrival_goes (i : Nat) (s : State) : Goes (execCloseArrival i s) := by
  unfold execCloseArrival; dsimp only; repeat' split
  all_goals exact goes_next _

theorem execSealArrival_goes (i : Nat) (s : State) : Goes (execSealArrival i s) := by
  unfold execSealArrival; dsimp only; repeat' split
  all_goals exact goes_next _

theorem execRestoreDone_goes (i : Nat) (s : State) : Goes (execRestoreDone i s) := by
  unfold execRestoreDone; dsimp only; repeat' split
  all_goals exact goes_next _

theorem execRootTimeout_goes (k : Nat) (s : State) : Goes (execRootTimeout k s) := by
  unfold execRootTimeout; repeat' split
  all_goals exact goes_next _

theorem execRegionLaunch_goes (m : Nat) (s : State) : Goes (execRegionLaunch m s) := by
  unfold execRegionLaunch; repeat' split
  all_goals exact goes_next _

theorem execLaunchTilesSet_goes (m k : Nat) (s : State) : Goes (execLaunchTilesSet m k s) := by
  unfold execLaunchTilesSet; dsimp only; repeat' split
  all_goals exact goes_next _

theorem execLaunchTimeout_goes (m k : Nat) (s : State) : Goes (execLaunchTimeout m k s) := by
  unfold execLaunchTimeout; repeat' split
  all_goals exact goes_next _

theorem execLaunchJoin_goes (i : Nat) (s : State) : Goes (execLaunchJoin i s) := by
  unfold execLaunchJoin; dsimp only; repeat' split
  all_goals exact goes_next _

theorem execJoinTimeout_goes (k : Nat) (s : State) : Goes (execJoinTimeout k s) := by
  unfold execJoinTimeout; repeat' split
  all_goals exact goes_next _

theorem execSpareControlWrite_goes (d : Nat) (csr : BitVec 12) (v : W) (s : State) : Goes (execSpareControlWrite d csr v s) := by
  unfold execSpareControlWrite; repeat' split
  all_goals exact goes_next _

theorem execPprDone_goes (d : Nat) (s : State) : Goes (execPprDone d s) := by
  unfold execPprDone; dsimp only; repeat' split
  all_goals exact goes_next _

theorem execThermalTrip_goes (m : Nat) (s : State) : Goes (execThermalTrip m s) := by
  unfold execThermalTrip; dsimp only; repeat' split
  all_goals exact goes_next _

theorem execIeee1588Sync_goes (m : Nat) (ofs : BitVec 16) (adj : Option Int) (s : State) : Goes (execIeee1588Sync m ofs adj s) := by
  unfold execIeee1588Sync; dsimp only; repeat' split
  all_goals exact goes_next _

theorem execSecureBoot_goes (m : Nat) (s : State) : Goes (execSecureBoot m s) := by
  unfold execSecureBoot; dsimp only; repeat' split
  all_goals exact goes_next _

theorem execAttestationDone_goes (m : Nat) (s : State) : Goes (execAttestationDone m s) := by
  unfold execAttestationDone; dsimp only; repeat' split
  all_goals exact goes_next _

theorem execSbUnknownCommand_goes (m : Nat) (code : BitVec 8) (s : State) : Goes (execSbUnknownCommand m code s) := by
  unfold execSbUnknownCommand; repeat' split
  all_goals exact goes_next _

theorem execWindowRead_goes (m addr len : Nat) (s : State) : Goes (execWindowRead m addr len s) := by
  unfold execWindowRead; dsimp only; repeat' split
  all_goals exact goes_next _

theorem execWindowWrite_goes (m addr : Nat) (bytes : List Byte) (s : State) : Goes (execWindowWrite m addr bytes s) := by
  unfold execWindowWrite; repeat' split
  all_goals exact goes_next _

theorem execWindowSemaphoreWrite_goes (t k : Nat) (v : W) (s : State) : Goes (execWindowSemaphoreWrite t k v s) := by
  unfold execWindowSemaphoreWrite; dsimp only; repeat' split
  all_goals exact goes_next _

theorem execLinkFailure_goes (m : Nat) (port : Bool) (n : Nat) (s : State) : Goes (execLinkFailure m port n s) := by
  unfold execLinkFailure; dsimp only; repeat' split
  all_goals exact goes_next _

theorem execLinkTrained_goes (d : PortId) (s : State) : Goes (execLinkTrained d s) := by
  unfold execLinkTrained; repeat' split
  all_goals exact goes_next _

theorem execOclysAckTimeout_goes (d : PortId) (s : State) : Goes (execOclysAckTimeout d s) := by
  unfold execOclysAckTimeout; repeat' split
  all_goals exact goes_next _

theorem execExit_goes (s : State) : Goes (execExit s) := by
  unfold execExit
  split
  · exact goes_next _
  · exact goes_ite (State.transfer_goes ..) (goes_next _)

theorem execFenceAcq_goes (s : State) : Goes (execFenceAcq s) := by
  unfold execFenceAcq; repeat' split
  all_goals exact goes_next _

theorem execPcRangeTrap_goes (s : State) : Goes (execPcRangeTrap s) := goes_ite (goes_next _) (goes_next _)

theorem execWatchdogExpiry_goes (s : State) : Goes (execWatchdogExpiry s) := goes_ite (goes_next _) (goes_next _)

/-! ## Every row -/

/-- Every instruction and every step of the machine gives a next state. -/
theorem exec_goes (i : Instr) (s : State) : Goes (exec i s) := by
  unfold exec
  cases i with
  | add | sub | and | or | xor | andn | sll | srl | sra | ror | mul | mulhS | mulhN | divS | divN | remS | remN | minS | minN | maxS
  | maxN | clz | ctz | popc | mod31 | addi | andi | ori | xori | slli | srli | srai | rori | lih | addpc | pcmp | pcmpi | pand | por
  | pxor | pandn | porn | pxnor | nop | yield | trap | brk | illegalInstruction | fqbaseWrite | migrationStart | pprStart
  | hbmerrRead | qcrecRead | rctlHold | rctlFree | rctlResume | rctlDiscard | noiseSourceHealthTest | pcapWrite | pslewWrite
  | throtWrite | powerCapInterval | moduleReset | powerOn | attestationStart | sbReadMstat | sbReadPower | sbReadTemp | sbWritePcap
  | sbReadBootstat | sbReset | sbReadIdentity => exact goes_next _
  | ldS8 | ldN8 | ldS16 | ldN16 | ldS32 | ldN32 | ld64 => exact State.load_goes
  | st8 | st16 | st32 | st64 => exact State.store_goes
  | br => exact goes_ite (State.transfer_goes ..) (goes_next _)
  | jal | jalr | eret => exact State.transfer_goes ..
  | fence | fenceRel => exact State.release_goes fun _ => goes_next _
  | semset | sync => exact State.onTile_goes fun _ => State.release_goes fun _ => goes_next _
  | semp | sempt | semget | ssqNum | ssqOut | ssqRed | ssqTry | ssqRel => exact State.onTile_goes fun _ => goes_next _
  | vaddF | vsubF | vmulF | vminF | vmaxF | vabsF | vneg | vcvt | vcvti | vcvtf | vfma | vfnma | vaddI | vsubI | vmulI | vminS
  | vminN | vmaxS | vmaxN | vand | vor | vxor | vsll | vsrl | vsra | vaddsS | vaddsN | vsubsS | vsubsN | vabsI | vcmpI | vcmpF
  | vsel | vperm | vbcast | vmov | vmovToLane | vexp2 | vlog2 | vrcp | vrsq => exact State.vop_goes
  | vredFadd | vredFmin | vredFmax | vredAdd | vredMinS | vredMaxS | vmovToX => exact State.vredX_goes
  | vlds => exact State.onWork_goes fun _ => State.elemLoad_goes
  | vstreamIn | vstreamOut => exact State.bind_goes
  | vstreamEnd | mcfg => exact State.onWork_goes fun _ => goes_next _
  | mmulR | mmulC => exact State.mmulIssue_goes
  | maccZ | maccPin | maccUnpin => exact State.maccIssue_goes
  | maccRd | maccWr => exact State.maccRecIssue_goes
  | squant | sdeq | sexp | strans | stransRq | scomp | sblkExp | sblkInt | sblkFlt | scvt => exact State.shapeIssue_goes
  | stage | copy | hld | hst => exact State.onHaul_goes fun _ => State.haulIssue_goes
  | hredAddS32 | hredAddS64 | hredMinS32 | hredMinS64 | hredMaxS32 | hredMaxS64 | hredAnd | hredOr | hredFaddF32 => exact State.hredIssue_goes
  | hfence | croute | cmark => exact State.onHaul_goes fun _ => goes_ite (goes_next _) (goes_next _)
  | ffcfgKey | ffcfgBeta | ffcfgSigt | ffcfgMode | ffldEdge | ffldBias | ffldCol | ffldState | ffopSweep | ffopClamp | ffopUnclamp
  | ffopCreset | ffrdBits | ffrdCnt => exact State.ffIssue_goes
  | xsend | xrecv => exact State.onHaul_goes fun _ => State.schedule_goes
  | csend | crecv | crecvAdd | crecvMax => exact State.colIssue_goes
  | ldfe => exact execLdfe_goes ..
  | ldfeWake => exact execLdfeWake_goes ..
  | stfe => exact execStfe_goes ..
  | gld => exact execGld_goes ..
  | gldDataReturn => exact execGldDataReturn_goes ..
  | ldb => exact execLdb_goes ..
  | stb => exact execStb_goes ..
  | exit => exact execExit_goes ..
  | fenceAcq => exact execFenceAcq_goes ..
  | csrr => exact execCsrr_goes ..
  | csrw => exact execCsrw_goes ..
  | spawn => exact execSpawn_goes ..
  | semv => exact execSemv_goes ..
  | semaphoreGrant => exact execSemaphoreGrant_goes ..
  | semptExpiry => exact execSemptExpiry_goes ..
  | bld => exact execBld_goes ..
  | bst => exact execBst_goes ..
  | send => exact execSend_goes ..
  | recv => exact execRecv_goes ..
  | recvAny => exact execRecvAny_goes ..
  | rspawn => exact execRspawn_goes ..
  | vld => exact execVld_goes ..
  | vst => exact execVst_goes ..
  | vsts => exact execVsts_goes ..
  | vgath => exact execVgath_goes ..
  | vscat => exact execVscat_goes ..
  | streamElementRead => exact execStreamElementRead_goes ..
  | mwld => exact execMwld_goes ..
  | matrixEntryStart => exact execMatrixEntryStart_goes ..
  | matrixEntryComplete => exact execMatrixEntryComplete_goes ..
  | shapeOpStart => exact execShapeOpStart_goes ..
  | shapeOpComplete => exact execShapeOpComplete_goes ..
  | haulOpStart => exact execHaulOpStart_goes ..
  | haulChunk => exact execHaulChunk_goes ..
  | haulOpComplete => exact execHaulOpComplete_goes ..
  | haulOpReplay => exact execHaulOpReplay_goes ..
  | queueFullResume => exact execQueueFullResume_goes ..
  | fireflyCommandArrival => exact execFireflyCommandArrival_goes ..
  | fireflyCommandStart => exact execFireflyCommandStart_goes ..
  | fireflyCommandComplete => exact execFireflyCommandComplete_goes ..
  | cgrp => exact execCgrp_goes ..
  | crank => exact execCrank_goes ..
  | cpart => exact execCpart_goes ..
  | tlbw => exact execTlbw_goes ..
  | tlbinv => exact execTlbinv_goes ..
  | tlbinvAll => exact execTlbinvAll_goes ..
  | fqpop => exact execFqpop_goes ..
  | fqres => exact execFqres_goes ..
  | ctxsv => exact execCtxsv_goes ..
  | ctxld => exact execCtxld_goes ..
  | pcRangeTrap => exact execPcRangeTrap_goes ..
  | strandChoice => exact execStrandChoice_goes ..
  | watchdogExpiry => exact execWatchdogExpiry_goes ..
  | deferredCause => exact execDeferredCause_goes ..
  | windowRead => exact execWindowRead_goes ..
  | windowWrite => exact execWindowWrite_goes ..
  | windowSemaphoreWrite => exact execWindowSemaphoreWrite_goes ..
  | fireflyContextBlockWrite => exact execFireflyContextBlockWrite_goes ..
  | tileCloseArrival => exact execTileCloseArrival_goes ..
  | closeArrival => exact execCloseArrival_goes ..
  | sealArrival => exact execSealArrival_goes ..
  | restoreDone => exact execRestoreDone_goes ..
  | launchJoin => exact execLaunchJoin_goes ..
  | exchangeStartPacket => exact execExchangeStartPacket_goes ..
  | exchangeStart => exact execExchangeStart_goes ..
  | release => exact execRelease_goes ..
  | startInstant => exact execStartInstant_goes ..
  | abort => exact execAbort_goes ..
  | rollbackWindowDone => exact execRollbackWindowDone_goes ..
  | targetedSelfTestEnd => exact execTargetedSelfTestEnd_goes ..
  | stop => exact execStop_goes ..
  | rootTimeout => exact execRootTimeout_goes ..
  | shapingWindow => exact execShapingWindow_goes ..
  | treeReconfigure => exact execTreeReconfigure_goes ..
  | sealArrivalSend => exact execSealArrivalSend_goes ..
  | flitSend => exact execFlitSend_goes ..
  | flitArrival => exact execFlitArrival_goes ..
  | xrecvMissedFlit => exact execXrecvMissedFlit_goes ..
  | exchangeEnd => exact execExchangeEnd_goes ..
  | messageOffer => exact execMessageOffer_goes ..
  | collectiveSend => exact execCollectiveSend_goes ..
  | collectiveLanding => exact execCollectiveLanding_goes ..
  | collectiveReceiveTimeout => exact execCollectiveReceiveTimeout_goes ..
  | deltaArrival => exact execDeltaArrival_goes ..
  | faultRecordPost => exact execFaultRecordPost_goes ..
  | oclysDataFrame => exact execOclysDataFrame_goes ..
  | oclysAckFrame => exact execOclysAckFrame_goes ..
  | oclysReplayRequest => exact execOclysReplayRequest_goes ..
  | oclysAckTimeout => exact execOclysAckTimeout_goes ..
  | linkFailure => exact execLinkFailure_goes ..
  | linkTrained => exact execLinkTrained_goes ..
  | hostWrite => exact execHostWrite_goes ..
  | hostRead => exact execHostRead_goes ..
  | hostLaunch => exact execHostLaunch_goes ..
  | regionLaunch => exact execRegionLaunch_goes ..
  | launchTilesSet => exact execLaunchTilesSet_goes ..
  | launchTimeout => exact execLaunchTimeout_goes ..
  | physdRead => exact execPhysdRead_goes ..
  | physdWrite => exact execPhysdWrite_goes ..
  | migrationDone => exact execMigrationDone_goes ..
  | pprDone => exact execPprDone_goes ..
  | spareControlWrite => exact execSpareControlWrite_goes ..
  | attestationDone => exact execAttestationDone_goes ..
  | thermalTrip => exact execThermalTrip_goes ..
  | secureBoot => exact execSecureBoot_goes ..
  | sbUnknownCommand => exact execSbUnknownCommand_goes ..
  | joinTimeout => exact execJoinTimeout_goes ..
  | ieee1588Sync => exact execIeee1588Sync_goes ..
  | malformedOperation => exact execMalformedOperation_goes ..

/-! ## The steps that the machine makes of its own accord, and the step of the part -/

theorem Act.go_goes (x : Act) (s : State) : Goes (x.go s) := by
  cases x with
  | slotNote | partEnd | linkFrames => exact goes_next _
  | thermalTrip => exact execThermalTrip_goes ..
  | deferredCause => exact execDeferredCause_goes ..
  | ldfeWake => exact execLdfeWake_goes ..
  | semaphoreGrant => exact execSemaphoreGrant_goes ..
  | semptExpiry => exact execSemptExpiry_goes ..
  | gldDataReturn => exact execGldDataReturn_goes ..
  | queueFullResume => exact execQueueFullResume_goes ..
  | strandChoice => exact execStrandChoice_goes ..
  | matrixEntryStart => exact execMatrixEntryStart_goes ..
  | matrixEntryComplete => exact execMatrixEntryComplete_goes ..
  | shapeOpStart => exact execShapeOpStart_goes ..
  | shapeOpComplete => exact execShapeOpComplete_goes ..
  | haulOpStart => exact execHaulOpStart_goes ..
  | haulChunk => exact execHaulChunk_goes ..
  | haulOpComplete => exact execHaulOpComplete_goes ..
  | haulOpReplay => exact execHaulOpReplay_goes ..
  | fireflyCommandArrival => exact execFireflyCommandArrival_goes ..
  | fireflyCommandStart => exact execFireflyCommandStart_goes ..
  | fireflyCommandComplete => exact execFireflyCommandComplete_goes ..
  | tileCloseArrival => exact execTileCloseArrival_goes ..
  | closeArrival => exact execCloseArrival_goes ..
  | sealArrival => exact execSealArrival_goes ..
  | restoreDone => exact execRestoreDone_goes ..
  | launchJoin => exact execLaunchJoin_goes ..
  | exchangeStartPacket => exact execExchangeStartPacket_goes ..
  | exchangeStart => exact execExchangeStart_goes ..
  | release => exact execRelease_goes ..
  | startInstant => exact execStartInstant_goes ..
  | abort => exact execAbort_goes ..
  | rollbackWindowDone => exact execRollbackWindowDone_goes ..
  | targetedSelfTestPass => exact execTargetedSelfTestEnd_goes ..
  | stop => exact execStop_goes ..
  | rootTimeout => exact execRootTimeout_goes ..
  | shapingWindow => exact execShapingWindow_goes ..
  | sealArrivalSend => exact execSealArrivalSend_goes ..
  | flitSend => exact execFlitSend_goes ..
  | flitArrival => exact execFlitArrival_goes ..
  | xrecvMissedFlit => exact execXrecvMissedFlit_goes ..
  | exchangeEnd => exact execExchangeEnd_goes ..
  | messageOffer => exact execMessageOffer_goes ..
  | collectiveSend => exact execCollectiveSend_goes ..
  | collectiveLanding => exact execCollectiveLanding_goes ..
  | collectiveReceiveTimeout => exact execCollectiveReceiveTimeout_goes ..
  | deltaArrival => exact execDeltaArrival_goes ..
  | faultRecordPost => exact execFaultRecordPost_goes ..
  | regionLaunch => exact execRegionLaunch_goes ..
  | launchTilesSet => exact execLaunchTilesSet_goes ..
  | launchTimeout => exact execLaunchTimeout_goes ..
  | joinTimeout => exact execJoinTimeout_goes ..
  | migrationDone => exact execMigrationDone_goes ..
  | pprDone => exact execPprDone_goes ..
  | attestationDone => exact execAttestationDone_goes ..

theorem State.passBy_goes (s : State) (k : Nat) : Goes (s.passBy k) := by
  unfold State.passBy
  split
  · exact Act.go_goes ..
  · exact goes_next _

theorem State.paced_goes {s wait : State} {ops : List SemOp} {out : Out} (h : Goes out) : Goes (s.paced wait ops out) := by
  obtain ⟨t, rfl⟩ := h
  exact goes_ite (goes_next _) (wait.passBy_goes 1)

theorem State.eventPaced_goes {s wait : State} {ops : List SemOp} {out : Out} (h : Goes out) : Goes (s.eventPaced wait ops out) := by
  obtain ⟨t, rfl⟩ := h
  exact goes_ite (goes_next _) (State.paced_goes (goes_next _))

theorem State.count_goes {s : State} {w : Nat} {out : Out} (h : Goes out) : Goes (s.count w out) := by
  obtain ⟨t, rfl⟩ := h
  unfold State.count
  split
  · exact goes_ite (goes_next _) (goes_next _)
  · exact goes_next _

theorem State.issue_goes (s : State) : Goes s.issue := by
  unfold State.issue
  dsimp only
  split
  · split
    · exact State.count_goes (exec_goes ..)
    · exact goes_next _
  · refine goes_ite (execDeferredCause_goes ..) (goes_ite (execWatchdogExpiry_goes ..) (goes_ite (execPcRangeTrap_goes ..) ?_))
    split
    · exact goes_next _
    · split
      · exact State.count_goes (exec_goes ..)
      · exact goes_next _

theorem State.issuePaced_goes (s wait : State) : Goes (s.issuePaced wait) := State.paced_goes s.issue_goes

theorem State.issueNext_goes (s : State) (w : Who) : Goes (s.issueNext w) := by
  unfold State.issueNext
  split
  · exact Act.go_goes ..
  · exact State.issuePaced_goes ..

theorem State.scheduled_goes (s : State) (e : Sched) (rest : List Sched) : Goes (s.scheduled e rest) := by
  unfold State.scheduled
  refine goes_ite ?_ ?_
  · cases e with
    | run => exact goes_ite (State.issuePaced_goes ..) (goes_next _)
    | event => exact goes_ite (State.eventPaced_goes (exec_goes ..)) (goes_next _)
    | upset => exact goes_next _
  · dsimp only
    split
    · exact Act.go_goes ..
    · exact goes_next _

theorem State.newRound_goes (s : State) : Goes s.newRound := by
  unfold State.newRound
  split
  · exact State.issueNext_goes ..
  · exact State.passBy_goes ..

theorem State.unscheduled_goes (s : State) : Goes s.unscheduled := by
  unfold State.unscheduled
  split
  · exact State.issuePaced_goes ..
  · refine goes_ite ?_ s.newRound_goes
    split
    · exact State.eventPaced_goes (Act.go_goes ..)
    · exact s.newRound_goes

theorem step_goes (s : State) : Goes (step s) := by
  unfold step
  split
  · exact Act.go_goes ..
  · split
    · exact State.scheduled_goes ..
    · exact s.unscheduled_goes

/-- Settles O53: every row of the table goes on by its case, and the step makes only such rows, the machine's own among them. -/
theorem everyInstructionRuns : Obligations.EveryInstructionRuns := ⟨exec_goes, step_goes⟩

end Sys2Proof.Machine
end

/-! HBM as firmware reaches it (R373, R380, R384-R387, R419): physical access, the base of the fault pool, migration, repair, the error log. -/
section
namespace Sys2Proof.Machine

/-! ## A tile, a die, a module changed -/

@[simp] theorem State.modDie_turn (s : State) (d : Nat) (f : Die → Die) : (s.modDie d f).turn = s.turn := rfl
@[simp] theorem State.modDie_tile (s : State) (d : Nat) (f : Die → Die) (u : Nat) : (s.modDie d f).tile u = s.tile u := rfl
@[simp] theorem State.modDie_module (s : State) (d : Nat) (f : Die → Die) (n : Nat) : (s.modDie d f).module n = s.module n := rfl
@[simp] theorem State.modDie_die_self (s : State) (d : Nat) (f : Die → Die) : (s.modDie d f).die d = f (s.die d) := by
  simp [State.die_modDie]
theorem State.modDie_die_ne (s : State) {d e : Nat} (f : Die → Die) (h : e ≠ d) : (s.modDie d f).die e = s.die e := by
  simp [State.die_modDie, h]

@[simp] theorem State.modModule_turn (s : State) (m : Nat) (f : Module → Module) : (s.modModule m f).turn = s.turn := rfl
@[simp] theorem State.modModule_tile (s : State) (m : Nat) (f : Module → Module) (u : Nat) : (s.modModule m f).tile u = s.tile u := rfl
@[simp] theorem State.modModule_die (s : State) (m : Nat) (f : Module → Module) (e : Nat) : (s.modModule m f).die e = s.die e := rfl
@[simp] theorem State.modModule_agentOf (s : State) (m : Nat) (f : Module → Module) (w : Who) :
    (s.modModule m f).agentOf w = s.agentOf w := by cases w <;> rfl
@[simp] theorem State.modModule_module_self (s : State) (m : Nat) (f : Module → Module) :
    (s.modModule m f).module m = f (s.module m) := by simp [State.module_modModule]

@[simp] theorem State.modTile_turn (s : State) (t : Nat) (f : Tile → Tile) : (s.modTile t f).turn = s.turn := rfl
@[simp] theorem State.modTile_die (s : State) (t : Nat) (f : Tile → Tile) (e : Nat) : (s.modTile t f).die e = s.die e := rfl
@[simp] theorem State.modTile_module (s : State) (t : Nat) (f : Tile → Tile) (n : Nat) : (s.modTile t f).module n = s.module n := rfl
@[simp] theorem State.modTile_tile_self (s : State) (t : Nat) (f : Tile → Tile) : (s.modTile t f).tile t = f (s.tile t) := by
  simp [State.tile_modTile]
theorem State.modTile_tile_ne (s : State) {t u : Nat} (f : Tile → Tile) (h : u ≠ t) : (s.modTile t f).tile u = s.tile u := by
  simp [State.tile_modTile, h]

/-- The memory controller of a die changed, and nothing else of the die. -/
def State.modMc (s : State) (d : Nat) (f : MemCtl → MemCtl) : State := s.modDie d fun x => { x with mc := f x.mc }

@[simp] theorem State.modMc_turn (s : State) (d : Nat) (f : MemCtl → MemCtl) : (s.modMc d f).turn = s.turn := rfl
@[simp] theorem State.modMc_tile (s : State) (d : Nat) (f : MemCtl → MemCtl) (u : Nat) : (s.modMc d f).tile u = s.tile u := rfl
@[simp] theorem State.modMc_module (s : State) (d : Nat) (f : MemCtl → MemCtl) (n : Nat) : (s.modMc d f).module n = s.module n := rfl
@[simp] theorem State.modMc_mc_self (s : State) (d : Nat) (f : MemCtl → MemCtl) : ((s.modMc d f).die d).mc = f (s.die d).mc := by
  simp [State.modMc]
theorem State.modMc_die_ne (s : State) {d e : Nat} (f : MemCtl → MemCtl) (h : e ≠ d) : (s.modMc d f).die e = s.die e :=
  s.modDie_die_ne _ h

@[simp] theorem State.modMc_agentOf (s : State) (d : Nat) (f : MemCtl → MemCtl) (w : Who) : (s.modMc d f).agentOf w = s.agentOf w := by
  cases w with
  | tile t a => rfl
  | svc e c =>
    by_cases he : e = d
    · subst he
      simp [State.modMc, State.agentOf]
    · simp [State.modMc, State.agentOf, State.modDie_die_ne, he]

/-! ## What stays where only a service core went on -/

section svcOnly
variable {s t : State} {d : Nat} {c : Fin 2} {g : Agent} {f : Tile → Tile}

theorem Only.agent {w : Who} (h : Only s t w g f) : t.agentOf w = g := h.2.1

theorem Only.module {w : Who} (h : Only s t w g f) (n : Nat) : t.module n = s.module n := by
  obtain ⟨⟨-, -, -, -, -, -, -, -, -, -, -, -, hm⟩, -⟩ := h
  exact hm n

theorem Only.svc_tile (h : Only s t (.svc d c) g f) (u : Nat) : t.tile u = s.tile u := by
  obtain ⟨-, -, -, -, ht⟩ := h
  exact ht u

theorem Only.svc_die_ne (h : Only s t (.svc d c) g f) {e : Nat} (he : e ≠ d) : t.die e = s.die e := by
  obtain ⟨-, -, -, hd, -⟩ := h
  exact hd e he

theorem Only.svc_mc (h : Only s t (.svc d c) g f) (e : Nat) : (t.die e).mc = (s.die e).mc := by
  by_cases he : e = d
  · obtain ⟨-, -, hb, -, -⟩ := h
    have hm : ((t.die d).but c).mc = ((s.die d).but c).mc := congrArg Die.mc hb
    rw [he]
    exact hm
  · rw [h.svc_die_ne he]

theorem Only.svc_agentOf_ne (h : Only s t (.svc d c) g f) {w : Who} (hw : w ≠ .svc d c) : t.agentOf w = s.agentOf w := by
  cases w with
  | tile u a => simp only [State.agentOf, h.svc_tile]
  | svc e k =>
    by_cases he : e = d
    · have hk : c.val ≠ k.val := fun hc => hw (by rw [he, Fin.ext hc])
      obtain ⟨-, -, hb, -, -⟩ := h
      have hs : ((t.die d).but c).svc[k] = ((s.die d).but c).svc[k] := congrArg (fun x : Die => x.svc[k]) hb
      simp only [Die.but, Die.setSvc, Fin.getElem_fin, Vector.getElem_set, if_neg hk] at hs
      simp only [State.agentOf, he, Fin.getElem_fin, hs]
    · simp only [State.agentOf, h.svc_die_ne he]

end svcOnly

/-- An instruction of a service core that ends in state `s1`, its own context being as before: it completes there. -/
theorem State.done_from {s s1 : State} (ht : s1.turn = s.turn) (g : Agent) :
    ∃ t, s1.done g = .next t ∧ Only s1 t s.turn g.past id := by
  obtain ⟨t, h, ho, -⟩ := s1.done_does g
  exact ⟨t, h, ht ▸ ho⟩

theorem State.doneX_from {s s1 : State} (ht : s1.turn = s.turn) (hg : s1.agentOf s.turn = s.me) (x : BitVec 5) (v : W) :
    ∃ t, s1.doneX x v = .next t ∧ Only s1 t s.turn (s.me.wx x v).past id := by
  have hm : s1.me = s.me := by rw [State.me, ht, hg]
  rw [State.doneX, hm]
  exact s.done_from ht _

theorem State.doneNop_from {s s1 : State} (ht : s1.turn = s.turn) (hg : s1.agentOf s.turn = s.me) :
    ∃ t, s1.doneNop = .next t ∧ Only s1 t s.turn s.me.past id := by
  have hm : s1.me = s.me := by rw [State.me, ht, hg]
  rw [State.doneNop, hm]
  exact s.done_from ht _

/-- Between two states no tile and no die but `d` changed. -/
def DieOnly (d : Nat) (s t : State) : Prop := (∀ u, t.tile u = s.tile u) ∧ ∀ e, e ≠ d → t.die e = s.die e

theorem State.modMc_dieOnly {s s1 : State} (ht : s1.tiles = s.tiles) (hd : s1.dies = s.dies) (d : Nat) (f : MemCtl → MemCtl) :
    DieOnly d s (s1.modMc d f) :=
  ⟨fun _ => congrArg (kvGet _ · _) ht, fun _ he => (s1.modDie_die_ne _ he).trans (congrArg (kvGet _ · _) hd)⟩

theorem DieOnly.trans {d : Nat} {s t u : State} (h : DieOnly d s t) (k : DieOnly d t u) : DieOnly d s u :=
  ⟨fun w => (k.1 w).trans (h.1 w), fun e he => (k.2 e he).trans (h.2 e he)⟩

theorem Only.dieOnly_from {s s1 t : State} {d : Nat} {c : Fin 2} {g : Agent} {f : Tile → Tile} (h : Only s1 t (.svc d c) g f)
    (h1 : DieOnly d s s1) : DieOnly d s t :=
  h1.trans ⟨h.svc_tile, fun _ => h.svc_die_ne⟩

/-! ## Physical access (R380) -/

theorem State.physdRead_lost {s : State} {d : Nat} (h : (s.die d).mc.lostAt (s.die d).mc.physa.toNat = true) :
    s.physdRead d = (Config.freeBits 64 s.free,
      { s with free := s.free + 1 }.modMc d fun mc => { mc.nextPhys with physUE := false }) := by
  simp only [State.physdRead, h, or_true, if_true]
  rfl

theorem State.physdRead_good {s : State} {d : Nat} (ht : (s.die d).mc.physa.toNat < hbmTop)
    (hb : s.hbmBad (modOfDie d) (s.die d).mc.physa.toNat 8 = none) (hl : (s.die d).mc.lostAt (s.die d).mc.physa.toNat = false) :
    s.physdRead d = (BitVec.ofNat 64 (s.hbmNat (modOfDie d) (s.die d).mc.physa.toNat 8),
      s.modMc d fun mc => { mc.nextPhys with physUE := false }) := by
  simp only [State.physdRead, hl, hb, Nat.not_le.mpr ht, Bool.false_eq_true, or_self, if_false]
  rfl

theorem physdRead_steps {s : State} {d : Nat} (ha : (s.die d).mc.physa.toNat % 8 = 0) (ht : (s.die d).mc.physa.toNat < hbmTop)
    (hb : s.hbmBad (modOfDie d) (s.die d).mc.physa.toNat 8 = none) (hl : (s.die d).mc.lostAt (s.die d).mc.physa.toNat = false) :
    ∃ t, exec (.physdRead d) s = .next t ∧ (t.die d).mc.physa = (s.die d).mc.physa + 8 ∧ (t.die d).mc.physUE = false ∧ DieOnly d s t ∧
      ∀ n, t.module n = s.module n := by
  refine ⟨(s.physdRead d).2, ?_, ?_⟩
  · exact if_neg (not_not.mpr ha)
  · rw [State.physdRead_good ht hb hl]
    exact ⟨by simp [MemCtl.nextPhys], by simp, State.modMc_dieOnly rfl rfl d _, fun _ => rfl⟩

theorem physdWrite_steps {s : State} {d : Nat} (v : W) (ha : (s.die d).mc.physa.toNat % 8 = 0) (ht : (s.die d).mc.physa.toNat < hbmTop) :
    ∃ t, exec (.physdWrite d v) s = .next t ∧ (t.die d).mc.physa = (s.die d).mc.physa + 8 ∧
      t.hbmNat (modOfDie d) (s.die d).mc.physa.toNat 8 = v.toNat ∧ DieOnly d s t ∧
      ∀ x, x < (s.die d).mc.physa.toNat ∨ (s.die d).mc.physa.toNat + 8 ≤ x →
        (t.module (modOfDie d)).hbm.get x = (s.module (modOfDie d)).hbm.get x := by
  refine ⟨s.physdWrite d v, if_neg (not_not.mpr ha), ?_⟩
  have hw : s.physdWrite d v =
      (s.setHbm (modOfDie d) (s.die d).mc.physa.toNat (leBytes 8 v.toNat)).modMc d MemCtl.nextPhys := by
    simp only [State.physdWrite, if_neg (Nat.not_le.mpr ht)]
    rfl
  rw [hw]
  refine ⟨by simp [MemCtl.nextPhys, State.setHbm], ?_, State.modMc_dieOnly rfl rfl d _, fun x hx => ?_⟩
  · simpa [State.hbmNat, State.setHbm] using Memory.nat_write_leBytes _ _ v.isLt
  · simpa [State.setHbm] using Memory.get_write_out _ _ _ _ (by simpa using hx)

/-! ## `csrr` and `csrw` of a service core (R380, R387) -/

section csr
variable {s : State} {d : Nat} {c : Fin 2}

theorem execCsrr_physd (hs : s.turn = .svc d c) (x : BitVec 5) (ha : (s.die d).mc.physa.toNat % 8 = 0) :
    exec (.csrr x 0x354) s = (s.physdRead d).2.doneX x (s.physdRead d).1 := by
  show execCsrr x 0x354 s = _
  simp [execCsrr, isDieCsr, hs, ha, State.readDieCsr]

theorem csrr_physd_unaligned (hs : s.turn = .svc d c) (x : BitVec 5) (ha : (s.die d).mc.physa.toNat % 8 ≠ 0) :
    Traps (.csrr x 0x354) s 0x03 ((s.die d).mc.physa.setWidth 64) := by
  have he : exec (.csrr x 0x354) s = s.trap 0x03 ((s.die d).mc.physa.setWidth 64) := by
    show execCsrr x 0x354 s = _
    simp [execCsrr, isDieCsr, hs, ha]
  rw [Traps, he]
  exact s.trap_does _ _

theorem csrw_physd_unaligned (hs : s.turn = .svc d c) (x : BitVec 5) (ha : (s.die d).mc.physa.toNat % 8 ≠ 0) :
    Traps (.csrw x 0x354) s 0x03 ((s.die d).mc.physa.setWidth 64) := by
  have he : exec (.csrw x 0x354) s = s.trap 0x03 ((s.die d).mc.physa.setWidth 64) := by
    show execCsrw x 0x354 s = _
    simp [execCsrw, isDieCsr, dieReadOnly, hs, ha]
  rw [Traps, he]
  exact s.trap_does _ _

theorem csrr_physd_lost (hs : s.turn = .svc d c) (x : BitVec 5) (ha : (s.die d).mc.physa.toNat % 8 = 0)
    (hl : (s.die d).mc.lostAt (s.die d).mc.physa.toNat = true) :
    ∃ t, exec (.csrr x 0x354) s = .next t ∧ t.agentOf s.turn = (s.me.wx x (Config.freeBits 64 s.free)).past ∧
      (t.die d).mc.physa = (s.die d).mc.physa + 8 ∧ DieOnly d s t := by
  rw [execCsrr_physd hs x ha, State.physdRead_lost hl]
  obtain ⟨t, he, ho⟩ := State.doneX_from (s := s) (s1 := { s with free := s.free + 1 }.modMc d fun mc => { mc.nextPhys with physUE := false }) rfl
    (State.modMc_agentOf ..) x _
  refine ⟨t, he, ho.agent, ?_, ?_⟩
  all_goals rw [hs] at ho
  · rw [ho.svc_mc, State.modMc_mc_self]
    rfl
  · exact ho.dieOnly_from (State.modMc_dieOnly rfl rfl d _)

theorem csrr_physd_good (hs : s.turn = .svc d c) (x : BitVec 5) (ha : (s.die d).mc.physa.toNat % 8 = 0)
    (ht : (s.die d).mc.physa.toNat < hbmTop) (hb : s.hbmBad (modOfDie d) (s.die d).mc.physa.toNat 8 = none)
    (hl : (s.die d).mc.lostAt (s.die d).mc.physa.toNat = false) :
    ∃ t, exec (.csrr x 0x354) s = .next t ∧
      t.agentOf s.turn = (s.me.wx x (BitVec.ofNat 64 (s.hbmNat (modOfDie d) (s.die d).mc.physa.toNat 8))).past ∧
      (t.die d).mc.physa = (s.die d).mc.physa + 8 ∧ (t.die d).mc.physUE = false ∧ DieOnly d s t := by
  rw [execCsrr_physd hs x ha, State.physdRead_good ht hb hl]
  obtain ⟨t, he, ho⟩ := State.doneX_from (s := s) (s1 := s.modMc d fun mc => { mc.nextPhys with physUE := false }) rfl
    (State.modMc_agentOf ..) x _
  refine ⟨t, he, ho.agent, ?_, ?_, ?_⟩
  all_goals rw [hs] at ho
  · rw [ho.svc_mc, State.modMc_mc_self]
    rfl
  · rw [ho.svc_mc, State.modMc_mc_self]
  · exact ho.dieOnly_from (State.modMc_dieOnly rfl rfl d _)

theorem execCsrr_hbmerr (hs : s.turn = .svc d c) (x : BitVec 5) :
    exec (.csrr x 0x35C) s = (s.hbmerrRead d).2.doneX x (s.hbmerrRead d).1 := by
  show execCsrr x 0x35C s = _
  simp [execCsrr, isDieCsr, hs, State.readDieCsr]

theorem State.hbmerrRead_cons {r : W} {rest : List W} (h : (s.die d).mc.hbmerr = r :: rest) :
    s.hbmerrRead d = (r, s.modMc d fun mc => { mc with hbmerr := rest }) := by
  simp only [State.hbmerrRead, h]
  rfl

theorem csrr_hbmerr_cons (hs : s.turn = .svc d c) (x : BitVec 5) {r : W} {rest : List W} (h : (s.die d).mc.hbmerr = r :: rest) :
    ∃ t, exec (.csrr x 0x35C) s = .next t ∧ t.agentOf s.turn = (s.me.wx x r).past ∧ (t.die d).mc.hbmerr = rest ∧ DieOnly d s t := by
  rw [execCsrr_hbmerr hs, State.hbmerrRead_cons h]
  obtain ⟨t, he, ho⟩ := State.doneX_from (s := s) (s1 := s.modMc d fun mc => { mc with hbmerr := rest }) rfl (State.modMc_agentOf ..) x _
  refine ⟨t, he, ho.agent, ?_, ?_⟩
  all_goals rw [hs] at ho
  · rw [ho.svc_mc, State.modMc_mc_self]
  · exact ho.dieOnly_from (State.modMc_dieOnly rfl rfl d _)

theorem csrr_hbmerr_nil (hs : s.turn = .svc d c) (x : BitVec 5) (h : (s.die d).mc.hbmerr = []) :
    Completes (.csrr x 0x35C) s (s.me.wx x 0).past := by
  have hr : s.hbmerrRead d = (0, s) := by simp only [State.hbmerrRead, h]
  rw [Completes, CompletesIn, execCsrr_hbmerr hs, hr]
  exact s.done_does _

theorem hbmerrRead_steps {r : W} {rest : List W} (h : (s.die d).mc.hbmerr = r :: rest) :
    ∃ t, exec (.hbmerrRead d) s = .next t ∧ (t.die d).mc.hbmerr = rest ∧ DieOnly d s t := by
  refine ⟨(s.hbmerrRead d).2, rfl, ?_⟩
  rw [State.hbmerrRead_cons h]
  exact ⟨by simp, State.modMc_dieOnly rfl rfl d _⟩

end csr

/-! ## Fields of a CSR written with `GO` -/

theorem W.fld_zero (v : W) (n : Nat) : v.fld 0 n = v.toNat % 2 ^ n := by simp [W.fld]

/-- `GO` is bit 63: it changes no field below. -/
theorem W.fld_go {v : W} {lo n : Nat} (h : lo + n ≤ 63) : W.fld (v ||| 0x8000000000000000#64) lo n = W.fld v lo n := by
  apply Nat.eq_of_testBit_eq
  intro i
  have hg : (0x8000000000000000#64 : W).toNat = 2 ^ 63 := rfl
  simp only [W.fld, BitVec.toNat_or, hg, Nat.testBit_mod_two_pow, Nat.testBit_div_two_pow, Nat.testBit_or, Nat.testBit_two_pow]
  by_cases hi : i < n
  · have : 63 ≠ i + lo := by omega
    simp [this]
  · simp [hi]

theorem W.fld_go_set (v : W) : W.fld (v ||| 0x8000000000000000#64) 63 1 = 1 := by
  have hg : (v ||| 0x8000000000000000#64).getLsbD 63 = true := by simp
  rw [BitVec.getLsbD, Nat.testBit_eq_decide_div_mod_eq, decide_eq_true_eq] at hg
  simpa [W.fld] using hg

/-! ## The base of the fault pool (R373, R387) -/

theorem State.fqbaseWrite_free {s : State} {d : Nat} (v : W) (h : (s.die d).mc.busySlots = []) :
    s.fqbaseWrite d v = { s with free := s.free + 1 }.modMc d fun mc => { mc with
      fqBase := if v.toNat % 2 ^ 12 = 0 ∧ v.toNat % 2 ^ 40 + 2048 * 2 ^ (v.toNat / 2 ^ 40 % 16) ≤ 0xC000000000 ∧
        48 - (s.die d).mc.rsvN.toNat ≤ v.toNat % 2 ^ 40 / 2 ^ 34 then v.setWidth 40 else Config.freeBits 40 s.free
      fqSz := BitVec.ofNat 4 (v.toNat / 2 ^ 40 % 2 ^ 4), popped := [], lostSlots := [] } := by
  have hv : BitVec.ofNat 40 (v.toNat % 2 ^ 40) = v.setWidth 40 := BitVec.eq_of_toNat_eq (by simp)
  simp only [State.fqbaseWrite, h, List.isEmpty_nil, if_true, MemCtl.poolFits, MemCtl.firstReserved, hbmTop, W.fld, Nat.pow_zero, Nat.div_one,
    hv, Bool.and_eq_true, decide_eq_true_eq]
  rfl

theorem fqbaseWrite_steps {s : State} {d : Nat} (v : W) (h : (s.die d).mc.busySlots = []) :
    ∃ t, exec (.fqbaseWrite d v) s = .next t ∧
      (t.die d).mc.fqBase = (if v.toNat % 2 ^ 12 = 0 ∧ v.toNat % 2 ^ 40 + 2048 * 2 ^ (v.toNat / 2 ^ 40 % 16) ≤ 0xC000000000 ∧
        48 - (s.die d).mc.rsvN.toNat ≤ v.toNat % 2 ^ 40 / 2 ^ 34 then v.setWidth 40 else Config.freeBits 40 s.free) ∧
      (t.die d).mc.fqSz.toNat = v.toNat / 2 ^ 40 % 16 ∧ DieOnly d s t := by
  refine ⟨s.fqbaseWrite d v, rfl, ?_⟩
  rw [State.fqbaseWrite_free v h]
  refine ⟨?_, ?_, State.modMc_dieOnly rfl rfl d _⟩
  · rw [State.modMc_mc_self]
  · rw [State.modMc_mc_self]
    exact (BitVec.toNat_ofNat ..).trans (Nat.mod_mod ..)

theorem fqbaseWrite_ignored {s : State} {d : Nat} (v : W) (h : (s.die d).mc.busySlots ≠ []) : exec (.fqbaseWrite d v) s = .next s := by
  show Host.Outcome.next (s.fqbaseWrite d v) = _
  simp only [State.fqbaseWrite, List.isEmpty_iff, if_neg h]

/-! ## Migration (R384) -/

theorem State.migctlWrite_go (s : State) (d : Nat) (v : W) :
    s.migctlWrite d (v ||| 0x8000000000000000#64) = s.modMc d fun mc =>
      if mc.moveOk (v.toNat % 2 ^ 12) (v.toNat / 2 ^ 32 % 2 ^ 8) (v.toNat / 2 ^ 20 % 2 ^ 12) then
        { mc with migCtl := BitVec.ofNat 40 v.toNat, migMove := BitVec.ofNat 40 v.toNat, migBusy := true, migRefused := false }
      else { mc with migCtl := BitVec.ofNat 40 v.toNat, migRefused := true } := by
  have hn : BitVec.ofNat 40 (v.toNat % 2 ^ 40) = BitVec.ofNat 40 v.toNat := BitVec.eq_of_toNat_eq (by simp)
  simp only [State.migctlWrite, W.fld_go_set, W.fld_go (v := v) (lo := 0) (n := 40) (by decide),
    W.fld_go (v := v) (lo := 0) (n := 12) (by decide), W.fld_go (v := v) (lo := 32) (n := 8) (by decide),
    W.fld_go (v := v) (lo := 20) (n := 12) (by decide), W.fld_zero, if_neg Nat.one_ne_zero, hn]
  rfl

theorem migrationStart_refused {s : State} {d : Nat} (v : W)
    (h : (s.die d).mc.moveOk (v.toNat % 2 ^ 12) (v.toNat / 2 ^ 32 % 2 ^ 8) (v.toNat / 2 ^ 20 % 2 ^ 12) = false) :
    ∃ t, exec (.migrationStart d v) s = .next t ∧ (t.die d).mc.migBusy = (s.die d).mc.migBusy ∧ (t.die d).mc.migRefused = true ∧
      (t.die d).mc.migTable = (s.die d).mc.migTable ∧ DieOnly d s t := by
  refine ⟨_, congrArg Host.Outcome.next (s.migctlWrite_go d v), ?_⟩
  simp only [State.modMc_mc_self, h, Bool.false_eq_true, if_false, true_and]
  exact State.modMc_dieOnly rfl rfl d _

theorem migrationStart_starts {s : State} {d : Nat} (v : W)
    (h : (s.die d).mc.moveOk (v.toNat % 2 ^ 12) (v.toNat / 2 ^ 32 % 2 ^ 8) (v.toNat / 2 ^ 20 % 2 ^ 12) = true) :
    ∃ t, exec (.migrationStart d v) s = .next t ∧ (t.die d).mc.migBusy = true ∧ (t.die d).mc.migRefused = false ∧
      (t.die d).mc.migCtl.toNat = v.toNat % 2 ^ 40 ∧ (t.die d).mc.migMove.toNat = v.toNat % 2 ^ 40 ∧ DieOnly d s t := by
  refine ⟨_, congrArg Host.Outcome.next (s.migctlWrite_go d v), ?_⟩
  simp only [State.modMc_mc_self, h, if_true, BitVec.toNat_ofNat, true_and]
  exact State.modMc_dieOnly rfl rfl d _

/-- A replayed move changes bytes of HBM, and no tile and no die. -/
theorem State.replayMove_units (s : State) (d : Nat) (q : Nat × Nat × Nat × Nat) :
    (∀ u, (s.replayMove d q).tile u = s.tile u) ∧ ∀ e, (s.replayMove d q).die e = s.die e := by
  unfold State.replayMove
  dsimp only
  split
  · exact ⟨fun _ => rfl, fun _ => rfl⟩
  · exact ⟨fun _ => rfl, fun _ => rfl⟩

/-- Chunks lost change bytes of HBM, and no tile and no die. -/
theorem State.forgetChunks_units (s : State) (d : Nat) (l : List (Nat × Nat × Nat × Nat)) :
    (∀ u, (l.foldl (fun s e => s.forgetChunk d e.1 e.2.1) s).tile u = s.tile u) ∧
      ∀ e, (l.foldl (fun s e => s.forgetChunk d e.1 e.2.1) s).die e = s.die e := by
  induction l generalizing s with
  | nil => exact ⟨fun _ => rfl, fun _ => rfl⟩
  | cons x l ih => exact ih _

/-- A move to the place it comes from: both halves of a `MIGCTL` of 40 bits name one chunk of one channel. -/
theorem migMove_moves {v : Nat} (hlt : v < 2 ^ 40) (hn : v % 2 ^ 20 ≠ v / 2 ^ 20) :
    ¬(v / 2 ^ 12 % 2 ^ 8 = v / 2 ^ 32 % 2 ^ 8 ∧ v % 2 ^ 12 = v / 2 ^ 20 % 2 ^ 12) := by
  rintro ⟨hp, hc⟩
  have hlo : v % (2 ^ 12 * 2 ^ 8) = v % 2 ^ 12 + 2 ^ 12 * (v / 2 ^ 12 % 2 ^ 8) := Nat.mod_mul
  have hhi : v / 2 ^ 20 % (2 ^ 12 * 2 ^ 8) = v / 2 ^ 20 % 2 ^ 12 + 2 ^ 12 * (v / 2 ^ 20 / 2 ^ 12 % 2 ^ 8) := Nat.mod_mul
  have hw : v / 2 ^ 20 < 2 ^ 12 * 2 ^ 8 := Nat.div_lt_of_lt_mul hlt
  rw [Nat.mod_eq_of_lt hw, Nat.div_div_eq_div_mul, ← Nat.pow_add, ← hp, ← hc] at hhi
  exact hn (hlo.trans hhi.symm)

theorem migrationDone_steps {s : State} {d : Nat} (hb : (s.die d).mc.migBusy = true)
    (hn : (s.die d).mc.migMove.toNat % 2 ^ 20 ≠ (s.die d).mc.migMove.toNat / 2 ^ 20) :
    ∃ t, exec (.migrationDone d) s = .next t ∧ (t.die d).mc.migBusy = false ∧
      ((s.die d).mc.migMove.toNat / 2 ^ 12 % 2 ^ 8, (s.die d).mc.migMove.toNat % 2 ^ 12, (s.die d).mc.migMove.toNat / 2 ^ 32 % 2 ^ 8,
        (s.die d).mc.migMove.toNat / 2 ^ 20 % 2 ^ 12) ∈ (t.die d).mc.migTable ∧ DieOnly d s t := by
  have hmoves := migMove_moves (s.die d).mc.migMove.isLt hn
  generalize hv : (s.die d).mc.migMove.toNat = v at hmoves ⊢
  generalize hr : (s.die d).mc.migTable.filter (fun e => !(decide (e.1 = v / 2 ^ 12 % 2 ^ 8) && decide (e.2.1 = v % 2 ^ 12))) = rest
  generalize he : (v / 2 ^ 12 % 2 ^ 8, v % 2 ^ 12, v / 2 ^ 32 % 2 ^ 8, v / 2 ^ 20 % 2 ^ 12) = e
  let s1 := s.modMc d fun mc => { mc with migBusy := false, migTable := rest ++ [e] }
  let s2 := (rest.filter fun q => decide (q.2.2 = e.2.2)).foldl (fun s q => s.forgetChunk d q.1 q.2.1) s1
  have hx : exec (.migrationDone d) s = .next (s2.replayMove d e) := by
    show execMigrationDone d s = _
    subst he
    simp only [execMigrationDone, hb, hv, fld, Nat.pow_zero, Nat.div_one, Bool.not_true, Bool.false_eq_true, if_false, if_neg hmoves, hr]
    rfl
  obtain ⟨ht1, hd1⟩ := s1.forgetChunks_units d (rest.filter fun q => decide (q.2.2 = e.2.2))
  obtain ⟨ht2, hd2⟩ := s2.replayMove_units d e
  have hmc : ((s2.replayMove d e).die d).mc = (s1.die d).mc := congrArg Die.mc ((hd2 d).trans (hd1 d))
  refine ⟨_, hx, ?_, ?_, ?_⟩
  · rw [hmc, State.modMc_mc_self]
  · rw [hmc, State.modMc_mc_self]
    exact List.mem_append_right _ (List.mem_singleton_self e)
  · exact (State.modMc_dieOnly rfl rfl d _).trans ⟨fun u => (ht2 u).trans (ht1 u), fun e' _ => (hd2 e').trans (hd1 e')⟩

/-! ## Repair (R385, R419) -/

theorem pprStart_steps {s : State} {d : Nat} (v : W) (hb : (s.die d).mc.pprBusy = false) :
    ∃ t, exec (.pprStart d v) s = .next t ∧ (t.die d).mc.pprBusy = true ∧ (t.die d).mc.pprCtl.toNat = v.toNat % 2 ^ 30 ∧
      DieOnly d s t := by
  have hn : BitVec.ofNat 30 (v.toNat % 2 ^ 30) = BitVec.ofNat 30 v.toNat := BitVec.eq_of_toNat_eq (by simp)
  refine ⟨s.pprctlWrite d (v ||| 0x8000000000000000#64), rfl, ?_⟩
  simp only [State.pprctlWrite, State.modDie_die_self, hb, Bool.false_eq_true, if_false, W.fld_go_set,
    W.fld_go (v := v) (lo := 0) (n := 30) (by decide), W.fld_zero, hn, decide_true, BitVec.toNat_ofNat, true_and]
  exact ⟨fun _ => rfl, fun _ he => State.modDie_die_ne _ _ he⟩

/-- A count over the dies of a module is at least that of each of its dies. -/
theorem State.le_sumDies (s : State) (d : Nat) (f : Die → Nat) : f (s.die d) ≤ s.sumDies (modOfDie d) f := by
  have hd : d ∈ diesOfModule (modOfDie d) := List.mem_map.mpr ⟨d % 16, List.mem_range.mpr (Nat.mod_lt _ (by decide)), Nat.div_add_mod d 16⟩
  have hs : s.sumDies (modOfDie d) f = ((diesOfModule (modOfDie d)).map fun e => f (s.die e)).sum := by
    rw [List.sum_eq_foldl, List.foldl_map]
    rfl
  rw [hs]
  exact List.le_sum_of_mem (List.mem_map_of_mem hd)

/-- `MSTAT.REPLACE` is set where a remap is latched (R419). -/
theorem State.replaceNow_of_remap {s : State} {d : Nat} (h : (s.die d).mc.pprRemaps ≠ []) : s.replaceNow (modOfDie d) = true := by
  have hl := List.length_pos_iff.mpr h
  have hs := s.le_sumDies d fun x => x.tileSpares + x.ffSpares + x.rowSpares + x.mc.pprRemaps.length + x.ff.fenced.length
  have hne : s.sumDies (modOfDie d) (fun x => x.tileSpares + x.ffSpares + x.rowSpares + x.mc.pprRemaps.length + x.ff.fenced.length) ≠ 0 := by
    omega
  simp [State.replaceNow, hne]

theorem State.report_tile (s : State) (m code region ssn cause tile data u : Nat) :
    (s.report m code region ssn cause tile data).tile u = s.tile u := by
  simp only [State.tile, State.report_tiles]

theorem State.report_module (s : State) (m code region ssn cause tile data n : Nat) :
    (s.report m code region ssn cause tile data).module n = s.module n := by
  simp only [State.module, State.report_modules]

/-- Of a die whose host port changes, nothing else does. -/
theorem State.modPort_host_die (s : State) (d : Nat) (f : Port → Port) (e : Nat) :
    (s.modPort d true f).die e = { s.die e with hp := ((s.modPort d true f).die e).hp } := by
  by_cases he : e = d
  · subst he
    simp [State.modPort]
  · simp [State.modPort, State.modDie_die_ne, he]

theorem State.sendOp_host_die (s : State) (d : Nat) (o : Output) (e : Nat) :
    (s.sendOp d true o).die e = { s.die e with hp := ((s.sendOp d true o).die e).hp } := by
  have h : (s.sendOp d true o).die e = (s.keepFrame d true (s.linkCfg d) none o.opBytes).die e := rfl
  rw [h]
  exact s.modPort_host_die d _ e

/-- A report leaves on a host port. -/
theorem State.report_die (s : State) (m code region ssn cause tile data e : Nat) :
    (s.report m code region ssn cause tile data).die e =
      { s.die e with hp := ((s.report m code region ssn cause tile data).die e).hp } := by
  unfold State.report
  split
  · exact s.sendOp_host_die ..
  · rfl

theorem State.report_outs {s : State} {m : Nat} (h : (s.module m).alive = true) (code region ssn cause tile data : Nat) :
    Output.event m code region ssn cause tile data ∈ (s.report m code region ssn cause tile data).outs := by
  rw [State.report, if_pos h, State.sendOp_outs]
  exact List.mem_append_right _ (List.mem_singleton_self _)

section note
variable (s : State) (m : Nat)

theorem State.noteReplace_tile (u : Nat) : (s.noteReplace m).tile u = s.tile u := by
  simp only [State.noteReplace]
  split
  · rw [State.report_tile, State.modModule_tile]
  · rfl

theorem State.noteReplace_die (e : Nat) : (s.noteReplace m).die e = { s.die e with hp := ((s.noteReplace m).die e).hp } := by
  simp only [State.noteReplace]
  split
  · exact State.report_die ..
  · rfl

theorem State.noteReplace_mc (e : Nat) : ((s.noteReplace m).die e).mc = (s.die e).mc := by
  rw [State.noteReplace_die]

theorem State.noteReplace_unrepaired : ((s.noteReplace m).module m).unrepaired = (s.module m).unrepaired := by
  simp only [State.noteReplace]
  split
  · rw [State.report_module, State.modModule_module_self]
  · rw [State.modModule_module_self]

variable {s m}

theorem State.noteReplace_outs (hn : s.replaceNow m = true) (hw : (s.module m).replaceWas = false) (ha : (s.module m).alive = true) :
    ∃ n, Output.event m 8 0 0 0 0 n ∈ (s.noteReplace m).outs := by
  let s1 := s.modModule m fun x => { x with replaceWas := true }
  have h1 : (s1.module m).alive = true := by rw [State.modModule_module_self]; exact ha
  have he : s.noteReplace m = s1.report m 8 0 0 0 0 (s1.mstat m).toNat := by
    simp only [State.noteReplace, hn, hw, Bool.not_false, Bool.and_self, if_true]
    rfl
  exact ⟨_, he ▸ State.report_outs h1 ..⟩

end note

section ppr
variable {s : State} {d : Nat}

/-- The row that a repair remaps (R385): pseudo channel, bank, row. -/
def MemCtl.pprRow (mc : MemCtl) : Nat × Nat × Nat := (mc.pprCtl.toNat % 2 ^ 8, mc.pprCtl.toNat / 2 ^ 8 % 2 ^ 6, mc.pprCtl.toNat / 2 ^ 14 % 2 ^ 16)

/-- A repair ends (R385): its remap latched, or the spare of the bank found in use. -/
def State.pprEnd (s : State) (d : Nat) (fail : Bool) : State :=
  s.modMc d fun mc => { mc with pprBusy := false, pprFail := fail, pprRemaps := if fail then mc.pprRemaps else mc.pprRemaps ++ [mc.pprRow] }

theorem exec_pprDone_of_busy (hb : (s.die d).mc.pprBusy = true) {fail : Bool}
    (hu : ((s.die d).mc.pprRemaps.any fun r => decide (r.1 = (s.die d).mc.pprRow.1) && decide (r.2.1 = (s.die d).mc.pprRow.2.1)) = fail) :
    exec (.pprDone d) s = .next
      ((if fail then s.pprEnd d fail else (s.pprEnd d fail).repaired d (s.die d).mc.pprRow).noteReplace (modOfDie d)) := by
  show execPprDone d s = _
  subst hu
  simp only [execPprDone, hb, fld, Nat.pow_zero, Nat.div_one, Bool.not_true, Bool.false_eq_true, if_false]
  rfl

theorem State.repaired_die (s : State) (d : Nat) (q : Nat × Nat × Nat) (e : Nat) : (s.repaired d q).die e = s.die e := rfl

theorem State.not_mem_repaired (s : State) (d : Nat) (q : Nat × Nat × Nat) : (d, q) ∉ ((s.repaired d q).module (modOfDie d)).unrepaired := by
  simp [State.repaired]

theorem pprDone_latches (hb : (s.die d).mc.pprBusy = true)
    (hu : ((s.die d).mc.pprRemaps.all fun r => r.1 ≠ (s.die d).mc.pprRow.1 ∨ r.2.1 ≠ (s.die d).mc.pprRow.2.1) = true) :
    ∃ t, exec (.pprDone d) s = .next t ∧ (t.die d).mc.pprBusy = false ∧ (t.die d).mc.pprFail = false ∧
      (t.die d).mc.pprRemaps = (s.die d).mc.pprRemaps ++ [(s.die d).mc.pprRow] ∧ (∀ u, t.tile u = s.tile u) ∧
      (∀ e, e ≠ d → { t.die e with hp := (s.die e).hp } = s.die e) ∧
      (d, (s.die d).mc.pprRow) ∉ (t.module (modOfDie d)).unrepaired ∧
      ((s.module (modOfDie d)).replaceWas = false → (s.module (modOfDie d)).alive = true →
        ∃ n, Output.event (modOfDie d) 8 0 0 0 0 n ∈ t.outs) := by
  have hu' : ((s.die d).mc.pprRemaps.any fun r => decide (r.1 = (s.die d).mc.pprRow.1) && decide (r.2.1 = (s.die d).mc.pprRow.2.1)) = false := by
    rw [List.any_eq_false]
    intro r hr
    simpa only [Bool.and_eq_true, decide_eq_true_eq, not_and_or, ne_eq] using of_decide_eq_true (List.all_eq_true.mp hu r hr)
  let s1 := (s.pprEnd d false).repaired d (s.die d).mc.pprRow
  have hmc : ((s1.noteReplace (modOfDie d)).die d).mc = ((s.pprEnd d false).die d).mc := s1.noteReplace_mc _ d
  have hr : ((s.pprEnd d false).die d).mc.pprRemaps = (s.die d).mc.pprRemaps ++ [(s.die d).mc.pprRow] := by simp [State.pprEnd]
  have hx := exec_pprDone_of_busy hb hu'
  rw [if_neg Bool.false_ne_true] at hx
  refine ⟨s1.noteReplace (modOfDie d), hx, ?_, ?_, ?_, fun u => s1.noteReplace_tile _ u, fun e he => ?_, ?_, fun hw ha => ?_⟩
  · exact (congrArg MemCtl.pprBusy hmc).trans (by simp [State.pprEnd])
  · exact (congrArg MemCtl.pprFail hmc).trans (by simp [State.pprEnd])
  · exact (congrArg MemCtl.pprRemaps hmc).trans hr
  · have h1 : s1.die e = s.die e := (State.repaired_die ..).trans (s.modMc_die_ne _ he)
    rw [s1.noteReplace_die, h1]
  · rw [s1.noteReplace_unrepaired]
    exact (s.pprEnd d false).not_mem_repaired d _
  · have hm : s1.module (modOfDie d) = { s.module (modOfDie d) with unrepaired := (s1.module (modOfDie d)).unrepaired } :=
      (State.modModule_module_self ..).trans (by simp [s1, State.repaired, State.pprEnd])
    refine State.noteReplace_outs (State.replaceNow_of_remap (d := d) ?_) (by rw [hm]; exact hw) (by rw [hm]; exact ha)
    show ((s.pprEnd d false).die d).mc.pprRemaps ≠ []
    rw [hr]
    exact List.append_ne_nil_of_right_ne_nil _ (List.cons_ne_nil _ _)

theorem pprDone_fails (hb : (s.die d).mc.pprBusy = true)
    (hu : ∃ r ∈ (s.die d).mc.pprRemaps, r.1 = (s.die d).mc.pprRow.1 ∧ r.2.1 = (s.die d).mc.pprRow.2.1) :
    ∃ t, exec (.pprDone d) s = .next t ∧ (t.die d).mc.pprBusy = false ∧ (t.die d).mc.pprFail = true ∧
      (t.die d).mc.pprRemaps = (s.die d).mc.pprRemaps ∧ (t.module (modOfDie d)).unrepaired = (s.module (modOfDie d)).unrepaired := by
  obtain ⟨r, hr, hc, hk⟩ := hu
  have hu' : ((s.die d).mc.pprRemaps.any fun r => decide (r.1 = (s.die d).mc.pprRow.1) && decide (r.2.1 = (s.die d).mc.pprRow.2.1)) = true :=
    List.any_eq_true.mpr ⟨r, hr, by simp [hc, hk]⟩
  have hmc := (s.pprEnd d true).noteReplace_mc (modOfDie d) d
  have hx := exec_pprDone_of_busy hb hu'
  rw [if_pos rfl] at hx
  refine ⟨_, hx, ?_, ?_, ?_, State.noteReplace_unrepaired _ _⟩
  · exact (congrArg MemCtl.pprBusy hmc).trans (by simp [State.pprEnd])
  · exact (congrArg MemCtl.pprFail hmc).trans (by simp [State.pprEnd])
  · exact (congrArg MemCtl.pprRemaps hmc).trans (by simp [State.pprEnd])

end ppr

/-- Settles O30: each step of the memory controller changes the fields that its register names, and every other die stays. -/
theorem hbmFirmwareComplete : Obligations.HbmFirmwareComplete := by
  intro s d v c x
  refine ⟨physdRead_steps, physdWrite_steps v, fun hs => ⟨csrr_physd_lost hs x, csrr_physd_good hs x, fun ha => ?_,
      fun r rest => csrr_hbmerr_cons hs x, csrr_hbmerr_nil hs x⟩,
    fqbaseWrite_steps v, fqbaseWrite_ignored v, migrationStart_refused v, migrationStart_starts v, migrationDone_steps,
    pprStart_steps v, pprDone_latches, pprDone_fails, fun r rest => hbmerrRead_steps⟩
  exact ⟨csrr_physd_unaligned hs x ha, csrw_physd_unaligned hs x ha⟩

end Sys2Proof.Machine
end

/-! Fault records posted (R371-R374, R376). -/
section
namespace Sys2Proof.Machine

/-! ## Numbers in a rising list -/

theorem mem_natInsert_self (l : List Nat) (k : Nat) : k ∈ natInsert l k := by
  induction l with
  | nil => exact List.mem_singleton_self k
  | cons j t ih =>
    simp only [natInsert]
    split
    · exact List.mem_cons_of_mem _ ih
    · split
      · next he => exact he ▸ List.mem_cons_self ..
      · exact List.mem_cons_self ..

/-! ## A record written (R371-R373) -/

theorem MemCtl.poolFits_slotPa_false {mc : MemCtl} {k : Nat}
    (h : mc.fqBase.toNat + 32 * k + 2048 > 0xC000000000 ∨ (mc.fqBase.toNat + 32 * k) / 2 ^ 34 + mc.rsvN.toNat < 48) :
    mc.poolFits (mc.slotPa k) 0 = false := by
  simp only [MemCtl.poolFits, MemCtl.slotPa, MemCtl.firstReserved, hbmTop, Nat.pow_zero, Nat.mul_one, Bool.and_eq_false_iff]
  rcases h with h | h
  · exact .inl (decide_eq_false (by omega))
  · exact .inr (decide_eq_false (by omega))

section post
variable (s : State) (d k : Nat) (bs : List Byte)

theorem State.postRecord_units : (s.postRecord d k bs).tiles = s.tiles ∧ (s.postRecord d k bs).dies = s.dies := by
  unfold State.postRecord
  dsimp only
  split
  · exact ⟨rfl, rfl⟩
  · split
    · exact ⟨rfl, rfl⟩
    · exact ⟨rfl, rfl⟩

variable {s d k}

theorem State.postRecord_writes (h : (s.die d).mc.poolOk = true) :
    ((s.postRecord d k bs).module (modOfDie d)).hbm = (s.module (modOfDie d)).hbm.write ((s.die d).mc.slotPa k) bs := by
  simp only [State.postRecord, h, if_true, State.setHbm, State.modModule_module_self]

/-- In a pool that breaks R373 no byte outside the slot changes, and none at all where the slot is not in the reserved regions. -/
theorem State.postRecord_get (h : (s.die d).mc.poolOk = false) {y : Nat}
    (hy : (s.die d).mc.poolFits ((s.die d).mc.slotPa k) 0 = false ∨ y < (s.die d).mc.slotPa k ∨ (s.die d).mc.slotPa k + 32 ≤ y) :
    ((s.postRecord d k bs).module (modOfDie d)).hbm.get y = (s.module (modOfDie d)).hbm.get y := by
  simp only [State.postRecord, h, Bool.false_eq_true, if_false]
  split
  · next hf =>
    rw [State.modModule_module_self]
    exact Memory.get_forget_out _ _ _ _ _ (hy.resolve_left (by simp [hf]))
  · rfl

end post

/-- The memory controller of a die after stop `f` is posted in slot `k` (R373, R376). -/
def MemCtl.posted (mc : MemCtl) (f : FaultStop) (k : Nat) : MemCtl :=
  { mc with
    stops := mc.stops.erase f
    busySlots := natInsert mc.busySlots k
    slotTiles := kvSet mc.slotTiles k f.tile
    lostSlots := if mc.poolOk then mc.lostSlots else natInsert mc.lostSlots k
    fq0 := if f.cause = 0x06 then mc.fq0 ++ [k] else mc.fq0
    fq1 := if f.cause = 0x06 then mc.fq1 else mc.fq1 ++ [k] }

/-- The state in which stop `f` of die `d` stands in slot `k`. -/
def State.posted (s : State) (d : Nat) (f : FaultStop) (k : Nat) : State :=
  (s.postRecord d k (f.bytes (s.die d).mc.fmodeRec)).modMc d fun mc => mc.posted f k

/-- The operation of a stop bound to its slot (R374). -/
def State.bound (s : State) (f : FaultStop) (k : Nat) (recMode : Bool) : State :=
  match f.opId with
  | some op => s.modTile f.tile fun tl => tl.bindSlot op k recMode
  | none => s

theorem State.bound_units (s : State) (f : FaultStop) (k : Nat) (recMode : Bool) :
    (s.bound f k recMode).dies = s.dies ∧ (s.bound f k recMode).modules = s.modules ∧
      ∀ u, f.opId = none ∨ u ≠ f.tile → (s.bound f k recMode).tile u = s.tile u := by
  unfold State.bound
  split
  · next op ho => exact ⟨rfl, rfl, fun u hu => s.modTile_tile_ne _ (hu.resolve_left (by simp [ho]))⟩
  · exact ⟨rfl, rfl, fun _ _ => rfl⟩

theorem State.modDie_congr {s : State} {d : Nat} {f g : Die → Die} (h : f (s.die d) = g (s.die d)) : s.modDie d f = s.modDie d g := by
  rw [State.modDie, State.modDie, h]

theorem exec_faultRecordPost {s : State} {d k : Nat} {f : FaultStop}
    (hf : firstStop ((s.die d).mc.stops.filter fun g => decide (g.cycle < s.clk / 2)) = some f) (hk : (s.die d).mc.freeSlot = some k) :
    exec (.faultRecordPost d) s = .next ((s.posted d f k).bound f k (s.die d).mc.fmodeRec) := by
  have hmc : ((s.postRecord d k (f.bytes (s.die d).mc.fmodeRec)).die d).mc = (s.die d).mc :=
    congrArg (fun l => (kvGet Die.reset l d).mc) (s.postRecord_units d k _).2
  show execFaultRecordPost d s = _
  cases ho : f.opId
  all_goals
    simp only [execFaultRecordPost, hf, hk, State.posted, State.modMc, State.bound, ho]
    rw [State.modDie_congr (g := fun x => { x with mc := x.mc.posted f k }) (by rw [MemCtl.posted, hmc])]

/-! ## The operation that stopped (R374) -/

section bind
variable {tl : Tile} {id k : Nat} {l r : List HaulOp} {o : HaulOp}

theorem Tile.promote_of_none {tl : Tile} (h : ∀ o ∈ tl.haulQ, o.status ≠ .storing) : tl.promote = tl := by
  have hn : tl.haulQ.find? (fun x => decide (x.status = .storing)) = none := by
    simpa only [List.find?_eq_none, decide_eq_true_eq] using h
  simp only [Tile.promote, hn]

/-- What becomes of an operation of the queue where operation `id` is bound to slot `k`. -/
def HaulOp.bindTo (id k : Nat) (recMode : Bool) (o : HaulOp) : HaulOp :=
  if o.id = id then { o with fslot := some k, status := if recMode then .storing else o.status } else o

theorem map_bindTo_of_ne {m : List HaulOp} (recMode : Bool) (h : ∀ q ∈ m, q.id ≠ id) : m.map (HaulOp.bindTo id k recMode) = m :=
  (List.map_congr_left fun q hq => if_neg (h q hq)).trans (List.map_id m)

/-- The operation `id` of the queue is bound, the others stay. -/
theorem Tile.bindSlot_eq (hq : tl.haulQ = l ++ o :: r) (ho : o.id = id) (hu : ∀ q ∈ l ++ r, q.id ≠ id ∧ q.status ≠ .storing)
    (recMode : Bool) :
    tl.bindSlot id k recMode = Tile.promote
      { tl with haulQ := l ++ { o with fslot := some k, status := if recMode then .storing else o.status } :: r } := by
  have hb : tl.bindSlot id k recMode = Tile.promote { tl with haulQ := tl.haulQ.map (HaulOp.bindTo id k recMode) } := rfl
  rw [hb, hq, List.map_append, List.map_cons, map_bindTo_of_ne recMode fun q h => (hu q (List.mem_append_left _ h)).1,
    map_bindTo_of_ne recMode fun q h => (hu q (List.mem_append_right _ h)).1, HaulOp.bindTo, if_pos ho]

theorem Tile.bindSlot_normal (hq : tl.haulQ = l ++ o :: r) (ho : o.id = id) (hu : ∀ q ∈ l ++ r, q.id ≠ id ∧ q.status ≠ .storing)
    (hs : o.status ≠ .storing) :
    tl.bindSlot id k false = { tl with haulQ := l ++ { o with fslot := some k } :: r } := by
  rw [Tile.bindSlot_eq hq ho hu]
  refine Tile.promote_of_none fun q hq => ?_
  rcases List.mem_append.mp hq with h | h
  · exact (hu q (List.mem_append_left _ h)).2
  · rcases List.mem_cons.mp h with rfl | h
    · exact hs
    · exact (hu q (List.mem_append_right _ h)).2

/-- The first operation that waits for the store, the only one of its number, moves into a free place of it. -/
theorem Tile.promote_storing (hq : tl.haulQ = l ++ o :: r) (hu : ∀ q ∈ l ++ r, q.id ≠ o.id ∧ q.status ≠ .storing)
    (hs : o.status = .storing) :
    tl.promote = if tl.haulStore.length < 16 then
      { tl with haulQ := l ++ r, haulStore := tl.haulStore ++ [{ o with status := .suspended }] } else tl := by
  have hl : l.find? (fun x => decide (x.status = .storing)) = none := by
    simpa only [List.find?_eq_none, decide_eq_true_eq] using fun q h => (hu q (List.mem_append_left r h)).2
  have hf : tl.haulQ.find? (fun x => decide (x.status = .storing)) = some o := by
    rw [hq, List.find?_append, hl, Option.none_or, List.find?_cons_of_pos (by simp [hs])]
  have hk : ∀ m : List HaulOp, (∀ q ∈ m, q.id ≠ o.id) → m.filter (fun x => decide (x.id ≠ o.id)) = m := fun m h =>
    List.filter_eq_self.mpr fun q hq => decide_eq_true (h q hq)
  have hd : tl.dropOp o.id = { tl with haulQ := l ++ r } := by
    rw [Tile.dropOp, hq, List.filter_append, List.filter_cons_of_neg (by simp), hk l fun q h => (hu q (List.mem_append_left _ h)).1,
      hk r fun q h => (hu q (List.mem_append_right _ h)).1]
  simp only [Tile.promote, hf, hd]

theorem Tile.bindSlot_recovery (hq : tl.haulQ = l ++ o :: r) (ho : o.id = id) (hu : ∀ q ∈ l ++ r, q.id ≠ id ∧ q.status ≠ .storing) :
    tl.bindSlot id k true = if tl.haulStore.length < 16 then
      { tl with haulQ := l ++ r, haulStore := tl.haulStore ++ [{ o with fslot := some k, status := .suspended }] }
    else { tl with haulQ := l ++ { o with fslot := some k, status := .storing } :: r } := by
  subst ho
  rw [Tile.bindSlot_eq hq rfl hu]
  exact Tile.promote_storing (o := { o with fslot := some k, status := .storing }) rfl hu rfl

end bind

/-! ## FAULT_RECORD_POST -/

section posted
variable {s : State} {d k : Nat} {f : FaultStop}

theorem State.posted_bound_mc (recMode : Bool) : (((s.posted d f k).bound f k recMode).die d).mc = (s.die d).mc.posted f k := by
  have hb := congrArg (fun l => (kvGet Die.reset l d).mc) ((s.posted d f k).bound_units f k recMode).1
  have hp := congrArg (fun l => (kvGet Die.reset l d).mc) (s.postRecord_units d k (f.bytes (s.die d).mc.fmodeRec)).2
  exact hb.trans ((State.modMc_mc_self ..).trans (congrArg (MemCtl.posted · f k) hp))

theorem State.posted_bound_module (recMode : Bool) (n : Nat) :
    ((s.posted d f k).bound f k recMode).module n = (s.postRecord d k (f.bytes (s.die d).mc.fmodeRec)).module n :=
  congrArg (kvGet Module.reset · n) ((s.posted d f k).bound_units f k recMode).2.1

theorem State.posted_tile (u : Nat) : (s.posted d f k).tile u = s.tile u :=
  congrArg (kvGet Tile.reset · u) (s.postRecord_units d k (f.bytes (s.die d).mc.fmodeRec)).1

theorem State.posted_bound_tile (recMode : Bool) {id : Nat} (h : f.opId = some id) :
    ((s.posted d f k).bound f k recMode).tile f.tile = (s.tile f.tile).bindSlot id k recMode := by
  simp only [State.bound, h, State.modTile_tile_self, State.posted_tile]

end posted

section afterPost
variable {s : State} {d k : Nat} {f : FaultStop}

/-- The state after the post of stop `f` in slot `k`. -/
def State.afterPost (s : State) (d k : Nat) (f : FaultStop) : State := (s.posted d f k).bound f k (s.die d).mc.fmodeRec

theorem afterPost_mc : ((s.afterPost d k f).die d).mc = (s.die d).mc.posted f k := State.posted_bound_mc _

theorem afterPost_record (h : (s.die d).mc.poolOk = true) :
    ((s.afterPost d k f).module (modOfDie d)).hbm =
        (s.module (modOfDie d)).hbm.write ((s.die d).mc.slotPa k) (f.bytes (s.die d).mc.fmodeRec) ∧
      ((s.afterPost d k f).die d).mc.lostSlots = (s.die d).mc.lostSlots := by
  rw [afterPost_mc, State.afterPost, State.posted_bound_module, State.postRecord_writes _ h]
  exact ⟨rfl, if_pos h⟩

theorem afterPost_lost (h : (s.die d).mc.poolOk = false) :
    ((s.afterPost d k f).die d).mc.recordLost k = true ∧
      ∀ y, ((s.die d).mc.fqBase.toNat + 32 * k + 2048 > 0xC000000000 ∨
          ((s.die d).mc.fqBase.toNat + 32 * k) / 2 ^ 34 + (s.die d).mc.rsvN.toNat < 48 ∨
          y < (s.die d).mc.fqBase.toNat + 32 * k ∨ (s.die d).mc.fqBase.toNat + 32 * k + 32 ≤ y) →
        ((s.afterPost d k f).module (modOfDie d)).hbm.get y = (s.module (modOfDie d)).hbm.get y := by
  have hp : ((s.die d).mc.posted f k).poolOk = (s.die d).mc.poolOk := rfl
  refine ⟨?_, fun y hy => ?_⟩
  · rw [afterPost_mc, MemCtl.recordLost, hp, h]
    rfl
  · rw [State.afterPost, State.posted_bound_module]
    refine State.postRecord_get _ h ?_
    rcases hy with hy | hy | hy
    · exact .inl (MemCtl.poolFits_slotPa_false (.inl hy))
    · exact .inl (MemCtl.poolFits_slotPa_false (.inr hy))
    · exact .inr hy

theorem afterPost_queues : ((s.afterPost d k f).die d).mc.stops = (s.die d).mc.stops.erase f ∧
    k ∈ ((s.afterPost d k f).die d).mc.busySlots ∧
    (f.cause = 0x06 → ((s.afterPost d k f).die d).mc.fq0 = (s.die d).mc.fq0 ++ [k]) ∧
    (f.cause ≠ 0x06 → ((s.afterPost d k f).die d).mc.fq1 = (s.die d).mc.fq1 ++ [k]) ∧
    ∀ u, f.opId = none ∨ u ≠ f.tile → (s.afterPost d k f).tile u = s.tile u := by
  rw [afterPost_mc]
  obtain ⟨-, -, ht⟩ := (s.posted d f k).bound_units f k (s.die d).mc.fmodeRec
  exact ⟨rfl, mem_natInsert_self _ k, fun h => if_pos h, fun h => if_neg h, fun u hu => (ht u hu).trans (State.posted_tile u)⟩

theorem afterPost_op {id : Nat} {l r : List HaulOp} {o : HaulOp} (hf : f.opId = some id) (hq : (s.tile f.tile).haulQ = l ++ o :: r)
    (ho : o.id = id) (hu : ∀ q ∈ l ++ r, q.id ≠ id ∧ q.status ≠ .storing) (hs : o.status ≠ .storing) :
    let w := (s.afterPost d k f).tile f.tile
    ((s.die d).mc.fmodeRec = false → w.haulQ = l ++ { o with fslot := some k } :: r ∧ w.haulStore = (s.tile f.tile).haulStore) ∧
    ((s.die d).mc.fmodeRec = true → (s.tile f.tile).haulStore.length < 16 → w.haulQ = l ++ r ∧
      w.haulStore = (s.tile f.tile).haulStore ++ [{ o with fslot := some k, status := .suspended }]) ∧
    ((s.die d).mc.fmodeRec = true → 16 ≤ (s.tile f.tile).haulStore.length →
      w.haulQ = l ++ { o with fslot := some k, status := .storing } :: r ∧ w.haulStore = (s.tile f.tile).haulStore) := by
  have hw : (s.afterPost d k f).tile f.tile = (s.tile f.tile).bindSlot id k (s.die d).mc.fmodeRec := State.posted_bound_tile _ hf
  dsimp only
  rw [hw]
  refine ⟨fun hm => ?_, fun hm hn => ?_, fun hm hn => ?_⟩
  · rw [hm, Tile.bindSlot_normal hq ho hu hs]
    exact ⟨rfl, rfl⟩
  · rw [hm, Tile.bindSlot_recovery hq ho hu, if_pos hn]
    exact ⟨rfl, rfl⟩
  · rw [hm, Tile.bindSlot_recovery hq ho hu, if_neg (Nat.not_lt.mpr hn)]
    exact ⟨rfl, rfl⟩

end afterPost

end Sys2Proof.Machine
end

/-! Fault records taken and read: `fqpop`, and `fqres` to its decision (R377, R378, R386). -/
section
namespace Sys2Proof.Machine

/-! ## The pool read where no word of it is uncorrectable (R386) -/

theorem badHit_eq_none_iff {sz : Nat} {bad : List Nat} {a n : Nat} :
    badHit sz bad a n = none ↔ ∀ w ∈ bad, ¬(a < sz * w + sz ∧ sz * w < a + n) := by
  simp only [badHit, List.find?_eq_none, Bool.and_eq_true, decide_eq_true_eq]

section good
variable {s : State} {m pa n : Nat}

theorem State.hbmBad_sub {a k : Nat} (h : s.hbmBad m pa n = none) (h1 : pa ≤ a) (h2 : a + k ≤ pa + n) : s.hbmBad m a k = none :=
  badHit_eq_none_iff.mpr fun w hw hc => badHit_eq_none_iff.mp h w hw (by omega)

theorem State.hbmSeen_good (h : s.hbmBad m pa n = none) : s.hbmSeen m pa n = s.hbm m pa n := by
  have hk : ∀ q ∈ (s.hbm m pa n).zipIdx,
      (if (s.module m).badHbm.contains ((pa + q.2) / 8) then Config.freeByte s.free (pa + q.2) else q.1) = q.1 := by
    intro q hq
    refine if_neg fun hc => ?_
    have hl : q.2 < n := by
      have := List.snd_lt_of_mem_zipIdx hq
      rwa [State.hbm, Memory.bytes_length] at this
    exact badHit_eq_none_iff.mp h _ (List.contains_iff_mem.mp hc) (by omega)
  rw [State.hbmSeen, List.map_congr_left hk]
  exact List.zipIdx_map_fst ..

theorem State.logBad_good (d : Nat) (h : s.hbmBad m pa n = none) : s.logBad d m pa n = s := by
  have hb : badIn 8 (s.module m).badHbm pa n = [] :=
    List.filter_eq_nil_iff.mpr fun w hw => by simpa using badHit_eq_none_iff.mp h w hw
  rw [State.logBad, hb, List.foldl_nil]

theorem State.noteRead_good (d : Nat) (h : s.hbmBad m pa n = none) : s.noteRead d m pa n = s := by
  rw [State.noteRead, h, Option.isNone_none, if_pos rfl]

end good

theorem leNat_lt (bs : List Byte) : leNat bs < 256 ^ bs.length := by
  induction bs with
  | nil => exact Nat.one_pos
  | cons b bs ih =>
    have hb : b.toNat < 256 := b.isLt
    rw [leNat, List.length_cons, Nat.pow_succ]
    omega

theorem State.hbmNat_lt (s : State) (m pa : Nat) : s.hbmNat m pa 8 < 2 ^ 64 := by
  have h := leNat_lt ((s.module m).hbm.bytes pa 8)
  rwa [Memory.bytes_length] at h

theorem deliverable_iff {c : Nat} : deliverable c = true ↔
    c ∈ [0x01, 0x02, 0x03, 0x04, 0x05, 0x07, 0x09, 0x0A, 0x0B, 0x0C, 0x0D, 0x0E, 0x0F, 0x10, 0x11, 0x12, 0x17, 0x18, 0x19] := by
  simp only [deliverable, Bool.or_eq_true, Bool.and_eq_true, decide_eq_true_eq, List.mem_cons, List.not_mem_nil, or_false]
  omega

/-! ## `fqpop` (R377) -/

section service
variable {s : State} {d : Nat} {c : Fin 2}

/-- The queue of a service core (R376). -/
def MemCtl.queueOf (mc : MemCtl) (c : Fin 2) : List Nat := if c = 0 then mc.fq0 else mc.fq1

theorem exec_fqpop_nil (hs : s.turn = .svc d c) (x : BitVec 5) (h : (s.die d).mc.queueOf c = []) :
    exec (.fqpop x) s = s.doneX x (BitVec.allOnes 64) := by
  show execFqpop x s = _
  rw [execFqpop, State.onService_eq ⟨d, c, hs⟩]
  simp only [hs]
  rw [show (if c = 0 then (s.die d).mc.fq0 else (s.die d).mc.fq1) = [] from h]
  rfl

/-- The memory controller of a die after core `c` took the oldest record, that of slot `k` and region `g`. -/
def MemCtl.popAt (mc : MemCtl) (c : Fin 2) (k g : Nat) (rest : List Nat) : MemCtl :=
  let popped := kvSet mc.popped (2 * k + c.val) g
  if c = 0 then { mc with fq0 := rest, popped := popped } else { mc with fq1 := rest, popped := popped }

theorem MemCtl.popAt_queueOf (mc : MemCtl) (c : Fin 2) (k g : Nat) (rest : List Nat) : (mc.popAt c k g rest).queueOf c = rest := by
  unfold MemCtl.popAt MemCtl.queueOf
  split
  · rfl
  · rfl

theorem MemCtl.popAt_popped (mc : MemCtl) (c : Fin 2) (k g : Nat) (rest : List Nat) :
    kvGet g (mc.popAt c k g rest).popped (2 * k + c.val) = g := by
  unfold MemCtl.popAt
  dsimp only
  split
  · exact kvGet_kvSet_self ..
  · exact kvGet_kvSet_self ..

theorem exec_fqpop_cons (hs : s.turn = .svc d c) (x : BitVec 5) {k : Nat} {rest : List Nat} (h : (s.die d).mc.queueOf c = k :: rest) :
    exec (.fqpop x) s =
      (s.modMc d fun mc => mc.popAt c k (s.tile (kvGet 0 (s.die d).mc.slotTiles k)).region.toNat rest).doneX x
        (BitVec.ofNat 64 ((s.die d).mc.slotPa k)) := by
  show execFqpop x s = _
  rw [execFqpop, State.onService_eq ⟨d, c, hs⟩]
  simp only [hs]
  rw [show (if c = 0 then (s.die d).mc.fq0 else (s.die d).mc.fq1) = k :: rest from h]
  rfl

theorem fqpop_empty (hs : s.turn = .svc d c) (x : BitVec 5) (h : (s.die d).mc.queueOf c = []) :
    Completes (.fqpop x) s (s.me.wx x (BitVec.allOnes 64)).past := by
  rw [Completes, CompletesIn, exec_fqpop_nil hs x h]
  exact s.done_does _

theorem fqpop_oldest (hs : s.turn = .svc d c) (x : BitVec 5) {k : Nat} {rest : List Nat} (h : (s.die d).mc.queueOf c = k :: rest) :
    ∃ t, exec (.fqpop x) s = .next t ∧ t.agentOf s.turn = (s.me.wx x (BitVec.ofNat 64 ((s.die d).mc.slotPa k))).past ∧
      (t.die d).mc.queueOf c = rest ∧
      kvGet (s.tile (kvGet 0 (s.die d).mc.slotTiles k)).region.toNat (t.die d).mc.popped (2 * k + c.val) =
        (s.tile (kvGet 0 (s.die d).mc.slotTiles k)).region.toNat ∧
      ∀ u, t.tile u = s.tile u := by
  rw [exec_fqpop_cons hs x h]
  obtain ⟨t, he, ho⟩ := State.doneX_from (s := s)
    (s1 := s.modMc d fun mc => mc.popAt c k (s.tile (kvGet 0 (s.die d).mc.slotTiles k)).region.toNat rest) rfl (State.modMc_agentOf ..) x
    (BitVec.ofNat 64 ((s.die d).mc.slotPa k))
  refine ⟨t, he, ho.agent, ?_⟩
  rw [hs] at ho
  rw [ho.svc_mc, State.modMc_mc_self]
  exact ⟨MemCtl.popAt_queueOf .., MemCtl.popAt_popped .., ho.svc_tile⟩

/-! ## `fqres` (R378) -/

/-- The word that `fqres` takes: the address of the record, the slot it names, `ACT` and the cause to deliver. -/
def resPa (v : W) : Nat := v.toNat % 2 ^ 40
def resAct (v : W) : Nat := v.toNat / 2 ^ 48 % 4
def resCode (v : W) : Nat := v.toNat / 2 ^ 40 % 256
def MemCtl.resSlot (mc : MemCtl) (v : W) : Nat := (resPa v - mc.fqBase.toNat) / 32

/-- The word names a record of the pool, and its `ACT` and reserved bits are right. -/
def MemCtl.whole (mc : MemCtl) (v : W) : Prop :=
  resPa v % 32 = 0 ∧ mc.fqBase.toNat ≤ resPa v ∧ resPa v < mc.fqBase.toNat + 32 * mc.poolSize ∧ resAct v ≠ 3 ∧ v.toNat < 2 ^ 50

theorem W.fld_top_eq_zero_iff (v : W) : v.fld 50 14 = 0 ↔ v.toNat < 2 ^ 50 := by
  have h := v.isLt
  simp only [W.fld, Nat.reducePow] at *
  omega

/-- The checks of `fqres` on its word, as the instruction makes them. -/
theorem MemCtl.whole_iff (mc : MemCtl) (v : W) : mc.whole v ↔ ¬(resPa v % 32 ≠ 0 ∨ resPa v < mc.fqBase.toNat ∨
    mc.fqBase.toNat + 32 * mc.poolSize ≤ resPa v ∨ resAct v = 3 ∨ v.fld 50 14 ≠ 0) := by
  have ht := W.fld_top_eq_zero_iff v
  simp only [MemCtl.whole]
  omega

theorem fqres_unwhole (hs : s.turn = .svc d c) (a : BitVec 5) (hw : ¬(s.die d).mc.whole (s.rx a)) : Traps (.fqres a) s 0x07 (s.rx a) := by
  have he : exec (.fqres a) s = s.trap 0x07 (s.rx a) := by
    show execFqres a s = _
    rw [execFqres, State.onService_eq ⟨d, c, hs⟩]
    simp only [hs, W.fld_zero]
    exact if_pos (not_not.mp ((MemCtl.whole_iff ..).not.mp hw))
  rw [Traps, he]
  exact s.trap_does _ _

/-! ### A record that can be read -/

/-- What `fqres` asks for to read the record: the slot of a pool as R373 wants it, with no uncorrectable word. -/
structure Readable (s : State) (d : Nat) (v : W) : Prop where
  whole : (s.die d).mc.whole v
  aligned : (s.die d).mc.fqBase.toNat % 4096 = 0
  good : s.hbmBad (modOfDie d) (resPa v) 24 = none
  kept : (s.die d).mc.recordLost ((s.die d).mc.resSlot v) = false

namespace Readable
variable {v : W} (h : Readable s d v)
include h

theorem slotPa : (s.die d).mc.slotPa ((s.die d).mc.resSlot v) = resPa v := by
  obtain ⟨hp, hb, -⟩ := h.whole
  have ha := h.aligned
  simp only [MemCtl.slotPa, MemCtl.resSlot]
  omega

theorem dword_good {i : Nat} (hi : i + 8 ≤ 24) : s.hbmBad (modOfDie d) (resPa v + i) 8 = none :=
  State.hbmBad_sub h.good (by omega) (by omega)

theorem setRecord (n w : Nat) : { s with free := n }.setRecord d ((s.die d).mc.resSlot v) w =
    { s with free := n }.setHbm (modOfDie d) (resPa v) (leBytes 8 w) := by
  have hp := h.slotPa
  have hk := h.kept
  have hb : s.hbmBad (modOfDie d) (resPa v) 8 = none := h.dword_good (i := 0) (by decide)
  have hd : { s with free := n }.die d = s.die d := rfl
  have hm : { s with free := n }.hbmBad (modOfDie d) (resPa v) 8 = none := hb
  simp only [State.setRecord, hd, hk, hp, hm, Bool.false_eq_true, if_false]

theorem dword {i : Nat} (hi : i + 8 ≤ 24) : leNat (s.hbmSeen (modOfDie d) (resPa v + i) 8) = s.hbmNat (modOfDie d) (resPa v + i) 8 := by
  rw [State.hbmSeen_good (h.dword_good hi)]
  rfl

end Readable

/-- The first dword of the record. -/
def State.recWord (s : State) (d : Nat) (v : W) : Nat := s.hbmNat (modOfDie d) (resPa v) 8
/-- The address that the record names, and the cursor of its operation (R372). -/
def State.recVa (s : State) (d : Nat) (v : W) : W := BitVec.ofNat 64 (s.hbmNat (modOfDie d) (resPa v + 8) 8 % 2 ^ 52)
def State.recCursor (s : State) (d : Nat) (v : W) : Nat := s.hbmNat (modOfDie d) (resPa v + 16) 8 % 2 ^ 32

/-- The tile and the agent of the record whose first dword is `r`, and whether it is one of an operation of the haul core. -/
def recTile (r : Nat) : Nat := r / 2 ^ 20 % 2 ^ 28
def recAgent (r : Nat) : Nat := r / 2 ^ 8 % 16
def recHaul (r : Nat) : Bool := decide (r / 2 ^ 12 % 8 ≠ 0)

/-- The agent of the record. -/
def State.recWho (s : State) (d : Nat) (v : W) : Who := .tile (recTile (s.recWord d v)) (Fin.ofNat 10 (recAgent (s.recWord d v)))

/-- The first dword of the record rewritten and the memory controller changed. -/
def State.recWrite (s : State) (d : Nat) (v : W) (w : Nat) (f : MemCtl → MemCtl) : State :=
  (s.setHbm (modOfDie d) (resPa v) (leBytes 8 w)).modMc d f

/-- The slot of the record is free again, and its valid bit is 0 (R378). -/
def State.recFreed (s : State) (d : Nat) (v : W) : State :=
  s.recWrite d v (s.recWord d v % 2 ^ 63) fun mc => mc.freeRecord ((s.die d).mc.resSlot v)

/-- The record is the other core's, with cause 0x08 (R378 `ACT` 1). -/
def State.recPassed (s : State) (d : Nat) (v : W) : State :=
  s.recWrite d v (s.recWord d v - s.recWord d v % 256 + 0x08 + 2 ^ 61) fun mc =>
    { mc with fq0 := natErase mc.fq0 ((s.die d).mc.resSlot v), fq1 := mc.fq1 ++ [(s.die d).mc.resSlot v] }

/-- `ACT` 1: the record goes to the other core, its strand with cause 0x08 (R378). -/
def State.recHandOver (s : State) (d : Nat) (v : W) : State :=
  if h : recHaul (s.recWord d v) = false ∧ recAgent (s.recWord d v) < 10 then
    (s.recPassed d v).modTile (recTile (s.recWord d v)) fun tl =>
      tl.setAgent ⟨recAgent (s.recWord d v), h.2⟩ { tl.cur.agents[recAgent (s.recWord d v)]'(h.2) with causeCode := 0x08 }
  else s.recPassed d v

/-- `ACT` 0: the strand or the operation of the record goes on (R378). -/
def State.recRestart (s : State) (d : Nat) (v : W) : State :=
  if recHaul (s.recWord d v) then (s.recFreed d v).modTile (recTile (s.recWord d v)) fun tl =>
    tl.replay ((s.die d).mc.resSlot v) (s.recWord d v / 2 ^ 15 % 2 = 1) (s.recCursor d v)
  else (s.recFreed d v).unpark (recTile (s.recWord d v)) (recAgent (s.recWord d v)) fun g => g

/-- `ACT` 2: the strand goes on with a cause, the operation is gone and the cause is its hart's (R378). -/
def State.recDeliver (s : State) (d : Nat) (v : W) : State :=
  if recHaul (s.recWord d v) then
    (((s.recFreed d v).modTile (recTile (s.recWord d v)) fun tl =>
      (tl.dropSuspended ((s.die d).mc.resSlot v)).promote).wakeDrain (recTile (s.recWord d v)) 8).deliverHaul
        (recTile (s.recWord d v)) (resCode v) (s.recVa d v)
  else (s.recFreed d v).unpark (recTile (s.recWord d v)) (recAgent (s.recWord d v)) fun g => g.defer (resCode v) (s.recVa d v)

theorem fld_zero (w n : Nat) : fld w 0 n = w % 2 ^ n := by rw [fld, Nat.pow_zero, Nat.div_one]

/-- `fqres` of a record that can be read, branch by branch. A free value is drawn where the record may be resumed. -/
theorem exec_fqres (hs : s.turn = .svc d c) (a : BitVec 5) (h : Readable s d (s.rx a)) :
    exec (.fqres a) s =
      if s.recWord d (s.rx a) / 2 ^ 61 % 2 ≠ c.val ∨ resAct (s.rx a) = 1 ∧ s.recWord d (s.rx a) / 2 ^ 61 % 2 = 1 ∨
        resAct (s.rx a) = 2 ∧ deliverable (resCode (s.rx a)) = false then s.trap 0x07 (s.rx a)
      else if s.recWord d (s.rx a) / 2 ^ 63 % 2 = 0 ∨ s.stale d c.val ((s.die d).mc.resSlot (s.rx a)) = true then
        { s with free := s.free + 1 }.doneNop
      else if resAct (s.rx a) = 1 then ({ s with free := s.free + 1 }.recHandOver d (s.rx a)).doneNop
      else if resAct (s.rx a) = 0 then ({ s with free := s.free + 1 }.recRestart d (s.rx a)).doneNop
      else ({ s with free := s.free + 1 }.recDeliver d (s.rx a)).doneNop := by
  show execFqres a s = _
  rw [execFqres, State.onService_eq ⟨d, c, hs⟩]
  have hk : (s.die d).mc.recordLost (((s.rx a).toNat % 2 ^ 40 - (s.die d).mc.fqBase.toNat) / 32) = false := h.kept
  have h0 : leNat (s.hbmSeen (modOfDie d) ((s.rx a).toNat % 2 ^ 40) 8) = s.recWord d (s.rx a) := h.dword (i := 0) (by decide)
  have h1 : leNat (s.hbmSeen (modOfDie d) ((s.rx a).toNat % 2 ^ 40 + 8) 8) = s.hbmNat (modOfDie d) (resPa (s.rx a) + 8) 8 :=
    h.dword (by decide)
  have h2 : leNat (s.hbmSeen (modOfDie d) ((s.rx a).toNat % 2 ^ 40 + 16) 8) = s.hbmNat (modOfDie d) (resPa (s.rx a) + 16) 8 :=
    h.dword (by decide)
  have hf : ¬((s.rx a).toNat % 2 ^ 40 % 32 ≠ 0 ∨ (s.rx a).toNat % 2 ^ 40 < (s.die d).mc.fqBase.toNat ∨
      (s.die d).mc.fqBase.toNat + 32 * (s.die d).mc.poolSize ≤ (s.rx a).toNat % 2 ^ 40 ∨ (s.rx a).fld 48 2 = 3 ∨ (s.rx a).fld 50 14 ≠ 0) :=
    ((s.die d).mc.whole_iff _).mp h.whole
  have hn : s.noteRead d (modOfDie d) ((s.rx a).toNat % 2 ^ 40) 8 = s := State.noteRead_good d (h.dword_good (i := 0) (by decide))
  have hg : { s with free := s.free + 1 }.logBad d (modOfDie d) ((s.rx a).toNat % 2 ^ 40) 24 = { s with free := s.free + 1 } :=
    State.logBad_good d h.good
  have hr : ∀ w, { s with free := s.free + 1 }.setRecord d (((s.rx a).toNat % 2 ^ 40 - (s.die d).mc.fqBase.toNat) / 32) w =
    { s with free := s.free + 1 }.setHbm (modOfDie d) (resPa (s.rx a)) (leBytes 8 w) := h.setRecord _
  generalize hs0 : ({ s with free := s.free + 1 } : State) = s0 at hg hr ⊢
  simp only [hs, W.fld_zero, fld_zero, hk, h0, h1, h2, if_neg hf, hn, hg, hr, Bool.false_eq_true, if_false]
  subst hs0
  rfl

end service

end Sys2Proof.Machine
end

/-! What changes one tile and leaves the rest, and what wakes of an agent leave of its tile. -/
section
namespace Sys2Proof.Machine

/-! ## One tile changed -/

/-- Between two states of one turn nothing but tile `u` changed of what stands on the dies and modules. -/
def TileOnly (u : Nat) (s t : State) : Prop :=
  t.turn = s.turn ∧ t.dies = s.dies ∧ t.modules = s.modules ∧ ∀ w, w ≠ u → t.tile w = s.tile w

theorem TileOnly.refl (u : Nat) (s : State) : TileOnly u s s := ⟨rfl, rfl, rfl, fun _ _ => rfl⟩

theorem TileOnly.trans {u : Nat} {s t r : State} (h : TileOnly u s t) (k : TileOnly u t r) : TileOnly u s r := by
  obtain ⟨h1, h2, h3, h4⟩ := h
  obtain ⟨k1, k2, k3, k4⟩ := k
  exact ⟨k1.trans h1, k2.trans h2, k3.trans h3, fun w hw => (k4 w hw).trans (h4 w hw)⟩

/-- What holds of both states of a choice holds of the choice. -/
theorem State.of_ite {P : State → Prop} {p : Prop} [Decidable p] {t r : State} (h : P t) (k : P r) : P (if p then t else r) := by
  split
  · exact h
  · exact k

theorem State.modTile_tileOnly (s : State) (u : Nat) (f : Tile → Tile) : TileOnly u s (s.modTile u f) :=
  ⟨rfl, rfl, rfl, fun _ hw => s.modTile_tile_ne f hw⟩

theorem State.unpark_tileOnly (s : State) (u n : Nat) (f : Agent → Agent) : TileOnly u s (s.unpark u n f) := by
  unfold State.unpark
  split
  · exact s.modTile_tileOnly u _
  · exact .refl u s

theorem State.flush_tileOnly (s : State) (u : Nat) : TileOnly u s (s.flush u) := by
  unfold State.flush
  dsimp only
  split
  · exact .refl u s
  · exact s.modTile_tileOnly u fun _ => _

theorem State.wakeDrain_tileOnly (s : State) (u : Nat) (a : Fin 10) : TileOnly u s (s.wakeDrain u a) := by
  unfold State.wakeDrain
  refine (s.flush_tileOnly u).trans ?_
  dsimp only
  split
  · exact State.modTile_tileOnly ..
  · exact State.of_ite (P := TileOnly u _) (State.modTile_tileOnly ..) (.refl ..)
  · exact .refl ..

theorem State.deferTo_tileOnly (s : State) (u : Nat) (a : Fin 10) (code : Nat) (va : W) : TileOnly u s (s.deferTo u a code va) := by
  unfold State.deferTo
  dsimp only
  split
  · exact s.modTile_tileOnly u _
  · exact s.modTile_tileOnly u _
  · exact s.modTile_tileOnly u _
  · exact s.modTile_tileOnly u _

theorem State.deliverHaul_tileOnly (s : State) (u code : Nat) (va : W) : TileOnly u s (s.deliverHaul u code va) := by
  unfold State.deliverHaul
  split
  · exact s.modTile_tileOnly u _
  · exact s.deferTo_tileOnly ..

/-! ## What a flush and a wake leave of a tile -/

/-- The agents, the operations of the haul core and the staging of a first superstep are as before. -/
structure SameOps (tl t : Tile) : Prop where
  cur : t.cur = tl.cur
  haulQ : t.haulQ = tl.haulQ
  haulStore : t.haulStore = tl.haulStore
  launching : t.launching = tl.launching

theorem SameOps.refl (tl : Tile) : SameOps tl tl := ⟨rfl, rfl, rfl, rfl⟩

theorem SameOps.trans {a b c : Tile} (h : SameOps a b) (k : SameOps b c) : SameOps a c :=
  ⟨k.cur.trans h.cur, k.haulQ.trans h.haulQ, k.haulStore.trans h.haulStore, k.launching.trans h.launching⟩

theorem Tile.keepLine_sameOps (tl : Tile) (l : Nat) : SameOps tl (tl.keepLine l) := by
  unfold Tile.keepLine
  split
  · exact ⟨rfl, rfl, rfl, rfl⟩
  · exact .refl tl

theorem Tile.put_sameOps {tl t : Tile} {a : Nat} {bs : List Byte} (h : tl.put a bs = some t) : SameOps tl t := by
  unfold Tile.put at h
  split at h
  · obtain rfl := Option.some.inj h
    have hk := tl.keepLine_sameOps (a / 64)
    exact ⟨hk.cur, hk.haulQ, hk.haulStore, hk.launching⟩
  · exact nomatch h

theorem Tile.perform_sameOps (tl : Tile) (h : HeldStore) : SameOps tl (tl.perform h) := by
  unfold Tile.perform
  split
  · exact .refl tl
  · next t ht =>
    have hp := Tile.put_sameOps ht
    exact ⟨hp.cur, hp.haulQ, hp.haulStore, hp.launching⟩

/-- Stores of a list that perform, whichever of them do, leave the operations alone. -/
theorem foldl_perform_sameOps (p : Tile × List HeldStore → HeldStore → Bool) (l : List HeldStore) (q : Tile × List HeldStore) :
    SameOps q.1 (l.foldl (fun q h => if p q h then (q.1, q.2 ++ [h]) else (q.1.perform h, q.2)) q).1 := by
  induction l generalizing q with
  | nil => exact .refl q.1
  | cons h l ih =>
    rw [List.foldl_cons]
    refine SameOps.trans ?_ (ih _)
    split
    · exact .refl q.1
    · exact q.1.perform_sameOps h

theorem State.flush_sameOps (s : State) (u : Nat) : SameOps (s.tile u) ((s.flush u).tile u) := by
  unfold State.flush
  dsimp only
  split
  · exact .refl _
  · rw [State.tile_setTile_self]
    obtain ⟨hc, hq, hs, hl⟩ := foldl_perform_sameOps (fun q h => !clearOf (s.openWrites u h.agent h.pos) (h.addr / 16) ||
      q.2.any fun g => decide (g.agent = h.agent) && decide (g.addr / 16 = h.addr / 16)) (s.tile u).held (s.tile u, [])
    exact ⟨hc, hq, hs, hl⟩

/-- A tile whose agents alone changed. -/
structure SameHaul (tl t : Tile) : Prop where
  haulQ : t.haulQ = tl.haulQ
  haulStore : t.haulStore = tl.haulStore
  launching : t.launching = tl.launching

theorem SameHaul.trans {a b c : Tile} (h : SameHaul a b) (k : SameHaul b c) : SameHaul a c :=
  ⟨k.haulQ.trans h.haulQ, k.haulStore.trans h.haulStore, k.launching.trans h.launching⟩

theorem State.setAgent_sameHaul (s : State) (u : Nat) (a : Fin 10) (f : Tile → Agent) :
    SameHaul (s.tile u) ((s.modTile u fun tl => tl.setAgent a (f tl)).tile u) := by
  rw [State.modTile_tile_self]
  exact ⟨rfl, rfl, rfl⟩

theorem State.wakeDrain_sameHaul (s : State) (u : Nat) (a : Fin 10) : SameHaul (s.tile u) ((s.wakeDrain u a).tile u) := by
  obtain ⟨-, hq, hs, hl⟩ := s.flush_sameOps u
  refine SameHaul.trans ⟨hq, hs, hl⟩ ?_
  unfold State.wakeDrain
  dsimp only
  split
  · exact State.setAgent_sameHaul ..
  · exact State.of_ite (P := fun r => SameHaul _ (r.tile u)) (State.setAgent_sameHaul ..) ⟨rfl, rfl, rfl⟩
  · exact ⟨rfl, rfl, rfl⟩

theorem Agent.unstalled_st (g : Agent) : g.unstalled.st = g.st := by
  unfold Agent.unstalled
  split
  · rfl
  · rfl

theorem Agent.unstalled_deferred (g : Agent) : g.unstalled.deferred = g.deferred := by
  unfold Agent.unstalled
  split
  · rfl
  · rfl

/-- An agent in RUN goes on so when it is woken, its deferred cause as before. -/
theorem State.wakeDrain_run {s : State} {u : Nat} {a : Fin 10} (h : (s.agentOf (.tile u a)).st = .run) :
    ((s.wakeDrain u a).agentOf (.tile u a)).st = .run ∧
      ((s.wakeDrain u a).agentOf (.tile u a)).deferred = (s.agentOf (.tile u a)).deferred := by
  have hc := congrArg (fun x : TileVer => x.agents[a]) (s.flush_sameOps u).cur
  have hr : (((s.flush u).tile u).cur.agents[a]).st = .run := (congrArg Agent.st hc).trans h
  have he : s.wakeDrain u a = (s.flush u).setAgentOf (.tile u a) ((s.flush u).agentOf (.tile u a)).unstalled := by
    simp only [State.wakeDrain, hr]
    rfl
  rw [he, State.agentOf_setAgentOf_self, Agent.unstalled_st, Agent.unstalled_deferred]
  exact ⟨hr, congrArg Agent.deferred hc⟩

theorem State.deferTo_sameHaul (s : State) (u : Nat) (a : Fin 10) (code : Nat) (va : W) :
    SameHaul (s.tile u) ((s.deferTo u a code va).tile u) := by
  have hrec : SameHaul (s.tile u) ((s.modTile u fun tl => tl.record ⟨code, none⟩).tile u) := by
    rw [State.modTile_tile_self]
    exact ⟨rfl, rfl, rfl⟩
  unfold State.deferTo
  dsimp only
  split
  · exact hrec
  · exact hrec
  · exact hrec
  · exact s.setAgent_sameHaul ..

theorem State.deferTo_run {s : State} {u : Nat} {a : Fin 10} (h : (s.agentOf (.tile u a)).st = .run)
    (hd : (s.agentOf (.tile u a)).deferred = none) (code : Nat) (va : W) :
    ((s.deferTo u a code va).agentOf (.tile u a)).deferred = some ⟨code, va⟩ := by
  have he : s.deferTo u a code va = s.setAgentOf (.tile u a) ((s.agentOf (.tile u a)).defer code va) := by
    have hr : ((s.tile u).cur.agents[a]).st = .run := h
    simp only [State.deferTo, hr]
    rfl
  rw [he, State.agentOf_setAgentOf_self]
  simp only [Agent.defer, hd]

/-- What the delivery of a cause to a tile's haul hart leaves (R378, R435). -/
theorem State.deliverHaul_sameHaul (s : State) (u code : Nat) (va : W) : SameHaul (s.tile u) ((s.deliverHaul u code va).tile u) := by
  unfold State.deliverHaul
  split
  · rw [State.modTile_tile_self]
    exact ⟨rfl, rfl, rfl⟩
  · exact s.deferTo_sameHaul ..

theorem State.deliverHaul_launching {s : State} {u : Nat} (h : (s.tile u).launching = true) (code : Nat) (va : W) :
    ⟨code, none⟩ ∈ ((s.deliverHaul u code va).tile u).recorded := by
  rw [State.deliverHaul, if_pos h, State.modTile_tile_self]
  simp only [Tile.record]
  split
  · next hc => exact List.contains_iff_mem.mp hc
  · exact List.mem_append_right _ (List.mem_singleton_self _)

end Sys2Proof.Machine
end

/-! Fault records resumed (R374, R378). -/
section
namespace Sys2Proof.Machine

/-! ## An operation restarted or gone (R374, R378) -/

theorem Tile.replay_haulQ (tl : Tile) (k : Nat) (p : Prop) [Decidable p] (cursor : Nat) :
    (tl.replay k (decide p) cursor).haulQ = tl.haulQ.map fun o => if o.fslot = some k then
      { o with status := .running, cursor := if p then o.chunkOf cursor else o.cursor, fslot := none } else o := by
  simp only [Tile.replay, decide_eq_true_eq]

theorem Tile.promote_same (tl : Tile) : tl.promote.cur = tl.cur ∧ tl.promote.launching = tl.launching := by
  unfold Tile.promote
  split
  · split
    · exact ⟨rfl, rfl⟩
    · exact ⟨rfl, rfl⟩
  · exact ⟨rfl, rfl⟩

/-- A move into the store binds no operation to another slot. -/
theorem Tile.promote_fslot {tl : Tile} {k : Nat} (h : ∀ o ∈ tl.haulQ ++ tl.haulStore, o.fslot ≠ some k) :
    ∀ o ∈ tl.promote.haulQ ++ tl.promote.haulStore, o.fslot ≠ some k := by
  unfold Tile.promote
  split
  · next x hx =>
    split
    · intro o ho
      simp only [Tile.dropOp, List.mem_append, List.mem_filter, List.mem_singleton] at ho
      rcases ho with ⟨ho, -⟩ | ho | rfl
      · exact h o (List.mem_append_left _ ho)
      · exact h o (List.mem_append_right _ ho)
      · exact h x (List.mem_append_left _ (List.mem_of_find?_eq_some hx))
    · exact h
  · exact h

theorem Tile.dropSuspended_fslot (tl : Tile) (k : Nat) :
    ∀ o ∈ (tl.dropSuspended k).haulQ ++ (tl.dropSuspended k).haulStore, o.fslot ≠ some k := by
  intro o ho
  simp only [Tile.dropSuspended, List.mem_append, List.mem_filter, decide_eq_true_eq] at ho
  rcases ho with ho | ho
  · exact ho.2
  · exact ho.2

theorem Tile.dropSuspended_promote {tl : Tile} (k : Nat) (h : ∀ o ∈ tl.haulQ, o.status ≠ .storing) :
    (tl.dropSuspended k).promote = tl.dropSuspended k :=
  Tile.promote_of_none fun o ho => h o (List.mem_of_mem_filter ho)

theorem SameHaul.gone {tl t : Tile} {k : Nat} (h : SameHaul (tl.dropSuspended k).promote t) :
    (∀ o ∈ t.haulQ ++ t.haulStore, o.fslot ≠ some k) ∧
      ((∀ o ∈ tl.haulQ, o.status ≠ .storing) → t.haulQ = tl.haulQ.filter (fun o => decide (o.fslot ≠ some k)) ∧
        t.haulStore = tl.haulStore.filter fun o => decide (o.fslot ≠ some k)) := by
  obtain ⟨hq, hs, -⟩ := h
  refine ⟨?_, fun hn => ?_⟩
  · rw [hq, hs]
    exact Tile.promote_fslot (Tile.dropSuspended_fslot tl k)
  · have hp := Tile.dropSuspended_promote k hn
    exact ⟨hq.trans (congrArg Tile.haulQ hp), hs.trans (congrArg Tile.haulStore hp)⟩

/-! ## Parked strands -/

section strand
variable {s : State} {u n : Nat} (h : n < 10)
include h

theorem ofNat_ten_of_lt : Fin.ofNat 10 n = ⟨n, h⟩ := Fin.ext (Nat.mod_eq_of_lt h)

theorem State.unpark_park (f : Agent → Agent) (hp : (s.agentOf (.tile u (Fin.ofNat 10 n))).st = .park) :
    (s.unpark u n f).agentOf (.tile u (Fin.ofNat 10 n)) =
      { f (s.agentOf (.tile u (Fin.ofNat 10 n))) with st := .ready } := by
  rw [ofNat_ten_of_lt h] at hp ⊢
  have he : s.unpark u n f = s.setAgentOf (.tile u ⟨n, h⟩) { f (s.agentOf (.tile u ⟨n, h⟩)) with st := .ready } := by
    have hr : ((s.tile u).cur.agents[n]'h).st = .park := hp
    simp only [State.unpark, dif_pos h, State.modTile, hr]
    rfl
  rw [he, State.agentOf_setAgentOf_self]

end strand

/-! ## The record after a resume -/

section resume
variable {s : State} {d : Nat} {c : Fin 2} {v : W}

/-- What every resume that frees the slot leaves, but for the tile of the record. -/
def Freed (s : State) (d : Nat) (v : W) (t : State) : Prop :=
  t.agentOf s.turn = s.me.past ∧ (t.die d).mc.busySlots = natErase (s.die d).mc.busySlots ((s.die d).mc.resSlot v) ∧
    (t.die d).mc.fq0 = natErase (s.die d).mc.fq0 ((s.die d).mc.resSlot v) ∧
    (t.die d).mc.fq1 = natErase (s.die d).mc.fq1 ((s.die d).mc.resSlot v) ∧
    t.hbmNat (modOfDie d) (resPa v) 8 = s.recWord d v - 2 ^ 63 ∧
    ∀ w, w ≠ recTile (s.recWord d v) → t.tile w = s.tile w

/-- What every resume that hands the record over leaves, but for the tile of the record. -/
def Passed (s : State) (d : Nat) (v : W) (t : State) : Prop :=
  t.agentOf s.turn = s.me.past ∧ (t.die d).mc.fq1 = (s.die d).mc.fq1 ++ [(s.die d).mc.resSlot v] ∧
    (t.die d).mc.fq0 = natErase (s.die d).mc.fq0 ((s.die d).mc.resSlot v) ∧
    t.hbmNat (modOfDie d) (resPa v) 8 = s.recWord d v - s.recWord d v % 256 + 0x08 + 2 ^ 61 ∧
    ∀ w, w ≠ recTile (s.recWord d v) → t.tile w = s.tile w

theorem State.setHbm_agentOf (s : State) (m pa : Nat) (bs : List Byte) (w : Who) : (s.setHbm m pa bs).agentOf w = s.agentOf w :=
  s.modModule_agentOf ..

/-- A service core goes on after a record was rewritten and the tile of the record changed: what the memory controller, the record and
every tile hold then. -/
theorem State.doneNop_of_recWrite (hs : s.turn = .svc d c) {w u : Nat} (hw : w < 2 ^ 64) {f : MemCtl → MemCtl} {s2 : State}
    (h : TileOnly u (s.recWrite d v w f) s2) :
    ∃ t, s2.doneNop = .next t ∧ t.agentOf s.turn = s.me.past ∧ (t.die d).mc = f (s.die d).mc ∧ t.hbmNat (modOfDie d) (resPa v) 8 = w ∧
      (∀ x, t.tile x = s2.tile x) ∧ ∀ x, x ≠ u → t.tile x = s.tile x := by
  obtain ⟨h1, h2, h3, h4⟩ := h
  have ha : s2.agentOf s.turn = s.me := by
    have hw : (s.recWrite d v w f).agentOf s.turn = s.me := (State.modMc_agentOf ..).trans (State.setHbm_agentOf ..)
    rw [hs] at hw ⊢
    exact (congrArg (fun l => ((kvGet Die.reset l d).svc[c]).agent) h2).trans hw
  obtain ⟨t, he, ho⟩ := State.doneNop_from (s := s) h1 ha
  refine ⟨t, he, ho.agent, ?_⟩
  rw [hs] at ho
  refine ⟨?_, ?_, ho.svc_tile, fun x hx => (ho.svc_tile x).trans (h4 x hx)⟩
  · exact (ho.svc_mc d).trans ((congrArg (fun l => (kvGet Die.reset l d).mc) h2).trans (State.modMc_mc_self ..))
  · have hm : (s2.module (modOfDie d)).hbm = (s.module (modOfDie d)).hbm.write (resPa v) (leBytes 8 w) :=
      (congrArg (fun l => (kvGet Module.reset l (modOfDie d)).hbm) h3).trans
        (congrArg Module.hbm (s.modModule_module_self (modOfDie d) fun x => { x with
          hbm := x.hbm.write (resPa v) (leBytes 8 w), badHbm := badAfter 8 x.badHbm (resPa v) (leBytes 8 w).length }))
    rw [State.hbmNat, ho.module, hm]
    exact Memory.nat_write_leBytes _ _ hw

theorem freed_of_tileOnly (hs : s.turn = .svc d c) (hv : s.recWord d v / 2 ^ 63 % 2 = 1) {s2 : State}
    (h : TileOnly (recTile (s.recWord d v)) (s.recFreed d v) s2) :
    ∃ t, s2.doneNop = .next t ∧ Freed s d v t ∧ ∀ x, t.tile x = s2.tile x := by
  have hr : s.recWord d v % 2 ^ 63 = s.recWord d v - 2 ^ 63 := by
    have hl := s.hbmNat_lt (modOfDie d) (resPa v)
    simp only [State.recWord] at *
    omega
  obtain ⟨t, he, hg, hm, hn, ht, hu⟩ := State.doneNop_of_recWrite hs (by omega) h
  refine ⟨t, he, ⟨hg, ?_, ?_, ?_, hn.trans hr, hu⟩, ht⟩
  · rw [hm]
    rfl
  · rw [hm]
    rfl
  · rw [hm]
    rfl

theorem passed_of_tileOnly (hs : s.turn = .svc d c) (hq : s.recWord d v / 2 ^ 61 % 2 = 0) {s2 : State}
    (h : TileOnly (recTile (s.recWord d v)) (s.recPassed d v) s2) :
    ∃ t, s2.doneNop = .next t ∧ Passed s d v t ∧ ∀ x, t.tile x = s2.tile x := by
  have hr : s.recWord d v - s.recWord d v % 256 + 0x08 + 2 ^ 61 < 2 ^ 64 := by
    have hl := s.hbmNat_lt (modOfDie d) (resPa v)
    simp only [State.recWord] at *
    omega
  obtain ⟨t, he, hg, hm, hn, ht, hu⟩ := State.doneNop_of_recWrite hs hr h
  refine ⟨t, he, ⟨hg, ?_, ?_, hn, hu⟩, ht⟩
  · rw [hm]
  · rw [hm]

/-! ### A strand's record -/

section strand
variable (hs : s.turn = .svc d c) (hh : recHaul (s.recWord d v) = false) (ha : recAgent (s.recWord d v) < 10)

include hs ha

/-- The strand of the record leaves PARK with the context `f` makes of its own. -/
theorem unpark_strand (hv : s.recWord d v / 2 ^ 63 % 2 = 1) (hp : (s.agentOf (s.recWho d v)).st = .park) (f : Agent → Agent) :
    ∃ t, ((s.recFreed d v).unpark (recTile (s.recWord d v)) (recAgent (s.recWord d v)) f).doneNop = .next t ∧ Freed s d v t ∧
      t.agentOf (s.recWho d v) = { f (s.agentOf (s.recWho d v)) with st := .ready } := by
  obtain ⟨t, he, hf, ht⟩ := freed_of_tileOnly hs hv ((s.recFreed d v).unpark_tileOnly (recTile (s.recWord d v)) (recAgent (s.recWord d v)) f)
  exact ⟨t, he, hf, (congrArg (fun x : Tile => x.cur.agents[Fin.ofNat 10 (recAgent (s.recWord d v))]) (ht _)).trans
    (State.unpark_park (s := s.recFreed d v) ha f hp)⟩

include hh

theorem recRestart_strand (hv : s.recWord d v / 2 ^ 63 % 2 = 1) (hp : (s.agentOf (s.recWho d v)).st = .park) :
    ∃ t, (s.recRestart d v).doneNop = .next t ∧ Freed s d v t ∧
      t.agentOf (s.recWho d v) = { s.agentOf (s.recWho d v) with st := .ready } := by
  rw [State.recRestart, hh, if_neg Bool.false_ne_true]
  exact unpark_strand hs ha hv hp fun g => g

theorem recDeliver_strand (hv : s.recWord d v / 2 ^ 63 % 2 = 1) (hp : (s.agentOf (s.recWho d v)).st = .park)
    (hd : (s.agentOf (s.recWho d v)).deferred = none) :
    ∃ t, (s.recDeliver d v).doneNop = .next t ∧ Freed s d v t ∧
      t.agentOf (s.recWho d v) = { s.agentOf (s.recWho d v) with st := .ready, deferred := some ⟨resCode v, s.recVa d v⟩ } := by
  rw [State.recDeliver, hh, if_neg Bool.false_ne_true]
  obtain ⟨t, he, hf, hg⟩ := unpark_strand hs ha hv hp fun g => g.defer (resCode v) (s.recVa d v)
  refine ⟨t, he, hf, hg.trans ?_⟩
  simp only [Agent.defer, hd]

theorem recHandOver_strand (hq : s.recWord d v / 2 ^ 61 % 2 = 0) :
    ∃ t, (s.recHandOver d v).doneNop = .next t ∧ Passed s d v t ∧
      t.agentOf (s.recWho d v) = { s.agentOf (s.recWho d v) with causeCode := 0x08 } := by
  have hx : s.recHandOver d v = (s.recPassed d v).setAgentOf (s.recWho d v) { s.agentOf (s.recWho d v) with causeCode := 0x08 } := by
    rw [State.recHandOver, dif_pos ⟨hh, ha⟩, State.recWho, ofNat_ten_of_lt ha]
    rfl
  rw [hx]
  obtain ⟨t, he, hp, ht⟩ := passed_of_tileOnly hs hq ((s.recPassed d v).modTile_tileOnly (recTile (s.recWord d v)) fun tl =>
    tl.setAgent (Fin.ofNat 10 (recAgent (s.recWord d v))) { s.agentOf (s.recWho d v) with causeCode := 0x08 })
  exact ⟨t, he, hp, (congrArg (fun x : Tile => x.cur.agents[Fin.ofNat 10 (recAgent (s.recWord d v))]) (ht _)).trans
    (State.agentOf_setAgentOf_self (s.recPassed d v) (s.recWho d v) _)⟩

end strand

/-! ### The record of an operation of the haul core -/

section haul
variable (hs : s.turn = .svc d c) (hh : recHaul (s.recWord d v) = true)
include hs hh

theorem recRestart_haul (hv : s.recWord d v / 2 ^ 63 % 2 = 1) :
    ∃ t, (s.recRestart d v).doneNop = .next t ∧ Freed s d v t ∧
      t.tile (recTile (s.recWord d v)) = (s.tile (recTile (s.recWord d v))).replay ((s.die d).mc.resSlot v)
        (s.recWord d v / 2 ^ 15 % 2 = 1) (s.recCursor d v) := by
  rw [State.recRestart, if_pos hh]
  obtain ⟨t, he, hf, ht⟩ := freed_of_tileOnly hs hv ((s.recFreed d v).modTile_tileOnly (recTile (s.recWord d v)) fun tl =>
    tl.replay ((s.die d).mc.resSlot v) (s.recWord d v / 2 ^ 15 % 2 = 1) (s.recCursor d v))
  exact ⟨t, he, hf, (ht _).trans (State.modTile_tile_self ..)⟩

theorem recHandOver_haul (hq : s.recWord d v / 2 ^ 61 % 2 = 0) :
    ∃ t, (s.recHandOver d v).doneNop = .next t ∧ Passed s d v t ∧ t.tile (recTile (s.recWord d v)) = s.tile (recTile (s.recWord d v)) := by
  rw [State.recHandOver, dif_neg (by simp [hh])]
  obtain ⟨t, he, hp, ht⟩ := passed_of_tileOnly hs hq (.refl _ _)
  exact ⟨t, he, hp, ht _⟩

theorem recDeliver_haul (hv : s.recWord d v / 2 ^ 63 % 2 = 1) :
    ∃ t, (s.recDeliver d v).doneNop = .next t ∧ Freed s d v t ∧
      SameHaul ((s.tile (recTile (s.recWord d v))).dropSuspended ((s.die d).mc.resSlot v)).promote (t.tile (recTile (s.recWord d v))) ∧
      ((s.tile (recTile (s.recWord d v))).launching = true → ⟨resCode v, none⟩ ∈ (t.tile (recTile (s.recWord d v))).recorded) ∧
      ((s.tile (recTile (s.recWord d v))).launching = false → (s.agentOf (.tile (recTile (s.recWord d v)) 8)).st = .run →
        (s.agentOf (.tile (recTile (s.recWord d v)) 8)).deferred = none →
        (t.agentOf (.tile (recTile (s.recWord d v)) 8)).deferred = some ⟨resCode v, s.recVa d v⟩) := by
  rw [State.recDeliver, if_pos hh]
  generalize hu : recTile (s.recWord d v) = u
  let s1 := (s.recFreed d v).modTile u fun tl => (tl.dropSuspended ((s.die d).mc.resSlot v)).promote
  let s2 := s1.wakeDrain u 8
  have h1 : s1.tile u = ((s.tile u).dropSuspended ((s.die d).mc.resSlot v)).promote := State.modTile_tile_self ..
  have hp := ((s.tile u).dropSuspended ((s.die d).mc.resSlot v)).promote_same
  have h2 : SameHaul (s1.tile u) (s2.tile u) := s1.wakeDrain_sameHaul u 8
  have hl : (s2.tile u).launching = (s.tile u).launching := h2.launching.trans ((congrArg Tile.launching h1).trans hp.2)
  have hg : s1.agentOf (.tile u 8) = s.agentOf (.tile u 8) :=
    congrArg (fun x : TileVer => x.agents[(8 : Fin 10)]) ((congrArg Tile.cur h1).trans hp.1)
  have ho : TileOnly (recTile (s.recWord d v)) (s.recFreed d v) (s2.deliverHaul u (resCode v) (s.recVa d v)) := by
    rw [hu]
    exact ((s.recFreed d v).modTile_tileOnly u _).trans ((s1.wakeDrain_tileOnly u 8).trans (s2.deliverHaul_tileOnly ..))
  obtain ⟨t, he, hf, ht⟩ := freed_of_tileOnly hs hv ho
  refine ⟨t, he, hf, ?_, fun hx => ?_, fun hx hr hd => ?_⟩
  · rw [ht, ← h1]
    exact h2.trans (s2.deliverHaul_sameHaul ..)
  · rw [ht]
    exact State.deliverHaul_launching (hl.trans hx) _ _
  · obtain ⟨hr2, hd2⟩ := State.wakeDrain_run ((congrArg Agent.st hg).trans hr)
    have hd' := State.deferTo_run hr2 (hd2.trans ((congrArg Agent.deferred hg).trans hd)) (resCode v) (s.recVa d v)
    have hx' : s2.deliverHaul u (resCode v) (s.recVa d v) = s2.deferTo u 8 (resCode v) (s.recVa d v) := by
      rw [State.deliverHaul, if_neg (by simp [hl, hx])]
    rw [← hx'] at hd'
    exact (congrArg (fun x : Tile => x.cur.agents[(8 : Fin 10)].deferred) (ht u)).trans hd'

end haul

/-! ### Whether a record is resumed -/

/-- The record, whose first dword is `r`, is of the core's queue, and may be resumed as the word says (R378). -/
def mayResume (c : Fin 2) (v : W) (r : Nat) : Prop :=
  r / 2 ^ 61 % 2 = c.val ∧ ¬(resAct v = 1 ∧ r / 2 ^ 61 % 2 = 1) ∧
    (resAct v = 2 → resCode v ∈
      [0x01, 0x02, 0x03, 0x04, 0x05, 0x07, 0x09, 0x0A, 0x0B, 0x0C, 0x0D, 0x0E, 0x0F, 0x10, 0x11, 0x12, 0x17, 0x18, 0x19])

theorem mayResume_iff (c : Fin 2) (v : W) (r : Nat) : mayResume c v r ↔
    ¬(r / 2 ^ 61 % 2 ≠ c.val ∨ resAct v = 1 ∧ r / 2 ^ 61 % 2 = 1 ∨ resAct v = 2 ∧ deliverable (resCode v) = false) := by
  rw [mayResume, ← deliverable_iff, ← Bool.not_eq_true]
  tauto

/-- The slot holds a record that the core's `fqpop` did not give out, after one of another region that it did (R1). -/
def State.again (s : State) (d : Nat) (c : Fin 2) (k : Nat) : Prop :=
  k ∈ (s.die d).mc.queueOf c ∧
    kvGet (s.tile (kvGet 0 (s.die d).mc.slotTiles k)).region.toNat (s.die d).mc.popped (2 * k + c.val) ≠
      (s.tile (kvGet 0 (s.die d).mc.slotTiles k)).region.toNat

theorem State.stale_iff (s : State) (d : Nat) (c : Fin 2) (k : Nat) : s.stale d c.val k = true ↔ s.again d c k := by
  have hc : (c.val = 0) = (c = 0) := propext (Fin.ext_iff (b := 0)).symm
  simp only [State.stale, State.again, MemCtl.queueOf, hc, Bool.and_eq_true, List.contains_iff_mem, decide_eq_true_eq]

section word
variable {a : BitVec 5} (hs : s.turn = .svc d c) (h : Readable s d (s.rx a))
include hs h

theorem fqres_unright (hr : ¬mayResume c (s.rx a) (s.recWord d (s.rx a))) : Traps (.fqres a) s 0x07 (s.rx a) := by
  rw [Traps, exec_fqres hs a h, if_pos (not_not.mp ((mayResume_iff ..).not.mp hr))]
  exact s.trap_does _ _

variable (hr : mayResume c (s.rx a) (s.recWord d (s.rx a)))
include hr

theorem fqres_no_effect (hi : s.recWord d (s.rx a) / 2 ^ 63 % 2 = 0 ∨ s.again d c ((s.die d).mc.resSlot (s.rx a))) :
    ∃ t, exec (.fqres a) s = .next t ∧ t.agentOf s.turn = s.me.past ∧ (∀ w, w ≠ s.turn → t.agentOf w = s.agentOf w) ∧
      (∀ u, t.tile u = s.tile u) ∧ (∀ n, t.module n = s.module n) ∧ ∀ e, (t.die e).mc = (s.die e).mc := by
  rw [exec_fqres hs a h, if_neg ((mayResume_iff ..).mp hr), if_pos (by rwa [State.stale_iff])]
  obtain ⟨t, he, ho⟩ := State.doneNop_from (s := s) (s1 := { s with free := s.free + 1 }) rfl rfl
  refine ⟨t, he, ho.agent, fun w hw => ?_, ?_, ho.module, ?_⟩
  all_goals rw [hs] at ho
  · exact ho.svc_agentOf_ne (hs ▸ hw)
  · exact ho.svc_tile
  · exact ho.svc_mc

variable (hv : s.recWord d (s.rx a) / 2 ^ 63 % 2 = 1) (hi : ¬s.again d c ((s.die d).mc.resSlot (s.rx a)))
include hv hi

/-- A valid record that may be resumed is resumed as `ACT` says. -/
theorem exec_fqres_resumes : exec (.fqres a) s =
    if resAct (s.rx a) = 1 then ({ s with free := s.free + 1 }.recHandOver d (s.rx a)).doneNop
    else if resAct (s.rx a) = 0 then ({ s with free := s.free + 1 }.recRestart d (s.rx a)).doneNop
    else ({ s with free := s.free + 1 }.recDeliver d (s.rx a)).doneNop := by
  have hn : ¬(s.recWord d (s.rx a) / 2 ^ 63 % 2 = 0 ∨ s.stale d c.val ((s.die d).mc.resSlot (s.rx a)) = true) := by
    rw [State.stale_iff, hv]
    simpa using hi
  rw [exec_fqres hs a h, if_neg ((mayResume_iff ..).mp hr), if_neg hn]

theorem exec_fqres_handOver (ha : resAct (s.rx a) = 1) :
    exec (.fqres a) s = ({ s with free := s.free + 1 }.recHandOver d (s.rx a)).doneNop := by
  rw [exec_fqres_resumes hs h hr hv hi, if_pos ha]

theorem exec_fqres_restart (ha : resAct (s.rx a) = 0) :
    exec (.fqres a) s = ({ s with free := s.free + 1 }.recRestart d (s.rx a)).doneNop := by
  rw [exec_fqres_resumes hs h hr hv hi, if_neg (by simp [ha]), if_pos ha]

theorem exec_fqres_deliver (ha : resAct (s.rx a) = 2) :
    exec (.fqres a) s = ({ s with free := s.free + 1 }.recDeliver d (s.rx a)).doneNop := by
  rw [exec_fqres_resumes hs h hr hv hi, if_neg (by simp [ha]), if_neg (by simp [ha])]

omit hs h hv hi in
/-- `ACT` 1 is for records of queue 0. -/
theorem queue_of_handOver (ha : resAct (s.rx a) = 1) : s.recWord d (s.rx a) / 2 ^ 61 % 2 = 0 := by
  obtain ⟨-, hq, -⟩ := hr
  exact (Nat.mod_two_eq_zero_or_one _).resolve_right fun h1 => hq ⟨ha, h1⟩

theorem fqres_restart_strand (ha : resAct (s.rx a) = 0) (hz : recHaul (s.recWord d (s.rx a)) = false)
    (hn : recAgent (s.recWord d (s.rx a)) < 10) (hp : (s.agentOf (s.recWho d (s.rx a))).st = .park) :
    ∃ t, exec (.fqres a) s = .next t ∧ Freed s d (s.rx a) t ∧
      t.agentOf (s.recWho d (s.rx a)) = { s.agentOf (s.recWho d (s.rx a)) with st := .ready } := by
  rw [exec_fqres_restart hs h hr hv hi ha]
  exact recRestart_strand (s := { s with free := s.free + 1 }) hs hz hn hv hp

theorem fqres_handOver_strand (ha : resAct (s.rx a) = 1) (hz : recHaul (s.recWord d (s.rx a)) = false)
    (hn : recAgent (s.recWord d (s.rx a)) < 10) :
    ∃ t, exec (.fqres a) s = .next t ∧ Passed s d (s.rx a) t ∧
      t.agentOf (s.recWho d (s.rx a)) = { s.agentOf (s.recWho d (s.rx a)) with causeCode := 0x08 } := by
  rw [exec_fqres_handOver hs h hr hv hi ha]
  exact recHandOver_strand (s := { s with free := s.free + 1 }) hs hz hn (queue_of_handOver hr ha)

theorem fqres_deliver_strand (ha : resAct (s.rx a) = 2) (hz : recHaul (s.recWord d (s.rx a)) = false)
    (hn : recAgent (s.recWord d (s.rx a)) < 10) (hp : (s.agentOf (s.recWho d (s.rx a))).st = .park)
    (hd : (s.agentOf (s.recWho d (s.rx a))).deferred = none) :
    ∃ t, exec (.fqres a) s = .next t ∧ Freed s d (s.rx a) t ∧ t.agentOf (s.recWho d (s.rx a)) =
      { s.agentOf (s.recWho d (s.rx a)) with st := .ready, deferred := some ⟨resCode (s.rx a), s.recVa d (s.rx a)⟩ } := by
  rw [exec_fqres_deliver hs h hr hv hi ha]
  exact recDeliver_strand (s := { s with free := s.free + 1 }) hs hz hn hv hp hd

theorem fqres_restart_haul (ha : resAct (s.rx a) = 0) (hz : recHaul (s.recWord d (s.rx a)) = true) :
    ∃ t, exec (.fqres a) s = .next t ∧ Freed s d (s.rx a) t ∧
      t.tile (recTile (s.recWord d (s.rx a))) = (s.tile (recTile (s.recWord d (s.rx a)))).replay ((s.die d).mc.resSlot (s.rx a))
        (s.recWord d (s.rx a) / 2 ^ 15 % 2 = 1) (s.recCursor d (s.rx a)) := by
  rw [exec_fqres_restart hs h hr hv hi ha]
  exact recRestart_haul (s := { s with free := s.free + 1 }) hs hz hv

theorem fqres_handOver_haul (ha : resAct (s.rx a) = 1) (hz : recHaul (s.recWord d (s.rx a)) = true) :
    ∃ t, exec (.fqres a) s = .next t ∧ Passed s d (s.rx a) t ∧
      t.tile (recTile (s.recWord d (s.rx a))) = s.tile (recTile (s.recWord d (s.rx a))) := by
  rw [exec_fqres_handOver hs h hr hv hi ha]
  exact recHandOver_haul (s := { s with free := s.free + 1 }) hs hz (queue_of_handOver hr ha)

theorem fqres_deliver_haul (ha : resAct (s.rx a) = 2) (hz : recHaul (s.recWord d (s.rx a)) = true) :
    ∃ t, exec (.fqres a) s = .next t ∧ Freed s d (s.rx a) t ∧
      SameHaul ((s.tile (recTile (s.recWord d (s.rx a)))).dropSuspended ((s.die d).mc.resSlot (s.rx a))).promote
        (t.tile (recTile (s.recWord d (s.rx a)))) ∧
      ((s.tile (recTile (s.recWord d (s.rx a)))).launching = true →
        ⟨resCode (s.rx a), none⟩ ∈ (t.tile (recTile (s.recWord d (s.rx a)))).recorded) ∧
      ((s.tile (recTile (s.recWord d (s.rx a)))).launching = false → (s.agentOf (.tile (recTile (s.recWord d (s.rx a))) 8)).st = .run →
        (s.agentOf (.tile (recTile (s.recWord d (s.rx a))) 8)).deferred = none →
        (t.agentOf (.tile (recTile (s.recWord d (s.rx a))) 8)).deferred = some ⟨resCode (s.rx a), s.recVa d (s.rx a)⟩) := by
  rw [exec_fqres_deliver hs h hr hv hi ha]
  exact recDeliver_haul (s := { s with free := s.free + 1 }) hs hz hv

end word

end resume

/-- Settles O29: a resume changes the record, its slot and the tile that the record names; `Freed` and `Passed` say what stays. -/
theorem faultQueuesComplete : Obligations.FaultQueuesComplete := by
  intro s d k c f x a
  refine ⟨fun hf hk => ⟨s.afterPost d k f, exec_faultRecordPost hf hk, ⟨afterPost_record, afterPost_lost, afterPost_queues⟩,
    fun id l o r hi hq ho hu hs => afterPost_op hi hq ho hu hs⟩, fun hs => ⟨fqpop_empty hs x, fun rest => fqpop_oldest hs x,
    fqres_unwhole hs a, fun hw ha hb hk => ?_⟩⟩
  have h : Readable s d (s.rx a) := ⟨hw, ha, hb, hk⟩
  refine ⟨fqres_unright hs h, fqres_no_effect hs h, fun hr hv hi => ⟨fun hz hn => ?_, fun hz => ?_⟩⟩
  · have hh : recHaul (s.recWord d (s.rx a)) = false := decide_eq_false (not_not.mpr hz)
    have hm : recAgent (s.recWord d (s.rx a)) < 10 := Nat.lt_trans hn (by decide)
    exact ⟨fun h0 hp => fqres_restart_strand hs h hr hv hi h0 hh hm hp, fun h1 => fqres_handOver_strand hs h hr hv hi h1 hh hm,
      fun h2 hp hd => fqres_deliver_strand hs h hr hv hi h2 hh hm hp hd⟩
  · have hh : recHaul (s.recWord d (s.rx a)) = true := decide_eq_true hz
    refine ⟨fun h0 => ?_, fun h1 => fqres_handOver_haul hs h hr hv hi h1 hh, fun h2 => ?_⟩
    · obtain ⟨t, he, hf, ht⟩ := fqres_restart_haul hs h hr hv hi h0 hh
      exact ⟨t, he, hf, (congrArg Tile.haulQ ht).trans (Tile.replay_haulQ ..), congrArg Tile.haulStore ht⟩
    · obtain ⟨t, he, hf, hg, hl, hd⟩ := fqres_deliver_haul hs h hr hv hi h2 hh
      exact ⟨t, he, hf, hg.gone.1, hg.gone.2, hl, hd⟩

end Sys2Proof.Machine
end

/-! Trap entry (R117, R119) and the groups of the cores (R20). -/
section
namespace Sys2Proof.Machine

/-! ## The groups of R20 -/

/-- The groups of R20: the instructions of every core, and those that only some core types accept. -/
inductive Group where
  | any | work | haul | shape | tile | service
  deriving DecidableEq

/-- The group of an opcode. -/
def opGroup (op : Nat) : Group :=
  if op = 0x19 ∨ op = 0x26 ∨ 0x32 ≤ op ∧ op ≤ 0x34 ∨ 0x40 ≤ op ∧ op ≤ 0x53 ∨ 0x68 ≤ op ∧ op ≤ 0x6B then .work
  else if op = 0x35 ∨ 0x60 ≤ op ∧ op ≤ 0x65 ∨ 0x6C ≤ op ∧ op ≤ 0x6E then .haul
  else if 0x58 ≤ op ∧ op ≤ 0x5E then .shape
  else if op = 0x17 ∨ op = 0x18 ∨ op = 0x1A ∨ op = 0x27 ∨ op = 0x28 ∨ op = 0x30 ∨ op = 0x31 then .tile
  else if 0x70 ≤ op ∧ op ≤ 0x72 then .service
  else .any

/-- An instruction of a group goes on by `k` on a core that accepts it. -/
def State.inGroup (s : State) : Group → Nat → (State → Out) → Out
  | .any, _, k => k s
  | .work, word, k => s.onWork word k
  | .haul, word, k => s.onHaul word k
  | .shape, word, k => s.onShape word k
  | .tile, word, k => s.onTile word k
  | .service, word, k => s.onService word k

theorem pack_opcode (v : Nat) (l : List (Nat × Nat)) : pack ((7, v) :: l) % 128 = v % 128 := by
  simp [pack, Nat.add_mul_mod_self_left]

/-- A result that comes after the check of a group. -/
def AsGroup (s : State) (g : Group) (word : Nat) (o : Out) : Prop := ∃ k, o = s.inGroup g word k

section
variable {i : Instr} {s : State} {o : Out} {g : Group} {v w : Nat} {l : List (Nat × Nat)}

theorem group_of (he : encode i = some (pack ((7, v) :: l))) (hg : opGroup (v % 128) = g) (h : AsGroup s g (wordOf i) o)
    (hw : encode i = some w) : AsGroup s (opGroup (w % 128)) w o := by
  rw [show wordOf i = w by rw [wordOf, hw]; rfl] at h
  cases he.symm.trans hw
  rwa [pack_opcode, hg]

theorem any_of (he : encode i = some (pack ((7, v) :: l))) (hg : opGroup (v % 128) = .any) (hw : encode i = some w) :
    AsGroup s (opGroup (w % 128)) w o := group_of he hg ⟨fun _ => o, rfl⟩ hw

theorem noWord_of (he : encode i = none) (hw : encode i = some w) : AsGroup s (opGroup (w % 128)) w o := nomatch he.symm.trans hw

end

section
variable {s : State} {word : Nat} {k : State → Out}

theorem State.onWork_asGroup : AsGroup s .work word (s.onWork word k) := ⟨_, rfl⟩
theorem State.onHaul_asGroup : AsGroup s .haul word (s.onHaul word k) := ⟨_, rfl⟩
theorem State.onShape_asGroup : AsGroup s .shape word (s.onShape word k) := ⟨_, rfl⟩
theorem State.onTile_asGroup : AsGroup s .tile word (s.onTile word k) := ⟨_, rfl⟩
theorem State.onService_asGroup : AsGroup s .service word (s.onService word k) := ⟨_, rfl⟩

theorem State.vop_asGroup {rs : List (BitVec 5)} {d : BitVec 5} {f : State → VReg} :
    AsGroup s .work word (s.vop word rs d f) := State.onWork_asGroup
theorem State.viop_asGroup {d a b : BitVec 5} {w : BitVec 2} {f : Nat → Nat → Nat → Nat} :
    AsGroup s .work word (s.viop word d a b w f) := State.vop_asGroup
theorem State.vredX_asGroup {d a : BitVec 5} {f : VReg → W} :
    AsGroup s .work word (s.vredX word d a f) := State.onWork_asGroup
theorem State.bind_asGroup {out : Bool} {e a : BitVec 5} {k : BitVec 6} :
    AsGroup s .work word (s.bind word out e a k) := State.onWork_asGroup
theorem State.mmulIssue_asGroup {col : Bool} {e a : BitVec 5} {k : BitVec 4} :
    AsGroup s .work word (s.mmulIssue word col e a k) := State.onWork_asGroup
theorem State.maccIssue_asGroup {kind : MatKind} {a : BitVec 5} {claim : Bool} :
    AsGroup s .work word (s.maccIssue word kind a claim) := State.onWork_asGroup
theorem State.maccRecIssue_asGroup {kind : MatKind} {e a : BitVec 5} :
    AsGroup s .work word (s.maccRecIssue word kind e a) := State.onWork_asGroup
theorem State.ffIssue_asGroup {kind : FfKind} {rc : Rec} {x : W} {k : BitVec 6} :
    AsGroup s .work word (s.ffIssue word kind rc x k) := State.onWork_asGroup
theorem State.shapeIssue_asGroup {kind : ShapeKind} {e a : BitVec 5} {p : W} {k : BitVec 6} :
    AsGroup s .shape word (s.shapeIssue word kind e a p k) := State.onShape_asGroup
theorem State.hredIssue_asGroup {f : Nat} {e a : BitVec 5} {k : BitVec 6} :
    AsGroup s .haul word (s.hredIssue word f e a k) := State.onHaul_asGroup
theorem State.colIssue_asGroup {f : Nat} {e a b : BitVec 5} {k : BitVec 6} :
    AsGroup s .haul word (s.colIssue word f e a b k) := State.onHaul_asGroup

end

/-- An instruction makes the check of the group of its opcode first, with its own word. -/
theorem exec_asGroup {i : Instr} {w : Nat} (h : encode i = some w) (s : State) : AsGroup s (opGroup (w % 128)) w (exec i s) := by
  unfold exec
  cases i with
  | add | sub | and | or | xor | andn | sll | srl | sra | ror | mul | mulhS | mulhN | divS | divN | remS | remN | minS | minN | maxS
  | maxN | clz | ctz | popc | mod31 | addi | andi | ori | xori | slli | srli | srai | rori | lih | addpc | pcmp | pcmpi | pand | por
  | pxor | pandn | porn | pxnor | ldS8 | ldN8 | ldS16 | ldN16 | ldS32 | ldN32 | ld64 | st8 | st16 | st32 | st64 | br | jal | jalr
  | nop | yield | exit | trap | eret | fence | fenceAcq | fenceRel | csrr | csrw | brk => exact any_of rfl rfl h
  | ldfe | stfe | ldb | stb | semv | semp | sempt | semset | semget | bld | bst | sync | ssqNum | ssqOut | ssqRed | ssqTry | ssqRel => exact group_of rfl rfl State.onTile_asGroup h
  | gld | spawn | send | recv | recvAny | rspawn | vld | vst | vlds | vsts | vgath | vscat | vstreamEnd | mcfg | mwld => exact group_of rfl rfl State.onWork_asGroup h
  | xsend | xrecv | stage | copy | hld | hst | hfence | cgrp | crank | cpart | croute | cmark => exact group_of rfl rfl State.onHaul_asGroup h
  | vaddF | vsubF | vmulF | vminF | vmaxF | vabsF | vneg | vcvt | vcvti | vcvtf | vabsI | vfma | vfnma | vcmpI | vcmpF | vsel
  | vperm | vbcast | vmov | vmovToLane | vexp2 | vlog2 | vrcp | vrsq => exact group_of rfl rfl State.vop_asGroup h
  | vaddI | vsubI | vmulI | vminS | vminN | vmaxS | vmaxN | vand | vor | vxor | vsll | vsrl | vsra | vaddsS | vaddsN | vsubsS
  | vsubsN => exact group_of rfl rfl State.viop_asGroup h
  | vredFadd | vredFmin | vredFmax | vredAdd | vredMinS | vredMaxS | vmovToX => exact group_of rfl rfl State.vredX_asGroup h
  | vstreamIn | vstreamOut => exact group_of rfl rfl State.bind_asGroup h
  | mmulR | mmulC => exact group_of rfl rfl State.mmulIssue_asGroup h
  | maccZ | maccPin | maccUnpin => exact group_of rfl rfl State.maccIssue_asGroup h
  | maccRd | maccWr => exact group_of rfl rfl State.maccRecIssue_asGroup h
  | squant | sdeq | sexp | strans | stransRq | scomp | sblkExp | sblkInt | sblkFlt | scvt => exact group_of rfl rfl State.shapeIssue_asGroup h
  | hredAddS32 | hredAddS64 | hredMinS32 | hredMinS64 | hredMaxS32 | hredMaxS64 | hredAnd | hredOr | hredFaddF32 => exact group_of rfl rfl State.hredIssue_asGroup h
  | ffcfgKey | ffcfgBeta | ffcfgSigt | ffcfgMode | ffldEdge | ffldBias | ffldCol | ffldState | ffopSweep | ffopClamp | ffopUnclamp
  | ffopCreset | ffrdBits | ffrdCnt => exact group_of rfl rfl State.ffIssue_asGroup h
  | csend | crecv | crecvAdd | crecvMax => exact group_of rfl rfl State.colIssue_asGroup h
  | tlbw | tlbinv | tlbinvAll | fqpop | fqres | ctxsv | ctxld => exact group_of rfl rfl State.onService_asGroup h
  | ldfeWake | gldDataReturn | semaphoreGrant | semptExpiry | streamElementRead | matrixEntryStart | matrixEntryComplete
  | shapeOpStart | shapeOpComplete | haulOpStart | haulChunk | haulOpComplete | haulOpReplay | queueFullResume
  | fireflyCommandArrival | fireflyCommandStart | fireflyCommandComplete | illegalInstruction | pcRangeTrap | strandChoice
  | watchdogExpiry | deferredCause | windowRead | windowWrite | windowSemaphoreWrite | fireflyContextBlockWrite | tileCloseArrival
  | closeArrival | sealArrival | restoreDone | launchJoin | exchangeStartPacket | exchangeStart | release | startInstant | abort
  | rollbackWindowDone | targetedSelfTestEnd | stop | rootTimeout | shapingWindow | treeReconfigure | sealArrivalSend | flitSend
  | flitArrival | xrecvMissedFlit | exchangeEnd | messageOffer | collectiveSend | collectiveLanding | collectiveReceiveTimeout
  | deltaArrival | faultRecordPost | oclysDataFrame | oclysAckFrame | oclysReplayRequest | oclysAckTimeout | linkFailure
  | linkTrained | hostWrite | hostRead | hostLaunch | regionLaunch | launchTilesSet | launchTimeout | rctlHold | rctlFree
  | rctlResume | rctlDiscard | physdRead | physdWrite | fqbaseWrite | migrationStart | migrationDone | pprStart | pprDone
  | hbmerrRead | qcrecRead | pslewWrite | pcapWrite | throtWrite | spareControlWrite | attestationStart | attestationDone
  | powerCapInterval | thermalTrip | powerOn | moduleReset | secureBoot | sbReadMstat | sbReadPower | sbReadTemp | sbWritePcap
  | sbReadBootstat | sbReset | sbReadIdentity | sbUnknownCommand | joinTimeout | noiseSourceHealthTest | ieee1588Sync
  | malformedOperation => exact noWord_of rfl h

/-- A core that does not accept the group of an instruction takes the trap of R20. -/
theorem traps_of_asGroup {i : Instr} {s : State} {g : Group} {w : Nat} (h : AsGroup s g w (exec i s)) :
    (g = .service → s.turn.kind ≠ .service → Traps i s 0x12 (BitVec.ofNat 64 w)) ∧
    (g = .work ∧ s.turn.kind ≠ .work ∨ g = .haul ∧ s.turn.kind ≠ .haul ∨ g = .shape ∧ s.turn.kind ≠ .shape ∨
      g = .tile ∧ s.turn.kind = .service → Traps i s 0x02 (BitVec.ofNat 64 w)) := by
  obtain ⟨k, hk⟩ := h
  have htrap (c : Nat) (e : exec i s = s.trap c (BitVec.ofNat 64 w)) : Traps i s c (BitVec.ofNat 64 w) := by
    unfold Traps
    rw [e]
    exact s.trap_does c _
  constructor
  · rintro rfl hc
    exact htrap _ (hk.trans (if_neg hc))
  · rintro (⟨rfl, hc⟩ | ⟨rfl, hc⟩ | ⟨rfl, hc⟩ | ⟨rfl, hc⟩)
    all_goals exact htrap _ (hk.trans (if_neg (by simp [hc])))

/-- The groups of the opcode tables. -/
theorem opGroup_eq (op : Nat) :
    (0x70 ≤ op → op ≤ 0x72 → opGroup op = .service) ∧
    (op = 0x19 ∨ op = 0x26 ∨ 0x32 ≤ op ∧ op ≤ 0x34 ∨ 0x40 ≤ op ∧ op ≤ 0x53 ∨ 0x68 ≤ op ∧ op ≤ 0x6B → opGroup op = .work) ∧
    (op = 0x35 ∨ 0x60 ≤ op ∧ op ≤ 0x65 ∨ 0x6C ≤ op ∧ op ≤ 0x6E → opGroup op = .haul) ∧
    (0x58 ≤ op → op ≤ 0x5E → opGroup op = .shape) ∧
    (op = 0x17 ∨ op = 0x18 ∨ op = 0x1A ∨ op = 0x27 ∨ op = 0x28 ∨ op = 0x30 ∨ op = 0x31 → opGroup op = .tile) := by
  unfold opGroup
  refine ⟨fun h1 h2 => ?_, fun h => if_pos h, fun h => ?_, fun h1 h2 => ?_, fun h => ?_⟩
  · rw [if_neg (by omega), if_neg (by omega), if_neg (by omega), if_neg (by omega), if_pos ⟨h1, h2⟩]
  · rw [if_neg (by omega), if_pos h]
  · rw [if_neg (by omega), if_neg (by omega), if_pos ⟨h1, h2⟩]
  · rw [if_neg (by omega), if_neg (by omega), if_neg (by omega), if_pos h]

/-- What a taken trap leaves (R117, R119). -/
theorem Agent.takeTrap_eq (g : Agent) (size clk code : Nat) (faddr epc : W) :
    (g.causeInh = false → g.tvec ≠ 0 → g.tvec.toNat % 4 = 0 → g.tvec.toNat < size →
      g.takeTrap size clk code faddr epc =
        { g with causeCode := BitVec.ofNat 8 code, causeInh := true, epc := epc, faddr := faddr, pc := g.tvec, heldFrom := clk }) ∧
    (g.causeInh = true ∨ g.tvec = 0 ∨ g.tvec.toNat % 4 ≠ 0 ∨ size ≤ g.tvec.toNat →
      g.takeTrap size clk code faddr epc = { g with st := .halt, escalated := some code }) := by
  refine ⟨fun h1 h2 h3 h4 => if_neg ?_, fun h => if_pos ?_⟩
  · simpa [Agent.cannotTrap, h1, h3, h4] using h2
  · simpa [Agent.cannotTrap, or_assoc] using h

/-- Settles O5: an instruction makes the check of its group first, and a trap is taken or escalates. -/
theorem trapEntry : Obligations.TrapEntry := by
  refine ⟨fun s i w h => ?_, fun g size clk code faddr epc hcode => ?_⟩
  · obtain ⟨hservice, hwork, hhaul, hshape, htile⟩ := opGroup_eq (w % 128)
    obtain ⟨h12, h02⟩ := traps_of_asGroup (exec_asGroup h s)
    exact ⟨fun h1 h2 => h12 (hservice h1 h2), fun h => h02 (h.imp (And.imp_left hwork) (Or.imp (And.imp_left hhaul)
      (Or.imp (And.imp_left fun q => hshape q.1 q.2) (And.imp_left htile))))⟩
  · obtain ⟨htake, hescalate⟩ := g.takeTrap_eq size clk code faddr epc
    have hbyte : (BitVec.ofNat 8 code).toNat = code := by simpa using hcode
    refine ⟨fun h1 h2 h3 h4 => ?_, hescalate, ?_⟩
    · rw [htake h1 h2 h3 h4]
      exact ⟨hbyte, rfl, rfl, rfl, rfl, rfl⟩
    · unfold Agent.takeTrap
      split <;> exact ⟨rfl, rfl, rfl, rfl, rfl, rfl, rfl, rfl, rfl, rfl, rfl⟩
end Sys2Proof.Machine
end

/-! What reset leaves (R30): the units at their reset values, and the forms that every step keeps. -/
section
namespace Sys2Proof.Machine

/-- An agent is FREE with its CSRs at their reset values (R122, R261). -/
def Agent.atReset (g : Agent) : Prop :=
  g.st = .free ∧ g.mctx = 0x777 ∧ g.causeCode = 0 ∧ g.causeInh = false ∧ g.epc = 0 ∧ g.faddr = 0 ∧ g.tvec = 0 ∧ g.prio = 0 ∧
    g.wdogLimit = 0x01000000 ∧ g.scratch = 0

/-- Every agent of a tile at reset is the reset agent. -/
theorem Tile.reset_agent (a : Fin 10) : Tile.reset.cur.agents[a] = Agent.reset := Vector.getElem_replicate a.isLt

theorem Tile.reset_agent_atReset (a : Fin 10) : (Tile.reset.cur.agents[a]).atReset := by
  rw [Tile.reset_agent]
  exact ⟨rfl, rfl, rfl, rfl, rfl, rfl, rfl, rfl, rfl, rfl⟩

theorem Die.reset_svc (c : Fin 2) : Die.reset.svc[c] = SvcCore.reset := Vector.getElem_replicate c.isLt

theorem Tile.reset_quiescent : Tile.reset.quiescent = true := by decide

theorem Tile.reset_accSt (n : Fin 16) : Tile.reset.cur.accSt[n] = .free := Vector.getElem_replicate n.isLt

theorem Die.reset_ctx (i : Fin 16) : Die.reset.ff.ctxs[i] = FfContext.reset := Vector.getElem_replicate i.isLt

/-- No Firefly context of a die is valid at reset. -/
theorem Die.reset_ctx_valid (i : Fin 16) : (Die.reset.ff.ctxs[i]).valid = false := congrArg FfContext.valid (Die.reset_ctx i)

theorem State.reset_memoriesWf : State.reset.memoriesWf :=
  ⟨fun _ => ⟨Memory.empty_wf, Memory.empty_wf, Memory.empty_wf, Memory.empty_wf⟩,
    fun _ (c : Fin 2) => by
      show (Die.reset.svc[c]).mem.wf = true
      rw [Die.reset_svc]
      exact Memory.empty_wf,
    fun _ => Memory.empty_wf⟩

theorem State.reset_pcsAligned : State.reset.pcsAligned :=
  ⟨fun _ a => by
    show (Tile.reset.cur.agents[a]).pc.toNat % 4 = 0 ∧ (Tile.reset.cur.agents[a]).pc.toNat % 4 = 0
    rw [Tile.reset_agent]
    decide,
    fun _ (c : Fin 2) => by
      show (Die.reset.svc[c]).agent.pc.toNat % 4 = 0
      rw [Die.reset_svc]
      rfl⟩

theorem State.reset_listsWf : State.reset.listsWf := by
  refine ⟨.nil, .nil, .nil, fun _ => ⟨(by decide : 7 < 8), nofun⟩, fun _ => ⟨.nil, .nil, fun i => ?_⟩, nofun, .nil⟩
  show keysRise (Die.reset.ff.ctxs[i]).work.sigt ∧ keysRise (Die.reset.ff.ctxs[i]).comm.sigt
  rw [Die.reset_ctx]
  exact ⟨.nil, .nil⟩

/-- Settles O58: the maps of the part are empty, so that every unit reads as its reset value. -/
theorem resetState : Obligations.ResetState :=
  ⟨State.reset_memoriesWf, State.reset_listsWf, State.reset_pcsAligned,
    fun _ => ⟨rfl, rfl, Tile.reset_quiescent, rfl, rfl, rfl, rfl, rfl, rfl, rfl, rfl, Tile.reset_accSt, Tile.reset_agent_atReset⟩,
    fun _ => ⟨rfl, rfl, rfl, rfl, rfl, rfl, rfl, rfl, rfl, rfl, rfl, Die.reset_ctx_valid⟩,
    fun _ => ⟨rfl, rfl, rfl, rfl, rfl, fun _ => rfl⟩⟩
end Sys2Proof.Machine
end

/-! Every step keeps the canonical form of every memory (R90): the units, and what the operations shared by the instructions do. -/
section
/- Hundreds of short proofs: they are elaborated one after another, since a thread for each takes more memory than the check has. -/
set_option Elab.async false
namespace Sys2Proof.Machine

/-! ## The memories of one unit -/

/-- The memories of a tile have their canonical form. -/
def Tile.memWf (tl : Tile) : Prop := tl.tm.wf = true ∧ tl.acc.wf = true ∧ tl.slotMem.wf = true ∧ tl.mbx.wf = true

/-- The core memories of a die have their canonical form. -/
def Die.memWf (x : Die) : Prop := ∀ c : Fin 2, x.svc[c].mem.wf = true

/-- The HBM of a module has its canonical form. -/
def Module.memWf (y : Module) : Prop := y.hbm.wf = true

/-- A step answers with a state whose memories have their canonical form. -/
inductive MemOut : Out → Prop
  | next {t : State} (h : t.memoriesWf) : MemOut (.next t)

theorem MemOut.ite {c : Prop} [Decidable c] {a b : Out} (ha : MemOut a) (hb : MemOut b) : MemOut (if c then a else b) := by
  split
  · exact ha
  · exact hb

theorem Memory.foldl_wf {α : Type} {f : Memory → α → Memory} (hf : ∀ m x, m.wf = true → (f m x).wf = true) (l : List α) {m : Memory}
    (h : m.wf = true) : (l.foldl f m).wf = true :=
  List.foldlRecOn (motive := fun m : Memory => m.wf = true) l f h fun m hm x _ => hf m x hm

/-- A property of an entry that its new value keeps holds of it after all entries of a map have changed. -/
theorem kvGet_map_prop {α : Type} {P : α → Prop} {d : α} {f : Nat → α → α} (hf : ∀ k x, P x → P (f k x)) (l : List (Nat × α)) (u : Nat)
    (h : P (kvGet d l u)) : P (kvGet d (l.map fun q => (q.1, f q.1 q.2)) u) := by
  induction l with
  | nil => exact h
  | cons q l ih =>
    simp only [kvGet, List.map_cons] at h ⊢
    split at h
    · rw [if_pos ‹_›]; exact hf _ _ h
    · rw [if_neg ‹_›]; exact ih h

namespace Tile.memWf
variable {tl : Tile}

theorem ite {c : Prop} [Decidable c] {a b : Tile} (ha : a.memWf) (hb : b.memWf) : (if c then a else b).memWf := by
  split
  · exact ha
  · exact hb

theorem foldl {α : Type} {f : Tile → α → Tile} (h : tl.memWf) (hf : ∀ x a, x.memWf → (f x a).memWf) (l : List α) :
    (l.foldl f tl).memWf := List.foldlRecOn l f h fun x hx a _ => hf x a hx

theorem writeTm (h : tl.memWf) (a : Nat) (bs : List Byte) : ({ tl with tm := tl.tm.write a bs } : Tile).memWf :=
  ⟨tl.tm.write_wf a bs h.1, h.2⟩

end Tile.memWf

namespace State.memoriesWf
variable {s : State}

theorem tile (h : s.memoriesWf) (t : Nat) : (s.tile t).memWf := h.1 t
theorem die (h : s.memoriesWf) (d : Nat) : (s.die d).memWf := h.2.1 d
theorem module (h : s.memoriesWf) (m : Nat) : (s.module m).memWf := h.2.2 m

theorem next (h : s.memoriesWf) : MemOut (.next s) := .next h

theorem ite {c : Prop} [Decidable c] {a b : State} (ha : a.memoriesWf) (hb : b.memoriesWf) : (if c then a else b).memoriesWf := by
  split
  · exact ha
  · exact hb

theorem dite {c : Prop} [Decidable c] {a : c → State} {b : ¬c → State} (ha : ∀ q, (a q).memoriesWf) (hb : ∀ q, (b q).memoriesWf) :
    (if q : c then a q else b q).memoriesWf := by
  split
  · exact ha _
  · exact hb _

theorem foldl {α : Type} {f : State → α → State} (h : s.memoriesWf) (hf : ∀ t a, t.memoriesWf → (f t a).memoriesWf) (l : List α) :
    (l.foldl f s).memoriesWf := List.foldlRecOn l f h fun t ht a _ => hf t a ht

theorem setTile (h : s.memoriesWf) {t : Nat} {x : Tile} (hx : x.memWf) : (s.setTile t x).memoriesWf := by
  refine ⟨fun u => ?_, h.2.1, h.2.2⟩
  by_cases hu : u = t
  · subst hu; rw [State.tile_setTile_self]; exact hx
  · rw [State.tile_setTile_ne _ _ hu]; exact h.1 u

theorem modTile (h : s.memoriesWf) {t : Nat} {f : Tile → Tile} (hf : ∀ tl, tl.memWf → (f tl).memWf) : (s.modTile t f).memoriesWf :=
  h.setTile (hf _ (h.tile t))

theorem setDie (h : s.memoriesWf) {d : Nat} {x : Die} (hx : x.memWf) : (s.setDie d x).memoriesWf := by
  refine ⟨h.1, fun e => ?_, h.2.2⟩
  by_cases he : e = d
  · subst he; rw [State.die_setDie_self]; exact hx
  · rw [State.die_setDie_ne _ _ he]; exact h.2.1 e

theorem modDie (h : s.memoriesWf) {d : Nat} {f : Die → Die} (hf : ∀ x, x.memWf → (f x).memWf) : (s.modDie d f).memoriesWf :=
  h.setDie (hf _ (h.die d))

theorem setModule (h : s.memoriesWf) {m : Nat} {y : Module} (hy : y.memWf) : (s.setModule m y).memoriesWf := by
  refine ⟨h.1, h.2.1, fun n => ?_⟩
  by_cases hn : n = m
  · subst hn; rw [State.module_setModule_self]; exact hy
  · rw [State.module_setModule_ne _ _ hn]; exact h.2.2 n

theorem modModule (h : s.memoriesWf) {m : Nat} {f : Module → Module} (hf : ∀ y, y.memWf → (f y).memWf) : (s.modModule m f).memoriesWf :=
  h.setModule (hf _ (h.module m))

theorem modHbm (h : s.memoriesWf) {m : Nat} {f : Module → Module} (hf : ∀ y : Module, y.hbm.wf = true → (f y).hbm.wf = true) :
    (s.modModule m f).memoriesWf := h.modModule hf

/-! An update that leaves the memories of the unit alone: the two forms are the same by definition. -/

theorem keepTile (h : s.memoriesWf) {t : Nat} {f : Tile → Tile} (hf : ∀ tl, (f tl).memWf = tl.memWf := by intro _; rfl) :
    (s.modTile t f).memoriesWf := h.modTile fun tl hx => (hf tl).mpr hx

theorem keepSet (h : s.memoriesWf) {t : Nat} {x : Tile} (hx : x.memWf = (s.tile t).memWf := by rfl) : (s.setTile t x).memoriesWf :=
  h.setTile (hx.mpr (h.tile t))

theorem keepDie (h : s.memoriesWf) {d : Nat} {f : Die → Die} (hf : ∀ x, (f x).memWf = x.memWf := by intro _; rfl) :
    (s.modDie d f).memoriesWf := h.modDie fun x hx => (hf x).mpr hx

theorem keepModule (h : s.memoriesWf) {m : Nat} {f : Module → Module} (hf : ∀ y, (f y).memWf = y.memWf := by intro _; rfl) :
    (s.modModule m f).memoriesWf := h.modModule fun y hy => (hf y).mpr hy

/-- Every tile changes by an update that keeps its memories in their form. -/
theorem mapTiles (h : s.memoriesWf) {f : Nat → Tile → Tile} (hf : ∀ k x, x.memWf → (f k x).memWf) :
    ({ s with tiles := s.tiles.map fun q => (q.1, f q.1 q.2) } : State).memoriesWf :=
  ⟨fun u => kvGet_map_prop (P := Tile.memWf) hf s.tiles u (h.tile u), h.2.1, h.2.2⟩

/-! What is no tile, die or module holds no memory. -/

theorem free (h : s.memoriesWf) (n : Nat) : ({ s with free := n } : State).memoriesWf := h
theorem outs (h : s.memoriesWf) (l : List Output) : ({ s with outs := l } : State).memoriesWf := h
theorem regions (h : s.memoriesWf) (l : List Region) : ({ s with regions := l } : State).memoriesWf := h
theorem up (h : s.memoriesWf) (l : List Up) : ({ s with up := l } : State).memoriesWf := h
theorem wires (h : s.memoriesWf) (l : List Wire) : ({ s with wires := l } : State).memoriesWf := h
theorem xfers (h : s.memoriesWf) (l : List ColXfer) : ({ s with xfers := l } : State).memoriesWf := h

end State.memoriesWf

/-- A service core put on a die whose memory has its canonical form. -/
theorem Die.memWf.setSvc {x : Die} (h : x.memWf) {c : Fin 2} {y : SvcCore} (hy : y.mem.wf = true) : (x.setSvc c y).memWf := by
  intro e
  by_cases he : e = c
  · subst he; simpa [Die.setSvc] using hy
  · have hne : c.val ≠ e.val := fun q => he (Fin.ext q.symm)
    simpa [Die.setSvc, Vector.getElem_set_ne _ _ hne] using h e

/-! ## Agents -/

namespace State.memoriesWf
variable {s : State}

theorem setAgentOf (h : s.memoriesWf) (w : Who) (g : Agent) : (s.setAgentOf w g).memoriesWf := by
  cases w with
  | tile t a => exact h.keepTile
  | svc d c => exact h.modDie fun x hx => hx.setSvc (hx c)

theorem modAgent (h : s.memoriesWf) (w : Who) (f : Agent → Agent) : (s.modAgent w f).memoriesWf := h.setAgentOf w _
theorem setMe (h : s.memoriesWf) (g : Agent) : (s.setMe g).memoriesWf := h.setAgentOf _ g
theorem modMe (h : s.memoriesWf) (f : Agent → Agent) : (s.modMe f).memoriesWf := h.setMe _

theorem retire (h : s.memoriesWf) (w : Who) : (s.retire w).memoriesWf := by
  cases w with
  | tile t a => exact h.keepTile
  | svc d c => exact h.modDie fun x hx => hx.setSvc (hx c)

theorem done (h : s.memoriesWf) (g : Agent) : MemOut (s.done g) := ((h.setMe _).retire _).next
theorem goto (h : s.memoriesWf) (g : Agent) (t : W) : MemOut (s.goto g t) := ((h.setMe _).retire _).next
theorem doneX (h : s.memoriesWf) (d : BitVec 5) (v : W) : MemOut (s.doneX d v) := h.done _
theorem doneP (h : s.memoriesWf) (d : BitVec 3) (v : Bool) : MemOut (s.doneP d v) := h.done _
theorem doneNop (h : s.memoriesWf) : MemOut s.doneNop := h.done _
theorem waitOn (h : s.memoriesWf) (w : WaitOn) : MemOut (s.waitOn w) := (h.setMe _).next
theorem stall (h : s.memoriesWf) : MemOut s.stall := (h.modMe _).next

theorem finishWait (h : s.memoriesWf) (t : Nat) (a : Fin 10) (g : Agent) : (s.finishWait t a g).memoriesWf :=
  h.keepTile.retire _

theorem takeTrap (h : s.memoriesWf) (w : Who) (code : Nat) (faddr epc : W) : (s.takeTrap w code faddr epc).memoriesWf := h.modAgent w _
theorem trap (h : s.memoriesWf) (code : Nat) (faddr : W) : MemOut (s.trap code faddr) := (h.takeTrap ..).next

theorem transfer (h : s.memoriesWf) (g : Agent) (t : W) : MemOut (s.transfer g t) := (h.trap ..).ite ((h.trap ..).ite (h.goto g t))

variable {k : State → Out} (hk : ∀ t, t.memoriesWf → MemOut (k t))
include hk

theorem onCores (h : s.memoriesWf) {ok : CoreKind → Bool} {word : Nat} : MemOut (s.onCores ok word k) := (hk s h).ite (h.trap ..)
theorem onTile (h : s.memoriesWf) {word : Nat} : MemOut (s.onTile word k) := h.onCores hk
theorem onWork (h : s.memoriesWf) {word : Nat} : MemOut (s.onWork word k) := h.onCores hk
theorem onHaul (h : s.memoriesWf) {word : Nat} : MemOut (s.onHaul word k) := h.onCores hk
theorem onShape (h : s.memoriesWf) {word : Nat} : MemOut (s.onShape word k) := h.onCores hk
theorem onService (h : s.memoriesWf) {word : Nat} : MemOut (s.onService word k) := (hk s h).ite (h.trap ..)

theorem rdWait (h : s.memoriesWf) : MemOut (s.rdWait k) := by
  unfold State.rdWait
  split
  · exact h.waitOn _
  · exact hk s h

theorem release (h : s.memoriesWf) : MemOut (s.release k) := by
  unfold State.release
  refine (h.waitOn _).ite ?_
  split
  · exact h.waitOn _
  · exact hk s h

theorem checked (h : s.memoriesWf) {a : W} {n : Nat} : MemOut (s.checked a n k) := (h.trap ..).ite ((h.trap ..).ite (h.rdWait hk))

end State.memoriesWf

/-! ## Tile memory and the version store -/

namespace Tile.memWf
variable {tl : Tile}

theorem keepLine (h : tl.memWf) (l : Nat) : (tl.keepLine l).memWf := Tile.memWf.ite h h

theorem noteRead (h : tl.memWf) (r : Reader) (l : List (Nat × Nat)) (ver : Nat → Nat) : (tl.noteRead r l ver).memWf := Tile.memWf.ite h h

theorem noteLoad (h : tl.memWf) (a : Fin 10) (l : List (Nat × Nat)) : (tl.noteLoad a l).memWf := h.noteRead ..

theorem stamp (h : tl.memWf) (n : Nat) (p : Fin 10 × Nat) : (tl.stamp n p).memWf := h

theorem put (h : tl.memWf) {a : Nat} {bs : List Byte} {t : Tile} (e : tl.put a bs = some t) : t.memWf := by
  unfold Tile.put at e
  split at e
  · cases e; exact (h.keepLine (a / 64)).writeTm a bs
  · cases e

theorem putParts (h : tl.memWf) (l : List (Nat × List Byte)) : (tl.putParts l).1.memWf := by
  induction l generalizing tl with
  | nil => exact h
  | cons p l ih =>
    unfold Tile.putParts
    split
    · exact ih (h.put ‹_›)
    · exact h

theorem putRange (h : tl.memWf) (a : Nat) (bs : List Byte) : (tl.putRange a bs).1.memWf := h.putParts _

theorem store (h : tl.memWf) {a : Fin 10} {l : List (Nat × Nat)} {addr : Nat} {bs : List Byte} {t : Tile}
    (e : tl.store a l addr bs = some t) : t.memWf := by
  unfold Tile.store at e
  dsimp only at e
  split at e
  · exact h.put e
  · split at e
    · cases e
    · cases e
      refine h.foldl (fun x p hx => ?_) _
      split
      · exact hx.keepLine _
      · cases hp : x.put p.1 p.2 with
        | none => exact hx
        | some y => exact hx.put hp

theorem perform (h : tl.memWf) (q : HeldStore) : (tl.perform q).memWf := by
  unfold Tile.perform
  split
  · exact h
  · next t e =>
    have ht : t.memWf := h.put e
    exact ht

theorem setFe (h : tl.memWf) (w : Nat) (full : Bool) : (tl.setFe w full).memWf := h

theorem fillFe (h : tl.memWf) (a n : Nat) : (tl.fillFe a n).memWf := Tile.memWf.ite h (h.foldl (fun _ _ h => h.setFe ..) _)

theorem record (h : tl.memWf) (r : Recorded) : (tl.record r).memWf := h

theorem layParts (h : tl.memWf) (l : List (Nat × List Byte)) : (tl.layParts l).1.memWf := by
  induction l generalizing tl with
  | nil => exact h
  | cons p l ih =>
    unfold Tile.layParts
    split
    · exact ih (h.put ‹_›)
    · exact h

theorem fillWhere (h : tl.memWf) (ok : Nat → Bool) (a n : Nat) : (tl.fillWhere ok a n).memWf :=
  h.foldl (fun _ _ h => Tile.memWf.ite (h.setFe ..) h) _

theorem freshCodes (h : tl.memWf) (l : List (Nat × Nat)) : (tl.freshCodes l).memWf := h

theorem fillRunsBut (h : tl.memWf) {before later : List (Nat × Nat)} {l : List (Nat × List Byte)} {t : Tile} {r : Option Nat}
    (e : tl.fillRunsBut before later l = (t, r)) : t.memWf := by
  cases e
  exact ((h.layParts _).freshCodes _).foldl (fun _ _ h => h.fillWhere ..) _

theorem fillRuns (h : tl.memWf) {l : List (Nat × List Byte)} {t : Tile} {r : Option Nat} (e : tl.fillRuns l = (t, r)) : t.memWf :=
  h.fillRunsBut e

end Tile.memWf

namespace State.memoriesWf
variable {s : State}

theorem flush (h : s.memoriesWf) (t : Nat) : (s.flush t).memoriesWf := by
  have hp (q : Tile × List HeldStore) (hq : q.1.memWf) (c : Bool) (x : HeldStore) :
      (if c then (q.1, q.2 ++ [x]) else (q.1.perform x, q.2)).1.memWf := by
    cases c
    · exact hq.perform x
    · exact hq
  exact h.ite (h.setTile (List.foldlRecOn (motive := fun q : Tile × List HeldStore => q.1.memWf) _ _ (h.tile t) fun q hq x _ => hp q hq _ x))

theorem recordError (h : s.memoriesWf) (t code unit bank row : Nat) : (s.recordError t code unit bank row).memoriesWf := by
  refine h.ite ((h.setTile ((h.tile t).record _)).modDie fun x hx => ?_)
  split <;> exact hx

theorem tmError (h : s.memoriesWf) (t w : Nat) : (s.tmError t w).memoriesWf := (h.recordError ..).ite (h.modTile fun _ h => h.record _)

theorem readError (h : s.memoriesWf) (w : Who) (k : Nat) : (s.readError w k).memoriesWf := by
  cases w with
  | tile t a => exact h.tmError t k
  | svc d c => exact h.modAgent _ _

theorem loaded (h : s.memoriesWf) (w : Who) (l : List (Nat × Nat)) : (s.loaded w l).memoriesWf := by
  cases w with
  | tile t a => exact State.memoriesWf.ite (h.modTile fun _ h => h.noteLoad ..) h
  | svc d c => exact h

theorem readBytes (h : s.memoriesWf) {a n : Nat} {k : List Byte → State → Out} (hk : ∀ bs t, t.memoriesWf → MemOut (k bs t)) :
    MemOut (s.readBytes a n k) := by
  unfold State.readBytes
  split
  · exact (h.readError ..).next
  · exact hk _ _ (h.loaded ..)

theorem storeWait (h : s.memoriesWf) {a n : Nat} {k : State → Out} (hk : MemOut (k s)) : MemOut (s.storeWait a n k) := by
  unfold State.storeWait
  split
  · exact h.waitOn _
  · exact h.stall.ite hk

theorem storeHere (h : s.memoriesWf) {a : Nat} {bs : List Byte} {t : Tile} (e : s.storeHere a bs = some t) : t.memWf :=
  (h.tile s.here).store e

theorem storeBytes (h : s.memoriesWf) {a : Nat} {bs : List Byte} {k : State → Out} (hk : ∀ t, t.memoriesWf → MemOut (k t)) :
    MemOut (s.storeBytes a bs k) := by
  refine h.storeWait ?_
  dsimp only
  split
  · split
    · exact hk _ (h.setTile (h.storeHere ‹_›))
    · exact h.trap ..
  · exact hk _ (h.modDie fun x hx => hx.setSvc (Memory.write_wf _ _ _ (hx _)))

theorem load (h : s.memoriesWf) (d : BitVec 5) (a : W) (n : Nat) (signed : Bool) : MemOut (s.load d a n signed) :=
  h.checked fun _ h => h.readBytes fun _ _ h => h.doneX ..

theorem store (h : s.memoriesWf) (r : BitVec 5) (a : W) (n : Nat) : MemOut (s.store r a n) :=
  h.checked fun _ h => h.storeBytes fun _ h => h.doneNop

theorem setRec (h : s.memoriesWf) (r : BitVec 5) (v : Rec) : (s.setRec r v).memoriesWf := by
  unfold State.setRec
  split
  · exact h.modTile fun _ h => Tile.memWf.ite h (Tile.memWf.ite h h)
  · exact h

theorem takeFull (h : s.memoriesWf) (t addr : Nat) (c : Bool) : (s.takeFull t addr c).memoriesWf :=
  State.memoriesWf.ite (h.modTile fun _ h => h.setFe ..) h

theorem wakeLdfe (h : s.memoriesWf) (t : Nat) (a : Fin 10) (d : BitVec 5) (addr : Nat) : (s.wakeLdfe t a d addr).memoriesWf := by
  unfold State.wakeLdfe
  dsimp only
  split
  · exact h.readError ..
  · exact (h.loaded ..).finishWait ..

theorem recAccess (h : s.memoriesWf) {a b : BitVec 5} {n : Nat} {k : W → State → Out} (hk : ∀ w, MemOut (k w s)) :
    MemOut (s.recAccess a b n k) := (h.trap ..).ite (hk _)

/-! ## Semaphores and waits -/

theorem reissue (h : s.memoriesWf) (t : Nat) (a : Fin 10) : (s.reissue t a).memoriesWf := h.keepTile

theorem wakeDrain (h : s.memoriesWf) (t : Nat) (a : Fin 10) : (s.wakeDrain t a).memoriesWf := by
  unfold State.wakeDrain
  dsimp only
  split
  · exact (h.flush t).keepTile
  · exact ((h.flush t).reissue t a).ite (h.flush t)
  · exact h.flush t

theorem gldGone (h : s.memoriesWf) (t a : Nat) : (s.gldGone t a).memoriesWf := by
  refine h.foldl (fun s c h => ?_) _
  dsimp only
  split
  · exact ((h.setAgentOf ..).retire _).ite (h.setAgentOf ..)
  · exact h

theorem deferTo (h : s.memoriesWf) (t : Nat) (a : Fin 10) (code : Nat) (faddr : W) : (s.deferTo t a code faddr).memoriesWf := by
  unfold State.deferTo
  dsimp only
  split <;> exact h.keepTile

theorem complete (h : s.memoriesWf) (t k : Nat) (a : Fin 10) : (s.complete t k a).memoriesWf :=
  (h.deferTo ..).ite h.keepTile

end State.memoriesWf

/-! Every step keeps the canonical form of every memory (R90): HBM, translation and faults, the haul core, ports, the exchange, collectives. -/

namespace State.memoriesWf
variable {s : State}

/-! ## HBM (R380-R387) -/

theorem logHbm (h : s.memoriesWf) (d pa : Nat) : (s.logHbm d pa).memoriesWf := by
  unfold State.logHbm
  refine h.modDie fun x hx => ?_
  split <;> exact hx

theorem logBad (h : s.memoriesWf) (d m pa n : Nat) : (s.logBad d m pa n).memoriesWf := h.foldl (fun _ _ h => h.logHbm ..) _

theorem noteRead (h : s.memoriesWf) (d m pa n : Nat) : (s.noteRead d m pa n).memoriesWf := h.ite ((h.free _).logBad ..)

theorem seenHbm (h : s.memoriesWf) (m : Nat) : (s.seenHbm m).memoriesWf := by
  refine h.ite (h.modHbm fun y hy => ?_)
  dsimp only
  exact Memory.foldl_wf (fun m _ hm => m.forget_wf _ _ _ hm) _ hy

theorem setHbm (h : s.memoriesWf) (m pa : Nat) (bs : List Byte) : (s.setHbm m pa bs).memoriesWf :=
  h.modHbm fun y hy => y.hbm.write_wf _ _ hy

theorem physdRead (h : s.memoriesWf) (d : Nat) : (s.physdRead d).2.memoriesWf := by
  unfold State.physdRead
  dsimp only
  split
  · exact (h.free _).keepDie
  · split
    · exact ((h.free _).logHbm ..).keepDie
    · exact h.keepDie

theorem physdWrite (h : s.memoriesWf) (d : Nat) (v : W) : (s.physdWrite d v).memoriesWf :=
  (h.ite (h.setHbm ..)).keepDie

theorem fqbaseWrite (h : s.memoriesWf) (d : Nat) (v : W) : (s.fqbaseWrite d v).memoriesWf := by
  unfold State.fqbaseWrite
  exact State.memoriesWf.ite (h.free _).keepDie h

theorem ilmapWrite (h : s.memoriesWf) (d : Nat) (n : Fin 3) (v : W) : (s.ilmapWrite d n v).memoriesWf := by
  unfold State.ilmapWrite
  dsimp only
  split
  · exact h.keepDie
  · refine (State.memoriesWf.free ?_ _).modHbm fun y hy => ?_
    · exact h.keepDie
    · dsimp only
      exact Memory.foldl_wf (fun m _ hm => m.forget_wf _ _ _ hm) _ hy

theorem loseRows (h : s.memoriesWf) (m : Nat) : (s.loseRows m).memoriesWf := by
  unfold State.loseRows
  refine h.ite ((h.free _).modHbm fun y hy => ?_)
  dsimp only
  exact Memory.foldl_wf (fun m _ hm => Memory.foldl_wf (fun m _ hm => m.forget_wf _ _ _ hm) _ hm) _ hy

theorem migctlWrite (h : s.memoriesWf) (d : Nat) (v : W) : (s.migctlWrite d v).memoriesWf := by
  unfold State.migctlWrite
  exact h.keepDie

theorem replayMove (h : s.memoriesWf) (d : Nat) (e : Nat × Nat × Nat × Nat) : (s.replayMove d e).memoriesWf := by
  unfold State.replayMove
  dsimp only
  split
  · exact h
  · refine h.modHbm fun y hy => ?_
    dsimp only
    exact Memory.foldl_wf (fun m _ hm => m.write_wf _ _ hm) _ hy

theorem forgetChunk (h : s.memoriesWf) (d pc chunk : Nat) : (s.forgetChunk d pc chunk).memoriesWf := by
  unfold State.forgetChunk
  refine (h.free _).modHbm fun y hy => ?_
  dsimp only
  exact Memory.foldl_wf (fun m _ hm => m.forget_wf _ _ _ hm) _ hy

theorem execMigrationDone (h : s.memoriesWf) (d : Nat) : MemOut (execMigrationDone d s) := by
  unfold Machine.execMigrationDone
  exact h.next.ite ((h.keepDie.foldl (fun _ _ h => h.forgetChunk ..) _).replayMove ..).next

theorem pprctlWrite (h : s.memoriesWf) (d : Nat) (v : W) : (s.pprctlWrite d v).memoriesWf := by
  unfold State.pprctlWrite
  refine h.modDie fun x hx => ?_
  split <;> exact hx

theorem hbmerrRead (h : s.memoriesWf) (d : Nat) : (s.hbmerrRead d).2.memoriesWf := by
  unfold State.hbmerrRead
  split
  · exact h
  · exact h.keepDie

end State.memoriesWf

/-! ## Translation and faults (R361-R379) -/

namespace Tile.memWf
variable {tl : Tile}

theorem promote (h : tl.memWf) : tl.promote.memWf := by
  unfold Tile.promote
  split
  · exact Tile.memWf.ite h h
  · exact h

theorem bindSlot (h : tl.memWf) (op k : Nat) (recMode : Bool) : (tl.bindSlot op k recMode).memWf :=
  promote (tl := { tl with haulQ := _ }) h

end Tile.memWf

namespace State.memoriesWf
variable {s : State}

theorem lookup (h : s.memoriesWf) (t va : Nat) : (s.lookup t va).2.memoriesWf := by
  unfold State.lookup
  dsimp only
  split
  · exact h
  · split
    · exact h.keepTile
    · exact h

theorem xlat (h : s.memoriesWf) {t va : Nat} {w : Bool} {x : Xlat} {s1 : State} (e : s.xlat t va w = (x, s1)) : s1.memoriesWf := by
  have hl := h.lookup t va
  unfold State.xlat at e
  split at e <;> next he => cases e; rwa [he] at hl

theorem addStop (h : s.memoriesWf) (t : Nat) (f : FaultStop) : (s.addStop t f).memoriesWf := h.keepDie

theorem postRecord (h : s.memoriesWf) (d k : Nat) (bs : List Byte) : (s.postRecord d k bs).memoriesWf :=
  (h.setHbm ..).ite (State.memoriesWf.ite ((h.free _).modHbm fun y hy => y.hbm.forget_wf _ _ _ hy) h)

theorem execFaultRecordPost (h : s.memoriesWf) (d : Nat) : MemOut (execFaultRecordPost d s) := by
  unfold Machine.execFaultRecordPost
  dsimp only
  split
  · split
    · exact ((h.postRecord ..).keepDie.modTile fun _ h => h.bindSlot ..).next
    · exact (h.postRecord ..).keepDie.next
  · exact h.next

theorem setRecord (h : s.memoriesWf) (d k v : Nat) : (s.setRecord d k v).memoriesWf := by
  unfold State.setRecord
  dsimp only
  split
  · exact h
  · split
    · exact (h.setHbm ..).keepModule
    · exact h.setHbm ..

theorem voidRecords (h : s.memoriesWf) (t : Nat) : (s.voidRecords t).memoriesWf := by
  unfold State.voidRecords
  dsimp only
  refine keepDie (h.foldl (fun s k h => ?_) _)
  exact (h.setRecord ..).keepDie

theorem park (h : s.memoriesWf) (code va : Nat) : MemOut (s.park code va) := by
  unfold State.park
  split
  · exact ((h.setMe _).addStop ..).next
  · exact h.next

theorem execGld (h : s.memoriesWf) (d a b : BitVec 5) (t : BitVec 3) : MemOut (execGld d a b t s) :=
  h.onWork fun s h => (h.trap ..).ite ((h.trap ..).ite (by
    split
    · exact (h.xlat ‹_›).park ..
    · exact (h.xlat ‹_›).trap ..
    · exact (h.xlat ‹_›).park ..
    · exact (h.xlat ‹_›).waitOn _))

theorem execGldDataReturn (h : s.memoriesWf) (t a : Nat) : MemOut (execGldDataReturn t a s) := by
  unfold Machine.execGldDataReturn
  split
  · dsimp only
    split
    · refine h.next.ite ?_
      split
      · exact ((h.logHbm ..).keepTile.gldGone ..).next
      · exact ((h.finishWait ..).gldGone ..).next
    · exact h.next
  · exact h.next

theorem removeTlb (h : s.memoriesWf) (d : Nat) (p : Tlbe → Bool) : (s.removeTlb d p).memoriesWf := by
  have hd : (s.modDie d fun x => { x with mc := { x.mc with llt := x.mc.llt.filter fun q => !p q.2 } }).memoriesWf := h.keepDie
  unfold State.removeTlb
  refine hd.mapTiles (f := fun k x => if dieOfTile k = d then { x with l1 := x.l1.filter fun e => !p e } else x) fun k x hx => ?_
  split <;> exact hx

end State.memoriesWf

namespace State.memoriesWf
variable {s : State}

theorem execTlbw (h : s.memoriesWf) (a b : BitVec 5) : MemOut (execTlbw a b s) := h.onService fun s h => by
  refine (h.trap ..).ite (doneNop (free (keepDie ?_) _))
  split
  · exact h.removeTlb ..
  · exact State.memoriesWf.ite ((h.removeTlb ..).removeTlb ..) (h.removeTlb ..)

theorem invalidate (h : s.memoriesWf) (p : Tlbe → Bool) : MemOut (s.invalidate p) :=
  (h.removeTlb ..).doneNop.ite ((h.removeTlb ..).waitOn _)

theorem execTlbinv (h : s.memoriesWf) (a : BitVec 5) : MemOut (execTlbinv a s) := h.onService fun _ h => h.invalidate _
theorem execTlbinvAll (h : s.memoriesWf) : MemOut (execTlbinvAll s) := h.onService fun _ h => h.invalidate _

theorem execFqpop (h : s.memoriesWf) (d : BitVec 5) : MemOut (execFqpop d s) := h.onService fun s h => by
  split
  · dsimp only
    split
    · exact h.doneX ..
    · refine State.memoriesWf.doneX (h.modDie fun x hx => ?_) ..
      split <;> exact hx
  · exact h.doneNop

theorem unpark (h : s.memoriesWf) (t agent : Nat) (f : Agent → Agent) : (s.unpark t agent f).memoriesWf := by
  unfold State.unpark
  split
  · refine h.modTile fun tl ht => ?_
    dsimp only
    split <;> exact ht
  · exact h

theorem deliverHaul (h : s.memoriesWf) (t code : Nat) (va : W) : (s.deliverHaul t code va).memoriesWf :=
  State.memoriesWf.ite h.keepTile (h.deferTo ..)

theorem execFqres (h : s.memoriesWf) (a : BitVec 5) : MemOut (execFqres a s) := h.onService fun s h => by
  split
  · exact h.doneNop
  · next d c _ =>
    have hl : ({ s with free := s.free + 1 }.logBad d (modOfDie d) ((s.rx a).fld 0 40) 24).memoriesWf := (h.free _).logBad ..
    refine (h.trap ..).ite (((h.noteRead ..).trap ..).ite ((h.free _).doneNop.ite (hl.doneNop.ite (MemOut.ite ?_ (MemOut.ite ?_ ?_)))))
    · exact (State.memoriesWf.dite (fun _ => (hl.setRecord ..).keepDie.keepTile) fun _ => (hl.setRecord ..).keepDie).doneNop
    · exact (State.memoriesWf.ite (hl.setRecord ..).keepDie.keepTile ((hl.setRecord ..).keepDie.unpark ..)).doneNop
    · refine doneNop (State.memoriesWf.ite (deliverHaul (wakeDrain ((hl.setRecord ..).keepDie.modTile ?_) ..) ..)
        ((hl.setRecord ..).keepDie.unpark ..))
      exact fun _ h => Tile.memWf.promote h

end State.memoriesWf

/-! ## The haul core (R200-R222) -/

namespace Tile.memWf
variable {tl : Tile}

theorem feedLaunch (h : tl.memWf) : tl.feedLaunch.memWf := by
  unfold Tile.feedLaunch
  split
  · exact h
  · exact Tile.memWf.ite h h

theorem putOp (h : tl.memWf) (o : HaulOp) : (tl.putOp o).memWf := h
theorem notePa (h : tl.memWf) (o j len pa : Nat) : (tl.notePa o j len pa).memWf := h

theorem afterRead (h : tl.memWf) (o : HaulOp) (k : Nat) (l later : List (Nat × Nat)) : (tl.afterRead o k l later).1.memWf := h.noteRead ..

theorem haulFill (h : tl.memWf) {o : HaulOp} {later : List (Nat × Nat)} {l : List (Nat × List Byte)} {t : Tile} {r : Option Nat}
    (e : tl.haulFill o later l = (t, r)) : t.memWf := by
  cases e
  have hf := h.fillRunsBut (rfl : tl.fillRunsBut (runsOf o.dst 0 o.cursor) later l = _)
  exact hf

theorem poisonRuns (h : tl.memWf) (l : List (Nat × Nat)) : (tl.poisonRuns l).memWf := by
  unfold Tile.poisonRuns
  refine h.foldl (fun x p hx => ?_) l
  exact hx.foldl (f := fun tl i => { tl with poison := natInsert tl.poison (p.1 / 16 + i) }) (fun _ _ h => h) _

end Tile.memWf

namespace State.memoriesWf
variable {s : State}

theorem haulEnter (h : s.memoriesWf) (o : HaulOp) : MemOut (s.haulEnter o) :=
  (h.waitOn _).ite ((h.complete ..).doneNop.ite h.keepTile.doneNop)

theorem haulIssue (h : s.memoriesWf) (o : HaulOp) (ln : W) : MemOut (s.haulIssue o ln) := by
  unfold State.haulIssue
  split
  · exact h.trap ..
  · exact h.haulEnter o

theorem hredIssue (h : s.memoriesWf) (word f : Nat) (e a : BitVec 5) (k : BitVec 6) : MemOut (s.hredIssue word f e a k) :=
  h.onHaul fun _ h => h.haulIssue ..

theorem stopOp (h : s.memoriesWf) (t o code : Nat) (faddr : W) : (s.stopOp t o code faddr).memoriesWf :=
  (h.keepTile.deliverHaul ..).wakeDrain ..

theorem keepCopy (h : s.memoriesWf) (t : Nat) (o : HaulOp) (bs : List Byte) : (s.keepCopy t o bs).memoriesWf := by
  unfold State.keepCopy
  exact h.keepTile

theorem execHaulOpStart (h : s.memoriesWf) (t o : Nat) : MemOut (execHaulOpStart t o s) := by
  unfold Machine.execHaulOpStart
  grind [MemOut.next, setTile, tile, free, tmError, flush, stopOp, keepCopy, Tile.memWf.putOp, Tile.memWf.afterRead, Tile.memWf.haulFill]

theorem suspendOp (h : s.memoriesWf) (t : Nat) (op : HaulOp) (cause : Nat) : (s.suspendOp t op cause).memoriesWf := by
  unfold State.suspendOp
  exact h.keepTile.addStop ..

theorem execHaulChunk (h : s.memoriesWf) (t o : Nat) : MemOut (execHaulChunk t o s) := by
  have hd (tl : Tile) (l : List Delta) : ({ tl with deltas := l } : Tile).memWf ↔ tl.memWf := Iff.rfl
  have hy (tl : Tile) (l : List (Nat × Nat × Nat)) : ({ tl with dirty := l } : Tile).memWf ↔ tl.memWf := Iff.rfl
  unfold Machine.execHaulChunk
  grind [MemOut.next, State.modTile, setTile, tile, free, xlat, suspendOp, stopOp, tmError, logBad, logHbm, flush, Tile.memWf.record,
    Tile.memWf.haulFill, Tile.memWf.afterRead, Tile.memWf.putOp, Tile.memWf.notePa, Tile.memWf.poisonRuns]

theorem execHaulOpComplete (h : s.memoriesWf) (t o : Nat) : MemOut (execHaulOpComplete t o s) := by
  unfold Machine.execHaulOpComplete
  split
  · exact h.next
  · refine h.next.ite (MemOut.next (wakeDrain (complete (h.modTile ?_) ..) ..))
    exact fun _ h => Tile.memWf.feedLaunch h

theorem execHaulOpReplay (h : s.memoriesWf) (t o : Nat) : MemOut (execHaulOpReplay t o s) := by
  unfold Machine.execHaulOpReplay
  dsimp only
  split
  · exact h.next
  · refine h.next.ite (MemOut.next (h.setTile (Tile.memWf.promote ?_)))
    exact h.tile t

theorem execQueueFullResume (h : s.memoriesWf) (t a : Nat) : MemOut (execQueueFullResume t a s) := by
  unfold Machine.execQueueFullResume
  split
  · exact (h.reissue ..).next.ite h.next
  · exact h.next

/-! ## Ports (R353, R412) -/

theorem modPort (h : s.memoriesWf) (d : Nat) (host : Bool) (f : Port → Port) : (s.modPort d host f).memoriesWf := by
  refine h.modDie fun x hx => ?_
  split <;> exact hx

theorem keepFrame (h : s.memoriesWf) (d : Nat) (host : Bool) (cfg : BitVec 56) (dst : Option Nat) (payload : List Byte) :
    (s.keepFrame d host cfg dst payload).memoriesWf := h.modPort ..

theorem putFrame (h : s.memoriesWf) (d : Nat) (host : Bool) (cfg : BitVec 56) (dst : Option Nat) (kind : Nat) (seq : BitVec 32)
    (payload : List Byte) : (s.putFrame d host cfg dst kind seq payload).memoriesWf := h

theorem sendFrame (h : s.memoriesWf) (d : Nat) (cfg : BitVec 56) (dst : Option Nat) (payload : List Byte) :
    (s.sendFrame d cfg dst payload).memoriesWf := h.foldl (fun _ _ h => (h.putFrame ..).keepFrame ..) _

theorem sendOp (h : s.memoriesWf) (d : Nat) (host : Bool) (o : Output) : (s.sendOp d host o).memoriesWf := (h.keepFrame ..).outs _

theorem report (h : s.memoriesWf) (m code region ssn cause tile data : Nat) : (s.report m code region ssn cause tile data).memoriesWf :=
  State.memoriesWf.ite (h.sendOp ..) h

/-! ## The Reel exchange and messages (R285-R306) -/

theorem modLink (h : s.memoriesWf) (d : Nat) (k : Fin 4) (f : Port → Port) : (s.modLink d k f).memoriesWf := h.keepDie

theorem putWire (h : s.memoriesWf) (d : Nat) (k : Fin 4) (kind : Nat) (seq : BitVec 32) (payload : List Byte) :
    (s.putWire d k kind seq payload).memoriesWf := h

theorem sendLink (h : s.memoriesWf) (d : Nat) (k : Fin 4) (payload : List Byte) : (s.sendLink d k payload).memoriesWf :=
  (h.putWire ..).modLink ..

theorem crossLinks (h : s.memoriesWf) (a b : Nat) (bs : List Byte) : (s.crossLinks a b bs).memoriesWf :=
  h.foldl (fun _ _ h => h.foldl (fun _ _ h => h.sendLink ..) _) _

theorem recordLink (h : s.memoriesWf) (t m n : Nat) : (s.recordLink t m n).memoriesWf := by
  unfold State.recordLink
  exact h.keepTile.recordError ..

theorem schedule (h : s.memoriesWf) (a b : BitVec 5) (bad : Bool) (e : XEntry) : MemOut (s.schedule a b bad e) := by
  unfold State.schedule
  dsimp only
  split
  · exact h.trap ..
  · exact (h.trap ..).ite ((h.trap ..).ite ((h.trap ..).ite (h.doneNop.ite h.keepTile.doneNop)))

theorem execSend (h : s.memoriesWf) (p : BitVec 3) (a b : BitVec 5) (n : BitVec 2) (t : BitVec 1) : MemOut (execSend p a b n t s) :=
  h.onWork fun _ h => h.checked fun _ h => (h.trap ..).ite (((h.trap ..).ite (h.doneP ..)).ite
    (h.readBytes fun _ _ h => h.keepTile.doneP ..))

theorem recvFrom (h : s.memoriesWf) (d a : BitVec 5) (st : Bool) (p : BitVec 3) (q : Option (Fin 4)) : MemOut (s.recvFrom d a st p q) := by
  unfold State.recvFrom
  split
  · exact (h.doneP ..).ite (h.waitOn _)
  · refine MemOut.ite (h.recordError ..).next (h.storeBytes fun s1 h => ?_)
    exact (h.free _).keepTile.done _

theorem execRecv (h : s.memoriesWf) (d a : BitVec 5) (n : BitVec 2) (st : BitVec 1) (p : BitVec 3) : MemOut (execRecv d a n st p s) :=
  h.onWork fun _ h => h.checked fun _ h => h.recvFrom ..

theorem execRecvAny (h : s.memoriesWf) (d a : BitVec 5) (st : BitVec 1) (p : BitVec 3) : MemOut (execRecvAny d a st p s) :=
  h.onWork fun _ h => h.checked fun _ h => h.recvFrom ..

theorem execRspawn (h : s.memoriesWf) (p : BitVec 3) (a b : BitVec 5) : MemOut (execRspawn p a b s) :=
  h.onWork fun _ h => h.checked fun s h => h.readBytes fun _ _ _ => (h.trap ..).ite ((h.trap ..).ite ((h.trap ..).ite ((h.trap ..).ite
    (h.readBytes fun _ _ h => h.keepTile.doneP ..))))

theorem sealCause (h : s.memoriesWf) (t code : Nat) : (s.sealCause t code).memoriesWf := h.keepTile.keepDie
theorem countLate (h : s.memoriesWf) (t : Nat) : (s.countLate t).memoriesWf := h.keepDie

theorem execExchangeStartPacket (h : s.memoriesWf) (t : Nat) : MemOut (execExchangeStartPacket t s) := by
  unfold Machine.execExchangeStartPacket
  dsimp only
  split
  · exact h.next
  · exact h.keepTile.next.ite (State.memoriesWf.ite (h.keepTile.keepTile.countLate _) h.keepTile.keepTile).next

theorem execExchangeStart (h : s.memoriesWf) (t : Nat) : MemOut (execExchangeStart t s) := by
  unfold Machine.execExchangeStart
  dsimp only
  split
  · refine h.next.ite (MemOut.next (State.memoriesWf.ite (sealCause ?_ ..) ?_))
    all_goals exact State.memoriesWf.ite (h.keepSet.sealCause ..) h.keepSet
  · exact h.next

end State.memoriesWf

namespace State.memoriesWf
variable {s : State}

theorem execFlitSend (h : s.memoriesWf) (t : Nat) : MemOut (execFlitSend t s) := by
  unfold Machine.execFlitSend
  dsimp only
  refine h.next.ite ?_
  split
  · exact h.next
  · split
    · exact (h.keepSet.tmError ..).next
    · split
      · exact (h.keepSet.recordLink ..).next
      · refine MemOut.next (crossLinks ?_ ..)
        exact h.keepSet

theorem landRuns (h : s.memoriesWf) (t : Nat) (runs : List (Nat × Nat)) (bs : List Byte) : (s.landRuns t runs bs).memoriesWf := by
  unfold State.landRuns
  split
  · exact h.setTile ((h.tile t).fillRuns ‹_›)
  · exact h.sealCause ..

theorem refuse (h : s.memoriesWf) (f : Flit) : (s.refuse f).memoriesWf := by
  unfold State.refuse
  split
  · exact h
  · exact h.ite (h.keepTile.sealCause ..)

theorem landFlit (h : s.memoriesWf) (f : Flit) : (s.landFlit f).memoriesWf := by
  unfold State.landFlit
  dsimp only
  split
  rotate_left 2
  · exact h.sealCause ..
  all_goals
    refine State.memoriesWf.ite ((h.refuse f).ite ((h.free _).landRuns ..)) ?_
    split
    · exact h.sealCause ..
    · exact h.ite ((h.keepTile.sealCause ..).ite ((h.keepTile.refuse f).ite ((h.keepTile.free _).landRuns ..)))

theorem execFlitArrival (h : s.memoriesWf) (i : Nat) : MemOut (execFlitArrival i s) := by
  have hf (l : List Flit) : ({ s with flits := l } : State).memoriesWf := h
  unfold Machine.execFlitArrival
  split
  · exact h.next
  · exact h.next.ite (State.memoriesWf.ite ((hf _).sealCause ..) ((hf _).landFlit _)).next

theorem execXrecvMissedFlit (h : s.memoriesWf) (t e : Nat) : MemOut (execXrecvMissedFlit t e s) := by
  unfold Machine.execXrecvMissedFlit
  dsimp only
  split
  · exact h.next.ite (MemOut.ite (h.keepSet.sealCause ..).next h.next)
  · exact h.next

theorem execExchangeEnd (h : s.memoriesWf) (t : Nat) : MemOut (execExchangeEnd t s) := MemOut.ite h.keepSet.next h.next

theorem execMessageOffer (h : s.memoriesWf) (t e : Nat) : MemOut (execMessageOffer t e s) := by
  unfold Machine.execMessageOffer
  dsimp only
  split
  · exact h.next
  · refine h.next.ite (MemOut.ite (h.keepSet.recordError ..).next (MemOut.ite (h.keepSet.recordError ..).next
      (MemOut.ite (h.keepSet.sendFrame ..).next ?_)))
    split
    · exact (h.keepSet.recordLink ..).next
    · exact (h.keepSet.crossLinks ..).next

/-! ## Collectives (R337-R350) -/

theorem execCgrp (h : s.memoriesWf) (d a : BitVec 5) : MemOut (execCgrp d a s) :=
  h.onHaul fun _ h => h.checked fun _ h => h.readBytes fun _ _ h1 => (h1.done _).ite (h.trap ..)

theorem execCrank (h : s.memoriesWf) (d a : BitVec 5) : MemOut (execCrank d a s) := h.onHaul fun s h => by
  split
  · exact h.trap ..
  · exact h.doneX ..

theorem execCpart (h : s.memoriesWf) (d a b : BitVec 5) : MemOut (execCpart d a b s) := h.onHaul fun s h => by
  dsimp only
  split
  · exact h.trap ..
  · exact (h.trap ..).ite (h.doneX ..)

theorem execCroute (h : s.memoriesWf) (a b : BitVec 5) : MemOut (execCroute a b s) :=
  h.onHaul fun _ h => h.keepTile.doneNop.ite (h.trap ..)

theorem execCmark (h : s.memoriesWf) (a : BitVec 5) : MemOut (execCmark a s) :=
  h.onHaul fun _ h => h.keepTile.doneNop.ite (h.trap ..)

theorem colIssue (h : s.memoriesWf) (word f : Nat) (e a b : BitVec 5) (k : BitVec 6) : MemOut (s.colIssue word f e a b k) :=
  h.onHaul fun s h => by
    dsimp only
    split
    · exact h.trap ..
    · exact (h.complete ..).doneNop.ite (((h.waitOn _).ite h.keepTile.doneNop).ite h.keepTile.doneNop)

theorem execCollectiveSend (h : s.memoriesWf) (t e : Nat) : MemOut (execCollectiveSend t e s) := by
  unfold Machine.execCollectiveSend
  dsimp only
  split
  · exact h.next
  · refine h.next.ite ?_
    split
    · exact h.next
    · split
      · exact (h.keepSet.recordLink ..).next
      · refine MemOut.ite (h.keepSet.recordError ..).next (MemOut.next (xfers (setTile (State.memoriesWf.foldl ?_ (fun _ _ h => h.crossLinks ..) _) ?_) _))
        · exact State.memoriesWf.ite (h.sendFrame ..) h
        · exact h.tile t

end State.memoriesWf

theorem Tile.memWf.landCol {tl t : Tile} (h : tl.memWf) {f k : Nat} {foul : Nat → Bool} {l : List (Nat × List Byte)}
    (e : tl.landCol f k foul l = some t) : t.memWf := by
  induction l generalizing tl with
  | nil => cases e; exact h
  | cons p l ih =>
    unfold Tile.landCol at e
    split at e
    · exact ih (h.fillRuns ‹_›) e
    · cases e

namespace State.memoriesWf
variable {s : State}

theorem execCollectiveLanding (h : s.memoriesWf) (i : Nat) : MemOut (execCollectiveLanding i s) := by
  unfold Machine.execCollectiveLanding
  dsimp only
  split
  · exact h.next
  · next f _ =>
    have h1 : ({ s with xfers := s.xfers.eraseIdx i }.modTile f.src fun x => x.setCol f.entry .done).memoriesWf := (h.xfers _).keepTile
    refine h.next.ite ?_
    split
    · exact (h1.sealCause ..).next
    · refine MemOut.ite (h1.keepTile.sealCause ..).next (MemOut.ite (h1.keepTile.sealCause ..).next ?_)
      split
      · exact (h1.keepTile.tmError ..).next
      · next e k _ _ _ =>
        have h2 := (h1.free (s.free + 1)).keepTile (t := f.dst) (f := fun x => x.setCol k .done)
        split
        · exact (h2.sealCause ..).next
        · next he =>
          have ht := (h2.tile _).landCol he
          exact ((h2.setTile (Tile.memWf.ite (ht.freshCodes _) ht)).complete ..).next

theorem execCollectiveReceiveTimeout (h : s.memoriesWf) (t e : Nat) : MemOut (execCollectiveReceiveTimeout t e s) := by
  unfold Machine.execCollectiveReceiveTimeout
  dsimp only
  split
  · exact h.next.ite (State.memoriesWf.ite (h.keepSet.recordLink ..) (h.keepSet.recordError ..)).next
  · exact h.next

end State.memoriesWf

/-! Every step keeps the canonical form of every memory (R90): the shape core, the matrix unit, streams, control. -/

/-! ## The shape core (R241-R259) -/

namespace State.memoriesWf
variable {s : State}

theorem shapeIssue (h : s.memoriesWf) (word : Nat) (kind : ShapeKind) (e a : BitVec 5) (p : W) (k : BitVec 6) :
    MemOut (s.shapeIssue word kind e a p k) := h.onShape fun s h => by
  dsimp only
  split
  · exact h.trap ..
  · exact (h.waitOn _).ite h.keepSet.doneNop

theorem execShapeOpStart (h : s.memoriesWf) (t : Nat) : MemOut (execShapeOpStart t s) := by
  unfold Machine.execShapeOpStart
  dsimp only
  split
  · exact h.next
  · next o rest _ =>
    refine h.next.ite ?_
    split
    · exact (h.tmError ..).next
    · have hr (ver : Nat → Nat) : ((s.tile t).noteRead ⟨9, o.id, false⟩ o.readRuns ver).ranHead.memWf := (h.tile t).noteRead ..
      have hs := h.free (s.free + 2)
      split
      · next tl' e => exact ((hs.setTile (((hr _).fillRuns e).stamp ..)).flush t).next
      · next tl' a e =>
        have ht : tl'.memWf := (hr _).fillRuns e
        exact (((hs.setTile (x := { tl' with shapeQ := rest }) ht).deferTo ..).wakeDrain ..).next

theorem execShapeOpComplete (h : s.memoriesWf) (t : Nat) : MemOut (execShapeOpComplete t s) := by
  unfold Machine.execShapeOpComplete
  split
  · exact h.next
  · exact MemOut.ite ((h.keepTile.complete ..).wakeDrain ..).next h.next

end State.memoriesWf

/-! ## The matrix unit (R260-R282) -/

theorem HeldStore.over_wf {m : Memory} (h : m.wf = true) (q : HeldStore) : (HeldStore.over m q).wf = true := m.write_wf _ _ h

theorem Tile.view_wf {tl : Tile} (h : tl.tm.wf = true) (r : Reader) (k : Nat) (l : List (Nat × Nat)) (seen : List (Nat × Nat × List Byte)) :
    (tl.view r k l seen).wf = true := by
  unfold Tile.view
  split
  · exact h
  · exact Memory.foldl_wf (fun _ q hm => HeldStore.over_wf hm q) _ (Memory.foldl_wf (fun m _ hm => m.write_wf _ _ hm) _ h)

namespace Tile.memWf
variable {tl : Tile}

theorem accWrite (h : tl.memWf) (n : Nat) (l : List (Nat × List Byte)) : (tl.accWrite n l).1.memWf := by
  induction l generalizing tl with
  | nil => exact h
  | cons p l ih =>
    obtain ⟨htm, hacc, hrest⟩ := h
    unfold Tile.accWrite
    dsimp only
    split
    · exact ⟨htm, hacc, hrest⟩
    · refine ih ?_
      split <;> exact ⟨htm, tl.acc.write_wf _ _ hacc, hrest⟩

theorem claim (h : tl.memWf) (a : Fin 10) (k n : Nat) : (tl.claim a k n).memWf := by
  unfold Tile.claim
  split <;> exact h

theorem accPut (h : tl.memWf) (n : Nat) (v : List Nat) : (tl.accPut n v).1.memWf := by
  have hw := h.accWrite n (accLines v)
  unfold Tile.accPut
  split <;> next e => rw [e] at hw; exact hw

theorem runMwld (h : tl.memWf) (e : MatEntry) : (tl.runMwld e).1.memWf := by
  obtain ⟨htm, hacc, hslot, hmbx⟩ := h
  unfold Tile.runMwld
  split
  · exact ⟨htm, hacc, hslot, hmbx⟩
  · exact ⟨htm, hacc, tl.slotMem.write_wf _ _ hslot, hmbx⟩

theorem runMmul (h : tl.memWf) (e : MatEntry) (col : Bool) (clk : Nat) : (tl.runMmul e col clk).1.memWf := by
  unfold Tile.runMmul
  dsimp only
  split
  · exact h
  · split
    · exact h
    · split
      · exact h
      · have h1 (v : List Nat) := Tile.memWf.accPut (tl := { tl with arrayUntil := clk + blockTime (ctxA e.ctx), mshCnt := tl.mshCnt + 1 }) h e.acc v
        split
        · next he => exact accPut (he ▸ h1 _ :) ..
        · exact h1 _

theorem runRd (h : tl.memWf) (e : MatEntry) (z : BitVec 32) : (tl.runRd e z).1.memWf := by
  unfold Tile.runRd
  split
  · exact h
  · dsimp only
    split <;> exact h.fillRuns ‹_›

theorem runWr (h : tl.memWf) (e : MatEntry) : (tl.runWr e).1.memWf := by
  unfold Tile.runWr
  split
  · exact h
  · exact h.accPut ..

theorem setPin (h : tl.memWf) (e : MatEntry) (p : Bool) : (tl.setPin e p).memWf := by
  unfold Tile.setPin
  split
  · exact Tile.memWf.ite h h
  · exact h

theorem runEntry (h : tl.memWf) (clk : Nat) (e : MatEntry) : (tl.runEntry clk e).1.memWf := by
  unfold Tile.runEntry
  split
  · exact h.runMwld e
  · exact h.runMmul ..
  · exact h.accPut ..
  · exact h.runRd ..
  · exact h.runWr e
  · exact h.setPin ..
  · exact h.setPin ..

theorem wakeMat (h : tl.memWf) (ids : List Nat) : (tl.wakeMat ids).memWf := h

theorem entryView (h : tl.memWf) (k : Nat) (f : MatEntry) : (tl.entryView k f).memWf := ⟨Tile.view_wf h.1 .., h.2⟩

theorem entryRead (h : tl.memWf) (k : Nat) (f : MatEntry) : (tl.entryRead k f).memWf := h.noteRead ..

theorem runSeen (h : tl.memWf) (clk k : Nat) (f : MatEntry) : (tl.runSeen clk k f).1.memWf := by
  unfold Tile.runSeen
  dsimp only
  split
  · exact (h.runEntry ..).stamp ..
  · exact ⟨h.1, (((h.entryRead k f).entryView k f).runEntry clk f).2⟩

end Tile.memWf

namespace State.memoriesWf
variable {s : State}

theorem matPlace (h : s.memoriesWf) {k : State → Out} (hk : ∀ t, t.memoriesWf → MemOut (k t)) : MemOut (s.matPlace k) :=
  (h.waitOn _).ite (hk s h)

theorem matEnter (h : s.memoriesWf) (kind : MatKind) (rc : Rec) (acc slot : Nat) (hdr : ImageHdr) (reads : List (Nat × Nat))
    (claims : List Nat) : (s.matEnter kind rc acc slot hdr reads claims).memoriesWf := by
  have hc : (claims.foldl (fun tl n => tl.claim s.strand s.free n) (s.tile s.here)).memWf :=
    (h.tile _).foldl (fun _ _ h => h.claim ..) _
  unfold State.matEnter
  exact (h.free _).setTile hc

theorem execMwld (h : s.memoriesWf) (e : BitVec 5) (k : BitVec 4) : MemOut (execMwld e k s) :=
  h.onWork fun _ h => h.rdWait fun _ h => h.matPlace fun s h => by
    dsimp only
    split
    · exact h.trap ..
    · split
      · exact (h.readError ..).next
      · refine ((h.loaded ..).trap ..).ite ?_
        split
        · exact (h.loaded ..).trap ..
        · exact ((h.loaded ..).trap ..).ite ((h.loaded ..).matEnter ..).keepTile.doneNop

theorem mmulIssue (h : s.memoriesWf) (word : Nat) (col : Bool) (e a : BitVec 5) (k : BitVec 4) : MemOut (s.mmulIssue word col e a k) :=
  h.onWork fun _ h => h.matPlace fun s h => by
    dsimp only
    split
    · exact h.trap ..
    · split
      · exact h.trap ..
      · exact (h.trap ..).ite ((h.trap ..).ite ((h.trap ..).ite ((h.trap ..).ite (h.matEnter ..).doneNop)))

theorem maccIssue (h : s.memoriesWf) (word : Nat) (kind : MatKind) (a : BitVec 5) (claim : Bool) : MemOut (s.maccIssue word kind a claim) :=
  h.onWork fun _ h => h.matPlace fun _ h => (h.trap ..).ite (h.matEnter ..).doneNop

theorem maccRecIssue (h : s.memoriesWf) (word : Nat) (kind : MatKind) (e a : BitVec 5) : MemOut (s.maccRecIssue word kind e a) :=
  h.onWork fun _ h => h.matPlace fun s h => by
    dsimp only
    generalize (match kind with | .rd _ => _ | _ => _ : Bool) = ok
    split
    · exact h.trap ..
    · split
      · exact h.trap ..
      · exact (h.trap ..).ite ((h.trap ..).ite ((h.trap ..).ite (h.matEnter ..).doneNop))

theorem noteStart (h : s.memoriesWf) (m : Nat) : (s.noteStart m).memoriesWf := h.keepModule

theorem delayStart (h : s.memoriesWf) (t : Nat) (f : MatEntry) : (s.delayStart t f).memoriesWf := h.ite h.keepTile.keepModule

theorem execMatrixEntryStart (h : s.memoriesWf) (t e : Nat) : MemOut (execMatrixEntryStart t e s) := by
  unfold Machine.execMatrixEntryStart
  dsimp only
  split
  · exact h.next
  · next f _ =>
    refine h.next.ite ((h.delayStart ..).next.ite ?_)
    have hr := (h.tile t).runSeen s.clk s.free f
    split
    · next tl' he =>
      rw [he] at hr
      have h1 := (h.free (s.free + 1)).setTile (t := t) (x := { tl' with matQ := tl'.matQ.map fun g => if g.id = e then { g with started := true } else g }) hr
      exact ((h1.noteStart _).ite h1).next
    · next tl' a he =>
      rw [he] at hr
      refine (((h.free _).setTile ?_).deferTo ..).next
      exact hr
    · exact (h.recordError ..).next
    · exact (h.tmError ..).next

theorem execMatrixEntryComplete (h : s.memoriesWf) (t e : Nat) : MemOut (execMatrixEntryComplete t e s) := by
  unfold Machine.execMatrixEntryComplete
  split
  · exact h.next
  · exact MemOut.ite h.keepTile.next h.next

/-! ## Vector register streams (R159-R163) -/

theorem streamDone (h : s.memoriesWf) (w : Who) (b : Stream) : (s.streamDone w b).memoriesWf := h.ite (h.complete ..)

theorem endStream (h : s.memoriesWf) (w : Who) (v : Nat) : (s.endStream w v).memoriesWf := by
  unfold State.endStream
  split
  · exact h
  · exact (h.modAgent ..).streamDone ..

theorem endStreams (h : s.memoriesWf) (w : Who) : (s.endStreams w).memoriesWf := h.foldl (fun _ _ h => h.endStream ..) _

theorem noteElement (h : s.memoriesWf) (w : Who) (b : Stream) (k i : Nat) : (s.noteElement w b k i).memoriesWf := by
  unfold State.noteElement
  exact State.memoriesWf.ite (h.modTile fun _ h => h.noteRead ..) h

theorem takeElement (h : s.memoriesWf) (w : Who) (b : Stream) : (s.takeElement w b).2.memoriesWf := by
  unfold State.takeElement
  split
  · exact h.modAgent ..
  · exact State.memoriesWf.ite ((((h.free _).noteElement ..).modAgent ..).streamDone ..) (((h.free _).noteElement ..).modAgent ..)

theorem consume (h : s.memoriesWf) (w : Who) (l : List (BitVec 5)) : (s.consume w l).memoriesWf := by
  induction l generalizing s with
  | nil => exact h
  | cons r l ih =>
    unfold State.consume
    refine ih ?_
    split
    · exact h.ite ((h.takeElement ..).modAgent ..)
    · exact h

theorem vread (h : s.memoriesWf) {rs : List (BitVec 5)} {k : State → State → Out}
    (hk : ∀ t u, t.memoriesWf → u.memoriesWf → MemOut (k t u)) : MemOut (s.vread rs k) := by
  unfold State.vread
  split
  · exact h.trap ..
  · refine (h.rdWait fun s h => ?_).ite (hk s s h h)
    split
    · exact (h.readError ..).next
    · exact hk _ _ h (h.consume ..)

theorem vwrite {s0 : State} (h0 : s0.memoriesWf) (h : s.memoriesWf) {d : BitVec 5} {v : VReg} {k : State → Out}
    (hk : ∀ t, t.memoriesWf → MemOut (k t)) : MemOut (s0.vwrite s d v k) := by
  unfold State.vwrite
  split
  · exact hk _ (h.setMe _)
  · refine (hk s h).ite ((h0.trap ..).ite (h0.rdWait fun _ _ => h0.storeWait ?_))
    split
    · exact h0.trap ..
    · next tl e =>
      have h2 (g : Agent) := (h.setTile (t := s.here) (h.storeHere e)).setMe g
      exact hk _ (((h2 _).streamDone ..).ite (h2 _))

theorem vop (h : s.memoriesWf) (word : Nat) (rs : List (BitVec 5)) (d : BitVec 5) (f : State → VReg) : MemOut (s.vop word rs d f) :=
  h.onWork fun _ h => h.vread fun _ _ h0 h => h0.vwrite h fun _ h => h.doneNop

theorem rebind (h : s.memoriesWf) (b : Stream) : MemOut (s.rebind b) := by
  have h1 := ((h.endStream s.turn b.v).modMe fun g => g.putStream b).keepTile (t := s.here) (f := fun tl => { tl with opSeq := tl.opSeq + 1 })
  exact State.memoriesWf.doneNop ((h1.complete ..).ite h1)

theorem bind (h : s.memoriesWf) (word : Nat) (out : Bool) (e a : BitVec 5) (k : BitVec 6) : MemOut (s.bind word out e a k) :=
  h.onWork fun _ h => (h.trap ..).ite ((h.trap ..).ite ((h.rebind _).ite (h.rdWait fun _ h => h.rebind _)))

theorem execVstreamEnd (h : s.memoriesWf) (a : BitVec 5) : MemOut (execVstreamEnd a s) := h.onWork fun _ h => (h.endStream ..).doneNop

theorem execStreamElementRead (h : s.memoriesWf) (t a v : Nat) : MemOut (execStreamElementRead t a v s) := by
  unfold Machine.execStreamElementRead
  split
  · dsimp only
    split
    · exact h.next
    · refine h.next.ite ?_
      split
      · exact (h.readError ..).next
      · have h1 (w : Who) (b : Stream) (k i : Nat) (f : Agent → Agent) := ((h.free (s.free + 1)).noteElement w b k i).modAgent w f
        exact (((h1 ..).streamDone ..).ite (h1 ..)).next
  · exact h.next

/-! ## Control (R112-R121, R133-R139) -/

theorem execBr (h : s.memoriesWf) (p : BitVec 3) (n g : BitVec 1) (o : BitVec 20) : MemOut (execBr p n g o s) := (h.transfer ..).ite h.doneNop

theorem endAgent (h : s.memoriesWf) : s.endAgent.memoriesWf := by
  unfold State.endAgent
  dsimp only
  split
  · refine State.memoriesWf.keepTile (State.memoriesWf.endStreams ?_ _)
    split
    · exact (h.modMe _).modTile fun _ h => h.record _
    · exact h.modMe _
  · exact h.modMe _

theorem execExit (h : s.memoriesWf) : MemOut (execExit s) := by
  unfold Machine.execExit
  split
  · exact h.waitOn _
  · exact (h.transfer ..).ite (h.endAgent.retire _).next

theorem execFenceAcq (h : s.memoriesWf) : MemOut (execFenceAcq s) := by
  unfold Machine.execFenceAcq
  split
  · exact h.waitOn _
  · exact h.doneNop

theorem execSpawn (h : s.memoriesWf) (d a : BitVec 5) (n : BitVec 3) (q : BitVec 1) : MemOut (execSpawn d a n q s) :=
  h.onWork fun s h => by
    refine (h.trap ..).ite ((h.trap ..).ite ?_)
    split
    · exact h.release fun _ h => h.keepTile.doneX ..
    · exact h.goto ..

theorem execPcRangeTrap (h : s.memoriesWf) : MemOut (execPcRangeTrap s) := (h.trap ..).ite h.next

theorem execWatchdogExpiry (h : s.memoriesWf) : MemOut (execWatchdogExpiry s) := (h.trap ..).ite h.next

theorem abandonWait (h : s.memoriesWf) (t : Nat) (a : Fin 10) : (s.abandonWait t a).memoriesWf := h.keepTile.gldGone ..

theorem execDeferredCause (h : s.memoriesWf) (w : Who) : MemOut (execDeferredCause w s) := by
  unfold Machine.execDeferredCause
  dsimp only
  split
  · exact h.next.ite ((h.setAgentOf ..).takeTrap ..).next
  · exact ((h.reissue ..).ite (h.abandonWait ..)).next
  · exact (h.abandonWait ..).next
  · exact h.next

theorem execStrandChoice (h : s.memoriesWf) (t : Nat) : MemOut (execStrandChoice t s) := by
  unfold Machine.execStrandChoice
  refine h.next.ite ?_
  split
  · exact h.next
  · exact h.keepSet.next

end State.memoriesWf

/-! Every step keeps the canonical form of every memory (R90): Firefly, the health of a tile, the tile's steps of the superstep. -/

theorem Tile.memWf.commandRead {tl : Tile} (h : tl.memWf) (c : FfCmd) (k : Nat) : (tl.commandRead c k).memWf := by
  unfold Tile.commandRead
  have h1 : ({ tl with ffOpen := tl.ffOpen.filter fun q => decide (q.2 ≠ c.id) } : Tile).memWf := h
  exact Tile.memWf.ite (h1.noteRead ..) h1

namespace State.memoriesWf
variable {s : State}

/-! ## Firefly (R308-R335) -/

theorem ffIssue (h : s.memoriesWf) (word : Nat) (kind : FfKind) (rc : Rec) (x : W) (k : BitVec 6) : MemOut (s.ffIssue word kind rc x k) :=
  h.onWork fun s h => by
    dsimp only
    split
    · exact h.trap ..
    · refine h.rdWait fun s h => h.next.ite ?_
      split
      · exact h.keepDie.keepTile.doneNop
      · exact h.next

theorem execFireflyCommandArrival (h : s.memoriesWf) (d : Nat) : MemOut (execFireflyCommandArrival d s) := by
  unfold Machine.execFireflyCommandArrival
  split
  · exact h.next
  · exact h.next.ite h.keepDie.next

theorem ffStop (h : s.memoriesWf) (d : Nat) (c : FfCmd) (code : Nat) (faddr : W) : (s.ffStop d c code faddr).memoriesWf :=
  (h.keepDie.deferTo ..).wakeDrain ..

theorem ffEnd (h : s.memoriesWf) (d : Nat) (c : FfCmd) (e : FfEnd) : (s.ffEnd d c e).memoriesWf := by
  cases e with
  | cause code a => exact h.ffStop ..
  | bad bank row => exact h.keepDie.recordError ..

theorem ffSweep (h : s.memoriesWf) (d : Nat) (c : FfCmd) (i : Fin 16) (w : FfWork) : (s.ffSweep d c i w).memoriesWf := by
  unfold State.ffSweep
  dsimp only
  refine (h.ffStop ..).ite ?_
  split
  · exact h.ffEnd ..
  · refine (h.keepDie.recordError ..).ite (State.memoriesWf.free ?_ _)
    exact h.keepDie

theorem execFireflyCommandStart (h : s.memoriesWf) (d : Nat) : MemOut (execFireflyCommandStart d s) := by
  unfold Machine.execFireflyCommandStart
  dsimp only
  split
  · exact h.next
  · next c _ _ =>
    have h1 : (if c.kind.readsIn then ({ s with free := s.free + 1 } : State).setTile c.tile ((s.tile c.tile).commandRead c s.free) else s).memoriesWf :=
      State.memoriesWf.ite ((h.free _).setTile ((h.tile _).commandRead c _)) h
    refine h.next.ite ?_
    split
    · exact (h1.keepDie.wakeDrain ..).next
    · split
      · exact (h1.keepDie.tmError ..).next
      · refine (h1.ffSweep ..).next.ite (MemOut.ite ?_ ?_)
        · split
          · next e => exact ((h1.setTile ((h1.tile _).fillRuns e)).ffStop ..).next
          · next e _ => exact ((h1.setTile ((h1.tile _).fillRuns e)).ffEnd ..).next
          · next e _ => exact ((h1.keepDie.setTile (((h1.tile _).fillRuns e).stamp ..)).wakeDrain ..).next
        · split
          · exact (h1.keepDie.ffEnd ..).next
          · exact h1.keepDie.keepDie.next

theorem execFireflyCommandComplete (h : s.memoriesWf) (d : Nat) : MemOut (execFireflyCommandComplete d s) := by
  unfold Machine.execFireflyCommandComplete
  split
  · exact h.next
  · exact h.next.ite (h.keepDie.complete ..).next

theorem ffBlockWrite (h : s.memoriesWf) {d off : Nat} {bs : List Byte} {t : State} (e : s.ffBlockWrite d off bs = some t) : t.memoriesWf := by
  unfold State.ffBlockWrite at e
  dsimp only at e
  split at e
  · cases e
  · cases e
    exact h.keepDie

theorem ffWindowWrite (h : s.memoriesWf) {d o : Nat} {bs : List Byte} {t : State} (e : s.ffWindowWrite d o bs = some t) : t.memoriesWf := by
  unfold State.ffWindowWrite at e
  dsimp only at e
  split at e
  · exact h.ffBlockWrite e
  · split at e
    · cases e
    · cases e
      exact h.keepDie

theorem execFireflyContextBlockWrite (h : s.memoriesWf) (d off : Nat) (bs : List Byte) : MemOut (execFireflyContextBlockWrite d off bs s) := by
  unfold Machine.execFireflyContextBlockWrite
  dsimp only
  refine h.next.ite (MemOut.ite ?_ (h.outs _).next)
  split
  · exact ((h.ffBlockWrite ‹_›).outs _).next
  · exact (h.outs _).next

/-! ## Regions and fences -/

theorem noteHeads (h : s.memoriesWf) (m : Nat) : (s.noteHeads m).memoriesWf := h.foldl (fun _ _ h => (h.noteRead ..).noteRead ..) _

theorem modRegion (h : s.memoriesWf) (k : Nat) (f : Region → Region) : (s.modRegion k f).memoriesWf := h.regions _

theorem emit (h : s.memoriesWf) (m code : Nat) (r : Region) (ssn cause tile data : Nat) : (s.emit m code r ssn cause tile data).memoriesWf :=
  h.report ..

theorem emitAll (h : s.memoriesWf) (r : Region) (code ssn cause tile : Nat) (data : Part → Nat) :
    (s.emitAll r code ssn cause tile data).memoriesWf := h.foldl (fun _ _ h => h.emit ..) _

theorem noteReplace (h : s.memoriesWf) (m : Nat) : (s.noteReplace m).memoriesWf := by
  unfold State.noteReplace
  exact State.memoriesWf.ite (h.keepModule.report ..) h.keepModule

theorem fenceTile (h : s.memoriesWf) (t : Nat) : (s.fenceTile t).memoriesWf := h.keepTile.keepModule.noteReplace _

theorem fence (h : s.memoriesWf) (t : Nat) (q : Nat × Nat × Nat) : (s.fence t q).memoriesWf :=
  State.memoriesWf.ite (h.keepTile.keepDie.noteReplace _) (h.fenceTile t)

theorem fenceLeft (h : s.memoriesWf) (d : Nat) : (s.fenceLeft d).memoriesWf :=
  h.foldl (fun _ _ h => h.foldl (fun _ _ h => State.memoriesWf.ite (h.keepTile.fence ..) h) _) _

/-! ## The tile's steps of the superstep -/

theorem execSync (h : s.memoriesWf) (d a b : BitVec 5) (v : BitVec 2) (o : BitVec 3) : MemOut (execSync d a b v o s) :=
  h.onTile fun _ h => h.release fun _ h => (((h.endStreams _).modMe _).retire _).next

theorem podFailed (h : s.memoriesWf) (r : Region) (t : Nat) : (s.podFailed r t).memoriesWf := h.recordError ..

theorem sendUp (h : s.memoriesWf) (t : Nat) (r : Region) (u : Up) : (s.sendUp t r u).memoriesWf :=
  h.ite (h.ite ((h.podFailed ..).ite (h.up _)))

theorem dropFf (h : s.memoriesWf) (t : Nat) : (s.dropFf t).memoriesWf := h.keepDie

theorem execTileCloseArrival (h : s.memoriesWf) (t : Nat) : MemOut (execTileCloseArrival t s) := by
  unfold Machine.execTileCloseArrival
  dsimp only
  split
  · exact h.next
  · refine h.next.ite (MemOut.ite (((State.memoriesWf.dropFf ?_ _).sendUp ..)).next (MemOut.ite (State.memoriesWf.sendUp ?_ ..).next h.next))
    all_goals exact h.keepSet

theorem execSealArrivalSend (h : s.memoriesWf) (t : Nat) : MemOut (execSealArrivalSend t s) := by
  unfold Machine.execSealArrivalSend
  dsimp only
  split
  · exact h.next
  · refine h.next.ite (State.memoriesWf.sendUp ?_ ..).next
    exact h.keepSet

theorem execDeltaArrival (h : s.memoriesWf) (t e : Nat) : MemOut (execDeltaArrival t e s) := by
  unfold Machine.execDeltaArrival
  dsimp only
  split
  · exact h.next
  · exact h.next.ite (MemOut.ite h.keepSet.next h.keepSet.next)

theorem execRelease (h : s.memoriesWf) (t : Nat) : MemOut (execRelease t s) := by
  unfold Machine.execRelease
  split
  · dsimp only
    have hl {x : Tile} {c : Prop} [Decidable c] (hx : x.memWf) : (if c then (s.setTile t x).countLate t else s.setTile t x).memoriesWf :=
      ((h.setTile hx).countLate t).ite (h.setTile hx)
    refine MemOut.ite (hl ?_).next (MemOut.ite (hl ?_).next h.keepSet.next)
    all_goals exact h.tile t
  · exact h.keepTile.next
  · exact h.next

end State.memoriesWf

namespace Tile.memWf
variable {tl : Tile}

theorem startSpawns (h : tl.memWf) (clk : Nat) (l : List OutEntry) : (tl.startSpawns clk l).memWf := by
  induction l generalizing tl with
  | nil => exact h
  | cons e l ih =>
    unfold Tile.startSpawns
    split
    · exact ih h
    · exact ih h

theorem forgetAll (h : tl.memWf) (k : Nat) (l : List (Nat × Nat)) : (tl.forgetAll k l).memWf :=
  ⟨Memory.foldl_wf (fun m _ hm => m.forget_wf _ _ _ hm) _ h.1, h.2⟩

theorem start (h : tl.memWf) (clk : Nat) (shape : BitVec 48) (limit : Nat) (lk : LinkCtl) : (tl.start clk shape limit lk).memWf := by
  have hc (cur : TileVer) : ({ tl with cur := cur } : Tile).memWf := h
  exact (hc _).startSpawns clk tl.spawns

theorem shadowed (h : tl.memWf) : tl.shadowed.memWf := h

theorem undo (h : tl.memWf) (k : Nat) (v : VsLine) : (tl.undo k v).memWf := by
  obtain ⟨htm, hacc, hrest⟩ := h
  unfold Tile.undo
  split
  · split
    · exact ⟨htm, tl.acc.forget_wf _ _ _ hacc, hrest⟩
    · exact ⟨tl.tm.forget_wf _ _ _ htm, hacc, hrest⟩
  · split
    · exact ⟨htm, tl.acc.write_wf _ _ hacc, hrest⟩
    · exact ⟨tl.tm.write_wf _ _ htm, hacc, hrest⟩

theorem poke (h : tl.memWf) (a : Nat) (bs : List Byte) : (tl.poke a bs).memWf := ⟨tl.tm.write_wf _ _ h.1, h.2⟩

theorem pokeRuns (h : tl.memWf) (l : List (Nat × List Byte)) : (tl.pokeRuns l).memWf := h.foldl (fun _ _ h => h.poke ..) _

end Tile.memWf

theorem State.memoriesWf.execStartInstant {s : State} (h : s.memoriesWf) (t : Nat) : MemOut (execStartInstant t s) := by
  unfold Machine.execStartInstant
  dsimp only
  have h1 {x : Tile} (hx : x.memWf) (clk : Nat) (shape : BitVec 48) (limit : Nat) (lk : LinkCtl) :=
    (h.free (s.free + 1)).setTile (t := t) (hx.shadowed.start clk shape limit lk)
  have hx : (if (s.tile t).fresh then { (s.tile t).forgetAll s.free (s.tile t).spoiled with
      pfServe := (s.tile t).pfNext, cur := (s.tile t).cur.freeAccs AccState.unpinned } else s.tile t).memWf :=
    Tile.memWf.ite ((h.tile t).forgetAll ..) (h.tile t)
  exact h.next.ite ((h1 hx ..).keepDie.ite (h1 hx ..)).next

/-! Every step keeps the canonical form of every memory (R90): rollback, the end of a region's part, vector memory. -/

theorem Tile.memWf.entering {tl : Tile} (h : tl.memWf) : tl.entering.memWf := Tile.memWf.ite h h

theorem Tile.memWf.rollBack {tl : Tile} (h : tl.memWf) (k : Nat) : (tl.rollBack k).memWf := by
  have hu : (tl.vs.foldl (fun tl v => tl.undo k v) tl).memWf := h.foldl (fun _ _ h => h.undo ..) _
  obtain ⟨htm, hacc, _, hmbx⟩ := hu.forgetAll k (((List.range 31).filter fun i => !tl.kept i).map fun i => (65536 * i, 65536))
  exact ⟨htm, hacc, Memory.foldl_wf (fun m _ hm => m.forget_wf _ _ _ hm) _ h.2.2.1, hmbx⟩

theorem Tile.cleared_memWf (tl : Tile) (k : Nat) : (tl.cleared k).memWf := ⟨rfl, rfl, rfl, rfl⟩

namespace State.memoriesWf
variable {s : State}

/-! ## Abort and rollback (R179-R186) -/

theorem land (h : s.memoriesWf) (t : Nat) (dst : Rec) (j pa n : Nat) : (s.land t dst j pa n).memoriesWf :=
  (h.logBad ..).modTile fun _ h => (h.pokeRuns _).poisonRuns _

theorem refetch (h : s.memoriesWf) (t : Nat) : (s.refetch t).memoriesWf := by
  have hf (x : Tile) (l : List Nat) (hx : x.memWf) : ({ x with bad := l } : Tile).memWf := hx
  unfold State.refetch
  refine State.memoriesWf.modTile (State.memoriesWf.foldl (h.free _) (fun s e h => ?_) _) fun _ h => h.forgetAll ..
  exact State.memoriesWf.modTile (h.foldl (fun _ _ h => h.land ..) _) fun x hx => Tile.memWf.forgetAll (hf x _ hx) ..

theorem loseLines (h : s.memoriesWf) (t : Nat) : (s.loseLines t).memoriesWf := by
  unfold State.loseLines
  split
  · exact h.recordError ..
  · exact h

theorem moving (h : s.memoriesWf) (f : List Flit) (x : List ColXfer) (n : Nat) :
    ({ s with flits := f, xfers := x, free := n } : State).memoriesWf := h

theorem undoAttempt (h : s.memoriesWf) (t : Nat) (r : Region) : (s.undoAttempt t r).memoriesWf := by
  have h1 : ((List.range 10).foldl (fun s a => s.gldGone t a) s).memoriesWf := h.foldl (fun _ _ h => h.gldGone ..) _
  have h2 := h1.keepDie (d := dieOfTile t) (f := fun x => { x with ff := x.ff.abort r.id fun u => r.tiles.contains u })
  unfold State.undoAttempt
  dsimp only
  exact (((h2.loseLines t).moving ..).modTile fun _ h => h.entering.rollBack _).refetch t

theorem execAbort (h : s.memoriesWf) (t : Nat) : MemOut (execAbort t s) := by
  unfold Machine.execAbort
  split
  · exact h.next
  · dsimp only
    have h1 := h.keepTile (t := t) (f := fun tl => { tl with down := tl.down.drop 1 })
    split
    iterate 5 exact ((h1.voidRecords t).undoAttempt ..).keepTile.next
    exact h1.next

theorem renewLinks (h : s.memoriesWf) (m n : Nat) : (s.renewLinks m n).memoriesWf :=
  State.memoriesWf.wires (h.foldl (fun _ _ h => h.modLink ..) _) _

theorem execTargetedSelfTestEnd (h : s.memoriesWf) (t : Nat) (pass scrub : Bool) : MemOut (execTargetedSelfTestEnd t pass scrub s) := by
  unfold Machine.execTargetedSelfTestEnd
  dsimp only
  split
  · next q rest _ _ =>
    have h1 := h.keepDie (d := dieOfTile t) (f := fun x => { x with qd := { x.qd with
      selfTests := x.qd.selfTests + 1, selfFails := if pass then x.qd.selfFails else x.qd.selfFails + 1 } })
    refine MemOut.ite ?_ (MemOut.ite ?_ ?_)
    · have h2 := h1.setTile (t := t) (x := { s.tile t with tests := rest, lost := (s.tile t).lost || !scrub || (s.tile t).stillBad q }) (h.tile t)
      refine (State.memoriesWf.ite h2.keepDie (State.memoriesWf.ite (h2.modPort ..) (State.memoriesWf.ite ?_ h2))).next
      exact h2.foldl (fun _ _ h => h.renewLinks ..) _
    · refine (State.memoriesWf.fence (h1.setTile ?_) ..).next
      exact h.tile t
    · refine (h1.setTile ?_).next
      exact h.tile t
  · exact h.next

theorem execRollbackWindowDone (h : s.memoriesWf) (t : Nat) : MemOut (execRollbackWindowDone t s) := by
  unfold Machine.execRollbackWindowDone
  dsimp only
  split
  · exact h.next
  · refine MemOut.ite (State.memoriesWf.sendUp ?_ ..).next h.next
    exact h.keepSet

/-! ## The end of a region's part -/

theorem dropContexts (h : s.memoriesWf) (region : BitVec 20) (l : List Nat) : (s.dropContexts region l).memoriesWf :=
  h.foldl (fun _ _ h => h.modDie fun x hx => by dsimp only; split <;> exact hx) _

theorem unblock (h : s.memoriesWf) (m q : Nat) : (s.unblock m q).memoriesWf := h.keepModule

theorem endPart (h : s.memoriesWf) (r : Region) (p : Part) : (s.endPart r p).memoriesWf := by
  have h1 : (p.tiles.foldl (fun s t => { s with free := s.free + 4 }.setTile t ((s.tile t).cleared s.free)) s).memoriesWf :=
    h.foldl (fun _ _ h => (h.free _).setTile (Tile.cleared_memWf ..)) _
  exact State.memoriesWf.regions (((h1.dropContexts ..).unblock ..).modRegion ..) _

theorem partEnd (h : s.memoriesWf) (m serial : Nat) : (s.partEnd m serial).memoriesWf := by
  unfold State.partEnd
  split
  · exact h
  · split
    · exact h
    · exact State.memoriesWf.ite (((h.endPart ..).report ..).ite ((h.endPart ..).report ..)) h

theorem execStop (h : s.memoriesWf) (t : Nat) : MemOut (execStop t s) := by
  unfold Machine.execStop
  split
  · exact h.next
  · dsimp only
    have h1 := (h.keepTile (t := t) (f := fun tl => { tl with down := tl.down.drop 1 })).voidRecords t
    split
    · exact h1.next
    · exact MemOut.ite h1.keepTile.next (MemOut.ite (h1.undoAttempt ..).keepTile.next h1.keepTile.next)

theorem execShapingWindow (h : s.memoriesWf) (t : Nat) : MemOut (execShapingWindow t s) :=
  h.next.ite (MemOut.ite h.keepSet.next h.keepSet.next)

theorem qcrecRead (h : s.memoriesWf) (d : Nat) : (s.qcrecRead d).2.memoriesWf := by
  unfold State.qcrecRead
  split
  · exact h
  · exact h.keepDie

theorem execTreeReconfigure (h : s.memoriesWf) (r : Nat) : MemOut (execTreeReconfigure r s) := by
  unfold Machine.execTreeReconfigure
  split
  · exact h.next
  · exact h.next.ite (h.outs _).next

/-! ## Vector operations and vector memory -/

theorem viop (h : s.memoriesWf) (word : Nat) (d a b : BitVec 5) (w : BitVec 2) (f : Nat → Nat → Nat → Nat) :
    MemOut (s.viop word d a b w f) := h.vop ..

theorem vredX (h : s.memoriesWf) (word : Nat) (d a : BitVec 5) (f : VReg → W) : MemOut (s.vredX word d a f) :=
  h.onWork fun _ h => h.vread fun _ _ _ h => h.doneX ..

theorem execVld (h : s.memoriesWf) (d a : BitVec 5) (i : BitVec 14) : MemOut (execVld d a i s) :=
  h.onWork fun _ h => h.checked fun _ h => h.readBytes fun _ _ h1 => h.vwrite h1 fun _ h => h.doneNop

theorem execVst (h : s.memoriesWf) (r a : BitVec 5) (i : BitVec 14) : MemOut (execVst r a i s) :=
  h.onWork fun _ h => h.vread fun _ _ h0 h1 => h0.checked fun _ _ => h0.storeWait (by
    split
    · exact (h1.setTile (h1.storeHere ‹_›)).doneNop
    · exact h0.trap ..)

end State.memoriesWf

theorem storeElems_memWf {b : Fin 10} {q : List (Nat × Nat)} {tl t : Tile} {n : Nat} {l : List (W × Nat)} {r : Option W} (h : tl.memWf)
    (e : storeElems b q tl n l = (t, r)) : t.memWf := by
  induction l generalizing tl with
  | nil => cases e; exact h
  | cons p l ih =>
    unfold storeElems at e
    split at e
    · exact ih (h.store ‹_›) e
    · cases e
      exact h

namespace State.memoriesWf
variable {s0 s1 : State}

theorem elemLoad (h0 : s0.memoriesWf) (h1 : s1.memoriesWf) (d : BitVec 5) (w : Nat) (l : List W) : MemOut (s0.elemLoad s1 d w l) := by
  unfold State.elemLoad
  split
  · exact h0.trap ..
  · refine h0.rdWait fun _ _ => ?_
    split
    · exact (h0.readError ..).next
    · exact h0.vwrite (h1.loaded ..) fun _ h => h.doneNop

theorem elemStore (h0 : s0.memoriesWf) (h1 : s1.memoriesWf) (d : BitVec 5) (w : Nat) (l : List W) : MemOut (s0.elemStore s1 d w l) := by
  unfold State.elemStore
  split
  · exact h0.trap ..
  · refine h0.rdWait fun _ _ => ?_
    split
    · exact h0.waitOn _
    · refine h0.stall.ite ?_
      split
      · exact h0.trap ..
      · exact (h1.setTile (storeElems_memWf (h1.tile _) ‹_›)).doneNop

end State.memoriesWf

/-! Every step keeps the canonical form of every memory (R90): the root of a region, launch, region commands. -/

theorem Tile.memWf.publish {tl t : Tile} (h : tl.memWf) {src : Nat} {q : Fin 4} {bs : List Byte} (e : tl.publish src q bs = some t) :
    t.memWf := by
  unfold Tile.publish at e
  dsimp only at e
  split at e
  · cases e
  · cases e
    exact ⟨h.1, h.2.1, h.2.2.1, tl.mbx.write_wf _ _ h.2.2.2⟩

namespace State.memoriesWf
variable {s : State}

/-! ## The root's packets -/

theorem sendTo (h : s.memoriesWf) (r : Region) (p : Down) (t : Nat) : (s.sendTo r p t).memoriesWf :=
  h.ite ((h.podFailed ..).ite h.keepTile)

theorem sendDown (h : s.memoriesWf) (r : Region) (p : Down) : (s.sendDown r p).memoriesWf := h.foldl (fun _ _ h => h.sendTo ..) _

theorem takeUp (h : s.memoriesWf) {i kind : Nat} {u : Up} {r : Region} {t : State} (e : s.takeUp i kind = some (u, r, t)) :
    t.memoriesWf := by
  unfold State.takeUp at e
  split at e
  · cases e
  · split at e
    · cases e
    · split at e
      · cases e
      · cases e
        exact h.up _

theorem modDies (h : s.memoriesWf) (l : List Nat) {f : Die → Die} (hf : ∀ x, (f x).memWf = x.memWf := by intro _; rfl) :
    (s.modDies l f).memoriesWf := h.foldl (fun _ _ h => h.keepDie hf) _

theorem decideAbort (h : s.memoriesWf) (r : Region) (phase cause tile : Nat) : (s.decideAbort r phase cause tile).memoriesWf :=
  ((h.sendDown ..).modDies _).modRegion ..

theorem outrank (h : s.memoriesWf) (r : Region) (u : Up) : (s.outrank r u).memoriesWf := by
  unfold State.outrank
  dsimp only
  exact State.memoriesWf.ite ((h.modRegion ..).foldl (fun _ _ h => h.keepTile) _) h

theorem regionFault (h : s.memoriesWf) (r : Region) (cause tile : Nat) : (s.regionFault r cause tile).memoriesWf :=
  ((h.sendDown ..).modRegion ..).emitAll ..

theorem releaseAll (h : s.memoriesWf) (r : Region) (phase : Nat) (ssn : BitVec 48) : (s.releaseAll r phase ssn).memoriesWf :=
  (h.sendDown ..).modRegion ..

theorem execCloseArrival (h : s.memoriesWf) (i : Nat) : MemOut (execCloseArrival i s) := by
  unfold Machine.execCloseArrival
  split
  · exact h.next
  · next e =>
    have h1 := h.takeUp e
    exact (h1.outrank ..).next.ite ((h1.decideAbort ..).next.ite ((h1.decideAbort ..).next.ite
      ((h1.modRegion ..).next.ite ((h1.decideAbort ..).next.ite ((h1.modRegion ..).sendDown ..).next))))

/-! ## Shared commit -/

theorem applyRed (h : s.memoriesWf) (m f t : Nat) (d : Delta) : (s.applyRed m f t d).memoriesWf := by
  unfold State.applyRed
  split
  · exact h.logHbm ..
  · exact h.setHbm ..

theorem applyDeltas (h : s.memoriesWf) (r : Region) (m : Nat) : (s.applyDeltas r m).memoriesWf := by
  unfold State.applyDeltas
  extract_lets l s1
  have h1 : s1.memoriesWf := h.foldl (fun _ _ h => h.setHbm ..) _
  exact h1.foldl (fun _ _ h => h.foldl (fun _ _ h => h.applyRed ..) _) _

theorem patchTile (h : s.memoriesWf) (l : List (Nat × Delta)) (t : Nat) : (s.patchTile l t).memoriesWf :=
  h.foldl (fun _ _ h => h.foldl (fun _ _ h => h.foldl (fun _ _ h =>
    (h.land ..).modTile fun _ hx => Tile.memWf.foldl hx (fun _ _ h => h.fillFe ..) _) _) _) _

theorem commitHbm (h : s.memoriesWf) (r : Region) : (s.commitHbm r).memoriesWf :=
  h.foldl (fun _ _ h => (h.applyDeltas ..).foldl (fun _ _ h => h.patchTile ..) _) _

theorem offer (h : s.memoriesWf) {src : Nat} {o : OutEntry} {t : State} (e : s.offer src o = some t) : t.memoriesWf := by
  unfold State.offer at e
  dsimp only at e
  split at e
  · split at e
    · cases e
    · cases e
      exact h.keepSet
  · obtain ⟨tl, he, rfl⟩ := Option.map_eq_some_iff.mp e
    exact h.setTile ((h.tile _).publish he)

theorem offers (h : s.memoriesWf) (src : Nat) (l : List OutEntry) : (s.offers src l).2.memoriesWf := by
  induction l generalizing s with
  | nil => exact h
  | cons o l ih =>
    unfold State.offers
    split
    · exact ih (h.offer ‹_›)
    · exact ih h

theorem commitMessages (h : s.memoriesWf) (r : Region) : (s.commitMessages r).memoriesWf := by
  unfold State.commitMessages
  extract_lets tiles s0
  have h0 : s0.memoriesWf := h.foldl (fun _ _ h => h.keepTile) _
  exact h0.foldl (fun _ _ h => (h.offers ..).keepTile) _

theorem discardHeld (h : s.memoriesWf) (r : Region) : (s.discardHeld r).memoriesWf :=
  h.foldl (fun s t h => by dsimp only; exact (h.keepSet (x := { s.tile t with cur := { (s.tile t).cur with outbox := [] }, spawns := [] })).keepDie) _

theorem applyRoute (h : s.memoriesWf) (t : Nat) (q : RouteOp) : (s.applyRoute t q).memoriesWf := by
  unfold State.applyRoute
  exact h.keepDie

theorem commitRoutes (h : s.memoriesWf) (r : Region) : (s.commitRoutes r).memoriesWf := by
  unfold State.commitRoutes
  extract_lets tiles pass
  have hp (s : State) (p : RouteOp → Bool) (h : s.memoriesWf) : (pass s p).memoriesWf :=
    h.foldl (fun _ _ h => h.foldl (fun _ _ h => h.applyRoute ..) _) _
  exact hp _ _ (hp _ _ h)

theorem scanPort (h : s.memoriesWf) (m lport : Nat) : (s.scanPort m lport).memoriesWf := by
  refine h.ite (h.foldl (fun s q h => ?_) _)
  dsimp only
  split
  · exact h.logBad ..
  · exact State.memoriesWf.ite (h.keepModule.setHbm ..) h

theorem commitShared (h : s.memoriesWf) (r : Region) : (s.commitShared r).memoriesWf := by
  unfold State.commitShared
  extract_lets s1 s2 s3
  have h1 : s1.memoriesWf := ((h.commitHbm r).commitMessages r).commitRoutes r
  have h2 : s2.memoriesWf := h1.foldl (fun _ _ h => h.keepDie) _
  have h3 : s3.memoriesWf := h2.foldl (fun _ _ h => h.keepTile) _
  exact (h3.modRegion ..).foldl (fun _ _ h => h.scanPort ..) _

theorem sealCommit (h : s.memoriesWf) (r : Region) : (s.sealCommit r).memoriesWf := by
  unfold State.sealCommit
  extract_lets done hold s1 s2
  have h1 : s1.memoriesWf := (h.foldl (fun _ _ h => h.noteHeads _) _).commitShared r
  have h2 : s2.memoriesWf := (h1.discardHeld r).foldl (fun _ _ h => h.keepDie) _
  exact State.memoriesWf.ite ((h2.sendDown ..).modRegion ..) (State.memoriesWf.ite (((h1.sendDown ..).modRegion ..).emitAll ..)
    ((h1.modRegion ..).releaseAll ..))

theorem execSealArrival (h : s.memoriesWf) (i : Nat) : MemOut (execSealArrival i s) := by
  unfold Machine.execSealArrival
  split
  · exact h.next
  · next e =>
    have h1 := h.takeUp e
    exact (h1.outrank ..).next.ite ((h1.decideAbort ..).next.ite ((h1.sealCommit _).next.ite (h1.modRegion ..).next))

theorem execRestoreDone (h : s.memoriesWf) (i : Nat) : MemOut (execRestoreDone i s) := by
  unfold Machine.execRestoreDone
  split
  · exact h.next
  · next e =>
    have h1 := h.takeUp e
    exact h1.next.ite ((h1.modRegion ..).next.ite ((h1.regionFault ..).next.ite ((h1.releaseAll ..).next.ite (h1.regionFault ..).next)))

theorem declareDead (h : s.memoriesWf) (r : Region) : (s.declareDead r).memoriesWf := by
  unfold State.declareDead
  dsimp only
  split
  · exact h
  · exact h.foldl (fun _ _ h => h.keepModule.report ..) _

theorem execRootTimeout (h : s.memoriesWf) (k : Nat) : MemOut (execRootTimeout k s) := by
  unfold Machine.execRootTimeout
  split
  · exact h.next
  · exact h.next.ite ((h.decideAbort ..).next.ite ((h.decideAbort ..).next.ite (((h.regionFault ..).declareDead _).next.ite h.next)))

end State.memoriesWf

/-! ## The parts of a die that hold no memory -/

namespace Die.memWf
variable {x : Die} (h : x.memWf)
include h
theorem ctl (v : DieCtl) : ({ x with ctl := v } : Die).memWf := h
theorem mc (v : MemCtl) : ({ x with mc := v } : Die).memWf := h
theorem qd (v : QuadCtl) : ({ x with qd := v } : Die).memWf := h
theorem ff (v : Firefly) : ({ x with ff := v } : Die).memWf := h
end Die.memWf

/-! ## CSRs -/

theorem Tile.memWf.putCsr {tl : Tile} (h : tl.memWf) (n : Nat) (v : W) : (tl.putCsr n v).memWf := by
  unfold Tile.putCsr
  exact h

theorem Tile.memWf.feedAll {tl : Tile} (h : tl.memWf) : tl.feedAll.memWf := h.foldl (fun _ _ h => h.feedLaunch) _

namespace State.memoriesWf
variable {s : State}

theorem putCsr (h : s.memoriesWf) (w : Who) (n : Nat) (v : W) : (s.putCsr w n v).memoriesWf := by
  unfold State.putCsr
  refine State.memoriesWf.ite (h.modAgent ..) ?_
  split
  · exact h.modTile fun _ h => h.putCsr ..
  · exact h

/-! ## Launch (R388-R400) -/

theorem launchTile (h : s.memoriesWf) (m pa : Nat) (f : RcbFields) (q : MapEntry × Nat) : (s.launchTile m pa f q).memoriesWf := by
  unfold State.launchTile
  extract_lets e old _ cur _ tl
  have ht : tl.memWf := ⟨Memory.write_wf _ _ _ Memory.empty_wf, Memory.empty_wf, Memory.empty_wf, Memory.empty_wf⟩
  exact h.setTile ht.feedAll

theorem createCtx (h : s.memoriesWf) (region : BitVec 20) (f : RcbFields) (q : Nat × Nat) : (s.createCtx region f q).memoriesWf := by
  unfold State.createCtx
  refine h.modDie fun x hx => ?_
  split <;> exact hx

theorem openRegion (h : s.memoriesWf) (p : Part) (id : BitVec 20) (f : RcbFields) : (s.openRegion p id f).2.memoriesWf := by
  unfold State.openRegion
  split
  · exact h.modRegion ..
  · exact h

theorem launch (h : s.memoriesWf) (m : Nat) (q : Fin 16) (pa : Nat) : (s.launch m q pa).memoriesWf := by
  unfold State.launch
  extract_lets chain fs f id map tiles part s1 s2 o
  have h1 : s1.memoriesWf := h.foldl (fun _ _ h => h.launchTile ..) _
  have h2 : s2.memoriesWf := h1.ite (h1.foldl (fun _ _ h => h.createCtx ..) _)
  exact (h2.openRegion ..).keepModule.report ..

theorem abortJoin (h : s.memoriesWf) (m : Nat) (id : BitVec 20) (nmod ssn0 : Nat) (f : RcbFields) : (s.abortJoin m id nmod ssn0 f).memoriesWf := by
  unfold State.abortJoin
  refine h.ite ?_
  extract_lets o
  have ho : o.2.memoriesWf := by
    unfold o
    split <;> exact h
  exact ho.up _

theorem refuseLaunch (h : s.memoriesWf) (m : Nat) (q : Fin 16) (pa bad : Nat) : (s.refuseLaunch m q pa bad).memoriesWf := by
  unfold State.refuseLaunch
  extract_lets f s1 s2
  have h1 : s1.memoriesWf := h.keepModule
  have h2 : s2.memoriesWf := by
    unfold s2
    split
    · exact h1.logHbm ..
    · exact h1
  exact (h2.report ..).abortJoin ..

theorem launchTurn (h : s.memoriesWf) (m : Nat) : (s.launchTurn m).memoriesWf := by
  unfold State.launchTurn
  split
  · exact h.refuseLaunch ..
  · split
    · exact h.launch ..
    · exact h

theorem execRegionLaunch (h : s.memoriesWf) (m : Nat) : MemOut (execRegionLaunch m s) :=
  h.next.ite (((h.loseRows m).launchTurn m).next.ite (h.launchTurn m).next)

theorem stopLaunch (h : s.memoriesWf) (r : Region) (p : Part) (cause tile : Nat) : (s.stopLaunch r p cause tile).memoriesWf := by
  unfold State.stopLaunch
  extract_lets s1
  have h1 : s1.memoriesWf := h.foldl (fun _ _ h => h.voidRecords _) _
  exact ((h1.endPart ..).report ..).abortJoin ..

theorem joinFailed (h : s.memoriesWf) (r : Region) (p : Part) : (s.joinFailed r p).memoriesWf := h.foldl (fun _ _ h => h.podFailed ..) _

theorem execLaunchTilesSet (h : s.memoriesWf) (m k : Nat) : MemOut (execLaunchTilesSet m k s) := by
  unfold Machine.execLaunchTilesSet
  split
  · exact h.next
  · split
    · exact h.next
    · refine h.next.ite ?_
      split
      · exact (h.stopLaunch ..).next
      · exact h.next.ite ((h.releaseAll ..).next.ite ((h.joinFailed ..).next.ite ((h.modRegion ..).up _).next))

theorem execLaunchTimeout (h : s.memoriesWf) (m k : Nat) : MemOut (execLaunchTimeout m k s) := by
  unfold Machine.execLaunchTimeout
  split
  · exact h.next
  · split
    · exact h.next
    · refine h.next.ite ?_
      split
      · exact (h.stopLaunch ..).next
      · exact h.next

theorem stopStart (h : s.memoriesWf) (r : Region) : (s.stopStart r).memoriesWf := by
  unfold State.stopStart
  extract_lets gone left r1 rest s1
  have h1 : s1.memoriesWf := h
  exact h1.sendDown ..

theorem execLaunchJoin (h : s.memoriesWf) (i : Nat) : MemOut (execLaunchJoin i s) := by
  unfold Machine.execLaunchJoin
  split
  · exact h.next
  · next e =>
    have h1 := h.takeUp e
    exact h1.next.ite ((h1.stopStart _).next.ite (((h1.modRegion ..).stopStart _).next.ite
      (((h1.modRegion ..).releaseAll ..).next.ite (h1.modRegion ..).next)))

theorem execJoinTimeout (h : s.memoriesWf) (k : Nat) : MemOut (execJoinTimeout k s) := by
  unfold Machine.execJoinTimeout
  split
  · exact h.next
  · split
    · exact h.next.ite (h.stopStart _).next
    · exact h.next

/-! ## Region commands (R403-R406) -/

theorem noteCmd (h : s.memoriesWf) (d op : Nat) (id : BitVec 20) (refused : Bool) : (s.noteCmd d op id refused).memoriesWf :=
  h.modDie fun _ h => h.ctl _

theorem hold (h : s.memoriesWf) (d : Nat) (id : BitVec 20) : (s.hold d id).memoriesWf := by
  unfold State.hold
  split
  · exact State.memoriesWf.ite ((h.modRegion ..).noteCmd ..) (h.noteCmd ..)
  · exact h.noteCmd ..

theorem emptyRegion (h : s.memoriesWf) (r : Region) : (s.emptyRegion r).memoriesWf := by
  unfold State.emptyRegion
  extract_lets of s1
  have h1 : s1.memoriesWf := h.mapTiles (f := fun k x => { x with inReg := x.inReg && !of (k, x) }) fun _ _ hx => hx
  exact h1.dropContexts ..

theorem freeRegion (h : s.memoriesWf) (r : Region) : (s.freeRegion r).memoriesWf := (h.emptyRegion r).modRegion ..

theorem freeCmd (h : s.memoriesWf) (d : Nat) (id : BitVec 20) : (s.freeCmd d id).memoriesWf := by
  unfold State.freeCmd
  split
  · exact State.memoriesWf.ite ((h.freeRegion _).noteCmd ..) (h.noteCmd ..)
  · exact h.noteCmd ..

theorem discard (h : s.memoriesWf) (d : Nat) (id : BitVec 20) : (s.discard d id).memoriesWf := by
  unfold State.discard
  split
  · next r _ =>
    extract_lets s1 s2 s3
    have h2 : s2.memoriesWf := (h.freeRegion r).foldl (fun _ _ h => h.unblock ..) _
    have h3 : s3.memoriesWf := h2.regions _
    exact State.memoriesWf.ite ((h3.emitAll ..).noteCmd ..) (h.noteCmd ..)
  · exact h.noteCmd ..

theorem resumeTile (h : s.memoriesWf) (r : Region) (instant : Nat) (ssn : BitVec 48) (slot : Option Nat) (t : Nat) :
    (s.resumeTile r instant ssn slot t).memoriesWf := by
  unfold State.resumeTile
  exact h.ite (h.keepTile.sendTo ..)

theorem resume (h : s.memoriesWf) (d : Nat) (id : BitVec 20) : (s.resume d id).memoriesWf := by
  unfold State.resume
  extract_lets m pa map s0 tiles first
  split
  · extract_lets may instant s1 s2 s3 r1 s4
    have h0 : s0.memoriesWf := by
      unfold s0
      exact (h.noteRead ..).noteRead ..
    have h1 : s1.memoriesWf := by
      refine h0.foldl (fun _ _ h => h.modTile fun x hx => ?_) _
      split <;> exact hx
    have h2 : s2.memoriesWf := h1.foldl (fun _ _ h => h.resumeTile ..) _
    have h3 : s3.memoriesWf := h2.foldl (fun _ _ h => h.foldl (fun _ _ h => h.resumeTile ..) _) _
    have h4 : s4.memoriesWf := h3.modRegion ..
    exact State.memoriesWf.ite ((h4.emitAll ..).noteCmd ..) (h0.noteCmd ..)
  · exact h.noteCmd ..

theorem rctlGo (h : s.memoriesWf) (d op : Nat) (id : BitVec 20) : (s.rctlGo d op id).memoriesWf := by
  unfold State.rctlGo
  exact (h.hold ..).ite ((h.freeCmd ..).ite ((h.resume ..).ite ((h.discard ..).ite (h.modDie fun _ h => h.ctl _))))

end State.memoriesWf

/-! Every step keeps the canonical form of every memory (R90): images, health and power, resets and boot, windows, host operations, links. -/

/-! ## Maps whose entries all change -/

/-- A property of an entry that its new value keeps holds of it after the entries of a map have changed in place. -/
theorem kvGet_forall₂ {α : Type} {P : α → Prop} {d : α} {l l' : List (Nat × α)} (hl : l.Forall₂ (fun p q => q.1 = p.1 ∧ (P p.2 → P q.2)) l')
    (u : Nat) (h : P (kvGet d l u)) : P (kvGet d l' u) := by
  induction hl with
  | nil => exact h
  | @cons p q _ _ hpq _ ih =>
    obtain ⟨hk, hp⟩ := hpq
    simp only [kvGet] at h ⊢
    rw [hk]
    split at h
    · rw [if_pos ‹_›]; exact hp h
    · rw [if_neg ‹_›]; exact ih h

theorem forall₂_map {α : Type} {R : Nat × α → Nat × α → Prop} {f : Nat × α → Nat × α} (hf : ∀ q, R q (f q)) (l : List (Nat × α)) :
    l.Forall₂ R (l.map f) := by
  induction l with
  | nil => exact .nil
  | cons q l ih => exact .cons (hf q) ih

theorem forall₂_zipIdx_map {α : Type} {R : Nat × α → Nat × α → Prop} {f : (Nat × α) × Nat → Nat × α} (hf : ∀ q k, R q (f (q, k)))
    (l : List (Nat × α)) (n : Nat) : l.Forall₂ R ((l.zipIdx n).map f) := by
  induction l generalizing n with
  | nil => exact .nil
  | cons q l ih => exact .cons (hf q n) (ih (n + 1))

/-- Entries taken out of a map leave the others, and the default. -/
theorem kvGet_filter_prop {α : Type} {P : α → Prop} {d : α} (hd : P d) (p : Nat × α → Bool) (hp : ∀ k x y, p (k, x) = p (k, y))
    (l : List (Nat × α)) (u : Nat) (h : P (kvGet d l u)) : P (kvGet d (l.filter p) u) := by
  induction l with
  | nil => exact h
  | cons q l ih =>
    obtain ⟨k, x⟩ := q
    simp only [kvGet] at h
    simp only [List.filter_cons]
    by_cases hk : k = u
    · subst hk
      rw [if_pos rfl] at h
      by_cases hq : p (k, x) = true
      · simpa [hq, kvGet] using h
      · rw [if_neg hq]
        suffices hs : kvGet d (l.filter p) k = d by rw [hs]; exact hd
        clear ih h
        induction l with
        | nil => rfl
        | cons r l ih =>
          obtain ⟨j, y⟩ := r
          by_cases hj : p (j, y) = true
          · have hne : j ≠ k := fun e => hq (by rw [hp k x y, ← e]; exact hj)
            simp [hj, kvGet, hne, ih]
          · simp [hj, ih]
    · rw [if_neg hk] at h
      split
      · simpa [kvGet, hk] using ih h
      · exact ih h

theorem Die.reset_memWf : Die.reset.memWf := fun c => by
  show (Die.reset.svc[c]).mem.wf = true
  rw [show Die.reset.svc[c] = SvcCore.reset from Vector.getElem_replicate c.isLt]
  exact Memory.empty_wf

namespace State.memoriesWf
variable {s : State}

theorem tilesTo (h : s.memoriesWf) {l : List (Nat × Tile)} (hl : s.tiles.Forall₂ (fun p q => q.1 = p.1 ∧ (p.2.memWf → q.2.memWf)) l) :
    ({ s with tiles := l } : State).memoriesWf := ⟨fun u => kvGet_forall₂ hl u (h.tile u), h.2.1, h.2.2⟩

theorem diesTo (h : s.memoriesWf) {l : List (Nat × Die)} (hl : s.dies.Forall₂ (fun p q => q.1 = p.1 ∧ (p.2.memWf → q.2.memWf)) l) :
    ({ s with dies := l } : State).memoriesWf := ⟨h.1, fun d => kvGet_forall₂ hl d (h.die d), h.2.2⟩

/-! ## Context images (R407-R410) -/

theorem saveImage (h : s.memoriesWf) (m t pa : Nat) : (s.saveImage m t pa).memoriesWf := by
  unfold State.saveImage
  extract_lets s1 s2
  have h1 : s1.memoriesWf := (h.setHbm ..).setHbm ..
  have h2 : s2.memoriesWf := h1.foldl (fun _ _ h => h.setHbm ..) _
  exact h2.keepModule

theorem setCopy (h : s.memoriesWf) (k : Option ImageCopy) : (s.setCopy k).memoriesWf := by
  unfold State.setCopy
  split
  · exact h.modDie fun x hx => hx.setSvc (hx _)
  · exact h

theorem execCtxsv (h : s.memoriesWf) (a b : BitVec 5) : MemOut (execCtxsv a b s) := h.onService fun s h => by
  dsimp only
  split
  · exact ((h.setCopy _).saveImage ..).doneNop
  · split
    · exact h.trap ..
    · exact (h.trap ..).ite (h.setCopy _).next

theorem loadImage (h : s.memoriesWf) (m t pa : Nat) : (s.loadImage m t pa).memoriesWf := by
  unfold State.loadImage
  extract_lets old ver id own pinned _ tl
  have ht : tl.memWf := ⟨Memory.write_wf _ _ _ Memory.empty_wf, Memory.foldl_wf (fun m _ hm => m.write_wf _ _ hm) _ rfl,
    Memory.write_wf _ _ _ Memory.empty_wf, Memory.write_wf _ _ _ Memory.empty_wf⟩
  exact (h.free _).setTile ht

theorem execCtxld (h : s.memoriesWf) (a b : BitVec 5) : MemOut (execCtxld a b s) := h.onService fun s h => by
  dsimp only
  split
  · exact (((h.setCopy _).logBad ..).loadImage ..).doneNop
  · split
    · exact h.trap ..
    · exact (h.trap ..).ite (((h.noteRead ..).trap ..).ite ((h.noteRead ..).setCopy _).next)

/-! ## Health (R416-R419) -/

theorem upset (h : s.memoriesWf) (e : Upset) : (s.upset e).memoriesWf := by
  cases e with
  | corrected d hbm => exact h.modDie fun _ h => h.ctl _
  | tm | acc | slot | vs | mailbox | l1 => exact h.keepTile
  | firefly | llt => exact h.keepDie
  | hbm => exact h.keepModule
  | core d c w => exact h.modDie fun x hx => hx.setSvc (hx c)

theorem serve (h : s.memoriesWf) (t : Nat) (p : Nat × Nat × Nat → Bool) : (s.serve t p).memoriesWf := h.keepTile

theorem tspareWrite (h : s.memoriesWf) (d : Nat) (n : Fin 4) (v : W) : (s.tspareWrite d n v).memoriesWf := by
  unfold State.tspareWrite
  extract_lets s1
  have h1 : s1.memoriesWf := h.modDie fun _ h => h.ctl _
  exact State.memoriesWf.ite h1.keepTile h1

theorem rsprowWrite (h : s.memoriesWf) (d : Nat) (v : W) : (s.rsprowWrite d v).memoriesWf := by
  unfold State.rsprowWrite
  extract_lets sel s1 t bank row
  have h1 : s1.memoriesWf := h.modDie fun _ h => h.ctl _
  exact State.memoriesWf.ite (h1.serve ..).keepTile h1

theorem ffspareWrite (h : s.memoriesWf) (d : Nat) (n : Fin 4) (v : W) : (s.ffspareWrite d n v).memoriesWf := by
  unfold State.ffspareWrite
  extract_lets s1 row
  have h1 : s1.memoriesWf := h.modDie fun _ h => h.ff _
  refine State.memoriesWf.ite (State.memoriesWf.modDie ?_ fun _ h => h.ff _) h1
  exact h1.foldl (fun _ _ h => h.ite (h.serve ..)) _

theorem lfenceWrite (h : s.memoriesWf) (m : Nat) (v : W) : (s.lfenceWrite m v).memoriesWf := by
  have h1 := h.keepModule (m := m) (f := fun x => { x with lfence := BitVec.ofNat 40 (v.fld 0 40) })
  exact h1.tilesTo (forall₂_map (fun _ => ⟨rfl, id⟩) _)

theorem spareWrite (h : s.memoriesWf) {d n : Nat} {v : W} {t : State} (e : s.spareWrite d n v = some t) : t.memoriesWf := by
  unfold State.spareWrite at e
  dsimp only at e
  split at e
  · split at e
    · obtain rfl := Option.some.inj e; exact ((h.tspareWrite ..).fenceLeft _).noteReplace _
    · cases e
  · split at e
    · split at e
      · obtain rfl := Option.some.inj e; exact ((h.rsprowWrite ..).fenceLeft _).noteReplace _
      · cases e
    · split at e
      · split at e
        · obtain rfl := Option.some.inj e; exact (h.lfenceWrite ..).noteReplace _
        · cases e
      · split at e
        · obtain rfl := Option.some.inj e; exact ((h.ffspareWrite ..).fenceLeft _).noteReplace _
        · cases e

theorem execSpareControlWrite (h : s.memoriesWf) (d : Nat) (csr : BitVec 12) (v : W) : MemOut (execSpareControlWrite d csr v s) := by
  unfold Machine.execSpareControlWrite
  split
  · exact (h.spareWrite ‹_›).next
  · exact (h.outs _).next

theorem repaired (h : s.memoriesWf) (d : Nat) (q : Nat × Nat × Nat) : (s.repaired d q).memoriesWf := h.keepModule

theorem execPprDone (h : s.memoriesWf) (d : Nat) : MemOut (execPprDone d s) := by
  unfold Machine.execPprDone
  dsimp only
  exact h.next.ite (State.memoriesWf.noteReplace (State.memoriesWf.ite h.keepDie (h.keepDie.repaired ..)) _).next

/-! ## Power (R420-R423), the thermal trip, pod time -/

theorem pcapWrite (h : s.memoriesWf) (m v : Nat) : (s.pcapWrite m v).memoriesWf := by
  unfold State.pcapWrite
  exact h.keepModule

theorem pslewWrite (h : s.memoriesWf) (m v : Nat) : (s.pslewWrite m v).memoriesWf := by
  unfold State.pslewWrite
  exact h.keepModule.foldl (fun _ _ h => h.modDie fun _ h => h.qd _) _

theorem throtWrite (h : s.memoriesWf) (d v : Nat) : (s.throtWrite d v).memoriesWf := h.modDie fun _ h => h.ctl _

theorem execPowerCapInterval (h : s.memoriesWf) (m : Nat) (pwr : BitVec 16) (scale : Nat × Nat × Nat) (temps : List (Nat × Nat × Nat)) :
    MemOut (execPowerCapInterval m pwr scale temps s) := by
  unfold Machine.execPowerCapInterval
  extract_lets s1 hot s2
  have h1 : s1.memoriesWf := h.foldl (fun _ _ h => h.modDie fun _ h => h.ctl _) _
  have h2 : s2.memoriesWf := h1.tilesTo (forall₂_map (fun q => by split <;> exact ⟨rfl, id⟩) _)
  exact h2.keepModule.next

theorem execThermalTrip (h : s.memoriesWf) (m : Nat) : MemOut (execThermalTrip m s) := by
  unfold Machine.execThermalTrip
  extract_lets stop s1 s2
  have h1 : s1.memoriesWf := h.tilesTo (forall₂_map (fun q => by split <;> exact ⟨rfl, id⟩) _)
  have h2 : s2.memoriesWf := by
    refine h1.diesTo (forall₂_map (fun q => ?_) _)
    split
    · exact ⟨rfl, fun hq c => by simpa using hq c⟩
    · exact ⟨rfl, id⟩
  exact h.next.ite h2.keepModule.next

theorem execIeee1588Sync (h : s.memoriesWf) (m : Nat) (ofs : BitVec 16) (adj : Option Int) : MemOut (execIeee1588Sync m ofs adj s) := by
  unfold Machine.execIeee1588Sync
  split
  · extract_lets s1
    have h1 : s1.memoriesWf := h.keepModule
    refine (h1.tilesTo (forall₂_map (fun q => ?_) _)).next
    split <;> exact ⟨rfl, id⟩
  · exact h.keepModule.next

/-! ## Resets and boot (R30, R384, R426) -/

theorem cutMoves_wf (h : s.memoriesWf) (m : Nat) : (s.cutMoves m).1.wf = true := by
  unfold State.cutMoves
  extract_lets x moves
  refine List.foldlRecOn (motive := fun q : Memory × List CutMove => q.1.wf = true) _ _ (h.module m) fun q hq e _ => ?_
  dsimp only
  exact Memory.foldl_wf (fun m _ hm => m.forget_wf _ _ _ hm) _ hq

theorem resetModule (h : s.memoriesWf) (m : Nat) : (s.resetModule m).memoriesWf := by
  unfold State.resetModule
  extract_lets mine x _ fresh s1
  have ht : s.tiles.Forall₂ (fun p q => q.1 = p.1 ∧ (p.2.memWf → q.2.memWf)) s1.tiles := by
    refine forall₂_zipIdx_map (fun q k => ?_) s.tiles 0
    split
    · exact ⟨rfl, fun _ => Tile.cleared_memWf q.2 _⟩
    · exact ⟨rfl, id⟩
  have hd (d : Nat) : (s1.die d).memWf :=
    kvGet_filter_prop (P := Die.memWf) Die.reset_memWf (fun q => decide (modOfDie q.1 ≠ m)) (fun _ _ _ => rfl) s.dies d (h.die d)
  have h1 : s1.memoriesWf := ⟨fun u => kvGet_forall₂ (P := Tile.memWf) ht u (h.tile u), hd, h.module⟩
  exact State.memoriesWf.setModule (h1.up _) (h.cutMoves_wf m)

theorem execPowerOn (h : s.memoriesWf) (m : Nat) : MemOut (execPowerOn m s) := by
  unfold Machine.execPowerOn
  extract_lets s1
  have h1 : s1.memoriesWf := h.modModule fun _ _ => Memory.empty_wf
  exact ((h1.modDies _).resetModule m).next

theorem bootFrom (h : s.memoriesWf) (m : Nat) (image : List Byte) (b : Bool) : (s.bootFrom m image b).memoriesWf := by
  unfold State.bootFrom
  extract_lets n core
  have hc : core.mem.wf = true := Memory.write_wf _ _ _ Memory.empty_wf
  refine State.memoriesWf.keepModule (h.foldl (fun _ _ h => h.modDie fun x _ c => ?_) _)
  show ((Vector.replicate 2 core)[c]).mem.wf = true
  rw [show (Vector.replicate 2 core)[c] = core from Vector.getElem_replicate c.isLt]
  exact hc

theorem execSecureBoot (h : s.memoriesWf) (m : Nat) : MemOut (execSecureBoot m s) :=
  h.next.ite ((h.bootFrom ..).next.ite ((h.bootFrom ..).next.ite h.keepModule.next))

theorem attctlWrite (h : s.memoriesWf) (m : Nat) (v : W) : (s.attctlWrite m v).memoriesWf := by
  unfold State.attctlWrite
  refine h.modModule fun x hx => ?_
  split <;> exact hx

theorem execAttestationDone (h : s.memoriesWf) (m : Nat) : MemOut (execAttestationDone m s) := by
  unfold Machine.execAttestationDone
  dsimp only
  exact h.next.ite (State.memoriesWf.keepModule (h.ite ((h.noteRead ..).setHbm ..))).next

theorem sideband (h : s.memoriesWf) (m : Nat) (bs : List Byte) : MemOut (s.sideband m bs) := (h.outs _).next

theorem execSbUnknownCommand (h : s.memoriesWf) (m : Nat) (code : BitVec 8) : MemOut (execSbUnknownCommand m code s) :=
  h.next.ite (h.outs _).next

/-! ## CSRs of a die -/

theorem readDieCsr (h : s.memoriesWf) (d n : Nat) : (s.readDieCsr d n).2.memoriesWf := by
  unfold State.readDieCsr
  split
  · exact h.qcrecRead d
  · split
    · exact h.physdRead d
    · split
      · exact h.hbmerrRead d
      · exact h

end State.memoriesWf

theorem Die.memWf.ite {x y : Die} {c : Prop} [Decidable c] (hx : x.memWf) (hy : y.memWf) : (if c then x else y).memWf := by
  split
  · exact hx
  · exact hy

theorem Die.memWf.lk {x : Die} (h : x.memWf) (v : LinkCtl) : ({ x with lk := v } : Die).memWf := h

theorem Die.memWf.putCsr {x : Die} (h : x.memWf) (n : Nat) (v : W) : (x.putCsr n v).memWf := by
  unfold Die.putCsr
  exact Die.memWf.ite (h.qd _) (Die.memWf.ite (h.mc _) (Die.memWf.ite (h.ff _) (Die.memWf.ite (h.lk _) (Die.memWf.ite (h.lk _)
    (Die.memWf.ite (h.lk _) (Die.memWf.ite (h.mc _) (Die.memWf.ite (h.mc _) (Die.memWf.ite (h.mc _) (Die.memWf.ite (h.ctl _)
      (Die.memWf.ite (h.ctl _) h))))))))))

namespace State.memoriesWf
variable {s : State}

theorem spareCsr (h : s.memoriesWf) (d n : Nat) (v : W) : (s.spareCsr d n v).memoriesWf := by
  unfold State.spareCsr
  cases e : s.spareWrite d n v with
  | none => exact h.outs _
  | some t => exact h.spareWrite e

theorem writeDieCsr (h : s.memoriesWf) (d n : Nat) (v : W) : (s.writeDieCsr d n v).memoriesWf := by
  unfold State.writeDieCsr
  dsimp only
  exact (h.spareCsr ..).ite ((h.fqbaseWrite ..).ite ((h.physdWrite ..).ite ((h.ilmapWrite ..).ite ((h.migctlWrite ..).ite
    ((h.pprctlWrite ..).ite (State.memoriesWf.ite ((h.rctlGo ..).ite (h.modDie fun _ h => h.ctl _)) ((h.pcapWrite ..).ite
      ((h.pslewWrite ..).ite ((h.throtWrite ..).ite (h.keepModule.ite ((h.attctlWrite ..).ite
        (h.modDie fun _ h => Die.memWf.putCsr h n v))))))))))))

theorem execCsrr (h : s.memoriesWf) (d : BitVec 5) (n : BitVec 12) : MemOut (execCsrr d n s) := by
  unfold Machine.execCsrr
  dsimp only
  refine MemOut.ite ?_ ?_
  · split
    · exact h.trap ..
    · exact (h.trap ..).ite ((h.readDieCsr ..).doneX ..)
  · split
    · exact h.doneX ..
    · exact h.trap ..

theorem execCsrw (h : s.memoriesWf) (b : BitVec 5) (n : BitVec 12) : MemOut (execCsrw b n s) := by
  unfold Machine.execCsrw
  dsimp only
  refine MemOut.ite ?_ ?_
  · split
    · exact h.trap ..
    · exact (h.trap ..).ite ((h.trap ..).ite (h.writeDieCsr ..).doneNop)
  · split
    · exact h.trap ..
    · exact (h.trap ..).ite (h.putCsr ..).doneNop

end State.memoriesWf

/-! Every step keeps the canonical form of every memory (R90): windows, host operations, links. -/

/-! ## Windows (R26-R29) -/

namespace Tile.memWf
variable {tl : Tile}

theorem setFeWord (h : tl.memWf) (w v : Nat) : (tl.setFeWord w v).memWf := h.foldl (fun _ _ h => h.setFe ..) _

theorem putAccWord (h : tl.memWf) (o : Nat) (bs : List Byte) : (tl.putAccWord o bs).memWf :=
  ⟨h.1, tl.acc.write_wf _ _ h.2.1, h.2.2⟩

theorem putMbx (h : tl.memWf) (o : Nat) (bs : List Byte) : (tl.putMbx o bs).memWf :=
  ⟨h.1, h.2.1, h.2.2.1, tl.mbx.write_wf _ _ h.2.2.2⟩

end Tile.memWf

namespace State.memoriesWf
variable {s : State}

theorem putWindowCsr (h : s.memoriesWf) (t : Nat) (a : Fin 10) (n : Nat) (v : W) : (s.putWindowCsr t a n v).memoriesWf := by
  unfold State.putWindowCsr
  split
  · exact h.ite (h.putCsr ..)
  · exact h

theorem putTileWord (h : s.memoriesWf) (t o : Nat) (bs : List Byte) : (s.putTileWord t o bs).memoriesWf := by
  unfold State.putTileWord
  dsimp only
  refine State.memoriesWf.ite h.keepTile (State.memoriesWf.ite h.keepTile (State.memoriesWf.ite ?_ ((h.putWindowCsr ..).ite h)))
  exact h.modTile fun _ h => h.setFeWord ..

theorem putTileBytes (h : s.memoriesWf) (t o : Nat) (bs : List Byte) : (s.putTileBytes t o bs).memoriesWf := by
  unfold State.putTileBytes
  refine State.memoriesWf.ite ?_ (State.memoriesWf.ite ?_ (State.memoriesWf.ite ?_ ?_))
  · exact h.modTile fun _ h => h.poke ..
  · exact h.modTile fun _ h => h.putAccWord ..
  · exact h.modTile fun _ h => h.putMbx ..
  · exact h.foldl (fun _ _ h => h.putTileWord ..) _

theorem dieWord (h : s.memoriesWf) (d o : Nat) : (s.dieWord d o).2.memoriesWf := by
  unfold State.dieWord
  dsimp only
  split
  · split
    · exact h.readDieCsr ..
    · exact h
  · split
    · exact h
    · split
      · exact h
      · split
        · exact h
        · split
          · exact h.free _
          · exact h

theorem putDieWord (h : s.memoriesWf) (d o : Nat) (bs : List Byte) : (s.putDieWord d o bs).memoriesWf := by
  unfold State.putDieWord
  dsimp only
  exact State.memoriesWf.ite ((h.writeDieCsr ..).ite h) (State.memoriesWf.ite (h.modDie fun _ h => h.lk _) h)

theorem onchipRead (h : s.memoriesWf) {m addr n : Nat} {r : List Byte × State} (e : s.onchipRead m addr n = some r) : r.2.memoriesWf := by
  unfold State.onchipRead at e
  dsimp only at e
  split at e
  · cases e
  · split at e
    · obtain rfl := Option.some.inj e
      exact h.free _
    · split at e
      · split at e
        · cases e
        · obtain rfl := Option.some.inj e
          exact List.foldlRecOn (motive := fun q : List Byte × State => q.2.memoriesWf) _ _ h fun q hq p _ => hq.dieWord ..
      · cases e

theorem onchipWrite (h : s.memoriesWf) {m addr : Nat} {bs : List Byte} {t : State} (e : s.onchipWrite m addr bs = some t) :
    t.memoriesWf := by
  unfold State.onchipWrite at e
  dsimp only at e
  split at e
  · cases e
  · split at e
    · split at e
      · cases e
      · obtain rfl := Option.some.inj e
        exact h.putTileBytes ..
    · split at e
      · split at e
        · exact h.ffWindowWrite e
        · split at e
          · cases e
          · obtain rfl := Option.some.inj e
            exact h.foldl (fun _ _ h => h.putDieWord ..) _
      · cases e

theorem execWindowRead (h : s.memoriesWf) (m addr len : Nat) : MemOut (execWindowRead m addr len s) := by
  unfold Machine.execWindowRead
  refine h.next.ite ?_
  split
  · exact ((h.onchipRead ‹_›).outs _).next
  · exact (h.outs _).next

theorem execWindowWrite (h : s.memoriesWf) (m addr : Nat) (bs : List Byte) : MemOut (execWindowWrite m addr bs s) := by
  unfold Machine.execWindowWrite
  refine h.next.ite ?_
  split
  · exact ((h.onchipWrite ‹_›).outs _).next
  · exact (h.outs _).next

theorem execWindowSemaphoreWrite (h : s.memoriesWf) (t k : Nat) (v : W) : MemOut (execWindowSemaphoreWrite t k v s) :=
  h.next.ite ((h.outs _).next.ite (h.keepTile.outs _).next)

/-! ## Host operations (R412-R414) -/

theorem answer (h : s.memoriesWf) (d tag status : Nat) (data : List Byte) : MemOut (s.answer d tag status data) := (h.sendOp ..).next

theorem execHostWrite (h : s.memoriesWf) (d : Nat) (onchip : Bool) (addr tag : Nat) (bs : List Byte) :
    MemOut (execHostWrite d onchip addr tag bs s) := by
  unfold Machine.execHostWrite
  dsimp only
  refine h.next.ite ((h.answer ..).ite (MemOut.ite ((h.answer ..).ite ?_) (((h.setHbm ..).answer ..).ite (h.answer ..))))
  split
  · exact (h.onchipWrite ‹_›).answer ..
  · exact h.answer ..

theorem execHostRead (h : s.memoriesWf) (d : Nat) (onchip : Bool) (addr len tag : Nat) : MemOut (execHostRead d onchip addr len tag s) := by
  unfold Machine.execHostRead
  dsimp only
  refine h.next.ite ((h.answer ..).ite (MemOut.ite ((h.answer ..).ite ?_) ((((h.free _).logBad ..).answer ..).ite (h.answer ..))))
  split
  · exact (h.onchipRead ‹_›).answer ..
  · exact h.answer ..

theorem execHostLaunch (h : s.memoriesWf) (d queue addr tag : Nat) : MemOut (execHostLaunch d queue addr tag s) :=
  h.next.ite ((h.answer ..).ite ((h.answer ..).ite (h.keepModule.answer ..)))

theorem execMalformedOperation (h : s.memoriesWf) (d : PortId) (op tag : Nat) : MemOut (execMalformedOperation d op tag s) :=
  MemOut.ite (h.sendOp ..).next h.next

/-! ## Links (R353-R357) -/

theorem failOn (h : s.memoriesWf) (m : Nat) (port : Bool) (n t : Nat) : (s.failOn m port n t).memoriesWf := by
  unfold State.failOn
  extract_lets tl cols xs offers peers tl1
  have h1 : (s.setTile t tl1).memoriesWf := h.setTile (h.tile t)
  exact h.ite ((h1.recordError ..).ite (h1.recordLink ..))

theorem failLink (h : s.memoriesWf) (m : Nat) (port : Bool) (n : Nat) : (s.failLink m port n).memoriesWf := by
  unfold State.failLink
  extract_lets count s1 lost ends _ s2
  have h1 : s1.memoriesWf := h.foldl (fun _ _ h => h.modDie fun _ h => h.lk _) _
  have h2 : (ends.foldl (fun s q => s.modLink q.1 q.2 fun p => { p with up := false }) s1).memoriesWf := h1.foldl (fun _ _ h => h.modLink ..) _
  have h3 : s2.memoriesWf := h2
  exact h3.foldl (fun _ _ h => h.failOn ..) _

theorem failPort (h : s.memoriesWf) (d : Nat) (host : Bool) : (s.failPort d host).memoriesWf := by
  unfold State.failPort
  exact State.memoriesWf.ite (h.modPort ..) (h.failLink ..)

theorem execLinkFailure (h : s.memoriesWf) (m : Nat) (port : Bool) (n : Nat) : MemOut (execLinkFailure m port n s) :=
  MemOut.ite (h.next.ite (h.failPort ..).next) (h.next.ite (h.failLink ..).next)

theorem execLinkTrained (h : s.memoriesWf) (d : PortId) : MemOut (execLinkTrained d s) := h.next.ite (h.modPort ..).next

theorem applyOp (h : s.memoriesWf) (d : Nat) (host : Bool) (o : OclysOp) : MemOut (s.applyOp d host o) :=
  (h.execMalformedOperation ..).ite ((h.execHostWrite ..).ite ((h.execHostRead ..).ite (h.execHostLaunch ..)))

theorem applyOps (h : s.memoriesWf) (d : Nat) (host : Bool) (l : List OclysOp) : MemOut (s.applyOps d host l) := by
  induction l generalizing s with
  | nil => exact h.next
  | cons o l ih =>
    have ho := h.applyOp d host o
    unfold State.applyOps
    generalize s.applyOp d host o = r at ho ⊢
    obtain ⟨ht⟩ := ho
    exact ih ht

theorem deliver (h : s.memoriesWf) (d : Nat) (host : Bool) (payload : List Byte) : MemOut (s.deliver d host payload) :=
  (h.applyOps ..).ite (h.outs _).next

theorem signal (h : s.memoriesWf) (d : Nat) (host : Bool) (kind : Nat) (seq : BitVec 32) : (s.signal d host kind seq).memoriesWf :=
  h.putFrame ..

theorem frameIn (h : s.memoriesWf) (d : Nat) (host : Bool) (seq ack : BitVec 32) (good : Bool) (payload : List Byte) :
    MemOut (s.frameIn d host seq ack good payload) := by
  unfold State.frameIn
  dsimp only
  refine MemOut.ite (h.signal ..).next (MemOut.ite ?_ ((h.modPort ..).signal ..).next)
  have hd := (h.modPort d host fun p => { p.acked ack with expected := p.expected + 1 }).deliver d host payload
  generalize (s.modPort d host fun p => { p.acked ack with expected := p.expected + 1 }).deliver d host payload = r at hd ⊢
  obtain ⟨ht⟩ := hd
  exact (ht.signal ..).next

theorem takeWire (h : s.memoriesWf) {d : Nat} {k : Fin 4} {q : Wire × State} (e : s.takeWire d k = some q) : q.2.memoriesWf := by
  unfold State.takeWire at e
  split at e
  · cases e
  · obtain ⟨w, _, rfl⟩ := Option.map_eq_some_iff.mp e
    exact h.wires _

theorem linkIn (h : s.memoriesWf) (d : Nat) (k : Fin 4) (seq ack : BitVec 32) (good : Bool) : (s.linkIn d k seq ack good).memoriesWf :=
  (h.putWire ..).ite (((h.modLink ..).putWire ..).ite ((h.modLink ..).putWire ..))

theorem linkResend (h : s.memoriesWf) (d : Nat) (k : Fin 4) : (s.linkResend d k).memoriesWf := by
  unfold State.linkResend
  extract_lets p s1
  have h1 : s1.memoriesWf := h.modLink ..
  exact (h.failLink ..).ite (h1.foldl (fun _ _ h => h.putWire ..) _)

theorem wireIn (h : s.memoriesWf) (w : Wire) : (s.wireIn w).memoriesWf :=
  (h.linkIn ..).ite ((h.modLink ..).ite ((h.modLink ..).linkResend ..))

theorem linkFrames (h : s.memoriesWf) (d : Nat) (k : Fin 4) : (s.linkFrames d k).memoriesWf := by
  refine h.foldl (fun s _ h => ?_) _
  split
  · exact (h.takeWire ‹_›).wireIn _
  · exact h

theorem wireStep (h : s.memoriesWf) {d : Nat} {k : Fin 4} {is : Wire → Bool} {f : Wire → State → State}
    (hf : ∀ w t, t.memoriesWf → (f w t).memoriesWf) : MemOut (s.wireStep d k is f) := by
  unfold State.wireStep
  split
  · exact MemOut.ite (hf _ _ (h.takeWire ‹_›)).next h.next
  · exact h.next

theorem execOclysDataFrame (h : s.memoriesWf) (d : PortId) (seq ack : BitVec 32) (good : Bool) (payload : List Byte) :
    MemOut (execOclysDataFrame d seq ack good payload s) := by
  unfold Machine.execOclysDataFrame
  split
  · exact h.wireStep fun _ _ h => h.linkIn ..
  · exact (h.frameIn ..).ite h.next

theorem execOclysAckFrame (h : s.memoriesWf) (d : PortId) (ack : BitVec 32) : MemOut (execOclysAckFrame d ack s) := by
  unfold Machine.execOclysAckFrame
  split
  · exact h.wireStep fun _ _ h => h.wireIn _
  · exact MemOut.ite (h.modPort ..).next h.next

theorem resend (h : s.memoriesWf) (d : Nat) (host : Bool) : (s.resend d host).memoriesWf := by
  unfold State.resend
  extract_lets p s1
  have h1 : s1.memoriesWf := h.modPort ..
  exact (h.failPort ..).ite (h1.foldl (fun _ _ h => h.putFrame ..) _)

theorem execOclysReplayRequest (h : s.memoriesWf) (d : PortId) (seq : BitVec 32) : MemOut (execOclysReplayRequest d seq s) := by
  unfold Machine.execOclysReplayRequest
  split
  · exact h.wireStep fun _ _ h => h.wireIn _
  · exact MemOut.ite ((h.modPort ..).resend ..).next h.next

theorem execOclysAckTimeout (h : s.memoriesWf) (d : PortId) : MemOut (execOclysAckTimeout d s) := by
  unfold Machine.execOclysAckTimeout
  split
  · split
    · exact h.next
    · exact h.next.ite (h.linkResend ..).next
  · split
    · exact h.next
    · exact h.next.ite (h.resend ..).next

end State.memoriesWf

/-! Every step keeps the canonical form of every memory (R90): every row of the table, the step of the part. -/
namespace State.memoriesWf
variable {s : State}

/-! ## Semaphores, full-empty loads and stores, records -/

theorem execSemv (h : s.memoriesWf) (a : BitVec 5) (k : BitVec 6) : MemOut (execSemv a k s) :=
  h.onTile fun _ h => h.release fun _ h => (h.trap ..).ite h.keepTile.doneNop

theorem execSemaphoreGrant (h : s.memoriesWf) (t k : Nat) : MemOut (execSemaphoreGrant t k s) := by
  unfold Machine.execSemaphoreGrant
  refine MemOut.ite ?_ h.next
  split
  · exact h.next
  · exact (h.keepTile.finishWait ..).next

theorem execSemptExpiry (h : s.memoriesWf) (t a : Nat) : MemOut (execSemptExpiry t a s) := by
  unfold Machine.execSemptExpiry
  split
  · dsimp only
    split
    · exact MemOut.ite (h.finishWait ..).next h.next
    · exact h.next
  · exact h.next

theorem execLdfe (h : s.memoriesWf) (d a : BitVec 5) (c : BitVec 1) (i : BitVec 14) : MemOut (execLdfe d a c i s) :=
  h.onTile fun _ h => h.checked fun _ h => MemOut.ite (h.readBytes fun _ _ h => (h.takeFull ..).doneX ..) (h.waitOn _)

theorem execLdfeWake (h : s.memoriesWf) (t w : Nat) : MemOut (execLdfeWake t w s) := by
  unfold Machine.execLdfeWake
  refine MemOut.ite ?_ h.next
  dsimp only
  split
  · refine MemOut.ite (State.memoriesWf.next ?_) (State.memoriesWf.next (State.memoriesWf.keepTile ?_))
    all_goals
      split
      · refine State.memoriesWf.wakeLdfe (h.foldl (fun s a h => ?_) _) ..
        split
        · exact h.wakeLdfe ..
        · exact h
      · refine h.foldl (fun s a h => ?_) _
        split
        · exact h.wakeLdfe ..
        · exact h
  · refine State.memoriesWf.next (h.foldl (fun s a h => ?_) _)
    split
    · exact h.wakeLdfe ..
    · exact h

theorem execStfe (h : s.memoriesWf) (r a : BitVec 5) (e : BitVec 1) (i : BitVec 14) : MemOut (execStfe r a e i s) :=
  h.onTile fun _ h => h.checked fun _ h => h.release fun _ h => h.storeBytes fun _ h => h.keepTile.doneNop

theorem execLdb (h : s.memoriesWf) (d a b : BitVec 5) (t : BitVec 3) : MemOut (execLdb d a b t s) :=
  h.onTile fun _ h => h.recAccess fun _ => h.load ..

theorem execStb (h : s.memoriesWf) (r a b : BitVec 5) (t : BitVec 3) : MemOut (execStb r a b t s) :=
  h.onTile fun _ h => h.recAccess fun _ => h.store ..

theorem execBld (h : s.memoriesWf) (d a : BitVec 5) (i : BitVec 10) : MemOut (execBld d a i s) :=
  h.onTile fun _ h => h.checked fun _ h => h.readBytes fun _ _ h => (h.setRec ..).doneNop

theorem execBst (h : s.memoriesWf) (d a : BitVec 5) (i : BitVec 10) : MemOut (execBst d a i s) :=
  h.onTile fun _ h => h.checked fun _ h => h.storeBytes fun _ h => h.doneNop

/-! ## Every row -/

theorem exec (h : s.memoriesWf) (i : Instr) : MemOut (exec i s) := by
  unfold Machine.exec
  cases i with
  | add | sub | and | or | xor | andn | sll | srl | sra | ror | mul | mulhS | mulhN | divS | divN | remS | remN | minS | minN | maxS
  | maxN | clz | ctz | popc | mod31 | addi | andi | ori | xori | slli | srli | srai | rori | lih | addpc => exact h.doneX ..
  | pcmp | pcmpi | pand | por | pxor | pandn | porn | pxnor => exact h.doneP ..
  | nop => exact h.doneNop
  | yield => exact h.done _
  | trap | brk | illegalInstruction => exact h.trap ..
  | fqbaseWrite => exact (h.fqbaseWrite ..).next
  | migrationStart => exact (h.migctlWrite ..).next
  | pprStart => exact (h.pprctlWrite ..).next
  | hbmerrRead => exact (h.hbmerrRead _).next
  | qcrecRead => exact (h.qcrecRead _).next
  | rctlHold => exact (h.hold ..).next
  | rctlFree => exact (h.freeCmd ..).next
  | rctlResume => exact (h.resume ..).next
  | rctlDiscard => exact (h.discard ..).next
  | noiseSourceHealthTest => exact h.keepDie.next
  | pcapWrite => exact (h.pcapWrite ..).next
  | pslewWrite => exact (h.pslewWrite ..).next
  | throtWrite => exact (h.throtWrite ..).next
  | powerCapInterval => exact h.execPowerCapInterval ..
  | moduleReset => exact (h.resetModule _).next
  | powerOn => exact h.execPowerOn ..
  | attestationStart => exact (h.attctlWrite ..).next
  | sbReadMstat | sbReadPower | sbReadTemp | sbReadBootstat | sbReadIdentity => exact h.sideband ..
  | sbWritePcap => exact (h.pcapWrite ..).sideband ..
  | sbReset => exact State.memoriesWf.sideband (State.memoriesWf.ite (h.resetModule _) h) ..
  | ldS8 | ldN8 | ldS16 | ldN16 | ldS32 | ldN32 | ld64 => exact h.load ..
  | st8 | st16 | st32 | st64 => exact h.store ..
  | br => exact h.execBr ..
  | jal | jalr | eret => exact h.transfer ..
  | fence | fenceRel => exact h.release fun _ h => h.doneNop
  | semset => exact h.onTile fun _ h => h.release fun _ h => h.keepTile.doneNop
  | sync => exact h.execSync ..
  | semp | sempt => exact h.onTile fun _ h => h.waitOn _
  | semget | ssqNum | ssqOut | ssqRed | ssqTry | ssqRel => exact h.onTile fun _ h => h.doneX ..
  | vaddF | vsubF | vmulF | vminF | vmaxF | vabsF | vneg | vcvt | vcvti | vcvtf | vfma | vfnma | vabsI | vcmpI | vcmpF | vsel
  | vperm | vbcast | vmov | vmovToLane | vexp2 | vlog2 | vrcp | vrsq => exact h.vop ..
  | vaddI | vsubI | vmulI | vminS | vminN | vmaxS | vmaxN | vand | vor | vxor | vsll | vsrl | vsra | vaddsS | vaddsN | vsubsS
  | vsubsN => exact h.viop ..
  | vredFadd | vredFmin | vredFmax | vredAdd | vredMinS | vredMaxS | vmovToX => exact h.vredX ..
  | vlds => exact h.onWork fun _ h => h.elemLoad h ..
  | vsts | vscat => exact h.onWork fun _ h => h.vread fun _ _ h0 h => h0.elemStore h ..
  | vgath => exact h.onWork fun _ h => h.vread fun _ _ h0 h => h0.elemLoad h ..
  | vstreamIn | vstreamOut => exact h.bind ..
  | vstreamEnd => exact h.execVstreamEnd ..
  | mcfg => exact h.onWork fun _ h => h.done _
  | mmulR | mmulC => exact h.mmulIssue ..
  | maccZ | maccPin | maccUnpin => exact h.maccIssue ..
  | maccRd | maccWr => exact h.maccRecIssue ..
  | squant | sdeq | sexp | strans | stransRq | scomp | sblkExp | sblkInt | sblkFlt | scvt => exact h.shapeIssue ..
  | stage | copy | hld | hst => exact h.onHaul fun _ h => h.haulIssue ..
  | hredAddS32 | hredAddS64 | hredMinS32 | hredMinS64 | hredMaxS32 | hredMaxS64 | hredAnd | hredOr | hredFaddF32 => exact h.hredIssue ..
  | hfence => exact h.onHaul fun _ h => (h.waitOn _).ite h.doneNop
  | ffcfgKey | ffcfgBeta | ffcfgSigt | ffcfgMode | ffldEdge | ffldBias | ffldCol | ffldState | ffopSweep | ffopClamp | ffopUnclamp
  | ffopCreset | ffrdBits | ffrdCnt => exact h.ffIssue ..
  | xsend | xrecv => exact h.onHaul fun _ h => h.schedule ..
  | csend | crecv | crecvAdd | crecvMax => exact h.colIssue ..
  | croute => exact h.execCroute ..
  | cmark => exact h.execCmark ..
  | ldfe => exact h.execLdfe ..
  | ldfeWake => exact h.execLdfeWake ..
  | stfe => exact h.execStfe ..
  | gld => exact h.execGld ..
  | gldDataReturn => exact h.execGldDataReturn ..
  | ldb => exact h.execLdb ..
  | stb => exact h.execStb ..
  | exit => exact h.execExit
  | fenceAcq => exact h.execFenceAcq
  | csrr => exact h.execCsrr ..
  | csrw => exact h.execCsrw ..
  | spawn => exact h.execSpawn ..
  | semv => exact h.execSemv ..
  | semaphoreGrant => exact h.execSemaphoreGrant ..
  | semptExpiry => exact h.execSemptExpiry ..
  | bld => exact h.execBld ..
  | bst => exact h.execBst ..
  | send => exact h.execSend ..
  | recv => exact h.execRecv ..
  | recvAny => exact h.execRecvAny ..
  | rspawn => exact h.execRspawn ..
  | vld => exact h.execVld ..
  | vst => exact h.execVst ..
  | streamElementRead => exact h.execStreamElementRead ..
  | mwld => exact h.execMwld ..
  | matrixEntryStart => exact h.execMatrixEntryStart ..
  | matrixEntryComplete => exact h.execMatrixEntryComplete ..
  | shapeOpStart => exact h.execShapeOpStart ..
  | shapeOpComplete => exact h.execShapeOpComplete ..
  | haulOpStart => exact h.execHaulOpStart ..
  | haulChunk => exact h.execHaulChunk ..
  | haulOpComplete => exact h.execHaulOpComplete ..
  | haulOpReplay => exact h.execHaulOpReplay ..
  | queueFullResume => exact h.execQueueFullResume ..
  | fireflyCommandArrival => exact h.execFireflyCommandArrival ..
  | fireflyCommandStart => exact h.execFireflyCommandStart ..
  | fireflyCommandComplete => exact h.execFireflyCommandComplete ..
  | cgrp => exact h.execCgrp ..
  | crank => exact h.execCrank ..
  | cpart => exact h.execCpart ..
  | tlbw => exact h.execTlbw ..
  | tlbinv => exact h.execTlbinv ..
  | tlbinvAll => exact h.execTlbinvAll
  | fqpop => exact h.execFqpop ..
  | fqres => exact h.execFqres ..
  | ctxsv => exact h.execCtxsv ..
  | ctxld => exact h.execCtxld ..
  | pcRangeTrap => exact h.execPcRangeTrap
  | strandChoice => exact h.execStrandChoice ..
  | watchdogExpiry => exact h.execWatchdogExpiry
  | deferredCause => exact h.execDeferredCause ..
  | windowRead => exact h.execWindowRead ..
  | windowWrite => exact h.execWindowWrite ..
  | windowSemaphoreWrite => exact h.execWindowSemaphoreWrite ..
  | fireflyContextBlockWrite => exact h.execFireflyContextBlockWrite ..
  | tileCloseArrival => exact h.execTileCloseArrival ..
  | closeArrival => exact h.execCloseArrival ..
  | sealArrival => exact h.execSealArrival ..
  | restoreDone => exact h.execRestoreDone ..
  | launchJoin => exact h.execLaunchJoin ..
  | exchangeStartPacket => exact h.execExchangeStartPacket ..
  | exchangeStart => exact h.execExchangeStart ..
  | release => exact h.execRelease ..
  | startInstant => exact h.execStartInstant ..
  | abort => exact h.execAbort ..
  | rollbackWindowDone => exact h.execRollbackWindowDone ..
  | targetedSelfTestEnd => exact h.execTargetedSelfTestEnd ..
  | stop => exact h.execStop ..
  | rootTimeout => exact h.execRootTimeout ..
  | shapingWindow => exact h.execShapingWindow ..
  | treeReconfigure => exact h.execTreeReconfigure ..
  | sealArrivalSend => exact h.execSealArrivalSend ..
  | flitSend => exact h.execFlitSend ..
  | flitArrival => exact h.execFlitArrival ..
  | xrecvMissedFlit => exact h.execXrecvMissedFlit ..
  | exchangeEnd => exact h.execExchangeEnd ..
  | messageOffer => exact h.execMessageOffer ..
  | collectiveSend => exact h.execCollectiveSend ..
  | collectiveLanding => exact h.execCollectiveLanding ..
  | collectiveReceiveTimeout => exact h.execCollectiveReceiveTimeout ..
  | deltaArrival => exact h.execDeltaArrival ..
  | faultRecordPost => exact h.execFaultRecordPost ..
  | oclysDataFrame => exact h.execOclysDataFrame ..
  | oclysAckFrame => exact h.execOclysAckFrame ..
  | oclysReplayRequest => exact h.execOclysReplayRequest ..
  | oclysAckTimeout => exact h.execOclysAckTimeout ..
  | linkFailure => exact h.execLinkFailure ..
  | linkTrained => exact h.execLinkTrained ..
  | hostWrite => exact h.execHostWrite ..
  | hostRead => exact h.execHostRead ..
  | hostLaunch => exact h.execHostLaunch ..
  | regionLaunch => exact h.execRegionLaunch ..
  | launchTilesSet => exact h.execLaunchTilesSet ..
  | launchTimeout => exact h.execLaunchTimeout ..
  | physdRead => exact h.next.ite (h.physdRead _).next
  | physdWrite => exact h.next.ite (h.physdWrite ..).next
  | migrationDone => exact h.execMigrationDone ..
  | pprDone => exact h.execPprDone ..
  | spareControlWrite => exact h.execSpareControlWrite ..
  | attestationDone => exact h.execAttestationDone ..
  | thermalTrip => exact h.execThermalTrip ..
  | secureBoot => exact h.execSecureBoot ..
  | sbUnknownCommand => exact h.execSbUnknownCommand ..
  | joinTimeout => exact h.execJoinTimeout ..
  | ieee1588Sync => exact h.execIeee1588Sync ..
  | malformedOperation => exact h.execMalformedOperation ..

/-! ## The steps that the machine makes of its own accord, and the step of the part -/

theorem go (h : s.memoriesWf) (x : Act) : MemOut (x.go s) := by
  cases x with
  | slotNote => exact h.keepTile.next
  | partEnd => exact (h.partEnd ..).next
  | linkFrames => exact (h.linkFrames ..).next
  | thermalTrip => exact h.execThermalTrip ..
  | deferredCause => exact h.execDeferredCause ..
  | ldfeWake => exact h.execLdfeWake ..
  | semaphoreGrant => exact h.execSemaphoreGrant ..
  | semptExpiry => exact h.execSemptExpiry ..
  | gldDataReturn => exact h.execGldDataReturn ..
  | queueFullResume => exact h.execQueueFullResume ..
  | strandChoice => exact h.execStrandChoice ..
  | matrixEntryStart => exact h.execMatrixEntryStart ..
  | matrixEntryComplete => exact h.execMatrixEntryComplete ..
  | shapeOpStart => exact h.execShapeOpStart ..
  | shapeOpComplete => exact h.execShapeOpComplete ..
  | haulOpStart => exact h.execHaulOpStart ..
  | haulChunk => exact h.execHaulChunk ..
  | haulOpComplete => exact h.execHaulOpComplete ..
  | haulOpReplay => exact h.execHaulOpReplay ..
  | fireflyCommandArrival => exact h.execFireflyCommandArrival ..
  | fireflyCommandStart => exact h.execFireflyCommandStart ..
  | fireflyCommandComplete => exact h.execFireflyCommandComplete ..
  | tileCloseArrival => exact h.execTileCloseArrival ..
  | closeArrival => exact h.execCloseArrival ..
  | sealArrival => exact h.execSealArrival ..
  | restoreDone => exact h.execRestoreDone ..
  | launchJoin => exact h.execLaunchJoin ..
  | exchangeStartPacket => exact h.execExchangeStartPacket ..
  | exchangeStart => exact h.execExchangeStart ..
  | release => exact h.execRelease ..
  | startInstant => exact h.execStartInstant ..
  | abort => exact h.execAbort ..
  | rollbackWindowDone => exact h.execRollbackWindowDone ..
  | targetedSelfTestPass => exact h.execTargetedSelfTestEnd ..
  | stop => exact h.execStop ..
  | rootTimeout => exact h.execRootTimeout ..
  | shapingWindow => exact h.execShapingWindow ..
  | sealArrivalSend => exact h.execSealArrivalSend ..
  | flitSend => exact h.execFlitSend ..
  | flitArrival => exact h.execFlitArrival ..
  | xrecvMissedFlit => exact h.execXrecvMissedFlit ..
  | exchangeEnd => exact h.execExchangeEnd ..
  | messageOffer => exact h.execMessageOffer ..
  | collectiveSend => exact h.execCollectiveSend ..
  | collectiveLanding => exact h.execCollectiveLanding ..
  | collectiveReceiveTimeout => exact h.execCollectiveReceiveTimeout ..
  | deltaArrival => exact h.execDeltaArrival ..
  | faultRecordPost => exact h.execFaultRecordPost ..
  | regionLaunch => exact h.execRegionLaunch ..
  | launchTilesSet => exact h.execLaunchTilesSet ..
  | launchTimeout => exact h.execLaunchTimeout ..
  | joinTimeout => exact h.execJoinTimeout ..
  | migrationDone => exact h.execMigrationDone ..
  | pprDone => exact h.execPprDone ..
  | attestationDone => exact h.execAttestationDone ..

theorem tick (h : s.memoriesWf) (k : Nat) : (s.tick k).memoriesWf := h

theorem passBy (h : s.memoriesWf) (k : Nat) : MemOut (s.passBy k) := by
  unfold State.passBy
  split
  · exact h.go _
  · exact (h.tick k).next

theorem paced {wait : State} {ops : List SemOp} {out : Out} (hw : wait.memoriesWf) (ho : MemOut out) : MemOut (s.paced wait ops out) := by
  obtain ⟨h⟩ := ho
  exact MemOut.ite (.next h) (hw.passBy 1)

theorem eventPaced {wait : State} {ops : List SemOp} {out : Out} (hw : wait.memoriesWf) (ho : MemOut out) :
    MemOut (s.eventPaced wait ops out) := by
  obtain ⟨h⟩ := ho
  exact MemOut.ite h.next (hw.paced h.next)

theorem count {w : Nat} {out : Out} (ho : MemOut out) : MemOut (s.count w out) := by
  obtain ⟨h⟩ := ho
  unfold State.count
  split
  · next e => cases e; exact MemOut.ite h.next h.keepTile.next
  · exact h.next

theorem resumed (h : s.memoriesWf) : s.resumed.memoriesWf := State.memoriesWf.ite (h.modMe _) h

theorem issue (h : s.memoriesWf) : MemOut s.issue := by
  have hr := h.resumed
  unfold State.issue
  dsimp only
  split
  · split
    · exact count (hr.exec _)
    · exact hr.next
  · refine (hr.execDeferredCause _).ite (hr.execWatchdogExpiry.ite (hr.execPcRangeTrap.ite ?_))
    split
    · exact (hr.readError ..).next
    · split
      · exact count (hr.exec _)
      · exact hr.trap ..

theorem issuePaced {wait : State} (h : s.memoriesWf) (hw : wait.memoriesWf) : MemOut (s.issuePaced wait) := hw.paced h.issue

theorem turn (h : s.memoriesWf) (w : Who) : ({ s with turn := w } : State).memoriesWf := h
theorem sched (h : s.memoriesWf) (l : List Sched) : ({ s with sched := l } : State).memoriesWf := h

theorem issueNext (h : s.memoriesWf) (w : Who) : MemOut (s.issueNext w) := by
  unfold State.issueNext
  split
  · exact h.go _
  · exact ((h.tick 1).turn w).issuePaced (h.tick 1)

theorem scheduled (h : s.memoriesWf) (e : Sched) (rest : List Sched) : MemOut (s.scheduled e rest) := by
  have h1 := h.sched rest
  unfold State.scheduled
  refine MemOut.ite ?_ ?_
  · cases e with
    | run => exact MemOut.ite ((h1.turn _).issuePaced h) h1.next
    | event => exact MemOut.ite (h.eventPaced (h1.exec _)) h1.next
    | upset => exact (h1.upset _).next
  · dsimp only
    split
    · exact h.go _
    · exact ((h.tick _).sched _).next

theorem newRound (h : s.memoriesWf) : MemOut s.newRound := by
  unfold State.newRound
  split
  · exact h.issueNext _
  · exact h.passBy _

theorem unscheduled (h : s.memoriesWf) : MemOut s.unscheduled := by
  unfold State.unscheduled
  split
  · exact (h.turn _).issuePaced h
  · refine MemOut.ite ?_ h.newRound
    split
    · exact h.eventPaced (h.go _)
    · exact h.newRound

theorem step (h : s.memoriesWf) : MemOut (step s) := by
  unfold Machine.step
  split
  · exact h.go _
  · split
    · exact h.scheduled ..
    · exact h.unscheduled

end State.memoriesWf

/-- Settles O55: every operation on a memory keeps its form, so every row of the table does, and so does the step. -/
theorem stepKeepsMemories : Obligations.StepKeepsMemories := by
  intro s t h e
  have ho := h.step
  rw [e] at ho
  obtain ⟨ht⟩ := ho
  exact ht

end Sys2Proof.Machine
end

/-! What an agent takes at an instruction boundary (R60, R61, R116, R120), and the choice of a strand (R113). -/
section
namespace Sys2Proof.Machine

/-! ## The watchdog (R116) -/

theorem State.wdogCount_of_run {s : State} {g : Agent} (h : g.st = .run) : s.wdogCount g = (s.clk - g.heldFrom) % 2 ^ 32 := by
  simp [State.wdogCount, h]

theorem State.wdogDue_of_run {s : State} {g : Agent} (h : g.st = .run) (hl : g.wdogLimit ≠ 0)
    (hc : g.wdogLimit.toNat ≤ (s.clk - g.heldFrom) % 2 ^ 32) : s.wdogDue g = true := by
  rw [State.wdogDue, State.wdogCount_of_run h]
  simpa using ⟨hl, hc⟩

theorem watchdogExpiry_traps {s : State} (h : s.me.st = .run) (hl : s.me.wdogLimit ≠ 0)
    (hc : s.me.wdogLimit.toNat ≤ (s.clk - s.me.heldFrom) % 2 ^ 32) :
    Traps .watchdogExpiry s 0x10 (BitVec.ofNat 64 ((s.clk - s.me.heldFrom) % 2 ^ 32)) := by
  have e : exec .watchdogExpiry s = s.trap 0x10 (BitVec.ofNat 64 (s.wdogCount s.me)) := if_pos (State.wdogDue_of_run h hl hc)
  rw [Traps, e, State.wdogCount_of_run h]
  exact s.trap_does ..

/-! ## Deferred causes (R120) -/

theorem exec_deferredCause_of_run {s : State} {who : Who} {p : Pending} (hp : (s.agentOf who).deferred = some p)
    (hr : (s.agentOf who).st = .run) :
    exec (.deferredCause who) s = if (s.agentOf who).resuming then .next s
      else .next ((s.setAgentOf who { s.agentOf who with deferred := none }).takeTrap who p.code p.faddr (s.agentOf who).pc) := by
  show execDeferredCause who s = _
  simp only [execDeferredCause, hp, hr]

/-- The pending cause taken: it is pending no more, and the agent takes its trap at its PC. -/
theorem State.takeTrap_deferred_only (s : State) (who : Who) (p : Pending) (pc : W) :
    Only s ((s.setAgentOf who { s.agentOf who with deferred := none }).takeTrap who p.code p.faddr pc) who
      ({ s.agentOf who with deferred := none }.takeTrap (whoMem who) s.clk p.code p.faddr pc) id := by
  have h1 := (s.setAgentOf_only who { s.agentOf who with deferred := none }).1
  obtain ⟨⟨hclk, -⟩, hg, -⟩ := id h1
  have h2 := ((s.setAgentOf who { s.agentOf who with deferred := none }).setAgentOf_only who
    ({ s.agentOf who with deferred := none }.takeTrap (whoMem who) s.clk p.code p.faddr pc)).1
  rw [State.takeTrap, State.modAgent, hg, hclk]
  exact h1.trans h2

/-! ## The choice of a strand (R113) -/

theorem mem_split_range {n p : Nat} (h : p < n) : ∃ l r, List.range n = l ++ p :: r ∧ ∀ q ∈ l, q < p := by
  obtain ⟨l, r, e⟩ := List.append_of_mem (List.mem_range.mpr h)
  refine ⟨l, r, e, fun q hq => ?_⟩
  have hs : (l ++ p :: r).Pairwise (· < ·) := e ▸ List.pairwise_lt_range
  exact (List.pairwise_append.mp hs).2.2 q hq p List.mem_cons_self

/-- A READY strand is chosen of a list where every READY one has a `PRIO` not below its own, and those before it one above. -/
theorem bestReady_eq {tl : Tile} {l r : List (Fin 10)} {a : Fin 10} (ha : (tl.cur.agents[a]).st = .ready)
    (hl : ∀ b ∈ l, (tl.cur.agents[b]).st = .ready → (tl.cur.agents[a]).prio < (tl.cur.agents[b]).prio)
    (hr : ∀ b ∈ r, (tl.cur.agents[b]).st = .ready → (tl.cur.agents[a]).prio ≤ (tl.cur.agents[b]).prio) :
    bestReady tl (l ++ a :: r) = some a := by
  obtain ⟨lo, hi, hsplit, hlo⟩ := mem_split_range (tl.cur.agents[a]).prio.isLt
  have hcons : (a :: r).filter (fun b => decide ((tl.cur.agents[b]).st = .ready)) =
      a :: r.filter fun b => decide ((tl.cur.agents[b]).st = .ready) := List.filter_cons_of_pos (by simpa using ha)
  refine List.findSome?_eq_some_iff.mpr ⟨lo, _, hi, hsplit, ?_, fun q hq => ?_⟩
  · refine List.find?_eq_some_iff_append.mpr ⟨decide_eq_true rfl, l.filter _, _, (List.filter_append ..).trans (congrArg _ hcons), fun b hb => ?_⟩
    obtain ⟨hb, hst⟩ := List.mem_filter.mp hb
    have := hl b hb (by simpa using hst)
    simpa using Nat.ne_of_gt (BitVec.lt_def.mp this)
  · refine List.find?_eq_none.mpr fun b hb => ?_
    obtain ⟨hb, hst⟩ := List.mem_filter.mp hb
    have hle : (tl.cur.agents[a]).prio ≤ (tl.cur.agents[b]).prio := by
      rcases List.mem_append.mp hb with hb | hb
      · exact BitVec.le_of_lt (hl b hb (by simpa using hst))
      · rcases List.mem_cons.mp hb with rfl | hb
        · exact BitVec.le_refl _
        · exact hr b hb (by simpa using hst)
    simpa using Nat.ne_of_gt (Nat.lt_of_lt_of_le (hlo q hq) (BitVec.le_def.mp hle))

/-- The strand at a place of the round-robin order. -/
def rrAt (rr i : Nat) : Fin 10 := ⟨(rr + 1 + i) % 8, Nat.lt_of_lt_of_le (Nat.mod_lt _ (by decide)) (by decide)⟩

theorem rrAt_lt (rr i : Nat) : (rrAt rr i).val < 8 := Nat.mod_lt _ (by decide)

/-- The place of a strand in the order after `rr`. -/
theorem rrPlace_rrAt {rr i : Nat} (hr : rr < 8) (hi : i < 8) : ((rrAt rr i).val + 7 - rr) % 8 = i := by
  show ((rr + 1 + i) % 8 + 7 - rr) % 8 = i
  omega

theorem rrAt_rrPlace {rr : Nat} {a : Fin 10} (hr : rr < 8) (ha : a.val < 8) : rrAt rr ((a.val + 7 - rr) % 8) = a := by
  refine Fin.ext ?_
  show (rr + 1 + (a.val + 7 - rr) % 8) % 8 = a.val
  omega

theorem bestReady_rrOrder {tl : Tile} {a : Fin 10} (hrr : tl.rr < 8) (ha : a.val < 8) (hst : (tl.cur.agents[a]).st = .ready)
    (hbest : ∀ b : Fin 10, b.val < 8 → (tl.cur.agents[b]).st = .ready →
      (tl.cur.agents[a]).prio < (tl.cur.agents[b]).prio ∨
        ((tl.cur.agents[a]).prio = (tl.cur.agents[b]).prio ∧ (a.val + 7 - tl.rr) % 8 ≤ (b.val + 7 - tl.rr) % 8)) :
    bestReady tl (rrOrder tl.rr) = some a := by
  obtain ⟨lo, hi, hsplit, hlo⟩ := mem_split_range (n := 8) (p := (a.val + 7 - tl.rr) % 8) (Nat.mod_lt _ (by decide))
  have horder : rrOrder tl.rr = lo.map (rrAt tl.rr) ++ a :: hi.map (rrAt tl.rr) := by
    have e : rrOrder tl.rr = (List.range 8).map (rrAt tl.rr) := rfl
    rw [e, hsplit, List.map_append, List.map_cons, rrAt_rrPlace hrr ha]
  rw [horder]
  refine bestReady_eq hst (fun b hb hb' => ?_) fun b hb hb' => ?_
  · obtain ⟨i, hmem, rfl⟩ := List.mem_map.mp hb
    have hi := hlo i hmem
    rcases hbest _ (rrAt_lt ..) hb' with h | ⟨-, h⟩
    · exact h
    · rw [rrPlace_rrAt hrr (by omega)] at h
      omega
  · obtain ⟨i, -, rfl⟩ := List.mem_map.mp hb
    rcases hbest _ (rrAt_lt ..) hb' with h | ⟨h, -⟩
    · exact BitVec.le_of_lt h
    · exact h ▸ BitVec.le_refl _

theorem Tile.slotHeld_eq_false {tl : Tile} (h : ∀ b : Fin 10, b.val < 8 → (tl.cur.agents[b]).st ≠ .run) : tl.slotHeld = false := by
  simpa [Tile.slotHeld] using h

/-- A new context for an agent of a tile, with a change of the tile that leaves the agents: nothing else changes. -/
theorem State.setTile_setAgent_only (s : State) (u : Nat) (a : Fin 10) (g : Agent) (f : Tile → Tile)
    (hf : ∀ tl : Tile, ∀ g, f (tl.setAgent a g) = (f tl).setAgent a g) :
    Only s (s.setTile u (f ((s.tile u).setAgent a g))) (.tile u a) g f := by
  refine ⟨by simp [SameRest], ?_, ?_, fun k hk => ?_, fun d => ?_⟩
  · rw [State.agentOf, State.tile_setTile_self, hf]
    simp [Tile.setAgent]
  · simp [hf, Tile.but_setAgent]
  · simp [hk]
  · simp

/-- Settles O11: each boundary is one trap; the choice is the first of the least `PRIO` in the order after the last chosen strand. -/
theorem boundariesAndTurns : Obligations.BoundariesAndTurns := by
  refine ⟨fun s v who p => ⟨s.trap_does .., fun h => ?_, watchdogExpiry_traps, fun hp hr hres => ?_, fun hp hr hres => ?_⟩,
    fun s u a hnode hstop hrr hslot ha hst hbest => ?_⟩
  · have e : exec .pcRangeTrap s = s.trap 0x04 s.me.pc := if_pos h
    rw [Traps, e]
    exact s.trap_does ..
  · rw [exec_deferredCause_of_run hp hr, if_pos hres]
  · rw [exec_deferredCause_of_run hp hr, if_neg (by simp [hres])]
    exact ⟨_, rfl, s.takeTrap_deferred_only ..⟩
  · have hheld : ((s.tile u).slotHeld || !(s.tile u).issuing) = false := by
      simp [Tile.slotHeld_eq_false hslot, Tile.issuing, hnode, hstop]
    have hchoice : bestReady (s.tile u) (rrOrder (s.tile u).rr) = some a := bestReady_rrOrder hrr ha hst hbest
    have e : exec (.strandChoice u) s = .next (s.setTile u { (s.tile u).setAgent a { (s.tile u).cur.agents[a] with st := .run, heldFrom := s.clk } with
        rr := a.val, issueSlot := .chosen s.clk }) := by
      show execStrandChoice u s = _
      simp only [execStrandChoice, hheld, hchoice]
      rfl
    rw [e]
    exact ⟨_, rfl, s.setTile_setAgent_only u a _ (fun tl => { tl with rr := a.val, issueSlot := .chosen s.clk }) fun _ _ => rfl⟩

end Sys2Proof.Machine
end

/-! The tile's other steps with the barrier: self-tests (R185, R198, R357, R418), restore done (R182), the seal arrival (R169), deltas (R217),
shaping windows (R194), cause records (R199), reconfigurations of a tree (R192). -/
section
namespace Sys2Proof.Machine

/-! ## Reconfiguring a tree (R192) -/

theorem Tile.quiescent_iff {tl : Tile} : tl.quiescent = true ↔
    tl.inReg = false ∨ tl.node = .stop ∨ tl.node = .relwait ∧ tl.fresh = true ∨
      tl.node = .seal ∧ tl.launching = true ∧ tl.launchPf = [] ∧ tl.haulQ = [] ∧ tl.haulStore = [] := by
  simp [Tile.quiescent, Tile.isSet, or_assoc, and_assoc]

theorem exec_treeReconfigure_of_quiescent {s : State} {k : Nat}
    (h : ∀ r, s.region? k = some r → ∀ w ∈ r.tiles, (s.tile w).quiescent = true) : exec (.treeReconfigure k) s = .next s := by
  show execTreeReconfigure k s = _
  unfold Machine.execTreeReconfigure
  split
  · rfl
  · next r hr => exact if_pos (List.all_eq_true.mpr (h r hr))

theorem exec_treeReconfigure_of_busy {s : State} {k : Nat} {r : Region} (hr : s.region? k = some r)
    (h : ∃ w ∈ r.tiles, (s.tile w).quiescent = false) :
    exec (.treeReconfigure k) s = .next { s with outs := s.outs ++ [.refused k] } := by
  show execTreeReconfigure k s = _
  simp only [execTreeReconfigure, hr]
  refine if_neg fun hall => ?_
  obtain ⟨w, hw, hq⟩ := h
  simp [List.all_eq_true.mp hall w hw] at hq

/-! ## The links of a boundary (R357) -/

/-- The end of a link whose boundary passed its test. -/
def Port.renewed (p : Port) : Port := { p with up := true, nextSeq := 0, expected := 0, kept := [] }

theorem Port.renewed_renewed (p : Port) : p.renewed.renewed = p.renewed := rfl

theorem State.link_modLink (s : State) (d : Nat) (k : Fin 4) (f : Port → Port) (e : Nat) (j : Fin 4) :
    (s.modLink d k f).link e j = if (e, j) = (d, k) then f (s.link e j) else s.link e j := by
  by_cases he : e = d
  · subst he
    by_cases hj : j = k
    · subst hj
      simp [State.link, State.modLink]
    · have hv : k.val ≠ j.val := fun q => hj (Fin.ext q.symm)
      simp [State.link, State.modLink, Vector.getElem_set_ne _ _ hv, hj]
  · simp [State.link, State.modLink, State.modDie_die_ne _ _ he, he]

theorem foldl_renewed_link (l : List (Nat × Fin 4)) (s : State) (e : Nat) (j : Fin 4) :
    (l.foldl (fun s q => s.modLink q.1 q.2 Port.renewed) s).link e j = if (e, j) ∈ l then (s.link e j).renewed else s.link e j := by
  induction l generalizing s with
  | nil => simp
  | cons q l ih =>
    rw [List.foldl_cons, ih, State.link_modLink]
    by_cases hq : (e, j) = q
    · simp [hq, Port.renewed]
    · simp [hq]

theorem State.renewLinks_link (s : State) (m n e : Nat) (j : Fin 4) :
    (s.renewLinks m n).link e j = if (e, j) ∈ endsOf m n then (s.link e j).renewed else s.link e j :=
  foldl_renewed_link (endsOf m n) s e j

theorem foldl_modLink_wires (l : List (Nat × Fin 4)) (f : Port → Port) (s : State) :
    (l.foldl (fun s q => s.modLink q.1 q.2 f) s).wires = s.wires :=
  List.foldlRecOn (motive := fun t : State => t.wires = s.wires) l _ rfl fun _ ht _ _ => ht

theorem State.mem_renewLinks_wires {s : State} {m n : Nat} {w : Wire} :
    w ∈ (s.renewLinks m n).wires ↔ w ∈ s.wires ∧ (w.die, w.side) ∉ endsOf m n := by
  show w ∈ (List.filter _ (State.wires _)) ↔ _
  rw [List.mem_filter, foldl_modLink_wires]
  simp

/-- Between two states only the ends of die-to-die links, and the wires, differ. -/
def LinksOnly (s t : State) : Prop :=
  (∀ u, t.tile u = s.tile u) ∧ ∀ d, t.die d = { s.die d with links := (t.die d).links }

theorem LinksOnly.refl (s : State) : LinksOnly s s := ⟨fun _ => rfl, fun _ => rfl⟩

theorem LinksOnly.trans {s t r : State} (h : LinksOnly s t) (k : LinksOnly t r) : LinksOnly s r := by
  refine ⟨fun u => (k.1 u).trans (h.1 u), fun d => ?_⟩
  rw [k.2 d, h.2 d]

theorem State.modLink_linksOnly (s : State) (d : Nat) (k : Fin 4) (f : Port → Port) : LinksOnly s (s.modLink d k f) := by
  refine ⟨fun _ => rfl, fun e => ?_⟩
  by_cases he : e = d
  · subst he
    simp [State.modLink]
  · simp [State.modLink, State.modDie_die_ne _ _ he]

theorem State.renewLinks_linksOnly (s : State) (m n : Nat) : LinksOnly s (s.renewLinks m n) :=
  List.foldlRecOn (motive := LinksOnly s) (endsOf m n) _ (.refl s) fun t h q _ => h.trans (t.modLink_linksOnly q.1 q.2 Port.renewed)

/-- The boundaries of a list renewed, each as its number and its module. -/
def State.renewAll (s : State) (l : List (Nat × Nat)) : State := l.foldl (fun s q => s.renewLinks q.2 q.1) s

theorem State.renewAll_linksOnly (s : State) (l : List (Nat × Nat)) : LinksOnly s (s.renewAll l) :=
  List.foldlRecOn (motive := LinksOnly s) l _ (.refl s) fun t h q _ => h.trans (t.renewLinks_linksOnly q.2 q.1)

theorem State.renewAll_link_of_mem {l : List (Nat × Nat)} {q : Nat × Nat} (hq : q ∈ l) {e : Nat} {j : Fin 4} (hj : (e, j) ∈ endsOf q.2 q.1)
    (s : State) : (s.renewAll l).link e j = (s.link e j).renewed := by
  have keep (l : List (Nat × Nat)) (s : State) :
      (s.renewAll l).link e j = s.link e j ∨ (s.renewAll l).link e j = (s.link e j).renewed := by
    refine List.foldlRecOn (motive := fun t : State => t.link e j = s.link e j ∨ t.link e j = (s.link e j).renewed) l _ (.inl rfl)
      fun t h q _ => ?_
    rw [State.renewLinks_link]
    split
    · rcases h with h | h <;> exact .inr (by simp only [h, Port.renewed_renewed])
    · exact h
  obtain ⟨l1, l2, rfl⟩ := List.append_of_mem hq
  have hsplit : s.renewAll (l1 ++ q :: l2) = ((s.renewAll l1).renewLinks q.2 q.1).renewAll l2 := by
    simp [State.renewAll, List.foldl_append]
  have hmid : ((s.renewAll l1).renewLinks q.2 q.1).link e j = (s.link e j).renewed := by
    rw [State.renewLinks_link, if_pos hj]
    rcases keep l1 s with h | h <;> simp only [h, Port.renewed_renewed]
  rw [hsplit]
  rcases keep l2 ((s.renewAll l1).renewLinks q.2 q.1) with h | h <;> simp only [h, hmid, Port.renewed_renewed]

theorem State.renewAll_link_of_not_mem {l : List (Nat × Nat)} {e : Nat} {j : Fin 4} (h : ∀ q ∈ l, (e, j) ∉ endsOf q.2 q.1) (s : State) :
    (s.renewAll l).link e j = s.link e j :=
  List.foldlRecOn (motive := fun t : State => t.link e j = s.link e j) l _ rfl fun t ht q hq => by
    rw [State.renewLinks_link, if_neg (h q hq), ht]

theorem State.renewAll_wires {l : List (Nat × Nat)} {s : State} {w : Wire} (h : w ∈ (s.renewAll l).wires) :
    ∀ q ∈ l, (w.die, w.side) ∉ endsOf q.2 q.1 := by
  induction l generalizing s with
  | nil => simp
  | cons p l ih =>
    intro q hq
    rcases List.mem_cons.mp hq with rfl | hq
    · have sub (l : List (Nat × Nat)) (s : State) : ∀ w ∈ (s.renewAll l).wires, w ∈ s.wires :=
        List.foldlRecOn (motive := fun t : State => ∀ w ∈ t.wires, w ∈ s.wires) l _ (fun _ h => h) fun t ht q _ w hw =>
          ht w (State.mem_renewLinks_wires.mp hw).1
      exact (State.mem_renewLinks_wires.mp (sub l _ w h)).2
    · exact ih h q hq

/-! ## A self-test that ends (R185, R198) -/

/-- A test counted, and its failure. -/
def State.testCounted (s : State) (d : Nat) (pass : Bool) : State :=
  s.modDie d fun x => { x with qd := { x.qd with
    selfTests := x.qd.selfTests + 1, selfFails := if pass then x.qd.selfFails else x.qd.selfFails + 1 } }

/-- What a passed test of a unit that is no memory gives back: the noise source, the scale-out port, the boundaries. -/
def State.testPassed (s : State) (u unit bank : Nat) (l : List (Nat × Nat)) : State :=
  if unit = 4 ∧ bank = 1 then s.modDie (dieOfTile u) fun x => { x with ff := { x.ff with noiseOk := true } }
  else if unit = 5 then s.modPort (16 * modOfTile u + bank) false fun p => { p with nextSeq := 0, expected := 0, kept := [] }
  else if unit = 6 then s.renewAll l
  else s

section testEnd
variable {s : State} {u unit bank row : Nat} {rest : List (Nat × Nat × Nat)} (hn : (s.tile u).node = .rollback)
  (ht : (s.tile u).tests = (unit, bank, row) :: rest) (scrub : Bool)
include hn ht

theorem exec_selfTest_pass : exec (.targetedSelfTestEnd u true scrub) s = .next
    (((s.testCounted (dieOfTile u) true).setTile u { s.tile u with
      tests := rest, lost := (s.tile u).lost || !scrub || (s.tile u).stillBad (unit, bank, row) }).testPassed u unit bank
        ((s.tile u).linkMods.filter fun l => decide (l.1 = bank))) := by
  show execTargetedSelfTestEnd u true scrub s = _
  simp only [execTargetedSelfTestEnd, hn, ht]
  rfl

theorem exec_selfTest_fail : exec (.targetedSelfTestEnd u false scrub) s = .next
    (if (s.testCounted (dieOfTile u) false).noRemedy u (unit, bank, row) = true then
      ((s.testCounted (dieOfTile u) false).setTile u { s.tile u with tests := rest }).fence u (unit, bank, row)
    else (s.testCounted (dieOfTile u) false).setTile u { s.tile u with
      tests := rest, unspared := (s.tile u).unspared ++ [(unit, bank, row)] }) := by
  show execTargetedSelfTestEnd u false scrub s = _
  simp only [execTargetedSelfTestEnd, hn, ht]
  exact (apply_ite Host.Outcome.next _ _ _).symm

end testEnd

theorem Tile.stillBad_iff {tl : Tile} {unit bank row : Nat} : tl.stillBad (unit, bank, row) = true ↔
    unit = 0 ∧ 31 * row + bank ∈ tl.bad ∨ unit = 2 ∧ (∃ w ∈ tl.badAcc, w / 512 = bank ∧ w % 512 / 4 = row) ∨
      unit = 3 ∧ (∃ w ∈ tl.badSlot, w / 1024 = bank ∧ w % 1024 / 4 = row) ∨ unit = 7 ∧ (bank, row) ∈ tl.badMb := by
  unfold Tile.stillBad
  dsimp only
  split
  · next h => subst h; simp
  split
  · next h => subst h; simp
  split
  · next h => subst h; simp
  split
  · next h => subst h; simp
  · simp_all

section remedy
variable {s : State} {u unit bank row : Nat}

theorem DieCtl.tileLeft_iff {c : DieCtl} : c.tileLeft = true ↔ ∃ n : Fin 4, spareOn c.tspare[n] = false := by
  simp [DieCtl.tileLeft, Vector.any_eq_true, Fin.exists_iff]

theorem DieCtl.rowLeft_iff {c : DieCtl} : c.rowLeft u bank = true ↔
    ∃ i, i < 2 ∧ spareOn (kvGet 0 c.rsprow (u % 64 + 64 * (bank % 32) + 2048 * i)) = false := by
  simp [DieCtl.rowLeft, Nat.mul_comm]

theorem State.noRemedy_eq_false_iff : s.noRemedy u (unit, bank, row) = false ↔
    (unit = 0 → (s.die (dieOfTile u)).ctl.rowLeft u bank = true ∨ (s.die (dieOfTile u)).ctl.tileLeft = true) ∧
      (unit = 1 ∨ unit = 2 ∨ unit = 3 ∨ unit = 7 → (s.die (dieOfTile u)).ctl.tileLeft = true) ∧
      (unit = 4 → bank = 0 → ∃ n : Fin 4, spareOn (s.die (dieOfTile u)).ff.spares[n] = false) := by
  unfold State.noRemedy
  dsimp only
  split
  · next h => subst h; simp [or_iff_not_imp_left]
  split
  · next h0 h =>
    have h4 : unit ≠ 4 := by omega
    simp [h0, h, h4]
  split
  · next h => obtain ⟨rfl, rfl⟩ := h; simp [Vector.all_eq_false, Fin.exists_iff]
  · next h0 h1 h4 => exact iff_of_true rfl ⟨fun h => absurd h h0, fun h => absurd h h1, fun h h' => absurd ⟨h, h'⟩ h4⟩

end remedy
/-! ### What a passed test gives back -/

theorem State.port_modDie (s : State) (d e : Nat) {f : Die → Die} (hf : ∀ x, (f x).lk = x.lk) :
    (s.modDie d f).port e false = s.port e false := by
  have h : ((s.modDie d f).die e).lk = (s.die e).lk := by
    rw [State.die_modDie]
    split
    · next he => rw [hf, he]
    · rfl
  exact congrArg LinkCtl.port h

theorem State.link_modDie (s : State) (d e : Nat) (j : Fin 4) {f : Die → Die} (hf : ∀ x, (f x).links = x.links) :
    (s.modDie d f).link e j = s.link e j := by
  rw [State.link, State.die_modDie]
  split
  · next he => simp only [hf, State.link, he]
  · rfl

section passed
variable (s : State) (u unit bank : Nat) (l : List (Nat × Nat))

theorem State.testPassed_tile (w : Nat) : (s.testPassed u unit bank l).tile w = s.tile w := by
  unfold State.testPassed
  split
  · rfl
  split
  · rfl
  split
  · exact (s.renewAll_linksOnly l).1 w
  · rfl

theorem State.testPassed_qd : ((s.testPassed u unit bank l).die (dieOfTile u)).qd = (s.die (dieOfTile u)).qd := by
  unfold State.testPassed
  split
  · rw [State.modDie_die_self]
  split
  · rw [State.modPort, State.die_modDie]
    split
    · next h => rw [h]; rfl
    · rfl
  split
  · rw [(s.renewAll_linksOnly l).2]
  · rfl

theorem State.testPassed_noiseOk : ((s.testPassed u unit bank l).die (dieOfTile u)).ff.noiseOk =
    if unit = 4 ∧ bank = 1 then true else (s.die (dieOfTile u)).ff.noiseOk := by
  unfold State.testPassed
  split
  · rw [State.modDie_die_self]
  split
  · rw [State.modPort, State.die_modDie]
    split
    · next h => rw [h]; rfl
    · rfl
  split
  · rw [(s.renewAll_linksOnly l).2]
  · rfl

theorem State.testPassed_port : (s.testPassed u unit bank l).port (16 * modOfTile u + bank) false =
    if unit = 5 then { s.port (16 * modOfTile u + bank) false with nextSeq := 0, expected := 0, kept := [] }
    else s.port (16 * modOfTile u + bank) false := by
  unfold State.testPassed
  split
  · rw [if_neg (by omega)]
    exact s.port_modDie _ _ fun _ => rfl
  split
  · simp [State.port, State.modPort]
  split
  · rw [State.port, (s.renewAll_linksOnly l).2]
    rfl
  · rfl

theorem State.testPassed_wires (h : unit ≠ 6) : (s.testPassed u unit bank l).wires = s.wires := by
  rw [State.testPassed, if_neg h]
  split
  · rfl
  split <;> rfl

theorem State.testPassed_link (h : unit ≠ 6) (e : Nat) (j : Fin 4) : (s.testPassed u unit bank l).link e j = s.link e j := by
  rw [State.testPassed, if_neg h]
  split
  · exact s.link_modDie _ e j fun _ => rfl
  split
  · exact s.link_modDie _ e j fun _ => rfl
  · rfl

end passed

/-! ### Fencing (R418) -/

theorem State.noteReplace_deadTiles (s : State) (m : Nat) : ((s.noteReplace m).module m).deadTiles = (s.module m).deadTiles := by
  simp only [State.noteReplace]
  split
  · rw [State.report_module, State.modModule_module_self]
  · rw [State.modModule_module_self]

section fenced
variable (s : State) (u unit bank row : Nat)

theorem State.fence_tile (w : Nat) : (s.fence u (unit, bank, row)).tile w = if w = u then { s.tile w with lost := true } else s.tile w := by
  have e : (s.fence u (unit, bank, row)).tile w = (s.modTile u fun tl => { tl with lost := true }).tile w := by
    unfold State.fence
    split
    · rw [State.noteReplace_tile, State.modDie_tile]
    · rw [State.fenceTile, State.noteReplace_tile, State.modModule_tile]
  rw [e, State.tile_modTile]

theorem State.fence_qd : ((s.fence u (unit, bank, row)).die (dieOfTile u)).qd = (s.die (dieOfTile u)).qd := by
  unfold State.fence
  split
  · rw [State.noteReplace_die, State.modDie_die_self]; rfl
  · rw [State.fenceTile, State.noteReplace_die]; rfl

theorem State.fence_cellRow : row ∈ ((s.fence u (4, bank, row)).die (dieOfTile u)).ff.fenced ∧
    ((s.fence u (4, bank, row)).module (modOfTile u)).deadTiles = (s.module (modOfTile u)).deadTiles := by
  rw [State.fence, if_pos rfl]
  refine ⟨?_, State.noteReplace_deadTiles ..⟩
  rw [State.noteReplace_die, State.modDie_die_self]
  exact mem_natInsert_self ..

theorem State.fence_tile_dead (h : unit ≠ 4) : u ∈ ((s.fence u (unit, bank, row)).module (modOfTile u)).deadTiles := by
  rw [State.fence, if_neg h, State.fenceTile, State.noteReplace_deadTiles, State.modModule_module_self]
  exact mem_natInsert_self ..

end fenced

section selfTest
variable {s : State} {u unit bank row : Nat} {rest : List (Nat × Nat × Nat)}

theorem State.testCounted_die_self (s : State) (d : Nat) (pass : Bool) : (s.testCounted d pass).die d = { s.die d with qd := { (s.die d).qd with
    selfTests := (s.die d).qd.selfTests + 1, selfFails := (s.die d).qd.selfFails + if pass = true then 0 else 1 } } := by
  rw [State.testCounted, State.modDie_die_self]
  cases pass <;> simp

theorem State.testCounted_port (s : State) (d e : Nat) (pass : Bool) : (s.testCounted d pass).port e false = s.port e false :=
  s.port_modDie _ _ fun _ => rfl

theorem State.testCounted_link (s : State) (d e : Nat) (j : Fin 4) (pass : Bool) : (s.testCounted d pass).link e j = s.link e j :=
  s.link_modDie _ _ _ fun _ => rfl

theorem State.testCounted_noRemedy (s : State) (pass : Bool) (q : Nat × Nat × Nat) :
    (s.testCounted (dieOfTile u) pass).noRemedy u q = s.noRemedy u q := by
  simp only [State.noRemedy, State.testCounted_die_self]

theorem spared_iff : s.noRemedy u (unit, bank, row) = false ↔
    (unit = 0 → (∃ i, i < 2 ∧ spareOn (kvGet 0 (s.die (dieOfTile u)).ctl.rsprow (u % 64 + 64 * (bank % 32) + 2048 * i)) = false) ∨
        ∃ n : Fin 4, spareOn (s.die (dieOfTile u)).ctl.tspare[n] = false) ∧
      (unit = 1 ∨ unit = 2 ∨ unit = 3 ∨ unit = 7 → ∃ n : Fin 4, spareOn (s.die (dieOfTile u)).ctl.tspare[n] = false) ∧
      (unit = 4 → bank = 0 → ∃ n : Fin 4, spareOn (s.die (dieOfTile u)).ff.spares[n] = false) := by
  rw [State.noRemedy_eq_false_iff, DieCtl.tileLeft_iff, DieCtl.rowLeft_iff]

/-- What a test that ends counts on the die of its tile, and that it leaves the other tiles. -/
def TestEnds (s t : State) (u : Nat) (pass : Bool) (x : Tile) : Prop :=
  t.tile u = x ∧ (t.die (dieOfTile u)).qd.selfTests = (s.die (dieOfTile u)).qd.selfTests + 1 ∧
    (t.die (dieOfTile u)).qd.selfFails = (s.die (dieOfTile u)).qd.selfFails + (if pass = true then 0 else 1) ∧
    ∀ w, w ≠ u → t.tile w = s.tile w

theorem TestEnds.of_set (s : State) (u : Nat) (pass : Bool) (x : Tile) :
    TestEnds s ((s.testCounted (dieOfTile u) pass).setTile u x) u pass x := by
  refine ⟨State.tile_setTile_self .., ?_, ?_, fun w hw => State.tile_setTile_ne _ _ hw⟩ <;>
    rw [State.setTile_die, State.testCounted_die_self]

theorem TestEnds.passed {t : State} {pass : Bool} {x : Tile} (h : TestEnds s t u pass x) (l : List (Nat × Nat)) :
    TestEnds s (t.testPassed u unit bank l) u pass x := by
  obtain ⟨htile, htests, hfails, hother⟩ := h
  refine ⟨(t.testPassed_tile ..).trans htile, ?_, ?_, fun w hw => (t.testPassed_tile ..).trans (hother w hw)⟩
  · rw [State.testPassed_qd, htests]
  · rw [State.testPassed_qd, hfails]

theorem TestEnds.fenced {t : State} {pass : Bool} {x : Tile} (h : TestEnds s t u pass x) :
    TestEnds s (t.fence u (unit, bank, row)) u pass { x with lost := true } := by
  obtain ⟨htile, htests, hfails, hother⟩ := h
  refine ⟨?_, ?_, ?_, fun w hw => ?_⟩
  · rw [State.fence_tile, if_pos rfl, htile]
  · rw [State.fence_qd, htests]
  · rw [State.fence_qd, hfails]
  · rw [State.fence_tile, if_neg hw, hother w hw]

theorem setTile_testCounted_link (s : State) (d v e : Nat) (j : Fin 4) (pass : Bool) (x : Tile) :
    ((s.testCounted d pass).setTile v x).link e j = s.link e j := s.testCounted_link d e j pass

theorem setTile_testCounted_port (s : State) (d v e : Nat) (pass : Bool) (x : Tile) :
    ((s.testCounted d pass).setTile v x).port e false = s.port e false := s.testCounted_port d e pass

theorem mem_boundaries {l : List (Nat × Nat)} {q : Nat × Nat} : q ∈ l.filter (fun p => decide (p.1 = bank)) ↔ q ∈ l ∧ q.1 = bank := by
  simp

/-- The boundaries of number `bank` that the tile recorded carry frames again, each from number 0. -/
theorem renewAll_boundaries {t : State} {l : List (Nat × Nat)} {n : Nat} (hn : (bank, n) ∈ l) {q : Nat × Fin 4} (hq : q ∈ endsOf n bank) :
    let r := t.renewAll (l.filter fun p => decide (p.1 = bank))
    (r.link q.1 q.2).up = true ∧ (r.link q.1 q.2).nextSeq = 0 ∧ (r.link q.1 q.2).expected = 0 ∧ (r.link q.1 q.2).kept = [] ∧
      ∀ w ∈ r.wires, (w.die, w.side) ≠ q := by
  have hmem : (bank, n) ∈ l.filter fun p => decide (p.1 = bank) := mem_boundaries.mpr ⟨hn, rfl⟩
  have hlink : (t.renewAll (l.filter fun p => decide (p.1 = bank))).link q.1 q.2 = (t.link q.1 q.2).renewed :=
    State.renewAll_link_of_mem (q := (bank, n)) hmem hq t
  refine ⟨?_, ?_, ?_, ?_, fun w hw hwq => State.renewAll_wires hw (bank, n) hmem (hwq ▸ hq)⟩ <;> rw [hlink] <;> rfl

section outcome
variable (hn : (s.tile u).node = .rollback) (ht : (s.tile u).tests = (unit, bank, row) :: rest) (scrub : Bool)
include hn ht

/-- What a passed test leaves of the tile. -/
def Tile.passed (tl : Tile) (rest : List (Nat × Nat × Nat)) (scrub : Bool) (q : Nat × Nat × Nat) : Tile :=
  { tl with tests := rest, lost := tl.lost || !scrub || tl.stillBad q }

theorem selfTest_passes : ∃ t, exec (.targetedSelfTestEnd u true scrub) s = .next t ∧
    TestEnds s t u true ((s.tile u).passed rest scrub (unit, bank, row)) ∧
    (s.tile u).passed rest scrub (unit, bank, row) =
      { s.tile u with tests := rest, lost := ((s.tile u).passed rest scrub (unit, bank, row)).lost } ∧
    (((s.tile u).passed rest scrub (unit, bank, row)).lost = true ↔
      (s.tile u).lost = true ∨ scrub = false ∨ (s.tile u).stillBad (unit, bank, row) = true) ∧
    (t.die (dieOfTile u)).ff.noiseOk = (if unit = 4 ∧ bank = 1 then true else (s.die (dieOfTile u)).ff.noiseOk) ∧
    (t.port (16 * modOfTile u + bank) false =
      if unit = 5 then { s.port (16 * modOfTile u + bank) false with nextSeq := 0, expected := 0, kept := [] }
      else s.port (16 * modOfTile u + bank) false) ∧
    (unit = 6 → ∀ n, (bank, n) ∈ (s.tile u).linkMods → ∀ q ∈ endsOf n bank, (t.link q.1 q.2).up = true ∧ (t.link q.1 q.2).nextSeq = 0 ∧
      (t.link q.1 q.2).expected = 0 ∧ (t.link q.1 q.2).kept = [] ∧ ∀ w ∈ t.wires, (w.die, w.side) ≠ q) ∧
    (unit = 6 → ∀ e k, (∀ n, (bank, n) ∈ (s.tile u).linkMods → (e, k) ∉ endsOf n bank) → t.link e k = s.link e k) ∧
    (unit ≠ 6 → t.wires = s.wires ∧ ∀ e k, t.link e k = s.link e k) := by
  refine ⟨_, exec_selfTest_pass hn ht scrub, (TestEnds.of_set ..).passed _, rfl, ?_, ?_, ?_, fun h6 n hmem q hq => ?_,
    fun h6 e k hout => ?_, fun h6 => ⟨?_, fun e k => ?_⟩⟩
  · simp [Tile.passed, or_assoc]
  · rw [State.testPassed_noiseOk, State.setTile_die, State.testCounted_die_self]
  · rw [State.testPassed_port, setTile_testCounted_port]
  · subst h6
    exact renewAll_boundaries hmem hq
  · subst h6
    refine (State.renewAll_link_of_not_mem (fun q hq => ?_) _).trans (setTile_testCounted_link ..)
    obtain ⟨hmem, hbank⟩ := mem_boundaries.mp hq
    exact hbank ▸ hout q.2 (hbank ▸ hmem)
  · exact State.testPassed_wires _ _ _ _ _ h6
  · exact (State.testPassed_link _ _ _ _ _ h6 e k).trans (setTile_testCounted_link ..)

/-- A failed structure waits for its spare. -/
theorem selfTest_waits (hrem : s.noRemedy u (unit, bank, row) = false) : ∃ t, exec (.targetedSelfTestEnd u false scrub) s = .next t ∧
    TestEnds s t u false { s.tile u with tests := rest, unspared := (s.tile u).unspared ++ [(unit, bank, row)] } := by
  refine ⟨_, exec_selfTest_fail hn ht scrub, ?_⟩
  rw [State.testCounted_noRemedy, hrem]
  exact TestEnds.of_set ..

/-- A failed structure that no spare is left for is fenced. -/
theorem selfTest_fences (hrem : s.noRemedy u (unit, bank, row) = true) : ∃ t, exec (.targetedSelfTestEnd u false scrub) s = .next t ∧
    TestEnds s t u false { s.tile u with tests := rest, lost := true } ∧
    (unit = 4 → row ∈ (t.die (dieOfTile u)).ff.fenced ∧ (t.module (modOfTile u)).deadTiles = (s.module (modOfTile u)).deadTiles) ∧
    (unit ≠ 4 → u ∈ (t.module (modOfTile u)).deadTiles) := by
  refine ⟨_, exec_selfTest_fail hn ht scrub, ?_⟩
  rw [State.testCounted_noRemedy, if_pos hrem]
  refine ⟨(TestEnds.of_set s u false _).fenced, fun h4 => ?_, fun h4 => State.fence_tile_dead _ _ _ _ _ h4⟩
  subst h4
  exact State.fence_cellRow ..

end outcome
end selfTest

/-! ## Restore done, the seal arrival, deltas, shaping windows, cause records -/

section steps
variable {s : State} {u : Nat} {r : Region} (hr : s.regionOf u = some r)

theorem State.sendUp_eq {s : State} {t : Nat} {r : Region} (h1 : r.nmod = 1) (ha : (s.module (modOfTile t)).alive = true) (q : Up) :
    s.sendUp t r q = { s with up := s.up ++ [q] } := by
  simp [State.sendUp, h1, ha]

include hr

theorem exec_rollbackWindowDone (h1 : r.nmod = 1) (hn : (s.tile u).node = .rollback) (ht : (s.tile u).tests = [])
    (hu : (s.tile u).unspared = []) (ha : (s.module (modOfTile u)).alive = true) :
    exec (.rollbackWindowDone u) s = .next { s.setTile u { s.tile u with node := .hold, linkMods := [] } with up := s.up ++
      [{ kind := 2, region := r.serial, ssn := (s.tile u).ssnum, abort := false, cause := 0, op := none, operand := 0,
         tile := u, src := u, ended := false, lost := (s.tile u).lost }] } := by
  show execRollbackWindowDone u s = _
  simp only [execRollbackWindowDone, hr, hn, ht, hu, and_self, if_true]
  rw [State.sendUp_eq (s := s.setTile u _) h1 ha]
  rfl

theorem exec_sealArrivalSend (h1 : r.nmod = 1) (hn : (s.tile u).node = .exch) (hc : (s.tile u).recorded = [])
    (hd : (s.tile u).exchangeDone = true) (hi : s.incoming u = false) (ha : (s.module (modOfTile u)).alive = true) :
    exec (.sealArrivalSend u) s = .next { s.setTile u { s.tile u with node := .seal } with up := s.up ++
      [{ kind := 1, region := r.serial, ssn := (s.tile u).ssnum, abort := false, cause := firstCause [], op := none, operand := 0,
         tile := u, src := u, ended := false, lost := false }] } := by
  have hgo : ¬(decide ((s.tile u).node ≠ .exch) || !(([] : List Recorded).map fun c => c.code).contains 0x14 &&
      (!(s.tile u).exchangeDone || s.incoming u)) = true := by simp [hn, hd, hi]
  show execSealArrivalSend u s = _
  simp only [execSealArrivalSend, hr, hc]
  rw [if_neg hgo, State.sendUp_eq (s := s.setTile u _) h1 ha]
  rfl

theorem exec_deltaArrival {e : Nat} {x : Delta} (hx : (s.tile u).deltas[e]? = some x) (hk : x.acked = false)
    (hn : (s.tile u).node = .arrived ∨ (s.tile u).node = .exch) : exec (.deltaArrival u e) s =
    if s.deltaUse (16 * modOfTile u + x.home) + x.room ≤ kvGet 256 r.hdEff (16 * modOfTile u + x.home) * 2 ^ 20 then
      .next (s.setTile u { s.tile u with deltas := (s.tile u).deltas.set e { x with acked := true } })
    else .next (s.setTile u ({ s.tile u with deltas := (s.tile u).deltas.eraseIdx e }.record ⟨0x0A, none⟩)) := by
  have hgo : ¬(x.acked || (decide ((s.tile u).node ≠ .arrived) && decide ((s.tile u).node ≠ .exch))) = true := by
    rcases hn with hn | hn <;> simp [hk, hn]
  show execDeltaArrival u e s = _
  simp only [execDeltaArrival, hx]
  rw [if_neg hgo]
  simp only [State.deltaSize, hr]

end steps

theorem Tile.mem_record (tl : Tile) (r : Recorded) : r ∈ (tl.record r).recorded := by
  simp only [Tile.record]
  split
  · simpa using ‹tl.recorded.contains r = true›
  · simp

theorem exec_shapingWindow {s : State} {u : Nat} (hn : (s.tile u).node = .run)
    (hc : (s.tile u).startClk + 4000 * ((s.tile u).mshWin.toNat + 1) ≤ s.clk) (hk : (s.tile u).mshWin.toNat < 65535) :
    exec (.shapingWindow u) s = .next (s.setTile u { s.tile u with mshWin := (s.tile u).mshWin + 1, mshCnt := 0 }) := by
  have hlast : (s.tile u).mshWin ≠ 0xFFFF#16 := fun h => by simp [h] at hk
  have hgo : ¬((s.tile u).node ≠ .run ∨ s.clk < (s.tile u).startClk + 4000 * ((s.tile u).mshWin.toNat + 1)) := by
    rintro (h | h)
    · exact h hn
    · omega
  show execShapingWindow u s = _
  simp only [execShapingWindow]
  rw [if_neg hgo, if_neg hlast]

theorem exec_qcrecRead {s : State} {d : Nat} {x : W} {rest : List W} (h : (s.die d).qd.qcrec = x :: rest) :
    exec (.qcrecRead d) s = .next (s.modDie d fun x => { x with qd := { x.qd with qcrec := rest } }) := by
  show execQcrecRead d s = _
  simp only [execQcrecRead, State.qcrecRead, h]

/-! ## The obligation -/

/-- Settles O42: each step by its equation; a self-test by its outcome, and a failed one by whether a spare is left. -/
theorem barrierStepsRun : Obligations.BarrierStepsRun := by
  refine ⟨fun s k => ⟨fun h => ?_, fun r hr h => ?_⟩, fun s u r hr h1 => ⟨?_, ?_, ?_, ?_, ?_, ?_⟩⟩
  · exact exec_treeReconfigure_of_quiescent fun r hr w hw => Tile.quiescent_iff.mpr (h r hr w hw)
  · obtain ⟨w, hw, hin, hstop, hset⟩ := h
    refine exec_treeReconfigure_of_busy hr ⟨w, hw, Bool.eq_false_iff.mpr fun hq => ?_⟩
    rcases Tile.quiescent_iff.mp hq with hq | hq | hq
    · exact Bool.false_ne_true (hq.symm.trans hin)
    · exact hstop hq
    · exact hset hq
  · intro unit bank row rest pass scrub hn ht
    cases pass with
    | true =>
      obtain ⟨t, he, ⟨hx, htests, hfails, hother⟩, hpass⟩ := selfTest_passes hn ht scrub
      rw [Tile.stillBad_iff] at hpass
      exact ⟨t, _, he, hx, htests, hfails, hother, fun _ => hpass, fun h => absurd h (by decide), fun h => absurd h (by decide)⟩
    | false =>
      by_cases hrem : s.noRemedy u (unit, bank, row) = true
      · obtain ⟨t, he, ⟨hx, htests, hfails, hother⟩, hrow, htile⟩ := selfTest_fences hn ht scrub hrem
        refine ⟨t, _, he, hx, htests, hfails, hother, fun h => absurd h (by decide), fun _ h => ?_, fun _ _ => ⟨rfl, hrow, htile⟩⟩
        exact absurd ((spared_iff.mpr h).symm.trans hrem) Bool.false_ne_true
      · obtain ⟨t, he, hx, htests, hfails, hother⟩ := selfTest_waits hn ht scrub (by simpa using hrem)
        refine ⟨t, _, he, hx, htests, hfails, hother, fun h => absurd h (by decide), fun _ _ => rfl, fun _ h => ?_⟩
        exact absurd (spared_iff.mp (by simpa using hrem)) h
  · intro hn ht hu ha
    refine ⟨_, _, exec_rollbackWindowDone hr h1 hn ht hu ha, ?_, rfl, rfl, rfl, rfl, rfl⟩
    exact State.tile_setTile_self ..
  · intro hn hc hd hi ha
    refine ⟨_, _, exec_sealArrivalSend hr h1 hn hc hd hi ha, ?_, rfl, rfl, rfl, rfl, rfl⟩
    exact State.tile_setTile_self ..
  · intro e x hx hk hn
    refine ⟨fun hroom => ⟨_, (exec_deltaArrival hr hx hk hn).trans (if_pos hroom), State.tile_setTile_self ..⟩, fun hroom => ?_⟩
    refine ⟨_, (exec_deltaArrival hr hx hk hn).trans (if_neg (Nat.not_le.mpr hroom)), ?_⟩
    rw [State.tile_setTile_self]
    exact ⟨Tile.mem_record .., rfl⟩
  · intro hn hc hk
    exact ⟨_, exec_shapingWindow hn hc hk, State.tile_setTile_self ..⟩
  · intro d x rest hq
    refine ⟨_, exec_qcrecRead hq, ?_, fun k => rfl⟩
    rw [State.modDie_die_self]

end Sys2Proof.Machine
end

/-! The firmware's and the physical part's steps: power (R420-R422), the thermal trip (R425), resets (R30, R384). -/
section
namespace Sys2Proof.Machine

/-! ## Maps by number: every entry of some numbers changed, or taken out -/

section maps
variable {α : Type} {d : α} {c : Nat → Prop} [DecidablePred c]

theorem kvGet_mapWhere {f : α → α} (hd : f d = d) (l : List (Nat × α)) (u : Nat) :
    kvGet d (l.map fun q => if c q.1 then (q.1, f q.2) else q) u = if c u then f (kvGet d l u) else kvGet d l u := by
  induction l with
  | nil => simp [kvGet, hd]
  | cons q l ih =>
    by_cases hq : q.1 = u
    · by_cases hc : c q.1 <;> simp [kvGet, hc, ← hq]
    · by_cases hc : c q.1 <;> simpa [kvGet, hc, hq] using ih

theorem kvGet_filterWhere (l : List (Nat × α)) (u : Nat) :
    kvGet d (l.filter fun q => decide (c q.1)) u = if c u then kvGet d l u else d := by
  induction l with
  | nil => simp [kvGet]
  | cons q l ih =>
    by_cases hq : q.1 = u
    · by_cases hc : c q.1
      · simp [kvGet, hc, ← hq]
      · have hu : ¬c u := hq ▸ hc
        simpa [hc, hu] using ih
    · by_cases hc : c q.1 <;> simpa [kvGet, hc, hq] using ih

/-- Of the entries changed each by its place, one is the default as before, or has its new value. -/
theorem kvGet_zipIdx_mapWhere {P : α → Prop} (hd : P d) {f : α → Nat → α} (hf : ∀ x k, P (f x k)) (l : List (Nat × α)) (n u : Nat) :
    (c u → P (kvGet d ((l.zipIdx n).map fun q => if c q.1.1 then (q.1.1, f q.1.2 q.2) else q.1) u)) ∧
      (¬c u → kvGet d ((l.zipIdx n).map fun q => if c q.1.1 then (q.1.1, f q.1.2 q.2) else q.1) u = kvGet d l u) := by
  induction l generalizing n with
  | nil => exact ⟨fun _ => hd, fun _ => rfl⟩
  | cons q l ih =>
    obtain ⟨ih1, ih2⟩ := ih (n + 1)
    rw [List.zipIdx_cons, List.map_cons]
    by_cases hq : q.1 = u
    · subst hq
      refine ⟨fun hc => ?_, fun hc => ?_⟩
      · simpa [kvGet, hc] using hf q.2 n
      · simp [kvGet, hc]
    · refine ⟨fun hc => ?_, fun hc => ?_⟩ <;> by_cases hk : c q.1
      · simpa [kvGet, hk, hq] using ih1 hc
      · simpa [kvGet, hk, hq] using ih1 hc
      · simpa [kvGet, hk, hq] using ih2 hc
      · simpa [kvGet, hk, hq] using ih2 hc

end maps

/-! ## The dies of a module -/

theorem dieOf_mem (m : Nat) (i : Fin 16) : 16 * m + i.val ∈ diesOfModule m := List.mem_map.mpr ⟨i.val, List.mem_range.mpr i.isLt, rfl⟩

theorem mem_diesOfModule_iff {m e : Nat} : e ∈ diesOfModule m ↔ ∃ i : Fin 16, e = 16 * m + i.val := by
  simp [diesOfModule, Fin.exists_iff, eq_comm]

theorem diesOfModule_nodup (m : Nat) : (diesOfModule m).Nodup :=
  List.Nodup.map (fun _ _ h => Nat.add_left_cancel h) List.nodup_range

theorem State.modDies_tile (s : State) (l : List Nat) (f : Die → Die) (u : Nat) : (s.modDies l f).tile u = s.tile u :=
  List.foldlRecOn (motive := fun t : State => t.tile u = s.tile u) l _ rfl fun _ ht _ _ => ht

theorem State.modDies_module (s : State) (l : List Nat) (f : Die → Die) (n : Nat) : (s.modDies l f).module n = s.module n :=
  List.foldlRecOn (motive := fun t : State => t.module n = s.module n) l _ rfl fun _ ht _ _ => ht

theorem State.modDies_die {l : List Nat} (hl : l.Nodup) (s : State) (f : Die → Die) (e : Nat) :
    (s.modDies l f).die e = if e ∈ l then f (s.die e) else s.die e := by
  induction l generalizing s with
  | nil => simp [State.modDies]
  | cons d l ih =>
    obtain ⟨hd, hl⟩ := List.nodup_cons.mp hl
    show ((s.modDie d f).modDies l f).die e = _
    rw [ih hl]
    by_cases he : e = d
    · subst he
      simp [hd]
    · simp [State.modDie_die_ne _ _ he, he]

theorem State.modModule_module_ne (s : State) {m n : Nat} (f : Module → Module) (h : n ≠ m) : (s.modModule m f).module n = s.module n := by
  simp [State.module_modModule, h]

/-! ## Caps and limits (R420, R422, R425) -/

theorem clampTo_eq (lo hi v : Nat) : clampTo lo hi v = min hi (max lo v) := rfl

theorem pslewWrite_shape {k x : Nat} (hk : 1 ≤ k) (hk' : k ≤ 100) :
    (BitVec.ofNat 48 (1 + k * 2 ^ 8 + fld x 16 8 * 2 ^ 16 + 260000 / k * 2 ^ 24)).toNat =
      1 + k * 2 ^ 8 + x / 2 ^ 16 % 256 * 2 ^ 16 + 260000 / k * 2 ^ 24 := by
  have hq : 260000 / k ≤ 260000 := Nat.div_le_self ..
  have hf : fld x 16 8 = x / 2 ^ 16 % 256 := rfl
  rw [hf, BitVec.toNat_ofNat, Nat.mod_eq_of_lt]
  omega

/-- The limit goes down above the cap. -/
theorem nextLimit_over {l p cap : Nat} (h : cap < p) : nextLimit l p cap false = max 1 (l - 1) := by
  simp [nextLimit, h]

theorem nextLimit_under {l p cap : Nat} (h : 16 * p < 15 * cap) (hl : l < 255) : nextLimit l p cap false = l + 1 := by
  have h1 : ¬cap < p := by omega
  have h2 : min 255 (l + 1) = l + 1 := by omega
  simp [nextLimit, h1, h, h2]

theorem nextLimit_stays {l p cap : Nat} (h : 15 * cap ≤ 16 * p) (hp : p ≤ cap) : nextLimit l p cap false = l := by
  simp [nextLimit, Nat.not_lt.mpr hp, Nat.not_lt.mpr h]

/-- Every tile of a module changed. -/
def State.mapTilesOf (s : State) (m : Nat) (f : Tile → Tile) : State :=
  { s with tiles := s.tiles.map fun q => if modOfTile q.1 = m then (q.1, f q.2) else q }

theorem State.mapTilesOf_tile (s : State) (m : Nat) {f : Tile → Tile} (hf : f Tile.reset = Tile.reset) (w : Nat) :
    (s.mapTilesOf m f).tile w = if modOfTile w = m then f (s.tile w) else s.tile w :=
  kvGet_mapWhere (c := fun w => modOfTile w = m) hf s.tiles w

theorem State.mapTilesOf_module (s : State) (m : Nat) (f : Tile → Tile) (n : Nat) : (s.mapTilesOf m f).module n = s.module n := rfl

/-- An interval that ends with no region's share, no die hot and no new temperature. -/
theorem exec_powerCapInterval {s : State} {m : Nat} (hhot : ∀ i : Fin 16, (s.die (16 * m + i.val)).hot = false) (hs : s.shares m = [])
    (p : BitVec 16) (scale : Nat × Nat × Nat) :
    exec (.powerCapInterval m p scale []) s = .next ((s.mapTilesOf m fun x => { x with activity := (0, 0, 0) }).modModule m fun x => { x with
      pwr := p, caplim := BitVec.ofNat 8 (nextLimit x.caplim.toNat p.toNat x.pcap.toNat false)
      powerOver := decide (x.caplim = 1) && decide (x.pcap.toNat < p.toNat)
      regLim := x.regLim.filter fun q => s.regions.any fun r => decide (r.serial = q.1) }) := by
  have hcold : ((diesOfModule m).any fun d => (s.die d).hot) = false := by
    refine List.any_eq_false.mpr fun d hd => ?_
    obtain ⟨i, rfl⟩ := mem_diesOfModule_iff.mp hd
    simp [hhot i]
  show execPowerCapInterval m p scale [] s = _
  simp only [execPowerCapInterval, List.foldl_nil, hcold, hs]
  rfl

/-! ## The thermal trip (R425) -/

/-- An agent as a trip leaves it. -/
def Agent.tripped (g : Agent) : Agent := if g.st = .free then g else { g with st := .halt }

theorem Agent.tripped_st (g : Agent) : g.tripped.st = if g.st = .free then .free else .halt := by
  unfold Agent.tripped
  split <;> simp_all

/-- A tile as a trip leaves it. -/
def Tile.tripped (tl : Tile) : Tile :=
  { tl with node := NodeState.stop, launching := false, cur := { tl.cur with agents := tl.cur.agents.map Agent.tripped } }

theorem Tile.reset_tripped : Tile.reset.tripped = Tile.reset := by
  have h : TileVer.reset.agents.map Agent.tripped = TileVer.reset.agents := by
    ext i hi
    simp [TileVer.reset, Agent.tripped, Agent.reset]
  have e : Tile.reset.tripped = { Tile.reset with cur := { TileVer.reset with agents := TileVer.reset.agents.map Agent.tripped } } := rfl
  rw [e, h]
  rfl

theorem State.tripHot_iff {s : State} {m : Nat} : s.tripHot m = true ↔
    ∃ i : Fin 16, 105 ≤ (s.die (16 * m + i.val)).ctl.tempDie.toNat ∨ 100 ≤ (s.die (16 * m + i.val)).ctl.tempHbm.toNat := by
  simp [State.tripHot, diesOfModule, Fin.exists_iff]

theorem exec_thermalTrip_idle {s : State} {m : Nat} (h : s.tripHot m = false ∨ (s.module m).tripped = true) :
    exec (.thermalTrip m) s = .next s := by
  refine if_pos ?_
  rcases h with h | h <;> simp [h]

theorem thermalTrip_trips {s : State} {m : Nat} (h : s.tripHot m = true) (ht : (s.module m).tripped = false) :
    ∃ t, exec (.thermalTrip m) s = .next t ∧ (t.module m).tripped = true ∧
      ∀ w, t.tile w = if modOfTile w = m then (s.tile w).tripped else s.tile w := by
  have e : exec (.thermalTrip m) s = .next (({ s.mapTilesOf m Tile.tripped with
      dies := s.dies.map fun (q : Nat × Die) => if modOfDie q.1 = m then (q.1, { q.2 with
        svc := q.2.svc.map fun (c : SvcCore) => { c with agent := c.agent.tripped } }) else q } : State).modModule m
          fun x => { x with tripped := true }) := if_neg (by simp [h, ht])
  refine ⟨_, e, ?_, fun w => ?_⟩
  · rw [State.modModule_module_self]
  · exact s.mapTilesOf_tile m Tile.reset_tripped w

/-! ## Resets (R30, R384) -/

theorem State.cutMoves_of_none {s : State} {m : Nat} (h : ∀ i : Fin 16, (s.die (16 * m + i.val)).mc.migTable = []) :
    (s.cutMoves m).1 = (s.module m).hbm := by
  have hnone : ((diesOfModule m).flatMap fun d => (s.die d).mc.migTable.map fun e => (d, e)) = [] := by
    refine List.flatMap_eq_nil_iff.mpr fun d hd => ?_
    obtain ⟨i, rfl⟩ := mem_diesOfModule_iff.mp hd
    simp [h i]
  simp only [State.cutMoves, hnone, List.foldl_nil]

theorem State.resetModule_module (s : State) (m : Nat) : ((s.resetModule m).module m).hbm = (s.cutMoves m).1 ∧
    ((s.resetModule m).module m).badHbm = (s.module m).badHbm ∧ ((s.resetModule m).module m).resetClk = s.clk ∧
    ((s.resetModule m).module m).tripped = false := by
  unfold State.resetModule
  extract_lets mine x _ fresh s1
  rw [State.module_setModule_self]
  exact ⟨rfl, rfl, rfl, rfl⟩

theorem State.resetModule_die (s : State) (m e : Nat) :
    (s.resetModule m).die e = if modOfDie e ≠ m then s.die e else Die.reset :=
  kvGet_filterWhere (c := fun d => modOfDie d ≠ m) s.dies e

theorem State.resetModule_tile (s : State) (m w : Nat) :
    (modOfTile w = m → ((s.resetModule m).tile w).inReg = false ∧ ((s.resetModule m).tile w).cur = TileVer.reset ∧
      ((s.resetModule m).tile w).node = .stop) ∧ (modOfTile w ≠ m → (s.resetModule m).tile w = s.tile w) := by
  have h := kvGet_zipIdx_mapWhere (c := fun t => decide (modOfTile t = m) = true) (d := Tile.reset)
    (P := fun x => x.inReg = false ∧ x.cur = TileVer.reset ∧ x.node = .stop) ⟨rfl, rfl, rfl⟩
    (f := fun x k => { (x.cleared (s.free + 4 * k)) with retired := Tile.reset.retired, l1 := [] }) (fun _ _ => ⟨rfl, rfl, rfl⟩) s.tiles 0 w
  exact ⟨fun hw => h.1 (decide_eq_true hw), fun hw => h.2 (by simpa using hw)⟩

theorem exec_powerOn (s : State) (m : Nat) : ∃ t, exec (.powerOn m) s = .next t ∧ (t.module m).hbm = Memory.empty ∧ (t.module m).badHbm = [] := by
  refine ⟨_, rfl, ?_, ?_⟩
  · rw [(State.resetModule_module ..).1, State.cutMoves_of_none, State.modDies_module, State.modModule_module_self]
    intro i
    rw [State.modDies_die (diesOfModule_nodup m), if_pos (dieOf_mem m i)]
  · rw [(State.resetModule_module ..).2.1, State.modDies_module, State.modModule_module_self]

end Sys2Proof.Machine
end

/-! The firmware's and the physical part's steps: boot (R17, R426), spares (R418, R430), attestation (R427), pod time (R424). -/
section
namespace Sys2Proof.Machine

/-! ## Boot (R17, R426) -/

theorem Module.accepts_iff {y : Module} {img : List Byte} : y.accepts img = true ↔
    256 + leNat ((img.drop 8).take 8) ≤ img.length ∧ shake256 ((img.drop 130).take 57) 32 = y.keyHash ∧
      ed448Verify ((img.drop 130).take 57) ((img.drop 0).take 16 ++ (img.drop 256).take (leNat ((img.drop 8).take 8)))
        ((img.drop 16).take 114) = true ∧ y.fuses.toNat ≤ leNat ((img.drop 0).take 8) := by
  simp only [Module.accepts, Bool.and_eq_true, decide_eq_true_eq, and_assoc]

theorem State.bootFrom_module (s : State) (m : Nat) (img : List Byte) (b : Bool) :
    ((s.bootFrom m img b).module m).bootOk = true ∧ ((s.bootFrom m img b).module m).bootB = b := by
  simp only [State.bootFrom]
  rw [State.modModule_module_self]
  exact ⟨rfl, rfl⟩

theorem State.bootFrom_agentOf (s : State) (m : Nat) (img : List Byte) (b : Bool) (i : Fin 16) (c : Fin 2) :
    (s.bootFrom m img b).agentOf (.svc (16 * m + i.val) c) = { Agent.reset with st := .run, heldFrom := s.clk } := by
  simp only [State.bootFrom]
  rw [State.modModule_agentOf]
  dsimp only [State.agentOf]
  rw [State.modDies_die (diesOfModule_nodup m), if_pos (dieOf_mem m i)]
  simp [bootCore]

theorem exec_secureBoot {s : State} {m : Nat} (ho : (s.module m).bootOk = false) (hf : (s.module m).bootFail = false)
    (ht : (s.module m).tripped = false) : exec (.secureBoot m) s =
      if (s.module m).accepts (s.module m).flashA = true then .next (s.bootFrom m (s.module m).flashA false)
      else if (s.module m).accepts (s.module m).flashB = true then .next (s.bootFrom m (s.module m).flashB true)
      else .next (s.modModule m fun x => { x with bootFail := true }) := if_neg (by simp [ho, hf, ht])

/-! ## Spares (R418, R430) -/

theorem State.noteReplace_ctl (s : State) (m e : Nat) : ((s.noteReplace m).die e).ctl = (s.die e).ctl := by
  rw [State.noteReplace_die]

theorem State.fence_ctl (s : State) (t : Nat) (q : Nat × Nat × Nat) (e : Nat) : ((s.fence t q).die e).ctl = (s.die e).ctl := by
  unfold State.fence
  split
  · rw [State.noteReplace_die, State.die_modDie]
    split
    · next h => rw [h]; rfl
    · rfl
  · rw [State.fenceTile, State.noteReplace_die]
    rfl

theorem State.fenceLeft_ctl (s : State) (d e : Nat) : ((s.fenceLeft d).die e).ctl = (s.die e).ctl := by
  refine List.foldlRecOn (motive := fun t : State => (t.die e).ctl = (s.die e).ctl) _ _ rfl fun t ht u _ => ?_
  refine List.foldlRecOn (motive := fun t : State => (t.die e).ctl = (s.die e).ctl) _ _ ht fun r hr q _ => ?_
  split
  · rw [State.fence_ctl]
    exact hr
  · exact hr

theorem State.rsprowWrite_rsprow (s : State) (d : Nat) (v : W) :
    ((s.rsprowWrite d v).die d).ctl.rsprow = kvSet (s.die d).ctl.rsprow (s.die d).ctl.rspsel.toNat (v &&& 0x8000000000000FFF#64) := by
  have h : ((s.modDie d fun x => { x with ctl := { x.ctl with
      rsprow := kvSet x.ctl.rsprow (s.die d).ctl.rspsel.toNat (v &&& 0x8000000000000FFF#64) } }).die d).ctl.rsprow =
      kvSet (s.die d).ctl.rsprow (s.die d).ctl.rspsel.toNat (v &&& 0x8000000000000FFF#64) := by
    rw [State.modDie_die_self]
  unfold State.rsprowWrite
  extract_lets sel s1 t bank row
  split
  · exact h
  · exact h

/-- The fields of `RSPROW`, its `EN` set. -/
theorem rsprow_fields {v : W} (h : v.toNat < 2 ^ 12) :
    (v ||| 0x8000000000000000#64) &&& 0x8000000000000FFF#64 = v ||| 0x8000000000000000#64 := by
  have hmask : ∀ i : Fin 64, (0x8000000000000FFF#64).getLsbD i.val = (decide (i.val < 12) || decide (i.val = 63)) := by decide
  have hen : ∀ i : Fin 64, (0x8000000000000000#64).getLsbD i.val = decide (i.val = 63) := by decide
  refine BitVec.eq_of_getLsbD_eq fun i hi => ?_
  have hv : 12 ≤ i → v.getLsbD i = false := fun h12 =>
    Nat.testBit_lt_two_pow (Nat.lt_of_lt_of_le h (Nat.pow_le_pow_right (by decide) h12))
  rw [BitVec.getLsbD_and, BitVec.getLsbD_or, hmask ⟨i, hi⟩, hen ⟨i, hi⟩]
  by_cases h12 : i < 12
  · simp [h12]
  · simp [hv (by omega), h12]

theorem spareWrite_row (s : State) (d : Nat) (v : W) : exec (.spareControlWrite d 0x37A v) s =
    if s.dieQuiet d = true then .next (((s.rsprowWrite d v).fenceLeft d).noteReplace (modOfDie d))
    else .next { s with outs := s.outs ++ [.refused 0x37A] } := by
  show execSpareControlWrite d 0x37A v s = _
  have e : s.spareWrite d (0x37A : BitVec 12).toNat v =
      if s.dieQuiet d = true then some (((s.rsprowWrite d v).fenceLeft d).noteReplace (modOfDie d)) else none := rfl
  rw [execSpareControlWrite, e]
  by_cases h : s.dieQuiet d = true
  · rw [if_pos h, if_pos h]
  · rw [if_neg h, if_neg h]
    rfl

/-! ## Attestation (R427) -/

@[simp] theorem ed448Public_length (k : List Byte) : (ed448Public k).length = 57 := leBytes_length ..

@[simp] theorem ed448Sign_length (k msg : List Byte) : (ed448Sign k msg).length = 114 := by
  show (leBytes 57 _ ++ leBytes 57 _).length = 114
  rw [List.length_append, leBytes_length, leBytes_length]

theorem State.logBad_units (s : State) (d m pa n : Nat) :
    (∀ u, (s.logBad d m pa n).tile u = s.tile u) ∧ ∀ k, (s.logBad d m pa n).module k = s.module k :=
  List.foldlRecOn (motive := fun t : State => (∀ u, t.tile u = s.tile u) ∧ ∀ k, t.module k = s.module k) _ _ ⟨fun _ => rfl, fun _ => rfl⟩
    fun _ ht _ _ => ht

theorem State.noteRead_units (s : State) (d m pa n : Nat) :
    (∀ u, (s.noteRead d m pa n).tile u = s.tile u) ∧ ∀ k, (s.noteRead d m pa n).module k = s.module k := by
  unfold State.noteRead
  split
  · exact ⟨fun _ => rfl, fun _ => rfl⟩
  · exact State.logBad_units ..

/-- The bytes of a part of what was written. -/
theorem Memory.bytes_write_mid (h : Memory) (a : Nat) (l mid r : List Byte) :
    (h.write a (l ++ mid ++ r)).bytes (a + l.length) mid.length = mid := by
  refine List.ext_getElem (by simp) fun i hi _ => ?_
  rw [Memory.bytes_length] at hi
  simp only [Memory.bytes_eq, List.getElem_map, List.getElem_range, Nat.add_assoc]
  rw [Memory.get_write_in _ _ _ _ (by simp; omega)]
  simp [hi]

end Sys2Proof.Machine
end

/-! The firmware's and the physical part's steps: the report of an attestation (R427), pod time (R424), the obligation. -/
section
namespace Sys2Proof.Machine

/-! ## The report (R427) -/

/-- The signature of a report whose nonce is given. -/
def State.reportSign (s : State) (m : Nat) (nonce : List Byte) : List Byte :=
  ed448Sign (identitySecret m) (nonce ++ (((s.module m).measurement ++ List.replicate 64 0).take 64 ++ leBytes 8 (Config.serial m).toNat ++
    leBytes 8 (s.mstat m).toNat ++ leBytes 8 (s.podTime m s.clk).toNat ++ identityKey m ++ List.replicate 7 0))

/-- The parts of a report behind its nonce. -/
def State.reportParts (s : State) (m : Nat) (nonce : List Byte) : List (List Byte) :=
  [((s.module m).measurement ++ List.replicate 64 0).take 64, leBytes 8 (Config.serial m).toNat, leBytes 8 (s.mstat m).toNat,
    leBytes 8 (s.podTime m s.clk).toNat, identityKey m, List.replicate 7 0, s.reportSign m nonce, List.replicate 38 0]

section report
variable (s : State) (m : Nat) (nonce : List Byte)

theorem State.attestation_eq : s.attestation m nonce = (s.reportParts m nonce).flatten := by
  simp [State.attestation, State.reportParts, State.reportSign]

theorem State.reportSign_eq : s.reportSign m nonce = ed448Sign (identitySecret m) (nonce ++ ((s.reportParts m nonce).take 6).flatten) := by
  simp [State.reportSign, State.reportParts]

theorem State.reportParts_length : (s.reportParts m nonce).map List.length = [64, 8, 8, 8, 57, 7, 114, 38] := by
  simp [State.reportParts, State.reportSign, identityKey]

theorem State.attestation_length : (s.attestation m nonce).length = 304 := by
  rw [State.attestation_eq, List.length_flatten, State.reportParts_length]
  rfl

variable (h : Memory) (a : Nat)

/-- Some parts of a report in memory, behind the bytes of those before them. -/
theorem attestation_bytes (i k : Nat) {n c : Nat} (hn : (((s.reportParts m nonce).map List.length).take i).sum = n)
    (hc : ((((s.reportParts m nonce).map List.length).drop i).take k).sum = c) :
    (h.write a (s.attestation m nonce)).bytes (a + n) c = (((s.reportParts m nonce).drop i).take k).flatten := by
  have e : s.attestation m nonce = ((s.reportParts m nonce).take i).flatten ++ (((s.reportParts m nonce).drop i).take k).flatten ++
      (((s.reportParts m nonce).drop i).drop k).flatten := by
    rw [State.attestation_eq, List.append_assoc, ← List.flatten_append, List.take_append_drop, ← List.flatten_append, List.take_append_drop]
  have hl : (((s.reportParts m nonce).take i).flatten).length = n := by rw [List.length_flatten, List.map_take, hn]
  have hm : ((((s.reportParts m nonce).drop i).take k).flatten).length = c := by rw [List.length_flatten, List.map_take, List.map_drop, hc]
  rw [e, ← hl, ← hm]
  exact h.bytes_write_mid ..

theorem attestation_fields :
    (h.write a (s.attestation m nonce)).nat (a + 64) 8 = (Config.serial m).toNat ∧
    (h.write a (s.attestation m nonce)).nat (a + 72) 8 = (s.mstat m).toNat ∧
    (h.write a (s.attestation m nonce)).nat (a + 80) 8 = (s.podTime m s.clk).toNat ∧
    (h.write a (s.attestation m nonce)).nat (a + 88) 57 = leNat (identityKey m) := by
  have hlen := s.reportParts_length m nonce
  refine ⟨?_, ?_, ?_, ?_⟩
  · rw [Memory.nat, attestation_bytes s m nonce h a 1 1 (by rw [hlen]; rfl) (by rw [hlen]; rfl)]
    exact (congrArg leNat (List.append_nil _)).trans (leNat_leBytes (Config.serial m).isLt)
  · rw [Memory.nat, attestation_bytes s m nonce h a 2 1 (by rw [hlen]; rfl) (by rw [hlen]; rfl)]
    exact (congrArg leNat (List.append_nil _)).trans (leNat_leBytes (s.mstat m).isLt)
  · rw [Memory.nat, attestation_bytes s m nonce h a 3 1 (by rw [hlen]; rfl) (by rw [hlen]; rfl)]
    exact (congrArg leNat (List.append_nil _)).trans (leNat_leBytes (s.podTime m s.clk).isLt)
  · rw [Memory.nat, attestation_bytes s m nonce h a 4 1 (by rw [hlen]; rfl) (by rw [hlen]; rfl)]
    exact congrArg leNat (List.append_nil _)

theorem Memory.get_eq_of_bytes {h : Memory} {a n : Nat} {l : List Byte} (e : h.bytes a n = l) {j : Nat} (hj : j < n) : h.get (a + j) = l.getD j 0 := by
  subst e
  simp [Memory.bytes_eq, hj]

theorem attestation_measurement {j : Nat} (hj : j < 64) :
    (h.write a (s.attestation m nonce)).get (a + j) = (s.module m).measurement.getD j 0 := by
  have hlen := s.reportParts_length m nonce
  have e := attestation_bytes s m nonce h a 0 1 (n := 0) (by rw [hlen]; rfl) (c := 64) (by rw [hlen]; rfl)
  rw [Nat.add_zero] at e
  rw [Memory.get_eq_of_bytes e hj]
  show (((s.module m).measurement ++ List.replicate 64 (0 : Byte)).take 64 ++ []).getD j 0 = _
  rw [List.append_nil, List.getD_eq_getElem?_getD, List.getElem?_take_of_lt hj, List.getD_eq_getElem?_getD, List.getElem?_append]
  split
  · rfl
  · next hs =>
    have hz : (s.module m).measurement[j]? = none := List.getElem?_eq_none (Nat.not_lt.mp hs)
    have hr : j - (s.module m).measurement.length < 64 := by omega
    rw [hz, List.getElem?_replicate, if_pos hr]
    rfl

theorem attestation_signature {j : Nat} (hj : j < 114) :
    (h.write a (s.attestation m nonce)).get (a + 152 + j) = (s.reportSign m nonce).getD j 0 := by
  have hlen := s.reportParts_length m nonce
  have e := attestation_bytes s m nonce h a 6 1 (n := 152) (by rw [hlen]; rfl) (c := 114) (by rw [hlen]; rfl)
  rw [Memory.get_eq_of_bytes e hj]
  exact congrArg (fun l => List.getD l j 0) (List.append_nil (s.reportSign m nonce))

theorem attestation_head : (h.write a (s.attestation m nonce)).bytes a 152 = ((s.reportParts m nonce).take 6).flatten := by
  have hlen := s.reportParts_length m nonce
  exact attestation_bytes s m nonce h a 0 6 (n := 0) (by rw [hlen]; rfl) (by rw [hlen]; rfl)

end report

theorem Memory.bytes_add (h : Memory) (a n k : Nat) : h.bytes a (n + k) = h.bytes a n ++ h.bytes (a + n) k := by
  simp only [Memory.bytes_eq, List.range_add, List.map_append, List.map_map]
  congr 1
  exact List.map_congr_left fun i _ => by simp [Nat.add_assoc]

theorem exec_attestationDone {s : State} {m : Nat} (hb : (s.module m).attBusy = true) (ht : (s.module m).attPa.toNat + 320 ≤ hbmTop) :
    exec (.attestationDone m) s = .next (((s.noteRead (16 * m) m (s.module m).attPa.toNat 16).setHbm m ((s.module m).attPa.toNat + 16)
      (s.attestation m (s.hbmSeen m (s.module m).attPa.toNat 16))).modModule m fun x => { x with attBusy := false }) := by
  show execAttestationDone m s = _
  have hgo : ¬(!(s.module m).attBusy) = true := by simp [hb]
  simp only [execAttestationDone]
  rw [if_neg hgo, if_neg (Nat.not_lt.mpr ht)]

/-- The HBM after the report. -/
theorem attestationDone_units {s : State} {m : Nat} (pa : Nat) (bs : List Byte) :
    let t := ((s.noteRead (16 * m) m pa 16).setHbm m (pa + 16) bs).modModule m fun x => { x with attBusy := false }
    (t.module m).attBusy = false ∧ (t.module m).hbm = (s.module m).hbm.write (pa + 16) bs ∧ (∀ w, t.tile w = s.tile w) ∧
      ∀ k, k ≠ m → t.module k = s.module k := by
  obtain ⟨htile, hmodule⟩ := s.noteRead_units (16 * m) m pa 16
  refine ⟨?_, ?_, htile, fun k hk => ?_⟩
  · rw [State.modModule_module_self]
  · rw [State.modModule_module_self, State.setHbm, State.modModule_module_self, hmodule]
  · rw [State.modModule_module_ne _ _ hk, State.setHbm, State.modModule_module_ne _ _ hk, hmodule]

/-! ## Pod time (R424) -/

theorem Tile.reset_retime (j : Int) : Tile.reset.retime j = Tile.reset := rfl

theorem exec_ieee1588Sync (s : State) (m : Nat) (o : BitVec 16) (j : Int) : exec (.ieee1588Sync m o (some j)) s =
    .next ((s.modModule m fun x => { x with
      podAdj := x.podAdj + j, ptpOfs := o, ptpLock := decide (-4 ≤ o.toInt) && decide (o.toInt ≤ 4) }).mapTilesOf m fun x => x.retime j) := rfl

theorem Tile.retime_waits (tl : Tile) (j : Int) :
    (tl.node = .relwait → (tl.retime j).startAt = tl.startAt.map fun k => earlier k j) ∧
      (tl.node = .arrived → (tl.retime j).xStart = tl.xStart.map fun k => earlier k j) :=
  ⟨fun h => if_pos h, fun h => if_pos h⟩

end Sys2Proof.Machine
end

/-! The steps of health and power, one by one, and their obligation (R17, R30, R384, R418, R420-R427, R430). -/
section
namespace Sys2Proof.Machine

/-- Between two states no tile differs, and of the modules only one. -/
def OneModule (m : Nat) (s t : State) : Prop := (∀ w, t.tile w = s.tile w) ∧ ∀ k, k ≠ m → t.module k = s.module k

theorem State.modModule_oneModule (s : State) (m : Nat) (f : Module → Module) : OneModule m s (s.modModule m f) :=
  ⟨fun _ => rfl, fun _ hk => s.modModule_module_ne f hk⟩

section steps
variable (s : State) (d : Nat) (v : W)

theorem pcapWrite_steps : ∃ t, exec (.pcapWrite d v) s = .next t ∧
    (t.module (modOfDie d)).pcap.toNat = min 7500 (max 4000 (v.toNat % 8192)) ∧ OneModule (modOfDie d) s t := by
  refine ⟨_, rfl, ?_, s.modModule_oneModule ..⟩
  have hv : v.fld 0 13 = v.toNat % 8192 := W.fld_zero v 13
  rw [State.pcapWrite, State.modModule_module_self, clampTo_eq, hv, BitVec.toNat_ofNat, Nat.mod_eq_of_lt]
  omega

theorem pslewWrite_steps : ∃ t, exec (.pslewWrite d v) s = .next t ∧
    (t.module (modOfDie d)).pslew.toNat = min 100 (max 1 (v.toNat % 128)) ∧ OneModule (modOfDie d) s t ∧
    ∀ i : Fin 16, (t.die (16 * modOfDie d + i.val)).qd.shape.toNat = 1 + min 100 (max 1 (v.toNat % 128)) * 2 ^ 8 +
      (s.die (16 * modOfDie d + i.val)).qd.shape.toNat / 2 ^ 16 % 256 * 2 ^ 16 + 260000 / min 100 (max 1 (v.toNat % 128)) * 2 ^ 24 := by
  have hv : v.fld 0 7 = v.toNat % 128 := W.fld_zero v 7
  refine ⟨_, rfl, ?_, ⟨fun w => ?_, fun k hk => ?_⟩, fun i => ?_⟩ <;> rw [State.pslewWrite, clampTo_eq, hv]
  · rw [State.modDies_module, State.modModule_module_self, BitVec.toNat_ofNat, Nat.mod_eq_of_lt]
    omega
  · rw [State.modDies_tile, State.modModule_tile]
  · rw [State.modDies_module, State.modModule_module_ne _ _ hk]
  · rw [State.modDies_die (diesOfModule_nodup _), if_pos (dieOf_mem _ i)]
    exact pslewWrite_shape (by omega) (by omega)

theorem throtWrite_steps : ∃ t, exec (.throtWrite d v) s = .next t ∧
    (t.die d).ctl.throt.toNat = min 100 (max 70 (v.toNat / 2 ^ 16 % 256)) ∧ OneModule (modOfDie d) s t := by
  refine ⟨_, rfl, ?_, fun _ => rfl, fun _ _ => rfl⟩
  have hv : v.fld 16 8 = v.toNat / 2 ^ 16 % 256 := rfl
  rw [State.throtWrite, State.modDie_die_self, clampTo_eq, hv, BitVec.toNat_ofNat, Nat.mod_eq_of_lt]
  omega

theorem attestationStart_steps (h : (s.module (modOfDie d)).attBusy = false) : ∃ t, exec (.attestationStart d v) s = .next t ∧
    (t.module (modOfDie d)).attBusy = true ∧ (t.module (modOfDie d)).attPa.toNat = v.toNat % 2 ^ 40 ∧ OneModule (modOfDie d) s t := by
  refine ⟨_, rfl, ?_, ?_, s.modModule_oneModule ..⟩ <;>
    rw [State.attctlWrite, State.modModule_module_self, if_neg (by simp [h])]
  · exact decide_eq_true (W.fld_go_set v)
  · rw [W.fld_go (by decide), W.fld_zero]
    simp

variable {m : Nat}

/-- What an interval measures and sets: the limit by the rule, `OVER` by the limit it began with. -/
theorem powerCapInterval_runs (p : BitVec 16) (scale : Nat × Nat × Nat) (hhot : ∀ i : Fin 16, (s.die (16 * m + i.val)).hot = false)
    (hs : s.shares m = []) : ∃ t, exec (.powerCapInterval m p scale []) s = .next t ∧ (t.module m).pwr = p ∧
      (t.module m).caplim = BitVec.ofNat 8 (nextLimit (s.module m).caplim.toNat p.toNat (s.module m).pcap.toNat false) ∧
      (t.module m).powerOver = (decide ((s.module m).caplim = 1) && decide ((s.module m).pcap.toNat < p.toNat)) ∧
      (∀ j, j ≠ m → t.module j = s.module j) ∧
      ∀ w, t.tile w = if modOfTile w = m then { s.tile w with activity := (0, 0, 0) } else s.tile w := by
  refine ⟨_, exec_powerCapInterval hhot hs p scale, ?_, ?_, ?_, fun j hj => ?_, fun w => ?_⟩
  · rw [State.modModule_module_self]
  · rw [State.modModule_module_self]
    rfl
  · rw [State.modModule_module_self]
    rfl
  · rw [State.modModule_module_ne _ _ hj]
    rfl
  · exact s.mapTilesOf_tile m (f := fun x => { x with activity := (0, 0, 0) }) rfl w

/-- The rule of R420 on the 8 bits of `CAPLIM`. -/
theorem nextLimit_caplim (l : BitVec 8) (p cap : Nat) :
    (cap < p → 1 < l.toNat → BitVec.ofNat 8 (nextLimit l.toNat p cap false) = l - 1) ∧
    (cap < p → l = 1 → BitVec.ofNat 8 (nextLimit l.toNat p cap false) = 1) ∧
    (16 * p < 15 * cap → l.toNat < 255 → BitVec.ofNat 8 (nextLimit l.toNat p cap false) = l + 1) ∧
    (15 * cap ≤ 16 * p → p ≤ cap → 1 ≤ l.toNat → BitVec.ofNat 8 (nextLimit l.toNat p cap false) = l) := by
  refine ⟨fun hp hl => ?_, fun hp hl => ?_, fun hp hl => ?_, fun h1 h2 _ => ?_⟩
  · rw [nextLimit_over hp]
    refine BitVec.eq_of_toNat_eq ?_
    rw [BitVec.toNat_ofNat, BitVec.toNat_sub_of_le (by bv_omega)]
    show max 1 (l.toNat - 1) % 256 = l.toNat - 1
    have := l.isLt
    omega
  · rw [nextLimit_over hp, hl]
    rfl
  · rw [nextLimit_under hp hl]
    refine BitVec.eq_of_toNat_eq ?_
    rw [BitVec.toNat_ofNat, BitVec.toNat_add]
    rfl
  · rw [nextLimit_stays h1 h2]
    simp

end steps

/-! ## The trip, resets, boot, spares -/

section events
variable {s : State} {m : Nat}

theorem thermalTrip_steps (h : ∃ i : Fin 16, 105 ≤ (s.die (16 * m + i.val)).ctl.tempDie.toNat ∨ 100 ≤ (s.die (16 * m + i.val)).ctl.tempHbm.toNat)
    (ht : (s.module m).tripped = false) : ∃ t, exec (.thermalTrip m) s = .next t ∧ (t.module m).tripped = true ∧ (t.module m).alive = false ∧
      ∀ w, (modOfTile w ≠ m → t.tile w = s.tile w) ∧ (modOfTile w = m → (t.tile w).launching = false ∧ ∀ a : Fin 10,
        (t.tile w).cur.agents[a].st = if (s.tile w).cur.agents[a].st = .free then .free else .halt) := by
  obtain ⟨t, he, htrip, htile⟩ := thermalTrip_trips (State.tripHot_iff.mpr h) ht
  refine ⟨t, he, htrip, by simp [Module.alive, htrip], fun w => ⟨fun hw => ?_, fun hw => ?_⟩⟩
  · rw [htile, if_neg hw]
  · rw [htile, if_pos hw]
    refine ⟨rfl, fun a => ?_⟩
    simp [Tile.tripped, Agent.tripped_st]

theorem moduleReset_steps (s : State) (m : Nat) : ∃ t, exec (.moduleReset m) s = .next t ∧
    ((∀ i : Fin 16, (s.die (16 * m + i.val)).mc.migTable = []) → (t.module m).hbm = (s.module m).hbm) ∧ (t.module m).resetClk = s.clk ∧
    (t.module m).tripped = false ∧ (∀ e, modOfDie e = m → t.die e = Die.reset) ∧ (∀ e, modOfDie e ≠ m → t.die e = s.die e) ∧
    ∀ w, (modOfTile w = m → (t.tile w).inReg = false ∧ (t.tile w).cur = TileVer.reset ∧ (t.tile w).node = .stop) ∧
      (modOfTile w ≠ m → t.tile w = s.tile w) := by
  obtain ⟨hhbm, -, hclk, htrip⟩ := s.resetModule_module m
  refine ⟨_, rfl, fun hm => hhbm.trans (State.cutMoves_of_none hm), hclk, htrip, fun e he => ?_, fun e he => ?_, s.resetModule_tile m⟩
  · rw [State.resetModule_die, if_neg (not_not.mpr he)]
  · rw [State.resetModule_die, if_pos he]

theorem secureBoot_steps (ho : (s.module m).bootOk = false) (hf : (s.module m).bootFail = false) (ht : (s.module m).tripped = false) :
    ((s.module m).accepts (s.module m).flashA = true → ∃ t, exec (.secureBoot m) s = .next t ∧ (t.module m).bootOk = true ∧
      (t.module m).bootB = false ∧ ∀ (i : Fin 16) (c : Fin 2),
        (t.agentOf (.svc (16 * m + i.val) c)).st = .run ∧ (t.agentOf (.svc (16 * m + i.val) c)).pc = 0) ∧
    ((s.module m).accepts (s.module m).flashA = false → (s.module m).accepts (s.module m).flashB = true →
      ∃ t, exec (.secureBoot m) s = .next t ∧ (t.module m).bootOk = true ∧ (t.module m).bootB = true) ∧
    ((s.module m).accepts (s.module m).flashA = false → (s.module m).accepts (s.module m).flashB = false →
      ∃ t, exec (.secureBoot m) s = .next t ∧ (t.module m).bootFail = true ∧ (t.module m).alive = false) := by
  have e := exec_secureBoot ho hf ht
  refine ⟨fun ha => ?_, fun ha hb => ?_, fun ha hb => ?_⟩
  · rw [if_pos ha] at e
    obtain ⟨hok, hcopy⟩ := s.bootFrom_module m (s.module m).flashA false
    refine ⟨_, e, hok, hcopy, fun i c => ?_⟩
    rw [State.bootFrom_agentOf]
    exact ⟨rfl, rfl⟩
  · rw [if_neg (by simp [ha]), if_pos hb] at e
    exact ⟨_, e, s.bootFrom_module m (s.module m).flashB true⟩
  · rw [if_neg (by simp [ha]), if_neg (by simp [hb])] at e
    refine ⟨_, e, ?_, ?_⟩ <;> rw [State.modModule_module_self]
    simp [Module.alive]

theorem spareRow_steps {d : Nat} {v : W} (hq : s.dieQuiet d = true) (hv : v.toNat < 2 ^ 12) :
    ∃ t, exec (.spareControlWrite d 0x37A (v ||| 0x8000000000000000#64)) s = .next t ∧
      kvGet 0 (t.die d).ctl.rsprow (s.die d).ctl.rspsel.toNat = v ||| 0x8000000000000000#64 := by
  have e := spareWrite_row s d (v ||| 0x8000000000000000#64)
  rw [if_pos hq] at e
  refine ⟨_, e, ?_⟩
  rw [State.noteReplace_ctl, State.fenceLeft_ctl, State.rsprowWrite_rsprow, kvGet_kvSet_self, rsprow_fields hv]

theorem attestationDone_steps (hb : (s.module m).attBusy = true) (ht : (s.module m).attPa.toNat + 320 ≤ 0xC000000000) :
    ∃ t, exec (.attestationDone m) s = .next t ∧ (t.module m).attBusy = false ∧ OneModule m s t ∧
      (t.module m).hbm = (s.module m).hbm.write ((s.module m).attPa.toNat + 16)
        (s.attestation m (s.hbmSeen m (s.module m).attPa.toNat 16)) := by
  obtain ⟨hbusy, hhbm, htile, hother⟩ := attestationDone_units (s := s) (m := m) (s.module m).attPa.toNat
    (s.attestation m (s.hbmSeen m (s.module m).attPa.toNat 16))
  exact ⟨_, exec_attestationDone hb ht, hbusy, ⟨htile, hother⟩, hhbm⟩

/-- A report signs the nonce that it stands behind and what the module put there. -/
theorem report_signs {h : Memory} {pa : Nat} {nonce : List Byte} (hn : nonce = h.bytes pa 16) {j : Nat} (hj : j < 114) :
    (h.write (pa + 16) (s.attestation m nonce)).get (pa + 168 + j) = (ed448Sign (identitySecret m)
      ((List.range 168).map fun i => (h.write (pa + 16) (s.attestation m nonce)).get (pa + i))).getD j 0 := by
  have hsigned : ((List.range 168).map fun i => (h.write (pa + 16) (s.attestation m nonce)).get (pa + i)) =
      nonce ++ ((s.reportParts m nonce).take 6).flatten := by
    rw [← Memory.bytes_eq, Memory.bytes_add _ pa 16 152, attestation_head, Memory.bytes_write_out _ _ _ _ _ (.inl (Nat.le_refl _)), hn]
  rw [hsigned, ← State.reportSign_eq, ← attestation_signature s m nonce h (pa + 16) hj]

theorem ieee1588Sync_steps (s : State) (m : Nat) (o : BitVec 16) (j : Int) : ∃ t, exec (.ieee1588Sync m o (some j)) s = .next t ∧
    (t.module m).podAdj = (s.module m).podAdj + j ∧ (t.module m).ptpOfs = o ∧
    ((t.module m).ptpLock = true ↔ -4 ≤ o.toInt ∧ o.toInt ≤ 4) ∧ (∀ k, k ≠ m → t.module k = s.module k) ∧
    ∀ w, t.tile w = if modOfTile w = m then (s.tile w).retime j else s.tile w := by
  refine ⟨_, exec_ieee1588Sync s m o j, ?_, ?_, ?_, fun k hk => ?_, fun w => ?_⟩
  · rw [State.mapTilesOf_module, State.modModule_module_self]
  · rw [State.mapTilesOf_module, State.modModule_module_self]
  · rw [State.mapTilesOf_module, State.modModule_module_self]
    simp
  · rw [State.mapTilesOf_module, State.modModule_module_ne _ _ hk]
  · exact (s.modModule m _).mapTilesOf_tile m (Tile.reset_retime j) w

end events

/-- Settles O52: each step by its own lemma. -/
theorem healthAndPowerRun : Obligations.HealthAndPowerRun := by
  intro s d v
  extract_lets m y same k
  refine ⟨pcapWrite_steps s d v, pslewWrite_steps s d v, throtWrite_steps s d v, ?_, ⟨?_, ?_⟩, moduleReset_steps s m, exec_powerOn s m,
    fun img => Module.accepts_iff, secureBoot_steps, spareRow_steps, ?_, attestationStart_steps s d v, ?_, ?_, ?_⟩
  · intro p scale hhot hs
    obtain ⟨t, he, hpwr, hlim, hover, hother, htile⟩ := powerCapInterval_runs s p scale hhot hs
    obtain ⟨hdown, hone, hup, hstay⟩ := nextLimit_caplim y.caplim p.toNat y.pcap.toNat
    rw [← hlim] at hdown hone hup hstay
    exact ⟨t, he, hpwr, hother, htile, hdown, fun hp hl => ⟨hone hp hl, hover.trans (by simp [y, hp, hl])⟩, hup, hstay⟩
  · exact thermalTrip_steps
  · intro h
    refine exec_thermalTrip_idle (h.imp_left fun hn => ?_)
    exact Bool.eq_false_iff.mpr fun hh => hn (State.tripHot_iff.mp hh)
  · intro hq
    exact (spareWrite_row s d v).trans (if_neg (by simp [hq]))
  · intro hb ht
    obtain ⟨t, he, hbusy, hsame, hhbm⟩ := attestationDone_steps hb ht
    obtain ⟨hserial, hmstat, htime, hkey⟩ := attestation_fields s m (s.hbmSeen m y.attPa.toNat 16) y.hbm (y.attPa.toNat + 16)
    refine ⟨t, he, hbusy, hsame, ?_, ?_, ?_, ?_, fun j hj => ?_, fun hgood j hj => ?_, fun x hx => ?_⟩
    · rw [State.hbmNat, hhbm]; exact hserial
    · rw [State.hbmNat, hhbm]; exact hmstat
    · rw [State.hbmNat, hhbm]; exact htime
    · rw [State.hbmNat, hhbm]; exact hkey
    · rw [hhbm]; exact attestation_measurement s m _ _ _ hj
    · rw [hhbm]; exact report_signs (State.hbmSeen_good hgood) hj
    · rw [hhbm]
      refine Memory.get_write_out _ _ _ _ ?_
      rw [State.attestation_length]
      omega
  · intro o j
    obtain ⟨t, he, hadj, hofs, hlock, hother, htile⟩ := ieee1588Sync_steps s m o j
    refine ⟨t, he, hadj, hofs, hlock, hother, fun w => ⟨fun hw => ?_, fun hw => ?_⟩⟩
    · rw [htile, if_neg hw]
    · rw [htile, if_pos hw]
      obtain ⟨hstart, hx⟩ := (s.tile w).retime_waits j
      exact ⟨rfl, rfl, hstart, hx, rfl⟩
  · intro o
    refine ⟨_, rfl, ?_, s.modModule_oneModule ..⟩
    rw [State.modModule_module_self]

end Sys2Proof.Machine
end

/-! A window read of `PHYSA` (R27, R380). -/
section
namespace Sys2Proof.Machine

/-- The window of a die at `PHYSA` reads its `PA`, and its `UE` in bit 63 (R380). -/
theorem onchipRead_physa (s : State) (d : Nat) : s.onchipRead (modOfDie d) (0x400000000 + d % 16 * 2 ^ 24 + 8 * 0x353) 8 =
    some (leBytes 8 ((s.die d).mc.physa.toNat + (s.die d).mc.physUE.toNat * 2 ^ 63), s) := by
  have hoff : (0x400000000 + d % 16 * 2 ^ 24 + 8 * 0x353) % 2 ^ 24 = 8 * 0x353 := by omega
  have hok : accessOk (0x400000000 + d % 16 * 2 ^ 24 + 8 * 0x353) 8 = true := by
    simp only [accessOk, decide_true, Bool.true_or, Bool.true_and, decide_eq_true_eq]
    omega
  have htile : ¬0x400000000 + d % 16 * 2 ^ 24 + 8 * 0x353 < 0x400000000 := by omega
  have hdie : 0x400000000 + d % 16 * 2 ^ 24 + 8 * 0x353 < 0x410000000 := by omega
  have hd : 16 * modOfDie d + (0x400000000 + d % 16 * 2 ^ 24 + 8 * 0x353) / 2 ^ 24 % 16 = d := by
    simp only [modOfDie]
    omega
  have hvalue : (s.die d).mc.physa.toNat + (s.die d).mc.physUE.toNat * 2 ^ 63 < 2 ^ 64 := by
    have := (s.die d).mc.physa.isLt
    have := (s.die d).mc.physUE.toNat_lt
    omega
  have hword : s.dieWord d (8 * 0x353) = ((s.die d).mc.physa.toNat + (s.die d).mc.physUE.toNat * 2 ^ 63, s) := by
    have hcsr : s.dieWord d (8 * 0x353) =
        ((BitVec.ofNat 64 ((s.die d).mc.physa.toNat + (s.die d).mc.physUE.toNat * 2 ^ 63)).toNat, s) := rfl
    rw [hcsr, BitVec.toNat_ofNat, Nat.mod_eq_of_lt hvalue]
  have hwords : wordsOf (8 * 0x353) 8 = [8 * 0x353] := rfl
  have hphysd : s.physdOff d (8 * 0x353) 8 = false := rfl
  unfold State.onchipRead
  rw [hok, if_neg (by simp), if_neg htile, if_pos hdie]
  dsimp only
  rw [hd, hoff, hphysd, hwords]
  simp [hword]

theorem windowRead_physa {s : State} {d : Nat} (h : (s.module (modOfDie d)).alive = true) :
    exec (.windowRead (modOfDie d) (0x400000000 + d % 16 * 2 ^ 24 + 8 * 0x353) 8) s = .next { s with
      outs := s.outs ++ [.window (modOfDie d) (0x400000000 + d % 16 * 2 ^ 24 + 8 * 0x353)
        (leBytes 8 ((s.die d).mc.physa.toNat + (s.die d).mc.physUE.toNat * 2 ^ 63))] } := by
  show execWindowRead _ _ _ s = _
  rw [execWindowRead, if_neg (by simp [h]), onchipRead_physa]

/-- Module 0 after reset, but that the first word of its HBM is uncorrectable. -/
def badWordState : State := State.reset.modModule 0 fun x => { x with badHbm := [0] }

/-- The state that a read of `PHYSD` leaves there: it has met the word, and sets `UE` (R380). -/
def ueState : State := (badWordState.physdRead 0).2

theorem exec_physdRead_badWordState : exec (.physdRead 0) badWordState = .next ueState := rfl

theorem ueState_mc : (ueState.die 0).mc.physa = 8 ∧ (ueState.die 0).mc.physUE = true := ⟨rfl, rfl⟩

/-- A die CSR that the statement names reads its value through the window. -/
theorem windowRead_of_statement (h : Obligations.WindowAndHostRun) {s : State} (halive : (s.module 0).alive = true) :
    ∃ t, exec (.windowRead 0 (0x400000000 + 0 % 16 * 2 ^ 24 + 8 * 0x353) 8) s = .next t ∧ t.outs = s.outs ++
      [.window 0 (0x400000000 + 0 % 16 * 2 ^ 24 + 8 * 0x353) (leBytes 8 (s.die 0).mc.physa.toNat)] := by
  obtain ⟨-, -, -, -, -, -, -, -, hdie, -⟩ := h s 0 0 0 0 0 0 [] halive rfl rfl
  obtain ⟨t, he, houts, -⟩ := (hdie 0 0).1 0x353 (s.die 0).mc.physa.toNat (by simp)
  exact ⟨t, he, houts⟩

/-- Refutes O50: the statement has a window read of `PHYSA` answer with `PA` alone, but the register holds `UE` in bit 63 too (R380). In
`ueState`, which a `PHYSD` read of an uncorrectable word leaves, the model answers with 2^63 + 8, and the statement asks for 8. -/
theorem not_windowAndHostRun : ¬Obligations.WindowAndHostRun := by
  intro h
  obtain ⟨t, he, houts⟩ := windowRead_of_statement h (s := ueState) rfl
  obtain ⟨hpa, hue⟩ := ueState_mc
  have hread := windowRead_physa (s := ueState) (d := 0) rfl
  rw [hpa, hue] at hread
  rw [hpa] at houts
  obtain rfl := Host.Outcome.next.inj (hread.symm.trans he)
  have hbytes : leBytes 8 (8 + 2 ^ 63) = leBytes 8 8 := by
    injection List.append_cancel_left houts with hout
    injection hout
  exact absurd (congrArg leNat hbytes) (by rw [leNat_leBytes (by decide), leNat_leBytes (by decide)]; decide)

end Sys2Proof.Machine
end

/-! Lists in blocks of one length, and the bytes of numbers. -/
section
namespace Sys2Proof.Machine

/-! ## Blocks of a list -/

@[simp] theorem blocksOf_length {α : Type} (k : Nat) : ∀ (n : Nat) (l : List α), (blocksOf k n l).length = n
  | 0, _ => rfl
  | n + 1, l => by rw [blocksOf, List.length_cons, blocksOf_length k n]

/-- Block `i` holds the elements from `k * i` on. -/
theorem getElem?_blocksOf {α : Type} (k : Nat) : ∀ {n : Nat} (l : List α) {i : Nat}, i < n →
    (blocksOf k n l)[i]? = some ((l.drop (k * i)).take k)
  | _ + 1, _, 0, _ => rfl
  | n + 1, l, i + 1, h => by
    rw [blocksOf, List.getElem?_cons_succ, getElem?_blocksOf k _ (Nat.lt_of_succ_lt_succ h), List.drop_drop, Nat.mul_succ, Nat.add_comm]

/-- Where the list holds `n` blocks, each of them is whole. -/
theorem length_of_mem_blocksOf {α : Type} (k : Nat) : ∀ {n : Nat} {l b : List α}, k * n ≤ l.length → b ∈ blocksOf k n l → b.length = k
  | n + 1, l, b, hl, hb => by
    rw [Nat.mul_succ] at hl
    rcases List.mem_cons.mp hb with rfl | hb
    · rw [List.length_take]; omega
    · exact length_of_mem_blocksOf k (by rw [List.length_drop]; omega) hb

theorem flatten_blocksOf {α : Type} (k : Nat) : ∀ {n : Nat} {l : List α}, l.length = k * n → (blocksOf k n l).flatten = l
  | 0, l, h => by rw [List.length_eq_zero_iff.mp h]; rfl
  | n + 1, l, h => by
    rw [blocksOf, List.flatten_cons, flatten_blocksOf k (by rw [List.length_drop, h, Nat.mul_succ, Nat.add_sub_cancel]), List.take_append_drop]

/-- Element `k * i + j` of parts of `k` elements each is element `j` of part `i`. -/
theorem getElem?_flatMap_of_length {α β : Type} {f : α → List β} {k : Nat} : ∀ {l : List α} {x : α} {i j : Nat}, (∀ y ∈ l, (f y).length = k) →
    j < k → l[i]? = some x → (l.flatMap f)[k * i + j]? = (f x)[j]?
  | y :: l, x, 0, j, hk, hj, hx => by
    obtain rfl : y = x := by simpa using hx
    rw [List.flatMap_cons, Nat.mul_zero, Nat.zero_add, List.getElem?_append_left (by rw [hk _ (List.mem_cons_self ..)]; exact hj)]
  | y :: l, x, i + 1, j, hk, hj, hx => by
    have hy := hk y (List.mem_cons_self ..)
    rw [List.flatMap_cons, List.getElem?_append_right (by rw [hy, Nat.mul_succ]; omega), hy,
      (by rw [Nat.mul_succ]; omega : k * (i + 1) + j - k = k * i + j)]
    exact getElem?_flatMap_of_length (fun z hz => hk z (List.mem_cons_of_mem _ hz)) hj hx

/-! ## Bytes of numbers -/

theorem leBytes_leNat : ∀ bs : List Byte, leBytes bs.length (leNat bs) = bs
  | [] => rfl
  | b :: bs => by
    have hb := b.isLt
    have hlow : BitVec.ofNat 8 (b.toNat + 256 * leNat bs) = b := BitVec.eq_of_toNat_eq (by rw [BitVec.toNat_ofNat]; omega)
    have hhigh : (b.toNat + 256 * leNat bs) / 256 = leNat bs := by omega
    rw [List.length_cons, leBytes, leNat, hlow, hhigh, leBytes_leNat bs]

/-- Numbers taken from bytes give those bytes back. -/
theorem flatMap_leBytes_chunksNat (sz : Nat) : ∀ {n : Nat} {bs : List Byte}, bs.length = sz * n →
    (chunksNat sz n bs).flatMap (leBytes sz) = bs
  | 0, bs, h => by rw [List.length_eq_zero_iff.mp h]; rfl
  | n + 1, bs, h => by
    rw [Nat.mul_succ] at h
    have htake : (bs.take sz).length = sz := by rw [List.length_take]; omega
    have hfirst := leBytes_leNat (bs.take sz)
    rw [htake] at hfirst
    rw [chunksNat, List.flatMap_cons, hfirst, flatMap_leBytes_chunksNat sz (by rw [List.length_drop]; omega), List.take_append_drop]

theorem flatMap_leBytes_length (k : Nat) (l : List Nat) : (l.flatMap (leBytes k)).length = k * l.length := by
  simp [List.length_flatMap, Nat.mul_comm]

end Sys2Proof.Machine
end

/-! The shape operation `squant` where its elements are no whole number of blocks (R243, R248, R250). -/
section
namespace Sys2Proof.Machine

/-! ## The elements that `squant` gives -/

/-- With scales, `squant` gives the elements of whole blocks alone (R248, R250). -/
theorem squantOut_length {g : Fmt} {sr sat : Bool} {draw : Nat → Nat} {p : W} {scales : List Nat} {v : List FVal} (hp : scGeom p ≠ 0) :
    (squantOut g sr sat draw p scales v).1.length = v.length / geomSize (scGeom p) * geomSize (scGeom p) := by
  simp only [squantOut, if_neg hp, List.length_flatMap]
  rw [List.map_congr_left (g := fun _ => geomSize (scGeom p))]
  · simp
  · rintro ⟨⟨b, x⟩, i⟩ hq
    have hb := (List.of_mem_zip (List.fst_mem_of_mem_zipIdx hq)).1
    have hlen := length_of_mem_blocksOf _ (by rw [Nat.mul_comm]; exact Nat.div_mul_le_self ..) hb
    dsimp only
    split
    · simpa using hlen
    · simpa using hlen

theorem bytesOfElems_byte_length (l : List Nat) : (bytesOfElems 8 0 l).length = l.length := by
  simp [bytesOfElems]

/-- The bytes of a `squant` of a float format to one of 8 bits, with scales: those of whole blocks. -/
theorem ShapeOp.output_squant_length {o : ShapeOp} {sr sat : Bool} {fm : Fmt} (hk : o.kind = .squant sr sat)
    (hf : recFmt (recFormat o.src) = some fm) (hg : elBits (recFormat o.dst) = 8) (hp : scGeom o.param ≠ 0) (tl : Tile) (n u : Nat) :
    (o.output tl n u).bytes.length = (o.elems tl).length / geomSize (scGeom o.param) * geomSize (scGeom o.param) := by
  simp only [ShapeOp.output, hk, hf, hg]
  rw [bytesOfElems_byte_length, squantOut_length hp, List.length_map]

/-! ## 33 elements in blocks of 32 -/

/-- A `squant` of 33 F32 elements to E4M3 with a scale for each 32 of them. -/
def oddSquant : ShapeOp :=
  ⟨.squant false false, BitVec.ofNat 256 (0x10000 + 33 * 2 ^ 32 + 128 * 2 ^ 64 + 7 * 2 ^ 128),
    BitVec.ofNat 256 (132 * 2 ^ 32 + 512 * 2 ^ 64 + 4 * 2 ^ 128), 3 * 2 ^ 21, 0, 0, 0, false, 0⟩

theorem oddSquant_elems_length (tl : Tile) : (oddSquant.elems tl).length = 33 := by
  have hn : (tl.recElems oddSquant.src oddSquant.srcBytes).length = 33 := tl.recElems_length _ _ (by decide)
  have hc : oddSquant.count = 33 := by decide
  rw [ShapeOp.elems, List.length_take, hn, hc, Nat.min_self]

/-- Its output is one whole block. -/
theorem oddSquant_output_length (tl : Tile) (n u : Nat) : (oddSquant.output tl n u).bytes.length = 32 := by
  rw [ShapeOp.output_squant_length (fm := fF32) rfl (by decide) (by decide) (by decide), oddSquant_elems_length]
  decide

/-- Refutes O24: the clause of `squant` asks for an output of as many elements as the operation reads, and does not ask that they are a
whole number of blocks (R248; R244 refuses the rest with cause 0x05). `oddSquant` reads 33 elements in blocks of 32 and gives the 32
of the one whole block, while element 0 meets every hypothesis of the clause. -/
theorem not_shapeOperationsRun : ¬Obligations.ShapeOperationsRun := by
  unfold Obligations.ShapeOperationsRun
  rintro ⟨-, helem, -⟩
  have hlen := oddSquant_elems_length Tile.reset
  have h0 : (oddSquant.elems Tile.reset)[0]? = some (oddSquant.elems Tile.reset)[0] := List.getElem?_eq_getElem _
  obtain ⟨-, -, -, hsquant, -⟩ := helem oddSquant Tile.reset 0 0 0 _ h0
  have hblock : 0 / 32 < oddSquant.count / 32 ∧ 0 / 32 < (oddSquant.elems Tile.reset).length / 32 := by
    rw [hlen]; decide
  obtain ⟨-, hscaled⟩ := hsquant false false rfl (by decide) (by decide) (by decide) hblock
  obtain ⟨⟨l, hbytes, hl, -⟩, -⟩ := hscaled (by decide)
  have hg : elBits (recFormat oddSquant.dst) = 8 := by decide
  have hout := oddSquant_output_length Tile.reset 0 0
  rw [hbytes, hg, bytesOfElems_byte_length, hl, hlen] at hout
  exact absurd hout (by decide)

end Sys2Proof.Machine
end

/-! Exact sums and products of the values of a block-step (R48, R51). -/
section
namespace Sys2Proof.Machine

/-! ## The number that a sign, a significand and an exponent stand for -/

/-- `(-1)^n * m * 2^e`. -/
def dyadic (n : Bool) (m : Nat) (e : Int) : ℚ := ((signedMag n m : Int) : ℚ) * (2 : ℚ) ^ e

theorem signedMag_mul (a b : Bool) (m n : Nat) : signedMag (a != b) (m * n) = signedMag a m * signedMag b n := by
  cases a <;> cases b <;> simp [signedMag]

theorem signedMag_mul_nat (a : Bool) (m k : Nat) : signedMag a (m * k) = signedMag a m * k := by
  cases a <;> simp [signedMag]

theorem dyadic_mul (a b : Bool) (m n : Nat) (e f : Int) : dyadic (a != b) (m * n) (e + f) = dyadic a m e * dyadic b n f := by
  rw [dyadic, dyadic, dyadic, signedMag_mul, Int.cast_mul, zpow_add₀ two_ne_zero]
  ring

/-- A significand brought to a lower exponent stands for the same number. -/
theorem signedMag_shift (a : Bool) (m : Nat) {e g : Int} (h : g ≤ e) :
    ((signedMag a (m * 2 ^ (e - g).toNat) : Int) : ℚ) * (2 : ℚ) ^ g = dyadic a m e := by
  obtain ⟨k, rfl⟩ := Int.le.dest h
  rw [dyadic, signedMag_mul_nat, zpow_add₀ two_ne_zero, zpow_natCast, add_sub_cancel_left, Int.toNat_natCast]
  push_cast
  ring

/-- A signed integer as a value keeps its number. -/
theorem FVal.ofInt_exact (z : Bool) (k e : Int) : ∃ n m f, FVal.ofInt z k e = .fin n m f ∧ dyadic n m f = (k : ℚ) * (2 : ℚ) ^ e := by
  by_cases hk : k = 0
  · exact ⟨z, 0, 0, by simp [FVal.ofInt, hk], by simp [dyadic, signedMag, hk]⟩
  · have hsigned : signedMag (decide (k < 0)) k.natAbs = k := by
      simp only [signedMag, decide_eq_true_eq]
      split <;> omega
    exact ⟨_, _, _, by rw [FVal.ofInt, if_neg hk], by rw [dyadic, hsigned]⟩

/-! ## Sums and products of finite values -/

/-- A sum of finite values is exact. -/
theorem FVal.add_exact (rm : RM) (a b : Bool) (m n : Nat) (e f : Int) :
    ∃ s k g, FVal.add rm (.fin a m e) (.fin b n f) = .fin s k g ∧ dyadic s k g = dyadic a m e + dyadic b n f := by
  obtain ⟨s, k, g, hval, hnum⟩ := FVal.ofInt_exact (if m = 0 ∧ n = 0 ∧ a = b then a else decide (rm = .rdn))
    (signedMag a (m * 2 ^ (e - min e f).toNat) + signedMag b (n * 2 ^ (f - min e f).toNat)) (min e f)
  refine ⟨s, k, g, hval, ?_⟩
  rw [hnum, Int.cast_add, add_mul, signedMag_shift a m (min_le_left ..), signedMag_shift b n (min_le_right ..)]

/-- A product of finite values is exact (R144). -/
theorem FVal.mul_exact (a b : Bool) (m n : Nat) (e f : Int) :
    ∃ s k g, (FVal.fin a m e).mul (.fin b n f) = .fin s k g ∧ dyadic s k g = dyadic a m e * dyadic b n f :=
  ⟨_, _, _, rfl, dyadic_mul ..⟩

theorem foldl_add_exact : ∀ (l : List (Bool × Nat × Int)) (a : Bool) (m : Nat) (e : Int), ∃ s k g,
    (l.map fun x => FVal.fin x.1 x.2.1 x.2.2).foldl (FVal.add .rne) (.fin a m e) = .fin s k g ∧
      dyadic s k g = dyadic a m e + (l.map fun x => dyadic x.1 x.2.1 x.2.2).sum
  | [], a, m, e => ⟨a, m, e, rfl, by simp⟩
  | x :: l, a, m, e => by
    obtain ⟨s, k, g, hadd, hnum⟩ := FVal.add_exact .rne a x.1 m x.2.1 e x.2.2
    obtain ⟨s', k', g', hfold, hsum⟩ := foldl_add_exact l s k g
    refine ⟨s', k', g', ?_, ?_⟩
    · rw [List.map_cons, List.foldl_cons, hadd, hfold]
    · rw [hsum, hnum, List.map_cons, List.sum_cons, add_assoc]

/-- The sum of finite products is exact before it is rounded (R48). -/
theorem blockSum_exact (l : List (Bool × Nat × Int)) : ∃ n m e, blockSum (l.map fun x => .fin x.1 x.2.1 x.2.2) = .fin n m e ∧
    dyadic n m e = (l.map fun x => dyadic x.1 x.2.1 x.2.2).sum := by
  obtain ⟨n, m, e, hfold, hsum⟩ := foldl_add_exact l false 0 0
  exact ⟨n, m, e, hfold, by rw [hsum]; simp [dyadic, signedMag]⟩

/-! ## Sums with a NaN or an infinity (R51) -/

@[simp] theorem FVal.nan_add (rm : RM) (y : FVal) : FVal.add rm .nan y = .nan := rfl
@[simp] theorem FVal.add_nan (rm : RM) (x : FVal) : FVal.add rm x .nan = .nan := by cases x <;> rfl

/-- An infinity stays, but for its opposite and a NaN. -/
theorem FVal.inf_add (rm : RM) (b : Bool) (y : FVal) : FVal.add rm (.inf b) y = .inf b ∨ FVal.add rm (.inf b) y = .nan := by
  cases y with
  | nan => exact .inr rfl
  | inf c => by_cases h : b = c <;> simp [FVal.add, h]
  | fin => exact .inl rfl

theorem FVal.add_inf (rm : RM) (x : FVal) (b : Bool) : FVal.add rm x (.inf b) = .inf b ∨ FVal.add rm x (.inf b) = .nan := by
  cases x with
  | nan => exact .inr rfl
  | inf c => by_cases h : c = b <;> simp [FVal.add, h]
  | fin => exact .inl rfl

/-- Values that are neither a NaN nor the infinity of sign `c` have a sum that is neither. -/
theorem FVal.add_avoids {rm : RM} {c : Bool} {x y : FVal} (hx : x ≠ .nan ∧ x ≠ .inf c) (hy : y ≠ .nan ∧ y ≠ .inf c) :
    FVal.add rm x y ≠ .nan ∧ FVal.add rm x y ≠ .inf c := by
  cases x with
  | nan => exact absurd rfl hx.1
  | inf a =>
    cases y with
    | nan => exact absurd rfl hy.1
    | inf b =>
      have ha : a = !c := Bool.eq_not.mpr fun e => hx.2 (e ▸ rfl)
      have hb : b = !c := Bool.eq_not.mpr fun e => hy.2 (e ▸ rfl)
      simp [FVal.add, ha, hb]
    | fin => exact hx
  | fin a m e =>
    cases y with
    | nan => exact absurd rfl hy.1
    | inf b => exact hy
    | fin b n f =>
      obtain ⟨s, k, g, hadd, -⟩ := FVal.add_exact rm a b m n e f
      simp [hadd]

theorem foldl_add_nan : ∀ (l : List FVal) (x : FVal), .nan ∈ x :: l → l.foldl (FVal.add .rne) x = .nan
  | [], x, h => (List.mem_singleton.mp h).symm
  | y :: l, x, h => by
    refine foldl_add_nan l _ ?_
    rcases List.mem_cons.mp h with rfl | h
    · simp
    · rcases List.mem_cons.mp h with rfl | h
      · simp
      · exact List.mem_cons_of_mem _ h

/-- A sum with an infinity among its terms is that infinity or a NaN. -/
theorem foldl_add_inf (b : Bool) : ∀ (l : List FVal) (x : FVal), .inf b ∈ x :: l →
    l.foldl (FVal.add .rne) x = .inf b ∨ l.foldl (FVal.add .rne) x = .nan
  | [], x, h => .inl (List.mem_singleton.mp h).symm
  | y :: l, x, h => by
    have hstep : FVal.add .rne x y = .inf b ∨ FVal.add .rne x y = .nan ∨ .inf b ∈ l := by
      rcases List.mem_cons.mp h with rfl | h
      · exact (FVal.inf_add ..).imp_right .inl
      · rcases List.mem_cons.mp h with rfl | h
        · exact (FVal.add_inf ..).imp_right .inl
        · exact .inr (.inr h)
    rcases hstep with hs | hs | hl
    · exact foldl_add_inf b l _ (by simp [hs])
    · exact .inr (foldl_add_nan l _ (by simp [hs]))
    · exact foldl_add_inf b l _ (List.mem_cons_of_mem _ hl)

/-- A NaN among the products, or both infinities, make the sum a NaN; one infinity alone makes it that infinity (R51). -/
theorem blockSum_special (l : List FVal) : (.nan ∈ l → blockSum l = .nan) ∧ (.inf true ∈ l → .inf false ∈ l → blockSum l = .nan) ∧
    ∀ b, .nan ∉ l → .inf b ∈ l → .inf (!b) ∉ l → blockSum l = .inf b := by
  refine ⟨fun h => foldl_add_nan _ _ (List.mem_cons_of_mem _ h), fun ht hf => ?_, fun b hn hb hc => ?_⟩
  · rcases foldl_add_inf true l (.fin false 0 0) (List.mem_cons_of_mem _ ht) with h | h
    · rcases foldl_add_inf false l (.fin false 0 0) (List.mem_cons_of_mem _ hf) with h' | h'
      · exact absurd (h.symm.trans h') (by simp)
      · exact h'
    · exact h
  · have havoid : blockSum l ≠ .nan ∧ blockSum l ≠ .inf (!b) :=
      List.foldlRecOn l (FVal.add .rne) (motive := fun v => v ≠ .nan ∧ v ≠ .inf (!b)) (by simp)
        fun x hx y hy => FVal.add_avoids hx ⟨fun e => hn (e ▸ hy), fun e => hc (e ▸ hy)⟩
    exact (foldl_add_inf b l _ (List.mem_cons_of_mem _ hb)).resolve_right havoid.1

/-! ## The block added to an element (R48, R50) -/

theorem blockAdd_nanScale (acc : Nat) (v : FVal) (k : Int) : blockAdd acc v true k = 0x7FC00000 := rfl

/-- A block whose sum is zero is skipped. -/
theorem blockAdd_zero (acc : Nat) (b : Bool) (k : Int) : blockAdd acc (.fin b 0 0) false k = acc := rfl

theorem blockAdd_of_nonzero {acc : Nat} {v : FVal} {k : Int} (h : v.isZero = false) : blockAdd acc v false k =
    fF32.round .rne false (FVal.add .rne (fF32.val acc) (fF32.val (fF32.round .rne false (v.scale k)))) := by
  simp [blockAdd, h]

end Sys2Proof.Machine
end

/-! The values of a block-step, and where the elements of squares and records lie (R35, R201, R253, R263, R264, R268, R275). -/
section
namespace Sys2Proof.Machine

/-! ## The operands of a block-step (R263, R264, R268) -/

/-- A streamed element carries its sub-block scale, and its row its strip scale (R263); a scale of 0xFF makes the element a NaN (R268). -/
theorem getElem?_streamRows {tl : Tile} {x : BitVec 12} {r : Rec} {m j y : Nat} (hm : m < 32) (hj : j < 128)
    (hy : (tl.recElems r (32 * rowBytes (recFormat r)))[128 * m + j]? = some y) :
    let mx := if ctxA x = 9 then ((tl.recBytes r (32 * rowBytes (recFormat r) + 32) 128).getD (4 * m + j / 32) 0x7F#8).toNat else 0x7F
    ∃ q, (streamRows tl x r)[m]? = some q ∧
      q.1[j]? = some (if mx = 0xFF then .nan else ((matFmt (ctxA x)).val y).scale ((mx : Int) - 127)) ∧
      (ctxSA x = false → q.2 = 0x7F) ∧
      ∀ z, ctxSA x = true → (tl.recBytes r (32 * rowBytes (recFormat r)) 32)[m]? = some z → q.2 = z.toNat := by
  intro mx
  have hrow (els : List FVal) : (blocksOf 128 32 els)[m]? = some ((els.drop (128 * m)).take 128) := getElem?_blocksOf 128 els hm
  have hmx : (if ctxA x = 9 then (tl.recBytes r (32 * rowBytes (recFormat r) + 32) 128).map fun b => b.toNat
      else List.replicate 128 0x7F).getD (4 * m + j / 32) 0x7F = mx := by
    simp only [mx]
    split
    · exact List.getD_map (f := BitVec.toNat) (d := 0x7F#8) ..
    · exact List.getD_replicate _ (by omega)
  simp only [streamRows, List.getElem?_map, List.getElem?_zipIdx, hrow, Option.map_some, Nat.zero_add, Option.some.injEq, exists_eq_left']
  refine ⟨?_, fun h => ?_, fun z h hz => ?_⟩
  · simp only [List.getElem?_toArray, List.getElem?_map, List.getElem?_zipIdx, List.getElem?_take, if_pos hj, List.getElem?_drop, hy,
      Option.map_some, Nat.zero_add, hmx]
  · rw [if_neg (by simp [h])]
    exact List.getD_replicate _ hm
  · simp [h, hz]

/-- The square element of row `j` and column `n` carries its column's scale of the 32 elements it lies in (R264). -/
theorem getElem?_squareVals {tl : Tile} {h : ImageHdr} {k n j y : Nat} (hj : j < 128) (hy : (tl.squareElems h k)[128 * n + j]? = some y) :
    let mx := if h.fmt = 9 then ((tl.slotDesc[slotIx k]).cols.getD (4 * n + j / 32) 0x7F#8).toNat else 0x7F
    (squareVals tl h k)[128 * n + j]? = some (if mx = 0xFF then .nan else ((matFmt h.fmt).val y).scale ((mx : Int) - 127)) := by
  have hcol : (128 * n + j) / 128 = n := by omega
  have hrow : (128 * n + j) % 128 = j := by omega
  simp [squareVals, hy, hcol, hrow]

/-- Packed elements go where the bitmap has 1 (R275). -/
theorem unpackBitmap_filter (p : Nat → Bool) : ∀ v : List Nat, unpackBitmap (v.map p) (v.filter p) = v.map fun x => if p x = true then x else 0
  | [] => rfl
  | x :: v => by cases h : p x <;> simp [h, unpackBitmap, unpackBitmap_filter p v]

/-! ## The block-step (R268) -/

theorem getElem?_blockStep (col : Bool) (x : BitVec 12) {rows : List (Array FVal × Nat)} (w : Array FVal) (sb half : Nat) {m c : Nat}
    (old : Array Nat) {q : Array FVal × Nat} (hq : rows[m]? = some q) (hc : c < 64) :
    let n := 64 * half + c
    let prods := (List.range 128).map fun j =>
      (q.1.getD j (.fin false 0 0)).mul (w.getD (if col = true then 128 * j + n else 128 * n + j) (.fin false 0 0))
    (blockStep col x rows w sb half old)[64 * m + c]? = some (blockAdd (if ctxAcc x = true then old.getD (64 * m + c) 0 else 0)
      (blockSum prods) (decide (q.2 = 0xFF ∨ sb = 0xFF)) ((q.2 : Int) - 127 + ((sb : Int) - 127))) := by
  intro n prods
  rw [blockStep, getElem?_flatMap_of_length (x := (q, m)) (by simp) hc (by simp [hq])]
  simp [hc, n, prods]

theorem blockStep_length (col : Bool) (x : BitVec 12) (rows : List (Array FVal × Nat)) (w : Array FVal) (sb half : Nat) (old : Array Nat) :
    (blockStep col x rows w sb half old).length = 64 * rows.length := by
  simp [blockStep, List.length_flatMap, Nat.mul_comm]

theorem streamRows_length (tl : Tile) (x : BitVec 12) (r : Rec) : (streamRows tl x r).length = 32 := by simp [streamRows]

theorem stepIdle_iff (x : BitVec 12) (rows : List (Array FVal × Nat)) (w : Array FVal) (sb : Nat) : stepIdle x rows w sb = true ↔
    ctxAcc x = true ∧ ctxA x ≠ 9 ∧ sb ≠ 0xFF ∧ (∀ q ∈ rows, q.2 ≠ 0xFF) ∧
      ((∀ q ∈ rows, ∀ v ∈ q.1.toList, v.isZero = true) ∨ ∀ v ∈ w.toList, v.isZero = true) := by
  simp only [stepIdle, Bool.and_eq_true, Bool.or_eq_true, decide_eq_true_eq, List.all_eq_true, ← Array.all_toList, and_assoc]

/-! ## Squares, half-bytes, records (R253, R35, R201) -/

theorem getElem?_transposed (v : Array Nat) {r c : Nat} (hr : r < 128) (hc : c < 128) :
    (transposed v)[128 * c + r]? = some (v.getD (128 * r + c) 0) := by
  have hrow : (128 * c + r) % 128 = r := by omega
  have hcol : (128 * c + r) / 128 = c := by omega
  have hin : 128 * c + r < 16384 := by omega
  rw [transposed, List.getElem?_map, List.getElem?_range hin, Option.map_some, hrow, hcol]

/-- Data byte `j` of row `row` of plane `plane` of a record (R201). -/
theorem recAddr_plane_row (r : Rec) {row j : Nat} (plane : Nat) (hrow : row < 128) (hj : j < rowBytes (recFormat r)) :
    recAddr r ((128 * plane + row) * rowBytes (recFormat r) + j) =
      r.toNat % 2 ^ 21 + plane * (r.toNat / 2 ^ 96 % 2 ^ 21) + row * (r.toNat / 2 ^ 64 % 2 ^ 21) + j := by
  have hpos : 0 < rowBytes (recFormat r) := by omega
  have hdiv : ((128 * plane + row) * rowBytes (recFormat r) + j) / rowBytes (recFormat r) = 128 * plane + row := by
    rw [Nat.mul_comm, Nat.mul_add_div hpos, Nat.div_eq_of_lt hj, Nat.add_zero]
  have hmod : ((128 * plane + row) * rowBytes (recFormat r) + j) % rowBytes (recFormat r) = j := by
    rw [Nat.mul_comm, Nat.mul_add_mod, Nat.mod_eq_of_lt hj]
  have hplane : (128 * plane + row) / 128 = plane := by omega
  have hin : (128 * plane + row) % 128 = row := by omega
  simp only [recAddr, hdiv, hmod, hplane, hin, recBase, recStride0, recStride1, fld, Nat.pow_zero, Nat.div_one]

end Sys2Proof.Machine
end

/-! What the entries of the matrix unit do where nothing stops them (R265, R268, R274, R278). -/
section
namespace Sys2Proof.Machine

/-! ## Lines of the accumulators (R265, R266) -/

/-- The 64 bytes of an accumulator line as its holder reads them: free values where it was not written since the claim. -/
def Tile.accLine (tl : Tile) (line : Nat) : List Byte :=
  (tl.freshTag line).elim (tl.acc.bytes (64 * line) 64) fun k => (List.range 64).map fun i => Config.freeByte k (2 ^ 22 + 64 * line + i)

theorem Tile.accBytes_eq_lines (tl : Tile) (n : Nat) : tl.accBytes n = (List.range 128).flatMap fun l => tl.accLine (128 * n + l) := by
  have hline (l : Nat) : 64 * (128 * n + l) = 8192 * n + 64 * l := by omega
  have hfree (l : Nat) : 2 ^ 22 + (8192 * n + 64 * l) = 2 ^ 22 + 8192 * n + 64 * l := by omega
  unfold Tile.accBytes Tile.accLine
  congr 1
  funext l
  rw [hline, hfree]
  cases tl.freshTag (128 * n + l) <;> rfl

@[simp] theorem Tile.accLine_length (tl : Tile) (line : Nat) : (tl.accLine line).length = 64 := by
  unfold Tile.accLine
  cases tl.freshTag line <;> simp

@[simp] theorem Tile.accBytes_length (tl : Tile) (n : Nat) : (tl.accBytes n).length = 8192 := by
  simp [Tile.accBytes_eq_lines, List.length_flatMap]

/-- `tl'` is `tl` after a write of some lines of the accumulators, given by number and bytes: these lines read as written, the others, tile
memory and the array's counts are as they were, and the version store has taken no more lines than were written. -/
structure Tile.WroteLines (tl tl' : Tile) (p : List (Nat × List Byte)) : Prop where
  tm : tl'.tm = tl.tm
  mshCnt : tl'.mshCnt = tl.mshCnt
  arrayUntil : tl'.arrayUntil = tl.arrayUntil
  vs : tl'.vs.length ≤ tl.vs.length + p.length
  written : ∀ q ∈ p, tl'.accLine q.1 = q.2
  other : ∀ line, (∀ q ∈ p, q.1 ≠ line) → tl'.accLine line = tl.accLine line

theorem Tile.wroteLines_nil (tl : Tile) : tl.WroteLines tl [] where
  tm := rfl
  mshCnt := rfl
  arrayUntil := rfl
  vs := Nat.le_refl _
  written := by simp
  other _ _ := rfl

/-- Two writes one after the other, of different lines. -/
theorem Tile.WroteLines.append {tl tl1 tl2 : Tile} {p r : List (Nat × List Byte)} (hp : tl.WroteLines tl1 p) (hr : tl1.WroteLines tl2 r)
    (hne : ∀ q ∈ p, ∀ q' ∈ r, q'.1 ≠ q.1) : tl.WroteLines tl2 (p ++ r) where
  tm := hr.tm.trans hp.tm
  mshCnt := hr.mshCnt.trans hp.mshCnt
  arrayUntil := hr.arrayUntil.trans hp.arrayUntil
  vs := by rw [List.length_append]; have := hp.vs; have := hr.vs; omega
  written q hq := by
    rcases List.mem_append.mp hq with hq | hq
    · rw [hr.other _ (hne q hq), hp.written q hq]
    · exact hr.written q hq
  other line h := by
    rw [hr.other _ fun q hq => h q (List.mem_append_right _ hq), hp.other _ fun q hq => h q (List.mem_append_left _ hq)]

/-- A line of the accumulators written: it is fresh no more (R266). -/
def Tile.putAccLine (tl : Tile) (line : Nat) (bs : List Byte) : Tile :=
  { tl with
    vs := if tl.accNeeds line then tl.vs ++ [⟨true, line, tl.acc.bytes (64 * line) 64, badIn 16 tl.badAcc (64 * line) 64, [], false⟩] else tl.vs
    acc := tl.acc.write (64 * line) bs
    badAcc := badAfter 16 tl.badAcc (64 * line) 64
    cur := { tl.cur with accFresh := tl.cur.accFresh.filter fun p => decide (p.1 ≠ line) } }

theorem Tile.accWrite_cons {tl : Tile} (n l : Nat) (bs : List Byte) (p : List (Nat × List Byte)) (h : tl.vs.length < 8192) :
    tl.accWrite n ((l, bs) :: p) = (tl.putAccLine (128 * n + l) bs).accWrite n p := by
  rw [Tile.accWrite, if_neg (by simp [h])]
  unfold Tile.putAccLine
  split <;> rfl

theorem Tile.freshTag_putAccLine_self (tl : Tile) (line : Nat) (bs : List Byte) : (tl.putAccLine line bs).freshTag line = none := by
  simp [Tile.freshTag, Tile.putAccLine]

theorem Tile.freshTag_putAccLine_ne (tl : Tile) {line line' : Nat} (bs : List Byte) (h : line' ≠ line) :
    (tl.putAccLine line bs).freshTag line' = tl.freshTag line' := by
  simp only [Tile.freshTag, Tile.putAccLine, List.find?_filter]
  congr 2
  funext q
  by_cases hq : q.1 = line' <;> simp [hq, h]

theorem Tile.putAccLine_wrote (tl : Tile) (line : Nat) {bs : List Byte} (hbs : bs.length = 64) :
    tl.WroteLines (tl.putAccLine line bs) [(line, bs)] where
  tm := rfl
  mshCnt := rfl
  arrayUntil := rfl
  vs := by
    show (if tl.accNeeds line then _ else _ : List VsLine).length ≤ _
    split <;> simp
  written := by
    have hread := tl.acc.bytes_write_self (64 * line) bs
    rw [hbs] at hread
    simp only [List.mem_singleton, forall_eq]
    rw [Tile.accLine, tl.freshTag_putAccLine_self]
    exact hread
  other line' h := by
    have hne : line' ≠ line := fun e => h _ (List.mem_singleton_self _) e.symm
    have hread : (tl.putAccLine line bs).acc.bytes (64 * line') 64 = tl.acc.bytes (64 * line') 64 :=
      tl.acc.bytes_write_out _ _ _ _ (by omega)
    rw [Tile.accLine, Tile.accLine, tl.freshTag_putAccLine_ne bs hne, hread]

/-- Where the version store has room for every line, all of them are written (R280). -/
theorem Tile.accWrite_wrote (n : Nat) : ∀ (p : List (Nat × List Byte)) (tl : Tile), (p.map Prod.fst).Nodup → (∀ q ∈ p, q.2.length = 64) →
    tl.vs.length + p.length ≤ 8192 → ∃ tl', tl.accWrite n p = (tl', none) ∧ tl.WroteLines tl' (p.map fun q => (128 * n + q.1, q.2))
  | [], tl, _, _, _ => ⟨tl, rfl, tl.wroteLines_nil⟩
  | (l, bs) :: p, tl, hnd, hlen, hvs => by
    obtain ⟨hl, hnd⟩ := List.nodup_cons.mp hnd
    rw [List.length_cons] at hvs
    have hone := tl.putAccLine_wrote (bs := bs) (128 * n + l) (hlen _ (List.mem_cons_self ..))
    have hroom := hone.vs
    rw [List.length_singleton] at hroom
    obtain ⟨tl', he, hrest⟩ := accWrite_wrote n p (tl.putAccLine (128 * n + l) bs) hnd (fun q hq => hlen q (List.mem_cons_of_mem _ hq))
      (by omega)
    refine ⟨tl', by rw [tl.accWrite_cons n l bs p (by omega), he], hone.append hrest ?_⟩
    simp only [List.mem_singleton, forall_eq, List.forall_mem_map]
    intro q hq hql
    exact hl (List.mem_map.mpr ⟨q, hq, by omega⟩)

/-! ## A whole accumulator written -/

theorem accLines_fst (v : List Nat) : (accLines v).map Prod.fst = List.range 128 := by
  refine List.ext_getElem (by simp [accLines]) fun i _ _ => by simp [accLines]

theorem accLines_length (v : List Nat) : (accLines v).length = 128 := by simp [accLines]

theorem length_of_mem_accLines {v : List Nat} (hv : v.length = 2048) {q : Nat × List Byte} (hq : q ∈ accLines v) : q.2.length = 64 := by
  obtain ⟨⟨b, i⟩, hb, rfl⟩ := List.mem_map.mp hq
  rw [flatMap_leBytes_length, length_of_mem_blocksOf 16 (by omega) (List.fst_mem_of_mem_zipIdx hb)]

theorem flatMap_accLines {v : List Nat} (hv : v.length = 2048) : (accLines v).flatMap Prod.snd = v.flatMap (leBytes 4) := by
  calc (accLines v).flatMap Prod.snd
      = ((blocksOf 16 128 v).zipIdx.map Prod.fst).flatMap (List.flatMap (leBytes 4)) := by
        rw [accLines, List.flatMap_map, List.flatMap_map]
    _ = (blocksOf 16 128 v).flatten.flatMap (leBytes 4) := by rw [List.zipIdx_map_fst, ← List.flatMap_id, List.flatMap_assoc]; rfl
    _ = v.flatMap (leBytes 4) := by rw [flatten_blocksOf 16 hv]

/-- `tl'` is `tl` after a write of the whole of accumulator `n`. -/
structure Tile.WroteAcc (tl tl' : Tile) (n : Nat) (bs : List Byte) : Prop where
  tm : tl'.tm = tl.tm
  mshCnt : tl'.mshCnt = tl.mshCnt
  arrayUntil : tl'.arrayUntil = tl.arrayUntil
  vs : tl'.vs.length ≤ tl.vs.length + 128
  self : tl'.accBytes n = bs
  other : ∀ n', n' ≠ n → tl'.accBytes n' = tl.accBytes n'

/-- 2,048 elements fill an accumulator where the version store has room for its 128 lines (R265, R280). -/
theorem Tile.accPut_wrote {tl : Tile} (n : Nat) {v : List Nat} (hv : v.length = 2048) (hvs : tl.vs.length + 128 ≤ 8192) :
    ∃ tl', tl.accPut n v = (tl', .ok) ∧ tl.WroteAcc tl' n (v.flatMap (leBytes 4)) := by
  obtain ⟨tl', he, hw⟩ := Tile.accWrite_wrote n (accLines v) tl (by rw [accLines_fst]; exact List.nodup_range)
    (fun _ => length_of_mem_accLines hv) (by rw [accLines_length]; exact hvs)
  refine ⟨tl', by rw [Tile.accPut, he], hw.tm, hw.mshCnt, hw.arrayUntil, ?_, ?_, fun n' hn => ?_⟩
  · simpa [accLines_length] using hw.vs
  · rw [Tile.accBytes_eq_lines, ← accLines_fst v, List.flatMap_map, ← flatMap_accLines hv]
    exact List.flatMap_congr fun q hq => hw.written _ (List.mem_map_of_mem hq)
  · rw [Tile.accBytes_eq_lines, Tile.accBytes_eq_lines]
    refine List.flatMap_congr fun l hl => hw.other _ (List.forall_mem_map.mpr fun q hq => ?_)
    have hlow : q.1 < 128 := List.mem_range.mp (accLines_fst v ▸ List.mem_map_of_mem hq)
    have := List.mem_range.mp hl
    dsimp only
    omega

/-! ## The entries (R268, R274, R278) -/

@[simp] theorem f32s_length (bs : List Byte) : (f32s bs).length = 2048 := chunksNat_length ..

theorem flatMap_leBytes_f32s {bs : List Byte} (h : bs.length = 8192) : (f32s bs).flatMap (leBytes 4) = bs :=
  flatMap_leBytes_chunksNat 4 h

/-- The square scale that a block-step takes: that of its slot, or 1 (R264, R268). -/
def Tile.squareScale (tl : Tile) (e : MatEntry) : Nat :=
  if ctxSB e.ctx = true then ((tl.slotDesc[slotIx e.slot]).scale).toNat else 0x7F

/-- The elements that a block-step leaves in accumulator number `half` of its pair (R268). -/
def Tile.stepElems (tl : Tile) (e : MatEntry) (col : Bool) (half : Nat) : List Nat :=
  let rows := streamRows tl e.ctx e.rc
  let w := squareVals tl e.hdr e.slot
  let old := f32s (tl.accBytes (e.acc + half))
  if stepIdle e.ctx rows w (tl.squareScale e) = true then old else blockStep col e.ctx rows w (tl.squareScale e) half old.toArray

theorem Tile.stepElems_length (tl : Tile) (e : MatEntry) (col : Bool) (half : Nat) : (tl.stepElems e col half).length = 2048 := by
  unfold Tile.stepElems
  dsimp only
  split
  · exact f32s_length _
  · rw [blockStep_length, streamRows_length]

/-- The tile after the counts of a block-step that starts: the array is busy, and the shaping window has one more start. -/
def Tile.startStep (tl : Tile) (clk : Nat) (e : MatEntry) : Tile :=
  { tl with arrayUntil := clk + blockTime (ctxA e.ctx), mshCnt := tl.mshCnt + 1 }

/-- A block-step whose structures are good writes the first accumulator of its pair, then the second (R268). -/
theorem Tile.runMmul_of_accPut {tl tl1 : Tile} {e : MatEntry} {col : Bool} {clk : Nat} {r : Tile × MatStop}
    (hrows : tl.badRuns (streamRuns e.ctx e.rc) = none)
    (hslot : badHit 16 tl.badSlot (16384 * e.slot) (if e.hdr.mode = 0 then denseLen e.hdr.fmt else e.hdr.bodyLen) = none)
    (hacc : tl.accBad e.acc = none) (hacc1 : tl.accBad (e.acc + 1) = none)
    (h0 : (tl.startStep clk e).accPut e.acc (tl.stepElems e col 0) = (tl1, .ok)) (h1 : tl1.accPut (e.acc + 1) (tl.stepElems e col 1) = r) :
    tl.runMmul e col clk = r := by
  have hok : (if ctxAcc e.ctx = true then tl.accBad (e.acc + 1) else none) = none := by rw [hacc1, ite_self]
  unfold Tile.startStep Tile.stepElems Tile.squareScale at h0
  simp only [Nat.add_zero] at h0
  simp only [Tile.runMmul, hrows, hslot, hacc, hok, h0]
  exact h1

/-- A block-step leaves what it makes in both accumulators of its pair, and nothing else of memory changes. -/
theorem Tile.runMmul_wrote {tl : Tile} {e : MatEntry} {col : Bool} {clk : Nat} (hvs : tl.vs.length + 256 ≤ 8192)
    (hrows : tl.badRuns (streamRuns e.ctx e.rc) = none)
    (hslot : badHit 16 tl.badSlot (16384 * e.slot) (if e.hdr.mode = 0 then denseLen e.hdr.fmt else e.hdr.bodyLen) = none)
    (hacc : tl.accBad e.acc = none) (hacc1 : tl.accBad (e.acc + 1) = none) :
    ∃ tl', tl.runMmul e col clk = (tl', .ok) ∧ tl'.tm = tl.tm ∧ tl'.mshCnt = tl.mshCnt + 1 ∧
      tl'.arrayUntil = clk + blockTime (ctxA e.ctx) ∧
      (∀ half, half < 2 → tl'.accBytes (e.acc + half) = (tl.stepElems e col half).flatMap (leBytes 4)) ∧
      ∀ n, n ∉ [e.acc, e.acc + 1] → tl'.accBytes n = tl.accBytes n := by
  have hroom : (tl.startStep clk e).vs.length + 256 ≤ 8192 := hvs
  obtain ⟨tl1, he0, hw0⟩ := (tl.startStep clk e).accPut_wrote e.acc (tl.stepElems_length e col 0) (by omega)
  have hvs0 := hw0.vs
  obtain ⟨tl2, he1, hw1⟩ := tl1.accPut_wrote (e.acc + 1) (tl.stepElems_length e col 1) (by omega)
  refine ⟨tl2, Tile.runMmul_of_accPut hrows hslot hacc hacc1 he0 he1, hw1.tm.trans hw0.tm, hw1.mshCnt.trans hw0.mshCnt,
    hw1.arrayUntil.trans hw0.arrayUntil, fun half hh => ?_, fun n hn => ?_⟩
  · obtain rfl | rfl : half = 0 ∨ half = 1 := by omega
    · rw [hw1.other _ (by omega), Nat.add_zero, hw0.self]
    · exact hw1.self
  · simp only [List.mem_cons, List.not_mem_nil, or_false, not_or] at hn
    obtain ⟨hn0, hn1⟩ := hn
    rw [hw1.other n hn1, hw0.other n hn0]
    rfl

/-- The bytes of an idle block-step are those the accumulator had (R268, R284). -/
theorem Tile.stepElems_bytes (tl : Tile) (e : MatEntry) (col : Bool) (half : Nat) : (tl.stepElems e col half).flatMap (leBytes 4) =
    if stepIdle e.ctx (streamRows tl e.ctx e.rc) (squareVals tl e.hdr e.slot) (tl.squareScale e) = true then tl.accBytes (e.acc + half) else
    (blockStep col e.ctx (streamRows tl e.ctx e.rc) (squareVals tl e.hdr e.slot) (tl.squareScale e) half
      (f32s (tl.accBytes (e.acc + half))).toArray).flatMap (leBytes 4) := by
  unfold Tile.stepElems
  dsimp only
  split
  · exact flatMap_leBytes_f32s (tl.accBytes_length _)
  · rfl

/-- `macc.wr` (R278): F32 elements, any NaN canonical. -/
theorem Tile.runWr_wrote {tl : Tile} {e : MatEntry} (hvs : tl.vs.length + 256 ≤ 8192) (hbad : tl.badRuns (maccRuns e.rc) = none) :
    ∃ tl', tl.runWr e = (tl', .ok) ∧ tl.WroteAcc tl' e.acc ((f32s (tl.readRuns (maccRuns e.rc))).flatMap fun x =>
      leBytes 4 (if (fF32.val x).isNaN = true then 0x7FC00000 else x)) := by
  obtain ⟨tl', he, hw⟩ := tl.accPut_wrote e.acc (v := (f32s (tl.readRuns (maccRuns e.rc))).map fun x =>
    if (fF32.val x).isNaN = true then 0x7FC00000 else x) (by simp) (by omega)
  rw [List.flatMap_map] at hw
  exact ⟨tl', by rw [Tile.runWr, hbad]; exact he, hw⟩

/-- What `macc.rd` gives: each element times the tensor scale, rounded once to the record's format (R49, R278). -/
def Tile.readOut (tl : Tile) (e : MatEntry) (z : BitVec 32) : List Byte :=
  let fm := if recFormat e.rc = 5 then fBF16 else fF32
  (f32s (tl.accBytes e.acc)).flatMap fun x => leBytes (fm.w / 8) (fm.round .rne (ctxSat e.ctx) ((fF32.val x).mul (tensorScale z)))

/-- `macc.rd` lays them over the rows of its record, line by line. -/
theorem Tile.runRd_of_fillRuns {tl tl' : Tile} {e : MatEntry} {z : BitVec 32} {r : Option Nat} (hacc : tl.accBad e.acc = none)
    (h : tl.fillRuns (byLine (layRuns (maccRuns e.rc) (tl.readOut e z))) = (tl', r)) :
    tl.runRd e z = (tl', r.elim .ok .overflow) := by
  simp only [Tile.runRd, hacc, List.flatMap_map]
  rw [Tile.readOut] at h
  rw [h]
  cases r <;> rfl

/-- The tile after an `mwld`: the body in its slots, the square scale and the column scales in the descriptor (R274). -/
def Tile.loadSlots (tl : Tile) (e : MatEntry) : Tile :=
  let body := tl.recBytes e.rc 64 e.hdr.bodyLen
  let tail := tl.recBytes e.rc (tailStart e.hdr.fmt) (tailLen e.hdr.fmt)
  { tl with
    slotMem := tl.slotMem.write (16384 * e.slot) body
    badSlot := badAfter 16 tl.badSlot (16384 * e.slot) body.length
    slotsLoaded := imageSlots e.hdr e.slot ++ tl.slotsLoaded
    slotDesc := tl.slotDesc.set (slotIx e.slot) { tl.slotDesc[slotIx e.slot] with scale := tail.headD 0, cols := tail.drop 64 } }

theorem Tile.runMwld_of_good {tl : Tile} {e : MatEntry} (h : tl.badRuns (imageRuns e.hdr e.rc) = none) :
    tl.runMwld e = (tl.loadSlots e, .ok) := by
  simp only [Tile.runMwld, h]
  rfl

theorem Tile.loadSlots_desc (tl : Tile) {e : MatEntry} (h : e.slot < 16) (k : Fin 16) :
    let tail := tl.recBytes e.rc (tailStart e.hdr.fmt) (tailLen e.hdr.fmt)
    (tl.loadSlots e).slotDesc[k] =
      if k.val = e.slot then { tl.slotDesc[k] with scale := tail.headD 0, cols := tail.drop 64 } else tl.slotDesc[k] := by
  have hix : (slotIx e.slot).val = e.slot := Nat.mod_eq_of_lt h
  simp only [Tile.loadSlots, Fin.getElem_fin, Vector.getElem_set, hix]
  split
  · next hk => simp only [hk, if_true]
  · next hk => rw [if_neg (Ne.symm hk)]

/-! ## The statement -/

/-- Settles O22: each clause is the lemma about its function, and those of the entries are what an entry writes where nothing stops it. -/
theorem dataRules : Obligations.DataRules := by
  unfold Obligations.DataRules
  refine ⟨fun acc k v => ⟨blockAdd_nanScale acc v k, blockAdd_zero acc false k, blockAdd_zero acc true k, blockAdd_of_nonzero⟩,
    blockSum_exact, blockSum_special, FVal.mul_exact, ?_, stepIdle_iff, fun tl x r m j y => getElem?_streamRows, fun tl h k n j y => getElem?_squareVals, fun v p => unpackBitmap_filter p v, ?_,
    fun v r c => getElem?_transposed v, fun b => rfl, fun r row plane j => recAddr_plane_row r plane⟩
  · exact fun col x rows w sb half m c old q => getElem?_blockStep col x w sb half old
  intro tl e clk _ hslot hvs
  refine ⟨fun col hk _ hrows hbody hacc0 hacc1 => ?_, fun hk hbad => ?_,
    fun z hk hgood => ⟨fun tl' h => ?_, fun tl' a h => ?_⟩, fun hk hbad => ?_⟩
  · obtain ⟨tl', he, htm, hcnt, huntil, hself, hother⟩ := tl.runMmul_wrote (col := col) (clk := clk) hvs hrows hbody hacc0 hacc1
    refine ⟨tl', by rw [Tile.runEntry, hk]; exact he, ⟨htm, fun n _ => hother n⟩, hcnt, huntil, fun half hh => ?_⟩
    rw [hself half hh, Tile.stepElems_bytes]
    rfl
  · obtain ⟨tl', he, hw⟩ := tl.runWr_wrote hvs hbad
    exact ⟨tl', by rw [Tile.runEntry, hk]; exact he, ⟨hw.tm, fun n _ hn => hw.other n (by simpa using hn)⟩, hw.self⟩
  · rw [Tile.runEntry, hk]
    exact Tile.runRd_of_fillRuns hgood h
  · rw [Tile.runEntry, hk]
    exact Tile.runRd_of_fillRuns hgood h
  · exact ⟨tl.loadSlots e, by rw [Tile.runEntry, hk]; exact Tile.runMwld_of_good hbad, ⟨rfl, fun _ _ _ => rfl⟩,
      tl.slotMem.bytes_write_self .., fun x => tl.slotMem.get_write_out _ x _, tl.loadSlots_desc hslot⟩

end Sys2Proof.Machine
end

/-! Decoding and encoding agree (R57-R60, R69-R78). -/
section
namespace Sys2Proof.Laws

/-! ## A word whose fields are given -/

/-- The values of the fields, the lowest first, are what a word has there from bit `lo` on. -/
def FieldsOf (w : Nat) : Nat → List (Nat × Nat) → Prop
  | _, [] => True
  | lo, (n, v) :: t => v = fld w lo n ∧ FieldsOf w (lo + n) t

theorem pack_fieldsOf {w : Nat} : ∀ {l : List (Nat × Nat)} {lo : Nat}, FieldsOf w lo l → pack l = fld w lo (l.map Prod.fst).sum
  | [], _, _ => by simp [pack, fld, Nat.mod_one]
  | (n, v) :: t, lo, ⟨hv, ht⟩ => by
    simp only [pack, List.map_cons, List.sum_cons, pack_fieldsOf ht, hv, fld]
    rw [Nat.pow_add 2 lo n, ← Nat.div_div_eq_div_mul, Nat.pow_add 2 n, Nat.mod_mul]

@[simp] theorem toNat_ofNat_fld (w lo n : Nat) : (BitVec.ofNat n (fld w lo n)).toNat = fld w lo n := by simp [fld]

/-! ## The rows of a major opcode -/

/-- Where a row of the decoder gives an instruction, the word is its encoding. -/
def Encodes (w : Nat) (o : Option Instr) : Prop := ∀ i, o = some i → encode i = some w

namespace Encodes
variable {w : Nat} {i : Instr} {l : List (Nat × Nat)}

theorem none : Encodes w none := fun _ h => nomatch h

/-- A row without a condition: the fields of the instruction's encoding are those of the word. -/
theorem row (hw : w < 2 ^ 32) (he : encode i = some (pack l)) (hs : (l.map Prod.fst).sum = 32) (hf : FieldsOf w 0 l) :
    Encodes w (some i) := by
  rintro _ ⟨⟩
  rw [he, pack_fieldsOf hf, hs, fld, Nat.pow_zero, Nat.div_one, Nat.mod_eq_of_lt hw]

/-- A row for the words that meet its condition, before the other rows of the opcode. -/
theorem ifRow {c : Prop} [Decidable c] {o : Option Instr} (hw : w < 2 ^ 32) (he : encode i = some (pack l))
    (hs : (l.map Prod.fst).sum = 32) (hf : c → FieldsOf w 0 l) (ho : Encodes w o) : Encodes w (if c then some i else o) := by
  split
  · exact row hw he hs (hf ‹c›)
  · exact ho

end Encodes

/-- The rows of major opcode `op` give instructions whose encoding is the word decoded. -/
def RowsEncode (op : Nat) (rows : RowDecoder) : Prop := ∀ w, w < 2 ^ 32 → fld w 0 7 = op → Encodes w (rows w)

theorem rowsEncode01 : RowsEncode 0x01 decodeOp01 := by
  intro w hw ho
  unfold decodeOp01
  repeat refine .ifRow hw rfl rfl (fun h => by simp [FieldsOf, h, ho, -BitVec.toNat_ofNat]) ?_
  exact .none

theorem rowsEncode02 : RowsEncode 0x02 decodeOp02 := fun _ hw ho => .row hw rfl rfl (by simp [FieldsOf, ho, -BitVec.toNat_ofNat])

theorem rowsEncode03 : RowsEncode 0x03 decodeOp03 := fun _ hw ho => .row hw rfl rfl (by simp [FieldsOf, ho, -BitVec.toNat_ofNat])

theorem rowsEncode04 : RowsEncode 0x04 decodeOp04 := fun _ hw ho => .row hw rfl rfl (by simp [FieldsOf, ho, -BitVec.toNat_ofNat])

theorem rowsEncode05 : RowsEncode 0x05 decodeOp05 := fun _ hw ho => .row hw rfl rfl (by simp [FieldsOf, ho, -BitVec.toNat_ofNat])

theorem rowsEncode06 : RowsEncode 0x06 decodeOp06 := by
  intro w hw ho
  unfold decodeOp06
  repeat refine .ifRow hw rfl rfl (fun h => by simp [FieldsOf, h, ho, -BitVec.toNat_ofNat]) ?_
  exact .none

theorem rowsEncode07 : RowsEncode 0x07 decodeOp07 := fun _ hw ho => .row hw rfl rfl (by simp [FieldsOf, ho, -BitVec.toNat_ofNat])

theorem rowsEncode08 : RowsEncode 0x08 decodeOp08 := fun _ hw ho => .row hw rfl rfl (by simp [FieldsOf, ho, -BitVec.toNat_ofNat])

theorem rowsEncode09 : RowsEncode 0x09 decodeOp09 := by
  intro w hw ho
  unfold decodeOp09
  repeat refine .ifRow hw rfl rfl (fun h => by simp [FieldsOf, h, ho, -BitVec.toNat_ofNat]) ?_
  exact .none

theorem rowsEncode0a : RowsEncode 0x0a decodeOp0a := fun _ hw ho => .row hw rfl rfl (by simp [FieldsOf, ho, -BitVec.toNat_ofNat])

theorem rowsEncode0b : RowsEncode 0x0b decodeOp0b := by
  intro w hw ho
  unfold decodeOp0b
  repeat refine .ifRow hw rfl rfl (fun h => by simp [FieldsOf, h, ho, -BitVec.toNat_ofNat]) ?_
  exact .none

theorem rowsEncode0c : RowsEncode 0x0c decodeOp0c := fun _ hw ho => .row hw rfl rfl (by simp [FieldsOf, ho, -BitVec.toNat_ofNat])

theorem rowsEncode0d : RowsEncode 0x0d decodeOp0d := fun _ hw ho => .row hw rfl rfl (by simp [FieldsOf, ho, -BitVec.toNat_ofNat])

theorem rowsEncode0e : RowsEncode 0x0e decodeOp0e := fun _ hw ho => .row hw rfl rfl (by simp [FieldsOf, ho, -BitVec.toNat_ofNat])

theorem rowsEncode0f : RowsEncode 0x0f decodeOp0f := fun _ hw ho => .row hw rfl rfl (by simp [FieldsOf, ho, -BitVec.toNat_ofNat])

theorem rowsEncode10 : RowsEncode 0x10 decodeOp10 := fun _ hw ho => .row hw rfl rfl (by simp [FieldsOf, ho, -BitVec.toNat_ofNat])

theorem rowsEncode11 : RowsEncode 0x11 decodeOp11 := fun _ hw ho => .row hw rfl rfl (by simp [FieldsOf, ho, -BitVec.toNat_ofNat])

theorem rowsEncode12 : RowsEncode 0x12 decodeOp12 := fun _ hw ho => .row hw rfl rfl (by simp [FieldsOf, ho, -BitVec.toNat_ofNat])

theorem rowsEncode13 : RowsEncode 0x13 decodeOp13 := fun _ hw ho => .row hw rfl rfl (by simp [FieldsOf, ho, -BitVec.toNat_ofNat])

theorem rowsEncode14 : RowsEncode 0x14 decodeOp14 := fun _ hw ho => .row hw rfl rfl (by simp [FieldsOf, ho, -BitVec.toNat_ofNat])

theorem rowsEncode15 : RowsEncode 0x15 decodeOp15 := fun _ hw ho => .row hw rfl rfl (by simp [FieldsOf, ho, -BitVec.toNat_ofNat])

theorem rowsEncode16 : RowsEncode 0x16 decodeOp16 := fun _ hw ho => .row hw rfl rfl (by simp [FieldsOf, ho, -BitVec.toNat_ofNat])

theorem rowsEncode17 : RowsEncode 0x17 decodeOp17 := fun _ hw ho => .row hw rfl rfl (by simp [FieldsOf, ho, -BitVec.toNat_ofNat])

theorem rowsEncode18 : RowsEncode 0x18 decodeOp18 := fun _ hw ho => .row hw rfl rfl (by simp [FieldsOf, ho, -BitVec.toNat_ofNat])

theorem rowsEncode19 : RowsEncode 0x19 decodeOp19 := by
  intro w hw ho
  unfold decodeOp19
  repeat refine .ifRow hw rfl rfl (fun h => by simp [FieldsOf, h, ho, -BitVec.toNat_ofNat]) ?_
  exact .none

theorem rowsEncode1a : RowsEncode 0x1a decodeOp1a := by
  intro w hw ho
  unfold decodeOp1a
  repeat refine .ifRow hw rfl rfl (fun h => by simp [FieldsOf, h, ho, -BitVec.toNat_ofNat]) ?_
  exact .none

theorem rowsEncode20 : RowsEncode 0x20 decodeOp20 := fun _ hw ho => .row hw rfl rfl (by simp [FieldsOf, ho, -BitVec.toNat_ofNat])

theorem rowsEncode21 : RowsEncode 0x21 decodeOp21 := fun _ hw ho => .row hw rfl rfl (by simp [FieldsOf, ho, -BitVec.toNat_ofNat])

theorem rowsEncode22 : RowsEncode 0x22 decodeOp22 := fun _ hw ho => .row hw rfl rfl (by simp [FieldsOf, ho, -BitVec.toNat_ofNat])

theorem rowsEncode23 : RowsEncode 0x23 decodeOp23 := by
  intro w hw ho
  unfold decodeOp23
  repeat refine .ifRow hw rfl rfl (fun h => by simp [FieldsOf, h, ho, -BitVec.toNat_ofNat]) ?_
  exact .none

theorem rowsEncode24 : RowsEncode 0x24 decodeOp24 := by
  intro w hw ho
  unfold decodeOp24
  repeat refine .ifRow hw rfl rfl (fun h => by simp [FieldsOf, h, ho, -BitVec.toNat_ofNat]) ?_
  exact .none

theorem rowsEncode25 : RowsEncode 0x25 decodeOp25 := by
  intro w hw ho
  unfold decodeOp25
  repeat refine .ifRow hw rfl rfl (fun h => by simp [FieldsOf, h, ho, -BitVec.toNat_ofNat]) ?_
  exact .none

theorem rowsEncode26 : RowsEncode 0x26 decodeOp26 := by
  intro w hw ho
  unfold decodeOp26
  repeat refine .ifRow hw rfl rfl (fun h => by simp [FieldsOf, h, ho, -BitVec.toNat_ofNat]) ?_
  exact .none

theorem rowsEncode27 : RowsEncode 0x27 decodeOp27 := by
  intro w hw ho
  unfold decodeOp27
  repeat refine .ifRow hw rfl rfl (fun h => by simp [FieldsOf, h, ho, -BitVec.toNat_ofNat]) ?_
  exact .none

theorem rowsEncode28 : RowsEncode 0x28 decodeOp28 := by
  intro w hw ho
  unfold decodeOp28
  repeat refine .ifRow hw rfl rfl (fun h => by simp [FieldsOf, h, ho, -BitVec.toNat_ofNat]) ?_
  exact .none

theorem rowsEncode30 : RowsEncode 0x30 decodeOp30 := by
  intro w hw ho
  unfold decodeOp30
  repeat refine .ifRow hw rfl rfl (fun h => by simp [FieldsOf, h, ho, -BitVec.toNat_ofNat]) ?_
  exact .none

theorem rowsEncode31 : RowsEncode 0x31 decodeOp31 := by
  intro w hw ho
  unfold decodeOp31
  repeat refine .ifRow hw rfl rfl (fun h => by simp [FieldsOf, h, ho, -BitVec.toNat_ofNat]) ?_
  exact .none

theorem rowsEncode32 : RowsEncode 0x32 decodeOp32 := by
  intro w hw ho
  unfold decodeOp32
  repeat refine .ifRow hw rfl rfl (fun h => by simp [FieldsOf, h, ho, -BitVec.toNat_ofNat]) ?_
  exact .none

theorem rowsEncode33 : RowsEncode 0x33 decodeOp33 := by
  intro w hw ho
  unfold decodeOp33
  repeat refine .ifRow hw rfl rfl (fun h => by simp [FieldsOf, h, ho, -BitVec.toNat_ofNat]) ?_
  exact .none

theorem rowsEncode34 : RowsEncode 0x34 decodeOp34 := by
  intro w hw ho
  unfold decodeOp34
  repeat refine .ifRow hw rfl rfl (fun h => by simp [FieldsOf, h, ho, -BitVec.toNat_ofNat]) ?_
  exact .none

theorem rowsEncode35 : RowsEncode 0x35 decodeOp35 := by
  intro w hw ho
  unfold decodeOp35
  repeat refine .ifRow hw rfl rfl (fun h => by simp [FieldsOf, h, ho, -BitVec.toNat_ofNat]) ?_
  exact .none

theorem rowsEncode40 : RowsEncode 0x40 decodeOp40 := by
  intro w hw ho
  unfold decodeOp40
  repeat refine .ifRow hw rfl rfl (fun h => by simp [FieldsOf, h, ho, -BitVec.toNat_ofNat]) ?_
  exact .none

theorem rowsEncode41 : RowsEncode 0x41 decodeOp41 := by
  intro w hw ho
  unfold decodeOp41
  repeat refine .ifRow hw rfl rfl (fun h => by simp [FieldsOf, h, ho, -BitVec.toNat_ofNat]) ?_
  exact .none

theorem rowsEncode42 : RowsEncode 0x42 decodeOp42 := by
  intro w hw ho
  unfold decodeOp42
  repeat refine .ifRow hw rfl rfl (fun h => by simp [FieldsOf, h, ho, -BitVec.toNat_ofNat]) ?_
  exact .none

theorem rowsEncode43 : RowsEncode 0x43 decodeOp43 := by
  intro w hw ho
  unfold decodeOp43
  repeat refine .ifRow hw rfl rfl (fun h => by simp [FieldsOf, h, ho, -BitVec.toNat_ofNat]) ?_
  exact .none

theorem rowsEncode44 : RowsEncode 0x44 decodeOp44 := by
  intro w hw ho
  unfold decodeOp44
  repeat refine .ifRow hw rfl rfl (fun h => by simp [FieldsOf, h, ho, -BitVec.toNat_ofNat]) ?_
  exact .none

theorem rowsEncode45 : RowsEncode 0x45 decodeOp45 := by
  intro w hw ho
  unfold decodeOp45
  repeat refine .ifRow hw rfl rfl (fun h => by simp [FieldsOf, h, ho, -BitVec.toNat_ofNat]) ?_
  exact .none

theorem rowsEncode46 : RowsEncode 0x46 decodeOp46 := by
  intro w hw ho
  unfold decodeOp46
  repeat refine .ifRow hw rfl rfl (fun h => by simp [FieldsOf, h, ho, -BitVec.toNat_ofNat]) ?_
  exact .none

theorem rowsEncode47 : RowsEncode 0x47 decodeOp47 := by
  intro w hw ho
  unfold decodeOp47
  repeat refine .ifRow hw rfl rfl (fun h => by simp [FieldsOf, h, ho, -BitVec.toNat_ofNat]) ?_
  exact .none

theorem rowsEncode48 : RowsEncode 0x48 decodeOp48 := by
  intro w hw ho
  unfold decodeOp48
  repeat refine .ifRow hw rfl rfl (fun h => by simp [FieldsOf, h, ho, -BitVec.toNat_ofNat]) ?_
  exact .none

theorem rowsEncode50 : RowsEncode 0x50 decodeOp50 := by
  intro w hw ho
  unfold decodeOp50
  repeat refine .ifRow hw rfl rfl (fun h => by simp [FieldsOf, h, ho, -BitVec.toNat_ofNat]) ?_
  exact .none

theorem rowsEncode51 : RowsEncode 0x51 decodeOp51 := by
  intro w hw ho
  unfold decodeOp51
  repeat refine .ifRow hw rfl rfl (fun h => by simp [FieldsOf, h, ho, -BitVec.toNat_ofNat]) ?_
  exact .none

theorem rowsEncode52 : RowsEncode 0x52 decodeOp52 := by
  intro w hw ho
  unfold decodeOp52
  repeat refine .ifRow hw rfl rfl (fun h => by simp [FieldsOf, h, ho, -BitVec.toNat_ofNat]) ?_
  exact .none

theorem rowsEncode53 : RowsEncode 0x53 decodeOp53 := by
  intro w hw ho
  unfold decodeOp53
  repeat refine .ifRow hw rfl rfl (fun h => by simp [FieldsOf, h, ho, -BitVec.toNat_ofNat]) ?_
  exact .none

theorem rowsEncode58 : RowsEncode 0x58 decodeOp58 := by
  intro w hw ho
  unfold decodeOp58
  repeat refine .ifRow hw rfl rfl (fun h => by simp [FieldsOf, h, ho, -BitVec.toNat_ofNat]) ?_
  exact .none

theorem rowsEncode59 : RowsEncode 0x59 decodeOp59 := by
  intro w hw ho
  unfold decodeOp59
  repeat refine .ifRow hw rfl rfl (fun h => by simp [FieldsOf, h, ho, -BitVec.toNat_ofNat]) ?_
  exact .none

theorem rowsEncode5a : RowsEncode 0x5a decodeOp5a := by
  intro w hw ho
  unfold decodeOp5a
  repeat refine .ifRow hw rfl rfl (fun h => by simp [FieldsOf, h, ho, -BitVec.toNat_ofNat]) ?_
  exact .none

theorem rowsEncode5b : RowsEncode 0x5b decodeOp5b := by
  intro w hw ho
  unfold decodeOp5b
  repeat refine .ifRow hw rfl rfl (fun h => by simp [FieldsOf, h, ho, -BitVec.toNat_ofNat]) ?_
  exact .none

theorem rowsEncode5c : RowsEncode 0x5c decodeOp5c := by
  intro w hw ho
  unfold decodeOp5c
  repeat refine .ifRow hw rfl rfl (fun h => by simp [FieldsOf, h, ho, -BitVec.toNat_ofNat]) ?_
  exact .none

theorem rowsEncode5d : RowsEncode 0x5d decodeOp5d := by
  intro w hw ho
  unfold decodeOp5d
  repeat refine .ifRow hw rfl rfl (fun h => by simp [FieldsOf, h, ho, -BitVec.toNat_ofNat]) ?_
  exact .none

theorem rowsEncode5e : RowsEncode 0x5e decodeOp5e := by
  intro w hw ho
  unfold decodeOp5e
  repeat refine .ifRow hw rfl rfl (fun h => by simp [FieldsOf, h, ho, -BitVec.toNat_ofNat]) ?_
  exact .none

theorem rowsEncode60 : RowsEncode 0x60 decodeOp60 := by
  intro w hw ho
  unfold decodeOp60
  repeat refine .ifRow hw rfl rfl (fun h => by simp [FieldsOf, h, ho, -BitVec.toNat_ofNat]) ?_
  exact .none

theorem rowsEncode61 : RowsEncode 0x61 decodeOp61 := by
  intro w hw ho
  unfold decodeOp61
  repeat refine .ifRow hw rfl rfl (fun h => by simp [FieldsOf, h, ho, -BitVec.toNat_ofNat]) ?_
  exact .none

theorem rowsEncode62 : RowsEncode 0x62 decodeOp62 := by
  intro w hw ho
  unfold decodeOp62
  repeat refine .ifRow hw rfl rfl (fun h => by simp [FieldsOf, h, ho, -BitVec.toNat_ofNat]) ?_
  exact .none

theorem rowsEncode63 : RowsEncode 0x63 decodeOp63 := by
  intro w hw ho
  unfold decodeOp63
  repeat refine .ifRow hw rfl rfl (fun h => by simp [FieldsOf, h, ho, -BitVec.toNat_ofNat]) ?_
  exact .none

theorem rowsEncode64 : RowsEncode 0x64 decodeOp64 := by
  intro w hw ho
  unfold decodeOp64
  repeat refine .ifRow hw rfl rfl (fun h => by simp [FieldsOf, h, ho, -BitVec.toNat_ofNat]) ?_
  exact .none

theorem rowsEncode65 : RowsEncode 0x65 decodeOp65 := by
  intro w hw ho
  unfold decodeOp65
  repeat refine .ifRow hw rfl rfl (fun h => by simp [FieldsOf, h, ho, -BitVec.toNat_ofNat]) ?_
  exact .none

theorem rowsEncode68 : RowsEncode 0x68 decodeOp68 := by
  intro w hw ho
  unfold decodeOp68
  repeat refine .ifRow hw rfl rfl (fun h => by simp [FieldsOf, h, ho, -BitVec.toNat_ofNat]) ?_
  exact .none

theorem rowsEncode69 : RowsEncode 0x69 decodeOp69 := by
  intro w hw ho
  unfold decodeOp69
  repeat refine .ifRow hw rfl rfl (fun h => by simp [FieldsOf, h, ho, -BitVec.toNat_ofNat]) ?_
  exact .none

theorem rowsEncode6a : RowsEncode 0x6a decodeOp6a := by
  intro w hw ho
  unfold decodeOp6a
  repeat refine .ifRow hw rfl rfl (fun h => by simp [FieldsOf, h, ho, -BitVec.toNat_ofNat]) ?_
  exact .none

theorem rowsEncode6b : RowsEncode 0x6b decodeOp6b := by
  intro w hw ho
  unfold decodeOp6b
  repeat refine .ifRow hw rfl rfl (fun h => by simp [FieldsOf, h, ho, -BitVec.toNat_ofNat]) ?_
  exact .none

theorem rowsEncode6c : RowsEncode 0x6c decodeOp6c := by
  intro w hw ho
  unfold decodeOp6c
  repeat refine .ifRow hw rfl rfl (fun h => by simp [FieldsOf, h, ho, -BitVec.toNat_ofNat]) ?_
  exact .none

theorem rowsEncode6d : RowsEncode 0x6d decodeOp6d := by
  intro w hw ho
  unfold decodeOp6d
  repeat refine .ifRow hw rfl rfl (fun h => by simp [FieldsOf, h, ho, -BitVec.toNat_ofNat]) ?_
  exact .none

theorem rowsEncode6e : RowsEncode 0x6e decodeOp6e := by
  intro w hw ho
  unfold decodeOp6e
  repeat refine .ifRow hw rfl rfl (fun h => by simp [FieldsOf, h, ho, -BitVec.toNat_ofNat]) ?_
  exact .none

theorem rowsEncode70 : RowsEncode 0x70 decodeOp70 := by
  intro w hw ho
  unfold decodeOp70
  repeat refine .ifRow hw rfl rfl (fun h => by simp [FieldsOf, h, ho, -BitVec.toNat_ofNat]) ?_
  exact .none

theorem rowsEncode71 : RowsEncode 0x71 decodeOp71 := by
  intro w hw ho
  unfold decodeOp71
  repeat refine .ifRow hw rfl rfl (fun h => by simp [FieldsOf, h, ho, -BitVec.toNat_ofNat]) ?_
  exact .none

theorem rowsEncode72 : RowsEncode 0x72 decodeOp72 := by
  intro w hw ho
  unfold decodeOp72
  repeat refine .ifRow hw rfl rfl (fun h => by simp [FieldsOf, h, ho, -BitVec.toNat_ofNat]) ?_
  exact .none

theorem rowsEncode7f : RowsEncode 0x7f decodeOp7f := by
  intro w hw ho
  unfold decodeOp7f
  repeat refine .ifRow hw rfl rfl (fun h => by simp [FieldsOf, h, ho, -BitVec.toNat_ofNat]) ?_
  exact .none

/-- Each row of the opcode tables gives instructions whose encoding is the word decoded. -/
theorem decodeTable_rowsEncode (op : Nat) : RowsEncode op (decodeTable op) := by
  unfold decodeTable
  split
  exacts [rowsEncode01, rowsEncode02, rowsEncode03, rowsEncode04, rowsEncode05, rowsEncode06, rowsEncode07, rowsEncode08, rowsEncode09,
    rowsEncode0a, rowsEncode0b, rowsEncode0c, rowsEncode0d, rowsEncode0e, rowsEncode0f, rowsEncode10, rowsEncode11, rowsEncode12,
    rowsEncode13, rowsEncode14, rowsEncode15, rowsEncode16, rowsEncode17, rowsEncode18, rowsEncode19, rowsEncode1a, rowsEncode20,
    rowsEncode21, rowsEncode22, rowsEncode23, rowsEncode24, rowsEncode25, rowsEncode26, rowsEncode27, rowsEncode28, rowsEncode30,
    rowsEncode31, rowsEncode32, rowsEncode33, rowsEncode34, rowsEncode35, rowsEncode40, rowsEncode41, rowsEncode42, rowsEncode43,
    rowsEncode44, rowsEncode45, rowsEncode46, rowsEncode47, rowsEncode48, rowsEncode50, rowsEncode51, rowsEncode52, rowsEncode53,
    rowsEncode58, rowsEncode59, rowsEncode5a, rowsEncode5b, rowsEncode5c, rowsEncode5d, rowsEncode5e, rowsEncode60, rowsEncode61,
    rowsEncode62, rowsEncode63, rowsEncode64, rowsEncode65, rowsEncode68, rowsEncode69, rowsEncode6a, rowsEncode6b, rowsEncode6c,
    rowsEncode6d, rowsEncode6e, rowsEncode70, rowsEncode71, rowsEncode72, rowsEncode7f, fun _ _ _ => .none]

/-! ## The statement -/

theorem encode_of_decodeRow {w : Nat} {i : Instr} (hw : w < 2 ^ 32) (h : decodeRow w = some i) : encode i = some w :=
  decodeTable_rowsEncode _ w hw (by simp [fld]) i h

theorem decodeRow_of_decode {w : Nat} {i : Instr} (h : decode w = some i) : decodeRow w = some i ∧ i.wf = true := by
  unfold decode at h
  split at h
  · next hj =>
    obtain ⟨hwf, hi⟩ := Option.ite_none_right_eq_some.mp h
    cases hi
    exact ⟨hj, hwf⟩
  · cases h

end Sys2Proof.Laws

namespace Sys2Proof.Laws.RoundTrip

/-- The word of each well-formed instruction decodes to it. -/
theorem wordDecodes : ∀ i : Instr, Statement i :=
  @Instr.rec Statement add sub and or xor andn sll srl sra ror mul mulhS mulhN divS divN remS remN minS minN maxS maxN clz ctz popc mod31 addi andi ori xori
    slli srli srai rori lih addpc pcmp pcmpi pand por pxor pandn porn pxnor ldS8 ldN8 ldS16 ldN16 ldS32 ldN32 ld64 st8 st16 st32 st64 ldfe
    ldfeWake stfe gld gldDataReturn ldb stb br jal jalr nop yield exit trap eret fence fenceAcq fenceRel csrr csrw spawn semv semp sempt
    semset semget semaphoreGrant semptExpiry bld bst sync ssqNum ssqOut ssqRed ssqTry ssqRel send recv recvAny rspawn xsend xrecv vaddF
    vsubF vmulF vminF vmaxF vabsF vneg vcvt vcvti vcvtf vaddI vsubI vmulI vminS vminN vmaxS vmaxN vand vor vxor vsll vsrl vsra vaddsS vaddsN
    vsubsS vsubsN vabsI vfma vfnma vcmpI vcmpF vsel vld vst vlds vsts vgath vscat vredFadd vredFmin vredFmax vredAdd vredMinS vredMaxS vperm
    vbcast vmov vmovToX vmovToLane vexp2 vlog2 vrcp vrsq vstreamIn vstreamOut vstreamEnd streamElementRead mcfg mwld mmulR mmulC maccZ
    maccRd maccWr maccPin maccUnpin matrixEntryStart matrixEntryComplete squant sdeq sexp strans stransRq scomp sblkExp sblkInt sblkFlt scvt
    shapeOpStart shapeOpComplete stage copy hld hst hredAddS32 hredAddS64 hredMinS32 hredMinS64 hredMaxS32 hredMaxS64 hredAnd hredOr
    hredFaddF32 hfence haulOpStart haulChunk haulOpComplete haulOpReplay queueFullResume ffcfgKey ffcfgBeta ffcfgSigt ffcfgMode ffldEdge
    ffldBias ffldCol ffldState ffopSweep ffopClamp ffopUnclamp ffopCreset ffrdBits ffrdCnt fireflyCommandArrival fireflyCommandStart
    fireflyCommandComplete cgrp crank cpart croute cmark csend crecv crecvAdd crecvMax tlbw tlbinv tlbinvAll fqpop fqres ctxsv ctxld brk
    illegalInstruction pcRangeTrap strandChoice watchdogExpiry deferredCause windowRead windowWrite windowSemaphoreWrite
    fireflyContextBlockWrite tileCloseArrival closeArrival sealArrival restoreDone launchJoin exchangeStartPacket exchangeStart release
    startInstant abort rollbackWindowDone targetedSelfTestEnd stop rootTimeout shapingWindow treeReconfigure sealArrivalSend flitSend
    flitArrival xrecvMissedFlit exchangeEnd messageOffer collectiveSend collectiveLanding collectiveReceiveTimeout deltaArrival
    faultRecordPost oclysDataFrame oclysAckFrame oclysReplayRequest oclysAckTimeout linkFailure linkTrained hostWrite hostRead hostLaunch
    regionLaunch launchTilesSet launchTimeout rctlHold rctlFree rctlResume rctlDiscard physdRead physdWrite fqbaseWrite migrationStart
    migrationDone pprStart pprDone hbmerrRead qcrecRead pslewWrite pcapWrite throtWrite spareControlWrite attestationStart attestationDone
    powerCapInterval thermalTrip powerOn moduleReset secureBoot sbReadMstat sbReadPower sbReadTemp sbWritePcap sbReadBootstat sbReset
    sbReadIdentity sbUnknownCommand joinTimeout noiseSourceHealthTest ieee1588Sync malformedOperation

end Sys2Proof.Laws.RoundTrip

namespace Sys2Proof.Laws

/-- Settles O59: an instruction's word decodes to it row by row, and each row of the decoder gives an instruction with that word. -/
theorem decodeAndEncodeAgree : Obligations.DecodeAndEncodeAgree := by
  intro i w hw
  constructor
  · intro h
    obtain ⟨hrow, hwf⟩ := decodeRow_of_decode h
    exact ⟨hwf, encode_of_decodeRow hw hrow⟩
  · rintro ⟨hwf, he⟩
    exact (RoundTrip.wordDecodes i hwf w he).2

/-- Settles O60, by evaluation of the decoder on each word. -/
theorem decodeWords : Obligations.DecodeWords := by
  unfold Obligations.DecodeWords
  exact ⟨rfl, rfl, rfl, rfl, rfl, rfl⟩

end Sys2Proof.Laws
end

/-! Branches, jumps and scalar accesses where they go on and where they trap (R59, R129, R133). -/
section
namespace Sys2Proof.Machine

/-! ## The checks of a transfer (R59) -/

section transfer
variable {s : State} {t : W} (g : Agent)

theorem State.transfer_of_good (h4 : t.toNat % 4 = 0) (hm : t.toNat < whoMem s.turn) : s.transfer g t = s.goto g t := by
  rw [State.transfer, if_neg (not_not.mpr h4), if_neg (Nat.not_le.mpr hm)]

theorem State.transfer_of_misaligned (h4 : t.toNat % 4 ≠ 0) : s.transfer g t = s.trap 0x03 t := if_pos h4

theorem State.transfer_of_outside (h4 : t.toNat % 4 = 0) (hm : whoMem s.turn ≤ t.toNat) : s.transfer g t = s.trap 0x04 t := by
  rw [State.transfer, if_neg (not_not.mpr h4), if_pos hm]

end transfer

/-- An instruction that ends in a transfer goes on at the target or takes the trap of its check (R59). -/
theorem transfer_does {s : State} {i : Instr} {g : Agent} {t : W} (he : exec i s = s.transfer g t) :
    (t.toNat % 4 = 0 ∧ t.toNat < whoMem s.turn → Completes i s { g with pc := t }) ∧
      (t.toNat % 4 ≠ 0 → Traps i s 0x03 t) ∧ (t.toNat % 4 = 0 → whoMem s.turn ≤ t.toNat → Traps i s 0x04 t) := by
  unfold Completes CompletesIn Traps
  rw [he]
  refine ⟨fun ⟨h4, hm⟩ => ?_, fun h4 => ?_, fun h4 hm => ?_⟩
  · rw [State.transfer_of_good g h4 hm]; exact s.goto_does g t
  · rw [State.transfer_of_misaligned g h4]; exact s.trap_does 0x03 t
  · rw [State.transfer_of_outside g h4 hm]; exact s.trap_does 0x04 t

/-- The target of `br` and `jal` with its offset as a product. -/
theorem State.targetRel_eq (s : State) (o : BitVec 20) : s.targetRel o = s.me.pc + o.signExtend 64 * 4#64 := by
  rw [State.targetRel, immShl, immW, BitVec.shiftLeft_eq_mul_twoPow]
  rfl

theorem execBr_of_taken {s : State} {p : BitVec 3} {n : BitVec 1} (h : BitVec 1) {o : BitVec 20} (ht : s.rp p ≠ decide (n = 1)) :
    execBr p n h o s = s.transfer s.me (s.me.pc + o.signExtend 64 * 4#64) := by
  rw [← State.targetRel_eq]
  exact if_pos ht

theorem execBr_of_not_taken {s : State} {p : BitVec 3} {n : BitVec 1} (h : BitVec 1) {o : BitVec 20} (ht : s.rp p = decide (n = 1)) :
    execBr p n h o s = s.doneNop := if_neg (not_not.mpr ht)

/-- Settles O4: a jump and a taken branch end in a transfer, a branch not taken goes on. -/
theorem branchesAndJumps : Obligations.BranchesAndJumps := by
  unfold Obligations.BranchesAndJumps
  have br {s : State} {p n} (h : BitVec 1) (o) (ht : s.rp p ≠ decide (n = 1)) := transfer_does (i := .br p n h o) (execBr_of_taken h ht)
  have jal (s : State) (d o) := transfer_does (i := .jal d o) (congrArg (s.transfer (s.me.wx d (s.me.pc + 4))) (s.targetRel_eq o))
  have jalr (s : State) (d a i) := transfer_does (i := .jalr d a i) (s := s) rfl
  refine ⟨fun s p n h o d a i => ⟨fun ht => ?_, fun ht => (br h o ht).1, (jal s d o).1, (jalr s d a i).1⟩,
    fun s p n h o d a i => ⟨fun ht => (br h o ht).2.1, fun ht => (br h o ht).2.2, (jal s d o).2.1, (jal s d o).2.2,
      (jalr s d a i).2.1, (jalr s d a i).2.2⟩⟩
  unfold Completes CompletesIn
  rw [show exec (.br p n h o) s = s.done s.me from execBr_of_not_taken h ht]
  exact s.done_does s.me

/-! ## The checks of an access (R129) -/

section checked
variable {s : State} {A : W} {n : Nat} (k : State → Out)

theorem State.checked_of_misaligned (h : A.toNat % n ≠ 0) : s.checked A n k = s.trap 0x03 A := if_pos h

theorem State.checked_of_outside (h : A.toNat % n = 0) (hm : whoMem s.turn < A.toNat + n) : s.checked A n k = s.trap 0x04 A := by
  rw [State.checked, if_neg (not_not.mpr h), if_pos hm]

end checked

/-- Instruction `i` begins with the checks of R129 on `n` bytes at `A`. -/
def Accesses (s : State) (A : W) (n : Nat) (i : Instr) : Prop := ∃ k, exec i s = s.checked A n k

theorem Accesses.misaligned {s : State} {A : W} {n : Nat} {i : Instr} (hi : Accesses s A n i) (h : A.toNat % n ≠ 0) : Traps i s 0x03 A := by
  obtain ⟨k, he⟩ := hi
  unfold Traps
  rw [he, State.checked_of_misaligned k h]
  exact s.trap_does 0x03 A

theorem Accesses.outside {s : State} {A : W} {n : Nat} {i : Instr} (hi : Accesses s A n i) (h : A.toNat % n = 0)
    (hm : whoMem s.turn < A.toNat + n) : Traps i s 0x04 A := by
  obtain ⟨k, he⟩ := hi
  unfold Traps
  rw [he, State.checked_of_outside k h hm]
  exact s.trap_does 0x04 A

/-- Settles O8: every scalar access begins with the checks of its size. -/
theorem badAddressesTrap : Obligations.BadAddressesTrap := by
  intro s d a i A all of2 of4 of8
  have acc1 : ∀ x ∈ [Instr.ldS8 d a i, .ldN8 d a i, .st8 d a i], Accesses s A 1 x := by
    simpa using ⟨⟨_, rfl⟩, ⟨_, rfl⟩, ⟨_, rfl⟩⟩
  have acc2 : ∀ x ∈ of2, Accesses s A 2 x := by simpa [of2] using ⟨⟨_, rfl⟩, ⟨_, rfl⟩, ⟨_, rfl⟩⟩
  have acc4 : ∀ x ∈ of4, Accesses s A 4 x := by simpa [of4] using ⟨⟨_, rfl⟩, ⟨_, rfl⟩, ⟨_, rfl⟩⟩
  have acc8 : ∀ x ∈ of8, Accesses s A 8 x := by simpa [of8] using ⟨⟨_, rfl⟩, ⟨_, rfl⟩⟩
  exact ⟨fun h x hx => (acc2 x hx).misaligned h, fun h x hx => (acc4 x hx).misaligned h, fun h x hx => (acc8 x hx).misaligned h,
    fun hm x hx => (acc1 x hx).outside (Nat.mod_one _) hm, fun h hm x hx => (acc2 x hx).outside h hm,
    fun h hm x hx => (acc4 x hx).outside h hm, fun h hm x hx => (acc8 x hx).outside h hm⟩

end Sys2Proof.Machine
end

/-! A step runs the instruction decoded at the PC of the agent that issues (R61, R100, R116, R120, R408). -/
section
namespace Sys2Proof.Machine

/-! ## The agent that issues resumes no more -/

theorem State.copyOf_setAgentOf (s : State) (w : Who) (g : Agent) : (s.setAgentOf w g).copyOf w = s.copyOf w := by
  cases w with
  | tile => rfl
  | svc d c => simp [State.copyOf, State.setAgentOf, State.modDie, Die.setSvc]

theorem State.memOf_setAgentOf (s : State) (w : Who) (g : Agent) : (s.setAgentOf w g).memOf w = s.memOf w := by
  cases w with
  | tile u a => simp [State.memOf, State.setAgentOf, State.modTile]
  | svc d c => simp [State.memOf, State.setAgentOf, State.modDie, Die.setSvc]

theorem State.clk_setAgentOf (s : State) (w : Who) (g : Agent) : (s.setAgentOf w g).clk = s.clk := by cases w <;> rfl

theorem State.turn_setAgentOf (s : State) (w : Who) (g : Agent) : (s.setAgentOf w g).turn = s.turn := by cases w <;> rfl

/-- `P` holds of the state that issues where it holds of it with any context for the agent of the turn, its own among them. -/
theorem State.resumed_prop {s : State} {P : State → Prop} (h : P s) (hg : ∀ g, P (s.setAgentOf s.turn g)) : P s.resumed := by
  unfold State.resumed
  split
  · exact hg _
  · exact h

@[simp] theorem State.resumed_turn (s : State) : s.resumed.turn = s.turn :=
  State.resumed_prop (P := fun t => t.turn = s.turn) rfl (s.turn_setAgentOf s.turn)

@[simp] theorem State.resumed_clk (s : State) : s.resumed.clk = s.clk :=
  State.resumed_prop (P := fun t => t.clk = s.clk) rfl (s.clk_setAgentOf s.turn)

@[simp] theorem State.resumed_copyOf (s : State) : s.resumed.copyOf s.turn = s.copyOf s.turn :=
  State.resumed_prop (P := fun t => t.copyOf s.turn = s.copyOf s.turn) rfl (s.copyOf_setAgentOf s.turn)

@[simp] theorem State.resumed_memOf (s : State) : s.resumed.memOf s.turn = s.memOf s.turn :=
  State.resumed_prop (P := fun t => t.memOf s.turn = s.memOf s.turn) rfl (s.memOf_setAgentOf s.turn)

theorem State.wdogDue_congr {s t : State} (h : t.clk = s.clk) (g : Agent) : t.wdogDue g = s.wdogDue g := by
  rw [State.wdogDue, State.wdogDue, State.wdogCount, State.wdogCount, h]

@[simp] theorem State.resumed_wdogDue (s : State) (g : Agent) : s.resumed.wdogDue g = s.wdogDue g := State.wdogDue_congr s.resumed_clk g

theorem State.resumed_me_pc (s : State) : (s.resumed.agentOf s.turn).pc = s.me.pc := by
  unfold State.resumed
  split
  · rw [State.modMe, State.setMe, State.agentOf_setAgentOf_self]
  · rfl

/-! ## The word at the PC -/

theorem State.wordAt_eq (s : State) (w : Who) : s.wordAt w = s.numAt w (s.agentOf w).pc.toNat 4 :=
  congrArg leNat (Memory.bytes_eq ..)

theorem State.resumed_wordAt (s : State) : s.resumed.wordAt s.turn = s.numAt s.turn s.me.pc.toNat 4 := by
  rw [State.wordAt_eq, State.resumed_me_pc]
  simp only [State.numAt, State.byteAt, State.resumed_memOf]

/-- Agent `w` comes to the instruction of word `n`: the one at its PC, where nothing comes before it, or that of the copy its core runs
(R61, R100, R116, R120, R408). -/
def State.comesTo (s : State) (w : Who) (n : Nat) : Prop :=
  s.copyOf w = none ∧ ((s.agentOf w).deferred = none ∨ (s.agentOf w).resuming = true) ∧
    s.wdogDue (s.agentOf w) = false ∧ (s.agentOf w).pc.toNat < whoMem w ∧
    badHit 16 (s.memOf w).2 (s.agentOf w).pc.toNat 4 = none ∧ n = s.numAt w (s.agentOf w).pc.toNat 4 ∨
  ∃ k, s.copyOf w = some k ∧ n = k.word

/-- The agent of the turn runs the instruction that it comes to. -/
theorem State.issue_of_comesTo {s : State} {n : Nat} {i : Instr} (h : s.comesTo s.turn n) (hd : decode n = some i) :
    s.issue = s.resumed.count n (exec i s.resumed) := by
  rcases h with ⟨hcopy, hdef, hwdog, hpc, hbad, rfl⟩ | ⟨k, hcopy, rfl⟩
  · have hnone : ((s.agentOf s.turn).deferred.isSome && !(s.agentOf s.turn).resuming) = false := by
      rcases hdef with h | h <;> simp [h]
    simp only [State.issue, State.resumed_turn, State.resumed_copyOf, State.resumed_memOf, State.resumed_wdogDue, State.resumed_wordAt,
      State.me, hcopy, hnone, hwdog, hbad, hd]
    exact (if_neg Bool.false_ne_true).trans ((if_neg Bool.false_ne_true).trans (if_neg (Nat.not_le.mpr hpc)))
  · simp only [State.issue, State.resumed_turn, State.resumed_copyOf, hcopy, hd]

/-! ## Counting, and the order of the operations on semaphores -/

/-- Counting the activity of an instruction changes nothing but that of its tile (R420). -/
theorem State.count_next (s t : State) (n : Nat) :
    ∃ u, s.count n (.next t) = .next u ∧ u = { t with tiles := u.tiles } ∧
      ∀ k, u.tile k = { t.tile k with activity := (u.tile k).activity } := by
  unfold State.count
  split
  · next w u _ t' ho =>
    cases ho
    dsimp only
    split
    · exact ⟨t, rfl, rfl, fun _ => rfl⟩
    · refine ⟨_, rfl, rfl, fun k => ?_⟩
      rw [State.tile_modTile]
      split
      · next e => subst e; rfl
      · rfl
  · exact ⟨t, rfl, rfl, fun _ => rfl⟩

/-- Where the cycle has noted no operation, those of a step are noted and it comes at once (R102). -/
theorem State.paced_of_none_seen {s : State} (h : s.semSeen = []) (wait u : State) (ops : List SemOp) :
    s.paced wait ops (.next u) = .next { u with semSeen := u.semSeen ++ ops } :=
  if_pos (List.all_eq_true.mpr fun x _ => by simp [h])

/-! ## The step -/

theorem step_of_run {s : State} {w : Who} {rest : List Sched} (hf : s.forced = none) (hi : s.canIssue w = true)
    (hs : s.sched = .run 0 w :: rest) : step s = ({ s with sched := rest, turn := w } : State).issuePaced s := by
  simp only [step, hf, hs]
  exact if_pos hi

theorem step_of_roundNext {s : State} {w : Who} (hf : s.forced = none) (hs : s.sched = []) (hr : s.roundNext = some w) :
    step s = ({ s with turn := w } : State).issuePaced s := by
  simp only [step, hf, hs, State.unscheduled, hr]

/-- Settles O54: the agent of the turn issues what it comes to, whatever is left of the schedule, and the step counts and notes around it. -/
theorem stepRunsDecoded : Obligations.StepRunsDecoded := by
  intro s w i n hf hcan hcomes hdec goes
  have hissue (l : List Sched) : ({ s with sched := l, turn := w } : State).issue =
      (goes { s with sched := l, turn := w }).count n (exec i (goes { s with sched := l, turn := w })) :=
    State.issue_of_comesTo (s := { s with sched := l, turn := w }) hcomes hdec
  have hrun (rest) (hs : s.sched = .run 0 w :: rest) := (step_of_run hf hcan hs).trans
    (congrArg (fun out => ({ s with sched := rest, turn := w } : State).paced s (State.issueSem _ out) out) (hissue rest))
  have hround (hs : s.sched = []) (hr : s.roundNext = some w) := (step_of_roundNext hf hs hr).trans
    (congrArg (fun out => ({ s with turn := w } : State).paced s (State.issueSem _ out) out) (hissue s.sched))
  refine ⟨hrun, hround, fun s1 t hs1 hseen hexec hcase => ?_⟩
  obtain ⟨u, hu, hrest, htile⟩ := (goes s1).count_next t n
  have hstep : step s = s1.paced s (s1.issueSem (.next u)) (.next u) := by
    rcases hcase with hs | ⟨hs', hs, hr⟩
    · have h := hrun _ hs
      rwa [← hs1, hexec, hu] at h
    · have e : ({ s with turn := w } : State) = s1 := by rw [hs1, hs', ← hs]
      have h := hround hs hr
      rwa [e, hexec, hu] at h
  rw [State.paced_of_none_seen (by rw [hs1]; exact hseen)] at hstep
  exact ⟨_, hstep, by rw [hrest], htile⟩

end Sys2Proof.Machine
end

/-! Every step keeps the two low bits of every PC at 0 (R62): the units, and what the operations shared by the instructions do. -/
section
/- Hundreds of short proofs: they are elaborated one after another, since a thread for each takes more memory than the check has. -/
set_option Elab.async false
namespace Sys2Proof.Machine

/-! ## One agent, and the units -/

/-- The two low bits of the PC of an agent are 0 (R62). -/
def Agent.pcAligned (g : Agent) : Prop := g.pc.toNat % 4 = 0

/-- Those of every agent of a version of a tile. -/
def TileVer.pcsAligned (v : TileVer) : Prop := ∀ a : Fin 10, (v.agents[a]).pcAligned

/-- Those of a tile as it stands and as it was at the start of the superstep. -/
def Tile.pcsAligned (tl : Tile) : Prop := tl.cur.pcsAligned ∧ tl.shadow.pcsAligned

/-- Those of the service cores of a die. -/
def Die.pcsAligned (x : Die) : Prop := ∀ c : Fin 2, (x.svc[c].agent).pcAligned

/-- A step answers with a state whose PCs are aligned. -/
inductive PcOut : Out → Prop
  | next {t : State} (h : t.pcsAligned) : PcOut (.next t)

theorem PcOut.ite {c : Prop} [Decidable c] {a b : Out} (ha : PcOut a) (hb : PcOut b) : PcOut (if c then a else b) := by
  split
  · exact ha
  · exact hb

/-! ## What an instruction does to the context of its agent -/

namespace Agent.pcAligned
variable {g : Agent}

/-- Another context with the same PC. -/
theorem samePc (h : g.pcAligned) {g' : Agent} (e : g'.pc = g.pc := by rfl) : g'.pcAligned := by
  rw [Agent.pcAligned, e]
  exact h

theorem past (h : g.pcAligned) : (g.pc + 4).toNat % 4 = 0 := by
  have h4 : g.pc.toNat % 4 = 0 := h
  rw [BitVec.toNat_add]
  show (g.pc.toNat + 4) % 2 ^ 64 % 4 = 0
  omega

theorem wx (h : g.pcAligned) (r : BitVec 5) (v : W) : (g.wx r v).pcAligned := by
  unfold Agent.wx
  split <;> exact h

theorem wp (h : g.pcAligned) (r : BitVec 3) (v : Bool) : (g.wp r v).pcAligned := by
  unfold Agent.wp
  split <;> exact h

theorem takeTrap (h : g.pcAligned) (size clk code : Nat) (faddr epc : W) : (g.takeTrap size clk code faddr epc).pcAligned := by
  unfold Agent.takeTrap
  split
  · exact h
  · next ht =>
    simp only [Agent.cannotTrap, Bool.or_eq_true, decide_eq_true_eq, not_or, not_not] at ht
    exact ht.1.2

theorem defer (h : g.pcAligned) (code : Nat) (faddr : W) : (g.defer code faddr).pcAligned := by
  unfold Agent.defer
  split
  · exact h
  · split <;> exact h

theorem unstalled (h : g.pcAligned) : g.unstalled.pcAligned := by
  unfold Agent.unstalled
  split <;> exact h

end Agent.pcAligned

/-! ## The agents of one unit -/

theorem Agent.pcAligned_reset : Agent.reset.pcAligned := rfl

theorem TileVer.pcsAligned_reset : TileVer.reset.pcsAligned := fun a => by simpa [TileVer.reset] using Agent.pcAligned_reset

theorem Tile.pcsAligned_reset : Tile.reset.pcsAligned := ⟨TileVer.pcsAligned_reset, TileVer.pcsAligned_reset⟩

namespace Tile.pcsAligned
variable {tl : Tile}

theorem ite {c : Prop} [Decidable c] {a b : Tile} (ha : a.pcsAligned) (hb : b.pcsAligned) : (if c then a else b).pcsAligned := by
  split
  · exact ha
  · exact hb

theorem foldl {α : Type} {f : Tile → α → Tile} (h : tl.pcsAligned) (hf : ∀ x a, x.pcsAligned → (f x a).pcsAligned) (l : List α) :
    (l.foldl f tl).pcsAligned := List.foldlRecOn l f h fun x hx a _ => hf x a hx

theorem agent (h : tl.pcsAligned) (a : Fin 10) : (tl.cur.agents[a]).pcAligned := h.1 a

theorem setAgent (h : tl.pcsAligned) {a : Fin 10} {g : Agent} (hg : g.pcAligned) : (tl.setAgent a g).pcsAligned := by
  refine ⟨fun b => ?_, h.2⟩
  by_cases hb : b = a
  · subst hb; simpa [Tile.setAgent] using hg
  · have hne : a.val ≠ b.val := fun q => hb (Fin.ext q.symm)
    simpa [Tile.setAgent, Vector.getElem_set_ne _ _ hne] using h.1 b

/-- A new context with the PC of the old one. -/
theorem keepAgent (h : tl.pcsAligned) {a : Fin 10} {g : Agent} (hg : g.pc = (tl.cur.agents[a]).pc := by rfl) :
    (tl.setAgent a g).pcsAligned := h.setAgent ((h.agent a).samePc hg)

/-- Every agent as it stands changes by an update that keeps its PC aligned. -/
theorem mapAgents (h : tl.pcsAligned) {f : Agent → Agent} (hf : ∀ g, g.pcAligned → (f g).pcAligned) :
    ({ tl with cur := { tl.cur with agents := tl.cur.agents.map f } } : Tile).pcsAligned :=
  ⟨fun a => by simpa using hf _ (h.agent a), h.2⟩

end Tile.pcsAligned

theorem Die.pcsAligned.setSvc {x : Die} (h : x.pcsAligned) {c : Fin 2} {y : SvcCore} (hy : y.agent.pcAligned) : (x.setSvc c y).pcsAligned := by
  intro e
  by_cases he : e = c
  · subst he; simpa [Die.setSvc] using hy
  · have hne : c.val ≠ e.val := fun q => he (Fin.ext q.symm)
    simpa [Die.setSvc, Vector.getElem_set_ne _ _ hne] using h e

namespace State.pcsAligned
variable {s : State}

theorem of_units (ht : ∀ u, (s.tile u).pcsAligned) (hd : ∀ d, (s.die d).pcsAligned) : s.pcsAligned :=
  ⟨fun u a => ⟨(ht u).1 a, (ht u).2 a⟩, hd⟩

theorem tile (h : s.pcsAligned) (t : Nat) : (s.tile t).pcsAligned := ⟨fun a => (h.1 t a).1, fun a => (h.1 t a).2⟩
theorem die (h : s.pcsAligned) (d : Nat) : (s.die d).pcsAligned := h.2 d

theorem next (h : s.pcsAligned) : PcOut (.next s) := .next h

theorem ite {c : Prop} [Decidable c] {a b : State} (ha : a.pcsAligned) (hb : b.pcsAligned) : (if c then a else b).pcsAligned := by
  split
  · exact ha
  · exact hb

theorem dite {c : Prop} [Decidable c] {a : c → State} {b : ¬c → State} (ha : ∀ q, (a q).pcsAligned) (hb : ∀ q, (b q).pcsAligned) :
    (if q : c then a q else b q).pcsAligned := by
  split
  · exact ha _
  · exact hb _

theorem foldl {α : Type} {f : State → α → State} (h : s.pcsAligned) (hf : ∀ t a, t.pcsAligned → (f t a).pcsAligned) (l : List α) :
    (l.foldl f s).pcsAligned := List.foldlRecOn l f h fun t ht a _ => hf t a ht

theorem setTile (h : s.pcsAligned) {t : Nat} {x : Tile} (hx : x.pcsAligned) : (s.setTile t x).pcsAligned := by
  refine of_units (fun u => ?_) h.2
  by_cases hu : u = t
  · subst hu; rw [State.tile_setTile_self]; exact hx
  · rw [State.tile_setTile_ne _ _ hu]; exact h.tile u

theorem modTile (h : s.pcsAligned) {t : Nat} {f : Tile → Tile} (hf : ∀ tl, tl.pcsAligned → (f tl).pcsAligned) : (s.modTile t f).pcsAligned :=
  h.setTile (hf _ (h.tile t))

theorem setDie (h : s.pcsAligned) {d : Nat} {x : Die} (hx : x.pcsAligned) : (s.setDie d x).pcsAligned := by
  refine ⟨h.1, fun e => ?_⟩
  by_cases he : e = d
  · subst he; rw [State.die_setDie_self]; exact hx
  · rw [State.die_setDie_ne _ _ he]; exact h.2 e

theorem modDie (h : s.pcsAligned) {d : Nat} {f : Die → Die} (hf : ∀ x, x.pcsAligned → (f x).pcsAligned) : (s.modDie d f).pcsAligned :=
  h.setDie (hf _ (h.die d))

/-! An update that leaves the agents of the unit alone: the two forms are the same by definition. A module holds no agent. -/

theorem keepTile (h : s.pcsAligned) {t : Nat} {f : Tile → Tile} (hf : ∀ tl, (f tl).pcsAligned = tl.pcsAligned := by intro _; rfl) :
    (s.modTile t f).pcsAligned := h.modTile fun tl hx => (hf tl).mpr hx

theorem keepSet (h : s.pcsAligned) {t : Nat} {x : Tile} (hx : x.pcsAligned = (s.tile t).pcsAligned := by rfl) : (s.setTile t x).pcsAligned :=
  h.setTile (hx.mpr (h.tile t))

theorem keepDie (h : s.pcsAligned) {d : Nat} {f : Die → Die} (hf : ∀ x, (f x).pcsAligned = x.pcsAligned := by intro _; rfl) :
    (s.modDie d f).pcsAligned := h.modDie fun x hx => (hf x).mpr hx

theorem modModule (h : s.pcsAligned) {m : Nat} {f : Module → Module} : (s.modModule m f).pcsAligned := h

/-- Every tile changes by an update that keeps the PCs of its agents. -/
theorem mapTiles (h : s.pcsAligned) {f : Nat → Tile → Tile} (hf : ∀ k x, x.pcsAligned → (f k x).pcsAligned) :
    ({ s with tiles := s.tiles.map fun q => (q.1, f q.1 q.2) } : State).pcsAligned :=
  of_units (fun u => kvGet_map_prop (P := Tile.pcsAligned) hf s.tiles u (h.tile u)) h.2

/-! What is no tile, no die, holds no agent. -/

theorem free (h : s.pcsAligned) (n : Nat) : ({ s with free := n } : State).pcsAligned := h
theorem outs (h : s.pcsAligned) (l : List Output) : ({ s with outs := l } : State).pcsAligned := h
theorem regions (h : s.pcsAligned) (l : List Region) : ({ s with regions := l } : State).pcsAligned := h
theorem up (h : s.pcsAligned) (l : List Up) : ({ s with up := l } : State).pcsAligned := h
theorem wires (h : s.pcsAligned) (l : List Wire) : ({ s with wires := l } : State).pcsAligned := h
theorem xfers (h : s.pcsAligned) (l : List ColXfer) : ({ s with xfers := l } : State).pcsAligned := h

/-! ## Agents -/

theorem agentOf (h : s.pcsAligned) (w : Who) : (s.agentOf w).pcAligned := by
  cases w with
  | tile t a => exact (h.tile t).agent a
  | svc d c => exact h.die d c

theorem me (h : s.pcsAligned) : s.me.pcAligned := h.agentOf _

theorem setAgentOf (h : s.pcsAligned) (w : Who) {g : Agent} (hg : g.pcAligned) : (s.setAgentOf w g).pcsAligned := by
  cases w with
  | tile t a => exact h.modTile fun _ hx => hx.setAgent hg
  | svc d c => exact h.modDie fun _ hx => hx.setSvc hg

/-- A new context with the PC of the old one. -/
theorem keepAgentOf (h : s.pcsAligned) (w : Who) {g : Agent} (hg : g.pc = (s.agentOf w).pc := by rfl) : (s.setAgentOf w g).pcsAligned :=
  h.setAgentOf w ((h.agentOf w).samePc hg)

theorem modAgent (h : s.pcsAligned) (w : Who) {f : Agent → Agent} (hf : ∀ g, (f g).pc = g.pc := by intro _; rfl) :
    (s.modAgent w f).pcsAligned := h.keepAgentOf w (hf _)

theorem setMe (h : s.pcsAligned) {g : Agent} (hg : g.pcAligned) : (s.setMe g).pcsAligned := h.setAgentOf _ hg

theorem modMe (h : s.pcsAligned) {f : Agent → Agent} (hf : ∀ g, (f g).pc = g.pc := by intro _; rfl) : (s.modMe f).pcsAligned :=
  h.modAgent s.turn hf

/-- A new context for the agent of the turn with the PC of the old one. -/
theorem keepMe (h : s.pcsAligned) {g : Agent} (hg : g.pc = s.me.pc := by rfl) : (s.setMe g).pcsAligned := h.keepAgentOf _ hg

theorem retire (h : s.pcsAligned) (w : Who) : (s.retire w).pcsAligned := by
  cases w with
  | tile t a => exact h.keepTile
  | svc d c => exact h.modDie fun x hx => hx.setSvc (hx c)

theorem done (h : s.pcsAligned) {g : Agent} (hg : g.pcAligned) : PcOut (s.done g) := ((h.setMe (g := { g with pc := g.pc + 4 }) hg.past).retire _).next

theorem goto (h : s.pcsAligned) (g : Agent) {t : W} (ht : t.toNat % 4 = 0) : PcOut (s.goto g t) :=
  ((h.setMe (g := { g with pc := t }) ht).retire _).next

theorem doneX (h : s.pcsAligned) (d : BitVec 5) (v : W) : PcOut (s.doneX d v) := h.done (h.me.wx d v)
theorem doneP (h : s.pcsAligned) (d : BitVec 3) (v : Bool) : PcOut (s.doneP d v) := h.done (h.me.wp d v)
theorem doneNop (h : s.pcsAligned) : PcOut s.doneNop := h.done h.me
theorem waitOn (h : s.pcsAligned) (w : WaitOn) : PcOut (s.waitOn w) := (h.keepAgentOf _).next
theorem stall (h : s.pcsAligned) : PcOut s.stall := h.modMe.next

theorem finishWait (h : s.pcsAligned) (t : Nat) (a : Fin 10) {g : Agent} (hg : g.pcAligned) : (s.finishWait t a g).pcsAligned :=
  State.pcsAligned.retire (h.modTile fun _ hx => hx.setAgent (g := { g with st := wakeState a, pc := g.pc + 4, heldFrom := s.clk }) hg.past) _

theorem takeTrap (h : s.pcsAligned) (w : Who) (code : Nat) (faddr epc : W) : (s.takeTrap w code faddr epc).pcsAligned :=
  h.setAgentOf w ((h.agentOf w).takeTrap ..)
theorem trap (h : s.pcsAligned) (code : Nat) (faddr : W) : PcOut (s.trap code faddr) := (h.takeTrap ..).next

theorem transfer (h : s.pcsAligned) (g : Agent) (t : W) : PcOut (s.transfer g t) := by
  unfold State.transfer
  split
  · exact h.trap ..
  · next h4 => exact (h.trap ..).ite (h.goto g (not_not.mp h4))

variable {k : State → Out} (hk : ∀ t, t.pcsAligned → PcOut (k t))
include hk

theorem onCores (h : s.pcsAligned) {ok : CoreKind → Bool} {word : Nat} : PcOut (s.onCores ok word k) := (hk s h).ite (h.trap ..)
theorem onTile (h : s.pcsAligned) {word : Nat} : PcOut (s.onTile word k) := h.onCores hk
theorem onWork (h : s.pcsAligned) {word : Nat} : PcOut (s.onWork word k) := h.onCores hk
theorem onHaul (h : s.pcsAligned) {word : Nat} : PcOut (s.onHaul word k) := h.onCores hk
theorem onShape (h : s.pcsAligned) {word : Nat} : PcOut (s.onShape word k) := h.onCores hk
theorem onService (h : s.pcsAligned) {word : Nat} : PcOut (s.onService word k) := (hk s h).ite (h.trap ..)

theorem rdWait (h : s.pcsAligned) : PcOut (s.rdWait k) := by
  unfold State.rdWait
  split
  · exact h.waitOn _
  · exact hk s h

theorem release (h : s.pcsAligned) : PcOut (s.release k) := by
  unfold State.release
  refine (h.waitOn _).ite ?_
  split
  · exact h.waitOn _
  · exact hk s h

theorem checked (h : s.pcsAligned) {a : W} {n : Nat} : PcOut (s.checked a n k) := (h.trap ..).ite ((h.trap ..).ite (h.rdWait hk))

end State.pcsAligned

end Sys2Proof.Machine
end

/-! Every step keeps the two low bits of every PC at 0 (R62): the memory of a tile, HBM. -/
section
set_option Elab.async false
namespace Sys2Proof.Machine

/-! ## Tile memory and the version store -/

namespace Tile.pcsAligned
variable {tl : Tile}

theorem keepLine (h : tl.pcsAligned) (l : Nat) : (tl.keepLine l).pcsAligned := Tile.pcsAligned.ite h h

theorem noteRead (h : tl.pcsAligned) (r : Reader) (l : List (Nat × Nat)) (ver : Nat → Nat) : (tl.noteRead r l ver).pcsAligned := Tile.pcsAligned.ite h h

theorem noteLoad (h : tl.pcsAligned) (a : Fin 10) (l : List (Nat × Nat)) : (tl.noteLoad a l).pcsAligned := h.noteRead ..

theorem stamp (h : tl.pcsAligned) (n : Nat) (p : Fin 10 × Nat) : (tl.stamp n p).pcsAligned := h

theorem put (h : tl.pcsAligned) {a : Nat} {bs : List Byte} {t : Tile} (e : tl.put a bs = some t) : t.pcsAligned := by
  unfold Tile.put at e
  split at e
  · cases e; exact h.keepLine (a / 64)
  · cases e

theorem putParts (h : tl.pcsAligned) (l : List (Nat × List Byte)) : (tl.putParts l).1.pcsAligned := by
  induction l generalizing tl with
  | nil => exact h
  | cons p l ih =>
    unfold Tile.putParts
    split
    · exact ih (h.put ‹_›)
    · exact h

theorem putRange (h : tl.pcsAligned) (a : Nat) (bs : List Byte) : (tl.putRange a bs).1.pcsAligned := h.putParts _

theorem store (h : tl.pcsAligned) {a : Fin 10} {l : List (Nat × Nat)} {addr : Nat} {bs : List Byte} {t : Tile}
    (e : tl.store a l addr bs = some t) : t.pcsAligned := by
  unfold Tile.store at e
  dsimp only at e
  split at e
  · exact h.put e
  · split at e
    · cases e
    · cases e
      refine h.foldl (fun x p hx => ?_) _
      split
      · exact hx.keepLine _
      · cases hp : x.put p.1 p.2 with
        | none => exact hx
        | some y => exact hx.put hp

theorem perform (h : tl.pcsAligned) (q : HeldStore) : (tl.perform q).pcsAligned := by
  unfold Tile.perform
  split
  · exact h
  · next t e =>
    have ht : t.pcsAligned := h.put e
    exact ht

theorem setFe (h : tl.pcsAligned) (w : Nat) (full : Bool) : (tl.setFe w full).pcsAligned := h

theorem fillFe (h : tl.pcsAligned) (a n : Nat) : (tl.fillFe a n).pcsAligned := Tile.pcsAligned.ite h (h.foldl (fun _ _ h => h.setFe ..) _)

theorem record (h : tl.pcsAligned) (r : Recorded) : (tl.record r).pcsAligned := h

theorem layParts (h : tl.pcsAligned) (l : List (Nat × List Byte)) : (tl.layParts l).1.pcsAligned := by
  induction l generalizing tl with
  | nil => exact h
  | cons p l ih =>
    unfold Tile.layParts
    split
    · exact ih (h.put ‹_›)
    · exact h

theorem fillWhere (h : tl.pcsAligned) (ok : Nat → Bool) (a n : Nat) : (tl.fillWhere ok a n).pcsAligned :=
  h.foldl (fun _ _ h => Tile.pcsAligned.ite (h.setFe ..) h) _

theorem freshCodes (h : tl.pcsAligned) (l : List (Nat × Nat)) : (tl.freshCodes l).pcsAligned := h

theorem fillRunsBut (h : tl.pcsAligned) {before later : List (Nat × Nat)} {l : List (Nat × List Byte)} {t : Tile} {r : Option Nat}
    (e : tl.fillRunsBut before later l = (t, r)) : t.pcsAligned := by
  cases e
  exact ((h.layParts _).freshCodes _).foldl (fun _ _ h => h.fillWhere ..) _

theorem fillRuns (h : tl.pcsAligned) {l : List (Nat × List Byte)} {t : Tile} {r : Option Nat} (e : tl.fillRuns l = (t, r)) : t.pcsAligned :=
  h.fillRunsBut e

end Tile.pcsAligned

namespace State.pcsAligned
variable {s : State}

theorem flush (h : s.pcsAligned) (t : Nat) : (s.flush t).pcsAligned := by
  have hp (q : Tile × List HeldStore) (hq : q.1.pcsAligned) (c : Bool) (x : HeldStore) :
      (if c then (q.1, q.2 ++ [x]) else (q.1.perform x, q.2)).1.pcsAligned := by
    cases c
    · exact hq.perform x
    · exact hq
  exact h.ite (h.setTile (List.foldlRecOn (motive := fun q : Tile × List HeldStore => q.1.pcsAligned) _ _ (h.tile t) fun q hq x _ => hp q hq _ x))

theorem recordError (h : s.pcsAligned) (t code unit bank row : Nat) : (s.recordError t code unit bank row).pcsAligned := by
  refine h.ite ((h.setTile ((h.tile t).record _)).modDie fun x hx => ?_)
  split <;> exact hx

theorem tmError (h : s.pcsAligned) (t w : Nat) : (s.tmError t w).pcsAligned := (h.recordError ..).ite (h.modTile fun _ h => h.record _)

theorem readError (h : s.pcsAligned) (w : Who) (k : Nat) : (s.readError w k).pcsAligned := by
  cases w with
  | tile t a => exact h.tmError t k
  | svc d c => exact h.modAgent _

theorem loaded (h : s.pcsAligned) (w : Who) (l : List (Nat × Nat)) : (s.loaded w l).pcsAligned := by
  cases w with
  | tile t a => exact State.pcsAligned.ite (h.modTile fun _ h => h.noteLoad ..) h
  | svc d c => exact h

theorem readBytes (h : s.pcsAligned) {a n : Nat} {k : List Byte → State → Out} (hk : ∀ bs t, t.pcsAligned → PcOut (k bs t)) :
    PcOut (s.readBytes a n k) := by
  unfold State.readBytes
  split
  · exact (h.readError ..).next
  · exact hk _ _ (h.loaded ..)

theorem storeWait (h : s.pcsAligned) {a n : Nat} {k : State → Out} (hk : PcOut (k s)) : PcOut (s.storeWait a n k) := by
  unfold State.storeWait
  split
  · exact h.waitOn _
  · exact h.stall.ite hk

theorem storeHere (h : s.pcsAligned) {a : Nat} {bs : List Byte} {t : Tile} (e : s.storeHere a bs = some t) : t.pcsAligned :=
  (h.tile s.here).store e

theorem storeBytes (h : s.pcsAligned) {a : Nat} {bs : List Byte} {k : State → Out} (hk : ∀ t, t.pcsAligned → PcOut (k t)) :
    PcOut (s.storeBytes a bs k) := by
  refine h.storeWait ?_
  dsimp only
  split
  · split
    · exact hk _ (h.setTile (h.storeHere ‹_›))
    · exact h.trap ..
  · exact hk _ (h.modDie fun x hx => hx.setSvc (hx _))

theorem load (h : s.pcsAligned) (d : BitVec 5) (a : W) (n : Nat) (signed : Bool) : PcOut (s.load d a n signed) :=
  h.checked fun _ h => h.readBytes fun _ _ h => h.doneX ..

theorem store (h : s.pcsAligned) (r : BitVec 5) (a : W) (n : Nat) : PcOut (s.store r a n) :=
  h.checked fun _ h => h.storeBytes fun _ h => h.doneNop

theorem setRec (h : s.pcsAligned) (r : BitVec 5) (v : Rec) : (s.setRec r v).pcsAligned := by
  unfold State.setRec
  split
  · exact h.modTile fun _ h => Tile.pcsAligned.ite h (Tile.pcsAligned.ite h h)
  · exact h

theorem takeFull (h : s.pcsAligned) (t addr : Nat) (c : Bool) : (s.takeFull t addr c).pcsAligned :=
  State.pcsAligned.ite (h.modTile fun _ h => h.setFe ..) h

theorem wakeLdfe (h : s.pcsAligned) (t : Nat) (a : Fin 10) (d : BitVec 5) (addr : Nat) : (s.wakeLdfe t a d addr).pcsAligned := by
  unfold State.wakeLdfe
  dsimp only
  split
  · exact h.readError ..
  · exact (h.loaded ..).finishWait _ _ (((h.tile t).agent a).wx ..)

theorem recAccess (h : s.pcsAligned) {a b : BitVec 5} {n : Nat} {k : W → State → Out} (hk : ∀ w, PcOut (k w s)) :
    PcOut (s.recAccess a b n k) := (h.trap ..).ite (hk _)

/-! ## Semaphores and waits -/

theorem reissue (h : s.pcsAligned) (t : Nat) (a : Fin 10) : (s.reissue t a).pcsAligned := h.modTile fun _ hx => hx.keepAgent

theorem wakeDrain (h : s.pcsAligned) (t : Nat) (a : Fin 10) : (s.wakeDrain t a).pcsAligned := by
  unfold State.wakeDrain
  dsimp only
  split
  · exact (h.flush t).modTile fun _ hx => hx.setAgent (hx.agent a).unstalled
  · exact ((h.flush t).reissue t a).ite (h.flush t)
  · exact h.flush t

theorem gldGone (h : s.pcsAligned) (t a : Nat) : (s.gldGone t a).pcsAligned := by
  refine h.foldl (fun s c h => ?_) _
  dsimp only
  split
  · refine State.pcsAligned.ite (State.pcsAligned.retire (h.setAgentOf _ ?_) _) (h.keepAgentOf _)
    exact (h.agentOf (.svc (dieOfTile t) c)).past
  · exact h

theorem deferTo (h : s.pcsAligned) (t : Nat) (a : Fin 10) (code : Nat) (faddr : W) : (s.deferTo t a code faddr).pcsAligned := by
  unfold State.deferTo
  dsimp only
  split
  case h_4 => exact h.modTile fun _ hx => hx.setAgent (((h.tile t).agent a).defer ..)
  all_goals exact h.keepTile

theorem complete (h : s.pcsAligned) (t k : Nat) (a : Fin 10) : (s.complete t k a).pcsAligned :=
  (h.deferTo ..).ite h.keepTile

end State.pcsAligned

namespace State.pcsAligned
variable {s : State}

/-! ## HBM (R380-R387) -/

theorem logHbm (h : s.pcsAligned) (d pa : Nat) : (s.logHbm d pa).pcsAligned := by
  unfold State.logHbm
  refine h.modDie fun x hx => ?_
  split <;> exact hx

theorem logBad (h : s.pcsAligned) (d m pa n : Nat) : (s.logBad d m pa n).pcsAligned := h.foldl (fun _ _ h => h.logHbm ..) _

theorem noteRead (h : s.pcsAligned) (d m pa n : Nat) : (s.noteRead d m pa n).pcsAligned := h.ite ((h.free _).logBad ..)

theorem seenHbm (h : s.pcsAligned) (m : Nat) : (s.seenHbm m).pcsAligned := by
  exact h.ite (h.modModule)

theorem setHbm (h : s.pcsAligned) (m pa : Nat) (bs : List Byte) : (s.setHbm m pa bs).pcsAligned :=
  h.modModule

theorem physdRead (h : s.pcsAligned) (d : Nat) : (s.physdRead d).2.pcsAligned := by
  unfold State.physdRead
  dsimp only
  split
  · exact (h.free _).keepDie
  · split
    · exact ((h.free _).logHbm ..).keepDie
    · exact h.keepDie

theorem physdWrite (h : s.pcsAligned) (d : Nat) (v : W) : (s.physdWrite d v).pcsAligned :=
  (h.ite (h.setHbm ..)).keepDie

theorem fqbaseWrite (h : s.pcsAligned) (d : Nat) (v : W) : (s.fqbaseWrite d v).pcsAligned := by
  unfold State.fqbaseWrite
  exact State.pcsAligned.ite (h.free _).keepDie h

theorem ilmapWrite (h : s.pcsAligned) (d : Nat) (n : Fin 3) (v : W) : (s.ilmapWrite d n v).pcsAligned := by
  unfold State.ilmapWrite
  dsimp only
  split
  · exact h.keepDie
  · refine State.pcsAligned.modModule (State.pcsAligned.free ?_ _)
    exact h.keepDie

theorem loseRows (h : s.pcsAligned) (m : Nat) : (s.loseRows m).pcsAligned := by
  unfold State.loseRows
  exact h.ite ((h.free _).modModule)

theorem migctlWrite (h : s.pcsAligned) (d : Nat) (v : W) : (s.migctlWrite d v).pcsAligned := by
  unfold State.migctlWrite
  exact h.keepDie

theorem replayMove (h : s.pcsAligned) (d : Nat) (e : Nat × Nat × Nat × Nat) : (s.replayMove d e).pcsAligned := by
  unfold State.replayMove
  dsimp only
  split
  · exact h
  · exact h.modModule

theorem forgetChunk (h : s.pcsAligned) (d pc chunk : Nat) : (s.forgetChunk d pc chunk).pcsAligned := by
  unfold State.forgetChunk
  exact (h.free _).modModule

theorem execMigrationDone (h : s.pcsAligned) (d : Nat) : PcOut (execMigrationDone d s) := by
  unfold Machine.execMigrationDone
  exact h.next.ite ((h.keepDie.foldl (fun _ _ h => h.forgetChunk ..) _).replayMove ..).next

theorem pprctlWrite (h : s.pcsAligned) (d : Nat) (v : W) : (s.pprctlWrite d v).pcsAligned := by
  unfold State.pprctlWrite
  refine h.modDie fun x hx => ?_
  split <;> exact hx

theorem hbmerrRead (h : s.pcsAligned) (d : Nat) : (s.hbmerrRead d).2.pcsAligned := by
  unfold State.hbmerrRead
  split
  · exact h
  · exact h.keepDie

end State.pcsAligned

end Sys2Proof.Machine
end

/-! Every step keeps the two low bits of every PC at 0 (R62): translation and faults. -/
section
set_option Elab.async false
namespace Sys2Proof.Machine

/-! ## Translation and faults (R361-R379) -/

namespace Tile.pcsAligned
variable {tl : Tile}

theorem promote (h : tl.pcsAligned) : tl.promote.pcsAligned := by
  unfold Tile.promote
  split
  · exact Tile.pcsAligned.ite h h
  · exact h

theorem bindSlot (h : tl.pcsAligned) (op k : Nat) (recMode : Bool) : (tl.bindSlot op k recMode).pcsAligned :=
  promote (tl := { tl with haulQ := _ }) h

end Tile.pcsAligned

namespace State.pcsAligned
variable {s : State}

theorem lookup (h : s.pcsAligned) (t va : Nat) : (s.lookup t va).2.pcsAligned := by
  unfold State.lookup
  dsimp only
  split
  · exact h
  · split
    · exact h.keepTile
    · exact h

theorem xlat (h : s.pcsAligned) {t va : Nat} {w : Bool} {x : Xlat} {s1 : State} (e : s.xlat t va w = (x, s1)) : s1.pcsAligned := by
  have hl := h.lookup t va
  unfold State.xlat at e
  split at e <;> next he => cases e; rwa [he] at hl

theorem addStop (h : s.pcsAligned) (t : Nat) (f : FaultStop) : (s.addStop t f).pcsAligned := h.keepDie

theorem postRecord (h : s.pcsAligned) (d k : Nat) (bs : List Byte) : (s.postRecord d k bs).pcsAligned :=
  (h.setHbm ..).ite (State.pcsAligned.ite ((h.free _).modModule) h)

theorem execFaultRecordPost (h : s.pcsAligned) (d : Nat) : PcOut (execFaultRecordPost d s) := by
  unfold Machine.execFaultRecordPost
  dsimp only
  split
  · split
    · exact ((h.postRecord ..).keepDie.modTile fun _ h => h.bindSlot ..).next
    · exact (h.postRecord ..).keepDie.next
  · exact h.next

theorem setRecord (h : s.pcsAligned) (d k v : Nat) : (s.setRecord d k v).pcsAligned := by
  unfold State.setRecord
  dsimp only
  split
  · exact h
  · split
    · exact (h.setHbm ..).modModule
    · exact h.setHbm ..

theorem voidRecords (h : s.pcsAligned) (t : Nat) : (s.voidRecords t).pcsAligned := by
  unfold State.voidRecords
  dsimp only
  refine keepDie (h.foldl (fun s k h => ?_) _)
  exact (h.setRecord ..).keepDie

theorem park (h : s.pcsAligned) (code va : Nat) : PcOut (s.park code va) := by
  unfold State.park
  split
  · exact ((h.keepMe).addStop ..).next
  · exact h.next

theorem execGld (h : s.pcsAligned) (d a b : BitVec 5) (t : BitVec 3) : PcOut (execGld d a b t s) :=
  h.onWork fun s h => (h.trap ..).ite ((h.trap ..).ite (by
    split
    · exact (h.xlat ‹_›).park ..
    · exact (h.xlat ‹_›).trap ..
    · exact (h.xlat ‹_›).park ..
    · exact (h.xlat ‹_›).waitOn _))

theorem execGldDataReturn (h : s.pcsAligned) (t a : Nat) : PcOut (execGldDataReturn t a s) := by
  unfold Machine.execGldDataReturn
  split
  · dsimp only
    split
    · refine h.next.ite ?_
      split
      · exact ((h.logHbm ..).keepTile.gldGone ..).next
      · exact ((h.finishWait _ _ (((h.tile t).agent _).wx ..)).gldGone ..).next
    · exact h.next
  · exact h.next

theorem removeTlb (h : s.pcsAligned) (d : Nat) (p : Tlbe → Bool) : (s.removeTlb d p).pcsAligned := by
  have hd : (s.modDie d fun x => { x with mc := { x.mc with llt := x.mc.llt.filter fun q => !p q.2 } }).pcsAligned := h.keepDie
  unfold State.removeTlb
  refine hd.mapTiles (f := fun k x => if dieOfTile k = d then { x with l1 := x.l1.filter fun e => !p e } else x) fun k x hx => ?_
  split <;> exact hx

end State.pcsAligned

namespace State.pcsAligned
variable {s : State}

theorem execTlbw (h : s.pcsAligned) (a b : BitVec 5) : PcOut (execTlbw a b s) := h.onService fun s h => by
  refine (h.trap ..).ite (doneNop (free (keepDie ?_) _))
  split
  · exact h.removeTlb ..
  · exact State.pcsAligned.ite ((h.removeTlb ..).removeTlb ..) (h.removeTlb ..)

theorem invalidate (h : s.pcsAligned) (p : Tlbe → Bool) : PcOut (s.invalidate p) :=
  (h.removeTlb ..).doneNop.ite ((h.removeTlb ..).waitOn _)

theorem execTlbinv (h : s.pcsAligned) (a : BitVec 5) : PcOut (execTlbinv a s) := h.onService fun _ h => h.invalidate _
theorem execTlbinvAll (h : s.pcsAligned) : PcOut (execTlbinvAll s) := h.onService fun _ h => h.invalidate _

theorem execFqpop (h : s.pcsAligned) (d : BitVec 5) : PcOut (execFqpop d s) := h.onService fun s h => by
  split
  · dsimp only
    split
    · exact h.doneX ..
    · refine State.pcsAligned.doneX (h.modDie fun x hx => ?_) ..
      split <;> exact hx
  · exact h.doneNop

theorem unpark (h : s.pcsAligned) (t agent : Nat) {f : Agent → Agent} (hf : ∀ g, g.pcAligned → (f g).pcAligned) : (s.unpark t agent f).pcsAligned := by
  unfold State.unpark
  split
  · next ha =>
    refine h.modTile fun tl ht => ?_
    dsimp only
    split
    · exact ht.setAgent (hf _ (ht.1 ⟨agent, ha⟩))
    · exact ht
  · exact h

theorem deliverHaul (h : s.pcsAligned) (t code : Nat) (va : W) : (s.deliverHaul t code va).pcsAligned :=
  State.pcsAligned.ite h.keepTile (h.deferTo ..)

theorem execFqres (h : s.pcsAligned) (a : BitVec 5) : PcOut (execFqres a s) := h.onService fun s h => by
  split
  · exact h.doneNop
  · next d c _ =>
    have hl : ({ s with free := s.free + 1 }.logBad d (modOfDie d) ((s.rx a).fld 0 40) 24).pcsAligned := (h.free _).logBad ..
    refine (h.trap ..).ite (((h.noteRead ..).trap ..).ite ((h.free _).doneNop.ite (hl.doneNop.ite (PcOut.ite ?_ (PcOut.ite ?_ ?_)))))
    · exact (State.pcsAligned.dite (fun _ => (hl.setRecord ..).keepDie.modTile fun _ hx => hx.keepAgent) fun _ => (hl.setRecord ..).keepDie).doneNop
    · exact (State.pcsAligned.ite (hl.setRecord ..).keepDie.keepTile ((hl.setRecord ..).keepDie.unpark _ _ fun _ hg => hg)).doneNop
    · refine doneNop (State.pcsAligned.ite (deliverHaul (wakeDrain ((hl.setRecord ..).keepDie.modTile ?_) ..) ..)
        ((hl.setRecord ..).keepDie.unpark _ _ fun _ hg => hg.defer ..))
      exact fun _ h => Tile.pcsAligned.promote h

end State.pcsAligned

end Sys2Proof.Machine
end

/-! Every step keeps the two low bits of every PC at 0 (R62): the haul core, ports, the exchange, collectives. -/
section
set_option Elab.async false
namespace Sys2Proof.Machine

/-! ## The haul core (R200-R222) -/

namespace Tile.pcsAligned
variable {tl : Tile}

theorem feedLaunch (h : tl.pcsAligned) : tl.feedLaunch.pcsAligned := by
  unfold Tile.feedLaunch
  split
  · exact h
  · exact Tile.pcsAligned.ite h h

theorem putOp (h : tl.pcsAligned) (o : HaulOp) : (tl.putOp o).pcsAligned := h
theorem notePa (h : tl.pcsAligned) (o j len pa : Nat) : (tl.notePa o j len pa).pcsAligned := h

theorem afterRead (h : tl.pcsAligned) (o : HaulOp) (k : Nat) (l later : List (Nat × Nat)) : (tl.afterRead o k l later).1.pcsAligned := h.noteRead ..

theorem haulFill (h : tl.pcsAligned) {o : HaulOp} {later : List (Nat × Nat)} {l : List (Nat × List Byte)} {t : Tile} {r : Option Nat}
    (e : tl.haulFill o later l = (t, r)) : t.pcsAligned := by
  cases e
  have hf := h.fillRunsBut (rfl : tl.fillRunsBut (runsOf o.dst 0 o.cursor) later l = _)
  exact hf

theorem poisonRuns (h : tl.pcsAligned) (l : List (Nat × Nat)) : (tl.poisonRuns l).pcsAligned := by
  unfold Tile.poisonRuns
  refine h.foldl (fun x p hx => ?_) l
  exact hx.foldl (f := fun tl i => { tl with poison := natInsert tl.poison (p.1 / 16 + i) }) (fun _ _ h => h) _

end Tile.pcsAligned

namespace State.pcsAligned
variable {s : State}

theorem haulEnter (h : s.pcsAligned) (o : HaulOp) : PcOut (s.haulEnter o) :=
  (h.waitOn _).ite ((h.complete ..).doneNop.ite h.keepTile.doneNop)

theorem haulIssue (h : s.pcsAligned) (o : HaulOp) (ln : W) : PcOut (s.haulIssue o ln) := by
  unfold State.haulIssue
  split
  · exact h.trap ..
  · exact h.haulEnter o

theorem hredIssue (h : s.pcsAligned) (word f : Nat) (e a : BitVec 5) (k : BitVec 6) : PcOut (s.hredIssue word f e a k) :=
  h.onHaul fun _ h => h.haulIssue ..

theorem stopOp (h : s.pcsAligned) (t o code : Nat) (faddr : W) : (s.stopOp t o code faddr).pcsAligned :=
  (h.keepTile.deliverHaul ..).wakeDrain ..

theorem keepCopy (h : s.pcsAligned) (t : Nat) (o : HaulOp) (bs : List Byte) : (s.keepCopy t o bs).pcsAligned := by
  unfold State.keepCopy
  exact h.keepTile

theorem execHaulOpStart (h : s.pcsAligned) (t o : Nat) : PcOut (execHaulOpStart t o s) := by
  unfold Machine.execHaulOpStart
  grind [PcOut.next, setTile, tile, free, tmError, flush, stopOp, keepCopy, Tile.pcsAligned.putOp, Tile.pcsAligned.afterRead, Tile.pcsAligned.haulFill]

theorem suspendOp (h : s.pcsAligned) (t : Nat) (op : HaulOp) (cause : Nat) : (s.suspendOp t op cause).pcsAligned := by
  unfold State.suspendOp
  exact h.keepTile.addStop ..

theorem execHaulChunk (h : s.pcsAligned) (t o : Nat) : PcOut (execHaulChunk t o s) := by
  have hd (tl : Tile) (l : List Delta) : ({ tl with deltas := l } : Tile).pcsAligned ↔ tl.pcsAligned := Iff.rfl
  have hy (tl : Tile) (l : List (Nat × Nat × Nat)) : ({ tl with dirty := l } : Tile).pcsAligned ↔ tl.pcsAligned := Iff.rfl
  unfold Machine.execHaulChunk
  grind [PcOut.next, State.modTile, setTile, tile, free, xlat, suspendOp, stopOp, tmError, logBad, logHbm, flush, Tile.pcsAligned.record,
    Tile.pcsAligned.haulFill, Tile.pcsAligned.afterRead, Tile.pcsAligned.putOp, Tile.pcsAligned.notePa, Tile.pcsAligned.poisonRuns]

theorem execHaulOpComplete (h : s.pcsAligned) (t o : Nat) : PcOut (execHaulOpComplete t o s) := by
  unfold Machine.execHaulOpComplete
  split
  · exact h.next
  · refine h.next.ite (PcOut.next (wakeDrain (complete (h.modTile ?_) ..) ..))
    exact fun _ h => Tile.pcsAligned.feedLaunch h

theorem execHaulOpReplay (h : s.pcsAligned) (t o : Nat) : PcOut (execHaulOpReplay t o s) := by
  unfold Machine.execHaulOpReplay
  dsimp only
  split
  · exact h.next
  · refine h.next.ite (PcOut.next (h.setTile (Tile.pcsAligned.promote ?_)))
    exact h.tile t

theorem execQueueFullResume (h : s.pcsAligned) (t a : Nat) : PcOut (execQueueFullResume t a s) := by
  unfold Machine.execQueueFullResume
  split
  · exact (h.reissue ..).next.ite h.next
  · exact h.next

/-! ## Ports (R353, R412) -/

theorem modPort (h : s.pcsAligned) (d : Nat) (host : Bool) (f : Port → Port) : (s.modPort d host f).pcsAligned := by
  refine h.modDie fun x hx => ?_
  split <;> exact hx

theorem keepFrame (h : s.pcsAligned) (d : Nat) (host : Bool) (cfg : BitVec 56) (dst : Option Nat) (payload : List Byte) :
    (s.keepFrame d host cfg dst payload).pcsAligned := h.modPort ..

theorem putFrame (h : s.pcsAligned) (d : Nat) (host : Bool) (cfg : BitVec 56) (dst : Option Nat) (kind : Nat) (seq : BitVec 32)
    (payload : List Byte) : (s.putFrame d host cfg dst kind seq payload).pcsAligned := h

theorem sendFrame (h : s.pcsAligned) (d : Nat) (cfg : BitVec 56) (dst : Option Nat) (payload : List Byte) :
    (s.sendFrame d cfg dst payload).pcsAligned := h.foldl (fun _ _ h => (h.putFrame ..).keepFrame ..) _

theorem sendOp (h : s.pcsAligned) (d : Nat) (host : Bool) (o : Output) : (s.sendOp d host o).pcsAligned := (h.keepFrame ..).outs _

theorem report (h : s.pcsAligned) (m code region ssn cause tile data : Nat) : (s.report m code region ssn cause tile data).pcsAligned :=
  State.pcsAligned.ite (h.sendOp ..) h

/-! ## The Reel exchange and messages (R285-R306) -/

theorem modLink (h : s.pcsAligned) (d : Nat) (k : Fin 4) (f : Port → Port) : (s.modLink d k f).pcsAligned := h.keepDie

theorem putWire (h : s.pcsAligned) (d : Nat) (k : Fin 4) (kind : Nat) (seq : BitVec 32) (payload : List Byte) :
    (s.putWire d k kind seq payload).pcsAligned := h

theorem sendLink (h : s.pcsAligned) (d : Nat) (k : Fin 4) (payload : List Byte) : (s.sendLink d k payload).pcsAligned :=
  (h.putWire ..).modLink ..

theorem crossLinks (h : s.pcsAligned) (a b : Nat) (bs : List Byte) : (s.crossLinks a b bs).pcsAligned :=
  h.foldl (fun _ _ h => h.foldl (fun _ _ h => h.sendLink ..) _) _

theorem recordLink (h : s.pcsAligned) (t m n : Nat) : (s.recordLink t m n).pcsAligned := by
  unfold State.recordLink
  exact h.keepTile.recordError ..

theorem schedule (h : s.pcsAligned) (a b : BitVec 5) (bad : Bool) (e : XEntry) : PcOut (s.schedule a b bad e) := by
  unfold State.schedule
  dsimp only
  split
  · exact h.trap ..
  · exact (h.trap ..).ite ((h.trap ..).ite ((h.trap ..).ite (h.doneNop.ite h.keepTile.doneNop)))

theorem execSend (h : s.pcsAligned) (p : BitVec 3) (a b : BitVec 5) (n : BitVec 2) (t : BitVec 1) : PcOut (execSend p a b n t s) :=
  h.onWork fun _ h => h.checked fun _ h => (h.trap ..).ite (((h.trap ..).ite (h.doneP ..)).ite
    (h.readBytes fun _ _ h => h.keepTile.doneP ..))

theorem recvFrom (h : s.pcsAligned) (d a : BitVec 5) (st : Bool) (p : BitVec 3) (q : Option (Fin 4)) : PcOut (s.recvFrom d a st p q) := by
  unfold State.recvFrom
  split
  · exact (h.doneP ..).ite (h.waitOn _)
  · refine PcOut.ite (h.recordError ..).next (h.storeBytes fun s1 h => ?_)
    refine (h.free _).keepTile.done ?_
    split
    · exact (h.me.wx ..).wp ..
    · exact h.me.wx ..

theorem execRecv (h : s.pcsAligned) (d a : BitVec 5) (n : BitVec 2) (st : BitVec 1) (p : BitVec 3) : PcOut (execRecv d a n st p s) :=
  h.onWork fun _ h => h.checked fun _ h => h.recvFrom ..

theorem execRecvAny (h : s.pcsAligned) (d a : BitVec 5) (st : BitVec 1) (p : BitVec 3) : PcOut (execRecvAny d a st p s) :=
  h.onWork fun _ h => h.checked fun _ h => h.recvFrom ..

theorem execRspawn (h : s.pcsAligned) (p : BitVec 3) (a b : BitVec 5) : PcOut (execRspawn p a b s) :=
  h.onWork fun _ h => h.checked fun s h => h.readBytes fun _ _ _ => (h.trap ..).ite ((h.trap ..).ite ((h.trap ..).ite ((h.trap ..).ite
    (h.readBytes fun _ _ h => h.keepTile.doneP ..))))

theorem sealCause (h : s.pcsAligned) (t code : Nat) : (s.sealCause t code).pcsAligned := h.keepTile.keepDie
theorem countLate (h : s.pcsAligned) (t : Nat) : (s.countLate t).pcsAligned := h.keepDie

theorem execExchangeStartPacket (h : s.pcsAligned) (t : Nat) : PcOut (execExchangeStartPacket t s) := by
  unfold Machine.execExchangeStartPacket
  dsimp only
  split
  · exact h.next
  · exact h.keepTile.next.ite (State.pcsAligned.ite (h.keepTile.keepTile.countLate _) h.keepTile.keepTile).next

theorem execExchangeStart (h : s.pcsAligned) (t : Nat) : PcOut (execExchangeStart t s) := by
  unfold Machine.execExchangeStart
  dsimp only
  split
  · refine h.next.ite (PcOut.next (State.pcsAligned.ite (sealCause ?_ ..) ?_))
    all_goals exact State.pcsAligned.ite (h.keepSet.sealCause ..) h.keepSet
  · exact h.next

end State.pcsAligned

namespace State.pcsAligned
variable {s : State}

theorem execFlitSend (h : s.pcsAligned) (t : Nat) : PcOut (execFlitSend t s) := by
  unfold Machine.execFlitSend
  dsimp only
  refine h.next.ite ?_
  split
  · exact h.next
  · split
    · exact (h.keepSet.tmError ..).next
    · split
      · exact (h.keepSet.recordLink ..).next
      · refine PcOut.next (crossLinks ?_ ..)
        exact h.keepSet

theorem landRuns (h : s.pcsAligned) (t : Nat) (runs : List (Nat × Nat)) (bs : List Byte) : (s.landRuns t runs bs).pcsAligned := by
  unfold State.landRuns
  split
  · exact h.setTile ((h.tile t).fillRuns ‹_›)
  · exact h.sealCause ..

theorem refuse (h : s.pcsAligned) (f : Flit) : (s.refuse f).pcsAligned := by
  unfold State.refuse
  split
  · exact h
  · exact h.ite (h.keepTile.sealCause ..)

theorem landFlit (h : s.pcsAligned) (f : Flit) : (s.landFlit f).pcsAligned := by
  unfold State.landFlit
  dsimp only
  split
  rotate_left 2
  · exact h.sealCause ..
  all_goals
    refine State.pcsAligned.ite ((h.refuse f).ite ((h.free _).landRuns ..)) ?_
    split
    · exact h.sealCause ..
    · exact h.ite ((h.keepTile.sealCause ..).ite ((h.keepTile.refuse f).ite ((h.keepTile.free _).landRuns ..)))

theorem execFlitArrival (h : s.pcsAligned) (i : Nat) : PcOut (execFlitArrival i s) := by
  have hf (l : List Flit) : ({ s with flits := l } : State).pcsAligned := h
  unfold Machine.execFlitArrival
  split
  · exact h.next
  · exact h.next.ite (State.pcsAligned.ite ((hf _).sealCause ..) ((hf _).landFlit _)).next

theorem execXrecvMissedFlit (h : s.pcsAligned) (t e : Nat) : PcOut (execXrecvMissedFlit t e s) := by
  unfold Machine.execXrecvMissedFlit
  dsimp only
  split
  · exact h.next.ite (PcOut.ite (h.keepSet.sealCause ..).next h.next)
  · exact h.next

theorem execExchangeEnd (h : s.pcsAligned) (t : Nat) : PcOut (execExchangeEnd t s) := PcOut.ite h.keepSet.next h.next

theorem execMessageOffer (h : s.pcsAligned) (t e : Nat) : PcOut (execMessageOffer t e s) := by
  unfold Machine.execMessageOffer
  dsimp only
  split
  · exact h.next
  · refine h.next.ite (PcOut.ite (h.keepSet.recordError ..).next (PcOut.ite (h.keepSet.recordError ..).next
      (PcOut.ite (h.keepSet.sendFrame ..).next ?_)))
    split
    · exact (h.keepSet.recordLink ..).next
    · exact (h.keepSet.crossLinks ..).next

/-! ## Collectives (R337-R350) -/

theorem execCgrp (h : s.pcsAligned) (d a : BitVec 5) : PcOut (execCgrp d a s) :=
  h.onHaul fun _ h => h.checked fun s h => h.readBytes fun _ _ h1 => (h1.done (h.me.wx d _).samePc).ite (h.trap ..)

theorem execCrank (h : s.pcsAligned) (d a : BitVec 5) : PcOut (execCrank d a s) := h.onHaul fun s h => by
  split
  · exact h.trap ..
  · exact h.doneX ..

theorem execCpart (h : s.pcsAligned) (d a b : BitVec 5) : PcOut (execCpart d a b s) := h.onHaul fun s h => by
  dsimp only
  split
  · exact h.trap ..
  · exact (h.trap ..).ite (h.doneX ..)

theorem execCroute (h : s.pcsAligned) (a b : BitVec 5) : PcOut (execCroute a b s) :=
  h.onHaul fun _ h => h.keepTile.doneNop.ite (h.trap ..)

theorem execCmark (h : s.pcsAligned) (a : BitVec 5) : PcOut (execCmark a s) :=
  h.onHaul fun _ h => h.keepTile.doneNop.ite (h.trap ..)

theorem colIssue (h : s.pcsAligned) (word f : Nat) (e a b : BitVec 5) (k : BitVec 6) : PcOut (s.colIssue word f e a b k) :=
  h.onHaul fun s h => by
    dsimp only
    split
    · exact h.trap ..
    · exact (h.complete ..).doneNop.ite (((h.waitOn _).ite h.keepTile.doneNop).ite h.keepTile.doneNop)

theorem execCollectiveSend (h : s.pcsAligned) (t e : Nat) : PcOut (execCollectiveSend t e s) := by
  unfold Machine.execCollectiveSend
  dsimp only
  split
  · exact h.next
  · refine h.next.ite ?_
    split
    · exact h.next
    · split
      · exact (h.keepSet.recordLink ..).next
      · refine PcOut.ite (h.keepSet.recordError ..).next (PcOut.next (xfers (setTile (State.pcsAligned.foldl ?_ (fun _ _ h => h.crossLinks ..) _) ?_) _))
        · exact State.pcsAligned.ite (h.sendFrame ..) h
        · exact h.tile t

end State.pcsAligned

theorem Tile.pcsAligned.landCol {tl t : Tile} (h : tl.pcsAligned) {f k : Nat} {foul : Nat → Bool} {l : List (Nat × List Byte)}
    (e : tl.landCol f k foul l = some t) : t.pcsAligned := by
  induction l generalizing tl with
  | nil => cases e; exact h
  | cons p l ih =>
    unfold Tile.landCol at e
    split at e
    · exact ih (h.fillRuns ‹_›) e
    · cases e

namespace State.pcsAligned
variable {s : State}

theorem execCollectiveLanding (h : s.pcsAligned) (i : Nat) : PcOut (execCollectiveLanding i s) := by
  unfold Machine.execCollectiveLanding
  dsimp only
  split
  · exact h.next
  · next f _ =>
    have h1 : ({ s with xfers := s.xfers.eraseIdx i }.modTile f.src fun x => x.setCol f.entry .done).pcsAligned := (h.xfers _).keepTile
    refine h.next.ite ?_
    split
    · exact (h1.sealCause ..).next
    · refine PcOut.ite (h1.keepTile.sealCause ..).next (PcOut.ite (h1.keepTile.sealCause ..).next ?_)
      split
      · exact (h1.keepTile.tmError ..).next
      · next e k _ _ _ =>
        have h2 := (h1.free (s.free + 1)).keepTile (t := f.dst) (f := fun x => x.setCol k .done)
        split
        · exact (h2.sealCause ..).next
        · next he =>
          have ht := (h2.tile _).landCol he
          exact ((h2.setTile (Tile.pcsAligned.ite (ht.freshCodes _) ht)).complete ..).next

theorem execCollectiveReceiveTimeout (h : s.pcsAligned) (t e : Nat) : PcOut (execCollectiveReceiveTimeout t e s) := by
  unfold Machine.execCollectiveReceiveTimeout
  dsimp only
  split
  · exact h.next.ite (State.pcsAligned.ite (h.keepSet.recordLink ..) (h.keepSet.recordError ..)).next
  · exact h.next

end State.pcsAligned

end Sys2Proof.Machine
end

/-! Every step keeps the two low bits of every PC at 0 (R62): the shape core, the matrix unit, streams, control. -/
section
set_option Elab.async false
namespace Sys2Proof.Machine

/-! ## The shape core (R241-R259) -/

namespace State.pcsAligned
variable {s : State}

theorem shapeIssue (h : s.pcsAligned) (word : Nat) (kind : ShapeKind) (e a : BitVec 5) (p : W) (k : BitVec 6) :
    PcOut (s.shapeIssue word kind e a p k) := h.onShape fun s h => by
  dsimp only
  split
  · exact h.trap ..
  · exact (h.waitOn _).ite h.keepSet.doneNop

theorem execShapeOpStart (h : s.pcsAligned) (t : Nat) : PcOut (execShapeOpStart t s) := by
  unfold Machine.execShapeOpStart
  dsimp only
  split
  · exact h.next
  · next o rest _ =>
    refine h.next.ite ?_
    split
    · exact (h.tmError ..).next
    · have hr (ver : Nat → Nat) : ((s.tile t).noteRead ⟨9, o.id, false⟩ o.readRuns ver).ranHead.pcsAligned := (h.tile t).noteRead ..
      have hs := h.free (s.free + 2)
      split
      · next tl' e => exact ((hs.setTile (((hr _).fillRuns e).stamp ..)).flush t).next
      · next tl' a e =>
        have ht : tl'.pcsAligned := (hr _).fillRuns e
        exact (((hs.setTile (x := { tl' with shapeQ := rest }) ht).deferTo ..).wakeDrain ..).next

theorem execShapeOpComplete (h : s.pcsAligned) (t : Nat) : PcOut (execShapeOpComplete t s) := by
  unfold Machine.execShapeOpComplete
  split
  · exact h.next
  · exact PcOut.ite ((h.keepTile.complete ..).wakeDrain ..).next h.next

end State.pcsAligned

/-! ## The matrix unit (R260-R282) -/

namespace Tile.pcsAligned
variable {tl : Tile}

theorem accWrite (h : tl.pcsAligned) (n : Nat) (l : List (Nat × List Byte)) : (tl.accWrite n l).1.pcsAligned := by
  induction l generalizing tl with
  | nil => exact h
  | cons p l ih =>
    unfold Tile.accWrite
    dsimp only
    split
    · exact h
    · refine ih ?_
      split <;> exact h

theorem claim (h : tl.pcsAligned) (a : Fin 10) (k n : Nat) : (tl.claim a k n).pcsAligned := by
  unfold Tile.claim
  split <;> exact h

theorem accPut (h : tl.pcsAligned) (n : Nat) (v : List Nat) : (tl.accPut n v).1.pcsAligned := by
  have hw := h.accWrite n (accLines v)
  unfold Tile.accPut
  split <;> next e => rw [e] at hw; exact hw

theorem runMwld (h : tl.pcsAligned) (e : MatEntry) : (tl.runMwld e).1.pcsAligned := by
  unfold Tile.runMwld
  split <;> exact h

theorem runMmul (h : tl.pcsAligned) (e : MatEntry) (col : Bool) (clk : Nat) : (tl.runMmul e col clk).1.pcsAligned := by
  unfold Tile.runMmul
  dsimp only
  split
  · exact h
  · split
    · exact h
    · split
      · exact h
      · have h1 (v : List Nat) := Tile.pcsAligned.accPut (tl := { tl with arrayUntil := clk + blockTime (ctxA e.ctx), mshCnt := tl.mshCnt + 1 }) h e.acc v
        split
        · next he => exact accPut (he ▸ h1 _ :) ..
        · exact h1 _

theorem runRd (h : tl.pcsAligned) (e : MatEntry) (z : BitVec 32) : (tl.runRd e z).1.pcsAligned := by
  unfold Tile.runRd
  split
  · exact h
  · dsimp only
    split <;> exact h.fillRuns ‹_›

theorem runWr (h : tl.pcsAligned) (e : MatEntry) : (tl.runWr e).1.pcsAligned := by
  unfold Tile.runWr
  split
  · exact h
  · exact h.accPut ..

theorem setPin (h : tl.pcsAligned) (e : MatEntry) (p : Bool) : (tl.setPin e p).pcsAligned := by
  unfold Tile.setPin
  split
  · exact Tile.pcsAligned.ite h h
  · exact h

theorem runEntry (h : tl.pcsAligned) (clk : Nat) (e : MatEntry) : (tl.runEntry clk e).1.pcsAligned := by
  unfold Tile.runEntry
  split
  · exact h.runMwld e
  · exact h.runMmul ..
  · exact h.accPut ..
  · exact h.runRd ..
  · exact h.runWr e
  · exact h.setPin ..
  · exact h.setPin ..

theorem wakeMat (h : tl.pcsAligned) (ids : List Nat) : (tl.wakeMat ids).pcsAligned :=
  h.mapAgents fun g hg => by
    split
    · split <;> exact hg
    · exact hg

theorem entryView (h : tl.pcsAligned) (k : Nat) (f : MatEntry) : (tl.entryView k f).pcsAligned := h

theorem entryRead (h : tl.pcsAligned) (k : Nat) (f : MatEntry) : (tl.entryRead k f).pcsAligned := h.noteRead ..

theorem runSeen (h : tl.pcsAligned) (clk k : Nat) (f : MatEntry) : (tl.runSeen clk k f).1.pcsAligned := by
  unfold Tile.runSeen
  dsimp only
  split
  · exact (h.runEntry ..).stamp ..
  · exact ((h.entryRead k f).entryView k f).runEntry clk f

end Tile.pcsAligned

namespace State.pcsAligned
variable {s : State}

theorem matPlace (h : s.pcsAligned) {k : State → Out} (hk : ∀ t, t.pcsAligned → PcOut (k t)) : PcOut (s.matPlace k) :=
  (h.waitOn _).ite (hk s h)

theorem matEnter (h : s.pcsAligned) (kind : MatKind) (rc : Rec) (acc slot : Nat) (hdr : ImageHdr) (reads : List (Nat × Nat))
    (claims : List Nat) : (s.matEnter kind rc acc slot hdr reads claims).pcsAligned := by
  have hc : (claims.foldl (fun tl n => tl.claim s.strand s.free n) (s.tile s.here)).pcsAligned :=
    (h.tile _).foldl (fun _ _ h => h.claim ..) _
  unfold State.matEnter
  exact (h.free _).setTile hc

theorem execMwld (h : s.pcsAligned) (e : BitVec 5) (k : BitVec 4) : PcOut (execMwld e k s) :=
  h.onWork fun _ h => h.rdWait fun _ h => h.matPlace fun s h => by
    dsimp only
    split
    · exact h.trap ..
    · split
      · exact (h.readError ..).next
      · refine ((h.loaded ..).trap ..).ite ?_
        split
        · exact (h.loaded ..).trap ..
        · exact ((h.loaded ..).trap ..).ite ((h.loaded ..).matEnter ..).keepTile.doneNop

theorem mmulIssue (h : s.pcsAligned) (word : Nat) (col : Bool) (e a : BitVec 5) (k : BitVec 4) : PcOut (s.mmulIssue word col e a k) :=
  h.onWork fun _ h => h.matPlace fun s h => by
    dsimp only
    split
    · exact h.trap ..
    · split
      · exact h.trap ..
      · exact (h.trap ..).ite ((h.trap ..).ite ((h.trap ..).ite ((h.trap ..).ite (h.matEnter ..).doneNop)))

theorem maccIssue (h : s.pcsAligned) (word : Nat) (kind : MatKind) (a : BitVec 5) (claim : Bool) : PcOut (s.maccIssue word kind a claim) :=
  h.onWork fun _ h => h.matPlace fun _ h => (h.trap ..).ite (h.matEnter ..).doneNop

theorem maccRecIssue (h : s.pcsAligned) (word : Nat) (kind : MatKind) (e a : BitVec 5) : PcOut (s.maccRecIssue word kind e a) :=
  h.onWork fun _ h => h.matPlace fun s h => by
    dsimp only
    generalize (match kind with | .rd _ => _ | _ => _ : Bool) = ok
    split
    · exact h.trap ..
    · split
      · exact h.trap ..
      · exact (h.trap ..).ite ((h.trap ..).ite ((h.trap ..).ite (h.matEnter ..).doneNop))

theorem noteStart (h : s.pcsAligned) (m : Nat) : (s.noteStart m).pcsAligned := h.modModule

theorem delayStart (h : s.pcsAligned) (t : Nat) (f : MatEntry) : (s.delayStart t f).pcsAligned := h.ite h.keepTile.modModule

theorem execMatrixEntryStart (h : s.pcsAligned) (t e : Nat) : PcOut (execMatrixEntryStart t e s) := by
  unfold Machine.execMatrixEntryStart
  dsimp only
  split
  · exact h.next
  · next f _ =>
    refine h.next.ite ((h.delayStart ..).next.ite ?_)
    have hr := (h.tile t).runSeen s.clk s.free f
    split
    · next tl' he =>
      rw [he] at hr
      have h1 := (h.free (s.free + 1)).setTile (t := t) (x := { tl' with matQ := tl'.matQ.map fun g => if g.id = e then { g with started := true } else g }) hr
      exact ((h1.noteStart _).ite h1).next
    · next tl' a he =>
      rw [he] at hr
      refine (((h.free _).setTile (Tile.pcsAligned.wakeMat ?_ _)).deferTo ..).next
      exact hr
    · exact (h.recordError ..).next
    · exact (h.tmError ..).next

theorem execMatrixEntryComplete (h : s.pcsAligned) (t e : Nat) : PcOut (execMatrixEntryComplete t e s) := by
  unfold Machine.execMatrixEntryComplete
  split
  · exact h.next
  · refine PcOut.ite (h.modTile fun _ hx => Tile.pcsAligned.wakeMat ?_ _).next h.next
    exact hx

/-! ## Vector register streams (R159-R163) -/

theorem streamDone (h : s.pcsAligned) (w : Who) (b : Stream) : (s.streamDone w b).pcsAligned := h.ite (h.complete ..)

theorem endStream (h : s.pcsAligned) (w : Who) (v : Nat) : (s.endStream w v).pcsAligned := by
  unfold State.endStream
  split
  · exact h
  · exact (h.modAgent _).streamDone ..

theorem endStreams (h : s.pcsAligned) (w : Who) : (s.endStreams w).pcsAligned := h.foldl (fun _ _ h => h.endStream ..) _

theorem noteElement (h : s.pcsAligned) (w : Who) (b : Stream) (k i : Nat) : (s.noteElement w b k i).pcsAligned := by
  unfold State.noteElement
  exact State.pcsAligned.ite (h.modTile fun _ h => h.noteRead ..) h

theorem takeElement (h : s.pcsAligned) (w : Who) (b : Stream) : (s.takeElement w b).2.pcsAligned := by
  unfold State.takeElement
  split
  · exact h.modAgent _
  · exact State.pcsAligned.ite ((((h.free _).noteElement ..).modAgent _).streamDone ..) (((h.free _).noteElement ..).modAgent _)

theorem consume (h : s.pcsAligned) (w : Who) (l : List (BitVec 5)) : (s.consume w l).pcsAligned := by
  induction l generalizing s with
  | nil => exact h
  | cons r l ih =>
    unfold State.consume
    refine ih ?_
    split
    · exact h.ite ((h.takeElement ..).modAgent _)
    · exact h

theorem vread (h : s.pcsAligned) {rs : List (BitVec 5)} {k : State → State → Out}
    (hk : ∀ t u, t.pcsAligned → u.pcsAligned → PcOut (k t u)) : PcOut (s.vread rs k) := by
  unfold State.vread
  split
  · exact h.trap ..
  · refine (h.rdWait fun s h => ?_).ite (hk s s h h)
    split
    · exact (h.readError ..).next
    · exact hk _ _ h (h.consume ..)

theorem vwrite {s0 : State} (h0 : s0.pcsAligned) (h : s.pcsAligned) {d : BitVec 5} {v : VReg} {k : State → Out}
    (hk : ∀ t, t.pcsAligned → PcOut (k t)) : PcOut (s0.vwrite s d v k) := by
  unfold State.vwrite
  split
  · exact hk _ (h.keepMe)
  · refine (hk s h).ite ((h0.trap ..).ite (h0.rdWait fun _ _ => h0.storeWait ?_))
    split
    · exact h0.trap ..
    · next tl e =>
      have h1 := h.setTile (t := s.here) (h.storeHere e)
      exact hk _ ((h1.keepMe.streamDone ..).ite h1.keepMe)

theorem vop (h : s.pcsAligned) (word : Nat) (rs : List (BitVec 5)) (d : BitVec 5) (f : State → VReg) : PcOut (s.vop word rs d f) :=
  h.onWork fun _ h => h.vread fun _ _ h0 h => h0.vwrite h fun _ h => h.doneNop

theorem rebind (h : s.pcsAligned) (b : Stream) : PcOut (s.rebind b) := by
  have h1 := ((h.endStream s.turn b.v).modMe (f := fun g => g.putStream b)).keepTile (t := s.here) (f := fun tl => { tl with opSeq := tl.opSeq + 1 })
  exact State.pcsAligned.doneNop ((h1.complete ..).ite h1)

theorem bind (h : s.pcsAligned) (word : Nat) (out : Bool) (e a : BitVec 5) (k : BitVec 6) : PcOut (s.bind word out e a k) :=
  h.onWork fun _ h => (h.trap ..).ite ((h.trap ..).ite ((h.rebind _).ite (h.rdWait fun _ h => h.rebind _)))

theorem execVstreamEnd (h : s.pcsAligned) (a : BitVec 5) : PcOut (execVstreamEnd a s) := h.onWork fun _ h => (h.endStream ..).doneNop

theorem execStreamElementRead (h : s.pcsAligned) (t a v : Nat) : PcOut (execStreamElementRead t a v s) := by
  unfold Machine.execStreamElementRead
  split
  · dsimp only
    split
    · exact h.next
    · refine h.next.ite ?_
      split
      · exact (h.readError ..).next
      · have h1 (w : Who) (b : Stream) (k i : Nat) := (h.free (s.free + 1)).noteElement w b k i
        exact ((((h1 ..).modAgent _).streamDone ..).ite ((h1 ..).modAgent _)).next
  · exact h.next

/-! ## Control (R112-R121, R133-R139) -/

theorem execBr (h : s.pcsAligned) (p : BitVec 3) (n g : BitVec 1) (o : BitVec 20) : PcOut (execBr p n g o s) := (h.transfer ..).ite h.doneNop

theorem endAgent (h : s.pcsAligned) : s.endAgent.pcsAligned := by
  unfold State.endAgent
  dsimp only
  split
  · refine State.pcsAligned.keepTile (State.pcsAligned.endStreams ?_ _)
    split
    · exact (h.modMe).modTile fun _ h => h.record _
    · exact h.modMe
  · exact h.modMe

theorem execExit (h : s.pcsAligned) : PcOut (execExit s) := by
  unfold Machine.execExit
  split
  · exact h.waitOn _
  · exact (h.transfer ..).ite (h.endAgent.retire _).next

theorem execFenceAcq (h : s.pcsAligned) : PcOut (execFenceAcq s) := by
  unfold Machine.execFenceAcq
  split
  · exact h.waitOn _
  · exact h.doneNop

theorem childOf_pcAligned {g : Agent} {t : W} {prio : BitVec 3} (ht : t.toNat % 4 = 0) : (childOf g t prio).pcAligned := ht

theorem execSpawn (h : s.pcsAligned) (d a : BitVec 5) (n : BitVec 3) (q : BitVec 1) : PcOut (execSpawn d a n q s) :=
  h.onWork fun s h => by
    dsimp only
    split
    · exact h.trap ..
    · next h4 =>
      have ht : (s.rx a).toNat % 4 = 0 := not_not.mp h4
      refine (h.trap ..).ite ?_
      split
      · exact h.release fun _ h => (h.modTile fun _ hx => hx.setAgent (childOf_pcAligned ht)).doneX ..
      · exact h.goto _ ht

theorem execPcRangeTrap (h : s.pcsAligned) : PcOut (execPcRangeTrap s) := (h.trap ..).ite h.next

theorem execWatchdogExpiry (h : s.pcsAligned) : PcOut (execWatchdogExpiry s) := (h.trap ..).ite h.next

theorem abandonWait (h : s.pcsAligned) (t : Nat) (a : Fin 10) : (s.abandonWait t a).pcsAligned :=
  State.pcsAligned.gldGone (h.modTile fun _ hx => hx.keepAgent) ..

theorem execDeferredCause (h : s.pcsAligned) (w : Who) : PcOut (execDeferredCause w s) := by
  unfold Machine.execDeferredCause
  dsimp only
  split
  · exact h.next.ite ((h.keepAgentOf _).takeTrap ..).next
  · exact ((h.reissue ..).ite (h.abandonWait ..)).next
  · exact (h.abandonWait ..).next
  · exact h.next

theorem execStrandChoice (h : s.pcsAligned) (t : Nat) : PcOut (execStrandChoice t s) := by
  unfold Machine.execStrandChoice
  refine h.next.ite ?_
  split
  · exact h.next
  · next a _ =>
    refine (h.setTile ?_).next
    exact (h.tile t).keepAgent (a := a) (g := { (s.tile t).cur.agents[a] with st := .run, heldFrom := s.clk })

end State.pcsAligned
end Sys2Proof.Machine
end

/-! Every step keeps the two low bits of every PC at 0 (R62): Firefly, the health of a tile, the tile's steps of the superstep. -/
section
set_option Elab.async false
namespace Sys2Proof.Machine

theorem Tile.pcsAligned.commandRead {tl : Tile} (h : tl.pcsAligned) (c : FfCmd) (k : Nat) : (tl.commandRead c k).pcsAligned := by
  unfold Tile.commandRead
  have h1 : ({ tl with ffOpen := tl.ffOpen.filter fun q => decide (q.2 ≠ c.id) } : Tile).pcsAligned := h
  exact Tile.pcsAligned.ite (h1.noteRead ..) h1

namespace State.pcsAligned
variable {s : State}

/-! ## Firefly (R308-R335) -/

theorem ffIssue (h : s.pcsAligned) (word : Nat) (kind : FfKind) (rc : Rec) (x : W) (k : BitVec 6) : PcOut (s.ffIssue word kind rc x k) :=
  h.onWork fun s h => by
    dsimp only
    split
    · exact h.trap ..
    · refine h.rdWait fun s h => h.next.ite ?_
      split
      · exact h.keepDie.keepTile.doneNop
      · exact h.next

theorem execFireflyCommandArrival (h : s.pcsAligned) (d : Nat) : PcOut (execFireflyCommandArrival d s) := by
  unfold Machine.execFireflyCommandArrival
  split
  · exact h.next
  · exact h.next.ite h.keepDie.next

theorem ffStop (h : s.pcsAligned) (d : Nat) (c : FfCmd) (code : Nat) (faddr : W) : (s.ffStop d c code faddr).pcsAligned :=
  (h.keepDie.deferTo ..).wakeDrain ..

theorem ffEnd (h : s.pcsAligned) (d : Nat) (c : FfCmd) (e : FfEnd) : (s.ffEnd d c e).pcsAligned := by
  cases e with
  | cause code a => exact h.ffStop ..
  | bad bank row => exact h.keepDie.recordError ..

theorem ffSweep (h : s.pcsAligned) (d : Nat) (c : FfCmd) (i : Fin 16) (w : FfWork) : (s.ffSweep d c i w).pcsAligned := by
  unfold State.ffSweep
  dsimp only
  refine (h.ffStop ..).ite ?_
  split
  · exact h.ffEnd ..
  · refine (h.keepDie.recordError ..).ite (State.pcsAligned.free ?_ _)
    exact h.keepDie

theorem execFireflyCommandStart (h : s.pcsAligned) (d : Nat) : PcOut (execFireflyCommandStart d s) := by
  unfold Machine.execFireflyCommandStart
  dsimp only
  split
  · exact h.next
  · next c _ _ =>
    have h1 : (if c.kind.readsIn then ({ s with free := s.free + 1 } : State).setTile c.tile ((s.tile c.tile).commandRead c s.free) else s).pcsAligned :=
      State.pcsAligned.ite ((h.free _).setTile ((h.tile _).commandRead c _)) h
    refine h.next.ite ?_
    split
    · exact (h1.keepDie.wakeDrain ..).next
    · split
      · exact (h1.keepDie.tmError ..).next
      · refine (h1.ffSweep ..).next.ite (PcOut.ite ?_ ?_)
        · split
          · next e => exact ((h1.setTile ((h1.tile _).fillRuns e)).ffStop ..).next
          · next e _ => exact ((h1.setTile ((h1.tile _).fillRuns e)).ffEnd ..).next
          · next e _ => exact ((h1.keepDie.setTile (((h1.tile _).fillRuns e).stamp ..)).wakeDrain ..).next
        · split
          · exact (h1.keepDie.ffEnd ..).next
          · exact h1.keepDie.keepDie.next

theorem execFireflyCommandComplete (h : s.pcsAligned) (d : Nat) : PcOut (execFireflyCommandComplete d s) := by
  unfold Machine.execFireflyCommandComplete
  split
  · exact h.next
  · exact h.next.ite (h.keepDie.complete ..).next

theorem ffBlockWrite (h : s.pcsAligned) {d off : Nat} {bs : List Byte} {t : State} (e : s.ffBlockWrite d off bs = some t) : t.pcsAligned := by
  unfold State.ffBlockWrite at e
  dsimp only at e
  split at e
  · cases e
  · cases e
    exact h.keepDie

theorem ffWindowWrite (h : s.pcsAligned) {d o : Nat} {bs : List Byte} {t : State} (e : s.ffWindowWrite d o bs = some t) : t.pcsAligned := by
  unfold State.ffWindowWrite at e
  dsimp only at e
  split at e
  · exact h.ffBlockWrite e
  · split at e
    · cases e
    · cases e
      exact h.keepDie

theorem execFireflyContextBlockWrite (h : s.pcsAligned) (d off : Nat) (bs : List Byte) : PcOut (execFireflyContextBlockWrite d off bs s) := by
  unfold Machine.execFireflyContextBlockWrite
  dsimp only
  refine h.next.ite (PcOut.ite ?_ (h.outs _).next)
  split
  · exact ((h.ffBlockWrite ‹_›).outs _).next
  · exact (h.outs _).next

/-! ## Regions and fences -/

theorem noteHeads (h : s.pcsAligned) (m : Nat) : (s.noteHeads m).pcsAligned := h.foldl (fun _ _ h => (h.noteRead ..).noteRead ..) _

theorem modRegion (h : s.pcsAligned) (k : Nat) (f : Region → Region) : (s.modRegion k f).pcsAligned := h.regions _

theorem emit (h : s.pcsAligned) (m code : Nat) (r : Region) (ssn cause tile data : Nat) : (s.emit m code r ssn cause tile data).pcsAligned :=
  h.report ..

theorem emitAll (h : s.pcsAligned) (r : Region) (code ssn cause tile : Nat) (data : Part → Nat) :
    (s.emitAll r code ssn cause tile data).pcsAligned := h.foldl (fun _ _ h => h.emit ..) _

theorem noteReplace (h : s.pcsAligned) (m : Nat) : (s.noteReplace m).pcsAligned := by
  unfold State.noteReplace
  exact State.pcsAligned.ite (h.modModule.report ..) h.modModule

theorem fenceTile (h : s.pcsAligned) (t : Nat) : (s.fenceTile t).pcsAligned := h.keepTile.modModule.noteReplace _

theorem fence (h : s.pcsAligned) (t : Nat) (q : Nat × Nat × Nat) : (s.fence t q).pcsAligned :=
  State.pcsAligned.ite (h.keepTile.keepDie.noteReplace _) (h.fenceTile t)

theorem fenceLeft (h : s.pcsAligned) (d : Nat) : (s.fenceLeft d).pcsAligned :=
  h.foldl (fun _ _ h => h.foldl (fun _ _ h => State.pcsAligned.ite (h.keepTile.fence ..) h) _) _

/-! ## The tile's steps of the superstep -/

theorem execSync (h : s.pcsAligned) (d a b : BitVec 5) (v : BitVec 2) (o : BitVec 3) : PcOut (execSync d a b v o s) :=
  h.onTile fun _ h => h.release fun _ h => (((h.endStreams _).modMe).retire _).next

theorem podFailed (h : s.pcsAligned) (r : Region) (t : Nat) : (s.podFailed r t).pcsAligned := h.recordError ..

theorem sendUp (h : s.pcsAligned) (t : Nat) (r : Region) (u : Up) : (s.sendUp t r u).pcsAligned :=
  h.ite (h.ite ((h.podFailed ..).ite (h.up _)))

theorem dropFf (h : s.pcsAligned) (t : Nat) : (s.dropFf t).pcsAligned := h.keepDie

theorem execTileCloseArrival (h : s.pcsAligned) (t : Nat) : PcOut (execTileCloseArrival t s) := by
  unfold Machine.execTileCloseArrival
  dsimp only
  split
  · exact h.next
  · refine h.next.ite (PcOut.ite (((State.pcsAligned.dropFf ?_ _).sendUp ..)).next (PcOut.ite (State.pcsAligned.sendUp ?_ ..).next h.next))
    all_goals exact h.keepSet

theorem execSealArrivalSend (h : s.pcsAligned) (t : Nat) : PcOut (execSealArrivalSend t s) := by
  unfold Machine.execSealArrivalSend
  dsimp only
  split
  · exact h.next
  · refine h.next.ite (State.pcsAligned.sendUp ?_ ..).next
    exact h.keepSet

theorem execDeltaArrival (h : s.pcsAligned) (t e : Nat) : PcOut (execDeltaArrival t e s) := by
  unfold Machine.execDeltaArrival
  dsimp only
  split
  · exact h.next
  · exact h.next.ite (PcOut.ite h.keepSet.next h.keepSet.next)

theorem execRelease (h : s.pcsAligned) (t : Nat) : PcOut (execRelease t s) := by
  unfold Machine.execRelease
  split
  · dsimp only
    have hl {x : Tile} {c : Prop} [Decidable c] (hx : x.pcsAligned) : (if c then (s.setTile t x).countLate t else s.setTile t x).pcsAligned :=
      ((h.setTile hx).countLate t).ite (h.setTile hx)
    refine PcOut.ite (hl ?_).next (PcOut.ite (hl ?_).next h.keepSet.next)
    · exact ⟨(h.tile t).1, (h.tile t).1⟩
    · exact h.tile t
  · exact h.keepTile.next
  · exact h.next

end State.pcsAligned

/-- A number of words as an address: its two low bits are 0. -/
theorem toNat_mul_four_mod (n : Nat) : (BitVec.ofNat 64 (n / 4 * 4)).toNat % 4 = 0 := by
  rw [BitVec.toNat_ofNat]
  omega

theorem Agent.pcAligned.atStart {g : Agent} (h : g.pcAligned) (a : Fin 10) (red : W) (clk : Nat) : (g.atStart a red clk).pcAligned := by
  unfold Agent.atStart
  split
  · dsimp only
    split
    · exact h.past
    · exact h
  · exact h

namespace Tile.pcsAligned
variable {tl : Tile}

theorem childOfRequest (bs : List Byte) : (childOfRequest bs).pcAligned := toNat_mul_four_mod _

theorem startSpawns (h : tl.pcsAligned) (clk : Nat) (l : List OutEntry) : (tl.startSpawns clk l).pcsAligned := by
  induction l generalizing tl with
  | nil => exact h
  | cons e l ih =>
    unfold Tile.startSpawns
    split
    · exact ih (h.setAgent (childOfRequest e.data).samePc)
    · exact ih h

theorem forgetAll (h : tl.pcsAligned) (k : Nat) (l : List (Nat × Nat)) : (tl.forgetAll k l).pcsAligned := h

theorem start (h : tl.pcsAligned) (clk : Nat) (shape : BitVec 48) (limit : Nat) (lk : LinkCtl) : (tl.start clk shape limit lk).pcsAligned := by
  refine startSpawns (tl := { tl with cur := { tl.cur with agents := Vector.ofFn fun a => (tl.cur.agents[a]).atStart a tl.red clk } }) ?_ clk tl.spawns
  exact ⟨fun a => by simpa using (h.agent a).atStart a tl.red clk, h.2⟩

theorem shadowed (h : tl.pcsAligned) : tl.shadowed.pcsAligned := ⟨h.1, h.1⟩

theorem undo (h : tl.pcsAligned) (k : Nat) (v : VsLine) : (tl.undo k v).pcsAligned := by
  unfold Tile.undo
  split <;> split <;> exact h

theorem poke (h : tl.pcsAligned) (a : Nat) (bs : List Byte) : (tl.poke a bs).pcsAligned := h

theorem pokeRuns (h : tl.pcsAligned) (l : List (Nat × List Byte)) : (tl.pokeRuns l).pcsAligned := h.foldl (fun _ _ h => h.poke ..) _

end Tile.pcsAligned

theorem State.pcsAligned.execStartInstant {s : State} (h : s.pcsAligned) (t : Nat) : PcOut (execStartInstant t s) := by
  unfold Machine.execStartInstant
  dsimp only
  have h1 {x : Tile} (hx : x.pcsAligned) (clk : Nat) (shape : BitVec 48) (limit : Nat) (lk : LinkCtl) :=
    (h.free (s.free + 1)).setTile (t := t) (hx.shadowed.start clk shape limit lk)
  have hx : (if (s.tile t).fresh then { (s.tile t).forgetAll s.free (s.tile t).spoiled with
      pfServe := (s.tile t).pfNext, cur := (s.tile t).cur.freeAccs AccState.unpinned } else s.tile t).pcsAligned :=
    Tile.pcsAligned.ite (h.tile t) (h.tile t)
  exact h.next.ite ((h1 hx ..).keepDie.ite (h1 hx ..)).next
end Sys2Proof.Machine
end

/-! Every step keeps the two low bits of every PC at 0 (R62): rollback, the end of a region's part, vector memory. -/
section
set_option Elab.async false
namespace Sys2Proof.Machine

theorem Tile.pcsAligned.entering {tl : Tile} (h : tl.pcsAligned) : tl.entering.pcsAligned := Tile.pcsAligned.ite ⟨h.1, h.1⟩ h

theorem Tile.pcsAligned.rollBack {tl : Tile} (h : tl.pcsAligned) (k : Nat) : (tl.rollBack k).pcsAligned := by
  have hu : (tl.vs.foldl (fun tl v => tl.undo k v) tl).pcsAligned := h.foldl (fun _ _ h => h.undo ..) _
  exact ⟨h.2, hu.2⟩

theorem Tile.cleared_pcsAligned (tl : Tile) (k : Nat) : (tl.cleared k).pcsAligned := Tile.pcsAligned_reset

namespace State.pcsAligned
variable {s : State}

/-! ## Abort and rollback (R179-R186) -/

theorem land (h : s.pcsAligned) (t : Nat) (dst : Rec) (j pa n : Nat) : (s.land t dst j pa n).pcsAligned :=
  (h.logBad ..).modTile fun _ h => (h.pokeRuns _).poisonRuns _

theorem refetch (h : s.pcsAligned) (t : Nat) : (s.refetch t).pcsAligned := by
  have hf (x : Tile) (l : List Nat) (hx : x.pcsAligned) : ({ x with bad := l } : Tile).pcsAligned := hx
  unfold State.refetch
  refine State.pcsAligned.modTile (State.pcsAligned.foldl (h.free _) (fun s e h => ?_) _) fun _ h => h.forgetAll ..
  exact State.pcsAligned.modTile (h.foldl (fun _ _ h => h.land ..) _) fun x hx => Tile.pcsAligned.forgetAll (hf x _ hx) ..

theorem loseLines (h : s.pcsAligned) (t : Nat) : (s.loseLines t).pcsAligned := by
  unfold State.loseLines
  split
  · exact h.recordError ..
  · exact h

theorem moving (h : s.pcsAligned) (f : List Flit) (x : List ColXfer) (n : Nat) :
    ({ s with flits := f, xfers := x, free := n } : State).pcsAligned := h

theorem undoAttempt (h : s.pcsAligned) (t : Nat) (r : Region) : (s.undoAttempt t r).pcsAligned := by
  have h1 : ((List.range 10).foldl (fun s a => s.gldGone t a) s).pcsAligned := h.foldl (fun _ _ h => h.gldGone ..) _
  have h2 := h1.keepDie (d := dieOfTile t) (f := fun x => { x with ff := x.ff.abort r.id fun u => r.tiles.contains u })
  unfold State.undoAttempt
  dsimp only
  exact (((h2.loseLines t).moving ..).modTile fun _ h => h.entering.rollBack _).refetch t

theorem execAbort (h : s.pcsAligned) (t : Nat) : PcOut (execAbort t s) := by
  unfold Machine.execAbort
  split
  · exact h.next
  · dsimp only
    have h1 := h.keepTile (t := t) (f := fun tl => { tl with down := tl.down.drop 1 })
    split
    iterate 5 exact ((h1.voidRecords t).undoAttempt ..).keepTile.next
    exact h1.next

theorem renewLinks (h : s.pcsAligned) (m n : Nat) : (s.renewLinks m n).pcsAligned :=
  State.pcsAligned.wires (h.foldl (fun _ _ h => h.modLink ..) _) _

theorem execTargetedSelfTestEnd (h : s.pcsAligned) (t : Nat) (pass scrub : Bool) : PcOut (execTargetedSelfTestEnd t pass scrub s) := by
  unfold Machine.execTargetedSelfTestEnd
  dsimp only
  split
  · next q rest _ _ =>
    have h1 := h.keepDie (d := dieOfTile t) (f := fun x => { x with qd := { x.qd with
      selfTests := x.qd.selfTests + 1, selfFails := if pass then x.qd.selfFails else x.qd.selfFails + 1 } })
    refine PcOut.ite ?_ (PcOut.ite ?_ ?_)
    · have h2 := h1.setTile (t := t) (x := { s.tile t with tests := rest, lost := (s.tile t).lost || !scrub || (s.tile t).stillBad q }) (h.tile t)
      refine (State.pcsAligned.ite h2.keepDie (State.pcsAligned.ite (h2.modPort ..) (State.pcsAligned.ite ?_ h2))).next
      exact h2.foldl (fun _ _ h => h.renewLinks ..) _
    · refine (State.pcsAligned.fence (h1.setTile ?_) ..).next
      exact h.tile t
    · refine (h1.setTile ?_).next
      exact h.tile t
  · exact h.next

theorem execRollbackWindowDone (h : s.pcsAligned) (t : Nat) : PcOut (execRollbackWindowDone t s) := by
  unfold Machine.execRollbackWindowDone
  dsimp only
  split
  · exact h.next
  · refine PcOut.ite (State.pcsAligned.sendUp ?_ ..).next h.next
    exact h.keepSet

/-! ## The end of a region's part -/

theorem dropContexts (h : s.pcsAligned) (region : BitVec 20) (l : List Nat) : (s.dropContexts region l).pcsAligned :=
  h.foldl (fun _ _ h => h.modDie fun x hx => by dsimp only; split <;> exact hx) _

theorem unblock (h : s.pcsAligned) (m q : Nat) : (s.unblock m q).pcsAligned := h.modModule

theorem endPart (h : s.pcsAligned) (r : Region) (p : Part) : (s.endPart r p).pcsAligned := by
  have h1 : (p.tiles.foldl (fun s t => { s with free := s.free + 4 }.setTile t ((s.tile t).cleared s.free)) s).pcsAligned :=
    h.foldl (fun _ _ h => (h.free _).setTile (Tile.cleared_pcsAligned ..)) _
  exact State.pcsAligned.regions (((h1.dropContexts ..).unblock ..).modRegion ..) _

theorem partEnd (h : s.pcsAligned) (m serial : Nat) : (s.partEnd m serial).pcsAligned := by
  unfold State.partEnd
  split
  · exact h
  · split
    · exact h
    · exact State.pcsAligned.ite (((h.endPart ..).report ..).ite ((h.endPart ..).report ..)) h

theorem execStop (h : s.pcsAligned) (t : Nat) : PcOut (execStop t s) := by
  unfold Machine.execStop
  split
  · exact h.next
  · dsimp only
    have h1 := (h.keepTile (t := t) (f := fun tl => { tl with down := tl.down.drop 1 })).voidRecords t
    split
    · exact h1.next
    · refine PcOut.ite (h1.modTile fun _ hx => ?_).next (PcOut.ite (h1.undoAttempt ..).keepTile.next h1.keepTile.next)
      exact ⟨hx.1, hx.1⟩

theorem execShapingWindow (h : s.pcsAligned) (t : Nat) : PcOut (execShapingWindow t s) :=
  h.next.ite (PcOut.ite h.keepSet.next h.keepSet.next)

theorem qcrecRead (h : s.pcsAligned) (d : Nat) : (s.qcrecRead d).2.pcsAligned := by
  unfold State.qcrecRead
  split
  · exact h
  · exact h.keepDie

theorem execTreeReconfigure (h : s.pcsAligned) (r : Nat) : PcOut (execTreeReconfigure r s) := by
  unfold Machine.execTreeReconfigure
  split
  · exact h.next
  · exact h.next.ite (h.outs _).next

/-! ## Vector operations and vector memory -/

theorem viop (h : s.pcsAligned) (word : Nat) (d a b : BitVec 5) (w : BitVec 2) (f : Nat → Nat → Nat → Nat) :
    PcOut (s.viop word d a b w f) := h.vop ..

theorem vredX (h : s.pcsAligned) (word : Nat) (d a : BitVec 5) (f : VReg → W) : PcOut (s.vredX word d a f) :=
  h.onWork fun _ h => h.vread fun _ _ _ h => h.doneX ..

theorem execVld (h : s.pcsAligned) (d a : BitVec 5) (i : BitVec 14) : PcOut (execVld d a i s) :=
  h.onWork fun _ h => h.checked fun _ h => h.readBytes fun _ _ h1 => h.vwrite h1 fun _ h => h.doneNop

theorem execVst (h : s.pcsAligned) (r a : BitVec 5) (i : BitVec 14) : PcOut (execVst r a i s) :=
  h.onWork fun _ h => h.vread fun _ _ h0 h1 => h0.checked fun _ _ => h0.storeWait (by
    split
    · exact (h1.setTile (h1.storeHere ‹_›)).doneNop
    · exact h0.trap ..)

end State.pcsAligned

theorem storeElems_pcsAligned {b : Fin 10} {q : List (Nat × Nat)} {tl t : Tile} {n : Nat} {l : List (W × Nat)} {r : Option W} (h : tl.pcsAligned)
    (e : storeElems b q tl n l = (t, r)) : t.pcsAligned := by
  induction l generalizing tl with
  | nil => cases e; exact h
  | cons p l ih =>
    unfold storeElems at e
    split at e
    · exact ih (h.store ‹_›) e
    · cases e
      exact h

namespace State.pcsAligned
variable {s0 s1 : State}

theorem elemLoad (h0 : s0.pcsAligned) (h1 : s1.pcsAligned) (d : BitVec 5) (w : Nat) (l : List W) : PcOut (s0.elemLoad s1 d w l) := by
  unfold State.elemLoad
  split
  · exact h0.trap ..
  · refine h0.rdWait fun _ _ => ?_
    split
    · exact (h0.readError ..).next
    · exact h0.vwrite (h1.loaded ..) fun _ h => h.doneNop

theorem elemStore (h0 : s0.pcsAligned) (h1 : s1.pcsAligned) (d : BitVec 5) (w : Nat) (l : List W) : PcOut (s0.elemStore s1 d w l) := by
  unfold State.elemStore
  split
  · exact h0.trap ..
  · refine h0.rdWait fun _ _ => ?_
    split
    · exact h0.waitOn _
    · refine h0.stall.ite ?_
      split
      · exact h0.trap ..
      · exact (h1.setTile (storeElems_pcsAligned (h1.tile _) ‹_›)).doneNop

end State.pcsAligned
end Sys2Proof.Machine
end

/-! Every step keeps the two low bits of every PC at 0 (R62): the root of a region, launch, region commands. -/
section
set_option Elab.async false
namespace Sys2Proof.Machine

theorem Tile.pcsAligned.publish {tl t : Tile} (h : tl.pcsAligned) {src : Nat} {q : Fin 4} {bs : List Byte} (e : tl.publish src q bs = some t) :
    t.pcsAligned := by
  unfold Tile.publish at e
  dsimp only at e
  split at e
  · cases e
  · cases e
    exact h

namespace State.pcsAligned
variable {s : State}

/-! ## The root's packets -/

theorem sendTo (h : s.pcsAligned) (r : Region) (p : Down) (t : Nat) : (s.sendTo r p t).pcsAligned :=
  h.ite ((h.podFailed ..).ite h.keepTile)

theorem sendDown (h : s.pcsAligned) (r : Region) (p : Down) : (s.sendDown r p).pcsAligned := h.foldl (fun _ _ h => h.sendTo ..) _

theorem takeUp (h : s.pcsAligned) {i kind : Nat} {u : Up} {r : Region} {t : State} (e : s.takeUp i kind = some (u, r, t)) :
    t.pcsAligned := by
  unfold State.takeUp at e
  split at e
  · cases e
  · split at e
    · cases e
    · split at e
      · cases e
      · cases e
        exact h.up _

theorem modDies (h : s.pcsAligned) (l : List Nat) {f : Die → Die} (hf : ∀ x, (f x).pcsAligned = x.pcsAligned := by intro _; rfl) :
    (s.modDies l f).pcsAligned := h.foldl (fun _ _ h => h.keepDie hf) _

theorem decideAbort (h : s.pcsAligned) (r : Region) (phase cause tile : Nat) : (s.decideAbort r phase cause tile).pcsAligned :=
  ((h.sendDown ..).modDies _).modRegion ..

theorem outrank (h : s.pcsAligned) (r : Region) (u : Up) : (s.outrank r u).pcsAligned := by
  unfold State.outrank
  dsimp only
  exact State.pcsAligned.ite ((h.modRegion ..).foldl (fun _ _ h => h.keepTile) _) h

theorem regionFault (h : s.pcsAligned) (r : Region) (cause tile : Nat) : (s.regionFault r cause tile).pcsAligned :=
  ((h.sendDown ..).modRegion ..).emitAll ..

theorem releaseAll (h : s.pcsAligned) (r : Region) (phase : Nat) (ssn : BitVec 48) : (s.releaseAll r phase ssn).pcsAligned :=
  (h.sendDown ..).modRegion ..

theorem execCloseArrival (h : s.pcsAligned) (i : Nat) : PcOut (execCloseArrival i s) := by
  unfold Machine.execCloseArrival
  split
  · exact h.next
  · next e =>
    have h1 := h.takeUp e
    exact (h1.outrank ..).next.ite ((h1.decideAbort ..).next.ite ((h1.decideAbort ..).next.ite
      ((h1.modRegion ..).next.ite ((h1.decideAbort ..).next.ite ((h1.modRegion ..).sendDown ..).next))))

/-! ## Shared commit -/

theorem applyRed (h : s.pcsAligned) (m f t : Nat) (d : Delta) : (s.applyRed m f t d).pcsAligned := by
  unfold State.applyRed
  split
  · exact h.logHbm ..
  · exact h.setHbm ..

theorem applyDeltas (h : s.pcsAligned) (r : Region) (m : Nat) : (s.applyDeltas r m).pcsAligned := by
  unfold State.applyDeltas
  extract_lets l s1
  have h1 : s1.pcsAligned := h.foldl (fun _ _ h => h.setHbm ..) _
  exact h1.foldl (fun _ _ h => h.foldl (fun _ _ h => h.applyRed ..) _) _

theorem patchTile (h : s.pcsAligned) (l : List (Nat × Delta)) (t : Nat) : (s.patchTile l t).pcsAligned :=
  h.foldl (fun _ _ h => h.foldl (fun _ _ h => h.foldl (fun _ _ h =>
    (h.land ..).modTile fun _ hx => Tile.pcsAligned.foldl hx (fun _ _ h => h.fillFe ..) _) _) _) _

theorem commitHbm (h : s.pcsAligned) (r : Region) : (s.commitHbm r).pcsAligned :=
  h.foldl (fun _ _ h => (h.applyDeltas ..).foldl (fun _ _ h => h.patchTile ..) _) _

theorem offer (h : s.pcsAligned) {src : Nat} {o : OutEntry} {t : State} (e : s.offer src o = some t) : t.pcsAligned := by
  unfold State.offer at e
  dsimp only at e
  split at e
  · split at e
    · cases e
    · cases e
      exact h.keepSet
  · obtain ⟨tl, he, rfl⟩ := Option.map_eq_some_iff.mp e
    exact h.setTile ((h.tile _).publish he)

theorem offers (h : s.pcsAligned) (src : Nat) (l : List OutEntry) : (s.offers src l).2.pcsAligned := by
  induction l generalizing s with
  | nil => exact h
  | cons o l ih =>
    unfold State.offers
    split
    · exact ih (h.offer ‹_›)
    · exact ih h

theorem commitMessages (h : s.pcsAligned) (r : Region) : (s.commitMessages r).pcsAligned := by
  unfold State.commitMessages
  extract_lets tiles s0
  have h0 : s0.pcsAligned := h.foldl (fun _ _ h => h.keepTile) _
  exact h0.foldl (fun _ _ h => (h.offers ..).keepTile) _

theorem discardHeld (h : s.pcsAligned) (r : Region) : (s.discardHeld r).pcsAligned :=
  h.foldl (fun s t h => by dsimp only; exact (h.keepSet (x := { s.tile t with cur := { (s.tile t).cur with outbox := [] }, spawns := [] })).keepDie) _

theorem applyRoute (h : s.pcsAligned) (t : Nat) (q : RouteOp) : (s.applyRoute t q).pcsAligned := by
  unfold State.applyRoute
  exact h.keepDie

theorem commitRoutes (h : s.pcsAligned) (r : Region) : (s.commitRoutes r).pcsAligned := by
  unfold State.commitRoutes
  extract_lets tiles pass
  have hp (s : State) (p : RouteOp → Bool) (h : s.pcsAligned) : (pass s p).pcsAligned :=
    h.foldl (fun _ _ h => h.foldl (fun _ _ h => h.applyRoute ..) _) _
  exact hp _ _ (hp _ _ h)

theorem scanPort (h : s.pcsAligned) (m lport : Nat) : (s.scanPort m lport).pcsAligned := by
  refine h.ite (h.foldl (fun s q h => ?_) _)
  dsimp only
  split
  · exact h.logBad ..
  · exact State.pcsAligned.ite (h.modModule.setHbm ..) h

theorem commitShared (h : s.pcsAligned) (r : Region) : (s.commitShared r).pcsAligned := by
  unfold State.commitShared
  extract_lets s1 s2 s3
  have h1 : s1.pcsAligned := ((h.commitHbm r).commitMessages r).commitRoutes r
  have h2 : s2.pcsAligned := h1.foldl (fun _ _ h => h.keepDie) _
  have h3 : s3.pcsAligned := h2.foldl (fun _ _ h => h.keepTile) _
  exact (h3.modRegion ..).foldl (fun _ _ h => h.scanPort ..) _

theorem sealCommit (h : s.pcsAligned) (r : Region) : (s.sealCommit r).pcsAligned := by
  unfold State.sealCommit
  extract_lets done hold s1 s2
  have h1 : s1.pcsAligned := (h.foldl (fun _ _ h => h.noteHeads _) _).commitShared r
  have h2 : s2.pcsAligned := (h1.discardHeld r).foldl (fun _ _ h => h.keepDie) _
  exact State.pcsAligned.ite ((h2.sendDown ..).modRegion ..) (State.pcsAligned.ite (((h1.sendDown ..).modRegion ..).emitAll ..)
    ((h1.modRegion ..).releaseAll ..))

theorem execSealArrival (h : s.pcsAligned) (i : Nat) : PcOut (execSealArrival i s) := by
  unfold Machine.execSealArrival
  split
  · exact h.next
  · next e =>
    have h1 := h.takeUp e
    exact (h1.outrank ..).next.ite ((h1.decideAbort ..).next.ite ((h1.sealCommit _).next.ite (h1.modRegion ..).next))

theorem execRestoreDone (h : s.pcsAligned) (i : Nat) : PcOut (execRestoreDone i s) := by
  unfold Machine.execRestoreDone
  split
  · exact h.next
  · next e =>
    have h1 := h.takeUp e
    exact h1.next.ite ((h1.modRegion ..).next.ite ((h1.regionFault ..).next.ite ((h1.releaseAll ..).next.ite (h1.regionFault ..).next)))

theorem declareDead (h : s.pcsAligned) (r : Region) : (s.declareDead r).pcsAligned := by
  unfold State.declareDead
  dsimp only
  split
  · exact h
  · exact h.foldl (fun _ _ h => h.modModule.report ..) _

theorem execRootTimeout (h : s.pcsAligned) (k : Nat) : PcOut (execRootTimeout k s) := by
  unfold Machine.execRootTimeout
  split
  · exact h.next
  · exact h.next.ite ((h.decideAbort ..).next.ite ((h.decideAbort ..).next.ite (((h.regionFault ..).declareDead _).next.ite h.next)))

end State.pcsAligned

/-! ## The parts of a die that hold no agent -/

namespace Die.pcsAligned
variable {x : Die} (h : x.pcsAligned)
include h
theorem ctl (v : DieCtl) : ({ x with ctl := v } : Die).pcsAligned := h
theorem mc (v : MemCtl) : ({ x with mc := v } : Die).pcsAligned := h
theorem qd (v : QuadCtl) : ({ x with qd := v } : Die).pcsAligned := h
theorem ff (v : Firefly) : ({ x with ff := v } : Die).pcsAligned := h
end Die.pcsAligned

/-! ## CSRs -/

theorem Tile.putCsr_agents (tl : Tile) (n : Nat) (v : W) : (tl.putCsr n v).cur.agents = tl.cur.agents := by
  unfold Tile.putCsr
  dsimp only
  repeat' split
  all_goals rfl

theorem Tile.pcsAligned.putCsr {tl : Tile} (h : tl.pcsAligned) (n : Nat) (v : W) : (tl.putCsr n v).pcsAligned := by
  refine ⟨?_, h.2⟩
  rw [TileVer.pcsAligned, Tile.putCsr_agents]
  exact h.1

theorem Agent.putCsr_pc (g : Agent) (n : Nat) (v : W) : (g.putCsr n v).pc = g.pc := by
  unfold Agent.putCsr
  repeat' split
  all_goals rfl

theorem Tile.pcsAligned.feedAll {tl : Tile} (h : tl.pcsAligned) : tl.feedAll.pcsAligned := h.foldl (fun _ _ h => h.feedLaunch) _

namespace State.pcsAligned
variable {s : State}

theorem putCsr (h : s.pcsAligned) (w : Who) (n : Nat) (v : W) : (s.putCsr w n v).pcsAligned := by
  unfold State.putCsr
  refine State.pcsAligned.ite (h.modAgent _ fun g => g.putCsr_pc n v) ?_
  split
  · exact h.modTile fun _ h => h.putCsr ..
  · exact h

/-! ## Launch (R388-R400) -/

theorem launchAgent_pcAligned (pc k n pa : Nat) (prio : BitVec 3) : (launchAgent pc k n pa prio).pcAligned := toNat_mul_four_mod _

theorem launchAgents_pcAligned (e : MapEntry) (k n pa prio : Nat) (a : Fin 10) : ((launchAgents e k n pa prio)[a]).pcAligned := by
  have ha : (launchAgents e k n pa prio)[a] = if a.val = 8 then launchAgent e.hpc k n pa 0 else if a.val = 9 then launchAgent e.xpc k n pa 0
      else if bitOf e.smask a.val then launchAgent e.spc k n pa (BitVec.ofNat 3 prio) else Agent.reset := by simp [launchAgents]
  rw [ha]
  repeat' split
  iterate 3 exact launchAgent_pcAligned ..
  exact Agent.pcAligned_reset

theorem launchTile (h : s.pcsAligned) (m pa : Nat) (f : RcbFields) (q : MapEntry × Nat) : (s.launchTile m pa f q).pcsAligned := by
  unfold State.launchTile
  extract_lets e old _ cur _ tl
  have hc : cur.pcsAligned := fun a => launchAgents_pcAligned _ _ _ _ _ a
  have ht : tl.pcsAligned := ⟨hc, hc⟩
  exact h.setTile ht.feedAll

theorem createCtx (h : s.pcsAligned) (region : BitVec 20) (f : RcbFields) (q : Nat × Nat) : (s.createCtx region f q).pcsAligned := by
  unfold State.createCtx
  refine h.modDie fun x hx => ?_
  split <;> exact hx

theorem openRegion (h : s.pcsAligned) (p : Part) (id : BitVec 20) (f : RcbFields) : (s.openRegion p id f).2.pcsAligned := by
  unfold State.openRegion
  split
  · exact h.modRegion ..
  · exact h

theorem launch (h : s.pcsAligned) (m : Nat) (q : Fin 16) (pa : Nat) : (s.launch m q pa).pcsAligned := by
  unfold State.launch
  extract_lets chain fs f id map tiles part s1 s2 o
  have h1 : s1.pcsAligned := h.foldl (fun _ _ h => h.launchTile ..) _
  have h2 : s2.pcsAligned := h1.ite (h1.foldl (fun _ _ h => h.createCtx ..) _)
  exact (h2.openRegion ..).modModule.report ..

theorem abortJoin (h : s.pcsAligned) (m : Nat) (id : BitVec 20) (nmod ssn0 : Nat) (f : RcbFields) : (s.abortJoin m id nmod ssn0 f).pcsAligned := by
  unfold State.abortJoin
  refine h.ite ?_
  extract_lets o
  have ho : o.2.pcsAligned := by
    unfold o
    split <;> exact h
  exact ho.up _

theorem refuseLaunch (h : s.pcsAligned) (m : Nat) (q : Fin 16) (pa bad : Nat) : (s.refuseLaunch m q pa bad).pcsAligned := by
  unfold State.refuseLaunch
  extract_lets f s1 s2
  have h1 : s1.pcsAligned := h.modModule
  have h2 : s2.pcsAligned := by
    unfold s2
    split
    · exact h1.logHbm ..
    · exact h1
  exact (h2.report ..).abortJoin ..

theorem launchTurn (h : s.pcsAligned) (m : Nat) : (s.launchTurn m).pcsAligned := by
  unfold State.launchTurn
  split
  · exact h.refuseLaunch ..
  · split
    · exact h.launch ..
    · exact h

theorem execRegionLaunch (h : s.pcsAligned) (m : Nat) : PcOut (execRegionLaunch m s) :=
  h.next.ite (((h.loseRows m).launchTurn m).next.ite (h.launchTurn m).next)

theorem stopLaunch (h : s.pcsAligned) (r : Region) (p : Part) (cause tile : Nat) : (s.stopLaunch r p cause tile).pcsAligned := by
  unfold State.stopLaunch
  extract_lets s1
  have h1 : s1.pcsAligned := h.foldl (fun _ _ h => h.voidRecords _) _
  exact ((h1.endPart ..).report ..).abortJoin ..

theorem joinFailed (h : s.pcsAligned) (r : Region) (p : Part) : (s.joinFailed r p).pcsAligned := h.foldl (fun _ _ h => h.podFailed ..) _

theorem execLaunchTilesSet (h : s.pcsAligned) (m k : Nat) : PcOut (execLaunchTilesSet m k s) := by
  unfold Machine.execLaunchTilesSet
  split
  · exact h.next
  · split
    · exact h.next
    · refine h.next.ite ?_
      split
      · exact (h.stopLaunch ..).next
      · exact h.next.ite ((h.releaseAll ..).next.ite ((h.joinFailed ..).next.ite ((h.modRegion ..).up _).next))

theorem execLaunchTimeout (h : s.pcsAligned) (m k : Nat) : PcOut (execLaunchTimeout m k s) := by
  unfold Machine.execLaunchTimeout
  split
  · exact h.next
  · split
    · exact h.next
    · refine h.next.ite ?_
      split
      · exact (h.stopLaunch ..).next
      · exact h.next

theorem stopStart (h : s.pcsAligned) (r : Region) : (s.stopStart r).pcsAligned := by
  unfold State.stopStart
  extract_lets gone left r1 rest s1
  have h1 : s1.pcsAligned := h
  exact h1.sendDown ..

theorem execLaunchJoin (h : s.pcsAligned) (i : Nat) : PcOut (execLaunchJoin i s) := by
  unfold Machine.execLaunchJoin
  split
  · exact h.next
  · next e =>
    have h1 := h.takeUp e
    exact h1.next.ite ((h1.stopStart _).next.ite (((h1.modRegion ..).stopStart _).next.ite
      (((h1.modRegion ..).releaseAll ..).next.ite (h1.modRegion ..).next)))

theorem execJoinTimeout (h : s.pcsAligned) (k : Nat) : PcOut (execJoinTimeout k s) := by
  unfold Machine.execJoinTimeout
  split
  · exact h.next
  · split
    · exact h.next.ite (h.stopStart _).next
    · exact h.next

/-! ## Region commands (R403-R406) -/

theorem noteCmd (h : s.pcsAligned) (d op : Nat) (id : BitVec 20) (refused : Bool) : (s.noteCmd d op id refused).pcsAligned :=
  h.modDie fun _ h => h.ctl _

theorem hold (h : s.pcsAligned) (d : Nat) (id : BitVec 20) : (s.hold d id).pcsAligned := by
  unfold State.hold
  split
  · exact State.pcsAligned.ite ((h.modRegion ..).noteCmd ..) (h.noteCmd ..)
  · exact h.noteCmd ..

theorem emptyRegion (h : s.pcsAligned) (r : Region) : (s.emptyRegion r).pcsAligned := by
  unfold State.emptyRegion
  extract_lets of s1
  have h1 : s1.pcsAligned := h.mapTiles (f := fun k x => { x with inReg := x.inReg && !of (k, x) }) fun _ _ hx => hx
  exact h1.dropContexts ..

theorem freeRegion (h : s.pcsAligned) (r : Region) : (s.freeRegion r).pcsAligned := (h.emptyRegion r).modRegion ..

theorem freeCmd (h : s.pcsAligned) (d : Nat) (id : BitVec 20) : (s.freeCmd d id).pcsAligned := by
  unfold State.freeCmd
  split
  · exact State.pcsAligned.ite ((h.freeRegion _).noteCmd ..) (h.noteCmd ..)
  · exact h.noteCmd ..

theorem discard (h : s.pcsAligned) (d : Nat) (id : BitVec 20) : (s.discard d id).pcsAligned := by
  unfold State.discard
  split
  · next r _ =>
    extract_lets s1 s2 s3
    have h2 : s2.pcsAligned := (h.freeRegion r).foldl (fun _ _ h => h.unblock ..) _
    have h3 : s3.pcsAligned := h2.regions _
    exact State.pcsAligned.ite ((h3.emitAll ..).noteCmd ..) (h.noteCmd ..)
  · exact h.noteCmd ..

theorem resumeTile (h : s.pcsAligned) (r : Region) (instant : Nat) (ssn : BitVec 48) (slot : Option Nat) (t : Nat) :
    (s.resumeTile r instant ssn slot t).pcsAligned := by
  unfold State.resumeTile
  exact h.ite (h.keepTile.sendTo ..)

theorem resume (h : s.pcsAligned) (d : Nat) (id : BitVec 20) : (s.resume d id).pcsAligned := by
  unfold State.resume
  extract_lets m pa map s0 tiles first
  split
  · extract_lets may instant s1 s2 s3 r1 s4
    have h0 : s0.pcsAligned := by
      unfold s0
      exact (h.noteRead ..).noteRead ..
    have h1 : s1.pcsAligned := by
      refine h0.foldl (fun _ _ h => h.modTile fun x hx => ?_) _
      split <;> exact hx
    have h2 : s2.pcsAligned := h1.foldl (fun _ _ h => h.resumeTile ..) _
    have h3 : s3.pcsAligned := h2.foldl (fun _ _ h => h.foldl (fun _ _ h => h.resumeTile ..) _) _
    have h4 : s4.pcsAligned := h3.modRegion ..
    exact State.pcsAligned.ite ((h4.emitAll ..).noteCmd ..) (h0.noteCmd ..)
  · exact h.noteCmd ..

theorem rctlGo (h : s.pcsAligned) (d op : Nat) (id : BitVec 20) : (s.rctlGo d op id).pcsAligned := by
  unfold State.rctlGo
  exact (h.hold ..).ite ((h.freeCmd ..).ite ((h.resume ..).ite ((h.discard ..).ite (h.modDie fun _ h => h.ctl _))))

end State.pcsAligned
end Sys2Proof.Machine
end

/-! Every step keeps the two low bits of every PC at 0 (R62): images, health and power, resets and boot. -/
section
set_option Elab.async false
namespace Sys2Proof.Machine

/-! ## Contexts of agents (R410) -/

theorem Agent.pcAligned.ite {c : Prop} [Decidable c] {x y : Agent} (hx : x.pcAligned) (hy : y.pcAligned) : (if c then x else y).pcAligned := by
  split
  · exact hx
  · exact hy

theorem Agent.pcAligned.setCtxWord {g : Agent} (hg : g.pcAligned) (a : Fin 10) (o v : Nat) : (g.setCtxWord a o v).pcAligned := by
  have hp (l : List Nat) : (l.foldl (fun g i => g.wp (BitVec.ofNat 3 i) (bitOf v i)) g).pcAligned :=
    List.foldlRecOn (motive := Agent.pcAligned) l _ hg fun _ h _ _ => h.wp ..
  unfold Agent.setCtxWord
  dsimp only
  exact ite (toNat_mul_four_mod _) (ite hg.samePc (ite (ite hg.samePc hg) (ite (ite (ite hg.samePc hg.samePc) hg)
    (ite (ite (ite hg.samePc hg.samePc) hg) (ite (hg.wx ..) (ite (hp _) (ite hg.samePc (ite (ite hg (hg.samePc (g.putCsr_pc ..))) hg))))))))

/-- The context of an agent that the words of an image build. -/
theorem Agent.foldl_setCtxWord_pcAligned (f : Nat → Nat) (clk : Nat) (a : Fin 10) (l : List Nat) :
    (l.foldl (fun (g : Agent) i => g.setCtxWord a (8 * i) (f i)) { Agent.reset with heldFrom := clk }).pcAligned :=
  List.foldlRecOn (motive := Agent.pcAligned) l _ Agent.pcAligned_reset.samePc fun _ h _ _ => h.setCtxWord ..

theorem State.loadAgent_pcAligned (s : State) (m pa : Nat) (a : Fin 10) : (s.loadAgent m pa a).pcAligned := by
  have hg := Agent.foldl_setCtxWord_pcAligned (fun i => s.imgNat m (pa + 0x1000 + 0x1000 * a.val + 8 * i) 8) s.clk a (List.range 512)
  unfold State.loadAgent
  generalize List.foldl _ _ _ = g at hg ⊢
  dsimp only
  split
  · exact hg.samePc
  · exact hg

theorem State.loadVer_pcsAligned (s : State) (m pa : Nat) : (s.loadVer m pa).pcsAligned := fun a => by
  have ha : (s.loadVer m pa).agents[a] = s.loadAgent m pa a := by simp [State.loadVer]
  rw [ha]
  exact s.loadAgent_pcAligned m pa a

theorem bootCore_pcAligned (image : List Byte) (clk : Nat) : (bootCore image clk).agent.pcAligned := Agent.pcAligned_reset

theorem Die.reset_pcsAligned : Die.reset.pcsAligned := fun c => by
  show (Die.reset.svc[c]).agent.pcAligned
  rw [show Die.reset.svc[c] = SvcCore.reset from Vector.getElem_replicate c.isLt]
  exact Agent.pcAligned_reset

namespace State.pcsAligned
variable {s : State}

theorem tilesTo (h : s.pcsAligned) {l : List (Nat × Tile)} (hl : s.tiles.Forall₂ (fun p q => q.1 = p.1 ∧ (p.2.pcsAligned → q.2.pcsAligned)) l) :
    ({ s with tiles := l } : State).pcsAligned := State.pcsAligned.of_units (fun u => kvGet_forall₂ (P := Tile.pcsAligned) hl u (h.tile u)) h.2

theorem diesTo (h : s.pcsAligned) {l : List (Nat × Die)} (hl : s.dies.Forall₂ (fun p q => q.1 = p.1 ∧ (p.2.pcsAligned → q.2.pcsAligned)) l) :
    ({ s with dies := l } : State).pcsAligned := ⟨h.1, fun d => kvGet_forall₂ (P := Die.pcsAligned) hl d (h.die d)⟩

/-! ## Context images (R407-R410) -/

theorem saveImage (h : s.pcsAligned) (m t pa : Nat) : (s.saveImage m t pa).pcsAligned := by
  unfold State.saveImage
  extract_lets s1 s2
  have h1 : s1.pcsAligned := (h.setHbm ..).setHbm ..
  have h2 : s2.pcsAligned := h1.foldl (fun _ _ h => h.setHbm ..) _
  exact h2.modModule

theorem setCopy (h : s.pcsAligned) (k : Option ImageCopy) : (s.setCopy k).pcsAligned := by
  unfold State.setCopy
  split
  · exact h.modDie fun x hx => hx.setSvc (hx _)
  · exact h

theorem execCtxsv (h : s.pcsAligned) (a b : BitVec 5) : PcOut (execCtxsv a b s) := h.onService fun s h => by
  dsimp only
  split
  · exact ((h.setCopy _).saveImage ..).doneNop
  · split
    · exact h.trap ..
    · exact (h.trap ..).ite (h.setCopy _).next

theorem loadImage (h : s.pcsAligned) (m t pa : Nat) : (s.loadImage m t pa).pcsAligned := by
  unfold State.loadImage
  extract_lets old ver id own pinned _ tl
  have hc : ver.pcsAligned := s.loadVer_pcsAligned m pa
  have ht : tl.pcsAligned := ⟨hc, hc⟩
  exact (h.free _).setTile ht

theorem execCtxld (h : s.pcsAligned) (a b : BitVec 5) : PcOut (execCtxld a b s) := h.onService fun s h => by
  dsimp only
  split
  · exact (((h.setCopy _).logBad ..).loadImage ..).doneNop
  · split
    · exact h.trap ..
    · exact (h.trap ..).ite (((h.noteRead ..).trap ..).ite ((h.noteRead ..).setCopy _).next)

/-! ## Health (R416-R419) -/

theorem upset (h : s.pcsAligned) (e : Upset) : (s.upset e).pcsAligned := by
  cases e with
  | corrected d hbm => exact h.modDie fun _ h => h.ctl _
  | tm | acc | slot | vs | mailbox | l1 => exact h.keepTile
  | firefly | llt => exact h.keepDie
  | hbm => exact h.modModule
  | core d c w => exact h.modDie fun x hx => hx.setSvc (hx c)

theorem serve (h : s.pcsAligned) (t : Nat) (p : Nat × Nat × Nat → Bool) : (s.serve t p).pcsAligned := h.keepTile

theorem tspareWrite (h : s.pcsAligned) (d : Nat) (n : Fin 4) (v : W) : (s.tspareWrite d n v).pcsAligned := by
  unfold State.tspareWrite
  extract_lets s1
  have h1 : s1.pcsAligned := h.modDie fun _ h => h.ctl _
  exact State.pcsAligned.ite h1.keepTile h1

theorem rsprowWrite (h : s.pcsAligned) (d : Nat) (v : W) : (s.rsprowWrite d v).pcsAligned := by
  unfold State.rsprowWrite
  extract_lets sel s1 t bank row
  have h1 : s1.pcsAligned := h.modDie fun _ h => h.ctl _
  exact State.pcsAligned.ite (h1.serve ..).keepTile h1

theorem ffspareWrite (h : s.pcsAligned) (d : Nat) (n : Fin 4) (v : W) : (s.ffspareWrite d n v).pcsAligned := by
  unfold State.ffspareWrite
  extract_lets s1 row
  have h1 : s1.pcsAligned := h.modDie fun _ h => h.ff _
  refine State.pcsAligned.ite (State.pcsAligned.modDie ?_ fun _ h => h.ff _) h1
  exact h1.foldl (fun _ _ h => h.ite (h.serve ..)) _

theorem lfenceWrite (h : s.pcsAligned) (m : Nat) (v : W) : (s.lfenceWrite m v).pcsAligned := by
  have h1 := h.modModule (m := m) (f := fun x => { x with lfence := BitVec.ofNat 40 (v.fld 0 40) })
  exact h1.tilesTo (forall₂_map (fun _ => ⟨rfl, id⟩) _)

theorem spareWrite (h : s.pcsAligned) {d n : Nat} {v : W} {t : State} (e : s.spareWrite d n v = some t) : t.pcsAligned := by
  unfold State.spareWrite at e
  dsimp only at e
  split at e
  · split at e
    · obtain rfl := Option.some.inj e; exact ((h.tspareWrite ..).fenceLeft _).noteReplace _
    · cases e
  · split at e
    · split at e
      · obtain rfl := Option.some.inj e; exact ((h.rsprowWrite ..).fenceLeft _).noteReplace _
      · cases e
    · split at e
      · split at e
        · obtain rfl := Option.some.inj e; exact (h.lfenceWrite ..).noteReplace _
        · cases e
      · split at e
        · obtain rfl := Option.some.inj e; exact ((h.ffspareWrite ..).fenceLeft _).noteReplace _
        · cases e

theorem execSpareControlWrite (h : s.pcsAligned) (d : Nat) (csr : BitVec 12) (v : W) : PcOut (execSpareControlWrite d csr v s) := by
  unfold Machine.execSpareControlWrite
  split
  · exact (h.spareWrite ‹_›).next
  · exact (h.outs _).next

theorem repaired (h : s.pcsAligned) (d : Nat) (q : Nat × Nat × Nat) : (s.repaired d q).pcsAligned := h.modModule

theorem execPprDone (h : s.pcsAligned) (d : Nat) : PcOut (execPprDone d s) := by
  unfold Machine.execPprDone
  dsimp only
  exact h.next.ite (State.pcsAligned.noteReplace (State.pcsAligned.ite h.keepDie (h.keepDie.repaired ..)) _).next

/-! ## Power (R420-R423), the thermal trip, pod time -/

theorem pcapWrite (h : s.pcsAligned) (m v : Nat) : (s.pcapWrite m v).pcsAligned := by
  unfold State.pcapWrite
  exact h.modModule

theorem pslewWrite (h : s.pcsAligned) (m v : Nat) : (s.pslewWrite m v).pcsAligned := by
  unfold State.pslewWrite
  exact h.modModule.foldl (fun _ _ h => h.modDie fun _ h => h.qd _) _

theorem throtWrite (h : s.pcsAligned) (d v : Nat) : (s.throtWrite d v).pcsAligned := h.modDie fun _ h => h.ctl _

theorem execPowerCapInterval (h : s.pcsAligned) (m : Nat) (pwr : BitVec 16) (scale : Nat × Nat × Nat) (temps : List (Nat × Nat × Nat)) :
    PcOut (execPowerCapInterval m pwr scale temps s) := by
  unfold Machine.execPowerCapInterval
  extract_lets s1 hot s2
  have h1 : s1.pcsAligned := h.foldl (fun _ _ h => h.modDie fun _ h => h.ctl _) _
  have h2 : s2.pcsAligned := h1.tilesTo (forall₂_map (fun q => by split <;> exact ⟨rfl, id⟩) _)
  exact h2.modModule.next

theorem execThermalTrip (h : s.pcsAligned) (m : Nat) : PcOut (execThermalTrip m s) := by
  unfold Machine.execThermalTrip
  extract_lets stop s1 s2
  have hstop (g : Agent) (hg : g.pcAligned) : (stop g).pcAligned := by
    dsimp only [stop]
    split <;> exact hg
  have h1 : s1.pcsAligned := by
    refine h.tilesTo (forall₂_map (fun q => ?_) _)
    split
    · exact ⟨rfl, fun hq => hq.mapAgents hstop⟩
    · exact ⟨rfl, id⟩
  have h2 : s2.pcsAligned := by
    refine h1.diesTo (forall₂_map (fun q => ?_) _)
    split
    · exact ⟨rfl, fun hq c => by simpa using hstop _ (hq c)⟩
    · exact ⟨rfl, id⟩
  exact h.next.ite h2.modModule.next

theorem execIeee1588Sync (h : s.pcsAligned) (m : Nat) (ofs : BitVec 16) (adj : Option Int) : PcOut (execIeee1588Sync m ofs adj s) := by
  unfold Machine.execIeee1588Sync
  split
  · extract_lets s1
    have h1 : s1.pcsAligned := h.modModule
    refine (h1.tilesTo (forall₂_map (fun q => ?_) _)).next
    split <;> exact ⟨rfl, id⟩
  · exact h.modModule.next

/-! ## Resets and boot (R30, R384, R426) -/

theorem resetModule (h : s.pcsAligned) (m : Nat) : (s.resetModule m).pcsAligned := by
  unfold State.resetModule
  extract_lets mine x _ fresh s1
  have ht : s.tiles.Forall₂ (fun p q => q.1 = p.1 ∧ (p.2.pcsAligned → q.2.pcsAligned)) s1.tiles := by
    refine forall₂_zipIdx_map (fun q k => ?_) s.tiles 0
    split
    · exact ⟨rfl, fun _ => Tile.cleared_pcsAligned q.2 (s.free + 4 * k)⟩
    · exact ⟨rfl, id⟩
  have hd (d : Nat) : (s1.die d).pcsAligned :=
    kvGet_filter_prop (P := Die.pcsAligned) Die.reset_pcsAligned (fun q => decide (modOfDie q.1 ≠ m)) (fun _ _ _ => rfl) s.dies d (h.die d)
  exact State.pcsAligned.of_units (fun u => kvGet_forall₂ (P := Tile.pcsAligned) ht u (h.tile u)) hd

theorem execPowerOn (h : s.pcsAligned) (m : Nat) : PcOut (execPowerOn m s) := by
  unfold Machine.execPowerOn
  extract_lets s1
  have h1 : s1.pcsAligned := h.modModule
  exact ((h1.modDies _).resetModule m).next

theorem bootFrom (h : s.pcsAligned) (m : Nat) (image : List Byte) (b : Bool) : (s.bootFrom m image b).pcsAligned := by
  unfold State.bootFrom
  extract_lets n core
  refine State.pcsAligned.modModule (h.foldl (fun _ _ h => h.modDie fun x _ c => ?_) _)
  show (((Vector.replicate 2 core)[c]).agent).pcAligned
  rw [show (Vector.replicate 2 core)[c] = core from Vector.getElem_replicate c.isLt]
  exact bootCore_pcAligned ..

theorem execSecureBoot (h : s.pcsAligned) (m : Nat) : PcOut (execSecureBoot m s) :=
  h.next.ite ((h.bootFrom ..).next.ite ((h.bootFrom ..).next.ite h.modModule.next))

theorem attctlWrite (h : s.pcsAligned) (m : Nat) (v : W) : (s.attctlWrite m v).pcsAligned := by
  unfold State.attctlWrite
  exact h.modModule

theorem execAttestationDone (h : s.pcsAligned) (m : Nat) : PcOut (execAttestationDone m s) := by
  unfold Machine.execAttestationDone
  dsimp only
  exact h.next.ite (State.pcsAligned.modModule (h.ite ((h.noteRead ..).setHbm ..))).next

theorem sideband (h : s.pcsAligned) (m : Nat) (bs : List Byte) : PcOut (s.sideband m bs) := (h.outs _).next

theorem execSbUnknownCommand (h : s.pcsAligned) (m : Nat) (code : BitVec 8) : PcOut (execSbUnknownCommand m code s) :=
  h.next.ite (h.outs _).next

/-! ## CSRs of a die -/

theorem readDieCsr (h : s.pcsAligned) (d n : Nat) : (s.readDieCsr d n).2.pcsAligned := by
  unfold State.readDieCsr
  split
  · exact h.qcrecRead d
  · split
    · exact h.physdRead d
    · split
      · exact h.hbmerrRead d
      · exact h

end State.pcsAligned

theorem Die.pcsAligned.ite {x y : Die} {c : Prop} [Decidable c] (hx : x.pcsAligned) (hy : y.pcsAligned) : (if c then x else y).pcsAligned := by
  split
  · exact hx
  · exact hy

theorem Die.pcsAligned.lk {x : Die} (h : x.pcsAligned) (v : LinkCtl) : ({ x with lk := v } : Die).pcsAligned := h

theorem Die.pcsAligned.putCsr {x : Die} (h : x.pcsAligned) (n : Nat) (v : W) : (x.putCsr n v).pcsAligned := by
  unfold Die.putCsr
  exact Die.pcsAligned.ite (h.qd _) (Die.pcsAligned.ite (h.mc _) (Die.pcsAligned.ite (h.ff _) (Die.pcsAligned.ite (h.lk _) (Die.pcsAligned.ite (h.lk _)
    (Die.pcsAligned.ite (h.lk _) (Die.pcsAligned.ite (h.mc _) (Die.pcsAligned.ite (h.mc _) (Die.pcsAligned.ite (h.mc _) (Die.pcsAligned.ite (h.ctl _)
      (Die.pcsAligned.ite (h.ctl _) h))))))))))

namespace State.pcsAligned
variable {s : State}

theorem spareCsr (h : s.pcsAligned) (d n : Nat) (v : W) : (s.spareCsr d n v).pcsAligned := by
  unfold State.spareCsr
  cases e : s.spareWrite d n v with
  | none => exact h.outs _
  | some t => exact h.spareWrite e

theorem writeDieCsr (h : s.pcsAligned) (d n : Nat) (v : W) : (s.writeDieCsr d n v).pcsAligned := by
  unfold State.writeDieCsr
  dsimp only
  exact (h.spareCsr ..).ite ((h.fqbaseWrite ..).ite ((h.physdWrite ..).ite ((h.ilmapWrite ..).ite ((h.migctlWrite ..).ite
    ((h.pprctlWrite ..).ite (State.pcsAligned.ite ((h.rctlGo ..).ite (h.modDie fun _ h => h.ctl _)) ((h.pcapWrite ..).ite
      ((h.pslewWrite ..).ite ((h.throtWrite ..).ite (h.modModule.ite ((h.attctlWrite ..).ite
        (h.modDie fun _ h => Die.pcsAligned.putCsr h n v))))))))))))

theorem execCsrr (h : s.pcsAligned) (d : BitVec 5) (n : BitVec 12) : PcOut (execCsrr d n s) := by
  unfold Machine.execCsrr
  dsimp only
  refine PcOut.ite ?_ ?_
  · split
    · exact h.trap ..
    · exact (h.trap ..).ite ((h.readDieCsr ..).doneX ..)
  · split
    · exact h.doneX ..
    · exact h.trap ..

theorem execCsrw (h : s.pcsAligned) (b : BitVec 5) (n : BitVec 12) : PcOut (execCsrw b n s) := by
  unfold Machine.execCsrw
  dsimp only
  refine PcOut.ite ?_ ?_
  · split
    · exact h.trap ..
    · exact (h.trap ..).ite ((h.trap ..).ite (h.writeDieCsr ..).doneNop)
  · split
    · exact h.trap ..
    · exact (h.trap ..).ite (h.putCsr ..).doneNop

end State.pcsAligned
end Sys2Proof.Machine
end

/-! Every step keeps the two low bits of every PC at 0 (R62): windows, host operations, links. -/
section
set_option Elab.async false
namespace Sys2Proof.Machine

/-! ## Windows (R26-R29) -/

namespace Tile.pcsAligned
variable {tl : Tile}

theorem setFeWord (h : tl.pcsAligned) (w v : Nat) : (tl.setFeWord w v).pcsAligned := h.foldl (fun _ _ h => h.setFe ..) _

theorem putAccWord (h : tl.pcsAligned) (o : Nat) (bs : List Byte) : (tl.putAccWord o bs).pcsAligned :=
  h

theorem putMbx (h : tl.pcsAligned) (o : Nat) (bs : List Byte) : (tl.putMbx o bs).pcsAligned := h

end Tile.pcsAligned

namespace State.pcsAligned
variable {s : State}

theorem putWindowCsr (h : s.pcsAligned) (t : Nat) (a : Fin 10) (n : Nat) (v : W) : (s.putWindowCsr t a n v).pcsAligned := by
  unfold State.putWindowCsr
  split
  · exact h.ite (h.putCsr ..)
  · exact h

theorem putTileWord (h : s.pcsAligned) (t o : Nat) (bs : List Byte) : (s.putTileWord t o bs).pcsAligned := by
  unfold State.putTileWord
  dsimp only
  refine State.pcsAligned.ite (h.modTile fun _ h => h.setAgent ((h.agent _).setCtxWord ..)) (State.pcsAligned.ite h.keepTile (State.pcsAligned.ite ?_ ((h.putWindowCsr ..).ite h)))
  exact h.modTile fun _ h => h.setFeWord ..

theorem putTileBytes (h : s.pcsAligned) (t o : Nat) (bs : List Byte) : (s.putTileBytes t o bs).pcsAligned := by
  unfold State.putTileBytes
  refine State.pcsAligned.ite ?_ (State.pcsAligned.ite ?_ (State.pcsAligned.ite ?_ ?_))
  · exact h.modTile fun _ h => h.poke ..
  · exact h.modTile fun _ h => h.putAccWord ..
  · exact h.modTile fun _ h => h.putMbx ..
  · exact h.foldl (fun _ _ h => h.putTileWord ..) _

theorem dieWord (h : s.pcsAligned) (d o : Nat) : (s.dieWord d o).2.pcsAligned := by
  unfold State.dieWord
  dsimp only
  split
  · split
    · exact h.readDieCsr ..
    · exact h
  · split
    · exact h
    · split
      · exact h
      · split
        · exact h
        · split
          · exact h.free _
          · exact h

theorem putDieWord (h : s.pcsAligned) (d o : Nat) (bs : List Byte) : (s.putDieWord d o bs).pcsAligned := by
  unfold State.putDieWord
  dsimp only
  exact State.pcsAligned.ite ((h.writeDieCsr ..).ite h) (State.pcsAligned.ite (h.modDie fun _ h => h.lk _) h)

theorem onchipRead (h : s.pcsAligned) {m addr n : Nat} {r : List Byte × State} (e : s.onchipRead m addr n = some r) : r.2.pcsAligned := by
  unfold State.onchipRead at e
  dsimp only at e
  split at e
  · cases e
  · split at e
    · obtain rfl := Option.some.inj e
      exact h.free _
    · split at e
      · split at e
        · cases e
        · obtain rfl := Option.some.inj e
          exact List.foldlRecOn (motive := fun q : List Byte × State => q.2.pcsAligned) _ _ h fun q hq p _ => hq.dieWord ..
      · cases e

theorem onchipWrite (h : s.pcsAligned) {m addr : Nat} {bs : List Byte} {t : State} (e : s.onchipWrite m addr bs = some t) :
    t.pcsAligned := by
  unfold State.onchipWrite at e
  dsimp only at e
  split at e
  · cases e
  · split at e
    · split at e
      · cases e
      · obtain rfl := Option.some.inj e
        exact h.putTileBytes ..
    · split at e
      · split at e
        · exact h.ffWindowWrite e
        · split at e
          · cases e
          · obtain rfl := Option.some.inj e
            exact h.foldl (fun _ _ h => h.putDieWord ..) _
      · cases e

theorem execWindowRead (h : s.pcsAligned) (m addr len : Nat) : PcOut (execWindowRead m addr len s) := by
  unfold Machine.execWindowRead
  refine h.next.ite ?_
  split
  · exact ((h.onchipRead ‹_›).outs _).next
  · exact (h.outs _).next

theorem execWindowWrite (h : s.pcsAligned) (m addr : Nat) (bs : List Byte) : PcOut (execWindowWrite m addr bs s) := by
  unfold Machine.execWindowWrite
  refine h.next.ite ?_
  split
  · exact ((h.onchipWrite ‹_›).outs _).next
  · exact (h.outs _).next

theorem execWindowSemaphoreWrite (h : s.pcsAligned) (t k : Nat) (v : W) : PcOut (execWindowSemaphoreWrite t k v s) :=
  h.next.ite ((h.outs _).next.ite (h.keepTile.outs _).next)

/-! ## Host operations (R412-R414) -/

theorem answer (h : s.pcsAligned) (d tag status : Nat) (data : List Byte) : PcOut (s.answer d tag status data) := (h.sendOp ..).next

theorem execHostWrite (h : s.pcsAligned) (d : Nat) (onchip : Bool) (addr tag : Nat) (bs : List Byte) :
    PcOut (execHostWrite d onchip addr tag bs s) := by
  unfold Machine.execHostWrite
  dsimp only
  refine h.next.ite ((h.answer ..).ite (PcOut.ite ((h.answer ..).ite ?_) (((h.setHbm ..).answer ..).ite (h.answer ..))))
  split
  · exact (h.onchipWrite ‹_›).answer ..
  · exact h.answer ..

theorem execHostRead (h : s.pcsAligned) (d : Nat) (onchip : Bool) (addr len tag : Nat) : PcOut (execHostRead d onchip addr len tag s) := by
  unfold Machine.execHostRead
  dsimp only
  refine h.next.ite ((h.answer ..).ite (PcOut.ite ((h.answer ..).ite ?_) ((((h.free _).logBad ..).answer ..).ite (h.answer ..))))
  split
  · exact (h.onchipRead ‹_›).answer ..
  · exact h.answer ..

theorem execHostLaunch (h : s.pcsAligned) (d queue addr tag : Nat) : PcOut (execHostLaunch d queue addr tag s) :=
  h.next.ite ((h.answer ..).ite ((h.answer ..).ite (h.modModule.answer ..)))

theorem execMalformedOperation (h : s.pcsAligned) (d : PortId) (op tag : Nat) : PcOut (execMalformedOperation d op tag s) :=
  PcOut.ite (h.sendOp ..).next h.next

/-! ## Links (R353-R357) -/

theorem failOn (h : s.pcsAligned) (m : Nat) (port : Bool) (n t : Nat) : (s.failOn m port n t).pcsAligned := by
  unfold State.failOn
  extract_lets tl cols xs offers peers tl1
  have h1 : (s.setTile t tl1).pcsAligned := h.setTile (h.tile t)
  exact h.ite ((h1.recordError ..).ite (h1.recordLink ..))

theorem failLink (h : s.pcsAligned) (m : Nat) (port : Bool) (n : Nat) : (s.failLink m port n).pcsAligned := by
  unfold State.failLink
  extract_lets count s1 lost ends _ s2
  have h1 : s1.pcsAligned := h.foldl (fun _ _ h => h.modDie fun _ h => h.lk _) _
  have h2 : (ends.foldl (fun s q => s.modLink q.1 q.2 fun p => { p with up := false }) s1).pcsAligned := h1.foldl (fun _ _ h => h.modLink ..) _
  have h3 : s2.pcsAligned := h2
  exact h3.foldl (fun _ _ h => h.failOn ..) _

theorem failPort (h : s.pcsAligned) (d : Nat) (host : Bool) : (s.failPort d host).pcsAligned := by
  unfold State.failPort
  exact State.pcsAligned.ite (h.modPort ..) (h.failLink ..)

theorem execLinkFailure (h : s.pcsAligned) (m : Nat) (port : Bool) (n : Nat) : PcOut (execLinkFailure m port n s) :=
  PcOut.ite (h.next.ite (h.failPort ..).next) (h.next.ite (h.failLink ..).next)

theorem execLinkTrained (h : s.pcsAligned) (d : PortId) : PcOut (execLinkTrained d s) := h.next.ite (h.modPort ..).next

theorem applyOp (h : s.pcsAligned) (d : Nat) (host : Bool) (o : OclysOp) : PcOut (s.applyOp d host o) :=
  (h.execMalformedOperation ..).ite ((h.execHostWrite ..).ite ((h.execHostRead ..).ite (h.execHostLaunch ..)))

theorem applyOps (h : s.pcsAligned) (d : Nat) (host : Bool) (l : List OclysOp) : PcOut (s.applyOps d host l) := by
  induction l generalizing s with
  | nil => exact h.next
  | cons o l ih =>
    have ho := h.applyOp d host o
    unfold State.applyOps
    generalize s.applyOp d host o = r at ho ⊢
    obtain ⟨ht⟩ := ho
    exact ih ht

theorem deliver (h : s.pcsAligned) (d : Nat) (host : Bool) (payload : List Byte) : PcOut (s.deliver d host payload) :=
  (h.applyOps ..).ite (h.outs _).next

theorem signal (h : s.pcsAligned) (d : Nat) (host : Bool) (kind : Nat) (seq : BitVec 32) : (s.signal d host kind seq).pcsAligned :=
  h.putFrame ..

theorem frameIn (h : s.pcsAligned) (d : Nat) (host : Bool) (seq ack : BitVec 32) (good : Bool) (payload : List Byte) :
    PcOut (s.frameIn d host seq ack good payload) := by
  unfold State.frameIn
  dsimp only
  refine PcOut.ite (h.signal ..).next (PcOut.ite ?_ ((h.modPort ..).signal ..).next)
  have hd := (h.modPort d host fun p => { p.acked ack with expected := p.expected + 1 }).deliver d host payload
  generalize (s.modPort d host fun p => { p.acked ack with expected := p.expected + 1 }).deliver d host payload = r at hd ⊢
  obtain ⟨ht⟩ := hd
  exact (ht.signal ..).next

theorem takeWire (h : s.pcsAligned) {d : Nat} {k : Fin 4} {q : Wire × State} (e : s.takeWire d k = some q) : q.2.pcsAligned := by
  unfold State.takeWire at e
  split at e
  · cases e
  · obtain ⟨w, _, rfl⟩ := Option.map_eq_some_iff.mp e
    exact h.wires _

theorem linkIn (h : s.pcsAligned) (d : Nat) (k : Fin 4) (seq ack : BitVec 32) (good : Bool) : (s.linkIn d k seq ack good).pcsAligned :=
  (h.putWire ..).ite (((h.modLink ..).putWire ..).ite ((h.modLink ..).putWire ..))

theorem linkResend (h : s.pcsAligned) (d : Nat) (k : Fin 4) : (s.linkResend d k).pcsAligned := by
  unfold State.linkResend
  extract_lets p s1
  have h1 : s1.pcsAligned := h.modLink ..
  exact (h.failLink ..).ite (h1.foldl (fun _ _ h => h.putWire ..) _)

theorem wireIn (h : s.pcsAligned) (w : Wire) : (s.wireIn w).pcsAligned :=
  (h.linkIn ..).ite ((h.modLink ..).ite ((h.modLink ..).linkResend ..))

theorem linkFrames (h : s.pcsAligned) (d : Nat) (k : Fin 4) : (s.linkFrames d k).pcsAligned := by
  refine h.foldl (fun s _ h => ?_) _
  split
  · exact (h.takeWire ‹_›).wireIn _
  · exact h

theorem wireStep (h : s.pcsAligned) {d : Nat} {k : Fin 4} {is : Wire → Bool} {f : Wire → State → State}
    (hf : ∀ w t, t.pcsAligned → (f w t).pcsAligned) : PcOut (s.wireStep d k is f) := by
  unfold State.wireStep
  split
  · exact PcOut.ite (hf _ _ (h.takeWire ‹_›)).next h.next
  · exact h.next

theorem execOclysDataFrame (h : s.pcsAligned) (d : PortId) (seq ack : BitVec 32) (good : Bool) (payload : List Byte) :
    PcOut (execOclysDataFrame d seq ack good payload s) := by
  unfold Machine.execOclysDataFrame
  split
  · exact h.wireStep fun _ _ h => h.linkIn ..
  · exact (h.frameIn ..).ite h.next

theorem execOclysAckFrame (h : s.pcsAligned) (d : PortId) (ack : BitVec 32) : PcOut (execOclysAckFrame d ack s) := by
  unfold Machine.execOclysAckFrame
  split
  · exact h.wireStep fun _ _ h => h.wireIn _
  · exact PcOut.ite (h.modPort ..).next h.next

theorem resend (h : s.pcsAligned) (d : Nat) (host : Bool) : (s.resend d host).pcsAligned := by
  unfold State.resend
  extract_lets p s1
  have h1 : s1.pcsAligned := h.modPort ..
  exact (h.failPort ..).ite (h1.foldl (fun _ _ h => h.putFrame ..) _)

theorem execOclysReplayRequest (h : s.pcsAligned) (d : PortId) (seq : BitVec 32) : PcOut (execOclysReplayRequest d seq s) := by
  unfold Machine.execOclysReplayRequest
  split
  · exact h.wireStep fun _ _ h => h.wireIn _
  · exact PcOut.ite ((h.modPort ..).resend ..).next h.next

theorem execOclysAckTimeout (h : s.pcsAligned) (d : PortId) : PcOut (execOclysAckTimeout d s) := by
  unfold Machine.execOclysAckTimeout
  split
  · split
    · exact h.next
    · exact h.next.ite (h.linkResend ..).next
  · split
    · exact h.next
    · exact h.next.ite (h.resend ..).next

end State.pcsAligned
end Sys2Proof.Machine
end

/-! Every step keeps the two low bits of every PC at 0 (R62): every row of the table, the step of the part. -/
section
set_option Elab.async false
namespace Sys2Proof.Machine

theorem Agent.pcAligned.granted {g : Agent} (h : g.pcAligned) : g.granted.pcAligned := by
  unfold Agent.granted
  split
  · exact h.wx ..
  · exact h

namespace State.pcsAligned
variable {s : State}

/-! ## Semaphores, full-empty loads and stores, records -/

theorem execSemv (h : s.pcsAligned) (a : BitVec 5) (k : BitVec 6) : PcOut (execSemv a k s) :=
  h.onTile fun _ h => h.release fun _ h => (h.trap ..).ite h.keepTile.doneNop

theorem execSemaphoreGrant (h : s.pcsAligned) (t k : Nat) : PcOut (execSemaphoreGrant t k s) := by
  unfold Machine.execSemaphoreGrant
  refine PcOut.ite ?_ h.next
  split
  · exact h.next
  · exact (h.keepTile.finishWait _ _ ((h.tile t).agent _).granted).next

theorem execSemptExpiry (h : s.pcsAligned) (t a : Nat) : PcOut (execSemptExpiry t a s) := by
  unfold Machine.execSemptExpiry
  split
  · dsimp only
    split
    · exact PcOut.ite (h.finishWait _ _ (((h.tile t).agent _).wx ..)).next h.next
    · exact h.next
  · exact h.next

theorem execLdfe (h : s.pcsAligned) (d a : BitVec 5) (c : BitVec 1) (i : BitVec 14) : PcOut (execLdfe d a c i s) :=
  h.onTile fun _ h => h.checked fun _ h => PcOut.ite (h.readBytes fun _ _ h => (h.takeFull ..).doneX ..) (h.waitOn _)

theorem execLdfeWake (h : s.pcsAligned) (t w : Nat) : PcOut (execLdfeWake t w s) := by
  unfold Machine.execLdfeWake
  refine PcOut.ite ?_ h.next
  dsimp only
  split
  · refine PcOut.ite (State.pcsAligned.next ?_) (State.pcsAligned.next (State.pcsAligned.keepTile ?_))
    all_goals
      split
      · refine State.pcsAligned.wakeLdfe (h.foldl (fun s a h => ?_) _) ..
        split
        · exact h.wakeLdfe ..
        · exact h
      · refine h.foldl (fun s a h => ?_) _
        split
        · exact h.wakeLdfe ..
        · exact h
  · refine State.pcsAligned.next (h.foldl (fun s a h => ?_) _)
    split
    · exact h.wakeLdfe ..
    · exact h

theorem execStfe (h : s.pcsAligned) (r a : BitVec 5) (e : BitVec 1) (i : BitVec 14) : PcOut (execStfe r a e i s) :=
  h.onTile fun _ h => h.checked fun _ h => h.release fun _ h => h.storeBytes fun _ h => h.keepTile.doneNop

theorem execLdb (h : s.pcsAligned) (d a b : BitVec 5) (t : BitVec 3) : PcOut (execLdb d a b t s) :=
  h.onTile fun _ h => h.recAccess fun _ => h.load ..

theorem execStb (h : s.pcsAligned) (r a b : BitVec 5) (t : BitVec 3) : PcOut (execStb r a b t s) :=
  h.onTile fun _ h => h.recAccess fun _ => h.store ..

theorem execBld (h : s.pcsAligned) (d a : BitVec 5) (i : BitVec 10) : PcOut (execBld d a i s) :=
  h.onTile fun _ h => h.checked fun _ h => h.readBytes fun _ _ h => (h.setRec ..).doneNop

theorem execBst (h : s.pcsAligned) (d a : BitVec 5) (i : BitVec 10) : PcOut (execBst d a i s) :=
  h.onTile fun _ h => h.checked fun _ h => h.storeBytes fun _ h => h.doneNop

/-! ## Every row -/

theorem exec (h : s.pcsAligned) (i : Instr) : PcOut (exec i s) := by
  unfold Machine.exec
  cases i with
  | add | sub | and | or | xor | andn | sll | srl | sra | ror | mul | mulhS | mulhN | divS | divN | remS | remN | minS | minN | maxS
  | maxN | clz | ctz | popc | mod31 | addi | andi | ori | xori | slli | srli | srai | rori | lih | addpc => exact h.doneX ..
  | pcmp | pcmpi | pand | por | pxor | pandn | porn | pxnor => exact h.doneP ..
  | nop => exact h.doneNop
  | yield => exact h.done h.me.samePc
  | trap | brk | illegalInstruction => exact h.trap ..
  | fqbaseWrite => exact (h.fqbaseWrite ..).next
  | migrationStart => exact (h.migctlWrite ..).next
  | pprStart => exact (h.pprctlWrite ..).next
  | hbmerrRead => exact (h.hbmerrRead _).next
  | qcrecRead => exact (h.qcrecRead _).next
  | rctlHold => exact (h.hold ..).next
  | rctlFree => exact (h.freeCmd ..).next
  | rctlResume => exact (h.resume ..).next
  | rctlDiscard => exact (h.discard ..).next
  | noiseSourceHealthTest => exact h.keepDie.next
  | pcapWrite => exact (h.pcapWrite ..).next
  | pslewWrite => exact (h.pslewWrite ..).next
  | throtWrite => exact (h.throtWrite ..).next
  | powerCapInterval => exact h.execPowerCapInterval ..
  | moduleReset => exact (h.resetModule _).next
  | powerOn => exact h.execPowerOn ..
  | attestationStart => exact (h.attctlWrite ..).next
  | sbReadMstat | sbReadPower | sbReadTemp | sbReadBootstat | sbReadIdentity => exact h.sideband ..
  | sbWritePcap => exact (h.pcapWrite ..).sideband ..
  | sbReset => exact State.pcsAligned.sideband (State.pcsAligned.ite (h.resetModule _) h) ..
  | ldS8 | ldN8 | ldS16 | ldN16 | ldS32 | ldN32 | ld64 => exact h.load ..
  | st8 | st16 | st32 | st64 => exact h.store ..
  | br => exact h.execBr ..
  | jal | jalr | eret => exact h.transfer ..
  | fence | fenceRel => exact h.release fun _ h => h.doneNop
  | semset => exact h.onTile fun _ h => h.release fun _ h => h.keepTile.doneNop
  | sync => exact h.execSync ..
  | semp | sempt => exact h.onTile fun _ h => h.waitOn _
  | semget | ssqNum | ssqOut | ssqRed | ssqTry | ssqRel => exact h.onTile fun _ h => h.doneX ..
  | vaddF | vsubF | vmulF | vminF | vmaxF | vabsF | vneg | vcvt | vcvti | vcvtf | vfma | vfnma | vabsI | vcmpI | vcmpF | vsel
  | vperm | vbcast | vmov | vmovToLane | vexp2 | vlog2 | vrcp | vrsq => exact h.vop ..
  | vaddI | vsubI | vmulI | vminS | vminN | vmaxS | vmaxN | vand | vor | vxor | vsll | vsrl | vsra | vaddsS | vaddsN | vsubsS
  | vsubsN => exact h.viop ..
  | vredFadd | vredFmin | vredFmax | vredAdd | vredMinS | vredMaxS | vmovToX => exact h.vredX ..
  | vlds => exact h.onWork fun _ h => h.elemLoad h ..
  | vsts | vscat => exact h.onWork fun _ h => h.vread fun _ _ h0 h => h0.elemStore h ..
  | vgath => exact h.onWork fun _ h => h.vread fun _ _ h0 h => h0.elemLoad h ..
  | vstreamIn | vstreamOut => exact h.bind ..
  | vstreamEnd => exact h.execVstreamEnd ..
  | mcfg => exact h.onWork fun _ h => h.done (h.me.samePc.wx ..)
  | mmulR | mmulC => exact h.mmulIssue ..
  | maccZ | maccPin | maccUnpin => exact h.maccIssue ..
  | maccRd | maccWr => exact h.maccRecIssue ..
  | squant | sdeq | sexp | strans | stransRq | scomp | sblkExp | sblkInt | sblkFlt | scvt => exact h.shapeIssue ..
  | stage | copy | hld | hst => exact h.onHaul fun _ h => h.haulIssue ..
  | hredAddS32 | hredAddS64 | hredMinS32 | hredMinS64 | hredMaxS32 | hredMaxS64 | hredAnd | hredOr | hredFaddF32 => exact h.hredIssue ..
  | hfence => exact h.onHaul fun _ h => (h.waitOn _).ite h.doneNop
  | ffcfgKey | ffcfgBeta | ffcfgSigt | ffcfgMode | ffldEdge | ffldBias | ffldCol | ffldState | ffopSweep | ffopClamp | ffopUnclamp
  | ffopCreset | ffrdBits | ffrdCnt => exact h.ffIssue ..
  | xsend | xrecv => exact h.onHaul fun _ h => h.schedule ..
  | csend | crecv | crecvAdd | crecvMax => exact h.colIssue ..
  | croute => exact h.execCroute ..
  | cmark => exact h.execCmark ..
  | ldfe => exact h.execLdfe ..
  | ldfeWake => exact h.execLdfeWake ..
  | stfe => exact h.execStfe ..
  | gld => exact h.execGld ..
  | gldDataReturn => exact h.execGldDataReturn ..
  | ldb => exact h.execLdb ..
  | stb => exact h.execStb ..
  | exit => exact h.execExit
  | fenceAcq => exact h.execFenceAcq
  | csrr => exact h.execCsrr ..
  | csrw => exact h.execCsrw ..
  | spawn => exact h.execSpawn ..
  | semv => exact h.execSemv ..
  | semaphoreGrant => exact h.execSemaphoreGrant ..
  | semptExpiry => exact h.execSemptExpiry ..
  | bld => exact h.execBld ..
  | bst => exact h.execBst ..
  | send => exact h.execSend ..
  | recv => exact h.execRecv ..
  | recvAny => exact h.execRecvAny ..
  | rspawn => exact h.execRspawn ..
  | vld => exact h.execVld ..
  | vst => exact h.execVst ..
  | streamElementRead => exact h.execStreamElementRead ..
  | mwld => exact h.execMwld ..
  | matrixEntryStart => exact h.execMatrixEntryStart ..
  | matrixEntryComplete => exact h.execMatrixEntryComplete ..
  | shapeOpStart => exact h.execShapeOpStart ..
  | shapeOpComplete => exact h.execShapeOpComplete ..
  | haulOpStart => exact h.execHaulOpStart ..
  | haulChunk => exact h.execHaulChunk ..
  | haulOpComplete => exact h.execHaulOpComplete ..
  | haulOpReplay => exact h.execHaulOpReplay ..
  | queueFullResume => exact h.execQueueFullResume ..
  | fireflyCommandArrival => exact h.execFireflyCommandArrival ..
  | fireflyCommandStart => exact h.execFireflyCommandStart ..
  | fireflyCommandComplete => exact h.execFireflyCommandComplete ..
  | cgrp => exact h.execCgrp ..
  | crank => exact h.execCrank ..
  | cpart => exact h.execCpart ..
  | tlbw => exact h.execTlbw ..
  | tlbinv => exact h.execTlbinv ..
  | tlbinvAll => exact h.execTlbinvAll
  | fqpop => exact h.execFqpop ..
  | fqres => exact h.execFqres ..
  | ctxsv => exact h.execCtxsv ..
  | ctxld => exact h.execCtxld ..
  | pcRangeTrap => exact h.execPcRangeTrap
  | strandChoice => exact h.execStrandChoice ..
  | watchdogExpiry => exact h.execWatchdogExpiry
  | deferredCause => exact h.execDeferredCause ..
  | windowRead => exact h.execWindowRead ..
  | windowWrite => exact h.execWindowWrite ..
  | windowSemaphoreWrite => exact h.execWindowSemaphoreWrite ..
  | fireflyContextBlockWrite => exact h.execFireflyContextBlockWrite ..
  | tileCloseArrival => exact h.execTileCloseArrival ..
  | closeArrival => exact h.execCloseArrival ..
  | sealArrival => exact h.execSealArrival ..
  | restoreDone => exact h.execRestoreDone ..
  | launchJoin => exact h.execLaunchJoin ..
  | exchangeStartPacket => exact h.execExchangeStartPacket ..
  | exchangeStart => exact h.execExchangeStart ..
  | release => exact h.execRelease ..
  | startInstant => exact h.execStartInstant ..
  | abort => exact h.execAbort ..
  | rollbackWindowDone => exact h.execRollbackWindowDone ..
  | targetedSelfTestEnd => exact h.execTargetedSelfTestEnd ..
  | stop => exact h.execStop ..
  | rootTimeout => exact h.execRootTimeout ..
  | shapingWindow => exact h.execShapingWindow ..
  | treeReconfigure => exact h.execTreeReconfigure ..
  | sealArrivalSend => exact h.execSealArrivalSend ..
  | flitSend => exact h.execFlitSend ..
  | flitArrival => exact h.execFlitArrival ..
  | xrecvMissedFlit => exact h.execXrecvMissedFlit ..
  | exchangeEnd => exact h.execExchangeEnd ..
  | messageOffer => exact h.execMessageOffer ..
  | collectiveSend => exact h.execCollectiveSend ..
  | collectiveLanding => exact h.execCollectiveLanding ..
  | collectiveReceiveTimeout => exact h.execCollectiveReceiveTimeout ..
  | deltaArrival => exact h.execDeltaArrival ..
  | faultRecordPost => exact h.execFaultRecordPost ..
  | oclysDataFrame => exact h.execOclysDataFrame ..
  | oclysAckFrame => exact h.execOclysAckFrame ..
  | oclysReplayRequest => exact h.execOclysReplayRequest ..
  | oclysAckTimeout => exact h.execOclysAckTimeout ..
  | linkFailure => exact h.execLinkFailure ..
  | linkTrained => exact h.execLinkTrained ..
  | hostWrite => exact h.execHostWrite ..
  | hostRead => exact h.execHostRead ..
  | hostLaunch => exact h.execHostLaunch ..
  | regionLaunch => exact h.execRegionLaunch ..
  | launchTilesSet => exact h.execLaunchTilesSet ..
  | launchTimeout => exact h.execLaunchTimeout ..
  | physdRead => exact h.next.ite (h.physdRead _).next
  | physdWrite => exact h.next.ite (h.physdWrite ..).next
  | migrationDone => exact h.execMigrationDone ..
  | pprDone => exact h.execPprDone ..
  | spareControlWrite => exact h.execSpareControlWrite ..
  | attestationDone => exact h.execAttestationDone ..
  | thermalTrip => exact h.execThermalTrip ..
  | secureBoot => exact h.execSecureBoot ..
  | sbUnknownCommand => exact h.execSbUnknownCommand ..
  | joinTimeout => exact h.execJoinTimeout ..
  | ieee1588Sync => exact h.execIeee1588Sync ..
  | malformedOperation => exact h.execMalformedOperation ..

/-! ## The steps that the machine makes of its own accord, and the step of the part -/

theorem go (h : s.pcsAligned) (x : Act) : PcOut (x.go s) := by
  cases x with
  | slotNote => exact h.keepTile.next
  | partEnd => exact (h.partEnd ..).next
  | linkFrames => exact (h.linkFrames ..).next
  | thermalTrip => exact h.execThermalTrip ..
  | deferredCause => exact h.execDeferredCause ..
  | ldfeWake => exact h.execLdfeWake ..
  | semaphoreGrant => exact h.execSemaphoreGrant ..
  | semptExpiry => exact h.execSemptExpiry ..
  | gldDataReturn => exact h.execGldDataReturn ..
  | queueFullResume => exact h.execQueueFullResume ..
  | strandChoice => exact h.execStrandChoice ..
  | matrixEntryStart => exact h.execMatrixEntryStart ..
  | matrixEntryComplete => exact h.execMatrixEntryComplete ..
  | shapeOpStart => exact h.execShapeOpStart ..
  | shapeOpComplete => exact h.execShapeOpComplete ..
  | haulOpStart => exact h.execHaulOpStart ..
  | haulChunk => exact h.execHaulChunk ..
  | haulOpComplete => exact h.execHaulOpComplete ..
  | haulOpReplay => exact h.execHaulOpReplay ..
  | fireflyCommandArrival => exact h.execFireflyCommandArrival ..
  | fireflyCommandStart => exact h.execFireflyCommandStart ..
  | fireflyCommandComplete => exact h.execFireflyCommandComplete ..
  | tileCloseArrival => exact h.execTileCloseArrival ..
  | closeArrival => exact h.execCloseArrival ..
  | sealArrival => exact h.execSealArrival ..
  | restoreDone => exact h.execRestoreDone ..
  | launchJoin => exact h.execLaunchJoin ..
  | exchangeStartPacket => exact h.execExchangeStartPacket ..
  | exchangeStart => exact h.execExchangeStart ..
  | release => exact h.execRelease ..
  | startInstant => exact h.execStartInstant ..
  | abort => exact h.execAbort ..
  | rollbackWindowDone => exact h.execRollbackWindowDone ..
  | targetedSelfTestPass => exact h.execTargetedSelfTestEnd ..
  | stop => exact h.execStop ..
  | rootTimeout => exact h.execRootTimeout ..
  | shapingWindow => exact h.execShapingWindow ..
  | sealArrivalSend => exact h.execSealArrivalSend ..
  | flitSend => exact h.execFlitSend ..
  | flitArrival => exact h.execFlitArrival ..
  | xrecvMissedFlit => exact h.execXrecvMissedFlit ..
  | exchangeEnd => exact h.execExchangeEnd ..
  | messageOffer => exact h.execMessageOffer ..
  | collectiveSend => exact h.execCollectiveSend ..
  | collectiveLanding => exact h.execCollectiveLanding ..
  | collectiveReceiveTimeout => exact h.execCollectiveReceiveTimeout ..
  | deltaArrival => exact h.execDeltaArrival ..
  | faultRecordPost => exact h.execFaultRecordPost ..
  | regionLaunch => exact h.execRegionLaunch ..
  | launchTilesSet => exact h.execLaunchTilesSet ..
  | launchTimeout => exact h.execLaunchTimeout ..
  | joinTimeout => exact h.execJoinTimeout ..
  | migrationDone => exact h.execMigrationDone ..
  | pprDone => exact h.execPprDone ..
  | attestationDone => exact h.execAttestationDone ..

theorem tick (h : s.pcsAligned) (k : Nat) : (s.tick k).pcsAligned := h

theorem passBy (h : s.pcsAligned) (k : Nat) : PcOut (s.passBy k) := by
  unfold State.passBy
  split
  · exact h.go _
  · exact (h.tick k).next

theorem paced {wait : State} {ops : List SemOp} {out : Out} (hw : wait.pcsAligned) (ho : PcOut out) : PcOut (s.paced wait ops out) := by
  obtain ⟨h⟩ := ho
  exact PcOut.ite (.next h) (hw.passBy 1)

theorem eventPaced {wait : State} {ops : List SemOp} {out : Out} (hw : wait.pcsAligned) (ho : PcOut out) :
    PcOut (s.eventPaced wait ops out) := by
  obtain ⟨h⟩ := ho
  exact PcOut.ite h.next (hw.paced h.next)

theorem count {w : Nat} {out : Out} (ho : PcOut out) : PcOut (s.count w out) := by
  obtain ⟨h⟩ := ho
  unfold State.count
  split
  · next e => cases e; exact PcOut.ite h.next h.keepTile.next
  · exact h.next

theorem resumed (h : s.pcsAligned) : s.resumed.pcsAligned := State.pcsAligned.ite (h.modMe) h

theorem issue (h : s.pcsAligned) : PcOut s.issue := by
  have hr := h.resumed
  unfold State.issue
  dsimp only
  split
  · split
    · exact count (hr.exec _)
    · exact hr.next
  · refine (hr.execDeferredCause _).ite (hr.execWatchdogExpiry.ite (hr.execPcRangeTrap.ite ?_))
    split
    · exact (hr.readError ..).next
    · split
      · exact count (hr.exec _)
      · exact hr.trap ..

theorem issuePaced {wait : State} (h : s.pcsAligned) (hw : wait.pcsAligned) : PcOut (s.issuePaced wait) := hw.paced h.issue

theorem turn (h : s.pcsAligned) (w : Who) : ({ s with turn := w } : State).pcsAligned := h
theorem sched (h : s.pcsAligned) (l : List Sched) : ({ s with sched := l } : State).pcsAligned := h

theorem issueNext (h : s.pcsAligned) (w : Who) : PcOut (s.issueNext w) := by
  unfold State.issueNext
  split
  · exact h.go _
  · exact ((h.tick 1).turn w).issuePaced (h.tick 1)

theorem scheduled (h : s.pcsAligned) (e : Sched) (rest : List Sched) : PcOut (s.scheduled e rest) := by
  have h1 := h.sched rest
  unfold State.scheduled
  refine PcOut.ite ?_ ?_
  · cases e with
    | run => exact PcOut.ite ((h1.turn _).issuePaced h) h1.next
    | event => exact PcOut.ite (h.eventPaced (h1.exec _)) h1.next
    | upset => exact (h1.upset _).next
  · dsimp only
    split
    · exact h.go _
    · exact ((h.tick _).sched _).next

theorem newRound (h : s.pcsAligned) : PcOut s.newRound := by
  unfold State.newRound
  split
  · exact h.issueNext _
  · exact h.passBy _

theorem unscheduled (h : s.pcsAligned) : PcOut s.unscheduled := by
  unfold State.unscheduled
  split
  · exact (h.turn _).issuePaced h
  · refine PcOut.ite ?_ h.newRound
    split
    · exact h.eventPaced (h.go _)
    · exact h.newRound

theorem step (h : s.pcsAligned) : PcOut (step s) := by
  unfold Machine.step
  split
  · exact h.go _
  · split
    · exact h.scheduled ..
    · exact h.unscheduled

end State.pcsAligned

/-- Settles O56: an update of an agent keeps its PC, takes the next instruction, a target that was checked, or an address cleared of its two
low bits; so every row of the table keeps the PCs aligned, and so does the step. -/
theorem stepKeepsPcAligned : Obligations.StepKeepsPcAligned := by
  intro s t h e
  have ho := h.step
  rw [e] at ho
  obtain ⟨ht⟩ := ho
  exact ht
end Sys2Proof.Machine
end

/-! The CSRs 0x000-0x2FF (R65, R98, R111, R122, R197, R247, R267): what `csrr` reads and `csrw` writes. -/
section
namespace Sys2Proof.Machine

/-! ## Numbers whose fields are given one by one -/

/-- The number of `n` fields of `w` bits, `f 0` the lowest. -/
def fieldSum (w : Nat) (f : Nat → Nat) (n : Nat) : Nat := (List.range n).foldl (fun v i => v + f i * 2 ^ (w * i)) 0

section fieldSum
variable {w : Nat} {f : Nat → Nat} (hf : ∀ i, f i < 2 ^ w)

theorem fieldSum_succ (n : Nat) : fieldSum w f (n + 1) = fieldSum w f n + f n * 2 ^ (w * n) := by
  simp [fieldSum, List.range_succ]

include hf

theorem fieldSum_lt (n : Nat) : fieldSum w f n < 2 ^ (w * n) := by
  induction n with
  | zero => exact Nat.one_pos
  | succ n ih =>
    calc fieldSum w f (n + 1) = fieldSum w f n + f n * 2 ^ (w * n) := fieldSum_succ n
      _ < (f n + 1) * 2 ^ (w * n) := by rw [Nat.add_mul]; omega
      _ ≤ 2 ^ w * 2 ^ (w * n) := Nat.mul_le_mul_right _ (hf n)
      _ = 2 ^ (w * (n + 1)) := by rw [← Nat.pow_add, Nat.mul_succ, Nat.add_comm]

theorem fieldSum_field {k n : Nat} (hk : k < n) : fieldSum w f n / 2 ^ (w * k) % 2 ^ w = f k := by
  induction n with
  | zero => exact absurd hk (Nat.not_lt_zero k)
  | succ n ih =>
    rw [fieldSum_succ]
    obtain hk | rfl := Nat.lt_succ_iff_lt_or_eq.mp hk
    · obtain ⟨j, rfl⟩ := Nat.exists_eq_add_of_lt hk
      have hs : f (k + j + 1) * 2 ^ (w * (k + j + 1)) = 2 ^ (w * k) * (2 ^ w * (f (k + j + 1) * 2 ^ (w * j))) := by
        simp only [Nat.mul_add, Nat.pow_add, Nat.mul_one]
        ring
      rw [hs, Nat.add_mul_div_left _ _ (Nat.two_pow_pos _), Nat.add_mul_mod_self_left, ih hk]
    · rw [Nat.add_mul_div_right _ _ (Nat.two_pow_pos _), Nat.div_eq_of_lt (fieldSum_lt hf k), Nat.zero_add, Nat.mod_eq_of_lt (hf k)]

end fieldSum

/-- Whether an agent of the tile is a strand that is not FREE (R111). -/
def Tile.liveBit (tl : Tile) (i : Nat) : Nat := if h : i < 8 then if (tl.cur.agents[i]).st ≠ .free then 1 else 0 else 0

/-- The holder of an accumulator as `ACCOWN` shows it (R267). -/
def AccState.ownField : AccState → Nat
  | .free => 0
  | .held h _ => h.val + 8

theorem Tile.live_eq (tl : Tile) : tl.live = fieldSum 1 tl.liveBit 8 := by
  have hstep : ∀ (v : Nat) (a : Fin 10), (if a.val < 8 ∧ (tl.cur.agents[a]).st ≠ .free then v + 2 ^ a.val else v) =
      v + tl.liveBit a.val * 2 ^ (1 * a.val) := by
    intro v a
    unfold Tile.liveBit
    split <;> split <;> simp_all
  have hsum : tl.live = fieldSum 1 tl.liveBit 10 := by
    simp only [Tile.live, hstep, fieldSum, ← List.map_coe_finRange_eq_range, List.foldl_map]
  rw [hsum, fieldSum_succ, fieldSum_succ]
  simp [Tile.liveBit]

theorem Tile.accown_eq (tl : Tile) : tl.accown = fieldSum 4 (fun i => (tl.cur.accSt[accIx i]).ownField) 16 := by
  unfold Tile.accown fieldSum
  congr 1
  funext v n
  cases h : tl.cur.accSt[accIx n] <;> simp [AccState.ownField, h]

theorem Tile.liveBit_lt (tl : Tile) (i : Nat) : tl.liveBit i < 2 ^ 1 := by
  unfold Tile.liveBit
  repeat' split
  all_goals decide

/-- The strands that are not FREE, one bit each. -/
theorem Tile.live_bit (tl : Tile) {a : Fin 10} (ha : a.val < 8) :
    (BitVec.ofNat 64 tl.live).getLsbD a.val = true ↔ (tl.cur.agents[a]).st ≠ .free := by
  have hf := fieldSum_field tl.liveBit_lt ha
  rw [Nat.one_mul, Nat.pow_one] at hf
  simp only [BitVec.getLsbD_ofNat, Nat.testBit_eq_decide_div_mod_eq, tl.live_eq, hf, Tile.liveBit, ha, dite_true]
  split <;> simp_all <;> omega

theorem Tile.live_lt (tl : Tile) : (BitVec.ofNat 64 tl.live).toNat < 256 := by
  exact Nat.lt_of_le_of_lt (Nat.mod_le ..) (tl.live_eq ▸ fieldSum_lt tl.liveBit_lt 8)

/-- The holders of the accumulators, 4 bits each, where strands hold them. -/
theorem Tile.accown_field (tl : Tile) (h : ∀ (k : Fin 16) (a : Fin 10) p, tl.cur.accSt[k] = .held a p → a.val < 8) (k : Fin 16) :
    (BitVec.ofNat 64 tl.accown).toNat / 2 ^ (4 * k.val) % 16 = (tl.cur.accSt[k]).ownField := by
  have hb : ∀ i, (tl.cur.accSt[accIx i]).ownField < 2 ^ 4 := by
    intro i
    cases e : tl.cur.accSt[accIx i] with
    | free => decide
    | held a p =>
      have ha := h _ a p e
      show a.val + 8 < 16
      omega
  have hlt := fieldSum_lt hb 16
  have hk : accIx k.val = k := Fin.ext (Nat.mod_eq_of_lt k.isLt)
  rw [BitVec.toNat_ofNat, tl.accown_eq, Nat.mod_eq_of_lt hlt]
  exact (fieldSum_field hb k.isLt).trans (congrArg (fun j : Fin 16 => (tl.cur.accSt[j]).ownField) hk)

/-! ## `csrr` and `csrw` of a number below 0x300 -/

theorem isDieCsr_of_lt {n : Nat} (h : n < 0x300) : isDieCsr n = false := by
  simp only [isDieCsr, Bool.or_eq_false_iff, Bool.and_eq_false_iff, decide_eq_false_iff_not]
  omega

theorem csrReadOnly_lt {n : Nat} (h : csrReadOnly n = true) : n < 0x300 := by
  simp only [csrReadOnly, List.contains_iff_mem, List.mem_cons, List.not_mem_nil, or_false] at h
  omega

section low
variable {s : State} {n : BitVec 12}

theorem csrr_completes (hn : isDieCsr n.toNat = false) {x : W} (h : s.csrOf s.turn n.toNat = some x) (d : BitVec 5) :
    Completes (.csrr d n) s (s.me.wx d x).past := by
  have he : exec (.csrr d n) s = s.doneX d x := by
    show execCsrr d n s = _
    simp [execCsrr, hn, h]
  rw [Completes, CompletesIn, he]
  exact s.done_does _

theorem csrr_missing (hn : isDieCsr n.toNat = false) (h : s.csrOf s.turn n.toNat = none) (d : BitVec 5) :
    Traps (.csrr d n) s 0x01 (BitVec.ofNat 64 (wordOf (.csrr d n))) := by
  have he : exec (.csrr d n) s = s.trap 0x01 (BitVec.ofNat 64 (wordOf (.csrr d n))) := by
    show execCsrr d n s = _
    simp [execCsrr, hn, h]
  rw [Traps, he]
  exact s.trap_does ..

theorem csrw_missing (hn : isDieCsr n.toNat = false) (h : s.csrOf s.turn n.toNat = none) (b : BitVec 5) :
    Traps (.csrw b n) s 0x01 (BitVec.ofNat 64 (wordOf (.csrw b n))) := by
  have he : exec (.csrw b n) s = s.trap 0x01 (BitVec.ofNat 64 (wordOf (.csrw b n))) := by
    show execCsrw b n s = _
    simp [execCsrw, hn, h]
  rw [Traps, he]
  exact s.trap_does ..

theorem csrw_readOnly (h : csrReadOnly n.toNat = true) (b : BitVec 5) :
    Traps (.csrw b n) s 0x01 (BitVec.ofNat 64 (wordOf (.csrw b n))) := by
  have he : exec (.csrw b n) s = s.trap 0x01 (BitVec.ofNat 64 (wordOf (.csrw b n))) := by
    show execCsrw b n s = _
    simp only [execCsrw, isDieCsr_of_lt (csrReadOnly_lt h), h, Bool.false_eq_true, if_false, if_true]
    split <;> rfl
  rw [Traps, he]
  exact s.trap_does ..

theorem exec_csrw (hn : isDieCsr n.toNat = false) {x : W} (h : s.csrOf s.turn n.toNat = some x) (hr : csrReadOnly n.toNat = false)
    (b : BitVec 5) : exec (.csrw b n) s = (s.putCsr s.turn n.toNat (s.rx b)).doneNop := by
  show execCsrw b n s = _
  simp [execCsrw, hn, h, hr]

theorem Only.turn {s t : State} {w : Who} {g : Agent} {f : Tile → Tile} (h : Only s t w g f) : t.turn = s.turn := by
  obtain ⟨⟨-, ht, -⟩, -⟩ := h
  exact ht

/-- Completing after a change of the agent's own context. -/
theorem State.setMe_doneNop (s : State) (g : Agent) :
    ∃ t, (s.setMe g).doneNop = .next t ∧ Only s t s.turn g.past id ∧ t.retiredOf s.turn = s.retiredOf s.turn + 1 := by
  obtain ⟨h1, hr1⟩ : Only s (s.setMe g) s.turn g id ∧ (s.setMe g).retiredOf s.turn = s.retiredOf s.turn := s.setAgentOf_only s.turn g
  have ht : (s.setMe g).turn = s.turn := h1.turn
  have hg : (s.setMe g).me = g := by rw [State.me, ht, h1.agent]
  obtain ⟨t, e, h2, hr2⟩ := (s.setMe g).done_does g
  rw [ht] at h2 hr2
  rw [State.doneNop, hg]
  exact ⟨t, e, h1.trans h2, hr2.trans (congrArg (· + 1) hr1)⟩

/-- A write of a per-strand CSR. -/
theorem csrw_agent (hn : n.toNat < 0x100) {x : W} (h : s.csrOf s.turn n.toNat = some x) (hr : csrReadOnly n.toNat = false) (b : BitVec 5) :
    Completes (.csrw b n) s (s.me.putCsr n.toNat (s.rx b)).past := by
  have hp : s.putCsr s.turn n.toNat (s.rx b) = s.setMe (s.me.putCsr n.toNat (s.rx b)) := if_pos hn
  rw [Completes, CompletesIn, exec_csrw (isDieCsr_of_lt (by omega)) h hr, hp]
  exact s.setMe_doneNop _

end low

end Sys2Proof.Machine
end

/-! The CSRs 0x000-0x2FF (R65, R98, R111, R122, R197, R247, R267): those of a tile core and of a service core. -/
section
namespace Sys2Proof.Machine

/-! ## The CSRs of a tile core -/

theorem Tile.putCsr_retired (tl : Tile) (n : Nat) (v : W) : (tl.putCsr n v).retired = tl.retired := rfl

theorem Tile.putCsr_vmask (tl : Tile) (v : W) : tl.putCsr 0x200 v = { tl with cur := { tl.cur with vmask := v.setWidth 31 } } := by
  simp [Tile.putCsr]

theorem Tile.putCsr_win (tl : Tile) {n : Nat} (k : Fin 8) (hn : n = 0x201 + k.val) (v : W) :
    tl.putCsr n v = { tl with cur := { tl.cur with win := tl.cur.win.set k (BitVec.ofNat 17 (v.toNat / 16)) } } := by
  have hk : winIx n = k := Fin.ext (by simp only [winIx]; omega)
  have hv : BitVec.ofNat 17 (v.fld 4 17) = BitVec.ofNat 17 (v.toNat / 16) := BitVec.eq_of_toNat_eq (by simp [W.fld])
  have h : n ≠ 0x103 ∧ n ≠ 0x104 ∧ n ≠ 0x200 ∧ 0x201 ≤ n ∧ n ≤ 0x208 := by omega
  simp [Tile.putCsr, h, hk, hv]

theorem Tile.putCsr_srkey0 (tl : Tile) (v : W) : tl.putCsr 0x103 v = { tl with cur := { tl.cur with
    srkey := BitVec.ofNat 128 (tl.cur.srkey.toNat / 2 ^ 64 * 2 ^ 64 + v.toNat) } } := by
  simp [Tile.putCsr]

theorem Tile.putCsr_srkey1 (tl : Tile) (v : W) : tl.putCsr 0x104 v = { tl with cur := { tl.cur with
    srkey := BitVec.ofNat 128 (tl.cur.srkey.toNat % 2 ^ 64 + v.toNat * 2 ^ 64) } } := by
  simp [Tile.putCsr]

theorem modOfTile_eq (u : Nat) : dieOfTile u / 16 = modOfTile u := Nat.div_div_eq_div_mul ..

/-- No core type has another per-strand number than these ten. -/
theorem State.csrAgent_none {s : State} {w : Who} {n : Nat} (h : n ∉ [0x000, 0x001, 0x002, 0x003, 0x004, 0x007, 0x008, 0x100, 0x101, 0x102]) :
    s.csrAgent w n = none := by
  simp only [List.mem_cons, List.not_mem_nil, or_false, not_or] at h
  simp [State.csrAgent, h]

/-- A per-strand number that every core type has. -/
theorem csrOf_of_csrAgent {s : State} {w : Who} {n : Nat} {x : W} (h : s.csrAgent w n = some x) : s.csrOf w n = some x := by
  cases w with
  | tile t a => simp only [State.csrOf, State.csrTile, h]
  | svc d c => exact h

/-- Writes of the per-strand numbers that every core type has. -/
theorem csrw_own (s : State) (b : BitVec 5) :
    Completes (.csrw b 0x001) s
      { s.me with causeCode := (s.rx b).setWidth 8, causeInh := decide ((s.rx b).toNat / 256 % 2 = 1) }.past ∧
    Completes (.csrw b 0x002) s { s.me with epc := s.rx b }.past ∧ Completes (.csrw b 0x003) s { s.me with faddr := s.rx b }.past ∧
    Completes (.csrw b 0x004) s { s.me with tvec := s.rx b }.past ∧ Completes (.csrw b 0x008) s { s.me with scratch := s.rx b }.past ∧
    Completes (.csrw b 0x007) s { s.me with wdogLimit := (s.rx b).setWidth 32 }.past := by
  have own {n : BitVec 12} {x : W} (hn : n.toNat < 0x100) (h : s.csrAgent s.turn n.toNat = some x) (hr : csrReadOnly n.toNat = false) :
      Completes (.csrw b n) s (s.me.putCsr n.toNat (s.rx b)).past := csrw_agent hn (csrOf_of_csrAgent h) hr b
  exact ⟨own (by decide) rfl rfl, own (by decide) rfl rfl, own (by decide) rfl rfl, own (by decide) rfl rfl, own (by decide) rfl rfl,
    own (by decide) rfl rfl⟩

section tile
variable {s : State} {u : Nat} {me : Fin 10} (hs : s.turn = .tile u me)
include hs

/-- What the CSRs read that every tile core has. -/
def State.tileCsrs (s : State) (u : Nat) (me : Fin 10) : List (BitVec 12 × W) :=
  let tl := s.tile u
  let g := s.me
  [(0x000#12, BitVec.ofNat 64 me.val), (0x001#12, BitVec.ofNat 64 (g.causeCode.toNat + g.causeInh.toNat * 256)),
    (0x002#12, g.epc), (0x003#12, g.faddr), (0x004#12, g.tvec), (0x005#12, tl.ssnum.setWidth 64), (0x008#12, g.scratch),
    (0x007#12, BitVec.ofNat 64 (g.wdogLimit.toNat + s.wdogCount g * 2 ^ 32)),
    (0x100#12, if me.val < 8 then 0 else if me.val = 8 then 1 else 2),
    (0x101#12, BitVec.ofNat 64 (s.clk - (s.module (modOfTile u)).resetClk)), (0x102#12, s.retiredOf s.turn),
    (0x200#12, tl.cur.vmask.setWidth 64), (0x209#12, tl.slot.setWidth 64), (0x20A#12, tl.mshWin.setWidth 64),
    (0x20B#12, BitVec.ofNat 64 tl.mshCnt), (0x20C#12, BitVec.ofNat 64 tl.mshLim), (0x20D#12, BitVec.ofNat 64 u),
    (0x20E#12, BitVec.ofNat 64 (tl.region.toNat + tl.inReg.toNat * 2 ^ 20 + tl.space.toNat * 2 ^ 32)),
    (0x20F#12, BitVec.ofNat 64 tl.vsuse)]

theorem csrOf_tileCsrs : ∀ p ∈ s.tileCsrs u me, p.1.toNat < 0x300 ∧ s.csrOf s.turn p.1.toNat = some p.2 := by
  have hkind : (match (Who.tile u me).kind with | .work => (0 : W) | .haul => 1 | .shape => 2 | .service => 3) =
      if me.val < 8 then 0 else if me.val = 8 then 1 else 2 := by
    unfold Who.kind
    dsimp only
    repeat' split
    all_goals simp_all
  have hcycle : s.cycle (whoDie (.tile u me) / 16) = BitVec.ofNat 64 (s.clk - (s.module (modOfTile u)).resetClk) :=
    congrArg (fun m => BitVec.ofNat 64 (s.clk - (s.module m).resetClk)) (modOfTile_eq u)
  rw [State.tileCsrs, State.me, hs]
  simp only [List.forall_mem_cons]
  exact ⟨⟨by decide, rfl⟩, ⟨by decide, rfl⟩, ⟨by decide, rfl⟩, ⟨by decide, rfl⟩, ⟨by decide, rfl⟩, ⟨by decide, rfl⟩, ⟨by decide, rfl⟩,
    ⟨by decide, rfl⟩, ⟨by decide, congrArg some hkind⟩, ⟨by decide, congrArg some hcycle⟩, ⟨by decide, rfl⟩, ⟨by decide, rfl⟩,
    ⟨by decide, rfl⟩, ⟨by decide, rfl⟩, ⟨by decide, rfl⟩, ⟨by decide, rfl⟩, ⟨by decide, rfl⟩, ⟨by decide, rfl⟩, ⟨by decide, rfl⟩, nofun⟩

theorem csrOf_win (k : Fin 8) {n : Nat} (hn : n = 0x201 + k.val) :
    s.csrOf s.turn n = some (BitVec.ofNat 64 (((s.tile u).cur.win[k]).toNat * 16)) := by
  have hk : winIx n = k := Fin.ext (by simp only [winIx]; omega)
  have ha : s.csrAgent (.tile u me) n = none := by
    have := k.isLt
    exact State.csrAgent_none (by simp only [List.mem_cons, List.not_mem_nil, or_false]; omega)
  rw [hs]
  simp only [State.csrOf, State.csrTile, ha, Tile.csr, hk]
  grind

/-- A write of a per-core or per-tile CSR. -/
theorem csrw_tile {n : BitVec 12} (hn : 0x100 ≤ n.toNat) (hn' : n.toNat < 0x300) {x : W} (h : s.csrOf s.turn n.toNat = some x)
    (hr : csrReadOnly n.toNat = false) {b : BitVec 5} {f : Tile → Tile} (hf : ∀ tl, tl.putCsr n.toNat (s.rx b) = f tl) :
    CompletesIn (.csrw b n) s s.me.past f := by
  have hp : s.putCsr s.turn n.toNat (s.rx b) = s.modTile u f := by
    rw [hs]
    exact (if_neg (Nat.not_lt.mpr hn)).trans (congrArg (s.modTile u) (funext hf))
  have ha : (f (s.tile u)).cur.agents[me] = (s.tile u).cur.agents[me] := by rw [← hf, Tile.putCsr_agents]
  have hm : (s.modTile u f).me = s.me := by
    rw [State.me, State.me, hs]
    exact (congrArg _ hs).trans (s.modTile_only u me f ha).agent
  rw [CompletesIn, exec_csrw (isDieCsr_of_lt hn') h hr, hp, State.doneNop, hm]
  exact s.doneIn_does u me _ _ hs ha (by rw [← hf, Tile.putCsr_retired])

/-- Numbers that a tile core lacks. -/
theorem csrOf_tile_none {n : Nat} (h : ¬(n ≤ 8 ∨ 0x100 ≤ n ∧ n ≤ 0x105 ∨ 0x200 ≤ n ∧ n ≤ 0x210)) : s.csrOf s.turn n = none := by
  have ha : s.csrAgent (.tile u me) n = none :=
    State.csrAgent_none (by simp only [List.mem_cons, List.not_mem_nil, or_false]; omega)
  have hw : ¬(0x201 ≤ n ∧ n ≤ 0x208) := by omega
  have hn : n ≠ 0x200 ∧ n ≠ 0x209 ∧ n ≠ 0x20A ∧ n ≠ 0x20B ∧ n ≠ 0x20C ∧ n ≠ 0x20D ∧ n ≠ 0x20E ∧ n ≠ 0x20F ∧ n ≠ 0x210 := by omega
  have ht : (s.tile u).csr u n = none := by simp only [Tile.csr, if_neg hw, hn, if_false]
  rw [hs]
  simp only [State.csrOf, State.csrTile, ha, ht]
  grind

/-- `PRIO` and `LIVE` belong to a strand. -/
theorem csrOf_strand (h : me.val < 8) : s.csrOf s.turn 0x006 = some (s.me.prio.setWidth 64) ∧
    s.csrOf s.turn 0x105 = some (BitVec.ofNat 64 (s.tile u).live) := by
  have hk : (Who.tile u me).kind = .work := if_pos h
  have hg : s.me = (s.tile u).cur.agents[me] := by rw [State.me, hs]; rfl
  rw [hg, hs]
  exact ⟨if_pos hk, if_pos hk⟩

theorem csrOf_not_strand (h : 8 ≤ me.val) : s.csrOf s.turn 0x105 = none ∧ s.csrOf s.turn 0x006 = none := by
  have hk : (Who.tile u me).kind ≠ .work := by
    simp only [Who.kind, if_neg (Nat.not_lt.mpr h)]
    split <;> simp
  rw [hs]
  exact ⟨if_neg hk, if_neg hk⟩

/-- `SRKEY` belongs to the shape core. -/
theorem csrOf_shape (h : me.val = 9) : s.csrOf s.turn 0x103 = some (BitVec.ofNat 64 (s.tile u).cur.srkey.toNat) ∧
    s.csrOf s.turn 0x104 = some (BitVec.ofNat 64 ((s.tile u).cur.srkey.toNat / 2 ^ 64)) := by
  have hk : (Who.tile u me).kind = .shape := by simp [Who.kind, h]
  rw [hs]
  exact ⟨if_pos hk, if_pos hk⟩

theorem csrOf_not_shape (h : me.val ≠ 9) : s.csrOf s.turn 0x103 = none ∧ s.csrOf s.turn 0x104 = none := by
  have hk : (Who.tile u me).kind ≠ .shape := by
    have := me.isLt
    unfold Who.kind
    dsimp only
    repeat' split
    · simp
    · simp
    · omega
  rw [hs]
  exact ⟨if_neg hk, if_neg hk⟩

theorem csrOf_accown : s.csrOf s.turn 0x210 = some (BitVec.ofNat 64 (s.tile u).accown) := by
  rw [hs]
  rfl

theorem csrOf_vmask : s.csrOf s.turn 0x200 = some ((s.tile u).cur.vmask.setWidth 64) := by
  rw [hs]
  rfl

/-- A die CSR is no tile core's. -/
theorem csr_die_of_tile {n : BitVec 12} (hn : isDieCsr n.toNat = true) (d b : BitVec 5) :
    Traps (.csrr d n) s 0x12 (BitVec.ofNat 64 (wordOf (.csrr d n))) ∧ Traps (.csrw b n) s 0x12 (BitVec.ofNat 64 (wordOf (.csrw b n))) := by
  have hr : exec (.csrr d n) s = s.trap 0x12 (BitVec.ofNat 64 (wordOf (.csrr d n))) := by
    show execCsrr d n s = _
    simp [execCsrr, hn, hs]
  have hw : exec (.csrw b n) s = s.trap 0x12 (BitVec.ofNat 64 (wordOf (.csrw b n))) := by
    show execCsrw b n s = _
    simp [execCsrw, hn, hs]
  rw [Traps, Traps, hr, hw]
  exact ⟨s.trap_does .., s.trap_does ..⟩

end tile

/-! ## The per-strand CSRs of a service core -/

section service
variable {s : State} {e : Nat} {c : Fin 2}

/-- What the per-strand CSRs of a service core read. -/
def State.svcCsrs (s : State) (e : Nat) (c : Fin 2) : List (BitVec 12 × W) :=
  let g := s.me
  [(0x000#12, BitVec.ofNat 64 (10 + c.val)), (0x001#12, BitVec.ofNat 64 (g.causeCode.toNat + g.causeInh.toNat * 256)),
    (0x002#12, g.epc), (0x003#12, g.faddr), (0x004#12, g.tvec), (0x008#12, g.scratch),
    (0x007#12, BitVec.ofNat 64 (g.wdogLimit.toNat + s.wdogCount g * 2 ^ 32)), (0x100#12, 3),
    (0x101#12, BitVec.ofNat 64 (s.clk - (s.module (modOfDie e)).resetClk)), (0x102#12, s.retiredOf s.turn)]

theorem csrOf_svcCsrs (hs : s.turn = .svc e c) : ∀ p ∈ s.svcCsrs e c, p.1.toNat < 0x300 ∧ s.csrOf s.turn p.1.toNat = some p.2 := by
  rw [State.svcCsrs, State.me, hs]
  simp only [List.forall_mem_cons]
  exact ⟨⟨by decide, rfl⟩, ⟨by decide, rfl⟩, ⟨by decide, rfl⟩, ⟨by decide, rfl⟩, ⟨by decide, rfl⟩, ⟨by decide, rfl⟩, ⟨by decide, rfl⟩,
    ⟨by decide, rfl⟩, ⟨by decide, rfl⟩, ⟨by decide, rfl⟩, nofun⟩

/-- Numbers below 0x300 that a service core lacks. -/
theorem csrOf_svc_none (hs : s.turn = .svc e c) {n : BitVec 12} (h : n ∉ [0x000#12, 0x001#12, 0x002#12, 0x003#12, 0x004#12, 0x007#12,
    0x008#12, 0x100#12, 0x101#12, 0x102#12]) : s.csrOf s.turn n.toNat = none := by
  rw [hs]
  refine State.csrAgent_none fun hn => h ?_
  simp only [List.mem_cons, List.not_mem_nil, or_false, BitVec.toNat_eq] at hn ⊢
  exact hn

end service

end Sys2Proof.Machine
end

/-! The die CSRs 0x300-0x37F (R198, R218, R306, R335, R359, R387, R403, R430): what `csrr` reads and `csrw` does on a service core. -/
section
namespace Sys2Proof.Machine

/-! ## Writes that leave the service cores alone -/

/-- Between two states neither the turn nor a service core changed. -/
def SameCores (s t : State) : Prop := t.turn = s.turn ∧ ∀ d, (t.die d).svc = (s.die d).svc

namespace SameCores
variable {s t : State}

theorem refl (s : State) : SameCores s s := ⟨rfl, fun _ => rfl⟩

theorem trans {u : State} (h : SameCores s t) (k : SameCores t u) : SameCores s u :=
  ⟨k.1.trans h.1, fun d => (k.2 d).trans (h.2 d)⟩

theorem ite {p : Prop} [Decidable p] {u : State} (h : SameCores s t) (k : SameCores s u) : SameCores s (if p then t else u) := by
  split
  · exact h
  · exact k

theorem foldl {α : Type} {f : State → α → State} (h : SameCores s t) (hf : ∀ u a, SameCores u (f u a)) (l : List α) :
    SameCores s (l.foldl f t) := List.foldlRecOn l f h fun u hu a _ => hu.trans (hf u a)

theorem modDie (h : SameCores s t) (d : Nat) {f : Die → Die} (hf : ∀ x, (f x).svc = x.svc := by intro _; rfl) : SameCores s (t.modDie d f) := by
  refine ⟨h.1, fun e => ?_⟩
  by_cases he : e = d
  · subst he
    rw [State.modDie_die_self, hf]
    exact h.2 e
  · rw [State.modDie_die_ne _ _ he]
    exact h.2 e

theorem modTile (h : SameCores s t) (u : Nat) (f : Tile → Tile) : SameCores s (t.modTile u f) := h
theorem modModule (h : SameCores s t) (m : Nat) (f : Module → Module) : SameCores s (t.modModule m f) := h

theorem free (h : SameCores s t) (k : Nat) : SameCores s { t with free := k } := h

theorem modDies (h : SameCores s t) (l : List Nat) {f : Die → Die} (hf : ∀ x, (f x).svc = x.svc := by intro _; rfl) :
    SameCores s (t.modDies l f) :=
  h.foldl (fun u d => (refl u).modDie d hf) l

theorem agentOf (h : SameCores s t) (d : Nat) (c : Fin 2) : t.agentOf (.svc d c) = s.agentOf (.svc d c) :=
  congrArg (fun v : Vector SvcCore 2 => (v[c]).agent) (h.2 d)

theorem noteReplace (h : SameCores s t) (m : Nat) : SameCores s (t.noteReplace m) := by
  refine ⟨?_, fun d => ?_⟩
  · unfold State.noteReplace
    dsimp only
    split
    · exact (State.report_turn ..).trans h.1
    · exact h.1
  · rw [State.noteReplace_die]
    exact h.2 d

theorem fence (h : SameCores s t) (u : Nat) (q : Nat × Nat × Nat) : SameCores s (t.fence u q) := by
  unfold State.fence
  refine SameCores.ite ?_ ?_
  · exact ((h.modTile ..).modDie _).noteReplace _
  · exact noteReplace ((h.modTile ..).modModule ..) _

theorem fenceLeft (h : SameCores s t) (d : Nat) : SameCores s (t.fenceLeft d) :=
  h.foldl (fun u _ => (refl u).foldl (fun v _ => SameCores.ite (((refl v).modTile ..).fence ..) (refl v)) _) _

theorem tspareWrite (s : State) (d : Nat) (n : Fin 4) (v : W) : SameCores s (s.tspareWrite d n v) :=
  SameCores.ite (((refl s).modDie d).modTile ..) ((refl s).modDie d)

theorem rsprowWrite (s : State) (d : Nat) (v : W) : SameCores s (s.rsprowWrite d v) :=
  SameCores.ite (modTile (modTile ((refl s).modDie d) ..) ..) ((refl s).modDie d)

theorem ffspareWrite (s : State) (d : Nat) (n : Fin 4) (v : W) : SameCores s (s.ffspareWrite d n v) :=
  SameCores.ite (modDie (foldl ((refl s).modDie d) (fun u _ => SameCores.ite (refl u) ((refl u).modTile ..)) _) d) ((refl s).modDie d)

theorem lfenceWrite (s : State) (m : Nat) (v : W) : SameCores s (s.lfenceWrite m v) := refl s

theorem spareWrite {d n : Nat} {v : W} (e : s.spareWrite d n v = some t) : SameCores s t := by
  unfold State.spareWrite at e
  dsimp only at e
  split at e
  · obtain ⟨-, h⟩ := Option.ite_none_right_eq_some.mp e
    obtain rfl := Option.some.inj h
    exact ((tspareWrite ..).fenceLeft _).noteReplace _
  · split at e
    · obtain ⟨-, h⟩ := Option.ite_none_right_eq_some.mp e
      obtain rfl := Option.some.inj h
      exact ((rsprowWrite ..).fenceLeft _).noteReplace _
    · split at e
      · obtain ⟨-, h⟩ := Option.ite_none_right_eq_some.mp e
        obtain rfl := Option.some.inj h
        exact (lfenceWrite ..).noteReplace _
      · split at e
        · obtain rfl := Option.some.inj e
          exact ((ffspareWrite ..).fenceLeft _).noteReplace _
        · cases e

theorem fqbaseWrite (s : State) (d : Nat) (v : W) : SameCores s (s.fqbaseWrite d v) :=
  SameCores.ite (((refl s).free _).modDie d) (refl s)

theorem physdWrite (s : State) (d : Nat) (v : W) : SameCores s (s.physdWrite d v) :=
  modDie (SameCores.ite (refl s) ((refl s).modModule ..)) d

theorem ilmapWrite (s : State) (d : Nat) (n : Fin 3) (v : W) : SameCores s (s.ilmapWrite d n v) :=
  SameCores.ite ((refl s).modDie d) ((((refl s).modDie d).free _).modModule ..)

theorem migctlWrite (s : State) (d : Nat) (v : W) : SameCores s (s.migctlWrite d v) := (refl s).modDie d

theorem pprctlWrite (s : State) (d : Nat) (v : W) : SameCores s (s.pprctlWrite d v) :=
  (refl s).modDie d fun x => by
    dsimp only
    split <;> rfl

theorem pcapWrite (s : State) (m v : Nat) : SameCores s (s.pcapWrite m v) := (refl s).modModule ..
theorem pslewWrite (s : State) (m v : Nat) : SameCores s (s.pslewWrite m v) := ((refl s).modModule ..).modDies _
theorem throtWrite (s : State) (d v : Nat) : SameCores s (s.throtWrite d v) := (refl s).modDie d
theorem attctlWrite (s : State) (m : Nat) (v : W) : SameCores s (s.attctlWrite m v) := (refl s).modModule ..

end SameCores
theorem Only.svc_but {s t : State} {d : Nat} {c : Fin 2} {g : Agent} {f : Tile → Tile} (h : Only s t (.svc d c) g f) :
    (t.die d).but c = (s.die d).but c := by
  obtain ⟨-, -, hb, -⟩ := h
  exact hb

theorem Die.putCsr_svc (x : Die) (n : Nat) (v : W) : (x.putCsr n v).svc = x.svc := by
  simp only [Die.putCsr, apply_ite Die.svc, ite_self]

/-! ## `csrr` and `csrw` of a die CSR (R64, R135) -/

section die
variable {s : State} {e : Nat} {c : Fin 2} (hs : s.turn = .svc e c) {n : BitVec 12} (hn : isDieCsr n.toNat = true)
include hs hn

theorem exec_csrr_die (h : n ≠ 0x354) (d : BitVec 5) :
    exec (.csrr d n) s = (s.readDieCsr e n.toNat).2.doneX d (s.readDieCsr e n.toNat).1 := by
  have hne : ¬(n.toNat = 0x354 ∧ (s.die e).mc.physa.toNat % 8 ≠ 0) := fun k => h (BitVec.eq_of_toNat_eq k.1)
  show execCsrr d n s = _
  simp only [execCsrr, hn, hs, if_true, if_neg hne]

theorem csrr_die (h1 : n ≠ 0x305) (h2 : n ≠ 0x354) (h3 : n ≠ 0x35C) (d : BitVec 5) :
    Completes (.csrr d n) s (s.me.wx d (s.dieCsr e n.toNat)).past := by
  have hr : s.readDieCsr e n.toNat = (s.dieCsr e n.toNat, s) := by
    have k1 : n.toNat ≠ 0x305 := fun k => h1 (BitVec.eq_of_toNat_eq k)
    have k2 : n.toNat ≠ 0x354 := fun k => h2 (BitVec.eq_of_toNat_eq k)
    have k3 : n.toNat ≠ 0x35C := fun k => h3 (BitVec.eq_of_toNat_eq k)
    simp only [State.readDieCsr, if_neg k1, if_neg k2, if_neg k3]
  rw [Completes, CompletesIn, exec_csrr_die hs hn h2, hr]
  exact s.done_does _

theorem csrw_die_readOnly (hr : dieReadOnly n.toNat = true) (b : BitVec 5) :
    Traps (.csrw b n) s 0x01 (BitVec.ofNat 64 (wordOf (.csrw b n))) := by
  have he : exec (.csrw b n) s = s.trap 0x01 (BitVec.ofNat 64 (wordOf (.csrw b n))) := by
    show execCsrw b n s = _
    simp only [execCsrw, hn, hs, if_true, hr]
  rw [Traps, he]
  exact s.trap_does ..

theorem exec_csrw_die (hr : dieReadOnly n.toNat = false) (ha : n.toNat = 0x354 → (s.die e).mc.physa.toNat % 8 = 0) (b : BitVec 5) :
    exec (.csrw b n) s = (s.writeDieCsr e n.toNat (s.rx b)).doneNop := by
  have hne : ¬(n.toNat = 0x354 ∧ (s.die e).mc.physa.toNat % 8 ≠ 0) := fun k => k.2 (ha k.1)
  show execCsrw b n s = _
  simp only [execCsrw, hn, hs, if_true, hr, Bool.false_eq_true, if_false, if_neg hne]

/-- A write that leaves the service cores alone ends in the state of the write, its agent past the instruction. -/
theorem csrw_die (hr : dieReadOnly n.toNat = false) (ha : n.toNat = 0x354 → (s.die e).mc.physa.toNat % 8 = 0) {b : BitVec 5} {y : State}
    (hy : s.writeDieCsr e n.toNat (s.rx b) = y) (h : SameCores s y) :
    ∃ t, exec (.csrw b n) s = .next t ∧ Only y t s.turn s.me.past id := by
  rw [exec_csrw_die hs hn hr ha, hy]
  exact State.doneNop_from h.1 (by rw [State.me, hs]; exact h.agentOf e c)

/-- A write that does what a firmware command does. -/
theorem csrw_does (hr : dieReadOnly n.toNat = false) (ha : n.toNat = 0x354 → (s.die e).mc.physa.toNat % 8 = 0) {b : BitVec 5} {i : Instr}
    {z : State} (hi : exec i s = .next z) (hw : s.writeDieCsr e n.toNat (s.rx b) = z) (h : SameCores s z) (y : State)
    (hy : exec i s = .next y) : ∃ t, exec (.csrw b n) s = .next t ∧ Only y t s.turn s.me.past id := by
  obtain rfl : z = y := Host.Outcome.next.inj (hi.symm.trans hy)
  exact csrw_die hs hn hr ha hw h

/-- A write that changes nothing but the die. -/
theorem csrw_die_put (hr : dieReadOnly n.toNat = false) (hne : n.toNat ≠ 0x354) {b : BitVec 5} {f : Die → Die}
    (hw : s.writeDieCsr e n.toNat (s.rx b) = s.modDie e f) (hf : ∀ x, (f x).svc = x.svc) :
    ∃ t, exec (.csrw b n) s = .next t ∧ t.agentOf s.turn = s.me.past ∧ (t.die e).but c = (f (s.die e)).but c ∧
      (∀ u, t.tile u = s.tile u) ∧ (∀ k, k ≠ e → t.die k = s.die k) ∧ ∀ m, t.module m = s.module m := by
  obtain ⟨t, ht, ho⟩ := csrw_die hs hn hr (fun k => absurd k hne) hw ((SameCores.refl s).modDie e hf)
  rw [hs] at ho ⊢
  have hb : (t.die e).but c = ((s.modDie e f).die e).but c := ho.svc_but
  rw [State.modDie_die_self] at hb
  exact ⟨t, ht, ho.agent, hb, ho.svc_tile, fun k hk => (ho.svc_die_ne hk).trans (s.modDie_die_ne _ hk), ho.module⟩

/-- A write that only stores its fields. -/
theorem csrw_die_store (hr : dieReadOnly n.toNat = false) (hne : n.toNat ≠ 0x354) {b : BitVec 5}
    (hw : s.writeDieCsr e n.toNat (s.rx b) = s.modDie e fun x => x.putCsr n.toNat (s.rx b)) {x : Die}
    (hx : (s.die e).putCsr n.toNat (s.rx b) = x) :
    ∃ t, exec (.csrw b n) s = .next t ∧ t.agentOf s.turn = s.me.past ∧ (t.die e).but c = x.but c ∧
      (∀ u, t.tile u = s.tile u) ∧ (∀ k, k ≠ e → t.die k = s.die k) ∧ ∀ m, t.module m = s.module m :=
  hx ▸ csrw_die_put hs hn hr hne hw fun y => y.putCsr_svc _ _

/-- A write that changes nothing but the module of the die. -/
theorem csrw_module_put (hr : dieReadOnly n.toNat = false) (hne : n.toNat ≠ 0x354) {b : BitVec 5} {f : Module → Module}
    (hw : s.writeDieCsr e n.toNat (s.rx b) = s.modModule (modOfDie e) f) :
    ∃ t, exec (.csrw b n) s = .next t ∧ t.agentOf s.turn = s.me.past ∧ t.module (modOfDie e) = f (s.module (modOfDie e)) ∧
      (∀ u, t.tile u = s.tile u) ∧ ∀ k, k ≠ modOfDie e → t.module k = s.module k := by
  obtain ⟨t, ht, ho⟩ := csrw_die hs hn hr (fun k => absurd k hne) hw ((SameCores.refl s).modModule ..)
  rw [hs] at ho ⊢
  exact ⟨t, ht, ho.agent, (ho.module _).trans (State.modModule_module_self ..), ho.svc_tile,
    fun k hk => (ho.module k).trans (s.modModule_module_ne _ hk)⟩

end die

/-! ## The fields written -/

theorem W.ofNat_fld_zero (v : W) (k : Nat) : BitVec.ofNat k (v.fld 0 k) = v.setWidth k := BitVec.eq_of_toNat_eq (by simp [W.fld])

theorem W.fld_go_iff (v : W) : v.fld 63 1 = 1 ↔ v.toNat / 2 ^ 63 = 1 := by
  have := v.isLt
  simp only [W.fld]
  omega

theorem W.or_go {v : W} (h : v.toNat / 2 ^ 63 = 1) : v ||| 0x8000000000000000#64 = v := by
  have hm : v.getLsbD 63 = true := by
    rw [BitVec.getLsbD, Nat.testBit_eq_decide_div_mod_eq, h]
    rfl
  have hg (i : Fin 64) : (0x8000000000000000#64).getLsbD i.val = decide (i.val = 63) := by
    revert i
    decide
  refine BitVec.eq_of_getLsbD_eq fun i hi => ?_
  rw [BitVec.getLsbD_or, hg ⟨i, hi⟩]
  by_cases h63 : i = 63
  · subst h63
    rw [hm, Bool.true_or]
  · simp [h63]

/-- Written without `GO` the three controls only store their fields; while the unit is busy two of them ignore the write. -/
theorem State.migctlWrite_store (s : State) (d : Nat) {v : W} (h : ¬v.toNat / 2 ^ 63 = 1) :
    s.migctlWrite d v = s.modDie d fun x => { x with mc := { x.mc with migCtl := v.setWidth 40 } } := by
  have h0 : v.fld 63 1 = 0 := by
    have := mt (W.fld_go_iff v).mp h
    simp only [W.fld] at this ⊢
    omega
  simp only [State.migctlWrite, h0, if_true, W.ofNat_fld_zero]

theorem State.pprctlWrite_store (s : State) (d : Nat) {v : W} (h : ¬v.toNat / 2 ^ 63 = 1) :
    s.pprctlWrite d v = s.modDie d fun x => if x.mc.pprBusy = true then x else { x with mc := { x.mc with pprCtl := v.setWidth 30 } } := by
  refine congrArg (s.modDie d) (funext fun x => ?_)
  have hgo := decide_eq_false (mt (W.fld_go_iff v).mp h)
  rw [W.ofNat_fld_zero, hgo]
  split
  · rfl
  · next hb => rw [← Bool.eq_false_of_not_eq_true hb]

theorem State.attctlWrite_store (s : State) (m : Nat) {v : W} (h : ¬v.toNat / 2 ^ 63 = 1) :
    s.attctlWrite m v = s.modModule m fun y => if y.attBusy = true then y else { y with attPa := v.setWidth 40 } := by
  refine congrArg (s.modModule m) (funext fun y => ?_)
  have hgo := decide_eq_false (mt (W.fld_go_iff v).mp h)
  rw [W.ofNat_fld_zero, hgo]
  split
  · rfl
  · next hb => rw [← Bool.eq_false_of_not_eq_true hb]

/-! The firmware's starts are writes with `GO`. -/

section go
variable (s : State) (d : Nat) {v : W} (h : v.toNat / 2 ^ 63 = 1)
include h

theorem exec_migrationStart_go : exec (.migrationStart d v) s = .next (s.migctlWrite d v) :=
  congrArg (fun w => Host.Outcome.next (s.migctlWrite d w)) (W.or_go h)

theorem exec_pprStart_go : exec (.pprStart d v) s = .next (s.pprctlWrite d v) :=
  congrArg (fun w => Host.Outcome.next (s.pprctlWrite d w)) (W.or_go h)

theorem exec_attestationStart_go : exec (.attestationStart d v) s = .next (s.attctlWrite (modOfDie d) v) :=
  congrArg (fun w => Host.Outcome.next (s.attctlWrite (modOfDie d) w)) (W.or_go h)

end go

theorem exec_spareControlWrite (s : State) (d : Nat) (n : BitVec 12) (v : W) :
    exec (.spareControlWrite d n v) s = .next (s.spareCsr d n.toNat v) := by
  show execSpareControlWrite d n v s = _
  unfold execSpareControlWrite State.spareCsr
  cases s.spareWrite d n.toNat v <;> rfl

theorem SameCores.spareCsr (s : State) (d n : Nat) (v : W) : SameCores s (s.spareCsr d n v) := by
  unfold State.spareCsr
  cases h : s.spareWrite d n v with
  | none => exact refl s
  | some t => exact spareWrite h

/-- The numbers of the spare controls. -/
theorem spare_number {k : Nat} (h : (0x333 ≤ k ∧ k ≤ 0x336) ∨ (0x375 ≤ k ∧ k ≤ 0x378) ∨ k = 0x37A ∨ k = 0x37B) :
    isDieCsr k = true ∧ dieReadOnly k = false ∧ k ≠ 0x354 ∧ k < 2 ^ 12 := by
  refine ⟨?_, ?_, by omega, by omega⟩
  · simp only [isDieCsr, Bool.or_eq_true, Bool.and_eq_true, decide_eq_true_eq]
    omega
  · simp only [dieReadOnly, Bool.eq_false_iff, ne_eq, List.contains_iff_mem, List.mem_cons, List.not_mem_nil, or_false]
    omega

/-- `RCTL` written with an `OP` that is none keeps its fields. -/
theorem rctl_fields (v : W) : BitVec.ofNat 23 ((BitVec.ofNat 20 (v.fld 0 20)).toNat + v.fld 20 3 % 8 * 2 ^ 20) = v.setWidth 23 := by
  refine BitVec.eq_of_toNat_eq ?_
  simp only [W.fld, BitVec.toNat_ofNat, BitVec.toNat_setWidth]
  omega

/-- A write of `RCTL` with `GO` does what the command of its `OP` does. -/
theorem csrw_rctl {s : State} {e : Nat} {c : Fin 2} (hs : s.turn = .svc e c) {b : BitVec 5} (go : (s.rx b).toNat / 2 ^ 63 = 1) {op : Nat}
    (hop : (s.rx b).toNat / 2 ^ 20 % 8 = op) {i : Instr} (hi : exec i s = .next (s.rctlGo e op ((s.rx b).setWidth 20))) (y : State)
    (hy : exec i s = .next y) : ∃ t, exec (.csrw b 0x360) s = .next t ∧ Only y t y.turn y.me.past id := by
  obtain rfl := Host.Outcome.next.inj (hi.symm.trans hy)
  have hw : s.writeDieCsr e 0x360 (s.rx b) = s.rctlGo e op ((s.rx b).setWidth 20) := by
    rw [← W.ofNat_fld_zero, ← hop]
    exact if_pos ((W.fld_go_iff _).mpr go)
  have he : exec (.csrw b 0x360) s = (s.writeDieCsr e 0x360 (s.rx b)).doneNop := exec_csrw_die hs (n := 0x360) rfl rfl nofun b
  rw [he, hw]
  exact State.done_from rfl _

/-- With an `OP` that is none it only stores its fields. -/
theorem State.writeDieCsr_rctl_none (s : State) (e : Nat) {v : W} (go : v.toNat / 2 ^ 63 = 1)
    (hop : v.toNat / 2 ^ 20 % 8 = 0 ∨ 5 ≤ v.toNat / 2 ^ 20 % 8) :
    s.writeDieCsr e 0x360 v = s.modDie e fun x => { x with ctl := { x.ctl with rctl := v.setWidth 23 } } := by
  have hf : v.fld 20 3 ≠ 1 ∧ v.fld 20 3 ≠ 2 ∧ v.fld 20 3 ≠ 3 ∧ v.fld 20 3 ≠ 4 := by
    simp only [W.fld]
    omega
  have hw : s.writeDieCsr e 0x360 v = s.rctlGo e (v.fld 20 3) (BitVec.ofNat 20 (v.fld 0 20)) := if_pos ((W.fld_go_iff _).mpr go)
  obtain ⟨h1, h2, h3, h4⟩ := hf
  rw [hw, State.rctlGo, if_neg h1, if_neg h2, if_neg h3, if_neg h4]
  simp only [rctl_fields]

/-! ## `ILMAPn` (R381) -/

theorem State.ilmapWrite_units (s : State) (d : Nat) (n : Fin 3) (v : W) :
    (s.ilmapWrite d n v).die d =
        { s.die d with mc := { (s.die d).mc with ilmap := (s.die d).mc.ilmap.set n (v &&& 0x7777777777777777#64) } } ∧
      (∀ u, (s.ilmapWrite d n v).tile u = s.tile u) ∧ (∀ j, j ≠ d → (s.ilmapWrite d n v).die j = s.die j) ∧
      ∀ j, j ≠ modOfDie d → (s.ilmapWrite d n v).module j = s.module j := by
  unfold State.ilmapWrite
  extract_lets new old changed s1
  have h1 : s1.die d = { s.die d with mc := { (s.die d).mc with ilmap := (s.die d).mc.ilmap.set n new } } := s.modDie_die_self ..
  have h2 (j : Nat) (hj : j ≠ d) : s1.die j = s.die j := s.modDie_die_ne _ hj
  split
  · exact ⟨h1, fun _ => rfl, h2, fun _ _ => rfl⟩
  · exact ⟨h1, fun _ => rfl, h2, fun j hj => State.modModule_module_ne _ _ hj⟩

/-- Bytes forgotten in ranges that an address is not in. -/
theorem Memory.get_foldl_forget_out {α : Type} (f : α → Nat) (n k x : Nat) (l : List α) (h : ∀ j ∈ l, x < f j ∨ f j + n ≤ x) (m : Memory) :
    (l.foldl (fun m j => m.forget (f j) n k) m).get x = m.get x :=
  List.foldlRecOn (motive := fun y : Memory => y.get x = m.get x) l _ rfl fun y hy j hj => (y.get_forget_out _ _ _ _ (h j hj)).trans hy

/-- A scheme of `ILMAPn` after the reserved bits are cleared. -/
theorem W.fld_ilmap (v : W) (j : Fin 16) : W.fld (v &&& 0x7777777777777777#64) (4 * j.val) 3 = v.toNat / 2 ^ (4 * j.val) % 8 := by
  have hm : ∀ (j : Fin 16) (i : Fin 3), (0x7777777777777777#64).getLsbD (i.val + 4 * j.val) = true := by decide
  apply Nat.eq_of_testBit_eq
  intro i
  have h8 : (8 : Nat) = 2 ^ 3 := rfl
  rw [h8]
  simp only [W.fld, BitVec.toNat_and, Nat.testBit_mod_two_pow, Nat.testBit_div_two_pow, Nat.testBit_and]
  by_cases hi : i < 3
  · have h : Nat.testBit 0x7777777777777777 (i + 4 * j.val) = true := hm j ⟨i, hi⟩
    simp [hi, h]
  · simp [hi]

/-- The data of a region whose scheme stays is what it was. -/
theorem State.ilmapWrite_hbm (s : State) (d : Nat) (n : Fin 3) (v : W) (z : Nat)
    (h : z / 2 ^ 34 / 16 ≠ n.val ∨ (s.die d).mc.ilmap[n].toNat / 2 ^ (4 * (z / 2 ^ 34 % 16)) % 8 = v.toNat / 2 ^ (4 * (z / 2 ^ 34 % 16)) % 8) :
    ((s.ilmapWrite d n v).module (modOfDie d)).hbm.get z = (s.module (modOfDie d)).hbm.get z := by
  unfold State.ilmapWrite
  extract_lets new old changed s1
  split
  · rfl
  · rw [State.modModule_module_self]
    refine Memory.get_foldl_forget_out _ _ _ _ changed (fun j hj => ?_) _
    simp only [changed, List.mem_filter, List.mem_range, decide_eq_true_eq] at hj
    obtain ⟨hlt, hne⟩ := hj
    have hnew : new.fld (4 * j) 3 = v.toNat / 2 ^ (4 * j) % 8 := W.fld_ilmap v ⟨j, hlt⟩
    have hg : z / 2 ^ 34 ≠ 16 * n.val + j := by
      intro hz
      have hm : z / 2 ^ 34 % 16 = j := by omega
      rcases h with h | h
      · omega
      · rw [hm] at h
        exact hne (h.trans hnew.symm)
    omega

/-- The numbers of `ILMAPn`. -/
theorem ilmap_number (k : Fin 3) : (BitVec.ofNat 12 (0x355 + k.val)).toNat = 0x355 + k.val ∧ isDieCsr (0x355 + k.val) = true ∧
    dieReadOnly (0x355 + k.val) = false ∧ 0x355 + k.val ≠ 0x354 := by
  revert k
  decide

theorem State.writeDieCsr_ilmap (s : State) (e : Nat) (k : Fin 3) (v : W) : s.writeDieCsr e (0x355 + k.val) v = s.ilmapWrite e k v := by
  have hk : (⟨(0x355 + k.val - 0x355) % 3, Nat.mod_lt _ (by decide)⟩ : Fin 3) = k := Fin.ext (by have := k.isLt; simp only; omega)
  have h := k.isLt
  have h1 : ¬((0x333 ≤ 0x355 + k.val ∧ 0x355 + k.val ≤ 0x336) ∨ (0x375 ≤ 0x355 + k.val ∧ 0x355 + k.val ≤ 0x378) ∨
      0x355 + k.val = 0x37A ∨ 0x355 + k.val = 0x37B) := by omega
  have h2 : 0x355 + k.val ≠ 0x351 := by omega
  have h3 : 0x355 + k.val ≠ 0x354 := by omega
  have h4 : 0x355 ≤ 0x355 + k.val ∧ 0x355 + k.val ≤ 0x357 := by omega
  rw [State.writeDieCsr, if_neg h1, if_neg h2, if_neg h3, if_pos h4, hk]

/-- A write of `ILMAPn` takes the schemes; the data of a region whose scheme stays is what it was. -/
theorem csrw_ilmap {s : State} {e : Nat} {c : Fin 2} (hs : s.turn = .svc e c) (b : BitVec 5) (k : Fin 3) :
    ∃ t, exec (.csrw b (BitVec.ofNat 12 (0x355 + k.val))) s = .next t ∧ t.agentOf s.turn = s.me.past ∧
      (t.die e).but c = Die.but { s.die e with mc := { (s.die e).mc with
        ilmap := (s.die e).mc.ilmap.set k (s.rx b &&& 0x7777777777777777#64) } } c ∧
      (∀ u, t.tile u = s.tile u) ∧ (∀ j, j ≠ e → t.die j = s.die j) ∧ (∀ j, j ≠ modOfDie e → t.module j = s.module j) ∧
      ∀ z, z / 2 ^ 34 / 16 ≠ k.val ∨
        (s.die e).mc.ilmap[k].toNat / 2 ^ (4 * (z / 2 ^ 34 % 16)) % 8 = (s.rx b).toNat / 2 ^ (4 * (z / 2 ^ 34 % 16)) % 8 →
          (t.module (modOfDie e)).hbm.get z = (s.module (modOfDie e)).hbm.get z := by
  obtain ⟨hn, hd, hr, hne⟩ := ilmap_number k
  have hw := s.writeDieCsr_ilmap e k (s.rx b)
  rw [← hn] at hd hr hne hw
  obtain ⟨hdie, htile, hdies, hmodules⟩ := s.ilmapWrite_units e k (s.rx b)
  obtain ⟨t, ht, ho⟩ := csrw_die hs hd hr (fun h => absurd h hne) hw (SameCores.ilmapWrite ..)
  rw [hs] at ho ⊢
  refine ⟨t, ht, ho.agent, ?_, fun u => (ho.svc_tile u).trans (htile u), fun j hj => (ho.svc_die_ne hj).trans (hdies j hj),
    fun j hj => (ho.module j).trans (hmodules j hj), fun z hz => ?_⟩
  · rw [ho.svc_but, hdie]
  · rw [ho.module]
    exact s.ilmapWrite_hbm e k _ z hz

theorem Die.putCsr_fmode (x : Die) (v : W) :
    x.putCsr 0x350 v = { x with mc := { x.mc with fmodeRec := decide (v.toNat % 2 = 1) } } := by
  have hv : v.fld 0 1 = v.toNat % 2 := W.fld_zero v 1
  rw [← hv]
  rfl

/-- `PCAP` is held between its bounds (R420). -/
theorem csrw_pcap {s : State} {e : Nat} {c : Fin 2} (hs : s.turn = .svc e c) (b : BitVec 5) :
    ∃ t, exec (.csrw b 0x370) s = .next t ∧ t.agentOf s.turn = s.me.past ∧
      (t.module (modOfDie e)).pcap.toNat = min 7500 (max 4000 ((s.rx b).toNat % 2 ^ 13)) ∧ ∀ u, t.tile u = s.tile u := by
  obtain ⟨t, ht, ho⟩ := csrw_die hs (n := 0x370) rfl rfl nofun (b := b)
    (y := s.pcapWrite (modOfDie e) ((s.rx b).fld 0 13)) rfl (SameCores.pcapWrite ..)
  rw [hs] at ho ⊢
  refine ⟨t, ht, ho.agent, ?_, ho.svc_tile⟩
  rw [ho.module, State.pcapWrite, State.modModule_module_self, clampTo_eq, W.fld_zero]
  exact Nat.mod_eq_of_lt (by omega)

/-- `PODLAT` belongs to the module. -/
theorem State.writeDieCsr_podlat (s : State) (e : Nat) (v : W) :
    s.writeDieCsr e 0x37D v = s.modModule (modOfDie e) fun y => { y with podLat := BitVec.ofNat 16 (v.toNat / 2 ^ 32) } := by
  have hv : BitVec.ofNat 16 (v.fld 32 16) = BitVec.ofNat 16 (v.toNat / 2 ^ 32) := BitVec.eq_of_toNat_eq (by simp [W.fld])
  rw [← hv]
  rfl

/-! ## What the die CSRs read -/

/-- A number whose read changes nothing. -/
def readsOnly (n : Nat) : Bool := isDieCsr n && decide (n ≠ 0x305) && decide (n ≠ 0x354) && decide (n ≠ 0x35C)

/-- What the die CSRs with a value of their own read. -/
def State.dieCsrs (s : State) (e : Nat) : List (BitVec 12 × W) :=
  let x := s.die e
  let y := s.module (modOfDie e)
  let nat (k : Nat) : W := BitVec.ofNat 64 k
  [(0x300#12, s.podTime (modOfDie e) s.clk), (0x301#12, x.qd.commit), (0x302#12, x.qd.abort),
    (0x303#12, nat (x.qd.selfTests.toNat + x.qd.selfFails.toNat * 2 ^ 32)), (0x304#12, x.qd.late), (0x306#12, x.qd.shape.setWidth 64),
    (0x310#12, x.mc.hdsize.setWidth 64), (0x320#12, nat (x.ex.coll.toNat + x.ex.win.toNat * 2 ^ 32)),
    (0x321#12, x.ex.held.setWidth 64), (0x322#12, x.ex.drop), (0x330#12, x.ff.ewin.setWidth 64), (0x331#12, x.ff.sweeps),
    (0x332#12, nat x.ff.noiseOk.toNat), (0x333#12, x.ff.spares[0]), (0x334#12, x.ff.spares[1]), (0x335#12, x.ff.spares[2]),
    (0x336#12, x.ff.spares[3]), (0x340#12, x.lk.ctmo.setWidth 64), (0x341#12, x.lk.cbsize.setWidth 64),
    (0x342#12, x.lk.olcfg.setWidth 64), (0x343#12, nat (x.lk.port.up.toNat + x.lk.port.replay.toNat * 2 ^ 32)),
    (0x344#12, x.lk.fails)] ++
   [(0x350#12, nat x.mc.fmodeRec.toNat), (0x351#12, nat (x.mc.fqBase.toNat + x.mc.fqSz.toNat * 2 ^ 40)),
    (0x353#12, nat (x.mc.physa.toNat + x.mc.physUE.toNat * 2 ^ 63)), (0x355#12, x.mc.ilmap[0]), (0x356#12, x.mc.ilmap[1]),
    (0x357#12, x.mc.ilmap[2]), (0x358#12, x.mc.rsvN.setWidth 64), (0x359#12, x.mc.migCtl.setWidth 64),
    (0x35A#12, nat (x.mc.migBusy.toNat + x.mc.migRefused.toNat * 2 + x.mc.migTable.length * 2 ^ 16)),
    (0x35B#12, nat (x.mc.pprCtl.toNat + x.mc.pprBusy.toNat * 2 ^ 61 + x.mc.pprFail.toNat * 2 ^ 62)),
    (0x360#12, x.ctl.rctl.setWidth 64), (0x361#12, x.ctl.rcbpa.setWidth 64), (0x370#12, y.pcap.setWidth 64),
    (0x371#12, y.pslew.setWidth 64), (0x372#12, nat (y.pwr.toNat + y.caplim.toNat * 2 ^ 16 + y.powerOver.toNat * 2 ^ 24 +
      y.slewHold.toNat * 2 ^ 32)), (0x374#12, nat (x.ctl.corrSram.toNat + x.ctl.corrHbm.toNat * 2 ^ 32)),
    (0x375#12, x.ctl.tspare[0]), (0x376#12, x.ctl.tspare[1]), (0x377#12, x.ctl.tspare[2]), (0x378#12, x.ctl.tspare[3]),
    (0x379#12, x.ctl.rspsel.setWidth 64), (0x37B#12, y.lfence.setWidth 64),
    (0x37C#12, nat (x.ctl.tempDie.toNat + x.ctl.tempHbm.toNat * 2 ^ 8 + x.ctl.throt.toNat * 2 ^ 16)),
    (0x37D#12, nat (y.ptpLock.toNat + y.ptpOfs.toNat * 2 ^ 16 + y.podLat.toNat * 2 ^ 32)),
    (0x37E#12, nat (y.attPa.toNat + y.attBusy.toNat * 2 ^ 62)), (0x37F#12, y.bootstat)]

theorem dieCsr_dieCsrs (s : State) (e : Nat) : ∀ p ∈ s.dieCsrs e, readsOnly p.1.toNat = true ∧ s.dieCsr e p.1.toNat = p.2 := by
  simp only [State.dieCsrs, List.cons_append, List.nil_append, List.forall_mem_cons, List.not_mem_nil, false_implies, implies_true, and_true]
  and_intros
  all_goals rfl

/-- `QCREC` gives its only record and is empty then (R199). -/
theorem csrr_qcrec {s : State} {e : Nat} {c : Fin 2} (hs : s.turn = .svc e c) (d : BitVec 5) {r : W} (h : (s.die e).qd.qcrec = [r]) :
    ∃ t, exec (.csrr d 0x305) s = .next t ∧ t.agentOf s.turn = (s.me.wx d r).past ∧ (t.die e).qd.qcrec = [] := by
  have hr : s.readDieCsr e 0x305 = (r, s.modDie e fun x => { x with qd := { x.qd with qcrec := [] } }) := by
    show s.qcrecRead e = _
    simp only [State.qcrecRead, h]
  have hc := (SameCores.refl s).modDie e (f := fun x => { x with qd := { x.qd with qcrec := [] } })
  obtain ⟨t, ht, ho⟩ := State.doneX_from hc.1 (by rw [State.me, hs]; exact hc.agentOf e c) d r
  have he : exec (.csrr d 0x305) s = (s.readDieCsr e 0x305).2.doneX d (s.readDieCsr e 0x305).1 :=
    exec_csrr_die hs (n := 0x305) rfl (by decide) d
  refine ⟨t, by rw [he, hr]; exact ht, ho.agent, ?_⟩
  rw [hs] at ho
  have hq : ((t.die e).but c).qd = (((s.modDie e fun x => { x with qd := { x.qd with qcrec := [] } }).die e).but c).qd := congrArg Die.qd ho.svc_but
  rw [State.modDie_die_self] at hq
  exact congrArg QuadCtl.qcrec hq

end Sys2Proof.Machine
end

/-! The obligation on `csrr` and `csrw`. -/
section
namespace Sys2Proof.Machine

theorem csrReadOnly_win (k : Fin 8) : csrReadOnly (0x201 + k.val) = false := by
  revert k
  decide

/-- Settles O43: below 0x300 a number reads what its core type has and stores what it may; a die CSR stores its fields, or does what the firmware
command of the same name does. -/
theorem csrsComplete : Obligations.CsrsComplete := by
  refine ⟨?_, ?_, ?_, ?_⟩
  · intro s u me d b n hs
    dsimp only
    obtain ⟨hcause, hepc, hfaddr, htvec, hscratch, hwdog⟩ := csrw_own s b
    refine ⟨fun x hx => ?_, fun k hk => ?_, fun hme => ?_, ⟨fun hme => ?_, fun hme => ?_, fun hn hd => ?_⟩, fun hacc => ?_, fun hme => ?_,
      fun hme => ?_, hcause, hepc, hfaddr, htvec, hscratch, hwdog, ?_, fun hr => csrw_readOnly hr b, fun hd => csr_die_of_tile hs hd d b⟩
    · obtain ⟨hlt, h⟩ := csrOf_tileCsrs hs (n, x) hx
      exact csrr_completes (isDieCsr_of_lt hlt) h d
    · have h := csrOf_win hs k hk
      have hlt : n.toNat < 0x300 := by omega
      refine ⟨csrr_completes (isDieCsr_of_lt hlt) h d, ?_⟩
      exact csrw_tile hs (by omega) hlt h (hk ▸ csrReadOnly_win k) fun tl => tl.putCsr_win k hk _
    · obtain ⟨-, h⟩ := csrOf_strand hs hme
      exact ⟨_, csrr_completes rfl h d, Tile.live_lt _, fun a ha => Tile.live_bit _ ha⟩
    · obtain ⟨h5, h6⟩ := csrOf_not_strand hs hme
      exact ⟨⟨csrr_missing rfl h5 d, csrw_missing rfl h5 b⟩, csrr_missing rfl h6 d, csrw_missing rfl h6 b⟩
    · obtain ⟨h3, h4⟩ := csrOf_not_shape hs hme
      exact ⟨⟨csrr_missing rfl h3 d, csrw_missing rfl h3 b⟩, csrr_missing rfl h4 d, csrw_missing rfl h4 b⟩
    · have h := csrOf_tile_none hs hn
      exact ⟨csrr_missing hd h d, csrw_missing hd h b⟩
    · refine ⟨_, csrr_completes rfl (csrOf_accown hs) d, fun k => ⟨fun hk => ?_, fun h p hk => ?_⟩⟩
      · rw [Tile.accown_field _ hacc, hk]; rfl
      · rw [Tile.accown_field _ hacc, hk]; rfl
    · obtain ⟨h6, -⟩ := csrOf_strand hs hme
      exact ⟨csrr_completes rfl h6 d, csrw_agent (by decide) h6 rfl b, csrw_readOnly rfl b⟩
    · obtain ⟨h3, h4⟩ := csrOf_shape hs hme
      exact ⟨csrr_completes rfl h3 d, csrr_completes rfl h4 d,
        csrw_tile hs (n := 0x103) (by decide) (by decide) h3 rfl fun tl => tl.putCsr_srkey0 _,
        csrw_tile hs (n := 0x104) (by decide) (by decide) h4 rfl fun tl => tl.putCsr_srkey1 _⟩
    · exact csrw_tile hs (n := 0x200) (by decide) (by decide) (csrOf_vmask hs) rfl fun tl => tl.putCsr_vmask _
  · intro s e c d b n hs
    dsimp only
    obtain ⟨hcause, hepc, hfaddr, htvec, hscratch, hwdog⟩ := csrw_own s b
    refine ⟨fun x hx => ?_, hcause, hepc, hfaddr, htvec, hscratch, hwdog, fun hn => csrw_readOnly ?_ b, fun hn hd => ?_⟩
    · obtain ⟨hlt, h⟩ := csrOf_svcCsrs hs (n, x) hx
      exact csrr_completes (isDieCsr_of_lt hlt) h d
    · revert n
      decide
    · have h := csrOf_svc_none hs hn
      exact ⟨csrr_missing hd h d, csrw_missing hd h b⟩
  · intro s e c b hs
    dsimp only
    refine ⟨fun k hk => ?_, ?_, ?_, ?_, ?_, fun ha => ?_, fun go => ⟨?_, ?_, ?_⟩, fun go => ⟨?_, ?_, ?_, ?_⟩,
      fun go => ⟨?_, ?_, ?_, ?_, ?_⟩, ?_, fun k => ?_⟩
    · obtain ⟨hd, hr, hne, hlt⟩ := spare_number hk
      have hn : (BitVec.ofNat 12 k).toNat = k := Nat.mod_eq_of_lt hlt
      rw [← hn] at hd hr hne
      refine csrw_does hs hd hr (fun h => absurd h hne) (exec_spareControlWrite ..) ?_ (SameCores.spareCsr ..)
      rw [hn]
      exact if_pos hk
    · exact csrw_does hs (n := 0x351) rfl rfl nofun rfl rfl (SameCores.fqbaseWrite ..)
    · exact csrw_does hs (n := 0x370) rfl rfl nofun rfl rfl (SameCores.pcapWrite ..)
    · exact csrw_does hs (n := 0x371) rfl rfl nofun rfl rfl (SameCores.pslewWrite ..)
    · exact csrw_does hs (n := 0x37C) rfl rfl nofun rfl rfl (SameCores.throtWrite ..)
    · exact csrw_does hs (n := 0x354) rfl rfl (fun _ => ha) (if_neg (not_not.mpr ha)) rfl (SameCores.physdWrite ..)
    · exact csrw_does hs (n := 0x359) rfl rfl nofun (exec_migrationStart_go s e go) rfl (SameCores.migctlWrite ..)
    · exact csrw_does hs (n := 0x35B) rfl rfl nofun (exec_pprStart_go s e go) rfl (SameCores.pprctlWrite ..)
    · exact csrw_does hs (n := 0x37E) rfl rfl nofun (exec_attestationStart_go s e go) rfl (SameCores.attctlWrite ..)
    · exact csrw_die_put hs (n := 0x359) rfl rfl (by decide) (s.migctlWrite_store e go) fun _ => rfl
    · exact csrw_die_put hs (n := 0x35B) rfl rfl (by decide) (s.pprctlWrite_store e go) fun x => by split <;> rfl
    · exact csrw_die_put hs (n := 0x360) rfl rfl (by decide) (if_neg (mt (W.fld_go_iff _).mp go)) fun _ => rfl
    · exact csrw_module_put hs (n := 0x37E) rfl rfl (by decide) (s.attctlWrite_store (modOfDie e) go)
    · exact fun hop => csrw_rctl hs go hop rfl
    · exact fun hop => csrw_rctl hs go hop rfl
    · exact fun hop => csrw_rctl hs go hop rfl
    · exact fun hop => csrw_rctl hs go hop rfl
    · exact fun hop => csrw_die_put hs (n := 0x360) rfl rfl (by decide) (s.writeDieCsr_rctl_none e go hop) fun _ => rfl
    · exact csrw_module_put hs (n := 0x37D) rfl rfl (by decide) (s.writeDieCsr_podlat e _)
    · exact csrw_ilmap hs b k
  · intro s e c d b n hs hn
    dsimp only
    refine ⟨fun h1 h2 h3 => csrr_die hs hn h1 h2 h3 d, fun z hz => ?_, fun r h => csrr_qcrec hs d h, fun hr => csrw_die_readOnly hs hn hr b,
      fun ha => ⟨csrr_physd_unaligned hs d ha, csrw_physd_unaligned hs b ha⟩, ?_, ?_, ?_, ?_, ?_, ?_, ?_, ?_, ?_, ?_, ?_, ?_⟩
    · obtain ⟨hk, hv⟩ := dieCsr_dieCsrs s e (n, z) hz
      simp only [readsOnly, Bool.and_eq_true, decide_eq_true_eq] at hk
      obtain ⟨⟨⟨-, h1⟩, h2⟩, h3⟩ := hk
      dsimp only at hv
      exact hv ▸ csrr_die hs hn (ne_of_apply_ne _ h1) (ne_of_apply_ne _ h2) (ne_of_apply_ne _ h3) d
    · exact csrw_die_store hs (n := 0x306) rfl rfl (by decide) rfl rfl
    · exact csrw_die_store hs (n := 0x310) rfl rfl (by decide) rfl rfl
    · exact csrw_die_store hs (n := 0x330) rfl rfl (by decide) rfl rfl
    · exact csrw_die_store hs (n := 0x340) rfl rfl (by decide) rfl rfl
    · exact csrw_die_store hs (n := 0x341) rfl rfl (by decide) rfl rfl
    · exact csrw_die_store hs (n := 0x342) rfl rfl (by decide) rfl rfl
    · exact csrw_die_store hs (n := 0x350) rfl rfl (by decide) rfl (Die.putCsr_fmode ..)
    · exact csrw_die_store hs (n := 0x353) rfl rfl (by decide) rfl rfl
    · exact csrw_die_store hs (n := 0x358) rfl rfl (by decide) rfl rfl
    · exact csrw_die_store hs (n := 0x361) rfl rfl (by decide) rfl rfl
    · exact csrw_die_store hs (n := 0x379) rfl rfl (by decide) rfl rfl
    · exact csrw_pcap hs b
end Sys2Proof.Machine
end
/-! Semaphores (R101-R108): the operations on a count, completions, waits granted and waits that expire. -/
section
namespace Sys2Proof.Machine

/-! ## The agent that acts, after a change of its tile -/

theorem State.here_of_turn {s : State} {u : Nat} {b : Fin 10} (h : s.turn = .tile u b) : s.here = u := by rw [State.here, h]

/-- A change of the tile that leaves the agents leaves the context of the agent of the turn. -/
theorem State.modTile_me {s : State} {u : Nat} {b : Fin 10} {f : Tile → Tile} (h : s.turn = .tile u b)
    (hf : (f (s.tile u)).cur.agents = (s.tile u).cur.agents) : (s.modTile u f).me = s.me := by
  rw [State.me, State.me, State.modTile_turn, h, State.agentOf, State.modTile_tile_self, hf]
  rfl

/-! ## Releases (R229, R231, R271) -/

section release
variable {s : State} (k : State → Out)

theorem State.release_of_drained (h : s.drained) : s.release k = k s := by
  obtain ⟨hb, he⟩ := h
  simp [State.release, hb, he]

theorem State.release_of_busy (h : s.hartBusy = true) : s.release k = s.waitOn .drain := if_pos h

theorem State.release_of_entry {e : MatEntry} (hb : s.hartBusy = false) (he : s.myEntry (fun _ => true) = some e) :
    s.release k = s.waitOn (.matrix e.id) := by
  simp [State.release, hb, he]

end release

/-! ## What an instruction does where it comes to one of the shared ends -/

theorem Waits.of_exec {i : Instr} {s : State} {on : WaitOn} (h : exec i s = s.waitOn on) : Waits i s on := by
  unfold Waits WaitsIn
  rw [h]
  exact s.waitOn_does on

theorem Traps.of_exec {i : Instr} {s : State} {code : Nat} {faddr : W} (h : exec i s = s.trap code faddr) : Traps i s code faddr := by
  unfold Traps
  rw [h]
  exact s.trap_does code faddr

theorem Completes.of_exec {i : Instr} {s : State} {g : Agent} (h : exec i s = s.done g) : Completes i s g.past := by
  unfold Completes CompletesIn
  rw [h]
  exact s.done_does g

/-- An instruction that sets a semaphore of its tile and goes on. -/
theorem CompletesIn.of_setSem {i : Instr} {s : State} {u : Nat} {b : Fin 10} {k v : Nat} (ht : s.turn = .tile u b)
    (h : exec i s = (s.modTile u fun tl => tl.setSem k v).doneNop) : CompletesIn i s s.me.past fun tl => tl.setSem k v := by
  have hm : (s.modTile u fun tl => tl.setSem k v).me = s.me := State.modTile_me ht rfl
  rw [State.doneNop, hm] at h
  unfold CompletesIn
  rw [h]
  exact s.doneIn_does u b _ _ ht rfl rfl

/-! ## The instructions (R104-R108) -/

section instructions
variable {s : State} {u : Nat} {b : Fin 10} (ht : s.turn = .tile u b) (a : BitVec 5) (k : BitVec 6)
include ht

theorem execSemv_eq : execSemv a k s = s.release fun s =>
    if 65535 < (s.tile s.here).sem k.toNat + (if a = 0 then 1 else (s.rx a).toNat) then s.trap 0x17 (BitVec.ofNat 64 k.toNat)
    else (s.modTile s.here fun tl => tl.setSem k.toNat (tl.sem k.toNat + if a = 0 then 1 else (s.rx a).toNat)).doneNop :=
  State.onTile_eq ⟨u, b, ht⟩ ..

theorem exec_semv_fits (hd : s.drained) (hn : (s.tile u).sem k.toNat + (if a = 0 then 1 else (s.rx a).toNat) ≤ 65535) :
    exec (.semv a k) s =
      (s.modTile u fun tl => tl.setSem k.toNat ((s.tile u).sem k.toNat + if a = 0 then 1 else (s.rx a).toNat)).doneNop := by
  show execSemv a k s = _
  rw [execSemv_eq ht, State.release_of_drained _ hd, State.here_of_turn ht, if_neg (Nat.not_lt.mpr hn)]
  rfl

theorem exec_semv_over (hd : s.drained) (hn : 65535 < (s.tile u).sem k.toNat + if a = 0 then 1 else (s.rx a).toNat) :
    exec (.semv a k) s = s.trap 0x17 (BitVec.ofNat 64 k.toNat) := by
  show execSemv a k s = _
  rw [execSemv_eq ht, State.release_of_drained _ hd, State.here_of_turn ht, if_pos hn]

theorem exec_semset (hd : s.drained) :
    exec (.semset a k) s = (s.modTile u fun tl => tl.setSem k.toNat ((s.rx a).toNat % 65536)).doneNop := by
  show execSemset a k s = _
  rw [execSemset, State.onTile_eq ⟨u, b, ht⟩, State.release_of_drained _ hd, State.here_of_turn ht]

theorem exec_semget : exec (.semget a k) s =
    s.done (s.me.wx a (BitVec.ofNat 64 ((s.tile u).sem k.toNat - ((s.tile u).semWaiters k.toNat).length))) := by
  show execSemget a k s = _
  rw [execSemget, State.onTile_eq ⟨u, b, ht⟩, State.here_of_turn ht]
  rfl

theorem exec_semp : exec (.semp k) s = s.waitOn (.semp k.toNat) := by
  show execSemp k s = _
  rw [execSemp, State.onTile_eq ⟨u, b, ht⟩]

theorem exec_sempt (e : BitVec 5) : exec (.sempt e a k) s = s.waitOn (.sempt k.toNat e (s.clk + (s.rx a).toNat)) := by
  show execSempt e a k s = _
  rw [execSempt, State.onTile_eq ⟨u, b, ht⟩]

end instructions

/-! ## Completions (R101, R104) -/

/-- A cause that reaches an agent with none pending is pending, and nothing else of its context changes. -/
theorem Agent.defer_of_none {g : Agent} (h : g.deferred = none) (code : Nat) (faddr : W) :
    g.defer code faddr = { g with deferred := some ⟨code, faddr⟩ } := by
  simp only [Agent.defer, h]

/-- A completion at the bound: the count stays, and cause 0x17 reaches a running agent. -/
theorem State.complete_at_bound {s : State} {u k : Nat} {a : Fin 10} (hk : (s.tile u).sem k = 65535)
    (hr : (s.agentOf (.tile u a)).st = .run) :
    s.complete u k a = s.setAgentOf (.tile u a) ((s.agentOf (.tile u a)).defer 0x17 (BitVec.ofNat 64 k)) := by
  have hst : ((s.tile u).cur.agents[a]).st = .run := hr
  rw [State.complete, if_pos hk]
  simp only [State.deferTo, hst]
  rfl

theorem State.complete_below_bound {s : State} {u k : Nat} (a : Fin 10) (hk : (s.tile u).sem k < 65535) :
    s.complete u k a = s.modTile u fun tl => tl.setSem k ((s.tile u).sem k + 1) := if_neg (Nat.ne_of_lt hk)

/-- Cause 0x17 of a completion at the bound, and how the agent takes it (R101, R120). -/
theorem deferred_at_bound {s : State} {u k : Nat} {a : Fin 10} (hk : (s.tile u).sem k = 65535) (hr : (s.agentOf (.tile u a)).st = .run)
    (hd : (s.agentOf (.tile u a)).deferred = none) (hres : (s.agentOf (.tile u a)).resuming = false) :
    ((s.complete u k a).tile u).sem k = 65535 ∧
      ((s.complete u k a).agentOf (.tile u a)).deferred = some ⟨0x17, BitVec.ofNat 64 k⟩ ∧
      ∃ x, exec (.deferredCause (.tile u a)) (s.complete u k a) = .next x ∧ Only (s.complete u k a) x (.tile u a)
        ((s.agentOf (.tile u a)).takeTrap (whoMem (.tile u a)) s.clk 0x17 (BitVec.ofNat 64 k) (s.agentOf (.tile u a)).pc) id := by
  have hg : (s.complete u k a).agentOf (.tile u a) =
      { s.agentOf (.tile u a) with deferred := some ⟨0x17, BitVec.ofNat 64 k⟩ } := by
    rw [State.complete_at_bound hk hr, State.agentOf_setAgentOf_self, Agent.defer_of_none hd]
  have hback : { (s.complete u k a).agentOf (.tile u a) with deferred := none } = s.agentOf (.tile u a) := by rw [hg, ← hd]
  have hsem : ((s.complete u k a).tile u).sem k = (s.tile u).sem k := by
    rw [State.complete_at_bound hk hr, State.setAgentOf, State.modTile_tile_self]
    rfl
  have hclk : (s.complete u k a).clk = s.clk := by
    rw [State.complete_at_bound hk hr]
    rfl
  have honly := (s.complete u k a).takeTrap_deferred_only (.tile u a) ⟨0x17, BitVec.ofNat 64 k⟩ (s.agentOf (.tile u a)).pc
  rw [hback, hclk] at honly
  refine ⟨hsem.trans hk, congrArg Agent.deferred hg, _, (exec_deferredCause_of_run (congrArg Agent.deferred hg) ?_).trans (if_neg ?_), ?_⟩
  · exact (congrArg Agent.st hg).trans hr
  · rw [congrArg Agent.resuming hg]
    simp [hres]
  · rw [hback, congrArg Agent.pc hg]
    exact honly

/-- Settles O12: each operation comes to one of its shared ends; at the bound a completion leaves the cause pending, which the boundary of a
running agent takes. -/
theorem semaphoreCounts : Obligations.SemaphoreCounts := by
  refine ⟨fun s u b e a k ht => ⟨fun hd hn => .of_setSem ht (exec_semv_fits ht a k hd hn), fun hd hn => .of_exec (exec_semv_over ht a k hd hn),
    fun hb => .of_exec ?_, fun x hb hx => .of_exec ?_, fun hd => .of_setSem ht (exec_semset ht a k hd), .of_exec (exec_semget ht e k)⟩,
    fun s u k a _ => ⟨State.complete_below_bound a, fun hk hr hd hres => ?_⟩⟩
  · exact (execSemv_eq ht a k).trans (State.release_of_busy _ hb)
  · exact (execSemv_eq ht a k).trans (State.release_of_entry _ hb hx)
  · exact deferred_at_bound hk hr hd hres

/-! ## Waits granted, waits that expire (R102, R105, R106) -/

/-- The first of the agents that a test picks, in ascending index. -/
theorem filter_finRange_eq_cons {n : Nat} {p : Fin n → Bool} {b : Fin n} (hb : p b = true) (hlt : ∀ c, c < b → p c = false) :
    ∃ l, (List.finRange n).filter p = b :: l := by
  obtain ⟨l, r, e⟩ := List.append_of_mem (List.mem_finRange b)
  have hs : (l ++ b :: r).Pairwise (· < ·) := e ▸ List.pairwise_lt_finRange n
  have hl : l.filter p = [] := List.filter_eq_nil_iff.mpr fun c hc =>
    Bool.not_eq_true _ ▸ hlt c ((List.pairwise_append.mp hs).2.2 c hc b List.mem_cons_self)
  exact ⟨r.filter p, by rw [e, List.filter_append, hl, List.nil_append, List.filter_cons_of_pos hb]⟩

/-- The context of an agent whose wait ended with its instruction completed at clk `n`. -/
def Agent.awake (g : Agent) (b : Fin 10) (n : Nat) : Agent := { g.past with st := wakeState b, heldFrom := n }

/-- A wait that ends with its instruction completed changes the agent's context and its core's count. -/
theorem State.finishWait_only (s : State) (u : Nat) (b : Fin 10) (g : Agent) :
    Only s (s.finishWait u b g) (.tile u b) (g.awake b s.clk) id := by
  have h1 := (s.setAgentOf_only (.tile u b) (g.awake b s.clk)).1
  have h2 := ((s.setAgentOf (.tile u b) (g.awake b s.clk)).retire_only (.tile u b)).1
  rw [State.agentOf_setAgentOf_self] at h2
  exact h1.trans h2

theorem State.modTile_finishWait_only (s : State) (u : Nat) (b : Fin 10) (g : Agent) (f : Tile → Tile)
    (hf : (f (s.tile u)).cur.agents = (s.tile u).cur.agents) :
    Only s ((s.modTile u f).finishWait u b g) (.tile u b) (g.awake b s.clk) f :=
  (s.modTile_only u b f (congrArg (·[b]) hf)).trans ((s.modTile u f).finishWait_only u b g)

section waits
variable {s : State} {u : Nat} {b : Fin 10} {k : Nat} (hn : (s.tile u).node = .run)
include hn

theorem exec_semaphoreGrant (h0 : 0 < (s.tile u).sem k) (hb : (s.agentOf (.tile u b)).wantsSem k = true)
    (hlt : ∀ c : Fin 10, c < b → (s.agentOf (.tile u c)).wantsSem k = false) : exec (.semaphoreGrant u k) s = .next
      ((s.modTile u fun tl => tl.setSem k (tl.sem k - 1)).finishWait u b (s.agentOf (.tile u b)).granted) := by
  obtain ⟨l, e⟩ := filter_finRange_eq_cons (p := fun c => (s.agentOf (.tile u c)).wantsSem k) hb hlt
  have hw : (s.tile u).semWaiters k = b :: l := e
  show execSemaphoreGrant u k s = _
  simp only [execSemaphoreGrant, h0, hn, and_self, if_true, hw]
  rfl

theorem exec_semptExpiry {e : BitVec 5} {limit : Nat} (h0 : (s.tile u).sem k = 0)
    (hb : (s.agentOf (.tile u b)).st = .wait (.sempt k e limit)) (hl : limit ≤ s.clk) :
    exec (.semptExpiry u b.val) s = .next (s.finishWait u b ((s.agentOf (.tile u b)).wx e 0)) := by
  have hst : ((s.tile u).cur.agents[b]).st = .wait (.sempt k e limit) := hb
  have hover : ((s.tile u).cur.agents[b]).limitOver s.clk = some (k, e) := by
    simp only [Agent.limitOver, hst]
    exact if_pos (Nat.div_le_div_right hl)
  show execSemptExpiry u b.val s = _
  simp only [execSemptExpiry, b.isLt, dif_pos, Fin.eta, hover, h0, hn, and_self, if_true]
  rfl

end waits

/-- Settles O13: the wait begins at issue; a grant takes the first of the waiting agents, an expiry the one it names. -/
theorem semaphoreWaitsComplete : Obligations.SemaphoreWaitsComplete := by
  refine fun s u b e a k => ⟨fun ht => ⟨.of_exec (exec_semp ht k), .of_exec (exec_sempt ht a k e)⟩,
    fun hn => ⟨fun h0 hlt => ⟨fun hst => ?_, fun limit hst => ?_⟩, fun limit hst hl h0 => ?_⟩⟩
  · have hw : (s.agentOf (.tile u b)).wantsSem k.toNat = true := by simp [Agent.wantsSem, hst]
    have hg : (s.agentOf (.tile u b)).granted = s.agentOf (.tile u b) := by simp only [Agent.granted, hst]
    rw [exec_semaphoreGrant hn h0 hw hlt, hg]
    exact ⟨_, rfl, s.modTile_finishWait_only u b _ _ rfl⟩
  · have hw : (s.agentOf (.tile u b)).wantsSem k.toNat = true := by simp [Agent.wantsSem, hst]
    have hg : (s.agentOf (.tile u b)).granted = (s.agentOf (.tile u b)).wx e 1 := by simp only [Agent.granted, hst]
    rw [exec_semaphoreGrant hn h0 hw hlt, hg]
    exact ⟨_, rfl, s.modTile_finishWait_only u b _ _ rfl⟩
  · rw [exec_semptExpiry hn h0 hst hl]
    exact ⟨_, rfl, s.finishWait_only u b _⟩

end Sys2Proof.Machine
end
/-! The exchange phase (R98, R99, R285-R295, R302, R357): what its shared operations change. -/
section
namespace Sys2Proof.Machine

/-! ## Causes recorded by a tile -/

@[simp] theorem State.sealCause_tile_self (s : State) (u code : Nat) :
    (s.sealCause u code).tile u = (s.tile u).record ⟨code, none⟩ := by
  rw [State.sealCause, State.modDie_tile, State.modTile_tile_self]

theorem State.sealCause_tile_ne (s : State) {u w : Nat} (code : Nat) (h : w ≠ u) : (s.sealCause u code).tile w = s.tile w := by
  rw [State.sealCause, State.modDie_tile, State.modTile_tile_ne _ _ h]

/-- The memory of a tile where one of the tiles recorded a cause is as before. -/
theorem State.sealCause_tm (s : State) (u w code : Nat) : ((s.sealCause u code).tile w).tm = (s.tile w).tm := by
  by_cases h : w = u
  · rw [h, State.sealCause_tile_self, Tile.record_tm]
  · rw [s.sealCause_tile_ne code h]

/-- A tile that has recorded no cause in its attempt records the first one. -/
theorem State.recordError_tile_first {s : State} {u : Nat} (h : (s.tile u).recorded = []) (code unit bank row : Nat) :
    (s.recordError u code unit bank row).tile u = (s.tile u).record ⟨code, some (unit, bank, row)⟩ := by
  have hnew : (s.tile u).hasRecorded code (unit, bank, row) = false := by simp [Tile.hasRecorded, h]
  simp [State.recordError, hnew]

theorem Tile.record_first {tl : Tile} (h : tl.recorded = []) (r : Recorded) : (tl.record r).recorded = [r] := by
  simp [Tile.record, h]

theorem State.recordError_flits (s : State) (u code unit bank row : Nat) : (s.recordError u code unit bank row).flits = s.flits := by
  unfold State.recordError
  dsimp only
  split <;> rfl

/-- A tile without a cause that meets a failed link records cause 0x14 against its boundary (R357). -/
theorem State.recordLink_first {s : State} {u : Nat} (h : (s.tile u).recorded = []) (m n : Nat) :
    ((s.recordLink u m n).tile u).recorded = [⟨0x14, some (6, n, 0)⟩] ∧ (n, m) ∈ ((s.recordLink u m n).tile u).linkMods ∧
      ((s.recordLink u m n).tile u).tm = (s.tile u).tm ∧ (s.recordLink u m n).flits = s.flits := by
  have hmem : (n, m) ∈ if (s.tile u).linkMods.contains (n, m) then (s.tile u).linkMods else (s.tile u).linkMods ++ [(n, m)] := by
    split
    · next hc => simpa using hc
    · simp
  unfold State.recordLink
  rw [State.recordError_tile_first (by simpa using h), State.recordError_flits, State.modTile_tile_self]
  exact ⟨Tile.record_first h _, hmem, rfl, rfl⟩

/-! ## Data over the die-to-die links (R353) -/

theorem State.sendLink_keeps (s : State) (d : Nat) (k : Fin 4) (bs : List Byte) :
    (s.sendLink d k bs).tiles = s.tiles ∧ (s.sendLink d k bs).flits = s.flits := ⟨rfl, rfl⟩

/-- Data that crosses links leaves the tiles and the flits on their way. -/
theorem State.crossLinks_keeps (s : State) (a b : Nat) (bs : List Byte) :
    (s.crossLinks a b bs).tiles = s.tiles ∧ (s.crossLinks a b bs).flits = s.flits := by
  have flits (k : Nat × Fin 4) (t : State) (h : t.tiles = s.tiles ∧ t.flits = s.flits) :
      let r := (flitCuts bs).foldl (fun t f => t.sendLink k.1 k.2 f) t
      r.tiles = s.tiles ∧ r.flits = s.flits :=
    List.foldlRecOn (motive := fun t : State => t.tiles = s.tiles ∧ t.flits = s.flits) (flitCuts bs) _ h fun _ h _ _ => h
  exact List.foldlRecOn (motive := fun t : State => t.tiles = s.tiles ∧ t.flits = s.flits) (hopsFrom 8 a b) _ ⟨rfl, rfl⟩
    fun t h k _ => flits k t h

theorem State.crossLinks_tile (s : State) (a b : Nat) (bs : List Byte) (w : Nat) : (s.crossLinks a b bs).tile w = s.tile w :=
  congrArg (kvGet Tile.reset · w) (s.crossLinks_keeps a b bs).1

theorem State.crossLinks_flits (s : State) (a b : Nat) (bs : List Byte) : (s.crossLinks a b bs).flits = s.flits :=
  (s.crossLinks_keeps a b bs).2

/-- Where no collective receive is scheduled, bytes read or landed meet no collective landing (R346). -/
theorem Tile.mixBytes_of_sends {tl : Tile} (h : ∀ c ∈ tl.col, c.send = true) (k : Nat) (runs : List (Nat × Nat)) (bs : List Byte) :
    tl.mixBytes k runs bs = bs := if_pos (List.all_eq_true.mpr h)

/-! ## The start of the exchange (R98, R175, R176, R294) -/

/-- The down packet of a tile that has travelled. -/
theorem State.downOf_eq {s : State} {u : Nat} {p : Down} {rest : List Down} (h : (s.tile u).down = p :: rest)
    (ht : p.sentAt / 2 < s.clk / 2) : s.downOf u p.kind = some p := by
  simp [State.downOf, h, ht]

theorem exec_exchangeStartPacket {s : State} {u : Nat} {p : Down} {rest : List Down} (hn : (s.tile u).node = .arrived)
    (hd : (s.tile u).down = p :: rest) (hk : p.kind = 0) (ht : p.sentAt / 2 < s.clk / 2) (hi : s.clk ≤ p.instant) :
    ∃ t, exec (.exchangeStartPacket u) s = .next t ∧ t.tile u = { s.tile u with
      down := rest, winEff := (s.tile u).cur.win, xStart := some p.instant, xEnded := false, offered := [] } := by
  have hp : s.downOf u 0 = some p := hk ▸ State.downOf_eq hd ht
  refine ⟨(s.modTile u fun tl => { tl with down := tl.down.drop 1 }).modTile u fun tl => { tl with
    winEff := tl.cur.win, xStart := some p.instant, xEnded := false, offered := [] }, ?_, ?_⟩
  · show execExchangeStartPacket u s = _
    simp only [execExchangeStartPacket, hp, hn, ne_eq, not_true_eq_false, if_false, if_neg (Nat.not_lt.mpr hi)]
  · simp [hd]

/-- The exchange program starts at its instant, or in the cycle of it: no entry is late. -/
theorem exec_exchangeStart {s : State} {u x : Nat} (hn : (s.tile u).node = .arrived) (hx : (s.tile u).xStart = some x) (h1 : x ≤ s.clk)
    (h2 : s.clk < x + 2) (hc : ∀ c ∈ (s.tile u).col, c.status ≠ .unfit) :
    exec (.exchangeStart u) s = .next (s.setTile u { s.tile u with
      node := .exch, xsched := (s.tile u).xsched.map fun e => { e with late := false }
      col := (s.tile u).col.map fun e => if e.status = .unfit then { e with status := .done } else e }) := by
  have hnow : (s.tile u).xCycle s.clk = 0 := by simp only [Tile.xCycle, hx, Option.getD_some]; omega
  have hunfit : ((s.tile u).col.any fun e => decide (e.status = .unfit)) = false := by simpa using hc
  show execExchangeStart u s = _
  simp only [execExchangeStart, hn, hx, if_neg (Nat.not_lt.mpr h1), hnow, Nat.not_lt_zero, decide_false, List.any_map, hunfit]
  simp [Function.comp_def]

/-! ## Flits sent (R285, R286, R292, R357) -/

/-- The runs of the flit that a send entry has in an exchange cycle. -/
def XEntry.flitRuns (e : XEntry) (now : Nat) : List (Nat × Nat) :=
  runsOf e.rc (64 * (now - e.cyc)) (min 64 (e.n - 64 * (now - e.cyc)))

/-- The flit that entry `e`, at place `k` of the schedule of tile `u`, has in the cycle of this clk. -/
def State.flitOf (s : State) (u k : Nat) (e : XEntry) : Flit :=
  ⟨u, e.peer, s.clk / 2 + reelLatency u e.peer, e.ra, e.daddr, k, (s.tile u).xCycle s.clk - e.cyc, e.n,
    (s.tile u).readRuns (e.flitRuns ((s.tile u).xCycle s.clk))⟩

section flitSend
variable {s : State} {u k : Nat} {e : XEntry} (hn : (s.tile u).node = .exch)
  (hd : (s.tile u).dueSend ((s.tile u).xCycle s.clk) = some (e, k))
  (hbad : (s.tile u).badRuns (e.flitRuns ((s.tile u).xCycle s.clk)) = none)
include hn hd hbad

/-- The flit of this cycle over a path whose links are up. -/
theorem flitSend_sends (hc : ∀ c ∈ (s.tile u).col, c.send = true) (hb : s.brokenOn (dieOfTile u) (dieOfTile e.peer) = none) :
    ∃ t, exec (.flitSend u) s = .next t ∧ t.flits = s.flits ++ [s.flitOf u k e] ∧ (t.tile u).tm = (s.tile u).tm := by
  have he : exec (.flitSend u) s = .next
      ({ s.setTile u ((s.tile u).setX k { e with moved := ((s.tile u).xCycle s.clk - e.cyc) :: e.moved }) with
          flits := s.flits ++ [s.flitOf u k e], free := s.free + 1 }.crossLinks (dieOfTile u) (dieOfTile e.peer) (s.flitOf u k e).data) := by
    show execFlitSend u s = _
    have hbad' : (s.tile u).badRuns (runsOf e.rc (64 * ((s.tile u).xCycle s.clk - e.cyc))
      (Nat.min 64 (e.n - 64 * ((s.tile u).xCycle s.clk - e.cyc)))) = none := hbad
    simp only [execFlitSend, hn, hd, hbad', hb, ne_eq, not_true_eq_false, if_false, Tile.mixBytes_of_sends hc]
    rfl
  refine ⟨_, he, State.crossLinks_flits .., ?_⟩
  rw [State.crossLinks_tile]
  show ((s.setTile u _).tile u).tm = _
  rw [State.tile_setTile_self]
  rfl

/-- The flit of this cycle over a path with a failed link: the first cause of its attempt that a tile meets is recorded. -/
theorem flitSend_meets_failed {l : Nat × Nat} (hb : s.brokenOn (dieOfTile u) (dieOfTile e.peer) = some l) (hr : (s.tile u).recorded = []) :
    ∃ t, exec (.flitSend u) s = .next t ∧ t.flits = s.flits ∧ (t.tile u).recorded = [⟨0x14, some (6, l.2, 0)⟩] ∧
      (l.2, l.1) ∈ (t.tile u).linkMods ∧ (t.tile u).tm = (s.tile u).tm := by
  have he : exec (.flitSend u) s = .next
      ((s.setTile u ((s.tile u).setX k { e with moved := List.range (flitsOf e.n) })).recordLink u l.1 l.2) := by
    show execFlitSend u s = _
    have hbad' : (s.tile u).badRuns (runsOf e.rc (64 * ((s.tile u).xCycle s.clk - e.cyc))
      (Nat.min 64 (e.n - 64 * ((s.tile u).xCycle s.clk - e.cyc)))) = none := hbad
    simp only [execFlitSend, hn, hd, hbad', hb, ne_eq, not_true_eq_false, if_false]
  obtain ⟨hrec, hlink, htm, hfl⟩ := State.recordLink_first
    (s := s.setTile u ((s.tile u).setX k { e with moved := List.range (flitsOf e.n) })) (u := u) (by simpa [Tile.setX] using hr) l.1 l.2
  rw [State.tile_setTile_self] at htm
  exact ⟨_, he, hfl, hrec, hlink, htm⟩

end flitSend

/-! ## Flits that arrive (R286, R293, R294) -/

/-- The state in which a flit that came alone has left the fabric. -/
def State.taken (s : State) : State := { s with flits := [] }

@[simp] theorem State.taken_tile (s : State) (w : Nat) : s.taken.tile w = s.tile w := rfl

theorem exec_flitArrival_alone {s : State} {f : Flit} (h : s.flits = [f]) (hf : f.cycle ≤ s.clk / 2) :
    exec (.flitArrival 0) s = .next (s.taken.landFlit f) := by
  show execFlitArrival 0 s = _
  simp [execFlitArrival, h, Nat.not_lt.mpr hf, State.taken]

/-- Two flits that reach one in-port in one cycle. -/
theorem exec_flitArrival_two {s : State} {f g : Flit} (h : s.flits = [f, g]) (hf : f.cycle ≤ s.clk / 2) (hd : g.dst = f.dst)
    (hc : g.cycle = f.cycle) : exec (.flitArrival 0) s = .next (s.taken.sealCause f.dst 0x0C) := by
  show execFlitArrival 0 s = _
  simp [execFlitArrival, h, Nat.not_lt.mpr hf, hd, hc, State.taken]

/-- A flit from `src` reaches the in-port of tile `u` in a cycle of receive entry `e` (R293). -/
def XEntry.Hit (e : XEntry) (src u now : Nat) : Prop :=
  e.send = false ∧ e.peer = src ∧ e.cyc + reelLatency src u ≤ now ∧ now < e.cyc + reelLatency src u + (e.n + 63) / 64

theorem XEntry.first_of_recv {e : XEntry} (h : e.send = false) (u : Nat) : e.first u = e.cyc + reelLatency e.peer u := by
  simp [XEntry.first, h]

section matching
variable {tl : Tile} {f : Flit} {u : Nat}

/-- The test by which a flit finds its entry. -/
theorem XEntry.hit_iff (e : XEntry) (now : Nat) : (!e.send && decide (e.peer = f.src) && decide (e.first u ≤ now) &&
    decide (now < e.first u + flitsOf e.n)) = true ↔ e.Hit f.src u now := by
  simp only [Bool.and_eq_true, Bool.not_eq_true', decide_eq_true_eq, and_assoc]
  refine and_congr_right fun hs => and_congr_right fun hp => ?_
  rw [XEntry.first_of_recv hs, hp]
  rfl

theorem Tile.matching_eq_none (h : ∀ e ∈ tl.xsched, ¬e.Hit f.src u (f.cycle - tl.xStart.getD 0 / 2)) : tl.matching u f = none := by
  refine List.find?_eq_none.mpr fun q hq hc => ?_
  exact h q.1 (List.fst_mem_of_mem_zipIdx hq) ((XEntry.hit_iff ..).mp hc)

theorem Tile.matching_eq_some {k : Nat} {e : XEntry} (hk : tl.xsched[k]? = some e) (he : e.Hit f.src u (f.cycle - tl.xStart.getD 0 / 2))
    (hlt : ∀ j y, j < k → tl.xsched[j]? = some y → ¬y.Hit f.src u (f.cycle - tl.xStart.getD 0 / 2)) : tl.matching u f = some (e, k) := by
  obtain ⟨hlen, rfl⟩ := List.getElem?_eq_some_iff.mp hk
  refine List.find?_eq_some_iff_getElem.mpr ⟨(XEntry.hit_iff ..).mpr he, k, by simpa using hlen, by simp, fun j hj => ?_⟩
  have hj' : j < tl.xsched.length := Nat.lt_trans hj hlen
  rw [Bool.not_eq_true', Bool.eq_false_iff]
  intro hc
  refine hlt j _ hj (List.getElem?_eq_getElem hj') ((XEntry.hit_iff ..).mp ?_)
  simpa using hc

end matching

section land
variable {s : State} {f : Flit} (hn : (s.tile f.dst).node = .exch ∨ (s.tile f.dst).node = .seal)
include hn

/-- A flit that its sender addresses: the window check, then it lands or is refused. -/
theorem State.landFlit_addressed (hra : f.ra = false) : s.landFlit f =
    if !(s.tile f.dst).admitsRuns [(f.daddr, f.n)] then s.refuse f
    else { s with free := s.free + 1 }.landRuns f.dst [(f.daddr + 64 * f.i, f.data.length)]
      ((s.tile f.dst).mixBytes s.free [(f.daddr + 64 * f.i, f.data.length)] f.data) := by
  rcases hn with hn | hn <;> simp [State.landFlit, hn, hra]

theorem State.landFlit_unmatched (hra : f.ra = true) (hm : (s.tile f.dst).matching f.dst f = none) :
    s.landFlit f = s.sealCause f.dst 0x0C := by
  rcases hn with hn | hn <;> simp [State.landFlit, hn, hra, hm]

/-- A flit that its receiver addresses and an open entry takes: the length, the window check, then it lands. -/
theorem State.landFlit_matched {e : XEntry} {k : Nat} (hra : f.ra = true) (hm : (s.tile f.dst).matching f.dst f = some (e, k))
    (hc : e.closed = false) (hl : e.late = false) : s.landFlit f =
    if e.n ≠ f.n then (s.modTile f.dst fun tl => tl.setX k { e with closed := true }).sealCause f.dst 0x0C
    else if !(s.tile f.dst).admitsRuns (runsOf e.rc 0 e.n) then (s.modTile f.dst fun tl => tl.setX k { e with closed := true }).refuse f
    else ({ s with free := s.free + 1 }.modTile f.dst fun tl => tl.setX k { e with
        moved := (f.cycle - (s.tile f.dst).xStart.getD 0 / 2 - e.first f.dst) :: e.moved }).landRuns f.dst
      (runsOf e.rc (64 * f.i) f.data.length) ((s.tile f.dst).mixBytes s.free (runsOf e.rc (64 * f.i) f.data.length) f.data) := by
  have hopen : (e.closed || e.late) = false := by simp [hc, hl]
  rcases hn with hn | hn <;> simp only [State.landFlit, hn, hra, hm, hopen, Bool.not_true, Bool.false_eq_true, if_false] <;> rfl

end land

theorem State.landRuns_fits {s : State} {u : Nat} {runs : List (Nat × Nat)} {bs : List Byte} {tl tl' : Tile} (ht : s.tile u = tl)
    (h : tl.fillRuns (layRuns runs bs) = (tl', none)) : s.landRuns u runs bs = s.setTile u tl' := by
  subst ht
  simp [State.landRuns, h]

/-- A transfer of another tile refused for the first time (R99): its sender alone records the cause. -/
theorem State.refuse_first {s : State} {f : Flit} {y : XEntry} (hy : (s.tile f.src).xsched[f.entry]? = some y) (hc : y.closed = false) :
    s.refuse f = (s.modTile f.src fun tl => tl.setX f.entry { y with closed := true }).sealCause f.src 0x0B := by
  simp [State.refuse, hy, hc]

theorem State.refuse_records {s : State} {f : Flit} {y : XEntry} {u : Nat} (hu : f.src ≠ u)
    (hy : (s.tile f.src).xsched[f.entry]? = some y) (hc : y.closed = false) :
    (s.refuse f).flits = s.flits ∧ (s.refuse f).tile u = s.tile u ∧ ⟨0x0B, none⟩ ∈ ((s.refuse f).tile f.src).recorded := by
  rw [State.refuse_first hy hc]
  refine ⟨rfl, ?_, ?_⟩
  · rw [State.sealCause_tile_ne _ _ hu.symm, State.modTile_tile_ne _ _ hu.symm]
  · rw [State.sealCause_tile_self]
    exact Tile.mem_record ..

/-! ## Flits that are missed, the end of the exchange (R294, R295) -/

theorem xrecvMissedFlit_records {s : State} {u e : Nat} {x : XEntry} (hn : (s.tile u).node = .exch) (hx : (s.tile u).xsched[e]? = some x)
    (hs : x.send = false) (hl : x.late = false) (hc : x.closed = false) (h1 : 1 ≤ x.n) (hf : x.first u < (s.tile u).xCycle s.clk)
    (hm : 0 ∉ x.moved) : exec (.xrecvMissedFlit u e) s =
      .next ((s.setTile u ((s.tile u).setX e { x with closed := true })).sealCause u 0x0C) := by
  have hpast : (List.range (flitsOf x.n)).any (fun k => decide (x.first u + k < (s.tile u).xCycle s.clk) && !x.moved.contains k) = true := by
    refine List.any_eq_true.mpr ⟨0, List.mem_range.mpr ?_, by simp [hf, hm]⟩
    unfold flitsOf
    omega
  show execXrecvMissedFlit u e s = _
  simp only [execXrecvMissedFlit, hn, hx, hs, hl, hc, hpast, Bool.or_self, Bool.false_eq_true, if_false, if_true]

theorem Tile.exchangeOver_iff {tl : Tile} {u clk : Nat} : tl.exchangeOver u clk = true ↔ ∀ e ∈ tl.xsched,
    if e.send = true then e.cyc + (e.n + 63) / 64 - 1 + 2 * reelLatency u e.peer ≤ tl.xCycle clk
    else e.first u + (e.n + 63) / 64 - 1 ≤ tl.xCycle clk ∧
      (e.closed = true ∨ e.late = true ∨ ∀ k, k < (e.n + 63) / 64 → k ∈ e.moved) := by
  refine List.all_eq_true.trans (forall_congr' fun e => imp_congr_right fun _ => ?_)
  cases e.send
  · simp [flitsOf, or_assoc]
  · exact decide_eq_true_iff

theorem exec_exchangeEnd {s : State} {u : Nat} (hn : (s.tile u).node = .exch) (he : (s.tile u).xEnded = false)
    (h : (s.tile u).exchangeOver u s.clk = true) : exec (.exchangeEnd u) s = .next (s.setTile u { s.tile u with xEnded := true }) :=
  if_pos ⟨hn, he, h⟩

theorem exec_exchangeEnd_open {s : State} {u : Nat} (h : (s.tile u).exchangeOver u s.clk = false) : exec (.exchangeEnd u) s = .next s :=
  if_neg fun ⟨_, _, ho⟩ => by simp [h] at ho

/-! ## Messages offered (R302, R357, R437) -/

/-- The tile with entry `k` of its outbox offered. -/
def Tile.offer (tl : Tile) (k : Nat) : Tile := { tl with offered := k :: tl.offered }

section offer
variable {s : State} {u k : Nat} {o : OutEntry} (hn : (s.tile u).node = .exch) (he : (s.tile u).xEnded = true)
  (ho : (s.tile u).cur.outbox[k]? = some o) (hk : k ∉ (s.tile u).offered) (hbad : (4, k) ∉ (s.tile u).badMb)
include hn he ho hk hbad

/-- An entry that can be offered: to another module where the link is up, to one of the module where every link of the path is. -/
theorem exec_messageOffer : exec (.messageOffer u k) s =
    if modOfTile o.dst ≠ modOfTile u ∧ (s.die (dieOfTile u)).lk.port.up = false then
      .next ((s.setTile u ((s.tile u).offer k)).recordError u 0x14 5 (dieOfTile u % 16) (modOfTile o.dst % 4096))
    else if modOfTile o.dst ≠ modOfTile u then
      .next ((s.setTile u ((s.tile u).offer k)).sendFrame (dieOfTile u) (s.tile u).olcfgEff (some (dieOfTile o.dst)) o.data)
    else
      match s.brokenOn (dieOfTile u) (dieOfTile o.dst) with
      | some n => .next ((s.setTile u ((s.tile u).offer k)).recordLink u n.1 n.2)
      | none => .next ((s.setTile u ((s.tile u).offer k)).crossLinks (dieOfTile u) (dieOfTile o.dst) o.data) := by
  have hgo : ¬((s.tile u).node ≠ .exch ∨ (s.tile u).xEnded = false ∨ (s.tile u).offered.contains k = true) := by simp [hn, he, hk]
  have hgood : ¬(s.tile u).badMb.contains (4, k) = true := by simpa using hbad
  show execMessageOffer u k s = _
  simp only [execMessageOffer, ho]
  rw [if_neg hgo, if_neg hgood]
  rfl

end offer

/-! ## The clauses on a flit that comes alone -/

section arrival
variable {s : State} {f : Flit} (hf : s.flits = [f]) (hcyc : f.cycle ≤ s.clk / 2)
  (hn : (s.tile f.dst).node = .exch ∨ (s.tile f.dst).node = .seal)
include hf hcyc hn

theorem flitArrival_unmatched (hra : f.ra = true)
    (hm : ∀ e ∈ (s.tile f.dst).xsched, ¬e.Hit f.src f.dst (f.cycle - (s.tile f.dst).xStart.getD 0 / 2)) :
    ∃ t, exec (.flitArrival 0) s = .next t ∧ t.flits = [] ∧ (t.tile f.dst).tm = (s.tile f.dst).tm ∧
      ⟨0x0C, none⟩ ∈ (t.tile f.dst).recorded := by
  have hland := State.landFlit_unmatched (s := s.taken) hn hra (Tile.matching_eq_none hm)
  refine ⟨_, (exec_flitArrival_alone hf hcyc).trans (congrArg _ hland), rfl, State.sealCause_tm .., ?_⟩
  rw [State.sealCause_tile_self]
  exact Tile.mem_record ..

/-- A flit lands: the bytes are laid over its runs. -/
theorem flitArrival_lands_addressed (hra : f.ra = false) (hc : ∀ c ∈ (s.tile f.dst).col, c.send = true) {tl' : Tile}
    (hadm : (s.tile f.dst).admitsRuns [(f.daddr, f.n)] = true)
    (hfill : (s.tile f.dst).fillRuns (layRuns [(f.daddr + 64 * f.i, f.data.length)] f.data) = (tl', none)) :
    ∃ t, exec (.flitArrival 0) s = .next t ∧ t.flits = [] ∧ t.tile f.dst = tl' := by
  have hland := State.landFlit_addressed (s := s.taken) hn hra
  rw [if_neg (by simpa using hadm), Tile.mixBytes_of_sends (tl := s.taken.tile f.dst) hc] at hland
  exact ⟨_, (exec_flitArrival_alone hf hcyc).trans (congrArg _ (hland.trans (State.landRuns_fits rfl hfill))), rfl, State.tile_setTile_self ..⟩

theorem flitArrival_refused_addressed (hra : f.ra = false) {y : XEntry} (hadm : (s.tile f.dst).admitsRuns [(f.daddr, f.n)] = false)
    (hsrc : f.src ≠ f.dst) (hy : (s.tile f.src).xsched[f.entry]? = some y) (hcl : y.closed = false) :
    ∃ t, exec (.flitArrival 0) s = .next t ∧ t.flits = [] ∧ t.tile f.dst = s.tile f.dst ∧ ⟨0x0B, none⟩ ∈ (t.tile f.src).recorded := by
  have hland := State.landFlit_addressed (s := s.taken) hn hra
  rw [if_pos (by simpa using hadm)] at hland
  exact ⟨_, (exec_flitArrival_alone hf hcyc).trans (congrArg _ hland), State.refuse_records (s := s.taken) hsrc hy hcl⟩

section matched
variable {e : XEntry} {k : Nat} (hra : f.ra = true) (hk : (s.tile f.dst).xsched[k]? = some e)
  (he : e.Hit f.src f.dst (f.cycle - (s.tile f.dst).xStart.getD 0 / 2))
  (hlt : ∀ j y, j < k → (s.tile f.dst).xsched[j]? = some y → ¬y.Hit f.src f.dst (f.cycle - (s.tile f.dst).xStart.getD 0 / 2))
  (hcl : e.closed = false) (hl : e.late = false)
include hra hk he hlt hcl hl

theorem flitArrival_wrong_length (hne : e.n ≠ f.n) : ∃ t, exec (.flitArrival 0) s = .next t ∧ t.flits = [] ∧
    (t.tile f.dst).tm = (s.tile f.dst).tm ∧ ⟨0x0C, none⟩ ∈ (t.tile f.dst).recorded := by
  have hland := State.landFlit_matched (s := s.taken) hn hra (Tile.matching_eq_some hk he hlt) hcl hl
  rw [if_pos hne] at hland
  refine ⟨_, (exec_flitArrival_alone hf hcyc).trans (congrArg _ hland), rfl, ?_, ?_⟩
  · rw [State.sealCause_tm, State.modTile_tile_self]
    rfl
  · rw [State.sealCause_tile_self]
    exact Tile.mem_record ..

theorem flitArrival_refused_matched (hlen : e.n = f.n) (hadm : (s.tile f.dst).admitsRuns (runsOf e.rc 0 e.n) = false)
    (hsrc : f.src ≠ f.dst) {y : XEntry} (hy : (s.tile f.src).xsched[f.entry]? = some y) (hyc : y.closed = false) :
    ∃ t, exec (.flitArrival 0) s = .next t ∧ t.flits = [] ∧ (t.tile f.dst).tm = (s.tile f.dst).tm ∧
      ⟨0x0B, none⟩ ∈ (t.tile f.src).recorded := by
  have hland := State.landFlit_matched (s := s.taken) hn hra (Tile.matching_eq_some hk he hlt) hcl hl
  rw [if_neg (not_not.mpr hlen), if_pos (by simpa using hadm)] at hland
  have hy' : ((s.taken.modTile f.dst fun tl => tl.setX k { e with closed := true }).tile f.src).xsched[f.entry]? = some y := by
    rw [State.modTile_tile_ne _ _ hsrc]
    exact hy
  obtain ⟨hfl, htile, hrec⟩ := State.refuse_records hsrc hy' hyc
  refine ⟨_, (exec_flitArrival_alone hf hcyc).trans (congrArg _ hland), hfl, ?_, hrec⟩
  rw [htile, State.modTile_tile_self]
  rfl

theorem flitArrival_lands_matched (hc : ∀ c ∈ (s.tile f.dst).col, c.send = true) (hlen : e.n = f.n)
    (hadm : (s.tile f.dst).admitsRuns (runsOf e.rc 0 e.n) = true) {tl' : Tile}
    (hfill : ((s.tile f.dst).setX k { e with
        moved := (f.cycle - (s.tile f.dst).xStart.getD 0 / 2 - (e.cyc + reelLatency f.src f.dst)) :: e.moved }).fillRuns
      (layRuns (runsOf e.rc (64 * f.i) f.data.length) f.data) = (tl', none)) :
    ∃ t, exec (.flitArrival 0) s = .next t ∧ t.flits = [] ∧ t.tile f.dst = tl' := by
  obtain ⟨hsend, hpeer, -⟩ := id he
  have hland := State.landFlit_matched (s := s.taken) hn hra (Tile.matching_eq_some hk he hlt) hcl hl
  rw [if_neg (not_not.mpr hlen), if_neg (by simpa using hadm), Tile.mixBytes_of_sends (tl := s.taken.tile f.dst) hc,
    XEntry.first_of_recv hsend] at hland
  rw [← hpeer] at hfill
  exact ⟨_, (exec_flitArrival_alone hf hcyc).trans (congrArg _ (hland.trans (State.landRuns_fits (State.modTile_tile_self ..) hfill))), rfl,
    State.tile_setTile_self ..⟩

end matched
end arrival

/-! ## The clauses on a message offered -/

section offered
variable {s : State} {u k : Nat} {o : OutEntry} (hn : (s.tile u).node = .exch) (he : (s.tile u).xEnded = true)
  (ho : (s.tile u).cur.outbox[k]? = some o) (hk : k ∉ (s.tile u).offered) (hbad : (4, k) ∉ (s.tile u).badMb)
include hn he ho hk hbad

theorem messageOffer_leaves (hm : modOfTile o.dst = modOfTile u) (hb : s.brokenOn (dieOfTile u) (dieOfTile o.dst) = none) :
    ∃ t, exec (.messageOffer u k) s = .next t ∧ t.tile u = (s.tile u).offer k := by
  have hx := exec_messageOffer hn he ho hk hbad
  simp only [hm, ne_eq, not_true_eq_false, false_and, if_false, hb] at hx
  exact ⟨_, hx, (State.crossLinks_tile ..).trans (State.tile_setTile_self ..)⟩

theorem messageOffer_meets_failed {l : Nat × Nat} (hm : modOfTile o.dst = modOfTile u)
    (hb : s.brokenOn (dieOfTile u) (dieOfTile o.dst) = some l) (hr : (s.tile u).recorded = []) :
    ∃ t, exec (.messageOffer u k) s = .next t ∧ (t.tile u).recorded = [⟨0x14, some (6, l.2, 0)⟩] ∧ (l.2, l.1) ∈ (t.tile u).linkMods := by
  have hx := exec_messageOffer hn he ho hk hbad
  simp only [hm, ne_eq, not_true_eq_false, false_and, if_false, hb] at hx
  obtain ⟨hrec, hlink, -⟩ := State.recordLink_first (s := s.setTile u ((s.tile u).offer k)) (u := u) (by simpa [Tile.offer] using hr) l.1 l.2
  exact ⟨_, hx, hrec, hlink⟩

theorem messageOffer_meets_down (hm : modOfTile o.dst ≠ modOfTile u) (hup : (s.die (dieOfTile u)).lk.port.up = false) :
    ∃ t, exec (.messageOffer u k) s = .next t ∧ ((s.tile u).recorded = [] → ∃ x, (t.tile u).recorded = [x] ∧ x.code = 0x14) := by
  refine ⟨_, (exec_messageOffer hn he ho hk hbad).trans (if_pos ⟨hm, hup⟩), fun hr =>
    ⟨⟨0x14, some (5, dieOfTile u % 16, modOfTile o.dst % 4096)⟩, ?_, rfl⟩⟩
  have hr' : ((s.setTile u ((s.tile u).offer k)).tile u).recorded = [] := by simpa [Tile.offer] using hr
  rw [State.recordError_tile_first hr']
  exact Tile.record_first hr' _

end offered

/-- Settles O33: the steps of the phase in the order of the statement, each by the lemma on its row. -/
theorem exchangePhaseRuns : Obligations.ExchangePhaseRuns := by
  refine fun s u => ⟨fun p rest hn hd hk ht hi => exec_exchangeStartPacket hn hd hk ht hi, fun x hn hx h1 h2 hc => ?_,
    fun e k hn hd hc hbad => ⟨flitSend_sends hn hd hbad hc, fun l => flitSend_meets_failed hn hd hbad⟩,
    fun f hf hcyc hdst hra hn hc => ?_, fun f hf hcyc hdst hra hn hc => ?_, fun f g hf hcyc hdst hg hgc => ?_,
    fun e x hn hx hs hl hcl h1 hfirst hm => ?_, fun hn he h => ?_, fun e hmem hs hcl hl hopen => ?_,
    fun k o hn he ho hk hbad => ⟨messageOffer_leaves hn he ho hk hbad, fun l => messageOffer_meets_failed hn he ho hk hbad,
      messageOffer_meets_down hn he ho hk hbad⟩⟩
  · refine ⟨_, exec_exchangeStart hn hx h1 h2 hc, ?_⟩
    rw [State.tile_setTile_self]
    exact ⟨rfl, by simp, by simp, rfl, rfl⟩
  · subst hdst
    exact ⟨flitArrival_unmatched hf hcyc hn hra, fun k e hk he hlt hcl hl => ⟨flitArrival_wrong_length hf hcyc hn hra hk he hlt hcl hl,
      fun hlen hadm hsrc y => flitArrival_refused_matched hf hcyc hn hra hk he hlt hcl hl hlen hadm hsrc,
      fun hlen hadm tl' => flitArrival_lands_matched hf hcyc hn hra hk he hlt hcl hl hc hlen hadm⟩⟩
  · subst hdst
    exact ⟨fun tl' => flitArrival_lands_addressed hf hcyc hn hra hc, fun e => flitArrival_refused_addressed hf hcyc hn hra⟩
  · subst hdst
    refine ⟨_, exec_flitArrival_two hf hcyc hg hgc, rfl, State.sealCause_tm .., ?_⟩
    rw [State.sealCause_tile_self]
    exact Tile.mem_record ..
  · refine ⟨_, xrecvMissedFlit_records hn hx hs hl hcl h1 hfirst hm, ?_, ?_⟩
    · rw [State.sealCause_tile_self]
      exact Tile.mem_record ..
    · rw [State.sealCause_tm, State.tile_setTile_self]
      rfl
  · exact ⟨_, exec_exchangeEnd hn he (Tile.exchangeOver_iff.mpr h), State.tile_setTile_self .., fun w hw => State.tile_setTile_ne _ _ hw⟩
  · refine exec_exchangeEnd_open (Bool.eq_false_iff.mpr fun hover => ?_)
    have hdone := Tile.exchangeOver_iff.mp hover e hmem
    obtain ⟨k, hk, hmoved⟩ := hopen
    simp only [hs, Bool.false_eq_true, if_false, hcl, hl, false_or] at hdone
    exact hmoved (hdone.2 k hk)

end Sys2Proof.Machine
end
/-! Aborts and stops (R94, R179-R184): the attempt of a tile undone. -/
section
namespace Sys2Proof.Machine

/-! ## What leaves the tiles alone -/

theorem State.tile_of_tiles {s t : State} (h : t.tiles = s.tiles) (w : Nat) : t.tile w = s.tile w := congrArg (kvGet Tile.reset · w) h

theorem State.setRecord_tiles (s : State) (d k v : Nat) : (s.setRecord d k v).tiles = s.tiles := by
  unfold State.setRecord
  dsimp only
  split
  · rfl
  · split <;> rfl

theorem State.voidRecords_tiles (s : State) (u : Nat) : (s.voidRecords u).tiles = s.tiles :=
  List.foldlRecOn (motive := fun t : State => t.tiles = s.tiles) _ _ rfl fun t h _ _ => (t.setRecord_tiles ..).trans h

theorem State.gldGone_tiles (s : State) (u a : Nat) : (s.gldGone u a).tiles = s.tiles := by
  refine List.foldlRecOn (motive := fun t : State => t.tiles = s.tiles) _ _ rfl fun t h c _ => ?_
  dsimp only
  split
  · split
    · exact h
    · exact h
  · exact h

/-! ## One line of the version store written back (R182, R183) -/

/-- The memory that a line of the version store undoes: the accumulators, or tile memory. -/
def Tile.undone (tl : Tile) (acc : Bool) : Memory := if acc = true then tl.acc else tl.tm

/-- The byte at an address lies in the line that `v` undoes. -/
def VsLine.At (v : VsLine) (a : Nat) : Prop := 64 * v.line ≤ a ∧ a < 64 * v.line + 64

section undo
variable (tl : Tile) (k : Nat) {v : VsLine}

theorem Tile.undo_frame (v : VsLine) : tl.undo k v = { tl with
    tm := (tl.undo k v).tm, bad := (tl.undo k v).bad, poison := (tl.undo k v).poison, acc := (tl.undo k v).acc, badAcc := (tl.undo k v).badAcc } := by
  unfold Tile.undo
  split <;> split <;> rfl

/-- The number of the free values that a line takes where it is lost. -/
def VsLine.freeNumber (v : VsLine) : Nat := if v.acc = true then k + 2 else k

/-- The memory of the line gets what the line held, or is unspecified there. -/
theorem Tile.undo_undone_same : (tl.undo k v).undone v.acc =
    if v.err = true then (tl.undone v.acc).forget (64 * v.line) 64 (v.freeNumber k) else (tl.undone v.acc).write (64 * v.line) v.old := by
  unfold Tile.undo Tile.undone VsLine.freeNumber
  cases v.acc <;> cases v.err <;> rfl

/-- The other memory stays. -/
theorem Tile.undo_undone_other {acc : Bool} (h : v.acc ≠ acc) : (tl.undo k v).undone acc = tl.undone acc := by
  obtain rfl : acc = !v.acc := by simpa using (Bool.eq_not_of_ne h.symm)
  unfold Tile.undo Tile.undone
  cases v.acc <;> cases v.err <;> rfl

/-- A line written back leaves every byte that is not its own. -/
theorem Tile.undo_get_out (hlen : v.old.length = 64) {acc : Bool} {a : Nat} (h : v.acc = acc → ¬v.At a) :
    ((tl.undo k v).undone acc).get a = (tl.undone acc).get a := by
  by_cases hacc : v.acc = acc
  · subst hacc
    have hout : a < 64 * v.line ∨ 64 * v.line + 64 ≤ a := by
      have := h rfl
      unfold VsLine.At at this
      omega
    rw [tl.undo_undone_same k]
    split
    · exact Memory.get_forget_out _ _ _ _ _ hout
    · exact Memory.get_write_out _ _ _ _ (hlen ▸ hout)
  · rw [tl.undo_undone_other k hacc]

theorem Tile.undo_get_in (he : v.err = false) (hlen : v.old.length = 64) {j : Nat} (hj : j < 64) :
    ((tl.undo k v).undone v.acc).get (64 * v.line + j) = v.old.getD j 0 := by
  rw [tl.undo_undone_same k, if_neg (by simp [he]), Memory.get_write_in _ _ _ _ (hlen ▸ hj), List.getD_eq_getElem _ _ (hlen ▸ hj)]

/-- The line that an uncorrectable one undoes is unspecified. -/
theorem Tile.undo_get_lost (he : v.err = true) {j : Nat} (hj : j < 64) :
    ((tl.undo k v).undone v.acc).get (64 * v.line + j) = Config.freeByte (v.freeNumber k) (64 * v.line + j) := by
  rw [tl.undo_undone_same k, if_pos he, Memory.get_forget_in _ _ (by omega) (by omega)]

end undo

/-! ## The whole version store -/

section undoAll
variable (k : Nat)

/-- The lines of a list written back in order. -/
def Tile.undoAll (tl : Tile) (l : List VsLine) : Tile := l.foldl (fun tl v => tl.undo k v) tl

theorem Tile.undoAll_frame (tl : Tile) (l : List VsLine) : tl.undoAll k l = { tl with
    tm := (tl.undoAll k l).tm, bad := (tl.undoAll k l).bad, poison := (tl.undoAll k l).poison, acc := (tl.undoAll k l).acc
    badAcc := (tl.undoAll k l).badAcc } := by
  refine List.foldlRecOn (motive := fun x : Tile => x = { tl with
    tm := x.tm, bad := x.bad, poison := x.poison, acc := x.acc, badAcc := x.badAcc }) l _ rfl fun x h v _ => ?_
  rw [x.undo_frame k v, h]

theorem Tile.undoAll_get_out {l : List VsLine} (hlen : ∀ v ∈ l, v.old.length = 64) {acc : Bool} {a : Nat}
    (h : ∀ v ∈ l, v.acc = acc → ¬v.At a) (tl : Tile) : ((tl.undoAll k l).undone acc).get a = (tl.undone acc).get a :=
  List.foldlRecOn (motive := fun x : Tile => (x.undone acc).get a = (tl.undone acc).get a) l _ rfl
    fun x hx v hv => (x.undo_get_out k (hlen v hv) (h v hv)).trans hx

/-- No two lines of the version store undo one line. -/
def LinesApart (l : List VsLine) : Prop := l.Pairwise fun v w => v.acc ≠ w.acc ∨ v.line ≠ w.line

/-- Of lines that all differ each one leaves its own as it is when it is written back: no later one changes it. -/
theorem Tile.undoAll_get_in {l : List VsLine} (hlen : ∀ v ∈ l, v.old.length = 64) (hapart : LinesApart l) {v : VsLine} (hv : v ∈ l)
    {j : Nat} (hj : j < 64) (tl : Tile) :
    ∃ x : Tile, ((tl.undoAll k l).undone v.acc).get (64 * v.line + j) = ((x.undo k v).undone v.acc).get (64 * v.line + j) := by
  obtain ⟨l1, l2, rfl⟩ := List.append_of_mem hv
  have hlater : ∀ w ∈ l2, v.acc ≠ w.acc ∨ v.line ≠ w.line := (List.pairwise_cons.mp (List.pairwise_append.mp hapart).2.1).1
  have hsplit : tl.undoAll k (l1 ++ v :: l2) = ((tl.undoAll k l1).undo k v).undoAll k l2 := by
    simp [Tile.undoAll, List.foldl_append]
  refine ⟨tl.undoAll k l1, hsplit ▸ Tile.undoAll_get_out k (fun w hw => hlen w (by simp [hw])) (fun w hw hacc => ?_) _⟩
  have hline := (hlater w hw).resolve_left (not_not.mpr hacc.symm)
  unfold VsLine.At
  omega

end undoAll

/-! ## The tile rolled back (R179-R184) -/

/-- What a rollback leaves of an attempt of `tl`, whose superstep began in `start`. -/
def Tile.RestoredTo (tl : Tile) (start : TileVer) (x : Tile) : Prop :=
  x.cur = start ∧ x.shadow = start ∧ x.vs = [] ∧ x.haulQ = [] ∧ x.haulStore = [] ∧ x.shapeQ = [] ∧ x.matQ = [] ∧
    x.deltas = [] ∧ x.xsched = [] ∧ x.col = [] ∧ x.recorded = [] ∧ x.stopping = false ∧ x.ssnum = tl.ssnum ∧ x.red = tl.red ∧
    (∀ v ∈ tl.vs, v.err = false → ∀ j, j < 64 → (x.undone v.acc).get (64 * v.line + j) = v.old.getD j 0) ∧
    (∀ v ∈ tl.vs, v.err = true → x.lost = true ∧
      ∃ n, ∀ j, j < 64 → (x.undone v.acc).get (64 * v.line + j) = Config.freeByte n (64 * v.line + j)) ∧
    ((∀ v ∈ tl.vs, v.err = false) → x.lost = tl.lost) ∧
    (∀ a, (∀ v ∈ tl.vs, v.acc = false → ¬v.At a) → x.tm.get a = tl.tm.get a) ∧
    (∀ a, (∀ v ∈ tl.vs, v.acc = true → ¬v.At a) → x.acc.get a = tl.acc.get a) ∧
    (∀ i : Fin 16, i.val ∉ tl.slotsLoaded → i.val ∉ tl.slotsSet → x.slotDesc[i] = tl.slotDesc[i]) ∧
    ∀ a, a / 16384 ∉ tl.slotsLoaded → x.slotMem.get a = tl.slotMem.get a

theorem foldl_forget_get {l : List Nat} {a : Nat} (h : a / 16384 ∉ l) (k : Nat) (m : Memory) :
    (l.foldl (fun m i => m.forget (16384 * i) 16384 k) m).get a = m.get a :=
  List.foldlRecOn (motive := fun x : Memory => x.get a = m.get a) l _ rfl fun x hx i hi => by
    have hne : a / 16384 ≠ i := fun e => h (e ▸ hi)
    rw [x.get_forget_out _ _ _ _ (by omega), hx]

/-- Without a volatile segment a rollback makes no byte of tile memory unspecified beyond what the version store lost. -/
theorem Tile.rollBack_memories {tl : Tile} (k : Nat) (hkept : ∀ i, i < 31 → tl.kept i = true) (acc : Bool) :
    (tl.rollBack k).undone acc = (tl.undoAll k tl.vs).undone acc := by
  have hvol : (List.range 31).filter (fun i => !tl.kept i) = [] := by simpa using hkept
  unfold Tile.rollBack
  simp only [hvol, List.map_nil, Tile.forgetAll, List.foldl_nil]
  rfl

theorem Tile.rollBack_restores {tl : Tile} (k : Nat) (hkept : ∀ i, i < 31 → tl.kept i = true) (hlen : ∀ v ∈ tl.vs, v.old.length = 64)
    (hapart : LinesApart tl.vs) : tl.RestoredTo tl.shadow (tl.rollBack k) := by
  have hm := Tile.rollBack_memories k hkept
  have hlost : (tl.rollBack k).lost = (tl.lost || tl.vs.any fun v => v.err) := rfl
  have hframe := tl.undoAll_frame k tl.vs
  have hshadow : (tl.undoAll k tl.vs).shadow = tl.shadow := by rw [hframe]
  have hssnum : (tl.undoAll k tl.vs).ssnum = tl.ssnum := by rw [hframe]
  have hred : (tl.undoAll k tl.vs).red = tl.red := by rw [hframe]
  refine ⟨rfl, hshadow, rfl, rfl, rfl, rfl, rfl, rfl, rfl, rfl, rfl, rfl, hssnum, hred,
    fun v hv he j hj => ?_, fun v hv he => ⟨?_, v.freeNumber k, fun j hj => ?_⟩, fun h => ?_, fun a h => ?_,
    fun a h => ?_, fun i h1 h2 => ?_, fun a h => ?_⟩
  · obtain ⟨x, hx⟩ := Tile.undoAll_get_in k hlen hapart hv hj tl
    rw [hm, hx, x.undo_get_in k he (hlen v hv) hj]
  · rw [hlost, List.any_eq_true.mpr ⟨v, hv, he⟩, Bool.or_true]
  · obtain ⟨x, hx⟩ := Tile.undoAll_get_in k hlen hapart hv hj tl
    rw [hm, hx, x.undo_get_lost k he hj]
  · rw [hlost, List.any_eq_false.mpr fun v hv => by simp [h v hv], Bool.or_false]
  · exact (congrArg (·.get a) (hm false)).trans (Tile.undoAll_get_out k hlen h tl)
  · exact (congrArg (·.get a) (hm true)).trans (Tile.undoAll_get_out k hlen h tl)
  · show (Vector.ofFn _)[i] = _
    simp [h1, h2]
  · exact foldl_forget_get h _ _

/-! ## The attempt undone -/

/-- The tile as its rollback finds it: the packet `down` leaves, and the causes with that of a lost version-store line. -/
def Tile.aborted (tl : Tile) (down : List Down) (l : List Recorded) (stopping : Bool) : Tile :=
  { tl with down := down, recorded := l, stopping := stopping }

theorem Tile.entering_frame (tl : Tile) : tl.entering = { tl with
    pfServe := tl.entering.pfServe, vmaskEff := tl.entering.vmaskEff, shadow := tl.entering.shadow } := by
  unfold Tile.entering
  split <;> rfl

theorem Tile.entering_aborted (tl : Tile) (down : List Down) (l : List Recorded) (stopping : Bool) :
    (tl.aborted down l stopping).entering = tl.entering.aborted down l stopping := by
  unfold Tile.entering
  by_cases h : tl.node = .relwait ∧ tl.fresh = true
  · rw [if_pos h]
    exact if_pos h
  · rw [if_neg h]
    exact if_neg h

theorem Tile.entering_shadow (tl : Tile) : tl.entering.shadow =
    if tl.node = .relwait ∧ tl.fresh = true then tl.cur.freeAccs AccState.unpinned else tl.shadow := by
  unfold Tile.entering
  split <;> rfl

/-- A tile that records an error changes in its causes alone. -/
theorem State.recordError_frame (s : State) (u code unit bank row : Nat) :
    (∃ l b, (s.recordError u code unit bank row).tile u = { s.tile u with recorded := l, stopping := b } ∧
      ∃ r ∈ l, ∃ q, r.unit = some q ∧ sameStructure (unit, bank, row) q = true) ∧
    ∀ w, w ≠ u → (s.recordError u code unit bank row).tile w = s.tile w := by
  unfold State.recordError
  dsimp only
  split
  · next h =>
    obtain ⟨r, hr, hq⟩ := List.any_eq_true.mp h
    simp only [Bool.and_eq_true, Option.any_eq_true] at hq
    obtain ⟨-, q, hu, hs⟩ := hq
    exact ⟨⟨_, _, rfl, r, hr, q, hu, hs⟩, fun _ _ => rfl⟩
  · refine ⟨⟨_, _, State.tile_setTile_self .., _, Tile.mem_record _ ⟨code, some (unit, bank, row)⟩, (unit, bank, row), rfl, ?_⟩,
      fun w hw => State.tile_setTile_ne _ _ hw⟩
    simp [sameStructure]

/-- A line of the version store that is uncorrectable is recorded against it (R183). -/
theorem State.loseLines_frame (s : State) (u : Nat) :
    (∃ l b, (s.loseLines u).tile u = { s.tile u with recorded := l, stopping := b } ∧
      ((∃ v ∈ (s.tile u).vs, v.err = true) → ∃ r ∈ l, ∃ q, r.unit = some q ∧ q.1 = 1)) ∧
    ∀ w, w ≠ u → (s.loseLines u).tile w = s.tile w := by
  unfold State.loseLines
  split
  · next q _ =>
    obtain ⟨⟨l, b, hu, r, hr, p, hp, hs⟩, hw⟩ := s.recordError_frame u 0x13 1 (q.2 / 256) (q.2 % 256)
    refine ⟨⟨l, b, hu, fun _ => ⟨r, hr, p, hp, ?_⟩⟩, hw⟩
    simp only [sameStructure, Bool.and_eq_true, decide_eq_true_eq] at hs
    exact hs.1.symm
  · next h =>
    refine ⟨⟨_, _, rfl, fun ⟨v, hv, he⟩ => ?_⟩, fun _ _ => rfl⟩
    obtain ⟨i, hi, rfl⟩ := List.getElem_of_mem hv
    have hmem : ((s.tile u).vs[i], i) ∈ (s.tile u).vs.zipIdx := by
      rw [List.mem_zipIdx_iff_getElem?]
      exact List.getElem?_eq_getElem hi
    exact absurd he (List.find?_eq_none.mp h _ hmem)

theorem mem_testsOf_insert {key : Nat × Nat × Nat → Nat} {q p : Nat × Nat × Nat} : ∀ {l : List (Nat × Nat × Nat)},
    p ∈ testsOf.insert key q l ↔ p = q ∨ p ∈ l
  | [] => by simp [testsOf.insert]
  | x :: t => by
    rw [testsOf.insert]
    split
    · rw [List.mem_cons, mem_testsOf_insert, List.mem_cons, or_left_comm]
    · rw [List.mem_cons]

theorem mem_foldl_testsOf_insert {key : Nat × Nat × Nat → Nat} {p : Nat × Nat × Nat} : ∀ {m l : List (Nat × Nat × Nat)},
    p ∈ m.foldl (fun l q => testsOf.insert key q l) l ↔ p ∈ m ∨ p ∈ l
  | [], l => by simp
  | q :: m, l => by
    rw [List.foldl_cons, mem_foldl_testsOf_insert, mem_testsOf_insert, List.mem_cons, or_left_comm, or_assoc]

/-- A structure that a tile recorded an error against is tested, but for a path within one die (R182, R356). -/
theorem mem_testsOf {l : List Recorded} {r : Recorded} {q : Nat × Nat × Nat} (hr : r ∈ l) (hq : r.unit = some q) (h6 : q.1 ≠ 6) :
    q ∈ testsOf l := by
  unfold testsOf
  refine mem_foldl_testsOf_insert.mpr (.inl (List.mem_filter.mpr ⟨List.mem_filterMap.mpr ⟨r, hr, hq⟩, ?_⟩))
  simp [h6]

/-- With no landed fetch to make again a refetch leaves every tile as it is (R184). -/
theorem State.refetch_tile {s : State} {u : Nat} (h : (s.tile u).pfServe = []) (w : Nat) : (s.refetch u).tile w = s.tile w := by
  unfold State.refetch
  rw [h, List.foldl_nil, State.tile_modTile]
  have hnone (n : Nat) : (s.tile u).forgetAll n (pfTwice (s.tile u).pfServe) = s.tile u := by rw [h]; rfl
  split
  · next hw => subst hw; exact hnone _
  · rfl

/-- The state before the tile itself is undone: what its gathers and the Firefly units held of the attempt is gone. -/
def State.beforeUndo (s : State) (u : Nat) (r : Region) : State :=
  ((List.range 10).foldl (fun s a => s.gldGone u a) s).modDie (dieOfTile u) fun x =>
    { x with ff := x.ff.abort r.id fun w => r.tiles.contains w }

@[simp] theorem State.beforeUndo_tile (s : State) (u : Nat) (r : Region) (w : Nat) : (s.beforeUndo u r).tile w = s.tile w := by
  rw [State.beforeUndo, State.modDie_tile]
  exact State.tile_of_tiles (List.foldlRecOn (motive := fun t : State => t.tiles = s.tiles) _ _ rfl
    fun t ht a _ => (t.gldGone_tiles u a).trans ht) w

/-- The state with other flits and packets on their way. -/
def State.withTransit (s : State) (fl : List Flit) (xf : List ColXfer) (k : Nat) : State := { s with flits := fl, xfers := xf, free := k }

@[simp] theorem State.withTransit_tile (s : State) (fl : List Flit) (xf : List ColXfer) (k w : Nat) :
    (s.withTransit fl xf k).tile w = s.tile w := rfl

theorem State.undoAttempt_eq (s : State) (u : Nat) (r : Region) : ∃ fl xf k, s.undoAttempt u r =
    ((((s.beforeUndo u r).loseLines u).withTransit fl xf k).modTile u fun tl => tl.entering.rollBack (s.beforeUndo u r).free).refetch u := by
  unfold State.undoAttempt State.beforeUndo State.withTransit
  exact ⟨_, _, _, rfl⟩

/-- A rollback keeps the list of landed fetches. -/
theorem Tile.rollBack_pfServe (tl : Tile) (k : Nat) : (tl.rollBack k).pfServe = tl.pfServe := by
  show (tl.undoAll k tl.vs).pfServe = tl.pfServe
  rw [tl.undoAll_frame]

/-- A rollback keeps the outcome that `ssq.out` reads. -/
theorem Tile.rollBack_outKind (tl : Tile) (k : Nat) : (tl.rollBack k).outKind = tl.outKind := by
  show (tl.undoAll k tl.vs).outKind = tl.outKind
  rw [tl.undoAll_frame]

/-- The attempt of a tile with no landed fetch undone: its tile is rolled back from the state at the start of the superstep, the others stay. -/
theorem State.undoAttempt_tile {s : State} {u : Nat} (r : Region) (h : (s.tile u).entering.pfServe = []) :
    (∃ l b k, (s.undoAttempt u r).tile u = ((s.tile u).entering.aborted (s.tile u).down l b).rollBack k ∧
      ((∃ v ∈ (s.tile u).vs, v.err = true) → ∃ q ∈ testsOf l, q.1 = 1)) ∧
    ∀ w, w ≠ u → (s.undoAttempt u r).tile w = s.tile w := by
  obtain ⟨fl, xf, n, heq⟩ := s.undoAttempt_eq u r
  obtain ⟨⟨l, b, hu, htest⟩, hother⟩ := (s.beforeUndo u r).loseLines_frame u
  rw [State.beforeUndo_tile] at hu htest
  let t := ((s.beforeUndo u r).loseLines u).withTransit fl xf n
  have htu : t.tile u = (s.tile u).aborted (s.tile u).down l b := (State.withTransit_tile ..).trans hu
  have hrolled : (t.modTile u fun tl => tl.entering.rollBack (s.beforeUndo u r).free).tile u =
      ((s.tile u).entering.aborted (s.tile u).down l b).rollBack (s.beforeUndo u r).free := by
    rw [State.modTile_tile_self, htu, Tile.entering_aborted]
  have hserve : ((t.modTile u fun tl => tl.entering.rollBack (s.beforeUndo u r).free).tile u).pfServe = [] := by
    rw [hrolled, Tile.rollBack_pfServe]
    exact h
  rw [heq]
  refine ⟨⟨l, b, _, (State.refetch_tile hserve u).trans hrolled, fun hv => ?_⟩, fun w hw => ?_⟩
  · obtain ⟨x, hx, q, hq, h1⟩ := htest hv
    exact ⟨q, mem_testsOf hx hq (by omega), h1⟩
  · rw [State.refetch_tile hserve, State.modTile_tile_ne _ _ hw, State.withTransit_tile, hother w hw, State.beforeUndo_tile]

/-! ## The abort and the stop of a tile -/

namespace Tile.RestoredTo
variable {tl x : Tile} {start : TileVer}

theorem of_entering {down : List Down} {l : List Recorded} {b : Bool} (h : (tl.entering.aborted down l b).RestoredTo start x) :
    tl.RestoredTo start x := by
  rw [tl.entering_frame] at h
  exact h

/-- The outcome that the tile notes is none of what a rollback restores. -/
theorem noted (h : tl.RestoredTo start x) (n : NodeState) (kind cause tile : Nat) :
    tl.RestoredTo start { x with node := n, outKind := kind, outCause := cause, outTile := tile } := h

/-- A tile that is halted after its rollback has no cause left already. -/
theorem halted (h : tl.RestoredTo start x) : tl.RestoredTo start
    { x with tests := [], node := .stop, recorded := [], stopping := false, launching := false, launchPf := [] } := by
  obtain ⟨hcur, hshadow, hvs, hhaul, hstore, hshape, hmat, hdelta, hx, hcol, -, -, hrest⟩ := h
  exact ⟨hcur, hshadow, hvs, hhaul, hstore, hshape, hmat, hdelta, hx, hcol, rfl, rfl, hrest⟩

end Tile.RestoredTo

/-- The state in which a tile has taken its packet and its records are void. -/
def State.downTaken (s : State) (u : Nat) : State := (s.modTile u fun tl => { tl with down := tl.down.drop 1 }).voidRecords u

theorem State.downTaken_tile_ne (s : State) {u w : Nat} (h : w ≠ u) : (s.downTaken u).tile w = s.tile w :=
  (State.tile_of_tiles (State.voidRecords_tiles ..) w).trans (State.modTile_tile_ne _ _ h)

theorem State.downTaken_tile {s : State} {u : Nat} {p : Down} {rest : List Down} (hd : (s.tile u).down = p :: rest) :
    (s.downTaken u).tile u = (s.tile u).aborted rest (s.tile u).recorded (s.tile u).stopping := by
  refine (State.tile_of_tiles (State.voidRecords_tiles ..) u).trans ((State.modTile_tile_self ..).trans ?_)
  rw [hd]
  rfl

section steps
variable {s : State} {u : Nat} {r : Region} {p : Down} {rest : List Down} (hr : s.regionOf u = some r) (hd : (s.tile u).down = p :: rest)
  (ht : p.sentAt / 2 < s.clk / 2)
include hr hd ht

theorem exec_abort (hk : p.kind = 2) (hn : (s.tile u).node = .run ∨ (s.tile u).node = .arrived ∨ (s.tile u).node = .exch ∨
    (s.tile u).node = .seal ∨ (s.tile u).node = .relwait) : exec (.abort u) s =
      .next (((s.downTaken u).undoAttempt u r).modTile u fun tl => { tl with
        node := .rollback, outKind := p.phase + 1, outCause := p.cause, outTile := p.tile }) := by
  have hp : s.downOf u 2 = some p := hk ▸ State.downOf_eq hd ht
  show execAbort u s = _
  unfold execAbort
  obtain hn | hn | hn | hn | hn := hn <;> rw [hp, hr, hn] <;> rfl

theorem exec_stop_undoes (hk : p.kind = 3) (hc : p.cause ≠ 0) (hn : (s.tile u).node = .run ∨ (s.tile u).node = .arrived ∨
    (s.tile u).node = .exch ∨ (s.tile u).node = .seal) (hl : (s.tile u).launching = false) (hi : (s.tile u).inReg = true) :
    exec (.stop u) s = .next (((s.downTaken u).undoAttempt u r).modTile u fun tl => { tl with
      tests := [], node := .stop, recorded := [], stopping := false, launching := false, launchPf := [] }) := by
  have hp : s.downOf u 3 = some p := hk ▸ State.downOf_eq hd ht
  have hin : ((s.downTaken u).tile u).inAttempt = true := by
    rw [State.downTaken_tile hd]
    obtain hn | hn | hn | hn := hn <;> simp [Tile.inAttempt, Tile.aborted, hn, hl, hi]
  show execStop u s = _
  unfold execStop
  rw [hp, hr]
  exact (if_neg hc).trans (if_pos hin)

variable (hkept : ∀ i, i < 31 → (s.tile u).entering.kept i = true) (hserve : (s.tile u).entering.pfServe = [])
  (hlen : ∀ v ∈ (s.tile u).vs, v.old.length = 64) (hapart : LinesApart (s.tile u).vs)
include hkept hserve hlen hapart

omit hr ht in
/-- The attempt undone after the packet: the tile is restored, its tests hold the version store where a line of it is lost. -/
theorem State.downTaken_undoAttempt (r : Region) :
    (∃ x, ((s.downTaken u).undoAttempt u r).tile u = x ∧ (s.tile u).RestoredTo (s.tile u).entering.shadow x ∧
      x.outKind = (s.tile u).outKind ∧ ((∃ v ∈ (s.tile u).vs, v.err = true) → ∃ q ∈ x.tests, q.1 = 1)) ∧
    ∀ w, w ≠ u → ((s.downTaken u).undoAttempt u r).tile w = s.tile w := by
  have htile := State.downTaken_tile hd
  obtain ⟨⟨l, b, k, hu, htest⟩, hother⟩ := State.undoAttempt_tile (s := s.downTaken u) (u := u) r
    (by rw [htile, Tile.entering_aborted]; exact hserve)
  rw [htile] at hu htest
  rw [Tile.entering_aborted] at hu
  have hframe : (s.tile u).entering.vs = (s.tile u).vs ∧ (s.tile u).entering.outKind = (s.tile u).outKind := by
    rw [Tile.entering_frame]
    exact ⟨rfl, rfl⟩
  obtain ⟨hvs, hout⟩ := hframe
  have hrestored := Tile.rollBack_restores (tl := (s.tile u).entering.aborted rest l b) k hkept
    (by simpa only [Tile.aborted, hvs] using hlen) (by simpa only [Tile.aborted, hvs] using hapart)
  refine ⟨⟨_, hu, hrestored.of_entering, (Tile.rollBack_outKind _ k).trans hout, htest⟩, fun w hw => ?_⟩
  rw [hother w hw, State.downTaken_tile_ne _ hw]

end steps

/-- Settles O41: the packet leaves, the attempt is undone, and the tile waits in ROLLBACK, or stops. -/
theorem abortRestores : Obligations.AbortRestores := by
  intro s u r p rest tl at' start restored hr hd ht hkept hserve hlen hapart
  have hstart : tl.entering.shadow = start := Tile.entering_shadow tl
  obtain ⟨⟨x, hx, hres, hout, htest⟩, hother⟩ := State.downTaken_undoAttempt hd hkept hserve hlen hapart r
  have hres : tl.RestoredTo start x := hstart ▸ hres
  have hself (f : Tile → Tile) : (((s.downTaken u).undoAttempt u r).modTile u f).tile u = f x := (State.modTile_tile_self ..).trans (congrArg f hx)
  have hothers (f : Tile → Tile) (w : Nat) (hw : w ≠ u) : (((s.downTaken u).undoAttempt u r).modTile u f).tile w = s.tile w :=
    (State.modTile_tile_ne _ _ hw).trans (hother w hw)
  refine ⟨fun hk hn => ?_, fun hk hc hn hl hi => ?_⟩
  · refine ⟨_, _, exec_abort hr hd ht hk hn, hself _, rfl,
      hres.noted .rollback (p.phase + 1) p.cause p.tile, rfl, rfl, rfl, htest, hothers _⟩
  · exact ⟨_, _, exec_stop_undoes hr hd ht hk hc hn hl hi, hself _, rfl, hres.halted, hout, hothers _⟩

end Sys2Proof.Machine
end
/-! A store of a record beside a held store that reaches past its atom (R203, R225). -/
section
namespace Sys2Proof.Machine

/-- The haul hart of tile 0 has the turn; a store of its own to the bytes 16 to 32 has not performed, one byte more than its atom holds. -/
def longHeldState : State :=
  { State.reset.setTile 0 { Tile.reset with held := [⟨8, 0, 16, List.replicate 17 0xFF, 0⟩] } with turn := .tile 0 8 }

/-- The state after `bst` of record 0 at 32 there. -/
def longHeldStored : State :=
  match exec (.bst 0 0 1) longHeldState with
  | .next t => t
  | _ => longHeldState

theorem exec_bst_longHeldState : exec (.bst 0 0 1) longHeldState = .next longHeldStored := rfl

theorem longHeldState_canStore : longHeldState.canStore 32 32 := by
  refine ⟨by decide, by decide, by decide, by decide, by decide, fun v c e => ?_⟩
  cases e
  decide

/-- The hart still sees its held store at 32, where the record has put 0. -/
theorem longHeldStored_byte : longHeldStored.byteAt (.tile 0 8) 32 = 0xFF := by decide

/-- Refutes O9, by the last clause on `bst`: the statement lets the held stores of the hart be any stores, and one that reaches
past its atom, here the bytes 16 to 32, covers bytes that the record stores. No run holds such a store, for a store is
held in the parts that `cutAtoms` cuts (R225); the clause lacks the premise that each held store lies in one atom. -/
theorem not_fullEmptyAndRecords : ¬Obligations.FullEmptyAndRecords := by
  intro h
  obtain ⟨-, -, hrec⟩ := h
  obtain ⟨-, -, -, -, -, -, -, -, -, -, hbst⟩ := hrec longHeldState 0 8 0 0 0 1 rfl
  obtain ⟨t, he, ⟨-, -, -, hbytes, -⟩, -⟩ := hbst longHeldState_canStore
  obtain rfl := Host.Outcome.next.inj (exec_bst_longHeldState.symm.trans he)
  exact absurd (longHeldStored_byte.symm.trans (hbytes 0 (by decide))) (by decide)

end Sys2Proof.Machine
end

/-! Every step keeps the lists of the part in order (R113, R298): maps, units, and what the operations shared by the instructions do. -/
section
/- Hundreds of short proofs: they are elaborated one after another, since a thread for each takes more memory than the check has. -/
set_option Elab.async false
namespace Sys2Proof.Machine

/-! ## Maps in rising order -/

theorem mem_kvSet {α : Type} {l : List (Nat × α)} {k : Nat} {v : α} {p : Nat × α} (h : p ∈ kvSet l k v) : p.1 = k ∨ p ∈ l := by
  induction l with
  | nil => exact .inl (congrArg Prod.fst (List.mem_singleton.mp h))
  | cons q l ih =>
    unfold kvSet at h
    split at h
    · exact (List.mem_cons.mp h).elim (fun e => .inr (e ▸ List.mem_cons_self ..)) fun h => (ih h).imp_right (List.mem_cons_of_mem _)
    · split at h
      · exact (List.mem_cons.mp h).imp (congrArg Prod.fst) (List.mem_cons_of_mem _)
      · exact (List.mem_cons.mp h).imp_left (congrArg Prod.fst)

namespace keysRise
variable {α : Type} {l : List (Nat × α)}

theorem kvSet (h : keysRise l) (k : Nat) (v : α) : keysRise (kvSet l k v) := by
  induction l with
  | nil => exact List.pairwise_singleton ..
  | cons q l ih =>
    obtain ⟨hq, hl⟩ := List.pairwise_cons.mp h
    unfold Machine.kvSet
    split
    · next hlt => exact List.pairwise_cons.mpr ⟨fun p hp => (mem_kvSet hp).elim (fun e => e ▸ hlt) (hq p), ih hl⟩
    · split
      · next e => exact List.pairwise_cons.mpr ⟨fun p hp => e ▸ hq p hp, hl⟩
      · next hge hne =>
        have hlt : k < q.1 := by omega
        refine List.pairwise_cons.mpr ⟨fun p hp => ?_, h⟩
        exact (List.mem_cons.mp hp).elim (fun e => e ▸ hlt) fun hp => hlt.trans (hq p hp)

theorem filter (h : keysRise l) (p : Nat × α → Bool) : keysRise (l.filter p) := List.Pairwise.filter p h

theorem foldl_kvSet {β : Type} (h : keysRise l) (key : β → Nat) (val : β → α) (m : List β) :
    keysRise (m.foldl (fun l q => Machine.kvSet l (key q) (val q)) l) :=
  List.foldlRecOn (motive := keysRise) m _ h fun _ hl _ _ => hl.kvSet ..

/-- The keys of a map alone say whether they rise. -/
theorem of_keys {l' : List (Nat × α)} (h : keysRise l) (e : l'.map Prod.fst = l.map Prod.fst) : keysRise l' :=
  List.pairwise_map.mp (e ▸ List.pairwise_map.mpr h)

theorem map (h : keysRise l) {f : Nat × α → Nat × α} (hf : ∀ q, (f q).1 = q.1) : keysRise (l.map f) :=
  h.of_keys (by rw [List.map_map]; exact List.map_congr_left fun q _ => hf q)

theorem forall₂ (h : keysRise l) {R : Nat × α → Nat × α → Prop} {l' : List (Nat × α)} (hl : l.Forall₂ (fun p q => q.1 = p.1 ∧ R p q) l') :
    keysRise l' := by
  refine h.of_keys ?_
  clear h
  induction hl with
  | nil => rfl
  | cons hpq _ ih => rw [List.map_cons, List.map_cons, ih, hpq.1]

end keysRise

/-! ## The lists of one unit -/

/-- The last chosen strand of a tile is one (R113), and each entry of its outbox has 64 bytes, as it stands and as it was at the start of
the superstep (R298). -/
def Tile.listsWf (tl : Tile) : Prop := tl.rr < 8 ∧ ∀ o ∈ tl.cur.outbox ++ tl.shadow.outbox, o.data.length = 64

/-- The thresholds of a Firefly context that differ from the reset ones are listed by rising number, in both copies. -/
def FfContext.listsWf (c : FfContext) : Prop := keysRise c.work.sigt ∧ keysRise c.comm.sigt

/-- The cells of a die and the thresholds of its contexts are listed by rising number. -/
def Firefly.listsWf (f : Firefly) : Prop := keysRise f.cells ∧ keysRise f.comm ∧ ∀ i : Fin 16, (f.ctxs[i]).listsWf

/-- Those of the Firefly array of a die. -/
def Die.listsWf (x : Die) : Prop := x.ff.listsWf

/-- The regions have different numbers below the next. -/
def regionsWf (l : List Region) (n : Nat) : Prop := (∀ r ∈ l, r.serial < n) ∧ l.Pairwise fun x y => x.serial ≠ y.serial

/-- A step answers with a state whose lists are in order. -/
inductive ListsOut : Out → Prop
  | next {t : State} (h : t.listsWf) : ListsOut (.next t)

theorem ListsOut.ite {c : Prop} [Decidable c] {a b : Out} (ha : ListsOut a) (hb : ListsOut b) : ListsOut (if c then a else b) := by
  split
  · exact ha
  · exact hb

namespace regionsWf
variable {l : List Region} {n : Nat}

theorem map (h : regionsWf l n) {f : Region → Region} (hf : ∀ r, (f r).serial = r.serial) : regionsWf (l.map f) n := by
  refine ⟨fun r hr => ?_, List.pairwise_map.mpr (h.2.imp fun hxy => by rwa [hf, hf])⟩
  obtain ⟨x, hx, rfl⟩ := List.mem_map.mp hr
  exact hf x ▸ h.1 x hx

/-- The numbers of a table are all that its order speaks of. -/
theorem of_serials {l' : List Region} (h : regionsWf l n) (hl : (l'.map Region.serial).Sublist (l.map Region.serial)) : regionsWf l' n := by
  refine ⟨fun r hr => ?_, List.pairwise_map.mp ((List.pairwise_map.mpr h.2).sublist hl)⟩
  obtain ⟨x, hx, e⟩ := List.mem_map.mp (hl.subset (List.mem_map_of_mem hr))
  exact e ▸ h.1 x hx

theorem sublist {l' : List Region} (h : regionsWf l n) (hl : l'.Sublist l) : regionsWf l' n := h.of_serials (hl.map _)

/-- A region that takes the next number goes after the others. -/
theorem append (h : regionsWf l n) {r : Region} (hr : r.serial = n) : regionsWf (l ++ [r]) (n + 1) := by
  refine ⟨fun x hx => ?_, List.pairwise_append.mpr ⟨h.2, List.pairwise_singleton .., fun x hx y hy => ?_⟩⟩
  · rcases List.mem_append.mp hx with hx | hx
    · exact (h.1 x hx).trans (Nat.lt_succ_self n)
    · obtain rfl := List.mem_singleton.mp hx
      exact hr ▸ Nat.lt_succ_self _
  · obtain rfl := List.mem_singleton.mp hy
    exact hr ▸ (h.1 x hx).ne

theorem next (h : regionsWf l n) : regionsWf l (n + 1) := ⟨fun r hr => (h.1 r hr).trans (Nat.lt_succ_self n), h.2⟩

end regionsWf

namespace Tile.listsWf
variable {tl : Tile}

theorem ite {c : Prop} [Decidable c] {a b : Tile} (ha : a.listsWf) (hb : b.listsWf) : (if c then a else b).listsWf := by
  split
  · exact ha
  · exact hb

theorem foldl {α : Type} {f : Tile → α → Tile} (h : tl.listsWf) (hf : ∀ x a, x.listsWf → (f x a).listsWf) (l : List α) :
    (l.foldl f tl).listsWf := List.foldlRecOn l f h fun x hx a _ => hf x a hx

theorem outbox (h : tl.listsWf) {o : OutEntry} (ho : o ∈ tl.cur.outbox) : o.data.length = 64 := h.2 o (List.mem_append_left _ ho)

theorem kept (h : tl.listsWf) {o : OutEntry} (ho : o ∈ tl.shadow.outbox) : o.data.length = 64 := h.2 o (List.mem_append_right _ ho)

/-- A tile whose outboxes hold entries of 64 bytes. -/
theorem of_outboxes (hrr : tl.rr < 8) (hc : ∀ o ∈ tl.cur.outbox, o.data.length = 64) (hs : ∀ o ∈ tl.shadow.outbox, o.data.length = 64) :
    tl.listsWf := ⟨hrr, fun o ho => (List.mem_append.mp ho).elim (hc o) (hs o)⟩

/-- An outbox of other entries of 64 bytes. -/
theorem withOutbox (h : tl.listsWf) {l : List OutEntry} (hl : ∀ o ∈ l, o.data.length = 64) :
    ({ tl with cur := { tl.cur with outbox := l } } : Tile).listsWf := of_outboxes h.1 hl fun _ => h.kept

end Tile.listsWf

theorem FfContext.reset_listsWf : FfContext.reset.listsWf := ⟨.nil, .nil⟩

theorem Firefly.reset_listsWf : Firefly.reset.listsWf :=
  ⟨.nil, .nil, fun i => (Die.reset_ctx i : Die.reset.ff.ctxs[i] = _) ▸ FfContext.reset_listsWf⟩

theorem Die.reset_listsWf : Die.reset.listsWf := Firefly.reset_listsWf

theorem Die.listsWf.ite {x y : Die} {c : Prop} [Decidable c] (hx : x.listsWf) (hy : y.listsWf) : (if c then x else y).listsWf := by
  split
  · exact hx
  · exact hy

namespace State.listsWf
variable {s : State}

theorem of_parts (ht : keysRise s.tiles) (hd : keysRise s.dies) (hm : keysRise s.modules) (htl : ∀ u, (s.tile u).listsWf)
    (hdie : ∀ d, (s.die d).listsWf) (hr : regionsWf s.regions s.nextSerial) : s.listsWf := ⟨ht, hd, hm, htl, hdie, hr⟩

theorem parts (h : s.listsWf) : keysRise s.tiles ∧ keysRise s.dies ∧ keysRise s.modules ∧ (∀ u, (s.tile u).listsWf) ∧
    (∀ d, (s.die d).listsWf) ∧ regionsWf s.regions s.nextSerial := h

theorem tile (h : s.listsWf) (t : Nat) : (s.tile t).listsWf := by
  obtain ⟨-, -, -, htl, -, -⟩ := h.parts
  exact htl t

theorem die (h : s.listsWf) (d : Nat) : (s.die d).listsWf := by
  obtain ⟨-, -, -, -, hdie, -⟩ := h.parts
  exact hdie d

theorem regionsWf (h : s.listsWf) : regionsWf s.regions s.nextSerial := by
  obtain ⟨-, -, -, -, -, hr⟩ := h.parts
  exact hr

theorem next (h : s.listsWf) : ListsOut (.next s) := .next h

theorem ite {c : Prop} [Decidable c] {a b : State} (ha : a.listsWf) (hb : b.listsWf) : (if c then a else b).listsWf := by
  split
  · exact ha
  · exact hb

theorem dite {c : Prop} [Decidable c] {a : c → State} {b : ¬c → State} (ha : ∀ q, (a q).listsWf) (hb : ∀ q, (b q).listsWf) :
    (if q : c then a q else b q).listsWf := by
  split
  · exact ha _
  · exact hb _

theorem foldl {α : Type} {f : State → α → State} (h : s.listsWf) (hf : ∀ t a, t.listsWf → (f t a).listsWf) (l : List α) :
    (l.foldl f s).listsWf := List.foldlRecOn l f h fun t ht a _ => hf t a ht

theorem setTile (h : s.listsWf) {t : Nat} {x : Tile} (hx : x.listsWf) : (s.setTile t x).listsWf := by
  obtain ⟨ht, hd, hm, htl, hdie, hr⟩ := h.parts
  refine of_parts (ht.kvSet t x) hd hm (fun u => ?_) hdie hr
  by_cases hu : u = t
  · subst hu; rw [State.tile_setTile_self]; exact hx
  · rw [State.tile_setTile_ne _ _ hu]; exact htl u

theorem modTile (h : s.listsWf) {t : Nat} {f : Tile → Tile} (hf : ∀ tl, tl.listsWf → (f tl).listsWf) : (s.modTile t f).listsWf :=
  h.setTile (hf _ (h.tile t))

theorem setDie (h : s.listsWf) {d : Nat} {x : Die} (hx : x.listsWf) : (s.setDie d x).listsWf := by
  obtain ⟨ht, hd, hm, htl, hdie, hr⟩ := h.parts
  refine of_parts ht (hd.kvSet d x) hm htl (fun e => ?_) hr
  by_cases he : e = d
  · subst he; rw [State.die_setDie_self]; exact hx
  · rw [State.die_setDie_ne _ _ he]; exact hdie e

theorem modDie (h : s.listsWf) {d : Nat} {f : Die → Die} (hf : ∀ x, x.listsWf → (f x).listsWf) : (s.modDie d f).listsWf :=
  h.setDie (hf _ (h.die d))

theorem setModule (h : s.listsWf) (m : Nat) (y : Module) : (s.setModule m y).listsWf := by
  obtain ⟨ht, hd, hm, htl, hdie, hr⟩ := h.parts
  exact of_parts ht hd (hm.kvSet m y) htl hdie hr

theorem modModule (h : s.listsWf) {m : Nat} {f : Module → Module} : (s.modModule m f).listsWf := h.setModule ..

/-! An update that leaves the lists of the unit alone: the two forms are the same by definition. -/

theorem keepTile (h : s.listsWf) {t : Nat} {f : Tile → Tile} (hf : ∀ tl, (f tl).listsWf = tl.listsWf := by intro _; rfl) :
    (s.modTile t f).listsWf := h.modTile fun tl hx => (hf tl).mpr hx

theorem keepSet (h : s.listsWf) {t : Nat} {x : Tile} (hx : x.listsWf = (s.tile t).listsWf := by rfl) : (s.setTile t x).listsWf :=
  h.setTile (hx.mpr (h.tile t))

theorem keepDie (h : s.listsWf) {d : Nat} {f : Die → Die} (hf : ∀ x, (f x).listsWf = x.listsWf := by intro _; rfl) :
    (s.modDie d f).listsWf := h.modDie fun x hx => (hf x).mpr hx

/-- The tiles change in place, each by an update that keeps its lists in order. -/
theorem tilesTo (h : s.listsWf) {l : List (Nat × Tile)} (hl : s.tiles.Forall₂ (fun p q => q.1 = p.1 ∧ (p.2.listsWf → q.2.listsWf)) l) :
    ({ s with tiles := l } : State).listsWf := by
  obtain ⟨ht, hd, hm, htl, hdie, hr⟩ := h.parts
  exact of_parts (ht.forall₂ hl) hd hm (fun u => kvGet_forall₂ (P := Tile.listsWf) hl u (htl u)) hdie hr

/-- The dies change in place, each by an update that keeps its lists in order. -/
theorem diesTo (h : s.listsWf) {l : List (Nat × Die)} (hl : s.dies.Forall₂ (fun p q => q.1 = p.1 ∧ (p.2.listsWf → q.2.listsWf)) l) :
    ({ s with dies := l } : State).listsWf := by
  obtain ⟨ht, hd, hm, htl, hdie, hr⟩ := h.parts
  exact of_parts ht (hd.forall₂ hl) hm htl (fun d => kvGet_forall₂ (P := Die.listsWf) hl d (hdie d)) hr

theorem regionsTo (h : s.listsWf) {l : List Region} {n : Nat} (hl : Machine.regionsWf l n) :
    ({ s with regions := l, nextSerial := n } : State).listsWf := by
  obtain ⟨ht, hd, hm, htl, hdie, -⟩ := h.parts
  exact of_parts ht hd hm htl hdie hl

/-- Regions that change their numbers by nothing. -/
theorem mapRegions (h : s.listsWf) {f : Region → Region} (hf : ∀ r, (f r).serial = r.serial) :
    ({ s with regions := s.regions.map f } : State).listsWf := h.regionsTo (h.regionsWf.map hf)

theorem fewerRegions (h : s.listsWf) {l : List Region} (hl : l.Sublist s.regions) : ({ s with regions := l } : State).listsWf :=
  h.regionsTo (h.regionsWf.sublist hl)

/-! What is no tile, die, module or region holds no such list. -/

theorem free (h : s.listsWf) (n : Nat) : ({ s with free := n } : State).listsWf := h
theorem outs (h : s.listsWf) (l : List Output) : ({ s with outs := l } : State).listsWf := h
theorem up (h : s.listsWf) (l : List Up) : ({ s with up := l } : State).listsWf := h
theorem wires (h : s.listsWf) (l : List Wire) : ({ s with wires := l } : State).listsWf := h
theorem xfers (h : s.listsWf) (l : List ColXfer) : ({ s with xfers := l } : State).listsWf := h

end State.listsWf
/-! ## The lists of a Firefly array (R308-R334) -/

theorem FfConfig.setEntry_rises {c : FfConfig} (h : keysRise c.sigt) (j v : Nat) : keysRise (c.setEntry j v).sigt := by
  unfold FfConfig.setEntry
  split
  · exact h
  · dsimp only
    split
    · exact h.filter _
    · exact h.kvSet ..

/-- Thresholds set one after another. -/
theorem FfConfig.setEntries_rise {β : Type} {c : FfConfig} (h : keysRise c.sigt) (j v : β → Nat) (l : List β) :
    keysRise (l.foldl (fun c q => c.setEntry (j q) (v q)) c).sigt :=
  List.foldlRecOn (motive := fun c : FfConfig => keysRise c.sigt) l _ h fun _ hc _ _ => FfConfig.setEntry_rises hc ..

namespace FfContext.listsWf
variable {c : FfContext}

theorem work (h : c.listsWf) {g : FfConfig} (hg : keysRise g.sigt) : ({ c with work := g } : FfContext).listsWf := ⟨hg, h.2⟩

theorem both (h : c.listsWf) {f : FfConfig → FfConfig} (hf : ∀ g, keysRise g.sigt → keysRise (f g).sigt) : (c.both f).listsWf :=
  ⟨hf _ h.1, hf _ h.2⟩

theorem ite {p : Prop} [Decidable p] {a b : FfContext} (ha : a.listsWf) (hb : b.listsWf) : (if p then a else b).listsWf := by
  split
  · exact ha
  · exact hb

theorem setBlockByte (h : c.listsWf) (o : Nat) (b : Byte) : (c.setBlockByte o b).listsWf :=
  ite h (ite h (ite h (ite h (ite h (ite h (ite h (ite h (ite h (ite h (ite h (ite (ite h (h.both fun _ hg => hg.kvSet ..)) h)))))))))))

theorem capEntries (h : c.listsWf) (o n : Nat) : (c.capEntries o n).listsWf := h.both fun _ hg => FfConfig.setEntries_rise hg ..

theorem sweep1 (h : c.listsWf) (ssn : Nat) (s : SweepState) : (c.sweep1 ssn s).1.listsWf := h

theorem setBlock (h : c.listsWf) (o : Nat) (bs : List Byte) :
    ((bs.zipIdx.foldl (fun c q => c.setBlockByte (o + q.2) q.1) c).capEntries o bs.length).listsWf :=
  capEntries (List.foldlRecOn (motive := FfContext.listsWf) _ _ h fun _ hc _ _ => hc.setBlockByte ..) ..

end FfContext.listsWf

theorem FfContext.sweepColour_rises (c : FfContext) (ssn col : Nat) {s : SweepState} (h : keysRise s.cells) :
    keysRise (c.sweepColour ssn col s).cells := h.foldl_kvSet ..

theorem FfContext.sweep1_rises (c : FfContext) (ssn : Nat) {s : SweepState} (h : keysRise s.cells) : keysRise (c.sweep1 ssn s).2.cells := by
  refine keysRise.map (List.foldlRecOn (motive := fun s : SweepState => keysRise s.cells) _ _ h fun s hs col _ => ?_) fun _ => rfl
  split
  · exact c.sweepColour_rises ssn col hs
  · exact hs

theorem FfContext.sweeps_rise (ssn n : Nat) {q : FfContext × SweepState} (hc : q.1.listsWf) (hs : keysRise q.2.cells) :
    (FfContext.sweeps ssn n q).1.listsWf ∧ keysRise (FfContext.sweeps ssn n q).2.cells := by
  induction n generalizing q with
  | zero => exact ⟨hc, hs⟩
  | succ n ih => exact ih (hc.sweep1 ssn q.2) (q.1.sweep1_rises ssn hs)

theorem FfContext.copyCells_rises (c : FfContext) (src : List (Nat × Cell)) {dst : List (Nat × Cell)} (h : keysRise dst) :
    keysRise (c.copyCells src dst) := (h.filter _).foldl_kvSet ..

/-- The lists of the context and of the cells that a command works on are in order. -/
def FfWork.listsWf (w : FfWork) : Prop := w.ctx.listsWf ∧ keysRise w.cells

namespace FfWork.listsWf
variable {w : FfWork}

theorem setCell (h : w.listsWf) (i : Nat) (c : Cell) : (w.setCell i c).listsWf := ⟨h.1, h.2.kvSet ..⟩

theorem eachCell {α : Type} (h : w.listsWf) (chk : FfWork → Nat → α → Option FfEnd) (put : Cell → α → Cell) (c : Nat) (l : List α) :
    (FfWork.eachCell chk put w c l).1.listsWf := by
  induction l generalizing w c with
  | nil => exact h
  | cons v l ih =>
    unfold FfWork.eachCell
    split
    · exact h
    · exact ih (h.setCell ..) _

theorem clampAll (h : w.listsWf) (bad : List (Nat × Nat)) (on : Bool) (l : List Nat) : (w.clampAll bad on l).1.listsWf := by
  induction l generalizing w with
  | nil => exact h
  | cons e l ih =>
    unfold FfWork.clampAll
    dsimp only
    split
    · exact h
    · split
      · exact h
      · exact ih (h.setCell ..)

theorem conf (h : w.listsWf) (bad : List (Nat × Nat)) (i : Nat) {g : FfConfig} (hg : keysRise g.sigt) : (w.conf bad i g).1.listsWf := by
  unfold FfWork.conf
  split
  · exact h
  · exact ⟨h.1.work hg, h.2⟩

theorem load (h : w.listsWf) (bad : List (Nat × Nat)) (i : Nat) (kind : FfKind) (x : Nat) (bs : List Byte) :
    (w.load bad i kind x bs).1.listsWf := by
  have hg : keysRise w.ctx.work.sigt := h.1.1
  unfold FfWork.load
  cases kind with
  | key | beta | mode => exact h.conf _ _ hg
  | sigt => exact h.conf _ _ (FfConfig.setEntries_rise hg ..)
  | edge | bias | col => exact h.eachCell ..
  | state =>
    dsimp only
    split
    · exact h.conf _ _ hg
    · exact h.eachCell ..
  | clamp | unclamp => exact h.clampAll ..
  | creset =>
    dsimp only
    split
    · exact h
    · exact ⟨h.1, h.2.map fun _ => rfl⟩
  | sweep | bits | cnt => exact h

end FfWork.listsWf

namespace Firefly.listsWf
variable {f : Firefly}

theorem ctx (h : f.listsWf) (i : Fin 16) : (f.ctxs[i]).listsWf := h.2.2 i

/-- Another context in its place, and other lists of cells. -/
theorem setCtx (h : f.listsWf) {f' : Firefly} {i : Fin 16} {c : FfContext} (hctx : f'.ctxs = f.ctxs.set i c) (hc : c.listsWf)
    (hcells : keysRise f'.cells) (hcomm : keysRise f'.comm) : f'.listsWf := by
  refine ⟨hcells, hcomm, fun j => ?_⟩
  simp only [hctx, Fin.getElem_fin, Vector.getElem_set]
  split
  · exact hc
  · exact h.ctx j

theorem onlyCtx (h : f.listsWf) (i : Fin 16) {c : FfContext} (hc : c.listsWf) : ({ f with ctxs := f.ctxs.set i c } : Firefly).listsWf :=
  h.setCtx rfl hc h.1 h.2.1

theorem putWork (h : f.listsWf) (i : Fin 16) {w : FfWork} (hw : w.listsWf) : (f.putWork i w).listsWf := h.setCtx rfl hw.1 hw.2 h.2.1

theorem initCtx (h : f.listsWf) (i : Fin 16) : (f.initCtx i).listsWf := h.setCtx rfl FfContext.reset_listsWf (h.1.filter _) (h.2.1.filter _)

theorem commit (h : f.listsWf) (region : BitVec 20) : (f.commit region).listsWf := by
  unfold Firefly.commit
  split
  · exact h
  · next i _ => exact h.setCtx rfl ⟨(h.ctx i).1, (h.ctx i).1⟩ h.1 (FfContext.copyCells_rises _ _ h.2.1)

theorem abort (h : f.listsWf) (region : BitVec 20) (mine : Nat → Bool) : (f.abort region mine).listsWf := by
  unfold Firefly.abort
  dsimp only
  split
  · exact h
  · next i _ => exact h.setCtx rfl ⟨(h.ctx i).2, (h.ctx i).2⟩ (FfContext.copyCells_rises _ _ h.1) h.2.1

theorem start (h : f.listsWf) (region : BitVec 20) : (f.start region).listsWf := by
  unfold Firefly.start
  split
  · exact h
  · next i _ => exact h.onlyCtx i (h.ctx i)

theorem writeBlock (h : f.listsWf) (i : Fin 16) (o : Nat) (bs : List Byte) : (f.writeBlock i o bs).listsWf := by
  unfold Firefly.writeBlock
  extract_lets c put c1 f1
  have h1 : c1.listsWf := (h.ctx i).setBlock ..
  have hf : f1.listsWf := (h.onlyCtx i h1).initCtx i
  split
  · exact hf.onlyCtx i ((hf.ctx i).setBlock ..)
  · exact h.onlyCtx i h1

theorem setCellByte (h : f.listsWf) (o : Nat) (b : Byte) : (f.setCellByte o b).listsWf :=
  List.foldlRecOn (motive := Firefly.listsWf) _ _ h fun _ hf _ _ => ⟨hf.1.kvSet .., hf.2.1.kvSet .., hf.2.2⟩

end Firefly.listsWf

/-! ## Agents -/

namespace State.listsWf
variable {s : State}

theorem setAgentOf (h : s.listsWf) (w : Who) (g : Agent) : (s.setAgentOf w g).listsWf := by
  cases w with
  | tile t a => exact h.keepTile
  | svc d c => exact h.keepDie

theorem modAgent (h : s.listsWf) (w : Who) (f : Agent → Agent) : (s.modAgent w f).listsWf := h.setAgentOf w _
theorem setMe (h : s.listsWf) (g : Agent) : (s.setMe g).listsWf := h.setAgentOf _ g
theorem modMe (h : s.listsWf) (f : Agent → Agent) : (s.modMe f).listsWf := h.setMe _

theorem retire (h : s.listsWf) (w : Who) : (s.retire w).listsWf := by
  cases w with
  | tile t a => exact h.keepTile
  | svc d c => exact h.keepDie

theorem done (h : s.listsWf) (g : Agent) : ListsOut (s.done g) := ((h.setMe _).retire _).next
theorem goto (h : s.listsWf) (g : Agent) (t : W) : ListsOut (s.goto g t) := ((h.setMe _).retire _).next
theorem doneX (h : s.listsWf) (d : BitVec 5) (v : W) : ListsOut (s.doneX d v) := h.done _
theorem doneP (h : s.listsWf) (d : BitVec 3) (v : Bool) : ListsOut (s.doneP d v) := h.done _
theorem doneNop (h : s.listsWf) : ListsOut s.doneNop := h.done _
theorem waitOn (h : s.listsWf) (w : WaitOn) : ListsOut (s.waitOn w) := (h.setMe _).next
theorem stall (h : s.listsWf) : ListsOut s.stall := (h.modMe _).next

theorem finishWait (h : s.listsWf) (t : Nat) (a : Fin 10) (g : Agent) : (s.finishWait t a g).listsWf :=
  h.keepTile.retire _

theorem takeTrap (h : s.listsWf) (w : Who) (code : Nat) (faddr epc : W) : (s.takeTrap w code faddr epc).listsWf := h.modAgent w _
theorem trap (h : s.listsWf) (code : Nat) (faddr : W) : ListsOut (s.trap code faddr) := (h.takeTrap ..).next

theorem transfer (h : s.listsWf) (g : Agent) (t : W) : ListsOut (s.transfer g t) := (h.trap ..).ite ((h.trap ..).ite (h.goto g t))

variable {k : State → Out} (hk : ∀ t, t.listsWf → ListsOut (k t))
include hk

theorem onCores (h : s.listsWf) {ok : CoreKind → Bool} {word : Nat} : ListsOut (s.onCores ok word k) := (hk s h).ite (h.trap ..)
theorem onTile (h : s.listsWf) {word : Nat} : ListsOut (s.onTile word k) := h.onCores hk
theorem onWork (h : s.listsWf) {word : Nat} : ListsOut (s.onWork word k) := h.onCores hk
theorem onHaul (h : s.listsWf) {word : Nat} : ListsOut (s.onHaul word k) := h.onCores hk
theorem onShape (h : s.listsWf) {word : Nat} : ListsOut (s.onShape word k) := h.onCores hk
theorem onService (h : s.listsWf) {word : Nat} : ListsOut (s.onService word k) := (hk s h).ite (h.trap ..)

theorem rdWait (h : s.listsWf) : ListsOut (s.rdWait k) := by
  unfold State.rdWait
  split
  · exact h.waitOn _
  · exact hk s h

theorem release (h : s.listsWf) : ListsOut (s.release k) := by
  unfold State.release
  refine (h.waitOn _).ite ?_
  split
  · exact h.waitOn _
  · exact hk s h

theorem checked (h : s.listsWf) {a : W} {n : Nat} : ListsOut (s.checked a n k) := (h.trap ..).ite ((h.trap ..).ite (h.rdWait hk))

end State.listsWf

/-! ## Tile memory and the version store -/

namespace Tile.listsWf
variable {tl : Tile}

theorem keepLine (h : tl.listsWf) (l : Nat) : (tl.keepLine l).listsWf := Tile.listsWf.ite h h

theorem noteRead (h : tl.listsWf) (r : Reader) (l : List (Nat × Nat)) (ver : Nat → Nat) : (tl.noteRead r l ver).listsWf := Tile.listsWf.ite h h

theorem noteLoad (h : tl.listsWf) (a : Fin 10) (l : List (Nat × Nat)) : (tl.noteLoad a l).listsWf := h.noteRead ..

theorem stamp (h : tl.listsWf) (n : Nat) (p : Fin 10 × Nat) : (tl.stamp n p).listsWf := h

theorem put (h : tl.listsWf) {a : Nat} {bs : List Byte} {t : Tile} (e : tl.put a bs = some t) : t.listsWf := by
  unfold Tile.put at e
  split at e
  · cases e; exact h.keepLine (a / 64)
  · cases e

theorem putParts (h : tl.listsWf) (l : List (Nat × List Byte)) : (tl.putParts l).1.listsWf := by
  induction l generalizing tl with
  | nil => exact h
  | cons p l ih =>
    unfold Tile.putParts
    split
    · exact ih (h.put ‹_›)
    · exact h

theorem putRange (h : tl.listsWf) (a : Nat) (bs : List Byte) : (tl.putRange a bs).1.listsWf := h.putParts _

theorem store (h : tl.listsWf) {a : Fin 10} {l : List (Nat × Nat)} {addr : Nat} {bs : List Byte} {t : Tile}
    (e : tl.store a l addr bs = some t) : t.listsWf := by
  unfold Tile.store at e
  dsimp only at e
  split at e
  · exact h.put e
  · split at e
    · cases e
    · cases e
      refine h.foldl (fun x p hx => ?_) _
      split
      · exact hx.keepLine _
      · cases hp : x.put p.1 p.2 with
        | none => exact hx
        | some y => exact hx.put hp

theorem perform (h : tl.listsWf) (q : HeldStore) : (tl.perform q).listsWf := by
  unfold Tile.perform
  split
  · exact h
  · next t e =>
    have ht : t.listsWf := h.put e
    exact ht

theorem setFe (h : tl.listsWf) (w : Nat) (full : Bool) : (tl.setFe w full).listsWf := h

theorem fillFe (h : tl.listsWf) (a n : Nat) : (tl.fillFe a n).listsWf := Tile.listsWf.ite h (h.foldl (fun _ _ h => h.setFe ..) _)

theorem record (h : tl.listsWf) (r : Recorded) : (tl.record r).listsWf := h

theorem layParts (h : tl.listsWf) (l : List (Nat × List Byte)) : (tl.layParts l).1.listsWf := by
  induction l generalizing tl with
  | nil => exact h
  | cons p l ih =>
    unfold Tile.layParts
    split
    · exact ih (h.put ‹_›)
    · exact h

theorem fillWhere (h : tl.listsWf) (ok : Nat → Bool) (a n : Nat) : (tl.fillWhere ok a n).listsWf :=
  h.foldl (fun _ _ h => Tile.listsWf.ite (h.setFe ..) h) _

theorem freshCodes (h : tl.listsWf) (l : List (Nat × Nat)) : (tl.freshCodes l).listsWf := h

theorem fillRunsBut (h : tl.listsWf) {before later : List (Nat × Nat)} {l : List (Nat × List Byte)} {t : Tile} {r : Option Nat}
    (e : tl.fillRunsBut before later l = (t, r)) : t.listsWf := by
  cases e
  exact ((h.layParts _).freshCodes _).foldl (fun _ _ h => h.fillWhere ..) _

theorem fillRuns (h : tl.listsWf) {l : List (Nat × List Byte)} {t : Tile} {r : Option Nat} (e : tl.fillRuns l = (t, r)) : t.listsWf :=
  h.fillRunsBut e

end Tile.listsWf

namespace State.listsWf
variable {s : State}

theorem flush (h : s.listsWf) (t : Nat) : (s.flush t).listsWf := by
  have hp (q : Tile × List HeldStore) (hq : q.1.listsWf) (c : Bool) (x : HeldStore) :
      (if c then (q.1, q.2 ++ [x]) else (q.1.perform x, q.2)).1.listsWf := by
    cases c
    · exact hq.perform x
    · exact hq
  exact h.ite (h.setTile (List.foldlRecOn (motive := fun q : Tile × List HeldStore => q.1.listsWf) _ _ (h.tile t) fun q hq x _ => hp q hq _ x))

theorem recordError (h : s.listsWf) (t code unit bank row : Nat) : (s.recordError t code unit bank row).listsWf := by
  refine h.ite ((h.setTile ((h.tile t).record _)).modDie fun x hx => ?_)
  split <;> exact hx

theorem tmError (h : s.listsWf) (t w : Nat) : (s.tmError t w).listsWf := (h.recordError ..).ite (h.modTile fun _ h => h.record _)

theorem readError (h : s.listsWf) (w : Who) (k : Nat) : (s.readError w k).listsWf := by
  cases w with
  | tile t a => exact h.tmError t k
  | svc d c => exact h.modAgent _ _

theorem loaded (h : s.listsWf) (w : Who) (l : List (Nat × Nat)) : (s.loaded w l).listsWf := by
  cases w with
  | tile t a => exact State.listsWf.ite (h.modTile fun _ h => h.noteLoad ..) h
  | svc d c => exact h

theorem readBytes (h : s.listsWf) {a n : Nat} {k : List Byte → State → Out} (hk : ∀ bs t, t.listsWf → ListsOut (k bs t)) :
    ListsOut (s.readBytes a n k) := by
  unfold State.readBytes
  split
  · exact (h.readError ..).next
  · exact hk _ _ (h.loaded ..)

/-- `readBytes` gives as many bytes as are asked for. -/
theorem readBytes_length (h : s.listsWf) {a n : Nat} {k : List Byte → State → Out} (hk : ∀ bs t, bs.length = n → t.listsWf → ListsOut (k bs t)) :
    ListsOut (s.readBytes a n k) := by
  unfold State.readBytes
  split
  · exact (h.readError ..).next
  · exact hk _ _ (Memory.bytes_length ..) (h.loaded ..)

theorem storeWait (h : s.listsWf) {a n : Nat} {k : State → Out} (hk : ListsOut (k s)) : ListsOut (s.storeWait a n k) := by
  unfold State.storeWait
  split
  · exact h.waitOn _
  · exact h.stall.ite hk

theorem storeHere (h : s.listsWf) {a : Nat} {bs : List Byte} {t : Tile} (e : s.storeHere a bs = some t) : t.listsWf :=
  (h.tile s.here).store e

theorem storeBytes (h : s.listsWf) {a : Nat} {bs : List Byte} {k : State → Out} (hk : ∀ t, t.listsWf → ListsOut (k t)) :
    ListsOut (s.storeBytes a bs k) := by
  refine h.storeWait ?_
  dsimp only
  split
  · split
    · exact hk _ (h.setTile (h.storeHere ‹_›))
    · exact h.trap ..
  · exact hk _ h.keepDie

theorem load (h : s.listsWf) (d : BitVec 5) (a : W) (n : Nat) (signed : Bool) : ListsOut (s.load d a n signed) :=
  h.checked fun _ h => h.readBytes fun _ _ h => h.doneX ..

theorem store (h : s.listsWf) (r : BitVec 5) (a : W) (n : Nat) : ListsOut (s.store r a n) :=
  h.checked fun _ h => h.storeBytes fun _ h => h.doneNop

theorem setRec (h : s.listsWf) (r : BitVec 5) (v : Rec) : (s.setRec r v).listsWf := by
  unfold State.setRec
  split
  · exact h.modTile fun _ h => Tile.listsWf.ite h (Tile.listsWf.ite h h)
  · exact h

theorem takeFull (h : s.listsWf) (t addr : Nat) (c : Bool) : (s.takeFull t addr c).listsWf :=
  State.listsWf.ite (h.modTile fun _ h => h.setFe ..) h

theorem wakeLdfe (h : s.listsWf) (t : Nat) (a : Fin 10) (d : BitVec 5) (addr : Nat) : (s.wakeLdfe t a d addr).listsWf := by
  unfold State.wakeLdfe
  dsimp only
  split
  · exact h.readError ..
  · exact (h.loaded ..).finishWait ..

theorem recAccess (h : s.listsWf) {a b : BitVec 5} {n : Nat} {k : W → State → Out} (hk : ∀ w, ListsOut (k w s)) :
    ListsOut (s.recAccess a b n k) := (h.trap ..).ite (hk _)

/-! ## Semaphores and waits -/

theorem reissue (h : s.listsWf) (t : Nat) (a : Fin 10) : (s.reissue t a).listsWf := h.keepTile

theorem wakeDrain (h : s.listsWf) (t : Nat) (a : Fin 10) : (s.wakeDrain t a).listsWf := by
  unfold State.wakeDrain
  dsimp only
  split
  · exact (h.flush t).keepTile
  · exact ((h.flush t).reissue t a).ite (h.flush t)
  · exact h.flush t

theorem gldGone (h : s.listsWf) (t a : Nat) : (s.gldGone t a).listsWf := by
  refine h.foldl (fun s c h => ?_) _
  dsimp only
  split
  · exact ((h.setAgentOf ..).retire _).ite (h.setAgentOf ..)
  · exact h

theorem deferTo (h : s.listsWf) (t : Nat) (a : Fin 10) (code : Nat) (faddr : W) : (s.deferTo t a code faddr).listsWf := by
  unfold State.deferTo
  dsimp only
  split <;> exact h.keepTile

theorem complete (h : s.listsWf) (t k : Nat) (a : Fin 10) : (s.complete t k a).listsWf :=
  (h.deferTo ..).ite h.keepTile

end State.listsWf

/-! Every step keeps the lists of the part in order (R113, R298): HBM, translation and faults, the haul core, ports, the exchange, collectives. -/

namespace State.listsWf
variable {s : State}

/-! ## HBM (R380-R387) -/

theorem logHbm (h : s.listsWf) (d pa : Nat) : (s.logHbm d pa).listsWf := by
  unfold State.logHbm
  refine h.modDie fun x hx => ?_
  split <;> exact hx

theorem logBad (h : s.listsWf) (d m pa n : Nat) : (s.logBad d m pa n).listsWf := h.foldl (fun _ _ h => h.logHbm ..) _

theorem noteRead (h : s.listsWf) (d m pa n : Nat) : (s.noteRead d m pa n).listsWf := h.ite ((h.free _).logBad ..)

theorem seenHbm (h : s.listsWf) (m : Nat) : (s.seenHbm m).listsWf := h.ite h.modModule

theorem setHbm (h : s.listsWf) (m pa : Nat) (bs : List Byte) : (s.setHbm m pa bs).listsWf :=
  h.modModule

theorem physdRead (h : s.listsWf) (d : Nat) : (s.physdRead d).2.listsWf := by
  unfold State.physdRead
  dsimp only
  split
  · exact (h.free _).keepDie
  · split
    · exact ((h.free _).logHbm ..).keepDie
    · exact h.keepDie

theorem physdWrite (h : s.listsWf) (d : Nat) (v : W) : (s.physdWrite d v).listsWf :=
  (h.ite (h.setHbm ..)).keepDie

theorem fqbaseWrite (h : s.listsWf) (d : Nat) (v : W) : (s.fqbaseWrite d v).listsWf := by
  unfold State.fqbaseWrite
  exact State.listsWf.ite (h.free _).keepDie h

theorem ilmapWrite (h : s.listsWf) (d : Nat) (n : Fin 3) (v : W) : (s.ilmapWrite d n v).listsWf := by
  unfold State.ilmapWrite
  dsimp only
  split
  · exact h.keepDie
  · exact (State.listsWf.free h.keepDie _).modModule

theorem loseRows (h : s.listsWf) (m : Nat) : (s.loseRows m).listsWf := by
  unfold State.loseRows
  exact h.ite (h.free _).modModule

theorem migctlWrite (h : s.listsWf) (d : Nat) (v : W) : (s.migctlWrite d v).listsWf := by
  unfold State.migctlWrite
  exact h.keepDie

theorem replayMove (h : s.listsWf) (d : Nat) (e : Nat × Nat × Nat × Nat) : (s.replayMove d e).listsWf := by
  unfold State.replayMove
  dsimp only
  split
  · exact h
  · exact h.modModule

theorem forgetChunk (h : s.listsWf) (d pc chunk : Nat) : (s.forgetChunk d pc chunk).listsWf := by
  unfold State.forgetChunk
  exact (h.free _).modModule

theorem execMigrationDone (h : s.listsWf) (d : Nat) : ListsOut (execMigrationDone d s) := by
  unfold Machine.execMigrationDone
  exact h.next.ite ((h.keepDie.foldl (fun _ _ h => h.forgetChunk ..) _).replayMove ..).next

theorem pprctlWrite (h : s.listsWf) (d : Nat) (v : W) : (s.pprctlWrite d v).listsWf := by
  unfold State.pprctlWrite
  refine h.modDie fun x hx => ?_
  split <;> exact hx

theorem hbmerrRead (h : s.listsWf) (d : Nat) : (s.hbmerrRead d).2.listsWf := by
  unfold State.hbmerrRead
  split
  · exact h
  · exact h.keepDie

end State.listsWf

/-! ## Translation and faults (R361-R379) -/

namespace Tile.listsWf
variable {tl : Tile}

theorem promote (h : tl.listsWf) : tl.promote.listsWf := by
  unfold Tile.promote
  split
  · exact Tile.listsWf.ite h h
  · exact h

theorem bindSlot (h : tl.listsWf) (op k : Nat) (recMode : Bool) : (tl.bindSlot op k recMode).listsWf :=
  promote (tl := { tl with haulQ := _ }) h

end Tile.listsWf

namespace State.listsWf
variable {s : State}

theorem lookup (h : s.listsWf) (t va : Nat) : (s.lookup t va).2.listsWf := by
  unfold State.lookup
  dsimp only
  split
  · exact h
  · split
    · exact h.keepTile
    · exact h

theorem xlat (h : s.listsWf) {t va : Nat} {w : Bool} {x : Xlat} {s1 : State} (e : s.xlat t va w = (x, s1)) : s1.listsWf := by
  have hl := h.lookup t va
  unfold State.xlat at e
  split at e <;> next he => cases e; rwa [he] at hl

theorem addStop (h : s.listsWf) (t : Nat) (f : FaultStop) : (s.addStop t f).listsWf := h.keepDie

theorem postRecord (h : s.listsWf) (d k : Nat) (bs : List Byte) : (s.postRecord d k bs).listsWf :=
  (h.setHbm ..).ite (State.listsWf.ite (h.free _).modModule h)

theorem execFaultRecordPost (h : s.listsWf) (d : Nat) : ListsOut (execFaultRecordPost d s) := by
  unfold Machine.execFaultRecordPost
  dsimp only
  split
  · split
    · exact ((h.postRecord ..).keepDie.modTile fun _ h => h.bindSlot ..).next
    · exact (h.postRecord ..).keepDie.next
  · exact h.next

theorem setRecord (h : s.listsWf) (d k v : Nat) : (s.setRecord d k v).listsWf := by
  unfold State.setRecord
  dsimp only
  split
  · exact h
  · split
    · exact (h.setHbm ..).modModule
    · exact h.setHbm ..

theorem voidRecords (h : s.listsWf) (t : Nat) : (s.voidRecords t).listsWf := by
  unfold State.voidRecords
  dsimp only
  refine keepDie (h.foldl (fun s k h => ?_) _)
  exact (h.setRecord ..).keepDie

theorem park (h : s.listsWf) (code va : Nat) : ListsOut (s.park code va) := by
  unfold State.park
  split
  · exact ((h.setMe _).addStop ..).next
  · exact h.next

theorem execGld (h : s.listsWf) (d a b : BitVec 5) (t : BitVec 3) : ListsOut (execGld d a b t s) :=
  h.onWork fun s h => (h.trap ..).ite ((h.trap ..).ite (by
    split
    · exact (h.xlat ‹_›).park ..
    · exact (h.xlat ‹_›).trap ..
    · exact (h.xlat ‹_›).park ..
    · exact (h.xlat ‹_›).waitOn _))

theorem execGldDataReturn (h : s.listsWf) (t a : Nat) : ListsOut (execGldDataReturn t a s) := by
  unfold Machine.execGldDataReturn
  split
  · dsimp only
    split
    · refine h.next.ite ?_
      split
      · exact ((h.logHbm ..).keepTile.gldGone ..).next
      · exact ((h.finishWait ..).gldGone ..).next
    · exact h.next
  · exact h.next

theorem removeTlb (h : s.listsWf) (d : Nat) (p : Tlbe → Bool) : (s.removeTlb d p).listsWf := by
  have hd : (s.modDie d fun x => { x with mc := { x.mc with llt := x.mc.llt.filter fun q => !p q.2 } }).listsWf := h.keepDie
  unfold State.removeTlb
  refine hd.tilesTo (forall₂_map (fun q => ⟨rfl, fun hq => ?_⟩) _)
  exact Tile.listsWf.ite hq hq

end State.listsWf

namespace State.listsWf
variable {s : State}

theorem execTlbw (h : s.listsWf) (a b : BitVec 5) : ListsOut (execTlbw a b s) := h.onService fun s h => by
  refine (h.trap ..).ite (doneNop (free (keepDie ?_) _))
  split
  · exact h.removeTlb ..
  · exact State.listsWf.ite ((h.removeTlb ..).removeTlb ..) (h.removeTlb ..)

theorem invalidate (h : s.listsWf) (p : Tlbe → Bool) : ListsOut (s.invalidate p) :=
  (h.removeTlb ..).doneNop.ite ((h.removeTlb ..).waitOn _)

theorem execTlbinv (h : s.listsWf) (a : BitVec 5) : ListsOut (execTlbinv a s) := h.onService fun _ h => h.invalidate _
theorem execTlbinvAll (h : s.listsWf) : ListsOut (execTlbinvAll s) := h.onService fun _ h => h.invalidate _

theorem execFqpop (h : s.listsWf) (d : BitVec 5) : ListsOut (execFqpop d s) := h.onService fun s h => by
  split
  · dsimp only
    split
    · exact h.doneX ..
    · refine State.listsWf.doneX (h.modDie fun x hx => ?_) ..
      split <;> exact hx
  · exact h.doneNop

theorem unpark (h : s.listsWf) (t agent : Nat) (f : Agent → Agent) : (s.unpark t agent f).listsWf := by
  unfold State.unpark
  split
  · refine h.modTile fun tl ht => ?_
    dsimp only
    split <;> exact ht
  · exact h

theorem deliverHaul (h : s.listsWf) (t code : Nat) (va : W) : (s.deliverHaul t code va).listsWf :=
  State.listsWf.ite h.keepTile (h.deferTo ..)

theorem execFqres (h : s.listsWf) (a : BitVec 5) : ListsOut (execFqres a s) := h.onService fun s h => by
  split
  · exact h.doneNop
  · next d c _ =>
    have hl : ({ s with free := s.free + 1 }.logBad d (modOfDie d) ((s.rx a).fld 0 40) 24).listsWf := (h.free _).logBad ..
    refine (h.trap ..).ite (((h.noteRead ..).trap ..).ite ((h.free _).doneNop.ite (hl.doneNop.ite (ListsOut.ite ?_ (ListsOut.ite ?_ ?_)))))
    · exact (State.listsWf.dite (fun _ => (hl.setRecord ..).keepDie.keepTile) fun _ => (hl.setRecord ..).keepDie).doneNop
    · exact (State.listsWf.ite (hl.setRecord ..).keepDie.keepTile ((hl.setRecord ..).keepDie.unpark ..)).doneNop
    · refine doneNop (State.listsWf.ite (deliverHaul (wakeDrain ((hl.setRecord ..).keepDie.modTile ?_) ..) ..)
        ((hl.setRecord ..).keepDie.unpark ..))
      exact fun _ h => Tile.listsWf.promote h

end State.listsWf

/-! ## The haul core (R200-R222) -/

namespace Tile.listsWf
variable {tl : Tile}

theorem feedLaunch (h : tl.listsWf) : tl.feedLaunch.listsWf := by
  unfold Tile.feedLaunch
  split
  · exact h
  · exact Tile.listsWf.ite h h

theorem putOp (h : tl.listsWf) (o : HaulOp) : (tl.putOp o).listsWf := h
theorem notePa (h : tl.listsWf) (o j len pa : Nat) : (tl.notePa o j len pa).listsWf := h

theorem afterRead (h : tl.listsWf) (o : HaulOp) (k : Nat) (l later : List (Nat × Nat)) : (tl.afterRead o k l later).1.listsWf := h.noteRead ..

theorem haulFill (h : tl.listsWf) {o : HaulOp} {later : List (Nat × Nat)} {l : List (Nat × List Byte)} {t : Tile} {r : Option Nat}
    (e : tl.haulFill o later l = (t, r)) : t.listsWf := by
  cases e
  have hf := h.fillRunsBut (rfl : tl.fillRunsBut (runsOf o.dst 0 o.cursor) later l = _)
  exact hf

theorem poisonRuns (h : tl.listsWf) (l : List (Nat × Nat)) : (tl.poisonRuns l).listsWf := by
  unfold Tile.poisonRuns
  refine h.foldl (fun x p hx => ?_) l
  exact hx.foldl (f := fun tl i => { tl with poison := natInsert tl.poison (p.1 / 16 + i) }) (fun _ _ h => h) _

end Tile.listsWf

namespace State.listsWf
variable {s : State}

theorem haulEnter (h : s.listsWf) (o : HaulOp) : ListsOut (s.haulEnter o) :=
  (h.waitOn _).ite ((h.complete ..).doneNop.ite h.keepTile.doneNop)

theorem haulIssue (h : s.listsWf) (o : HaulOp) (ln : W) : ListsOut (s.haulIssue o ln) := by
  unfold State.haulIssue
  split
  · exact h.trap ..
  · exact h.haulEnter o

theorem hredIssue (h : s.listsWf) (word f : Nat) (e a : BitVec 5) (k : BitVec 6) : ListsOut (s.hredIssue word f e a k) :=
  h.onHaul fun _ h => h.haulIssue ..

theorem stopOp (h : s.listsWf) (t o code : Nat) (faddr : W) : (s.stopOp t o code faddr).listsWf :=
  (h.keepTile.deliverHaul ..).wakeDrain ..

theorem keepCopy (h : s.listsWf) (t : Nat) (o : HaulOp) (bs : List Byte) : (s.keepCopy t o bs).listsWf := by
  unfold State.keepCopy
  exact h.keepTile

theorem execHaulOpStart (h : s.listsWf) (t o : Nat) : ListsOut (execHaulOpStart t o s) := by
  unfold Machine.execHaulOpStart
  grind [ListsOut.next, setTile, tile, free, tmError, flush, stopOp, keepCopy, Tile.listsWf.putOp, Tile.listsWf.afterRead, Tile.listsWf.haulFill]

theorem suspendOp (h : s.listsWf) (t : Nat) (op : HaulOp) (cause : Nat) : (s.suspendOp t op cause).listsWf := by
  unfold State.suspendOp
  exact h.keepTile.addStop ..

theorem execHaulChunk (h : s.listsWf) (t o : Nat) : ListsOut (execHaulChunk t o s) := by
  have hd (tl : Tile) (l : List Delta) : ({ tl with deltas := l } : Tile).listsWf ↔ tl.listsWf := Iff.rfl
  have hy (tl : Tile) (l : List (Nat × Nat × Nat)) : ({ tl with dirty := l } : Tile).listsWf ↔ tl.listsWf := Iff.rfl
  unfold Machine.execHaulChunk
  grind [ListsOut.next, State.modTile, setTile, tile, free, xlat, suspendOp, stopOp, tmError, logBad, logHbm, flush, Tile.listsWf.record,
    Tile.listsWf.haulFill, Tile.listsWf.afterRead, Tile.listsWf.putOp, Tile.listsWf.notePa, Tile.listsWf.poisonRuns]

theorem execHaulOpComplete (h : s.listsWf) (t o : Nat) : ListsOut (execHaulOpComplete t o s) := by
  unfold Machine.execHaulOpComplete
  split
  · exact h.next
  · refine h.next.ite (ListsOut.next (wakeDrain (complete (h.modTile ?_) ..) ..))
    exact fun _ h => Tile.listsWf.feedLaunch h

theorem execHaulOpReplay (h : s.listsWf) (t o : Nat) : ListsOut (execHaulOpReplay t o s) := by
  unfold Machine.execHaulOpReplay
  dsimp only
  split
  · exact h.next
  · refine h.next.ite (ListsOut.next (h.setTile (Tile.listsWf.promote ?_)))
    exact h.tile t

theorem execQueueFullResume (h : s.listsWf) (t a : Nat) : ListsOut (execQueueFullResume t a s) := by
  unfold Machine.execQueueFullResume
  split
  · exact (h.reissue ..).next.ite h.next
  · exact h.next

/-! ## Ports (R353, R412) -/

theorem modPort (h : s.listsWf) (d : Nat) (host : Bool) (f : Port → Port) : (s.modPort d host f).listsWf := by
  refine h.modDie fun x hx => ?_
  split <;> exact hx

theorem keepFrame (h : s.listsWf) (d : Nat) (host : Bool) (cfg : BitVec 56) (dst : Option Nat) (payload : List Byte) :
    (s.keepFrame d host cfg dst payload).listsWf := h.modPort ..

theorem putFrame (h : s.listsWf) (d : Nat) (host : Bool) (cfg : BitVec 56) (dst : Option Nat) (kind : Nat) (seq : BitVec 32)
    (payload : List Byte) : (s.putFrame d host cfg dst kind seq payload).listsWf := h

theorem sendFrame (h : s.listsWf) (d : Nat) (cfg : BitVec 56) (dst : Option Nat) (payload : List Byte) :
    (s.sendFrame d cfg dst payload).listsWf := h.foldl (fun _ _ h => (h.putFrame ..).keepFrame ..) _

theorem sendOp (h : s.listsWf) (d : Nat) (host : Bool) (o : Output) : (s.sendOp d host o).listsWf := (h.keepFrame ..).outs _

theorem report (h : s.listsWf) (m code region ssn cause tile data : Nat) : (s.report m code region ssn cause tile data).listsWf :=
  State.listsWf.ite (h.sendOp ..) h

/-! ## The Reel exchange and messages (R285-R306) -/

theorem modLink (h : s.listsWf) (d : Nat) (k : Fin 4) (f : Port → Port) : (s.modLink d k f).listsWf := h.keepDie

theorem putWire (h : s.listsWf) (d : Nat) (k : Fin 4) (kind : Nat) (seq : BitVec 32) (payload : List Byte) :
    (s.putWire d k kind seq payload).listsWf := h

theorem sendLink (h : s.listsWf) (d : Nat) (k : Fin 4) (payload : List Byte) : (s.sendLink d k payload).listsWf :=
  (h.putWire ..).modLink ..

theorem crossLinks (h : s.listsWf) (a b : Nat) (bs : List Byte) : (s.crossLinks a b bs).listsWf :=
  h.foldl (fun _ _ h => h.foldl (fun _ _ h => h.sendLink ..) _) _

theorem recordLink (h : s.listsWf) (t m n : Nat) : (s.recordLink t m n).listsWf := by
  unfold State.recordLink
  exact h.keepTile.recordError ..

theorem schedule (h : s.listsWf) (a b : BitVec 5) (bad : Bool) (e : XEntry) : ListsOut (s.schedule a b bad e) := by
  unfold State.schedule
  dsimp only
  split
  · exact h.trap ..
  · exact (h.trap ..).ite ((h.trap ..).ite ((h.trap ..).ite (h.doneNop.ite h.keepTile.doneNop)))

/-- An entry of 64 bytes appended to the outbox (R299, R301). -/
theorem post (h : s.listsWf) (t : Nat) {e : OutEntry} (he : e.data.length = 64) :
    (s.modTile t fun tl => { tl with cur := { tl.cur with outbox := tl.cur.outbox ++ [e] } }).listsWf :=
  h.modTile fun _ hx => hx.withOutbox fun _ ho => (List.mem_append.mp ho).elim hx.outbox fun ho => List.mem_singleton.mp ho ▸ he

theorem execSend (h : s.listsWf) (p : BitVec 3) (a b : BitVec 5) (n : BitVec 2) (t : BitVec 1) : ListsOut (execSend p a b n t s) :=
  h.onWork fun _ h => h.checked fun _ h => (h.trap ..).ite (((h.trap ..).ite (h.doneP ..)).ite
    (h.readBytes_length fun _ _ hn h => (h.post _ hn).doneP ..))

theorem recvFrom (h : s.listsWf) (d a : BitVec 5) (st : Bool) (p : BitVec 3) (q : Option (Fin 4)) : ListsOut (s.recvFrom d a st p q) := by
  unfold State.recvFrom
  split
  · exact (h.doneP ..).ite (h.waitOn _)
  · refine ListsOut.ite (h.recordError ..).next (h.storeBytes fun s1 h => ?_)
    exact (h.free _).keepTile.done _

theorem execRecv (h : s.listsWf) (d a : BitVec 5) (n : BitVec 2) (st : BitVec 1) (p : BitVec 3) : ListsOut (execRecv d a n st p s) :=
  h.onWork fun _ h => h.checked fun _ h => h.recvFrom ..

theorem execRecvAny (h : s.listsWf) (d a : BitVec 5) (st : BitVec 1) (p : BitVec 3) : ListsOut (execRecvAny d a st p s) :=
  h.onWork fun _ h => h.checked fun _ h => h.recvFrom ..

theorem execRspawn (h : s.listsWf) (p : BitVec 3) (a b : BitVec 5) : ListsOut (execRspawn p a b s) :=
  h.onWork fun _ h => h.checked fun _ h => h.readBytes fun _ _ _ => (h.trap ..).ite ((h.trap ..).ite ((h.trap ..).ite ((h.trap ..).ite
    (h.readBytes_length fun _ _ hn h => (h.post _ hn).doneP ..))))

theorem sealCause (h : s.listsWf) (t code : Nat) : (s.sealCause t code).listsWf := h.keepTile.keepDie
theorem countLate (h : s.listsWf) (t : Nat) : (s.countLate t).listsWf := h.keepDie

theorem execExchangeStartPacket (h : s.listsWf) (t : Nat) : ListsOut (execExchangeStartPacket t s) := by
  unfold Machine.execExchangeStartPacket
  dsimp only
  split
  · exact h.next
  · exact h.keepTile.next.ite (State.listsWf.ite (h.keepTile.keepTile.countLate _) h.keepTile.keepTile).next

theorem execExchangeStart (h : s.listsWf) (t : Nat) : ListsOut (execExchangeStart t s) := by
  unfold Machine.execExchangeStart
  dsimp only
  split
  · refine h.next.ite (ListsOut.next (State.listsWf.ite (sealCause ?_ ..) ?_))
    all_goals exact State.listsWf.ite (h.keepSet.sealCause ..) h.keepSet
  · exact h.next

end State.listsWf

namespace State.listsWf
variable {s : State}

theorem execFlitSend (h : s.listsWf) (t : Nat) : ListsOut (execFlitSend t s) := by
  unfold Machine.execFlitSend
  dsimp only
  refine h.next.ite ?_
  split
  · exact h.next
  · split
    · exact (h.keepSet.tmError ..).next
    · split
      · exact (h.keepSet.recordLink ..).next
      · refine ListsOut.next (crossLinks ?_ ..)
        exact h.keepSet

theorem landRuns (h : s.listsWf) (t : Nat) (runs : List (Nat × Nat)) (bs : List Byte) : (s.landRuns t runs bs).listsWf := by
  unfold State.landRuns
  split
  · exact h.setTile ((h.tile t).fillRuns ‹_›)
  · exact h.sealCause ..

theorem refuse (h : s.listsWf) (f : Flit) : (s.refuse f).listsWf := by
  unfold State.refuse
  split
  · exact h
  · exact h.ite (h.keepTile.sealCause ..)

theorem landFlit (h : s.listsWf) (f : Flit) : (s.landFlit f).listsWf := by
  unfold State.landFlit
  dsimp only
  split
  rotate_left 2
  · exact h.sealCause ..
  all_goals
    refine State.listsWf.ite ((h.refuse f).ite ((h.free _).landRuns ..)) ?_
    split
    · exact h.sealCause ..
    · exact h.ite ((h.keepTile.sealCause ..).ite ((h.keepTile.refuse f).ite ((h.keepTile.free _).landRuns ..)))

theorem execFlitArrival (h : s.listsWf) (i : Nat) : ListsOut (execFlitArrival i s) := by
  have hf (l : List Flit) : ({ s with flits := l } : State).listsWf := h
  unfold Machine.execFlitArrival
  split
  · exact h.next
  · exact h.next.ite (State.listsWf.ite ((hf _).sealCause ..) ((hf _).landFlit _)).next

theorem execXrecvMissedFlit (h : s.listsWf) (t e : Nat) : ListsOut (execXrecvMissedFlit t e s) := by
  unfold Machine.execXrecvMissedFlit
  dsimp only
  split
  · exact h.next.ite (ListsOut.ite (h.keepSet.sealCause ..).next h.next)
  · exact h.next

theorem execExchangeEnd (h : s.listsWf) (t : Nat) : ListsOut (execExchangeEnd t s) := ListsOut.ite h.keepSet.next h.next

theorem execMessageOffer (h : s.listsWf) (t e : Nat) : ListsOut (execMessageOffer t e s) := by
  unfold Machine.execMessageOffer
  dsimp only
  split
  · exact h.next
  · refine h.next.ite (ListsOut.ite (h.keepSet.recordError ..).next (ListsOut.ite (h.keepSet.recordError ..).next
      (ListsOut.ite (h.keepSet.sendFrame ..).next ?_)))
    split
    · exact (h.keepSet.recordLink ..).next
    · exact (h.keepSet.crossLinks ..).next

/-! ## Collectives (R337-R350) -/

theorem execCgrp (h : s.listsWf) (d a : BitVec 5) : ListsOut (execCgrp d a s) :=
  h.onHaul fun _ h => h.checked fun _ h => h.readBytes fun _ _ h1 => (h1.done _).ite (h.trap ..)

theorem execCrank (h : s.listsWf) (d a : BitVec 5) : ListsOut (execCrank d a s) := h.onHaul fun s h => by
  split
  · exact h.trap ..
  · exact h.doneX ..

theorem execCpart (h : s.listsWf) (d a b : BitVec 5) : ListsOut (execCpart d a b s) := h.onHaul fun s h => by
  dsimp only
  split
  · exact h.trap ..
  · exact (h.trap ..).ite (h.doneX ..)

theorem execCroute (h : s.listsWf) (a b : BitVec 5) : ListsOut (execCroute a b s) :=
  h.onHaul fun _ h => h.keepTile.doneNop.ite (h.trap ..)

theorem execCmark (h : s.listsWf) (a : BitVec 5) : ListsOut (execCmark a s) :=
  h.onHaul fun _ h => h.keepTile.doneNop.ite (h.trap ..)

theorem colIssue (h : s.listsWf) (word f : Nat) (e a b : BitVec 5) (k : BitVec 6) : ListsOut (s.colIssue word f e a b k) :=
  h.onHaul fun s h => by
    dsimp only
    split
    · exact h.trap ..
    · exact (h.complete ..).doneNop.ite (((h.waitOn _).ite h.keepTile.doneNop).ite h.keepTile.doneNop)

theorem execCollectiveSend (h : s.listsWf) (t e : Nat) : ListsOut (execCollectiveSend t e s) := by
  unfold Machine.execCollectiveSend
  dsimp only
  split
  · exact h.next
  · refine h.next.ite ?_
    split
    · exact h.next
    · split
      · exact (h.keepSet.recordLink ..).next
      · refine ListsOut.ite (h.keepSet.recordError ..).next (ListsOut.next (xfers (setTile (State.listsWf.foldl ?_ (fun _ _ h => h.crossLinks ..) _) ?_) _))
        · exact State.listsWf.ite (h.sendFrame ..) h
        · exact h.tile t

end State.listsWf

theorem Tile.listsWf.landCol {tl t : Tile} (h : tl.listsWf) {f k : Nat} {foul : Nat → Bool} {l : List (Nat × List Byte)}
    (e : tl.landCol f k foul l = some t) : t.listsWf := by
  induction l generalizing tl with
  | nil => cases e; exact h
  | cons p l ih =>
    unfold Tile.landCol at e
    split at e
    · exact ih (h.fillRuns ‹_›) e
    · cases e

namespace State.listsWf
variable {s : State}

theorem execCollectiveLanding (h : s.listsWf) (i : Nat) : ListsOut (execCollectiveLanding i s) := by
  unfold Machine.execCollectiveLanding
  dsimp only
  split
  · exact h.next
  · next f _ =>
    have h1 : ({ s with xfers := s.xfers.eraseIdx i }.modTile f.src fun x => x.setCol f.entry .done).listsWf := (h.xfers _).keepTile
    refine h.next.ite ?_
    split
    · exact (h1.sealCause ..).next
    · refine ListsOut.ite (h1.keepTile.sealCause ..).next (ListsOut.ite (h1.keepTile.sealCause ..).next ?_)
      split
      · exact (h1.keepTile.tmError ..).next
      · next e k _ _ _ =>
        have h2 := (h1.free (s.free + 1)).keepTile (t := f.dst) (f := fun x => x.setCol k .done)
        split
        · exact (h2.sealCause ..).next
        · next he =>
          have ht := (h2.tile _).landCol he
          exact ((h2.setTile (Tile.listsWf.ite (ht.freshCodes _) ht)).complete ..).next

theorem execCollectiveReceiveTimeout (h : s.listsWf) (t e : Nat) : ListsOut (execCollectiveReceiveTimeout t e s) := by
  unfold Machine.execCollectiveReceiveTimeout
  dsimp only
  split
  · exact h.next.ite (State.listsWf.ite (h.keepSet.recordLink ..) (h.keepSet.recordError ..)).next
  · exact h.next

end State.listsWf

/-! Every step keeps the lists of the part in order (R113, R298): the shape core, the matrix unit, streams, control. -/

/-! ## The shape core (R241-R259) -/

namespace State.listsWf
variable {s : State}

theorem shapeIssue (h : s.listsWf) (word : Nat) (kind : ShapeKind) (e a : BitVec 5) (p : W) (k : BitVec 6) :
    ListsOut (s.shapeIssue word kind e a p k) := h.onShape fun s h => by
  dsimp only
  split
  · exact h.trap ..
  · exact (h.waitOn _).ite h.keepSet.doneNop

theorem execShapeOpStart (h : s.listsWf) (t : Nat) : ListsOut (execShapeOpStart t s) := by
  unfold Machine.execShapeOpStart
  dsimp only
  split
  · exact h.next
  · next o rest _ =>
    refine h.next.ite ?_
    split
    · exact (h.tmError ..).next
    · have hr (ver : Nat → Nat) : ((s.tile t).noteRead ⟨9, o.id, false⟩ o.readRuns ver).ranHead.listsWf := (h.tile t).noteRead ..
      have hs := h.free (s.free + 2)
      split
      · next tl' e => exact ((hs.setTile (((hr _).fillRuns e).stamp ..)).flush t).next
      · next tl' a e =>
        have ht : tl'.listsWf := (hr _).fillRuns e
        exact (((hs.setTile (x := { tl' with shapeQ := rest }) ht).deferTo ..).wakeDrain ..).next

theorem execShapeOpComplete (h : s.listsWf) (t : Nat) : ListsOut (execShapeOpComplete t s) := by
  unfold Machine.execShapeOpComplete
  split
  · exact h.next
  · exact ListsOut.ite ((h.keepTile.complete ..).wakeDrain ..).next h.next

end State.listsWf

/-! ## The matrix unit (R260-R282) -/

namespace Tile.listsWf
variable {tl : Tile}

theorem accWrite (h : tl.listsWf) (n : Nat) (l : List (Nat × List Byte)) : (tl.accWrite n l).1.listsWf := by
  induction l generalizing tl with
  | nil => exact h
  | cons p l ih =>
    unfold Tile.accWrite
    dsimp only
    split
    · exact h
    · refine ih ?_
      split <;> exact h

theorem claim (h : tl.listsWf) (a : Fin 10) (k n : Nat) : (tl.claim a k n).listsWf := by
  unfold Tile.claim
  split <;> exact h

theorem accPut (h : tl.listsWf) (n : Nat) (v : List Nat) : (tl.accPut n v).1.listsWf := by
  have hw := h.accWrite n (accLines v)
  unfold Tile.accPut
  split <;> next e => rw [e] at hw; exact hw

theorem runMwld (h : tl.listsWf) (e : MatEntry) : (tl.runMwld e).1.listsWf := by
  unfold Tile.runMwld
  split
  · exact h
  · exact h

theorem runMmul (h : tl.listsWf) (e : MatEntry) (col : Bool) (clk : Nat) : (tl.runMmul e col clk).1.listsWf := by
  unfold Tile.runMmul
  dsimp only
  split
  · exact h
  · split
    · exact h
    · split
      · exact h
      · have h1 (v : List Nat) := Tile.listsWf.accPut (tl := { tl with arrayUntil := clk + blockTime (ctxA e.ctx), mshCnt := tl.mshCnt + 1 }) h e.acc v
        split
        · next he => exact accPut (he ▸ h1 _ :) ..
        · exact h1 _

theorem runRd (h : tl.listsWf) (e : MatEntry) (z : BitVec 32) : (tl.runRd e z).1.listsWf := by
  unfold Tile.runRd
  split
  · exact h
  · dsimp only
    split <;> exact h.fillRuns ‹_›

theorem runWr (h : tl.listsWf) (e : MatEntry) : (tl.runWr e).1.listsWf := by
  unfold Tile.runWr
  split
  · exact h
  · exact h.accPut ..

theorem setPin (h : tl.listsWf) (e : MatEntry) (p : Bool) : (tl.setPin e p).listsWf := by
  unfold Tile.setPin
  split
  · exact Tile.listsWf.ite h h
  · exact h

theorem runEntry (h : tl.listsWf) (clk : Nat) (e : MatEntry) : (tl.runEntry clk e).1.listsWf := by
  unfold Tile.runEntry
  split
  · exact h.runMwld e
  · exact h.runMmul ..
  · exact h.accPut ..
  · exact h.runRd ..
  · exact h.runWr e
  · exact h.setPin ..
  · exact h.setPin ..

theorem wakeMat (h : tl.listsWf) (ids : List Nat) : (tl.wakeMat ids).listsWf := h

theorem entryView (h : tl.listsWf) (k : Nat) (f : MatEntry) : (tl.entryView k f).listsWf := h

theorem entryRead (h : tl.listsWf) (k : Nat) (f : MatEntry) : (tl.entryRead k f).listsWf := h.noteRead ..

theorem runSeen (h : tl.listsWf) (clk k : Nat) (f : MatEntry) : (tl.runSeen clk k f).1.listsWf := by
  unfold Tile.runSeen
  dsimp only
  split
  · exact (h.runEntry ..).stamp ..
  · have hr := ((h.entryRead k f).entryView k f).runEntry clk f
    exact hr

end Tile.listsWf

namespace State.listsWf
variable {s : State}

theorem matPlace (h : s.listsWf) {k : State → Out} (hk : ∀ t, t.listsWf → ListsOut (k t)) : ListsOut (s.matPlace k) :=
  (h.waitOn _).ite (hk s h)

theorem matEnter (h : s.listsWf) (kind : MatKind) (rc : Rec) (acc slot : Nat) (hdr : ImageHdr) (reads : List (Nat × Nat))
    (claims : List Nat) : (s.matEnter kind rc acc slot hdr reads claims).listsWf := by
  have hc : (claims.foldl (fun tl n => tl.claim s.strand s.free n) (s.tile s.here)).listsWf :=
    (h.tile _).foldl (fun _ _ h => h.claim ..) _
  unfold State.matEnter
  exact (h.free _).setTile hc

theorem execMwld (h : s.listsWf) (e : BitVec 5) (k : BitVec 4) : ListsOut (execMwld e k s) :=
  h.onWork fun _ h => h.rdWait fun _ h => h.matPlace fun s h => by
    dsimp only
    split
    · exact h.trap ..
    · split
      · exact (h.readError ..).next
      · refine ((h.loaded ..).trap ..).ite ?_
        split
        · exact (h.loaded ..).trap ..
        · exact ((h.loaded ..).trap ..).ite ((h.loaded ..).matEnter ..).keepTile.doneNop

theorem mmulIssue (h : s.listsWf) (word : Nat) (col : Bool) (e a : BitVec 5) (k : BitVec 4) : ListsOut (s.mmulIssue word col e a k) :=
  h.onWork fun _ h => h.matPlace fun s h => by
    dsimp only
    split
    · exact h.trap ..
    · split
      · exact h.trap ..
      · exact (h.trap ..).ite ((h.trap ..).ite ((h.trap ..).ite ((h.trap ..).ite (h.matEnter ..).doneNop)))

theorem maccIssue (h : s.listsWf) (word : Nat) (kind : MatKind) (a : BitVec 5) (claim : Bool) : ListsOut (s.maccIssue word kind a claim) :=
  h.onWork fun _ h => h.matPlace fun _ h => (h.trap ..).ite (h.matEnter ..).doneNop

theorem maccRecIssue (h : s.listsWf) (word : Nat) (kind : MatKind) (e a : BitVec 5) : ListsOut (s.maccRecIssue word kind e a) :=
  h.onWork fun _ h => h.matPlace fun s h => by
    dsimp only
    generalize (match kind with | .rd _ => _ | _ => _ : Bool) = ok
    split
    · exact h.trap ..
    · split
      · exact h.trap ..
      · exact (h.trap ..).ite ((h.trap ..).ite ((h.trap ..).ite (h.matEnter ..).doneNop))

theorem noteStart (h : s.listsWf) (m : Nat) : (s.noteStart m).listsWf := h.modModule

theorem delayStart (h : s.listsWf) (t : Nat) (f : MatEntry) : (s.delayStart t f).listsWf := h.ite h.keepTile.modModule

theorem execMatrixEntryStart (h : s.listsWf) (t e : Nat) : ListsOut (execMatrixEntryStart t e s) := by
  unfold Machine.execMatrixEntryStart
  dsimp only
  split
  · exact h.next
  · next f _ =>
    refine h.next.ite ((h.delayStart ..).next.ite ?_)
    have hr := (h.tile t).runSeen s.clk s.free f
    split
    · next tl' he =>
      rw [he] at hr
      have h1 := (h.free (s.free + 1)).setTile (t := t) (x := { tl' with matQ := tl'.matQ.map fun g => if g.id = e then { g with started := true } else g }) hr
      exact ((h1.noteStart _).ite h1).next
    · next tl' a he =>
      rw [he] at hr
      refine (((h.free _).setTile ?_).deferTo ..).next
      exact hr
    · exact (h.recordError ..).next
    · exact (h.tmError ..).next

theorem execMatrixEntryComplete (h : s.listsWf) (t e : Nat) : ListsOut (execMatrixEntryComplete t e s) := by
  unfold Machine.execMatrixEntryComplete
  split
  · exact h.next
  · exact ListsOut.ite h.keepTile.next h.next

/-! ## Vector register streams (R159-R163) -/

theorem streamDone (h : s.listsWf) (w : Who) (b : Stream) : (s.streamDone w b).listsWf := h.ite (h.complete ..)

theorem endStream (h : s.listsWf) (w : Who) (v : Nat) : (s.endStream w v).listsWf := by
  unfold State.endStream
  split
  · exact h
  · exact (h.modAgent ..).streamDone ..

theorem endStreams (h : s.listsWf) (w : Who) : (s.endStreams w).listsWf := h.foldl (fun _ _ h => h.endStream ..) _

theorem noteElement (h : s.listsWf) (w : Who) (b : Stream) (k i : Nat) : (s.noteElement w b k i).listsWf := by
  unfold State.noteElement
  exact State.listsWf.ite (h.modTile fun _ h => h.noteRead ..) h

theorem takeElement (h : s.listsWf) (w : Who) (b : Stream) : (s.takeElement w b).2.listsWf := by
  unfold State.takeElement
  split
  · exact h.modAgent ..
  · exact State.listsWf.ite ((((h.free _).noteElement ..).modAgent ..).streamDone ..) (((h.free _).noteElement ..).modAgent ..)

theorem consume (h : s.listsWf) (w : Who) (l : List (BitVec 5)) : (s.consume w l).listsWf := by
  induction l generalizing s with
  | nil => exact h
  | cons r l ih =>
    unfold State.consume
    refine ih ?_
    split
    · exact h.ite ((h.takeElement ..).modAgent ..)
    · exact h

theorem vread (h : s.listsWf) {rs : List (BitVec 5)} {k : State → State → Out}
    (hk : ∀ t u, t.listsWf → u.listsWf → ListsOut (k t u)) : ListsOut (s.vread rs k) := by
  unfold State.vread
  split
  · exact h.trap ..
  · refine (h.rdWait fun s h => ?_).ite (hk s s h h)
    split
    · exact (h.readError ..).next
    · exact hk _ _ h (h.consume ..)

theorem vwrite {s0 : State} (h0 : s0.listsWf) (h : s.listsWf) {d : BitVec 5} {v : VReg} {k : State → Out}
    (hk : ∀ t, t.listsWf → ListsOut (k t)) : ListsOut (s0.vwrite s d v k) := by
  unfold State.vwrite
  split
  · exact hk _ (h.setMe _)
  · refine (hk s h).ite ((h0.trap ..).ite (h0.rdWait fun _ _ => h0.storeWait ?_))
    split
    · exact h0.trap ..
    · next tl e =>
      have h2 (g : Agent) := (h.setTile (t := s.here) (h.storeHere e)).setMe g
      exact hk _ (((h2 _).streamDone ..).ite (h2 _))

theorem vop (h : s.listsWf) (word : Nat) (rs : List (BitVec 5)) (d : BitVec 5) (f : State → VReg) : ListsOut (s.vop word rs d f) :=
  h.onWork fun _ h => h.vread fun _ _ h0 h => h0.vwrite h fun _ h => h.doneNop

theorem rebind (h : s.listsWf) (b : Stream) : ListsOut (s.rebind b) := by
  have h1 := ((h.endStream s.turn b.v).modMe fun g => g.putStream b).keepTile (t := s.here) (f := fun tl => { tl with opSeq := tl.opSeq + 1 })
  exact State.listsWf.doneNop ((h1.complete ..).ite h1)

theorem bind (h : s.listsWf) (word : Nat) (out : Bool) (e a : BitVec 5) (k : BitVec 6) : ListsOut (s.bind word out e a k) :=
  h.onWork fun _ h => (h.trap ..).ite ((h.trap ..).ite ((h.rebind _).ite (h.rdWait fun _ h => h.rebind _)))

theorem execVstreamEnd (h : s.listsWf) (a : BitVec 5) : ListsOut (execVstreamEnd a s) := h.onWork fun _ h => (h.endStream ..).doneNop

theorem execStreamElementRead (h : s.listsWf) (t a v : Nat) : ListsOut (execStreamElementRead t a v s) := by
  unfold Machine.execStreamElementRead
  split
  · dsimp only
    split
    · exact h.next
    · refine h.next.ite ?_
      split
      · exact (h.readError ..).next
      · have h1 (w : Who) (b : Stream) (k i : Nat) (f : Agent → Agent) := ((h.free (s.free + 1)).noteElement w b k i).modAgent w f
        exact (((h1 ..).streamDone ..).ite (h1 ..)).next
  · exact h.next

/-! ## Control (R112-R121, R133-R139) -/

theorem execBr (h : s.listsWf) (p : BitVec 3) (n g : BitVec 1) (o : BitVec 20) : ListsOut (execBr p n g o s) := (h.transfer ..).ite h.doneNop

theorem endAgent (h : s.listsWf) : s.endAgent.listsWf := by
  unfold State.endAgent
  dsimp only
  split
  · refine State.listsWf.keepTile (State.listsWf.endStreams ?_ _)
    split
    · exact (h.modMe _).modTile fun _ h => h.record _
    · exact h.modMe _
  · exact h.modMe _

theorem execExit (h : s.listsWf) : ListsOut (execExit s) := by
  unfold Machine.execExit
  split
  · exact h.waitOn _
  · exact (h.transfer ..).ite (h.endAgent.retire _).next

theorem execFenceAcq (h : s.listsWf) : ListsOut (execFenceAcq s) := by
  unfold Machine.execFenceAcq
  split
  · exact h.waitOn _
  · exact h.doneNop

theorem execSpawn (h : s.listsWf) (d a : BitVec 5) (n : BitVec 3) (q : BitVec 1) : ListsOut (execSpawn d a n q s) :=
  h.onWork fun s h => by
    refine (h.trap ..).ite ((h.trap ..).ite ?_)
    split
    · exact h.release fun _ h => h.keepTile.doneX ..
    · exact h.goto ..

theorem execPcRangeTrap (h : s.listsWf) : ListsOut (execPcRangeTrap s) := (h.trap ..).ite h.next

theorem execWatchdogExpiry (h : s.listsWf) : ListsOut (execWatchdogExpiry s) := (h.trap ..).ite h.next

theorem abandonWait (h : s.listsWf) (t : Nat) (a : Fin 10) : (s.abandonWait t a).listsWf := h.keepTile.gldGone ..

theorem execDeferredCause (h : s.listsWf) (w : Who) : ListsOut (execDeferredCause w s) := by
  unfold Machine.execDeferredCause
  dsimp only
  split
  · exact h.next.ite ((h.setAgentOf ..).takeTrap ..).next
  · exact ((h.reissue ..).ite (h.abandonWait ..)).next
  · exact (h.abandonWait ..).next
  · exact h.next

/-- A strand chosen in the round-robin order is one of the eight (R113). -/
theorem chosen_lt {tl : Tile} {rr : Nat} {a : Fin 10} (e : bestReady tl (rrOrder rr) = some a) : a.val < 8 := by
  obtain ⟨p, -, hp⟩ := List.exists_of_findSome?_eq_some e
  obtain ⟨i, -, rfl⟩ := List.mem_map.mp (List.mem_of_mem_filter (List.mem_of_find?_eq_some hp))
  exact Nat.mod_lt _ (by decide)

theorem execStrandChoice (h : s.listsWf) (t : Nat) : ListsOut (execStrandChoice t s) := by
  unfold Machine.execStrandChoice
  refine h.next.ite ?_
  split
  · exact h.next
  · next a e =>
    refine State.listsWf.next (h.setTile ?_)
    exact Tile.listsWf.of_outboxes (chosen_lt e) (fun _ => (h.tile t).outbox) fun _ => (h.tile t).kept

end State.listsWf

/-! Every step keeps the lists of the part in order (R113, R298): Firefly, the health of a tile, the tile's steps of the superstep. -/

theorem Tile.listsWf.commandRead {tl : Tile} (h : tl.listsWf) (c : FfCmd) (k : Nat) : (tl.commandRead c k).listsWf := by
  unfold Tile.commandRead
  have h1 : ({ tl with ffOpen := tl.ffOpen.filter fun q => decide (q.2 ≠ c.id) } : Tile).listsWf := h
  exact Tile.listsWf.ite (h1.noteRead ..) h1

namespace State.listsWf
variable {s : State}

/-! ## Firefly (R308-R335) -/

theorem ffIssue (h : s.listsWf) (word : Nat) (kind : FfKind) (rc : Rec) (x : W) (k : BitVec 6) : ListsOut (s.ffIssue word kind rc x k) :=
  h.onWork fun s h => by
    dsimp only
    split
    · exact h.trap ..
    · refine h.rdWait fun s h => h.next.ite ?_
      split
      · exact h.keepDie.keepTile.doneNop
      · exact h.next

theorem execFireflyCommandArrival (h : s.listsWf) (d : Nat) : ListsOut (execFireflyCommandArrival d s) := by
  unfold Machine.execFireflyCommandArrival
  split
  · exact h.next
  · exact h.next.ite h.keepDie.next

theorem ffStop (h : s.listsWf) (d : Nat) (c : FfCmd) (code : Nat) (faddr : W) : (s.ffStop d c code faddr).listsWf :=
  (h.keepDie.deferTo ..).wakeDrain ..

theorem ffEnd (h : s.listsWf) (d : Nat) (c : FfCmd) (e : FfEnd) : (s.ffEnd d c e).listsWf := by
  cases e with
  | cause code a => exact h.ffStop ..
  | bad bank row => exact h.keepDie.recordError ..

theorem ffSweep (h : s.listsWf) (d : Nat) (c : FfCmd) (i : Fin 16) {w : FfWork} (hw : w.listsWf) : (s.ffSweep d c i w).listsWf := by
  unfold State.ffSweep
  dsimp only
  refine (h.ffStop ..).ite ?_
  split
  · exact h.ffEnd ..
  · refine (h.keepDie.recordError ..).ite (State.listsWf.free ?_ _)
    obtain ⟨hctx, hcells⟩ := FfContext.sweeps_rise (s.tile c.tile).ssnum.toNat c.x.toNat (q := (w.ctx, ⟨w.cells, s.free⟩)) hw.1 hw.2
    exact h.modDie fun _ hx => Firefly.listsWf.putWork hx i (w := ⟨_, _⟩) ⟨hctx, hcells⟩

theorem execFireflyCommandStart (h : s.listsWf) (d : Nat) : ListsOut (execFireflyCommandStart d s) := by
  unfold Machine.execFireflyCommandStart
  dsimp only
  split
  · exact h.next
  · next c _ _ =>
    have h1 : (if c.kind.readsIn then ({ s with free := s.free + 1 } : State).setTile c.tile ((s.tile c.tile).commandRead c s.free) else s).listsWf :=
      State.listsWf.ite ((h.free _).setTile ((h.tile _).commandRead c _)) h
    refine h.next.ite ?_
    split
    · exact (h1.keepDie.wakeDrain ..).next
    · next i _ =>
      have hw : (⟨(s.die d).ff.ctxs[i], (s.die d).ff.cells⟩ : FfWork).listsWf := ⟨Firefly.listsWf.ctx (h.die d) i, (h.die d).1⟩
      split
      · exact (h1.keepDie.tmError ..).next
      · refine (h1.ffSweep _ _ _ hw).next.ite (ListsOut.ite ?_ ?_)
        · split
          · next e => exact ((h1.setTile ((h1.tile _).fillRuns e)).ffStop ..).next
          · next e _ => exact ((h1.setTile ((h1.tile _).fillRuns e)).ffEnd ..).next
          · next e _ => exact ((h1.keepDie.setTile (((h1.tile _).fillRuns e).stamp ..)).wakeDrain ..).next
        · have hl (bad : List (Nat × Nat)) (bs : List Byte) := h1.modDie (d := d) (f := fun x => { x with ff := x.ff.putWork i (FfWork.load _ bad i.val c.kind c.x.toNat bs).1 }) fun _ hx => Firefly.listsWf.putWork hx i (hw.load ..)
          split
          · exact ((hl ..).ffEnd ..).next
          · exact (hl ..).keepDie.next

theorem execFireflyCommandComplete (h : s.listsWf) (d : Nat) : ListsOut (execFireflyCommandComplete d s) := by
  unfold Machine.execFireflyCommandComplete
  split
  · exact h.next
  · exact h.next.ite (h.keepDie.complete ..).next

theorem ffBlockWrite (h : s.listsWf) {d off : Nat} {bs : List Byte} {t : State} (e : s.ffBlockWrite d off bs = some t) : t.listsWf := by
  unfold State.ffBlockWrite at e
  dsimp only at e
  split at e
  · cases e
  · cases e
    exact h.modDie fun _ _ => Firefly.listsWf.writeBlock (h.die d) ..

theorem ffWindowWrite (h : s.listsWf) {d o : Nat} {bs : List Byte} {t : State} (e : s.ffWindowWrite d o bs = some t) : t.listsWf := by
  unfold State.ffWindowWrite at e
  dsimp only at e
  split at e
  · exact h.ffBlockWrite e
  · split at e
    · cases e
    · cases e
      exact h.modDie fun _ hx => List.foldlRecOn (motive := Firefly.listsWf) _ _ hx fun _ hf _ _ => hf.setCellByte ..

theorem execFireflyContextBlockWrite (h : s.listsWf) (d off : Nat) (bs : List Byte) : ListsOut (execFireflyContextBlockWrite d off bs s) := by
  unfold Machine.execFireflyContextBlockWrite
  dsimp only
  refine h.next.ite (ListsOut.ite ?_ (h.outs _).next)
  split
  · exact ((h.ffBlockWrite ‹_›).outs _).next
  · exact (h.outs _).next

/-! ## Regions and fences -/

theorem noteHeads (h : s.listsWf) (m : Nat) : (s.noteHeads m).listsWf := h.foldl (fun _ _ h => (h.noteRead ..).noteRead ..) _

/-- A region changes and keeps its number. -/
theorem modRegion (h : s.listsWf) (k : Nat) {f : Region → Region} (hf : ∀ r, (f r).serial = r.serial := by intro _; rfl) :
    (s.modRegion k f).listsWf := h.mapRegions fun r => by
  split
  · exact hf r
  · rfl

/-- Another value for a region under the same number. -/
theorem setRegion (h : s.listsWf) {k : Nat} {r : Region} (hr : r.serial = k := by rfl) : (s.modRegion k fun _ => r).listsWf :=
  h.mapRegions fun x => by
    split
    · next e => exact hr.trans e.symm
    · rfl

theorem emit (h : s.listsWf) (m code : Nat) (r : Region) (ssn cause tile data : Nat) : (s.emit m code r ssn cause tile data).listsWf :=
  h.report ..

theorem emitAll (h : s.listsWf) (r : Region) (code ssn cause tile : Nat) (data : Part → Nat) :
    (s.emitAll r code ssn cause tile data).listsWf := h.foldl (fun _ _ h => h.emit ..) _

theorem noteReplace (h : s.listsWf) (m : Nat) : (s.noteReplace m).listsWf := by
  unfold State.noteReplace
  exact State.listsWf.ite (h.modModule.report ..) h.modModule

theorem fenceTile (h : s.listsWf) (t : Nat) : (s.fenceTile t).listsWf := h.keepTile.modModule.noteReplace _

theorem fence (h : s.listsWf) (t : Nat) (q : Nat × Nat × Nat) : (s.fence t q).listsWf :=
  State.listsWf.ite (h.keepTile.keepDie.noteReplace _) (h.fenceTile t)

theorem fenceLeft (h : s.listsWf) (d : Nat) : (s.fenceLeft d).listsWf :=
  h.foldl (fun _ _ h => h.foldl (fun _ _ h => State.listsWf.ite (h.keepTile.fence ..) h) _) _

/-! ## The tile's steps of the superstep -/

theorem execSync (h : s.listsWf) (d a b : BitVec 5) (v : BitVec 2) (o : BitVec 3) : ListsOut (execSync d a b v o s) :=
  h.onTile fun _ h => h.release fun _ h => (((h.endStreams _).modMe _).retire _).next

theorem podFailed (h : s.listsWf) (r : Region) (t : Nat) : (s.podFailed r t).listsWf := h.recordError ..

theorem sendUp (h : s.listsWf) (t : Nat) (r : Region) (u : Up) : (s.sendUp t r u).listsWf :=
  h.ite (h.ite ((h.podFailed ..).ite (h.up _)))

theorem dropFf (h : s.listsWf) (t : Nat) : (s.dropFf t).listsWf := h.keepDie

theorem execTileCloseArrival (h : s.listsWf) (t : Nat) : ListsOut (execTileCloseArrival t s) := by
  unfold Machine.execTileCloseArrival
  dsimp only
  split
  · exact h.next
  · refine h.next.ite (ListsOut.ite (((State.listsWf.dropFf ?_ _).sendUp ..)).next (ListsOut.ite (State.listsWf.sendUp ?_ ..).next h.next))
    all_goals exact h.keepSet

theorem execSealArrivalSend (h : s.listsWf) (t : Nat) : ListsOut (execSealArrivalSend t s) := by
  unfold Machine.execSealArrivalSend
  dsimp only
  split
  · exact h.next
  · refine h.next.ite (State.listsWf.sendUp ?_ ..).next
    exact h.keepSet

theorem execDeltaArrival (h : s.listsWf) (t e : Nat) : ListsOut (execDeltaArrival t e s) := by
  unfold Machine.execDeltaArrival
  dsimp only
  split
  · exact h.next
  · exact h.next.ite (ListsOut.ite h.keepSet.next h.keepSet.next)

theorem execRelease (h : s.listsWf) (t : Nat) : ListsOut (execRelease t s) := by
  unfold Machine.execRelease
  split
  · dsimp only
    have hl {x : Tile} {c : Prop} [Decidable c] (hx : x.listsWf) : (if c then (s.setTile t x).countLate t else s.setTile t x).listsWf :=
      ((h.setTile hx).countLate t).ite (h.setTile hx)
    refine ListsOut.ite (hl ?_).next (ListsOut.ite (hl ?_).next h.keepSet.next)
    · exact Tile.listsWf.of_outboxes (h.tile t).1 (fun _ => (h.tile t).outbox) fun _ => (h.tile t).outbox
    · exact h.tile t
  · exact h.keepTile.next
  · exact h.next

end State.listsWf

namespace Tile.listsWf
variable {tl : Tile}

theorem startSpawns (h : tl.listsWf) (clk : Nat) (l : List OutEntry) : (tl.startSpawns clk l).listsWf := by
  induction l generalizing tl with
  | nil => exact h
  | cons e l ih =>
    unfold Tile.startSpawns
    split
    · exact ih h
    · exact ih h

theorem forgetAll (h : tl.listsWf) (k : Nat) (l : List (Nat × Nat)) : (tl.forgetAll k l).listsWf := h

theorem start (h : tl.listsWf) (clk : Nat) (shape : BitVec 48) (limit : Nat) (lk : LinkCtl) : (tl.start clk shape limit lk).listsWf := by
  have hc : ({ tl with cur := { tl.cur with agents := Vector.ofFn fun a : Fin 10 => (tl.cur.agents[a]).atStart a tl.red clk } } : Tile).listsWf := h
  exact hc.startSpawns clk tl.spawns

theorem shadowed (h : tl.listsWf) : tl.shadowed.listsWf := of_outboxes h.1 (fun _ => h.outbox) fun _ => h.outbox

theorem undo (h : tl.listsWf) (k : Nat) (v : VsLine) : (tl.undo k v).listsWf := by
  unfold Tile.undo
  split
  · exact Tile.listsWf.ite h h
  · exact Tile.listsWf.ite h h

theorem poke (h : tl.listsWf) (a : Nat) (bs : List Byte) : (tl.poke a bs).listsWf := h

theorem pokeRuns (h : tl.listsWf) (l : List (Nat × List Byte)) : (tl.pokeRuns l).listsWf := h.foldl (fun _ _ h => h.poke ..) _

end Tile.listsWf

theorem State.listsWf.execStartInstant {s : State} (h : s.listsWf) (t : Nat) : ListsOut (execStartInstant t s) := by
  unfold Machine.execStartInstant
  dsimp only
  have h1 {x : Tile} (hx : x.listsWf) (clk : Nat) (shape : BitVec 48) (limit : Nat) (lk : LinkCtl) :=
    (h.free (s.free + 1)).setTile (t := t) (hx.shadowed.start clk shape limit lk)
  have hx : (if (s.tile t).fresh then { (s.tile t).forgetAll s.free (s.tile t).spoiled with
      pfServe := (s.tile t).pfNext, cur := (s.tile t).cur.freeAccs AccState.unpinned } else s.tile t).listsWf :=
    Tile.listsWf.ite (show ((s.tile t).forgetAll s.free (s.tile t).spoiled).listsWf from (h.tile t).forgetAll ..) (h.tile t)
  exact h.next.ite (State.listsWf.ite ((h1 hx ..).modDie fun _ h => by exact Firefly.listsWf.start h _) (h1 hx ..)).next

/-! Every step keeps the lists of the part in order (R113, R298): rollback, the end of a region's part, vector memory. -/

theorem Tile.listsWf.entering {tl : Tile} (h : tl.listsWf) : tl.entering.listsWf :=
  Tile.listsWf.ite (Tile.listsWf.of_outboxes h.1 (fun _ => h.outbox) fun _ => h.outbox) h

theorem Tile.listsWf.rollBack {tl : Tile} (h : tl.listsWf) (k : Nat) : (tl.rollBack k).listsWf := by
  have hu : (tl.vs.foldl (fun tl v => tl.undo k v) tl).listsWf := h.foldl (fun _ _ h => h.undo ..) _
  exact Tile.listsWf.of_outboxes hu.1 (fun _ => h.kept) fun _ => hu.kept

theorem Tile.cleared_listsWf (tl : Tile) (k : Nat) : (tl.cleared k).listsWf := ⟨(by decide : 7 < 8), nofun⟩

namespace State.listsWf
variable {s : State}

/-! ## Abort and rollback (R179-R186) -/

theorem land (h : s.listsWf) (t : Nat) (dst : Rec) (j pa n : Nat) : (s.land t dst j pa n).listsWf :=
  (h.logBad ..).modTile fun _ h => (h.pokeRuns _).poisonRuns _

theorem refetch (h : s.listsWf) (t : Nat) : (s.refetch t).listsWf := by
  have hf (x : Tile) (l : List Nat) (hx : x.listsWf) : ({ x with bad := l } : Tile).listsWf := hx
  unfold State.refetch
  refine State.listsWf.modTile (State.listsWf.foldl (h.free _) (fun s e h => ?_) _) fun _ h => h.forgetAll ..
  exact State.listsWf.modTile (h.foldl (fun _ _ h => h.land ..) _) fun x hx => Tile.listsWf.forgetAll (hf x _ hx) ..

theorem loseLines (h : s.listsWf) (t : Nat) : (s.loseLines t).listsWf := by
  unfold State.loseLines
  split
  · exact h.recordError ..
  · exact h

theorem moving (h : s.listsWf) (f : List Flit) (x : List ColXfer) (n : Nat) :
    ({ s with flits := f, xfers := x, free := n } : State).listsWf := h

theorem undoAttempt (h : s.listsWf) (t : Nat) (r : Region) : (s.undoAttempt t r).listsWf := by
  have h1 : ((List.range 10).foldl (fun s a => s.gldGone t a) s).listsWf := h.foldl (fun _ _ h => h.gldGone ..) _
  have h2 := h1.modDie (d := dieOfTile t) (f := fun x => { x with ff := x.ff.abort r.id fun u => r.tiles.contains u }) fun _ h => Firefly.listsWf.abort h ..
  unfold State.undoAttempt
  dsimp only
  exact (((h2.loseLines t).moving ..).modTile fun _ h => h.entering.rollBack _).refetch t

theorem execAbort (h : s.listsWf) (t : Nat) : ListsOut (execAbort t s) := by
  unfold Machine.execAbort
  split
  · exact h.next
  · dsimp only
    have h1 := h.keepTile (t := t) (f := fun tl => { tl with down := tl.down.drop 1 })
    split
    iterate 5 exact ((h1.voidRecords t).undoAttempt ..).keepTile.next
    exact h1.next

theorem renewLinks (h : s.listsWf) (m n : Nat) : (s.renewLinks m n).listsWf :=
  State.listsWf.wires (h.foldl (fun _ _ h => h.modLink ..) _) _

theorem execTargetedSelfTestEnd (h : s.listsWf) (t : Nat) (pass scrub : Bool) : ListsOut (execTargetedSelfTestEnd t pass scrub s) := by
  unfold Machine.execTargetedSelfTestEnd
  dsimp only
  split
  · next q rest _ _ =>
    have h1 := h.keepDie (d := dieOfTile t) (f := fun x => { x with qd := { x.qd with
      selfTests := x.qd.selfTests + 1, selfFails := if pass then x.qd.selfFails else x.qd.selfFails + 1 } })
    refine ListsOut.ite ?_ (ListsOut.ite ?_ ?_)
    · have h2 := h1.setTile (t := t) (x := { s.tile t with tests := rest, lost := (s.tile t).lost || !scrub || (s.tile t).stillBad q }) (h.tile t)
      refine (State.listsWf.ite h2.keepDie (State.listsWf.ite (h2.modPort ..) (State.listsWf.ite ?_ h2))).next
      exact h2.foldl (fun _ _ h => h.renewLinks ..) _
    · refine (State.listsWf.fence (h1.setTile ?_) ..).next
      exact h.tile t
    · refine (h1.setTile ?_).next
      exact h.tile t
  · exact h.next

theorem execRollbackWindowDone (h : s.listsWf) (t : Nat) : ListsOut (execRollbackWindowDone t s) := by
  unfold Machine.execRollbackWindowDone
  dsimp only
  split
  · exact h.next
  · refine ListsOut.ite (State.listsWf.sendUp ?_ ..).next h.next
    exact h.keepSet

/-! ## The end of a region's part -/

theorem dropContexts (h : s.listsWf) (region : BitVec 20) (l : List Nat) : (s.dropContexts region l).listsWf :=
  h.foldl (fun _ _ h => h.modDie fun x hx => by
    dsimp only
    split
    · next i _ => exact Firefly.listsWf.onlyCtx hx i (Firefly.listsWf.ctx hx i)
    · exact hx) _

theorem unblock (h : s.listsWf) (m q : Nat) : (s.unblock m q).listsWf := h.modModule

theorem endPart (h : s.listsWf) (r : Region) (p : Part) : (s.endPart r p).listsWf := by
  have h1 : (p.tiles.foldl (fun s t => { s with free := s.free + 4 }.setTile t ((s.tile t).cleared s.free)) s).listsWf :=
    h.foldl (fun _ _ h => (h.free _).setTile (Tile.cleared_listsWf ..)) _
  exact (((h1.dropContexts ..).unblock ..).modRegion _).fewerRegions List.filter_sublist

theorem partEnd (h : s.listsWf) (m serial : Nat) : (s.partEnd m serial).listsWf := by
  unfold State.partEnd
  split
  · exact h
  · split
    · exact h
    · exact State.listsWf.ite (((h.endPart ..).report ..).ite ((h.endPart ..).report ..)) h

theorem execStop (h : s.listsWf) (t : Nat) : ListsOut (execStop t s) := by
  unfold Machine.execStop
  split
  · exact h.next
  · dsimp only
    have h1 := (h.keepTile (t := t) (f := fun tl => { tl with down := tl.down.drop 1 })).voidRecords t
    split
    · exact h1.next
    · exact ListsOut.ite (h1.modTile fun _ hx => by exact Tile.listsWf.of_outboxes hx.1 (fun _ => hx.outbox) fun _ => hx.outbox).next (ListsOut.ite (h1.undoAttempt ..).keepTile.next h1.keepTile.next)

theorem execShapingWindow (h : s.listsWf) (t : Nat) : ListsOut (execShapingWindow t s) :=
  h.next.ite (ListsOut.ite h.keepSet.next h.keepSet.next)

theorem qcrecRead (h : s.listsWf) (d : Nat) : (s.qcrecRead d).2.listsWf := by
  unfold State.qcrecRead
  split
  · exact h
  · exact h.keepDie

theorem execTreeReconfigure (h : s.listsWf) (r : Nat) : ListsOut (execTreeReconfigure r s) := by
  unfold Machine.execTreeReconfigure
  split
  · exact h.next
  · exact h.next.ite (h.outs _).next

/-! ## Vector operations and vector memory -/

theorem viop (h : s.listsWf) (word : Nat) (d a b : BitVec 5) (w : BitVec 2) (f : Nat → Nat → Nat → Nat) :
    ListsOut (s.viop word d a b w f) := h.vop ..

theorem vredX (h : s.listsWf) (word : Nat) (d a : BitVec 5) (f : VReg → W) : ListsOut (s.vredX word d a f) :=
  h.onWork fun _ h => h.vread fun _ _ _ h => h.doneX ..

theorem execVld (h : s.listsWf) (d a : BitVec 5) (i : BitVec 14) : ListsOut (execVld d a i s) :=
  h.onWork fun _ h => h.checked fun _ h => h.readBytes fun _ _ h1 => h.vwrite h1 fun _ h => h.doneNop

theorem execVst (h : s.listsWf) (r a : BitVec 5) (i : BitVec 14) : ListsOut (execVst r a i s) :=
  h.onWork fun _ h => h.vread fun _ _ h0 h1 => h0.checked fun _ _ => h0.storeWait (by
    split
    · exact (h1.setTile (h1.storeHere ‹_›)).doneNop
    · exact h0.trap ..)

end State.listsWf

theorem storeElems_listsWf {b : Fin 10} {q : List (Nat × Nat)} {tl t : Tile} {n : Nat} {l : List (W × Nat)} {r : Option W} (h : tl.listsWf)
    (e : storeElems b q tl n l = (t, r)) : t.listsWf := by
  induction l generalizing tl with
  | nil => cases e; exact h
  | cons p l ih =>
    unfold storeElems at e
    split at e
    · exact ih (h.store ‹_›) e
    · cases e
      exact h

namespace State.listsWf
variable {s0 s1 : State}

theorem elemLoad (h0 : s0.listsWf) (h1 : s1.listsWf) (d : BitVec 5) (w : Nat) (l : List W) : ListsOut (s0.elemLoad s1 d w l) := by
  unfold State.elemLoad
  split
  · exact h0.trap ..
  · refine h0.rdWait fun _ _ => ?_
    split
    · exact (h0.readError ..).next
    · exact h0.vwrite (h1.loaded ..) fun _ h => h.doneNop

theorem elemStore (h0 : s0.listsWf) (h1 : s1.listsWf) (d : BitVec 5) (w : Nat) (l : List W) : ListsOut (s0.elemStore s1 d w l) := by
  unfold State.elemStore
  split
  · exact h0.trap ..
  · refine h0.rdWait fun _ _ => ?_
    split
    · exact h0.waitOn _
    · refine h0.stall.ite ?_
      split
      · exact h0.trap ..
      · exact (h1.setTile (storeElems_listsWf (h1.tile _) ‹_›)).doneNop

end State.listsWf

/-! Every step keeps the lists of the part in order (R113, R298): the root of a region, launch, region commands. -/

theorem Tile.listsWf.publish {tl t : Tile} (h : tl.listsWf) {src : Nat} {q : Fin 4} {bs : List Byte} (e : tl.publish src q bs = some t) :
    t.listsWf := by
  unfold Tile.publish at e
  dsimp only at e
  split at e
  · cases e
  · cases e
    exact h

/-- The entries that stay held at a commit are of the outbox. -/
theorem State.offers_sub {s : State} {src : Nat} {l : List OutEntry} {o : OutEntry} (h : o ∈ (s.offers src l).1) : o ∈ l := by
  induction l generalizing s with
  | nil => exact h
  | cons x l ih =>
    unfold State.offers at h
    split at h
    · exact List.mem_cons_of_mem _ (ih h)
    · exact (List.mem_cons.mp h).elim (fun e => e ▸ List.mem_cons_self ..) fun h => List.mem_cons_of_mem _ (ih h)

namespace State.listsWf
variable {s : State}

/-! ## The root's packets -/

theorem sendTo (h : s.listsWf) (r : Region) (p : Down) (t : Nat) : (s.sendTo r p t).listsWf :=
  h.ite ((h.podFailed ..).ite h.keepTile)

theorem sendDown (h : s.listsWf) (r : Region) (p : Down) : (s.sendDown r p).listsWf := h.foldl (fun _ _ h => h.sendTo ..) _

theorem takeUp (h : s.listsWf) {i kind : Nat} {u : Up} {r : Region} {t : State} (e : s.takeUp i kind = some (u, r, t)) :
    t.listsWf := by
  unfold State.takeUp at e
  split at e
  · cases e
  · split at e
    · cases e
    · split at e
      · cases e
      · cases e
        exact h.up _

theorem modDies (h : s.listsWf) (l : List Nat) {f : Die → Die} (hf : ∀ x, (f x).listsWf = x.listsWf := by intro _; rfl) :
    (s.modDies l f).listsWf := h.foldl (fun _ _ h => h.keepDie hf) _

theorem decideAbort (h : s.listsWf) (r : Region) (phase cause tile : Nat) : (s.decideAbort r phase cause tile).listsWf :=
  ((h.sendDown ..).modDies _).modRegion _

theorem outrank (h : s.listsWf) (r : Region) (u : Up) : (s.outrank r u).listsWf := by
  unfold State.outrank
  dsimp only
  exact State.listsWf.ite ((h.modRegion _).foldl (fun _ _ h => h.keepTile) _) h

theorem regionFault (h : s.listsWf) (r : Region) (cause tile : Nat) : (s.regionFault r cause tile).listsWf :=
  ((h.sendDown ..).modRegion _).emitAll ..

theorem releaseAll (h : s.listsWf) (r : Region) (phase : Nat) (ssn : BitVec 48) : (s.releaseAll r phase ssn).listsWf :=
  (h.sendDown ..).modRegion _

theorem execCloseArrival (h : s.listsWf) (i : Nat) : ListsOut (execCloseArrival i s) := by
  unfold Machine.execCloseArrival
  split
  · exact h.next
  · next e =>
    have h1 := h.takeUp e
    exact (h1.outrank ..).next.ite ((h1.decideAbort ..).next.ite ((h1.decideAbort ..).next.ite
      (h1.setRegion.next.ite ((h1.decideAbort ..).next.ite (h1.setRegion.sendDown ..).next))))

/-! ## Shared commit -/

theorem applyRed (h : s.listsWf) (m f t : Nat) (d : Delta) : (s.applyRed m f t d).listsWf := by
  unfold State.applyRed
  split
  · exact h.logHbm ..
  · exact h.setHbm ..

theorem applyDeltas (h : s.listsWf) (r : Region) (m : Nat) : (s.applyDeltas r m).listsWf := by
  unfold State.applyDeltas
  extract_lets l s1
  have h1 : s1.listsWf := h.foldl (fun _ _ h => h.setHbm ..) _
  exact h1.foldl (fun _ _ h => h.foldl (fun _ _ h => h.applyRed ..) _) _

theorem patchTile (h : s.listsWf) (l : List (Nat × Delta)) (t : Nat) : (s.patchTile l t).listsWf :=
  h.foldl (fun _ _ h => h.foldl (fun _ _ h => h.foldl (fun _ _ h =>
    (h.land ..).modTile fun _ hx => Tile.listsWf.foldl hx (fun _ _ h => h.fillFe ..) _) _) _) _

theorem commitHbm (h : s.listsWf) (r : Region) : (s.commitHbm r).listsWf :=
  h.foldl (fun _ _ h => (h.applyDeltas ..).foldl (fun _ _ h => h.patchTile ..) _) _

theorem offer (h : s.listsWf) {src : Nat} {o : OutEntry} {t : State} (e : s.offer src o = some t) : t.listsWf := by
  unfold State.offer at e
  dsimp only at e
  split at e
  · split at e
    · cases e
    · cases e
      exact h.keepSet
  · obtain ⟨tl, he, rfl⟩ := Option.map_eq_some_iff.mp e
    exact h.setTile ((h.tile _).publish he)

theorem offers (h : s.listsWf) (src : Nat) (l : List OutEntry) : (s.offers src l).2.listsWf := by
  induction l generalizing s with
  | nil => exact h
  | cons o l ih =>
    unfold State.offers
    split
    · exact ih (h.offer ‹_›)
    · exact ih h

theorem commitMessages (h : s.listsWf) (r : Region) : (s.commitMessages r).listsWf := by
  unfold State.commitMessages
  extract_lets tiles s0
  have h0 : s0.listsWf := h.foldl (fun _ _ h => h.keepTile) _
  refine h0.foldl (fun s t h => (h.offers ..).modTile fun _ hx => ?_) _
  exact Tile.listsWf.withOutbox hx fun o ho => (h.tile t).outbox (State.offers_sub ho)

theorem discardHeld (h : s.listsWf) (r : Region) : (s.discardHeld r).listsWf :=
  h.foldl (fun s t h => by
    refine keepDie (h.setTile ?_)
    exact Tile.listsWf.withOutbox (h.tile t) (l := []) nofun) _

theorem applyRoute (h : s.listsWf) (t : Nat) (q : RouteOp) : (s.applyRoute t q).listsWf := by
  unfold State.applyRoute
  exact h.keepDie

theorem commitRoutes (h : s.listsWf) (r : Region) : (s.commitRoutes r).listsWf := by
  unfold State.commitRoutes
  extract_lets tiles pass
  have hp (s : State) (p : RouteOp → Bool) (h : s.listsWf) : (pass s p).listsWf :=
    h.foldl (fun _ _ h => h.foldl (fun _ _ h => h.applyRoute ..) _) _
  exact hp _ _ (hp _ _ h)

theorem scanPort (h : s.listsWf) (m lport : Nat) : (s.scanPort m lport).listsWf := by
  refine h.ite (h.foldl (fun s q h => ?_) _)
  dsimp only
  split
  · exact h.logBad ..
  · exact State.listsWf.ite (h.modModule.setHbm ..) h

theorem commitShared (h : s.listsWf) (r : Region) : (s.commitShared r).listsWf := by
  unfold State.commitShared
  extract_lets s1 s2 s3
  have h1 : s1.listsWf := ((h.commitHbm r).commitMessages r).commitRoutes r
  have h2 : s2.listsWf := h1.foldl (fun _ _ h => h.modDie fun _ hx => by exact Firefly.listsWf.commit hx _) _
  have h3 : s3.listsWf := h2.foldl (fun _ _ h => h.keepTile) _
  exact (h3.modRegion _).foldl (fun _ _ h => h.scanPort ..) _

theorem sealCommit (h : s.listsWf) (r : Region) : (s.sealCommit r).listsWf := by
  unfold State.sealCommit
  extract_lets done hold s1 s2
  have h1 : s1.listsWf := (h.foldl (fun _ _ h => h.noteHeads _) _).commitShared r
  have h2 : s2.listsWf := (h1.discardHeld r).foldl (fun _ _ h => h.keepDie) _
  exact State.listsWf.ite ((h2.sendDown ..).modRegion _) (State.listsWf.ite (((h1.sendDown ..).modRegion _).emitAll ..)
    ((h1.modRegion _).releaseAll ..))

theorem execSealArrival (h : s.listsWf) (i : Nat) : ListsOut (execSealArrival i s) := by
  unfold Machine.execSealArrival
  split
  · exact h.next
  · next e =>
    have h1 := h.takeUp e
    exact (h1.outrank ..).next.ite ((h1.decideAbort ..).next.ite ((h1.sealCommit _).next.ite (h1.modRegion _).next))

theorem execRestoreDone (h : s.listsWf) (i : Nat) : ListsOut (execRestoreDone i s) := by
  unfold Machine.execRestoreDone
  split
  · exact h.next
  · next e =>
    have h1 := h.takeUp e
    exact h1.next.ite ((h1.modRegion _).next.ite ((h1.regionFault ..).next.ite ((h1.releaseAll ..).next.ite (h1.regionFault ..).next)))

theorem declareDead (h : s.listsWf) (r : Region) : (s.declareDead r).listsWf := by
  unfold State.declareDead
  dsimp only
  split
  · exact h
  · exact h.foldl (fun _ _ h => h.modModule.report ..) _

theorem execRootTimeout (h : s.listsWf) (k : Nat) : ListsOut (execRootTimeout k s) := by
  unfold Machine.execRootTimeout
  split
  · exact h.next
  · exact h.next.ite ((h.decideAbort ..).next.ite ((h.decideAbort ..).next.ite (((h.regionFault ..).declareDead _).next.ite h.next)))

end State.listsWf

/-! ## The parts of a die that hold no such list -/

namespace Die.listsWf
variable {x : Die} (h : x.listsWf)
include h
theorem ctl (v : DieCtl) : ({ x with ctl := v } : Die).listsWf := h
theorem mc (v : MemCtl) : ({ x with mc := v } : Die).listsWf := h
theorem qd (v : QuadCtl) : ({ x with qd := v } : Die).listsWf := h
theorem lk (v : LinkCtl) : ({ x with lk := v } : Die).listsWf := h
end Die.listsWf

/-! ## CSRs -/

theorem Tile.listsWf.putCsr {tl : Tile} (h : tl.listsWf) (n : Nat) (v : W) : (tl.putCsr n v).listsWf := by
  unfold Tile.putCsr
  dsimp only
  refine Tile.listsWf.of_outboxes h.1 (fun o ho => h.outbox ?_) fun _ => h.kept
  simpa only [apply_ite TileVer.outbox, ite_self] using ho

theorem Tile.listsWf.feedAll {tl : Tile} (h : tl.listsWf) : tl.feedAll.listsWf := h.foldl (fun _ _ h => h.feedLaunch) _

namespace State.listsWf
variable {s : State}

theorem putCsr (h : s.listsWf) (w : Who) (n : Nat) (v : W) : (s.putCsr w n v).listsWf := by
  unfold State.putCsr
  refine State.listsWf.ite (h.modAgent ..) ?_
  split
  · exact h.modTile fun _ h => h.putCsr ..
  · exact h

/-! ## Launch (R388-R400) -/

theorem launchTile (h : s.listsWf) (m pa : Nat) (f : RcbFields) (q : MapEntry × Nat) : (s.launchTile m pa f q).listsWf := by
  unfold State.launchTile
  extract_lets e old _ cur _ tl
  have ht : tl.listsWf := ⟨(by decide : 7 < 8), nofun⟩
  exact h.setTile ht.feedAll

theorem createCtx (h : s.listsWf) (region : BitVec 20) (f : RcbFields) (q : Nat × Nat) : (s.createCtx region f q).listsWf := by
  unfold State.createCtx
  refine h.modDie fun x hx => ?_
  split
  · next r i _ _ =>
    let c : FfContext := { FfContext.reset with
      region := region, frow := BitVec.ofNat 8 r, nrows := BitVec.ofNat 9 f.ffnrows, gbase := BitVec.ofNat 20 (f.ffgbase + 65536 * q.2) }
    exact Firefly.listsWf.initCtx (Firefly.listsWf.onlyCtx hx i (c := c) FfContext.reset_listsWf) i
  · exact hx

theorem openRegion (h : s.listsWf) (p : Part) (id : BitVec 20) (f : RcbFields) : (s.openRegion p id f).2.listsWf := by
  unfold State.openRegion
  split
  · exact h.modRegion _
  · exact h.regionsTo (h.regionsWf.append rfl)

theorem launch (h : s.listsWf) (m : Nat) (q : Fin 16) (pa : Nat) : (s.launch m q pa).listsWf := by
  unfold State.launch
  extract_lets chain fs f id map tiles part s1 s2 o
  have h1 : s1.listsWf := h.foldl (fun _ _ h => h.launchTile ..) _
  have h2 : s2.listsWf := h1.ite (h1.foldl (fun _ _ h => h.createCtx ..) _)
  exact (h2.openRegion ..).modModule.report ..

theorem abortJoin (h : s.listsWf) (m : Nat) (id : BitVec 20) (nmod ssn0 : Nat) (f : RcbFields) : (s.abortJoin m id nmod ssn0 f).listsWf := by
  unfold State.abortJoin
  refine h.ite ?_
  extract_lets o
  have ho : o.2.listsWf := by
    unfold o
    split
    · exact h
    · exact h.regionsTo (h.regionsWf.append rfl)
  exact ho.up _

theorem refuseLaunch (h : s.listsWf) (m : Nat) (q : Fin 16) (pa bad : Nat) : (s.refuseLaunch m q pa bad).listsWf := by
  unfold State.refuseLaunch
  extract_lets f s1 s2
  have h1 : s1.listsWf := h.modModule
  have h2 : s2.listsWf := by
    unfold s2
    split
    · exact h1.logHbm ..
    · exact h1
  exact (h2.report ..).abortJoin ..

theorem launchTurn (h : s.listsWf) (m : Nat) : (s.launchTurn m).listsWf := by
  unfold State.launchTurn
  split
  · exact h.refuseLaunch ..
  · split
    · exact h.launch ..
    · exact h

theorem execRegionLaunch (h : s.listsWf) (m : Nat) : ListsOut (execRegionLaunch m s) :=
  h.next.ite (((h.loseRows m).launchTurn m).next.ite (h.launchTurn m).next)

theorem stopLaunch (h : s.listsWf) (r : Region) (p : Part) (cause tile : Nat) : (s.stopLaunch r p cause tile).listsWf := by
  unfold State.stopLaunch
  extract_lets s1
  have h1 : s1.listsWf := h.foldl (fun _ _ h => h.voidRecords _) _
  exact ((h1.endPart ..).report ..).abortJoin ..

theorem joinFailed (h : s.listsWf) (r : Region) (p : Part) : (s.joinFailed r p).listsWf := h.foldl (fun _ _ h => h.podFailed ..) _

theorem execLaunchTilesSet (h : s.listsWf) (m k : Nat) : ListsOut (execLaunchTilesSet m k s) := by
  unfold Machine.execLaunchTilesSet
  split
  · exact h.next
  · split
    · exact h.next
    · refine h.next.ite ?_
      split
      · exact (h.stopLaunch ..).next
      · exact h.next.ite ((h.releaseAll ..).next.ite ((h.joinFailed ..).next.ite ((h.modRegion _).up _).next))

theorem execLaunchTimeout (h : s.listsWf) (m k : Nat) : ListsOut (execLaunchTimeout m k s) := by
  unfold Machine.execLaunchTimeout
  split
  · exact h.next
  · split
    · exact h.next
    · refine h.next.ite ?_
      split
      · exact (h.stopLaunch ..).next
      · exact h.next

/-- The region that stops its start gives way to its modules that have not joined, under its number, and to those that have, under the
next one (R396). -/
theorem stopStart_regions {l : List Region} {n : Nat} (h : Machine.regionsWf l n) (k : Nat) (p q : Bool) {r1 : Region} (hr : r1.serial = n)
    {f : Region → Region} (hf : ∀ x, (f x).serial = x.serial) :
    Machine.regionsWf ((l.flatMap fun x => if x.serial ≠ k then [x] else if p then [] else [f x]) ++ if q then [] else [r1]) (n + 1) := by
  have hrest : Machine.regionsWf (l.flatMap fun x => if x.serial ≠ k then [x] else if p then [] else [f x]) n := by
    refine h.of_serials ?_
    clear h
    induction l with
    | nil => exact .slnil
    | cons x l ih =>
      rw [List.flatMap_cons, List.map_append, List.map_cons]
      refine List.Sublist.append (l₂ := [x.serial]) ?_ ih
      by_cases hx : x.serial ≠ k
      · rw [if_pos hx]
        exact .refl _
      · rw [if_neg hx]
        cases p with
        | true => exact List.nil_sublist _
        | false => exact hf x ▸ .refl _
  cases q with
  | true => exact (List.append_nil _).symm ▸ hrest.next
  | false => exact hrest.append hr

theorem stopStart (h : s.listsWf) (r : Region) : (s.stopStart r).listsWf := by
  unfold State.stopStart
  extract_lets gone left r1 rest s1
  have h1 : s1.listsWf := by
    obtain ⟨ht, hd, hm, htl, hdie, hr⟩ := h.parts
    exact of_parts ht hd hm htl hdie (stopStart_regions hr r.serial left.isEmpty gone.isEmpty rfl fun _ => rfl)
  exact h1.sendDown ..

theorem execLaunchJoin (h : s.listsWf) (i : Nat) : ListsOut (execLaunchJoin i s) := by
  unfold Machine.execLaunchJoin
  split
  · exact h.next
  · next e =>
    have h1 := h.takeUp e
    exact h1.next.ite ((h1.stopStart _).next.ite ((h1.setRegion.stopStart _).next.ite
      ((h1.setRegion.releaseAll ..).next.ite h1.setRegion.next)))

theorem execJoinTimeout (h : s.listsWf) (k : Nat) : ListsOut (execJoinTimeout k s) := by
  unfold Machine.execJoinTimeout
  split
  · exact h.next
  · split
    · exact h.next.ite (h.stopStart _).next
    · exact h.next

/-! ## Region commands (R403-R406) -/

theorem noteCmd (h : s.listsWf) (d op : Nat) (id : BitVec 20) (refused : Bool) : (s.noteCmd d op id refused).listsWf :=
  h.modDie fun _ h => h.ctl _

theorem hold (h : s.listsWf) (d : Nat) (id : BitVec 20) : (s.hold d id).listsWf := by
  unfold State.hold
  split
  · exact State.listsWf.ite ((h.modRegion _).noteCmd ..) (h.noteCmd ..)
  · exact h.noteCmd ..

theorem emptyRegion (h : s.listsWf) (r : Region) : (s.emptyRegion r).listsWf := by
  unfold State.emptyRegion
  extract_lets of s1
  have h1 : s1.listsWf := h.tilesTo (forall₂_map (fun _ => ⟨rfl, id⟩) _)
  exact h1.dropContexts ..

theorem freeRegion (h : s.listsWf) (r : Region) : (s.freeRegion r).listsWf := (h.emptyRegion r).modRegion _

theorem freeCmd (h : s.listsWf) (d : Nat) (id : BitVec 20) : (s.freeCmd d id).listsWf := by
  unfold State.freeCmd
  split
  · exact State.listsWf.ite ((h.freeRegion _).noteCmd ..) (h.noteCmd ..)
  · exact h.noteCmd ..

theorem discard (h : s.listsWf) (d : Nat) (id : BitVec 20) : (s.discard d id).listsWf := by
  unfold State.discard
  split
  · next r _ =>
    extract_lets s1 s2 s3
    have h2 : s2.listsWf := (h.freeRegion r).foldl (fun _ _ h => h.unblock ..) _
    have h3 : s3.listsWf := h2.fewerRegions List.filter_sublist
    exact State.listsWf.ite ((h3.emitAll ..).noteCmd ..) (h.noteCmd ..)
  · exact h.noteCmd ..

theorem resumeTile (h : s.listsWf) (r : Region) (instant : Nat) (ssn : BitVec 48) (slot : Option Nat) (t : Nat) :
    (s.resumeTile r instant ssn slot t).listsWf := by
  unfold State.resumeTile
  exact h.ite (h.keepTile.sendTo ..)

theorem resume (h : s.listsWf) (d : Nat) (id : BitVec 20) : (s.resume d id).listsWf := by
  unfold State.resume
  extract_lets m pa map s0 tiles first
  split
  · extract_lets may instant s1 s2 s3 r1 s4
    have h0 : s0.listsWf := by
      unfold s0
      exact (h.noteRead ..).noteRead ..
    have h1 : s1.listsWf := by
      refine h0.foldl (fun _ _ h => h.modTile fun x hx => ?_) _
      split <;> exact hx
    have h2 : s2.listsWf := h1.foldl (fun _ _ h => h.resumeTile ..) _
    have h3 : s3.listsWf := h2.foldl (fun _ _ h => h.foldl (fun _ _ h => h.resumeTile ..) _) _
    have h4 : s4.listsWf := h3.setRegion
    exact State.listsWf.ite ((h4.emitAll ..).noteCmd ..) (h0.noteCmd ..)
  · exact h.noteCmd ..

theorem rctlGo (h : s.listsWf) (d op : Nat) (id : BitVec 20) : (s.rctlGo d op id).listsWf := by
  unfold State.rctlGo
  exact (h.hold ..).ite ((h.freeCmd ..).ite ((h.resume ..).ite ((h.discard ..).ite (h.modDie fun _ h => h.ctl _))))

end State.listsWf

/-! Every step keeps the lists of the part in order (R113, R298): images, health and power, resets and boot, windows, host operations, links. -/

namespace State.listsWf
variable {s : State}

/-! ## Context images (R407-R410) -/

theorem saveImage (h : s.listsWf) (m t pa : Nat) : (s.saveImage m t pa).listsWf := by
  unfold State.saveImage
  extract_lets s1 s2
  have h1 : s1.listsWf := (h.setHbm ..).setHbm ..
  have h2 : s2.listsWf := h1.foldl (fun _ _ h => h.setHbm ..) _
  exact h2.modModule

theorem setCopy (h : s.listsWf) (k : Option ImageCopy) : (s.setCopy k).listsWf := by
  unfold State.setCopy
  split
  · exact h.keepDie
  · exact h

theorem execCtxsv (h : s.listsWf) (a b : BitVec 5) : ListsOut (execCtxsv a b s) := h.onService fun s h => by
  dsimp only
  split
  · exact ((h.setCopy _).saveImage ..).doneNop
  · split
    · exact h.trap ..
    · exact (h.trap ..).ite (h.setCopy _).next

/-- An entry of the outbox of an image has 64 bytes. -/
theorem loadOutbox_length {m pa : Nat} : ∀ o ∈ s.loadOutbox m pa, o.data.length = 64 := by
  intro o ho
  obtain ⟨e, -, he⟩ := List.mem_filterMap.mp ho
  dsimp only at he
  split at he
  · cases he
    exact (List.length_map ..).trans (List.length_zipIdx.trans (Memory.bytes_length ..))
  · cases he

theorem loadImage (h : s.listsWf) (m t pa : Nat) : (s.loadImage m t pa).listsWf := by
  unfold State.loadImage
  extract_lets old ver id own pinned _ tl
  have hver : ∀ o ∈ ver.outbox, o.data.length = 64 := loadOutbox_length
  have ht : tl.listsWf := Tile.listsWf.of_outboxes (h.tile t).1 hver hver
  exact (h.free _).setTile ht

theorem execCtxld (h : s.listsWf) (a b : BitVec 5) : ListsOut (execCtxld a b s) := h.onService fun s h => by
  dsimp only
  split
  · exact (((h.setCopy _).logBad ..).loadImage ..).doneNop
  · split
    · exact h.trap ..
    · exact (h.trap ..).ite (((h.noteRead ..).trap ..).ite ((h.noteRead ..).setCopy _).next)

/-! ## Health (R416-R419) -/

theorem upset (h : s.listsWf) (e : Upset) : (s.upset e).listsWf := by
  cases e with
  | corrected d hbm => exact h.modDie fun _ h => h.ctl _
  | tm | acc | slot | vs | mailbox | l1 => exact h.keepTile
  | firefly | llt => exact h.keepDie
  | hbm => exact h.modModule
  | core d c w => exact h.keepDie

theorem serve (h : s.listsWf) (t : Nat) (p : Nat × Nat × Nat → Bool) : (s.serve t p).listsWf := h.keepTile

theorem tspareWrite (h : s.listsWf) (d : Nat) (n : Fin 4) (v : W) : (s.tspareWrite d n v).listsWf := by
  unfold State.tspareWrite
  extract_lets s1
  have h1 : s1.listsWf := h.modDie fun _ h => h.ctl _
  exact State.listsWf.ite h1.keepTile h1

theorem rsprowWrite (h : s.listsWf) (d : Nat) (v : W) : (s.rsprowWrite d v).listsWf := by
  unfold State.rsprowWrite
  extract_lets sel s1 t bank row
  have h1 : s1.listsWf := h.modDie fun _ h => h.ctl _
  exact State.listsWf.ite (h1.serve ..).keepTile h1

theorem ffspareWrite (h : s.listsWf) (d : Nat) (n : Fin 4) (v : W) : (s.ffspareWrite d n v).listsWf := by
  unfold State.ffspareWrite
  extract_lets s1 row
  have h1 : s1.listsWf := h.keepDie
  refine State.listsWf.ite (State.listsWf.keepDie ?_) h1
  exact h1.foldl (fun _ _ h => h.ite (h.serve ..)) _

theorem lfenceWrite (h : s.listsWf) (m : Nat) (v : W) : (s.lfenceWrite m v).listsWf := by
  have h1 := h.modModule (m := m) (f := fun x => { x with lfence := BitVec.ofNat 40 (v.fld 0 40) })
  exact h1.tilesTo (forall₂_map (fun _ => ⟨rfl, id⟩) _)

theorem spareWrite (h : s.listsWf) {d n : Nat} {v : W} {t : State} (e : s.spareWrite d n v = some t) : t.listsWf := by
  unfold State.spareWrite at e
  dsimp only at e
  split at e
  · split at e
    · obtain rfl := Option.some.inj e; exact ((h.tspareWrite ..).fenceLeft _).noteReplace _
    · cases e
  · split at e
    · split at e
      · obtain rfl := Option.some.inj e; exact ((h.rsprowWrite ..).fenceLeft _).noteReplace _
      · cases e
    · split at e
      · split at e
        · obtain rfl := Option.some.inj e; exact (h.lfenceWrite ..).noteReplace _
        · cases e
      · split at e
        · obtain rfl := Option.some.inj e; exact ((h.ffspareWrite ..).fenceLeft _).noteReplace _
        · cases e

theorem execSpareControlWrite (h : s.listsWf) (d : Nat) (csr : BitVec 12) (v : W) : ListsOut (execSpareControlWrite d csr v s) := by
  unfold Machine.execSpareControlWrite
  split
  · exact (h.spareWrite ‹_›).next
  · exact (h.outs _).next

theorem repaired (h : s.listsWf) (d : Nat) (q : Nat × Nat × Nat) : (s.repaired d q).listsWf := h.modModule

theorem execPprDone (h : s.listsWf) (d : Nat) : ListsOut (execPprDone d s) := by
  unfold Machine.execPprDone
  dsimp only
  exact h.next.ite (State.listsWf.noteReplace (State.listsWf.ite h.keepDie (h.keepDie.repaired ..)) _).next

/-! ## Power (R420-R423), the thermal trip, pod time -/

theorem pcapWrite (h : s.listsWf) (m v : Nat) : (s.pcapWrite m v).listsWf := by
  unfold State.pcapWrite
  exact h.modModule

theorem pslewWrite (h : s.listsWf) (m v : Nat) : (s.pslewWrite m v).listsWf := by
  unfold State.pslewWrite
  exact h.modModule.foldl (fun _ _ h => h.modDie fun _ h => h.qd _) _

theorem throtWrite (h : s.listsWf) (d v : Nat) : (s.throtWrite d v).listsWf := h.modDie fun _ h => h.ctl _

theorem execPowerCapInterval (h : s.listsWf) (m : Nat) (pwr : BitVec 16) (scale : Nat × Nat × Nat) (temps : List (Nat × Nat × Nat)) :
    ListsOut (execPowerCapInterval m pwr scale temps s) := by
  unfold Machine.execPowerCapInterval
  extract_lets s1 hot s2
  have h1 : s1.listsWf := h.foldl (fun _ _ h => h.modDie fun _ h => h.ctl _) _
  have h2 : s2.listsWf := h1.tilesTo (forall₂_map (fun q => by split <;> exact ⟨rfl, id⟩) _)
  exact h2.modModule.next

theorem execThermalTrip (h : s.listsWf) (m : Nat) : ListsOut (execThermalTrip m s) := by
  unfold Machine.execThermalTrip
  extract_lets stop s1 s2
  have h1 : s1.listsWf := h.tilesTo (forall₂_map (fun q => by split <;> exact ⟨rfl, id⟩) _)
  have h2 : s2.listsWf := by
    refine h1.diesTo (forall₂_map (fun q => ?_) _)
    split
    all_goals exact ⟨rfl, id⟩
  exact h.next.ite h2.modModule.next

theorem execIeee1588Sync (h : s.listsWf) (m : Nat) (ofs : BitVec 16) (adj : Option Int) : ListsOut (execIeee1588Sync m ofs adj s) := by
  unfold Machine.execIeee1588Sync
  split
  · extract_lets s1
    have h1 : s1.listsWf := h.modModule
    refine (h1.tilesTo (forall₂_map (fun q => ?_) _)).next
    split <;> exact ⟨rfl, id⟩
  · exact h.modModule.next

/-! ## Resets and boot (R30, R384, R426) -/

theorem resetModule (h : s.listsWf) (m : Nat) : (s.resetModule m).listsWf := by
  unfold State.resetModule
  extract_lets mine x _ fresh s1
  obtain ⟨ht, hd, hm, htl, hdie, hr⟩ := h.parts
  have htiles : s.tiles.Forall₂ (fun p q => q.1 = p.1 ∧ (p.2.listsWf → q.2.listsWf)) s1.tiles := by
    refine forall₂_zipIdx_map (fun q k => ?_) s.tiles 0
    split
    · exact ⟨rfl, fun _ => Tile.cleared_listsWf q.2 (s.free + 4 * k)⟩
    · exact ⟨rfl, id⟩
  have hdies (d : Nat) : (s1.die d).listsWf :=
    kvGet_filter_prop (P := Die.listsWf) Die.reset_listsWf (fun q => decide (modOfDie q.1 ≠ m)) (fun _ _ _ => rfl) s.dies d (hdie d)
  have hregions : Machine.regionsWf s1.regions s1.nextSerial := by
    refine (hr.map fun r => ?_).sublist List.filter_sublist
    split <;> rfl
  have h1 : s1.listsWf := of_parts (ht.forall₂ htiles) (hd.filter _) hm (fun u => kvGet_forall₂ (P := Tile.listsWf) htiles u (htl u)) hdies hregions
  exact (h1.up _).setModule ..

theorem execPowerOn (h : s.listsWf) (m : Nat) : ListsOut (execPowerOn m s) := by
  unfold Machine.execPowerOn
  extract_lets s1
  have h1 : s1.listsWf := h.modModule
  exact ((h1.modDies _).resetModule m).next

theorem bootFrom (h : s.listsWf) (m : Nat) (image : List Byte) (b : Bool) : (s.bootFrom m image b).listsWf := by
  unfold State.bootFrom
  exact (h.modDies _).modModule

theorem execSecureBoot (h : s.listsWf) (m : Nat) : ListsOut (execSecureBoot m s) :=
  h.next.ite ((h.bootFrom ..).next.ite ((h.bootFrom ..).next.ite h.modModule.next))

theorem attctlWrite (h : s.listsWf) (m : Nat) (v : W) : (s.attctlWrite m v).listsWf := h.modModule

theorem execAttestationDone (h : s.listsWf) (m : Nat) : ListsOut (execAttestationDone m s) := by
  unfold Machine.execAttestationDone
  dsimp only
  exact h.next.ite (State.listsWf.modModule (h.ite ((h.noteRead ..).setHbm ..))).next

theorem sideband (h : s.listsWf) (m : Nat) (bs : List Byte) : ListsOut (s.sideband m bs) := (h.outs _).next

theorem execSbUnknownCommand (h : s.listsWf) (m : Nat) (code : BitVec 8) : ListsOut (execSbUnknownCommand m code s) :=
  h.next.ite (h.outs _).next

/-! ## CSRs of a die -/

theorem readDieCsr (h : s.listsWf) (d n : Nat) : (s.readDieCsr d n).2.listsWf := by
  unfold State.readDieCsr
  split
  · exact h.qcrecRead d
  · split
    · exact h.physdRead d
    · split
      · exact h.hbmerrRead d
      · exact h

end State.listsWf

theorem Die.listsWf.putCsr {x : Die} (h : x.listsWf) (n : Nat) (v : W) : (x.putCsr n v).listsWf := by
  unfold Die.putCsr
  exact Die.listsWf.ite (h.qd _) (Die.listsWf.ite (h.mc _) (Die.listsWf.ite (show Die.listsWf _ from h) (Die.listsWf.ite (h.lk _) (Die.listsWf.ite (h.lk _)
    (Die.listsWf.ite (h.lk _) (Die.listsWf.ite (h.mc _) (Die.listsWf.ite (h.mc _) (Die.listsWf.ite (h.mc _) (Die.listsWf.ite (h.ctl _)
      (Die.listsWf.ite (h.ctl _) h))))))))))

namespace State.listsWf
variable {s : State}

theorem spareCsr (h : s.listsWf) (d n : Nat) (v : W) : (s.spareCsr d n v).listsWf := by
  unfold State.spareCsr
  cases e : s.spareWrite d n v with
  | none => exact h.outs _
  | some t => exact h.spareWrite e

theorem writeDieCsr (h : s.listsWf) (d n : Nat) (v : W) : (s.writeDieCsr d n v).listsWf := by
  unfold State.writeDieCsr
  dsimp only
  exact (h.spareCsr ..).ite ((h.fqbaseWrite ..).ite ((h.physdWrite ..).ite ((h.ilmapWrite ..).ite ((h.migctlWrite ..).ite
    ((h.pprctlWrite ..).ite (State.listsWf.ite ((h.rctlGo ..).ite (h.modDie fun _ h => h.ctl _)) ((h.pcapWrite ..).ite
      ((h.pslewWrite ..).ite ((h.throtWrite ..).ite (h.modModule.ite ((h.attctlWrite ..).ite
        (h.modDie fun _ h => Die.listsWf.putCsr h n v))))))))))))

theorem execCsrr (h : s.listsWf) (d : BitVec 5) (n : BitVec 12) : ListsOut (execCsrr d n s) := by
  unfold Machine.execCsrr
  dsimp only
  refine ListsOut.ite ?_ ?_
  · split
    · exact h.trap ..
    · exact (h.trap ..).ite ((h.readDieCsr ..).doneX ..)
  · split
    · exact h.doneX ..
    · exact h.trap ..

theorem execCsrw (h : s.listsWf) (b : BitVec 5) (n : BitVec 12) : ListsOut (execCsrw b n s) := by
  unfold Machine.execCsrw
  dsimp only
  refine ListsOut.ite ?_ ?_
  · split
    · exact h.trap ..
    · exact (h.trap ..).ite ((h.trap ..).ite (h.writeDieCsr ..).doneNop)
  · split
    · exact h.trap ..
    · exact (h.trap ..).ite (h.putCsr ..).doneNop

end State.listsWf

/-! Every step keeps the lists of the part in order (R113, R298): windows, host operations, links. -/

/-! ## Windows (R26-R29) -/

namespace Tile.listsWf
variable {tl : Tile}

theorem setFeWord (h : tl.listsWf) (w v : Nat) : (tl.setFeWord w v).listsWf := h.foldl (fun _ _ h => h.setFe ..) _

theorem putAccWord (h : tl.listsWf) (o : Nat) (bs : List Byte) : (tl.putAccWord o bs).listsWf :=
  h

theorem putMbx (h : tl.listsWf) (o : Nat) (bs : List Byte) : (tl.putMbx o bs).listsWf :=
  h

end Tile.listsWf

namespace State.listsWf
variable {s : State}

theorem putWindowCsr (h : s.listsWf) (t : Nat) (a : Fin 10) (n : Nat) (v : W) : (s.putWindowCsr t a n v).listsWf := by
  unfold State.putWindowCsr
  split
  · exact h.ite (h.putCsr ..)
  · exact h

theorem putTileWord (h : s.listsWf) (t o : Nat) (bs : List Byte) : (s.putTileWord t o bs).listsWf := by
  unfold State.putTileWord
  dsimp only
  refine State.listsWf.ite h.keepTile (State.listsWf.ite h.keepTile (State.listsWf.ite ?_ ((h.putWindowCsr ..).ite h)))
  exact h.modTile fun _ h => h.setFeWord ..

theorem putTileBytes (h : s.listsWf) (t o : Nat) (bs : List Byte) : (s.putTileBytes t o bs).listsWf := by
  unfold State.putTileBytes
  refine State.listsWf.ite ?_ (State.listsWf.ite ?_ (State.listsWf.ite ?_ ?_))
  · exact h.modTile fun _ h => h.poke ..
  · exact h.modTile fun _ h => h.putAccWord ..
  · exact h.modTile fun _ h => h.putMbx ..
  · exact h.foldl (fun _ _ h => h.putTileWord ..) _

theorem dieWord (h : s.listsWf) (d o : Nat) : (s.dieWord d o).2.listsWf := by
  unfold State.dieWord
  dsimp only
  split
  · split
    · exact h.readDieCsr ..
    · exact h
  · split
    · exact h
    · split
      · exact h
      · split
        · exact h
        · split
          · exact h.free _
          · exact h

theorem putDieWord (h : s.listsWf) (d o : Nat) (bs : List Byte) : (s.putDieWord d o bs).listsWf := by
  unfold State.putDieWord
  dsimp only
  exact State.listsWf.ite ((h.writeDieCsr ..).ite h) (State.listsWf.ite (h.modDie fun _ h => h.lk _) h)

theorem onchipRead (h : s.listsWf) {m addr n : Nat} {r : List Byte × State} (e : s.onchipRead m addr n = some r) : r.2.listsWf := by
  unfold State.onchipRead at e
  dsimp only at e
  split at e
  · cases e
  · split at e
    · obtain rfl := Option.some.inj e
      exact h.free _
    · split at e
      · split at e
        · cases e
        · obtain rfl := Option.some.inj e
          exact List.foldlRecOn (motive := fun q : List Byte × State => q.2.listsWf) _ _ h fun q hq p _ => hq.dieWord ..
      · cases e

theorem onchipWrite (h : s.listsWf) {m addr : Nat} {bs : List Byte} {t : State} (e : s.onchipWrite m addr bs = some t) :
    t.listsWf := by
  unfold State.onchipWrite at e
  dsimp only at e
  split at e
  · cases e
  · split at e
    · split at e
      · cases e
      · obtain rfl := Option.some.inj e
        exact h.putTileBytes ..
    · split at e
      · split at e
        · exact h.ffWindowWrite e
        · split at e
          · cases e
          · obtain rfl := Option.some.inj e
            exact h.foldl (fun _ _ h => h.putDieWord ..) _
      · cases e

theorem execWindowRead (h : s.listsWf) (m addr len : Nat) : ListsOut (execWindowRead m addr len s) := by
  unfold Machine.execWindowRead
  refine h.next.ite ?_
  split
  · exact ((h.onchipRead ‹_›).outs _).next
  · exact (h.outs _).next

theorem execWindowWrite (h : s.listsWf) (m addr : Nat) (bs : List Byte) : ListsOut (execWindowWrite m addr bs s) := by
  unfold Machine.execWindowWrite
  refine h.next.ite ?_
  split
  · exact ((h.onchipWrite ‹_›).outs _).next
  · exact (h.outs _).next

theorem execWindowSemaphoreWrite (h : s.listsWf) (t k : Nat) (v : W) : ListsOut (execWindowSemaphoreWrite t k v s) :=
  h.next.ite ((h.outs _).next.ite (h.keepTile.outs _).next)

/-! ## Host operations (R412-R414) -/

theorem answer (h : s.listsWf) (d tag status : Nat) (data : List Byte) : ListsOut (s.answer d tag status data) := (h.sendOp ..).next

theorem execHostWrite (h : s.listsWf) (d : Nat) (onchip : Bool) (addr tag : Nat) (bs : List Byte) :
    ListsOut (execHostWrite d onchip addr tag bs s) := by
  unfold Machine.execHostWrite
  dsimp only
  refine h.next.ite ((h.answer ..).ite (ListsOut.ite ((h.answer ..).ite ?_) (((h.setHbm ..).answer ..).ite (h.answer ..))))
  split
  · exact (h.onchipWrite ‹_›).answer ..
  · exact h.answer ..

theorem execHostRead (h : s.listsWf) (d : Nat) (onchip : Bool) (addr len tag : Nat) : ListsOut (execHostRead d onchip addr len tag s) := by
  unfold Machine.execHostRead
  dsimp only
  refine h.next.ite ((h.answer ..).ite (ListsOut.ite ((h.answer ..).ite ?_) ((((h.free _).logBad ..).answer ..).ite (h.answer ..))))
  split
  · exact (h.onchipRead ‹_›).answer ..
  · exact h.answer ..

theorem execHostLaunch (h : s.listsWf) (d queue addr tag : Nat) : ListsOut (execHostLaunch d queue addr tag s) :=
  h.next.ite ((h.answer ..).ite ((h.answer ..).ite (h.modModule.answer ..)))

theorem execMalformedOperation (h : s.listsWf) (d : PortId) (op tag : Nat) : ListsOut (execMalformedOperation d op tag s) :=
  ListsOut.ite (h.sendOp ..).next h.next

/-! ## Links (R353-R357) -/

theorem failOn (h : s.listsWf) (m : Nat) (port : Bool) (n t : Nat) : (s.failOn m port n t).listsWf := by
  unfold State.failOn
  extract_lets tl cols xs offers peers tl1
  have h1 : (s.setTile t tl1).listsWf := h.setTile (h.tile t)
  exact h.ite ((h1.recordError ..).ite (h1.recordLink ..))

theorem failLink (h : s.listsWf) (m : Nat) (port : Bool) (n : Nat) : (s.failLink m port n).listsWf := by
  unfold State.failLink
  extract_lets count s1 lost ends _ s2
  have h1 : s1.listsWf := h.foldl (fun _ _ h => h.modDie fun _ h => h.lk _) _
  have h2 : (ends.foldl (fun s q => s.modLink q.1 q.2 fun p => { p with up := false }) s1).listsWf := h1.foldl (fun _ _ h => h.modLink ..) _
  have h3 : s2.listsWf := h2
  exact h3.foldl (fun _ _ h => h.failOn ..) _

theorem failPort (h : s.listsWf) (d : Nat) (host : Bool) : (s.failPort d host).listsWf := by
  unfold State.failPort
  exact State.listsWf.ite (h.modPort ..) (h.failLink ..)

theorem execLinkFailure (h : s.listsWf) (m : Nat) (port : Bool) (n : Nat) : ListsOut (execLinkFailure m port n s) :=
  ListsOut.ite (h.next.ite (h.failPort ..).next) (h.next.ite (h.failLink ..).next)

theorem execLinkTrained (h : s.listsWf) (d : PortId) : ListsOut (execLinkTrained d s) := h.next.ite (h.modPort ..).next

theorem applyOp (h : s.listsWf) (d : Nat) (host : Bool) (o : OclysOp) : ListsOut (s.applyOp d host o) :=
  (h.execMalformedOperation ..).ite ((h.execHostWrite ..).ite ((h.execHostRead ..).ite (h.execHostLaunch ..)))

theorem applyOps (h : s.listsWf) (d : Nat) (host : Bool) (l : List OclysOp) : ListsOut (s.applyOps d host l) := by
  induction l generalizing s with
  | nil => exact h.next
  | cons o l ih =>
    have ho := h.applyOp d host o
    unfold State.applyOps
    generalize s.applyOp d host o = r at ho ⊢
    obtain ⟨ht⟩ := ho
    exact ih ht

theorem deliver (h : s.listsWf) (d : Nat) (host : Bool) (payload : List Byte) : ListsOut (s.deliver d host payload) :=
  (h.applyOps ..).ite (h.outs _).next

theorem signal (h : s.listsWf) (d : Nat) (host : Bool) (kind : Nat) (seq : BitVec 32) : (s.signal d host kind seq).listsWf :=
  h.putFrame ..

theorem frameIn (h : s.listsWf) (d : Nat) (host : Bool) (seq ack : BitVec 32) (good : Bool) (payload : List Byte) :
    ListsOut (s.frameIn d host seq ack good payload) := by
  unfold State.frameIn
  dsimp only
  refine ListsOut.ite (h.signal ..).next (ListsOut.ite ?_ ((h.modPort ..).signal ..).next)
  have hd := (h.modPort d host fun p => { p.acked ack with expected := p.expected + 1 }).deliver d host payload
  generalize (s.modPort d host fun p => { p.acked ack with expected := p.expected + 1 }).deliver d host payload = r at hd ⊢
  obtain ⟨ht⟩ := hd
  exact (ht.signal ..).next

theorem takeWire (h : s.listsWf) {d : Nat} {k : Fin 4} {q : Wire × State} (e : s.takeWire d k = some q) : q.2.listsWf := by
  unfold State.takeWire at e
  split at e
  · cases e
  · obtain ⟨w, _, rfl⟩ := Option.map_eq_some_iff.mp e
    exact h.wires _

theorem linkIn (h : s.listsWf) (d : Nat) (k : Fin 4) (seq ack : BitVec 32) (good : Bool) : (s.linkIn d k seq ack good).listsWf :=
  (h.putWire ..).ite (((h.modLink ..).putWire ..).ite ((h.modLink ..).putWire ..))

theorem linkResend (h : s.listsWf) (d : Nat) (k : Fin 4) : (s.linkResend d k).listsWf := by
  unfold State.linkResend
  extract_lets p s1
  have h1 : s1.listsWf := h.modLink ..
  exact (h.failLink ..).ite (h1.foldl (fun _ _ h => h.putWire ..) _)

theorem wireIn (h : s.listsWf) (w : Wire) : (s.wireIn w).listsWf :=
  (h.linkIn ..).ite ((h.modLink ..).ite ((h.modLink ..).linkResend ..))

theorem linkFrames (h : s.listsWf) (d : Nat) (k : Fin 4) : (s.linkFrames d k).listsWf := by
  refine h.foldl (fun s _ h => ?_) _
  split
  · exact (h.takeWire ‹_›).wireIn _
  · exact h

theorem wireStep (h : s.listsWf) {d : Nat} {k : Fin 4} {is : Wire → Bool} {f : Wire → State → State}
    (hf : ∀ w t, t.listsWf → (f w t).listsWf) : ListsOut (s.wireStep d k is f) := by
  unfold State.wireStep
  split
  · exact ListsOut.ite (hf _ _ (h.takeWire ‹_›)).next h.next
  · exact h.next

theorem execOclysDataFrame (h : s.listsWf) (d : PortId) (seq ack : BitVec 32) (good : Bool) (payload : List Byte) :
    ListsOut (execOclysDataFrame d seq ack good payload s) := by
  unfold Machine.execOclysDataFrame
  split
  · exact h.wireStep fun _ _ h => h.linkIn ..
  · exact (h.frameIn ..).ite h.next

theorem execOclysAckFrame (h : s.listsWf) (d : PortId) (ack : BitVec 32) : ListsOut (execOclysAckFrame d ack s) := by
  unfold Machine.execOclysAckFrame
  split
  · exact h.wireStep fun _ _ h => h.wireIn _
  · exact ListsOut.ite (h.modPort ..).next h.next

theorem resend (h : s.listsWf) (d : Nat) (host : Bool) : (s.resend d host).listsWf := by
  unfold State.resend
  extract_lets p s1
  have h1 : s1.listsWf := h.modPort ..
  exact (h.failPort ..).ite (h1.foldl (fun _ _ h => h.putFrame ..) _)

theorem execOclysReplayRequest (h : s.listsWf) (d : PortId) (seq : BitVec 32) : ListsOut (execOclysReplayRequest d seq s) := by
  unfold Machine.execOclysReplayRequest
  split
  · exact h.wireStep fun _ _ h => h.wireIn _
  · exact ListsOut.ite ((h.modPort ..).resend ..).next h.next

theorem execOclysAckTimeout (h : s.listsWf) (d : PortId) : ListsOut (execOclysAckTimeout d s) := by
  unfold Machine.execOclysAckTimeout
  split
  · split
    · exact h.next
    · exact h.next.ite (h.linkResend ..).next
  · split
    · exact h.next
    · exact h.next.ite (h.resend ..).next

end State.listsWf

/-! Every step keeps the lists of the part in order (R113, R298): every row of the table, the step of the part. -/
namespace State.listsWf
variable {s : State}

/-! ## Semaphores, full-empty loads and stores, records -/

theorem execSemv (h : s.listsWf) (a : BitVec 5) (k : BitVec 6) : ListsOut (execSemv a k s) :=
  h.onTile fun _ h => h.release fun _ h => (h.trap ..).ite h.keepTile.doneNop

theorem execSemaphoreGrant (h : s.listsWf) (t k : Nat) : ListsOut (execSemaphoreGrant t k s) := by
  unfold Machine.execSemaphoreGrant
  refine ListsOut.ite ?_ h.next
  split
  · exact h.next
  · exact (h.keepTile.finishWait ..).next

theorem execSemptExpiry (h : s.listsWf) (t a : Nat) : ListsOut (execSemptExpiry t a s) := by
  unfold Machine.execSemptExpiry
  split
  · dsimp only
    split
    · exact ListsOut.ite (h.finishWait ..).next h.next
    · exact h.next
  · exact h.next

theorem execLdfe (h : s.listsWf) (d a : BitVec 5) (c : BitVec 1) (i : BitVec 14) : ListsOut (execLdfe d a c i s) :=
  h.onTile fun _ h => h.checked fun _ h => ListsOut.ite (h.readBytes fun _ _ h => (h.takeFull ..).doneX ..) (h.waitOn _)

theorem execLdfeWake (h : s.listsWf) (t w : Nat) : ListsOut (execLdfeWake t w s) := by
  unfold Machine.execLdfeWake
  refine ListsOut.ite ?_ h.next
  dsimp only
  split
  · refine ListsOut.ite (State.listsWf.next ?_) (State.listsWf.next (State.listsWf.keepTile ?_))
    all_goals
      split
      · refine State.listsWf.wakeLdfe (h.foldl (fun s a h => ?_) _) ..
        split
        · exact h.wakeLdfe ..
        · exact h
      · refine h.foldl (fun s a h => ?_) _
        split
        · exact h.wakeLdfe ..
        · exact h
  · refine State.listsWf.next (h.foldl (fun s a h => ?_) _)
    split
    · exact h.wakeLdfe ..
    · exact h

theorem execStfe (h : s.listsWf) (r a : BitVec 5) (e : BitVec 1) (i : BitVec 14) : ListsOut (execStfe r a e i s) :=
  h.onTile fun _ h => h.checked fun _ h => h.release fun _ h => h.storeBytes fun _ h => h.keepTile.doneNop

theorem execLdb (h : s.listsWf) (d a b : BitVec 5) (t : BitVec 3) : ListsOut (execLdb d a b t s) :=
  h.onTile fun _ h => h.recAccess fun _ => h.load ..

theorem execStb (h : s.listsWf) (r a b : BitVec 5) (t : BitVec 3) : ListsOut (execStb r a b t s) :=
  h.onTile fun _ h => h.recAccess fun _ => h.store ..

theorem execBld (h : s.listsWf) (d a : BitVec 5) (i : BitVec 10) : ListsOut (execBld d a i s) :=
  h.onTile fun _ h => h.checked fun _ h => h.readBytes fun _ _ h => (h.setRec ..).doneNop

theorem execBst (h : s.listsWf) (d a : BitVec 5) (i : BitVec 10) : ListsOut (execBst d a i s) :=
  h.onTile fun _ h => h.checked fun _ h => h.storeBytes fun _ h => h.doneNop

/-! ## Every row -/

theorem exec (h : s.listsWf) (i : Instr) : ListsOut (exec i s) := by
  unfold Machine.exec
  cases i with
  | add | sub | and | or | xor | andn | sll | srl | sra | ror | mul | mulhS | mulhN | divS | divN | remS | remN | minS | minN | maxS
  | maxN | clz | ctz | popc | mod31 | addi | andi | ori | xori | slli | srli | srai | rori | lih | addpc => exact h.doneX ..
  | pcmp | pcmpi | pand | por | pxor | pandn | porn | pxnor => exact h.doneP ..
  | nop => exact h.doneNop
  | yield => exact h.done _
  | trap | brk | illegalInstruction => exact h.trap ..
  | fqbaseWrite => exact (h.fqbaseWrite ..).next
  | migrationStart => exact (h.migctlWrite ..).next
  | pprStart => exact (h.pprctlWrite ..).next
  | hbmerrRead => exact (h.hbmerrRead _).next
  | qcrecRead => exact (h.qcrecRead _).next
  | rctlHold => exact (h.hold ..).next
  | rctlFree => exact (h.freeCmd ..).next
  | rctlResume => exact (h.resume ..).next
  | rctlDiscard => exact (h.discard ..).next
  | noiseSourceHealthTest => exact h.keepDie.next
  | pcapWrite => exact (h.pcapWrite ..).next
  | pslewWrite => exact (h.pslewWrite ..).next
  | throtWrite => exact (h.throtWrite ..).next
  | powerCapInterval => exact h.execPowerCapInterval ..
  | moduleReset => exact (h.resetModule _).next
  | powerOn => exact h.execPowerOn ..
  | attestationStart => exact (h.attctlWrite ..).next
  | sbReadMstat | sbReadPower | sbReadTemp | sbReadBootstat | sbReadIdentity => exact h.sideband ..
  | sbWritePcap => exact (h.pcapWrite ..).sideband ..
  | sbReset => exact State.listsWf.sideband (State.listsWf.ite (h.resetModule _) h) ..
  | ldS8 | ldN8 | ldS16 | ldN16 | ldS32 | ldN32 | ld64 => exact h.load ..
  | st8 | st16 | st32 | st64 => exact h.store ..
  | br => exact h.execBr ..
  | jal | jalr | eret => exact h.transfer ..
  | fence | fenceRel => exact h.release fun _ h => h.doneNop
  | semset => exact h.onTile fun _ h => h.release fun _ h => h.keepTile.doneNop
  | sync => exact h.execSync ..
  | semp | sempt => exact h.onTile fun _ h => h.waitOn _
  | semget | ssqNum | ssqOut | ssqRed | ssqTry | ssqRel => exact h.onTile fun _ h => h.doneX ..
  | vaddF | vsubF | vmulF | vminF | vmaxF | vabsF | vneg | vcvt | vcvti | vcvtf | vfma | vfnma | vabsI | vcmpI | vcmpF | vsel
  | vperm | vbcast | vmov | vmovToLane | vexp2 | vlog2 | vrcp | vrsq => exact h.vop ..
  | vaddI | vsubI | vmulI | vminS | vminN | vmaxS | vmaxN | vand | vor | vxor | vsll | vsrl | vsra | vaddsS | vaddsN | vsubsS
  | vsubsN => exact h.viop ..
  | vredFadd | vredFmin | vredFmax | vredAdd | vredMinS | vredMaxS | vmovToX => exact h.vredX ..
  | vlds => exact h.onWork fun _ h => h.elemLoad h ..
  | vsts | vscat => exact h.onWork fun _ h => h.vread fun _ _ h0 h => h0.elemStore h ..
  | vgath => exact h.onWork fun _ h => h.vread fun _ _ h0 h => h0.elemLoad h ..
  | vstreamIn | vstreamOut => exact h.bind ..
  | vstreamEnd => exact h.execVstreamEnd ..
  | mcfg => exact h.onWork fun _ h => h.done _
  | mmulR | mmulC => exact h.mmulIssue ..
  | maccZ | maccPin | maccUnpin => exact h.maccIssue ..
  | maccRd | maccWr => exact h.maccRecIssue ..
  | squant | sdeq | sexp | strans | stransRq | scomp | sblkExp | sblkInt | sblkFlt | scvt => exact h.shapeIssue ..
  | stage | copy | hld | hst => exact h.onHaul fun _ h => h.haulIssue ..
  | hredAddS32 | hredAddS64 | hredMinS32 | hredMinS64 | hredMaxS32 | hredMaxS64 | hredAnd | hredOr | hredFaddF32 => exact h.hredIssue ..
  | hfence => exact h.onHaul fun _ h => (h.waitOn _).ite h.doneNop
  | ffcfgKey | ffcfgBeta | ffcfgSigt | ffcfgMode | ffldEdge | ffldBias | ffldCol | ffldState | ffopSweep | ffopClamp | ffopUnclamp
  | ffopCreset | ffrdBits | ffrdCnt => exact h.ffIssue ..
  | xsend | xrecv => exact h.onHaul fun _ h => h.schedule ..
  | csend | crecv | crecvAdd | crecvMax => exact h.colIssue ..
  | croute => exact h.execCroute ..
  | cmark => exact h.execCmark ..
  | ldfe => exact h.execLdfe ..
  | ldfeWake => exact h.execLdfeWake ..
  | stfe => exact h.execStfe ..
  | gld => exact h.execGld ..
  | gldDataReturn => exact h.execGldDataReturn ..
  | ldb => exact h.execLdb ..
  | stb => exact h.execStb ..
  | exit => exact h.execExit
  | fenceAcq => exact h.execFenceAcq
  | csrr => exact h.execCsrr ..
  | csrw => exact h.execCsrw ..
  | spawn => exact h.execSpawn ..
  | semv => exact h.execSemv ..
  | semaphoreGrant => exact h.execSemaphoreGrant ..
  | semptExpiry => exact h.execSemptExpiry ..
  | bld => exact h.execBld ..
  | bst => exact h.execBst ..
  | send => exact h.execSend ..
  | recv => exact h.execRecv ..
  | recvAny => exact h.execRecvAny ..
  | rspawn => exact h.execRspawn ..
  | vld => exact h.execVld ..
  | vst => exact h.execVst ..
  | streamElementRead => exact h.execStreamElementRead ..
  | mwld => exact h.execMwld ..
  | matrixEntryStart => exact h.execMatrixEntryStart ..
  | matrixEntryComplete => exact h.execMatrixEntryComplete ..
  | shapeOpStart => exact h.execShapeOpStart ..
  | shapeOpComplete => exact h.execShapeOpComplete ..
  | haulOpStart => exact h.execHaulOpStart ..
  | haulChunk => exact h.execHaulChunk ..
  | haulOpComplete => exact h.execHaulOpComplete ..
  | haulOpReplay => exact h.execHaulOpReplay ..
  | queueFullResume => exact h.execQueueFullResume ..
  | fireflyCommandArrival => exact h.execFireflyCommandArrival ..
  | fireflyCommandStart => exact h.execFireflyCommandStart ..
  | fireflyCommandComplete => exact h.execFireflyCommandComplete ..
  | cgrp => exact h.execCgrp ..
  | crank => exact h.execCrank ..
  | cpart => exact h.execCpart ..
  | tlbw => exact h.execTlbw ..
  | tlbinv => exact h.execTlbinv ..
  | tlbinvAll => exact h.execTlbinvAll
  | fqpop => exact h.execFqpop ..
  | fqres => exact h.execFqres ..
  | ctxsv => exact h.execCtxsv ..
  | ctxld => exact h.execCtxld ..
  | pcRangeTrap => exact h.execPcRangeTrap
  | strandChoice => exact h.execStrandChoice ..
  | watchdogExpiry => exact h.execWatchdogExpiry
  | deferredCause => exact h.execDeferredCause ..
  | windowRead => exact h.execWindowRead ..
  | windowWrite => exact h.execWindowWrite ..
  | windowSemaphoreWrite => exact h.execWindowSemaphoreWrite ..
  | fireflyContextBlockWrite => exact h.execFireflyContextBlockWrite ..
  | tileCloseArrival => exact h.execTileCloseArrival ..
  | closeArrival => exact h.execCloseArrival ..
  | sealArrival => exact h.execSealArrival ..
  | restoreDone => exact h.execRestoreDone ..
  | launchJoin => exact h.execLaunchJoin ..
  | exchangeStartPacket => exact h.execExchangeStartPacket ..
  | exchangeStart => exact h.execExchangeStart ..
  | release => exact h.execRelease ..
  | startInstant => exact h.execStartInstant ..
  | abort => exact h.execAbort ..
  | rollbackWindowDone => exact h.execRollbackWindowDone ..
  | targetedSelfTestEnd => exact h.execTargetedSelfTestEnd ..
  | stop => exact h.execStop ..
  | rootTimeout => exact h.execRootTimeout ..
  | shapingWindow => exact h.execShapingWindow ..
  | treeReconfigure => exact h.execTreeReconfigure ..
  | sealArrivalSend => exact h.execSealArrivalSend ..
  | flitSend => exact h.execFlitSend ..
  | flitArrival => exact h.execFlitArrival ..
  | xrecvMissedFlit => exact h.execXrecvMissedFlit ..
  | exchangeEnd => exact h.execExchangeEnd ..
  | messageOffer => exact h.execMessageOffer ..
  | collectiveSend => exact h.execCollectiveSend ..
  | collectiveLanding => exact h.execCollectiveLanding ..
  | collectiveReceiveTimeout => exact h.execCollectiveReceiveTimeout ..
  | deltaArrival => exact h.execDeltaArrival ..
  | faultRecordPost => exact h.execFaultRecordPost ..
  | oclysDataFrame => exact h.execOclysDataFrame ..
  | oclysAckFrame => exact h.execOclysAckFrame ..
  | oclysReplayRequest => exact h.execOclysReplayRequest ..
  | oclysAckTimeout => exact h.execOclysAckTimeout ..
  | linkFailure => exact h.execLinkFailure ..
  | linkTrained => exact h.execLinkTrained ..
  | hostWrite => exact h.execHostWrite ..
  | hostRead => exact h.execHostRead ..
  | hostLaunch => exact h.execHostLaunch ..
  | regionLaunch => exact h.execRegionLaunch ..
  | launchTilesSet => exact h.execLaunchTilesSet ..
  | launchTimeout => exact h.execLaunchTimeout ..
  | physdRead => exact h.next.ite (h.physdRead _).next
  | physdWrite => exact h.next.ite (h.physdWrite ..).next
  | migrationDone => exact h.execMigrationDone ..
  | pprDone => exact h.execPprDone ..
  | spareControlWrite => exact h.execSpareControlWrite ..
  | attestationDone => exact h.execAttestationDone ..
  | thermalTrip => exact h.execThermalTrip ..
  | secureBoot => exact h.execSecureBoot ..
  | sbUnknownCommand => exact h.execSbUnknownCommand ..
  | joinTimeout => exact h.execJoinTimeout ..
  | ieee1588Sync => exact h.execIeee1588Sync ..
  | malformedOperation => exact h.execMalformedOperation ..

/-! ## The steps that the machine makes of its own accord, and the step of the part -/

theorem go (h : s.listsWf) (x : Act) : ListsOut (x.go s) := by
  cases x with
  | slotNote => exact h.keepTile.next
  | partEnd => exact (h.partEnd ..).next
  | linkFrames => exact (h.linkFrames ..).next
  | thermalTrip => exact h.execThermalTrip ..
  | deferredCause => exact h.execDeferredCause ..
  | ldfeWake => exact h.execLdfeWake ..
  | semaphoreGrant => exact h.execSemaphoreGrant ..
  | semptExpiry => exact h.execSemptExpiry ..
  | gldDataReturn => exact h.execGldDataReturn ..
  | queueFullResume => exact h.execQueueFullResume ..
  | strandChoice => exact h.execStrandChoice ..
  | matrixEntryStart => exact h.execMatrixEntryStart ..
  | matrixEntryComplete => exact h.execMatrixEntryComplete ..
  | shapeOpStart => exact h.execShapeOpStart ..
  | shapeOpComplete => exact h.execShapeOpComplete ..
  | haulOpStart => exact h.execHaulOpStart ..
  | haulChunk => exact h.execHaulChunk ..
  | haulOpComplete => exact h.execHaulOpComplete ..
  | haulOpReplay => exact h.execHaulOpReplay ..
  | fireflyCommandArrival => exact h.execFireflyCommandArrival ..
  | fireflyCommandStart => exact h.execFireflyCommandStart ..
  | fireflyCommandComplete => exact h.execFireflyCommandComplete ..
  | tileCloseArrival => exact h.execTileCloseArrival ..
  | closeArrival => exact h.execCloseArrival ..
  | sealArrival => exact h.execSealArrival ..
  | restoreDone => exact h.execRestoreDone ..
  | launchJoin => exact h.execLaunchJoin ..
  | exchangeStartPacket => exact h.execExchangeStartPacket ..
  | exchangeStart => exact h.execExchangeStart ..
  | release => exact h.execRelease ..
  | startInstant => exact h.execStartInstant ..
  | abort => exact h.execAbort ..
  | rollbackWindowDone => exact h.execRollbackWindowDone ..
  | targetedSelfTestPass => exact h.execTargetedSelfTestEnd ..
  | stop => exact h.execStop ..
  | rootTimeout => exact h.execRootTimeout ..
  | shapingWindow => exact h.execShapingWindow ..
  | sealArrivalSend => exact h.execSealArrivalSend ..
  | flitSend => exact h.execFlitSend ..
  | flitArrival => exact h.execFlitArrival ..
  | xrecvMissedFlit => exact h.execXrecvMissedFlit ..
  | exchangeEnd => exact h.execExchangeEnd ..
  | messageOffer => exact h.execMessageOffer ..
  | collectiveSend => exact h.execCollectiveSend ..
  | collectiveLanding => exact h.execCollectiveLanding ..
  | collectiveReceiveTimeout => exact h.execCollectiveReceiveTimeout ..
  | deltaArrival => exact h.execDeltaArrival ..
  | faultRecordPost => exact h.execFaultRecordPost ..
  | regionLaunch => exact h.execRegionLaunch ..
  | launchTilesSet => exact h.execLaunchTilesSet ..
  | launchTimeout => exact h.execLaunchTimeout ..
  | joinTimeout => exact h.execJoinTimeout ..
  | migrationDone => exact h.execMigrationDone ..
  | pprDone => exact h.execPprDone ..
  | attestationDone => exact h.execAttestationDone ..

theorem tick (h : s.listsWf) (k : Nat) : (s.tick k).listsWf := h

theorem passBy (h : s.listsWf) (k : Nat) : ListsOut (s.passBy k) := by
  unfold State.passBy
  split
  · exact h.go _
  · exact (h.tick k).next

theorem paced {wait : State} {ops : List SemOp} {out : Out} (hw : wait.listsWf) (ho : ListsOut out) : ListsOut (s.paced wait ops out) := by
  obtain ⟨h⟩ := ho
  exact ListsOut.ite (.next h) (hw.passBy 1)

theorem eventPaced {wait : State} {ops : List SemOp} {out : Out} (hw : wait.listsWf) (ho : ListsOut out) :
    ListsOut (s.eventPaced wait ops out) := by
  obtain ⟨h⟩ := ho
  exact ListsOut.ite h.next (hw.paced h.next)

theorem count {w : Nat} {out : Out} (ho : ListsOut out) : ListsOut (s.count w out) := by
  obtain ⟨h⟩ := ho
  unfold State.count
  split
  · next e => cases e; exact ListsOut.ite h.next h.keepTile.next
  · exact h.next

theorem resumed (h : s.listsWf) : s.resumed.listsWf := State.listsWf.ite (h.modMe _) h

theorem issue (h : s.listsWf) : ListsOut s.issue := by
  have hr := h.resumed
  unfold State.issue
  dsimp only
  split
  · split
    · exact count (hr.exec _)
    · exact hr.next
  · refine (hr.execDeferredCause _).ite (hr.execWatchdogExpiry.ite (hr.execPcRangeTrap.ite ?_))
    split
    · exact (hr.readError ..).next
    · split
      · exact count (hr.exec _)
      · exact hr.trap ..

theorem issuePaced {wait : State} (h : s.listsWf) (hw : wait.listsWf) : ListsOut (s.issuePaced wait) := hw.paced h.issue

theorem turn (h : s.listsWf) (w : Who) : ({ s with turn := w } : State).listsWf := h
theorem sched (h : s.listsWf) (l : List Sched) : ({ s with sched := l } : State).listsWf := h

theorem issueNext (h : s.listsWf) (w : Who) : ListsOut (s.issueNext w) := by
  unfold State.issueNext
  split
  · exact h.go _
  · exact ((h.tick 1).turn w).issuePaced (h.tick 1)

theorem scheduled (h : s.listsWf) (e : Sched) (rest : List Sched) : ListsOut (s.scheduled e rest) := by
  have h1 := h.sched rest
  unfold State.scheduled
  refine ListsOut.ite ?_ ?_
  · cases e with
    | run => exact ListsOut.ite ((h1.turn _).issuePaced h) h1.next
    | event => exact ListsOut.ite (h.eventPaced (h1.exec _)) h1.next
    | upset => exact (h1.upset _).next
  · dsimp only
    split
    · exact h.go _
    · exact ((h.tick _).sched _).next

theorem newRound (h : s.listsWf) : ListsOut s.newRound := by
  unfold State.newRound
  split
  · exact h.issueNext _
  · exact h.passBy _

theorem unscheduled (h : s.listsWf) : ListsOut s.unscheduled := by
  unfold State.unscheduled
  split
  · exact (h.turn _).issuePaced h
  · refine ListsOut.ite ?_ h.newRound
    split
    · exact h.eventPaced (h.go _)
    · exact h.newRound

theorem step (h : s.listsWf) : ListsOut (step s) := by
  unfold Machine.step
  split
  · exact h.go _
  · split
    · exact h.scheduled ..
    · exact h.unscheduled

end State.listsWf

/-- Settles O57: every operation on a map, an outbox or the table of regions keeps its order, so every row of the table does, and so does
the step. -/
theorem stepKeepsLists : Obligations.StepKeepsLists := by
  intro s t h e
  have ho := h.step
  rw [e] at ho
  obtain ⟨ht⟩ := ho
  exact ht

end Sys2Proof.Machine
end

/-! Scalar results, predicates and system functions: what completes, what traps, which words stand for what (R69, R123-R128, R134, R139). -/
section
namespace Sys2Proof.Machine
open Laws Laws.RoundTrip

/-! ## Instructions that only write the context of their agent -/

theorem completes_of_done {s : State} {i : Instr} {g : Agent} (he : exec i s = s.done g) : Completes i s g.past := by
  unfold Completes CompletesIn
  rw [he]
  exact s.done_does g

theorem traps_of_trap {s : State} {i : Instr} {code : Nat} {faddr : W} (he : exec i s = s.trap code faddr) : Traps i s code faddr := by
  unfold Traps
  rw [he]
  exact s.trap_does code faddr

/-- An instruction that writes one register completes with any equal value in it. -/
theorem completes_wx {s : State} {i : Instr} {d : BitVec 5} {v u : W} (he : exec i s = s.done (s.me.wx d u)) (h : u = v) :
    Completes i s (s.me.wx d v).past := h ▸ completes_of_done he

theorem completes_wp {s : State} {i : Instr} {d : BitVec 3} {v u : Bool} (he : exec i s = s.done (s.me.wp d u)) (h : u = v) :
    Completes i s (s.me.wp d v).past := h ▸ completes_of_done he

/-- Settles O6: `nop` completes, `trap` and `brk` trap, `eret` ends in a transfer to `EPC`. -/
theorem systemComplete : Obligations.SystemComplete := by
  intro s a i
  obtain ⟨hgo, hmis, hout⟩ := transfer_does (s := s) (i := .eret) (g := { s.me with causeInh := false }) (t := s.me.epc) rfl
  exact ⟨completes_of_done rfl, traps_of_trap rfl, traps_of_trap rfl, fun h4 hm => hgo ⟨h4, hm⟩, hmis, hout⟩

/-! ## Words and their encodings -/

/-- The word of a well-formed instruction, written in any form, decodes to it. -/
theorem decode_of_encode {i : Instr} {l : List (Nat × Nat)} {w : Nat} (hwf : i.wf = true) (he : encode i = some (pack l)) (hw : pack l = w) :
    decode w = some i := (wordDecodes i hwf w (hw ▸ he)).2

theorem decode_of_row_none {w : Nat} (h : decodeRow w = none) : decode w = none := by
  rw [decode, h]

theorem decode_of_row_bad {w : Nat} {i : Instr} (h : decodeRow w = some i) (hwf : i.wf = false) : decode w = none := by
  rw [decode, h]
  exact if_neg (Bool.eq_false_iff.mp hwf)

/-- The word stands for no instruction, and one fetched raises cause 0x01 with it (R69). -/
def Reserved (s : State) (w : Nat) : Prop := decode w = none ∧ Traps (.illegalInstruction (BitVec.ofNat 32 w)) s 0x01 (BitVec.ofNat 64 w)

/-- A packed word of 32 bits that decodes to nothing is reserved. -/
theorem reserved_of_pack (s : State) {l : List (Nat × Nat)} {w : Nat} (hl : Fits l) (hs : (l.map Prod.fst).sum = 32) (hw : pack l = w)
    (h : decode (pack l) = none) : Reserved s w := by
  have hlt : w < 2 ^ 32 := hw ▸ hs ▸ pack_lt l hl
  have e : (BitVec.ofNat 32 w).setWidth 64 = BitVec.ofNat 64 w := by
    apply BitVec.eq_of_toNat_eq
    simp only [BitVec.toNat_setWidth, BitVec.toNat_ofNat]
    omega
  exact ⟨hw ▸ h, e ▸ traps_of_trap rfl⟩

/-! ## Compares and predicate functions (R127, R128) -/

/-- The condition of a compare by its code; the codes from 5 on are those of `≥` of unsigned numbers. -/
theorem condHolds_eq (n : Nat) (A B : W) : condHolds n A B = match n with
    | 0 => A == B
    | 1 => A != B
    | 2 => decide (A.toInt < B.toInt)
    | 3 => decide (A.toInt ≥ B.toInt)
    | 4 => decide (A.toNat < B.toNat)
    | _ => decide (A.toNat ≥ B.toNat) := by
  match n with
  | 0 => rfl
  | 1 => exact decide_not
  | 2 | 3 | 4 | n + 5 => rfl

/-- The fields of a word of opcode 0x09, and of one of opcode 0x0A. -/
def cmpWord (p c : BitVec 3) (a b : BitVec 5) (f : Nat) : List (Nat × Nat) :=
  [(7, 0x09), (3, p.toNat), (3, c.toNat), (5, a.toNat), (5, b.toNat), (9, f)]

def cmpiWord (p c : BitVec 3) (a : BitVec 5) (i : BitVec 14) : List (Nat × Nat) :=
  [(7, 0x0A), (3, p.toNat), (3, c.toNat), (5, a.toNat), (14, i.toNat)]

theorem cmpWord_fits (p c : BitVec 3) (a b : BitVec 5) {f : Nat} (hf : f < 512) : Fits (cmpWord p c a b f) :=
  ⟨by decide, p.isLt, c.isLt, a.isLt, b.isLt, hf, trivial⟩

theorem cmpiWord_fits (p c : BitVec 3) (a : BitVec 5) (i : BitVec 14) : Fits (cmpiWord p c a i) :=
  ⟨by decide, p.isLt, c.isLt, a.isLt, i.isLt, trivial⟩

theorem condOk_eq_false {c : BitVec 3} (h : 6 ≤ c.toNat) : condOk c = false := decide_eq_false (Nat.not_lt.mpr h)

/-- A compare word is reserved where its zero field is not 0, or its condition code is 6 or 7 (R127). -/
theorem cmpWord_decode_none (p : BitVec 3) {c : BitVec 3} (a b : BitVec 5) {f : Nat} (hf : f < 512) (h : f ≠ 0 ∨ 6 ≤ c.toNat) :
    decode (pack (cmpWord p c a b f)) = none := by
  have hl := cmpWord_fits p c a b hf
  have hcond : fld (pack (cmpWord p c a b f)) 10 3 = c.toNat := fld_at rfl hl 2
  have hzero : fld (pack (cmpWord p c a b f)) 23 9 = f := fld_at rfl hl 5
  have hrow := row09 (op_at (word := pack (cmpWord p c a b f)) rfl hl)
  rw [decodeOp09, hzero, hcond, BitVec.ofNat_toNat, BitVec.setWidth_eq] at hrow
  by_cases h0 : f = 0
  · rw [if_pos h0] at hrow
    exact decode_of_row_bad hrow (condOk_eq_false (h.resolve_left (not_not.mpr h0)))
  · exact decode_of_row_none (hrow.trans (if_neg h0))

theorem cmpiWord_decode_none (p : BitVec 3) {c : BitVec 3} (a : BitVec 5) (i : BitVec 14) (h : 6 ≤ c.toNat) :
    decode (pack (cmpiWord p c a i)) = none := by
  have hl := cmpiWord_fits p c a i
  have hcond : fld (pack (cmpiWord p c a i)) 10 3 = c.toNat := fld_at rfl hl 2
  have hrow := row0a (op_at (word := pack (cmpiWord p c a i)) rfl hl)
  rw [decodeOp0a, hcond, BitVec.ofNat_toNat, BitVec.setWidth_eq] at hrow
  exact decode_of_row_bad hrow (condOk_eq_false h)

/-- The fields of a word of opcode 0x0B. -/
def predWord (p q r : BitVec 3) (f z : Nat) : List (Nat × Nat) :=
  [(7, 0x0B), (3, p.toNat), (8, f), (3, q.toNat), (3, r.toNat), (8, z)]

theorem predWord_fits (p q r : BitVec 3) {f z : Nat} (hf : f < 256) (hz : z < 256) : Fits (predWord p q r f z) :=
  ⟨by decide, p.isLt, hf, q.isLt, r.isLt, hz, trivial⟩

/-- A word of opcode 0x0B is reserved where its function is none of the six or its zero field is not 0 (R128). -/
theorem predWord_decode_none (p q r : BitVec 3) {f z : Nat} (hf : f < 256) (hz : z < 256) (h : z ≠ 0 ∨ 6 ≤ f) :
    decode (pack (predWord p q r f z)) = none := by
  have hl := predWord_fits p q r hf hz
  have hfun : fld (pack (predWord p q r f z)) 10 8 = f := fld_at rfl hl 2
  have hzero : fld (pack (predWord p q r f z)) 24 8 = z := fld_at rfl hl 5
  have hrow := row0b (op_at (word := pack (predWord p q r f z)) rfl hl)
  rw [decodeOp0b, hfun, hzero] at hrow
  have hnot (n : Nat) (hn : n < 6) : ¬(f = n ∧ z = 0) := by omega
  exact decode_of_row_none (by simpa only [hnot, Nat.reduceLT, not_false_eq_true, if_false] using hrow)

/-- Each of the six predicate functions has its code. -/
theorem predWord_decode (p q r : BitVec 3) {f : Nat} (hf : f < 6) : some (decode (pack (predWord p q r f 0))) =
    ([some (.pand p q r), some (.por p q r), some (.pxor p q r), some (.pandn p q r), some (.porn p q r),
      some (.pxnor p q r)] : List (Option Instr))[f]? := by
  match f with
  | 0 => exact congrArg some (decode_of_encode (i := .pand p q r) rfl rfl rfl)
  | 1 => exact congrArg some (decode_of_encode (i := .por p q r) rfl rfl rfl)
  | 2 => exact congrArg some (decode_of_encode (i := .pxor p q r) rfl rfl rfl)
  | 3 => exact congrArg some (decode_of_encode (i := .pandn p q r) rfl rfl rfl)
  | 4 => exact congrArg some (decode_of_encode (i := .porn p q r) rfl rfl rfl)
  | 5 => exact congrArg some (decode_of_encode (i := .pxnor p q r) rfl rfl rfl)

/-- Settles O3: each compare and each predicate function ends with a write of its predicate; the words are packed fields. -/
theorem predicateResults : Obligations.PredicateResults := by
  intro s p c q r a b i holds res
  have hcond (A B : W) : condHolds c.toNat A B = holds A B := condHolds_eq c.toNat A B
  refine ⟨fun _ => ⟨completes_wp rfl (hcond ..), completes_wp rfl (hcond ..)⟩, completes_wp rfl rfl, completes_wp rfl rfl, completes_wp rfl ?_,
    completes_wp rfl rfl, completes_wp rfl rfl, completes_wp rfl ?_, ?_⟩
  · rfl
  · cases s.rp q <;> cases s.rp r <;> rfl
  intro bad cmp
  have hcmp (f : Nat) : pack (cmpWord p c a b f) = cmp 0x09 c.toNat + b.toNat * 2 ^ 18 + f * 2 ^ 23 := by
    simp only [cmpWord, pack, cmp]; omega
  have hcmp0 : pack (cmpWord p c a b 0) = cmp 0x09 c.toNat + b.toNat * 2 ^ 18 := (hcmp 0).trans (Nat.add_zero _)
  have hcmpi : pack (cmpiWord p c a i) = cmp 0x0A c.toNat + i.toNat * 2 ^ 18 := by
    simp only [cmpiWord, pack, cmp]; omega
  refine ⟨fun h => ⟨decode_of_encode (decide_eq_true h) rfl hcmp0, decode_of_encode (decide_eq_true h) rfl hcmpi⟩,
    fun h => ⟨reserved_of_pack s (cmpWord_fits p c a b (by decide)) rfl hcmp0 (cmpWord_decode_none p a b (by decide) (.inr h)),
      reserved_of_pack s (cmpiWord_fits p c a i) rfl hcmpi (cmpiWord_decode_none p a i h)⟩,
    fun f h1 hf => reserved_of_pack s (cmpWord_fits p c a b hf) rfl (hcmp f) (cmpWord_decode_none p a b hf (.inl (by omega))), ?_⟩
  intro f x z hf hx hz w
  have hw : pack (predWord p q r (f + x * 8) z) = w := by
    simp only [predWord, pack, w]; omega
  refine ⟨fun hx0 hz0 hf6 => ?_, fun h => ?_⟩
  · subst hx0 hz0
    rw [← hw, Nat.zero_mul, Nat.add_zero]
    exact predWord_decode p q r hf6
  · exact reserved_of_pack s (predWord_fits p q r (by omega) hz) rfl hw (predWord_decode_none p q r (by omega) hz (by omega))

/-! ## Scalar functions (R123-R126) -/

theorem bitOf_toNat (A : W) (i : Nat) : bitOf A.toNat i = A.getLsbD i := by
  rw [bitOf, BitVec.getLsbD, Nat.testBit_eq_decide_div_mod_eq]

/-- `clzNat` counts the bits above the highest one bit. -/
theorem clzNat_spec (A : W) : clzNat A.toNat ≤ 64 ∧ (∀ i, i < clzNat A.toNat → A.getLsbD (63 - i) = false) ∧
    (clzNat A.toNat < 64 → A.getLsbD (63 - clzNat A.toNat) = true) := by
  rw [clzNat]
  split
  · next h => exact ⟨le_rfl, fun i _ => by rw [BitVec.getLsbD, h, Nat.zero_testBit], fun h => absurd h (lt_irrefl _)⟩
  · next h =>
    have hlog : A.toNat.log2 < 64 := (Nat.log2_lt h).mpr A.isLt
    refine ⟨by omega, fun i hi => ?_, fun _ => ?_⟩
    · exact Nat.testBit_lt_two_pow (Nat.lt_log2_self.trans_le (Nat.pow_le_pow_right (by decide) (by omega)))
    · rw [Nat.sub_sub_self (Nat.le_of_lt_succ hlog)]
      exact Nat.testBit_log2 h

/-- `ctzNat` counts the bits below the lowest one bit. -/
theorem ctzNat_spec (A : W) : ctzNat A.toNat ≤ 64 ∧ (∀ i, i < ctzNat A.toNat → A.getLsbD i = false) ∧
    (ctzNat A.toNat < 64 → A.getLsbD (ctzNat A.toNat) = true) := by
  simp only [ctzNat, bitOf_toNat]
  cases h : (List.range 64).find? fun i => A.getLsbD i with
  | none =>
    have hnone := List.find?_range_eq_none.mp h
    exact ⟨le_rfl, fun i hi => by simpa using hnone i hi, fun h => absurd h (lt_irrefl _)⟩
  | some n =>
    obtain ⟨hn, hmem, hbelow⟩ := List.find?_range_eq_some.mp h
    exact ⟨(List.mem_range.mp hmem).le, fun i hi => by simpa using hbelow i hi, fun _ => hn⟩

theorem popcNat_eq_countP (A : W) : popcNat A.toNat = (List.range 64).countP fun i => A.getLsbD i := by
  simp only [popcNat, bitOf_toNat, List.countP_eq_length_filter]

/-- A rotation to the right as two shifts, the amount below 64. -/
theorem rotateRight_eq_shifts (A : W) {n : Nat} (hn : n < 64) : A.rotateRight n = A >>> n ||| A <<< ((64 - n) % 64) := by
  rw [BitVec.rotateRight_def, Nat.mod_eq_of_lt hn]
  rcases Nat.eq_zero_or_pos n with rfl | h
  · simp
  · rw [Nat.mod_eq_of_lt (by omega : 64 - n < 64)]

/-- The immediate of `lih` and `addpc` as a product. -/
theorem upper_eq_mul (k : BitVec 20) : upper k = k.signExtend 64 * 4096#64 := by
  rw [upper, immShl, immW, BitVec.shiftLeft_eq_mul_twoPow]
  rfl

theorem divSigned_intMin : divSigned (BitVec.intMin 64) (-1) = BitVec.intMin 64 := by decide

theorem remSigned_intMin : remSigned (BitVec.intMin 64) (-1) = 0 := by decide

/-- A choice by `<` is the opposite one by `≤`. -/
theorem ite_lt_eq {α : Type} [LinearOrder α] (x y : α) (A B : W) : (if y < x then B else A) = if x ≤ y then A else B := by
  rw [← ite_not]
  simp only [not_lt]

/-! The words of the scalar functions as packed fields. -/

/-- The fields of a word of opcode 0x01: of two operands; with the second operand and the function in one field. -/
def aluWord (d a : BitVec 5) (b : BitVec 5) (f : Nat) : List (Nat × Nat) := [(7, 0x01), (5, d.toNat), (5, a.toNat), (5, b.toNat), (10, f)]

def aluWord1 (d a : BitVec 5) (g : Nat) : List (Nat × Nat) := [(7, 0x01), (5, d.toNat), (5, a.toNat), (15, g)]

/-- The fields of a word of an immediate of 15 bits, and of one of a shift amount of 6 bits. -/
def immWord (op : Nat) (d a : BitVec 5) (i : BitVec 15) : List (Nat × Nat) := [(7, op), (5, d.toNat), (5, a.toNat), (15, i.toNat)]

def shiftWord (d a : BitVec 5) (n : BitVec 6) (f : Nat) : List (Nat × Nat) := [(7, 0x06), (5, d.toNat), (5, a.toNat), (6, n.toNat), (9, f)]

theorem aluWord_fits (d a b : BitVec 5) {f : Nat} (hf : f < 1024) : Fits (aluWord d a b f) :=
  ⟨by decide, d.isLt, a.isLt, b.isLt, hf, trivial⟩

theorem shiftWord_fits (d a : BitVec 5) (n : BitVec 6) {f : Nat} (hf : f < 512) : Fits (shiftWord d a n f) :=
  ⟨by decide, d.isLt, a.isLt, n.isLt, hf, trivial⟩

/-- A word of opcode 0x01 is reserved where its function is none of the 25, or is one of one operand and has a second (R123). -/
theorem aluWord_decode_none (d a b : BitVec 5) {f : Nat} (hf : f < 1024) (h : 0x15 ≤ f) (hb : f < 0x19 → b ≠ 0) :
    decode (pack (aluWord d a b f)) = none := by
  have hl := aluWord_fits d a b hf
  have hfun : fld (pack (aluWord d a b f)) 22 10 = f := fld_at rfl hl 4
  have hsecond : fld (pack (aluWord d a b f)) 17 5 = b.toNat := fld_at rfl hl 3
  have hboth : fld (pack (aluWord d a b f)) 17 15 = b.toNat + 32 * f := by
    simp only [fld] at hfun hsecond ⊢
    omega
  have hrow := row01 (op_at (word := pack (aluWord d a b f)) rfl hl)
  rw [decodeOp01, hfun, hboth] at hrow
  have hb0 : f < 0x19 → b.toNat ≠ 0 := fun h e => hb h (BitVec.eq_of_toNat_eq e)
  have hblt := b.isLt
  have htwo (n : Nat) (hn : n < 0x15) : f ≠ n := by omega
  have hone (n : Nat) (hn : n < 0x19) : b.toNat + 32 * f ≠ 32 * n := by omega
  refine decode_of_row_none ?_
  simpa only [htwo, hone 0x15, hone 0x16, hone 0x17, hone 0x18, Nat.reduceLT, Nat.reduceMul, if_false] using hrow

theorem shiftWord_decode_none (d a : BitVec 5) (n : BitVec 6) {f : Nat} (hf : f < 512) (h : 4 ≤ f) : decode (pack (shiftWord d a n f)) = none := by
  have hl := shiftWord_fits d a n hf
  have hfun : fld (pack (shiftWord d a n f)) 23 9 = f := fld_at rfl hl 4
  have hrow := row06 (op_at (word := pack (shiftWord d a n f)) rfl hl)
  rw [decodeOp06, hfun] at hrow
  have hnot (n : Nat) (hn : n < 4) : f ≠ n := by omega
  exact decode_of_row_none (by simpa only [hnot, Nat.reduceLT, if_false] using hrow)

/-- The bits 17 to 31 of a word of opcode 0x06 are the shift amount and the function. -/
theorem shiftWord_of_imm (d a : BitVec 5) (j f : Nat) : pack (shiftWord d a (BitVec.ofNat 6 j) (j % 2 ^ 8 / 2 ^ 6 + 4 * f)) =
    0x06 + (d.toNat * 2 ^ 7 + a.toNat * 2 ^ 12) + j % 2 ^ 8 * 2 ^ 17 + f * 2 ^ 25 := by
  simp only [shiftWord, pack, BitVec.toNat_ofNat]
  omega

/-- Settles O2: each function ends with a write of its register; the words are packed fields. -/
theorem scalarArithmetic : Obligations.ScalarArithmetic := by
  refine ⟨fun s d a b => ?_, fun s d a b => ?_, fun s d a => ?_, fun s d a i n k => ?_, fun s d a b i n k f => ?_⟩
  · intro A B res
    exact ⟨completes_wx rfl rfl, completes_wx rfl rfl, completes_wx rfl rfl, completes_wx rfl rfl, completes_wx rfl rfl, completes_wx rfl rfl,
      completes_wx rfl rfl, completes_wx rfl rfl, completes_wx rfl rfl,
      completes_wx rfl (rotateRight_eq_shifts A (Nat.mod_lt _ (by decide))), completes_wx rfl rfl, completes_wx rfl rfl, completes_wx rfl rfl,
      completes_wx rfl (ite_lt_eq ..), completes_wx rfl (ite_lt_eq ..), completes_wx rfl (ite_lt_eq ..), completes_wx rfl (ite_lt_eq ..)⟩
  · intro A B res
    refine ⟨fun h => ?_, fun hA hB => ?_, fun h => ?_⟩
    · exact ⟨completes_wx rfl (if_pos h), completes_wx rfl (if_pos h), completes_wx rfl (if_pos h), completes_wx rfl (if_pos h)⟩
    · have hdiv : divSigned A B = BitVec.intMin 64 := by rw [hA, hB, divSigned_intMin]
      have hrem : remSigned A B = 0 := by rw [hA, hB, remSigned_intMin]
      exact ⟨completes_wx rfl hdiv, completes_wx rfl hrem⟩
    · exact ⟨completes_wx rfl (if_neg h), completes_wx rfl (if_neg h), completes_wx rfl (if_neg h), completes_wx rfl (if_neg h)⟩
  · intro A res
    exact ⟨⟨_, completes_wx rfl rfl, clzNat_spec A⟩, ⟨_, completes_wx rfl rfl, ctzNat_spec A⟩,
      completes_wx rfl (congrArg (BitVec.ofNat 64) (popcNat_eq_countP A)), completes_wx rfl rfl⟩
  · intro A I K res
    exact ⟨completes_wx rfl rfl, completes_wx rfl rfl, completes_wx rfl rfl, completes_wx rfl rfl, completes_wx rfl rfl, completes_wx rfl rfl,
      completes_wx rfl rfl, completes_wx rfl (rotateRight_eq_shifts A n.isLt), completes_wx rfl (upper_eq_mul k),
      completes_wx rfl (congrArg (s.me.pc + ·) (upper_eq_mul k))⟩
  · intro da alu bad
    have halu (f : Nat) : pack (aluWord d a b f) = alu f b.toNat := by
      simp only [aluWord, pack, alu, da]; omega
    have halu1 (f : Nat) : pack (aluWord1 d a (f * 32)) = alu f 0 := by
      simp only [aluWord1, pack, alu, da]; omega
    have himm (op : Nat) : pack (immWord op d a i) = op + da + i.toNat * 2 ^ 17 := by
      simp only [immWord, pack, da]; omega
    have hshift (f : Nat) : pack (shiftWord d a n f) = 0x06 + da + n.toNat * 2 ^ 17 + f * 2 ^ 23 := by
      simp only [shiftWord, pack, da]; omega
    refine ⟨?_, ?_, ?_, ?_, ?_, ?_, ?_, ?_⟩
    · have enc (g : Nat) (j : Instr) (hwf : j.wf = true) (he : encode j = some (pack (aluWord d a b g))) :
          decode (alu g b.toNat) = some j := decode_of_encode hwf he (halu g)
      simp only [List.forall_mem_cons]
      exact ⟨enc _ _ rfl rfl, enc _ _ rfl rfl, enc _ _ rfl rfl, enc _ _ rfl rfl, enc _ _ rfl rfl, enc _ _ rfl rfl,
        enc _ _ rfl rfl, enc _ _ rfl rfl, enc _ _ rfl rfl, enc _ _ rfl rfl, enc _ _ rfl rfl, enc _ _ rfl rfl,
        enc _ _ rfl rfl, enc _ _ rfl rfl, enc _ _ rfl rfl, enc _ _ rfl rfl, enc _ _ rfl rfl, enc _ _ rfl rfl,
        enc _ _ rfl rfl, enc _ _ rfl rfl, enc _ _ rfl rfl, nofun⟩
    · have enc (g : Nat) (j : Instr) (hwf : j.wf = true) (he : encode j = some (pack (aluWord1 d a (g * 32)))) (h1 : 0x15 ≤ g) (h2 : g < 0x19) :
          decode (alu g 0) = some j ∧ (b ≠ 0 → bad (alu g b.toNat)) :=
        ⟨decode_of_encode hwf he (halu1 g), fun hb => reserved_of_pack s (aluWord_fits d a b (by omega)) rfl (halu g)
          (aluWord_decode_none d a b (by omega) h1 fun _ => hb)⟩
      simp only [List.forall_mem_cons]
      exact ⟨enc _ _ rfl rfl (by decide) (by decide), enc _ _ rfl rfl (by decide) (by decide), enc _ _ rfl rfl (by decide) (by decide),
        enc _ _ rfl rfl (by decide) (by decide), nofun⟩
    · exact fun h1 h2 => reserved_of_pack s (aluWord_fits d a b h2) rfl (halu f) (aluWord_decode_none d a b h2 (by omega) (by omega))
    · have enc (g : Nat) (j : Instr) (hwf : j.wf = true) (he : encode j = some (pack (immWord g d a i))) :
          decode (g + da + i.toNat * 2 ^ 17) = some j := decode_of_encode hwf he (himm g)
      simp only [List.forall_mem_cons]
      exact ⟨enc _ _ rfl rfl, enc _ _ rfl rfl, enc _ _ rfl rfl, enc _ _ rfl rfl, nofun⟩
    · have enc (g : Nat) (j : Instr) (hwf : j.wf = true) (he : encode j = some (pack (shiftWord d a n g))) :
          decode (0x06 + da + n.toNat * 2 ^ 17 + g * 2 ^ 23) = some j := decode_of_encode hwf he (hshift g)
      simp only [List.forall_mem_cons]
      exact ⟨enc _ _ rfl rfl, enc _ _ rfl rfl, enc _ _ rfl rfl, enc _ _ rfl rfl, nofun⟩
    · exact fun h1 h2 => reserved_of_pack s (shiftWord_fits d a _ (by omega)) rfl (shiftWord_of_imm d a i.toNat f)
        (shiftWord_decode_none d a _ (by omega) (by omega))
    · exact decode_of_encode (i := .lih d k) rfl rfl (by simp only [pack]; omega)
    · exact decode_of_encode (i := .addpc d k) rfl rfl (by simp only [pack]; omega)

end Sys2Proof.Machine
end

/-! A scalar store beside a held store that reaches past its atom (R129, R225). -/
section
namespace Sys2Proof.Machine

/-- The state after `st8` of `X[0]` at 32, where the hart holds a store to the bytes 16 to 32. -/
def longHeldByteStored : State :=
  match exec (.st8 0 0 32) longHeldState with
  | .next t => t
  | _ => longHeldState

theorem exec_st8_longHeldState : exec (.st8 0 0 32) longHeldState = .next longHeldByteStored := rfl

theorem longHeldState_canStore_byte : longHeldState.canStore 32 1 := by
  refine ⟨by decide, by decide, by decide, by decide, by decide, fun v c e => ?_⟩
  cases e
  decide

/-- The hart still sees its held store at 32, where `st8` has put 0. -/
theorem longHeldByteStored_byte : longHeldByteStored.byteAt (.tile 0 8) 32 = 0xFF := by decide

/-- Refutes O7, by the clause on `st8`: the statement lets the held stores of the hart be any stores, and one that reaches past its atom,
here the bytes 16 to 32, covers the byte stored at 32. No run holds such a store, for a store is held in the parts that `cutAtoms` cuts
(R225); the clause lacks the premise that each held store lies in one atom. -/
theorem not_loadsAndStores : ¬Obligations.LoadsAndStores := by
  rintro ⟨-, hstore⟩
  obtain ⟨hst8, -⟩ := hstore longHeldState 0 0 32
  obtain ⟨t, he, ⟨-, -, -, hbytes, -⟩, -⟩ := hst8 longHeldState_canStore_byte
  obtain rfl := Host.Outcome.next.inj (exec_st8_longHeldState.symm.trans he)
  exact absurd (longHeldByteStored_byte.symm.trans (hbytes 0 (by decide))) (by decide)

end Sys2Proof.Machine
end

/-! The end and the start of agents (R114, R134, R136, R137). -/
section
namespace Sys2Proof.Machine

/-! ## Steps that keep the memories and the agents but some -/

/-- Between `s` and `t` only the agents of a list changed, and their tiles and dies apart from the memories: every other agent, every byte
of every memory and what is no tile and no die is the same. -/
def KeepsBut (l : List Who) (s t : State) : Prop :=
  SameRest s t ∧ (∀ w, w ∉ l → t.agentOf w = s.agentOf w) ∧ ∀ w x, t.byteAt w x = s.byteAt w x

theorem KeepsBut.trans {l : List Who} {s t u : State} (h : KeepsBut l s t) (k : KeepsBut l t u) : KeepsBut l s u :=
  ⟨h.1.trans k.1, fun w hw => (k.2.1 w hw).trans (h.2.1 w hw), fun w x => (k.2.2 w x).trans (h.2.2 w x)⟩

/-- What the loads of a tile's agents depend on: tile memory, its bad and poisoned words, the stores that have not performed. -/
def Tile.seen (tl : Tile) : Memory × List Nat × List Nat × List HeldStore := (tl.tm, tl.bad, tl.poison, tl.held)

section
variable (s : State)

theorem State.memOf_modTile {u : Nat} {f : Tile → Tile} (hf : (f (s.tile u)).seen = (s.tile u).seen) (w : Who) :
    (s.modTile u f).memOf w = s.memOf w := by
  cases w with
  | tile v a =>
    simp only [Tile.seen, Prod.mk.injEq] at hf
    obtain ⟨htm, hbad, hpoison, hheld⟩ := hf
    simp only [State.memOf, State.tile_modTile]
    split
    · next h => subst h; rw [htm, hbad, hpoison, hheld]
    · rfl
  | svc => rfl

theorem State.agentOf_modTile {u : Nat} {f : Tile → Tile} (hf : (f (s.tile u)).cur.agents = (s.tile u).cur.agents) (w : Who) :
    (s.modTile u f).agentOf w = s.agentOf w := by
  cases w with
  | tile v a =>
    simp only [State.agentOf, State.tile_modTile]
    split
    · next h => subst h; exact congrArg (·[a]) hf
    · rfl
  | svc => rfl

/-- The service cores after one of them is put in place. -/
theorem State.svc_modDie (d : Nat) (c : Fin 2) (x : Die → SvcCore) (e : Nat) (k : Fin 2) :
    ((s.modDie d fun y => y.setSvc c (x y)).die e).svc[k] = if e = d ∧ k = c then x (s.die d) else (s.die e).svc[k] := by
  simp only [State.die_modDie, Die.setSvc, Fin.getElem_fin]
  by_cases he : e = d
  · subst he
    simp only [if_true, Vector.getElem_set, true_and, Fin.ext_iff, eq_comm]
  · simp only [he, if_false, false_and]

/-- A change of a tile apart from its agents and its memory. -/
theorem State.modTile_keepsBut (l : List Who) {u : Nat} {f : Tile → Tile} (ha : (f (s.tile u)).cur.agents = (s.tile u).cur.agents)
    (hm : (f (s.tile u)).seen = (s.tile u).seen) : KeepsBut l s (s.modTile u f) :=
  ⟨by simp [SameRest, State.modTile], fun w _ => s.agentOf_modTile ha w, fun w x => by rw [State.byteAt, s.memOf_modTile hm, State.byteAt]⟩

/-- Another context for an agent of the list. -/
theorem State.setAgentOf_keepsBut {w : Who} {l : List Who} (hw : w ∈ l) (g : Agent) : KeepsBut l s (s.setAgentOf w g) := by
  refine ⟨(s.setAgentOf_only w g).1.1, fun v hv => s.agentOf_setAgentOf_ne g fun e => hv (e ▸ hw), fun v x => ?_⟩
  cases w with
  | tile u a =>
    have h := s.memOf_modTile (u := u) (f := fun tl => tl.setAgent a g) rfl v
    rw [State.byteAt, State.byteAt]
    exact congrArg (fun m : Memory × List Nat => m.1.get x) h
  | svc d c =>
    cases v with
    | tile => rfl
    | svc e k =>
      simp only [State.byteAt, State.memOf, State.setAgentOf, State.svc_modDie]
      split
      · next h => obtain ⟨rfl, rfl⟩ := h; rfl
      · rfl

/-- One more instruction retired. -/
theorem State.retire_keepsBut (l : List Who) (w : Who) : KeepsBut l s (s.retire w) := by
  cases w with
  | tile u a => exact s.modTile_keepsBut l rfl rfl
  | svc d c =>
    refine ⟨(s.retire_only (.svc d c)).1.1, fun v _ => ?_, fun v x => ?_⟩
    · cases v with
      | tile => rfl
      | svc e k =>
        simp only [State.agentOf, State.retire, State.svc_modDie]
        split
        · next h => obtain ⟨rfl, rfl⟩ := h; rfl
        · rfl
    · cases v with
      | tile => rfl
      | svc e k =>
        simp only [State.byteAt, State.memOf, State.retire, State.svc_modDie]
        split
        · next h => obtain ⟨rfl, rfl⟩ := h; rfl
        · rfl

end

/-! ## Yield, fences -/

theorem State.kind_eq_work {s : State} (h : s.byStrand) : s.turn.kind = .work := by
  obtain ⟨u, a, hw, ha⟩ := h
  simp [hw, Who.kind, ha]

theorem State.kind_ne_work {s : State} (h : ¬s.byStrand) : s.turn.kind ≠ .work := by
  intro hk
  cases hw : s.turn with
  | tile u a =>
    refine h ⟨u, a, hw, ?_⟩
    by_contra ha
    rw [hw] at hk
    simp only [Who.kind, if_neg ha] at hk
    split at hk <;> cases hk
  | svc d c => rw [hw] at hk; cases hk

theorem execYield_eq (s : State) {st : AState} (h : (if s.turn.kind = .work then .ready else s.me.st) = st) :
    exec .yield s = s.done { s.me with st := st, heldFrom := s.clk } := h ▸ rfl

theorem execFenceAcq_eq {s : State} (h : s.myEntry (fun _ => true) = none) : exec .fenceAcq s = s.done s.me := by
  have he : exec .fenceAcq s = execFenceAcq s := rfl
  rw [he, execFenceAcq, h]
  rfl

/-! ## Exit (R137) -/

theorem execExit_inline {s : State} (hd : s.me.depth ≠ 0) (he : s.myEntry (fun _ => true) = none) :
    exec .exit s = s.transfer { s.me with depth := s.me.depth - 1 } (s.rx 1) := by
  show execExit s = _
  rw [execExit, he]
  exact if_pos hd

theorem execExit_ends {s : State} (hd : s.me.depth = 0) (he : s.myEntry (fun _ => true) = none) :
    exec .exit s = .next (s.endAgent.retire s.turn) := by
  show execExit s = _
  rw [execExit, he]
  exact if_neg (not_not.mpr hd)

/-- The context of an agent that has ended. -/
def Agent.ended (g : Agent) : Agent := { g with st := .free, deferred := none }

/-- A tile after the accumulators of an agent are freed (R266). -/
def Tile.freeAccsOf (tl : Tile) (a : Fin 10) : Tile :=
  { tl with cur := tl.cur.freeAccs fun st => match st with | .held b _ => decide (b = a) | .free => false }

theorem Tile.freeAccsOf_accSt (tl : Tile) (a : Fin 10) (n : Fin 16) (p : Bool) : (tl.freeAccsOf a).cur.accSt[n] ≠ .held a p := by
  simp only [Tile.freeAccsOf, TileVer.freeAccs, Fin.getElem_fin, Vector.getElem_map]
  split
  · nofun
  · next h => exact fun e => h (by rw [e]; exact decide_eq_true rfl)

/-- Tile `u` records the cause still pending for an agent that ends (R120). -/
def State.recordPending (s : State) (u : Nat) : Option Pending → State
  | some p => s.modTile u fun tl => tl.record ⟨p.code, none⟩
  | none => s

theorem State.recordPending_keepsBut (s : State) (l : List Who) (u : Nat) (o : Option Pending) : KeepsBut l s (s.recordPending u o) := by
  cases o with
  | none => exact ⟨by simp [SameRest, State.recordPending], fun _ _ => rfl, fun _ _ => rfl⟩
  | some p => exact s.modTile_keepsBut l rfl rfl

theorem State.recordPending_none (s : State) (u : Nat) : s.recordPending u none = s := rfl

theorem State.mem_recordPending (s : State) (u : Nat) (p : Pending) : ⟨p.code, none⟩ ∈ ((s.recordPending u (some p)).tile u).recorded := by
  rw [State.recordPending, State.tile_modTile, if_pos rfl]
  exact Tile.mem_record ..

theorem State.endStreams_of_none {s : State} {w : Who} (h : (s.agentOf w).streams = []) : s.endStreams w = s := by
  rw [State.endStreams, h]
  rfl

/-- The end of an agent of a tile without streams: its context, the cause still pending, its accumulators. -/
theorem State.endAgent_tile {s : State} {u : Nat} {a : Fin 10} (hw : s.turn = .tile u a) (hs : s.me.streams = []) :
    s.endAgent = ((s.setAgentOf s.turn s.me.ended).recordPending u s.me.deferred).modTile u fun tl => tl.freeAccsOf a := by
  obtain ⟨-, hagents, -⟩ := (s.setAgentOf s.turn s.me.ended).recordPending_keepsBut [] u s.me.deferred
  have hstreams := State.endStreams_of_none (s := (s.setAgentOf s.turn s.me.ended).recordPending u s.me.deferred) (w := s.turn) (by
    rw [hagents _ List.not_mem_nil, State.agentOf_setAgentOf_self]
    exact hs)
  unfold State.endAgent
  split
  · next v b hv =>
    cases hv.symm.trans hw
    refine congrArg (fun t : State => t.modTile u fun tl => tl.freeAccsOf a) (.trans ?_ hstreams)
    cases s.me.deferred <;> rfl
  · next hv => cases hv.symm.trans hw

theorem State.endAgent_svc {s : State} {d : Nat} {c : Fin 2} (hw : s.turn = .svc d c) : s.endAgent = s.setAgentOf s.turn s.me.ended := by
  unfold State.endAgent
  split
  · next hv => cases hv.symm.trans hw
  · rfl

/-- An agent without streams that ends changes its own context alone, apart from its tile. -/
theorem State.endAgent_keepsBut {s : State} (hs : s.me.streams = []) :
    s.endAgent.agentOf s.turn = s.me.ended ∧ KeepsBut [s.turn] s s.endAgent := by
  have hset := s.setAgentOf_keepsBut (List.mem_singleton_self s.turn) s.me.ended
  cases hw : s.turn with
  | tile u a =>
    have hrec (l : List Who) := (s.setAgentOf s.turn s.me.ended).recordPending_keepsBut l u s.me.deferred
    have hacc (l : List Who) := ((s.setAgentOf s.turn s.me.ended).recordPending u s.me.deferred).modTile_keepsBut l (u := u)
      (f := fun tl => tl.freeAccsOf a) rfl rfl
    rw [State.endAgent_tile hw hs, ← hw]
    refine ⟨?_, hset.trans ((hrec _).trans (hacc _))⟩
    rw [(hacc []).2.1 _ List.not_mem_nil, (hrec []).2.1 _ List.not_mem_nil, State.agentOf_setAgentOf_self]
  | svc d c =>
    rw [State.endAgent_svc hw, ← hw]
    exact ⟨State.agentOf_setAgentOf_self .., hset⟩

/-- The tile of an agent without streams that ends. -/
theorem State.endAgent_tileParts {s : State} {u : Nat} {a : Fin 10} (hw : s.turn = .tile u a) (hs : s.me.streams = []) :
    (∀ (n : Fin 16) p, (s.endAgent.tile u).cur.accSt[n] ≠ .held a p) ∧
      (s.me.deferred = none → (s.endAgent.tile u).recorded = (s.tile u).recorded) ∧
      ∀ p, s.me.deferred = some p → ⟨p.code, none⟩ ∈ (s.endAgent.tile u).recorded := by
  have ht : s.endAgent.tile u = (((s.setAgentOf s.turn s.me.ended).recordPending u s.me.deferred).tile u).freeAccsOf a := by
    rw [State.endAgent_tile hw hs, State.tile_modTile, if_pos rfl]
  rw [ht]
  refine ⟨fun n p => Tile.freeAccsOf_accSt _ a n p, fun hd => ?_, fun p hd => ?_⟩
  · rw [hd, State.recordPending_none, hw]
    simp only [State.setAgentOf, State.tile_modTile, if_true]
    rfl
  · rw [hd]
    exact State.mem_recordPending ..

/-- The count of an instruction leaves the accumulators and the recorded causes of a tile. -/
theorem State.tile_retire (s : State) (w : Who) (u : Nat) :
    ((s.retire w).tile u).cur = (s.tile u).cur ∧ ((s.retire w).tile u).recorded = (s.tile u).recorded := by
  cases w with
  | tile v a =>
    simp only [State.retire, State.tile_modTile]
    split <;> exact ⟨rfl, rfl⟩
  | svc => exact ⟨rfl, rfl⟩

/-! ## Spawn (R136) -/

/-- The lowest FREE slot of a tile is the one that a search finds. -/
theorem Tile.freeSlot_eq_some {tl : Tile} {i : Fin 10} (hi : i.val < 8) (hf : (tl.cur.agents[i]).st = .free)
    (hlow : ∀ j : Fin 10, j < i → (tl.cur.agents[j]).st ≠ .free) : tl.freeSlot = some i := by
  have hsplit : ∀ i : Fin 10, List.finRange 10 = (List.finRange 10).take i ++ i :: (List.finRange 10).drop (i + 1) := by decide
  have hbelow : ∀ i : Fin 10, ∀ j ∈ (List.finRange 10).take i, j < i := by decide
  refine List.find?_eq_some_iff_append.mpr ⟨?_, _, _, hsplit i, fun j hj => ?_⟩
  · rw [hf, decide_eq_true hi]
    rfl
  · rw [decide_eq_false (hlow j (hbelow i j hj)), Bool.and_false]
    rfl

theorem Tile.freeSlot_eq_none {tl : Tile} (h : ∀ i : Fin 10, i.val < 8 → (tl.cur.agents[i]).st ≠ .free) : tl.freeSlot = none := by
  refine List.find?_eq_none.mpr fun i _ => ?_
  simpa using h i

/-- The registers of a strand that `spawn` starts: its four arguments, and 0. -/
theorem childOf_rx (g : Agent) (t : W) (prio : BitVec 3) (r : BitVec 5) :
    (childOf g t prio).rx r = if 3 ≤ r.toNat ∧ r.toNat ≤ 6 then g.rx r else 0 := by
  have hcases : r = 3 ∨ r = 4 ∨ r = 5 ∨ r = 6 ∨ ¬(3 ≤ r.toNat ∧ r.toNat ≤ 6) := by
    simp only [← BitVec.toNat_inj, BitVec.reduceToNat]
    omega
  rcases hcases with rfl | rfl | rfl | rfl | h
  · rfl
  · rfl
  · rfl
  · rfl
  · rw [if_neg h]
    have hne (k : Nat) (h3 : 3 ≤ k) (h6 : k ≤ 6) : k ≠ r.toNat := by omega
    simp only [Agent.rx, childOf, Agent.reset, Fin.getElem_fin, BitVec.val_toFin, Vector.getElem_set, Vector.getElem_replicate,
      hne 3 (by decide) (by decide), hne 4 (by decide) (by decide), hne 5 (by decide) (by decide), hne 6 (by decide) (by decide), if_false, ite_self]

theorem childOf_rp (g : Agent) (t : W) (prio : BitVec 3) {r : BitVec 3} (h : r ≠ 0) : (childOf g t prio).rp r = false := by
  rw [Agent.rp, if_neg h]
  exact Vector.getElem_replicate ..

theorem childOf_rv (g : Agent) (t : W) (prio : BitVec 3) (r : BitVec 5) : (childOf g t prio).rv r = 0 := Vector.getElem_replicate ..

/-- A new context for another agent, then one for the agent of the turn, which goes on. -/
theorem State.spawn_does {s : State} {w : Who} (hw : s.turn ≠ w) (c g : Agent) :
    ∃ t, (s.setAgentOf w c).done g = .next t ∧ t.agentOf s.turn = g.past ∧ KeepsBut [s.turn, w] s t ∧ t.agentOf w = c := by
  have hturn : (s.setAgentOf w c).turn = s.turn := s.turn_setAgentOf w c
  have hchild := s.setAgentOf_keepsBut (w := w) (l := [s.turn, w]) (by simp) c
  have hset (l : List Who) (hl : s.turn ∈ l) := (s.setAgentOf w c).setAgentOf_keepsBut hl g.past
  have hretire (l : List Who) := ((s.setAgentOf w c).setAgentOf s.turn g.past).retire_keepsBut l s.turn
  refine ⟨((s.setAgentOf w c).setAgentOf s.turn g.past).retire s.turn, ?_, ?_, hchild.trans ((hset _ (by simp)).trans (hretire _)), ?_⟩
  · rw [State.done, State.setMe, hturn]
    rfl
  · rw [(hretire []).2.1 _ List.not_mem_nil, State.agentOf_setAgentOf_self]
  · rw [(hretire []).2.1 _ List.not_mem_nil, (hset [s.turn] (by simp)).2.1 _ (by simpa using hw.symm), State.agentOf_setAgentOf_self]

section spawn
variable {s : State} {u : Nat} {me : Fin 10} {d a : BitVec 5} {n : BitVec 3} {q : BitVec 1}

/-- The priority of the strand that `spawn` starts. -/
def State.childPrio (s : State) (n : BitVec 3) (q : BitVec 1) : BitVec 3 := if q = 1 then s.me.prio else n

theorem execSpawn_starts (hw : s.turn = .tile u me) (hme : me.val < 8) (h4 : (s.rx a).toNat % 4 = 0) (hm : (s.rx a).toNat < Config.tmSize)
    {i : Fin 10} (hi : (s.tile u).freeSlot = some i) (hd : s.drained) (hother : s.turn ≠ .tile u i) :
    exec (.spawn d a n q) s =
      (s.setAgentOf (.tile u i) (childOf s.me (s.rx a) (s.childPrio n q))).done (s.me.wx d (BitVec.ofNat 64 i.val)) := by
  have he : exec (.spawn d a n q) s = execSpawn d a n q s := rfl
  have hu : s.here = u := by rw [State.here, hw]
  rw [he, execSpawn, State.onWork_eq ⟨u, me, hw, hme⟩]
  dsimp only
  rw [if_neg (not_not.mpr h4), if_neg (Nat.not_le.mpr hm), hu, hi]
  have hme : (s.setAgentOf (.tile u i) (childOf s.me (s.rx a) (s.childPrio n q))).me = s.me := s.agentOf_setAgentOf_ne _ hother
  refine (State.release_of_drained _ hd).trans ?_
  rw [State.doneX, hu]
  exact congrArg (fun g : Agent => (s.setAgentOf (.tile u i) (childOf s.me (s.rx a) (s.childPrio n q))).done (g.wx d (BitVec.ofNat 64 i.val))) hme

theorem execSpawn_inline (hw : s.turn = .tile u me) (hme : me.val < 8) (h4 : (s.rx a).toNat % 4 = 0) (hm : (s.rx a).toNat < Config.tmSize)
    (hi : (s.tile u).freeSlot = none) :
    exec (.spawn d a n q) s = s.goto { ((s.me.wx d 8).wx 1 (s.me.pc + 4)) with depth := s.me.depth + 1 } (s.rx a) := by
  have he : exec (.spawn d a n q) s = execSpawn d a n q s := rfl
  have hu : s.here = u := by rw [State.here, hw]
  rw [he, execSpawn, State.onWork_eq ⟨u, me, hw, hme⟩]
  dsimp only
  rw [if_neg (not_not.mpr h4), if_neg (Nat.not_le.mpr hm), hu, hi]

end spawn

/-- Settles O10: `yield` and the fences end with a context, `exit` with a transfer or with the end of its agent, `spawn` with a child put
in a slot, or with a jump. -/
theorem strandsEndAndStart : Obligations.StrandsEndAndStart := by
  refine ⟨fun s => ⟨fun h => ?_, fun h => ?_, fun h => ⟨?_, ?_⟩, fun h => ?_, fun hd he h4 hm => ?_, fun hd he hs => ?_⟩,
    fun s u me d a n q hw hme => ?_⟩
  · exact completes_of_done (execYield_eq s (if_pos (State.kind_eq_work h)))
  · exact completes_of_done (execYield_eq s (if_neg (State.kind_ne_work h)))
  · exact completes_of_done (State.release_of_drained _ h)
  · exact completes_of_done (State.release_of_drained _ h)
  · exact completes_of_done (execFenceAcq_eq h)
  · exact (transfer_does (execExit_inline hd he)).1 ⟨h4, hm⟩
  · obtain ⟨hctx, hkeep⟩ := State.endAgent_keepsBut hs
    have hretire (l : List Who) := s.endAgent.retire_keepsBut l s.turn
    obtain ⟨hrest, hagents, hbytes⟩ := hkeep.trans (hretire _)
    refine ⟨_, execExit_ends hd he, ((hretire []).2.1 _ List.not_mem_nil).trans hctx, hrest, fun w hw => hagents w (by simpa using hw), hbytes,
      fun u a hw => ?_⟩
    obtain ⟨hcur, hrec⟩ := s.endAgent.tile_retire s.turn u
    rw [hcur, hrec]
    exact State.endAgent_tileParts hw hs
  · intro T h4 hm
    refine ⟨fun i hi hf hlow hne hdr => ?_, fun hnone => ?_⟩
    · have hslot : (s.tile u).freeSlot = some i := Tile.freeSlot_eq_some hi hf hlow
      have hother : s.turn ≠ .tile u i := fun e => hne (by cases hw.symm.trans e; rfl)
      obtain ⟨t, ht, hctx, hkeep, hchild⟩ := State.spawn_does hother (childOf s.me T (s.childPrio n q)) (s.me.wx d (BitVec.ofNat 64 i.val))
      obtain ⟨-, hagents, hbytes⟩ := hkeep
      refine ⟨t, (execSpawn_starts hw hme h4 hm hslot hdr hother).trans ht, hctx, fun w h1 h2 => hagents w (by simp [h1, h2]), hbytes, ?_⟩
      rw [hchild]
      exact ⟨rfl, rfl, rfl, rfl, rfl, rfl, rfl, fun r => childOf_rx .., fun r hr => childOf_rp _ _ _ hr, fun r => childOf_rv .., rfl, rfl⟩
    · unfold Completes CompletesIn
      rw [execSpawn_inline hw hme h4 hm (Tile.freeSlot_eq_none hnone)]
      exact s.goto_does _ _

end Sys2Proof.Machine
end

/-! The issue of haul operations: the checks of R205 in the order of their codes, then the queue (R201, R204-R206, R220). -/
section
namespace Sys2Proof.Machine

/-! ## The rows of a record (R201) -/

/-- A record row has at least 64 bytes, and a multiple of 8. -/
theorem rowBytes_spec (f : Nat) : 64 ≤ rowBytes f ∧ 8 ∣ rowBytes f := by
  by_cases h : f < 16
  · have hall : ∀ f < 16, 64 ≤ rowBytes f ∧ 8 ∣ rowBytes f := by decide
    exact hall f h
  · rw [rowBytes, List.getD_eq_default _ _ (Nat.le_of_not_lt h)]
    decide

/-- Within a row the addresses rise by one. -/
theorem recAddr_add {r : Rec} {j i : Nat} (hj : rowBytes (recFormat r) ∣ j) (hi : i < rowBytes (recFormat r)) :
    recAddr r (j + i) = recAddr r j + i := by
  obtain ⟨q, rfl⟩ := hj
  have hdiv : (rowBytes (recFormat r) * q + i) / rowBytes (recFormat r) = q := by
    rw [Nat.mul_add_div (by omega), Nat.div_eq_of_lt hi, Nat.add_zero]
  have hmod : (rowBytes (recFormat r) * q + i) % rowBytes (recFormat r) = i := by rw [Nat.mul_add_mod, Nat.mod_eq_of_lt hi]
  simp only [recAddr, hdiv, hmod, Nat.mul_div_cancel_left _ (show 0 < rowBytes (recFormat r) by omega), Nat.mul_mod_right, Nat.add_zero]

/-- Data bytes `j` to `j + n - 1` of a record as runs, each inside one row and from its first byte on. -/
inductive RowRuns (r : Rec) : Nat → Nat → List (Nat × Nat) → Prop
  | nil (j : Nat) : RowRuns r j 0 []
  | cons {j m n : Nat} {l : List (Nat × Nat)} (hj : rowBytes (recFormat r) ∣ j) (h0 : 0 < m) (hm : m ≤ rowBytes (recFormat r))
      (h : RowRuns r (j + m) n l) : RowRuns r j (m + n) ((recAddr r j, m) :: l)

theorem recRuns_rowRuns (r : Rec) : ∀ (fuel j n : Nat), rowBytes (recFormat r) ∣ j → n ≤ 64 * fuel → RowRuns r j n (recRuns r fuel j n)
  | 0, j, n, _, hn => by
    obtain rfl : n = 0 := by omega
    exact .nil j
  | fuel + 1, j, n, hj, hn => by
    obtain ⟨h64, -⟩ := rowBytes_spec (recFormat r)
    unfold recRuns
    split
    · next h => exact h ▸ .nil j
    · next h =>
      dsimp only
      rw [Nat.mod_eq_zero_of_dvd hj, Nat.sub_zero]
      generalize hm : Nat.min n (rowBytes (recFormat r)) = m
      have hmn : m ≤ n := hm ▸ Nat.min_le_left ..
      have hmr : m ≤ rowBytes (recFormat r) := hm ▸ Nat.min_le_right ..
      have hrest : RowRuns r (j + m) (n - m) (recRuns r fuel (j + m) (n - m)) := by
        rcases Nat.lt_or_ge m (rowBytes (recFormat r)) with hlt | hge
        · have hall : n - m = 0 := by
            have hmin : min n (rowBytes (recFormat r)) = m := hm
            omega
          rw [hall]
          cases fuel <;> exact .nil _
        · obtain rfl := Nat.le_antisymm hmr hge
          exact recRuns_rowRuns r fuel _ _ (Nat.dvd_add hj (Nat.dvd_refl _)) (by omega)
      have h0 : 0 < m := hm ▸ Nat.lt_min.mpr ⟨by omega, by omega⟩
      have hcons := RowRuns.cons hj h0 hmr hrest
      rwa [Nat.add_sub_of_le hmn] at hcons

theorem runsOf_rowRuns (r : Rec) (n : Nat) : RowRuns r 0 n (runsOf r 0 n) := recRuns_rowRuns r _ _ _ (Nat.dvd_zero _) (by omega)

/-! ## The first place of a range that has a property -/

/-- The first of the `n` numbers from `j` on that has property `p`. -/
def FirstFrom (p : Nat → Prop) (j n : Nat) : Option Nat → Prop
  | none => ∀ i, j ≤ i → i < j + n → ¬p i
  | some i => j ≤ i ∧ i < j + n ∧ p i ∧ ∀ k, j ≤ k → k < i → ¬p k

namespace FirstFrom
variable {p : Nat → Prop} {j m n : Nat} {o : Option Nat}

/-- Where none of the first `m` numbers has the property, the first one lies behind them. -/
theorem skip (hn : FirstFrom p j m none) (h : FirstFrom p (j + m) n o) : FirstFrom p j (m + n) o := by
  cases o with
  | none => exact fun i h1 h2 => if hi : i < j + m then hn i h1 hi else h i (by omega) (by omega)
  | some i =>
    obtain ⟨hlo, hhi, hp, hbelow⟩ := h
    exact ⟨by omega, by omega, hp, fun k h1 h2 => if hk : k < j + m then hn k h1 hk else hbelow k (by omega) h2⟩

/-- A first number among the first `m` is the first of all. -/
theorem extend {i : Nat} (h : FirstFrom p j m (some i)) (n : Nat) : FirstFrom p j (m + n) (some i) :=
  ⟨h.1, by have := h.2.1; omega, h.2.2⟩

theorem eq_some {i : Nat} (h : FirstFrom p 0 n o) (hi : i < n) (hp : p i) (hlow : ∀ k, k < i → ¬p k) : o = some i := by
  cases o with
  | none => exact absurd hp (h i (Nat.zero_le _) (by omega))
  | some k =>
    obtain ⟨-, -, hk, hbelow⟩ := h
    rcases Nat.lt_trichotomy k i with hlt | rfl | hgt
    · exact absurd hk (hlow k hlt)
    · rfl
    · exact absurd hp (hbelow i (Nat.zero_le _) hgt)

theorem eq_none (h : FirstFrom p 0 n o) (hnone : ∀ i, i < n → ¬p i) : o = none := by
  cases o with
  | none => rfl
  | some k => exact absurd h.2.2.1 (hnone k (by have := h.2.1; omega))

end FirstFrom

/-! ## What the checks find in the runs of a record -/

/-- The first data byte above tile memory, with its address. -/
theorem RowRuns.firstOutAt {r : Rec} {j n : Nat} {l : List (Nat × Nat)} (h : RowRuns r j n l) :
    ∃ o, FirstFrom (fun i => Config.tmSize ≤ recAddr r i) j n o ∧ firstOutAt j l = o.map fun i => (i, recAddr r i) := by
  induction h with
  | nil j => exact ⟨none, fun i h1 h2 => absurd h2 (by omega), rfl⟩
  | @cons j m n l hj h0 hm _ ih =>
    obtain ⟨o, ho, he⟩ := ih
    have haddr (i : Nat) (hi : i < m) : recAddr r (j + i) = recAddr r j + i := recAddr_add hj (by omega)
    unfold Machine.firstOutAt
    dsimp only
    split
    · next hin =>
      refine ⟨o, .skip (fun i h1 h2 => ?_) ho, he⟩
      obtain ⟨k, rfl⟩ := Nat.exists_eq_add_of_le h1
      rw [haddr k (by omega)]
      omega
    · next hin =>
      have hlt : Config.tmSize - recAddr r j < m := by omega
      refine ⟨some (j + (Config.tmSize - recAddr r j)), .extend ⟨by omega, by omega, ?_, fun k h1 h2 => ?_⟩ n, ?_⟩
      · rw [haddr _ hlt]
        omega
      · obtain ⟨k, rfl⟩ := Nat.exists_eq_add_of_le h1
        rw [haddr k (by omega)]
        omega
      · simp only [Option.map_some, haddr _ hlt, Option.some.injEq, Prod.mk.injEq, true_and]
        exact (Nat.max_def ..).trans (by split <;> omega)

/-- The first element off its alignment lies at the start of a row. -/
theorem RowRuns.firstOdd {r : Rec} {j n size : Nat} {l : List (Nat × Nat)} (hrow : size ∣ rowBytes (recFormat r))
    (h : RowRuns r j n l) :
    ∃ o, FirstFrom (fun i => size ∣ i ∧ recAddr r i % size ≠ 0) j n o ∧ firstOdd size l = o.map fun i => recAddr r i := by
  induction h with
  | nil j => exact ⟨none, fun i h1 h2 => absurd h2 (by omega), rfl⟩
  | @cons j m n l hj h0 hm _ ih =>
    obtain ⟨o, ho, he⟩ := ih
    have hjs : size ∣ j := Nat.dvd_trans hrow hj
    rw [Machine.firstOdd] at he ⊢
    by_cases hz : recAddr r j % size = 0
    · refine ⟨o, .skip (fun i h1 h2 ⟨hi, hodd⟩ => hodd ?_) ho, ?_⟩
      · obtain ⟨k, rfl⟩ := Nat.exists_eq_add_of_le h1
        rw [recAddr_add hj (by omega), Nat.add_mod, hz, Nat.mod_eq_zero_of_dvd ((Nat.dvd_add_right hjs).mp hi)]
        exact Nat.zero_mod _
      · rw [List.findSome?_cons, if_pos hz]
        exact he
    · refine ⟨some j, .extend ⟨Nat.le_refl _, by omega, ⟨hjs, hz⟩, fun k h1 h2 => absurd h2 (by omega)⟩ n, ?_⟩
      rw [List.findSome?_cons, if_neg hz]
      rfl

/-- A run touches a kept segment where one of its bytes lies in one. -/
theorem Tile.keptRuns_rowRuns {tl : Tile} {r : Rec} {j n : Nat} {l : List (Nat × Nat)} (h : RowRuns r j n l) :
    tl.keptRuns l = true ↔ ∃ i, j ≤ i ∧ i < j + n ∧ tl.kept (recAddr r i / 65536) = true := by
  induction h with
  | nil j => exact ⟨nofun, fun ⟨i, h1, h2, _⟩ => absurd h2 (by omega)⟩
  | @cons j m n l hj h0 hm _ ih =>
    have haddr (i : Nat) (hi : i < m) : recAddr r (j + i) = recAddr r j + i := recAddr_add hj (by omega)
    have hrun : ((List.range ((recAddr r j + m - 1) / 65536 + 1 - recAddr r j / 65536)).any fun i => tl.kept (recAddr r j / 65536 + i)) = true ↔
        ∃ i, i < m ∧ tl.kept ((recAddr r j + i) / 65536) = true := by
      simp only [List.any_eq_true, List.mem_range]
      constructor
      · rintro ⟨q, hq, hk⟩
        have hseg : (recAddr r j + (65536 * (recAddr r j / 65536 + q) - recAddr r j)) / 65536 = recAddr r j / 65536 + q := by omega
        exact ⟨65536 * (recAddr r j / 65536 + q) - recAddr r j, by omega, hseg.symm ▸ hk⟩
      · rintro ⟨i, hi, hk⟩
        refine ⟨(recAddr r j + i) / 65536 - recAddr r j / 65536, by omega, ?_⟩
        rwa [Nat.add_sub_of_le (Nat.div_le_div_right (Nat.le_add_right ..))]
    have hall : tl.keptRuns ((recAddr r j, m) :: l) = true ↔
        (∃ i, i < m ∧ tl.kept ((recAddr r j + i) / 65536) = true) ∨ tl.keptRuns l = true := by
      rw [← hrun, Tile.keptRuns, List.any_cons, Bool.or_eq_true]
      rfl
    rw [hall, ih]
    constructor
    · rintro (⟨i, hi, hk⟩ | ⟨i, h1, h2, hk⟩)
      · exact ⟨j + i, by omega, by omega, (haddr i hi).symm ▸ hk⟩
      · exact ⟨i, by omega, by omega, hk⟩
    · rintro ⟨i, h1, h2, hk⟩
      by_cases hi : i < j + m
      · obtain ⟨k, rfl⟩ := Nat.exists_eq_add_of_le h1
        exact .inl ⟨k, by omega, haddr k (by omega) ▸ hk⟩
      · exact .inr ⟨i, by omega, by omega, hk⟩

/-! ## The checks over the records of an operation -/

/-- The runs of the first `n` data bytes of a record, where there is one. -/
def optRuns (y : Option Rec) (n : Nat) : List (Nat × Nat) := y.elim [] fun x => runsOf x 0 n

/-- Data byte `j` of a record, where there is one, lies above tile memory. -/
def AboveTm (y : Option Rec) (j : Nat) : Prop := ∃ x, y = some x ∧ 0x1F0000 ≤ recAddr x j

/-- The first data byte of an optional record above tile memory. -/
theorem firstOutAt_optRuns (y : Option Rec) (n : Nat) :
    ∃ o, FirstFrom (AboveTm y) 0 n o ∧ firstOutAt 0 (optRuns y n) = o.bind fun i => y.map fun x => (i, recAddr x i) := by
  cases y with
  | none =>
    have hnone : FirstFrom (AboveTm none) 0 n none := fun _ _ _ h => by obtain ⟨x, hx, -⟩ := h; cases hx
    exact ⟨none, hnone, rfl⟩
  | some x =>
    obtain ⟨o, ho, he⟩ := (runsOf_rowRuns x n).firstOutAt
    have hp : (AboveTm (some x)) = fun i => Config.tmSize ≤ recAddr x i :=
      funext fun i => propext ⟨fun ⟨z, hz, h⟩ => by cases hz; exact h, fun h => ⟨x, rfl, h⟩⟩
    exact ⟨o, hp ▸ ho, he.trans (by cases o <;> rfl)⟩

section rangeFault
variable {src dst : Option Rec} {n j : Nat} {x : Rec}

/-- The source's byte comes first. -/
theorem rangeFault_src (hj : j < n) (hlow : ∀ i, i < j → ¬(AboveTm src i ∨ AboveTm dst i)) (hx : src = some x) (ha : 0x1F0000 ≤ recAddr x j) :
    rangeFault (optRuns src n) (optRuns dst n) = some (recAddr x j) := by
  obtain ⟨o, ho, he⟩ := firstOutAt_optRuns src n
  obtain ⟨q, hq, hf⟩ := firstOutAt_optRuns dst n
  obtain rfl := ho.eq_some hj ⟨x, hx, ha⟩ fun i hi h => hlow i hi (.inl h)
  rw [rangeFault, he, hf, hx]
  cases q with
  | none => rfl
  | some k =>
    obtain ⟨-, -, hk, -⟩ := hq
    obtain ⟨y, rfl, hy⟩ := hk
    have hjk : ¬k < j := fun h => hlow k h (.inr ⟨y, rfl, hy⟩)
    exact if_neg hjk

/-- The destination's byte comes before every one of the source. -/
theorem rangeFault_dst (hj : j < n) (hlow : ∀ i, i < j → ¬(AboveTm src i ∨ AboveTm dst i)) (hsrc : ¬AboveTm src j) (hx : dst = some x)
    (ha : 0x1F0000 ≤ recAddr x j) : rangeFault (optRuns src n) (optRuns dst n) = some (recAddr x j) := by
  obtain ⟨o, ho, he⟩ := firstOutAt_optRuns src n
  obtain ⟨q, hq, hf⟩ := firstOutAt_optRuns dst n
  obtain rfl := hq.eq_some hj ⟨x, hx, ha⟩ fun i hi h => hlow i hi (.inr h)
  rw [rangeFault, he, hf, hx]
  cases o with
  | none => rfl
  | some k =>
    obtain ⟨-, -, hk, -⟩ := ho
    have hjk : j < k := by
      rcases Nat.lt_trichotomy k j with h | h | h
      · exact absurd (.inl hk) (hlow k h)
      · exact absurd (h ▸ hk) hsrc
      · exact h
    obtain ⟨y, rfl, hy⟩ := hk
    exact if_pos hjk

theorem rangeFault_none (h : ∀ i, i < n → ¬(AboveTm src i ∨ AboveTm dst i)) : rangeFault (optRuns src n) (optRuns dst n) = none := by
  obtain ⟨o, ho, he⟩ := firstOutAt_optRuns src n
  obtain ⟨q, hq, hf⟩ := firstOutAt_optRuns dst n
  obtain rfl := ho.eq_none fun i hi hp => h i hi (.inl hp)
  obtain rfl := hq.eq_none fun i hi hp => h i hi (.inr hp)
  rw [rangeFault, he, hf]
  rfl

theorem Tile.keptRuns_runsOf {tl : Tile} (r : Rec) (n : Nat) :
    tl.keptRuns (runsOf r 0 n) = true ↔ ∃ i, i < n ∧ tl.kept (recAddr r i / 65536) = true := by
  rw [Tile.keptRuns_rowRuns (runsOf_rowRuns r n)]
  exact exists_congr fun i => ⟨fun ⟨_, h, hk⟩ => ⟨by omega, hk⟩, fun ⟨h, hk⟩ => ⟨Nat.zero_le _, by omega, hk⟩⟩

end rangeFault

/-! ## The check of the alignment (R216) -/

/-- The address of the check of alignment of an operation, where it fails. -/
def HaulOp.oddAt (o : HaulOp) : Option Nat :=
  match o.kind with
  | .hred f =>
    if o.va % hredSize f ≠ 0 then some o.va
    else
      match firstOdd (hredSize f) (o.reads ++ o.writes) with
      | some a => some a
      | none => if o.n % hredSize f ≠ 0 then some (recAddr o.src (o.n / hredSize f * hredSize f)) else none
  | _ => none

theorem hredSize_spec (f : Nat) : 0 < hredSize f ∧ hredSize f ∣ 8 := by
  rw [hredSize]
  split <;> decide

/-- Element `j` of an operation of `n` bytes is off its alignment, or is not whole. -/
def OddElem (src : Option Rec) (n size j : Nat) : Prop :=
  0 < size ∧ size * j < n ∧ ∃ x, src = some x ∧ (recAddr x (size * j) % size ≠ 0 ∨ n < size * j + size)

theorem oddElem_iff {x : Rec} {n size j : Nat} :
    OddElem (some x) n size j ↔ 0 < size ∧ size * j < n ∧ (recAddr x (size * j) % size ≠ 0 ∨ n < size * j + size) := by
  simp only [OddElem, Option.some.injEq, exists_eq_left']

section odd
variable {o : HaulOp} {f j : Nat}

theorem HaulOp.oddAt_hred (hk : o.kind = .hred f) : o.oddAt =
    if o.va % hredSize f ≠ 0 then some o.va
    else ((firstOdd (hredSize f) (runsOf o.src 0 o.n)).or
      (if o.n % hredSize f ≠ 0 then some (recAddr o.src (o.n / hredSize f * hredSize f)) else none)) := by
  have hr : o.reads ++ o.writes = runsOf o.src 0 o.n := by simp only [HaulOp.reads, HaulOp.writes, hk, List.append_nil]
  rw [HaulOp.oddAt, hk]
  dsimp only
  rw [hr]
  split
  · rfl
  · cases firstOdd (hredSize f) (runsOf o.src 0 o.n) <;> rfl

theorem HaulOp.oddAt_other (hk : ∀ f, o.kind ≠ .hred f) : o.oddAt = none := by
  unfold HaulOp.oddAt
  split
  · next f h => exact absurd h (hk f)
  · rfl

/-- The start of the first row off the alignment of a reduction, as a place in its data. -/
theorem hred_firstOdd (r : Rec) (n f : Nat) :
    ∃ q, FirstFrom (fun i => hredSize f ∣ i ∧ recAddr r i % hredSize f ≠ 0) 0 n q ∧
      firstOdd (hredSize f) (runsOf r 0 n) = q.map fun i => recAddr r i :=
  (runsOf_rowRuns r n).firstOdd ((hredSize_spec f).2.trans (rowBytes_spec _).2)

/-- The first element off its alignment, or not whole, is the address that the check gives. -/
theorem HaulOp.oddAt_first (hk : o.kind = .hred f) (hva : o.va % hredSize f = 0) (hj : OddElem (some o.src) o.n (hredSize f) j)
    (hlow : ∀ i, i < j → ¬OddElem (some o.src) o.n (hredSize f) i) : o.oddAt = some (recAddr o.src (hredSize f * j)) := by
  obtain ⟨q, hq, he⟩ := hred_firstOdd o.src o.n f
  obtain ⟨hpos, hlt, hodd⟩ := oddElem_iff.mp hj
  rw [HaulOp.oddAt_hred hk, if_neg (not_not.mpr hva), he]
  cases q with
  | some i =>
    obtain ⟨-, hin, ⟨⟨k, rfl⟩, hkodd⟩, hbelow⟩ := hq
    have hjk : j ≤ k := Nat.le_of_not_lt fun h => hlow k h (oddElem_iff.mpr ⟨hpos, by omega, .inl hkodd⟩)
    rcases Nat.lt_or_eq_of_le hjk with h | rfl
    · have hmul : hredSize f * (j + 1) ≤ hredSize f * k := Nat.mul_le_mul_left _ h
      rw [Nat.mul_add, Nat.mul_one] at hmul
      have haligned := hbelow (hredSize f * j) (Nat.zero_le _) (by omega)
      exact absurd ⟨⟨j, rfl⟩, hodd.resolve_right (by omega)⟩ haligned
    · rfl
  | none =>
    have haligned : recAddr o.src (hredSize f * j) % hredSize f = 0 := by
      by_contra h
      exact hq _ (Nat.zero_le _) (by omega) ⟨⟨j, rfl⟩, h⟩
    have hpart : o.n < hredSize f * j + hredSize f := hodd.resolve_left (not_not.mpr haligned)
    have hdiv : o.n / hredSize f = j := Nat.div_eq_of_lt_le (by rw [Nat.mul_comm]; omega) (by rw [Nat.add_mul, Nat.one_mul, Nat.mul_comm]; exact hpart)
    have hmod : o.n % hredSize f ≠ 0 := by
      have := Nat.div_add_mod o.n (hredSize f)
      rw [hdiv] at this
      omega
    rw [Option.map_none, Option.none_or, if_pos hmod, hdiv, Nat.mul_comm]

theorem HaulOp.oddAt_none (hk : o.kind = .hred f) (hva : o.va % hredSize f = 0) (hall : ∀ i, ¬OddElem (some o.src) o.n (hredSize f) i) :
    o.oddAt = none := by
  obtain ⟨q, hq, he⟩ := hred_firstOdd o.src o.n f
  have hpos := (hredSize_spec f).1
  have hwhole : o.n % hredSize f = 0 := by
    by_contra h
    have := Nat.div_add_mod o.n (hredSize f)
    have := Nat.mod_lt o.n hpos
    exact hall (o.n / hredSize f) (oddElem_iff.mpr ⟨hpos, by omega, .inr (by omega)⟩)
  obtain rfl := hq.eq_none fun i hi ⟨⟨k, hik⟩, hodd⟩ => hall k (oddElem_iff.mpr ⟨hpos, hik ▸ hi, .inl (hik ▸ hodd)⟩)
  rw [HaulOp.oddAt_hred hk, if_neg (not_not.mpr hva), he, if_neg (not_not.mpr hwhole)]
  rfl

end odd

/-- Whether an operation has a virtual address. -/
def HaulKind.usesVa : HaulKind → Bool
  | .copy | .csend => false
  | _ => true

theorem HaulKind.usesVa_iff (k : HaulKind) : k.usesVa = true ↔ k ≠ .copy ∧ k ≠ .csend := by cases k <;> simp [HaulKind.usesVa]

/-! ## The checks in order -/

theorem Tile.haulCheck_eq (tl : Tile) (o : HaulOp) (ln : W) : tl.haulCheck o ln =
    match o.oddAt with
    | some a => some (0x03, BitVec.ofNat 64 a)
    | none =>
      match rangeFault o.reads o.writes with
      | some a => some (0x04, BitVec.ofNat 64 a)
      | none =>
        if decide (o.kind = .stage) && recCheck o.dst && decide (recExtent o.dst < o.n) then some (0x05, ln)
        else if decide (o.kind = .stage) && decide (0 < o.n) && decide (256 ≤ tl.pfNext.length) then some (0x05, ln)
        else if o.kind.usesVa && decide (2 ^ 52 ≤ o.va + (o.n - 1)) then some (0x07, BitVec.ofNat 64 o.va)
        else if decide (o.kind = .stage) && tl.keptRuns o.writes then some (0x07, BitVec.ofNat 64 o.va)
        else none := by rfl

/-- A `stage` is longer than its record, or the page-fetch list is full (R205, R211). -/
def Tile.stageFull (tl : Tile) (o : HaulOp) : Prop :=
  o.kind = .stage ∧ (recCheck o.dst = true ∧ recExtent o.dst < o.n ∨ 0 < o.n ∧ 256 ≤ tl.pfNext.length)

/-- An operation reaches past the virtual addresses, or a `stage` reaches a kept segment (R205, R212). -/
def Tile.haulFar (tl : Tile) (o : HaulOp) : Prop :=
  (o.kind ≠ .copy ∧ o.kind ≠ .csend) ∧ 2 ^ 52 ≤ o.va + (o.n - 1) ∨ o.kind = .stage ∧ tl.keptRuns o.writes = true

section checks
variable {tl : Tile} {o : HaulOp} {ln : W} {a : Nat}

theorem Tile.haulCheck_odd (h : o.oddAt = some a) : tl.haulCheck o ln = some (0x03, BitVec.ofNat 64 a) := by
  rw [Tile.haulCheck_eq, h]

theorem Tile.haulCheck_out (h : o.oddAt = none) (hr : rangeFault o.reads o.writes = some a) :
    tl.haulCheck o ln = some (0x04, BitVec.ofNat 64 a) := by
  rw [Tile.haulCheck_eq, h, hr]

theorem Tile.haulCheck_full (h : o.oddAt = none) (hr : rangeFault o.reads o.writes = none) (hf : tl.stageFull o) :
    tl.haulCheck o ln = some (0x05, ln) := by
  obtain ⟨hs, hf⟩ := hf
  simp only [Tile.haulCheck_eq, h, hr, hs, decide_true, Bool.true_and, Bool.and_eq_true, decide_eq_true_eq]
  rcases hf with hf | hf
  · rw [if_pos hf]
  · rw [if_pos hf, ite_self]

theorem Tile.haulCheck_not_full (h : o.oddAt = none) (hr : rangeFault o.reads o.writes = none) (hf : ¬tl.stageFull o) :
    tl.haulCheck o ln =
      if o.kind.usesVa && decide (2 ^ 52 ≤ o.va + (o.n - 1)) then some (0x07, BitVec.ofNat 64 o.va)
      else if decide (o.kind = .stage) && tl.keptRuns o.writes then some (0x07, BitVec.ofNat 64 o.va)
      else none := by
  simp only [Tile.haulCheck_eq, h, hr]
  rw [if_neg fun hc => hf ?_, if_neg fun hc => hf ?_]
  all_goals simp only [Bool.and_eq_true, decide_eq_true_eq] at hc
  · exact ⟨hc.1.1, .inr ⟨hc.1.2, hc.2⟩⟩
  · exact ⟨hc.1.1, .inl ⟨hc.1.2, hc.2⟩⟩

theorem Tile.haulCheck_far (h : o.oddAt = none) (hr : rangeFault o.reads o.writes = none) (hf : ¬tl.stageFull o) (hfar : tl.haulFar o) :
    tl.haulCheck o ln = some (0x07, BitVec.ofNat 64 o.va) := by
  simp only [Tile.haulCheck_not_full h hr hf, Bool.and_eq_true, decide_eq_true_eq, HaulKind.usesVa_iff]
  rcases hfar with hc | hc
  · rw [if_pos hc]
  · rw [if_pos hc, ite_self]

theorem Tile.haulCheck_passes (h : o.oddAt = none) (hr : rangeFault o.reads o.writes = none) (hf : ¬tl.stageFull o) (hfar : ¬tl.haulFar o) :
    tl.haulCheck o ln = none := by
  simp only [Tile.haulCheck_not_full h hr hf, Bool.and_eq_true, decide_eq_true_eq, HaulKind.usesVa_iff]
  rw [if_neg fun hc => hfar (.inl hc), if_neg fun hc => hfar (.inr hc)]

end checks

/-! ## The queue (R206) -/

/-- Instruction `i` issues an operation of at most two records. -/
structure IssuesHaul (s : State) (i : Instr) (o : HaulOp) (src dst : Option Rec) (size : Nat) (stage : Bool) (ln : W) : Prop where
  exec : exec i s = s.haulIssue o ln
  reads : o.reads = optRuns src o.n
  writes : o.writes = optRuns dst o.n
  elems : size = 0 ∧ (∀ f, o.kind ≠ .hred f) ∨ ∃ f, o.kind = .hred f ∧ size = hredSize f ∧ src = some o.src
  stages : stage = decide (o.kind = .stage)
  sends : o.kind ≠ .csend

namespace IssuesHaul
variable {s : State} {i : Instr} {o : HaulOp} {src dst : Option Rec} {size : Nat} {stage : Bool} {ln : W} {j : Nat} {x : Rec}

theorem traps (h : IssuesHaul s i o src dst size stage ln) {code : Nat} {faddr : W} (hc : (s.tile s.here).haulCheck o ln = some (code, faddr)) :
    Traps i s code faddr := by
  refine traps_of_trap (h.exec.trans ?_)
  rw [State.haulIssue, hc]

theorem oddAt_va (h : IssuesHaul s i o src dst size stage ln) (hs : 0 < size) (hva : o.va % size ≠ 0) : o.oddAt = some o.va := by
  obtain ⟨h0, -⟩ | ⟨f, hk, rfl, -⟩ := h.elems
  · omega
  · rw [HaulOp.oddAt_hred hk, if_pos hva]

theorem oddAt_first (h : IssuesHaul s i o src dst size stage ln) (hva : 0 < size → o.va % size = 0) (hx : src = some x)
    (hj : OddElem src o.n size j) (hlow : ∀ k, k < j → ¬OddElem src o.n size k) : o.oddAt = some (recAddr x (size * j)) := by
  obtain ⟨h0, -⟩ | ⟨f, hk, rfl, hsrc⟩ := h.elems
  · exact absurd hj.1 (by omega)
  · cases hsrc
    cases hx
    exact HaulOp.oddAt_first hk (hva hj.1) hj hlow

theorem oddAt_none (h : IssuesHaul s i o src dst size stage ln) (hva : 0 < size → o.va % size = 0) (hall : ∀ k, ¬OddElem src o.n size k) :
    o.oddAt = none := by
  obtain ⟨-, hk⟩ | ⟨f, hk, rfl, hsrc⟩ := h.elems
  · exact HaulOp.oddAt_other hk
  · cases hsrc
    exact HaulOp.oddAt_none hk (hva (hredSize_spec f).1) hall

theorem enters (h : IssuesHaul s i o src dst size stage ln) (hc : (s.tile s.here).haulCheck o ln = none) : Machine.exec i s = s.haulEnter o := by
  rw [h.exec, State.haulIssue, hc]

end IssuesHaul

section queue
variable {s : State} {u : Nat} {i : Instr} {o : HaulOp} (hw : s.turn = .tile u 8) (he : exec i s = s.haulEnter o)
include hw he

/-- The hart goes on past an instruction that changes its tile and no agent of it. -/
theorem haulEnter_waits (hq : 16 ≤ (s.tile u).haulQ.length) : Waits i s .queue := by
  have hu : s.here = u := by rw [State.here, hw]
  unfold Waits WaitsIn
  rw [he, State.haulEnter, hu, if_pos hq]
  exact s.waitOn_does .queue

omit he in
theorem completesIn_of_modTile {f : Tile → Tile} (he : exec i s = (s.modTile u f).doneNop) (ha : (f (s.tile u)).cur.agents = (s.tile u).cur.agents)
    (hr : (f (s.tile u)).retired = (s.tile u).retired) : CompletesIn i s s.me.past f := by
  have hme : (s.modTile u f).me = s.me := s.agentOf_modTile ha s.turn
  unfold CompletesIn
  rw [he, State.doneNop, hme]
  exact s.doneIn_does u 8 f s.me hw (congrArg (·[(8 : Fin 10)]) ha) hr

theorem haulEnter_enters (hn : o.n ≠ 0) (hq : (s.tile u).haulQ.length < 16) : CompletesIn i s s.me.past fun tl => tl.enterHaul o := by
  have hu : s.here = u := by rw [State.here, hw]
  refine completesIn_of_modTile hw (he.trans ?_) rfl rfl
  rw [State.haulEnter, hu, if_neg (Nat.not_le.mpr hq), if_neg hn]

theorem haulEnter_empty (hn : o.n = 0) (hq : (s.tile u).haulQ.length < 16) (hsem : (s.tile u).sem o.sem < 65535) :
    CompletesIn i s s.me.past fun tl => tl.setSem o.sem (tl.sem o.sem + 1) := by
  have hu : s.here = u := by rw [State.here, hw]
  refine completesIn_of_modTile hw (he.trans ?_) rfl rfl
  rw [State.haulEnter, hu, if_neg (Nat.not_le.mpr hq), if_pos hn, State.complete, if_neg (Nat.ne_of_lt hsem)]

end queue

section hfence
variable {s : State} {u : Nat} (hw : s.turn = .tile u 8)
include hw

theorem State.hartBusy_haul : s.hartBusy = (!(s.tile u).haulQ.isEmpty || !(s.tile u).haulStore.isEmpty) := by
  rw [State.hartBusy, hw]
  rfl

theorem exec_hfence : exec .hfence s = if s.hartBusy then s.waitOn .drain else s.doneNop := by
  have he : exec .hfence s = execHfence s := rfl
  exact he.trans (State.onHaul_eq ⟨u, hw⟩ ..)

theorem execHfence_idle (hq : (s.tile u).haulQ = []) (hst : (s.tile u).haulStore = []) : exec .hfence s = s.done s.me := by
  rw [exec_hfence hw, State.hartBusy_haul hw, hq, hst]
  rfl

theorem execHfence_busy (h : (s.tile u).haulQ ≠ [] ∨ (s.tile u).haulStore ≠ []) : Waits .hfence s .drain := by
  have hbusy : s.hartBusy = true := by
    rw [State.hartBusy_haul hw]
    simpa only [Bool.or_eq_true, Bool.not_eq_true', List.isEmpty_eq_false_iff] using h
  unfold Waits WaitsIn
  rw [exec_hfence hw, if_pos hbusy]
  exact s.waitOn_does .drain

end hfence

/-- An agent whose queue has a place issues its instruction again (R206, R242, R269). -/
theorem exec_queueFullResume {s : State} {u : Nat} {a : Fin 10} (hwait : (s.agentOf (.tile u a)).st = .wait .queue)
    (hplace : (s.tile u).placeFor a = true) (hn : (s.tile u).node = .run) (hst : (s.tile u).stopping = false) :
    exec (.queueFullResume u a.val) s = .next (s.setAgentOf (.tile u a)
      { s.agentOf (.tile u a) with st := if a.val < 8 then .ready else .run, resuming := true, heldFrom := s.clk }) := by
  have he : exec (.queueFullResume u a.val) s = execQueueFullResume u a.val s := rfl
  rw [he, execQueueFullResume, dif_pos a.isLt]
  exact if_pos ⟨hwait, hplace, hn, hst⟩

/-- Settles O25: the checks of R205 in order decide what the issue of each operation does; `hfence` and the resume end with a context. -/
theorem haulIssueCompletes : Obligations.HaulIssueCompletes := by
  refine ⟨fun s u e a b k hw => ?_, fun s u a hn hst hwait hmat hhaul hshape => ?_⟩
  · intro r va op first issues reduces sa
    have hu : s.here = u := by rw [State.here, hw]
    have hissues {i : Instr} {o : HaulOp} {src dst : Option Rec} {size : Nat} {stage : Bool} {ln : W}
        (h : IssuesHaul s i o src dst size stage ln) (hdst : stage = true → dst = some o.dst) : issues i o src dst size stage ln := by
      unfold issues
      intro odd above out even inside full far
      have hodd (he : even) : o.oddAt = none := h.oddAt_none he.1 he.2
      have hrange (hi : inside) : rangeFault o.reads o.writes = none := by
        rw [h.reads, h.writes]
        exact rangeFault_none fun j hj ha => hi.2 j ⟨hj, ha⟩
      have hstage : stage = true ↔ o.kind = .stage := by rw [h.stages, decide_eq_true_eq]
      have hfull : full ↔ (s.tile s.here).stageFull o := by
        rw [hu]
        exact and_congr_left fun _ => hstage
      have hfar : far ↔ (s.tile s.here).haulFar o := by
        rw [hu]
        refine or_congr ?_ ⟨fun ⟨hs, j, hj, hk⟩ => ⟨hstage.mp hs, ?_⟩, fun ⟨hs, hk⟩ => ⟨hstage.mpr hs, ?_⟩⟩
        · rw [and_iff_left h.sends]
        · rw [h.writes, hdst hs]
          exact (Tile.keptRuns_runsOf ..).mpr ⟨j, hj, hk⟩
        · rw [h.writes, hdst (hstage.mpr hs)] at hk
          exact (Tile.keptRuns_runsOf ..).mp hk
      refine ⟨fun hs hva => h.traps (Tile.haulCheck_odd (h.oddAt_va hs hva)), fun j x hva hx hj => ?_, fun j x he hj hx ha => ?_,
        fun j x he hj hsrc hx => ?_, fun hi hf => ?_, fun hi hf hfr => ?_, fun hi hf hfr => ?_⟩
      · exact h.traps (Tile.haulCheck_odd (h.oddAt_first hva hx hj.1 hj.2))
      · obtain ⟨⟨hjn, -⟩, hlow⟩ := hj
        refine h.traps (Tile.haulCheck_out (hodd he) ?_)
        rw [h.reads, h.writes]
        exact rangeFault_src hjn (fun i hi ha => hlow i hi ⟨by omega, ha⟩) hx ha
      · obtain ⟨⟨hjn, hab⟩, hlow⟩ := hj
        obtain ⟨y, hy, ha⟩ := hab.resolve_left hsrc
        cases hx.symm.trans hy
        refine h.traps (Tile.haulCheck_out (hodd he) ?_)
        rw [h.reads, h.writes]
        exact rangeFault_dst hjn (fun i hi ha => hlow i hi ⟨by omega, ha⟩) hsrc hx ha
      · exact h.traps (Tile.haulCheck_full (hodd hi.1) (hrange hi) (hfull.mp hf))
      · exact h.traps (Tile.haulCheck_far (hodd hi.1) (hrange hi) (mt hfull.mpr hf) (hfar.mp hfr))
      · have henter := h.enters (Tile.haulCheck_passes (hodd hi.1) (hrange hi) (mt hfull.mpr hf) (mt hfar.mpr hfr))
        exact ⟨haulEnter_enters hw henter, haulEnter_empty hw henter, haulEnter_waits hw henter⟩
    have hhaul : s.byHaul := ⟨u, hw⟩
    have hstage : exec (.stage e a b k) s = execStage e a b k s := rfl
    have hcopy : exec (.copy e a k) s = execCopy e a k s := rfl
    have hhld : exec (.hld e a k) s = execHld e a k s := rfl
    have hhst : exec (.hst e a k) s = execHst e a k s := rfl
    have hred {i : Instr} {n size : Nat} (hsize : size = hredSize n) {word : Nat} (he : exec i s = s.hredIssue word n e a k) : reduces i n size :=
      hissues ⟨he.trans (State.onHaul_eq hhaul ..), rfl, rfl, .inr ⟨n, rfl, hsize, rfl⟩, rfl, nofun⟩ nofun
    refine ⟨hissues ⟨hstage.trans (State.onHaul_eq hhaul ..), rfl, rfl, .inl ⟨rfl, nofun⟩, rfl, nofun⟩ fun _ => rfl,
      hissues ⟨hcopy.trans (State.onHaul_eq hhaul ..), rfl, rfl, .inl ⟨rfl, nofun⟩, rfl, nofun⟩ nofun,
      hissues ⟨hhld.trans (State.onHaul_eq hhaul ..), rfl, rfl, .inl ⟨rfl, nofun⟩, rfl, nofun⟩ nofun,
      hissues ⟨hhst.trans (State.onHaul_eq hhaul ..), rfl, rfl, .inl ⟨rfl, nofun⟩, rfl, nofun⟩ nofun,
      hred rfl rfl, hred rfl rfl, hred rfl rfl, hred rfl rfl, hred rfl rfl, hred rfl rfl, hred rfl rfl, hred rfl rfl, hred rfl rfl,
      fun hq hst => completes_of_done (execHfence_idle hw hq hst), fun h => execHfence_busy hw h⟩
  · have hplace : (s.tile u).placeFor a = true := by
      unfold Tile.placeFor
      split
      · next h => exact decide_eq_true (hmat h)
      · next h =>
        split
        · next h8 => exact decide_eq_true (hhaul h8)
        · next h8 => exact decide_eq_true (hshape (by omega))
    exact ⟨_, exec_queueFullResume hwait hplace hn hst, (s.setAgentOf_only (.tile u a) _).1⟩

end Sys2Proof.Machine
end

/-! `gld`: its checks, the page it finds, where it parks, the return of its data (R121, R131, R362, R363). -/
section
namespace Sys2Proof.Machine

/-- The outcome of a translation for a read by the entry that it finds (R362). -/
def Tlbe.readOutcome (e : Tlbe) (va : Nat) : Xlat :=
  if !e.r then .denied else if !e.pres then .unmapped else .ok (e.pa + va % 2 ^ e.bits) e.il

section translation
variable {s : State} {u va : Nat} {e : Tlbe}

/-- A page of the L1 (R363). -/
theorem State.xlat_l1 (h : ((s.tile u).l1.find? fun f => f.hits (s.tile u).space.toNat va) = some e) :
    s.xlat u va false = (e.readOutcome va, s) := by
  rw [State.xlat, State.lookup, h]
  rfl

/-- A page of the LLT is copied into the L1 (R363). -/
theorem State.xlat_llt {k : Nat} (h : ((s.tile u).l1.find? fun f => f.hits (s.tile u).space.toNat va) = none)
    (hl : ((s.die (dieOfTile u)).mc.llt.find? fun q => q.2.hits (s.tile u).space.toNat va) = some (k, e)) :
    s.xlat u va false = (e.readOutcome va, s.modTile u fun tl => tl.fillL1 e) := by
  rw [State.xlat, State.lookup, h, hl]
  rfl

theorem State.xlat_miss (h : ((s.tile u).l1.find? fun f => f.hits (s.tile u).space.toNat va) = none)
    (hl : ((s.die (dieOfTile u)).mc.llt.find? fun q => q.2.hits (s.tile u).space.toNat va) = none) : s.xlat u va false = (.miss, s) := by
  rw [State.xlat, State.lookup, h, hl]

theorem Tlbe.readOutcome_ok (hr : e.r = true) (hp : e.pres = true) : e.readOutcome va = .ok (e.pa + va % 2 ^ e.bits) e.il := by
  rw [Tlbe.readOutcome, hr, hp]
  rfl

theorem Tlbe.readOutcome_denied (hr : e.r = false) : e.readOutcome va = .denied := by
  rw [Tlbe.readOutcome, hr]
  rfl

theorem Tlbe.readOutcome_unmapped (hr : e.r = true) (hp : e.pres = false) : e.readOutcome va = .unmapped := by
  rw [Tlbe.readOutcome, hr, hp]
  rfl

end translation

section gld
variable {s : State} {u : Nat} {me : Fin 10} {d a b : BitVec 5} {z : BitVec 3} (hw : s.turn = .tile u me) (hme : me.val < 8)
include hw hme

/-- What `gld` does behind its checks of the address. -/
theorem exec_gld : exec (.gld d a b z) s =
    if (s.rx a + s.rx b).toNat % (loadType z.toNat).1 ≠ 0 then s.trap 0x03 (s.rx a + s.rx b)
    else if 2 ^ 52 ≤ (s.rx a + s.rx b).toNat then s.trap 0x07 (s.rx a + s.rx b)
    else
      match s.xlat u (s.rx a + s.rx b).toNat false with
      | (.miss, s1) => s1.park 0x06 (s.rx a + s.rx b).toNat
      | (.denied, s1) => s1.trap 0x07 (s.rx a + s.rx b)
      | (.unmapped, s1) => s1.park 0x08 (s.rx a + s.rx b).toNat
      | (.ok pa _, s1) => s1.waitOn (.gld d z.toNat pa) := by
  have he : exec (.gld d a b z) s = execGld d a b z s := rfl
  have hu : s.here = u := by rw [State.here, hw]
  refine (he.trans (State.onWork_eq ⟨u, me, hw, hme⟩ ..)).trans ?_
  rw [hu]
  rfl

variable (h0 : (s.rx a + s.rx b).toNat % (loadType z.toNat).1 = 0) (h1 : (s.rx a + s.rx b).toNat < 2 ^ 52)

omit h1 in
include h0 in
theorem gld_outside (h1 : 2 ^ 52 ≤ (s.rx a + s.rx b).toNat) : Traps (.gld d a b z) s 0x07 (s.rx a + s.rx b) := by
  refine traps_of_trap ?_
  rw [exec_gld hw hme, if_neg (not_not.mpr h0), if_pos h1]

include h0 h1

theorem exec_gld_ok {pa il : Nat} {s1 : State} (hx : s.xlat u (s.rx a + s.rx b).toNat false = (.ok pa il, s1)) :
    exec (.gld d a b z) s = s1.waitOn (.gld d z.toNat pa) := by
  rw [exec_gld hw hme, if_neg (not_not.mpr h0), if_neg (Nat.not_le.mpr h1), hx]

theorem exec_gld_denied {s1 : State} (hx : s.xlat u (s.rx a + s.rx b).toNat false = (.denied, s1)) :
    exec (.gld d a b z) s = s1.trap 0x07 (s.rx a + s.rx b) := by
  rw [exec_gld hw hme, if_neg (not_not.mpr h0), if_neg (Nat.not_le.mpr h1), hx]

theorem exec_gld_unmapped {s1 : State} (hx : s.xlat u (s.rx a + s.rx b).toNat false = (.unmapped, s1)) :
    exec (.gld d a b z) s = s1.park 0x08 (s.rx a + s.rx b).toNat := by
  rw [exec_gld hw hme, if_neg (not_not.mpr h0), if_neg (Nat.not_le.mpr h1), hx]

theorem exec_gld_miss {s1 : State} (hx : s.xlat u (s.rx a + s.rx b).toNat false = (.miss, s1)) :
    exec (.gld d a b z) s = s1.park 0x06 (s.rx a + s.rx b).toNat := by
  rw [exec_gld hw hme, if_neg (not_not.mpr h0), if_neg (Nat.not_le.mpr h1), hx]

end gld

/-- The strand parks at its instruction, and one stop is noted for its record (R121, R371). -/
theorem State.park_does {s : State} {u : Nat} {me : Fin 10} (hw : s.turn = .tile u me) (code : Nat) (va : W) :
    ∃ t, s.park code va.toNat = .next t ∧ t.agentOf s.turn = { s.me with st := .park, causeCode := BitVec.ofNat 8 code, epc := s.me.pc, faddr := va } ∧
      ∃ f, (t.die (dieOfTile u)).mc.stops = (s.die (dieOfTile u)).mc.stops ++ [f] ∧ f.cause = code ∧ f.agent = me.val ∧ f.tile = u ∧
        f.va = va.toNat ∧ f.opId = none := by
  have hpark : s.park code va.toNat = .next ((s.setAgentOf (.tile u me) (s.me.parkOn code va)).addStop u (s.stopOf u code me.val 0 0 va.toNat 0 none)) := by
    rw [State.park, hw, State.setMe, hw, BitVec.ofNat_toNat, BitVec.setWidth_eq]
  refine ⟨_, hpark, ?_, s.stopOf u code me.val 0 0 va.toNat 0 none, ?_, rfl, rfl, rfl, rfl, rfl⟩
  · rw [hw]
    exact (State.agentOf_setAgentOf_self s (.tile u me) (s.me.parkOn code va) :)
  · rw [State.addStop, State.die_modDie, if_pos rfl]
    rfl

/-- No service core waits for a `gld` that comes back: nothing changes (R370). -/
theorem State.gldGone_idle {s : State} {u : Nat} (a : Nat) (h : ∀ (c : Fin 2) l, (s.agentOf (.svc (dieOfTile u) c)).st ≠ .wait (.tlbinv l)) :
    s.gldGone u a = s := by
  refine List.foldlRecOn (motive := fun t => t = s) _ _ rfl fun t ht c _ => ?_
  subst ht
  dsimp only
  split
  · next l hl => exact absurd hl (h c l)
  · rfl

/-- The data of a `gld` that waits reaches its strand (R131). -/
theorem exec_gldDataReturn {s : State} {u p : Nat} {me : Fin 10} {d : BitVec 5} {ty : Nat} (hwait : (s.agentOf (.tile u me)).st = .wait (.gld d ty p))
    (hn : (s.tile u).node = .run) (hst : (s.tile u).stopping = false) (hbad : s.hbmBad (modOfTile u) p (loadType ty).1 = none) :
    exec (.gldDataReturn u me.val) s = .next ((s.finishWait u me ((s.agentOf (.tile u me)).wx d
      (if (loadType ty).2 then BitVec.ofInt 64 (sextNat (8 * (loadType ty).1) (s.hbmNat (modOfTile u) p (loadType ty).1))
        else BitVec.ofNat 64 (s.hbmNat (modOfTile u) p (loadType ty).1)))).gldGone u me.val) := by
  have he : exec (.gldDataReturn u me.val) s = execGldDataReturn u me.val s := rfl
  have hg : ((s.tile u).cur.agents[me]).st = .wait (.gld d ty p) := hwait
  rw [he, execGldDataReturn, dif_pos me.isLt]
  simp only [Fin.eta, hg, hn, hst, hbad, decide_true, Bool.not_true, Bool.or_self, Bool.false_eq_true, if_false]
  rfl

/-- Settles O27: the checks and the translation of `gld` by their cases; the strand that gets its data ends its wait. -/
theorem gldCompletes : Obligations.GldCompletes := by
  intro s u me d a b z e hw hme _ n va hit pa on parked
  refine ⟨fun h => ?_, fun h0 h1 => gld_outside hw hme h0 h1, fun h0 h1 => ⟨fun hl hr hp => ?_, fun hl hllt hr hp => ?_, fun hl hr => ?_,
    fun hl hr hp => ?_, fun hl hllt => ?_⟩, fun p hwait hn hst hbad hno => ?_⟩
  · refine traps_of_trap ?_
    rw [exec_gld hw hme]
    exact if_pos h
  · have hx := State.xlat_l1 hl
    rw [Tlbe.readOutcome_ok hr hp] at hx
    unfold Waits WaitsIn
    rw [exec_gld_ok hw hme h0 h1 hx]
    exact s.waitOn_does _
  · obtain ⟨k, hk⟩ := hllt
    have hx := State.xlat_llt hl hk
    rw [Tlbe.readOutcome_ok hr hp] at hx
    unfold WaitsIn
    rw [exec_gld_ok hw hme h0 h1 hx]
    exact s.waitIn_does u me (fun tl => tl.fillL1 e) _ hw rfl rfl
  · have hx := State.xlat_l1 hl
    rw [Tlbe.readOutcome_denied hr] at hx
    exact traps_of_trap (exec_gld_denied hw hme h0 h1 hx)
  · have hx := State.xlat_l1 hl
    rw [Tlbe.readOutcome_unmapped hr hp] at hx
    rw [exec_gld_unmapped hw hme h0 h1 hx]
    exact State.park_does hw _ va
  · rw [exec_gld_miss hw hme h0 h1 (State.xlat_miss hl hllt)]
    exact State.park_does hw _ va
  · intro v x
    have honly := s.finishWait_only u me ((s.agentOf (.tile u me)).wx d x)
    have hidle : (s.finishWait u me ((s.agentOf (.tile u me)).wx d x)).gldGone u me.val = s.finishWait u me ((s.agentOf (.tile u me)).wx d x) :=
      State.gldGone_idle me.val hno
    have hwake : wakeState me = .ready := if_pos hme
    have hctx : ((s.agentOf (.tile u me)).wx d x).awake me s.clk = { ((s.agentOf (.tile u me)).wx d x).past with st := .ready, heldFrom := s.clk } := by
      rw [Agent.awake, hwake]
    exact ⟨_, (exec_gldDataReturn hwait hn hst hbad).trans (congrArg _ hidle), hctx ▸ honly⟩

end Sys2Proof.Machine
end

/-! ## Close arrivals and the reduction of their operands (R168, R169, R172, R173) -/

section
namespace Sys2Proof.Machine

/-! ### The seven operators -/

theorem redOp_min_toInt (x y : W) : (redOp 1 x y).toInt = min x.toInt y.toInt := by
  rw [min_comm, min_def_lt]
  exact apply_ite BitVec.toInt (y.toInt < x.toInt) y x

theorem redOp_max_toInt (x y : W) : (redOp 2 x y).toInt = max x.toInt y.toInt := by
  rw [max_def_lt]
  exact apply_ite BitVec.toInt (x.toInt < y.toInt) y x

theorem redOp_max_toNat (x y : W) : (redOp 3 x y).toNat = max x.toNat y.toNat := by
  rw [max_def_lt]
  exact apply_ite BitVec.toNat (x.toNat < y.toNat) y x

/-- What makes a reduction independent of the order of arrival: `f` is commutative and associative, and `e` changes nothing. -/
structure OrderFree (f : W → W → W) (e : W) : Prop where
  comm : ∀ x y, f x y = f y x
  assoc : ∀ x y z, f (f x y) z = f x (f y z)
  ident : ∀ x, f e x = x

/-- An operator that an injective reading of the patterns turns into a commutative and associative one. -/
theorem OrderFree.of_reading {α : Type} {f : W → W → W} {e : W} (m : α → α → α) [Std.Commutative m] [Std.Associative m] {g : W → α}
    (hg : g.Injective) (hf : ∀ x y, g (f x y) = m (g x) (g y)) (he : ∀ x, m (g e) (g x) = g x) : OrderFree f e where
  comm x y := hg (by rw [hf, hf, Std.Commutative.comm (op := m)])
  assoc x y z := hg (by rw [hf, hf, hf, hf, Std.Associative.assoc (op := m)])
  ident x := hg ((hf e x).trans (he x))

theorem toInt_injective : (BitVec.toInt : W → Int).Injective := fun _ _ => BitVec.eq_of_toInt_eq

theorem toNat_injective : (BitVec.toNat : W → Nat).Injective := fun _ _ => BitVec.eq_of_toNat_eq

theorem redOp_orderFree {o : Nat} (h : o < 7) : OrderFree (redOp o) (redIdentity o) := by
  obtain rfl | rfl | rfl | rfl | rfl | rfl | rfl : o = 0 ∨ o = 1 ∨ o = 2 ∨ o = 3 ∨ o = 4 ∨ o = 5 ∨ o = 6 := by omega
  · exact ⟨BitVec.add_comm, BitVec.add_assoc, BitVec.zero_add⟩
  · exact .of_reading min toInt_injective redOp_min_toInt fun x => min_eq_right (Int.le_of_lt_add_one x.toInt_lt)
  · exact .of_reading max toInt_injective redOp_max_toInt fun x => max_eq_right x.le_toInt
  · exact .of_reading max toNat_injective redOp_max_toNat fun x => max_eq_right x.toNat.zero_le
  · exact ⟨BitVec.and_comm, BitVec.and_assoc, fun x => BitVec.allOnes_and⟩
  · exact ⟨BitVec.or_comm, BitVec.or_assoc, fun x => BitVec.zero_or⟩
  · exact ⟨BitVec.xor_comm, BitVec.xor_assoc, fun x => BitVec.zero_xor⟩

/-! ### The cause of the vote -/

/-- The cause of an abort is one of the causes, and none of them ranks before it (R168). -/
theorem firstCause_ranks_first {l : List Nat} (h : l ≠ []) : firstCause l ∈ l ∧ ∀ c ∈ l, causeRank (firstCause l) ≤ causeRank c := by
  induction l with
  | nil => exact absurd rfl h
  | cons c l ih =>
    rcases eq_or_ne l [] with rfl | hl
    · exact ⟨List.mem_singleton_self c, fun d hd => (List.mem_singleton.mp hd) ▸ Nat.le_refl _⟩
    · obtain ⟨hmem, hmin⟩ := ih hl
      have hne : l.isEmpty = false := List.isEmpty_eq_false_iff.mpr hl
      by_cases hc : causeRank c ≤ causeRank (firstCause l)
      · have hfirst : firstCause (c :: l) = c := by simp [firstCause, hc]
        rw [hfirst]
        refine ⟨List.mem_cons_self, fun d hd => ?_⟩
        rcases List.mem_cons.mp hd with rfl | hd
        · exact Nat.le_refl _
        · exact hc.trans (hmin d hd)
      · have hfirst : firstCause (c :: l) = firstCause l := by simp [firstCause, hc, hne]
        rw [hfirst]
        refine ⟨List.mem_cons_of_mem c hmem, fun d hd => ?_⟩
        rcases List.mem_cons.mp hd with rfl | hd
        · exact (Nat.lt_of_not_le hc).le
        · exact hmin d hd

/-- A cause still pending for an agent that has synced or halted is among the causes of its tile (R120; DEDUCED,
notes/assumptions/55.md). -/
theorem Tile.pending_mem_causes {tl : Tile} {a : Fin 10} {q : Pending} (hst : (tl.cur.agents[a]).st = .synced ∨ (tl.cur.agents[a]).st = .halt)
    (hq : (tl.cur.agents[a]).deferred = some q) : q.code ∈ tl.causes := by
  have hagent : tl.cur.agents[a] ∈ tl.cur.agents.toList := by simp
  have hpending : q.code ∈ tl.cur.agents.toList.filterMap
      fun g => if g.st = .halt ∨ g.st = .synced then g.deferred.map fun p => p.code else none :=
    List.mem_filterMap.mpr ⟨_, hagent, by rw [if_pos hst.symm, hq]; rfl⟩
  exact List.mem_append_left _ (List.mem_append_right _ hpending)

/-! ### The packet -/

theorem Tile.closeUp_abort_iff (tl : Tile) (u n : Nat) : (tl.closeUp u n).abort = true ↔ tl.causes ≠ [] := by
  simp [Tile.closeUp]

theorem Tile.closeUp_cause {tl : Tile} {u n : Nat} (h : (tl.closeUp u n).abort = true) :
    (tl.closeUp u n).cause ∈ tl.causes ∧ ∀ c ∈ tl.causes, causeRank (tl.closeUp u n).cause ≤ causeRank c :=
  firstCause_ranks_first ((tl.closeUp_abort_iff u n).mp h)

theorem Tile.closeUp_noSync {tl : Tile} (u n : Nat) (h : tl.syncs = []) : (tl.closeUp u n).op = none ∧ (tl.closeUp u n).operand = 0 := by
  simp [Tile.closeUp, h, redIdentity]

theorem Tile.closeUp_syncs {tl : Tile} (u n : Nat) {x : SyncArg} {l : List SyncArg} (h : tl.syncs = x :: l) :
    (tl.closeUp u n).op = some x.op ∧
      (tl.closeUp u n).operand = (x :: l).foldl (fun v y => redOp x.op v y.operand) (redIdentity x.op) := by
  simp [Tile.closeUp, h]

/-! ### The step -/

/-- `b` is `s` once tile `u` has arrived, but for what it gave up of its Firefly commands: nothing has been sent yet. -/
structure State.Arrived (s b : State) (u : Nat) : Prop where
  up : b.up = s.up
  tile : b.tile u = { s.tile u with node := .arrived }
  others : ∀ w, w ≠ u → b.tile w = s.tile w
  module : ∀ m, b.module m = s.module m

theorem State.arrived_setTile (s : State) (u : Nat) : s.Arrived (s.setTile u { s.tile u with node := .arrived }) u where
  up := rfl
  tile := s.tile_setTile_self u _
  others _ hw := s.tile_setTile_ne _ hw
  module _ := rfl

theorem State.Arrived.dropFf {s b : State} {u : Nat} (h : s.Arrived b u) : s.Arrived (b.dropFf u) u := { h with }

section arrival
variable {s : State} {u : Nat} {r : Region} (hr : s.regionOf u = some r) (hn : (s.tile u).node = .run)
include hr hn

theorem exec_tileCloseArrival_waits (hst : (s.tile u).stopping = false) (h : (s.tile u).mayArrive = false ∨ s.ffBusy u = true) :
    exec (.tileCloseArrival u) s = .next s := by
  have he : exec (.tileCloseArrival u) s = execTileCloseArrival u s := rfl
  have hnot : ((s.tile u).mayArrive && !s.ffBusy u) = false := by
    rcases h with h | h <;> simp [h]
  simp [he, execTileCloseArrival, hr, hn, hst, hnot]

theorem exec_tileCloseArrival_sends (h : (s.tile u).stopping = true ∨ ((s.tile u).mayArrive = true ∧ s.ffBusy u = false)) :
    ∃ b, s.Arrived b u ∧ exec (.tileCloseArrival u) s = .next (b.sendUp u r ((s.tile u).closeUp u r.serial)) := by
  have he : exec (.tileCloseArrival u) s = execTileCloseArrival u s := rfl
  by_cases hst : (s.tile u).stopping = true
  · exact ⟨_, (s.arrived_setTile u).dropFf, by simp [he, execTileCloseArrival, hr, hn, hst]⟩
  · obtain ⟨hmay, hff⟩ := h.resolve_left hst
    exact ⟨_, s.arrived_setTile u, by simp [he, execTileCloseArrival, hr, hn, hst, hmay, hff]⟩

end arrival

/-- Nothing leaves a module that has tripped (R425). -/
theorem State.sendUp_notAlive {s : State} {u : Nat} {r : Region} (h : (s.module (modOfTile u)).alive = false) (q : Up) : s.sendUp u r q = s :=
  if_pos h

/-- Settles O37: the step by its branches, the packet field by field, and the operators through their readings as integers. -/
theorem closeArrivalReduces : Obligations.CloseArrivalReduces := by
  refine ⟨fun s u r hr hn h1 => ⟨fun h ha => ?_, fun h ha => ?_, fun a q => Tile.pending_mem_causes, exec_tileCloseArrival_waits hr hn⟩,
    fun o x y z ho => ?_⟩
  · obtain ⟨b, hb, hsend⟩ := exec_tileCloseArrival_sends hr hn h
    rw [State.sendUp_eq h1 ((congrArg Module.alive (hb.module _)).trans ha)] at hsend
    exact ⟨_, _, hsend, congrArg (· ++ _) hb.up, hb.tile, hb.others, rfl, rfl, rfl, rfl, rfl, rfl, Tile.closeUp_abort_iff .., Tile.closeUp_cause,
      Tile.closeUp_noSync u r.serial, fun _ _ => Tile.closeUp_syncs u r.serial⟩
  · obtain ⟨b, hb, hsend⟩ := exec_tileCloseArrival_sends hr hn h
    rw [State.sendUp_notAlive ((congrArg Module.alive (hb.module _)).trans ha)] at hsend
    exact ⟨_, hsend, hb.up⟩
  · have hfree := redOp_orderFree ho
    exact ⟨hfree.comm x y, hfree.assoc x y z, hfree.ident x, rfl, redOp_min_toInt x y, redOp_max_toInt x y, redOp_max_toNat x y, rfl, rfl, rfl⟩

end Sys2Proof.Machine
end
